-- ==== Sys2Proof/Word.lean ====
section
/-! DEFINITION. The words of the device: 32-bit register words and bytes, and the plainest arithmetic on them. -/

namespace Sys2Proof

/-- A register word: registers are 32-bit and little-endian (R544). -/
abbrev Word := BitVec 32

/-- A byte of a frame, a cell or a flash. -/
abbrev Byte := BitVec 8

/-- A word from a number, reduced modulo 2^32. -/
abbrev Word.ofNat (n : Nat) : Word := BitVec.ofNat 32 n

end Sys2Proof
end

