-- ==== Sys2Proof/Machine/Crc.lean ====
section
/-! DEFINITION. The cyclic redundancy checks that the spec gives: CRC-64 of the output digest (R472), CRC-32C (R283), the
CRC-32 of link packets (R15) and the CRC-16 of the PHR (R145). -/

namespace Sys2Proof.Machine

/-- One bit into an `n`-bit register that shifts left. -/
def crcShift (n poly reg : Nat) (b : Bool) : Nat :=
  let fb := (reg.testBit (n - 1)) != b
  let r := reg * 2 % 2 ^ n
  if fb then r ^^^ poly else r

/-- The eight bits of a byte, bit 0 first. -/
def byteBits (x : Nat) : List Bool := (List.range 8).map (fun i => x.testBit i)

/-- The eight bits of a byte, bit 7 first. -/
def byteBitsMsb (x : Nat) : List Bool := (List.range 8).map (fun i => x.testBit (7 - i))

/-- The low `n` bits of a number in reverse order. -/
def revBits (n x : Nat) : Nat := (List.range n).foldl (fun a i => if x.testBit i then a + 2 ^ (n - 1 - i) else a) 0

/-- A number's `n` bytes, least significant first. -/
def leBytes (n x : Nat) : List Nat := (List.range n).map (fun i => x / 2 ^ (8 * i) % 256)

/-- The number whose little-endian bytes are given, the first in bits 7:0. -/
def leNat (l : List Nat) : Nat := l.foldr (fun x n => x % 256 + 256 * n) 0

/-- Numbers as bytes, eight each. -/
def numBytes (l : List Nat) : List Nat := l.flatMap (leBytes 8)

/-- CRC-64 of R472: polynomial 0x42F0_E1EB_A9EA_3693, initial value and final XOR all ones, fed bit 0 first. -/
def crc64 (bytes : List Nat) : Nat :=
  ((bytes.flatMap byteBits).foldl (crcShift 64 0x42F0E1EBA9EA3693) (2 ^ 64 - 1)) ^^^ (2 ^ 64 - 1)

/-- CRC-32C of R283: polynomial 0x1EDC_6F41, input and output reflected, initial value and final XOR all ones. -/
def crc32c (bytes : List Nat) : Nat :=
  (revBits 32 ((bytes.flatMap byteBits).foldl (crcShift 32 0x1EDC6F41) (2 ^ 32 - 1))) ^^^ (2 ^ 32 - 1)

/-- CRC-32 of R15: polynomial 0x04C1_1DB7 as in IEEE 802.3, initial value all ones, final complement. -/
def crc32 (bytes : List Nat) : Nat :=
  (revBits 32 ((bytes.flatMap byteBits).foldl (crcShift 32 0x04C11DB7) (2 ^ 32 - 1))) ^^^ (2 ^ 32 - 1)

end Sys2Proof.Machine
end

