-- ==== Sys2Proof/Machine/Types.lean ====
section
/-! DEFINITION. The data that moves through the device: addresses, IEEE 802.15.4 frames and IPv6 packets as their standards
read them (R5), the metadata word of a reception (R120), the work descriptor (R337) and the events of queue 128.  Frames and
packets are held by their decoded fields; the bytes that spell them are `psduBytes`. -/

namespace Sys2Proof.Machine

/-- An IEEE 802.15.4 address: absent, a short address, or an EUI-64 ordered as R279 orders it. -/
inductive Addr where
  | none
  | short (a : Nat)
  | ext (eui : Nat)
deriving DecidableEq, Repr

/-- An IPv6 address: 64-bit prefix and interface identifier (R300). -/
structure Ip6 where
  pfx : Nat
  iid : Nat
deriving DecidableEq, Repr

/-- An RFC 6554 source-routing header (R303). -/
structure RouteHdr where
  segLeft : Nat
  cmpr : Nat
  hdrExtLen : Nat
  addrs : List Ip6
deriving DecidableEq, Repr

/-- An IPv6 header with what extends it (RFC 8200): traffic class, flow label, hop limit, addresses, extension headers by their protocol
number (0 hop-by-hop, 44 fragment, 60 destination options, 43 a routing header of another type) with the bytes after their length, and an
RFC 6554 routing header. -/
structure Layer where
  src : Ip6
  dst : Ip6
  hopLimit : Nat
  tc : Nat
  flow : Nat
  exts : List (Nat × List Nat)
  rh : Option RouteHdr
deriving DecidableEq, Repr

/-- An IPv6 packet: its outermost header, the headers encapsulated in it from the outside in (R303), and the innermost payload: its
protocol number, the ICMPv6 type when that is ICMPv6, ports and checksum when it is UDP, and the bytes that follow. -/
structure Packet where
  src : Ip6
  dst : Ip6
  hopLimit : Nat
  tc : Nat := 0
  flow : Nat := 0
  exts : List (Nat × List Nat) := []
  rh : Option RouteHdr
  inner : List Layer
  proto : Nat := 59
  icmpType : Option Nat
  udpSrc : Nat := 0
  udpDst : Option Nat
  csum : Nat := 0
  data : List Nat
deriving DecidableEq, Repr

/-- The outermost header of a packet. -/
def Packet.outer (p : Packet) : Layer := ⟨p.src, p.dst, p.hopLimit, p.tc, p.flow, p.exts, p.rh⟩

/-- All the headers of a packet, from the outside in. -/
def Packet.layers (p : Packet) : List Layer := p.outer :: p.inner

/-- An IEEE 802.15.4-2020 frame by its fields (R245–R248).  `ftype` is the standard's frame type code (0 beacon, 1 data,
2 acknowledgment, 3 MAC command), `version` 2 is 0b10; `secLevel` 0 is unsecured; `tsync` and `join` the ASN and join metric of a TSCH
Synchronization IE; `tcIe` the Time Correction IE in µs; `vendor` the content of a Vendor Specific Header IE of the device's organisation;
`ies` every other information element, a header IE (false) or a payload IE (true) with its number and content; `pies` whether encrypted
payload IEs open the payload; `payload` the bytes of the payload, encrypted ones as they are on air until CCM_OPEN; `fcs4` an FCS of four
bytes; `len` the PSDU bytes; `unsealed` a downlink that still waits for its frame counter (R265). -/
structure Frame where
  ftype : Nat
  version : Nat
  fcsOk : Bool
  fcs4 : Bool := true
  seqNo : Nat
  ackReq : Bool
  dstPan : Option Nat
  dst : Addr
  src : Addr
  secLevel : Nat
  keyMode : Nat
  keyIndex : Nat
  fc : Nat
  tsync : Option Nat
  join : Nat := 0
  tcIe : Option Int
  vendor : List Nat
  ies : List (Bool × Nat × List Nat) := []
  pies : Bool := false
  payload : List Nat
  len : Nat
  mic : Nat
  unsealed : Bool := false
deriving DecidableEq, Repr

/-- The metadata word of a reception (R120), by its fields. -/
structure Meta where
  tsOff : Nat
  asnLo : Nat
  len : Nat
  pers : Nat
  profile : Nat
  fec : Nat
  win : Nat
  bin : Nat
  hyp : Nat
  aerial : Nat
  lane : Nat
  rssi : Int
  snr : Nat
  corr : Nat
  cfo : Int
  clip : Bool
  gainStep : Bool
  refSwitch : Bool
  forked : Bool
  restarted : Bool
  errOnly : Bool
deriving DecidableEq, Repr

/-- The work descriptor of R337, by its fields. -/
structure Desc where
  station : Nat
  prio : Nat
  flow : Nat
  cell : Nat
  len : Nat
  node : Nat
  port : Nat
  flags : Nat
  stamp : Nat
deriving DecidableEq, Repr

/-- Halyard's FLAGS bit 0: the item is on the downlink path (R337). -/
def Desc.down (d : Desc) : Bool := d.flags % 2 = 1
/-- FLAGS bit 1: the item is not serialised by flow (R337). -/
def Desc.noflow (d : Desc) : Bool := d.flags / 2 % 2 = 1

/-- The idle descriptor of R328: STATION 0xFF and every other field 0. -/
def Desc.idle : Desc := ⟨0xFF, 0, 0, 0, 0, 0, 0, 0, 0⟩
/-- The all-zero descriptor that a requester that has never popped receives (R329). -/
def Desc.zero : Desc := ⟨0, 0, 0, 0, 0, 0, 0, 0, 0⟩

/-- Bits 127:64 of a descriptor (R337). -/
def Desc.hi (d : Desc) : Nat :=
  d.station % 256 * 2 ^ 56 + d.prio % 16 * 2 ^ 52 + d.flow % 1024 * 2 ^ 42 + d.cell % 2 ^ 17 * 2 ^ 25
    + d.len % 2048 * 2 ^ 14 + d.node % 2 ^ 20 / 2 ^ 6
/-- Bits 63:0 of a descriptor (R337). -/
def Desc.lo (d : Desc) : Nat :=
  d.node % 2 ^ 6 * 2 ^ 58 + d.port % 16 * 2 ^ 54 + d.flags % 64 * 2 ^ 48 + d.stamp % 2 ^ 48
/-- The 16 bytes of a descriptor, byte 0 in bits 7:0. -/
def Desc.bytes (d : Desc) : List Nat := leBytes 8 d.lo ++ leBytes 8 d.hi
/-- The descriptor spelt by bits 127:64 and 63:0 (R337). -/
def Desc.ofBits (hi lo : Nat) : Desc :=
  { station := hi / 2 ^ 56 % 256, prio := hi / 2 ^ 52 % 16, flow := hi / 2 ^ 42 % 1024, cell := hi / 2 ^ 25 % 2 ^ 17,
    len := hi / 2 ^ 14 % 2048, node := hi % 2 ^ 14 * 2 ^ 6 + lo / 2 ^ 58 % 2 ^ 6, port := lo / 2 ^ 54 % 16,
    flags := lo / 2 ^ 48 % 64, stamp := lo % 2 ^ 48 }

/-- NODE of an item that names no node (R337). -/
def noNode : Nat := 0xFFFFF

/-- Why the mast defers, refuses or drops a frame, or reports an event: the reasons the chapters name. -/
inductive Reason where
  | launchLate | carrierBusy | noPort | linkInvalid | driftHold | channelInvalid | shaped | dwellLimit | fifoOver
  | profileInvalid | fcWait | fcExhausted | ackPending | chainFull | noAck | noParent | routeLoop | routeLong | noNode
  | hopLimit | txReport (code : Nat) | none
deriving DecidableEq, Repr

/-- An event report placed in event queue 128, with its node or other index and the bytes its rule gives. -/
inductive EventKind where
  | dlDropped (r : Reason) | nodeLost | nodeFound | nodeAged | routeFail (r : Reason) | fifoOver | fcExhausted | linkInvalid
  | beaconGap | launchDeferred (r : Reason) | txDone | advice | ptpTx | keyBad | campaign (code : Nat) | laneStarved
  | tickFreerun | other (code : Nat)
deriving DecidableEq, Repr

/-- One event report. -/
structure Event where
  kind : EventKind
  index : Nat
  bytes : List Nat
deriving DecidableEq, Repr

/-- An Ethernet frame as the partner ports read it (R574–R582): addresses, VLAN tag (VID, PCP), EtherType, length from the destination
address through the FCS, its IPv6 packet and that packet's bytes, the bytes after the EtherType, and the NET seconds and ns of a PTP
event message's trailer (R580). -/
structure EthFrame where
  dst : Nat
  src : Nat
  vlan : Option (Nat × Nat)
  etherType : Nat
  len : Nat
  fcsOk : Bool
  pkt : Option Packet
  ipLen : Nat
  data : List Nat
  stamp : Option (Nat × Nat)
deriving DecidableEq, Repr

/-- What an item's cells hold. -/
inductive Body where
  | empty
  | up (m : Meta) (sail : Nat) (f : Frame)
  | packet (p : Packet) (up : Option (Meta × Nat × Frame))
  | down (f : Frame)
  | ether (e : EthFrame)
  | event (e : Event)
  | snap (seq asn : Nat)
  | bytes (b : List Nat)
deriving DecidableEq, Repr

/-- What crosses the mast–mast connection for an Ethernet port of the jury (R12, R577, R578, R581): an accepted ingress frame with the
station its port gives it to and its ingress time, an egress frame of a class, or the record of a PTP event message. -/
inductive Relay where
  | ingress (port station : Nat) (raw : Bool) (e : EthFrame) (stamp : Nat)
  | egress (port cls len n : Nat) (b : Body)
  | ptp (bytes : List Nat)
deriving DecidableEq, Repr

/-- A sample, I and Q. -/
abbrev Iq := Int × Int

/-- What a lane has of a preamble when its end is found (R156, R195, R196): the samples of an OFDM STF at the lane rate, or the discriminator
outputs of an MR-FSK preamble in 10 Hz. -/
inductive PreIn where
  | stf (samples : List Iq)
  | fsk (disc : List Int)
deriving DecidableEq, Repr

/-- What a lane has of an LTF (R157, R195): the 160 samples of a Cleura OFDM LTF after correction of the coarse offset, or the metrics of the
hypotheses −41.67, 0 and +41.67 kHz for MR-OFDM, none where none is accepted. -/
inductive LtfIn where
  | cleura (samples : List Iq)
  | ofdm (metrics : List Int)
deriving DecidableEq, Repr

/-- What a lane has of a PHR when its last sample is in (R147, R192): the 320 samples of a Cleura OFDM PHR, or the result
of the standard's PHR decoding for MR-OFDM and MR-FSK, with the modulation index of an MR-FSK frame (`half` for h = 0.5, R200). -/
inductive PhrIn where
  | cleura (samples : List Iq)
  | ofdm (hcsOk : Bool) (rate len : Nat)
  | fsk (ms fcs4 dw half : Bool) (len : Nat)
deriving DecidableEq, Repr

/-- What a lane has of a frame when its tracking is judged (R162): the samples of the symbols of its PHR or of its data so far, or for MR-OFDM the
tracked offset in 10 Hz. -/
inductive TrackIn where
  | cleura (samples : List Iq)
  | ofdm (cfo : Int)
deriving DecidableEq, Repr

/-- What a lane has of the data of a frame when its last sample is in: the samples of a Cleura OFDM frame's data symbols, 80 each; for a SUN
frame the bytes that the standard's decoder gives, the SNR of R200 (0.25 dB) and the tracked offset (10 Hz). -/
inductive RxBody where
  | cleura (samples : List Iq)
  | sun (psdu : List Nat) (snr : Nat) (cfo : Int)
deriving DecidableEq, Repr

/-- What a lane hands on with a frame (R120): its data, RSSI (0.25 dB), and whether a clipped sample fell in it (R75). -/
structure RxObs where
  body : RxBody
  rssi : Int
  clip : Bool
deriving DecidableEq, Repr

/-- What the modulator of a SUN frame latches (R201): personality, rate code, INTLV, TX_SCRAM, preamble octets, SFD_SEL, FEC_SCHEME, FEC_INTLV and
MOD_IDX. -/
structure SunTx where
  pers : Nat
  rate : Nat
  intlv : Nat
  scram : Nat
  preamble : Nat
  sfd : Nat
  scheme : Nat
  fecIntlv : Nat
  modIdx : Nat
deriving DecidableEq, Repr

/-- What the two ADCs of a sail saw in a slot (R75, R78, R81): clipped samples per aerial, those among them that fell under
transmit blanking, and peaks (0.25 dBFS). -/
structure AdcSlot where
  clipA : Nat
  clipB : Nat
  maskA : Nat
  maskB : Nat
  peakA : Int
  peakB : Int
deriving DecidableEq, Repr

end Sys2Proof.Machine
end

