-- ==== Sys2Proof/Config.lean ====
section
/-! DEFINITION. The constants an implementation fixes and the values the spec leaves open (free values: no body, so that no proof can see them);
of the published standards that the spec names without restating them (R5), the waveforms of IEEE 802.15.4 alone.  Each is `opaque`. -/

namespace Sys2Proof.Config

open Sys2Proof.Machine

/-- The `n`-th free value: what the spec leaves undefined where the device goes on (log entry 2). -/
opaque freeValue : Nat → Nat

/-- The security level (1–3 or 5–7) at which CCM_SEAL seals data frames, which the spec does not state (R265, log entry 2). -/
opaque downlinkLevel : Nat

/-- PRIO of the items that ports and rings give to their stations, which the spec does not state (R337, log entry 2). -/
opaque portPrio : Nat

/-- A quotient by 0 in the arithmetic of a Cleura OFDM lane, where the spec states no value (log entry 160). -/
opaque overZero : Rat → Rat

/-- The angle of the number 0, as a part of a turn (log entry 160). -/
opaque zeroTurn : Rat

/-- g_fit(p) of R163 from the values of g at the six pilots, at pilot subcarrier `k`: the spec does not state the fit (log entry 160). -/
opaque pilotFit : (g : List (Rat × Rat)) → (k : Int) → Rat × Rat

/-- The sampling offset in ppm that a lane estimates from the phase slope across its pilots (R161), from the pilot values of its symbols, latest
first: the spec does not state the estimator (log entry 160). -/
opaque samplingOffset : List (List (Rat × Rat)) → Rat

/-- Where in the raised cosine of R167 sample `i` of an overlap of `w` samples lies, in 2^-16 of the overlap: the spec does not state it
(log entry 160). -/
opaque rampPlace : (w i : Nat) → Nat

/-- The samples at its lane rate of a SUN frame (R194, R201) of IEEE 802.15.4-2020, from what its modulator latched and its PSDU (log entry 12). -/
opaque sunSamples : SunTx → (psdu : List Nat) → List (Int × Int)

/-- How a software job's input behind its additional data splits into text and tag (R428, R454): only mode 8 takes its tag from CRYPTO.TAG, and the
spec does not say where a CCM* or GCM decryption takes its own (log entry 174). -/
opaque jobSplit : (tagLen : Nat) → (input tagRegs : List Nat) → List Nat × List Nat

/-- The bytes of a software job's output item from its additional data, its text and, after an encryption, its tag: the spec does not say how
they lie in it (R428, log entry 174). -/
opaque jobOutput : (aad text tag : List Nat) → List Nat

/-- The silicon revision that OTP holds (R565). -/
opaque chipRev : Nat

/-- Aedman's manufacturer identity in OTP (R654). -/
opaque makerId : Nat

/-- What the fitted flash answers to a JEDEC ID read (R631). -/
opaque jedecId : Nat

end Sys2Proof.Config
end

