-- ==== Sys2Proof/Machine/Coding.lean ====
section
/-! DEFINITION. Block coding of Cleura OFDM: the Reed–Solomon code, segmentation, interleaving, scrambling, slot order, erasure
marks and decoding modes (R174–R187), the PHR (R145–R147), loading profiles (R137, R149), and the duration and sample count
of every personality (R148, R194, R202). -/

namespace Sys2Proof.Machine

/-! ## GF(2^8) (R174) -/

/-- Multiply by α = 0x02 modulo 0x11D. -/
def gfDouble (a : Nat) : Nat := if a < 128 then 2 * a else (2 * a) ^^^ 0x11D

/-- Product in GF(2^8): the eight bits of `b`, highest first. -/
def gfMul (a b : Nat) : Nat :=
  (List.range 8).foldl (fun acc i => if b.testBit (7 - i) then gfDouble acc ^^^ a else gfDouble acc) 0

/-- Power in GF(2^8). -/
def gfPow (a : Nat) : Nat → Nat
  | 0 => 1
  | n + 1 => gfMul a (gfPow a n)

/-- Inverse in GF(2^8): a^254. -/
def gfInv (a : Nat) : Nat :=
  let a2 := gfMul a a
  let a4 := gfMul a2 a2
  let a8 := gfMul a4 a4
  let a16 := gfMul a8 a8
  let a32 := gfMul a16 a16
  let a64 := gfMul a32 a32
  let a128 := gfMul a64 a64
  gfMul a128 (gfMul a64 (gfMul a32 (gfMul a16 (gfMul a8 (gfMul a4 a2)))))

/-- Value of a polynomial, highest coefficient first. -/
def polyEval (p : List Nat) (x : Nat) : Nat := p.foldl (fun acc c => gfMul acc x ^^^ c) 0

/-- Value of a polynomial, lowest coefficient first. -/
def polyEvalLow (p : List Nat) (x : Nat) : Nat := polyEval p.reverse x

/-- Sum of polynomials, lowest coefficient first. -/
def polyAdd : List Nat → List Nat → List Nat
  | [], q => q
  | p, [] => p
  | a :: p, b :: q => (a ^^^ b) :: polyAdd p q

/-- Scale a polynomial. -/
def polyScale (c : Nat) (p : List Nat) : List Nat := p.map (gfMul c)

/-- Product of polynomials, lowest coefficient first. -/
def polyMul : List Nat → List Nat → List Nat
  | [], _ => []
  | a :: p, q => polyAdd (polyScale a q) (0 :: polyMul p q)

/-- The generator polynomial g(x) of R174 with `r` = 2t roots, lowest coefficient first. -/
def rsGen : Nat → List Nat
  | 0 => [1]
  | r + 1 => polyMul [gfPow 2 r, 1] (rsGen r)

/-- The parity of R175: the remainder of m(x)·x^r by g(x), highest degree first. -/
def rsParity (r : Nat) (msg : List Nat) : List Nat :=
  let g := (rsGen r).reverse.drop 1
  msg.foldl (fun reg b =>
    let fb := b ^^^ reg.headD 0
    ((reg.drop 1 ++ [0]).zip g).map (fun (x : Nat × Nat) => x.1 ^^^ gfMul fb x.2)) (List.replicate r 0)

/-- The systematic codeword of R175. -/
def rsEncode (t : Nat) (msg : List Nat) : List Nat := msg ++ rsParity (2 * t) msg

/-- Syndromes of a received word. -/
def rsSyndromes (r : Nat) (w : List Nat) : List Nat := (List.range r).map (fun i => polyEval w (gfPow 2 i))

/-- State of the Berlekamp–Massey iteration: locator, previous locator, its length, gap and previous discrepancy. -/
structure Bm where
  c : List Nat
  b : List Nat
  l : Nat
  gap : Nat
  d : Nat

/-- One step of Berlekamp–Massey over syndromes `s`, at index `n`, with `e` erasures. -/
def bmStep (s : List Nat) (e : Nat) (x : Bm) (n : Nat) : Bm :=
  let d := (List.range (x.l + 1)).foldl (fun a i => a ^^^ gfMul (x.c.getD i 0) (s.getD (n - i) 0)) 0
  if d = 0 then { x with gap := x.gap + 1 }
  else
    let c1 := polyAdd x.c (List.replicate x.gap 0 ++ polyScale (gfMul d (gfInv x.d)) x.b)
    if 2 * x.l ≤ n + e then ⟨c1, x.c, n + 1 + e - x.l, 1, d⟩ else { x with c := c1, gap := x.gap + 1 }

/-- The errors-and-erasures locator of a received word with erasures at positions `er` (0 the first byte of `n`). -/
def rsLocator (r n : Nat) (s : List Nat) (er : List Nat) : List Nat × Nat :=
  let g := er.foldl (fun a p => polyMul a [1, gfPow 2 (n - 1 - p)]) [1]
  let e := er.length
  let x := (List.range (r - e)).foldl (fun x i => bmStep s e x (e + i)) ⟨g, g, e, 1, 1⟩
  (x.c, x.l)

/-- What decoding a codeword gives (R185): none when uncorrectable, else the corrected word. -/
def rsDecode (t : Nat) (w : List Nat) (er : List Nat) : Option (List Nat) :=
  let r := 2 * t
  let n := w.length
  let s := rsSyndromes r w
  if s.all (fun x => x == 0) then some w
  else
    let lo := rsLocator r n s er
    let loc := lo.1
    let deg := lo.2
    let roots := (List.range n).filter (fun p => polyEvalLow loc (gfInv (gfPow 2 (n - 1 - p))) == 0)
    let v := deg - er.length
    if 2 * v + er.length ≤ r ∧ roots.length = deg then
      let om := (polyMul s loc).take r
      let dl := (List.range (loc.length - 1)).map (fun i => if i % 2 = 0 then loc.getD (i + 1) 0 else 0)
      let fix := w.zipIdx.map (fun x =>
        if roots.contains x.2 then
          let xi := gfInv (gfPow 2 (n - 1 - x.2))
          x.1 ^^^ gfMul (gfPow 2 (n - 1 - x.2)) (gfMul (polyEvalLow om xi) (gfInv (polyEvalLow dl xi)))
        else x.1)
      if (rsSyndromes r fix).all (fun x => x == 0) then some fix else none
    else none

/-- The errors-only decoder of the BCH(255, 131) code with t = 18 (R414): the 131 message bits of a block and the bits it changed; none when it
fails.  The code's roots are α^1 … α^36, so a block times α^j at the coefficient of x^j is a Reed–Solomon word of 36 parity symbols.  The field,
and bit 0 as the coefficient of x^254 with the message first, are the model's (log entry 174). -/
def bchDecode (block : Nat) : Option (Nat × Nat) :=
  let place (i : Nat) : Nat := gfPow 2 (254 - i)
  match rsDecode 18 ((List.range 255).map (fun i => if block.testBit i then place i else 0)) [] with
  | none => none
  | some w =>
    if w.zipIdx.all (fun x => x.1 == 0 || x.1 == place x.2) then
      some (w.zipIdx.foldl (fun a x => if x.1 ≠ 0 ∧ x.2 < 131 then a + 2 ^ x.2 else a) 0,
        (w.zipIdx.filter (fun x => (x.1 != 0) != block.testBit x.2)).length)
    else none

/-! ## Segmentation, interleaving, scrambling and slots (R176–R180) -/

/-- t of a PHR FEC field (R145). -/
def fecT (f : Nat) : Nat := if f = 0 then 4 else if f = 1 then 8 else 16

/-- The number K of codewords of a PSDU of `len` bytes (R176). -/
def codewords (len t : Nat) : Nat := (len + (255 - 2 * t) - 1) / (255 - 2 * t)

/-- Data bytes of each codeword (R176). -/
def segments (len t : Nat) : List Nat :=
  let k := codewords len t
  (List.range k).map (fun j => len / k + if j < len % k then 1 else 0)

/-- Coded bits C of R148. -/
def codedBits (len t : Nat) : Nat := 8 * (len + 2 * t * codewords len t)

/-- For each byte of the interleaved stream, its codeword and its place in it (R177). -/
def columns (lens : List Nat) : List (Nat × Nat) :=
  (List.range (lens.headD 0)).flatMap (fun i =>
    (List.range lens.length).filterMap (fun j => if i < lens.getD j 0 then some (j, i) else none))

/-- The scrambler of R179: `n` outputs from state `s`. -/
def scramble : Nat → Nat → List Bool
  | 0, _ => []
  | n + 1, s =>
    let o := s.testBit 14 != s.testBit 13
    o :: scramble n ((2 * s + if o then 1 else 0) % 2 ^ 15)

/-- The scrambler's state for a PHR SEED (R179). -/
def seedState (seed : Nat) : Nat := seed * 2 ^ 11 ||| 0x555

/-- Bits of a loading code (R137); reserved codes carry none. -/
def codeBits (c : Nat) : Nat :=
  match c with
  | 1 => 1 | 2 => 2 | 3 => 4 | 4 => 6 | 5 => 8
  | _ => 0

/-- Code `d` of a profile entry (R172). -/
def profCode (e d : Nat) : Nat := e / 2 ^ (3 * d) % 8

/-- B of a profile entry (R148, R152). -/
def profBits (e : Nat) : Nat := (List.range 46).foldl (fun a d => a + codeBits (profCode e d)) 0

/-- VALID of a profile entry (R172). -/
def profValid (e : Nat) : Bool := e.testBit 159

/-- An entry whose code is `c` everywhere. -/
def profAll (c : Nat) : Nat := (List.range 46).foldl (fun a d => a + c * 2 ^ (3 * d)) (2 ^ 159)

/-- An entry with `outer` codes on the `w` data subcarriers at either edge and `inner` codes elsewhere. -/
def profEdge (w outer inner : Nat) : Nat :=
  (List.range 46).foldl (fun a d => a + (if d < w ∨ 46 - w ≤ d then outer else inner) * 2 ^ (3 * d)) (2 ^ 159)

/-- The fixed profiles 0–7 (R149); entries 8–255 are not valid at reset (R150). -/
def profReset (p : Nat) : Nat :=
  match p with
  | 0 => profAll 2 | 1 => profAll 1 | 2 => profAll 3 | 3 => profAll 4 | 4 => profAll 5
  | 5 => profEdge 4 1 2 | 6 => profEdge 7 2 3 | 7 => profEdge 7 3 4
  | _ => 0

/-- The subcarriers that carry the bits of one data symbol, bit by bit (R180). -/
def slotBits (e : Nat) : List Nat :=
  (List.range 46).flatMap (fun j => List.replicate (codeBits (profCode e (11 * j % 46))) (11 * j % 46))

/-- N data symbols of a frame of `len` bytes (R148); none are counted for a profile without bits. -/
def dataSymbols (e len t : Nat) : Nat :=
  let b := profBits e
  if b = 0 then 0 else (codedBits len t + b - 1) / b

/-! ## Erasure marking and modes (R182–R187) -/

/-- What decoding the codewords of a frame did (R186, R187, R190). -/
structure FecResult where
  data : List Nat
  failCw : Option Nat
  clean : Nat
  corrected : Nat
  eraseMode : Nat
  fallback : Nat
  erasuresUsed : Nat
  bytesChanged : Nat
  corr : Nat
  errOnly : Bool
  maxErase : Nat
deriving DecidableEq, Repr

/-- Nothing decoded yet. -/
def FecResult.start : FecResult := ⟨[], none, 0, 0, 0, 0, 0, 0, 0, false, 0⟩

/-- Decode one codeword `w` of `k` data bytes with marks `er` (R184, R185, R187); later codewords are not decoded after an
uncorrectable one (R186). -/
def decodeCw (t : Nat) (eraseEn : Bool) (x : FecResult) (j : Nat) (w er : List Nat) (k : Nat) : FecResult :=
  match x.failCw with
  | some _ => x
  | none =>
    let e := er.length
    let only := !eraseEn || decide (3 * t / 2 < e)
    let y := { x with
      eraseMode := x.eraseMode + if only = false ∧ 0 < e then 1 else 0,
      fallback := x.fallback + if eraseEn ∧ 3 * t / 2 < e then 1 else 0,
      erasuresUsed := x.erasuresUsed + if only then 0 else e,
      maxErase := max x.maxErase e }
    match rsDecode t w (if only then [] else er) with
    | none => { y with failCw := some j }
    | some v =>
      let changed := (w.zip v).zipIdx.filter (fun z => z.1.1 != z.1.2)
      let unmarked := (changed.filter (fun z => !er.contains z.2)).length
      { y with
        data := y.data ++ v.take k,
        clean := y.clean + if changed = [] then 1 else 0,
        corrected := y.corrected + if changed = [] then 0 else 1,
        bytesChanged := y.bytesChanged + changed.length,
        corr := y.corr + if only then changed.length else unmarked + e,
        errOnly := y.errOnly || (only && decide (0 < e)) }

/-- Bytes from bits, bit 0 of each byte first. -/
def bytesOfBits : Nat → List Bool → List Nat
  | 0, _ => []
  | n + 1, bits => (bits.take 8).zipIdx.foldl (fun a x => if x.1 then a + 2 ^ x.2 else a) 0 :: bytesOfBits n (bits.drop 8)

/-- Decode a frame (R176–R187) from the received bits of its data symbols, with the marked subcarriers of each symbol. -/
def decodeFrame (e len t seed : Nat) (eraseEn : Bool) (bits : List Bool) (marked : List (List Nat)) : FecResult :=
  let c := codedBits len t
  let plain := ((bits.zip (scramble bits.length (seedState seed))).map (fun x => x.1 != x.2)).take c
  let where_ := (marked.flatMap (fun ms => (slotBits e).map (fun d => ms.contains d))).take c
  let stream := bytesOfBits (c / 8) plain
  let marks := (List.range (c / 8)).map (fun p => ((where_.drop (8 * p)).take 8).any id)
  let ks := segments len t
  let cols := (columns (ks.map (fun k => k + 2 * t))).zip (stream.zip marks)
  (List.range ks.length).foldl (fun x j =>
    let mine := cols.filter (fun z => z.1.1 == j)
    decodeCw t eraseEn x j (mine.map (fun z => z.2.1)) ((mine.filter (fun z => z.2.2)).map (fun z => z.1.2)) (ks.getD j 0)) FecResult.start

/-! ## The PHR (R145–R147) -/

/-- CRC-16 of the PHR (R146): polynomial 0x1021, initial value 0xFFFF, each byte bit 0 first, not complemented. -/
def crc16 (bytes : List Nat) : Nat := (bytes.flatMap byteBits).foldl (crcShift 16 0x1021) 0xFFFF

/-- The fields of a PHR (R145). -/
structure Phr where
  length : Nat
  profile : Nat
  fec : Nat
  seed : Nat
  version : Nat
deriving DecidableEq, Repr

/-- The fields spelt by the four information bytes (R145). -/
def Phr.ofBytes (b : List Nat) : Phr :=
  let w := b.getD 0 0 + 256 * b.getD 1 0 + 65536 * b.getD 2 0 + 16777216 * b.getD 3 0
  ⟨w % 2 ^ 11, w / 2 ^ 11 % 256, w / 2 ^ 19 % 4, w / 2 ^ 21 % 16, w / 2 ^ 25 % 8⟩

/-- The ten PHR bytes of four information bytes (R146): CRC-16, then Reed–Solomon with t = 2. -/
def phrEncode (info : List Nat) : List Nat := rsEncode 2 (info ++ leBytes 2 (crc16 info))

/-! ## Duration and samples (R148, R194, R202) -/

/-- Whether a personality code is MR-OFDM (R191). -/
def isOfdm (pers : Nat) : Bool := 1 ≤ pers && pers ≤ 4
/-- Whether a personality code is MR-FSK (R191). -/
def isFsk (pers : Nat) : Bool := 5 ≤ pers && pers ≤ 7

/-- Symbols of the PHR and PSDU of a coded MR-FSK frame (R191, R202): the 16 bits of the PHR, the PSDU, 3 tail bits and 5 or 13 pad bits, which
fill whole blocks of 16, at code rate 1/2 (IEEE 802.15.4-2020, as log entry 174 recalls it). -/
def fskCodedSymbols (len : Nat) : Nat := 2 * (16 + 8 * len + 3 + if len % 2 = 1 then 5 else 13)

/-- Symbols of an MR-FSK frame: preamble octets, SFD, PHR and PSDU (R196, R200, R257). -/
def fskSymbols (rate len pre : Nat) : Nat := 8 * pre + 16 + if rate % 2 = 0 then 16 + 8 * len else fskCodedSymbols len

/-- The kb/s of an MR-OFDM option and MCS (R191); 0 where it names none. -/
def ofdmRate (o mcs : Nat) : Nat :=
  (match o with
    | 1 => [100, 200, 400, 800, 1200, 1600]
    | 2 => [50, 100, 200, 400, 600, 800, 1200]
    | 3 => [0, 50, 100, 200, 300, 400, 600]
    | 4 => [0, 0, 50, 100, 150, 200, 300]
    | _ => []).getD mcs 0

/-- The air time in µs of an MR-OFDM frame (R191, R194): symbols of 120 µs, four of STF, two of LTF, the PHR's 36 bits at the option's lowest rate,
and the PSDU with 6 tail bits at the rate of its MCS (IEEE 802.15.4-2020, as log entry 174 recalls it). -/
def ofdmAirUs (o mcs len : Nat) : Nat :=
  let bits := ofdmRate o mcs * 12 / 100
  120 * (6 + (if o = 1 then 3 else 6) + (8 * len + 6 + bits - 1) / max 1 bits)

/-- Symbol rate of an MR-FSK personality in kilobaud. -/
def fskBaud (pers : Nat) : Nat := if pers = 5 then 50 else if pers = 6 then 100 else 150

/-- The air time of a frame in µs, rounded up: personality, profile entry (Cleura OFDM) or rate code, FEC field, PSDU bytes and
MR-FSK preamble octets. -/
def airTime (pers prof rate fec len pre : Nat) : Nat :=
  if pers = 0 then 920 + 100 * dataSymbols prof len (fecT fec)
  else if isOfdm pers then ofdmAirUs pers (rate % 8) len
  else (fskSymbols rate len pre * 1000 + fskBaud pers - 1) / fskBaud pers

/-- The samples of a frame at its lane rate (R202). -/
def airSamples (pers prof rate fec len pre : Nat) : Nat :=
  if pers = 0 then (airTime pers prof rate fec len pre * 8 + 9) / 10
  else if pers = 1 then (airTime pers prof rate fec len pre * 4 + 2) / 3
  else if pers = 2 then (airTime pers prof rate fec len pre * 2 + 2) / 3
  else if pers = 3 then (airTime pers prof rate fec len pre + 2) / 3
  else if pers = 4 then (airTime pers prof rate fec len pre + 5) / 6
  else 8 * fskSymbols rate len pre

/-- MCS values that R191 supports for MR-OFDM option `o`. -/
def mcsSupported (o mcs : Nat) : Bool :=
  match o with
  | 1 => mcs ≤ 5
  | 2 => mcs ≤ 6
  | 3 => 1 ≤ mcs && mcs ≤ 6
  | 4 => 2 ≤ mcs && mcs ≤ 6
  | _ => false

end Sys2Proof.Machine
end

