-- ==== Sys2Proof/Machine/Cx.lean ====
section
/-! DEFINITION. Complex numbers of the OFDM waveform and the real functions that R134–R167 take of them: square roots, angles, sines and
decibels.  Rounding that the spec does not state is that of log entry 160. -/

namespace Sys2Proof.Machine

/-- A complex number. -/
structure Cx where
  re : Rat
  im : Rat
deriving DecidableEq, Repr

/-- The number 0. -/
def Cx.zero : Cx := ⟨0, 0⟩
/-- A real number. -/
def Cx.real (r : Rat) : Cx := ⟨r, 0⟩
/-- Sum. -/
def Cx.add (a b : Cx) : Cx := ⟨a.re + b.re, a.im + b.im⟩
/-- Difference. -/
def Cx.sub (a b : Cx) : Cx := ⟨a.re - b.re, a.im - b.im⟩
/-- Product. -/
def Cx.mul (a b : Cx) : Cx := ⟨a.re * b.re - a.im * b.im, a.re * b.im + a.im * b.re⟩
/-- Conjugate. -/
def Cx.conj (a : Cx) : Cx := ⟨a.re, -a.im⟩
/-- Product with a real number. -/
def Cx.scale (r : Rat) (a : Cx) : Cx := ⟨r * a.re, r * a.im⟩
/-- |a|². -/
def Cx.normSq (a : Cx) : Rat := a.re * a.re + a.im * a.im
/-- Sum of a list. -/
def Cx.sum (l : List Cx) : Cx := l.foldl Cx.add Cx.zero

/-- A quotient; one by 0 is free (log entry 160). -/
def ratio (a b : Rat) : Rat := if b = 0 then Config.overZero a else a / b

/-- Quotient of complex numbers. -/
def Cx.div (a b : Cx) : Cx :=
  let p := a.mul b.conj
  ⟨ratio p.re b.normSq, ratio p.im b.normSq⟩

/-- Mean of a list of numbers; that of none is 0. -/
def meanOf (l : List Rat) : Rat := if l = [] then 0 else l.foldl (· + ·) 0 / (l.length : Nat)

/-- The greatest number whose square is at most `n`, from its bits, highest first. -/
def isqrt (n : Nat) : Nat :=
  (List.range (n.log2 / 2 + 1)).reverse.foldl (fun r i => if (r + 2 ^ i) * (r + 2 ^ i) ≤ n then r + 2 ^ i else r) 0

/-- Square root, to 2^-48. -/
def sqrtRat (x : Rat) : Rat := mkRat (isqrt (x.num.toNat * 2 ^ 96 / x.den)) (2 ^ 48)

/-- |a|. -/
def Cx.abs (a : Cx) : Rat := sqrtRat a.normSq

/-- 2π in 2^-60 radians. -/
def twoPi : Nat := 7244019458077122842

/-- Cosine and sine of `x` (2^-60 rad), in 2^-60: terms of their series up to x^63. -/
def cosSin (x : Int) : Int × Int :=
  let r := (List.range 64).foldl (fun (a : Int × Int × Int) n =>
    let c := if n % 4 = 0 then a.1 + a.2.2 else if n % 4 = 2 then a.1 - a.2.2 else a.1
    let s := if n % 4 = 1 then a.2.1 + a.2.2 else if n % 4 = 3 then a.2.1 - a.2.2 else a.2.1
    (c, s, a.2.2 * x / ((n + 1 : Nat) * (2 ^ 60 : Int)))) (0, 0, 2 ^ 60)
  (r.1, r.2.1)

/-- cos(2π·i/64) in 2^-60 for i from 0 to 16, nearest values. -/
def quarterWave : List Nat :=
  [1152921504606846976, 1147369872436662991, 1130768441178740757, 1103277091691359535, 1065160580698383124, 1016785991037278313,
   958619196450722178, 891220374967787610, 815238614083298888, 731405659690429196, 640528868967736374, 543483435088187080,
   441203958630471860, 334675446864527722, 224923827593068887, 113006068906017470, 0]

/-- e^{j2π·a/64}, in 2^-60, from the quarter wave. -/
def root64 (a : Nat) : Iq :=
  let c : Int := quarterWave.getD (a % 16) 0
  let s : Int := quarterWave.getD (16 - a % 16) 0
  match a / 16 % 4 with
  | 0 => (c, s)
  | 1 => (-s, c)
  | 2 => (-c, -s)
  | _ => (s, -c)

/-- e^{j2π·a/b}, in 2^-60. -/
def unitRoot (a : Int) (b : Nat) : Iq :=
  if b = 64 then root64 (a % 64).toNat else cosSin ((a % (b : Int)) * (twoPi : Int) / (b : Int))

/-- The arc tangent of y/x for 0 ≤ y ≤ x, in 2^-60 rad, by Euler's series. -/
def atanUnit (y x : Nat) : Nat :=
  let d := x * x + y * y
  let w := y * y * 2 ^ 60 / d
  ((List.range 64).foldl (fun (a : Nat × Nat) n => (a.1 + a.2, a.2 * w * (2 * n + 2) / ((2 * n + 3) * 2 ^ 60))) (0, y * x * 2 ^ 60 / d)).1

/-- The angle of a number as a part of a turn, from −1/2 to 1/2; that of 0 is free (log entry 160). -/
def Cx.turn (z : Cx) : Rat :=
  let x := z.re.num.natAbs * z.im.den
  let y := z.im.num.natAbs * z.re.den
  if x = 0 ∧ y = 0 then Config.zeroTurn
  else
    let a := mkRat (if y ≤ x then atanUnit y x else twoPi / 4 - atanUnit x y) twoPi
    let h := if z.re < 0 then 1 / 2 - a else a
    if z.im < 0 then -h else h

/-- Whether 10·log10 x is at least `q` quarters of a decibel: exact. -/
def dbGe (x : Rat) (q : Int) : Bool :=
  if x.num ≤ 0 then false
  else if 0 ≤ q then decide (10 ^ q.toNat * x.den ^ 40 ≤ x.num.toNat ^ 40) else decide (x.den ^ 40 ≤ x.num.toNat ^ 40 * 10 ^ (-q).toNat)

/-- Whether 10·log10 x, rounded to the nearest quarter of a decibel, is at least `q` quarters. -/
def dbNear (x : Rat) (q : Int) : Bool := dbGe (x * x) (2 * q - 1)

/-- 10·log10 x in quarters of a decibel, rounded to the nearest, within `lo` and `lo + n`: its bits above `lo`, highest first. -/
def quarterDb (lo : Int) (n : Nat) (x : Rat) : Int :=
  lo + ((List.range (n.log2 + 1)).reverse.foldl (fun a i => if a + 2 ^ i ≤ n ∧ dbNear x (lo + Int.ofNat (a + 2 ^ i)) then a + 2 ^ i else a) 0 : Nat)

/-- The whole number nearest to `x`, halves upward. -/
def roundRat (x : Rat) : Int := (x + 1 / 2).floor

end Sys2Proof.Machine
end

