-- ==== Sys2Proof/Machine/Ofdm.lean ====
section
/-! DEFINITION. The Cleura OFDM waveform and a lane's reception of it: numerology and subcarrier map (R134–R136), constellations (R137, R138),
the frame's fields (R140–R146), windowing (R167), and acquisition, tracking and reliability (R156–R163). -/

namespace Sys2Proof.Machine

/-! ## Numerology and subcarriers (R134–R136) -/

/-- Sample rate of a Cleura OFDM lane in Hz (R134). -/
def cleuraRate : Nat := 800000
/-- FFT size. -/
def fftSize : Nat := 64
/-- Subcarrier spacing in Hz. -/
def toneHz : Nat := cleuraRate / fftSize
/-- Samples of the cyclic prefix. -/
def cpLen : Nat := 16
/-- Samples of a symbol. -/
def symLen : Nat := cpLen + fftSize

/-- What a subcarrier is used for (R135). -/
inductive Tone where
  | null
  | pilot
  | data
  | guard
deriving DecidableEq, Repr

/-- The use of subcarrier `k`, −32 to +31 (R135). -/
def tone (k : Int) : Tone :=
  if k = 0 then .null else if k < -26 ∨ 26 < k then .guard else if k.natAbs % 8 = 4 then .pilot else .data

/-- Subcarrier indices in increasing order. -/
def toneRange : List Int := (List.range 64).map (fun (i : Nat) => Int.ofNat i - 32)
/-- The 46 data subcarriers in increasing order (R136). -/
def dataTones : List Int := toneRange.filter (fun k => tone k == .data)
/-- The six pilots. -/
def pilotTones : List Int := toneRange.filter (fun k => tone k == .pilot)
/-- The 52 used subcarriers (R142). -/
def usedTones : List Int := toneRange.filter (fun k => tone k == .data || tone k == .pilot)

/-- k(d): the subcarrier of data subcarrier `d` (R136). -/
def dataTone (d : Nat) : Int := dataTones.getD d 0
/-- The place of subcarrier `k` among those of `l`. -/
def toneIndex (l : List Int) (k : Int) : Nat := l.findIdx (fun x => x == k)

/-! ## Constellations (R137, R138) -/

/-- The modulation that a loading code names (R137). -/
inductive Modulation where
  | null
  | bpsk
  | qpsk
  | qam16
  | qam64
  | qam256
  | reserved
deriving DecidableEq, Repr

/-- The modulation of a code. -/
def modulation (c : Nat) : Modulation :=
  match c with
  | 0 => .null | 1 => .bpsk | 2 => .qpsk | 3 => .qam16 | 4 => .qam64 | 5 => .qam256
  | _ => .reserved

/-- 1/K² of a code (R137). -/
def normK (c : Nat) : Nat :=
  match c with
  | 1 => 1 | 2 => 2 | 3 => 10 | 4 => 42 | 5 => 170
  | _ => 1

/-- The Gray rule of R138 for bits in order, first bit first. -/
def grayLevel (g : List Bool) : Int :=
  let r := g.foldl (fun (a : Nat × Bool) b => (2 * a.1 + (if (a.2 != b) then 1 else 0), a.2 != b)) (0, false)
  2 * (r.1 : Int) - (2 ^ g.length - 1)

/-- The bits that `grayLevel` maps to level `v` of `n` bits. -/
def grayBits (n : Nat) (v : Int) : List Bool :=
  let i := ((v + (2 ^ n - 1)) / 2).toNat
  (List.range n).map (fun x => i.testBit (n - 1 - x) != (decide (x ≠ 0) && i.testBit (n - x)))

/-- I and Q of a subcarrier before the scale K (R138): its bits in order, one for BPSK. -/
def pointOf (bits : List Bool) : Int × Int :=
  match bits with
  | [] => (0, 0)
  | [b] => (if b then 1 else -1, 0)
  | bs => (grayLevel (bs.take (bs.length / 2)), grayLevel (bs.drop (bs.length / 2)))

/-- K of a code. -/
def scaleK (c : Nat) : Rat := sqrtRat (mkRat 1 (normK c))

/-- The value of a subcarrier of code `c` (R138). -/
def symbolValue (c : Nat) (bits : List Bool) : Cx := Cx.scale (scaleK c) ⟨(pointOf bits).1, (pointOf bits).2⟩

/-- The level of a constellation of `n` bits an axis that lies nearest to `v`: odd, from −(2^n − 1) to 2^n − 1. -/
def nearLevel (n : Nat) (v : Rat) : Int := max (1 - 2 ^ n) (min (2 ^ n - 1) (2 * (v / 2).floor + 1))

/-- The nearest point of a code to an equalised value in units of K: its bits and |y − ŝ|²/K² (R182). -/
def slicePoint (c : Nat) (y : Cx) : List Bool × Rat :=
  let v := y.scale (sqrtRat (normK c : Nat))
  if c = 1 then
    let l := nearLevel 1 v.re
    ([decide (0 < l)], (v.sub ⟨l, 0⟩).normSq)
  else
    let n := codeBits c / 2
    let i := nearLevel n v.re
    let q := nearLevel n v.im
    (grayBits n i ++ grayBits n q, (v.sub ⟨i, q⟩).normSq)

/-! ## Pilots and training values (R141–R144) -/

/-- The generator of R143: `n` outputs from state `s`. -/
def lfsr9 : Nat → Nat → List Bool
  | 0, _ => []
  | n + 1, s =>
    let o := s.testBit 8 != s.testBit 4
    o :: lfsr9 n ((2 * s + if o then 1 else 0) % 2 ^ 9)

/-- Output `n` of the generator from a seed. -/
def lfsrAt (seed n : Nat) : Bool := (lfsr9 (n + 1) seed).getD n false

/-- pol(k) of R144. -/
def polarity (k : Int) : Int := if k = -12 ∨ k = 20 then -1 else 1

/-- The pilot value P at position `k` of the symbol counted `n` from the first PHR symbol (R144). -/
def pilotValue (k : Int) (n : Nat) : Rat := 4 / 3 * (polarity k : Int) * (if lfsrAt 0x1FF n then -1 else 1)

/-- The spectrum of a symbol: a value for each subcarrier index. -/
abbrev Spectrum := Int → Cx

/-- The STF's spectrum (R141). -/
def stfSpectrum : Spectrum := fun k =>
  if k ∈ ([-24, -16, -4, 12, 16, 20, 24] : List Int) then Cx.scale (sqrtRat (170 / 72)) ⟨1, 1⟩
  else if k ∈ ([-20, -12, -8, 4, 8] : List Int) then Cx.scale (sqrtRat (170 / 72)) ⟨-1, -1⟩
  else Cx.zero

/-- The scale √(170/156) of the LTF. -/
def ltfScale : Rat := sqrtRat (170 / 156)

/-- The sign 1 − 2·q[i] of used subcarrier `k` in the LTF (R142). -/
def ltfSign (k : Int) : Int := if lfsrAt 0x0AA (toneIndex usedTones k) then -1 else 1

/-- L(k) of R142, the LTF's spectrum. -/
def ltfSpectrum : Spectrum := fun k => if k ∈ usedTones then Cx.real (ltfScale * (ltfSign k : Int)) else Cx.zero

/-- The spectrum of a symbol with given data values, counted `n` from the first PHR symbol. -/
def symbolSpectrum (n : Nat) (data : Nat → Cx) : Spectrum := fun k =>
  match tone k with
  | .data => data (toneIndex dataTones k)
  | .pilot => Cx.real (pilotValue k n)
  | _ => Cx.zero

/-! ## The PHR (R145, R146) -/

/-- The PHR word of a frame (R145): VERSION 0. -/
def phrWord (len profile fec seed : Nat) : Nat := len % 2 ^ 11 + profile % 256 * 2 ^ 11 + fec % 4 * 2 ^ 19 + seed % 16 * 2 ^ 21

/-- The 92 bits of a PHR (R146): ten bytes, bit 0 first, and twelve bits of 0. -/
def phrBits (word : Nat) : List Bool := (phrEncode (leBytes 4 word)).flatMap byteBits ++ List.replicate 12 false

/-- The data values of PHR symbol `j` (R146): each bit on d = i and, with its sign rule, on d = i + 23. -/
def phrData (bits : List Bool) (j d : Nat) : Cx :=
  let i := d % 23
  let b := bits.getD (23 * j + i) false
  symbolValue 1 [if d < 23 then b else b != decide (i % 2 = 1)]

/-! ## The coded bits of a frame (R175–R181) -/

/-- The codewords of a PSDU (R175, R176). -/
def frameCodewords (t : Nat) (psdu : List Nat) : List (List Nat) :=
  ((segments psdu.length t).foldl (fun (a : List (List Nat) × List Nat) n => (a.1 ++ [rsEncode t (a.2.take n)], a.2.drop n)) ([], psdu)).1

/-- The interleaved byte stream of codewords (R177). -/
def interleaved (cws : List (List Nat)) : List Nat := (columns (cws.map List.length)).map (fun x => (cws.getD x.1 []).getD x.2 0)

/-- The scrambled bits of the data symbols of a frame on profile entry `e` (R178, R179): coded bits, then pad bits of 0. -/
def frameBits (e t seed : Nat) (psdu : List Nat) : List Bool :=
  let coded := (interleaved (frameCodewords t psdu)).flatMap byteBits
  let n := dataSymbols e psdu.length t * profBits e
  let all := coded ++ List.replicate (n - coded.length) false
  (all.zip (scramble n (seedState seed))).map (fun x => x.1 != x.2)

/-- The bits that data subcarrier `d` takes of a symbol's bits (R180). -/
def slotTake (e : Nat) (bits : List Bool) (d : Nat) : List Bool := ((slotBits e).zip bits).filterMap (fun x => if x.1 = d then some x.2 else none)

/-- The data values of data symbol `n`. -/
def dataValues (e : Nat) (bits : List Bool) (n d : Nat) : Cx :=
  symbolValue (profCode e d) (slotTake e ((bits.drop (n * profBits e)).take (profBits e)) d)

/-! ## The frame in time (R140–R142, R167) -/

/-- Sample `n` of the 64-point inverse FFT of a spectrum. -/
def ifftAt (x : Spectrum) (n : Nat) : Cx :=
  Cx.scale (mkRat 1 (2 ^ 60 * 64)) (Cx.sum (toneRange.map (fun k =>
    let r := unitRoot (k * n) 64
    (x k).mul ⟨r.1, r.2⟩)))

/-- A field: the samples of its IFFT, and which of them are sent, in order. -/
structure Field where
  wave : List Cx
  order : List Nat
deriving DecidableEq, Repr

/-- The field of a spectrum. -/
def Field.of (x : Spectrum) (order : List Nat) : Field := ⟨(List.range 64).map (ifftAt x), order⟩

/-- Samples `a` to `b` − 1. -/
def upTo (a b : Nat) : List Nat := (List.range (b - a)).map (fun i => a + i)

/-- The STF: 256 samples (R141). -/
def stfField : Field := Field.of stfSpectrum (upTo 48 64 ++ upTo 0 64 ++ upTo 0 64 ++ upTo 0 64 ++ upTo 0 48)
/-- The LTF: 160 samples (R142). -/
def ltfField : Field := Field.of ltfSpectrum (upTo 32 64 ++ upTo 0 64 ++ upTo 0 64)
/-- A symbol: its cyclic prefix, then its 64 samples (R134). -/
def symField (x : Spectrum) : Field := Field.of x (upTo 48 64 ++ upTo 0 64)

/-- The samples of a field. -/
def Field.samples (f : Field) : List Cx := f.order.map (fun i => f.wave.getD i Cx.zero)

/-- Sample `i` of a field's periodic waveform after its last sample. -/
def Field.after (f : Field) (i : Nat) : Cx := f.wave.getD ((f.order.getLastD 0 + 1 + i) % 64) Cx.zero

/-- The weight of the later symbol at sample `i` of an overlap of `w` samples: a raised cosine (R167). -/
def rampWeight (w i : Nat) : Rat := (1 - mkRat (unitRoot (Config.rampPlace w i : Nat) (2 ^ 17)).1 (2 ^ 60)) / 2

/-- Overlap effective for WIN_LEN: values above 8 act as 8 (R170). -/
def overlapOf (winLen : Nat) : Nat := min winLen 8

/-- The samples of fields sent without gaps, each boundary shaped by an overlap of `w` samples inside the cyclic prefix (R140, R167). -/
def shaped (w : Nat) : Option Field → List Field → List Cx
  | _, [] => []
  | prev, f :: fs =>
    (match prev with
      | none => f.samples
      | some p => f.samples.zipIdx.map (fun x =>
        if x.2 < w then (x.1.scale (rampWeight w x.2)).add ((p.after x.2).scale (1 - rampWeight w x.2)) else x.1)) ++ shaped w (some f) fs

/-- The fields of a frame in order (R140). -/
def frameFields (e word : Nat) (bits : List Bool) (n : Nat) : List Field :=
  stfField :: ltfField :: ((List.range 4).map (fun j => symField (symbolSpectrum j (phrData (phrBits word) j)))
    ++ (List.range n).map (fun i => symField (symbolSpectrum (i + 4) (dataValues e bits i))))

/-- The samples of a Cleura OFDM frame (R140–R146, R167, R175–R181): profile entry and its number, FEC field, SEED, WIN_LEN and PSDU. -/
def cleuraSamples (e profile fec seed winLen : Nat) (psdu : List Nat) : List Cx :=
  shaped (overlapOf winLen) none (frameFields e (phrWord psdu.length profile fec seed) (frameBits e (fecT fec) seed psdu)
    (dataSymbols e psdu.length (fecT fec)))

/-! ## Acquisition (R156, R157, R160) -/

/-- Autocorrelation of samples at a lag. -/
def autocorr (lag : Nat) (x : List Iq) : Cx :=
  Cx.sum ((x.zip (x.drop lag)).map (fun z => (Cx.mk z.2.1 z.2.2).mul (Cx.mk z.1.1 z.1.2).conj))

/-- Samples of the STF period at a lane's rate (R156, R194, R195): 20 µs of Cleura OFDM, 24 µs of MR-OFDM. -/
def stfLag (pers : Nat) : Nat := match pers with
  | 0 => 16 | 1 => 32 | 2 => 16 | 3 => 8
  | _ => 4

/-- One turn of the STF's autocorrelation, in 10 Hz: 50 kHz for Cleura OFDM, 41.67 kHz for MR-OFDM (R156, R195). -/
def stfTurn (pers : Nat) : Rat := if pers = 0 then 5000 else mkRat 12500 3

/-- The coarse offset in 10 Hz: unambiguous within half a turn; for MR-FSK the mean discriminator output within ±50 kHz (R156, R195). -/
def coarseOffset (pers : Nat) : PreIn → Rat
  | .stf x => (autocorr (stfLag pers) x).turn * stfTurn pers
  | .fsk d => max (-5000) (min 5000 (meanOf (d.map (fun (v : Int) => (v : Rat)))))

/-- FFT bin `k` of the 64 samples of `x` from sample `at_` on; a sample that was not received is 0. -/
def fftAt (x : List Iq) (at_ : Nat) (k : Int) : Cx :=
  let z := ((x.drop at_).take 64).zipIdx.foldl (fun (a : Int × Int) v =>
    let r := unitRoot (-k * (v.2 : Int)) 64
    (a.1 + v.1.1 * r.1 - v.1.2 * r.2, a.2 + v.1.1 * r.2 + v.1.2 * r.1)) (0, 0)
  ⟨mkRat z.1 (2 ^ 60), mkRat z.2 (2 ^ 60)⟩

/-- Subcarrier `k` of the hypothesis `i` × 50 kHz: a shift of four subcarriers for each 50 kHz (R134, R157), within the FFT's range. -/
def shiftTone (k i : Int) : Int := (k + 4 * i + 32) % 64 - 32

/-- Half the mean of |Y1 − Y2|²: the noise of the two LTF symbols (R157, R160). -/
def ltfNoise (i : Int) (y1 y2 : Int → Cx) : Rat :=
  meanOf (usedTones.map (fun k => ((y1 (shiftTone k i)).sub (y2 (shiftTone k i))).normSq)) / 2

/-- The metric of hypothesis `i` × 50 kHz in 0.25 dB: the energy a subcarrier of the correlation of the mean LTF symbol with L(k),
relative to the noise of that mean (R157; log entry 160). -/
def ltfMetric (x : List Iq) (i : Int) : Int :=
  let y1 := fftAt x 32
  let y2 := fftAt x 96
  let c := Cx.sum (usedTones.map (fun k => ((y1 (shiftTone k i)).add (y2 (shiftTone k i))).scale (1 / 2 * (ltfSign k : Int))))
  quarterDb (-400) 1200 (ratio (c.normSq / 52 ^ 2) (ltfNoise i y1 y2 / 2))

/-- What a Cleura OFDM lane tracks from its LTF on (R160–R163): the FFT window's place before the end of the cyclic prefix, H(k) on the used
subcarriers, σ², the pilot SNR of its symbols (latest first), the last symbol's pilot sum, the timing drift in samples, and the pilot values of its
symbols (latest first). -/
structure Track where
  backoff : Nat
  chan : List Cx
  sigma2 : Rat
  pilotSnr : List Rat
  last : Option Cx
  drift : Rat
  slips : Nat
  pilots : List (List (Rat × Rat))
deriving DecidableEq, Repr

/-- A lane that tracks nothing yet. -/
def Track.idle : Track := ⟨0, [], 0, [], none, 0, 0, []⟩

/-- What the LTF gives under hypothesis `i` (R160): the refinement in 10 Hz, within ±6.25 kHz, and the channel and noise. -/
def ltfAccept (x : List Iq) (i : Int) (backoff : Nat) : Rat × Track :=
  let b := min backoff 12
  let y1 := fftAt x (32 - b)
  let y2 := fftAt x (96 - b)
  let turn := (Cx.sum (usedTones.map (fun k => (y2 (shiftTone k i)).mul (y1 (shiftTone k i)).conj))).turn
  (turn * 1250, { Track.idle with
    backoff := b, sigma2 := ltfNoise i y1 y2,
    chan := usedTones.map (fun k => ((y1 (shiftTone k i)).add (y2 (shiftTone k i))).scale ((ltfSign k : Int) / (2 * ltfScale))) })

/-! ## Tracking and reliability (R161–R163) -/

/-- H(k). -/
def Track.h (t : Track) (k : Int) : Cx := t.chan.getD (toneIndex usedTones k) Cx.zero

/-- What a lane has of one symbol: the equalised value and the SNR of each data subcarrier. -/
structure RxSymbol where
  y : List Cx
  snr : List Rat
deriving DecidableEq, Repr

/-- gain(k) of R163 from |g| at the six pilots. -/
def gainAt (g : List Rat) (k : Int) : Rat :=
  if k ≤ -20 then g.getD 0 0
  else if 20 ≤ k then g.getD 5 0
  else
    let j := ((k + 20) / 8).toNat
    let a := g.getD j 0
    a + (g.getD (j + 1) 0 - a) * mkRat ((k + 20) % 8) 8

/-- What the pilots of a symbol say (R161–R163). -/
structure PilotFit where
  phase : Cx
  gain : List Rat
  sigma2 : Rat
  snr : Rat
  values : List (Rat × Rat)
  sum : Cx

/-- The pilots of the symbol counted `n` from the first PHR symbol, whose FFT is `y`. -/
def Track.fit (t : Track) (n : Nat) (y : Int → Cx) : PilotFit :=
  let ref (p : Int) : Cx := (t.h p).scale (pilotValue p n)
  let z := Cx.sum (pilotTones.map (fun p => (y p).mul (ref p).conj))
  let u : Cx := ⟨ratio z.re z.abs, ratio z.im z.abs⟩
  let g := pilotTones.map (fun p => ((y p).mul u.conj).div (ref p))
  let vals := g.map (fun c => (c.re, c.im))
  let fitted (p : Int) : Cx := let f := Config.pilotFit vals p
    (ref p).mul ⟨f.1, f.2⟩
  let s2 := 7 / 8 * t.sigma2 + 1 / 8 * meanOf (pilotTones.map (fun p => (((y p).mul u.conj).sub (fitted p)).normSq))
  ⟨u, g.map Cx.abs, s2, ratio (meanOf (pilotTones.map (fun p => (fitted p).normSq))) s2, vals, z⟩

/-- One symbol of the field `x` (R161–R163): `j` its place in the field, `n` its count from the first PHR symbol.  Answers the track, the residual
frequency in 10 Hz, and what the data subcarriers carry. -/
def Track.symbol (t : Track) (x : List Iq) (j n : Nat) : Track × Rat × RxSymbol :=
  let y := fftAt x (symLen * j + cpLen - t.backoff)
  let f := t.fit n y
  let sco := Config.samplingOffset (f.values :: t.pilots)
  let dr := t.drift + sco * mkRat symLen 1000000
  let slip := decide (1 / 2 ≤ dr) || decide (dr ≤ -1 / 2)
  let cfo := match t.last with
    | some z => (f.sum.mul z.conj).turn * 1000
    | none => 0
  ({ t with sigma2 := f.sigma2, pilotSnr := f.snr :: t.pilotSnr, last := some f.sum, pilots := f.values :: t.pilots,
            drift := if slip then (if 0 < dr then dr - 1 else dr + 1) else dr, slips := t.slips + if slip then 1 else 0 },
   cfo,
   { y := dataTones.map (fun k => ((y k).mul f.phase.conj).div ((t.h k).scale (gainAt f.gain k))),
     snr := dataTones.map (fun k => ratio ((t.h k).normSq * (gainAt f.gain k * gainAt f.gain k)) f.sigma2) })

/-- The limits of TRACK_CFG that act (R162, R170): threshold, symbols averaged and sampling offset. -/
structure TrackLimits where
  snr : Int
  symbols : Nat
  sco : Nat

/-- Whether pilot tracking is lost after a symbol (R162): by the mean pilot SNR, the sampling offset, or the fine NCO setting `nco` (10 Hz). -/
def Track.lost (t : Track) (lim : TrackLimits) (nco : Rat) : Bool :=
  !(dbGe (meanOf (t.pilotSnr.take lim.symbols)) lim.snr)
    || decide ((lim.sco : Rat) < Config.samplingOffset t.pilots) || decide (Config.samplingOffset t.pilots < -(lim.sco : Rat))
    || decide (52500 < nco) || decide (nco < -52500)

/-- What a lane has after symbols of a field: its track, its offset (10 Hz), whether tracking was lost, and what the symbols carried. -/
structure Tracked where
  track : Track
  cfo : Rat
  lost : Bool
  syms : List RxSymbol

/-- The `n` symbols of field `x`, the first counted `n0`, with the hypothesis offset `ofs` (10 Hz); none is taken after a loss. -/
def trackField (lim : TrackLimits) (ofs : Rat) (x : List Iq) (n0 : Nat) (start : Tracked) (n : Nat) : Tracked :=
  (List.range n).foldl (fun a j =>
    if a.lost then a
    else
      let r := a.track.symbol x j (n0 + j)
      let cfo := a.cfo + r.2.1
      ⟨r.1, cfo, r.1.lost lim (ofs + cfo), a.syms ++ [r.2.2]⟩) start

/-- The decided PHR bits (R147): the two copies of each bit weighted by their SNR. -/
def phrDecide (syms : List RxSymbol) : List Bool :=
  syms.flatMap (fun s => (List.range 23).map (fun i =>
    let a : Rat := (s.y.getD i Cx.zero).re * s.snr.getD i 0
    let b : Rat := (s.y.getD (i + 23) Cx.zero).re * s.snr.getD (i + 23) 0
    let sum : Rat := if i % 2 = 1 then a - b else a + b
    decide (0 < sum)))

/-- The bits of a received data symbol on profile entry `e`, in slot order (R180, R182). -/
def symbolBits (e : Nat) (s : RxSymbol) : List Bool :=
  (List.range 46).flatMap (fun j =>
    let d := 11 * j % 46
    if codeBits (profCode e d) = 0 then [] else (slicePoint (profCode e d) (s.y.getD d Cx.zero)).1)

/-- The linear mean of SNR over all data symbols and all non-null data subcarriers (R163). -/
def frameSnr (e : Nat) (syms : List RxSymbol) : Rat :=
  meanOf (syms.flatMap (fun s => (List.range 46).filterMap (fun d => if codeBits (profCode e d) = 0 then none else some (s.snr.getD d 0))))

/-- The mean over the symbols of SNR of each data subcarrier (R164). -/
def toneMeans (syms : List RxSymbol) : List Rat := (List.range 46).map (fun d => meanOf (syms.map (fun s => s.snr.getD d 0)))

/-- Candidates by SNR (R182): non-null data subcarriers whose SNR lies below the limit of their code. -/
def snrMarks (lim : Nat → Int) (e : Nat) (s : RxSymbol) : List Nat :=
  (List.range 46).filter (fun d => codeBits (profCode e d) != 0 && !(dbGe (s.snr.getD d 0) (lim (profCode e d))))

/-- Candidates by the slicer (R182): those whose slicer error reaches the limit. -/
def sliceMarks (en : Bool) (lim : Int) (e : Nat) (s : RxSymbol) : List Nat :=
  (List.range 46).filter (fun d => en && codeBits (profCode e d) != 0 && dbGe (slicePoint (profCode e d) (s.y.getD d Cx.zero)).2 lim)

end Sys2Proof.Machine
end

