-- ==== Sys2Proof/Machine/Tbl.lean ====
section
/-! DEFINITION. Sparse tables: a list of (key, value) pairs in one canonical form, keys strictly rising and no entry equal
to what an unlisted key reads as, so that equal tables are equal data.  Register files, record tables, cells and queues
are all held so. -/

namespace Sys2Proof.Machine

/-- A sparse table from numbers to values. -/
abbrev Tbl (α : Type) := List (Nat × α)

/-- The listed value at key `k`, if any. -/
def Tbl.find? {α : Type} : Tbl α → Nat → Option α
  | [], _ => none
  | (j, v) :: t, k => if j = k then some v else Tbl.find? t k

/-- The value at key `k`, where an unlisted key reads as `d k`. -/
def Tbl.get {α : Type} (d : Nat → α) (t : Tbl α) (k : Nat) : α :=
  match Tbl.find? t k with
  | some v => v
  | none => d k

/-- Put `v` at key `k`, keeping the keys rising. -/
def Tbl.put {α : Type} : Tbl α → Nat → α → Tbl α
  | [], k, v => [(k, v)]
  | (j, u) :: t, k, v =>
    if k < j then (k, v) :: (j, u) :: t
    else if k = j then (k, v) :: t
    else (j, u) :: Tbl.put t k v

/-- Remove key `k`. -/
def Tbl.del {α : Type} : Tbl α → Nat → Tbl α
  | [], _ => []
  | (j, u) :: t, k => if j = k then Tbl.del t k else (j, u) :: Tbl.del t k

/-- Write `v` at key `k`: an entry equal to what the unlisted key reads as is removed, not stored. -/
def Tbl.set {α : Type} [DecidableEq α] (d : Nat → α) : Tbl α → Nat → α → Tbl α
  | [], k, v => if v = d k then [] else [(k, v)]
  | (j, u) :: t, k, v =>
    if k < j then (if v = d k then Tbl.del ((j, u) :: t) k else (k, v) :: (j, u) :: t)
    else if k = j then (if v = d k then Tbl.del t k else (k, v) :: t)
    else (j, u) :: Tbl.set d t k v

/-- Apply `f` to the value at key `k`. -/
def Tbl.modify {α : Type} [DecidableEq α] (d : Nat → α) (t : Tbl α) (k : Nat) (f : α → α) : Tbl α :=
  Tbl.set d t k (f (Tbl.get d t k))

/-- The keys lie above `lo` and rise strictly. -/
def Tbl.rising {α : Type} : Nat → Tbl α → Bool
  | _, [] => true
  | lo, (k, _) :: t => decide (lo ≤ k) && Tbl.rising (k + 1) t

/-- No listed entry equals what its unlisted key would read as. -/
def Tbl.lean {α : Type} [DecidableEq α] (d : Nat → α) : Tbl α → Bool
  | [] => true
  | (k, v) :: t => !(decide (v = d k)) && Tbl.lean d t

/-- The canonical form of a table. -/
def Tbl.wf {α : Type} [DecidableEq α] (d : Nat → α) (t : Tbl α) : Bool :=
  Tbl.rising 0 t && Tbl.lean d t

end Sys2Proof.Machine
end

