-- ==== Sys2Proof/Machine/StateMesh.lean ====
section
/-! DEFINITION. The mast's mesh state: node records, the node table, the Saltern, Halyard, the DEDUP groups and the MAC's
channel list, maps, launches and dwell ledger (chapters 4 and 9–12). -/

namespace Sys2Proof.Machine

/-! ## Node records (R278–R281, R252, R318, R374, R423, R521) -/

/-- Word 0, identity (R279). -/
structure Identity where
  eui : Nat
  short : Nat
  shortValid : Bool
  used : Bool
  aged : Bool
  port : Nat
  cls : Nat
  group : Nat
  joinTs : Nat
deriving DecidableEq, Repr

/-- Words 1–3, the link section (R252). -/
structure Link where
  anchor : Nat
  period : Nat
  event : Nat
  map : Nat
  seed : Nat
  step : Nat
  guard : Nat
  nodePre : Nat
  supervision : Nat
  drift : Int
  lastHeard : Nat
  lastSync : Nat
  syncValid : Bool
  tcClamped : Bool
  upProf : Nat
  dnProf : Nat
  dnFec : Nat
  txPower : Int
  cfo : Int
  state : Nat
  miss : Nat
  hint : Bool
  ackReq : Bool
  retry : Nat
  lastTc : Int
  dnFc : Nat
  rxFc : Nat
deriving DecidableEq, Repr

/-- Word 4, routing (R280). -/
structure Routing where
  parent : Nat
  parentValid : Bool
  rootAdj : Bool
  rank : Nat
  pathSeq : Nat
  daoTs : Nat
  ctx : Nat
deriving DecidableEq, Repr

/-- Words 5–7, the wrapped node key (R423). -/
structure KeySec where
  blob : Nat
  kekGen : Nat
  kek : Nat
  ver : Nat
  valid : Bool
deriving DecidableEq, Repr

/-- Word 8, the downlink chain anchor (R318): the head cells of its items, oldest first, and its cell count. -/
structure Chain where
  heads : List Nat
  cells : Nat
deriving DecidableEq, Repr

/-- Word 9, the uplink sluice (R374). -/
structure NodeSluice where
  lastAsn : Nat
  tokens : Nat
  prof : Nat
  init : Bool
  drops : Nat
deriving DecidableEq, Repr

/-- Words 10–11, campaign state (R521). -/
structure CampSec where
  campId : Nat
  nstate : Nat
  reason : Nat
  missing : Nat
  tries : Nat
  wslot : Nat
  deadline : Nat
  lastReport : Nat
  batt : Nat
deriving DecidableEq, Repr

/-- A node record (R278); words 12–15 are firmware's. -/
structure NodeRec where
  ident : Identity
  link : Link
  routing : Routing
  key : KeySec
  chain : Chain
  sluice : NodeSluice
  camp : CampSec
  firmware : List Nat
deriving DecidableEq, Repr

/-- A link section of zeros; DN_FEC 0. -/
def Link.zero : Link :=
  { anchor := 0, period := 0, event := 0, map := 0, seed := 0, step := 0, guard := 0, nodePre := 0, supervision := 0,
    drift := 0, lastHeard := 0, lastSync := 0, syncValid := false, tcClamped := false, upProf := 0, dnProf := 0, dnFec := 0,
    txPower := 0, cfo := 0, state := 0, miss := 0, hint := false, ackReq := false, retry := 0, lastTc := 0, dnFc := 0,
    rxFc := 0 }

/-- An empty chain. -/
def Chain.nil : Chain := ⟨[], 0⟩

/-- The record of an index nothing has written (log entry 4: zeros, with PORT 15, none). -/
def NodeRec.zero : NodeRec :=
  { ident := ⟨0, 0, false, false, false, 15, 0, 0, 0⟩, link := Link.zero, routing := ⟨0, false, false, 0, 0, 0, 0⟩,
    key := ⟨0, 0, 0, 0, false⟩, chain := Chain.nil, sluice := ⟨0, 0, 0, false, 0⟩, camp := ⟨0, 0, 0, 0, 0, 0, 0, 0, 0⟩,
    firmware := [] }

/-! ## Node table (R282–R299) -/

/-- A bucket or bittern entry (R282). -/
structure Entry where
  key : Nat
  node : Nat
  port : Nat
  valid : Bool
  static : Bool
  pendingMove : Bool
  ageTs : Nat
  gen : Bool
deriving DecidableEq, Repr

/-- An entry not in use. -/
def Entry.free : Entry := ⟨0, 0, 0, false, false, false, 0, false⟩

/-- A parked insertion (R291). -/
structure Parked where
  key : Nat
  node : Nat
  port : Nat
  static : Bool
deriving DecidableEq, Repr

/-- The node lookup engine: buckets (entry `4 * b + i`), the bittern (entry `8 * s + w`), OVF counts per generation, the
short-address index, PEND, and where the mover and the ager stand. -/
structure NodeTab where
  buckets : Tbl Entry
  bittern : Tbl Entry
  ovf0 : Tbl Nat
  ovf1 : Tbl Nat
  short : Tbl (Option Nat)
  pend : List Parked
  gen : Bool
  rehash : Bool
  oldLeft : Nat
  count : Nat
  moverAt : Nat
  moverMoved : Nat
  moverRun : Bool
  agerAt : Nat
  now : Nat
deriving DecidableEq, Repr

/-- An empty node table. -/
def NodeTab.empty : NodeTab :=
  { buckets := [], bittern := [], ovf0 := [], ovf1 := [], short := [], pend := [], gen := false, rehash := false,
    oldLeft := 0, count := 0, moverAt := 0, moverMoved := 0, moverRun := false, agerAt := 0, now := 0 }

/-! ## Saltern (R312–R336, R668) -/

/-- Which target counts an item's cells (R321): a queue or account, a node's chain, or none (popped or retired). -/
inductive Place where
  | acct (q : Nat)
  | queue (q : Nat)
  | chain (node : Nat)
  | none
deriving DecidableEq, Repr

/-- An item: its cells in link order (the last carries EOI, R313), its descriptor (word 0 of the head cell, R312), what the
cells hold, ENQ_T, where its cells count, the requester that holds it (R668), the partner queue that CLASSIFY chose (R301) or the sluice of an ingress frame, and the bytes
of the ingress frame that brought it (R359). -/
structure Item where
  cells : List Nat
  desc : Desc
  body : Body
  enqT : Nat
  place : Place
  held : Option Nat
  dest : Option Nat
  frameLen : Nat
deriving DecidableEq, Repr

/-- The value of an unlisted item: no cells. -/
def Item.none : Item := ⟨[], Desc.zero, Body.empty, 0, Place.none, Option.none, Option.none, 0⟩

/-- A queue (R316): the head cells of its items, oldest first; its cell count; MIN and MAX, active and pending; its marks;
its BROKEN and UNDERRUN bits; its class and priority (0 none, 1 IDLE, 2 UNDERRUN). -/
structure Queue where
  heads : List Nat
  cells : Nat
  min : Nat
  max : Nat
  cls : Nat
  aprio : Nat
  pendCfg : Option (Nat × Nat × Nat × Nat)
  depthHwm : Nat
  resHwm : Nat
  broken : Bool
  underrun : Bool
deriving DecidableEq, Repr

/-- Class, APRIO, MIN and MAX of queue `q` at reset (R316). -/
def queueReset (q : Nat) : Queue :=
  let mk (c a mn mx : Nat) : Queue := ⟨[], 0, mn, mx, c, a, Option.none, 0, 0, false, false⟩
  if q < 40 then mk 0 2 256 16384
  else if q = 40 then mk 0 1 8192 65536
  else if q < 46 then mk 0 2 1024 16384
  else if q = 46 then mk 0 3 1024 32768
  else if q = 47 then mk 0 3 512 8192
  else if q = 48 then mk 0 0 512 4096
  else if q < 53 then mk 0 2 0 16384
  else if q < 64 then mk 0 0 0 0
  else if q < 128 then mk 0 2 0 8192
  else if q = 128 then mk 2 0 1024 16384
  else if q = 129 then mk 2 3 0 131072
  else if q < 136 then mk 1 0 544 544
  else if q = 136 then mk 2 0 64 1024
  else if q < 160 then mk 0 0 0 0
  else if q < 192 then mk 0 2 0 16384
  else if q < 256 then mk 0 0 0 0
  else mk 1 3 0 0

/-- A software push or allocation that waits for room (R325), with what it will do. -/
structure HeldPush where
  req : Nat
  queue : Nat
  desc : Desc
  alloc : Bool
deriving DecidableEq, Repr

/-- The Saltern of a mast.  The brine list is the cells `fresh` … 131 071 in ascending order followed by `freed`, the cells
freed since, oldest first (R314).  `brokenChains` names the BROKEN chains: of a node by index, of a sail as `2^20 + k` (R315).  `resIdle` is `reserved_idle` of R322, kept as cells and MIN change. -/
structure Saltern where
  fresh : Nat
  freed : List Nat
  items : Tbl Item
  queues : Tbl Queue
  chainCells : Nat
  chainHwm : Nat
  resIdle : Nat
  brineLwm : Nat
  brineLow : Bool
  openItem : Tbl (Option Nat)
  lastPop : Tbl Desc
  held : List HeldPush
  ethHold : Tbl (List Nat)
  xoff : Tbl Bool
  brokenChains : List Nat
  waitSt : List Nat
deriving DecidableEq, Repr

/-- The Saltern at reset: every cell on the brine list in ascending order (R314), 46 336 cells reserved (R323). -/
def Saltern.reset : Saltern :=
  { fresh := 0, freed := [], items := [], queues := [], chainCells := 0, chainHwm := 0, resIdle := 46336,
    brineLwm := 131072, brineLow := false, openItem := [], lastPop := [], held := [], ethHold := [], xoff := [],
    brokenChains := [], waitSt := [] }

/-! ## Halyard (R337–R358) -/

/-- A queued item: its give sequence number, its descriptor, and the mast LOCAL time (ns) at which its give was accepted. -/
structure QEntry where
  seq : Nat
  desc : Desc
  time : Nat
deriving DecidableEq, Repr

/-- Who gives an item (R342): a requester of R541's numbering, an Ethernet port hold list, the reader of a TX ring, the
management port's frames, or the engine of a station. -/
inductive Giver where
  | core (c : Nat)
  | ext (req : Nat)
  | eth (p : Nat)
  | ring (r : Nat)
  | mgmt
  | engine (s : Nat)
deriving DecidableEq, Repr

/-- A give that waits at a full station (R348). -/
structure HeldGive where
  giver : Giver
  desc : Desc
deriving DecidableEq, Repr

/-- A flow context (R346): BUSY, its holder and affinity; its items at AFFINITY stations are counted from the entries. -/
structure Flow where
  busy : Bool
  owner : Nat
  affValid : Bool
  affCore : Nat
deriving DecidableEq, Repr

/-- An idle flow context. -/
def Flow.idle : Flow := ⟨false, 0, false, 0⟩

/-- Halyard's state: queued items in give order; items in service per core; cores blocked in TAKE; the role mask in effect
per core; flows; held gives; orphaned stations; per-requester busy time of the current load window; the items that engines hold while
their targets refuse (R325). -/
structure Halyard where
  entries : List QEntry
  nextSeq : Nat
  service : Tbl (Option Desc)
  blocked : List Nat
  roles : Tbl Nat
  flows : Tbl Flow
  held : List HeldGive
  orphans : List Nat
  busyFrom : Tbl (Option Nat)
  busyAcc : Tbl Nat
  loadFrom : Nat
  taken : Tbl (Option Desc)
deriving DecidableEq, Repr

/-- Halyard at reset: nothing queued, no core in service. -/
def Halyard.reset : Halyard :=
  { entries := [], nextSeq := 0, service := [], blocked := [], roles := [], flows := [], held := [], orphans := [],
    busyFrom := [], busyAcc := [], loadFrom := 0, taken := [] }

/-! ## DEDUP (R123–R127) -/

/-- One copy in a group: its head cell, sail, metadata and frame. -/
structure Copy where
  cell : Nat
  sail : Nat
  md : Meta
  frame : Frame
  failed : Bool
deriving DecidableEq, Repr

/-- A DEDUP group (R123–R125): its key, its first copy's time-stamp and end E (positions), its copies
(arrival order; after the close, close order then arrival order), the copy sent to CCM_OPEN, the verified frame, and whether it is
closed, decided or failed.  `due` is the ASN whose tick retires it. -/
structure Group where
  id : Nat
  src : Addr
  ctr : Nat
  secured : Bool
  at_ : Int
  endAt : Int
  copies : List Copy
  closed : Bool
  kept : Option Nat
  verified : Option Frame
  failedAll : Bool
  decided : Bool
  ackSail : Option Nat
  heard : Nat
  due : Nat
deriving DecidableEq, Repr

/-! ## Mesh MAC (R249–R271) -/

/-- A channel-list entry (R249): `sails` holds (VALID, WIN, BIN, HYP) for sails 0–5. -/
structure Channel where
  valid : Bool
  pers : Nat
  dclass : Nat
  freq : Nat
  sails : List (Bool × Nat × Nat × Nat)
deriving DecidableEq, Repr

/-- An entry not in use. -/
def Channel.free : Channel := ⟨false, 0, 0, 0, []⟩

/-- A channel map (R251): LEN and its entries. -/
structure ChanMap where
  len : Nat
  entries : Tbl Nat
deriving DecidableEq, Repr

/-- What a launch carries (R211): an ACK to a node, a beacon of a sail, or the head frame of a node's chain. -/
inductive LaunchKind where
  | ack
  | beacon
  | data
deriving DecidableEq, Repr

/-- A launch the mast has planned (R210, R211), from its plan until its TX_DONE: its handle, the slot, the carrier (an ACK has one once
`placed`), START in 2.5 ns units after the tick and as a position, the frame, the output power that the composite fit gave it, the charge,
how far it has gone (0 planned, 1 built, 2 handed to the link), the LOCAL ns of its Deliver soft end, and whether its last FRAME_DOWN
packet has left. -/
structure Launch where
  handle : Nat
  kind : LaunchKind
  sail : Nat
  carrier : Nat
  placed : Bool
  asn : Nat
  start : Nat
  at_ : Int
  softNs : Nat
  left : Bool
  node : Nat
  cell : Nat
  frame : Frame
  channel : Nat
  freq : Nat
  pers : Nat
  rate : Nat
  fec : Nat
  power : Int
  pout : Int
  prio : Nat
  airUs : Nat
  charged : Bool
  bucket : Nat
  stage : Nat
  aInt : Nat
  tc : Int
  tcClamped : Bool
deriving DecidableEq, Repr

/-- A downlink that awaits its judgement (R262): its end E (a position), whether an answer has been
taken, and when. -/
structure AwaitAck where
  node : Nat
  cell : Nat
  seqNo : Nat
  endAt : Int
  heard : Nat
  answered : Bool
  judged : Bool
  campaign : Bool
deriving DecidableEq, Repr

/-- One ledger entry (R267): a channel's charge in one 10 ms bucket. -/
structure Charge where
  channel : Nat
  bucket : Nat
  us : Nat
deriving DecidableEq, Repr

/-- A CFO hint (R158, R264). -/
structure Hint where
  win : Nat
  bin : Nat
  hyp : Nat
  asnLo : Nat
  cfo : Int
deriving DecidableEq, Repr

/-- What DEDUP passes on with a frame (R126, R127): the port that it was heard on, once decided, and whether its ACK was counted late. -/
structure Passed where
  heard : Option Nat
  late : Bool
deriving DecidableEq, Repr

/-- Before the decision of R125. -/
def Passed.none : Passed := ⟨Option.none, false⟩

/-- The mesh MAC of a mast: channel list and maps (active, pending until a commit, and
the maps in use until the tick after an immediate commit, R556), launches in flight, downlinks awaiting
an answer, the dwell ledger, the granted slot with what is planned of it and whether Build has been counted late, hints written for the following slot, frame-counter reservation, deferral bookkeeping,
and what DEDUP passed on with the frame of each head cell. -/
structure Mac where
  chans : Tbl Channel
  chansPend : Tbl Channel
  maps : Tbl ChanMap
  mapsPend : Tbl ChanMap
  mapsOld : Tbl ChanMap
  groups : List Group
  nextGroup : Nat
  launches : List Launch
  nextHandle : Nat
  waits : List AwaitAck
  ledger : List Charge
  grant : Option Nat
  planned : List Nat
  buildLate : Bool
  linkBad : List Nat
  hints : List (Nat × Hint)
  fcReserve : Nat
  fcBase : Nat
  fcPending : Option Nat
  fcFailed : Bool
  beaconRun : Tbl Nat
  peerRun : Tbl Nat
  peerSeen : Tbl Bool
  sweepAt : Nat
  ackOwed : List Nat
  dups : List Nat
  oldLaunch : List Nat
  passed : Tbl Passed
deriving DecidableEq, Repr

/-- The MAC at reset. -/
def Mac.reset : Mac :=
  { chans := [], chansPend := [], maps := [], mapsPend := [], mapsOld := [], groups := [], nextGroup := 0, launches := [], nextHandle := 0,
    waits := [], ledger := [], grant := none, planned := [], buildLate := false, linkBad := [], hints := [], fcReserve := 0, fcBase := 0,
    fcPending := none, fcFailed := false, beaconRun := [], peerRun := [], peerSeen := [], sweepAt := 0,
    ackOwed := [], dups := [], oldLaunch := [], passed := [] }

end Sys2Proof.Machine
end

