-- ==== Sys2Proof/Machine/StateLink.lean ====
section
/-! DEFINITION. Tatrum packets and connections (R14–R22), and the mirrored inputs of a redundant pair (R467). -/

namespace Sys2Proof.Machine

/-- A packet as its sender queues it (R15): TYPE, TAG, VC, POS (0 whole message, 1 first, 2 middle, 3 last), bits 59:32 of its header
(reserved and 0, but for a MIRROR message's first packet, R468), and its payload bytes, at most 48. -/
structure Pkt where
  typ : Nat
  tag : Nat
  vc : Nat
  pos : Nat
  ext : Nat
  data : List Nat
deriving DecidableEq, Repr

/-- A packet on a link (R15): what was queued, SRC, DST, SEQ, LEN and the CRC it carries. -/
structure LinkPkt where
  p : Pkt
  src : Nat
  dst : Nat
  seq : Nat
  len : Nat
  crc : Nat
deriving DecidableEq, Repr

/-- Bits 95:0 of a packet (R15). -/
def LinkPkt.head (x : LinkPkt) : Nat :=
  x.p.typ % 2 ^ 8 * 2 ^ 88 + x.src % 8 * 2 ^ 85 + x.dst % 8 * 2 ^ 82 + x.p.vc % 4 * 2 ^ 80 + x.seq % 2 ^ 12 * 2 ^ 68
    + x.len % 2 ^ 6 * 2 ^ 62 + x.p.pos % 4 * 2 ^ 60 + x.p.ext % 2 ^ 28 * 2 ^ 32 + x.p.tag % 2 ^ 32

/-- The 48 payload bytes of flits 1 to 3: bytes above LEN are sent as 0 (R15). -/
def Pkt.payload (p : Pkt) : List Nat := (List.range 48).map (fun i => p.data.getD i 0 % 256)

/-- The CRC-32 over bits 95:0 and 511:128 of a packet (R15), in the order of the bits' numbers. -/
def LinkPkt.check (x : LinkPkt) : Nat := crc32 (leBytes 12 x.head ++ x.p.payload)

/-- The 512 bits of a packet (R15): payload byte 0 in bits 135:128. -/
def LinkPkt.bits (x : LinkPkt) : Nat := x.head + x.crc % 2 ^ 32 * 2 ^ 96 + leNat x.p.payload * 2 ^ 128

/-- Flit `k` of a packet, bits 128·k+127:128·k, sent flit 0 first (R15). -/
def LinkPkt.flit (x : LinkPkt) (k : Nat) : Nat := x.bits / 2 ^ (128 * k) % 2 ^ 128

/-- A queued packet as its sender puts it on the link, with SEQ, LEN and its CRC (R15). -/
def Pkt.onLink (p : Pkt) (src dst seq : Nat) : LinkPkt :=
  let x : LinkPkt := ⟨p, src, dst, seq, p.data.length, 0⟩
  { x with crc := x.check }

/-- Whether the CRC that an arriving packet carries is good. -/
def LinkPkt.good (x : LinkPkt) : Bool := x.crc == x.check

/-- The VC that a TYPE requires (R16); none for a reserved TYPE. -/
def pktVc (typ : Nat) : Option Nat :=
  match typ with
  | 0x01 | 0x0B | 0x0E => some 3
  | 0x02 | 0x03 | 0x0F => some 2
  | 0x04 | 0x05 | 0x06 | 0x0A => some 1
  | 0x07 | 0x08 | 0x09 | 0x0C | 0x0D => some 0
  | _ => none

/-- The payload bytes of each packet of a message (R16): 48 a packet. -/
def chunks48 (l : List Nat) : List (List Nat) := (List.range (max 1 ((l.length + 47) / 48))).map (fun i => (l.drop (48 * i)).take 48)

/-- POS of packet `i` of `n` (R15). -/
def posOf (i n : Nat) : Nat := if n = 1 then 0 else if i = 0 then 1 else if i + 1 = n then 3 else 2

/-- The packets of a message of TYPE `typ` whose payload is `bytes` (R16), on the VC its TYPE requires; `ext` stands in the header of
the first. -/
def messageX (typ tag ext : Nat) (bytes : List Nat) : List Pkt :=
  let cs := chunks48 bytes
  (List.range cs.length).map (fun i => ⟨typ, tag, (pktVc typ).getD 0, posOf i cs.length, if i = 0 then ext else 0, cs.getD i []⟩)

/-- The packets of a message with nothing in the reserved header bits. -/
def message (typ tag : Nat) (bytes : List Nat) : List Pkt := messageX typ tag 0 bytes

/-- A LINKCTL packet (R17): ACKSEQ, NAK, the credit returns of VC0 to VC3, and its CRC. -/
structure LinkCtl where
  ack : Nat
  nak : Bool
  credits : List Nat
  crc : Nat
deriving DecidableEq, Repr

/-- Bits 95:0 of a LINKCTL packet (R17). -/
def LinkCtl.head (x : LinkCtl) : Nat :=
  0xF0 * 2 ^ 88 + x.ack % 2 ^ 12 * 2 ^ 68 + (if x.nak then 2 ^ 67 else 0) + leNat ((List.range 4).map (fun v => x.credits.getD v 0 % 256)) * 2 ^ 32

/-- The CRC-32 over bits 95:0 of a LINKCTL packet (R17). -/
def LinkCtl.check (x : LinkCtl) : Nat := crc32 (leBytes 12 x.head)

/-- A LINKCTL packet with its CRC. -/
def LinkCtl.make (ack : Nat) (nak : Bool) (credits : List Nat) : LinkCtl :=
  let x : LinkCtl := ⟨ack, nak, credits, 0⟩
  { x with crc := x.check }

/-- A packet in the replay buffer, with its SEQ. -/
structure Sent where
  seq : Nat
  pkt : Pkt
deriving DecidableEq, Repr

/-- One direction of a connection.  The sender's side: the next SEQ, the replay buffer, the packets that wait for credit or for
training, the credits per VC, the last ACKSEQ received and the replays since it last advanced.  The receiver's side: the
next SEQ in order, flits freed per VC since its last LINKCTL, and whether a NAK is due. -/
structure Dir where
  txSeq : Nat
  out : List Sent
  waiting : List Pkt
  credits : Tbl Nat
  ackSeq : Nat
  replays : Nat
  rxSeq : Nat
  freed : Tbl Nat
  nak : Bool
deriving DecidableEq, Repr

/-- A direction whose receiver holds `flits` per VC: nothing sent. -/
def Dir.reset : Dir :=
  { txSeq := 0, out := [], waiting := [], credits := [], ackSeq := 4095, replays := 0, rxSeq := 0, freed := [], nak := false }

/-- A connection (R22): STATE of R572, consecutive failed retrainings, its two directions (`up` towards the mast, or from mast
B to mast A; `down` the other), and the answers that wait in the answer store of the `up` sender (R19). -/
structure Conn where
  state : Nat
  fails : Nat
  up : Dir
  down : Dir
  answers : List Pkt
deriving DecidableEq, Repr

/-- A connection before training. -/
def Conn.reset : Conn := ⟨0, 0, Dir.reset, Dir.reset, []⟩

/-- A TX_DONE report (R213), by its fields. -/
structure TxReport where
  status : Nat
  reason : Nat
  flags : Nat
  handle : Nat
  carrier : Nat
  power : Int
  start : Nat
  asnLo : Nat
  air : Nat
deriving DecidableEq, Repr

/-- A mirrored input (R467). -/
inductive Input where
  | frameUp (sail lane seq : Nat) (md : Meta) (f : Frame)
  | txDone (sail : Nat) (r : TxReport)
  | advice (sail : Nat) (bytes : List Nat)
  | farResp (sail req outcome lo hi : Nat)
  | sailIrq (sail : Nat) (pending : Bool)
  | ethFrame (port station : Nat) (raw : Bool) (e : EthFrame)
  | ringFrame (ring len user : Nat) (k : Packet)
  | mgmtFrame (len : Nat) (k : Packet)
  | ptp (bytes : List Nat)
  | regWrite (r page off width value : Nat) (body : Body)
  | ext (kind index value : Nat)
  | drbg (value : Nat)
  | data (kind index value : Nat)
  | slotEnd (asn : Nat)
deriving DecidableEq, Repr

/-- KIND of an input (R467). -/
def Input.kind : Input → Nat
  | .frameUp _ _ _ _ _ => 0
  | .txDone _ _ | .advice _ _ | .farResp _ _ _ _ _ | .sailIrq _ _ => 1
  | .ethFrame _ _ _ _ | .ringFrame _ _ _ _ | .mgmtFrame _ _ | .ptp _ => 2
  | .regWrite _ _ _ _ _ _ => 3
  | .ext _ _ _ => 4
  | .drbg _ => 5
  | .data _ _ _ => 6
  | .slotEnd _ => 7

/-- A mirrored input in the jury's buffer: its INSEQ, the STAMP it carries, and the input (R468, R470). -/
structure Mirrored where
  inseq : Nat
  stamp : Nat
  input : Input
deriving DecidableEq, Repr

/-- The active mast's digest of a slot as the jury holds it (R472). -/
structure SlotDigest where
  asn : Nat
  digest : Nat
  inseq : Nat
  counts : List Nat
deriving DecidableEq, Repr

/-- The pair's running state on one mast (R467–R487): the jury's input buffer, the slot ends it holds, the highest INSEQ given,
the digest bookkeeping, heartbeat bookkeeping, a pending takeover and a transfer. -/
structure Pair where
  inseq : Nat
  buffer : List Mirrored
  slotEnd : Option Nat
  peerDigest : List SlotDigest
  latched : List Nat
  latchSeq : Nat
  result : Nat
  resultAsn : Nat
  peerEpoch : Nat
  peerActive : Bool
  hbCount : Nat
  misses : Nat
  answers : List (Nat × Nat)
  takeover : Option Nat
  xferCount : Nat
  loaded : Nat
  drbgIn : List Nat
deriving DecidableEq, Repr

/-- Pair state at reset. -/
def Pair.reset : Pair :=
  { inseq := 0, buffer := [], slotEnd := none, peerDigest := [], latched := [], latchSeq := 0, result := 0, resultAsn := 0, peerEpoch := 0,
    peerActive := false, hbCount := 0, misses := 0, answers := [], takeover := none, xferCount := 0, loaded := 0, drbgIn := [] }

end Sys2Proof.Machine
end

