-- ==== Sys2Proof/Machine/StateSail.lean ====
section
/-! DEFINITION. A sail's state beside its registers: lanes and waiting requests (chapter 4), CFO hints and the loading advisor
(chapter 5), transmit frames and duty accumulators (chapter 8), the tick, prepared commits and the command records
(chapters 2, 16 and 18). -/

namespace Sys2Proof.Machine

/-- A lane (R103–R106, R133): its state number, last reason, what it is attached to, its attach time and metric, its marks, and
what the PHR check latched (R153, R189).  `offset` is its hypothesis's, in 100 Hz, which it keeps (R129); `coarse` and `cfo` are in 10 Hz;
`overtaken` is set when a fork overtook it (R117), `half` for a received h = 0.5 (R200). -/
structure Lane where
  state : Nat
  lastRsn : Nat
  win : Nat
  bin : Nat
  hyp : Nat
  aerial : Nat
  selected : Bool
  pers : Nat
  forked : Bool
  restarted : Bool
  overtaken : Bool
  attachT : Nat
  metric : Nat
  offset : Int
  coarse : Rat
  cfo : Rat
  track : Track
  delivered : Nat
  gainStep : Bool
  refSwitch : Bool
  tsOff : Nat
  asnLo : Nat
  len : Nat
  prof : Nat
  fec : Nat
  seed : Nat
  entry : Nat
  coded : Bool
  eraseEn : Bool
  sliceEn : Bool
  sliceLim : Int
  eraseSnr : List Int
  handle : Nat
  errOnly : Bool
  means : List Rat
deriving DecidableEq, Repr

/-- A lane that has never been attached. -/
def Lane.idle : Lane :=
  { state := 0, lastRsn := 0, win := 0, bin := 0, hyp := 0, aerial := 0, selected := false, pers := 0, forked := false,
    restarted := false, overtaken := false, attachT := 0, metric := 0, offset := 0, coarse := 0, cfo := 0, track := Track.idle, delivered := 0, gainStep := false,
    refSwitch := false, tsOff := 0, asnLo := 0, len := 0, prof := 0, fec := 0, seed := 0, entry := 0, coded := false,
    eraseEn := false, sliceEn := false, sliceLim := 0, eraseSnr := [], handle := 0, errOnly := false, means := [] }

/-- A request that waits for a lane (R107, R109): `time` is its detection. -/
structure LaneReq where
  win : Nat
  bin : Nat
  hyp : Nat
  aerial : Nat
  metric : Nat
  time : Nat
deriving DecidableEq, Repr

/-- A delivered frame in the advisor's queue (R164, R165). -/
structure AdvItem where
  handle : Nat
  prof : Nat
  errOnly : Bool
  means : List Rat
deriving DecidableEq, Repr

/-- A launch descriptor (R210). -/
structure LaunchDesc where
  start : Nat
  asnLo : Nat
  freq : Nat
  carrier : Nat
  pers : Nat
  rate : Nat
  fec : Nat
  power : Int
  prio : Nat
  beacon : Bool
  ack : Bool
deriving DecidableEq, Repr

/-- A frame in a sail's transmit path: the PSDU of its FRAME_DOWN, its descriptor, how far it is (0 buffered, 1 modulated,
2 past its cut-off, 3 on air), what the modulator latched (profile entry and SEED, or `sun`), its samples in the carrier's FIFO, its launch
instant, air time and number of samples, whether its modulation was counted late, and the power fixed for it
(`power` and `gain` in 0.25 dB, `pout` in the units of R215's arithmetic). -/
structure TxFrame where
  handle : Nat
  frame : Option Frame
  desc : Option LaunchDesc
  phase : Nat
  entry : Nat
  seed : Nat
  sun : Option SunTx
  wave : List Cx
  at_ : Nat
  air : Nat
  samples : Nat
  counted : Bool
  minute : Nat
  power : Int
  gain : Int
  pout : Int
  flags : Nat
deriving DecidableEq, Repr

/-- What a sail's record of executed packets holds of one (R486). -/
inductive Content where
  | frame (f : Frame)
  | nums (l : List Nat)
deriving DecidableEq, Repr

/-- A COMMIT packet held for its landing tick (R558): its sequence, group mask, landing ASN and whether it arms a snapshot. -/
structure Prepared where
  seq : Nat
  die : Nat
  groups : Nat
  landAsn : Nat
  snap : Nat
deriving DecidableEq, Repr

/-- A sail. Times are in the sail's LOCAL units of 2.5 ns (R62).  `winRun` and `txRun` are the window controls in effect
(R69, R226); `prev` holds the words in use until the next tick
where an immediate commit has changed their active values (R556).  By aerial: `slots` the closed slots that count towards a rise, newest first, each with
whether it had no clipped sample and its peak (R78), `stepAt` the last fast step (R76), `digital` when its digital gain lands, from what and to
what in 1/16 dB (R74).  `decodeAt` is when decoding last ended, and of which lane (R189).  `clipped` has a bit for each aerial's fast step and rise of
the present slot; `blankAt` is when each blanked window was blanked, `lastEnd` when the last carrier on air ended, `obsEnded` the frames that ended during the present observation (R223);
`reefDue` says that reefed mode is entered (true) or left at the sail's next tick (R41). -/
structure Sail where
  clkBase : Nat
  evSeq : Nat
  asn : Nat
  tickNow : Nat
  tickPrev : Nat
  ticked : Bool
  nextTick : Option (Nat × Nat)
  lanes : Tbl Lane
  waits : List LaneReq
  recvSeq : Nat
  starved : Bool
  hints : Tbl Hint
  adv : List AdvItem
  advCount : Nat
  decodeAt : Option (Nat × Nat)
  winRun : Tbl Nat
  settling : List Nat
  clockLost : Bool
  relocked : Bool
  clipped : Nat
  slots : Tbl (List (Bool × Int))
  stepAt : Tbl Nat
  digital : Tbl (Nat × Int × Int)
  blankFrom : Option Nat
  blankAt : Tbl Nat
  lastEnd : Option Nat
  obs : Option Nat
  obsEnded : List TxFrame
  tx : List TxFrame
  txRun : Nat
  cutAtLoss : List TxReport
  seeds : Tbl Nat
  duty : Tbl Nat
  otp : Tbl Nat
  fusing : Option (Nat × Nat)
  refSince : Tbl Nat
  relockRef : Option Nat
  pdNew : Bool
  pdSets : Nat
  prepared : List Prepared
  window : Option Nat
  records : Tbl (List (Nat × Content))
  heard : List Nat
  reefed : Bool
  gated : Bool
  asleep : Bool
  reefDue : Option Bool
  prev : Tbl Nat
deriving DecidableEq, Repr

/-- A sail after its reset. -/
def Sail.reset : Sail :=
  { clkBase := 0, evSeq := 0, asn := 0, tickNow := 0, tickPrev := 0, ticked := false, nextTick := none, lanes := [], waits := [],
    recvSeq := 0, starved := false, hints := [], adv := [], advCount := 0, decodeAt := none, winRun := [], settling := [], clockLost := false,
    relocked := false, clipped := 0, slots := [], stepAt := [], digital := [], blankFrom := none, blankAt := [], lastEnd := none, obs := none, obsEnded := [], tx := [], txRun := 0x23BE,
    cutAtLoss := [], seeds := [], duty := [], otp := [], fusing := none, refSince := [], relockRef := none, pdNew := false, pdSets := 0, prepared := [], window := none,
    records := [], heard := [0, 0], reefed := false, gated := false, asleep := false, reefDue := none, prev := [] }

end Sys2Proof.Machine
end

