-- ==== Sys2Proof/Machine/Operands.lean ====
section
/-! DEFINITION. Operands of commands that have more than one form: the target of a register write, a management request, and an entry of a
CFO_HINT packet.  Operand types that state shares stand with that state. -/

namespace Sys2Proof.Machine

/-- What a REGISTER_WRITE writes: a register of a mast, a node record in the node store of a core's map, or shared core memory
(R24, R281, R610). -/
inductive WriteTarget where
  | reg (page off width value : Nat) (body : Body)
  | record (n off width value : Nat)
  | core (addr width value : Nat)
deriving DecidableEq, Repr

/-- Bits that have changed in the three copies of a triplicated word at `addr` (page · 4096 + offset) (R548). -/
structure Upset where
  addr : Nat
  a : Nat
  b : Nat
  c : Nat
deriving DecidableEq, Repr

/-- A management request with a good CRC, by its command. -/
inductive MgmtCmd where
  | read (wide : Bool) (addr : Nat)
  | write (wide : Bool) (addr value : Nat)
  | frame (len : Nat) (k : Packet)
  | unknown
deriving DecidableEq, Repr

/-- A CFO hint entry (R158): VALID and the hint. -/
structure HintEntry where
  valid : Bool
  hint : Hint
deriving DecidableEq, Repr

end Sys2Proof.Machine
end

