-- ==== Sys2Proof/Syntax.lean ====
section
/-! DEFINITION. The commands of the block: one constructor for each row of spec/opcode_table.json, in the table's order.

Operands.  `m` is a mast, 0 for A and 1 for B; where a command is a software access, 2 names the address of the active mast (R535, R536).  `j` is
the jury, `d` a die (0 and 1 the masts, 2 to 7 the sails), `k` a sail (0 to 5).  `r` is the requester of an access: 0 to 15 the cores, 16 the
host, 17 the management port (R541); in a command of an engine, the requester or ring that it serves.  `width` is the width of the access in
bytes, `value` what it writes.  `hdr` is the packets of a message as they arrive on the link
(R15).  Measured or received things (samples, frames, lists of
readings) are operands of the command that takes them in. -/

namespace Sys2Proof

open Sys2Proof.Machine

/-- A command. -/
inductive Instr where
  /-- FRAME_UP (R118): A whole FRAME_UP message from a lane reaches the active mast, which writes its cells and forms a descriptor for LANE_IN. -/
  | frameUp (m k lane seq : Nat) (md : Meta) (f : Frame) (hdr : List LinkPkt)
  /-- FRAME_DOWN (R210): A whole FRAME_DOWN message reaches a sail, which buffers the PSDU for the carrier named by the matching launch descriptor. -/
  | frameDown (k m h : Nat) (frame : Frame) (hdr : List LinkPkt)
  /-- LAUNCH (R210): A LAUNCH packet reaches a sail and gives the launch descriptor for the frame with the same transmit handle. -/
  | launch (k m h : Nat) (desc : LaunchDesc) (hdr : List LinkPkt)
  /-- FAR_READ_PACKET (R549): A sail executes a FAR_READ packet from either mast and answers it with a FAR_RESP. -/
  | farReadPacket (k m tag page off : Nat) (wide : Bool) (hdr : List LinkPkt)
  /-- FAR_WRITE_PACKET (R551): A sail executes a FAR_WRITE packet and acknowledges it with a FAR_RESP that carries the outcome. -/
  | farWritePacket (k m tag page off : Nat) (wide : Bool) (value : Nat) (hdr : List LinkPkt)
  /-- FAR_RESP (R551): A FAR_RESP reaches the mast and completes a far read or acknowledges a far write. -/
  | farResp (m k tag outcome lo hi : Nat) (hdr : List LinkPkt)
  /-- TICK (R39): A TICK packet reaches a sail or the jury and gives the receiving die's LOCAL time of the next tick and the ASN it opens. -/
  | tick (d m time lo : Nat) (hdr : List LinkPkt)
  /-- TICK_PACKET_SEND (R39): The active mast sends TICK packets to every fitted sail and to the jury between 200 µs and 20 µs before a tick. -/
  | tickPacketSend (m : Nat)
  /-- COMMIT_PACKET (R558): A sail or the jury receives a COMMIT packet and holds it for its landing tick, or applies it at once when LAND_ASN has passed. -/
  | commitPacket (d m tag mask landAsn : Nat) (when_ snap : Bool) (hdr : List LinkPkt)
  /-- CFO_HINT (R158): A CMD packet of kind CFO_HINT writes or clears the CFO hint of each bin that its entries name. -/
  | cfoHint (k m tag count len : Nat) (es : List HintEntry) (hdr : List LinkPkt)
  /-- TAKEOVER (R484): A sail receives a TAKEOVER command and, when its EPOCH is higher, takes the sender as master and opens the dual-command window. -/
  | takeover (k m epoch die : Nat) (hdr : List LinkPkt)
  /-- LIVENESS (R478): A sail executes a LIVENESS command from either mast and queues a FAR_RESP that reports how long ago it heard each mast. -/
  | liveness (k m tag : Nat) (hdr : List LinkPkt)
  /-- CMD_UNKNOWN_KIND (R667): A sail discards a CMD packet with an unknown kind or a malformed payload and counts it in CMD_BAD. -/
  | cmdUnknownKind (k m tag : Nat) (payload : List Nat) (hdr : List LinkPkt)
  /-- TX_DONE (R213): The MAC launch builder acts on a TX_DONE report from a sail, resolving the launch and updating chains, charges and link state. -/
  | txDone (m k : Nat) (r : TxReport) (hdr : List LinkPkt)
  /-- ADVICE_RECEIVED (R165): An ADVICE report from a sail reaches the mast and is placed in the event queue. -/
  | adviceReceived (m k : Nat) (bytes : List Nat) (hdr : List LinkPkt)
  /-- SAIL_IRQ_EVENT (R563): An EVENT packet reports a change of the OR of a sail's pending interrupt states, and the mast updates IRQ.SAIL_PEND. -/
  | sailIrqEvent (m k : Nat) (pend : Bool) (hdr : List LinkPkt)
  /-- MIRROR (R467): The jury receives a MIRROR message that carries an input of the active mast and holds it for execution in INSEQ order. -/
  | mirror (j inseq stamp : Nat) (i : Input) (hdr : List LinkPkt)
  /-- JURY_INPUT_EXECUTE (R470): The jury executes the next mirrored input in INSEQ order once it holds the SLOT_END of the previous slot. -/
  | juryInputExecute (j : Nat)
  /-- DIGEST_MESSAGE (R472): The jury receives the active mast's digest, last INSEQ and output counts for a slot. -/
  | digestMessage (j asn digest inseq : Nat) (counts : List Nat) (hdr : List LinkPkt)
  /-- HEARTBEAT (R476): A mast receives a HEARTBEAT from its peer with role, EPOCH, state, self-faults and comparison result, and leaves the active role if the peer's EPOCH is higher. -/
  | heartbeat (m : Nat) (role : Bool) (epoch state fault result asn : Nat) (hdr : List LinkPkt)
  /-- STATE_PACKET (R487): The jury loads a block of state carried by a STATE packet during a state transfer. -/
  | statePacket (j : Nat) (last : Bool) (hdr : List LinkPkt)
  /-- PORT_RELAY (R12): A partner frame or egress item for an Ethernet port of the jury mast crosses the mast–mast link. -/
  | portRelay (m : Nat) (x : Relay) (hdr : List LinkPkt)
  /-- LINKCTL (R17): A LINKCTL packet returns ACKSEQ, NAK and credits, which free the sender's replay buffer or start a replay. -/
  | linkctl (c : Nat) (up : Bool) (l : LinkCtl)
  /-- LINK_REPLAY_TIMEOUT (R20): A sender that has no ACKSEQ covering an outstanding packet within 500 ns replays from the oldest outstanding packet. -/
  | linkReplayTimeout (c : Nat) (up : Bool)
  /-- LINKCTL_KEEPALIVE (R21): A receiver sends a LINKCTL at least every 10 µs when nothing else is pending. -/
  | linkctlKeepalive (c : Nat) (up : Bool)
  /-- RETRAINING_COMPLETE (R22): A retraining completes, the failure count returns to 0, and delivery resumes from ACKSEQ. -/
  | retrainingComplete (c : Nat)
  /-- RETRAINING_TIMEOUT (R22): A retraining that has not completed within 20 µs fails, and the third consecutive failure declares the connection failed. -/
  | retrainingTimeout (c : Nat)
  /-- TATRUM_RETRAIN (R572): A write to TATRUM.RETRAIN retrains a connection, or restarts training of a failed one. -/
  | tatrumRetrain (m r width value : Nat)
  /-- SLOT_TICK (R41): A slot tick performs the tick-aligned actions in their fixed order, from ASN advance to the grant of the following slot. -/
  | slotTick (d : Nat) (a : AdcSlot)
  /-- DEDUP_GROUP_RETIRE (R124): A dedup group is retired at the tick that closes the slot after the slot of its first copy. -/
  | dedupGroupRetire (m g : Nat)
  /-- NOW_ADVANCE (R296): NOW advances by 1 at the tick at which 1 s of MESH time has passed since its last advance. -/
  | nowAdvance (m : Nat)
  /-- TICK_FREERUN (R40): A sail with no TICK packet 5 µs before an expected tick generates it itself and raises TICK_FREERUN. -/
  | tickFreerun (k : Nat)
  /-- STAGE_SOFT_END (R53): A transmit stage passes its soft end, and its overrun is counted. -/
  | stageSoftEnd (d stage h : Nat)
  /-- LAUNCH_CUTOFF (R212): At START − 50 µs the sail checks each launch in order, fixes its power, or defers or refuses it. -/
  | launchCutoff (k asnLo start : Nat) (late : List Nat)
  /-- FRAME_LAUNCH (R210): A carrier starts its frame at START, raising PA_EN and the T/R line for the burst. -/
  | frameLaunch (k h : Nat)
  /-- TX_FRAME_END (R213): A carrier finishes its frame and the sail sends the TX_DONE report. -/
  | txFrameEnd (k h : Nat)
  /-- ACK_CUTOFF (R56): An ACK that is not whole in the FIFO at its cut-off is not sent and is counted in ACK_LATE. -/
  | ackCutoff (m h : Nat)
  /-- REFCLK_LOSS (R63): A reference counts as lost and the die switches to the other valid reference, raising REFCLK_SWITCHED. -/
  | refclkLoss (d ref : Nat)
  /-- SAMPLE_CLOCK_LOST (R65): With both references lost for 100 µs, the sail declares the sample clock lost, suspends detectors, releases lanes and cuts carriers. -/
  | sampleClockLost (k : Nat)
  /-- REF_RELOCK_START (R65): A reference valid for 1 ms starts a relock of the sample clock. -/
  | refRelockStart (d ref : Nat)
  /-- RELOCK_COMPLETE (R65): A relock completes, and the CUT reports of cut frames are sent. -/
  | relockComplete (d : Nat)
  /-- LOCAL_CLOCK_HOLD (R385): With both mast references lost, the mast PLL holds its control value and LOCAL_CLOCK_HOLD is raised. -/
  | localClockHold (m : Nat)
  /-- GAIN_FAST_STEP (R76): CLIP_COUNT clipped samples within 1 µs move an aerial one gain state down at once. -/
  | gainFastStep (k aer : Nat)
  /-- GAIN_TICK_RISE (R78): After RISE_SLOTS qualifying slots the aerial gain rises one state at the tick. -/
  | gainTickRise (k aer : Nat)
  /-- DETECTOR_RESUME (R69): The detectors of a retuned window resume 25 µs after the tick. -/
  | detectorResume (k w : Nat)
  /-- BLANKING_START (R83): Blanking starts 10 µs before a transmission: detectors of intersecting windows are suspended and their lanes released. -/
  | blankingStart (k : Nat)
  /-- BLANKING_END (R83): Blanking ends 50 µs after the last sample on air and the detectors resume. -/
  | blankingEnd (k : Nat)
  /-- OBSERVATION_START (R85): For a requested observation the switch closes or the request is refused, and aerial-B detectors are suspended. -/
  | observationStart (k h : Nat)
  /-- OBSERVATION_END (R221): Observation ends with the observed frame and the predistortion solver starts. -/
  | observationEnd (k : Nat) (levels : List (Nat × Int))
  /-- DETECTOR_FIRE (R99): A crow's-nest detector fires on a hypothesis and the bin requests a lane, forks, restarts or ignores the detection. -/
  | detectorFire (k w bin aer : Nat) (metrics : List Nat)
  /-- LANE_STARVED (R110): A request that has waited 40 µs without a lane is dropped with LANE_STARVED. -/
  | laneStarved (k w bin hyp : Nat)
  /-- AERIAL_SELECT (R101): After 80 µs of preamble the lane selects the aerial with the higher metric. -/
  | aerialSelect (k l metricA metricB : Nat)
  /-- ACQ_TIMEOUT (R106): A lane that finds no preamble end within 400 µs of attachment is released with ACQ_FAIL. -/
  | acqTimeout (k l : Nat)
  /-- PREAMBLE_END_FOUND (R156): The lane finds the STF-to-LTF boundary, takes the time-stamp and estimates the coarse CFO. -/
  | preambleEndFound (k l : Nat) (pre : PreIn)
  /-- LTF_DECISION (R157): 200 µs after the boundary the lane resolves the 50 kHz ambiguity under the hint rule, or is released with ACQ_FAIL. -/
  | ltfDecision (k l : Nat) (ltf : LtfIn)
  /-- PHR_CHECK (R147): The lane checks the PHR in four steps, entering DATA or being released with PHR_FAIL. -/
  | phrCheck (k l : Nat) (phr : PhrIn)
  /-- PILOT_TRACK_LOST (R162): A lane whose pilot tracking is lost is released with LOST_SYNC. -/
  | pilotTrackLost (k l : Nat) (t : TrackIn)
  /-- SFD_FOUND (R196): An MR-FSK lane finds an SFD of its set, takes the time-stamp and chooses coded or uncoded decoding. -/
  | sfdFound (k l : Nat) (coded : Bool)
  /-- SFD_TIMEOUT (R196): An MR-FSK lane without an SFD 2 048 symbol periods after attachment is released with ACQ_FAIL. -/
  | sfdTimeout (k l : Nat)
  /-- FRAME_DECODE_END (R186): After the last data sample the lane decodes every codeword and enters DELIVER or is released with FEC_FAIL. -/
  | frameDecodeEnd (k l : Nat) (o : RxObs)
  /-- LANE_DELIVERED (R122): Every packet of a lane's FRAME_UP message has been accepted, and the lane returns to the pool and serves a waiting request. -/
  | laneDelivered (k l : Nat)
  /-- ADVISOR_EXAMINE (R164): The loading advisor examines a queued delivered frame and sends an ADVICE report. -/
  | advisorExamine (k : Nat)
  /-- MODULATOR_START (R169): A modulator starts a frame, latching its profile or SUN settings, or refuses it with PROFILE_INVALID. -/
  | modulatorStart (k h : Nat)
  /-- TX_ABORT (R232): A write to TXP.ABORT requests the abort of a transmit handle with one of three outcomes. -/
  | txAbort (k r width h : Nat)
  /-- TX_TIMEOUT_CUT (R228): A carrier still on air at TIMEOUT is forced to zero and its frame reported as CUT. -/
  | txTimeoutCut (k h : Nat)
  /-- DAC_CAL_STEP (R225): Every INTERVAL ms the trim engine runs one DAC calibration step when the transmit path is idle. -/
  | dacCalStep (k : Nat)
  /-- PD_SOLVE_DONE (R222): The predistortion solver finishes and accepts or rejects the new set. -/
  | pdSolveDone (k acr : Nat)
  /-- PDET_SAMPLE (R218): At the middle of a burst the sail samples PDET and compares it with the expected power. -/
  | pdetSample (k mv : Nat)
  /-- POWER_SENSE (R215): Every PERIOD ms the sail samples die temperature and DAC supply. -/
  | powerSense (k : Nat) (temp : Int) (vdac : Nat)
  /-- TX_RETUNE_APPLY (R226): A held transmit window change is applied once no carrier is on air and no frame is past its cut-off. -/
  | txRetuneApply (k : Nat)
  /-- FUSE_GO (R234): A write of 0xA5 to REGLOCK.FUSE_GO starts programming of a lock entry. -/
  | fuseGo (k r width value : Nat)
  /-- FUSE_DONE (R234): Fuse programming of a lock entry completes and FUSE_DONE is raised. -/
  | fuseDone (k : Nat)
  /-- DUTY_RECORD_WRITE (R231): Every 10 minutes each mast writes the duty record to the config store. -/
  | dutyRecordWrite (m : Nat)
  /-- LANE_IN (R246): Station LANE_IN checks a copy's FCS, type, addresses and security and forms its descriptor. -/
  | laneIn (m : Nat)
  /-- DEDUP (R123): Station DEDUP places a copy in its group or opens a new group. -/
  | dedup (m : Nat)
  /-- DEDUP_GROUP_CLOSE (R125): At E + 250 µs the group closes, copies are ordered and the best copy is sent to CCM_OPEN. -/
  | dedupGroupClose (m g : Nat)
  /-- CCM_OPEN (R247): Station CCM_OPEN resolves the key, verifies the MIC and decrypts. -/
  | ccmOpen (m : Nat)
  /-- ACK_SENDER_CHOICE (R125): At E + 400 µs DEDUP chooses the ACK sail and heard_port and frees the other copies. -/
  | ackSenderChoice (m g : Nat)
  /-- REPLAY (R259): Station REPLAY compares the frame counter with RX_FC, giving ACCEPT, DUP or OLD, and updates drift. -/
  | replay (m : Nat)
  /-- ACK_BUILD (R257): Station ACK_BUILD computes the time correction and builds and seals the enhanced ACK for the chosen sail. -/
  | ackBuild (m : Nat)
  /-- HC_EXPAND (R304): Station HC_EXPAND expands 6LoWPAN headers to IPv6. -/
  | hcExpand (m : Nat)
  /-- NODE_LEARN (R297): Station NODE_LEARN refreshes the node's entry and learns or reinserts its port. -/
  | nodeLearn (m : Nat)
  /-- SLUICE_UP (R375): Station SLUICE_UP polices an uplink against the node's sluice or the join sluice. -/
  | sluiceUp (m : Nat)
  /-- CLASSIFY (R301): Station CLASSIFY sends an item to its partner queue, host ring, firmware station or ROUTE_WALK. -/
  | classify (m : Nat)
  /-- TO_PARTNER (R27): Station TO_PARTNER enqueues an uplink on a partner egress queue or host ring. -/
  | toPartner (m : Nat)
  /-- FROM_PARTNER (R373): Station FROM_PARTNER polices a partner frame through its sluice and writes its cells. -/
  | fromPartner (m : Nat)
  /-- ROUTE_WALK (R302): Station ROUTE_WALK walks RPL parents and builds the source-routed packet. -/
  | routeWalk (m : Nat)
  /-- HC_COMPRESS (R305): Station HC_COMPRESS compresses the packet to 6LoWPAN. -/
  | hcCompress (m : Nat)
  /-- CCM_SEAL (R265): Station CCM_SEAL assigns the outgoing frame counter and seals the frame. -/
  | ccmSeal (m : Nat)
  /-- LINK_QUEUE (R319): Station LINK_QUEUE appends a frame to the node's downlink chain. -/
  | linkQueue (m : Nat)
  /-- MAC_LAUNCH (R43): Station MAC_LAUNCH plans and builds the launches of the next slot and delivers them to the sails. -/
  | macLaunch (m work h : Nat)
  /-- ACK_JUDGEMENT (R262): 20 ms after the answer interval the downlink is judged answered or unanswered, with RETRY and MISS updated. -/
  | ackJudgement (m v : Nat)
  /-- SUPERVISION_SWEEP (R263): Each slot the sweep checks 256 records for an expired supervision. -/
  | supervisionSweep (m : Nat)
  /-- PEER_BEACON_SLOT_END (R271): A peer beacon slot ends without a valid beacon and counts a miss, dropping the source after three. -/
  | peerBeaconSlotEnd (m p : Nat) (blanked : Bool)
  /-- FC_RESERVE_DONE (R265): A counter reservation write completes and P takes the new value, or FC_RESERVE_FAIL is raised. -/
  | fcReserveDone (m : Nat) (ok : Bool)
  /-- CAMPAIGN_FRAG (R520): Station CAMPAIGN_FRAG builds and seals campaign frames and gives them to LINK_QUEUE. -/
  | campaignFrag (m work : Nat)
  /-- DIGEST_STATION (R472): At each tick station DIGEST latches the output counts and forms the slot's output digest. -/
  | digestStation (m : Nat)
  /-- NODETAB_LOOKUP (R287): Command LOOKUP finds the entry of CMD_KEY and reports its location. -/
  | nodetabLookup (m r width : Nat)
  /-- NODETAB_INSERT (R290): Command INSERT places an entry in its bucket or bittern set, or parks it. -/
  | nodetabInsert (m r width : Nat)
  /-- NODETAB_DELETE (R306): Command DELETE removes an entry and sets AGED in its record. -/
  | nodetabDelete (m r width : Nat)
  /-- NODETAB_FREE (R306): Command FREE removes a record's entry and short index and clears USED. -/
  | nodetabFree (m r width : Nat)
  /-- SHORT_SET (R306): Command SHORT_SET assigns a short address to a record. -/
  | shortSet (m r width : Nat)
  /-- SHORT_CLR (R306): Command SHORT_CLR invalidates a record's short address. -/
  | shortClr (m r width : Nat)
  /-- SET_PORT (R306): Command SET_PORT sets PORT and STATIC of an entry and its record. -/
  | setPort (m r width : Nat)
  /-- NODETAB_MOVE (R293): Command MOVE moves one old-generation entry to the new seed during a rehash. -/
  | nodetabMove (m r width : Nat) (races : List (Nat × Nat))
  /-- REHASH_START (R292): A write of START begins a rehash with the new seed. -/
  | rehashStart (m r width value : Nat)
  /-- REHASH_RESUME (R294): A write of RESUME clears STALL and starts a new mover pass. -/
  | rehashResume (m r width value : Nat)
  /-- MOVER_INTERVAL (R292): Every 10 ms the mover visits MOVER_RATE units and moves their old-generation entries. -/
  | moverInterval (m : Nat) (races : List (Nat × Nat))
  /-- AGER_INTERVAL (R298): Every 10 ms the ager visits AGER_RATE entries and deletes those past AGE_LIMIT. -/
  | agerInterval (m : Nat) (races : List (Nat × Nat))
  /-- TABLE_DIRECT_WRITE (R285): A core store to a table partition is dropped with a bus error. -/
  | tableDirectWrite (m r : Nat)
  /-- SALTERN_POP (R331): A 64-bit read of SALTERN.POP pops the head item of the selected queue. -/
  | salternPop (m r width ecc : Nat)
  /-- SALTERN_PUSH (R331): A 64-bit write of SALTERN.PUSH enqueues a held item on the selected queue under admission. -/
  | salternPush (m r width lo : Nat) (body : Body)
  /-- SALTERN_ALLOC (R668): A read of SALTERN.ALLOC allocates a cell and appends it to the requester's open item. -/
  | salternAlloc (m r width : Nat)
  /-- SALTERN_FREE (R668): A write of SALTERN.FREE frees the cells of an item through EOI. -/
  | salternFree (m r width value : Nat)
  /-- SALTERN_HWM_CLR (R332): A write of SALTERN.HWM_CLR clears the high-water marks of one queue or all. -/
  | salternHwmClr (m r width value : Nat)
  /-- PUSH_TIMEOUT (R325): A core push or allocation refused for PUSH_WAIT µs completes with a bus error. -/
  | pushTimeout (m r : Nat)
  /-- ADMISSION_HOLD_RELEASE (R325): A held producer's allocation or enqueue is admitted once consumers free cells. -/
  | admissionHoldRelease (m : Nat)
  /-- PAUSE_REFRESH (R579): While XOFF holds, the port resends the PAUSE frame each half pause time. -/
  | pauseRefresh (m p : Nat)
  /-- HALYARD_GIVE (R342): A 64-bit write of HALYARD.GIVE gives an item to a station. -/
  | halyardGive (m r width lo : Nat) (body : Body)
  /-- HALYARD_TAKE (R343): A 64-bit read of HALYARD.TAKE ends the core's service and selects its next item, or blocks. -/
  | halyardTake (m r width : Nat)
  /-- TAKE_WAKE (R343): An item becomes eligible and reaches a core blocked in TAKE. -/
  | takeWake (m : Nat)
  /-- TAKE_IRQ_RELEASE (R343): An enabled interrupt pending for a core with IRQ_RELEASE set ends its blocked TAKE with the idle descriptor. -/
  | takeIrqRelease (m c : Nat)
  /-- HALYARD_RELEASE (R343): A write of HALYARD.RELEASE ends the blocked TAKE of the named cores. -/
  | halyardRelease (m r width cores : Nat)
  /-- HALYARD_DONE (R344): A write of HALYARD.DONE ends the core's service and frees its flow. -/
  | halyardDone (m r width value : Nat)
  /-- HALYARD_ROLE_WRITE (R350): A write of HALYARD.ROLE sets a core's station mask, taking effect at its next TAKE. -/
  | halyardRoleWrite (m r width c i value : Nat)
  /-- HALYARD_HWM_CLR (R353): A write of HALYARD.HWM_CLR clears station or load marks. -/
  | halyardHwmClr (m r width value : Nat)
  /-- GIVE_TIMEOUT (R348): A core give held for GIVE_WAIT µs completes with a bus error and GIVE_TIMEOUT. -/
  | giveTimeout (m c : Nat)
  /-- HALYARD_HOLD_RELEASE (R348): A give held at a full station completes when the station's count falls below DEPTH. -/
  | halyardHoldRelease (m : Nat)
  /-- LOAD_WINDOW_CLOSE (R353): A window of 1 024 ticks closes and each requester's busy fraction is latched. -/
  | loadWindowClose (m : Nat)
  /-- GCL_CHANGE (R366): At the change time the pending gate list becomes running and GCL_CHANGED is raised. -/
  | gclChange (m p : Nat)
  /-- GATE_ENTRY_CHANGE (R364): A gate entry's interval ends and the next entry's gate bits apply. -/
  | gateEntryChange (m p : Nat)
  /-- PORT_FREE (R361): An egress port becomes free and starts the head frame of the highest allowed class. -/
  | portFree (m p : Nat)
  /-- PAUSE_END (R363): A received pause ends and the port evaluates gate fit again. -/
  | pauseEnd (m p : Nat)
  /-- TIME_SAMPLE_WRITE (R387): A write of TIME.Dx_SAMPLE gives the servo a software offset sample. -/
  | timeSampleWrite (m r width x value : Nat)
  /-- PPS_EDGE (R388): An active PPS_IN edge captures LOCAL and every domain and gives a sample to SRC = 2 domains. -/
  | ppsEdge (m : Nat)
  /-- PPS_MISSED (R388): No PPS edge 1.1 s after the expected edge counts a miss, and three misses lose the source. -/
  | ppsMissed (m : Nat)
  /-- SOURCE_LOSS_TIMEOUT (R387): No software sample for LOSS.SEC seconds puts the domain in holdover with SOURCE_LOST. -/
  | sourceLossTimeout (m x : Nat)
  /-- TIME_ARM (R393): A write of ARM arms a domain for one step. -/
  | timeArm (m r width x : Nat)
  /-- TIME_SET_GO (R395): A write of SET_GO loads a domain's value. -/
  | timeSetGo (m r width x : Nat)
  /-- TPO_EDGE (R396): A time pulse output reaches its edge time and asserts for WIDTH. -/
  | tpoEdge (m o : Nat)
  /-- TIMER_MATCH (R402): A timer's COUNT reaches MATCH, setting MATCH and performing its trigger action. -/
  | timerMatch (d t : Nat) (stall : Bool)
  /-- TIMER_WRAP (R400): A timer wraps from RELOAD to 0, setting WRAP and performing its trigger action. -/
  | timerWrap (d t : Nat) (stall : Bool)
  /-- TIMER_CAPTURE (R401): An edge of a timer's CAP_SRC captures COUNT. -/
  | timerCapture (d t : Nat)
  /-- TCAP_READ (R401): A read of TCAP returns the capture and clears FRESH. -/
  | tcapRead (d r width t : Nat)
  /-- TCOUNT_READ (R403): A read of TCOUNT of an even timer latches the odd timer into THOLD. -/
  | tcountRead (d r width t : Nat)
  /-- GROUP_START (R410): A write of GROUP_START sets EN of the named timers in one cycle. -/
  | groupStart (d r width value : Nat)
  /-- GROUP_STOP (R410): A write of GROUP_STOP clears EN of the named timers in one cycle. -/
  | groupStop (d r width value : Nat)
  /-- TIMER_WAKE (R404): On wake from clock gating each timer advances by the slow-clock time. -/
  | timerWake (d n : Nat)
  /-- DEBUG_HALT (R405): A die enters debug halt and timers with FREEZE stop. -/
  | debugHalt (d : Nat)
  /-- DERIVE (R419): Command DERIVE derives a key into a slot by SP 800-108. -/
  | derive (m r width : Nat)
  /-- GENERATE (R418): Command GENERATE fills a slot with DRBG material. -/
  | generate (m r width : Nat)
  /-- IMPORT (R418): Command IMPORT unwraps a blob into a slot. -/
  | importKey (m r width : Nat)
  /-- INVALIDATE (R420): Command INVALIDATE zeroises a slot and raises its GEN. -/
  | invalidate (m r width : Nat)
  /-- KEY_LOCK (R418): Command LOCK locks a slot against INVALIDATE. -/
  | keyLock (m r width : Nat)
  /-- NODE_SET (R424): Command NODE_SET rewraps a node key under the node KEK into its record. -/
  | nodeSet (m r width : Nat)
  /-- NODE_CLEAR (R418): Command NODE_CLEAR clears a node's key section. -/
  | nodeClear (m r width : Nat)
  /-- NODE_REWRAP (R418): Command NODE_REWRAP rewraps a node key under the current node KEK. -/
  | nodeRewrap (m r width : Nat)
  /-- PERSIST (R435): Command PERSIST starts writing the key-blob record. -/
  | persist (m r width : Nat)
  /-- PERSIST_COMPLETE (R435): The key-blob write completes, updating PERSIST_SEQ or raising PERSIST_FAIL. -/
  | persistComplete (m : Nat) (ok : Bool)
  /-- KEY_WORD_DIRECT_WRITE (R424): A core store to node key words is dropped with a bus error. -/
  | keyWordDirectWrite (m r : Nat)
  /-- CRYPTO_JOB_GO (R428): A write of JOB_GO starts a software crypto job. -/
  | cryptoJobGo (m r width value : Nat)
  /-- CRYPTO_JOB_DONE (R428): A crypto job completes with its output item or a failure result. -/
  | cryptoJobDone (m r : Nat)
  /-- RSA_LOAD (R430): RSA LOAD unwraps and checks the identity key into the private-key register. -/
  | rsaLoad (m r width : Nat)
  /-- RSA_SIGN (R431): RSA SIGN signs the digest in RSA.HASH. -/
  | rsaSign (m r width : Nat)
  /-- RSA_VERIFY (R432): RSA VERIFY checks a signature against a public modulus. -/
  | rsaVerify (m r width : Nat)
  /-- RSA_ATTEST (R431): RSA ATTEST builds and signs the attestation statement. -/
  | rsaAttest (m r width : Nat)
  /-- RSA_CLEAR (R430): RSA CLEAR empties the private-key register. -/
  | rsaClear (m r width : Nat)
  /-- RSA_DONE (R457): An RSA operation completes and RSA_DONE is raised. -/
  | rsaDone (m : Nat)
  /-- DRBG_OUT_READ (R458): A read of DRBG.OUT returns 32 fresh bits and may reseed at RESEED_INT. -/
  | drbgOutRead (m r width : Nat)
  /-- DRBG_RESEED (R433): A write of DRBG.RESEED reseeds the DRBG and clears a halt on success. -/
  | drbgReseed (m r width value : Nat) (ok : Bool)
  /-- ENTROPY_FAIL (R433): A failed health test halts the DRBG and raises ENTROPY_FAIL. -/
  | entropyFail (m : Nat) (rct : Bool)
  /-- CRYST_REGENERATION (R414): The crystallizer decodes its SRAM pattern with the helper data and forms the root, or fails. -/
  | crystRegeneration (m pattern : Nat)
  /-- TAMPER_ASSERT (R438): An enabled tamper source asserts, triggering let-fly at once if another source is also asserted. -/
  | tamperAssert (m src : Nat)
  /-- TAMPER_RELEASE (R438): A tamper source deasserts; one that ended before triggering is counted in FILTERED. -/
  | tamperRelease (m src : Nat)
  /-- LETFLY_TRIGGER (R439): A source asserted for 50 µs triggers let-fly and all keys and sessions are destroyed. -/
  | letflyTrigger (m src : Nat)
  /-- TAMPER_RECORD_FUSE (R440): A tamper-record fuse is blown after a trigger and WAIT_ACK holds. -/
  | tamperRecordFuse (m : Nat)
  /-- OWNER_KEY_RELOAD (R440): With every tamper source clear for 1 ms the owner key is reloaded and the DRBG instantiated again. -/
  | ownerKeyReload (m : Nat)
  /-- TAMPER_ACK (R441): An OWNER write of 0xA5 to TAMPER.ACK blows an acknowledgement fuse and regenerates the root. -/
  | tamperAck (m r width value : Nat)
  /-- NONCE_DRAW (R445): A read of SESSION.NONCE[0] draws a fresh 32-byte nonce for the context. -/
  | nonceDraw (m r width : Nat)
  /-- NONCE_EXPIRY (R445): A session nonce expires 30 s after it was drawn. -/
  | nonceExpiry (m ctx : Nat)
  /-- SESSION_OPEN_OWNER (R445): OPEN with the owner-key method compares the HMAC response and opens or fails the session. -/
  | sessionOpenOwner (m r width : Nat)
  /-- SESSION_OPEN_PASSWORD (R446): OPEN with the password method starts PBKDF2 over the password records. -/
  | sessionOpenPassword (m r width value : Nat)
  /-- PASSWORD_RESULT (R446): The password computation completes and the session opens or the attempt fails. -/
  | passwordResult (m r : Nat)
  /-- SETPW (R446): SETPW from an OWNER session sets a password record. -/
  | setpw (m r width value : Nat)
  /-- SESSION_CLOSE (R448): CLOSE returns the context to its base level. -/
  | sessionClose (m r width : Nat)
  /-- SESSION_IDLE_TIMEOUT (R448): A session without access for IDLE_S seconds closes. -/
  | sessionIdleTimeout (m ctx : Nat)
  /-- FAIL_DELAY_EXPIRY (R447): The delay after a failed session attempt ends and attempts are accepted again. -/
  | failDelayExpiry (m : Nat)
  /-- DIGEST_COMPARE (R473): The jury compares its digest once its counts reach the active mast's, and a mismatch is decided under R474. -/
  | digestCompare (j : Nat)
  /-- DIGEST_WAIT_EXPIRY (R473): A jury still lagging at T + DIGEST_WAIT records a LAG mismatch. -/
  | digestWaitExpiry (j : Nat)
  /-- HEARTBEAT_SEND (R476): Every 100 µs each mast sends a HEARTBEAT to its peer. -/
  | heartbeatSend (m : Nat)
  /-- HEARTBEAT_MISS (R476): A 100 µs period without a peer heartbeat counts a miss, leading to LIVENESS and the fail-over decision. -/
  | heartbeatMiss (m : Nat)
  /-- LIVENESS_ANSWER (R478): The jury receives a sail's FAR_RESP answer to LIVENESS. -/
  | livenessAnswer (j k epoch s0 s1 : Nat) (hdr : List LinkPkt)
  /-- DUAL_WINDOW_CLOSE (R484): The 200 µs dual-command window of a sail closes. -/
  | dualWindowClose (k : Nat)
  /-- PAIR_SWAP (R477): PAIR.CMD SWAP requests a commanded takeover. -/
  | pairSwap (m r width keyByte : Nat)
  /-- PAIR_RESYNC (R487): PAIR.CMD RESYNC starts a state transfer. -/
  | pairResync (m r width keyByte : Nat)
  /-- PAIR_RELEASE_JURY (R487): PAIR.CMD RELEASE_JURY aborts a transfer. -/
  | pairReleaseJury (m r width keyByte : Nat)
  /-- TRANSFER_PASS_END (R487): A copy pass of a state transfer ends and another pass or the final pass starts, or the transfer fails. -/
  | transferPassEnd (m dirty : Nat)
  /-- SELF_FAULT (R475): A self-check fault is latched and SELF_FAULT raised. -/
  | selfFault (m bit addr r : Nat)
  /-- FEED_SAMPLE (R490): Every 10 µs the device samples each feed and classifies it. -/
  | feedSample (m f v i bus : Nat)
  /-- FEED_RESTORED (R490): A feed back above LOW_V + 50 mV for 10 ms returns to GOOD. -/
  | feedRestored (m f : Nat)
  /-- FEED_LOSS (R489): A feed falls and its ideal-diode path blocks, the other feed carrying the load. -/
  | feedLoss (m f : Nat)
  /-- FEED_OVP (R489): A feed above 3.9 V is isolated with state OVP. -/
  | feedOvp (m f : Nat)
  /-- UPDATE_BEGIN (R502): Command BEGIN checks a manifest and resumes reception or starts erasing the furled slot. -/
  | updateBegin (m r width : Nat)
  /-- UPDATE_ERASE_DONE (R502): The furled-slot erase completes and PHASE becomes RECEIVING. -/
  | updateEraseDone (m : Nat)
  /-- UPDATE_CHUNK (R503): Command CHUNK checks and programs one image chunk. -/
  | updateChunk (m r width : Nat)
  /-- BITMAP_RECORD_WRITE (R504): The received bitmap is written to the update record after 64 new bits or 10 s. -/
  | bitmapRecordWrite (m : Nat)
  /-- UPDATE_VERIFY (R505): Command VERIFY hashes the furled slot and marks it VERIFIED or HASH_FAIL. -/
  | updateVerify (m r width : Nat)
  /-- UPDATE_ACTIVATE (R514): Command ACTIVATE starts a trial on a single mast or the pair update procedure. -/
  | updateActivate (m r width : Nat)
  /-- UPDATE_CANCEL (R516): Command CANCEL abandons a pair update before the swap. -/
  | updateCancel (m r width : Nat)
  /-- UPDATE_CONFIRM (R509): A write of 0xC3 to UPDATE.CONFIRM sheets the trial image home. -/
  | updateConfirm (m r width value : Nat)
  /-- UPDATE_READY (R514): A write of 0x3C to UPDATE.READY reports the jury's new image ready and starts the update transfer. -/
  | updateReady (m r width value : Nat)
  /-- JURY_READY_TIMEOUT (R516): No READY within 60 s of the jury's reset abandons the update. -/
  | juryReadyTimeout (m : Nat)
  /-- TRIAL_ELAPSED_WRITE (R508): Every 60 s of trial the running mast writes ELAPSED to the record. -/
  | trialElapsedWrite (m : Nat)
  /-- TRIAL_EXPIRY (R508): ELAPSED reaching TRIAL_TIME reverts the update. -/
  | trialExpiry (m : Nat)
  /-- BOOT_ROM (R507): The boot ROM reads the header and update record, applies pending fuses and boots a slot. -/
  | bootRom (m : Nat)
  /-- IMG_BEGIN (R518): Command IMG_BEGIN starts loading a node image into the campaign image area. -/
  | imgBegin (m r width : Nat)
  /-- IMG_CHUNK (R518): Command IMG_CHUNK writes one chunk of the node image. -/
  | imgChunk (m r width : Nat)
  /-- IMG_VERIFY (R518): Command IMG_VERIFY checks the node image hash. -/
  | imgVerify (m r width : Nat)
  /-- WAVE_ADD (R528): Command WAVE_ADD adds a node to the forming wave. -/
  | waveAdd (m r width : Nat)
  /-- WAVE_GO (R528): Command WAVE_GO starts the wave and its offers. -/
  | waveGo (m r width : Nat)
  /-- CAMPAIGN_PAUSE (R533): Command PAUSE pauses the campaign. -/
  | campaignPause (m r width : Nat)
  /-- CAMPAIGN_RESUME (R533): Command RESUME resumes a paused campaign. -/
  | campaignResume (m r width : Nat)
  /-- CAMPAIGN_ABORT (R533): Command ABORT ends the campaign. -/
  | campaignAbort (m r width : Nat)
  /-- CAMPAIGN_REPORT (R523): A node REPORT given to station 0x10 updates its bitmap and campaign state. -/
  | campaignReport (m : Nat)
  /-- ROUND_START (R524): A multicast round starts, forming each sail's union of missing fragments. -/
  | roundStart (m : Nat)
  /-- ROUND_CLOSE (R524): REPORT_WAIT after ROUND_END the round closes and nodes become stragglers. -/
  | roundClose (m : Nat)
  /-- OFFER_REPORT_TIMEOUT (R522): No REPORT within REPORT_WAIT of an offer raises TRIES and offers again. -/
  | offerReportTimeout (m v : Nat)
  /-- REFUSED_RETRY_DEADLINE (R522): A refused node's DEADLINE passes and it is offered again. -/
  | refusedRetryDeadline (m v : Nat)
  /-- NODE_TRIAL_DEADLINE (R527): A node in TRIAL past its DEADLINE is recorded REVERTED. -/
  | nodeTrialDeadline (m v : Nat)
  /-- WAVE_END (R529): A wave ends by completion or WAVE_TIME, deferring unfinished nodes and raising WAVE_DONE. -/
  | waveEnd (m : Nat)
  /-- CAMPAIGN_PERSIST (R530): Every PERSIST_S seconds the campaign record is written. -/
  | campaignPersist (m : Nat)
  /-- COMPLETE_SCAN (R526): The scan of COMPLETE nodes appends ACTIVATE unless their group is LIT. -/
  | completeScan (m v : Nat)
  /-- COMMIT_GO (R554): A write of COMMIT.GO starts an immediate or tick commit of the named groups. -/
  | commitGo (m r width value : Nat)
  /-- SNAP_GO (R561): A write of COMMIT.SNAP.GO takes a mast or package snapshot. -/
  | snapGo (m r width value : Nat)
  /-- FAR_DATA_READ (R549): A read of TATRUM.FAR_DATA sends a FAR_READ and waits for its response. -/
  | farDataRead (m r width : Nat)
  /-- FAR_DATA_WRITE (R549): A write of TATRUM.FAR_DATA sends a FAR_WRITE to the sail. -/
  | farDataWrite (m r width value : Nat)
  /-- FAR_TIMEOUT (R552): A far read or write without a response after 50 µs completes as a timeout. -/
  | farTimeout (m tag : Nat)
  /-- CNT_CLR (R541): A write of CTRL.CNT_CLR clears every live counter of the page. -/
  | cntClr (m r page : Nat) (excl : Bool)
  /-- IRQ_FORCE (R541): A write of IRQ_FORCE sets IRQ_STATUS bits. -/
  | irqForce (m r page value : Nat)
  /-- PAGE_LOCK (R541): A write of 1 to a page LOCK locks its RWL fields. -/
  | pageLock (m r page : Nat)
  /-- REGISTER_WRITE (R553): A write to a register without a row of its own, subject to privilege, width, alignment and type rules. -/
  | registerWrite (m r : Nat) (w : WriteTarget)
  /-- UNMAPPED_ACCESS (R537): An access to an unmapped space or page is not delivered and is recorded. -/
  | unmappedAccess (m r addr : Nat) (write : Bool)
  /-- VEC_EOI (R564): A write of IRQ.VEC_EOI resends the MSI-X message of a still-pending vector. -/
  | vecEoi (m r width value : Nat)
  /-- SYS_RESET_SELF (R613): A write of SYS.RESET.SELF resets this mast. -/
  | sysResetSelf (m r width value : Nat)
  /-- SYS_RESET_PAIR_PEER (R613): A write of SYS.RESET.PAIR_PEER resets the peer mast. -/
  | sysResetPairPeer (m r width value : Nat)
  /-- WDT_KICK (R565): A write of 0x5A5A to SYS.WDT_KICK restarts the watchdog timeout. -/
  | wdtKick (m r width value : Nat)
  /-- WDT_WARN (R566): Half the watchdog timeout passes and WDT_WARN is raised. -/
  | wdtWarn (m : Nat)
  /-- WATCHDOG_EXPIRY (R613): The watchdog expires and resets the mast. -/
  | watchdogExpiry (m : Nat)
  /-- TMR_SCRUB (R548): Every 10 ms the scrubber reads all triplicated fields and corrects disagreeing copies. -/
  | tmrScrub (d : Nat) (us : List Upset)
  /-- THERM_CONV (R571): A write of THERM.CONV starts a temperature or supply conversion. -/
  | thermConv (m r width value : Nat)
  /-- THERM_PERIODIC (R571): Every PERIOD ms a periodic conversion starts. -/
  | thermPeriodic (m : Nat)
  /-- CONVERSION_DONE (R571): A conversion completes, updating TEMP or rails and raising THERM_HIGH when due. -/
  | conversionDone (d kind : Nat) (vals : List Int)
  /-- ETH_RX_FRAME (R577): An Ethernet frame is received and is dropped, consumed or given to a station. -/
  | ethRxFrame (m p : Nat) (e : EthFrame)
  /-- ETH_LINK_CHANGE (R574): An Ethernet link goes up or down, forgetting a learned partner when no session holds. -/
  | ethLinkChange (m p st : Nat) (dirs : Option (Bool × Bool))
  /-- PCIE_TAIL_WRITE (R585): A BAR2 TAIL write advances a ring's TAIL or is refused with RING_ERR. -/
  | pcieTailWrite (m width ring value : Nat)
  /-- PCIE_ACK_WRITE (R589): A BAR2 ACK write acknowledges completions of a ring. -/
  | pcieAckWrite (m width ring value : Nat)
  /-- TX_RING_SERVE (R587): The device reads one frame from a TX ring in turn and gives it to FROM_PARTNER. -/
  | txRingServe (m len user : Nat) (k : Packet)
  /-- RX_RING_DELIVER (R588): The device writes one queued item into an RX ring slot and advances HEAD. -/
  | rxRingDeliver (m r addr : Nat)
  /-- RING_COALESCE_TIMEOUT (R589): The oldest unacknowledged completion waits COAL_US and the ring's vector becomes pending. -/
  | ringCoalesceTimeout (m r : Nat)
  /-- PCIE_LINK_DOWN (R590): Link-down, hot reset, FLR, PERST_N or loss of Bus Master Enable stops DMA and disables rings. -/
  | pcieLinkDown (m ev : Nat)
  /-- MSIX_UNMASK (R589): An unmasked vector that is still pending sends its message. -/
  | msixUnmask (m v : Nat)
  /-- MGMT_REQUEST (R594): A management request over SPI or UART is executed and answered. -/
  | mgmtRequest (m : Nat) (uart crcOk : Bool) (c : MgmtCmd)
  /-- MGMT_UART_GAP (R595): A gap of more than 20 bit times inside a UART request discards it. -/
  | mgmtUartGap (m : Nat)
  /-- FEEDS_GOOD (R603): A feed stays at or above 2.95 V for 1 ms and the power-up sequence runs. -/
  | feedsGood (test : Bool) (fails : List Nat)
  /-- REFERENCE_VALID (R649): A reference has been valid for 1 ms and start-up proceeds past step 2. -/
  | referenceValid (ref : Nat)
  /-- BROWN_OUT (R602): Both feeds fall below 2.80 V and the package is held in brown-out reset. -/
  | brownOut
  /-- RESET_N (R613): RESET_N low for at least 1 µs resets the package. -/
  | resetN (fails : List Nat)
  /-- LOWPWR_REQUEST (R616): LOWPWR high for 1 ms requests reefed mode, or its end requests exit. -/
  | lowpwrRequest (on : Bool)
  /-- REEFED_SAIL_RESUME (R619): Gated sails complete steps 7–9 after reefed exit and full operation resumes. -/
  | reefedSailResume (k : Nat)
  /-- CHECKPOINT_PERIODIC (R626): Every PERIOD minutes a node checkpoint pass starts. -/
  | checkpointPeriodic (m : Nat)
  /-- CHECKPOINT (R626): Command CHECKPOINT starts a checkpoint pass or is refused with TOO_SOON. -/
  | checkpoint (m r width : Nat)
  /-- CHECKPOINT_DONE (R626): A checkpoint pass completes and CKPT_DONE is raised. -/
  | checkpointDone (m : Nat) (ok : Bool)
  /-- SAVE_CAL (R629): Command SAVE_CAL copies every sail's SCAL.USER into a config record. -/
  | saveCal (m r width : Nat)
  /-- NV_RECORD_WRITE_DONE (R622): An NV record write completes its trailer or fails its read-back with NV_WRITE_FAIL. -/
  | nvRecordWriteDone (m k : Nat) (ok : Bool)
  /-- RING_SECTOR_ERASE (R625): A reservation-ring sector is erased in the background when the preceding sector starts. -/
  | ringSectorErase (m k : Nat)
  /-- FLASH_READ (R631): FLASH.CMD READ reads 256 bytes of the user area. -/
  | flashRead (m r width : Nat)
  /-- FLASH_PROGRAM (R631): FLASH.CMD PROGRAM programs 256 bytes of the user area. -/
  | flashProgram (m r width : Nat)
  /-- FLASH_ERASE (R631): FLASH.CMD ERASE erases 4 KiB of the user area. -/
  | flashErase (m r width : Nat)
  /-- FLASH_DONE (R632): A FLASH page operation completes and FLASH_DONE or FLASH_ERR is raised. -/
  | flashDone (m fail : Nat)
  /-- SSYS_RESET (R633): A write of SSYS.RESET resets a sail, which restarts at step 7. -/
  | ssysReset (k r width value : Nat)
  /-- MAST_B_ROLE_TIMEOUT (R615): At a cold start of a redundant variant, mast B takes the active role with EPOCH 2 when it has received no heartbeat from mast A 500 ms after feeds good. -/
  | mastBRoleTimeout
  /-- UPDATE_VERIFY_DONE (R505): The SHA-256 over the furled slot, which takes up to 120 ms, completes and sets PHASE VERIFIED with UPDATE_READY, or gives HASH_FAIL. -/
  | updateVerifyDone (m : Nat)
  /-- IMG_VERIFY_DONE (R518): The hash of the loaded node image completes and the campaign image is accepted or given HASH_FAIL. -/
  | imgVerifyDone (m : Nat)
  /-- CHUNK_PROGRAMMED (R503): The flash programming of an accepted image chunk completes within 5 ms and clears BUSY, so the engine takes the next command. -/
  | chunkProgrammed (m : Nat) (node : Bool)
  /-- UPDATE_CONFIRMED (R509): The fuses pending at a sheet home are blown within 100 ms, UPDATE_CONFIRMED is raised and CONFIRMS is counted. -/
  | updateConfirmed (m : Nat)
  /-- TAP_INSTRUCTION (R653): An instruction loaded into a mast's test access port, such as EXTEST, CLAMP or HIGHZ, takes effect and holds every die of the chain in reset. -/
  | tapInstruction (m op : Nat)
  /-- DEBUG_HALT_EXIT (R405): A die leaves debug halt, and the timers with FREEZE set resume counting without any make-up time. -/
  | debugHaltExit (d : Nat)
deriving DecidableEq, Repr

end Sys2Proof
end

