-- ==== Sys2Proof/Decode.lean ====
section
/-! DEFINITION. The command that a word spells by the bits of spec/opcode_table.json.  The table gives no row any bits, so no word spells a
command. -/

namespace Sys2Proof

/-- The command of an `nbits`-bit word: none, since no row of the table has bits. -/
def decodeTableWord (_nbits _w : Nat) : Option Instr := none

end Sys2Proof
end

