-- ==== Sys2Proof/Machine/Aes.lean ====
section
/-! DEFINITION. The cryptography of the published standards that the spec names (R5, R427): AES of FIPS 197 with 128-bit and 256-bit keys,
CCM* as IEEE 802.15.4 uses it, GCM and CTR, SHA-256 of FIPS 180-4, HMAC of FIPS 198-1, PBKDF2, the key wrap of
RFC 3394 and RSASSA-PSS.  Bytes are lists of numbers below 256, in the order
in which the standards write them. -/

namespace Sys2Proof.Machine

/-- A number's `n` bytes, most significant first. -/
def beBytes (n x : Nat) : List Nat := (leBytes n x).reverse

/-- The number spelt by bytes, most significant first. -/
def beNat (l : List Nat) : Nat := l.foldl (fun n x => 256 * n + x % 256) 0

/-- Byte by byte exclusive or; the shorter list ends it. -/
def xorBytes (a b : List Nat) : List Nat := List.zipWith (fun x y => x ^^^ y) a b

/-- Bytes cut in groups of `n` (the last may be shorter). -/
def groupsOf (n : Nat) (l : List Nat) : List (List Nat) := (List.range ((l.length + n - 1) / n)).map (fun i => (l.drop (n * i)).take n)

/-- Bytes filled with zeros to a whole number of `n`. -/
def padTo (n : Nat) (l : List Nat) : List Nat := l ++ List.replicate ((n - l.length % n) % n) 0

/-! ## AES (FIPS 197) -/

/-- Multiplication by x in GF(2^8) modulo x^8+x^4+x^3+x+1. -/
def aesXtime (x : Nat) : Nat := if 128 ≤ x then (2 * x) % 256 ^^^ 0x1B else 2 * x

/-- Multiplication in GF(2^8). -/
def aesMul (a b : Nat) : Nat :=
  ((List.range 8).foldl (fun (t : Nat × Nat) i => (if b.testBit i then t.1 ^^^ t.2 else t.1, aesXtime t.2)) (0, a)).1

/-- The inverse in GF(2^8), with 0 for 0: the 254th power. -/
def aesInv (x : Nat) : Nat :=
  ((List.range 7).foldl (fun (t : Nat × Nat) _ => let q := aesMul t.2 t.2; (aesMul t.1 q, q)) (1, x)).1

/-- The S-box. -/
def aesSub (x : Nat) : Nat :=
  let b := aesInv x
  (List.range 8).foldl (fun n i =>
    if ((b.testBit i) != (b.testBit ((i + 4) % 8))) != ((b.testBit ((i + 5) % 8)) != ((b.testBit ((i + 6) % 8)) != (b.testBit ((i + 7) % 8))))
    then n + 2 ^ i else n) 0 ^^^ 0x63

/-- The inverse S-box. -/
def aesUnsub (y : Nat) : Nat :=
  let b := (List.range 8).foldl (fun n i =>
    if ((y.testBit ((i + 2) % 8)) != (y.testBit ((i + 5) % 8))) != (y.testBit ((i + 7) % 8)) then n + 2 ^ i else n) 0 ^^^ 0x05
  aesInv b

/-- The key schedule: words of four bytes, `nk` in the key, grown to `n` words. -/
def aesWords (nk : Nat) (key : List Nat) (n : Nat) : List (List Nat) :=
  (List.range (n - nk)).foldl (fun (w : List (List Nat)) j =>
    let i := nk + j
    let prev := w.getD (i - 1) []
    let t :=
      if i % nk = 0 then xorBytes ((prev.drop 1 ++ prev.take 1).map aesSub) [(List.range (i / nk - 1)).foldl (fun c _ => aesXtime c) 1, 0, 0, 0]
      else if 6 < nk ∧ i % nk = 4 then prev.map aesSub
      else prev
    w ++ [xorBytes (w.getD (i - nk) []) t]) (groupsOf 4 key)

/-- The round keys of a key of 16 or 32 bytes: 11 or 15 of 16 bytes. -/
def aesKeys (key : List Nat) : List (List Nat) :=
  let nk := key.length / 4
  let w := aesWords nk key (4 * (nk + 7))
  (List.range (nk + 7)).map (fun r => ((w.drop (4 * r)).take 4).flatten)

/-- ShiftRows of a state of 16 bytes, column by column. -/
def aesShift (s : List Nat) : List Nat := (List.range 16).map (fun i => s.getD ((i + 4 * (i % 4)) % 16) 0)
/-- The inverse of ShiftRows. -/
def aesUnshift (s : List Nat) : List Nat := (List.range 16).map (fun i => s.getD ((i + 16 - 4 * (i % 4)) % 16) 0)

/-- A circulant matrix of first row `row` applied to each column. -/
def aesMix (row s : List Nat) : List Nat :=
  (List.range 16).map (fun i =>
    (List.range 4).foldl (fun n j => n ^^^ aesMul (s.getD (4 * (i / 4) + j) 0) (row.getD ((j + 4 - i % 4) % 4) 0)) 0)

/-- AES encryption of a block of 16 bytes. -/
def aesEnc (key block : List Nat) : List Nat :=
  let ks := aesKeys key
  let last := ks.length - 1
  (ks.zipIdx).foldl (fun s (k : List Nat × Nat) =>
    if k.2 = 0 then xorBytes s k.1
    else
      let t := aesShift (s.map aesSub)
      xorBytes (if k.2 = last then t else aesMix [2, 3, 1, 1] t) k.1) block

/-- AES decryption of a block of 16 bytes. -/
def aesDec (key block : List Nat) : List Nat :=
  let ks := (aesKeys key).reverse
  let last := ks.length - 1
  (ks.zipIdx).foldl (fun s (k : List Nat × Nat) =>
    if k.2 = 0 then xorBytes s k.1
    else
      let t := xorBytes ((aesUnshift s).map aesUnsub) k.1
      if k.2 = last then t else aesMix [14, 11, 13, 9] t) block

/-- CBC-MAC of whole blocks, from a first block of zeros. -/
def cbcMac (key : List Nat) (blocks : List (List Nat)) : List Nat := blocks.foldl (fun s b => aesEnc key (xorBytes s b)) (List.replicate 16 0)

/-- CTR mode: block `i` of the key stream is the encryption of `ctr (i + from_)`. -/
def ctrMode (key : List Nat) (ctr : Nat → List Nat) (from_ : Nat) (data : List Nat) : List Nat :=
  ((groupsOf 16 data).zipIdx).flatMap (fun (b : List Nat × Nat) => xorBytes b.1 (aesEnc key (ctr (b.2 + from_))))

/-! ## CCM* (R247) -/

/-- Counter block `i` of CCM with a 13-byte nonce. -/
def ccmCtr (nonce : List Nat) (i : Nat) : List Nat := 1 :: nonce ++ beBytes 2 i

/-- The unencrypted tag of CCM: `a` the additional data, `m` the message, `M` the tag's bytes. -/
def ccmTag (key nonce a m : List Nat) (M : Nat) : List Nat :=
  let b0 := ((if a = [] then 0 else 64) + (if M = 0 then 0 else (M - 2) / 2 * 8) + 1) :: nonce ++ beBytes 2 m.length
  let aad := if a = [] then [] else padTo 16 (beBytes 2 a.length ++ a)
  (cbcMac key (groupsOf 16 (b0 ++ aad ++ padTo 16 m))).take M

/-- CCM encryption: the ciphertext, and the tag as it is sent. -/
def ccmSeal (key nonce a m : List Nat) (M : Nat) : List Nat × List Nat :=
  (ctrMode key (ccmCtr nonce) 1 m, xorBytes (ccmTag key nonce a m M) (aesEnc key (ccmCtr nonce 0)))

/-! ## GCM and CTR (R427) -/

/-- Product of two field elements of GCM, the first bit of a block being its most significant. -/
def gcmMul (x y : Nat) : Nat :=
  ((List.range 128).foldl (fun (t : Nat × Nat) i =>
    (if x.testBit (127 - i) then t.1 ^^^ t.2 else t.1, if t.2 % 2 = 1 then t.2 / 2 ^^^ 0xE1 * 2 ^ 120 else t.2 / 2)) (0, y)).1

/-- GHASH of whole blocks under the hash key `h`. -/
def gHash (h : Nat) (data : List Nat) : Nat := (groupsOf 16 data).foldl (fun y b => gcmMul (y ^^^ beNat b) h) 0

/-- Counter block `i` of GCM with a 12-byte IV. -/
def gcmCtr (iv : List Nat) (i : Nat) : List Nat := iv ++ beBytes 4 i

/-- The 16-byte tag of GCM over additional data `a` and ciphertext `c`. -/
def gcmTag (key iv a c : List Nat) : List Nat :=
  let s := gHash (beNat (aesEnc key (List.replicate 16 0))) (padTo 16 a ++ padTo 16 c ++ beBytes 8 (8 * a.length) ++ beBytes 8 (8 * c.length))
  xorBytes (beBytes 16 s) (aesEnc key (gcmCtr iv 1))

/-- GCM encryption or decryption of the text. -/
def gcmText (key iv text : List Nat) : List Nat := ctrMode key (gcmCtr iv) 2 text

/-- CTR mode from a 16-byte counter block, which counts as one big-endian number. -/
def ctrText (key block text : List Nat) : List Nat := ctrMode key (fun i => beBytes 16 ((beNat block + i) % 2 ^ 128)) 0 text

/-! ## SHA-256 (FIPS 180-4) and HMAC (FIPS 198-1) -/

/-- The first 32 fractional bits of the cube roots of the first 64 primes. -/
def shaK : List Nat :=
  [0x428a2f98, 0x71374491, 0xb5c0fbcf, 0xe9b5dba5, 0x3956c25b, 0x59f111f1, 0x923f82a4, 0xab1c5ed5,
   0xd807aa98, 0x12835b01, 0x243185be, 0x550c7dc3, 0x72be5d74, 0x80deb1fe, 0x9bdc06a7, 0xc19bf174] ++
  [0xe49b69c1, 0xefbe4786, 0x0fc19dc6, 0x240ca1cc, 0x2de92c6f, 0x4a7484aa, 0x5cb0a9dc, 0x76f988da,
   0x983e5152, 0xa831c66d, 0xb00327c8, 0xbf597fc7, 0xc6e00bf3, 0xd5a79147, 0x06ca6351, 0x14292967] ++
  [0x27b70a85, 0x2e1b2138, 0x4d2c6dfc, 0x53380d13, 0x650a7354, 0x766a0abb, 0x81c2c92e, 0x92722c85,
   0xa2bfe8a1, 0xa81a664b, 0xc24b8b70, 0xc76c51a3, 0xd192e819, 0xd6990624, 0xf40e3585, 0x106aa070] ++
  [0x19a4c116, 0x1e376c08, 0x2748774c, 0x34b0bcb5, 0x391c0cb3, 0x4ed8aa4a, 0x5b9cca4f, 0x682e6ff3,
   0x748f82ee, 0x78a5636f, 0x84c87814, 0x8cc70208, 0x90befffa, 0xa4506ceb, 0xbef9a3f7, 0xc67178f2]

/-- Rotation of a 32-bit word to the right. -/
def rotr (n x : Nat) : Nat := (x / 2 ^ n + x * 2 ^ (32 - n)) % 2 ^ 32

/-- The 64 words that a block of 16 grows to. -/
def shaSchedule (block : List Nat) : List Nat :=
  (List.range 48).foldl (fun (w : List Nat) i =>
    let a := w.getD (i + 1) 0
    let b := w.getD (i + 14) 0
    let s0 := rotr 7 a ^^^ rotr 18 a ^^^ a / 8
    let s1 := rotr 17 b ^^^ rotr 19 b ^^^ b / 1024
    w ++ [(w.getD i 0 + s0 + w.getD (i + 9) 0 + s1) % 2 ^ 32]) ((groupsOf 4 block).map beNat)

/-- One round of SHA-256 on the eight working words. -/
def shaRound (s : List Nat) (kw : Nat) : List Nat :=
  match s with
  | [a, b, c, d, e, f, g, h] =>
    let t1 := h + (rotr 6 e ^^^ rotr 11 e ^^^ rotr 25 e) + ((e &&& f) ^^^ ((2 ^ 32 - 1 - e) &&& g)) + kw
    let t2 := (rotr 2 a ^^^ rotr 13 a ^^^ rotr 22 a) + ((a &&& b) ^^^ (a &&& c) ^^^ (b &&& c))
    [(t1 + t2) % 2 ^ 32, a, b, c, (d + t1) % 2 ^ 32, e, f, g]
  | _ => s

/-- One block of SHA-256. -/
def shaBlock (h : List Nat) (block : List Nat) : List Nat :=
  List.zipWith (fun x y => (x + y) % 2 ^ 32) h ((List.zipWith (· + ·) shaK (shaSchedule block)).foldl shaRound h)

/-- SHA-256: 32 bytes. -/
def sha256 (msg : List Nat) : List Nat :=
  let zeros := (64 - (msg.length + 9) % 64) % 64
  let m := msg ++ 0x80 :: List.replicate zeros 0 ++ beBytes 8 (8 * msg.length)
  ((groupsOf 64 m).foldl shaBlock
    [0x6a09e667, 0xbb67ae85, 0x3c6ef372, 0xa54ff53a, 0x510e527f, 0x9b05688c, 0x1f83d9ab, 0x5be0cd19]).flatMap (beBytes 4)

/-- HMAC-SHA-256 of a message under a key. -/
def hmacSha256 (key msg : List Nat) : List Nat :=
  let k0 := padTo 64 (if 64 < key.length then sha256 key else key)
  let k := if k0 = [] then List.replicate 64 0 else k0
  sha256 (k.map (· ^^^ 0x5c) ++ sha256 (k.map (· ^^^ 0x36) ++ msg))

/-- The first block of PBKDF2-HMAC-SHA-256 (RFC 8018): 32 bytes, after `n` iterations. -/
def pbkdf2 (pw salt : List Nat) (n : Nat) : List Nat :=
  let u1 := hmacSha256 pw (salt ++ [0, 0, 0, 1])
  ((List.range (n - 1)).foldl (fun (t : List Nat × List Nat) _ =>
    let u := hmacSha256 pw t.2
    (xorBytes t.1 u, u)) (u1, u1)).1

/-! ## RFC 3394 key wrap -/

/-- Wrap of material of whole 8-byte blocks under a KEK: 8 bytes more. -/
def keyWrap (kek material : List Nat) : List Nat :=
  let r0 := groupsOf 8 material
  let n := r0.length
  let x := (List.range (6 * n)).foldl (fun (t : List Nat × List (List Nat)) k =>
    let b := aesEnc kek (t.1 ++ t.2.getD (k % n) [])
    (xorBytes (b.take 8) (beBytes 8 (k + 1)), t.2.set (k % n) (b.drop 8))) (List.replicate 8 0xA6, r0)
  x.1 ++ x.2.flatten

/-- Unwrap of a blob: none when the integrity check fails. -/
def keyUnwrap (kek blob : List Nat) : Option (List Nat) :=
  let r0 := groupsOf 8 (blob.drop 8)
  let n := r0.length
  let x := (List.range (6 * n)).foldl (fun (t : List Nat × List (List Nat)) j =>
    let k := 6 * n - 1 - j
    let b := aesDec kek (xorBytes t.1 (beBytes 8 (k + 1)) ++ t.2.getD (k % n) [])
    (b.take 8, t.2.set (k % n) (b.drop 8))) (blob.take 8, r0)
  if x.1 = List.replicate 8 0xA6 then some x.2.flatten else none

/-! ## RSASSA-PSS (PKCS#1 v2.2) with SHA-256 and a salt of 32 bytes (R431, R432) -/

/-- `b ^ e` modulo `n`, for an exponent of at most `bits` bits. -/
def powMod (bits b e n : Nat) : Nat :=
  ((List.range bits).foldl (fun (t : Nat × Nat) i => (if e.testBit i then t.1 * t.2 % n else t.1, t.2 * t.2 % n)) (1 % n, b % n)).1

/-- MGF1-SHA-256: `n` bytes of mask. -/
def mgf1 (seed : List Nat) (n : Nat) : List Nat := ((List.range ((n + 31) / 32)).flatMap (fun i => sha256 (seed ++ beBytes 4 i))).take n

/-- The hash H of an encoded message: eight zeros, the digest and the salt. -/
def pssHash (digest salt : List Nat) : List Nat := sha256 (List.replicate 8 0 ++ digest ++ salt)

/-- The encoded message of `emBits` bits for a digest and a salt of 32 bytes. -/
def pssEncode (emBits : Nat) (digest salt : List Nat) : List Nat :=
  let len := (emBits + 7) / 8
  let h := pssHash digest salt
  let db := List.replicate (len - 66) 0 ++ 1 :: salt
  let m := xorBytes db (mgf1 h (len - 33))
  (m.take 1).map (fun b => b % 2 ^ (8 + emBits - 8 * len)) ++ m.drop 1 ++ h ++ [0xBC]

/-- Whether an encoded message of `emBits` bits belongs to a digest. -/
def pssCheck (emBits : Nat) (digest em : List Nat) : Bool :=
  let len := (emBits + 7) / 8
  let h := (em.drop (len - 33)).take 32
  let db := xorBytes (em.take (len - 33)) (mgf1 h (len - 33))
  decide (66 ≤ len ∧ em.getLastD 0 = 0xBC) && pssEncode emBits digest (db.drop (len - 65)) == em

/-- An RSA private key in CRT form (R430). -/
structure RsaKey where
  e : Nat
  p : Nat
  q : Nat
  dP : Nat
  dQ : Nat
  qInv : Nat
deriving DecidableEq, Repr

/-- Its modulus. -/
def RsaKey.n (k : RsaKey) : Nat := k.p * k.q

/-- The private-key operation, by the Chinese remainder theorem. -/
def RsaKey.power (k : RsaKey) (m : Nat) : Nat :=
  let a := powMod 1536 m k.dP k.p
  let b := powMod 1536 m k.dQ k.q
  b + k.q * (k.qInv * (a + k.p * k.q - b) % k.p)

/-- Bits of a modulus. -/
def bitLen (n : Nat) : Nat := if n = 0 then 0 else Nat.log2 n + 1

/-- RSASSA-PSS signature of a digest: 384 bytes, most significant first. -/
def rsaSign (k : RsaKey) (digest salt : List Nat) : List Nat := beBytes 384 (k.power (beNat (pssEncode (bitLen k.n - 1) digest salt)))

/-- RSASSA-PSS verification under modulus `n` and exponent `e`. -/
def rsaVerify (n sig e : Nat) (digest : List Nat) : Bool :=
  let b := bitLen n - 1
  let m := powMod 32 sig e n
  decide (sig < n ∧ m < 2 ^ (8 * ((b + 7) / 8))) && pssCheck b digest (beBytes ((b + 7) / 8) m)

/-- A private key from the bytes of e, p ‖ q ‖ dP ‖ dQ ‖ qInv (R430), each number most significant byte first; none when the check of R430
fails: e·dP ≡ 1 modulo p − 1. -/
def rsaKeyOf (e blob : List Nat) : Option RsaKey :=
  let part (i : Nat) : Nat := beNat ((blob.drop (192 * i)).take 192)
  let k : RsaKey := ⟨beNat e, part 0, part 1, part 2, part 3, part 4⟩
  if k.e * k.dP % (k.p - 1) = 1 % (k.p - 1) then some k else none

end Sys2Proof.Machine
end

