-- ==== Sys2Proof/Machine/Psdu.lean ====
section
/-! DEFINITION. The bytes that spell an IEEE 802.15.4-2020 frame (R5, R245–R248): its header, information elements, payload, MIC and FCS,
and the CCM* protection of it. -/

namespace Sys2Proof.Machine

/-! ## Header -/

/-- The addressing mode of an address. -/
def Addr.mode : Addr → Nat
  | .none => 0
  | .short _ => 2
  | .ext _ => 3

/-- The bytes of an address on air. -/
def Addr.bytes : Addr → List Nat
  | .none => []
  | .short a => leBytes 2 a
  | .ext e => leBytes 8 e

/-- Whether PAN ID Compression is set, of frame version 0b10: where the addresses leave a choice, so that just the destination PAN ID that
the frame has is sent. -/
def Frame.panComp (f : Frame) : Bool :=
  match f.dst, f.src with
  | .none, .none => f.dstPan.isSome
  | .ext _, .ext _ | .none, _ | _, .none => f.dstPan.isNone
  | _, _ => true

/-- Whether the frame has header or payload information elements. -/
def Frame.hasIes (f : Frame) : Bool := f.tcIe.isSome || f.tsync.isSome || f.vendor != [] || f.ies != [] || f.pies

/-- The frame control field. -/
def Frame.control (f : Frame) : Nat :=
  f.ftype % 8 + (if f.secLevel = 0 then 0 else 8) + (if f.ackReq then 32 else 0) + (if f.panComp then 64 else 0)
    + (if f.hasIes then 512 else 0) + f.dst.mode * 1024 + f.version % 4 * 4096 + f.src.mode * 16384

/-- The auxiliary security header: level and key identifier mode, frame counter, key index. -/
def Frame.auxBytes (f : Frame) : List Nat :=
  if f.secLevel = 0 then []
  else [f.secLevel % 8 + f.keyMode % 4 * 8] ++ leBytes 4 f.fc ++ (if f.keyMode = 1 then [f.keyIndex % 256] else [])

/-! ## Information elements (R248) -/

/-- A header IE: length, element number, content. -/
def headerIe (id : Nat) (content : List Nat) : List Nat := leBytes 2 (content.length % 128 + id % 256 * 128) ++ content
/-- A payload IE: length, group number, content. -/
def payloadIe (id : Nat) (content : List Nat) : List Nat := leBytes 2 (content.length % 2048 + id % 16 * 2048 + 32768) ++ content

/-- The payload IEs: the TSCH Synchronization IE nested in an MLME IE, the others, and the Payload Termination IE before payload bytes. -/
def Frame.payloadIes (f : Frame) : List Nat :=
  let sync := match f.tsync with
    | some a => payloadIe 1 (leBytes 2 (6 + 0x1A * 256) ++ leBytes 5 a ++ [f.join % 256])
    | none => []
  let rest := (f.ies.filter (fun e => e.1)).flatMap (fun e => payloadIe e.2.1 e.2.2)
  let all := sync ++ rest
  if all = [] then [] else all ++ (if f.payload = [] then [] else payloadIe 15 [])

/-- The header IEs: Time Correction, vendor, the others, and a Header Termination IE where something follows: 1 before payload IEs, 2 before
payload bytes. -/
def Frame.headerIes (f : Frame) : List Nat :=
  let tc := match f.tcIe with
    | some t => headerIe 0x1E (leBytes 2 ((t % 4096).toNat))
    | none => []
  let all := tc ++ (if f.vendor = [] then [] else headerIe 0x00 f.vendor) ++ (f.ies.filter (fun e => !e.1)).flatMap (fun e => headerIe e.2.1 e.2.2)
  if f.hasIes = false then []
  else if f.pies ∨ f.payloadIes ≠ [] then all ++ headerIe 0x7E []
  else if f.payload = [] then all
  else all ++ headerIe 0x7F []

/-- The MAC header with its IEs: what no level encrypts. -/
def Frame.open_ (f : Frame) : List Nat :=
  leBytes 2 f.control ++ [f.seqNo % 256] ++ (match f.dstPan with | some p => leBytes 2 p | none => []) ++ f.dst.bytes ++ f.src.bytes ++ f.auxBytes
    ++ f.headerIes

/-- The bytes between the header and the MIC; encrypted payload IEs stand in the payload. -/
def Frame.body (f : Frame) : List Nat := (if 4 < f.secLevel then [] else f.payloadIes) ++ f.payload

/-- Bytes of the MIC of a security level (R247). -/
def micBytes (level : Nat) : Nat :=
  match level % 4 with
  | 1 => 4
  | 2 => 8
  | 3 => 16
  | _ => 0

/-- The 16-bit CRC of a 2-byte FCS: polynomial x^16+x^12+x^5+1, initial value 0, bit 0 first. -/
def fcs16 (bytes : List Nat) : Nat := revBits 16 ((bytes.flatMap byteBits).foldl (crcShift 16 0x1021) 0)

/-- The FCS of a frame's bytes (R246): the CRC-32 of the standard, over at least four bytes, or the 16-bit CRC; a frame whose FCS is not
correct carries another. -/
def Frame.fcsBytes (f : Frame) (l : List Nat) : List Nat :=
  let bad := if f.fcsOk then 0 else 1
  if f.fcs4 then leBytes 4 (crc32 (l ++ List.replicate (4 - l.length) 0) ^^^ bad) else leBytes 2 (fcs16 l ^^^ bad)

/-- The PSDU of a frame, from the first byte of its header through the FCS. -/
def psduBytes (f : Frame) : List Nat :=
  let l := f.open_ ++ f.body ++ leBytes (micBytes f.secLevel) f.mic
  l ++ f.fcsBytes l

/-- The frame with its length in bytes. -/
def Frame.sized (f : Frame) : Frame := { f with len := (psduBytes f).length }

/-! ## CCM* (R247) -/

/-- The nonce: source EUI-64, frame counter, security level. -/
def ccmNonce (eui fc level : Nat) : List Nat := beBytes 8 eui ++ beBytes 4 fc ++ [level]

/-- A frame sealed at its level under 16 bytes of key, from the device of EUI-64 `eui`: payload encrypted at levels 5 to 7, MIC formed. -/
def Frame.sealWith (key : List Nat) (eui : Nat) (f : Frame) : Frame :=
  let n := ccmNonce eui f.fc f.secLevel
  let M := micBytes f.secLevel
  if 4 < f.secLevel then
    let pies := f.payloadIes
    let clear := { f with pies := pies != [], tsync := none, ies := f.ies.filter (fun e => !e.1) }
    let r := ccmSeal key n { clear with payload := pies ++ f.payload }.open_ (pies ++ f.payload) M
    { clear with payload := r.1, mic := leNat r.2 }
  else { f with mic := leNat (ccmSeal key n (f.open_ ++ f.body) [] M).2 }

/-- The payload IEs that open decrypted payload bytes: the TSCH Synchronization IE in an MLME IE, the others, and what follows. -/
def takeIes : Nat → List Nat → Frame → Frame
  | 0, l, f => { f with payload := l }
  | n + 1, l, f =>
    match l with
    | a :: b :: rest =>
      let w := a + 256 * b
      let c := rest.take (w % 2048)
      let more := rest.drop (w % 2048)
      let id := w / 2048 % 16
      if w < 32768 then { f with payload := l }
      else if id = 15 then { f with payload := more }
      else if id = 1 ∧ c.take 2 = [6, 0x1A] then takeIes n more { f with tsync := some (leNat ((c.drop 2).take 5)), join := c.getD 7 0 }
      else takeIes n more { f with ies := f.ies ++ [(true, id, c)] }
    | _ => { f with payload := l }

/-- A frame checked and decrypted under 16 bytes of key, from the device of EUI-64 `eui`: none when the MIC fails. -/
def Frame.openWith (key : List Nat) (eui : Nat) (f : Frame) : Option Frame :=
  let n := ccmNonce eui f.fc f.secLevel
  let M := micBytes f.secLevel
  let tag (a m : List Nat) : Nat := leNat (xorBytes (ccmTag key n a m M) (aesEnc key (ccmCtr n 0)))
  if 4 < f.secLevel then
    let m := ctrMode key (ccmCtr n) 1 f.payload
    if tag f.open_ m = f.mic then some (if f.pies then takeIes m.length m { f with pies := false } else { f with payload := m }) else none
  else if tag (f.open_ ++ f.body) [] = f.mic then some f else none

end Sys2Proof.Machine
end

