-- ==== Sys2Proof/Machine/Sixlo.lean ====
section
/-! DEFINITION. IPv6 packets as bytes (RFC 8200, RFC 6554) and their 6LoWPAN form (RFC 6282), in both directions (R5, R303–R305). -/

namespace Sys2Proof.Machine

/-! ## IPv6 bytes -/

/-- The 16 bytes of an address. -/
def Ip6.bytes (a : Ip6) : List Nat := beBytes 8 a.pfx ++ beBytes 8 a.iid

/-- The address that 16 bytes spell. -/
def Ip6.ofBytes (l : List Nat) : Ip6 := ⟨beNat (l.take 8), beNat ((l.drop 8).take 8)⟩

/-- A routing header after its Next Header and Hdr Ext Len bytes (R303): type 3, Segments Left, CmprI and CmprE, and the addresses. -/
def RouteHdr.bytes (r : RouteHdr) : List Nat :=
  [3, r.segLeft % 256, r.cmpr % 16 * 16 + r.cmpr % 16, 0, 0, 0] ++ r.addrs.flatMap (fun a => a.bytes.drop r.cmpr)

/-- The routing header that bytes after Hdr Ext Len spell, under an outer destination whose first bytes its addresses elide. -/
def RouteHdr.ofBytes (dst : Ip6) (l : List Nat) : Option RouteHdr :=
  match l with
  | 3 :: sl :: cm :: _ :: _ :: _ :: rest =>
    let c := cm / 16
    if cm / 16 = cm % 16 ∧ (c = 0 ∨ c = 8) ∧ rest.length % (16 - c) = 0 then
      some ⟨sl, c, (rest.length + 7) / 8, (groupsOf (16 - c) rest).map (fun g => Ip6.ofBytes (dst.bytes.take c ++ g))⟩
    else none
  | _ => none

/-- The extension headers of a layer, its RFC 6554 routing header last, each by its protocol number and the bytes after its length. -/
def Layer.chain (x : Layer) : List (Nat × List Nat) :=
  x.exts ++ (match x.rh with | some r => [(43, r.bytes)] | none => [])

/-- An extension header in full: Next Header, Hdr Ext Len (the fragment header has a reserved byte there), content. -/
def extBytes (next : Nat) (e : Nat × List Nat) : List Nat := [next, if e.1 = 44 then 0 else (e.2.length + 2) / 8 - 1] ++ e.2

/-- Extension headers in full before a header of protocol `next`. -/
def chainBytes (next : Nat) : List (Nat × List Nat) → List Nat
  | [] => []
  | [e] => extBytes next e
  | e :: f :: es => extBytes f.1 e ++ chainBytes next (f :: es)

/-- The 40 bytes of an IPv6 header. -/
def Layer.header (x : Layer) (len next : Nat) : List Nat :=
  beBytes 4 (6 * 2 ^ 28 + x.tc % 256 * 2 ^ 20 + x.flow % 2 ^ 20) ++ beBytes 2 len ++ [next, x.hopLimit % 256] ++ x.src.bytes ++ x.dst.bytes

/-- The payload of the innermost header, its own header included. -/
def Packet.upper (p : Packet) : List Nat :=
  match p.udpDst, p.icmpType with
  | some d, _ => beBytes 2 p.udpSrc ++ beBytes 2 d ++ beBytes 2 (8 + p.data.length) ++ beBytes 2 p.csum ++ p.data
  | none, some t => (t % 256) :: p.data
  | none, none => p.data

/-- The protocol number of the innermost payload. -/
def Packet.protocol (p : Packet) : Nat := if p.udpDst.isSome then 17 else if p.icmpType.isSome then 58 else p.proto

/-- Headers in full around `inner`, a payload of protocol `next`. -/
def layersBytes (next : Nat) (inner : List Nat) : List Layer → List Nat
  | [] => inner
  | x :: xs =>
    let below := layersBytes next inner xs
    let n := match xs with | [] => next | _ :: _ => 41
    let c := chainBytes n x.chain
    x.header (c.length + below.length) ((x.chain.head?.map (fun e => e.1)).getD n) ++ c ++ below

/-- The bytes of a packet. -/
def Packet.bytes (p : Packet) : List Nat := layersBytes p.protocol p.upper p.layers

/-- Bytes of a packet. -/
def packetLen (p : Packet) : Nat := p.bytes.length

/-- The one's complement sum of bytes in 16-bit groups. -/
def onesSum (l : List Nat) : Nat :=
  let n := (groupsOf 2 (padTo 2 l)).foldl (fun a g => a + beNat g) 0
  let n1 := n / 65536 + n % 65536
  n1 / 65536 + n1 % 65536

/-- The UDP checksum of a packet: over its pseudo-header with the final destination, its UDP header with checksum 0, and its data. -/
def Packet.udpSum (p : Packet) : Nat :=
  let x := p.layers.getLastD p.outer
  let final := match x.rh with
    | some r => if r.segLeft = 0 then x.dst else r.addrs.getLastD x.dst
    | none => x.dst
  let u := { p with csum := 0 }.upper
  let s := 65535 - onesSum (x.src.bytes ++ final.bytes ++ beBytes 4 u.length ++ [0, 0, 0, 17] ++ u)
  if s = 0 then 65535 else s

/-! ## Reading headers -/

/-- What reading has found so far: finished headers from the outside in, the one being read, and the payload. -/
structure Read where
  outer : List Layer
  cur : Layer
deriving DecidableEq, Repr

/-- The packet of headers and an innermost payload of protocol `proto`. -/
def Read.packet (r : Read) (proto : Nat) (l : List Nat) : Packet :=
  let ls := r.outer ++ [r.cur]
  let h := ls.headD r.cur
  let p : Packet := { src := h.src, dst := h.dst, hopLimit := h.hopLimit, tc := h.tc, flow := h.flow, exts := h.exts, rh := h.rh,
                      inner := ls.drop 1, proto := proto, icmpType := none, udpDst := none, data := l }
  if proto = 17 ∧ 8 ≤ l.length then
    { p with udpSrc := beNat (l.take 2), udpDst := some (beNat ((l.drop 2).take 2)), csum := beNat ((l.drop 6).take 2), data := l.drop 8 }
  else if proto = 58 then
    match l with
    | t :: rest => { p with icmpType := some t, data := rest }
    | [] => p
  else p

/-- A layer with one more extension header. -/
def Layer.withExt (x : Layer) (proto : Nat) (c : List Nat) : Layer :=
  if proto = 43 then
    match RouteHdr.ofBytes x.dst c with
    | some r => { x with rh := some r }
    | none => { x with exts := x.exts ++ [(43, c)] }
  else { x with exts := x.exts ++ [(proto, c)] }

/-- The header that 40 bytes spell, and its Next Header. -/
def Layer.ofBytes (l : List Nat) : Layer × Nat :=
  let w := beNat (l.take 4)
  (⟨Ip6.ofBytes (l.drop 8), Ip6.ofBytes (l.drop 24), l.getD 7 0, w / 2 ^ 20 % 256, w % 2 ^ 20, [], none⟩, l.getD 6 0)

/-- Headers in full from a header of protocol `next` on. -/
def readRaw : Nat → Nat → List Nat → Read → Packet
  | 0, next, l, r => r.packet next l
  | n + 1, next, l, r =>
    if (next = 0 ∨ next = 43 ∨ next = 60) ∧ 8 ≤ l.length then
      let k := 8 * (l.getD 1 0 + 1)
      readRaw n (l.getD 0 0) (l.drop k) { r with cur := r.cur.withExt next ((l.take k).drop 2) }
    else if next = 44 ∧ 8 ≤ l.length then
      readRaw n (l.getD 0 0) (l.drop 8) { r with cur := r.cur.withExt 44 ((l.take 8).drop 2) }
    else if next = 41 ∧ 40 ≤ l.length then
      let h := Layer.ofBytes (l.take 40)
      readRaw n h.2 (l.drop 40) ⟨r.outer ++ [r.cur], h.1⟩
    else r.packet next l

/-- The packet that bytes spell in full; none when they hold no IPv6 header. -/
def Packet.ofBytes (l : List Nat) : Option Packet :=
  if l.length < 40 ∨ l.getD 0 0 / 16 ≠ 6 then none
  else
    let h := Layer.ofBytes (l.take 40)
    some (readRaw l.length h.2 (l.drop 40) ⟨[], h.1⟩)

/-! ## IPHC (RFC 6282) -/

/-- The contexts of compression (R300): an index's prefix where the context is valid. -/
abbrev Contexts := Nat → Option Nat

/-- The interface identifier of an EUI-64: bit 1 of its first byte inverted (R300). -/
def iidOfEui (eui : Nat) : Nat := eui ^^^ 2 ^ 57
/-- The interface identifier of a short address (R300). -/
def iidOfShort (a : Nat) : Nat := 0x000000FFFE000000 + a % 65536

/-- The interface identifier that a MAC address gives. -/
def Addr.iid : Addr → Option Nat
  | .none => Option.none
  | .short a => some (iidOfShort a)
  | .ext e => some (iidOfEui e)

/-- The prefix fe80::/64. -/
def linkLocal : Nat := 0xFE80000000000000

/-- What expansion makes of a 6LoWPAN payload (R304). -/
inductive Expanded where
  | unsupported
  | badCtx
  | csumFail
  | packet (p : Packet)
deriving DecidableEq, Repr

/-- What reading a field left: none where the bytes ran out or a mode is reserved, else the value and the bytes after it. -/
abbrev Took (α : Type) := Option (α × List Nat)

/-- Take `n` bytes. -/
def takeN (n : Nat) (l : List Nat) : Took (List Nat) := if l.length < n then none else some (l.take n, l.drop n)

/-- A unicast address of IPHC: the prefix it has and the mode (0 in full, 1 64 bits, 2 16 bits, 3 elided); `iid` is what an elided one has. -/
def takeUni (pfx : Nat) (mode : Nat) (iid : Option Nat) (l : List Nat) : Took Ip6 :=
  match mode with
  | 0 => (takeN 16 l).map (fun t => (Ip6.ofBytes t.1, t.2))
  | 1 => (takeN 8 l).map (fun t => (⟨pfx, beNat t.1⟩, t.2))
  | 2 => (takeN 2 l).map (fun t => (⟨pfx, iidOfShort (beNat t.1)⟩, t.2))
  | _ => iid.map (fun i => (⟨pfx, i⟩, l))

/-- A multicast destination of IPHC, by its mode: in full, 48, 32 or 8 bits. -/
def takeMulti (mode : Nat) (l : List Nat) : Took Ip6 :=
  match mode with
  | 0 => (takeN 16 l).map (fun t => (Ip6.ofBytes t.1, t.2))
  | 1 => (takeN 6 l).map (fun t => (⟨(0xFF00 + t.1.getD 0 0) * 2 ^ 48, beNat (t.1.drop 1)⟩, t.2))
  | 2 => (takeN 4 l).map (fun t => (⟨(0xFF00 + t.1.getD 0 0) * 2 ^ 48, beNat (t.1.drop 1)⟩, t.2))
  | _ => (takeN 1 l).map (fun t => (⟨0xFF02 * 2 ^ 48, t.1.getD 0 0⟩, t.2))

/-- A multicast destination under a unicast prefix (DAC = 1, mode 0): flags and scope, RIID, and the group. -/
def takeMultiCtx (pfx : Nat) (l : List Nat) : Took Ip6 :=
  (takeN 6 l).map (fun t => (⟨(0xFF00 + t.1.getD 0 0) * 2 ^ 48 + t.1.getD 1 0 * 2 ^ 40 + 64 * 2 ^ 32 + pfx / 2 ^ 32, pfx % 2 ^ 32 * 2 ^ 32 + beNat (t.1.drop 2)⟩, t.2))

/-- Traffic class and flow label by TF. -/
def takeTf (tf : Nat) (l : List Nat) : Took (Nat × Nat) :=
  let tcOf (b : Nat) : Nat := b % 64 * 4 + b / 64
  match tf with
  | 0 => (takeN 4 l).map (fun t => ((tcOf (t.1.getD 0 0), beNat (t.1.drop 1) % 2 ^ 20), t.2))
  | 1 => (takeN 3 l).map (fun t => ((t.1.getD 0 0 / 64, beNat t.1 % 2 ^ 20), t.2))
  | 2 => (takeN 1 l).map (fun t => ((tcOf (t.1.getD 0 0), 0), t.2))
  | _ => some ((0, 0), l)

/-- A header read by IPHC: the layer, its Next Header when that is inline, and the bytes after it; the inner choice is a bad context. -/
def takeIphc (ctx : Contexts) (src dst : Option Nat) (l : List Nat) : Option (Option (Layer × Option Nat × List Nat)) :=
  match l with
  | a :: b :: l0 =>
    let cid := b / 128 = 1
    let l1 := if cid then l0.drop 1 else l0
    let ci := if cid then l0.getD 0 0 else 0
    match takeTf (a / 8 % 4) l1 with
    | none => none
    | some (tf, l2) =>
      let nh := if a / 4 % 2 = 1 then none else some (l2.getD 0 59)
      let l3 := if a / 4 % 2 = 1 then l2 else l2.drop 1
      let hl := match a % 4 with | 0 => l3.getD 0 0 | 1 => 1 | 2 => 64 | _ => 255
      let l4 := if a % 4 = 0 then l3.drop 1 else l3
      let sac := b / 64 % 2
      let sam := b / 16 % 4
      let m := b / 8 % 2
      let dac := b / 4 % 2
      let dam := b % 4
      let sCtx := if sac = 1 ∧ sam ≠ 0 then ctx (ci / 16) else some linkLocal
      let dCtx := if dac = 1 then ctx (ci % 16) else some linkLocal
      match sCtx, dCtx with
      | some sp, some dp =>
        let sT := if sac = 1 ∧ sam = 0 then some ((⟨0, 0⟩ : Ip6), l4) else takeUni sp sam src l4
        match sT with
        | none => none
        | some (sa, l5) =>
          let dT := if m = 0 then (if dac = 1 ∧ dam = 0 then none else takeUni dp dam dst l5)
            else if dac = 0 then takeMulti dam l5 else if dam = 0 then takeMultiCtx dp l5 else none
          match dT with
          | none => none
          | some (da, l6) => some (some (⟨sa, da, hl, tf.1, tf.2, [], none⟩, nh, l6))
      | _, _ => some none
  | _ => none

/-- The protocol number of NHC's extension header EID. -/
def eidProto (eid : Nat) : Option Nat :=
  match eid with
  | 0 => some 0
  | 1 => some 43
  | 2 => some 44
  | 3 => some 60
  | _ => none

/-- Ports of NHC UDP, by its mode. -/
def takePorts (mode : Nat) (l : List Nat) : Took (Nat × Nat) :=
  match mode with
  | 0 => (takeN 4 l).map (fun t => ((beNat (t.1.take 2), beNat (t.1.drop 2)), t.2))
  | 1 => (takeN 3 l).map (fun t => ((beNat (t.1.take 2), 0xF000 + t.1.getD 2 0), t.2))
  | 2 => (takeN 3 l).map (fun t => ((0xF000 + t.1.getD 0 0, beNat (t.1.drop 1)), t.2))
  | _ => (takeN 1 l).map (fun t => ((0xF0B0 + t.1.getD 0 0 / 16, 0xF0B0 + t.1.getD 0 0 % 16), t.2))

/-- An extension header's bytes are brought to a whole number of 8 bytes with its length, by padding options (RFC 6282). -/
def padExt (proto : Nat) (c : List Nat) : List Nat :=
  let k := (8 - (c.length + 2) % 8) % 8
  if proto ≠ 0 ∧ proto ≠ 60 then c
  else c ++ (if k = 0 then [] else if k = 1 then [0] else [1, k - 2] ++ List.replicate (k - 2) 0)

/-- Compressed headers from an NHC byte on; `elide` says whether an elided UDP checksum is allowed (R304). -/
def readNhc (ctx : Contexts) (elide : Bool) : Nat → List Nat → Read → Expanded
  | 0, _, _ => .unsupported
  | n + 1, l, r =>
    match l with
    | [] => .unsupported
    | b :: l0 =>
      if b / 16 = 0xE then
        let eid := b / 2 % 8
        if eid = 7 then
          match takeIphc ctx (some r.cur.src.iid) (some r.cur.dst.iid) l0 with
          | none => .unsupported
          | some none => .badCtx
          | some (some (x, none, l1)) => readNhc ctx elide n l1 ⟨r.outer ++ [r.cur], x⟩
          | some (some (x, some nh, l1)) => .packet (readRaw l1.length nh l1 ⟨r.outer ++ [r.cur], x⟩)
        else
          match eidProto eid with
          | none => .unsupported
          | some proto =>
            let l1 := if b % 2 = 0 then l0.drop 1 else l0
            let len := l1.getD 0 0
            let c := (l1.drop 1).take len
            let l2 := l1.drop (1 + len)
            let r1 := { r with cur := r.cur.withExt proto (padExt proto c) }
            if b % 2 = 0 then .packet (readRaw l2.length (l0.getD 0 59) l2 r1) else readNhc ctx elide n l2 r1
      else if b / 8 = 0x1E then
        match takePorts (b % 4) l0 with
        | none => .unsupported
        | some (ps, l1) =>
          let noSum := b / 4 % 2 = 1
          let l2 := if noSum then l1 else l1.drop 2
          let p := { r.packet 59 l2 with proto := 17, udpSrc := ps.1, udpDst := some ps.2, csum := if noSum then 0 else beNat (l1.take 2) }
          if noSum then (if elide then .packet { p with csum := p.udpSum } else .unsupported) else .packet p
      else .unsupported

/-- Expansion of a 6LoWPAN payload (R304): the uncompressed dispatch 0x41, or IPHC; a packet whose UDP checksum is wrong fails. -/
def expandLowpan (ctx : Contexts) (elide : Bool) (src dst : Addr) (l : List Nat) : Expanded :=
  let x : Expanded :=
    match l with
    | 0x41 :: rest => match Packet.ofBytes rest with
      | some p => .packet p
      | none => .unsupported
    | b :: _ =>
      if b / 32 ≠ 3 then .unsupported
      else match takeIphc ctx src.iid dst.iid l with
        | none => .unsupported
        | some none => .badCtx
        | some (some (h, none, l1)) => readNhc ctx elide l1.length l1 ⟨[], h⟩
        | some (some (h, some nh, l1)) => .packet (readRaw l1.length nh l1 ⟨[], h⟩)
    | [] => .unsupported
  match x with
  | .packet p => if p.udpDst.isSome ∧ p.csum ≠ p.udpSum then .csumFail else .packet p
  | y => y

/-! ## Compression (R305) -/

/-- The shortest form of an interface identifier after a prefix that is elided: mode and bytes; `mac` is the identifier that may be elided. -/
def iidForm (mac : Option Nat) (iid : Nat) : Nat × List Nat :=
  if mac = some iid then (3, [])
  else if iid = iidOfShort iid then (2, beBytes 2 (iid % 65536))
  else (1, beBytes 8 iid)

/-- The shortest form of a unicast address: the context used (none: stateless), mode and bytes. -/
def uniForm (ctx : Contexts) (mac : Option Nat) (a : Ip6) : Option Nat × Nat × List Nat :=
  if a.pfx = linkLocal then (none, (iidForm mac a.iid).1, (iidForm mac a.iid).2)
  else match (List.range 16).find? (fun c => ctx c == some a.pfx) with
    | some c => (some c, (iidForm mac a.iid).1, (iidForm mac a.iid).2)
    | none => (none, 0, a.bytes)

/-- The shortest form of a multicast destination: the context used, mode and bytes. -/
def multiForm (ctx : Contexts) (a : Ip6) : Option Nat × Nat × List Nat :=
  let flags := a.pfx / 2 ^ 48 % 256
  let bare := decide (a.pfx % 2 ^ 48 = 0)
  let pfx := a.pfx % 2 ^ 32 * 2 ^ 32 + a.iid / 2 ^ 32
  if bare ∧ flags = 2 ∧ a.iid < 2 ^ 8 then (none, 3, beBytes 1 a.iid)
  else if bare ∧ a.iid < 2 ^ 24 then (none, 2, [flags] ++ beBytes 3 a.iid)
  else if bare ∧ a.iid < 2 ^ 40 then (none, 1, [flags] ++ beBytes 5 a.iid)
  else match (List.range 16).find? (fun c => ctx c == some pfx && a.pfx / 2 ^ 32 % 256 == 64) with
    | some c => (some c, 0, [flags, a.pfx / 2 ^ 40 % 256] ++ beBytes 4 (a.iid % 2 ^ 32))
    | none => (none, 0, a.bytes)

/-- The shortest form of traffic class and flow label: TF and bytes. -/
def tfForm (tc flow : Nat) : Nat × List Nat :=
  let b := tc % 4 * 64 + tc / 4 % 64
  if flow = 0 ∧ tc = 0 then (3, [])
  else if flow = 0 then (2, [b])
  else if tc / 4 = 0 then (1, beBytes 3 (tc % 4 * 2 ^ 22 + flow % 2 ^ 20))
  else (0, [b] ++ beBytes 3 (flow % 2 ^ 20))

/-- A header compressed by IPHC; `nh` is its Next Header where that is inline. -/
def iphcBytes (ctx : Contexts) (src dst : Option Nat) (x : Layer) (nh : Option Nat) : List Nat :=
  let tf := tfForm x.tc x.flow
  let hl := if x.hopLimit = 1 then 1 else if x.hopLimit = 64 then 2 else if x.hopLimit = 255 then 3 else 0
  let multi := decide (x.dst.pfx / 2 ^ 56 = 0xFF)
  let s := uniForm ctx src x.src
  let unspec := decide (x.src = ⟨0, 0⟩)
  let d := if multi then multiForm ctx x.dst else uniForm ctx dst x.dst
  let sc := if unspec then 0 else s.1.getD 0
  let dc := d.1.getD 0
  let cid := decide (sc ≠ 0 ∨ dc ≠ 0)
  let sBits := if unspec then 64 else (if s.1.isSome then 64 else 0) + s.2.1 * 16
  [0x60 + tf.1 * 8 + (if nh.isNone then 4 else 0) + hl,
   (if cid then 128 else 0) + sBits + (if multi then 8 else 0) + (if d.1.isSome then 4 else 0) + d.2.1]
    ++ (if cid then [sc * 16 + dc] else []) ++ tf.2 ++ (nh.toList) ++ (if hl = 0 then [x.hopLimit % 256] else [])
    ++ (if unspec then [] else s.2.2) ++ d.2.2

/-- Whether an extension header is encoded with NHC (R305): extension headers 0, 1 and 3. -/
def nhcExt (proto : Nat) : Option Nat :=
  match proto with
  | 0 => some 0
  | 43 => some 1
  | 60 => some 3
  | _ => none

/-- NHC UDP with its checksum inline. -/
def nhcUdp (p : Packet) (dport : Nat) : List Nat :=
  let s4 := decide (p.udpSrc / 16 = 0xF0B)
  let d4 := decide (dport / 16 = 0xF0B)
  let ports :=
    if s4 ∧ d4 then (3, [p.udpSrc % 16 * 16 + dport % 16])
    else if dport / 256 = 0xF0 then (1, beBytes 2 p.udpSrc ++ [dport % 256])
    else if p.udpSrc / 256 = 0xF0 then (2, [p.udpSrc % 256] ++ beBytes 2 dport)
    else (0, beBytes 2 p.udpSrc ++ beBytes 2 dport)
  [0xF0 + ports.1] ++ ports.2 ++ beBytes 2 p.csum

/-- Extension headers of a layer, compressed: `after` is what follows, as its protocol number when that is not compressed and its bytes. -/
def chainForm (after : Option Nat × List Nat) : List (Nat × List Nat) → Option Nat × List Nat
  | [] => after
  | e :: es =>
    let t := chainForm after es
    match nhcExt e.1 with
    | some eid =>
      (none, (match t.1 with
        | none => [0xE0 + eid * 2 + 1, e.2.length % 256]
        | some nh => [0xE0 + eid * 2, nh, e.2.length % 256]) ++ e.2 ++ t.2)
    | none => (some e.1, t.2)

/-- Whether everything from a layer's extension headers inward can be encoded with NHC: no extension header outside R305's set. -/
def Layer.nhcAll (x : Layer) : Bool := x.chain.all (fun e => (nhcExt e.1).isSome && decide (e.2.length < 256))

/-- Headers compressed around the innermost payload: a header whose extension headers NHC does not encode is followed by the rest in full. -/
def layersForm (ctx : Contexts) (p : Packet) : (src dst : Option Nat) → List Layer → List Nat
  | _, _, [] => []
  | src, dst, x :: xs =>
    let n := match xs with | [] => p.protocol | _ :: _ => 41
    if x.nhcAll = false then
      iphcBytes ctx src dst x (some ((x.chain.head?.map (fun e => e.1)).getD n)) ++ chainBytes n x.chain ++ layersBytes p.protocol p.upper xs
    else
      let after : Option Nat × List Nat :=
        match xs with
        | [] => match p.udpDst with
          | some d => (none, nhcUdp p d ++ p.data)
          | none => (some p.protocol, p.upper)
        | y :: _ =>
          let near (mac : Option Nat) (out : Nat) : Option Nat := if mac = some out then mac else none
          (none, 0xEF :: layersForm ctx p (near src x.src.iid) (near dst x.dst.iid) xs)
      let t := chainForm after x.chain
      iphcBytes ctx src dst x t.1 ++ t.2

/-- Compression of a packet for a frame between two MAC addresses (R305), through the contexts that may compress. -/
def compressLowpan (ctx : Contexts) (src dst : Addr) (p : Packet) : List Nat := layersForm ctx p src.iid dst.iid p.layers

end Sys2Proof.Machine
end

