-- ==== Sys2Proof/Machine/Bytes.lean ====
section
/-! DEFINITION. The bytes that spell what moves through the device: the metadata word (R120), the TX_DONE report (R213), Ethernet frames
(R577, R580), the data bytes of an item and the words of its cells (R312), the content of a MIRROR message (R467, R468) and of a PORT_RELAY
message (R12). -/

namespace Sys2Proof.Machine

/-- An integer in two's complement of `n` bits. -/
def twos (n : Nat) (v : Int) : Nat := (v % (2 ^ n : Nat)).toNat

/-- The metadata word of R120 as a number. -/
def Meta.bits (m : Meta) : Nat :=
  m.tsOff % 2 ^ 24 * 2 ^ 104 + m.asnLo % 2 ^ 8 * 2 ^ 96 + m.len % 2 ^ 11 * 2 ^ 85 + m.pers % 16 * 2 ^ 81 + m.profile % 2 ^ 8 * 2 ^ 73
    + m.fec % 4 * 2 ^ 71 + m.win % 4 * 2 ^ 69 + m.bin % 128 * 2 ^ 62 + m.hyp % 4 * 2 ^ 60 + m.aerial % 2 * 2 ^ 59
    + m.lane % 512 * 2 ^ 50 + twos 10 m.rssi * 2 ^ 40 + m.snr % 256 * 2 ^ 32 + m.corr % 64 * 2 ^ 26 + twos 16 m.cfo * 2 ^ 10
    + (if m.clip then 2 ^ 9 else 0) + (if m.gainStep then 2 ^ 8 else 0) + (if m.refSwitch then 2 ^ 7 else 0)
    + (if m.forked then 2 ^ 6 else 0) + (if m.restarted then 2 ^ 5 else 0) + (if m.errOnly then 2 ^ 4 else 0)

/-- The 18 bytes of a TX_DONE report (R213). -/
def TxReport.bytes (r : TxReport) : List Nat :=
  [0xB1, r.status, r.reason, r.flags] ++ leBytes 4 r.handle ++ [r.carrier, twos 8 r.power] ++ leBytes 3 r.start ++ [r.asnLo % 256] ++ leBytes 4 r.air

/-- The bytes of an Ethernet frame from its destination address up to, but not including, its FCS (R577). -/
def EthFrame.bytes (e : EthFrame) : List Nat :=
  beBytes 6 e.dst ++ beBytes 6 e.src
    ++ (match e.vlan with | some (vid, pcp) => [0x81, 0] ++ beBytes 2 (pcp % 8 * 2 ^ 13 + vid % 4096) | none => [])
    ++ beBytes 2 e.etherType ++ (match e.pkt with | some k => k.bytes | none => e.data)

/-- The trailer of a PTP event message's item (R580): NET seconds and ns. -/
def stampBytes (t : Nat × Nat) : List Nat := leBytes 6 t.1 ++ leBytes 4 t.2 ++ List.replicate 6 0

/-- The data bytes of an item (R312, R577, R580, R668). -/
def Body.spell : Body → List Nat
  | .empty => []
  | .up md _ f => psduBytes f ++ leBytes 16 md.bits
  | .packet p _ => p.bytes
  | .down f => psduBytes f
  | .ether e => e.bytes ++ (match e.stamp with | some t => stampBytes t | none => [])
  | .event e => e.bytes
  | .snap seq asn => leBytes 4 seq ++ leBytes 5 asn
  | .bytes b => b

/-- The 128 bytes of cell `i` of an item (R312): word 0 of the head cell holds the descriptor, words 1–7 bytes 0–111 of the data, and each
further cell 128 bytes. -/
def cellBytes (d : Desc) (b : Body) (i : Nat) : List Nat :=
  let l := d.bytes ++ b.spell
  ((l.drop (128 * i)).take 128) ++ List.replicate (128 - ((l.drop (128 * i)).take 128).length) 0

/-- The bytes of what crosses the mast–mast connection for a port (R12, log entry 152). -/
def Relay.bytes : Relay → List Nat
  | .ingress p st raw e stamp => [p, st, if raw then 1 else 0] ++ leBytes 6 stamp ++ e.bytes
  | .egress _ c len _ b => c :: leBytes 2 len ++ b.spell
  | .ptp b => b

/-- The content of a mirrored input after the 6 bytes of its STAMP (R467, R468); where the spec gives no layout, its fields in order
(log entry 152). -/
def Input.content : Input → List Nat
  | .frameUp k lane seq md f => leBytes 4 (lane * 2 ^ 23 + seq) ++ [k] ++ psduBytes f ++ leBytes 16 md.bits
  | .txDone k r => k :: r.bytes
  | .advice k b => k :: b
  | .farResp k tag o lo hi => [k] ++ leBytes 4 tag ++ [o] ++ leBytes 4 lo ++ leBytes 4 hi
  | .sailIrq k p => [k, 0xE0, if p then 1 else 0]
  | .ethFrame p st raw e => [p, st, if raw then 1 else 0] ++ e.bytes
  | .ringFrame r _ u k => [r, u] ++ k.bytes
  | .mgmtFrame _ k => k.bytes
  | .ptp b => b
  | .regWrite r page off w v b => [r] ++ leBytes 4 (page * 4096 + off) ++ [w] ++ leBytes 8 v ++ b.spell
  | .ext kind i v => [kind] ++ leBytes 4 i ++ leBytes 8 v
  | .drbg v => numBytes [v]
  | .data kind i v => [kind] ++ leBytes 4 i ++ leBytes 8 v
  | .slotEnd a => leBytes 5 a

/-- Payload bytes of an input's MIRROR message (R468): 6 of STAMP and the content. -/
def Input.bytes (i : Input) : Nat := 6 + i.content.length

/-- The port code of an input's source (R13, R468). -/
def Input.port : Input → Nat
  | .frameUp k _ _ _ _ | .txDone k _ | .advice k _ | .farResp k _ _ _ _ | .sailIrq k _ => k
  | .ethFrame p _ _ _ => if p < 4 then 8 + p else 14
  | .ringFrame _ _ _ _ | .mgmtFrame _ _ => 12
  | .regWrite _ _ _ _ _ _ => 12
  | _ => 15

end Sys2Proof.Machine
end

