-- ==== Sys2Proof/Machine/Regs.lean ====
section
/-! DEFINITION. The register map of the two die types: every word of every page that the spec's chapters list, with the
mask of each access type and its reset value (the register tables R45, R59, R90–R95, R129–R133, R170–R173, R189–R190,
R203–R205, R235–R242, R272–R277, R306–R311, R333–R336, R354–R358, R377–R382, R406–R411, R449–R463, R493–R498, R531–R534,
R541, R565–R573, R597–R601, R628–R633), and a name for every field.  A word is addressed by `page * 4096 + offset`;
a field of more than 32 bits is two fields, the second named `…_hi`. -/

namespace Sys2Proof.Machine

/-- A field of a register word: the word's address inside its die (`page * 4096 + offset`) and its bits `hi`:`lo`. -/
structure Fld where
  addr : Nat
  hi : Nat
  lo : Nat
deriving DecidableEq, Repr

/-- The same field of the `i`-th register of an array whose registers lie `stride` bytes apart. -/
def Fld.at (f : Fld) (stride i : Nat) : Fld := { f with addr := f.addr + stride * i }

/-- The same field `n` pages further on (the per-port and array pages). -/
def Fld.page (f : Fld) (n : Nat) : Fld := { f with addr := f.addr + 4096 * n }

/-- One row of the register map: `count` words, `stride` bytes apart, on `pages` pages, `pstep` pages apart; `runs` gives
their reset words in order (run length, word); then the bits of each access type (R541–R547); `cnt`: a counter that
`CTRL.CNT_CLR` clears; `snap`: copied by snapshot (R561); `bank`: one copy per requester. -/
structure RegRow where
  page : Nat
  pages : Nat
  pstep : Nat
  off : Nat
  stride : Nat
  count : Nat
  runs : List (Nat × Nat)
  rw : Nat
  rwb : Nat
  w1c : Nat
  rwl : Nat
  wot : Nat
  wo : Nat
  cnt : Bool
  snap : Bool
  bank : Bool
deriving DecidableEq, Repr

/-- Register rows of mast page 0x020, block MAC (R45, R59, R272). -/
def mastRows_MAC_020_0 : List RegRow :=
  [ ⟨0x20, 1, 1, 0x60, 4, 1, [(1, 0x7D0)], 0, 0x1FFF, 0, 0, 0, 0, false, false, false⟩  -- MAC.TX_TIMING
  , ⟨0x20, 1, 1, 0x40, 4, 1, [(1, 0)], 0, 0, 0, 0xFFFFFFFF, 0, 0, false, false, false⟩  -- MAC.OWN_EUI
  , ⟨0x20, 1, 1, 0x44, 4, 1, [(1, 0)], 0, 0, 0, 0xFFFFFFFF, 0, 0, false, false, false⟩  -- MAC.OWN_EUI[1]
  , ⟨0x20, 1, 1, 0x48, 4, 1, [(1, 0xFFFF0000)], 0, 0xFFFFFFFF, 0, 0, 0, 0, false, false, false⟩  -- MAC.OWN_ID
  , ⟨0x20, 1, 1, 0x4C, 4, 1, [(1, 0x40000000)], 0, 0xFF000100, 0, 0, 0, 0, false, false, false⟩  -- MAC.SEC_CFG
  , ⟨0x20, 1, 1, 0x50, 4, 1, [(1, 0)], 0, 0xFFFFFF, 0, 0, 0, 0, false, false, false⟩  -- MAC.IE_CFG
  , ⟨0x20, 1, 1, 0x54, 4, 1, [(1, 0x7D003E8)], 0, 0xFFF0FFF, 0, 0, 0, 0, false, false, false⟩  -- MAC.ACK_CFG
  , ⟨0x20, 1, 1, 0x58, 4, 1, [(1, 8)], 0, 0xF, 0, 0, 0, 0, false, false, false⟩  -- MAC.RETRY_CFG
  , ⟨0x20, 1, 1, 0x5C, 4, 1, [(1, 0xA4320C8)], 0, 0xFFFFFFFF, 0, 0, 0, 0, false, false, false⟩  -- MAC.DRIFT_CFG
  , ⟨0x20, 1, 1, 0x64, 4, 1, [(1, 1)], 0, 1, 0, 0, 0, 0, false, false, false⟩  -- MAC.SUPV_CFG
  , ⟨0x20, 1, 1, 0x68, 4, 1, [(1, 1)], 0, 3, 0, 0, 0, 0, false, false, false⟩  -- MAC.HINT_CFG
  , ⟨0x20, 1, 1, 0x70, 4, 1, [(1, 0)], 0x3FF, 0, 0, 0, 0, 0, false, false, false⟩  -- MAC.CHAN_SEL
  , ⟨0x20, 1, 1, 0x74, 4, 4, [(4, 0)], 0, 0xFFFFFFFF, 0, 0, 0, 0, false, false, false⟩  -- MAC.CHAN_DATA
  , ⟨0x20, 1, 1, 0x84, 4, 1, [(1, 0)], 0x803F03FF, 0, 0, 0, 0, 0, false, false, false⟩  -- MAC.MAP_SEL
  , ⟨0x20, 1, 1, 0x88, 4, 1, [(1, 0)], 0, 0x3FF, 0, 0, 0, 0, false, false, false⟩  -- MAC.MAP_DATA
  , ⟨0x20, 1, 1, 0x8C, 4, 1, [(1, 0)], 0, 0x7FF, 0, 0, 0, 0, false, false, false⟩  -- MAC.MAP_CTL
  , ⟨0x20, 1, 1, 0x90, 4, 1, [(1, 0x643F00)], 0, 0xFFFF3F7F, 0, 0, 0, 0, false, false, false⟩  -- MAC.BEACON_CFG
  , ⟨0x20, 1, 1, 0x94, 4, 1, [(1, 0x400000)], 0, 0xFFFFC1FF, 0, 0, 0, 0, false, false, false⟩  -- MAC.BEACON_RADIO
  , ⟨0x20, 1, 1, 0xA0, 4, 16, [(16, 0)], 0, 0x83FF, 0, 0, 0, 0, false, false, false⟩  -- MAC.BEACON_CH
  , ⟨0x20, 1, 1, 0xE0, 16, 4, [(4, 0)], 0, 0xFFFFFFFF, 0, 0, 0, 0, false, false, false⟩  -- MAC.PEER
  , ⟨0x20, 1, 1, 0xE4, 16, 4, [(4, 0)], 0, 0xFFFFFFFF, 0, 0, 0, 0, false, false, false⟩  -- MAC.PEER[1]
  , ⟨0x20, 1, 1, 0xE8, 16, 4, [(4, 0)], 0, 0x8000FFFF, 0, 0, 0, 0, false, false, false⟩  -- MAC.PEER[2]
  , ⟨0x20, 1, 1, 0xEC, 16, 4, [(4, 0)], 0, 0xFFFF, 0, 0, 0, 0, false, false, false⟩  -- MAC.PEER[3]
  , ⟨0x20, 1, 1, 0x140, 4, 16, [(16, 0)], 0, 0xFFFFFFFF, 0, 0, 0, 0, false, false, false⟩  -- MAC.BEACON_TPL
  , ⟨0x20, 1, 1, 0x440, 4, 1, [(1, 0)], 0, 0, 0, 0, 0, 0, true, true, false⟩  -- MAC.PLAN_OVERRUN
  , ⟨0x20, 1, 1, 0x444, 4, 1, [(1, 0)], 0, 0, 0, 0, 0, 0, true, true, false⟩  -- MAC.BUILD_OVERRUN
  , ⟨0x20, 1, 1, 0x448, 4, 1, [(1, 0)], 0, 0, 0, 0, 0, 0, true, true, false⟩  -- MAC.DELIVER_OVERRUN
  , ⟨0x20, 1, 1, 0x44C, 4, 1, [(1, 0)], 0, 0, 0, 0, 0, 0, true, true, false⟩  -- MAC.TICK_WITHDRAW
  , ⟨0x20, 1, 1, 0x450, 4, 1, [(1, 0)], 0, 0, 0, 0, 0, 0, true, true, false⟩  -- MAC.ACK_LATE
  , ⟨0x20, 1, 1, 0x454, 4, 1, [(1, 0)], 0, 0, 0, 0, 0, 0, true, true, false⟩  -- MAC.ACK_NOCARRIER
  ]

/-- Register rows of mast page 0x020, block MAC (R59, R274). -/
def mastRows_MAC_020_1 : List RegRow :=
  [ ⟨0x20, 1, 1, 0x458, 4, 1, [(1, 0)], 0, 0, 0, 0, 0, 0, true, true, false⟩  -- MAC.FIFO_OVER
  , ⟨0x20, 1, 1, 0x45C, 4, 1, [(1, 0)], 0, 0, 0, 0, 0, 0, false, true, false⟩  -- MAC.LATE_HWM
  , ⟨0x20, 1, 1, 0x400, 4, 1, [(1, 0)], 0, 0, 0, 0, 0, 0, false, true, false⟩  -- MAC.FC_RES
  , ⟨0x20, 1, 1, 0x404, 4, 1, [(1, 0)], 0, 0, 0, 0, 0, 0, false, true, false⟩  -- MAC.FC_BASE
  , ⟨0x20, 1, 1, 0x408, 4, 1, [(1, 0)], 0, 0, 0, 0, 0, 0, false, true, false⟩  -- MAC.FC_HI
  , ⟨0x20, 1, 1, 0x460, 4, 1, [(1, 0)], 0, 0, 0, 0, 0, 0, true, true, false⟩  -- MAC.DEDUP_COPIES
  , ⟨0x20, 1, 1, 0x464, 4, 1, [(1, 0)], 0, 0, 0, 0, 0, 0, true, true, false⟩  -- MAC.DEDUP_LATE
  , ⟨0x20, 1, 1, 0x468, 4, 1, [(1, 0)], 0, 0, 0, 0, 0, 0, true, true, false⟩  -- MAC.DEDUP_RETRY
  , ⟨0x20, 1, 1, 0x46C, 4, 1, [(1, 0)], 0, 0, 0, 0, 0, 0, true, true, false⟩  -- MAC.DEDUP_EVICT
  , ⟨0x20, 1, 1, 0x470, 4, 1, [(1, 0)], 0, 0, 0, 0, 0, 0, true, true, false⟩  -- MAC.CARRIER_BUSY
  , ⟨0x20, 1, 1, 0x474, 4, 1, [(1, 0)], 0, 0, 0, 0, 0, 0, true, true, false⟩  -- MAC.FCS_FAIL
  , ⟨0x20, 1, 1, 0x478, 4, 1, [(1, 0)], 0, 0, 0, 0, 0, 0, true, true, false⟩  -- MAC.FRAME_UNSUP
  , ⟨0x20, 1, 1, 0x47C, 4, 1, [(1, 0)], 0, 0, 0, 0, 0, 0, true, true, false⟩  -- MAC.ADDR_MISS
  , ⟨0x20, 1, 1, 0x480, 4, 1, [(1, 0)], 0, 0, 0, 0, 0, 0, true, true, false⟩  -- MAC.SEC_UNSUP
  , ⟨0x20, 1, 1, 0x484, 4, 1, [(1, 0)], 0, 0, 0, 0, 0, 0, true, true, false⟩  -- MAC.REPLAY_OLD
  , ⟨0x20, 1, 1, 0x488, 4, 1, [(1, 0)], 0, 0, 0, 0, 0, 0, true, true, false⟩  -- MAC.REPLAY_DUP
  , ⟨0x20, 1, 1, 0x48C, 4, 1, [(1, 0)], 0, 0, 0, 0, 0, 0, true, true, false⟩  -- MAC.TC_CLAMP
  , ⟨0x20, 1, 1, 0x490, 4, 1, [(1, 0)], 0, 0, 0, 0, 0, 0, true, true, false⟩  -- MAC.CH_OTHER
  , ⟨0x20, 1, 1, 0x494, 4, 1, [(1, 0)], 0, 0, 0, 0, 0, 0, true, true, false⟩  -- MAC.CH_FOREIGN
  , ⟨0x20, 1, 1, 0x498, 4, 1, [(1, 0)], 0, 0, 0, 0, 0, 0, true, true, false⟩  -- MAC.ACK_SENT
  , ⟨0x20, 1, 1, 0x49C, 4, 1, [(1, 0)], 0, 0, 0, 0, 0, 0, true, true, false⟩  -- MAC.DL_UNANSWERED
  , ⟨0x20, 1, 1, 0x4A0, 4, 1, [(1, 0)], 0, 0, 0, 0, 0, 0, true, true, false⟩  -- MAC.DL_ACK_LATE
  , ⟨0x20, 1, 1, 0x4A4, 4, 1, [(1, 0)], 0, 0, 0, 0, 0, 0, true, true, false⟩  -- MAC.DL_DROPPED
  , ⟨0x20, 1, 1, 0x4A8, 4, 1, [(1, 0)], 0, 0, 0, 0, 0, 0, true, true, false⟩  -- MAC.HELD_ENTRY
  , ⟨0x20, 1, 1, 0x4AC, 4, 1, [(1, 0)], 0, 0, 0, 0, 0, 0, true, true, false⟩  -- MAC.DRIFT_HOLD
  , ⟨0x20, 1, 1, 0x4B0, 4, 1, [(1, 0)], 0, 0, 0, 0, 0, 0, true, true, false⟩  -- MAC.NODE_LOST
  , ⟨0x20, 1, 1, 0x4B4, 4, 1, [(1, 0)], 0, 0, 0, 0, 0, 0, true, true, false⟩  -- MAC.NODE_FOUND
  , ⟨0x20, 1, 1, 0x4B8, 4, 1, [(1, 0)], 0, 0, 0, 0, 0, 0, true, true, false⟩  -- MAC.BEACON_SENT
  , ⟨0x20, 1, 1, 0x4BC, 4, 1, [(1, 0)], 0, 0, 0, 0, 0, 0, true, true, false⟩  -- MAC.BEACON_MISS
  , ⟨0x20, 1, 1, 0x4C0, 4, 1, [(1, 0)], 0, 0, 0, 0, 0, 0, true, true, false⟩  -- MAC.PEER_MISS
  ]

/-- Register rows of mast page 0x020, block MAC (R274). -/
def mastRows_MAC_020_2 : List RegRow :=
  [ ⟨0x20, 1, 1, 0x4C4, 4, 1, [(1, 0)], 0, 0, 0, 0, 0, 0, true, true, false⟩  -- MAC.HINT_WRITTEN
  , ⟨0x20, 1, 1, 0x4C8, 4, 1, [(1, 0)], 0, 0, 0, 0, 0, 0, true, true, false⟩  -- MAC.HINT_CONFLICT
  , ⟨0x20, 1, 1, 0x4CC, 4, 1, [(1, 0)], 0, 0, 0, 0, 0, 0, true, true, false⟩  -- MAC.FC_EXHAUSTED
  , ⟨0x20, 1, 1, 0x4D0, 4, 1, [(1, 0)], 0, 0, 0, 0, 0, 0, true, true, false⟩  -- MAC.FC_RESERVE
  , ⟨0x20, 1, 1, 0x4D4, 4, 1, [(1, 0)], 0, 0, 0, 0, 0, 0, true, true, false⟩  -- MAC.LINK_INVALID
  , ⟨0x20, 1, 1, 0x4D8, 4, 1, [(1, 0)], 0, 0, 0, 0, 0, 0, true, true, false⟩  -- MAC.CHANNEL_INVALID
  , ⟨0x20, 1, 1, 0x4DC, 4, 1, [(1, 0)], 0, 0, 0, 0, 0, 0, true, true, false⟩  -- MAC.NO_PORT
  , ⟨0x20, 1, 1, 0x4E0, 4, 1, [(1, 0)], 0, 0, 0, 0, 0, 0, true, true, false⟩  -- MAC.PROFILE_INVALID
  , ⟨0x20, 1, 1, 0x500, 4, 16, [(16, 0)], 0, 0, 0, 0, 0, 0, false, true, false⟩  -- MAC.FC_GROUP
  , ⟨0x20, 1, 1, 0x40C, 4, 1, [(1, 0)], 0, 0, 0x3F, 0, 0, 0, false, false, false⟩  -- MAC.BEACON_STATE
  , ⟨0x20, 1, 1, 0x410, 4, 1, [(1, 0)], 0, 0, 0xF, 0, 0, 0, false, false, false⟩  -- MAC.PEER_STATE
  , ⟨0x20, 1, 1, 0x414, 4, 1, [(1, 0)], 0, 0, 0xFFFFFFFF, 0, 0, 0, false, false, false⟩  -- MAC.CFG_ERR
  ]

def mastRows_MAC_020 : List RegRow := mastRows_MAC_020_0 ++ mastRows_MAC_020_1 ++ mastRows_MAC_020_2

/-- Register rows of mast page 0x021, block DWELL (R276, R277). -/
def mastRows_DWELL_021 : List RegRow :=
  [ ⟨0x21, 1, 1, 0x40, 8, 8, [(8, 0)], 0, 0xFFFF, 0, 0, 0, 0, false, false, false⟩  -- DWELL.CLASS_WIN
  , ⟨0x21, 1, 1, 0x44, 8, 8, [(8, 0)], 0, 0xFFFFFFFF, 0, 0, 0, 0, false, false, false⟩  -- DWELL.CLASS_LIM
  , ⟨0x21, 1, 1, 0x80, 4, 1, [(1, 0)], 0x3FF, 0, 0, 0, 0, 0, false, false, false⟩  -- DWELL.QUERY_SEL
  , ⟨0x21, 1, 1, 0x400, 4, 1, [(1, 0)], 0, 0, 0, 0, 0, 0, false, false, false⟩  -- DWELL.LEDGER
  , ⟨0x21, 1, 1, 0x404, 4, 1, [(1, 0)], 0, 0, 0, 0, 0, 0, false, false, false⟩  -- DWELL.QUERY_USED
  , ⟨0x21, 1, 1, 0x408, 4, 1, [(1, 0)], 0, 0, 0x3FFFF, 0, 0, 0, false, false, false⟩  -- DWELL.LEDGER_HWM
  , ⟨0x21, 1, 1, 0x40C, 4, 1, [(1, 0)], 0, 0, 0, 0, 0, 0, false, false, false⟩  -- DWELL.STATUS
  , ⟨0x21, 1, 1, 0x410, 4, 1, [(1, 0)], 0, 0, 0, 0, 0, 0, true, true, false⟩  -- DWELL.DEFER
  , ⟨0x21, 1, 1, 0x414, 4, 1, [(1, 0)], 0, 0, 0, 0, 0, 0, true, true, false⟩  -- DWELL.LEDGER_FULL
  , ⟨0x21, 1, 1, 0x418, 4, 1, [(1, 0)], 0, 0, 0, 0, 0, 0, true, true, false⟩  -- DWELL.ACK_DROP
  , ⟨0x21, 1, 1, 0x41C, 4, 1, [(1, 0)], 0, 0, 0, 0, 0, 0, true, true, false⟩  -- DWELL.BEACON_DROP
  ]

/-- Register rows of mast page 0x018, block NODETAB (R306, R307). -/
def mastRows_NODETAB_018_0 : List RegRow :=
  [ ⟨0x18, 1, 1, 0x40, 4, 1, [(1, 0)], 0xFFFFFFFF, 0, 0, 0, 0, 0, false, false, false⟩  -- NODETAB.SEED_CUR
  , ⟨0x18, 1, 1, 0x44, 4, 1, [(1, 0)], 0xFFFFFFFF, 0, 0, 0, 0, 0, false, false, false⟩  -- NODETAB.SEED_CUR[1]
  , ⟨0x18, 1, 1, 0x48, 4, 1, [(1, 0)], 0xFFFFFFFF, 0, 0, 0, 0, 0, false, false, false⟩  -- NODETAB.SEED_NEW
  , ⟨0x18, 1, 1, 0x4C, 4, 1, [(1, 0)], 0xFFFFFFFF, 0, 0, 0, 0, 0, false, false, false⟩  -- NODETAB.SEED_NEW[1]
  , ⟨0x18, 1, 1, 0x50, 4, 1, [(1, 0x8002A300)], 0, 0x807FFFFF, 0, 0, 0, 0, false, false, false⟩  -- NODETAB.AGE_CFG
  , ⟨0x18, 1, 1, 0x54, 4, 1, [(1, 0x10001000)], 0, 0xFFFFFFFF, 0, 0, 0, 0, false, false, false⟩  -- NODETAB.RATE_CFG
  , ⟨0x18, 1, 1, 0x58, 4, 1, [(1, 3)], 0, 3, 0, 0, 0, 0, false, false, false⟩  -- NODETAB.LEARN_CFG
  , ⟨0x18, 1, 1, 0x5C, 4, 1, [(1, 4)], 4, 0, 0, 0, 0, 3, false, false, false⟩  -- NODETAB.REHASH_CTL
  , ⟨0x18, 1, 1, 0x80, 4, 1, [(1, 0)], 0xFFFFFFFF, 0, 0, 0, 0, 0, false, false, false⟩  -- NODETAB.CMD_KEY
  , ⟨0x18, 1, 1, 0x84, 4, 1, [(1, 0)], 0xFFFFFFFF, 0, 0, 0, 0, 0, false, false, false⟩  -- NODETAB.CMD_KEY[1]
  , ⟨0x18, 1, 1, 0x88, 4, 1, [(1, 0)], 0xFFFFF, 0, 0, 0, 0, 0, false, false, false⟩  -- NODETAB.CMD_NODE
  , ⟨0x18, 1, 1, 0x8C, 4, 1, [(1, 0xF)], 0xFFFF010F, 0, 0, 0, 0, 0, false, false, false⟩  -- NODETAB.CMD_ARG
  , ⟨0x18, 1, 1, 0x90, 4, 1, [(1, 0)], 0, 0, 0, 0, 0, 0xF, false, false, false⟩  -- NODETAB.CMD_OP
  , ⟨0x18, 1, 1, 0x400, 4, 1, [(1, 0)], 0, 0, 2, 0, 0, 0, false, false, false⟩  -- NODETAB.NT_STATUS
  , ⟨0x18, 1, 1, 0x404, 4, 1, [(1, 0)], 0, 0, 0, 0, 0, 0, false, false, false⟩  -- NODETAB.CMD_RESULT
  , ⟨0x18, 1, 1, 0x408, 4, 1, [(1, 0)], 0, 0, 0, 0, 0, 0, false, false, false⟩  -- NODETAB.CMD_LOC
  , ⟨0x18, 1, 1, 0x40C, 4, 1, [(1, 0)], 0, 0, 0, 0, 0, 0, false, false, false⟩  -- NODETAB.COUNT
  , ⟨0x18, 1, 1, 0x410, 4, 1, [(1, 0)], 0, 0, 0, 0, 0, 0, false, false, false⟩  -- NODETAB.OLD_LEFT
  , ⟨0x18, 1, 1, 0x414, 4, 1, [(1, 0)], 0, 0, 0, 0, 0, 0, false, false, false⟩  -- NODETAB.BITTERN_USE
  , ⟨0x18, 1, 1, 0x418, 4, 1, [(1, 0)], 0, 0, 0x3FFF, 0, 0, 0, false, false, false⟩  -- NODETAB.BITTERN_HWM
  , ⟨0x18, 1, 1, 0x41C, 4, 1, [(1, 0)], 0, 0, 0, 0, 0, 0, false, false, false⟩  -- NODETAB.NOW
  , ⟨0x18, 1, 1, 0x420, 4, 1, [(1, 0)], 0, 0, 0, 0, 0, 0, true, true, false⟩  -- NODETAB.LOOKUPS
  , ⟨0x18, 1, 1, 0x424, 4, 1, [(1, 0)], 0, 0, 0, 0, 0, 0, true, true, false⟩  -- NODETAB.MISSES
  , ⟨0x18, 1, 1, 0x428, 4, 1, [(1, 0)], 0, 0, 0, 0, 0, 0, true, true, false⟩  -- NODETAB.PORT_MOVE
  , ⟨0x18, 1, 1, 0x42C, 4, 1, [(1, 0)], 0, 0, 0, 0, 0, 0, true, true, false⟩  -- NODETAB.STATIC_MISMATCH
  , ⟨0x18, 1, 1, 0x430, 4, 1, [(1, 0)], 0, 0, 0, 0, 0, 0, true, true, false⟩  -- NODETAB.LEARN_REINSERT
  , ⟨0x18, 1, 1, 0x434, 4, 1, [(1, 0)], 0, 0, 0, 0, 0, 0, true, true, false⟩  -- NODETAB.LEARN_NOREC
  , ⟨0x18, 1, 1, 0x438, 4, 1, [(1, 0)], 0, 0, 0, 0, 0, 0, true, true, false⟩  -- NODETAB.AGED
  , ⟨0x18, 1, 1, 0x43C, 4, 1, [(1, 0)], 0, 0, 0, 0, 0, 0, true, true, false⟩  -- NODETAB.AGE_RACE
  , ⟨0x18, 1, 1, 0x440, 4, 1, [(1, 0)], 0, 0, 0, 0, 0, 0, true, true, false⟩  -- NODETAB.PARKED
  ]

/-- Register rows of mast page 0x018, block NODETAB (R307). -/
def mastRows_NODETAB_018_1 : List RegRow :=
  [ ⟨0x18, 1, 1, 0x444, 4, 1, [(1, 0)], 0, 0, 0, 0, 0, 0, true, true, false⟩  -- NODETAB.PEND_FULL
  , ⟨0x18, 1, 1, 0x448, 4, 1, [(1, 0)], 0, 0, 0, 0, 0, 0, true, true, false⟩  -- NODETAB.MOVED
  , ⟨0x18, 1, 1, 0x44C, 4, 1, [(1, 0)], 0, 0, 0, 0, 0, 0, true, true, false⟩  -- NODETAB.MOVE_DEFER
  , ⟨0x18, 1, 1, 0x450, 4, 1, [(1, 0)], 0, 0, 0, 0, 0, 0, true, true, false⟩  -- NODETAB.MOVE_RETRY
  , ⟨0x18, 1, 1, 0x454, 4, 1, [(1, 0)], 0, 0, 0, 0, 0, 0, true, true, false⟩  -- NODETAB.PROMOTED
  , ⟨0x18, 1, 1, 0x458, 4, 1, [(1, 0)], 0, 0, 0, 0, 0, 0, true, true, false⟩  -- NODETAB.DIRECT_WR
  , ⟨0x18, 1, 1, 0x45C, 4, 1, [(1, 0)], 0, 0, 0, 0, 0, 0, true, true, false⟩  -- NODETAB.SHORT_MISS
  , ⟨0x18, 1, 1, 0x460, 4, 1, [(1, 0)], 0, 0, 0, 0, 0, 0, true, true, false⟩  -- NODETAB.PEND_DISCARD
  ]

def mastRows_NODETAB_018 : List RegRow := mastRows_NODETAB_018_0 ++ mastRows_NODETAB_018_1

/-- Register rows of mast page 0x019, block ROUTE (R308, R309). -/
def mastRows_ROUTE_019 : List RegRow :=
  [ ⟨0x19, 1, 1, 0x40, 4, 1, [(1, 0x40000010)], 0, 0xFF00001F, 0, 0, 0, 0, false, false, false⟩  -- ROUTE.CFG
  , ⟨0x19, 1, 1, 0x44, 4, 1, [(1, 0xFFFFFFFF)], 0, 0xFFFFFFFF, 0, 0, 0, 0, false, false, false⟩  -- ROUTE.STATIONS
  , ⟨0x19, 1, 1, 0x48, 4, 1, [(1, 0xFF)], 0, 0xFF, 0, 0, 0, 0, false, false, false⟩  -- ROUTE.STATIONS2
  , ⟨0x19, 1, 1, 0x60, 4, 16, [(16, 0xFF000F)], 0, 0xFF3FFF, 0, 0, 0, 0, false, false, false⟩  -- ROUTE.UPMAP
  , ⟨0x19, 1, 1, 0x400, 4, 1, [(1, 0)], 0, 0, 0x1F, 0, 0, 0, false, false, false⟩  -- ROUTE.HOPS_HWM
  , ⟨0x19, 1, 1, 0x410, 4, 1, [(1, 0)], 0, 0, 0, 0, 0, 0, true, true, false⟩  -- ROUTE.WALKS
  , ⟨0x19, 1, 1, 0x414, 4, 1, [(1, 0)], 0, 0, 0, 0, 0, 0, true, true, false⟩  -- ROUTE.NO_PARENT
  , ⟨0x19, 1, 1, 0x418, 4, 1, [(1, 0)], 0, 0, 0, 0, 0, 0, true, true, false⟩  -- ROUTE.ROUTE_LOOP
  , ⟨0x19, 1, 1, 0x41C, 4, 1, [(1, 0)], 0, 0, 0, 0, 0, 0, true, true, false⟩  -- ROUTE.ROUTE_LONG
  , ⟨0x19, 1, 1, 0x420, 4, 1, [(1, 0)], 0, 0, 0, 0, 0, 0, true, true, false⟩  -- ROUTE.NO_NODE
  , ⟨0x19, 1, 1, 0x424, 4, 1, [(1, 0)], 0, 0, 0, 0, 0, 0, true, true, false⟩  -- ROUTE.HOP_LIMIT
  , ⟨0x19, 1, 1, 0x428, 4, 1, [(1, 0)], 0, 0, 0, 0, 0, 0, true, true, false⟩  -- ROUTE.NO_UPMAP
  , ⟨0x19, 1, 1, 0x42C, 4, 1, [(1, 0)], 0, 0, 0, 0, 0, 0, true, true, false⟩  -- ROUTE.NO_STATION
  , ⟨0x19, 1, 1, 0x430, 4, 1, [(1, 0)], 0, 0, 0, 0, 0, 0, true, true, false⟩  -- ROUTE.ENCAP
  ]

/-- Register rows of mast page 0x01A, block COMP (R310, R311). -/
def mastRows_COMP_01A : List RegRow :=
  [ ⟨0x1A, 1, 1, 0x40, 4, 1, [(1, 0xFF00)], 0, 0xFF01, 0, 0, 0, 0, false, false, false⟩  -- COMP.CFG
  , ⟨0x1A, 1, 1, 0x80, 16, 16, [(16, 0)], 0, 7, 0, 0, 0, 0, false, false, false⟩  -- COMP.CTX
  , ⟨0x1A, 1, 1, 0x84, 16, 16, [(16, 0)], 0, 0, 0, 0, 0, 0, false, false, false⟩  -- COMP.CTX[1]
  , ⟨0x1A, 1, 1, 0x88, 16, 16, [(16, 0)], 0, 0xFFFFFFFF, 0, 0, 0, 0, false, false, false⟩  -- COMP.CTX[2]
  , ⟨0x1A, 1, 1, 0x8C, 16, 16, [(16, 0)], 0, 0xFFFFFFFF, 0, 0, 0, 0, false, false, false⟩  -- COMP.CTX[3]
  , ⟨0x1A, 1, 1, 0x404, 4, 1, [(1, 0)], 0, 0, 1, 0, 0, 0, false, false, false⟩  -- COMP.CFG_ERR
  , ⟨0x1A, 1, 1, 0x410, 4, 1, [(1, 0)], 0, 0, 0, 0, 0, 0, true, true, false⟩  -- COMP.EXPANDED
  , ⟨0x1A, 1, 1, 0x414, 4, 1, [(1, 0)], 0, 0, 0, 0, 0, 0, true, true, false⟩  -- COMP.COMPRESSED
  , ⟨0x1A, 1, 1, 0x418, 4, 1, [(1, 0)], 0, 0, 0, 0, 0, 0, true, true, false⟩  -- COMP.UNSUP_DISPATCH
  , ⟨0x1A, 1, 1, 0x41C, 4, 1, [(1, 0)], 0, 0, 0, 0, 0, 0, true, true, false⟩  -- COMP.BAD_CTX
  , ⟨0x1A, 1, 1, 0x420, 4, 1, [(1, 0)], 0, 0, 0, 0, 0, 0, true, true, false⟩  -- COMP.CSUM_FAIL
  , ⟨0x1A, 1, 1, 0x424, 4, 1, [(1, 0)], 0, 0, 0, 0, 0, 0, true, true, false⟩  -- COMP.TOO_BIG
  ]

/-- Register rows of mast page 0x011, block SALTERN (R333, R334). -/
def mastRows_SALTERN_011_0 : List RegRow :=
  [ ⟨0x11, 1, 1, 0x40, 4, 4, [(1, 0), (1, 0x400), (1, 0x1000), (1, 0x4000)], 0, 0x3FFFF, 0, 0, 0, 0, false, false, false⟩  -- SALTERN.FLOOR
  , ⟨0x11, 1, 1, 0x50, 4, 1, [(1, 0x1040)], 0, 0x3FFF, 0, 0, 0, 0, false, false, false⟩  -- SALTERN.CHAIN_CFG
  , ⟨0x11, 1, 1, 0x54, 4, 1, [(1, 0x4000)], 0, 0x3FFFF, 0, 0, 0, 0, false, false, false⟩  -- SALTERN.CHAIN_MIN
  , ⟨0x11, 1, 1, 0x58, 4, 1, [(1, 0x10000)], 0, 0x3FFFF, 0, 0, 0, 0, false, false, false⟩  -- SALTERN.CHAIN_MAX
  , ⟨0x11, 1, 1, 0x5C, 4, 1, [(1, 0x2000400)], 0, 0xFFFFFFFF, 0, 0, 0, 0, false, false, false⟩  -- SALTERN.PAUSE_CFG
  , ⟨0x11, 1, 1, 0x60, 4, 1, [(1, 0x3E8)], 0, 0xFFFF, 0, 0, 0, 0, false, false, false⟩  -- SALTERN.PUSH_CFG
  , ⟨0x11, 1, 1, 0x70, 4, 1, [(1, 0)], 0xFFF, 0, 0, 0, 0, 0, false, false, false⟩  -- SALTERN.Q_SEL
  , ⟨0x11, 1, 1, 0x74, 4, 1, [(1, 0)], 0, 0xB001FFFF, 0, 0, 0, 0, false, false, false⟩  -- SALTERN.Q_CFG0
  , ⟨0x11, 1, 1, 0x78, 4, 1, [(1, 0)], 0, 0x3FFFF, 0, 0, 0, 0, false, false, false⟩  -- SALTERN.Q_CFG1
  , ⟨0x11, 1, 1, 0x80, 4, 1, [(1, 0)], 0, 0, 0, 0, 0, 0x80000FFF, false, false, false⟩  -- SALTERN.HWM_CLR
  , ⟨0x11, 1, 1, 0x90, 4, 1, [(1, 0)], 0xFFF, 0, 0, 0, 0, 0, false, false, true⟩  -- SALTERN.IO_SEL
  , ⟨0x11, 1, 1, 0x98, 4, 1, [(1, 0)], 0, 0, 0, 0, 0, 0, false, false, true⟩  -- SALTERN.POP
  , ⟨0x11, 1, 1, 0x9C, 4, 1, [(1, 0)], 0, 0, 0, 0, 0, 0, false, false, true⟩  -- SALTERN.POP[1]
  , ⟨0x11, 1, 1, 0xA0, 4, 1, [(1, 0)], 0, 0, 0, 0, 0, 0, false, false, true⟩  -- SALTERN.POP_HI
  , ⟨0x11, 1, 1, 0xA4, 4, 1, [(1, 0)], 0, 0, 0, 0, 0, 0, false, false, true⟩  -- SALTERN.POP_HI[1]
  , ⟨0x11, 1, 1, 0xA8, 4, 1, [(1, 0)], 0xFFFFFFFF, 0, 0, 0, 0, 0, false, false, true⟩  -- SALTERN.PUSH_HI
  , ⟨0x11, 1, 1, 0xAC, 4, 1, [(1, 0)], 0xFFFFFFFF, 0, 0, 0, 0, 0, false, false, true⟩  -- SALTERN.PUSH_HI[1]
  , ⟨0x11, 1, 1, 0xB0, 4, 1, [(1, 0)], 0, 0, 0, 0, 0, 0xFFFFFFFF, false, false, true⟩  -- SALTERN.PUSH
  , ⟨0x11, 1, 1, 0xB4, 4, 1, [(1, 0)], 0, 0, 0, 0, 0, 0xFFFFFFFF, false, false, true⟩  -- SALTERN.PUSH[1]
  , ⟨0x11, 1, 1, 0xB8, 4, 1, [(1, 0)], 0, 0, 0, 0, 0, 0, false, false, true⟩  -- SALTERN.ALLOC
  , ⟨0x11, 1, 1, 0xBC, 4, 1, [(1, 0)], 0, 0, 0, 0, 0, 0x1FFFF, false, false, false⟩  -- SALTERN.FREE
  , ⟨0x11, 1, 1, 0x400, 4, 1, [(1, 0x20000)], 0, 0, 0, 0, 0, 0, false, false, false⟩  -- SALTERN.BRINE
  , ⟨0x11, 1, 1, 0x404, 4, 1, [(1, 0)], 0, 0, 7, 0, 0, 0, false, false, false⟩  -- SALTERN.CFG_ERR
  , ⟨0x11, 1, 1, 0x408, 4, 1, [(1, 0x20000)], 0, 0, 0x3FFFF, 0, 0, 0, false, false, false⟩  -- SALTERN.BRINE_LWM
  , ⟨0x11, 1, 1, 0x40C, 4, 1, [(1, 0x14B00)], 0, 0, 0, 0, 0, 0, false, false, false⟩  -- SALTERN.SHARED
  , ⟨0x11, 1, 1, 0x410, 4, 1, [(1, 0)], 0, 0, 0, 0, 0, 0, false, false, false⟩  -- SALTERN.Q_CELLS
  , ⟨0x11, 1, 1, 0x414, 4, 1, [(1, 0x80000000)], 0, 0, 0x40000000, 0, 0, 0, false, false, false⟩  -- SALTERN.Q_ITEMS
  , ⟨0x11, 1, 1, 0x418, 4, 1, [(1, 0)], 0, 0, 0, 0, 0, 0, false, false, false⟩  -- SALTERN.Q_HEAD
  , ⟨0x11, 1, 1, 0x41C, 4, 1, [(1, 0)], 0, 0, 0, 0, 0, 0, false, false, false⟩  -- SALTERN.Q_TAIL
  , ⟨0x11, 1, 1, 0x420, 4, 1, [(1, 0)], 0, 0, 0, 0, 0, 0, false, false, false⟩  -- SALTERN.Q_DEPTH_HWM
  ]

/-- Register rows of mast page 0x011, block SALTERN (R334, R335). -/
def mastRows_SALTERN_011_1 : List RegRow :=
  [ ⟨0x11, 1, 1, 0x424, 4, 1, [(1, 0)], 0, 0, 0, 0, 0, 0, false, false, false⟩  -- SALTERN.Q_RES_HWM
  , ⟨0x11, 1, 1, 0x428, 4, 1, [(1, 0)], 0, 0, 0, 0, 0, 0, false, false, false⟩  -- SALTERN.CHAIN_CELLS
  , ⟨0x11, 1, 1, 0x42C, 4, 1, [(1, 0)], 0, 0, 0, 0, 0, 0, false, false, false⟩  -- SALTERN.CHAIN_HWM
  , ⟨0x11, 1, 1, 0x430, 4, 1, [(1, 0)], 0, 0, 7, 0, 0, 0, false, false, true⟩  -- SALTERN.IO_STATUS
  , ⟨0x11, 1, 1, 0x440, 4, 1, [(1, 0)], 0, 0, 0, 0, 0, 0, true, true, false⟩  -- SALTERN.HOLD
  , ⟨0x11, 1, 1, 0x444, 4, 1, [(1, 0)], 0, 0, 0, 0, 0, 0, true, true, false⟩  -- SALTERN.PUSH_TIMEOUT
  , ⟨0x11, 1, 1, 0x448, 4, 1, [(1, 0)], 0, 0, 0, 0, 0, 0, true, true, false⟩  -- SALTERN.PUSH_REFUSED
  , ⟨0x11, 1, 1, 0x44C, 4, 4, [(4, 0)], 0, 0, 0, 0, 0, 0, true, true, false⟩  -- SALTERN.ETH_DROP
  , ⟨0x11, 1, 1, 0x45C, 4, 1, [(1, 0)], 0, 0, 0, 0, 0, 0, true, true, false⟩  -- SALTERN.CHAIN_FULL
  , ⟨0x11, 1, 1, 0x460, 4, 1, [(1, 0)], 0, 0, 0, 0, 0, 0, true, true, false⟩  -- SALTERN.UNDERRUN
  , ⟨0x11, 1, 1, 0x464, 4, 1, [(1, 0)], 0, 0, 0, 0, 0, 0, true, true, false⟩  -- SALTERN.LOST_SPLICE
  , ⟨0x11, 1, 1, 0x468, 4, 1, [(1, 0)], 0, 0, 0, 0, 0, 0, true, true, false⟩  -- SALTERN.LINK_ERR
  ]

def mastRows_SALTERN_011 : List RegRow := mastRows_SALTERN_011_0 ++ mastRows_SALTERN_011_1

/-- Register rows of mast page 0x100, block QARR (R336). -/
def mastRows_QARR_100 : List RegRow :=
  [ ⟨0x100, 16, 1, 0x400, 4, 256, [(4096, 0x80000000)], 0, 0, 0, 0, 0, 0, false, true, false⟩  -- QARR.QLIVE
  ]

/-- Register rows of mast page 0x010, block HALYARD (R354, R355, R356). -/
def mastRows_HALYARD_010_0 : List RegRow :=
  [ ⟨0x10, 1, 1, 0x40, 4, 1, [(1, 0x3E8)], 0, 0xFFFF, 0, 0, 0, 0, false, false, false⟩  -- HALYARD.CFG
  , ⟨0x10, 1, 1, 0x44, 4, 1, [(1, 0)], 0, 0, 0, 0, 0, 0xFFFF, false, false, false⟩  -- HALYARD.RELEASE
  , ⟨0x10, 1, 1, 0x48, 4, 1, [(1, 0xFFFF)], 0xFFFF, 0, 0, 0, 0, 0, false, false, false⟩  -- HALYARD.IRQ_RELEASE
  , ⟨0x10, 1, 1, 0x4C, 4, 1, [(1, 0)], 0x3FF, 0, 0, 0, 0, 0, false, false, false⟩  -- HALYARD.FLOW_SEL
  , ⟨0x10, 1, 1, 0x50, 4, 1, [(1, 0)], 0, 0, 0, 0, 0, 0xC00000FF, false, false, false⟩  -- HALYARD.HWM_CLR
  , ⟨0x10, 1, 1, 0x80, 4, 128, [(128, 0)], 0xFFFFFFFF, 0, 0, 0, 0, 0, false, false, false⟩  -- HALYARD.ROLE
  , ⟨0x10, 1, 1, 0x300, 4, 1, [(1, 0)], 0, 0, 0, 0, 0, 0, false, false, true⟩  -- HALYARD.TAKE
  , ⟨0x10, 1, 1, 0x304, 4, 1, [(1, 0)], 0, 0, 0, 0, 0, 0, false, false, true⟩  -- HALYARD.TAKE[1]
  , ⟨0x10, 1, 1, 0x308, 4, 1, [(1, 0)], 0, 0, 0, 0, 0, 0, false, false, true⟩  -- HALYARD.TAKE_HI
  , ⟨0x10, 1, 1, 0x30C, 4, 1, [(1, 0)], 0, 0, 0, 0, 0, 0, false, false, true⟩  -- HALYARD.TAKE_HI[1]
  , ⟨0x10, 1, 1, 0x310, 4, 1, [(1, 0)], 0xFFFFFFFF, 0, 0, 0, 0, 0, false, false, true⟩  -- HALYARD.GIVE_HI
  , ⟨0x10, 1, 1, 0x314, 4, 1, [(1, 0)], 0xFFFFFFFF, 0, 0, 0, 0, 0, false, false, true⟩  -- HALYARD.GIVE_HI[1]
  , ⟨0x10, 1, 1, 0x318, 4, 1, [(1, 0)], 0, 0, 0, 0, 0, 0xFFFFFFFF, false, false, true⟩  -- HALYARD.GIVE
  , ⟨0x10, 1, 1, 0x31C, 4, 1, [(1, 0)], 0, 0, 0, 0, 0, 0xFFFFFFFF, false, false, true⟩  -- HALYARD.GIVE[1]
  , ⟨0x10, 1, 1, 0x320, 4, 1, [(1, 0)], 0, 0, 0, 0, 0, 1, false, false, true⟩  -- HALYARD.DONE
  , ⟨0x10, 1, 1, 0x400, 4, 1, [(1, 0)], 0, 0, 0, 0, 0, 0, false, false, false⟩  -- HALYARD.CORE_STATE
  , ⟨0x10, 1, 1, 0x404, 4, 1, [(1, 0)], 0, 0, 7, 0, 0, 0, false, false, false⟩  -- HALYARD.CFG_ERR
  , ⟨0x10, 1, 1, 0x408, 4, 1, [(1, 0)], 0, 0, 0, 0, 0, 0, false, false, false⟩  -- HALYARD.ORPHAN
  , ⟨0x10, 1, 1, 0x40C, 4, 1, [(1, 0)], 0, 0, 0, 0, 0, 0, false, false, false⟩  -- HALYARD.FLOW_STAT
  , ⟨0x10, 1, 1, 0x410, 4, 34, [(34, 0)], 0, 0, 0, 0, 0, 0, false, false, false⟩  -- HALYARD.LOAD
  , ⟨0x10, 1, 1, 0x4D0, 4, 1, [(1, 0)], 0, 0, 0, 0, 0, 0, false, false, false⟩  -- HALYARD.ENTRIES
  , ⟨0x10, 1, 1, 0x4D4, 4, 1, [(1, 0)], 0, 0, 0x7FFF, 0, 0, 0, false, false, false⟩  -- HALYARD.ENTRIES_HWM
  , ⟨0x10, 1, 1, 0x4E0, 4, 1, [(1, 0)], 0, 0, 0x1F, 0, 0, 0, false, false, true⟩  -- HALYARD.IO_STATUS
  , ⟨0x10, 1, 1, 0x4A0, 4, 1, [(1, 0)], 0, 0, 0, 0, 0, 0, true, true, false⟩  -- HALYARD.GIVES
  , ⟨0x10, 1, 1, 0x4A4, 4, 1, [(1, 0)], 0, 0, 0, 0, 0, 0, true, true, false⟩  -- HALYARD.TAKES
  , ⟨0x10, 1, 1, 0x4A8, 4, 1, [(1, 0)], 0, 0, 0, 0, 0, 0, true, true, false⟩  -- HALYARD.IDLE_TAKES
  , ⟨0x10, 1, 1, 0x4AC, 4, 1, [(1, 0)], 0, 0, 0, 0, 0, 0, true, true, false⟩  -- HALYARD.GIVE_TIMEOUT
  , ⟨0x10, 1, 1, 0x4B0, 4, 1, [(1, 0)], 0, 0, 0, 0, 0, 0, true, true, false⟩  -- HALYARD.GIVE_CLOSED
  , ⟨0x10, 1, 1, 0x4B4, 4, 1, [(1, 0)], 0, 0, 0, 0, 0, 0, true, true, false⟩  -- HALYARD.GIVE_REFUSED
  , ⟨0x10, 1, 1, 0x4B8, 4, 1, [(1, 0)], 0, 0, 0, 0, 0, 0, true, true, false⟩  -- HALYARD.ROLE_ORPHAN
  ]

/-- Register rows of mast page 0x010, block HALYARD (R356). -/
def mastRows_HALYARD_010_1 : List RegRow :=
  [ ⟨0x10, 1, 1, 0x4BC, 4, 1, [(1, 0)], 0, 0, 0, 0, 0, 0, true, true, false⟩  -- HALYARD.AFF_MOVE
  , ⟨0x10, 1, 1, 0x4C0, 4, 1, [(1, 0)], 0, 0, 0, 0, 0, 0, true, true, false⟩  -- HALYARD.FLOW_SKIP
  , ⟨0x10, 1, 1, 0x4C4, 4, 1, [(1, 0)], 0, 0, 0, 0, 0, 0, true, true, false⟩  -- HALYARD.DONE_EMPTY
  , ⟨0x10, 1, 1, 0x4C8, 4, 1, [(1, 0)], 0, 0, 0, 0, 0, 0, true, true, false⟩  -- HALYARD.RELEASED
  ]

def mastRows_HALYARD_010 : List RegRow := mastRows_HALYARD_010_0 ++ mastRows_HALYARD_010_1

/-- Register rows of mast page 0x110, block STAB (R357, R358). -/
def mastRows_STAB_110 : List RegRow :=
  [ ⟨0x110, 1, 1, 0x40, 8, 1, [(1, 0x82010200)], 0, 0xFFFF7FFF, 0, 0, 0, 0, false, false, false⟩  -- STAB.SCFG
  , ⟨0x110, 1, 1, 0x48, 8, 1, [(1, 0x90020200)], 0, 0xFFFF7FFF, 0, 0, 0, 0, false, false, false⟩  -- STAB.SCFG
  , ⟨0x110, 1, 1, 0x50, 8, 1, [(1, 0xD0030200)], 0, 0xFFFF7FFF, 0, 0, 0, 0, false, false, false⟩  -- STAB.SCFG
  , ⟨0x110, 1, 1, 0x58, 8, 1, [(1, 0xD00F0200)], 0, 0xFFFF7FFF, 0, 0, 0, 0, false, false, false⟩  -- STAB.SCFG
  , ⟨0x110, 1, 1, 0x60, 8, 1, [(1, 0x90050200)], 0, 0xFFFF7FFF, 0, 0, 0, 0, false, false, false⟩  -- STAB.SCFG
  , ⟨0x110, 1, 1, 0x68, 8, 1, [(1, 0xD0060200)], 0, 0xFFFF7FFF, 0, 0, 0, 0, false, false, false⟩  -- STAB.SCFG
  , ⟨0x110, 1, 1, 0x70, 8, 1, [(1, 0xD0090200)], 0, 0xFFFF7FFF, 0, 0, 0, 0, false, false, false⟩  -- STAB.SCFG
  , ⟨0x110, 1, 1, 0x78, 8, 1, [(1, 0x90FF0200)], 0, 0xFF007FFF, 0, 0, 0, 0, false, false, false⟩  -- STAB.SCFG
  , ⟨0x110, 1, 1, 0x80, 8, 1, [(1, 0x86090200)], 0, 0xFFFF7FFF, 0, 0, 0, 0, false, false, false⟩  -- STAB.SCFG
  , ⟨0x110, 1, 1, 0x88, 8, 1, [(1, 0x90FF0200)], 0, 0xFF007FFF, 0, 0, 0, 0, false, false, false⟩  -- STAB.SCFG
  , ⟨0x110, 1, 1, 0x90, 8, 1, [(1, 0x900B0200)], 0, 0xFFFF7FFF, 0, 0, 0, 0, false, false, false⟩  -- STAB.SCFG
  , ⟨0x110, 1, 1, 0x98, 8, 1, [(1, 0x900C0200)], 0, 0xFFFF7FFF, 0, 0, 0, 0, false, false, false⟩  -- STAB.SCFG
  , ⟨0x110, 1, 1, 0xA0, 8, 1, [(1, 0xD00D0200)], 0, 0xFFFF7FFF, 0, 0, 0, 0, false, false, false⟩  -- STAB.SCFG
  , ⟨0x110, 1, 1, 0xA8, 8, 1, [(1, 0xD0FF0200)], 0, 0xFF007FFF, 0, 0, 0, 0, false, false, false⟩  -- STAB.SCFG
  , ⟨0x110, 1, 1, 0xB0, 8, 1, [(1, 0xD0FF0200)], 0, 0xFF007FFF, 0, 0, 0, 0, false, false, false⟩  -- STAB.SCFG
  , ⟨0x110, 1, 1, 0xB8, 8, 1, [(1, 0xD0040200)], 0, 0xFFFF7FFF, 0, 0, 0, 0, false, false, false⟩  -- STAB.SCFG
  , ⟨0x110, 1, 1, 0xC0, 8, 1, [(1, 0xCC0D0200)], 0, 0xFFFF7FFF, 0, 0, 0, 0, false, false, false⟩  -- STAB.SCFG
  , ⟨0x110, 1, 1, 0xC8, 8, 1, [(1, 0x90FF0200)], 0, 0xFF007FFF, 0, 0, 0, 0, false, false, false⟩  -- STAB.SCFG
  , ⟨0x110, 1, 1, 0xD0, 8, 46, [(46, 0)], 0, 0, 0, 0, 0, 0, false, false, false⟩  -- STAB.SCFG
  , ⟨0x110, 4, 1, 0x400, 16, 64, [(256, 0)], 0, 0, 0, 0, 0, 0, false, true, false⟩  -- STAB.SDEPTH
  , ⟨0x110, 4, 1, 0x404, 16, 64, [(256, 0)], 0, 0, 0, 0, 0, 0, false, true, false⟩  -- STAB.SWAIT
  , ⟨0x110, 4, 1, 0x408, 16, 64, [(256, 0)], 0, 0, 0, 0, 0, 0, true, true, false⟩  -- STAB.SGIVES
  , ⟨0x110, 4, 1, 0x40C, 16, 64, [(256, 0)], 0, 0, 0, 0, 0, 0, true, true, false⟩  -- STAB.SHOLD
  ]

/-- Register rows of mast page 0x111, block STAB (R357). -/
def mastRows_STAB_111 : List RegRow :=
  [ ⟨0x111, 2, 1, 0x40, 8, 64, [(128, 0x50FF0000)], 0, 0x60007FFF, 0, 0, 0, 0, false, false, false⟩  -- STAB.SCFG
  ]

/-- Register rows of mast page 0x113, block STAB (R357). -/
def mastRows_STAB_113 : List RegRow :=
  [ ⟨0x113, 1, 1, 0x40, 8, 63, [(63, 0x50FF0000)], 0, 0x60007FFF, 0, 0, 0, 0, false, false, false⟩  -- STAB.SCFG
  ]

/-- Register rows of mast page 0x028, block SHAPE (R377). -/
def mastRows_SHAPE_028 : List RegRow :=
  [ ⟨0x28, 1, 1, 0x40, 8, 48, [(48, 0)], 0, 0xFFFFFFFF, 0, 0, 0, 0, false, false, false⟩  -- SHAPE.RATE
  , ⟨0x28, 1, 1, 0x44, 8, 48, [(48, 0x1000)], 0, 0x80FFFFFF, 0, 0, 0, 0, false, false, false⟩  -- SHAPE.BURST
  , ⟨0x28, 1, 1, 0x400, 4, 48, [(48, 0)], 0, 0, 0, 0, 0, 0, false, false, false⟩  -- SHAPE.TOKENS
  , ⟨0x28, 1, 1, 0x4C0, 4, 48, [(48, 0)], 0, 0, 0, 0, 0, 0, true, true, false⟩  -- SHAPE.DEFER
  ]

/-- Register rows of mast page 0x029, block SLUICE (R379). -/
def mastRows_SLUICE_029 : List RegRow :=
  [ ⟨0x29, 1, 1, 0x40, 8, 41, [(40, 0), (1, 0xC800)], 0, 0xFFFFFFFF, 0, 0, 0, 0, false, false, false⟩  -- SLUICE.PRATE
  , ⟨0x29, 1, 1, 0x230, 8, 32, [(32, 0)], 0, 0xFFFFFFFF, 0, 0, 0, 0, false, false, false⟩  -- SLUICE.PRATE_PEER
  , ⟨0x29, 1, 1, 0x44, 8, 41, [(40, 0x10000), (1, 0x80010000)], 0, 0x80FFFFFF, 0, 0, 0, 0, false, false, false⟩  -- SLUICE.PBURST
  , ⟨0x29, 1, 1, 0x234, 8, 32, [(32, 0x10000)], 0, 0x80FFFFFF, 0, 0, 0, 0, false, false, false⟩  -- SLUICE.PBURST_PEER
  , ⟨0x29, 1, 1, 0x190, 8, 16, [(16, 0)], 0, 0xFFFFFFFF, 0, 0, 0, 0, false, false, false⟩  -- SLUICE.UPRATE
  , ⟨0x29, 1, 1, 0x194, 8, 16, [(16, 0x800)], 0, 0x80FFFFFF, 0, 0, 0, 0, false, false, false⟩  -- SLUICE.UPBURST
  , ⟨0x29, 1, 1, 0x210, 4, 8, [(8, 0)], 0, 7, 0, 0, 0, 0, false, false, false⟩  -- SLUICE.PORT_CFG
  , ⟨0x29, 1, 1, 0x400, 4, 41, [(41, 0)], 0, 0, 0, 0, 0, 0, false, false, false⟩  -- SLUICE.PTOKENS
  , ⟨0x29, 1, 1, 0x570, 4, 32, [(32, 0)], 0, 0, 0, 0, 0, 0, false, false, false⟩  -- SLUICE.PTOKENS_PEER
  , ⟨0x29, 1, 1, 0x4B0, 4, 41, [(41, 0)], 0, 0, 0, 0, 0, 0, true, true, false⟩  -- SLUICE.PDROP
  , ⟨0x29, 1, 1, 0x5F0, 4, 32, [(32, 0)], 0, 0, 0, 0, 0, 0, true, true, false⟩  -- SLUICE.PDROP_PEER
  , ⟨0x29, 1, 1, 0x560, 4, 1, [(1, 0)], 0, 0, 0, 0, 0, 0, true, true, false⟩  -- SLUICE.UP_DROP
  , ⟨0x29, 1, 1, 0x564, 4, 1, [(1, 0)], 0, 0, 0, 0, 0, 0, true, true, false⟩  -- SLUICE.UP_PASS
  ]

/-- Register rows of mast page 0x130, block GCL (R381). -/
def mastRows_GCL_130 : List RegRow :=
  [ ⟨0x130, 4, 2, 0x40, 4, 1, [(4, 1)], 0, 0xC000007F, 0, 0, 0, 0, false, false, false⟩  -- GCL.CTL
  , ⟨0x130, 4, 2, 0x44, 4, 1, [(4, 0x5F2)], 0, 0x3FFF, 0, 0, 0, 0, false, false, false⟩  -- GCL.MAX_FRAME
  , ⟨0x130, 4, 2, 0x48, 4, 1, [(4, 0xF4240)], 0, 0xFFFFFFFF, 0, 0, 0, 0, false, false, false⟩  -- GCL.CYCLE
  , ⟨0x130, 4, 2, 0x50, 4, 1, [(4, 0)], 0, 0xFFFFFFFF, 0, 0, 0, 0, false, false, false⟩  -- GCL.BASE_SEC
  , ⟨0x130, 4, 2, 0x54, 4, 1, [(4, 0)], 0, 0xFFFF, 0, 0, 0, 0, false, false, false⟩  -- GCL.BASE_SEC[1]
  , ⟨0x130, 4, 2, 0x58, 4, 1, [(4, 0)], 0, 0x3FFFFFFF, 0, 0, 0, 0, false, false, false⟩  -- GCL.BASE_NS
  , ⟨0x130, 4, 2, 0x80, 8, 64, [(1, 0xFF), (63, 0), (1, 0xFF), (63, 0), (1, 0xFF), (63, 0), (1, 0xFF), (63, 0)], 0, 0xFF, 0, 0, 0, 0, false, false, false⟩  -- GCL.ENTRY
  , ⟨0x130, 4, 2, 0x84, 8, 64, [(1, 0xF4240), (63, 0), (1, 0xF4240), (63, 0), (1, 0xF4240), (63, 0), (1, 0xF4240), (63, 0)], 0, 0xFFFFFFFF, 0, 0, 0, 0, false, false, false⟩  -- GCL.ENTRY[1]
  , ⟨0x130, 4, 2, 0x400, 4, 1, [(4, 0xFF)], 0, 0, 0, 0, 0, 0, false, false, false⟩  -- GCL.OPER
  , ⟨0x130, 4, 2, 0x404, 4, 1, [(4, 0)], 0, 0, 3, 0, 0, 0, false, false, false⟩  -- GCL.CFG_ERR
  , ⟨0x130, 4, 2, 0x408, 4, 1, [(4, 0)], 0, 0, 0, 0, 0, 0, false, false, false⟩  -- GCL.CHANGE_SEC
  , ⟨0x130, 4, 2, 0x40C, 4, 1, [(4, 0)], 0, 0, 0, 0, 0, 0, false, false, false⟩  -- GCL.CHANGE_SEC[1]
  , ⟨0x130, 4, 2, 0x410, 4, 1, [(4, 0)], 0, 0, 0, 0, 0, 0, false, false, false⟩  -- GCL.CHANGE_NS
  , ⟨0x130, 4, 2, 0x420, 4, 8, [(32, 0xFFFFFFFF)], 0, 0, 0, 0, 0, 0, false, false, false⟩  -- GCL.MAX_OPEN
  ]

/-- Register rows of mast page 0x131, block GSTAT (R382). -/
def mastRows_GSTAT_131 : List RegRow :=
  [ ⟨0x131, 4, 2, 0x400, 32, 8, [(32, 0)], 0, 0, 0, 0, 0, 0, true, true, false⟩  -- GSTAT.TX_FRAMES
  , ⟨0x131, 4, 2, 0x404, 32, 8, [(32, 0)], 0, 0, 0, 0, 0, 0, true, true, false⟩  -- GSTAT.OVERSIZE
  , ⟨0x131, 4, 2, 0x408, 32, 8, [(32, 0)], 0, 0, 0, 0, 0, 0, true, true, false⟩  -- GSTAT.GATE_OVERSIZE
  , ⟨0x131, 4, 2, 0x40C, 32, 8, [(32, 0)], 0, 0, 0, 0, 0, 0, true, true, false⟩  -- GSTAT.GATE_HOLDS
  , ⟨0x131, 4, 2, 0x410, 32, 8, [(32, 0)], 0, 0, 0, 0, 0, 0, false, true, false⟩  -- GSTAT.GATE_WAIT_HWM
  , ⟨0x131, 4, 2, 0x414, 32, 8, [(32, 0)], 0, 0, 0, 0, 0, 0, false, true, false⟩  -- GSTAT.LAT_HWM
  , ⟨0x131, 4, 2, 0x418, 32, 8, [(32, 0)], 0, 0, 0, 0, 0, 0, true, true, false⟩  -- GSTAT.TX_OVERRUN
  , ⟨0x131, 4, 2, 0x40, 4, 1, [(4, 0)], 0, 0, 0, 0, 0, 0x80000007, false, false, false⟩  -- GSTAT.HWM_CLR
  ]

/-- Register rows of mast page 0x030, block TIME (R406). -/
def mastRows_TIME_030_0 : List RegRow :=
  [ ⟨0x30, 1, 1, 0x40, 4, 1, [(1, 0)], 0, 3, 0, 0, 0, 0, false, false, false⟩  -- TIME.LOCAL_CFG
  , ⟨0x30, 1, 1, 0x44, 4, 1, [(1, 1)], 0, 3, 0, 0, 0, 0, false, false, false⟩  -- TIME.MESH_CFG
  , ⟨0x30, 1, 1, 0x60, 4, 1, [(1, 0)], 0, 0xFFFF0001, 0, 0, 0, 0, false, false, false⟩  -- TIME.PPS_CFG
  , ⟨0x30, 1, 1, 0x70, 4, 4, [(4, 0)], 0, 0xFFFF, 0, 0, 0, 0, false, false, false⟩  -- TIME.PEER_CORR
  , ⟨0x30, 1, 1, 0x80, 64, 3, [(3, 0)], 0, 7, 0, 0, 0, 0, false, false, false⟩  -- TIME.D_SRC
  , ⟨0x30, 1, 1, 0x84, 64, 3, [(3, 0x3E80401)], 0, 0xFFFF1F1F, 0, 0, 0, 0, false, false, false⟩  -- TIME.D_SERVO
  , ⟨0x30, 1, 1, 0x88, 64, 3, [(3, 0x2710)], 0, 0xFFFFFFFF, 0, 0, 0, 0, false, false, false⟩  -- TIME.D_JUMP
  , ⟨0x30, 1, 1, 0x8C, 64, 3, [(3, 0x186A0)], 0, 0x7FFFF, 0, 0, 0, 0, false, false, false⟩  -- TIME.D_FREQ_MAX
  , ⟨0x30, 1, 1, 0x90, 64, 3, [(3, 0)], 0, 0xFFFFFFFF, 0, 0, 0, 0, false, false, false⟩  -- TIME.D_FREQ_SET
  , ⟨0x30, 1, 1, 0x94, 64, 3, [(3, 8)], 0, 0xFF, 0, 0, 0, 0, false, false, false⟩  -- TIME.D_LOSS
  , ⟨0x30, 1, 1, 0x98, 64, 3, [(3, 0)], 0, 0, 0, 0, 0, 0xFFFFFFFF, false, false, false⟩  -- TIME.D_SAMPLE
  , ⟨0x30, 1, 1, 0x9C, 64, 3, [(3, 0)], 0, 0, 0, 0, 0, 0xFFFF, false, false, false⟩  -- TIME.D_SAMPLE[1]
  , ⟨0x30, 1, 1, 0xA0, 64, 3, [(3, 0)], 0xFFFFFFFF, 0, 0, 0, 0, 0, false, false, false⟩  -- TIME.D_SET_HI
  , ⟨0x30, 1, 1, 0xA4, 64, 3, [(3, 0)], 0xFFFF, 0, 0, 0, 0, 0, false, false, false⟩  -- TIME.D_SET_HI[1]
  , ⟨0x30, 1, 1, 0xA8, 64, 3, [(3, 0)], 0x3FFFFFFF, 0, 0, 0, 0, 0, false, false, false⟩  -- TIME.D_SET_LO
  , ⟨0x30, 1, 1, 0xAC, 64, 3, [(3, 0)], 0, 0, 0, 0, 0, 3, false, false, false⟩  -- TIME.D_CTL
  , ⟨0x30, 1, 1, 0x400, 4, 1, [(1, 0)], 0, 0, 0, 0, 0, 0, false, false, false⟩  -- TIME.LOCAL_NOW
  , ⟨0x30, 1, 1, 0x404, 4, 1, [(1, 0)], 0, 0, 0, 0, 0, 0, false, false, false⟩  -- TIME.LOCAL_NOW[1]
  , ⟨0x30, 1, 1, 0x408, 4, 1, [(1, 0)], 0, 0, 0, 0, 0, 0, false, false, false⟩  -- TIME.LOCAL_STATUS
  , ⟨0x30, 1, 1, 0x40C, 4, 1, [(1, 0)], 0, 0, 1, 0, 0, 0, false, false, false⟩  -- TIME.CFG_ERR
  , ⟨0x30, 1, 1, 0x410, 4, 1, [(1, 0)], 0, 0, 0, 0, 0, 0, false, false, false⟩  -- TIME.PPS_CAP_LOCAL
  , ⟨0x30, 1, 1, 0x414, 4, 1, [(1, 0)], 0, 0, 0, 0, 0, 0, false, false, false⟩  -- TIME.PPS_CAP_LOCAL[1]
  , ⟨0x30, 1, 1, 0x418, 4, 3, [(3, 0)], 0, 0, 0, 0, 0, 0, false, false, false⟩  -- TIME.PPS_CAP_NS
  , ⟨0x30, 1, 1, 0x424, 4, 1, [(1, 0)], 0, 0, 2, 0, 0, 0, false, false, false⟩  -- TIME.PPS_STATUS
  , ⟨0x30, 1, 1, 0x440, 32, 3, [(3, 0)], 0, 0, 0, 0, 0, 0, false, false, false⟩  -- TIME.D_NOW_HI
  , ⟨0x30, 1, 1, 0x444, 32, 3, [(3, 0)], 0, 0, 0, 0, 0, 0, false, false, false⟩  -- TIME.D_NOW_HI[1]
  , ⟨0x30, 1, 1, 0x448, 32, 3, [(3, 0)], 0, 0, 0, 0, 0, 0, false, false, false⟩  -- TIME.D_NOW_LO
  , ⟨0x30, 1, 1, 0x44C, 32, 3, [(3, 0)], 0, 0, 0, 0, 0, 0, false, false, false⟩  -- TIME.D_STATE
  , ⟨0x30, 1, 1, 0x450, 32, 3, [(3, 0)], 0, 0, 0, 0, 0, 0, false, false, false⟩  -- TIME.D_FREQ
  , ⟨0x30, 1, 1, 0x454, 32, 3, [(3, 0)], 0, 0, 0, 0, 0, 0, false, false, false⟩  -- TIME.D_INTEG
  ]

/-- Register rows of mast page 0x030, block TIME (R406, R407). -/
def mastRows_TIME_030_1 : List RegRow :=
  [ ⟨0x30, 1, 1, 0x458, 32, 3, [(3, 0)], 0, 0, 0, 0, 0, 0, false, false, false⟩  -- TIME.D_LAST_E
  , ⟨0x30, 1, 1, 0x45C, 32, 3, [(3, 0)], 0, 0, 0xFFFFFFFF, 0, 0, 0, false, false, false⟩  -- TIME.D_OFS_HWM
  , ⟨0x30, 1, 1, 0x4C0, 16, 3, [(3, 0)], 0, 0, 0, 0, 0, 0, true, true, false⟩  -- TIME.D_SAMPLES
  , ⟨0x30, 1, 1, 0x4C4, 16, 3, [(3, 0)], 0, 0, 0, 0, 0, 0, true, true, false⟩  -- TIME.D_REFUSED
  , ⟨0x30, 1, 1, 0x4C8, 16, 3, [(3, 0)], 0, 0, 0, 0, 0, 0, true, true, false⟩  -- TIME.D_JUMPS
  , ⟨0x30, 1, 1, 0x4CC, 16, 3, [(3, 0)], 0, 0, 0, 0, 0, 0, true, true, false⟩  -- TIME.D_LOSSES
  , ⟨0x30, 1, 1, 0x4F4, 4, 3, [(3, 0)], 0, 0, 0, 0, 0, 0, true, true, false⟩  -- TIME.D_IGNORED
  ]

def mastRows_TIME_030 : List RegRow := mastRows_TIME_030_0 ++ mastRows_TIME_030_1

/-- Register rows of mast page 0x031, block TPO (R408, R409). -/
def mastRows_TPO_031 : List RegRow :=
  [ ⟨0x31, 1, 1, 0x40, 32, 8, [(8, 0)], 0, 0x133, 0, 0, 0, 0, false, false, false⟩  -- TPO.CTL
  , ⟨0x31, 1, 1, 0x48, 32, 8, [(8, 0)], 0, 0xFFFFFFFF, 0, 0, 0, 0, false, false, false⟩  -- TPO.START_HI
  , ⟨0x31, 1, 1, 0x4C, 32, 8, [(8, 0)], 0, 0xFFFFFFFF, 0, 0, 0, 0, false, false, false⟩  -- TPO.START_HI[1]
  , ⟨0x31, 1, 1, 0x50, 32, 8, [(8, 0)], 0, 0x3FFFFFFF, 0, 0, 0, 0, false, false, false⟩  -- TPO.START_LO
  , ⟨0x31, 1, 1, 0x54, 32, 8, [(8, 0x3B9ACA00)], 0, 0xFFFFFFFF, 0, 0, 0, 0, false, false, false⟩  -- TPO.PERIOD
  , ⟨0x31, 1, 1, 0x58, 32, 8, [(8, 0x186A0)], 0, 0xFFFFFFFF, 0, 0, 0, 0, false, false, false⟩  -- TPO.WIDTH
  , ⟨0x31, 1, 1, 0x400, 16, 8, [(8, 0)], 0, 0, 0, 0, 0, 0, false, false, false⟩  -- TPO.NEXT_HI
  , ⟨0x31, 1, 1, 0x404, 16, 8, [(8, 0)], 0, 0, 0, 0, 0, 0, false, false, false⟩  -- TPO.NEXT_HI[1]
  , ⟨0x31, 1, 1, 0x408, 16, 8, [(8, 0)], 0, 0, 0, 0, 0, 0, false, false, false⟩  -- TPO.NEXT_LO
  , ⟨0x31, 1, 1, 0x40C, 16, 8, [(8, 0)], 0, 0, 0, 0, 0, 0, false, false, false⟩  -- TPO.STATUS
  , ⟨0x31, 1, 1, 0x4C0, 4, 1, [(1, 0)], 0, 0, 0xFF, 0, 0, 0, false, false, false⟩  -- TPO.CFG_ERR
  , ⟨0x31, 1, 1, 0x480, 8, 8, [(8, 0)], 0, 0, 0, 0, 0, 0, true, true, false⟩  -- TPO.PULSES
  , ⟨0x31, 1, 1, 0x484, 8, 8, [(8, 0)], 0, 0, 0, 0, 0, 0, true, true, false⟩  -- TPO.SKIPPED
  ]

/-- Register rows of mast page 0x032, block TIMERS (R410). -/
def mastRows_TIMERS_032 : List RegRow :=
  [ ⟨0x32, 1, 1, 0x40, 16, 32, [(32, 0)], 0xF1FF0000, 0, 0, 0, 0, 0, false, false, false⟩  -- TIMERS.TCTL
  , ⟨0x32, 1, 1, 0x44, 16, 32, [(32, 0xFFFFFFFF)], 0xFFFFFFFF, 0, 0, 0, 0, 0, false, false, false⟩  -- TIMERS.RELOAD
  , ⟨0x32, 1, 1, 0x48, 16, 32, [(32, 0)], 0xFFFFFFFF, 0, 0, 0, 0, 0, false, false, false⟩  -- TIMERS.MATCH
  , ⟨0x32, 1, 1, 0x4C, 16, 32, [(32, 0)], 0xC71F000F, 0, 0, 0, 0, 0, false, false, false⟩  -- TIMERS.TTRIG
  , ⟨0x32, 1, 1, 0x240, 4, 1, [(1, 0)], 0, 0, 0, 0, 0, 0xFFFFFFFF, false, false, false⟩  -- TIMERS.GROUP_START
  , ⟨0x32, 1, 1, 0x244, 4, 1, [(1, 0)], 0, 0, 0, 0, 0, 0xFFFFFFFF, false, false, false⟩  -- TIMERS.GROUP_STOP
  , ⟨0x32, 1, 1, 0x400, 16, 32, [(32, 0)], 0, 0, 0, 0, 0, 0, false, false, false⟩  -- TIMERS.TCOUNT
  , ⟨0x32, 1, 1, 0x404, 16, 32, [(32, 0)], 0, 0, 0, 0, 0, 0, false, false, false⟩  -- TIMERS.THOLD
  , ⟨0x32, 1, 1, 0x408, 16, 32, [(32, 0)], 0, 0, 0, 0, 0, 0, false, false, false⟩  -- TIMERS.TCAP
  , ⟨0x32, 1, 1, 0x40C, 16, 32, [(32, 0)], 0, 0, 0x1E, 0, 0, 0, false, false, false⟩  -- TIMERS.TSTAT
  ]

/-- Register rows of mast page 0x002, block SESSION (R449, R450). -/
def mastRows_SESSION_002 : List RegRow :=
  [ ⟨2, 1, 1, 0x40, 4, 1, [(1, 0)], 0x8F, 0, 0, 0, 0, 0, false, false, true⟩  -- SESSION.PROXY
  , ⟨2, 1, 1, 0x44, 4, 1, [(1, 0x40000258)], 0xC300FFFF, 0, 0, 0, 0, 0, false, false, true⟩  -- SESSION.REQ
  , ⟨2, 1, 1, 0x48, 4, 8, [(8, 0)], 0, 0, 0, 0, 0, 0xFFFFFFFF, false, false, true⟩  -- SESSION.RESP
  , ⟨2, 1, 1, 0x68, 4, 16, [(16, 0)], 0, 0, 0, 0, 0, 0xFFFFFFFF, false, false, true⟩  -- SESSION.PW
  , ⟨2, 1, 1, 0xA8, 4, 1, [(1, 0)], 0, 0, 0, 0, 0, 0x7F0F, false, false, true⟩  -- SESSION.CTL
  , ⟨2, 1, 1, 0xC0, 4, 16, [(1, 0x99999C99), (6, 0x99999999), (1, 0x99DD9999), (8, 0x99999999)], 0, 0, 0, 0xFFFFFFFF, 0, 0, false, false, false⟩  -- SESSION.PAGE_PRIV
  , ⟨2, 1, 1, 0x400, 4, 8, [(8, 0)], 0, 0, 0, 0, 0, 0, false, false, true⟩  -- SESSION.NONCE
  , ⟨2, 1, 1, 0x420, 4, 1, [(1, 0)], 0, 0, 0, 0, 0, 0, false, false, true⟩  -- SESSION.STATE
  , ⟨2, 1, 1, 0x424, 4, 1, [(1, 0)], 0, 0, 0, 0, 0, 0, false, false, false⟩  -- SESSION.DELAY
  , ⟨2, 1, 1, 0x428, 4, 1, [(1, 0x2000)], 0, 0, 0, 0, 0, 0, false, false, false⟩  -- SESSION.CTX_PRIV
  , ⟨2, 1, 1, 0x430, 4, 1, [(1, 0)], 0, 0, 0, 0, 0, 0, true, true, false⟩  -- SESSION.OPENED
  , ⟨2, 1, 1, 0x434, 4, 1, [(1, 0)], 0, 0, 0, 0, 0, 0, true, true, false⟩  -- SESSION.FAILED
  , ⟨2, 1, 1, 0x438, 4, 1, [(1, 0)], 0, 0, 0, 0, 0, 0, true, true, false⟩  -- SESSION.DENIED_W
  , ⟨2, 1, 1, 0x43C, 4, 1, [(1, 0)], 0, 0, 0, 0, 0, 0, true, true, false⟩  -- SESSION.DENIED_R
  , ⟨2, 1, 1, 0x440, 4, 1, [(1, 0)], 0, 0, 0, 0, 0, 0, true, true, false⟩  -- SESSION.TIMEOUTS
  ]

/-- Register rows of mast page 0x038, block KEYS (R451, R452). -/
def mastRows_KEYS_038 : List RegRow :=
  [ ⟨0x38, 1, 1, 0x40, 4, 1, [(1, 0x3FF0000)], 0x3FF01FF, 0, 0, 0, 0, 0, false, false, false⟩  -- KEYS.CMD_A
  , ⟨0x38, 1, 1, 0x44, 4, 1, [(1, 0)], 0xDFE03F3F, 0, 0, 0, 0, 0, false, false, false⟩  -- KEYS.CMD_B
  , ⟨0x38, 1, 1, 0x48, 4, 1, [(1, 0)], 0xFFFFF, 0, 0, 0, 0, 0, false, false, false⟩  -- KEYS.CMD_NODE
  , ⟨0x38, 1, 1, 0x50, 4, 8, [(8, 0)], 0, 0, 0, 0, 0, 0xFFFFFFFF, false, false, false⟩  -- KEYS.LABEL
  , ⟨0x38, 1, 1, 0x70, 4, 8, [(8, 0)], 0, 0, 0, 0, 0, 0xFFFFFFFF, false, false, false⟩  -- KEYS.CONTEXT
  , ⟨0x38, 1, 1, 0x90, 4, 10, [(10, 0)], 0, 0, 0, 0, 0, 0xFFFFFFFF, false, false, false⟩  -- KEYS.DATA
  , ⟨0x38, 1, 1, 0xC0, 4, 16, [(16, 0)], 0, 0x3FF, 0, 0, 0, 0, false, false, false⟩  -- KEYS.GROUP_SLOT
  , ⟨0x38, 1, 1, 0x100, 4, 1, [(1, 0)], 0, 0x1FF, 0, 0, 0, 0, false, false, false⟩  -- KEYS.NODE_KEK
  , ⟨0x38, 1, 1, 0x104, 4, 1, [(1, 0)], 0, 0, 0, 0, 0, 0xF, false, false, false⟩  -- KEYS.CMD_OP
  , ⟨0x38, 1, 1, 0x108, 4, 1, [(1, 0)], 0x1FF, 0, 0, 0, 0, 0, false, false, false⟩  -- KEYS.SLOT_SEL
  , ⟨0x38, 1, 1, 0x400, 4, 1, [(1, 0)], 0, 0, 0, 0, 0, 0, false, false, false⟩  -- KEYS.STATUS
  , ⟨0x38, 1, 1, 0x404, 4, 1, [(1, 0)], 0, 0, 0, 0, 0, 0, false, false, false⟩  -- KEYS.SLOT_GEN
  , ⟨0x38, 1, 1, 0x408, 4, 1, [(1, 0)], 0, 0, 0, 0, 0, 0, false, false, false⟩  -- KEYS.USED
  , ⟨0x38, 1, 1, 0x40C, 4, 1, [(1, 0)], 0, 0, 0, 0, 0, 0, false, false, false⟩  -- KEYS.PERSIST_SEQ
  , ⟨0x38, 1, 1, 0x410, 4, 1, [(1, 0)], 0, 0, 0, 0, 0, 0, true, true, false⟩  -- KEYS.STALE_PARENT
  , ⟨0x38, 1, 1, 0x414, 4, 1, [(1, 0)], 0, 0, 0, 0, 0, 0, true, true, false⟩  -- KEYS.UNWRAP_FAIL
  , ⟨0x38, 1, 1, 0x418, 4, 1, [(1, 0)], 0, 0, 0, 0, 0, 0, true, true, false⟩  -- KEYS.USAGE_DENIED
  , ⟨0x38, 1, 1, 0x41C, 4, 1, [(1, 0)], 0, 0, 0, 0, 0, 0, true, true, false⟩  -- KEYS.DIRECT_WR
  , ⟨0x38, 1, 1, 0x420, 4, 1, [(1, 0)], 0, 0, 0, 0, 0, 0, true, true, false⟩  -- KEYS.PERSIST_OK
  , ⟨0x38, 1, 1, 0x424, 4, 1, [(1, 0)], 0, 0, 0, 0, 0, 0, true, true, false⟩  -- KEYS.PERSIST_FAIL
  , ⟨0x38, 1, 1, 0x428, 4, 1, [(1, 0)], 0, 0, 0, 0, 0, 0, true, true, false⟩  -- KEYS.CACHE_MISS
  ]

/-- Register rows of mast page 0x120, block KATTR (R453). -/
def mastRows_KATTR_120 : List RegRow :=
  [ ⟨0x120, 2, 1, 0x400, 4, 256, [(512, 0x1003FF)], 0, 0, 0, 0, 0, 0, false, false, false⟩  -- KATTR.ATTR
  ]

/-- Register rows of mast page 0x039, block CRYPTO (R454, R455). -/
def mastRows_CRYPTO_039 : List RegRow :=
  [ ⟨0x39, 1, 1, 0x40, 4, 1, [(1, 0x10)], 0xF1FF003F, 0, 0, 0, 0, 0, false, false, true⟩  -- CRYPTO.JOB_CFG
  , ⟨0x39, 1, 1, 0x44, 4, 1, [(1, 0)], 0x1FFFF, 0, 0, 0, 0, 0, false, false, true⟩  -- CRYPTO.JOB_IN
  , ⟨0x39, 1, 1, 0x48, 4, 1, [(1, 0)], 0xFF003FFF, 0, 0, 0, 0, 0, false, false, true⟩  -- CRYPTO.JOB_LEN
  , ⟨0x39, 1, 1, 0x50, 4, 4, [(4, 0)], 0xFFFFFFFF, 0, 0, 0, 0, 0, false, false, true⟩  -- CRYPTO.JOB_IV
  , ⟨0x39, 1, 1, 0x60, 4, 1, [(1, 0)], 0, 0, 0, 0, 0, 1, false, false, true⟩  -- CRYPTO.JOB_GO
  , ⟨0x39, 1, 1, 0x400, 4, 1, [(1, 0)], 0, 0, 0, 0, 0, 0, false, false, true⟩  -- CRYPTO.JOB_STATUS
  , ⟨0x39, 1, 1, 0x410, 4, 8, [(8, 0)], 0xFFFFFFFF, 0, 0, 0, 0, 0, false, false, true⟩  -- CRYPTO.TAG
  , ⟨0x39, 1, 1, 0x440, 4, 1, [(1, 0)], 0, 0, 0, 0, 0, 0, true, true, false⟩  -- CRYPTO.JOBS
  , ⟨0x39, 1, 1, 0x444, 4, 1, [(1, 0)], 0, 0, 0, 0, 0, 0, true, true, false⟩  -- CRYPTO.TAG_FAIL
  , ⟨0x39, 1, 1, 0x448, 4, 1, [(1, 0)], 0, 0, 0, 0, 0, 0, true, true, false⟩  -- CRYPTO.OPEN_FAIL
  , ⟨0x39, 1, 1, 0x44C, 4, 1, [(1, 0)], 0, 0, 0, 0, 0, 0, true, true, false⟩  -- CRYPTO.SEAL_FAIL
  , ⟨0x39, 1, 1, 0x450, 4, 1, [(1, 0)], 0, 0, 0, 0, 0, 0, true, true, false⟩  -- CRYPTO.NO_KEY
  ]

/-- Register rows of mast page 0x03A, block RSA (R456, R457). -/
def mastRows_RSA_03A : List RegRow :=
  [ ⟨0x3A, 1, 1, 0x40, 4, 1, [(1, 0)], 0, 0, 0, 0, 0, 0xF, false, false, false⟩  -- RSA.CTL
  , ⟨0x3A, 1, 1, 0x44, 4, 1, [(1, 0)], 0x1FF, 0, 0, 0, 0, 0, false, false, false⟩  -- RSA.SLOT
  , ⟨0x3A, 1, 1, 0x48, 4, 1, [(1, 0x10001)], 0xFFFFFFFF, 0, 0, 0, 0, 0, false, false, false⟩  -- RSA.E
  , ⟨0x3A, 1, 1, 0x50, 4, 8, [(8, 0)], 0xFFFFFFFF, 0, 0, 0, 0, 0, false, false, false⟩  -- RSA.HASH
  , ⟨0x3A, 1, 1, 0x70, 4, 8, [(8, 0)], 0xFFFFFFFF, 0, 0, 0, 0, 0, false, false, false⟩  -- RSA.NONCE
  , ⟨0x3A, 1, 1, 0x90, 4, 1, [(1, 0)], 0x800001FF, 0, 0, 0, 0, 0, false, false, false⟩  -- RSA.WIN_SEL
  , ⟨0x3A, 1, 1, 0x94, 4, 1, [(1, 0)], 0xFFFFFFFF, 0, 0, 0, 0, 0, false, false, false⟩  -- RSA.WIN_DATA
  , ⟨0x3A, 1, 1, 0x400, 4, 1, [(1, 0)], 0, 0, 0, 0, 0, 0, false, false, false⟩  -- RSA.STATUS
  , ⟨0x3A, 1, 1, 0x410, 4, 8, [(8, 0)], 0, 0, 0, 0, 0, 0, false, false, false⟩  -- RSA.KEY_HASH
  , ⟨0x3A, 1, 1, 0x440, 4, 1, [(1, 0)], 0, 0, 0, 0, 0, 0, true, true, false⟩  -- RSA.SIGNS
  , ⟨0x3A, 1, 1, 0x444, 4, 1, [(1, 0)], 0, 0, 0, 0, 0, 0, true, true, false⟩  -- RSA.VERIFIES
  , ⟨0x3A, 1, 1, 0x448, 4, 1, [(1, 0)], 0, 0, 0, 0, 0, 0, true, true, false⟩  -- RSA.VERIFY_FAIL
  ]

/-- Register rows of mast page 0x03B, block DRBG (R458, R459). -/
def mastRows_DRBG_03B : List RegRow :=
  [ ⟨0x3B, 1, 1, 0x40, 4, 1, [(1, 0x10000)], 0, 0x80FFFFFF, 0, 0, 0, 0, false, false, false⟩  -- DRBG.CFG
  , ⟨0x3B, 1, 1, 0x44, 4, 1, [(1, 0)], 0, 0, 0, 0, 0, 1, false, false, false⟩  -- DRBG.RESEED
  , ⟨0x3B, 1, 1, 0x400, 4, 1, [(1, 0)], 0, 0, 0, 0, 0, 0, false, false, false⟩  -- DRBG.OUT
  , ⟨0x3B, 1, 1, 0x404, 4, 1, [(1, 0)], 0, 0, 0x30000000, 0, 0, 0, false, false, false⟩  -- DRBG.STATUS
  , ⟨0x3B, 1, 1, 0x410, 4, 1, [(1, 0)], 0, 0, 0, 0, 0, 0, true, true, false⟩  -- DRBG.RESEEDS
  , ⟨0x3B, 1, 1, 0x414, 4, 1, [(1, 0)], 0, 0, 0, 0, 0, 0, true, true, false⟩  -- DRBG.HEALTH_FAIL
  , ⟨0x3B, 1, 1, 0x418, 4, 1, [(1, 0)], 0, 0, 0, 0, 0, 0, true, true, false⟩  -- DRBG.OUT_WORDS
  ]

/-- Register rows of mast page 0x03C, block CRYST (R460, R461). -/
def mastRows_CRYST_03C : List RegRow :=
  [ ⟨0x3C, 1, 1, 0x400, 4, 1, [(1, 0)], 0, 0, 0, 0, 0, 0, false, false, false⟩  -- CRYST.STATUS
  , ⟨0x3C, 1, 1, 0x404, 4, 1, [(1, 0)], 0, 0, 0, 0, 0, 0, false, false, false⟩  -- CRYST.ERR
  , ⟨0x3C, 1, 1, 0x408, 4, 1, [(1, 0)], 0, 0, 0xFF, 0, 0, 0, false, false, false⟩  -- CRYST.ERR_HWM
  , ⟨0x3C, 1, 1, 0x410, 4, 1, [(1, 0)], 0, 0, 0, 0, 0, 0, true, true, false⟩  -- CRYST.REGENS
  , ⟨0x3C, 1, 1, 0x414, 4, 1, [(1, 0)], 0, 0, 0, 0, 0, 0, true, true, false⟩  -- CRYST.FAILS
  ]

/-- Register rows of mast page 0x03D, block TAMPER (R462, R463). -/
def mastRows_TAMPER_03D : List RegRow :=
  [ ⟨0x3D, 1, 1, 0x40, 4, 1, [(1, 0xFF)], 0, 0, 0, 0xFF, 0, 0, false, false, false⟩  -- TAMPER.SRC_EN
  , ⟨0x3D, 1, 1, 0x44, 4, 1, [(1, 0)], 0, 0, 0, 0, 0, 0xFF, false, false, false⟩  -- TAMPER.ACK
  , ⟨0x3D, 1, 1, 0x400, 4, 1, [(1, 0)], 0, 0, 0, 0, 0, 0, false, false, false⟩  -- TAMPER.STATE
  , ⟨0x3D, 1, 1, 0x404, 4, 1, [(1, 0)], 0, 0, 0x1FF, 0, 0, 0, false, false, false⟩  -- TAMPER.CAUSE
  , ⟨0x3D, 1, 1, 0x408, 4, 1, [(1, 0)], 0, 0, 0, 0, 0, 0, false, false, false⟩  -- TAMPER.TIME
  , ⟨0x3D, 1, 1, 0x40C, 4, 1, [(1, 0)], 0, 0, 0, 0, 0, 0, false, false, false⟩  -- TAMPER.TIME[1]
  , ⟨0x3D, 1, 1, 0x410, 4, 1, [(1, 0)], 0, 0, 0, 0, 0, 0, false, false, false⟩  -- TAMPER.RECORDS
  , ⟨0x3D, 1, 1, 0x420, 4, 1, [(1, 0)], 0, 0, 0, 0, 0, 0, true, true, false⟩  -- TAMPER.TRIGGERS
  , ⟨0x3D, 1, 1, 0x424, 4, 1, [(1, 0)], 0, 0, 0, 0, 0, 0, true, true, false⟩  -- TAMPER.FILTERED
  ]

/-- Register rows of mast page 0x004, block PAIR (R494, R495). -/
def mastRows_PAIR_004 : List RegRow :=
  [ ⟨4, 1, 1, 0x40, 4, 1, [(1, 0xF00007D0)], 0, 0xF000FFFF, 0, 0, 0, 0, false, false, false⟩  -- PAIR.CFG
  , ⟨4, 1, 1, 0x44, 4, 1, [(1, 0x10000200)], 0, 0xFF0003FF, 0, 0, 0, 0, false, false, false⟩  -- PAIR.XFER_CFG
  , ⟨4, 1, 1, 0x48, 4, 1, [(1, 0)], 0, 0, 0, 0, 0, 0xFF0F, false, false, false⟩  -- PAIR.CMD
  , ⟨4, 1, 1, 0x400, 4, 1, [(1, 0x80000001)], 0, 0, 0, 0, 0, 0, false, false, false⟩  -- PAIR.ROLE
  , ⟨4, 1, 1, 0x404, 4, 1, [(1, 0x40000000)], 0, 0, 0, 0, 0, 0, false, false, false⟩  -- PAIR.STATE
  , ⟨4, 1, 1, 0x408, 4, 1, [(1, 0)], 0, 0, 0, 0, 0, 0, false, false, false⟩  -- PAIR.MISMATCH
  , ⟨4, 1, 1, 0x40C, 4, 1, [(1, 0)], 0, 0, 0, 0, 0, 0, false, false, false⟩  -- PAIR.MISMATCH[1]
  , ⟨4, 1, 1, 0x410, 4, 1, [(1, 0)], 0, 0, 0, 0, 0, 0, false, false, false⟩  -- PAIR.INSEQ
  , ⟨4, 1, 1, 0x414, 4, 1, [(1, 0)], 0, 0, 0, 0, 0, 0, false, false, false⟩  -- PAIR.INSEQ[1]
  , ⟨4, 1, 1, 0x418, 4, 1, [(1, 0)], 0, 0, 0, 0, 0, 0, false, false, false⟩  -- PAIR.DIGEST
  , ⟨4, 1, 1, 0x41C, 4, 1, [(1, 0)], 0, 0, 0, 0, 0, 0, false, false, false⟩  -- PAIR.DIGEST[1]
  , ⟨4, 1, 1, 0x420, 4, 1, [(1, 0)], 0, 0, 0, 0, 0, 0, false, false, false⟩  -- PAIR.DIGEST_PEER
  , ⟨4, 1, 1, 0x424, 4, 1, [(1, 0)], 0, 0, 0, 0, 0, 0, false, false, false⟩  -- PAIR.DIGEST_PEER[1]
  , ⟨4, 1, 1, 0x428, 4, 1, [(1, 0)], 0, 0, 0xFFFFFFFF, 0, 0, 0, false, false, false⟩  -- PAIR.LAG_HWM
  , ⟨4, 1, 1, 0x42C, 4, 1, [(1, 0)], 0, 0, 0, 0, 0, 0, false, false, false⟩  -- PAIR.XFER_STATUS
  , ⟨4, 1, 1, 0x430, 4, 1, [(1, 0)], 0, 0, 0x3FFF, 0, 0, 0, false, false, false⟩  -- PAIR.BUF_HWM
  , ⟨4, 1, 1, 0x440, 4, 1, [(1, 0)], 0, 0, 0, 0, 0, 0, true, true, false⟩  -- PAIR.MIRRORED
  , ⟨4, 1, 1, 0x444, 4, 1, [(1, 0)], 0, 0, 0, 0, 0, 0, true, true, false⟩  -- PAIR.COMPARED
  , ⟨4, 1, 1, 0x448, 4, 1, [(1, 0)], 0, 0, 0, 0, 0, 0, true, true, false⟩  -- PAIR.MISMATCH_CNT
  , ⟨4, 1, 1, 0x44C, 4, 1, [(1, 0)], 0, 0, 0, 0, 0, 0, true, true, false⟩  -- PAIR.DIVERGE
  , ⟨4, 1, 1, 0x450, 4, 1, [(1, 0)], 0, 0, 0, 0, 0, 0, true, true, false⟩  -- PAIR.HB_MISS
  , ⟨4, 1, 1, 0x454, 4, 1, [(1, 0)], 0, 0, 0, 0, 0, 0, true, true, false⟩  -- PAIR.LINK_SPLIT
  , ⟨4, 1, 1, 0x458, 4, 1, [(1, 0)], 0, 0, 0, 0, 0, 0, true, true, false⟩  -- PAIR.FAILOVER
  , ⟨4, 1, 1, 0x45C, 4, 1, [(1, 0)], 0, 0, 0, 0, 0, 0, true, true, false⟩  -- PAIR.SWAPS
  , ⟨4, 1, 1, 0x460, 4, 1, [(1, 0)], 0, 0, 0, 0, 0, 0, true, true, false⟩  -- PAIR.XFER_DONE
  , ⟨4, 1, 1, 0x464, 4, 1, [(1, 0)], 0, 0, 0, 0, 0, 0, true, true, false⟩  -- PAIR.XFER_FAIL
  , ⟨4, 1, 1, 0x468, 4, 1, [(1, 0)], 0, 0, 0, 0, 0, 0, true, true, false⟩  -- PAIR.SAIL_LOST
  ]

/-- Register rows of mast page 0x005, block FEED (R496, R497). -/
def mastRows_FEED_005 : List RegRow :=
  [ ⟨5, 1, 1, 0x40, 4, 1, [(1, 0xBEA)], 0, 0xFFF, 0, 0, 0, 0, false, false, false⟩  -- FEED.LOW_V
  , ⟨5, 1, 1, 0x400, 4, 2, [(2, 0)], 0, 0, 0, 0, 0, 0, false, false, false⟩  -- FEED.STAT
  , ⟨5, 1, 1, 0x408, 4, 1, [(1, 0)], 0, 0, 0, 0, 0, 0, false, false, false⟩  -- FEED.BUS
  , ⟨5, 1, 1, 0x410, 12, 2, [(2, 0)], 0, 0, 0, 0, 0, 0, true, true, false⟩  -- FEED.LOW
  , ⟨5, 1, 1, 0x414, 12, 2, [(2, 0)], 0, 0, 0, 0, 0, 0, true, true, false⟩  -- FEED.LOST
  , ⟨5, 1, 1, 0x418, 12, 2, [(2, 0)], 0, 0, 0, 0, 0, 0, true, true, false⟩  -- FEED.OVP
  , ⟨5, 1, 1, 0x428, 4, 1, [(1, 0)], 0, 0, 0, 0, 0, 0, true, true, false⟩  -- FEED.TRANSFERS
  ]

/-- Register rows of mast page 0x040, block UPDATE (R531, R532). -/
def mastRows_UPDATE_040 : List RegRow :=
  [ ⟨0x40, 1, 1, 0x40, 4, 1, [(1, 0)], 0, 0, 0, 0, 0, 0xF, false, false, false⟩  -- UPDATE.CMD
  , ⟨0x40, 1, 1, 0x44, 4, 1, [(1, 0)], 0x1FFF, 0, 0, 0, 0, 0, false, false, false⟩  -- UPDATE.INDEX
  , ⟨0x40, 1, 1, 0x48, 4, 1, [(1, 0)], 0x1FFFF, 0, 0, 0, 0, 0, false, false, false⟩  -- UPDATE.CELL
  , ⟨0x40, 1, 1, 0x4C, 4, 1, [(1, 0)], 0xFFFFFFFF, 0, 0, 0, 0, 0, false, false, false⟩  -- UPDATE.CHUNK_CRC
  , ⟨0x40, 1, 1, 0x50, 4, 1, [(1, 0xE10)], 0, 0xFFFFF, 0, 0, 0, 0, false, false, false⟩  -- UPDATE.TRIAL_TIME
  , ⟨0x40, 1, 1, 0x54, 4, 1, [(1, 0)], 0, 0, 0, 0, 0, 0xFF, false, false, false⟩  -- UPDATE.CONFIRM
  , ⟨0x40, 1, 1, 0x58, 4, 1, [(1, 0)], 1, 0, 0, 0, 0, 0, false, false, false⟩  -- UPDATE.LOCK
  , ⟨0x40, 1, 1, 0x5C, 4, 1, [(1, 0)], 0, 0, 0, 0, 0, 0xFF, false, false, false⟩  -- UPDATE.READY
  , ⟨0x40, 1, 1, 0x60, 4, 1, [(1, 0)], 0xFF, 0, 0, 0, 0, 0, false, false, false⟩  -- UPDATE.BMP_SEL
  , ⟨0x40, 1, 1, 0x400, 4, 1, [(1, 0)], 0, 0, 0, 0, 0, 0, false, false, false⟩  -- UPDATE.STATUS
  , ⟨0x40, 1, 1, 0x404, 4, 1, [(1, 0)], 0, 0, 0, 0, 0, 0, false, false, false⟩  -- UPDATE.MISSING
  , ⟨0x40, 1, 1, 0x408, 4, 1, [(1, 0)], 0, 0, 0, 0, 0, 0, false, false, false⟩  -- UPDATE.BMP
  , ⟨0x40, 1, 1, 0x40C, 4, 1, [(1, 0)], 0, 0, 0, 0, 0, 0, false, false, false⟩  -- UPDATE.TRIAL_LEFT
  , ⟨0x40, 1, 1, 0x410, 4, 1, [(1, 0)], 0, 0, 0, 0, 0, 0, false, false, false⟩  -- UPDATE.FUSES
  , ⟨0x40, 1, 1, 0x420, 4, 8, [(8, 0)], 0, 0, 0, 0, 0, 0, false, false, false⟩  -- UPDATE.MAN_HASH
  , ⟨0x40, 1, 1, 0x440, 4, 1, [(1, 0)], 0, 0, 0, 0, 0, 0, false, false, false⟩  -- UPDATE.SET_VER
  , ⟨0x40, 1, 1, 0x444, 4, 1, [(1, 0)], 0, 0, 0, 0, 0, 0, false, false, false⟩  -- UPDATE.SET_VER[1]
  , ⟨0x40, 1, 1, 0x448, 4, 1, [(1, 0)], 0, 0, 0, 0, 0, 0, false, false, false⟩  -- UPDATE.FURLED_VER
  , ⟨0x40, 1, 1, 0x44C, 4, 1, [(1, 0)], 0, 0, 0, 0, 0, 0, false, false, false⟩  -- UPDATE.FURLED_VER[1]
  , ⟨0x40, 1, 1, 0x460, 4, 1, [(1, 0)], 0, 0, 0, 0, 0, 0, true, true, false⟩  -- UPDATE.CHUNKS
  , ⟨0x40, 1, 1, 0x464, 4, 1, [(1, 0)], 0, 0, 0, 0, 0, 0, true, true, false⟩  -- UPDATE.CHUNK_DUP
  , ⟨0x40, 1, 1, 0x468, 4, 1, [(1, 0)], 0, 0, 0, 0, 0, 0, true, true, false⟩  -- UPDATE.CHUNK_CRC_ERR
  , ⟨0x40, 1, 1, 0x46C, 4, 1, [(1, 0)], 0, 0, 0, 0, 0, 0, true, true, false⟩  -- UPDATE.VERIFY_FAIL
  , ⟨0x40, 1, 1, 0x470, 4, 1, [(1, 0)], 0, 0, 0, 0, 0, 0, true, true, false⟩  -- UPDATE.ACTIVATIONS
  , ⟨0x40, 1, 1, 0x474, 4, 1, [(1, 0)], 0, 0, 0, 0, 0, 0, true, true, false⟩  -- UPDATE.CONFIRMS
  , ⟨0x40, 1, 1, 0x478, 4, 1, [(1, 0)], 0, 0, 0, 0, 0, 0, true, true, false⟩  -- UPDATE.REVERTS
  , ⟨0x40, 1, 1, 0x47C, 4, 1, [(1, 0)], 0, 0, 0, 0, 0, 0, true, true, false⟩  -- UPDATE.REFUSED
  , ⟨0x40, 1, 1, 0x480, 4, 1, [(1, 0)], 0, 0, 0, 0, 0, 0, true, true, false⟩  -- UPDATE.LATE_CONFIRM
  ]

/-- Register rows of mast page 0x041, block CAMPAIGN (R533, R534). -/
def mastRows_CAMPAIGN_041_0 : List RegRow :=
  [ ⟨0x41, 1, 1, 0x40, 4, 1, [(1, 0)], 0, 0, 0, 0, 0, 0xF, false, false, false⟩  -- CAMPAIGN.CMD
  , ⟨0x41, 1, 1, 0x44, 4, 1, [(1, 0)], 0, 0xFFFF, 0, 0, 0, 0, false, false, false⟩  -- CAMPAIGN.ID
  , ⟨0x41, 1, 1, 0x48, 4, 1, [(1, 0)], 0, 0x1FFFFF, 0, 0, 0, 0, false, false, false⟩  -- CAMPAIGN.IMG_LEN
  , ⟨0x41, 1, 1, 0x4C, 4, 8, [(8, 0)], 0, 0xFFFFFFFF, 0, 0, 0, 0, false, false, false⟩  -- CAMPAIGN.IMG_HASH
  , ⟨0x41, 1, 1, 0x70, 4, 1, [(1, 0)], 0x3FF, 0, 0, 0, 0, 0, false, false, false⟩  -- CAMPAIGN.CHUNK
  , ⟨0x41, 1, 1, 0x74, 4, 1, [(1, 0)], 0x1FFFF, 0, 0, 0, 0, 0, false, false, false⟩  -- CAMPAIGN.CELL
  , ⟨0x41, 1, 1, 0x78, 4, 1, [(1, 0)], 0xFFFFF, 0, 0, 0, 0, 0, false, false, false⟩  -- CAMPAIGN.NODE
  , ⟨0x41, 1, 1, 0x80, 4, 8, [(8, 0)], 0, 0xFFFFFFFF, 0, 0, 0, 0, false, false, false⟩  -- CAMPAIGN.TARGET
  , ⟨0x41, 1, 1, 0xA0, 4, 8, [(8, 0)], 0xFFFFFFFF, 0, 0, 0, 0, 0, false, false, false⟩  -- CAMPAIGN.GROUP_LOCK
  , ⟨0x41, 1, 1, 0xC0, 4, 8, [(8, 0)], 0xFFFFFFFF, 0, 0, 0, 0, 0, false, false, false⟩  -- CAMPAIGN.LIT
  , ⟨0x41, 1, 1, 0xE0, 4, 1, [(1, 0xA)], 0, 0xFFFFFFFF, 0, 0, 0, 0, false, false, false⟩  -- CAMPAIGN.MC_CFG
  , ⟨0x41, 1, 1, 0xE4, 4, 6, [(6, 0)], 0, 0x83FF, 0, 0, 0, 0, false, false, false⟩  -- CAMPAIGN.MC_CH
  , ⟨0x41, 1, 1, 0x100, 4, 1, [(1, 0x400101)], 0, 0xFFFFCF1F, 0, 0, 0, 0, false, false, false⟩  -- CAMPAIGN.RADIO
  , ⟨0x41, 1, 1, 0x104, 4, 1, [(1, 0x4000010)], 0, 0xF001FFF, 0, 0, 0, 0, false, false, false⟩  -- CAMPAIGN.ROUND_CFG
  , ⟨0x41, 1, 1, 0x108, 4, 1, [(1, 0x5A0078)], 0, 0xFFFFFFFF, 0, 0, 0, 0, false, false, false⟩  -- CAMPAIGN.TIMES
  , ⟨0x41, 1, 1, 0x10C, 4, 1, [(1, 0xE10)], 0, 0xFFFFFF, 0, 0, 0, 0, false, false, false⟩  -- CAMPAIGN.NODE_TRIAL
  , ⟨0x41, 1, 1, 0x110, 4, 1, [(1, 0x15180)], 0, 0xFFFFFF, 0, 0, 0, 0, false, false, false⟩  -- CAMPAIGN.WAVE_TIME
  , ⟨0x41, 1, 1, 0x114, 4, 1, [(1, 0xF0)], 0, 0xFFFF, 0, 0, 0, 0, false, false, false⟩  -- CAMPAIGN.RETRY
  , ⟨0x41, 1, 1, 0x118, 4, 1, [(1, 0xCE4F0B1)], 0, 0xFFFFFFFF, 0, 0, 0, 0, false, false, false⟩  -- CAMPAIGN.OFFER_CFG
  , ⟨0x41, 1, 1, 0x11C, 4, 1, [(1, 0x2580001)], 0, 0xFFFF0001, 0, 0, 0, 0, false, false, false⟩  -- CAMPAIGN.CFG
  , ⟨0x41, 1, 1, 0x400, 4, 1, [(1, 0)], 0, 0, 0, 0, 0, 0, false, false, false⟩  -- CAMPAIGN.STATUS
  , ⟨0x41, 1, 1, 0x404, 4, 1, [(1, 0)], 0, 0, 0, 0, 0, 0, false, false, false⟩  -- CAMPAIGN.WAVE_SIZE
  , ⟨0x41, 1, 1, 0x408, 4, 1, [(1, 0)], 0, 0, 0, 0, 0, 0, false, false, false⟩  -- CAMPAIGN.UNION
  , ⟨0x41, 1, 1, 0x40C, 4, 1, [(1, 0)], 0, 0, 0, 0, 0, 0, false, false, false⟩  -- CAMPAIGN.BMP_BASE
  , ⟨0x41, 1, 1, 0x410, 4, 1, [(1, 0)], 0, 0, 0, 0, 0, 0, false, false, false⟩  -- CAMPAIGN.IMG_MISSING
  , ⟨0x41, 1, 1, 0x420, 4, 13, [(13, 0)], 0, 0, 0, 0, 0, 0, false, false, false⟩  -- CAMPAIGN.STATE_CNT
  , ⟨0x41, 1, 1, 0x460, 4, 1, [(1, 0)], 0, 0, 0, 0, 0, 0, true, true, false⟩  -- CAMPAIGN.FRAG_MC
  , ⟨0x41, 1, 1, 0x464, 4, 1, [(1, 0)], 0, 0, 0, 0, 0, 0, true, true, false⟩  -- CAMPAIGN.FRAG_UNI
  , ⟨0x41, 1, 1, 0x468, 4, 1, [(1, 0)], 0, 0, 0, 0, 0, 0, true, true, false⟩  -- CAMPAIGN.OFFERS
  , ⟨0x41, 1, 1, 0x46C, 4, 1, [(1, 0)], 0, 0, 0, 0, 0, 0, true, true, false⟩  -- CAMPAIGN.REPORTS
  ]

/-- Register rows of mast page 0x041, block CAMPAIGN (R534). -/
def mastRows_CAMPAIGN_041_1 : List RegRow :=
  [ ⟨0x41, 1, 1, 0x470, 4, 1, [(1, 0)], 0, 0, 0, 0, 0, 0, true, true, false⟩  -- CAMPAIGN.REPORT_BAD
  , ⟨0x41, 1, 1, 0x474, 4, 1, [(1, 0)], 0, 0, 0, 0, 0, 0, true, true, false⟩  -- CAMPAIGN.REFUSALS
  , ⟨0x41, 1, 1, 0x478, 4, 1, [(1, 0)], 0, 0, 0, 0, 0, 0, true, true, false⟩  -- CAMPAIGN.SHEET_HOME
  , ⟨0x41, 1, 1, 0x47C, 4, 1, [(1, 0)], 0, 0, 0, 0, 0, 0, true, true, false⟩  -- CAMPAIGN.REVERTED
  , ⟨0x41, 1, 1, 0x480, 4, 1, [(1, 0)], 0, 0, 0, 0, 0, 0, true, true, false⟩  -- CAMPAIGN.LATE_HEALTH
  , ⟨0x41, 1, 1, 0x484, 4, 1, [(1, 0)], 0, 0, 0, 0, 0, 0, true, true, false⟩  -- CAMPAIGN.NO_ANSWER
  , ⟨0x41, 1, 1, 0x488, 4, 1, [(1, 0)], 0, 0, 0, 0, 0, 0, true, true, false⟩  -- CAMPAIGN.PERSISTS
  ]

def mastRows_CAMPAIGN_041 : List RegRow := mastRows_CAMPAIGN_041_0 ++ mastRows_CAMPAIGN_041_1

/-- Register rows of mast page 0x000, block SYS (R565, R566). -/
def mastRows_SYS_000 : List RegRow :=
  [ ⟨0, 1, 1, 0x40, 4, 1, [(1, 0)], 1, 0, 0, 0, 0, 0, false, false, false⟩  -- SYS.MODE
  , ⟨0, 1, 1, 0x44, 4, 1, [(1, 0)], 0, 0, 0, 0, 0, 0xFF03, false, false, false⟩  -- SYS.RESET
  , ⟨0, 1, 1, 0x48, 4, 1, [(1, 0x3E8)], 0, 0, 0, 0x8000FFFF, 0, 0, false, false, false⟩  -- SYS.WDT
  , ⟨0, 1, 1, 0x4C, 4, 1, [(1, 0)], 0, 0, 0, 0, 0, 0xFFFF, false, false, false⟩  -- SYS.WDT_KICK
  , ⟨0, 1, 1, 0x50, 4, 4, [(4, 0)], 0xFFFFFFFF, 0, 0, 0, 0, 0, false, false, false⟩  -- SYS.SCRATCH
  , ⟨0, 1, 1, 0x400, 4, 1, [(1, 0x80000FF)], 0, 0, 0, 0, 0, 0, false, false, false⟩  -- SYS.CHIP
  , ⟨0, 1, 1, 0x404, 4, 1, [(1, 0)], 0, 0, 0xFF, 0, 0, 0, false, false, false⟩  -- SYS.RESET_CAUSE
  , ⟨0, 1, 1, 0x408, 4, 1, [(1, 0)], 0, 0, 0, 0, 0, 0, false, false, false⟩  -- SYS.SRAM_ERR_ADDR
  , ⟨0, 1, 1, 0x40C, 4, 1, [(1, 0)], 0, 0, 0, 0, 0, 0, false, false, false⟩  -- SYS.BUS_ERR
  , ⟨0, 1, 1, 0x420, 4, 1, [(1, 0)], 0, 0, 0, 0, 0, 0, true, true, false⟩  -- SYS.SRAM_CORR
  , ⟨0, 1, 1, 0x424, 4, 1, [(1, 0)], 0, 0, 0, 0, 0, 0, true, true, false⟩  -- SYS.SRAM_UNCORR
  , ⟨0, 1, 1, 0x428, 4, 1, [(1, 0)], 0, 0, 0, 0, 0, 0, true, true, false⟩  -- SYS.TMR_FIX
  , ⟨0, 1, 1, 0x42C, 4, 1, [(1, 0)], 0, 0, 0, 0, 0, 0, true, true, false⟩  -- SYS.UNMAPPED
  ]

/-- Register rows of mast page 0x001, block COMMIT (R567, R568). -/
def mastRows_COMMIT_001 : List RegRow :=
  [ ⟨1, 1, 1, 0x40, 4, 1, [(1, 0)], 0, 0, 0, 0, 0, 0xFFFF, false, false, false⟩  -- COMMIT.GO
  , ⟨1, 1, 1, 0x44, 4, 1, [(1, 1)], 1, 0, 0, 0, 0, 0, false, false, false⟩  -- COMMIT.WHEN
  , ⟨1, 1, 1, 0x48, 4, 1, [(1, 0)], 0, 0, 0, 0, 0, 3, false, false, false⟩  -- COMMIT.SNAP
  , ⟨1, 1, 1, 0x400, 4, 1, [(1, 0)], 0, 0, 0, 0, 0, 0, false, false, false⟩  -- COMMIT.STATUS
  , ⟨1, 1, 1, 0x404, 4, 1, [(1, 0)], 0, 0, 0, 0, 0, 0, false, false, false⟩  -- COMMIT.SEQ
  , ⟨1, 1, 1, 0x408, 4, 1, [(1, 0)], 0, 0, 0, 0, 0, 0, false, false, false⟩  -- COMMIT.LAND_ASN
  , ⟨1, 1, 1, 0x40C, 4, 1, [(1, 0)], 0, 0, 0, 0, 0, 0, false, false, false⟩  -- COMMIT.LAND_ASN[1]
  , ⟨1, 1, 1, 0x410, 4, 1, [(1, 0)], 0, 0, 0, 0, 0, 0, false, false, false⟩  -- COMMIT.SNAP_SEQ
  , ⟨1, 1, 1, 0x420, 4, 1, [(1, 0)], 0, 0, 0, 0, 0, 0, true, true, false⟩  -- COMMIT.COMMITS
  , ⟨1, 1, 1, 0x424, 4, 1, [(1, 0)], 0, 0, 0, 0, 0, 0, true, true, false⟩  -- COMMIT.TICK_COMMITS
  , ⟨1, 1, 1, 0x428, 4, 1, [(1, 0)], 0, 0, 0, 0, 0, 0, true, true, false⟩  -- COMMIT.DEFERRED
  , ⟨1, 1, 1, 0x42C, 4, 1, [(1, 0)], 0, 0, 0, 0, 0, 0, true, true, false⟩  -- COMMIT.REFUSED_PAGES
  , ⟨1, 1, 1, 0x430, 4, 1, [(1, 0)], 0, 0, 0, 0, 0, 0, true, true, false⟩  -- COMMIT.SNAPS
  , ⟨1, 1, 1, 0x434, 4, 1, [(1, 0)], 0, 0, 0, 0, 0, 0, true, true, false⟩  -- COMMIT.SPLIT
  ]

/-- Register rows of mast page 0x003, block IRQ (R569, R570). -/
def mastRows_IRQ_003 : List RegRow :=
  [ ⟨3, 1, 1, 0x80, 4, 32, [(32, 0)], 0x3F3F3F3F, 0, 0, 0, 0, 0, false, false, false⟩  -- IRQ.ROUTE
  , ⟨3, 1, 1, 0x100, 4, 2, [(2, 0x1010101)], 0x3F3F3F3F, 0, 0, 0, 0, 0, false, false, false⟩  -- IRQ.SAIL_ROUTE
  , ⟨3, 1, 1, 0x200, 4, 64, [(2, 0x10000), (62, 0)], 0x3FFFF, 0, 0, 0, 0, 0, false, false, false⟩  -- IRQ.VEC_TARGET
  , ⟨3, 1, 1, 0x300, 4, 1, [(1, 0)], 0, 0, 0, 0, 0, 0x3F, false, false, false⟩  -- IRQ.VEC_EOI
  , ⟨3, 1, 1, 0x400, 4, 4, [(4, 0)], 0, 0, 0, 0, 0, 0, false, false, false⟩  -- IRQ.PEND
  , ⟨3, 1, 1, 0x410, 4, 1, [(1, 0)], 0, 0, 0, 0, 0, 0, false, false, false⟩  -- IRQ.SAIL_PEND
  , ⟨3, 1, 1, 0x418, 4, 1, [(1, 0)], 0, 0, 0, 0, 0, 0, false, false, false⟩  -- IRQ.VEC_PEND
  , ⟨3, 1, 1, 0x41C, 4, 1, [(1, 0)], 0, 0, 0, 0, 0, 0, false, false, false⟩  -- IRQ.VEC_PEND[1]
  , ⟨3, 1, 1, 0x420, 4, 1, [(1, 0)], 0, 0, 0, 0, 0, 0, true, true, false⟩  -- IRQ.MSIX_SENT
  ]

/-- Register rows of mast page 0x006, block THERM (R571). -/
def mastRows_THERM_006 : List RegRow :=
  [ ⟨6, 1, 1, 0x40, 4, 1, [(1, 0x6900000A)], 0, 0xFF0000FF, 0, 0, 0, 0, false, false, false⟩  -- THERM.CFG
  , ⟨6, 1, 1, 0x44, 4, 1, [(1, 0)], 0, 0, 0, 0, 0, 3, false, false, false⟩  -- THERM.CONV
  , ⟨6, 1, 1, 0x400, 4, 1, [(1, 0)], 0, 0, 0, 0, 0, 0, false, false, false⟩  -- THERM.TEMP
  , ⟨6, 1, 1, 0x404, 4, 1, [(1, 0x8000)], 0, 0, 0xFFFF, 0, 0, 0, false, false, false⟩  -- THERM.TEMP_MAX
  , ⟨6, 1, 1, 0x410, 4, 4, [(4, 0)], 0, 0, 0, 0, 0, 0, false, false, false⟩  -- THERM.RAIL
  ]

/-- Register rows of mast page 0x008, block TATRUM (R572, R573). -/
def mastRows_TATRUM_008 : List RegRow :=
  [ ⟨8, 1, 1, 0x40, 4, 1, [(1, 0x20000000)], 0xF03FFFFF, 0, 0, 0, 0, 0, false, false, true⟩  -- TATRUM.FAR_ADDR
  , ⟨8, 1, 1, 0x48, 4, 1, [(1, 0)], 0xFFFFFFFF, 0, 0, 0, 0, 0, false, false, true⟩  -- TATRUM.FAR_DATA
  , ⟨8, 1, 1, 0x4C, 4, 1, [(1, 0)], 0xFFFFFFFF, 0, 0, 0, 0, 0, false, false, true⟩  -- TATRUM.FAR_DATA[1]
  , ⟨8, 1, 1, 0x50, 4, 1, [(1, 0)], 0, 0, 0, 0, 0, 0xFF07, false, false, false⟩  -- TATRUM.RETRAIN
  , ⟨8, 1, 1, 0x400, 4, 1, [(1, 0)], 0, 0, 3, 0, 0, 0, false, false, true⟩  -- TATRUM.FAR_STATUS
  , ⟨8, 1, 1, 0x410, 4, 7, [(7, 0)], 0, 0, 0, 0, 0, 0, false, false, false⟩  -- TATRUM.LINK
  , ⟨8, 1, 1, 0x440, 16, 7, [(7, 0)], 0, 0, 0, 0, 0, 0, true, true, false⟩  -- TATRUM.REPLAY
  , ⟨8, 1, 1, 0x444, 16, 7, [(7, 0)], 0, 0, 0, 0, 0, 0, true, true, false⟩  -- TATRUM.CRC_ERR
  , ⟨8, 1, 1, 0x448, 16, 7, [(7, 0)], 0, 0, 0, 0, 0, 0, true, true, false⟩  -- TATRUM.PROTO_ERR
  , ⟨8, 1, 1, 0x44C, 16, 7, [(7, 0)], 0, 0, 0, 0, 0, 0, true, true, false⟩  -- TATRUM.RETRAINS
  , ⟨8, 1, 1, 0x4B0, 4, 1, [(1, 0)], 0, 0, 0, 0, 0, 0, true, true, false⟩  -- TATRUM.FAR_ERR
  , ⟨8, 1, 1, 0x4B4, 4, 1, [(1, 0)], 0, 0, 0, 0, 0, 0, true, true, false⟩  -- TATRUM.FAR_TIMEOUT
  ]

/-- Register rows of mast page 0x049, block ETH (R597, R598). -/
def mastRows_ETH_049 : List RegRow :=
  [ ⟨0x49, 4, 1, 0x40, 4, 1, [(4, 0xF0000000)], 0, 0xF0000007, 0, 0, 0, 0, false, false, false⟩  -- ETH.CFG
  , ⟨0x49, 4, 1, 0x48, 4, 1, [(4, 0)], 0, 0xFFFFFFFF, 0, 0, 0, 0, false, false, false⟩  -- ETH.OWN_MAC
  , ⟨0x49, 4, 1, 0x4C, 4, 1, [(4, 0)], 0, 0xFFFF, 0, 0, 0, 0, false, false, false⟩  -- ETH.OWN_MAC[1]
  , ⟨0x49, 4, 1, 0x50, 4, 1, [(4, 0)], 0, 0xFFFFFFFF, 0, 0, 0, 0, false, false, false⟩  -- ETH.PEER
  , ⟨0x49, 4, 1, 0x54, 4, 1, [(4, 0)], 0, 0x4000FFFF, 0, 0, 0, 0, false, false, false⟩  -- ETH.PEER[1]
  , ⟨0x49, 4, 1, 0x58, 4, 1, [(4, 0)], 0, 0xC0000FFF, 0, 0, 0, 0, false, false, false⟩  -- ETH.VLAN
  , ⟨0x49, 4, 1, 0x5C, 4, 1, [(4, 0x5F2)], 0, 0x7FF, 0, 0, 0, 0, false, false, false⟩  -- ETH.MAX_RX
  , ⟨0x49, 4, 1, 0x60, 4, 1, [(4, 0xFFFF)], 0, 0xFFFF, 0, 0, 0, 0, false, false, false⟩  -- ETH.STATIONS
  , ⟨0x49, 4, 1, 0x64, 4, 1, [(4, 0)], 0, 0xFFFFFFFF, 0, 0, 0, 0, false, false, false⟩  -- ETH.PTP_CFG
  , ⟨0x49, 4, 1, 0x400, 4, 1, [(4, 0)], 0, 0, 0, 0, 0, 0, false, false, false⟩  -- ETH.LINK
  , ⟨0x49, 4, 1, 0x408, 4, 1, [(4, 0)], 0, 0, 0, 0, 0, 0, false, false, false⟩  -- ETH.PARTNER
  , ⟨0x49, 4, 1, 0x40C, 4, 1, [(4, 0)], 0, 0, 0, 0, 0, 0, false, false, false⟩  -- ETH.PARTNER[1]
  , ⟨0x49, 4, 1, 0x420, 4, 1, [(4, 0)], 0, 0, 0, 0, 0, 0, true, true, false⟩  -- ETH.RX_FRAMES
  , ⟨0x49, 4, 1, 0x424, 4, 1, [(4, 0)], 0, 0, 0, 0, 0, 0, true, true, false⟩  -- ETH.TX_FRAMES
  , ⟨0x49, 4, 1, 0x428, 4, 1, [(4, 0)], 0, 0, 0, 0, 0, 0, true, true, false⟩  -- ETH.RX_ERR
  , ⟨0x49, 4, 1, 0x42C, 4, 1, [(4, 0)], 0, 0, 0, 0, 0, 0, true, true, false⟩  -- ETH.ADDR_DROP
  , ⟨0x49, 4, 1, 0x430, 4, 1, [(4, 0)], 0, 0, 0, 0, 0, 0, true, true, false⟩  -- ETH.PARTNER_REFUSED
  , ⟨0x49, 4, 1, 0x434, 4, 1, [(4, 0)], 0, 0, 0, 0, 0, 0, true, true, false⟩  -- ETH.VLAN_DROP
  , ⟨0x49, 4, 1, 0x438, 4, 1, [(4, 0)], 0, 0, 0, 0, 0, 0, true, true, false⟩  -- ETH.OTHER_DROP
  , ⟨0x49, 4, 1, 0x43C, 4, 1, [(4, 0)], 0, 0, 0, 0, 0, 0, true, true, false⟩  -- ETH.NO_PARTNER
  , ⟨0x49, 4, 1, 0x440, 4, 1, [(4, 0)], 0, 0, 0, 0, 0, 0, true, true, false⟩  -- ETH.PAUSE_RX
  , ⟨0x49, 4, 1, 0x444, 4, 1, [(4, 0)], 0, 0, 0, 0, 0, 0, true, true, false⟩  -- ETH.PAUSE_TX
  , ⟨0x49, 4, 1, 0x448, 4, 1, [(4, 0)], 0, 0, 0, 0, 0, 0, true, true, false⟩  -- ETH.TS_RX
  , ⟨0x49, 4, 1, 0x44C, 4, 1, [(4, 0)], 0, 0, 0, 0, 0, 0, true, true, false⟩  -- ETH.TS_TX
  , ⟨0x49, 4, 1, 0x450, 4, 1, [(4, 0)], 0, 0, 0, 0, 0, 0, true, true, false⟩  -- ETH.LINK_DOWN
  ]

/-- Register rows of mast page 0x048, block PCIE (R599, R600). -/
def mastRows_PCIE_048 : List RegRow :=
  [ ⟨0x48, 1, 1, 0x40, 4, 1, [(1, 0)], 0x3F, 0, 0, 0, 0, 0, false, false, false⟩  -- PCIE.RING_SEL
  , ⟨0x48, 1, 1, 0x48, 4, 1, [(1, 0)], 0, 0xFFFFFFF0, 0, 0, 0, 0, false, false, false⟩  -- PCIE.RING_BASE
  , ⟨0x48, 1, 1, 0x4C, 4, 1, [(1, 0)], 0, 0xFFFFFFFF, 0, 0, 0, 0, false, false, false⟩  -- PCIE.RING_BASE[1]
  , ⟨0x48, 1, 1, 0x50, 4, 1, [(1, 0x80000)], 0, 0xC00F7FC0, 0, 0, 0, 0, false, false, false⟩  -- PCIE.RING_CFG
  , ⟨0x48, 1, 1, 0x54, 4, 1, [(1, 0x320010)], 0, 0xFFFFFFFF, 0, 0, 0, 0, false, false, false⟩  -- PCIE.RING_COAL
  , ⟨0x48, 1, 1, 0x58, 4, 1, [(1, 0)], 0, 0xFFFFFFFF, 0, 0, 0, 0, false, false, false⟩  -- PCIE.CLASS_RING
  , ⟨0x48, 1, 1, 0x5C, 4, 1, [(1, 0)], 0, 0xFFFF, 0, 0, 0, 0, false, false, false⟩  -- PCIE.CLASS_RING[1]
  , ⟨0x48, 1, 1, 0x80, 8, 8, [(8, 0)], 0, 0xFFFFFFF1, 0, 0, 0, 0, false, false, false⟩  -- PCIE.DMA_LINE
  , ⟨0x48, 1, 1, 0x84, 8, 8, [(8, 0)], 0, 0xFFFFFFFF, 0, 0, 0, 0, false, false, false⟩  -- PCIE.DMA_LINE[1]
  , ⟨0x48, 1, 1, 0x400, 4, 1, [(1, 0)], 0, 0, 0, 0, 0, 0, false, false, false⟩  -- PCIE.LINK
  , ⟨0x48, 1, 1, 0x404, 4, 1, [(1, 0)], 0, 0, 0, 0, 0, 0, false, false, false⟩  -- PCIE.ID
  , ⟨0x48, 1, 1, 0x408, 4, 1, [(1, 0)], 0, 0, 0x80000000, 0, 0, 0, false, false, false⟩  -- PCIE.RING_STAT
  , ⟨0x48, 1, 1, 0x40C, 4, 1, [(1, 0)], 0, 0, 0, 0, 0, 0, false, false, false⟩  -- PCIE.RING_HEAD
  , ⟨0x48, 1, 1, 0x410, 4, 1, [(1, 0)], 0, 0, 0, 0, 0, 0, false, false, false⟩  -- PCIE.RING_TAIL
  , ⟨0x48, 1, 1, 0x420, 4, 1, [(1, 0)], 0, 0, 0, 0, 0, 0, true, true, false⟩  -- PCIE.TX_FRAMES
  , ⟨0x48, 1, 1, 0x424, 4, 1, [(1, 0)], 0, 0, 0, 0, 0, 0, true, true, false⟩  -- PCIE.RX_FRAMES
  , ⟨0x48, 1, 1, 0x428, 4, 1, [(1, 0)], 0, 0, 0, 0, 0, 0, true, true, false⟩  -- PCIE.TX_BAD
  , ⟨0x48, 1, 1, 0x42C, 4, 1, [(1, 0)], 0, 0, 0, 0, 0, 0, true, true, false⟩  -- PCIE.RING_ERR
  , ⟨0x48, 1, 1, 0x430, 4, 1, [(1, 0)], 0, 0, 0, 0, 0, 0, true, true, false⟩  -- PCIE.DMA_MERGE
  , ⟨0x48, 1, 1, 0x434, 4, 1, [(1, 0)], 0, 0, 0, 0, 0, 0, true, true, false⟩  -- PCIE.LINK_DOWN
  ]

/-- Register rows of mast page 0x04D, block MGMT (R601). -/
def mastRows_MGMT_04D : List RegRow :=
  [ ⟨0x4D, 1, 1, 0x40, 4, 1, [(1, 0xC001C200)], 0, 0xC0FFFFFF, 0, 0, 0, 0, false, false, false⟩  -- MGMT.CFG
  , ⟨0x4D, 1, 1, 0x400, 4, 1, [(1, 0)], 0, 0, 0, 0, 0, 0, false, false, false⟩  -- MGMT.STATUS
  , ⟨0x4D, 1, 1, 0x420, 4, 1, [(1, 0)], 0, 0, 0, 0, 0, 0, true, true, false⟩  -- MGMT.REQUESTS
  , ⟨0x4D, 1, 1, 0x424, 4, 1, [(1, 0)], 0, 0, 0, 0, 0, 0, true, true, false⟩  -- MGMT.CRC_ERR
  , ⟨0x4D, 1, 1, 0x428, 4, 1, [(1, 0)], 0, 0, 0, 0, 0, 0, true, true, false⟩  -- MGMT.FRAMING_ERR
  , ⟨0x4D, 1, 1, 0x42C, 4, 1, [(1, 0)], 0, 0, 0, 0, 0, 0, true, true, false⟩  -- MGMT.TIMEOUT
  , ⟨0x4D, 1, 1, 0x430, 4, 1, [(1, 0)], 0, 0, 0, 0, 0, 0, true, true, false⟩  -- MGMT.FRAMES
  ]

/-- Register rows of mast page 0x042, block NVSTORE (R629, R630). -/
def mastRows_NVSTORE_042 : List RegRow :=
  [ ⟨0x42, 1, 1, 0x40, 4, 1, [(1, 0x800000F0)], 0, 0x8000FFFF, 0, 0, 0, 0, false, false, false⟩  -- NVSTORE.CKPT_CFG
  , ⟨0x42, 1, 1, 0x44, 4, 1, [(1, 0)], 0, 0, 0, 0, 0, 0xF, false, false, false⟩  -- NVSTORE.CMD
  , ⟨0x42, 1, 1, 0x400, 4, 1, [(1, 0)], 0, 0, 0, 0, 0, 0, false, false, false⟩  -- NVSTORE.STATUS
  , ⟨0x42, 1, 1, 0x410, 8, 4, [(4, 0)], 0, 0, 0, 0, 0, 0, false, false, false⟩  -- NVSTORE.SEQ
  , ⟨0x42, 1, 1, 0x414, 8, 4, [(4, 0)], 0, 0, 8, 0, 0, 0, false, false, false⟩  -- NVSTORE.BANK
  , ⟨0x42, 1, 1, 0x430, 4, 1, [(1, 0)], 0, 0, 0, 0, 0, 0, false, false, false⟩  -- NVSTORE.RING
  , ⟨0x42, 1, 1, 0x434, 4, 1, [(1, 0xFFFF)], 0, 0, 0, 0, 0, 0, false, false, false⟩  -- NVSTORE.CKPT_AGE
  , ⟨0x42, 1, 1, 0x440, 4, 1, [(1, 0)], 0, 0, 0, 0, 0, 0, true, true, false⟩  -- NVSTORE.WRITES
  , ⟨0x42, 1, 1, 0x444, 4, 1, [(1, 0)], 0, 0, 0, 0, 0, 0, true, true, false⟩  -- NVSTORE.WRITE_FAIL
  , ⟨0x42, 1, 1, 0x448, 4, 1, [(1, 0)], 0, 0, 0, 0, 0, 0, true, true, false⟩  -- NVSTORE.TORN
  , ⟨0x42, 1, 1, 0x44C, 4, 1, [(1, 0)], 0, 0, 0, 0, 0, 0, true, true, false⟩  -- NVSTORE.CKPT_DONE
  , ⟨0x42, 1, 1, 0x450, 4, 1, [(1, 0)], 0, 0, 0, 0, 0, 0, true, true, false⟩  -- NVSTORE.RESTORED
  , ⟨0x42, 1, 1, 0x454, 4, 1, [(1, 0)], 0, 0, 0, 0, 0, 0, true, true, false⟩  -- NVSTORE.RING_WRITES
  ]

/-- Register rows of mast page 0x043, block FLASH (R631, R632). -/
def mastRows_FLASH_043 : List RegRow :=
  [ ⟨0x43, 1, 1, 0x40, 4, 1, [(1, 0)], 0xFFFFFFF, 0, 0, 0, 0, 0, false, false, false⟩  -- FLASH.ADDR
  , ⟨0x43, 1, 1, 0x44, 4, 1, [(1, 0)], 0, 0, 0, 0, 0, 0xF, false, false, false⟩  -- FLASH.CMD
  , ⟨0x43, 1, 1, 0x80, 4, 64, [(64, 0)], 0xFFFFFFFF, 0, 0, 0, 0, 0, false, false, false⟩  -- FLASH.DATA
  , ⟨0x43, 1, 1, 0x400, 4, 1, [(1, 0)], 0, 0, 0, 0, 0, 0, false, false, false⟩  -- FLASH.STATUS
  , ⟨0x43, 1, 1, 0x404, 4, 1, [(1, 0)], 0, 0, 0, 0, 0, 0, false, false, false⟩  -- FLASH.INFO
  , ⟨0x43, 1, 1, 0x408, 4, 1, [(1, 0)], 0, 0, 0, 0, 0, 0, false, false, false⟩  -- FLASH.JEDEC_ID
  , ⟨0x43, 1, 1, 0x40C, 4, 1, [(1, 0)], 0, 0, 0, 0, 0, 0, false, false, false⟩  -- FLASH.BOOT
  , ⟨0x43, 1, 1, 0x420, 4, 1, [(1, 0)], 0, 0, 0, 0, 0, 0, true, true, false⟩  -- FLASH.READS
  , ⟨0x43, 1, 1, 0x424, 4, 1, [(1, 0)], 0, 0, 0, 0, 0, 0, true, true, false⟩  -- FLASH.PROGRAMS
  , ⟨0x43, 1, 1, 0x428, 4, 1, [(1, 0)], 0, 0, 0, 0, 0, 0, true, true, false⟩  -- FLASH.ERASES
  , ⟨0x43, 1, 1, 0x42C, 4, 1, [(1, 0)], 0, 0, 0, 0, 0, 0, true, true, false⟩  -- FLASH.SUSPENDS
  , ⟨0x43, 1, 1, 0x430, 4, 1, [(1, 0)], 0, 0, 0, 0, 0, 0, true, true, false⟩  -- FLASH.ERRORS
  ]

/-- The register rows of a mast page (R539). -/
def mastPageRows : Nat → List RegRow
  | 0x000 => mastRows_SYS_000
  | 0x001 => mastRows_COMMIT_001
  | 0x002 => mastRows_SESSION_002
  | 0x003 => mastRows_IRQ_003
  | 0x004 => mastRows_PAIR_004
  | 0x005 => mastRows_FEED_005
  | 0x006 => mastRows_THERM_006
  | 0x008 => mastRows_TATRUM_008
  | 0x010 => mastRows_HALYARD_010
  | 0x011 => mastRows_SALTERN_011
  | 0x018 => mastRows_NODETAB_018
  | 0x019 => mastRows_ROUTE_019
  | 0x01A => mastRows_COMP_01A
  | 0x020 => mastRows_MAC_020
  | 0x021 => mastRows_DWELL_021
  | 0x028 => mastRows_SHAPE_028
  | 0x029 => mastRows_SLUICE_029
  | 0x030 => mastRows_TIME_030
  | 0x031 => mastRows_TPO_031
  | 0x032 => mastRows_TIMERS_032
  | 0x038 => mastRows_KEYS_038
  | 0x039 => mastRows_CRYPTO_039
  | 0x03A => mastRows_RSA_03A
  | 0x03B => mastRows_DRBG_03B
  | 0x03C => mastRows_CRYST_03C
  | 0x03D => mastRows_TAMPER_03D
  | 0x040 => mastRows_UPDATE_040
  | 0x041 => mastRows_CAMPAIGN_041
  | 0x042 => mastRows_NVSTORE_042
  | 0x043 => mastRows_FLASH_043
  | 0x048 => mastRows_PCIE_048
  | 0x049 => mastRows_ETH_049
  | 0x04A => mastRows_ETH_049
  | 0x04B => mastRows_ETH_049
  | 0x04C => mastRows_ETH_049
  | 0x04D => mastRows_MGMT_04D
  | 0x100 => mastRows_QARR_100
  | 0x101 => mastRows_QARR_100
  | 0x102 => mastRows_QARR_100
  | 0x103 => mastRows_QARR_100
  | 0x104 => mastRows_QARR_100
  | 0x105 => mastRows_QARR_100
  | 0x106 => mastRows_QARR_100
  | 0x107 => mastRows_QARR_100
  | 0x108 => mastRows_QARR_100
  | 0x109 => mastRows_QARR_100
  | 0x10A => mastRows_QARR_100
  | 0x10B => mastRows_QARR_100
  | 0x10C => mastRows_QARR_100
  | 0x10D => mastRows_QARR_100
  | 0x10E => mastRows_QARR_100
  | 0x10F => mastRows_QARR_100
  | 0x110 => mastRows_STAB_110
  | 0x111 => mastRows_STAB_110 ++ mastRows_STAB_111
  | 0x112 => mastRows_STAB_110 ++ mastRows_STAB_111
  | 0x113 => mastRows_STAB_110 ++ mastRows_STAB_113
  | 0x120 => mastRows_KATTR_120
  | 0x121 => mastRows_KATTR_120
  | 0x130 => mastRows_GCL_130
  | 0x131 => mastRows_GSTAT_131
  | 0x132 => mastRows_GCL_130
  | 0x133 => mastRows_GSTAT_131
  | 0x134 => mastRows_GCL_130
  | 0x135 => mastRows_GSTAT_131
  | 0x136 => mastRows_GCL_130
  | 0x137 => mastRows_GSTAT_131
  | _ => []

/-- Register rows of sail page 0x008, block ADC (R88, R89). -/
def sailRows_ADC_008 : List RegRow :=
  [ ⟨8, 1, 1, 0x44, 4, 1, [(1, 0)], 0, 3, 0, 0, 0, 0, false, false, false⟩  -- ADC.CLK_CFG
  , ⟨8, 1, 1, 0x48, 4, 2, [(2, 0x1E101001)], 0, 0x1FFFFF0F, 0, 0, 0, 0, false, false, false⟩  -- ADC.AGC_CFG
  , ⟨8, 1, 1, 0x400, 4, 1, [(1, 0)], 0, 0, 0, 0, 0, 0, false, false, false⟩  -- ADC.CLK_STATUS
  , ⟨8, 1, 1, 0x404, 4, 1, [(1, 0)], 0, 0, 0, 0, 0, 0, false, false, false⟩  -- ADC.GAIN_STATE
  , ⟨8, 1, 1, 0x410, 4, 1, [(1, 0)], 0, 0, 0, 0, 0, 0, true, true, false⟩  -- ADC.CLIP_SAMPLES_A
  , ⟨8, 1, 1, 0x414, 4, 1, [(1, 0)], 0, 0, 0, 0, 0, 0, true, true, false⟩  -- ADC.CLIP_SAMPLES_B
  , ⟨8, 1, 1, 0x418, 4, 1, [(1, 0)], 0, 0, 0, 0, 0, 0, true, true, false⟩  -- ADC.FAST_STEP_A
  , ⟨8, 1, 1, 0x41C, 4, 1, [(1, 0)], 0, 0, 0, 0, 0, 0, true, true, false⟩  -- ADC.FAST_STEP_B
  , ⟨8, 1, 1, 0x420, 4, 1, [(1, 0)], 0, 0, 0, 0, 0, 0, true, true, false⟩  -- ADC.TICK_RISE_A
  , ⟨8, 1, 1, 0x424, 4, 1, [(1, 0)], 0, 0, 0, 0, 0, 0, true, true, false⟩  -- ADC.TICK_RISE_B
  , ⟨8, 1, 1, 0x428, 4, 1, [(1, 0)], 0, 0, 0, 0, 0, 0, true, true, false⟩  -- ADC.REF_SWITCH
  , ⟨8, 1, 1, 0x42C, 4, 1, [(1, 0)], 0, 0, 0, 0, 0, 0, true, true, false⟩  -- ADC.CLOCK_LOST
  , ⟨8, 1, 1, 0x430, 4, 1, [(1, 0)], 0, 0, 0, 0, 0, 0, false, true, false⟩  -- ADC.PEAK_A
  , ⟨8, 1, 1, 0x434, 4, 1, [(1, 0)], 0, 0, 0, 0, 0, 0, false, true, false⟩  -- ADC.PEAK_B
  ]

/-- Register rows of sail page 0x009, block WIN (R91, R92). -/
def sailRows_WIN_009 : List RegRow :=
  [ ⟨9, 1, 1, 0x40, 8, 4, [(4, 0x323BE)], 0, 0x80037FFF, 0, 0, 0, 0, false, false, false⟩  -- WIN.WIN_CTL
  , ⟨9, 1, 1, 0x60, 4, 16, [(16, 0xFFFFFFFF)], 0, 0xFFFFFFFF, 0, 0, 0, 0, false, false, false⟩  -- WIN.BIN_MASK
  , ⟨9, 1, 1, 0xA0, 4, 1, [(1, 0x32)], 0, 0xFF, 0, 0, 0, 0, false, false, false⟩  -- WIN.BLANK_CFG
  , ⟨9, 1, 1, 0x400, 4, 1, [(1, 0)], 0, 0, 0, 0, 0, 0, false, false, false⟩  -- WIN.STATUS_W
  , ⟨9, 1, 1, 0x404, 4, 1, [(1, 0)], 0, 0, 0xF, 0, 0, 0, false, false, false⟩  -- WIN.CFG_ERR
  , ⟨9, 1, 1, 0x410, 4, 4, [(4, 0)], 0, 0, 0, 0, 0, 0, true, true, false⟩  -- WIN.BLANK_TIME
  , ⟨9, 1, 1, 0x420, 4, 4, [(4, 0)], 0, 0, 0, 0, 0, 0, true, true, false⟩  -- WIN.TX_BLANKED
  , ⟨9, 1, 1, 0x430, 4, 4, [(4, 0)], 0, 0, 0, 0, 0, 0, true, true, false⟩  -- WIN.RETUNE_REL
  ]

/-- Register rows of sail page 0x002, block FECTL (R93, R95). -/
def sailRows_FECTL_002 : List RegRow :=
  [ ⟨2, 1, 1, 0x40, 4, 8, [(1, 2), (1, 3), (1, 4), (1, 5), (1, 6), (3, 0)], 0, 0x3F, 0, 0, 0, 0, false, false, false⟩  -- FECTL.LINE_CFG
  , ⟨2, 1, 1, 0x60, 8, 8, [(1, 0x80000000), (7, 0)], 0, 0xC0FFFFFF, 0, 0, 0, 0, false, false, false⟩  -- FECTL.GAIN_TAB
  , ⟨2, 1, 1, 0x64, 8, 8, [(8, 0x68)], 0, 0xFFFF, 0, 0, 0, 0, false, false, false⟩  -- FECTL.GAIN_TAB[1]
  , ⟨2, 1, 1, 0xA0, 4, 1, [(1, 0x1018)], 0x3FF1F, 0, 0, 0, 0, 0, false, false, false⟩  -- FECTL.SPI_CFG
  , ⟨2, 1, 1, 0xA4, 4, 2, [(2, 0x1E00)], 0, 0xFFFF, 0, 0, 0, 0, false, false, false⟩  -- FECTL.GAIN_LAT
  , ⟨2, 1, 1, 0xAC, 4, 1, [(1, 0)], 0, 1, 0, 0, 0, 0, false, false, false⟩  -- FECTL.OBS_CTL
  , ⟨2, 1, 1, 0x404, 4, 1, [(1, 0)], 0, 0, 1, 0, 0, 0, false, false, false⟩  -- FECTL.FE_STATUS
  , ⟨2, 1, 1, 0x410, 4, 1, [(1, 0)], 0, 0, 0, 0, 0, 0, true, true, false⟩  -- FECTL.OBS_PREEMPT
  , ⟨2, 1, 1, 0x414, 4, 1, [(1, 0)], 0, 0, 0, 0, 0, 0, true, true, false⟩  -- FECTL.OBS_DEFER
  , ⟨2, 1, 1, 0x400, 4, 1, [(1, 0)], 0, 0, 0, 0, 0, 0, false, false, false⟩  -- FECTL.LINE_STATE
  ]

/-- Register rows of sail page 0x00A, block NEST (R128, R130). -/
def sailRows_NEST_00A : List RegRow :=
  [ ⟨0xA, 1, 1, 0x40, 4, 1, [(1, 0xC020000C)], 0, 0xC1FF00FF, 0, 0, 0, 0, false, false, false⟩  -- NEST.CFG
  , ⟨0xA, 1, 1, 0x60, 4, 8, [(8, 8)], 0, 0xFF, 0, 0, 0, 0, false, false, false⟩  -- NEST.THRESH
  , ⟨0xA, 1, 1, 0x80, 4, 64, [(1, 0x80000000), (63, 0)], 0, 0x8F001FFF, 0, 0, 0, 0, false, false, false⟩  -- NEST.HYPSET
  , ⟨0xA, 1, 1, 0x180, 4, 64, [(64, 0)], 0, 0xFFFFFFFF, 0, 0, 0, 0, false, false, false⟩  -- NEST.BIN_SET
  , ⟨0xA, 1, 1, 0x404, 4, 1, [(1, 0)], 0, 0, 3, 0, 0, 0, false, false, false⟩  -- NEST.CFG_ERR
  , ⟨0xA, 1, 1, 0x410, 4, 1, [(1, 0)], 0, 0, 0, 0, 0, 0, true, true, false⟩  -- NEST.DETECT_A
  , ⟨0xA, 1, 1, 0x414, 4, 1, [(1, 0)], 0, 0, 0, 0, 0, 0, true, true, false⟩  -- NEST.DETECT_B
  , ⟨0xA, 1, 1, 0x418, 4, 1, [(1, 0)], 0, 0, 0, 0, 0, 0, true, true, false⟩  -- NEST.RELOOK_FORK
  , ⟨0xA, 1, 1, 0x41C, 4, 1, [(1, 0)], 0, 0, 0, 0, 0, 0, true, true, false⟩  -- NEST.RELOOK_RESTART
  , ⟨0xA, 1, 1, 0x420, 4, 1, [(1, 0)], 0, 0, 0, 0, 0, 0, true, true, false⟩  -- NEST.FALSE_START
  , ⟨0xA, 1, 1, 0x424, 4, 1, [(1, 0)], 0, 0, 0, 0, 0, 0, true, true, false⟩  -- NEST.BIN_FULL
  , ⟨0xA, 1, 1, 0x428, 4, 1, [(1, 0)], 0, 0, 0, 0, 0, 0, true, true, false⟩  -- NEST.SEL_OTHER
  ]

/-- Register rows of sail page 0x00B, block LANE (R131, R132). -/
def sailRows_LANE_00B : List RegRow :=
  [ ⟨0xB, 1, 1, 0x40, 4, 4, [(4, 0x10)], 0, 0x1FF, 0, 0, 0, 0, false, false, false⟩  -- LANE.RESERVE
  , ⟨0xB, 1, 1, 0x50, 4, 1, [(1, 0)], 0, 0, 0, 0, 0, 1, false, false, false⟩  -- LANE.HWM_CLR
  , ⟨0xB, 1, 1, 0x400, 4, 1, [(1, 0)], 0, 0, 0, 0, 0, 0, false, false, false⟩  -- LANE.POOL
  , ⟨0xB, 1, 1, 0x404, 4, 1, [(1, 0)], 0, 0, 1, 0, 0, 0, false, false, false⟩  -- LANE.CFG_ERR
  , ⟨0xB, 1, 1, 0x410, 4, 4, [(4, 0)], 0, 0, 0, 0, 0, 0, false, false, false⟩  -- LANE.IN_USE
  , ⟨0xB, 1, 1, 0x420, 4, 1, [(1, 0)], 0, 0, 0, 0, 0, 0, false, false, false⟩  -- LANE.WAIT_HWM
  , ⟨0xB, 1, 1, 0x430, 4, 1, [(1, 0)], 0, 0, 0, 0, 0, 0, true, true, false⟩  -- LANE.ATTACH
  , ⟨0xB, 1, 1, 0x434, 4, 1, [(1, 0)], 0, 0, 0, 0, 0, 0, true, true, false⟩  -- LANE.STARVED
  , ⟨0xB, 1, 1, 0x438, 4, 1, [(1, 0)], 0, 0, 0, 0, 0, 0, true, true, false⟩  -- LANE.DISPLACED
  , ⟨0xB, 1, 1, 0x43C, 4, 1, [(1, 0)], 0, 0, 0, 0, 0, 0, true, true, false⟩  -- LANE.DELIVERED
  , ⟨0xB, 1, 1, 0x440, 4, 4, [(4, 0)], 0, 0, 0, 0, 0, 0, true, true, false⟩  -- LANE.STARVED_W
  , ⟨0xB, 1, 1, 0x460, 4, 16, [(16, 0)], 0, 0, 0, 0, 0, 0, true, true, false⟩  -- LANE.REL
  , ⟨0xB, 1, 1, 0x4A0, 4, 1, [(1, 0)], 0, 0, 0, 0, 0, 0, true, true, false⟩  -- LANE.WAIT_DROP
  ]

/-- Register rows of sail page 0x100, block LARR (R133). -/
def sailRows_LARR_100 : List RegRow :=
  [ ⟨0x100, 8, 1, 0x400, 16, 64, [(512, 0)], 0, 0, 0, 0, 0, 0, false, true, false⟩  -- LARR.LSTAT
  , ⟨0x100, 8, 1, 0x404, 16, 64, [(512, 0)], 0, 0, 0, 0, 0, 0, false, true, false⟩  -- LARR.LSTART
  , ⟨0x100, 8, 1, 0x408, 16, 64, [(512, 0)], 0, 0, 0, 0, 0, 0, false, true, false⟩  -- LARR.LMETRIC
  , ⟨0x100, 8, 1, 0x40C, 16, 64, [(512, 0)], 0, 0, 0, 0, 0, 0, true, true, false⟩  -- LARR.LCOUNT
  ]

/-- Register rows of sail page 0x010, block CLEURA (R170, R171). -/
def sailRows_CLEURA_010 : List RegRow :=
  [ ⟨0x10, 1, 1, 0x40, 4, 1, [(1, 0x80040C08)], 0, 0x800FFFFF, 0, 0, 0, 0, false, false, false⟩  -- CLEURA.ACQ_CFG
  , ⟨0x10, 1, 1, 0x44, 4, 1, [(1, 0x5004F8)], 0, 0xFF0FFF, 0, 0, 0, 0, false, false, false⟩  -- CLEURA.TRACK_CFG
  , ⟨0x10, 1, 1, 0x48, 4, 1, [(1, 0x80000)], 0, 0xFF01F3, 0, 0, 0, 0, false, false, false⟩  -- CLEURA.ADV_CFG
  , ⟨0x10, 1, 1, 0x50, 4, 5, [(1, 0x10), (1, 0x1C), (1, 0x36), (1, 0x4E), (1, 0x66)], 0, 0xFF, 0, 0, 0, 0, false, false, false⟩  -- CLEURA.ADV_REQ
  , ⟨0x10, 1, 1, 0x64, 4, 1, [(1, 0x14)], 0, 0x1FF, 0, 0, 0, 0, false, false, false⟩  -- CLEURA.TX_CFG
  , ⟨0x10, 1, 1, 0x400, 4, 1, [(1, 0)], 0, 0, 0, 0, 0, 0, false, false, false⟩  -- CLEURA.STATUS
  , ⟨0x10, 1, 1, 0x404, 4, 1, [(1, 0)], 0, 0, 3, 0, 0, 0, false, false, false⟩  -- CLEURA.CFG_ERR
  , ⟨0x10, 1, 1, 0x410, 4, 1, [(1, 0)], 0, 0, 0, 0, 0, 0, true, true, false⟩  -- CLEURA.PHR_PASS
  , ⟨0x10, 1, 1, 0x414, 4, 1, [(1, 0)], 0, 0, 0, 0, 0, 0, true, true, false⟩  -- CLEURA.PHR_RS_FAIL
  , ⟨0x10, 1, 1, 0x418, 4, 1, [(1, 0)], 0, 0, 0, 0, 0, 0, true, true, false⟩  -- CLEURA.PHR_CRC_FAIL
  , ⟨0x10, 1, 1, 0x41C, 4, 1, [(1, 0)], 0, 0, 0, 0, 0, 0, true, true, false⟩  -- CLEURA.PHR_FIELD_FAIL
  , ⟨0x10, 1, 1, 0x420, 4, 1, [(1, 0)], 0, 0, 0, 0, 0, 0, true, true, false⟩  -- CLEURA.PHR_PROF_FAIL
  , ⟨0x10, 1, 1, 0x424, 4, 1, [(1, 0)], 0, 0, 0, 0, 0, 0, true, true, false⟩  -- CLEURA.PHR_CORRECTED
  , ⟨0x10, 1, 1, 0x428, 4, 1, [(1, 0)], 0, 0, 0, 0, 0, 0, true, true, false⟩  -- CLEURA.LTF_FAIL
  , ⟨0x10, 1, 1, 0x42C, 4, 1, [(1, 0)], 0, 0, 0, 0, 0, 0, true, true, false⟩  -- CLEURA.HINT_USED
  , ⟨0x10, 1, 1, 0x430, 4, 1, [(1, 0)], 0, 0, 0, 0, 0, 0, true, true, false⟩  -- CLEURA.HINT_DECISIVE
  , ⟨0x10, 1, 1, 0x434, 4, 1, [(1, 0)], 0, 0, 0, 0, 0, 0, true, true, false⟩  -- CLEURA.HINT_OVERRULED
  , ⟨0x10, 1, 1, 0x438, 4, 1, [(1, 0)], 0, 0, 0, 0, 0, 0, true, true, false⟩  -- CLEURA.TRACK_LOST
  , ⟨0x10, 1, 1, 0x43C, 4, 1, [(1, 0)], 0, 0, 0, 0, 0, 0, true, true, false⟩  -- CLEURA.WIN_SLIP
  , ⟨0x10, 1, 1, 0x440, 4, 1, [(1, 0)], 0, 0, 0, 0, 0, 0, true, true, false⟩  -- CLEURA.ADV_SENT
  , ⟨0x10, 1, 1, 0x444, 4, 1, [(1, 0)], 0, 0, 0, 0, 0, 0, true, true, false⟩  -- CLEURA.ADV_DROP
  , ⟨0x10, 1, 1, 0x448, 4, 1, [(1, 0)], 0, 0, 0, 0, 0, 0, true, true, false⟩  -- CLEURA.TX_FRAMES
  , ⟨0x10, 1, 1, 0x44C, 4, 1, [(1, 0)], 0, 0, 0, 0, 0, 0, true, true, false⟩  -- CLEURA.TX_BADPROF
  ]

/-- Register rows of sail page 0x120, block PROF (R172). -/
def sailRows_PROF_120 : List RegRow :=
  [ ⟨0x120, 1, 1, 0x40, 4, 1, [(1, 0)], 0xFF, 0, 0, 0, 0, 0, false, false, false⟩  -- PROF.SEL
  , ⟨0x120, 1, 1, 0x44, 4, 5, [(5, 0)], 0, 0xFFFFFFFF, 0, 0, 0, 0, false, false, false⟩  -- PROF.DATA
  , ⟨0x120, 1, 1, 0x400, 4, 1, [(1, 0x5C005C)], 0, 0, 0, 0, 0, 0, false, false, false⟩  -- PROF.BITS
  , ⟨0x120, 1, 1, 0x404, 4, 1, [(1, 0)], 0, 0, 3, 0, 0, 0, false, false, false⟩  -- PROF.CFG_ERR
  ]

/-- Register rows of sail page 0x011, block FEC (R189, R190). -/
def sailRows_FEC_011 : List RegRow :=
  [ ⟨0x11, 1, 1, 0x40, 4, 1, [(1, 0xFC01)], 0, 0xFF03, 0, 0, 0, 0, false, false, false⟩  -- FEC.CFG
  , ⟨0x11, 1, 1, 0x44, 4, 5, [(1, 4), (1, 0x10), (1, 0x2A), (1, 0x42), (1, 0x5A)], 0, 0xFF, 0, 0, 0, 0, false, false, false⟩  -- FEC.ERASE_SNR
  , ⟨0x11, 1, 1, 0x400, 4, 1, [(1, 0)], 0, 0, 0, 0, 0, 0, false, false, false⟩  -- FEC.LAST
  , ⟨0x11, 1, 1, 0x410, 4, 1, [(1, 0)], 0, 0, 0, 0, 0, 0, true, true, false⟩  -- FEC.CW_CLEAN
  , ⟨0x11, 1, 1, 0x414, 4, 1, [(1, 0)], 0, 0, 0, 0, 0, 0, true, true, false⟩  -- FEC.CW_CORRECTED
  , ⟨0x11, 1, 1, 0x418, 4, 1, [(1, 0)], 0, 0, 0, 0, 0, 0, true, true, false⟩  -- FEC.CW_FAIL
  , ⟨0x11, 1, 1, 0x41C, 4, 1, [(1, 0)], 0, 0, 0, 0, 0, 0, true, true, false⟩  -- FEC.CW_ERASE_MODE
  , ⟨0x11, 1, 1, 0x420, 4, 1, [(1, 0)], 0, 0, 0, 0, 0, 0, true, true, false⟩  -- FEC.CW_FALLBACK
  , ⟨0x11, 1, 1, 0x424, 4, 1, [(1, 0)], 0, 0, 0, 0, 0, 0, true, true, false⟩  -- FEC.ERASURES_USED
  , ⟨0x11, 1, 1, 0x428, 4, 1, [(1, 0)], 0, 0, 0, 0, 0, 0, true, true, false⟩  -- FEC.BYTES_CORRECTED
  , ⟨0x11, 1, 1, 0x42C, 4, 1, [(1, 0)], 0, 0, 0, 0, 0, 0, true, true, false⟩  -- FEC.SNR_MARKS
  , ⟨0x11, 1, 1, 0x430, 4, 1, [(1, 0)], 0, 0, 0, 0, 0, 0, true, true, false⟩  -- FEC.SLICE_MARKS
  ]

/-- Register rows of sail page 0x012, block SUNPHY (R203, R205). -/
def sailRows_SUNPHY_012 : List RegRow :=
  [ ⟨0x12, 1, 1, 0x40, 4, 4, [(1, 0x3F00), (1, 0x7F00), (1, 0x7E00), (1, 0x7C00)], 0, 0x7F07, 0, 0, 0, 0, false, false, false⟩  -- SUNPHY.OFDM_CFG
  , ⟨0x12, 1, 1, 0x50, 4, 3, [(3, 0x801)], 0, 0xFF1D, 0, 0, 0, 0, false, false, false⟩  -- SUNPHY.FSK_CFG
  , ⟨0x12, 1, 1, 0x404, 4, 1, [(1, 0)], 0, 0, 7, 0, 0, 0, false, false, false⟩  -- SUNPHY.CFG_ERR
  , ⟨0x12, 1, 1, 0x410, 4, 1, [(1, 0)], 0, 0, 0, 0, 0, 0, true, true, false⟩  -- SUNPHY.PHR_PASS
  , ⟨0x12, 1, 1, 0x414, 4, 1, [(1, 0)], 0, 0, 0, 0, 0, 0, true, true, false⟩  -- SUNPHY.HCS_FAIL
  , ⟨0x12, 1, 1, 0x418, 4, 1, [(1, 0)], 0, 0, 0, 0, 0, 0, true, true, false⟩  -- SUNPHY.RATE_REJECT
  , ⟨0x12, 1, 1, 0x41C, 4, 1, [(1, 0)], 0, 0, 0, 0, 0, 0, true, true, false⟩  -- SUNPHY.LEN_REJECT
  , ⟨0x12, 1, 1, 0x420, 4, 1, [(1, 0)], 0, 0, 0, 0, 0, 0, true, true, false⟩  -- SUNPHY.MS_REJECT
  , ⟨0x12, 1, 1, 0x424, 4, 1, [(1, 0)], 0, 0, 0, 0, 0, 0, true, true, false⟩  -- SUNPHY.SFD_TIMEOUT
  , ⟨0x12, 1, 1, 0x428, 4, 1, [(1, 0)], 0, 0, 0, 0, 0, 0, true, true, false⟩  -- SUNPHY.TX_FRAMES
  , ⟨0x12, 1, 1, 0x42C, 4, 1, [(1, 0)], 0, 0, 0, 0, 0, 0, true, true, false⟩  -- SUNPHY.TX_BADRATE
  ]

/-- Register rows of sail page 0x018, block TXP (R235, R236). -/
def sailRows_TXP_018 : List RegRow :=
  [ ⟨0x18, 1, 1, 0x40, 4, 1, [(1, 0x23BE)], 0, 0x80007FFF, 0, 0, 0, 0, false, false, false⟩  -- TXP.WIN_CTL
  , ⟨0x18, 1, 1, 0x44, 4, 1, [(1, 0x1F)], 0, 0x3F, 0, 0, 0, 0, false, false, false⟩  -- TXP.CARRIER_CFG
  , ⟨0x18, 1, 1, 0x48, 4, 4, [(4, 0x32)], 0, 0x1FF, 0, 0, 0, 0, false, false, false⟩  -- TXP.TIMEOUT
  , ⟨0x18, 1, 1, 0x58, 4, 1, [(1, 0xC08)], 0, 0xFFFF, 0, 0, 0, 0, false, false, false⟩  -- TXP.COMP_CFG
  , ⟨0x18, 1, 1, 0x5C, 4, 1, [(1, 0x5020000)], 0, 0xFFFF0001, 0, 0, 0, 0, false, false, false⟩  -- TXP.PA_CFG
  , ⟨0x18, 1, 1, 0x60, 4, 1, [(1, 0)], 0, 0xFFFFFF, 0, 0, 0, 0, false, false, false⟩  -- TXP.PA_WORD
  , ⟨0x18, 1, 1, 0x64, 4, 1, [(1, 0)], 0, 0, 0, 0, 0, 0xFFFFFFFF, false, false, false⟩  -- TXP.ABORT
  , ⟨0x18, 1, 1, 0x400, 4, 1, [(1, 0)], 0, 0, 0, 0, 0, 0, false, false, false⟩  -- TXP.ONAIR
  , ⟨0x18, 1, 1, 0x490, 4, 1, [(1, 0)], 0, 0, 0, 0, 0, 0, false, false, false⟩  -- TXP.ABORT_RESULT
  , ⟨0x18, 1, 1, 0x40C, 4, 1, [(1, 0)], 0, 0, 3, 0, 0, 0, false, false, false⟩  -- TXP.CFG_ERR
  , ⟨0x18, 1, 1, 0x410, 4, 4, [(4, 0)], 0, 0, 0, 0, 0, 0, true, true, false⟩  -- TXP.FRAMES
  , ⟨0x18, 1, 1, 0x420, 4, 16, [(16, 0)], 0, 0, 0, 0, 0, 0, true, true, false⟩  -- TXP.REFUSE
  , ⟨0x18, 1, 1, 0x460, 4, 1, [(1, 0)], 0, 0, 0, 0, 0, 0, true, true, false⟩  -- TXP.ABORTED
  , ⟨0x18, 1, 1, 0x464, 4, 1, [(1, 0)], 0, 0, 0, 0, 0, 0, true, true, false⟩  -- TXP.ABORT_LATE
  , ⟨0x18, 1, 1, 0x470, 4, 4, [(4, 0)], 0, 0, 0, 0, 0, 0, true, true, false⟩  -- TXP.CUT
  , ⟨0x18, 1, 1, 0x480, 4, 1, [(1, 0)], 0, 0, 0, 0, 0, 0, true, true, false⟩  -- TXP.CLAMP_LOCK
  , ⟨0x18, 1, 1, 0x484, 4, 1, [(1, 0)], 0, 0, 0, 0, 0, 0, true, true, false⟩  -- TXP.CLAMP_OPEN
  , ⟨0x18, 1, 1, 0x488, 4, 1, [(1, 0)], 0, 0, 0, 0, 0, 0, true, true, false⟩  -- TXP.CLAMP_FLOOR
  , ⟨0x18, 1, 1, 0x48C, 4, 1, [(1, 0)], 0, 0, 0, 0, 0, 0, true, true, false⟩  -- TXP.COMP_TRIM
  , ⟨0x18, 1, 1, 0x494, 4, 1, [(1, 0)], 0, 0, 0, 0, 0, 0, false, false, false⟩  -- TXP.ABORT_HANDLE
  ]

/-- Register rows of sail page 0x019, block PWR (R237, R238). -/
def sailRows_PWR_019 : List RegRow :=
  [ ⟨0x19, 1, 1, 0x40, 4, 1, [(1, 0x88)], 0, 0xFF, 0, 0, 0, 0, false, false, false⟩  -- PWR.FLOOR
  , ⟨0x19, 1, 1, 0x44, 4, 1, [(1, 1)], 0, 0xFF, 0, 0, 0, 0, false, false, false⟩  -- PWR.SENSE
  , ⟨0x19, 1, 1, 0x48, 4, 1, [(1, 0x80050)], 0, 0x80FFFFFF, 0, 0, 0, 0, false, false, false⟩  -- PWR.PDET_CFG
  , ⟨0x19, 1, 1, 0x400, 4, 1, [(1, 0)], 0, 0, 0, 0, 0, 0, false, false, false⟩  -- PWR.SENSE_NOW
  , ⟨0x19, 1, 1, 0x404, 4, 1, [(1, 0)], 0, 0, 0, 0, 0, 0, false, false, false⟩  -- PWR.TRIM_OFS
  , ⟨0x19, 1, 1, 0x410, 4, 4, [(4, 0)], 0, 0, 0, 0, 0, 0, false, false, false⟩  -- PWR.LAST
  , ⟨0x19, 1, 1, 0x420, 4, 1, [(1, 0)], 0, 0, 0, 0, 0, 0, false, false, false⟩  -- PWR.PDET_LAST
  , ⟨0x19, 1, 1, 0x430, 4, 1, [(1, 0)], 0, 0, 0, 0, 0, 0, true, true, false⟩  -- PWR.PDET_DEV
  , ⟨0x19, 1, 1, 0x434, 4, 1, [(1, 0)], 0, 0, 0, 0, 0, 0, true, true, false⟩  -- PWR.TRIM_LIMIT
  ]

/-- Register rows of sail page 0x01A, block TRIM (R239, R240). -/
def sailRows_TRIM_01A : List RegRow :=
  [ ⟨0x1A, 1, 1, 0x40, 4, 1, [(1, 7)], 0, 7, 0, 0, 0, 0, false, false, false⟩  -- TRIM.CFG
  , ⟨0x1A, 1, 1, 0x44, 4, 1, [(1, 0x17700A18)], 0, 0xFFFFFFFF, 0, 0, 0, 0, false, false, false⟩  -- TRIM.PD_CFG
  , ⟨0x1A, 1, 1, 0x48, 4, 1, [(1, 0x428)], 0, 0xFFFF, 0, 0, 0, 0, false, false, false⟩  -- TRIM.PD_CFG2
  , ⟨0x1A, 1, 1, 0x4C, 4, 1, [(1, 0x3E8)], 0, 0xFFFF, 0, 0, 0, 0, false, false, false⟩  -- TRIM.DAC_CFG
  , ⟨0x1A, 1, 1, 0x400, 4, 1, [(1, 0x200)], 0, 0, 0, 0, 0, 0, false, false, false⟩  -- TRIM.STATE
  , ⟨0x1A, 1, 1, 0x404, 4, 1, [(1, 0xFFFFFFFF)], 0, 0, 0, 0, 0, 0, false, false, false⟩  -- TRIM.PD_AGE
  , ⟨0x1A, 1, 1, 0x408, 4, 1, [(1, 0)], 0, 0, 0, 0, 0, 0, false, false, false⟩  -- TRIM.PD_TEMP
  , ⟨0x1A, 1, 1, 0x40C, 4, 1, [(1, 0)], 0, 0, 0, 0, 0, 0, false, false, false⟩  -- TRIM.PD_ERR
  , ⟨0x1A, 1, 1, 0x410, 4, 1, [(1, 0)], 0, 0, 0, 0, 0, 0, true, true, false⟩  -- TRIM.OBS_DONE
  , ⟨0x1A, 1, 1, 0x414, 4, 1, [(1, 0)], 0, 0, 0, 0, 0, 0, true, true, false⟩  -- TRIM.PD_UPDATE
  , ⟨0x1A, 1, 1, 0x418, 4, 1, [(1, 0)], 0, 0, 0, 0, 0, 0, true, true, false⟩  -- TRIM.PD_REJECT
  , ⟨0x1A, 1, 1, 0x41C, 4, 1, [(1, 0)], 0, 0, 0, 0, 0, 0, true, true, false⟩  -- TRIM.PD_STALE
  , ⟨0x1A, 1, 1, 0x420, 4, 1, [(1, 0)], 0, 0, 0, 0, 0, 0, true, true, false⟩  -- TRIM.DAC_STEPS
  , ⟨0x1A, 1, 1, 0x424, 4, 1, [(1, 0)], 0, 0, 0, 0, 0, 0, true, true, false⟩  -- TRIM.PD_WAIT
  , ⟨0x1A, 1, 1, 0x428, 4, 1, [(1, 0)], 0, 0, 0, 0, 0, 0, true, true, false⟩  -- TRIM.RETUNE
  ]

/-- Register rows of sail page 0x004, block REGLOCK (R241). -/
def sailRows_REGLOCK_004 : List RegRow :=
  [ ⟨4, 1, 1, 0x40, 4, 64, [(64, 0)], 0, 0, 0, 0, 0, 0, false, false, false⟩  -- REGLOCK.ENTRY
  , ⟨4, 1, 1, 0x140, 4, 1, [(1, 0)], 0xF, 0, 0, 0, 0, 0, false, false, false⟩  -- REGLOCK.FUSE_SEL
  , ⟨4, 1, 1, 0x144, 4, 4, [(4, 0)], 0xFFFFFFFF, 0, 0, 0, 0, 0, false, false, false⟩  -- REGLOCK.FUSE_DATA
  , ⟨4, 1, 1, 0x154, 4, 1, [(1, 0)], 0, 0, 0, 0, 0, 0xFF, false, false, false⟩  -- REGLOCK.FUSE_GO
  , ⟨4, 1, 1, 0x400, 4, 1, [(1, 0)], 0, 0, 0x40000, 0, 0, 0, false, false, false⟩  -- REGLOCK.STATUS
  , ⟨4, 1, 1, 0x410, 4, 16, [(16, 0)], 0, 0, 0, 0, 0, 0, false, true, false⟩  -- REGLOCK.DUTY_USED
  ]

/-- Register rows of sail page 0x003, block SCAL (R243). -/
def sailRows_SCAL_003 : List RegRow :=
  [ ⟨3, 1, 1, 0x40, 4, 45, [(45, 0)], 0, 0xFFFF, 0, 0, 0, 0, false, false, false⟩  -- SCAL.USER
  , ⟨3, 1, 1, 0x400, 4, 45, [(45, 0)], 0, 0, 0, 0, 0, 0, false, false, false⟩  -- SCAL.FACT
  , ⟨3, 1, 1, 0x500, 4, 45, [(45, 0)], 0, 0, 0, 0, 0, 0, false, false, false⟩  -- SCAL.EFF
  ]

/-- Register rows of sail page 0x021, block STIMERS (R410). -/
def sailRows_STIMERS_021 : List RegRow :=
  [ ⟨0x21, 1, 1, 0x40, 16, 8, [(8, 0)], 0xF1FF0000, 0, 0, 0, 0, 0, false, false, false⟩  -- STIMERS.TCTL
  , ⟨0x21, 1, 1, 0x44, 16, 8, [(8, 0xFFFFFFFF)], 0xFFFFFFFF, 0, 0, 0, 0, 0, false, false, false⟩  -- STIMERS.RELOAD
  , ⟨0x21, 1, 1, 0x48, 16, 8, [(8, 0)], 0xFFFFFFFF, 0, 0, 0, 0, 0, false, false, false⟩  -- STIMERS.MATCH
  , ⟨0x21, 1, 1, 0x4C, 16, 8, [(8, 0)], 0xC71F000F, 0, 0, 0, 0, 0, false, false, false⟩  -- STIMERS.TTRIG
  , ⟨0x21, 1, 1, 0x400, 16, 8, [(8, 0)], 0, 0, 0, 0, 0, 0, false, false, false⟩  -- STIMERS.TCOUNT
  , ⟨0x21, 1, 1, 0x404, 16, 8, [(8, 0)], 0, 0, 0, 0, 0, 0, false, false, false⟩  -- STIMERS.THOLD
  , ⟨0x21, 1, 1, 0x408, 16, 8, [(8, 0)], 0, 0, 0, 0, 0, 0, false, false, false⟩  -- STIMERS.TCAP
  , ⟨0x21, 1, 1, 0x40C, 16, 8, [(8, 0)], 0, 0, 0x1E, 0, 0, 0, false, false, false⟩  -- STIMERS.TSTAT
  ]

/-- Register rows of sail page 0x020, block STIME (R411). -/
def sailRows_STIME_020 : List RegRow :=
  [ ⟨0x20, 1, 1, 0x400, 4, 1, [(1, 0)], 0, 0, 0, 0, 0, 0, false, true, false⟩  -- STIME.LOCAL
  , ⟨0x20, 1, 1, 0x404, 4, 1, [(1, 0)], 0, 0, 0, 0, 0, 0, false, true, false⟩  -- STIME.LOCAL[1]
  , ⟨0x20, 1, 1, 0x408, 4, 1, [(1, 0)], 0, 0, 0, 0, 0, 0, false, true, false⟩  -- STIME.TICK_LOCAL
  , ⟨0x20, 1, 1, 0x40C, 4, 1, [(1, 0)], 0, 0, 0, 0, 0, 0, false, true, false⟩  -- STIME.TICK_LOCAL[1]
  , ⟨0x20, 1, 1, 0x410, 4, 1, [(1, 0)], 0, 0, 0, 0, 0, 0, false, true, false⟩  -- STIME.TICK_ASN
  , ⟨0x20, 1, 1, 0x414, 4, 1, [(1, 0)], 0, 0, 0, 0, 0, 0, false, true, false⟩  -- STIME.STATUS
  ]

/-- Register rows of sail page 0x028, block SSTAT (R59, R498). -/
def sailRows_SSTAT_028 : List RegRow :=
  [ ⟨0x28, 1, 1, 0x420, 4, 1, [(1, 0)], 0, 0, 0, 0, 0, 0, false, false, false⟩  -- SSTAT.MASTER
  , ⟨0x28, 1, 1, 0x424, 4, 1, [(1, 0)], 0, 0, 0, 0, 0, 0, true, true, false⟩  -- SSTAT.DUP_CMD
  , ⟨0x28, 1, 1, 0x428, 4, 1, [(1, 0)], 0, 0, 0, 0, 0, 0, true, true, false⟩  -- SSTAT.CMD_CONFLICT
  , ⟨0x28, 1, 1, 0x42C, 4, 1, [(1, 0)], 0, 0, 0, 0, 0, 0, true, true, false⟩  -- SSTAT.STALE_MASTER
  , ⟨0x28, 1, 1, 0x430, 4, 1, [(1, 0)], 0, 0, 0, 0, 0, 0, true, true, false⟩  -- SSTAT.ANSWER_DROP
  , ⟨0x28, 1, 1, 0x434, 4, 1, [(1, 0)], 0, 0, 0, 0, 0, 0, true, true, false⟩  -- SSTAT.CMD_BAD
  , ⟨0x28, 1, 1, 0x400, 4, 1, [(1, 0)], 0, 0, 0, 0, 0, 0, true, true, false⟩  -- SSTAT.TICK_MISS
  , ⟨0x28, 1, 1, 0x404, 4, 1, [(1, 0)], 0, 0, 0, 0, 0, 0, true, true, false⟩  -- SSTAT.MOD_OVERRUN
  , ⟨0x28, 1, 1, 0x408, 4, 4, [(4, 0)], 0, 0, 0, 0, 0, 0, true, true, false⟩  -- SSTAT.LAUNCH_LATE
  ]

/-- Register rows of sail page 0x000, block SSYS (R633). -/
def sailRows_SSYS_000 : List RegRow :=
  [ ⟨0, 1, 1, 0x40, 4, 1, [(1, 0)], 0, 0, 0, 0, 0, 0xFF01, false, false, false⟩  -- SSYS.RESET
  , ⟨0, 1, 1, 0x44, 4, 1, [(1, 0)], 1, 0, 0, 0, 0, 0, false, false, false⟩  -- SSYS.DEBUG
  , ⟨0, 1, 1, 0x400, 4, 1, [(1, 0)], 0, 0, 0, 0, 0, 0, false, false, false⟩  -- SSYS.STATE
  , ⟨0, 1, 1, 0x404, 4, 1, [(1, 0)], 0, 0, 3, 0, 0, 0, false, false, false⟩  -- SSYS.RESET_CAUSE
  , ⟨0, 1, 1, 0x408, 4, 1, [(1, 0)], 0, 0, 0, 0, 0, 0, false, false, false⟩  -- SSYS.IRQ_PEND
  , ⟨0, 1, 1, 0x40C, 4, 1, [(1, 0)], 0, 0, 0, 0, 0, 0, false, false, false⟩  -- SSYS.IRQ_PEND[1]
  , ⟨0, 1, 1, 0x410, 4, 1, [(1, 0)], 0, 0, 0, 0, 0, 0, true, true, false⟩  -- SSYS.TMR_FIX
  , ⟨0, 1, 1, 0x414, 4, 1, [(1, 0)], 0, 0, 0, 0, 0, 0, true, true, false⟩  -- SSYS.COMMIT_LATE
  ]

/-- Register rows of sail page 0x121, block PROF (R173). -/
def sailRows_PROF_121 : List RegRow :=
  [ ⟨0x121, 1, 1, 0x400, 4, 256, [(256, 0)], 0, 0, 0, 0, 0, 0, true, true, false⟩  -- PROF.RX_FRAMES
  ]

/-- The register rows of a sail page (R539). -/
def sailPageRows : Nat → List RegRow
  | 0x000 => sailRows_SSYS_000
  | 0x002 => sailRows_FECTL_002
  | 0x003 => sailRows_SCAL_003
  | 0x004 => sailRows_REGLOCK_004
  | 0x008 => sailRows_ADC_008
  | 0x009 => sailRows_WIN_009
  | 0x00A => sailRows_NEST_00A
  | 0x00B => sailRows_LANE_00B
  | 0x010 => sailRows_CLEURA_010
  | 0x011 => sailRows_FEC_011
  | 0x012 => sailRows_SUNPHY_012
  | 0x018 => sailRows_TXP_018
  | 0x019 => sailRows_PWR_019
  | 0x01A => sailRows_TRIM_01A
  | 0x020 => sailRows_STIME_020
  | 0x021 => sailRows_STIMERS_021
  | 0x028 => sailRows_SSTAT_028
  | 0x100 => sailRows_LARR_100
  | 0x101 => sailRows_LARR_100
  | 0x102 => sailRows_LARR_100
  | 0x103 => sailRows_LARR_100
  | 0x104 => sailRows_LARR_100
  | 0x105 => sailRows_LARR_100
  | 0x106 => sailRows_LARR_100
  | 0x107 => sailRows_LARR_100
  | 0x120 => sailRows_PROF_120
  | 0x121 => sailRows_PROF_121
  | _ => []

/-- The common header of every page (R541): offset and masks, as in a `RegRow`. -/
def headerRows : List RegRow :=
  [ ⟨0, 1, 1, 0, 4, 1, [(1, 0)], 0, 0, 0, 0, 0, 0, false, false, false⟩  -- HDR.PAGE_ID
  , ⟨0, 1, 1, 4, 4, 1, [(1, 0)], 0, 0, 0, 0, 0, 0, false, false, false⟩  -- HDR.PAGE_VER
  , ⟨0, 1, 1, 8, 4, 1, [(1, 0)], 2, 0, 0, 0, 0, 1, false, false, false⟩  -- HDR.CTRL
  , ⟨0, 1, 1, 0xC, 4, 1, [(1, 0)], 0, 0, 7, 0, 0, 0, false, false, false⟩  -- HDR.STATUS
  , ⟨0, 1, 1, 0x10, 4, 1, [(1, 0)], 0, 0, 0xFFFFFFFF, 0, 0, 0, false, false, false⟩  -- HDR.IRQ_STATUS
  , ⟨0, 1, 1, 0x14, 4, 1, [(1, 0)], 0xFFFFFFFF, 0, 0, 0, 0, 0, false, false, false⟩  -- HDR.IRQ_ENABLE
  , ⟨0, 1, 1, 0x18, 4, 1, [(1, 0)], 0, 0, 0, 0, 0, 0xFFFFFFFF, false, false, false⟩  -- HDR.IRQ_FORCE
  , ⟨0, 1, 1, 0x1C, 4, 1, [(1, 0)], 0, 0, 0x80000000, 0, 0, 0, false, false, false⟩  -- HDR.ERR_CAPTURE
  , ⟨0, 1, 1, 0x20, 4, 1, [(1, 0)], 0, 0, 0, 0xF, 0, 0, false, false, false⟩  -- HDR.COMMIT_GROUP
  , ⟨0, 1, 1, 0x24, 4, 1, [(1, 0)], 0, 0, 4, 0, 0, 0, false, false, false⟩  -- HDR.PENDING
  , ⟨0, 1, 1, 0x28, 4, 1, [(1, 0)], 0, 0, 0, 0, 0, 0, false, false, false⟩  -- HDR.SNAP_SEQ
  , ⟨0, 1, 1, 0x2C, 4, 1, [(1, 0)], 0, 0, 0, 0, 1, 0, false, false, false⟩  -- HDR.LOCK
  ]

/-- The commit group a page holds after reset (R539). -/
def mastGroup (page : Nat) : Nat :=
  if page = 0x002 then 7 else if page = 0x010 then 4 else if page = 0x011 then 5
  else if 0x018 ≤ page ∧ page ≤ 0x01A then 6 else if 0x020 ≤ page ∧ page ≤ 0x021 then 2
  else if 0x028 ≤ page ∧ page ≤ 0x029 then 3 else if 0x030 ≤ page ∧ page ≤ 0x032 then 1
  else if 0x038 ≤ page ∧ page ≤ 0x03D then 7 else if 0x040 ≤ page ∧ page ≤ 0x041 then 8
  else if 0x042 ≤ page ∧ page ≤ 0x04D then 9 else if 0x100 ≤ page ∧ page ≤ 0x10F then 5
  else if 0x110 ≤ page ∧ page ≤ 0x113 then 4 else if 0x120 ≤ page ∧ page ≤ 0x121 then 7
  else if 0x130 ≤ page ∧ page ≤ 0x13F then 3 else 0

/-- The commit group of a sail page after reset (R539). -/
def sailGroup (page : Nat) : Nat :=
  if 0x002 ≤ page ∧ page ≤ 0x004 then 10 else if 0x008 ≤ page ∧ page ≤ 0x009 then 10
  else if 0x00A ≤ page ∧ page ≤ 0x00B then 11 else if 0x010 ≤ page ∧ page ≤ 0x012 then 12
  else if 0x018 ≤ page ∧ page ≤ 0x01A then 13 else if 0x020 ≤ page ∧ page ≤ 0x021 then 1
  else if 0x100 ≤ page ∧ page ≤ 0x107 then 11 else if 0x120 ≤ page ∧ page ≤ 0x121 then 12 else 0

/-- The pages of a mast (R539). -/
def mastPages : List Nat :=
  [0x000, 0x001, 0x002, 0x003, 0x004, 0x005, 0x006, 0x008, 0x010, 0x011, 0x018, 0x019, 0x01A, 0x020, 0x021, 0x028, 0x029]
  ++ [0x030, 0x031, 0x032, 0x038, 0x039, 0x03A, 0x03B, 0x03C, 0x03D, 0x040, 0x041, 0x042, 0x043]
  ++ [0x048, 0x049, 0x04A, 0x04B, 0x04C, 0x04D]
  ++ [0x100, 0x101, 0x102, 0x103, 0x104, 0x105, 0x106, 0x107, 0x108, 0x109, 0x10A, 0x10B, 0x10C, 0x10D, 0x10E, 0x10F]
  ++ [0x110, 0x111, 0x112, 0x113, 0x120, 0x121]
  ++ [0x130, 0x131, 0x132, 0x133, 0x134, 0x135, 0x136, 0x137, 0x138, 0x139, 0x13A, 0x13B, 0x13C, 0x13D, 0x13E, 0x13F]

/-- The pages of a sail (R539). -/
def sailPages : List Nat :=
  [0x000, 0x002, 0x003, 0x004, 0x008, 0x009, 0x00A, 0x00B, 0x010, 0x011, 0x012, 0x018, 0x019, 0x01A, 0x020, 0x021, 0x028]
  ++ [0x100, 0x101, 0x102, 0x103, 0x104, 0x105, 0x106, 0x107, 0x120, 0x121]

/-- Whether row `r` holds the word at `page`, `off`, and its index in the row. -/
def RegRow.index? (r : RegRow) (page off : Nat) : Option Nat :=
  let dp := page - r.page
  let dof := off - r.off
  if r.page ≤ page ∧ dp % r.pstep = 0 ∧ dp / r.pstep < r.pages ∧ r.off ≤ off ∧ dof % r.stride = 0 ∧ dof / r.stride < r.count
  then some (dp / r.pstep * r.count + dof / r.stride) else none

/-- The reset word at position `i` of a list of runs. -/
def runAt : List (Nat × Nat) → Nat → Nat
  | [], _ => 0
  | (n, v) :: rest, i => if i < n then v else runAt rest (i - n)

/-- The row that holds a word. -/
def findRow : List RegRow → Nat → Nat → Option (RegRow × Nat)
  | [], _, _ => none
  | r :: rest, page, off =>
    match r.index? page off with
    | some i => some (r, i)
    | none => findRow rest page off

/-- The row of a word of die `d` (dies 0 and 1 are masts, R2). -/
def rowOf (d page off : Nat) : Option (RegRow × Nat) :=
  if off < 0x040 then findRow (headerRows.map fun r => { r with page := page }) page off
  else if d < 2 then findRow (mastPageRows page) page off else findRow (sailPageRows page) page off

end Sys2Proof.Machine
end

