-- ==== Sys2Proof/Machine/Fields.lean ====
section
/-! DEFINITION. A name for every field of the register map, as the spec's register tables name them: `F.<BLOCK>_<REGISTER>_<FIELD>`,
a whole-word counter as `F.<BLOCK>_<COUNTER>`; for an array the field of its first register. -/

namespace Sys2Proof.Machine.F

/-- R45 (RWB): TsTxOffset in µs; valid 500 to 0.4·S. -/
def MAC_TX_TIMING_TS_TX_OFFSET : Fld := ⟨0x20060, 12, 0⟩
/-- R88 (RWB): return to preferred reference, R64. -/
def ADC_CLK_CFG_REVERT : Fld := ⟨0x8044, 1, 1⟩
/-- R88 (RWB): 0 REFCLK_A, 1 REFCLK_B. -/
def ADC_CLK_CFG_REF_PREF : Fld := ⟨0x8044, 0, 0⟩
/-- R88 (RWB): R81. -/
def ADC_AGC_CFG_CLIP_MASK_TX : Fld := ⟨0x8048, 28, 28⟩
/-- R88 (RWB): lowest gain reachable by fast step. -/
def ADC_AGC_CFG_MAX_STATE : Fld := ⟨0x8048, 27, 25⟩
/-- R88 (RWB): highest gain reachable by rise. -/
def ADC_AGC_CFG_MIN_STATE : Fld := ⟨0x8048, 24, 22⟩
/-- R88 (RWB): qualifying slots before a rise, 1–15; 0 acts as 1. -/
def ADC_AGC_CFG_RISE_SLOTS : Fld := ⟨0x8048, 21, 18⟩
/-- R88 (RWB): clipped samples in 1 µs for a fast step, 1–1 023; 0 acts as 1. -/
def ADC_AGC_CFG_CLIP_COUNT : Fld := ⟨0x8048, 17, 8⟩
/-- R88 (RWB): gain state when AUTO = 0. -/
def ADC_AGC_CFG_STATE_MAN : Fld := ⟨0x8048, 3, 1⟩
/-- R88 (RWB): 1 automatic gain, R76–R79. -/
def ADC_AGC_CFG_AUTO : Fld := ⟨0x8048, 0, 0⟩
/-- R88 (RO): both references lost, R65. -/
def ADC_CLK_STATUS_HOLDOVER : Fld := ⟨0x8400, 4, 4⟩
/-- R88 (RO): sample clock locked. -/
def ADC_CLK_STATUS_PLL_LOCK : Fld := ⟨0x8400, 3, 3⟩
/-- R88 (RO): REFCLK_B valid. -/
def ADC_CLK_STATUS_REF_B_OK : Fld := ⟨0x8400, 2, 2⟩
/-- R88 (RO): REFCLK_A valid. -/
def ADC_CLK_STATUS_REF_A_OK : Fld := ⟨0x8400, 1, 1⟩
/-- R88 (RO): reference in use. -/
def ADC_CLK_STATUS_REF_SEL : Fld := ⟨0x8400, 0, 0⟩
/-- R88 (RO): current gain state, aerial B. -/
def ADC_GAIN_STATE_STATE_B : Fld := ⟨0x8404, 6, 4⟩
/-- R88 (RO): current gain state, aerial A. -/
def ADC_GAIN_STATE_STATE_A : Fld := ⟨0x8404, 2, 0⟩
/-- R91 (RWB): window enabled. -/
def WIN_WIN_CTL_ENABLE : Fld := ⟨0x9040, 31, 31⟩
/-- R91 (RWB): aerial-B detectors enabled. -/
def WIN_WIN_CTL_USE_B : Fld := ⟨0x9040, 17, 17⟩
/-- R91 (RWB): aerial-A detectors enabled. -/
def WIN_WIN_CTL_USE_A : Fld := ⟨0x9040, 16, 16⟩
/-- R91 (RWB): Fc in 100 kHz units, R67. -/
def WIN_WIN_CTL_CENTRE : Fld := ⟨0x9040, 14, 0⟩
/-- R91 (RWB): bit b enables the detectors of bin 32·j + b. -/
def WIN_BIN_MASK_EN : Fld := ⟨0x9060, 31, 0⟩
/-- R91 (RWB): blanking guard in 100 kHz units, R82. -/
def WIN_BLANK_CFG_GUARD : Fld := ⟨0x90A0, 7, 0⟩
/-- R91 (RO): bit w: window w receiving. -/
def WIN_STATUS_W_ACTIVE : Fld := ⟨0x9400, 7, 4⟩
/-- R91 (RO): bit w: window w blanked now. -/
def WIN_STATUS_W_BLANKED : Fld := ⟨0x9400, 3, 0⟩
/-- R91 (W1C): reserves of the enabled windows above 448, R68. -/
def WIN_CFG_ERR_RESERVE_SUM : Fld := ⟨0x9404, 3, 3⟩
/-- R91 (W1C): span not below 1 000 MHz in reefed mode. -/
def WIN_CFG_ERR_REEFED_RANGE : Fld := ⟨0x9404, 2, 2⟩
/-- R91 (W1C): span outside 400 MHz – 2 500 MHz. -/
def WIN_CFG_ERR_RANGE : Fld := ⟨0x9404, 1, 1⟩
/-- R91 (W1C): enabled windows overlap. -/
def WIN_CFG_ERR_OVERLAP : Fld := ⟨0x9404, 0, 0⟩
/-- R93 (RWB): 1 drives FE_CTL[i]; 0 high-impedance, R72. -/
def FECTL_LINE_CFG_DRIVE_EN : Fld := ⟨0x2040, 5, 5⟩
/-- R93 (RWB): 1 inverts the line. -/
def FECTL_LINE_CFG_INVERT : Fld := ⟨0x2040, 4, 4⟩
/-- R93 (RWB): 0 static low; 1 static high; 2 PA_EN; 3 LNA_BYP_A; 4 LNA_BYP_B; 5 TR; 6 OBS_SW; 7–15 reserved, acting as 0. -/
def FECTL_LINE_CFG_FUNC : Fld := ⟨0x2040, 3, 0⟩
/-- R93 (RWB): state usable. -/
def FECTL_GAIN_TAB_VALID : Fld := ⟨0x2060, 31, 31⟩
/-- R93 (RWB): level of LNA_BYP for the aerial. -/
def FECTL_GAIN_TAB_BYPASS : Fld := ⟨0x2060, 30, 30⟩
/-- R93 (RWB): FE_SPI word sent on entry. -/
def FECTL_GAIN_TAB_SPI_WORD : Fld := ⟨0x2060, 23, 0⟩
/-- R93 (RWB): calibrated gain, signed, 0.25 dB units. -/
def FECTL_GAIN_TAB_GAIN : Fld := ⟨0x2064, 15, 0⟩
/-- R93 (RW): clock phase. -/
def FECTL_SPI_CFG_CPHA : Fld := ⟨0x20A0, 17, 17⟩
/-- R93 (RW): clock polarity. -/
def FECTL_SPI_CFG_CPOL : Fld := ⟨0x20A0, 16, 16⟩
/-- R93 (RW): FE_SPI clock = 400 MHz / CLK_DIV; 0–3 act as 4. -/
def FECTL_SPI_CFG_CLK_DIV : Fld := ⟨0x20A0, 15, 8⟩
/-- R93 (RW): word length, 8–24; other values act as 24. -/
def FECTL_SPI_CFG_WORD_BITS : Fld := ⟨0x20A0, 4, 0⟩
/-- R93 (RWB): ADC samples from the gain command to the analog change, R74. -/
def FECTL_GAIN_LAT_LAT : Fld := ⟨0x20A4, 15, 0⟩
/-- R93 (RWB): R85. -/
def FECTL_OBS_CTL_MODE : Fld := ⟨0x20AC, 0, 0⟩
/-- R95 (W1C): set when a committed CLK_DIV is applied clamped under R94; set again by each later commit that leaves the clamp in force. -/
def FECTL_FE_STATUS_SPI_CLAMP : Fld := ⟨0x2404, 0, 0⟩
/-- R128 (RWB): relook enabled, R113. -/
def NEST_CFG_RELOOK_EN : Fld := ⟨0xA040, 31, 31⟩
/-- R128 (RWB): forking enabled, R114. -/
def NEST_CFG_FORK_EN : Fld := ⟨0xA040, 30, 30⟩
/-- R128 (RWB): shared lanes kept from forks, 0–511, R108. -/
def NEST_CFG_FORK_RESERVE : Fld := ⟨0xA040, 24, 16⟩
/-- R128 (RWB): 0.25 dB units. -/
def NEST_CFG_RELOOK_MARGIN : Fld := ⟨0xA040, 7, 0⟩
/-- R128 (RWB): detection threshold for personality p, 0.25 dB units. -/
def NEST_THRESH_THRESH : Fld := ⟨0xA060, 7, 0⟩
/-- R128 (RWB): hypothesis searched. -/
def NEST_HYPSET_VALID : Fld := ⟨0xA080, 31, 31⟩
/-- R128 (RWB): personality code, R98. -/
def NEST_HYPSET_PERS : Fld := ⟨0xA080, 27, 24⟩
/-- R128 (RWB): signed, 100 Hz units, −4 000 to +3 999. -/
def NEST_HYPSET_OFFSET : Fld := ⟨0xA080, 12, 0⟩
/-- R128 (RWB): bits 4·i+3:4·i give the set of bin 8·j + i, i = 0–7. -/
def NEST_BIN_SET_SET : Fld := ⟨0xA180, 31, 0⟩
/-- R128 (W1C): valid hypothesis with a reserved PERS. -/
def NEST_CFG_ERR_PERS : Fld := ⟨0xA404, 1, 1⟩
/-- R128 (W1C): valid hypothesis with OFFSET outside −4 000 to +3 999. -/
def NEST_CFG_ERR_OFFSET : Fld := ⟨0xA404, 0, 0⟩
/-- R131 (RWB): lanes reserved for window w; sum limit R111. -/
def LANE_RESERVE_RESERVE : Fld := ⟨0xB040, 8, 0⟩
/-- R131 (WO): 1 clears every HWM field of the LANE page. -/
def LANE_HWM_CLR_CLR : Fld := ⟨0xB050, 0, 0⟩
/-- R131 (RO): requests waiting, 0–64. -/
def LANE_POOL_WAITING : Fld := ⟨0xB400, 26, 20⟩
/-- R131 (RO): R108, read as 0 when negative. -/
def LANE_POOL_SHARED_FREE : Fld := ⟨0xB400, 19, 10⟩
/-- R131 (RO): free lanes. -/
def LANE_POOL_FREE : Fld := ⟨0xB400, 9, 0⟩
/-- R131 (W1C): R111. -/
def LANE_CFG_ERR_RESERVE_SUM : Fld := ⟨0xB404, 0, 0⟩
/-- R131 (RO): highest in_use[w] since last cleared. -/
def LANE_IN_USE_HWM : Fld := ⟨0xB410, 25, 16⟩
/-- R131 (RO): in_use[w]. -/
def LANE_IN_USE_NOW : Fld := ⟨0xB410, 9, 0⟩
/-- R131 (RO): longest wait of a served request since last cleared, µs, 0–40. -/
def LANE_WAIT_HWM_HWM : Fld := ⟨0xB420, 5, 0⟩
/-- R133 (RO): 0 IDLE, 1 ACQ, 2 SYNC, 3 HDR, 4 DATA, 5 DELIVER; 6–15 not used. -/
def LARR_LSTAT_STATE : Fld := ⟨0x100400, 31, 28⟩
/-- R133 (RO): last release reason, or RESTART, R106. -/
def LARR_LSTAT_LAST_RSN : Fld := ⟨0x100400, 27, 24⟩
/-- R133 (RO): window. -/
def LARR_LSTAT_WIN : Fld := ⟨0x100400, 23, 22⟩
/-- R133 (RO): bin. -/
def LARR_LSTAT_BIN : Fld := ⟨0x100400, 21, 15⟩
/-- R133 (RO): hypothesis. -/
def LARR_LSTAT_HYP : Fld := ⟨0x100400, 14, 13⟩
/-- R133 (RO): selected aerial; firing aerial before selection. -/
def LARR_LSTAT_AERIAL : Fld := ⟨0x100400, 12, 12⟩
/-- R133 (RO): personality. -/
def LARR_LSTAT_PERS : Fld := ⟨0x100400, 11, 8⟩
/-- R133 (RO): attached by fork. -/
def LARR_LSTAT_FORKED : Fld := ⟨0x100400, 7, 7⟩
/-- R133 (RO): low 32 bits of sail LOCAL time at attachment. -/
def LARR_LSTART_ATTACH_T : Fld := ⟨0x100404, 31, 0⟩
/-- R133 (RO): tracked offset, signed, 10 Hz units. -/
def LARR_LMETRIC_CFO : Fld := ⟨0x100408, 31, 16⟩
/-- R133 (RO): attach metric, 0.25 dB units. -/
def LARR_LMETRIC_METRIC : Fld := ⟨0x100408, 7, 0⟩
/-- R133 (RO): frames delivered by lane l, saturating. -/
def LARR_LCOUNT_DELIVERED : Fld := ⟨0x10040C, 31, 0⟩
/-- R170 (RWB): hints applied, R159. -/
def CLEURA_ACQ_CFG_HINT_EN : Fld := ⟨0x10040, 31, 31⟩
/-- R170 (RWB): samples, 0–12; larger values act as 12. -/
def CLEURA_ACQ_CFG_FFT_BACKOFF : Fld := ⟨0x10040, 19, 16⟩
/-- R170 (RWB): candidate threshold, 0.25 dB units, R157. -/
def CLEURA_ACQ_CFG_LTF_MIN : Fld := ⟨0x10040, 15, 8⟩
/-- R170 (RWB): 0.25 dB units, R159. -/
def CLEURA_ACQ_CFG_HINT_MARGIN : Fld := ⟨0x10040, 7, 0⟩
/-- R170 (RWB): ppm, 1–255; 0 acts as 1. -/
def CLEURA_TRACK_CFG_SCO_LIMIT : Fld := ⟨0x10044, 23, 16⟩
/-- R170 (RWB): 1–15; 0 acts as 1. -/
def CLEURA_TRACK_CFG_LOSS_SYMBOLS : Fld := ⟨0x10044, 11, 8⟩
/-- R170 (RWB): signed, 0.25 dB units. -/
def CLEURA_TRACK_CFG_TRACK_SNR : Fld := ⟨0x10044, 7, 0⟩
/-- R170 (RWB): 0.25 dB units. -/
def CLEURA_ADV_CFG_ADV_MARGIN : Fld := ⟨0x10048, 23, 16⟩
/-- R170 (RWB): 1 recommends null below REQ[1]. -/
def CLEURA_ADV_CFG_NULL_EN : Fld := ⟨0x10048, 8, 8⟩
/-- R170 (RWB): one frame in 2^SAMPLE when MODE = 2. -/
def CLEURA_ADV_CFG_SAMPLE : Fld := ⟨0x10048, 7, 4⟩
/-- R170 (RWB): 0 off; 1 every frame; 2 sampled; 3 acts as 0. -/
def CLEURA_ADV_CFG_MODE : Fld := ⟨0x10048, 1, 0⟩
/-- R170 (RWB): required SNR, 0.25 dB units, R166. -/
def CLEURA_ADV_REQ_REQ : Fld := ⟨0x10050, 7, 0⟩
/-- R170 (RWB): R168. -/
def CLEURA_TX_CFG_SEED_FIX_EN : Fld := ⟨0x10064, 8, 8⟩
/-- R170 (RWB): fixed SEED, 1–15. -/
def CLEURA_TX_CFG_SEED_FIX : Fld := ⟨0x10064, 7, 4⟩
/-- R170 (RWB): overlap samples, 0–8; larger values act as 8. -/
def CLEURA_TX_CFG_WIN_LEN : Fld := ⟨0x10064, 3, 0⟩
/-- R170 (RO): frames queued in the advisor, 0–32. -/
def CLEURA_STATUS_ADV_DEPTH : Fld := ⟨0x10400, 5, 0⟩
/-- R170 (W1C): R168. -/
def CLEURA_CFG_ERR_SEED_ZERO : Fld := ⟨0x10404, 1, 1⟩
/-- R170 (W1C): R166. -/
def CLEURA_CFG_ERR_REQ_ORDER : Fld := ⟨0x10404, 0, 0⟩
/-- R172 (RW): selected entry. -/
def PROF_SEL_INDEX : Fld := ⟨0x120040, 7, 0⟩
/-- R172 (RWB): entry bits 32·i+31:32·i of entry INDEX; bits 3d+2:3d hold code d; bits 157:138 reserved; bit 158 ADV_EXCL; bit 159 VALID. -/
def PROF_DATA_ENTRY : Fld := ⟨0x120044, 31, 0⟩
/-- R172 (RO): B of the pending copy of entry INDEX. -/
def PROF_BITS_PENDING_B : Fld := ⟨0x120400, 24, 16⟩
/-- R172 (RO): B of the active copy of entry INDEX. -/
def PROF_BITS_ACTIVE_B : Fld := ⟨0x120400, 8, 0⟩
/-- R172 (RO): lowest entry refused by the last refused commit. -/
def PROF_CFG_ERR_INDEX : Fld := ⟨0x120404, 15, 8⟩
/-- R172 (W1C): R152: valid entry with B = 0. -/
def PROF_CFG_ERR_ZERO_BITS : Fld := ⟨0x120404, 1, 1⟩
/-- R172 (W1C): R152: valid entry with a reserved code. -/
def PROF_CFG_ERR_RESERVED_CODE : Fld := ⟨0x120404, 0, 0⟩
/-- R189 (RWB): slicer limit, signed, 0.25 dB units, R182. -/
def FEC_CFG_SLICE_LIM : Fld := ⟨0x11040, 15, 8⟩
/-- R189 (RWB): slicer marking, R182. -/
def FEC_CFG_SLICE_EN : Fld := ⟨0x11040, 1, 1⟩
/-- R189 (RWB): 0 decodes every codeword errors-only, R184. -/
def FEC_CFG_ERASE_EN : Fld := ⟨0x11040, 0, 0⟩
/-- R189 (RWB): SNR below which a subcarrier of code c is a candidate, signed, 0.25 dB units. -/
def FEC_ERASE_SNR_ERASE_SNR : Fld := ⟨0x11044, 7, 0⟩
/-- R189 (RO): R187. -/
def FEC_LAST_ERR_ONLY : Fld := ⟨0x11400, 31, 31⟩
/-- R189 (RO): frame released with FEC_FAIL. -/
def FEC_LAST_FAILED : Fld := ⟨0x11400, 30, 30⟩
/-- R189 (RO): first uncorrectable codeword, valid when FAILED = 1. -/
def FEC_LAST_FAIL_CW : Fld := ⟨0x11400, 29, 26⟩
/-- R189 (RO): PHR FEC field of the frame. -/
def FEC_LAST_FEC : Fld := ⟨0x11400, 25, 24⟩
/-- R189 (RO): largest e[j] of the frame. -/
def FEC_LAST_MAX_ERASE : Fld := ⟨0x11400, 23, 16⟩
/-- R189 (RO): as R187, saturating at 255. -/
def FEC_LAST_CORR : Fld := ⟨0x11400, 15, 8⟩
/-- R189 (RO): K of the frame, 1–10. -/
def FEC_LAST_CW : Fld := ⟨0x11400, 3, 0⟩
/-- R203 (RWB): bit i allows MCS i on receive and transmit. -/
def SUNPHY_OFDM_CFG_MCS_MASK : Fld := ⟨0x12040, 14, 8⟩
/-- R203 (RWB): scrambler seed index sent in the PHR. -/
def SUNPHY_OFDM_CFG_TX_SCRAM : Fld := ⟨0x12040, 2, 1⟩
/-- R203 (RWB): phyOfdmInterleaving, receive and transmit. -/
def SUNPHY_OFDM_CFG_INTLV : Fld := ⟨0x12040, 0, 0⟩
/-- R203 (RWB): preamble octets sent, 8–255. -/
def SUNPHY_FSK_CFG_PREAMBLE_TX : Fld := ⟨0x12050, 15, 8⟩
/-- R203 (RWB): RSC interleaving, receive and transmit. -/
def SUNPHY_FSK_CFG_FEC_INTLV : Fld := ⟨0x12050, 4, 4⟩
/-- R203 (RWB): 0 NRNSC, 1 RSC. -/
def SUNPHY_FSK_CFG_FEC_SCHEME : Fld := ⟨0x12050, 3, 3⟩
/-- R203 (RWB): phyMrFskSfd value. -/
def SUNPHY_FSK_CFG_SFD_SEL : Fld := ⟨0x12050, 2, 2⟩
/-- R203 (RWB): 0 h = 1.0, 1 h = 0.5; transmit only, reception accepts both. -/
def SUNPHY_FSK_CFG_MOD_IDX : Fld := ⟨0x12050, 0, 0⟩
/-- R203 (W1C): MCS_MASK allows an MCS outside R191. -/
def SUNPHY_CFG_ERR_MCS : Fld := ⟨0x12404, 2, 2⟩
/-- R203 (W1C): PREAMBLE_TX below 8. -/
def SUNPHY_CFG_ERR_PREAMBLE : Fld := ⟨0x12404, 1, 1⟩
/-- R203 (W1C): MOD_IDX = 0 for r = 2. -/
def SUNPHY_CFG_ERR_MOD_IDX : Fld := ⟨0x12404, 0, 0⟩
/-- R235 (RWB): transmit window enabled. -/
def TXP_WIN_CTL_ENABLE : Fld := ⟨0x18040, 31, 31⟩
/-- R235 (RWB): Ftx, 100 kHz units, R207. -/
def TXP_WIN_CTL_CENTRE : Fld := ⟨0x18040, 14, 0⟩
/-- R235 (RWB): carriers kept from planned frames, R211. -/
def TXP_CARRIER_CFG_ACK_RSV : Fld := ⟨0x18044, 5, 4⟩
/-- R235 (RWB): bit c enables carrier c. -/
def TXP_CARRIER_CFG_EN : Fld := ⟨0x18044, 3, 0⟩
/-- R235 (RWB): 1–500 ms; 0 acts as 1, above 500 as 500. -/
def TXP_TIMEOUT_MS : Fld := ⟨0x18048, 8, 0⟩
/-- R235 (RWB): 0.25 dB units, R216. -/
def TXP_COMP_CFG_MAX_TRIM : Fld := ⟨0x18058, 15, 8⟩
/-- R235 (RWB): signed, 0.25 dB units; above 8 acts as 8. -/
def TXP_COMP_CFG_COMP_MAX : Fld := ⟨0x18058, 7, 0⟩
/-- R235 (RWB): µs, 1–8; outside acts as 8. -/
def TXP_PA_CFG_LEAD : Fld := ⟨0x1805C, 31, 24⟩
/-- R235 (RWB): µs. -/
def TXP_PA_CFG_TAIL : Fld := ⟨0x1805C, 23, 16⟩
/-- R235 (RWB): R217. -/
def TXP_PA_CFG_SPI_EN : Fld := ⟨0x1805C, 0, 0⟩
/-- R235 (RWB): FE_SPI word sent before PA_EN rises when SPI_EN = 1, R217. -/
def TXP_PA_WORD_SPI_WORD : Fld := ⟨0x18060, 23, 0⟩
/-- R235 (WO): a write requests the abort of HANDLE, R232. -/
def TXP_ABORT_HANDLE : Fld := ⟨0x18064, 31, 0⟩
/-- R235 (RO): R226. -/
def TXP_ONAIR_RETUNE_PEND : Fld := ⟨0x18400, 8, 8⟩
/-- R235 (RO): bit c: past cut-off, not yet on air. -/
def TXP_ONAIR_PENDING : Fld := ⟨0x18400, 7, 4⟩
/-- R235 (RO): bit c: on air. -/
def TXP_ONAIR_ONAIR : Fld := ⟨0x18400, 3, 0⟩
/-- R235 (RO): 0 none; 1 COMPLETED; 2 ABORTED; 3 not held. -/
def TXP_ABORT_RESULT_OUTCOME : Fld := ⟨0x18490, 31, 30⟩
/-- R235 (RO): R232. -/
def TXP_ABORT_RESULT_ABORT_LATE : Fld := ⟨0x18490, 29, 29⟩
/-- R235 (W1C): span not below 1 000 MHz in reefed mode. -/
def TXP_CFG_ERR_REEFED_RANGE : Fld := ⟨0x1840C, 1, 1⟩
/-- R235 (W1C): span outside 400 MHz – 2 500 MHz. -/
def TXP_CFG_ERR_RANGE : Fld := ⟨0x1840C, 0, 0⟩
/-- R237 (RWB): signed, 0.25 dB units, R215. -/
def PWR_FLOOR_FLOOR : Fld := ⟨0x19040, 7, 0⟩
/-- R237 (RWB): ms, 1–255; 0 acts as 1. -/
def PWR_SENSE_PERIOD : Fld := ⟨0x19044, 7, 0⟩
/-- R237 (RWB): R218. -/
def PWR_PDET_CFG_EN : Fld := ⟨0x19048, 31, 31⟩
/-- R237 (RWB): 0.25 dB units. -/
def PWR_PDET_CFG_TOL : Fld := ⟨0x19048, 23, 16⟩
/-- R237 (RWB): signed, 0.25 dB units. -/
def PWR_PDET_CFG_PA_GAIN : Fld := ⟨0x19048, 15, 0⟩
/-- R237 (RO): DAC analog supply, mV. -/
def PWR_SENSE_NOW_VDAC : Fld := ⟨0x19400, 31, 16⟩
/-- R237 (RO): die temperature, signed, 0.125 °C. -/
def PWR_SENSE_NOW_TEMP : Fld := ⟨0x19400, 15, 0⟩
/-- R237 (RO): signed, 1/16 dB, R223. -/
def PWR_TRIM_OFS_OFS : Fld := ⟨0x19404, 7, 0⟩
/-- R237 (RO): digital gain, signed, 0.25 dB units. -/
def PWR_LAST_G : Fld := ⟨0x19410, 25, 16⟩
/-- R237 (RO): power fixed for the last frame, 0.25 dB units. -/
def PWR_LAST_P : Fld := ⟨0x19410, 7, 0⟩
/-- R237 (RO): dBm, signed, 0.25 dB units. -/
def PWR_PDET_LAST_EXPECTED : Fld := ⟨0x19420, 31, 16⟩
/-- R237 (RO): dBm, signed, 0.25 dB units. -/
def PWR_PDET_LAST_MEASURED : Fld := ⟨0x19420, 15, 0⟩
/-- R239 (RWB): R223. -/
def TRIM_CFG_PWR_LOOP : Fld := ⟨0x1A040, 2, 2⟩
/-- R239 (RWB): R221. -/
def TRIM_CFG_PD_EN : Fld := ⟨0x1A040, 1, 1⟩
/-- R239 (RWB): R225. -/
def TRIM_CFG_DAC_EN : Fld := ⟨0x1A040, 0, 0⟩
/-- R239 (RWB): slots, R221. -/
def TRIM_PD_CFG_PERIOD : Fld := ⟨0x1A044, 31, 16⟩
/-- R239 (RWB): 0.5 °C units; 0 acts as 1. -/
def TRIM_PD_CFG_TEMP_STEP : Fld := ⟨0x1A044, 15, 8⟩
/-- R239 (RWB): 0.25 dB units. -/
def TRIM_PD_CFG_LEVEL : Fld := ⟨0x1A044, 7, 0⟩
/-- R239 (RWB): 0.25 dB units, R224. -/
def TRIM_PD_CFG2_BACKOFF : Fld := ⟨0x1A048, 15, 8⟩
/-- R239 (RWB): 10 µs units. -/
def TRIM_PD_CFG2_OBS_MIN : Fld := ⟨0x1A048, 7, 0⟩
/-- R239 (RWB): ms; 0 acts as 1. -/
def TRIM_DAC_CFG_INTERVAL : Fld := ⟨0x1A04C, 15, 0⟩
/-- R239 (RO): R224. -/
def TRIM_STATE_PD_STALE : Fld := ⟨0x1A400, 9, 9⟩
/-- R239 (RO): R222. -/
def TRIM_STATE_PD_VALID : Fld := ⟨0x1A400, 8, 8⟩
/-- R239 (RO): 0 IDLE; 1 DAC_STEP; 2 OBSERVE; 3 PD_SOLVE; 4 PD_READY. -/
def TRIM_STATE_STATE : Fld := ⟨0x1A400, 2, 0⟩
/-- R239 (RO): slots since the last accepted training, saturating. -/
def TRIM_PD_AGE_AGE : Fld := ⟨0x1A404, 31, 0⟩
/-- R239 (RO): signed, 0.125 °C. -/
def TRIM_PD_TEMP_TEMP : Fld := ⟨0x1A408, 15, 0⟩
/-- R239 (RO): estimated ±800 kHz ratio, −dBc, 0.25 dB units. -/
def TRIM_PD_ERR_ACR : Fld := ⟨0x1A40C, 7, 0⟩
/-- R241 (RO/T): bits 32·i+31:32·i of entry e, R233. -/
def REGLOCK_ENTRY_WORD : Fld := ⟨0x4040, 31, 0⟩
/-- R241 (RW): entry to program. -/
def REGLOCK_FUSE_SEL_ENTRY : Fld := ⟨0x4140, 3, 0⟩
/-- R241 (RW): bits 32·i+31:32·i to program. -/
def REGLOCK_FUSE_DATA_DATA : Fld := ⟨0x4144, 31, 0⟩
/-- R241 (WO): 0xA5 programs, R234; other values are ignored. -/
def REGLOCK_FUSE_GO_KEY : Fld := ⟨0x4154, 7, 0⟩
/-- R241 (W1C): R234. -/
def REGLOCK_STATUS_FUSE_ERR : Fld := ⟨0x4400, 18, 18⟩
/-- R241 (RO): programming in progress. -/
def REGLOCK_STATUS_FUSE_BUSY : Fld := ⟨0x4400, 16, 16⟩
/-- R241 (RO): bit e: entry without majority. -/
def REGLOCK_STATUS_VOTE_FAIL : Fld := ⟨0x4400, 15, 0⟩
/-- R241 (RO): µs in the span of R229. -/
def REGLOCK_DUTY_USED_USED : Fld := ⟨0x4410, 31, 0⟩
/-- R243 (RWB): signed, in the unit of q. -/
def SCAL_USER_USER : Fld := ⟨0x3040, 15, 0⟩
/-- R243 (RO/T): signed. -/
def SCAL_FACT_FACT : Fld := ⟨0x3400, 15, 0⟩
/-- R243 (RO): FACT + USER, saturating at ±32 767. -/
def SCAL_EFF_EFF : Fld := ⟨0x3500, 15, 0⟩
/-- R272 (RWL): device EUI-64. -/
def MAC_OWN_EUI_EUI : Fld := ⟨0x20040, 31, 0⟩
/-- R272 (RWL): device EUI-64. -/
def MAC_OWN_EUI_EUI_hi : Fld := ⟨0x20044, 31, 0⟩
/-- R272 (RWB): PAN ID. -/
def MAC_OWN_ID_PAN_ID : Fld := ⟨0x20048, 31, 16⟩
/-- R272 (RWB): device short address. -/
def MAC_OWN_ID_SHORT : Fld := ⟨0x20048, 15, 0⟩
/-- R272 (RWB): firmware station for unknown sources, 0x40–0xFE. -/
def MAC_SEC_CFG_JOIN_STATION : Fld := ⟨0x2004C, 31, 24⟩
/-- R272 (RWB): R258. -/
def MAC_SEC_CFG_UNSEC_ACK : Fld := ⟨0x2004C, 8, 8⟩
/-- R272 (RWB): R248. -/
def MAC_IE_CFG_OUI : Fld := ⟨0x20050, 23, 0⟩
/-- R272 (RWB): µs, R262. -/
def MAC_ACK_CFG_ACK_WAIT : Fld := ⟨0x20054, 27, 16⟩
/-- R272 (RWB): TsTxAckDelay, µs, 1 000–4 000; outside acts as nearest bound and sets MAC.STATUS.TIMING_CLAMP. -/
def MAC_ACK_CFG_ACK_DELAY : Fld := ⟨0x20054, 11, 0⟩
/-- R272 (RWB): 1–15; 0 acts as 1. -/
def MAC_RETRY_CFG_RETRY_LIMIT : Fld := ⟨0x20058, 3, 0⟩
/-- R272 (RWB): s, R260. -/
def MAC_DRIFT_CFG_MIN_EL : Fld := ⟨0x2005C, 31, 24⟩
/-- R272 (RWB): filter shift. -/
def MAC_DRIFT_CFG_SHIFT : Fld := ⟨0x2005C, 23, 21⟩
/-- R272 (RWB): 10 µs units, R261. -/
def MAC_DRIFT_CFG_PRESHIFT_MAX : Fld := ⟨0x2005C, 20, 11⟩
/-- R272 (RWB): 10 ppb units. -/
def MAC_DRIFT_CFG_UNC : Fld := ⟨0x2005C, 10, 0⟩
/-- R272 (RWB): R263. -/
def MAC_SUPV_CFG_SWEEP_EN : Fld := ⟨0x20064, 0, 0⟩
/-- R272 (RWB): R264. -/
def MAC_HINT_CFG_UPLINK_EN : Fld := ⟨0x20068, 1, 1⟩
/-- R272 (RWB): R264. -/
def MAC_HINT_CFG_ACK_EN : Fld := ⟨0x20068, 0, 0⟩
/-- R272 (RW): channel-list entry. -/
def MAC_CHAN_SEL_INDEX : Fld := ⟨0x20070, 9, 0⟩
/-- R272 (RWB): bits 32·i+31:32·i of entry INDEX, R249. -/
def MAC_CHAN_DATA_ENTRY : Fld := ⟨0x20074, 31, 0⟩
/-- R272 (RW): POS + 1 after each MAC.MAP_DATA access. -/
def MAC_MAP_SEL_AUTO_INC : Fld := ⟨0x20084, 31, 31⟩
/-- R272 (RW): map. -/
def MAC_MAP_SEL_MAP : Fld := ⟨0x20084, 21, 16⟩
/-- R272 (RW): entry in map. -/
def MAC_MAP_SEL_POS : Fld := ⟨0x20084, 9, 0⟩
/-- R272 (RWB): channel-list index. -/
def MAC_MAP_DATA_CHANNEL : Fld := ⟨0x20088, 9, 0⟩
/-- R272 (RWB): LEN of map MAP, 0–1 024. -/
def MAC_MAP_CTL_LEN : Fld := ⟨0x2008C, 10, 0⟩
/-- R272 (RWB): slots; 0 no beacons. -/
def MAC_BEACON_CFG_PERIOD : Fld := ⟨0x20090, 31, 16⟩
/-- R272 (RWB): bit s: sail s beacons. -/
def MAC_BEACON_CFG_SAIL_MASK : Fld := ⟨0x20090, 13, 8⟩
/-- R272 (RWB): template bytes, 0–64. -/
def MAC_BEACON_CFG_TPL_LEN : Fld := ⟨0x20090, 6, 0⟩
/-- R272 (RWB): profile or rate code. -/
def MAC_BEACON_RADIO_PROF : Fld := ⟨0x20094, 31, 24⟩
/-- R272 (RWB): PHR FEC field. -/
def MAC_BEACON_RADIO_FEC : Fld := ⟨0x20094, 23, 22⟩
/-- R272 (RWB): dBm, signed, 0.25 dB units. -/
def MAC_BEACON_RADIO_POWER : Fld := ⟨0x20094, 21, 14⟩
/-- R272 (RWB): key slot. -/
def MAC_BEACON_RADIO_KEY_SLOT : Fld := ⟨0x20094, 8, 0⟩
/-- R272 (RWB): entry in set. -/
def MAC_BEACON_CH_VALID : Fld := ⟨0x200A0, 15, 15⟩
/-- R272 (RWB): channel-list index. -/
def MAC_BEACON_CH_CHANNEL : Fld := ⟨0x200A0, 9, 0⟩
/-- R272 (RWB): peer EUI-64. -/
def MAC_PEER_EUI : Fld := ⟨0x200E0, 31, 0⟩
/-- R272 (RWB): peer EUI-64. -/
def MAC_PEER_EUI_hi : Fld := ⟨0x200E4, 31, 0⟩
/-- R272 (RWB): source enabled. -/
def MAC_PEER_EN : Fld := ⟨0x200E8, 31, 31⟩
/-- R272 (RWB): slots. -/
def MAC_PEER_PERIOD : Fld := ⟨0x200E8, 15, 0⟩
/-- R272 (RWB): ASN mod PERIOD of the peer's beacons. -/
def MAC_PEER_PHASE : Fld := ⟨0x200EC, 15, 0⟩
/-- R272 (RWB): template bytes 4·i to 4·i + 3. -/
def MAC_BEACON_TPL_BYTES : Fld := ⟨0x20140, 31, 0⟩
/-- R276 (RWB): slots; 0 no limit, R267. -/
def DWELL_CLASS_WIN_WINDOW : Fld := ⟨0x21040, 15, 0⟩
/-- R276 (RWB): µs. -/
def DWELL_CLASS_LIM_LIMIT : Fld := ⟨0x21044, 31, 0⟩
/-- R276 (RW): channel for DWELL.QUERY_USED. -/
def DWELL_QUERY_SEL_CHANNEL : Fld := ⟨0x21080, 9, 0⟩
/-- R276 (RO): ledger entries in use. -/
def DWELL_LEDGER_USE : Fld := ⟨0x21400, 17, 0⟩
/-- R276 (RO): µs charged to CHANNEL over the last W buckets of its class, up to and including the bucket of the current MESH time (R267); 0 for a channel whose class has WINDOW = 0, and for an index whose channel-list entry has VALID = 0. -/
def DWELL_QUERY_USED_USED : Fld := ⟨0x21404, 31, 0⟩
/-- R276 (W1C): highest USE since last cleared. -/
def DWELL_LEDGER_HWM_HWM : Fld := ⟨0x21408, 17, 0⟩
/-- R276 (RO): bit c: W of class c clamped at 4 096. -/
def DWELL_STATUS_CLAMP : Fld := ⟨0x2140C, 7, 0⟩
/-- R306 (RW): seed of the current generation. -/
def NODETAB_SEED_CUR_SEED : Fld := ⟨0x18040, 31, 0⟩
/-- R306 (RW): seed of the current generation. -/
def NODETAB_SEED_CUR_SEED_hi : Fld := ⟨0x18044, 31, 0⟩
/-- R306 (RW): R292. -/
def NODETAB_SEED_NEW_SEED : Fld := ⟨0x18048, 31, 0⟩
/-- R306 (RW): R292. -/
def NODETAB_SEED_NEW_SEED_hi : Fld := ⟨0x1804C, 31, 0⟩
/-- R306 (RWB): R298. -/
def NODETAB_AGE_CFG_AGE_EN : Fld := ⟨0x18050, 31, 31⟩
/-- R306 (RWB): s, 1–8 388 607; 0 acts as 1. -/
def NODETAB_AGE_CFG_AGE_LIMIT : Fld := ⟨0x18050, 22, 0⟩
/-- R306 (RWB): units per 10 ms; 0 acts as 1. -/
def NODETAB_RATE_CFG_MOVER_RATE : Fld := ⟨0x18054, 31, 16⟩
/-- R306 (RWB): entries per 10 ms; 0 acts as 1. -/
def NODETAB_RATE_CFG_AGER_RATE : Fld := ⟨0x18054, 15, 0⟩
/-- R306 (RWB): R297. -/
def NODETAB_LEARN_CFG_REINSERT : Fld := ⟨0x18058, 1, 1⟩
/-- R306 (RWB): R297. -/
def NODETAB_LEARN_CFG_PORT_LEARN : Fld := ⟨0x18058, 0, 0⟩
/-- R306 (RW): R292. -/
def NODETAB_REHASH_CTL_MOVER_EN : Fld := ⟨0x1805C, 2, 2⟩
/-- R306 (WO): R294. -/
def NODETAB_REHASH_CTL_RESUME : Fld := ⟨0x1805C, 1, 1⟩
/-- R306 (WO): R292. -/
def NODETAB_REHASH_CTL_START : Fld := ⟨0x1805C, 0, 0⟩
/-- R306 (RW): key of the command. -/
def NODETAB_CMD_KEY_KEY : Fld := ⟨0x18080, 31, 0⟩
/-- R306 (RW): key of the command. -/
def NODETAB_CMD_KEY_KEY_hi : Fld := ⟨0x18084, 31, 0⟩
/-- R306 (RW): node index. -/
def NODETAB_CMD_NODE_NODE : Fld := ⟨0x18088, 19, 0⟩
/-- R306 (RW): short address. -/
def NODETAB_CMD_ARG_SHORT : Fld := ⟨0x1808C, 31, 16⟩
/-- R306 (RW): static entry. -/
def NODETAB_CMD_ARG_STATIC : Fld := ⟨0x1808C, 8, 8⟩
/-- R306 (RW): port code. -/
def NODETAB_CMD_ARG_PORT : Fld := ⟨0x1808C, 3, 0⟩
/-- R306 (WO): 1 LOOKUP; 2 INSERT; 3 DELETE (record AGED set); 4 FREE (entry and short index removed, USED and SHORT_VALID cleared); 5 SHORT_SET; 6 SHORT_CLR; 7 SET_PORT (PORT and STATIC of entry and record); 8 MOVE; other values give BAD_ARG. -/
def NODETAB_CMD_OP_OP : Fld := ⟨0x18090, 3, 0⟩
/-- R306 (RO): command in progress. -/
def NODETAB_NT_STATUS_CMD_BUSY : Fld := ⟨0x18400, 31, 31⟩
/-- R306 (RO): 0 OK; 1 NOT_FOUND; 2 EXISTS; 3 PARKED; 4 PEND_FULL; 5 SHORT_TAKEN; 6 BAD_ARG; 7 NOT_ACTIVE (MOVE without rehash); 8 NO_ROOM (MOVE found no location). -/
def NODETAB_NT_STATUS_CMD_STATUS : Fld := ⟨0x18400, 27, 24⟩
/-- R306 (RO): 0–16. -/
def NODETAB_NT_STATUS_PEND_DEPTH : Fld := ⟨0x18400, 12, 8⟩
/-- R306 (RO): current generation. -/
def NODETAB_NT_STATUS_GEN : Fld := ⟨0x18400, 4, 4⟩
/-- R306 (RO): R294. -/
def NODETAB_NT_STATUS_STALL : Fld := ⟨0x18400, 2, 2⟩
/-- R306 (W1C): R291. -/
def NODETAB_NT_STATUS_REHASH_REQ : Fld := ⟨0x18400, 1, 1⟩
/-- R306 (RO): R292. -/
def NODETAB_NT_STATUS_REHASH_ACTIVE : Fld := ⟨0x18400, 0, 0⟩
/-- R306 (RO): LOOKUP hit. -/
def NODETAB_CMD_RESULT_FOUND : Fld := ⟨0x18404, 31, 31⟩
/-- R306 (RO): selected copy in the bittern. -/
def NODETAB_CMD_RESULT_BITTERN : Fld := ⟨0x18404, 30, 30⟩
/-- R306 (RO): two copies found. -/
def NODETAB_CMD_RESULT_BOTH : Fld := ⟨0x18404, 29, 29⟩
/-- R306 (RO): generation of the selected copy. -/
def NODETAB_CMD_RESULT_GEN : Fld := ⟨0x18404, 28, 28⟩
/-- R306 (RO): port. -/
def NODETAB_CMD_RESULT_PORT : Fld := ⟨0x18404, 27, 24⟩
/-- R306 (RO): node index. -/
def NODETAB_CMD_RESULT_NODE : Fld := ⟨0x18404, 19, 0⟩
/-- R306 (RO): bucket of the selected copy. -/
def NODETAB_CMD_LOC_BUCKET : Fld := ⟨0x18408, 31, 16⟩
/-- R306 (RO): bittern entry, valid when BITTERN = 1. -/
def NODETAB_CMD_LOC_BIDX : Fld := ⟨0x18408, 12, 0⟩
/-- R306 (RO): valid entries. -/
def NODETAB_COUNT_COUNT : Fld := ⟨0x1840C, 17, 0⟩
/-- R306 (RO): R292. -/
def NODETAB_OLD_LEFT_LEFT : Fld := ⟨0x18410, 17, 0⟩
/-- R306 (RO): bittern entries in use. -/
def NODETAB_BITTERN_USE_USE : Fld := ⟨0x18414, 13, 0⟩
/-- R306 (W1C): highest USE since last cleared. -/
def NODETAB_BITTERN_HWM_HWM : Fld := ⟨0x18418, 13, 0⟩
/-- R306 (RO): R296. -/
def NODETAB_NOW_NOW : Fld := ⟨0x1841C, 23, 0⟩
/-- R308 (RWB): outer hop limit, R303. -/
def ROUTE_CFG_HLIM : Fld := ⟨0x19040, 31, 24⟩
/-- R308 (RWB): 1–16; 0 or above 16 acts as 16. -/
def ROUTE_CFG_MAX_HOPS : Fld := ⟨0x19040, 4, 0⟩
/-- R308 (RWB): R301. -/
def ROUTE_STATIONS_RPL_STATION : Fld := ⟨0x19044, 31, 24⟩
/-- R308 (RWB): R301. -/
def ROUTE_STATIONS_LOCAL_STATION : Fld := ⟨0x19044, 23, 16⟩
/-- R308 (RWB): R301. -/
def ROUTE_STATIONS_MCAST_STATION : Fld := ⟨0x19044, 15, 8⟩
/-- R308 (RWB): R301, R302. -/
def ROUTE_STATIONS_FAIL_STATION : Fld := ⟨0x19044, 7, 0⟩
/-- R308 (RWB): R301. -/
def ROUTE_STATIONS2_MACCMD_STATION : Fld := ⟨0x19048, 7, 0⟩
/-- R308 (RWB): firmware station when PORT = 13. -/
def ROUTE_UPMAP_STATION : Fld := ⟨0x19060, 23, 16⟩
/-- R308 (RWB): host ring 64 + RING when PORT = 12. -/
def ROUTE_UPMAP_RING : Fld := ⟨0x19060, 13, 8⟩
/-- R308 (RWB): with PORT = 8–11: 1 names Ethernet PORT − 8 of the peer mast (R12); acts as 0 on NLY-S2-E. -/
def ROUTE_UPMAP_PEER : Fld := ⟨0x19060, 7, 7⟩
/-- R308 (RWB): traffic class when PORT = 8–11. -/
def ROUTE_UPMAP_TC : Fld := ⟨0x19060, 6, 4⟩
/-- R308 (RWB): port code, 8–13; other values act as 15. -/
def ROUTE_UPMAP_PORT : Fld := ⟨0x19060, 3, 0⟩
/-- R308 (W1C): longest path since last cleared. -/
def ROUTE_HOPS_HWM_HWM : Fld := ⟨0x19400, 4, 0⟩
/-- R310 (RWB): R304, R305. -/
def COMP_CFG_RAW_STATION : Fld := ⟨0x1A040, 15, 8⟩
/-- R310 (RWB): R304. -/
def COMP_CFG_CSUM_ELIDE_RX : Fld := ⟨0x1A040, 0, 0⟩
/-- R310 (RWB): 64-bit prefix. -/
def COMP_CTX_PREFIX : Fld := ⟨0x1A088, 31, 0⟩
/-- R310 (RWB): 64-bit prefix. -/
def COMP_CTX_PREFIX_hi : Fld := ⟨0x1A08C, 31, 0⟩
/-- R310 (RWB): usable for compression. -/
def COMP_CTX_COMPRESS : Fld := ⟨0x1A080, 2, 2⟩
/-- R310 (RWB): mesh prefix, R300. -/
def COMP_CTX_MESH : Fld := ⟨0x1A080, 1, 1⟩
/-- R310 (RWB): context in use. -/
def COMP_CTX_VALID : Fld := ⟨0x1A080, 0, 0⟩
/-- R310 (W1C): R310. -/
def COMP_CFG_ERR_DUP_PREFIX : Fld := ⟨0x1A404, 0, 0⟩
/-- R333 (RWB): shared cells kept from APRIO p, R322. -/
def SALTERN_FLOOR_FLOOR : Fld := ⟨0x11040, 17, 0⟩
/-- R333 (RWB): chain pool priority. -/
def SALTERN_CHAIN_CFG_APRIO : Fld := ⟨0x11050, 13, 12⟩
/-- R333 (RWB): cells per node chain, 1–4 095; 0 acts as 1, R319. -/
def SALTERN_CHAIN_CFG_NODE_MAX : Fld := ⟨0x11050, 11, 0⟩
/-- R333 (RWB): R319. -/
def SALTERN_CHAIN_MIN_MIN : Fld := ⟨0x11054, 17, 0⟩
/-- R333 (RWB): R319. -/
def SALTERN_CHAIN_MAX_MAX : Fld := ⟨0x11058, 17, 0⟩
/-- R333 (RWB): cells, R326. -/
def SALTERN_PAUSE_CFG_HYST : Fld := ⟨0x1105C, 31, 16⟩
/-- R333 (RWB): cells, R326. -/
def SALTERN_PAUSE_CFG_HEAD : Fld := ⟨0x1105C, 15, 0⟩
/-- R333 (RWB): µs; 0 acts as 1, R325. -/
def SALTERN_PUSH_CFG_PUSH_WAIT : Fld := ⟨0x11060, 15, 0⟩
/-- R333 (RW): queue of Q_CFG and Q_STAT. -/
def SALTERN_Q_SEL_QUEUE : Fld := ⟨0x11070, 11, 0⟩
/-- R333 (RWB): 0 IDLE, 1 UNDERRUN. -/
def SALTERN_Q_CFG0_CLASS : Fld := ⟨0x11074, 31, 31⟩
/-- R333 (RWB): admission priority. -/
def SALTERN_Q_CFG0_APRIO : Fld := ⟨0x11074, 29, 28⟩
/-- R333 (RWB): reserved cells. -/
def SALTERN_Q_CFG0_MIN : Fld := ⟨0x11074, 16, 0⟩
/-- R333 (RWB): cell limit. -/
def SALTERN_Q_CFG1_MAX : Fld := ⟨0x11078, 17, 0⟩
/-- R333 (WO): clear every mark, R332. -/
def SALTERN_HWM_CLR_ALL : Fld := ⟨0x11080, 31, 31⟩
/-- R333 (WO): queue whose marks are cleared when ALL = 0. -/
def SALTERN_HWM_CLR_QUEUE : Fld := ⟨0x11080, 11, 0⟩
/-- R333 (RW): queue of PUSH and POP. -/
def SALTERN_IO_SEL_QUEUE : Fld := ⟨0x11090, 11, 0⟩
/-- R333 (RO): a read pops, R331. -/
def SALTERN_POP_DESC_LO : Fld := ⟨0x11098, 31, 0⟩
/-- R333 (RO): a read pops, R331. -/
def SALTERN_POP_DESC_LO_hi : Fld := ⟨0x1109C, 31, 0⟩
/-- R333 (RO): descriptor bits 127:64 of the last pop. -/
def SALTERN_POP_HI_DESC_HI : Fld := ⟨0x110A0, 31, 0⟩
/-- R333 (RO): descriptor bits 127:64 of the last pop. -/
def SALTERN_POP_HI_DESC_HI_hi : Fld := ⟨0x110A4, 31, 0⟩
/-- R333 (RW): descriptor bits 127:64 of the next push. -/
def SALTERN_PUSH_HI_DESC_HI : Fld := ⟨0x110A8, 31, 0⟩
/-- R333 (RW): descriptor bits 127:64 of the next push. -/
def SALTERN_PUSH_HI_DESC_HI_hi : Fld := ⟨0x110AC, 31, 0⟩
/-- R333 (WO): a write pushes, R331. -/
def SALTERN_PUSH_DESC_LO : Fld := ⟨0x110B0, 31, 0⟩
/-- R333 (WO): a write pushes, R331. -/
def SALTERN_PUSH_DESC_LO_hi : Fld := ⟨0x110B4, 31, 0⟩
/-- R333 (RO): no allocation made: for a core after PUSH_WAIT, for the host and the management port at once, R325. -/
def SALTERN_ALLOC_FAIL : Fld := ⟨0x110B8, 31, 31⟩
/-- R333 (RO): a read allocates one cell on account 46 and appends it to the requester's open item, R668; 0 when FAIL = 1. -/
def SALTERN_ALLOC_CELL : Fld := ⟨0x110B8, 16, 0⟩
/-- R333 (WO): head cell of an item to free, through EOI. -/
def SALTERN_FREE_CELL : Fld := ⟨0x110BC, 16, 0⟩
/-- R334 (RO): cells on the brine list. -/
def SALTERN_BRINE_FREE : Fld := ⟨0x11400, 17, 0⟩
/-- R334 (RO): lowest offending queue; 0xFFF chain pool. -/
def SALTERN_CFG_ERR_QUEUE : Fld := ⟨0x11404, 27, 16⟩
/-- R334 (W1C): R323. -/
def SALTERN_CFG_ERR_MIN_SUM : Fld := ⟨0x11404, 2, 2⟩
/-- R334 (W1C): R323. -/
def SALTERN_CFG_ERR_MIN_MAX : Fld := ⟨0x11404, 1, 1⟩
/-- R334 (W1C): R323. -/
def SALTERN_CFG_ERR_FLOOR_ORDER : Fld := ⟨0x11404, 0, 0⟩
/-- R334 (W1C): lowest FREE since cleared. -/
def SALTERN_BRINE_LWM_LWM : Fld := ⟨0x11408, 17, 0⟩
/-- R334 (RO): R322; reads 0 when negative. -/
def SALTERN_SHARED_SHARED_FREE : Fld := ⟨0x1140C, 17, 0⟩
/-- R334 (RO): cells of Q_SEL. -/
def SALTERN_Q_CELLS_CELLS : Fld := ⟨0x11410, 17, 0⟩
/-- R334 (RO): no item queued now, R329. -/
def SALTERN_Q_ITEMS_EMPTY : Fld := ⟨0x11414, 31, 31⟩
/-- R334 (W1C): R329. -/
def SALTERN_Q_ITEMS_UNDERRUN : Fld := ⟨0x11414, 30, 30⟩
/-- R334 (RO): R315. -/
def SALTERN_Q_ITEMS_BROKEN : Fld := ⟨0x11414, 29, 29⟩
/-- R334 (RO): items of Q_SEL. -/
def SALTERN_Q_ITEMS_ITEMS : Fld := ⟨0x11414, 17, 0⟩
/-- R334 (RO): head cell. -/
def SALTERN_Q_HEAD_CELL : Fld := ⟨0x11418, 16, 0⟩
/-- R334 (RO): last cell. -/
def SALTERN_Q_TAIL_CELL : Fld := ⟨0x1141C, 16, 0⟩
/-- R334 (RO): R332. -/
def SALTERN_Q_DEPTH_HWM_HWM : Fld := ⟨0x11420, 17, 0⟩
/-- R334 (RO): µs, R332. -/
def SALTERN_Q_RES_HWM_HWM : Fld := ⟨0x11424, 31, 0⟩
/-- R334 (RO): chain pool. -/
def SALTERN_CHAIN_CELLS_CELLS : Fld := ⟨0x11428, 17, 0⟩
/-- R334 (RO): chain pool depth mark. -/
def SALTERN_CHAIN_HWM_HWM : Fld := ⟨0x1142C, 17, 0⟩
/-- R334 (W1C): R331. -/
def SALTERN_IO_STATUS_NOTHELD : Fld := ⟨0x11430, 2, 2⟩
/-- R334 (W1C): R331. -/
def SALTERN_IO_STATUS_NOPOP : Fld := ⟨0x11430, 1, 1⟩
/-- R334 (W1C): R325. -/
def SALTERN_IO_STATUS_REFUSED : Fld := ⟨0x11430, 0, 0⟩
/-- R336 (RO): no item queued. -/
def QARR_QLIVE_EMPTY : Fld := ⟨0x100400, 31, 31⟩
/-- R336 (RO): copy of the sticky bit of R329. -/
def QARR_QLIVE_UNDERRUN : Fld := ⟨0x100400, 30, 30⟩
/-- R336 (RO): R315. -/
def QARR_QLIVE_BROKEN : Fld := ⟨0x100400, 29, 29⟩
/-- R336 (RO): cells = MAX. -/
def QARR_QLIVE_AT_MAX : Fld := ⟨0x100400, 28, 28⟩
/-- R336 (RO): cells > MIN. -/
def QARR_QLIVE_ABOVE_MIN : Fld := ⟨0x100400, 27, 27⟩
/-- R336 (RO): cells of queue q. -/
def QARR_QLIVE_CELLS : Fld := ⟨0x100400, 17, 0⟩
/-- R354 (RWB): µs; 0 acts as 1, R348. -/
def HALYARD_CFG_GIVE_WAIT : Fld := ⟨0x10040, 15, 0⟩
/-- R354 (WO): bit c releases core c from TAKE, R343. -/
def HALYARD_RELEASE_CORES : Fld := ⟨0x10044, 15, 0⟩
/-- R354 (RW): bit c: a pending interrupt releases core c, R343. -/
def HALYARD_IRQ_RELEASE_CORES : Fld := ⟨0x10048, 15, 0⟩
/-- R354 (RW): flow shown in HALYARD.FLOW_STAT. -/
def HALYARD_FLOW_SEL_FLOW : Fld := ⟨0x1004C, 9, 0⟩
/-- R354 (WO): clear the marks of every station. -/
def HALYARD_HWM_CLR_ALL : Fld := ⟨0x10050, 31, 31⟩
/-- R354 (WO): clear every load mark. -/
def HALYARD_HWM_CLR_LOAD : Fld := ⟨0x10050, 30, 30⟩
/-- R354 (WO): station whose marks are cleared when ALL = 0. -/
def HALYARD_HWM_CLR_STATION : Fld := ⟨0x10050, 7, 0⟩
/-- R354 (RW): bit b: station 32·i + b in the role of core c, R350; bits of stations 0x12–0x3F and 0xFF are RO 0. -/
def HALYARD_ROLE_MASK : Fld := ⟨0x10080, 31, 0⟩
/-- R354 (RO): a read takes, R343. -/
def HALYARD_TAKE_DESC_LO : Fld := ⟨0x10300, 31, 0⟩
/-- R354 (RO): a read takes, R343. -/
def HALYARD_TAKE_DESC_LO_hi : Fld := ⟨0x10304, 31, 0⟩
/-- R354 (RO): bits 127:64 of the last take. -/
def HALYARD_TAKE_HI_DESC_HI : Fld := ⟨0x10308, 31, 0⟩
/-- R354 (RO): bits 127:64 of the last take. -/
def HALYARD_TAKE_HI_DESC_HI_hi : Fld := ⟨0x1030C, 31, 0⟩
/-- R354 (RW): bits 127:64 of the next give. -/
def HALYARD_GIVE_HI_DESC_HI : Fld := ⟨0x10310, 31, 0⟩
/-- R354 (RW): bits 127:64 of the next give. -/
def HALYARD_GIVE_HI_DESC_HI_hi : Fld := ⟨0x10314, 31, 0⟩
/-- R354 (WO): a write gives, R342. -/
def HALYARD_GIVE_DESC_LO : Fld := ⟨0x10318, 31, 0⟩
/-- R354 (WO): a write gives, R342. -/
def HALYARD_GIVE_DESC_LO_hi : Fld := ⟨0x1031C, 31, 0⟩
/-- R354 (WO): ends the core's service, R344. -/
def HALYARD_DONE_DONE : Fld := ⟨0x10320, 0, 0⟩
/-- R355 (RO): bit c: core c has an item in service. -/
def HALYARD_CORE_STATE_IN_SERVICE : Fld := ⟨0x10400, 31, 16⟩
/-- R355 (RO): bit c: core c blocked in TAKE. -/
def HALYARD_CORE_STATE_BLOCKED : Fld := ⟨0x10400, 15, 0⟩
/-- R355 (RO): lowest offending station. -/
def HALYARD_CFG_ERR_STATION : Fld := ⟨0x10404, 23, 16⟩
/-- R355 (W1C): R341. -/
def HALYARD_CFG_ERR_CYCLE : Fld := ⟨0x10404, 2, 2⟩
/-- R355 (W1C): R341. -/
def HALYARD_CFG_ERR_NEXT_RSV : Fld := ⟨0x10404, 1, 1⟩
/-- R355 (W1C): R341. -/
def HALYARD_CFG_ERR_DEPTH_SUM : Fld := ⟨0x10404, 0, 0⟩
/-- R355 (RO): an orphaned station holds items. -/
def HALYARD_ORPHAN_VALID : Fld := ⟨0x10408, 31, 31⟩
/-- R355 (RO): lowest such station, R351. -/
def HALYARD_ORPHAN_STATION : Fld := ⟨0x10408, 7, 0⟩
/-- R355 (RO): R346. -/
def HALYARD_FLOW_STAT_BUSY : Fld := ⟨0x1040C, 31, 31⟩
/-- R355 (RO): requester holding the flow, r as in R353. -/
def HALYARD_FLOW_STAT_OWNER : Fld := ⟨0x1040C, 29, 24⟩
/-- R355 (RO): R347. -/
def HALYARD_FLOW_STAT_AFF_VALID : Fld := ⟨0x1040C, 23, 23⟩
/-- R355 (RO): R347. -/
def HALYARD_FLOW_STAT_AFF_CORE : Fld := ⟨0x1040C, 19, 16⟩
/-- R355 (RO): items of the flow queued at AFFINITY stations. -/
def HALYARD_FLOW_STAT_PENDING : Fld := ⟨0x1040C, 13, 0⟩
/-- R355 (RO): highest LAST since cleared, 0–1 024. -/
def HALYARD_LOAD_HWM : Fld := ⟨0x10410, 26, 16⟩
/-- R355 (RO): busy fraction of the last closed window, 1/1 024 units, 0–1 024; 1 024 means busy for the whole window. -/
def HALYARD_LOAD_LAST : Fld := ⟨0x10410, 10, 0⟩
/-- R355 (RO): entries in use, all stations. -/
def HALYARD_ENTRIES_USE : Fld := ⟨0x104D0, 14, 0⟩
/-- R355 (W1C): highest USE since cleared. -/
def HALYARD_ENTRIES_HWM_HWM : Fld := ⟨0x104D4, 14, 0⟩
/-- R355 (W1C): R342. -/
def HALYARD_IO_STATUS_NOTHELD : Fld := ⟨0x104E0, 4, 4⟩
/-- R355 (W1C): R343. -/
def HALYARD_IO_STATUS_NOTAKE : Fld := ⟨0x104E0, 3, 3⟩
/-- R355 (W1C): R348. -/
def HALYARD_IO_STATUS_TIMEOUT : Fld := ⟨0x104E0, 2, 2⟩
/-- R355 (W1C): R342. -/
def HALYARD_IO_STATUS_CLOSED : Fld := ⟨0x104E0, 1, 1⟩
/-- R355 (W1C): R342. -/
def HALYARD_IO_STATUS_REFUSED : Fld := ⟨0x104E0, 0, 0⟩
/-- R357 (RWB): R340. -/
def STAB_SCFG_ENGINE : Fld := ⟨0x110040, 31, 31⟩
/-- R357 (RWB): R346. -/
def STAB_SCFG_ATOMIC : Fld := ⟨0x110040, 30, 30⟩
/-- R357 (RWB): R347. -/
def STAB_SCFG_AFFINITY : Fld := ⟨0x110040, 29, 29⟩
/-- R357 (RWB): R340; RO 16 for 0x40–0xFE. -/
def STAB_SCFG_OUT_PRIO : Fld := ⟨0x110040, 28, 24⟩
/-- R357 (RWB): R340; RO 0xFF for 0x07, 0x09, 0x0D, 0x0E, 0x11 and 0x40–0xFE. -/
def STAB_SCFG_NEXT : Fld := ⟨0x110040, 23, 16⟩
/-- R357 (RWB): items, 0–16 384, R341. -/
def STAB_SCFG_DEPTH : Fld := ⟨0x110040, 14, 0⟩
/-- R358 (RO): highest item count since cleared. -/
def STAB_SDEPTH_HWM : Fld := ⟨0x110400, 31, 16⟩
/-- R358 (RO): items queued. -/
def STAB_SDEPTH_NOW : Fld := ⟨0x110400, 14, 0⟩
/-- R358 (RO): longest wait, µs, R353. -/
def STAB_SWAIT_HWM : Fld := ⟨0x110404, 31, 0⟩
/-- R358 (RO): gives accepted. -/
def STAB_SGIVES_GIVES : Fld := ⟨0x110408, 31, 0⟩
/-- R358 (RO): holds started, R348. -/
def STAB_SHOLD_HOLD : Fld := ⟨0x11040C, 31, 0⟩
/-- R377 (RWB): bytes per second, R370. -/
def SHAPE_RATE_RATE : Fld := ⟨0x28040, 31, 0⟩
/-- R377 (RWB): shaper enabled. -/
def SHAPE_BURST_EN : Fld := ⟨0x28044, 31, 31⟩
/-- R377 (RWB): bytes; 0 acts as 1. -/
def SHAPE_BURST_BURST : Fld := ⟨0x28044, 23, 0⟩
/-- R377 (RO): signed, bytes. -/
def SHAPE_TOKENS_TOKENS : Fld := ⟨0x28400, 31, 0⟩
/-- R377 (RO): SHAPED deferrals, R371. -/
def SHAPE_DEFER_COUNT : Fld := ⟨0x284C0, 31, 0⟩
/-- R379 (RWB): bytes per second, R373. -/
def SLUICE_PRATE_RATE : Fld := ⟨0x29040, 31, 0⟩
/-- R379 (RWB): bytes per second, R373. -/
def SLUICE_PRATE_PEER_RATE : Fld := ⟨0x29230, 31, 0⟩
/-- R379 (RWB): sluice enabled. -/
def SLUICE_PBURST_EN : Fld := ⟨0x29044, 31, 31⟩
/-- R379 (RWB): bytes; 0 acts as 1. -/
def SLUICE_PBURST_BURST : Fld := ⟨0x29044, 23, 0⟩
/-- R379 (RWB): sluice enabled. -/
def SLUICE_PBURST_PEER_EN : Fld := ⟨0x29234, 31, 31⟩
/-- R379 (RWB): bytes; 0 acts as 1. -/
def SLUICE_PBURST_PEER_BURST : Fld := ⟨0x29234, 23, 0⟩
/-- R379 (RWB): 1/16 byte per second, R375. -/
def SLUICE_UPRATE_RATE : Fld := ⟨0x29190, 31, 0⟩
/-- R379 (RWB): profile enabled. -/
def SLUICE_UPBURST_EN : Fld := ⟨0x29194, 31, 31⟩
/-- R379 (RWB): bytes; 0 acts as 1. -/
def SLUICE_UPBURST_BURST : Fld := ⟨0x29194, 23, 0⟩
/-- R379 (RWB): class of untagged frames, R372; p = 0–3 Ethernet p of the active mast, p = 4–7 Ethernet p − 4 of the peer mast. -/
def SLUICE_PORT_CFG_DEF_CLASS : Fld := ⟨0x29210, 2, 0⟩
/-- R379 (RO): bytes. -/
def SLUICE_PTOKENS_TOKENS : Fld := ⟨0x29400, 31, 0⟩
/-- R379 (RO): bytes. -/
def SLUICE_PTOKENS_PEER_TOKENS : Fld := ⟨0x29570, 31, 0⟩
/-- R379 (RO): R373. -/
def SLUICE_PDROP_COUNT : Fld := ⟨0x294B0, 31, 0⟩
/-- R379 (RO): R373. -/
def SLUICE_PDROP_PEER_COUNT : Fld := ⟨0x295F0, 31, 0⟩
/-- R379 (RO): R375. -/
def SLUICE_UP_DROP_COUNT : Fld := ⟨0x29560, 31, 0⟩
/-- R379 (RO): R375. -/
def SLUICE_UP_PASS_COUNT : Fld := ⟨0x29564, 31, 0⟩
/-- R381 (RWB): R364, R366. -/
def GCL_CTL_GATE_EN : Fld := ⟨0x130040, 31, 31⟩
/-- R381 (RWB): 0 HOLD, 1 GUARD, R368. -/
def GCL_CTL_MODE : Fld := ⟨0x130040, 30, 30⟩
/-- R381 (RWB): R365. -/
def GCL_CTL_LIST_LEN : Fld := ⟨0x130040, 6, 0⟩
/-- R381 (RWB): 64–16 383; below 64 acts as 64. -/
def GCL_MAX_FRAME_BYTES : Fld := ⟨0x130044, 13, 0⟩
/-- R381 (RWB): R365. -/
def GCL_CYCLE_NS : Fld := ⟨0x130048, 31, 0⟩
/-- R381 (RWB): NET seconds of BASE. -/
def GCL_BASE_SEC_SEC : Fld := ⟨0x130050, 31, 0⟩
/-- R381 (RWB): NET seconds of BASE. -/
def GCL_BASE_SEC_SEC_hi : Fld := ⟨0x130054, 15, 0⟩
/-- R381 (RWB): NET ns of BASE. -/
def GCL_BASE_NS_NS : Fld := ⟨0x130058, 29, 0⟩
/-- R381 (RWB): ns. -/
def GCL_ENTRY_INTERVAL : Fld := ⟨0x130084, 31, 0⟩
/-- R381 (RWB): bit c: class c open. -/
def GCL_ENTRY_GATES : Fld := ⟨0x130080, 7, 0⟩
/-- R381 (RO): R366. -/
def GCL_OPER_PENDING : Fld := ⟨0x130400, 31, 31⟩
/-- R381 (RO): gates running. -/
def GCL_OPER_OPER_EN : Fld := ⟨0x130400, 30, 30⟩
/-- R381 (RO): mode in use. -/
def GCL_OPER_MODE : Fld := ⟨0x130400, 29, 29⟩
/-- R381 (RO): current entry. -/
def GCL_OPER_ENTRY : Fld := ⟨0x130400, 21, 16⟩
/-- R381 (RO): current gate bits. -/
def GCL_OPER_GATES : Fld := ⟨0x130400, 7, 0⟩
/-- R381 (W1C): R365, limits. -/
def GCL_CFG_ERR_RANGE : Fld := ⟨0x130404, 1, 1⟩
/-- R381 (W1C): R365, interval sum. -/
def GCL_CFG_ERR_SUM : Fld := ⟨0x130404, 0, 0⟩
/-- R381 (RO): R366. -/
def GCL_CHANGE_SEC_SEC : Fld := ⟨0x130408, 31, 0⟩
/-- R381 (RO): R366. -/
def GCL_CHANGE_SEC_SEC_hi : Fld := ⟨0x13040C, 15, 0⟩
/-- R381 (RO): R366. -/
def GCL_CHANGE_NS_NS : Fld := ⟨0x130410, 29, 0⟩
/-- R381 (RO): R368; 0xFFFF_FFFF never closes. -/
def GCL_MAX_OPEN_NS : Fld := ⟨0x130420, 31, 0⟩
/-- R382 (RO): frames started. -/
def GSTAT_TX_FRAMES_COUNT : Fld := ⟨0x131400, 31, 0⟩
/-- R382 (RO): R368. -/
def GSTAT_OVERSIZE_COUNT : Fld := ⟨0x131404, 31, 0⟩
/-- R382 (RO): R368. -/
def GSTAT_GATE_OVERSIZE_COUNT : Fld := ⟨0x131408, 31, 0⟩
/-- R382 (RO): R369. -/
def GSTAT_GATE_HOLDS_COUNT : Fld := ⟨0x13140C, 31, 0⟩
/-- R382 (RO): ns, R369. -/
def GSTAT_GATE_WAIT_HWM_HWM : Fld := ⟨0x131410, 31, 0⟩
/-- R382 (RO): µs, R376. -/
def GSTAT_LAT_HWM_HWM : Fld := ⟨0x131414, 31, 0⟩
/-- R382 (RO): R367. -/
def GSTAT_TX_OVERRUN_COUNT : Fld := ⟨0x131418, 31, 0⟩
/-- R406 (RWB): R385. -/
def TIME_LOCAL_CFG_REVERT : Fld := ⟨0x30040, 1, 1⟩
/-- R406 (RWB): 0 REFCLK_A, 1 REFCLK_B. -/
def TIME_LOCAL_CFG_REF_PREF : Fld := ⟨0x30040, 0, 0⟩
/-- R406 (RWB): R36. -/
def TIME_MESH_CFG_SLOT : Fld := ⟨0x30044, 1, 0⟩
/-- R406 (RWB): signed ns, R388. -/
def TIME_PPS_CFG_DELAY : Fld := ⟨0x30060, 31, 16⟩
/-- R406 (RWB): 0 rising, 1 falling. -/
def TIME_PPS_CFG_POL : Fld := ⟨0x30060, 0, 0⟩
/-- R406 (RWB): signed ns, R389. -/
def TIME_PEER_CORR_NS : Fld := ⟨0x30070, 15, 0⟩
/-- R406 (RWB): R387. -/
def TIME_D_SRC_SRC : Fld := ⟨0x30080, 2, 0⟩
/-- R406 (RWB): ns, R392. -/
def TIME_D_SERVO_LOCK : Fld := ⟨0x30084, 31, 16⟩
/-- R406 (RWB): shift, R391. -/
def TIME_D_SERVO_KI : Fld := ⟨0x30084, 12, 8⟩
/-- R406 (RWB): shift, R391. -/
def TIME_D_SERVO_KP : Fld := ⟨0x30084, 4, 0⟩
/-- R406 (RWB): R391, R393. -/
def TIME_D_JUMP_NS : Fld := ⟨0x30088, 31, 0⟩
/-- R406 (RWB): above 500 000 acts as 500 000. -/
def TIME_D_FREQ_MAX_PPB : Fld := ⟨0x3008C, 18, 0⟩
/-- R406 (RWB): signed; rate in FREE. -/
def TIME_D_FREQ_SET_PPB : Fld := ⟨0x30090, 31, 0⟩
/-- R406 (RWB): R387; 0 acts as 1. -/
def TIME_D_LOSS_SEC : Fld := ⟨0x30094, 7, 0⟩
/-- R406 (WO): signed sample, R387. -/
def TIME_D_SAMPLE_NS : Fld := ⟨0x30098, 31, 0⟩
/-- R406 (WO): signed sample, R387. -/
def TIME_D_SAMPLE_NS_hi : Fld := ⟨0x3009C, 15, 0⟩
/-- R406 (RW): seconds, or ASN for MESH, R395. -/
def TIME_D_SET_HI_HI : Fld := ⟨0x300A0, 31, 0⟩
/-- R406 (RW): seconds, or ASN for MESH, R395. -/
def TIME_D_SET_HI_HI_hi : Fld := ⟨0x300A4, 15, 0⟩
/-- R406 (RW): R395. -/
def TIME_D_SET_LO_NS : Fld := ⟨0x300A8, 29, 0⟩
/-- R406 (WO): R395. -/
def TIME_D_CTL_SET_GO : Fld := ⟨0x300AC, 1, 1⟩
/-- R406 (WO): R393. -/
def TIME_D_CTL_ARM : Fld := ⟨0x300AC, 0, 0⟩
/-- R406 (RO): mast LOCAL. -/
def TIME_LOCAL_NOW_NS : Fld := ⟨0x30400, 31, 0⟩
/-- R406 (RO): mast LOCAL. -/
def TIME_LOCAL_NOW_NS_hi : Fld := ⟨0x30404, 31, 0⟩
/-- R406 (RO): slow clock present. -/
def TIME_LOCAL_STATUS_SLOW_OK : Fld := ⟨0x30408, 5, 5⟩
/-- R406 (RO): R385. -/
def TIME_LOCAL_STATUS_HOLD : Fld := ⟨0x30408, 4, 4⟩
/-- R406 (RO): as its table states. -/
def TIME_LOCAL_STATUS_PLL_LOCK : Fld := ⟨0x30408, 3, 3⟩
/-- R406 (RO): as its table states. -/
def TIME_LOCAL_STATUS_REF_B_OK : Fld := ⟨0x30408, 2, 2⟩
/-- R406 (RO): as its table states. -/
def TIME_LOCAL_STATUS_REF_A_OK : Fld := ⟨0x30408, 1, 1⟩
/-- R406 (RO): reference in use. -/
def TIME_LOCAL_STATUS_REF_SEL : Fld := ⟨0x30408, 0, 0⟩
/-- R406 (W1C): R387. -/
def TIME_CFG_ERR_SRC : Fld := ⟨0x3040C, 0, 0⟩
/-- R406 (RO): read clears FRESH, R388. -/
def TIME_PPS_CAP_LOCAL_NS : Fld := ⟨0x30410, 31, 0⟩
/-- R406 (RO): read clears FRESH, R388. -/
def TIME_PPS_CAP_LOCAL_NS_hi : Fld := ⟨0x30414, 31, 0⟩
/-- R406 (RO): captured ns of domain x. -/
def TIME_PPS_CAP_NS_NS : Fld := ⟨0x30418, 31, 0⟩
/-- R406 (RO): run of missed edges. -/
def TIME_PPS_STATUS_MISS : Fld := ⟨0x30424, 9, 8⟩
/-- R406 (W1C): R388. -/
def TIME_PPS_STATUS_OVR : Fld := ⟨0x30424, 1, 1⟩
/-- R406 (RO): R388. -/
def TIME_PPS_STATUS_FRESH : Fld := ⟨0x30424, 0, 0⟩
/-- R406 (RO): seconds or ASN; a read latches Dx_NOW_LO. -/
def TIME_D_NOW_HI_HI : Fld := ⟨0x30440, 31, 0⟩
/-- R406 (RO): seconds or ASN; a read latches Dx_NOW_LO. -/
def TIME_D_NOW_HI_HI_hi : Fld := ⟨0x30444, 15, 0⟩
/-- R406 (RO): latched ns. -/
def TIME_D_NOW_LO_NS : Fld := ⟨0x30448, 31, 0⟩
/-- R406 (RO): R393. -/
def TIME_D_STATE_ARMED : Fld := ⟨0x3044C, 8, 8⟩
/-- R406 (RO): 0 FREE, 1 HOLD, 2 TRACK, 3 LOCKED. -/
def TIME_D_STATE_STATE : Fld := ⟨0x3044C, 2, 0⟩
/-- R406 (RO): signed, 1/16 ppb. -/
def TIME_D_FREQ_PPB : Fld := ⟨0x30450, 31, 0⟩
/-- R406 (RO): signed, 1/16 ppb. -/
def TIME_D_INTEG_PPB : Fld := ⟨0x30454, 31, 0⟩
/-- R406 (RO): signed, saturating. -/
def TIME_D_LAST_E_NS : Fld := ⟨0x30458, 31, 0⟩
/-- R406 (W1C): largest ¦e¦ accepted since cleared. -/
def TIME_D_OFS_HWM_NS : Fld := ⟨0x3045C, 31, 0⟩
/-- R408 (RWB): 0 high pulse, 1 low pulse. -/
def TPO_CTL_POL : Fld := ⟨0x31040, 8, 8⟩
/-- R408 (RWB): 0 LOCAL, 1 MESH, 2 NET, 3 AUX. -/
def TPO_CTL_DOMAIN : Fld := ⟨0x31040, 5, 4⟩
/-- R408 (RWB): 0 off, 1 once, 2 periodic; 3 acts as 0. -/
def TPO_CTL_MODE : Fld := ⟨0x31040, 1, 0⟩
/-- R408 (RWB): R396. -/
def TPO_START_HI_HI : Fld := ⟨0x31048, 31, 0⟩
/-- R408 (RWB): R396. -/
def TPO_START_HI_HI_hi : Fld := ⟨0x3104C, 31, 0⟩
/-- R408 (RWB): R396. -/
def TPO_START_LO_NS : Fld := ⟨0x31050, 29, 0⟩
/-- R408 (RWB): R396. -/
def TPO_PERIOD_NS : Fld := ⟨0x31054, 31, 0⟩
/-- R408 (RWB): R396. -/
def TPO_WIDTH_NS : Fld := ⟨0x31058, 31, 0⟩
/-- R408 (RO): next edge; a read latches NEXT_LO. -/
def TPO_NEXT_HI_HI : Fld := ⟨0x31400, 31, 0⟩
/-- R408 (RO): next edge; a read latches NEXT_LO. -/
def TPO_NEXT_HI_HI_hi : Fld := ⟨0x31404, 31, 0⟩
/-- R408 (RO): as its table states. -/
def TPO_NEXT_LO_NS : Fld := ⟨0x31408, 29, 0⟩
/-- R408 (RO): R399. -/
def TPO_STATUS_DRIVEN : Fld := ⟨0x3140C, 2, 2⟩
/-- R408 (RO): level at the ball. -/
def TPO_STATUS_LEVEL : Fld := ⟨0x3140C, 1, 1⟩
/-- R408 (RO): an edge is scheduled. -/
def TPO_STATUS_ACTIVE : Fld := ⟨0x3140C, 0, 0⟩
/-- R408 (W1C): bit o: output o refused. -/
def TPO_CFG_ERR_OUT : Fld := ⟨0x314C0, 7, 0⟩
/-- R410 (RW): counting. -/
def TIMERS_TCTL_EN : Fld := ⟨0x32040, 31, 31⟩
/-- R410 (RW): R405. -/
def TIMERS_TCTL_FREEZE : Fld := ⟨0x32040, 30, 30⟩
/-- R410 (RW): odd t only; RO 0 for even t, R403. -/
def TIMERS_TCTL_CHAIN : Fld := ⟨0x32040, 29, 29⟩
/-- R410 (RW): 0 rising, 1 falling. -/
def TIMERS_TCTL_CAP_EDGE : Fld := ⟨0x32040, 28, 28⟩
/-- R410 (RW): R401. -/
def TIMERS_TCTL_CAP_SRC : Fld := ⟨0x32040, 24, 20⟩
/-- R410 (RW): R400. -/
def TIMERS_TCTL_PRESC : Fld := ⟨0x32040, 19, 16⟩
/-- R410 (RW): counting. -/
def STIMERS_TCTL_EN : Fld := ⟨0x21040, 31, 31⟩
/-- R410 (RW): R405. -/
def STIMERS_TCTL_FREEZE : Fld := ⟨0x21040, 30, 30⟩
/-- R410 (RW): odd t only; RO 0 for even t, R403. -/
def STIMERS_TCTL_CHAIN : Fld := ⟨0x21040, 29, 29⟩
/-- R410 (RW): 0 rising, 1 falling. -/
def STIMERS_TCTL_CAP_EDGE : Fld := ⟨0x21040, 28, 28⟩
/-- R410 (RW): R401. -/
def STIMERS_TCTL_CAP_SRC : Fld := ⟨0x21040, 24, 20⟩
/-- R410 (RW): R400. -/
def STIMERS_TCTL_PRESC : Fld := ⟨0x21040, 19, 16⟩
/-- R410 (RW): R400. -/
def TIMERS_RELOAD_RELOAD : Fld := ⟨0x32044, 31, 0⟩
/-- R410 (RW): R400. -/
def STIMERS_RELOAD_RELOAD : Fld := ⟨0x21044, 31, 0⟩
/-- R410 (RW): R400. -/
def TIMERS_MATCH_MATCH : Fld := ⟨0x32048, 31, 0⟩
/-- R410 (RW): R400. -/
def STIMERS_MATCH_MATCH : Fld := ⟨0x21048, 31, 0⟩
/-- R410 (RW): R402. -/
def TIMERS_TTRIG_ON_MATCH : Fld := ⟨0x3204C, 31, 31⟩
/-- R410 (RW): R402. -/
def TIMERS_TTRIG_ON_WRAP : Fld := ⟨0x3204C, 30, 30⟩
/-- R410 (RW): R402. -/
def TIMERS_TTRIG_ACT : Fld := ⟨0x3204C, 26, 24⟩
/-- R410 (RW): timer acted on. -/
def TIMERS_TTRIG_TARGET : Fld := ⟨0x3204C, 20, 16⟩
/-- R410 (RW): DMA request line. -/
def TIMERS_TTRIG_DMA_CH : Fld := ⟨0x3204C, 3, 0⟩
/-- R410 (RW): R402. -/
def STIMERS_TTRIG_ON_MATCH : Fld := ⟨0x2104C, 31, 31⟩
/-- R410 (RW): R402. -/
def STIMERS_TTRIG_ON_WRAP : Fld := ⟨0x2104C, 30, 30⟩
/-- R410 (RW): R402. -/
def STIMERS_TTRIG_ACT : Fld := ⟨0x2104C, 26, 24⟩
/-- R410 (RW): timer acted on. -/
def STIMERS_TTRIG_TARGET : Fld := ⟨0x2104C, 20, 16⟩
/-- R410 (RW): DMA request line. -/
def STIMERS_TTRIG_DMA_CH : Fld := ⟨0x2104C, 3, 0⟩
/-- R410 (WO): bit t sets EN of timer t; all in one cycle. -/
def TIMERS_GROUP_START_MASK : Fld := ⟨0x32240, 31, 0⟩
/-- R410 (WO): bit t clears EN of timer t; all in one cycle. -/
def TIMERS_GROUP_STOP_MASK : Fld := ⟨0x32244, 31, 0⟩
/-- R410 (RO): a read latches THOLD, R403. -/
def TIMERS_TCOUNT_COUNT : Fld := ⟨0x32400, 31, 0⟩
/-- R410 (RO): a read latches THOLD, R403. -/
def STIMERS_TCOUNT_COUNT : Fld := ⟨0x21400, 31, 0⟩
/-- R410 (RO): even t: count of timer t + 1 latched; odd t: 0. -/
def TIMERS_THOLD_HOLD : Fld := ⟨0x32404, 31, 0⟩
/-- R410 (RO): even t: count of timer t + 1 latched; odd t: 0. -/
def STIMERS_THOLD_HOLD : Fld := ⟨0x21404, 31, 0⟩
/-- R410 (RO): a read clears FRESH, R401. -/
def TIMERS_TCAP_CAP : Fld := ⟨0x32408, 31, 0⟩
/-- R410 (RO): a read clears FRESH, R401. -/
def STIMERS_TCAP_CAP : Fld := ⟨0x21408, 31, 0⟩
/-- R410 (W1C): R404. -/
def TIMERS_TSTAT_SLEPT : Fld := ⟨0x3240C, 4, 4⟩
/-- R410 (W1C): R400. -/
def TIMERS_TSTAT_WRAP : Fld := ⟨0x3240C, 3, 3⟩
/-- R410 (W1C): R400. -/
def TIMERS_TSTAT_MATCH : Fld := ⟨0x3240C, 2, 2⟩
/-- R410 (W1C): R401. -/
def TIMERS_TSTAT_OVR : Fld := ⟨0x3240C, 1, 1⟩
/-- R410 (RO): R401. -/
def TIMERS_TSTAT_FRESH : Fld := ⟨0x3240C, 0, 0⟩
/-- R410 (W1C): R404. -/
def STIMERS_TSTAT_SLEPT : Fld := ⟨0x2140C, 4, 4⟩
/-- R410 (W1C): R400. -/
def STIMERS_TSTAT_WRAP : Fld := ⟨0x2140C, 3, 3⟩
/-- R410 (W1C): R400. -/
def STIMERS_TSTAT_MATCH : Fld := ⟨0x2140C, 2, 2⟩
/-- R410 (W1C): R401. -/
def STIMERS_TSTAT_OVR : Fld := ⟨0x2140C, 1, 1⟩
/-- R410 (RO): R401. -/
def STIMERS_TSTAT_FRESH : Fld := ⟨0x2140C, 0, 0⟩
/-- R411 (RO): sail LOCAL, 2.5 ns units. -/
def STIME_LOCAL_COUNT : Fld := ⟨0x20400, 31, 0⟩
/-- R411 (RO): sail LOCAL, 2.5 ns units. -/
def STIME_LOCAL_COUNT_hi : Fld := ⟨0x20404, 31, 0⟩
/-- R411 (RO): LOCAL time of the last tick. -/
def STIME_TICK_LOCAL_COUNT : Fld := ⟨0x20408, 31, 0⟩
/-- R411 (RO): LOCAL time of the last tick. -/
def STIME_TICK_LOCAL_COUNT_hi : Fld := ⟨0x2040C, 31, 0⟩
/-- R411 (RO): low 32 bits of the ASN opened by that tick. -/
def STIME_TICK_ASN_ASN_LO : Fld := ⟨0x20410, 31, 0⟩
/-- R411 (RO): consecutive ticks generated under R40, saturating. -/
def STIME_STATUS_RUN : Fld := ⟨0x20414, 15, 8⟩
/-- R411 (RO): R386. -/
def STIME_STATUS_FREERUN : Fld := ⟨0x20414, 0, 0⟩
/-- R449 (RW): R442. -/
def SESSION_PROXY_EN : Fld := ⟨0x2040, 7, 7⟩
/-- R449 (RW): context 0–3 or 8–11; other values act as 0. -/
def SESSION_PROXY_CTX : Fld := ⟨0x2040, 3, 0⟩
/-- R449 (RW): requested level, or cap for SETPW. -/
def SESSION_REQ_PRIV : Fld := ⟨0x2044, 31, 30⟩
/-- R449 (RW): record 0–2; 3 acts as 2. -/
def SESSION_REQ_PW_SLOT : Fld := ⟨0x2044, 25, 24⟩
/-- R449 (RW): s; 0 acts as 600. -/
def SESSION_REQ_IDLE_S : Fld := ⟨0x2044, 15, 0⟩
/-- R449 (WO): R445. -/
def SESSION_RESP_RESP : Fld := ⟨0x2048, 31, 0⟩
/-- R449 (WO): R446. -/
def SESSION_PW_BYTES : Fld := ⟨0x2068, 31, 0⟩
/-- R449 (WO): bytes, 1–64; 0 fails the attempt. -/
def SESSION_CTL_PW_LEN : Fld := ⟨0x20A8, 14, 8⟩
/-- R449 (WO): R446; needs OWNER. -/
def SESSION_CTL_SETPW : Fld := ⟨0x20A8, 3, 3⟩
/-- R449 (WO): 0 owner key, 1 password. -/
def SESSION_CTL_METHOD : Fld := ⟨0x20A8, 2, 2⟩
/-- R449 (WO): R448. -/
def SESSION_CTL_CLOSE : Fld := ⟨0x20A8, 1, 1⟩
/-- R449 (WO): R445, R446. -/
def SESSION_CTL_OPEN : Fld := ⟨0x20A8, 0, 0⟩
/-- R449 (RWL): page 8·k + i: read minimum in bits 4i+1:4i, write minimum in bits 4i+3:4i+2. -/
def SESSION_PAGE_PRIV_MIN : Fld := ⟨0x20C0, 31, 0⟩
/-- R449 (RO): a read of word 0 draws a new nonce. -/
def SESSION_NONCE_NONCE : Fld := ⟨0x2400, 31, 0⟩
/-- R449 (RO): current level. -/
def SESSION_STATE_PRIV : Fld := ⟨0x2420, 31, 30⟩
/-- R449 (RO): 0 none; 1 OPENED; 2 FAILED; 3 REFUSED_DELAY. -/
def SESSION_STATE_RESULT : Fld := ⟨0x2420, 29, 28⟩
/-- R449 (RO): attempt in progress. -/
def SESSION_STATE_BUSY : Fld := ⟨0x2420, 27, 27⟩
/-- R449 (RO): s. -/
def SESSION_STATE_IDLE_LEFT : Fld := ⟨0x2420, 15, 0⟩
/-- R449 (RO): F, R447. -/
def SESSION_DELAY_FAILS : Fld := ⟨0x2424, 27, 16⟩
/-- R449 (RO): s of delay remaining. -/
def SESSION_DELAY_LEFT : Fld := ⟨0x2424, 10, 0⟩
/-- R449 (RO): 2 bits per context, context k in bits 2k+1:2k, k = 0–11. -/
def SESSION_CTX_PRIV_PRIV : Fld := ⟨0x2428, 23, 0⟩
/-- R451 (RW): 0–511, 0x200 root, 0x3FF none. -/
def KEYS_CMD_A_PARENT : Fld := ⟨0x38040, 25, 16⟩
/-- R451 (RW): target slot. -/
def KEYS_CMD_A_SLOT : Fld := ⟨0x38040, 8, 0⟩
/-- R451 (RW): 0 AES-128, 1 AES-256, 2 HMAC; 3 gives BAD_ARG. -/
def KEYS_CMD_B_TYPE : Fld := ⟨0x38044, 31, 30⟩
/-- R451 (RW): as the attribute word. -/
def KEYS_CMD_B_USAGE : Fld := ⟨0x38044, 28, 22⟩
/-- R451 (RW): lock on load. -/
def KEYS_CMD_B_LOCK : Fld := ⟨0x38044, 21, 21⟩
/-- R451 (RW): 0–32. -/
def KEYS_CMD_B_CTX_LEN : Fld := ⟨0x38044, 13, 8⟩
/-- R451 (RW): 0–32. -/
def KEYS_CMD_B_LABEL_LEN : Fld := ⟨0x38044, 5, 0⟩
/-- R451 (RW): node index. -/
def KEYS_CMD_NODE_NODE : Fld := ⟨0x38048, 19, 0⟩
/-- R451 (WO): R419. -/
def KEYS_LABEL_BYTES : Fld := ⟨0x38050, 31, 0⟩
/-- R451 (WO): R419. -/
def KEYS_CONTEXT_BYTES : Fld := ⟨0x38070, 31, 0⟩
/-- R451 (WO): wrapped blob, 24 or 40 bytes. -/
def KEYS_DATA_BYTES : Fld := ⟨0x38090, 31, 0⟩
/-- R451 (RWB): R426. -/
def KEYS_GROUP_SLOT_VALID : Fld := ⟨0x380C0, 9, 9⟩
/-- R451 (RWB): as its table states. -/
def KEYS_GROUP_SLOT_SLOT : Fld := ⟨0x380C0, 8, 0⟩
/-- R451 (RWB): R424. -/
def KEYS_NODE_KEK_SLOT : Fld := ⟨0x38100, 8, 0⟩
/-- R451 (WO): R418; other values give BAD_ARG. -/
def KEYS_CMD_OP_OP : Fld := ⟨0x38104, 3, 0⟩
/-- R451 (RW): slot of KEYS.SLOT_GEN. -/
def KEYS_SLOT_SEL_SLOT : Fld := ⟨0x38108, 8, 0⟩
/-- R451 (RO): command running. -/
def KEYS_STATUS_BUSY : Fld := ⟨0x38400, 31, 31⟩
/-- R451 (RO): 0 OK; 1 SLOT_BUSY; 2 USAGE_DENIED; 3 STALE_PARENT; 4 UNWRAP_FAIL; 5 LOCKED; 6 NO_ROOT; 7 BAD_ARG; 8 NV_FAIL; 9 NO_ENTROPY. -/
def KEYS_STATUS_RESULT : Fld := ⟨0x38400, 27, 24⟩
/-- R451 (RO/T): recorded parent generation. -/
def KEYS_SLOT_GEN_PARENT_GEN : Fld := ⟨0x38404, 31, 16⟩
/-- R451 (RO/T): own generation. -/
def KEYS_SLOT_GEN_GEN : Fld := ⟨0x38404, 15, 0⟩
/-- R451 (RO): valid slots. -/
def KEYS_USED_COUNT : Fld := ⟨0x38408, 9, 0⟩
/-- R451 (RO): R435. -/
def KEYS_PERSIST_SEQ_SEQ : Fld := ⟨0x3840C, 31, 0⟩
/-- R453 (RO/T): slot holds material. -/
def KATTR_ATTR_VALID : Fld := ⟨0x120400, 31, 31⟩
/-- R453 (RO/T): 0 AES-128, 1 AES-256, 2 HMAC. -/
def KATTR_ATTR_TYPE : Fld := ⟨0x120400, 30, 29⟩
/-- R453 (RO/T): bit 22 ENC, 23 DEC, 24 WRAP, 25 UNWRAP, 26 DERIVE, 27 MAC, 28 VERIFY. -/
def KATTR_ATTR_USAGE : Fld := ⟨0x120400, 28, 22⟩
/-- R453 (RO/T): R420. -/
def KATTR_ATTR_LOCK : Fld := ⟨0x120400, 21, 21⟩
/-- R453 (RO/T): always 1. -/
def KATTR_ATTR_NOEXPORT : Fld := ⟨0x120400, 20, 20⟩
/-- R453 (RO/T): 0 empty, 1 derived, 2 generated, 3 imported. -/
def KATTR_ATTR_ORIGIN : Fld := ⟨0x120400, 19, 17⟩
/-- R453 (RO/T): in the last successful PERSIST. -/
def KATTR_ATTR_PERSISTED : Fld := ⟨0x120400, 16, 16⟩
/-- R453 (RO/T): parent code, R417. -/
def KATTR_ATTR_PARENT : Fld := ⟨0x120400, 9, 0⟩
/-- R454 (RW): 1 CCM* seal; 2 CCM* open; 3 GCM encrypt; 4 GCM decrypt; 5 CTR; 6 SHA-256; 7 HMAC generate; 8 HMAC verify; others BAD_ARG. -/
def CRYPTO_JOB_CFG_MODE : Fld := ⟨0x39040, 31, 28⟩
/-- R454 (RW): key slot. -/
def CRYPTO_JOB_CFG_SLOT : Fld := ⟨0x39040, 24, 16⟩
/-- R454 (RW): bytes, R427; HMAC 1–32. -/
def CRYPTO_JOB_CFG_TAG_LEN : Fld := ⟨0x39040, 5, 0⟩
/-- R454 (RW): head cell of the input item. -/
def CRYPTO_JOB_IN_CELL : Fld := ⟨0x39044, 16, 0⟩
/-- R454 (RW): bytes at the start of the input. -/
def CRYPTO_JOB_LEN_AAD_LEN : Fld := ⟨0x39048, 31, 24⟩
/-- R454 (RW): input bytes, 1–16 383. -/
def CRYPTO_JOB_LEN_LEN : Fld := ⟨0x39048, 13, 0⟩
/-- R454 (RW): 13-byte nonce, 12-byte IV or 16-byte counter block; verify tag for mode 8 follows in CRYPTO.TAG. -/
def CRYPTO_JOB_IV_IV : Fld := ⟨0x39050, 31, 0⟩
/-- R454 (WO): starts the job. -/
def CRYPTO_JOB_GO_GO : Fld := ⟨0x39060, 0, 0⟩
/-- R454 (RO): as its table states. -/
def CRYPTO_JOB_STATUS_BUSY : Fld := ⟨0x39400, 31, 31⟩
/-- R454 (RO): 0 OK; 1 TAG_FAIL; 2 USAGE_DENIED; 3 STALE_PARENT; 4 NO_KEY; 5 BAD_ARG; 6 NO_SPACE. -/
def CRYPTO_JOB_STATUS_RESULT : Fld := ⟨0x39400, 27, 24⟩
/-- R454 (RO): R428. -/
def CRYPTO_JOB_STATUS_OUT_CELL : Fld := ⟨0x39400, 16, 0⟩
/-- R454 (RW): tag or digest out; tag in for mode 8. -/
def CRYPTO_TAG_TAG : Fld := ⟨0x39410, 31, 0⟩
/-- R456 (WO): 1 LOAD; 2 SIGN; 3 VERIFY; 4 ATTEST; 5 CLEAR; others BAD_ARG. -/
def RSA_CTL_OP : Fld := ⟨0x3A040, 3, 0⟩
/-- R456 (RW): unwrap slot for LOAD. -/
def RSA_SLOT_SLOT : Fld := ⟨0x3A044, 8, 0⟩
/-- R456 (RW): odd, ≥ 3; else BAD_ARG. -/
def RSA_E_E : Fld := ⟨0x3A048, 31, 0⟩
/-- R456 (RW): SHA-256 digest. -/
def RSA_HASH_DIGEST : Fld := ⟨0x3A050, 31, 0⟩
/-- R456 (RW): R431. -/
def RSA_NONCE_NONCE : Fld := ⟨0x3A070, 31, 0⟩
/-- R456 (RW): 0 input, 1 output. -/
def RSA_WIN_SEL_AREA : Fld := ⟨0x3A090, 31, 31⟩
/-- R456 (RW): word 0–255, +1 after each RSA.WIN_DATA access. -/
def RSA_WIN_SEL_WORD : Fld := ⟨0x3A090, 8, 0⟩
/-- R456 (RW): output area read-only. -/
def RSA_WIN_DATA_DATA : Fld := ⟨0x3A094, 31, 0⟩
/-- R456 (RO): as its table states. -/
def RSA_STATUS_BUSY : Fld := ⟨0x3A400, 31, 31⟩
/-- R456 (RO): R430. -/
def RSA_STATUS_KEY_VALID : Fld := ⟨0x3A400, 30, 30⟩
/-- R456 (RO): 0 OK; 1 VERIFY_FAIL; 2 NO_KEY; 3 UNWRAP_FAIL; 4 USAGE_DENIED; 5 STALE_PARENT; 6 BAD_ARG; 7 NO_ENTROPY. -/
def RSA_STATUS_RESULT : Fld := ⟨0x3A400, 27, 24⟩
/-- R456 (RO): SHA-256 of n. -/
def RSA_KEY_HASH_HASH : Fld := ⟨0x3A410, 31, 0⟩
/-- R458 (RWB): prediction resistance, R433. -/
def DRBG_CFG_PR : Fld := ⟨0x3B040, 31, 31⟩
/-- R458 (RWB): requests; 0 acts as 1. -/
def DRBG_CFG_RESEED_INT : Fld := ⟨0x3B040, 23, 0⟩
/-- R458 (WO): R433. -/
def DRBG_RESEED_GO : Fld := ⟨0x3B044, 0, 0⟩
/-- R458 (RO): a read returns 32 fresh bits within 10 µs. -/
def DRBG_OUT_RAND : Fld := ⟨0x3B400, 31, 0⟩
/-- R458 (RO): instantiated. -/
def DRBG_STATUS_READY : Fld := ⟨0x3B404, 31, 31⟩
/-- R458 (RO): R433. -/
def DRBG_STATUS_HALT : Fld := ⟨0x3B404, 30, 30⟩
/-- R458 (W1C): repetition count test failed. -/
def DRBG_STATUS_RCT_FAIL : Fld := ⟨0x3B404, 29, 29⟩
/-- R458 (W1C): adaptive proportion test failed. -/
def DRBG_STATUS_APT_FAIL : Fld := ⟨0x3B404, 28, 28⟩
/-- R458 (RO): requests since reseed. -/
def DRBG_STATUS_SINCE : Fld := ⟨0x3B404, 23, 0⟩
/-- R460 (RO): R415. -/
def CRYST_STATUS_ROOT_VALID : Fld := ⟨0x3C400, 31, 31⟩
/-- R460 (RO): R415. -/
def CRYST_STATUS_FAIL : Fld := ⟨0x3C400, 30, 30⟩
/-- R460 (RO): helper CRC or FORMAT wrong. -/
def CRYST_STATUS_HELPER_BAD : Fld := ⟨0x3C400, 29, 29⟩
/-- R460 (RO): R440. -/
def CRYST_STATUS_WAIT_ACK : Fld := ⟨0x3C400, 28, 28⟩
/-- R460 (RO): R441. -/
def CRYST_STATUS_RETIRED : Fld := ⟨0x3C400, 27, 27⟩
/-- R460 (RO): tamper records, 0–32. -/
def CRYST_STATUS_T : Fld := ⟨0x3C400, 5, 0⟩
/-- R460 (RO): largest BCH corrections in a block, last regeneration. -/
def CRYST_ERR_MAX_BLOCK : Fld := ⟨0x3C404, 23, 16⟩
/-- R460 (RO): 4–4 repetition ties, last regeneration. -/
def CRYST_ERR_TIES : Fld := ⟨0x3C404, 15, 0⟩
/-- R460 (W1C): highest MAX_BLOCK since cleared. -/
def CRYST_ERR_HWM_HWM : Fld := ⟨0x3C408, 7, 0⟩
/-- R462 (RWL): enabled sources; a change lands at once. -/
def TAMPER_SRC_EN_EN : Fld := ⟨0x3D040, 7, 0⟩
/-- R462 (WO): 0xA5 acknowledges, R441; other values are ignored. -/
def TAMPER_ACK_KEY : Fld := ⟨0x3D044, 7, 0⟩
/-- R462 (RO): line asserted. -/
def TAMPER_STATE_LETFLY : Fld := ⟨0x3D400, 31, 31⟩
/-- R462 (RO): R440. -/
def TAMPER_STATE_WAIT_ACK : Fld := ⟨0x3D400, 30, 30⟩
/-- R462 (RO): sources asserted now. -/
def TAMPER_STATE_NOW : Fld := ⟨0x3D400, 7, 0⟩
/-- R462 (W1C): triggered by the other mast. -/
def TAMPER_CAUSE_PEER : Fld := ⟨0x3D404, 8, 8⟩
/-- R462 (W1C): sources asserted at the trigger. -/
def TAMPER_CAUSE_SRC : Fld := ⟨0x3D404, 7, 0⟩
/-- R462 (RO): mast LOCAL time of the trigger. -/
def TAMPER_TIME_NS : Fld := ⟨0x3D408, 31, 0⟩
/-- R462 (RO): mast LOCAL time of the trigger. -/
def TAMPER_TIME_NS_hi : Fld := ⟨0x3D40C, 31, 0⟩
/-- R462 (RO): acknowledgement fuses blown. -/
def TAMPER_RECORDS_ACKS : Fld := ⟨0x3D410, 13, 8⟩
/-- R462 (RO): tamper-record fuses blown. -/
def TAMPER_RECORDS_COUNT : Fld := ⟨0x3D410, 5, 0⟩
/-- R494 (RWB): R477. -/
def PAIR_CFG_AUTO_FAILOVER : Fld := ⟨0x4040, 31, 31⟩
/-- R494 (RWB): R473. -/
def PAIR_CFG_DIGEST_EN : Fld := ⟨0x4040, 30, 30⟩
/-- R494 (RWB): R477. -/
def PAIR_CFG_SAIL_FAILOVER : Fld := ⟨0x4040, 29, 29⟩
/-- R494 (RWB): R477. -/
def PAIR_CFG_TAKE_DIVERGED : Fld := ⟨0x4040, 28, 28⟩
/-- R494 (RWB): µs, 100 to S/2; outside acts as nearest bound. -/
def PAIR_CFG_DIGEST_WAIT : Fld := ⟨0x4040, 15, 0⟩
/-- R494 (RWB): 1–255; 0 acts as 1. -/
def PAIR_XFER_CFG_PASSES : Fld := ⟨0x4044, 31, 24⟩
/-- R494 (RWB): 4 KiB blocks, 1–512; above 512 acts as 512. -/
def PAIR_XFER_CFG_FINAL_MAX : Fld := ⟨0x4044, 9, 0⟩
/-- R494 (WO): 0x5A. -/
def PAIR_CMD_KEY : Fld := ⟨0x4048, 15, 8⟩
/-- R494 (WO): 1 SWAP; 2 RESYNC; 3 RELEASE_JURY; other values BAD_ARG. -/
def PAIR_CMD_OP : Fld := ⟨0x4048, 3, 0⟩
/-- R494 (RO/T): R464. -/
def PAIR_ROLE_ACTIVE : Fld := ⟨0x4400, 31, 31⟩
/-- R494 (RO/T): own die index. -/
def PAIR_ROLE_DIE : Fld := ⟨0x4400, 18, 16⟩
/-- R494 (RO/T): R464. -/
def PAIR_ROLE_EPOCH : Fld := ⟨0x4400, 15, 0⟩
/-- R494 (RO): R466. -/
def PAIR_STATE_STATE : Fld := ⟨0x4404, 31, 28⟩
/-- R494 (RO): heartbeats received. -/
def PAIR_STATE_PEER_PRESENT : Fld := ⟨0x4404, 27, 27⟩
/-- R494 (RO): 0 OK; 1 BUSY; 2 NOT_IN_STEP; 3 PEER_FAULT; 4 BAD_ARG; 5 NO_PEER. -/
def PAIR_STATE_CMD_STATUS : Fld := ⟨0x4404, 26, 24⟩
/-- R494 (RO): peer's SELF_FAULT. -/
def PAIR_STATE_PEER_FAULT : Fld := ⟨0x4404, 15, 8⟩
/-- R494 (RO): R475. -/
def PAIR_STATE_SELF_FAULT : Fld := ⟨0x4404, 7, 0⟩
/-- R494 (RO): 0 none; 1 VALUE; 2 LAG. -/
def PAIR_MISMATCH_CAUSE : Fld := ⟨0x440C, 31, 30⟩
/-- R494 (RO): slot of the last mismatch. -/
def PAIR_MISMATCH_ASN : Fld := ⟨0x4408, 31, 0⟩
/-- R494 (RO): slot of the last mismatch. -/
def PAIR_MISMATCH_ASN_hi : Fld := ⟨0x440C, 7, 0⟩
/-- R494 (RO): last input executed. -/
def PAIR_INSEQ_SEQ : Fld := ⟨0x4410, 31, 0⟩
/-- R494 (RO): last input executed. -/
def PAIR_INSEQ_SEQ_hi : Fld := ⟨0x4414, 31, 0⟩
/-- R494 (RO): own digest of the last compared slot. -/
def PAIR_DIGEST_OWN : Fld := ⟨0x4418, 31, 0⟩
/-- R494 (RO): own digest of the last compared slot. -/
def PAIR_DIGEST_OWN_hi : Fld := ⟨0x441C, 31, 0⟩
/-- R494 (RO): D_A of that slot; 0 on the active mast. -/
def PAIR_DIGEST_PEER_PEER : Fld := ⟨0x4420, 31, 0⟩
/-- R494 (RO): D_A of that slot; 0 on the active mast. -/
def PAIR_DIGEST_PEER_PEER_hi : Fld := ⟨0x4424, 31, 0⟩
/-- R494 (W1C): µs, R473. -/
def PAIR_LAG_HWM_HWM : Fld := ⟨0x4428, 31, 0⟩
/-- R494 (RO): 0 IDLE; 1 PRECOPY; 2 FINAL; 3 CATCHUP. -/
def PAIR_XFER_STATUS_PHASE : Fld := ⟨0x442C, 31, 28⟩
/-- R494 (RO): 0 none; 1 DONE; 2 NO_CONVERGE; 3 OVERRUN; 4 LINK; 5 ABORTED. -/
def PAIR_XFER_STATUS_RESULT : Fld := ⟨0x442C, 27, 24⟩
/-- R494 (RO): current pass. -/
def PAIR_XFER_STATUS_PASS : Fld := ⟨0x442C, 23, 16⟩
/-- R494 (RO): dirty blocks, saturating. -/
def PAIR_XFER_STATUS_DIRTY : Fld := ⟨0x442C, 15, 0⟩
/-- R494 (W1C): jury input buffer mark, KiB. -/
def PAIR_BUF_HWM_KIB : Fld := ⟨0x4430, 13, 0⟩
/-- R496 (RWB): 3 000–3 500 mV; outside acts as nearest bound. -/
def FEED_LOW_V_MV : Fld := ⟨0x5040, 11, 0⟩
/-- R496 (RO): 0 GOOD; 1 LOW; 2 LOST; 3 OVP. -/
def FEED_STAT_STATE : Fld := ⟨0x5400, 31, 28⟩
/-- R496 (RO): current, 10 mA units, ±2 %. -/
def FEED_STAT_I : Fld := ⟨0x5400, 27, 16⟩
/-- R496 (RO): mV. -/
def FEED_STAT_V : Fld := ⟨0x5400, 11, 0⟩
/-- R496 (RO): R490. -/
def FEED_BUS_SINGLE : Fld := ⟨0x5408, 16, 16⟩
/-- R496 (RO): internal bus, mV. -/
def FEED_BUS_V : Fld := ⟨0x5408, 11, 0⟩
/-- R498 (RO): dual-command window open. -/
def SSTAT_MASTER_WINDOW : Fld := ⟨0x28420, 31, 31⟩
/-- R498 (RO): a TAKEOVER has been accepted. -/
def SSTAT_MASTER_VALID : Fld := ⟨0x28420, 30, 30⟩
/-- R498 (RO): master die index. -/
def SSTAT_MASTER_DIE : Fld := ⟨0x28420, 18, 16⟩
/-- R498 (RO): R484. -/
def SSTAT_MASTER_EPOCH : Fld := ⟨0x28420, 15, 0⟩
/-- R498 (RO): R486. -/
def SSTAT_DUP_CMD_COUNT : Fld := ⟨0x28424, 31, 0⟩
/-- R498 (RO): R486. -/
def SSTAT_CMD_CONFLICT_COUNT : Fld := ⟨0x28428, 31, 0⟩
/-- R498 (RO): R484, R486, R485. -/
def SSTAT_STALE_MASTER_COUNT : Fld := ⟨0x2842C, 31, 0⟩
/-- R498 (RO): answers to VC0 packets dropped at a full answer store, R19. -/
def SSTAT_ANSWER_DROP_COUNT : Fld := ⟨0x28430, 31, 0⟩
/-- R498 (RO): CMD packets discarded for an unknown kind or a malformed payload, R667. -/
def SSTAT_CMD_BAD_COUNT : Fld := ⟨0x28434, 31, 0⟩
/-- R531 (WO): 1 BEGIN; 2 CHUNK; 3 VERIFY; 4 ACTIVATE; 5 CANCEL; others BAD_MANIFEST. -/
def UPDATE_CMD_OP : Fld := ⟨0x40040, 3, 0⟩
/-- R531 (RW): chunk, R503. -/
def UPDATE_INDEX_INDEX : Fld := ⟨0x40044, 12, 0⟩
/-- R531 (RW): head cell of the manifest or chunk item. -/
def UPDATE_CELL_CELL : Fld := ⟨0x40048, 16, 0⟩
/-- R531 (RW): R503. -/
def UPDATE_CHUNK_CRC_CRC : Fld := ⟨0x4004C, 31, 0⟩
/-- R531 (RWB): 60–604 800; outside acts as nearest bound. -/
def UPDATE_TRIAL_TIME_S : Fld := ⟨0x40050, 19, 0⟩
/-- R531 (WO): 0xC3 sheets home, R509. -/
def UPDATE_CONFIRM_KEY : Fld := ⟨0x40054, 7, 0⟩
/-- R531 (RW): R511; OWNER. -/
def UPDATE_LOCK_LOCK : Fld := ⟨0x40058, 0, 0⟩
/-- R531 (WO): 0x3C, R514 step 3. -/
def UPDATE_READY_KEY : Fld := ⟨0x4005C, 7, 0⟩
/-- R531 (RW): word of UPDATE.BMP. -/
def UPDATE_BMP_SEL_WORD : Fld := ⟨0x40060, 7, 0⟩
/-- R531 (RO): 0 IDLE; 1 ERASING; 2 RECEIVING; 3 VERIFIED; 4 JURY_BOOT; 5 JURY_XFER; 6 TRIAL; 7 SECOND. -/
def UPDATE_STATUS_PHASE : Fld := ⟨0x40400, 31, 28⟩
/-- R531 (RO): 0 OK; 1 BUSY; 2 BAD_MANIFEST; 3 KEY_UNTRUSTED; 4 SIG_FAIL; 5 ROLLBACK; 6 BAD_INDEX; 7 BAD_CRC; 8 HASH_FAIL; 9 LOCKED; 10 REEFED; 11 FEED; 12 NOT_IN_STEP; 13 WRONG_PHASE; 14 NV_FAIL; 15 LATE_CONFIRM. -/
def UPDATE_STATUS_RESULT : Fld := ⟨0x40400, 27, 24⟩
/-- R531 (RO): 0 none; 1 CONFIRMED; 2 REVERTED_TIME; 3 REVERTED_RESETS; 4 REVERTED_BOOT; 5 REVERTED_TAKEOVER; 6 ABANDONED; 7 DONE. -/
def UPDATE_STATUS_LAST : Fld := ⟨0x40400, 23, 20⟩
/-- R531 (RO): command running. -/
def UPDATE_STATUS_BUSY : Fld := ⟨0x40400, 16, 16⟩
/-- R531 (RO): furled image bootable, R510. -/
def UPDATE_STATUS_FALLBACK : Fld := ⟨0x40400, 15, 15⟩
/-- R531 (RO): 1 TRIAL. -/
def UPDATE_STATUS_MODE : Fld := ⟨0x40400, 1, 1⟩
/-- R531 (RO): R499. -/
def UPDATE_STATUS_SET_SLOT : Fld := ⟨0x40400, 0, 0⟩
/-- R531 (RO): chunks missing. -/
def UPDATE_MISSING_CHUNKS : Fld := ⟨0x40404, 13, 0⟩
/-- R531 (RO): received bits 32·WORD to 32·WORD + 31. -/
def UPDATE_BMP_BITS : Fld := ⟨0x40408, 31, 0⟩
/-- R531 (RO): TRIAL_TIME − ELAPSED. -/
def UPDATE_TRIAL_LEFT_S : Fld := ⟨0x4040C, 19, 0⟩
/-- R531 (RO): bit i: key index i revoked. -/
def UPDATE_FUSES_REVOKED : Fld := ⟨0x40410, 11, 8⟩
/-- R531 (RO): anti-rollback fuses blown, 0–64. -/
def UPDATE_FUSES_SEC : Fld := ⟨0x40410, 6, 0⟩
/-- R531 (RO): IMAGE_HASH of the held manifest. -/
def UPDATE_MAN_HASH_HASH : Fld := ⟨0x40420, 31, 0⟩
/-- R531 (RO): R500. -/
def UPDATE_SET_VER_VERSION : Fld := ⟨0x40440, 31, 0⟩
/-- R531 (RO): R500. -/
def UPDATE_SET_VER_VERSION_hi : Fld := ⟨0x40444, 31, 0⟩
/-- R531 (RO): 0 when the furled slot holds no valid image. -/
def UPDATE_FURLED_VER_VERSION : Fld := ⟨0x40448, 31, 0⟩
/-- R531 (RO): 0 when the furled slot holds no valid image. -/
def UPDATE_FURLED_VER_VERSION_hi : Fld := ⟨0x4044C, 31, 0⟩
/-- R533 (WO): 1 IMG_BEGIN; 2 IMG_CHUNK; 3 IMG_VERIFY; 4 WAVE_ADD; 5 WAVE_GO; 6 PAUSE; 7 RESUME; 8 ABORT. -/
def CAMPAIGN_CMD_OP : Fld := ⟨0x41040, 3, 0⟩
/-- R533 (RWB): as its table states. -/
def CAMPAIGN_ID_CAMP_ID : Fld := ⟨0x41044, 15, 0⟩
/-- R533 (RWB): 1–1 048 576. -/
def CAMPAIGN_IMG_LEN_BYTES : Fld := ⟨0x41048, 20, 0⟩
/-- R533 (RWB): SHA-256 of the image. -/
def CAMPAIGN_IMG_HASH_HASH : Fld := ⟨0x4104C, 31, 0⟩
/-- R533 (RW): R518. -/
def CAMPAIGN_CHUNK_INDEX : Fld := ⟨0x41070, 9, 0⟩
/-- R533 (RW): head cell of the chunk item. -/
def CAMPAIGN_CELL_CELL : Fld := ⟨0x41074, 16, 0⟩
/-- R533 (RW): R528. -/
def CAMPAIGN_NODE_NODE : Fld := ⟨0x41078, 19, 0⟩
/-- R533 (RWB): bit b: group 32·k + b targeted. -/
def CAMPAIGN_TARGET_GROUPS : Fld := ⟨0x41080, 31, 0⟩
/-- R533 (RW): R526; OWNER. -/
def CAMPAIGN_GROUP_LOCK_GROUPS : Fld := ⟨0x410A0, 31, 0⟩
/-- R533 (RW): R526. -/
def CAMPAIGN_LIT_GROUPS : Fld := ⟨0x410C0, 31, 0⟩
/-- R533 (RWB): R520. -/
def CAMPAIGN_MC_CFG_PHASE : Fld := ⟨0x410E0, 31, 16⟩
/-- R533 (RWB): slots; 0 acts as 1. -/
def CAMPAIGN_MC_CFG_PERIOD : Fld := ⟨0x410E0, 15, 0⟩
/-- R533 (RWB): sail s multicasts. -/
def CAMPAIGN_MC_CH_VALID : Fld := ⟨0x410E4, 15, 15⟩
/-- R533 (RWB): channel-list index. -/
def CAMPAIGN_MC_CH_CHANNEL : Fld := ⟨0x410E4, 9, 0⟩
/-- R533 (RWB): profile or rate code. -/
def CAMPAIGN_RADIO_PROF : Fld := ⟨0x41100, 31, 24⟩
/-- R533 (RWB): PHR FEC field. -/
def CAMPAIGN_RADIO_FEC : Fld := ⟨0x41100, 23, 22⟩
/-- R533 (RWB): dBm, signed, 0.25 dB units. -/
def CAMPAIGN_RADIO_POWER : Fld := ⟨0x41100, 21, 14⟩
/-- R533 (RWB): counter group 1–15; 0 acts as 1. -/
def CAMPAIGN_RADIO_FC_GRP : Fld := ⟨0x41100, 11, 8⟩
/-- R533 (RWB): key index 1–16, R426. -/
def CAMPAIGN_RADIO_KEY_IDX : Fld := ⟨0x41100, 4, 0⟩
/-- R533 (RWB): 1–15; 0 acts as 1. -/
def CAMPAIGN_ROUND_CFG_MC_ROUNDS : Fld := ⟨0x41104, 27, 24⟩
/-- R533 (RWB): fragments. -/
def CAMPAIGN_ROUND_CFG_STRAGGLE_MAX : Fld := ⟨0x41104, 12, 0⟩
/-- R533 (RWB): s. -/
def CAMPAIGN_TIMES_REPORT_WAIT : Fld := ⟨0x41108, 31, 16⟩
/-- R533 (RWB): s. -/
def CAMPAIGN_TIMES_OFFER_LEAD : Fld := ⟨0x41108, 15, 0⟩
/-- R533 (RWB): node trial time. -/
def CAMPAIGN_NODE_TRIAL_S : Fld := ⟨0x4110C, 23, 0⟩
/-- R533 (RWB): R529. -/
def CAMPAIGN_WAVE_TIME_S : Fld := ⟨0x41110, 23, 0⟩
/-- R533 (RWB): minutes, R522. -/
def CAMPAIGN_RETRY_MIN : Fld := ⟨0x41114, 15, 0⟩
/-- R533 (RWB): mV. -/
def CAMPAIGN_OFFER_CFG_BATT_MIN : Fld := ⟨0x41118, 31, 16⟩
/-- R533 (RWB): R519. -/
def CAMPAIGN_OFFER_CFG_UDP_PORT : Fld := ⟨0x41118, 15, 0⟩
/-- R533 (RWB): s, R530; 0 acts as 1. -/
def CAMPAIGN_CFG_PERSIST_S : Fld := ⟨0x4111C, 31, 16⟩
/-- R533 (RWB): R522. -/
def CAMPAIGN_CFG_AUTO_ACT : Fld := ⟨0x4111C, 0, 0⟩
/-- R534 (RO): 0 IDLE; 1 IMG_LOAD; 2 READY; 3 OFFER; 4 MULTICAST; 5 UNICAST; 6 WAVE_END; 7 PAUSED. -/
def CAMPAIGN_STATUS_PHASE : Fld := ⟨0x41400, 31, 28⟩
/-- R534 (RO): 0 OK; 1 BUSY; 2 BAD_INDEX; 3 HASH_FAIL; 4 WAVE_FULL; 5 NOT_TARGET; 6 WRONG_PHASE; 7 NV_FAIL; 8 IN_WAVE. -/
def CAMPAIGN_STATUS_RESULT : Fld := ⟨0x41400, 27, 24⟩
/-- R534 (RO): current round. -/
def CAMPAIGN_STATUS_ROUND : Fld := ⟨0x41400, 23, 16⟩
/-- R534 (RO): current wave. -/
def CAMPAIGN_STATUS_WAVE : Fld := ⟨0x41400, 15, 0⟩
/-- R534 (RO): 0–8 192. -/
def CAMPAIGN_WAVE_SIZE_NODES : Fld := ⟨0x41404, 13, 0⟩
/-- R534 (RO): largest U[s] of the current round. -/
def CAMPAIGN_UNION_FRAGS : Fld := ⟨0x41408, 12, 0⟩
/-- R534 (RO): base of the campaign region. -/
def CAMPAIGN_BMP_BASE_ADDR : Fld := ⟨0x4140C, 31, 0⟩
/-- R534 (RO): R518. -/
def CAMPAIGN_IMG_MISSING_CHUNKS : Fld := ⟨0x41410, 10, 0⟩
/-- R534 (RO): R522. -/
def CAMPAIGN_STATE_CNT_NODES : Fld := ⟨0x41420, 17, 0⟩
/-- R565 (RW): reefed mode request, as *Start-up, reset, reefed mode and the NV store* states. -/
def SYS_MODE_REEFED : Fld := ⟨0x40, 0, 0⟩
/-- R565 (WO): 0xE7 acts; other values are ignored. -/
def SYS_RESET_KEY : Fld := ⟨0x44, 15, 8⟩
/-- R565 (WO): reset the peer mast; OWNER. -/
def SYS_RESET_PAIR_PEER : Fld := ⟨0x44, 1, 1⟩
/-- R565 (WO): software reset of this mast. -/
def SYS_RESET_SELF : Fld := ⟨0x44, 0, 0⟩
/-- R565 (RWL): watchdog enabled. -/
def SYS_WDT_EN : Fld := ⟨0x48, 31, 31⟩
/-- R565 (RWL): timeout, ms; 0 acts as 1. -/
def SYS_WDT_MS : Fld := ⟨0x48, 15, 0⟩
/-- R565 (WO): 0x5A5A restarts the timeout. -/
def SYS_WDT_KICK_KEY : Fld := ⟨0x4C, 15, 0⟩
/-- R565 (RW): byte-writable. -/
def SYS_SCRATCH_DATA : Fld := ⟨0x50, 31, 0⟩
/-- R565 (RO): 2, 4 or 8 dies. -/
def SYS_CHIP_VARIANT : Fld := ⟨0x400, 31, 24⟩
/-- R565 (RO): silicon revision. -/
def SYS_CHIP_REV : Fld := ⟨0x400, 23, 16⟩
/-- R565 (RO): bit i: die i fitted. -/
def SYS_CHIP_DIES : Fld := ⟨0x400, 7, 0⟩
/-- R565 (W1C): as *Start-up, reset, reefed mode and the NV store* assigns. -/
def SYS_RESET_CAUSE_CAUSE : Fld := ⟨0x404, 7, 0⟩
/-- R565 (RO): word address of the last uncorrectable error, R26. -/
def SYS_SRAM_ERR_ADDR_ADDR : Fld := ⟨0x408, 25, 0⟩
/-- R565 (RO): address of the last undelivered access, R537. -/
def SYS_BUS_ERR_ADDR : Fld := ⟨0x40C, 23, 0⟩
/-- R567 (WO): R554. -/
def COMMIT_GO_MASK : Fld := ⟨0x1040, 15, 0⟩
/-- R567 (RW): 0 immediate, R556; 1 tick, R557. -/
def COMMIT_WHEN_TICK : Fld := ⟨0x1044, 0, 0⟩
/-- R567 (WO): R561. -/
def COMMIT_SNAP_PACKAGE : Fld := ⟨0x1048, 1, 1⟩
/-- R567 (WO): R561. -/
def COMMIT_SNAP_GO : Fld := ⟨0x1048, 0, 0⟩
/-- R567 (RO): a tick commit is armed. -/
def COMMIT_STATUS_ARMED : Fld := ⟨0x1400, 31, 31⟩
/-- R567 (RO): a package snapshot is armed. -/
def COMMIT_STATUS_SNAP_ARMED : Fld := ⟨0x1400, 30, 30⟩
/-- R567 (RO): groups of the armed commit. -/
def COMMIT_STATUS_MASK : Fld := ⟨0x1400, 15, 0⟩
/-- R567 (RO): last commit started. -/
def COMMIT_SEQ_SEQ : Fld := ⟨0x1404, 31, 0⟩
/-- R567 (RO): landing tick of the last tick commit. -/
def COMMIT_LAND_ASN_ASN : Fld := ⟨0x1408, 31, 0⟩
/-- R567 (RO): landing tick of the last tick commit. -/
def COMMIT_LAND_ASN_ASN_hi : Fld := ⟨0x140C, 7, 0⟩
/-- R567 (RO): last snapshot started. -/
def COMMIT_SNAP_SEQ_SEQ : Fld := ⟨0x1410, 31, 0⟩
/-- R569 (RW): vector of mast page 4j+0. -/
def IRQ_ROUTE_VEC0 : Fld := ⟨0x3080, 5, 0⟩
/-- R569 (RW): vector of mast page 4j+1. -/
def IRQ_ROUTE_VEC1 : Fld := ⟨0x3080, 13, 8⟩
/-- R569 (RW): vector of mast page 4j+2. -/
def IRQ_ROUTE_VEC2 : Fld := ⟨0x3080, 21, 16⟩
/-- R569 (RW): vector of mast page 4j+3. -/
def IRQ_ROUTE_VEC3 : Fld := ⟨0x3080, 29, 24⟩
/-- R569 (RW): vector of sail 4j+0. -/
def IRQ_SAIL_ROUTE_VEC0 : Fld := ⟨0x3100, 5, 0⟩
/-- R569 (RW): vector of sail 4j+1. -/
def IRQ_SAIL_ROUTE_VEC1 : Fld := ⟨0x3100, 13, 8⟩
/-- R569 (RW): vector of sail 4j+2. -/
def IRQ_SAIL_ROUTE_VEC2 : Fld := ⟨0x3100, 21, 16⟩
/-- R569 (RW): vector of sail 4j+3. -/
def IRQ_SAIL_ROUTE_VEC3 : Fld := ⟨0x3100, 29, 24⟩
/-- R569 (RW): R564. -/
def IRQ_VEC_TARGET_MGMT : Fld := ⟨0x3200, 17, 17⟩
/-- R569 (RW): R564. -/
def IRQ_VEC_TARGET_HOST : Fld := ⟨0x3200, 16, 16⟩
/-- R569 (RW): R564. -/
def IRQ_VEC_TARGET_CORES : Fld := ⟨0x3200, 15, 0⟩
/-- R569 (WO): R564. -/
def IRQ_VEC_EOI_VEC : Fld := ⟨0x3300, 5, 0⟩
/-- R569 (RO): bit b: page 32·i + b pending. -/
def IRQ_PEND_PAGES : Fld := ⟨0x3400, 31, 0⟩
/-- R569 (RO): R563. -/
def IRQ_SAIL_PEND_SAILS : Fld := ⟨0x3410, 5, 0⟩
/-- R569 (RO): bit v: vector v pending. -/
def IRQ_VEC_PEND_VECS : Fld := ⟨0x3418, 31, 0⟩
/-- R569 (RO): bit v: vector v pending. -/
def IRQ_VEC_PEND_VECS_hi : Fld := ⟨0x341C, 31, 0⟩
/-- R571 (RWB): °C, signed. -/
def THERM_CFG_ALARM : Fld := ⟨0x6040, 31, 24⟩
/-- R571 (RWB): ms; 0 no periodic conversion. -/
def THERM_CFG_PERIOD : Fld := ⟨0x6040, 7, 0⟩
/-- R571 (WO): start a supply conversion. -/
def THERM_CONV_SUPPLY : Fld := ⟨0x6044, 1, 1⟩
/-- R571 (WO): start a temperature conversion. -/
def THERM_CONV_TEMP : Fld := ⟨0x6044, 0, 0⟩
/-- R571 (RO): signed, 0.125 °C. -/
def THERM_TEMP_TEMP : Fld := ⟨0x6400, 15, 0⟩
/-- R571 (W1C): highest TEMP since cleared. -/
def THERM_TEMP_MAX_HWM : Fld := ⟨0x6404, 15, 0⟩
/-- R571 (RO): VCORE, VSRAM, VSERDES, VIO. -/
def THERM_RAIL_MV : Fld := ⟨0x6410, 11, 0⟩
/-- R572 (RW): R549. -/
def TATRUM_FAR_ADDR_AUTO_INC : Fld := ⟨0x8040, 31, 31⟩
/-- R572 (RW): die index. -/
def TATRUM_FAR_ADDR_DIE : Fld := ⟨0x8040, 30, 28⟩
/-- R572 (RW): sail page. -/
def TATRUM_FAR_ADDR_PAGE : Fld := ⟨0x8040, 21, 12⟩
/-- R572 (RW): byte offset. -/
def TATRUM_FAR_ADDR_OFFSET : Fld := ⟨0x8040, 11, 0⟩
/-- R572 (RW): R549. -/
def TATRUM_FAR_DATA_DATA : Fld := ⟨0x8048, 31, 0⟩
/-- R572 (RW): R549. -/
def TATRUM_FAR_DATA_DATA_hi : Fld := ⟨0x804C, 31, 0⟩
/-- R572 (WO): 0x7A acts. -/
def TATRUM_RETRAIN_KEY : Fld := ⟨0x8050, 15, 8⟩
/-- R572 (WO): connection to retrain under R22, k as in TATRUM.LINK[k]; an UP connection retrains with its packets held and replayed from ACKSEQ, and the retraining can fail and count toward the 3 failures of R22; a FAILED connection starts training again with its count of consecutive failures at 0; a value above 6, or one that names an unfitted connection, is ignored. -/
def TATRUM_RETRAIN_CONN : Fld := ⟨0x8050, 2, 0⟩
/-- R572 (RO): unacknowledged far writes, 0–16. -/
def TATRUM_FAR_STATUS_OUTSTANDING : Fld := ⟨0x8400, 8, 4⟩
/-- R572 (W1C): R552. -/
def TATRUM_FAR_STATUS_TIMEOUT : Fld := ⟨0x8400, 1, 1⟩
/-- R572 (W1C): R551. -/
def TATRUM_FAR_STATUS_ERR : Fld := ⟨0x8400, 0, 0⟩
/-- R572 (RO): 0 DOWN; 1 TRAINING; 2 UP; 3 FAILED. -/
def TATRUM_LINK_STATE : Fld := ⟨0x8410, 31, 30⟩
/-- R572 (RO): last ACKSEQ received. -/
def TATRUM_LINK_ACKSEQ : Fld := ⟨0x8410, 11, 0⟩
/-- R597 (RWB): R577. -/
def ETH_CFG_RX_PAUSE_EN : Fld := ⟨0x49040, 31, 31⟩
/-- R597 (RWB): R579. -/
def ETH_CFG_TX_PAUSE_EN : Fld := ⟨0x49040, 30, 30⟩
/-- R597 (RWB): R576. -/
def ETH_CFG_AN_EN : Fld := ⟨0x49040, 29, 29⟩
/-- R597 (RWB): R577. -/
def ETH_CFG_MCAST_EN : Fld := ⟨0x49040, 28, 28⟩
/-- R597 (RWB): R576. -/
def ETH_CFG_MODE : Fld := ⟨0x49040, 2, 0⟩
/-- R597 (RWB): as its table states. -/
def ETH_OWN_MAC_MAC : Fld := ⟨0x49048, 31, 0⟩
/-- R597 (RWB): as its table states. -/
def ETH_OWN_MAC_MAC_hi : Fld := ⟨0x4904C, 15, 0⟩
/-- R597 (RWB): R574. -/
def ETH_PEER_STATIC : Fld := ⟨0x49054, 30, 30⟩
/-- R597 (RWB): R574. -/
def ETH_PEER_MAC : Fld := ⟨0x49050, 31, 0⟩
/-- R597 (RWB): R574. -/
def ETH_PEER_MAC_hi : Fld := ⟨0x49054, 15, 0⟩
/-- R597 (RWB): R578. -/
def ETH_VLAN_TX_TAG : Fld := ⟨0x49058, 31, 31⟩
/-- R597 (RWB): R577. -/
def ETH_VLAN_RX_CHECK : Fld := ⟨0x49058, 30, 30⟩
/-- R597 (RWB): as its table states. -/
def ETH_VLAN_VID : Fld := ⟨0x49058, 11, 0⟩
/-- R597 (RWB): 64–2 047; below 64 acts as 64. -/
def ETH_MAX_RX_BYTES : Fld := ⟨0x4905C, 10, 0⟩
/-- R597 (RWB): R577. -/
def ETH_STATIONS_PTP_STATION : Fld := ⟨0x49060, 15, 8⟩
/-- R597 (RWB): R577. -/
def ETH_STATIONS_OTHER_STATION : Fld := ⟨0x49060, 7, 0⟩
/-- R597 (RWB): signed ns. -/
def ETH_PTP_CFG_TX_DELAY : Fld := ⟨0x49064, 31, 16⟩
/-- R597 (RWB): signed ns. -/
def ETH_PTP_CFG_RX_DELAY : Fld := ⟨0x49064, 15, 0⟩
/-- R597 (RO): 0 DOWN; 1 NEGOTIATING; 2 UP. -/
def ETH_LINK_STATE : Fld := ⟨0x49400, 31, 30⟩
/-- R597 (RO): received pause in force. -/
def ETH_LINK_PAUSED : Fld := ⟨0x49400, 29, 29⟩
/-- R597 (RO): XOFF condition of R326. -/
def ETH_LINK_XOFF : Fld := ⟨0x49400, 28, 28⟩
/-- R597 (RO): mode in use. -/
def ETH_LINK_MODE : Fld := ⟨0x49400, 2, 0⟩
/-- R597 (RO): partner recorded. -/
def ETH_PARTNER_VALID : Fld := ⟨0x4940C, 31, 31⟩
/-- R597 (RO): by learning. -/
def ETH_PARTNER_LEARNED : Fld := ⟨0x4940C, 30, 30⟩
/-- R597 (RO): as its table states. -/
def ETH_PARTNER_MAC : Fld := ⟨0x49408, 31, 0⟩
/-- R597 (RO): as its table states. -/
def ETH_PARTNER_MAC_hi : Fld := ⟨0x4940C, 15, 0⟩
/-- R599 (RW): as its table states. -/
def PCIE_RING_SEL_RING : Fld := ⟨0x48040, 5, 0⟩
/-- R599 (RWB): R584. -/
def PCIE_RING_BASE_ADDR : Fld := ⟨0x48048, 31, 4⟩
/-- R599 (RWB): R584. -/
def PCIE_RING_BASE_ADDR_hi : Fld := ⟨0x4804C, 31, 0⟩
/-- R599 (RWB): R584. -/
def PCIE_RING_CFG_EN : Fld := ⟨0x48050, 31, 31⟩
/-- R599 (RWB): 0 TX, 1 RX. -/
def PCIE_RING_CFG_DIR : Fld := ⟨0x48050, 30, 30⟩
/-- R599 (RWB): 4–15; outside acts as nearest bound. -/
def PCIE_RING_CFG_SIZE_LOG2 : Fld := ⟨0x48050, 19, 16⟩
/-- R599 (RWB): R587. -/
def PCIE_RING_CFG_CLASS : Fld := ⟨0x48050, 14, 12⟩
/-- R599 (RWB): R589. -/
def PCIE_RING_CFG_VEC : Fld := ⟨0x48050, 11, 6⟩
/-- R599 (RWB): µs. -/
def PCIE_RING_COAL_COAL_US : Fld := ⟨0x48054, 31, 16⟩
/-- R599 (RWB): 0 acts as 1. -/
def PCIE_RING_COAL_COAL_CNT : Fld := ⟨0x48054, 15, 0⟩
/-- R599 (RWB): ring of class 0, R588. -/
def PCIE_CLASS_RING_RING0 : Fld := ⟨0x48058, 5, 0⟩
/-- R599 (RWB): ring of class 1, R588. -/
def PCIE_CLASS_RING_RING1 : Fld := ⟨0x48058, 11, 6⟩
/-- R599 (RWB): ring of class 2, R588. -/
def PCIE_CLASS_RING_RING2 : Fld := ⟨0x48058, 17, 12⟩
/-- R599 (RWB): ring of class 3, R588. -/
def PCIE_CLASS_RING_RING3 : Fld := ⟨0x48058, 23, 18⟩
/-- R599 (RWB): ring of class 4, R588. -/
def PCIE_CLASS_RING_RING4 : Fld := ⟨0x48058, 29, 24⟩
/-- R599 (RWB): ring of class 5, R588. -/
def PCIE_CLASS_RING_RING5 : Fld := ⟨0x48058, 31, 30⟩
/-- R599 (RWB): ring of class 5, R588. -/
def PCIE_CLASS_RING_RING5_hi : Fld := ⟨0x4805C, 3, 0⟩
/-- R599 (RWB): ring of class 6, R588. -/
def PCIE_CLASS_RING_RING6 : Fld := ⟨0x4805C, 9, 4⟩
/-- R599 (RWB): ring of class 7, R588. -/
def PCIE_CLASS_RING_RING7 : Fld := ⟨0x4805C, 15, 10⟩
/-- R599 (RWB): R591. -/
def PCIE_DMA_LINE_ADDR : Fld := ⟨0x48080, 31, 4⟩
/-- R599 (RWB): R591. -/
def PCIE_DMA_LINE_ADDR_hi : Fld := ⟨0x48084, 31, 0⟩
/-- R599 (RWB): as its table states. -/
def PCIE_DMA_LINE_EN : Fld := ⟨0x48080, 0, 0⟩
/-- R599 (RO): data link up. -/
def PCIE_LINK_UP : Fld := ⟨0x48400, 31, 31⟩
/-- R599 (RO): 1–4. -/
def PCIE_LINK_GEN : Fld := ⟨0x48400, 19, 16⟩
/-- R599 (RO): lanes. -/
def PCIE_LINK_WIDTH : Fld := ⟨0x48400, 10, 8⟩
/-- R599 (RO): Bus Master Enable. -/
def PCIE_LINK_BME : Fld := ⟨0x48400, 2, 2⟩
/-- R599 (RO): as its table states. -/
def PCIE_LINK_MSIX_EN : Fld := ⟨0x48400, 1, 1⟩
/-- R599 (RO): MSI-X function mask. -/
def PCIE_LINK_FMASK : Fld := ⟨0x48400, 0, 0⟩
/-- R599 (RO): as its table states. -/
def PCIE_ID_DEVICE : Fld := ⟨0x48404, 31, 16⟩
/-- R599 (RO): as its table states. -/
def PCIE_ID_VENDOR : Fld := ⟨0x48404, 15, 0⟩
/-- R599 (W1C): R585. -/
def PCIE_RING_STAT_ERR : Fld := ⟨0x48408, 31, 31⟩
/-- R599 (RO): as its table states. -/
def PCIE_RING_HEAD_HEAD : Fld := ⟨0x4840C, 31, 0⟩
/-- R599 (RO): as its table states. -/
def PCIE_RING_TAIL_TAIL : Fld := ⟨0x48410, 31, 0⟩
/-- R601 (RWB): as its table states. -/
def MGMT_CFG_SPI_EN : Fld := ⟨0x4D040, 31, 31⟩
/-- R601 (RWB): as its table states. -/
def MGMT_CFG_UART_EN : Fld := ⟨0x4D040, 30, 30⟩
/-- R601 (RWB): 9 600–3 000 000; outside acts as nearest bound. -/
def MGMT_CFG_BAUD : Fld := ⟨0x4D040, 23, 0⟩
/-- R601 (RO): R596. -/
def MGMT_STATUS_ATTN : Fld := ⟨0x4D400, 1, 1⟩
/-- R601 (RO): request executing. -/
def MGMT_STATUS_BUSY : Fld := ⟨0x4D400, 0, 0⟩
/-- R629 (RWB): periodic checkpoint. -/
def NVSTORE_CKPT_CFG_EN : Fld := ⟨0x42040, 31, 31⟩
/-- R629 (RWB): minutes, 120–1 440; outside acts as nearest bound. -/
def NVSTORE_CKPT_CFG_PERIOD : Fld := ⟨0x42040, 15, 0⟩
/-- R629 (WO): 1 CHECKPOINT; 2 SAVE_CAL; other values are ignored. -/
def NVSTORE_CMD_OP : Fld := ⟨0x42044, 3, 0⟩
/-- R629 (RO): flash write in progress. -/
def NVSTORE_STATUS_BUSY : Fld := ⟨0x42400, 31, 31⟩
/-- R629 (RO): checkpoint pass running. -/
def NVSTORE_STATUS_CKPT_BUSY : Fld := ⟨0x42400, 30, 30⟩
/-- R629 (RO): 0 OK; 1 TOO_SOON; 2 NV_FAIL. -/
def NVSTORE_STATUS_RESULT : Fld := ⟨0x42400, 27, 24⟩
/-- R629 (RO): bit k: store k had no valid bank at start. -/
def NVSTORE_STATUS_EMPTY : Fld := ⟨0x42400, 3, 0⟩
/-- R629 (RO): SEQ of the record in use. -/
def NVSTORE_SEQ_SEQ : Fld := ⟨0x42410, 31, 0⟩
/-- R629 (W1C): the other bank was torn at start. -/
def NVSTORE_BANK_TORN : Fld := ⟨0x42414, 3, 3⟩
/-- R629 (RO): bank 1 valid. -/
def NVSTORE_BANK_VALID1 : Fld := ⟨0x42414, 2, 2⟩
/-- R629 (RO): bank 0 valid. -/
def NVSTORE_BANK_VALID0 : Fld := ⟨0x42414, 1, 1⟩
/-- R629 (RO): bank of the record in use. -/
def NVSTORE_BANK_IN_USE : Fld := ⟨0x42414, 0, 0⟩
/-- R629 (RO): sector of the next entry. -/
def NVSTORE_RING_SECTOR : Fld := ⟨0x42430, 15, 8⟩
/-- R629 (RO): entry in that sector. -/
def NVSTORE_RING_ENTRY : Fld := ⟨0x42430, 7, 0⟩
/-- R629 (RO): minutes since the last completed pass, saturating. -/
def NVSTORE_CKPT_AGE_MIN : Fld := ⟨0x42434, 15, 0⟩
/-- R631 (RW): byte address; 256-aligned for program, 4 096-aligned for erase. -/
def FLASH_ADDR_ADDR : Fld := ⟨0x43040, 27, 0⟩
/-- R631 (WO): 1 READ 256 B; 2 PROGRAM 256 B; 3 ERASE 4 KiB; others ignored. -/
def FLASH_CMD_OP : Fld := ⟨0x43044, 3, 0⟩
/-- R631 (RW): 256-byte buffer. -/
def FLASH_DATA_DATA : Fld := ⟨0x43080, 31, 0⟩
/-- R631 (RO): operation running. -/
def FLASH_STATUS_BUSY : Fld := ⟨0x43400, 31, 31⟩
/-- R631 (RO): 0 OK; 1 RANGE; 2 VERIFY_FAIL; 3 TIMEOUT; 4 PRIV. -/
def FLASH_STATUS_RESULT : Fld := ⟨0x43400, 27, 24⟩
/-- R631 (RO): 10 MHz units. -/
def FLASH_INFO_CLK : Fld := ⟨0x43404, 31, 24⟩
/-- R631 (RO): R607. -/
def FLASH_INFO_IO_MODE : Fld := ⟨0x43404, 17, 16⟩
/-- R631 (RO): as its table states. -/
def FLASH_INFO_SIZE_MIB : Fld := ⟨0x43404, 15, 0⟩
/-- R631 (RO): as its table states. -/
def FLASH_JEDEC_ID_ID : Fld := ⟨0x43408, 23, 0⟩
/-- R631 (RO): 0 OK; 1 NO_HEADER; 2 NO_SLOT; 3 HELPER_B. -/
def FLASH_BOOT_RESULT : Fld := ⟨0x4340C, 7, 4⟩
/-- R631 (RO): slot booted. -/
def FLASH_BOOT_SLOT : Fld := ⟨0x4340C, 2, 2⟩
/-- R631 (RO): R609. -/
def FLASH_BOOT_RECOVERY : Fld := ⟨0x4340C, 1, 1⟩
/-- R631 (RO): 0 A, 1 B. -/
def FLASH_BOOT_HDR_COPY : Fld := ⟨0x4340C, 0, 0⟩
/-- R633 (WO): 0xE7 acts. -/
def SSYS_RESET_KEY : Fld := ⟨0x40, 15, 8⟩
/-- R633 (WO): reset of the sail; restarts at step 7. -/
def SSYS_RESET_SELF : Fld := ⟨0x40, 0, 0⟩
/-- R633 (RW): sail held in debug, R405. -/
def SSYS_DEBUG_HALT : Fld := ⟨0x44, 0, 0⟩
/-- R633 (RO): 0 OFF; 1 CAL; 2 RUN; 3 REEFED; 4 GATED. -/
def SSYS_STATE_STATE : Fld := ⟨0x400, 2, 0⟩
/-- R633 (W1C): bit 0 package reset; bit 1 SSYS.RESET. -/
def SSYS_RESET_CAUSE_CAUSE : Fld := ⟨0x404, 1, 0⟩
/-- R633 (RO): bit p: sail page p pending, R563. -/
def SSYS_IRQ_PEND_PAGES : Fld := ⟨0x408, 31, 0⟩
/-- R633 (RO): bit p: sail page p pending, R563. -/
def SSYS_IRQ_PEND_PAGES_hi : Fld := ⟨0x40C, 31, 0⟩
/-- R633 (RO): R548; saturating, copied by snapshot. -/
def SSYS_TMR_FIX_COUNT : Fld := ⟨0x410, 31, 0⟩
/-- R633 (RO): R558; saturating, copied by snapshot. -/
def SSYS_COMMIT_LATE_COUNT : Fld := ⟨0x414, 31, 0⟩
/-- R59 (RO): as its table states. -/
def MAC_PLAN_OVERRUN : Fld := ⟨0x20440, 31, 0⟩
/-- R59 (RO): as its table states. -/
def MAC_BUILD_OVERRUN : Fld := ⟨0x20444, 31, 0⟩
/-- R59 (RO): as its table states. -/
def MAC_DELIVER_OVERRUN : Fld := ⟨0x20448, 31, 0⟩
/-- R59 (RO): as its table states. -/
def MAC_TICK_WITHDRAW : Fld := ⟨0x2044C, 31, 0⟩
/-- R59 (RO): as its table states. -/
def MAC_ACK_LATE : Fld := ⟨0x20450, 31, 0⟩
/-- R59 (RO): as its table states. -/
def MAC_ACK_NOCARRIER : Fld := ⟨0x20454, 31, 0⟩
/-- R59 (RO): as its table states. -/
def MAC_FIFO_OVER : Fld := ⟨0x20458, 31, 0⟩
/-- R59 (RO): as its table states. -/
def MAC_LATE_HWM : Fld := ⟨0x2045C, 31, 0⟩
/-- R59 (RO): as its table states. -/
def SSTAT_TICK_MISS : Fld := ⟨0x28400, 31, 0⟩
/-- R59 (RO): as its table states. -/
def SSTAT_MOD_OVERRUN : Fld := ⟨0x28404, 31, 0⟩
/-- R59 (RO): as its table states. -/
def SSTAT_LAUNCH_LATE : Fld := ⟨0x28408, 31, 0⟩
/-- R89 (RO): as its table states. -/
def ADC_CLIP_SAMPLES_A : Fld := ⟨0x8410, 31, 0⟩
/-- R89 (RO): as its table states. -/
def ADC_CLIP_SAMPLES_B : Fld := ⟨0x8414, 31, 0⟩
/-- R89 (RO): as its table states. -/
def ADC_FAST_STEP_A : Fld := ⟨0x8418, 31, 0⟩
/-- R89 (RO): as its table states. -/
def ADC_FAST_STEP_B : Fld := ⟨0x841C, 31, 0⟩
/-- R89 (RO): as its table states. -/
def ADC_TICK_RISE_A : Fld := ⟨0x8420, 31, 0⟩
/-- R89 (RO): as its table states. -/
def ADC_TICK_RISE_B : Fld := ⟨0x8424, 31, 0⟩
/-- R89 (RO): as its table states. -/
def ADC_REF_SWITCH : Fld := ⟨0x8428, 31, 0⟩
/-- R89 (RO): as its table states. -/
def ADC_CLOCK_LOST : Fld := ⟨0x842C, 31, 0⟩
/-- R89 (RO): as its table states. -/
def ADC_PEAK_A : Fld := ⟨0x8430, 31, 0⟩
/-- R89 (RO): as its table states. -/
def ADC_PEAK_B : Fld := ⟨0x8434, 31, 0⟩
/-- R92 (RO): as its table states. -/
def WIN_BLANK_TIME : Fld := ⟨0x9410, 31, 0⟩
/-- R92 (RO): as its table states. -/
def WIN_TX_BLANKED : Fld := ⟨0x9420, 31, 0⟩
/-- R92 (RO): as its table states. -/
def WIN_RETUNE_REL : Fld := ⟨0x9430, 31, 0⟩
/-- R95 (RO): as its table states. -/
def FECTL_OBS_PREEMPT : Fld := ⟨0x2410, 31, 0⟩
/-- R95 (RO): as its table states. -/
def FECTL_OBS_DEFER : Fld := ⟨0x2414, 31, 0⟩
/-- R130 (RO): as its table states. -/
def NEST_DETECT_A : Fld := ⟨0xA410, 31, 0⟩
/-- R130 (RO): as its table states. -/
def NEST_DETECT_B : Fld := ⟨0xA414, 31, 0⟩
/-- R130 (RO): as its table states. -/
def NEST_RELOOK_FORK : Fld := ⟨0xA418, 31, 0⟩
/-- R130 (RO): as its table states. -/
def NEST_RELOOK_RESTART : Fld := ⟨0xA41C, 31, 0⟩
/-- R130 (RO): as its table states. -/
def NEST_FALSE_START : Fld := ⟨0xA420, 31, 0⟩
/-- R130 (RO): as its table states. -/
def NEST_BIN_FULL : Fld := ⟨0xA424, 31, 0⟩
/-- R130 (RO): as its table states. -/
def NEST_SEL_OTHER : Fld := ⟨0xA428, 31, 0⟩
/-- R132 (RO): as its table states. -/
def LANE_ATTACH : Fld := ⟨0xB430, 31, 0⟩
/-- R132 (RO): as its table states. -/
def LANE_STARVED : Fld := ⟨0xB434, 31, 0⟩
/-- R132 (RO): as its table states. -/
def LANE_DISPLACED : Fld := ⟨0xB438, 31, 0⟩
/-- R132 (RO): as its table states. -/
def LANE_DELIVERED : Fld := ⟨0xB43C, 31, 0⟩
/-- R132 (RO): as its table states. -/
def LANE_STARVED_W : Fld := ⟨0xB440, 31, 0⟩
/-- R132 (RO): as its table states. -/
def LANE_REL : Fld := ⟨0xB460, 31, 0⟩
/-- R132 (RO): as its table states. -/
def LANE_WAIT_DROP : Fld := ⟨0xB4A0, 31, 0⟩
/-- R171 (RO): as its table states. -/
def CLEURA_PHR_PASS : Fld := ⟨0x10410, 31, 0⟩
/-- R171 (RO): as its table states. -/
def CLEURA_PHR_RS_FAIL : Fld := ⟨0x10414, 31, 0⟩
/-- R171 (RO): as its table states. -/
def CLEURA_PHR_CRC_FAIL : Fld := ⟨0x10418, 31, 0⟩
/-- R171 (RO): as its table states. -/
def CLEURA_PHR_FIELD_FAIL : Fld := ⟨0x1041C, 31, 0⟩
/-- R171 (RO): as its table states. -/
def CLEURA_PHR_PROF_FAIL : Fld := ⟨0x10420, 31, 0⟩
/-- R171 (RO): as its table states. -/
def CLEURA_PHR_CORRECTED : Fld := ⟨0x10424, 31, 0⟩
/-- R171 (RO): as its table states. -/
def CLEURA_LTF_FAIL : Fld := ⟨0x10428, 31, 0⟩
/-- R171 (RO): as its table states. -/
def CLEURA_HINT_USED : Fld := ⟨0x1042C, 31, 0⟩
/-- R171 (RO): as its table states. -/
def CLEURA_HINT_DECISIVE : Fld := ⟨0x10430, 31, 0⟩
/-- R171 (RO): as its table states. -/
def CLEURA_HINT_OVERRULED : Fld := ⟨0x10434, 31, 0⟩
/-- R171 (RO): as its table states. -/
def CLEURA_TRACK_LOST : Fld := ⟨0x10438, 31, 0⟩
/-- R171 (RO): as its table states. -/
def CLEURA_WIN_SLIP : Fld := ⟨0x1043C, 31, 0⟩
/-- R171 (RO): as its table states. -/
def CLEURA_ADV_SENT : Fld := ⟨0x10440, 31, 0⟩
/-- R171 (RO): as its table states. -/
def CLEURA_ADV_DROP : Fld := ⟨0x10444, 31, 0⟩
/-- R171 (RO): as its table states. -/
def CLEURA_TX_FRAMES : Fld := ⟨0x10448, 31, 0⟩
/-- R171 (RO): as its table states. -/
def CLEURA_TX_BADPROF : Fld := ⟨0x1044C, 31, 0⟩
/-- R190 (RO): as its table states. -/
def FEC_CW_CLEAN : Fld := ⟨0x11410, 31, 0⟩
/-- R190 (RO): as its table states. -/
def FEC_CW_CORRECTED : Fld := ⟨0x11414, 31, 0⟩
/-- R190 (RO): as its table states. -/
def FEC_CW_FAIL : Fld := ⟨0x11418, 31, 0⟩
/-- R190 (RO): as its table states. -/
def FEC_CW_ERASE_MODE : Fld := ⟨0x1141C, 31, 0⟩
/-- R190 (RO): as its table states. -/
def FEC_CW_FALLBACK : Fld := ⟨0x11420, 31, 0⟩
/-- R190 (RO): as its table states. -/
def FEC_ERASURES_USED : Fld := ⟨0x11424, 31, 0⟩
/-- R190 (RO): as its table states. -/
def FEC_BYTES_CORRECTED : Fld := ⟨0x11428, 31, 0⟩
/-- R190 (RO): as its table states. -/
def FEC_SNR_MARKS : Fld := ⟨0x1142C, 31, 0⟩
/-- R190 (RO): as its table states. -/
def FEC_SLICE_MARKS : Fld := ⟨0x11430, 31, 0⟩
/-- R173 (RO): as its table states. -/
def PROF_RX_FRAMES : Fld := ⟨0x121400, 31, 0⟩
/-- R205 (RO): as its table states. -/
def SUNPHY_PHR_PASS : Fld := ⟨0x12410, 31, 0⟩
/-- R205 (RO): as its table states. -/
def SUNPHY_HCS_FAIL : Fld := ⟨0x12414, 31, 0⟩
/-- R205 (RO): as its table states. -/
def SUNPHY_RATE_REJECT : Fld := ⟨0x12418, 31, 0⟩
/-- R205 (RO): as its table states. -/
def SUNPHY_LEN_REJECT : Fld := ⟨0x1241C, 31, 0⟩
/-- R205 (RO): as its table states. -/
def SUNPHY_MS_REJECT : Fld := ⟨0x12420, 31, 0⟩
/-- R205 (RO): as its table states. -/
def SUNPHY_SFD_TIMEOUT : Fld := ⟨0x12424, 31, 0⟩
/-- R205 (RO): as its table states. -/
def SUNPHY_TX_FRAMES : Fld := ⟨0x12428, 31, 0⟩
/-- R205 (RO): as its table states. -/
def SUNPHY_TX_BADRATE : Fld := ⟨0x1242C, 31, 0⟩
/-- R236 (RO): as its table states. -/
def TXP_FRAMES : Fld := ⟨0x18410, 31, 0⟩
/-- R236 (RO): as its table states. -/
def TXP_REFUSE : Fld := ⟨0x18420, 31, 0⟩
/-- R236 (RO): as its table states. -/
def TXP_ABORTED : Fld := ⟨0x18460, 31, 0⟩
/-- R236 (RO): as its table states. -/
def TXP_ABORT_LATE : Fld := ⟨0x18464, 31, 0⟩
/-- R236 (RO): as its table states. -/
def TXP_CUT : Fld := ⟨0x18470, 31, 0⟩
/-- R236 (RO): as its table states. -/
def TXP_CLAMP_LOCK : Fld := ⟨0x18480, 31, 0⟩
/-- R236 (RO): as its table states. -/
def TXP_CLAMP_OPEN : Fld := ⟨0x18484, 31, 0⟩
/-- R236 (RO): as its table states. -/
def TXP_CLAMP_FLOOR : Fld := ⟨0x18488, 31, 0⟩
/-- R236 (RO): as its table states. -/
def TXP_COMP_TRIM : Fld := ⟨0x1848C, 31, 0⟩
/-- R238 (RO): as its table states. -/
def PWR_PDET_DEV : Fld := ⟨0x19430, 31, 0⟩
/-- R238 (RO): as its table states. -/
def PWR_TRIM_LIMIT : Fld := ⟨0x19434, 31, 0⟩
/-- R240 (RO): as its table states. -/
def TRIM_OBS_DONE : Fld := ⟨0x1A410, 31, 0⟩
/-- R240 (RO): as its table states. -/
def TRIM_PD_UPDATE : Fld := ⟨0x1A414, 31, 0⟩
/-- R240 (RO): as its table states. -/
def TRIM_PD_REJECT : Fld := ⟨0x1A418, 31, 0⟩
/-- R240 (RO): as its table states. -/
def TRIM_PD_STALE : Fld := ⟨0x1A41C, 31, 0⟩
/-- R240 (RO): as its table states. -/
def TRIM_DAC_STEPS : Fld := ⟨0x1A420, 31, 0⟩
/-- R240 (RO): as its table states. -/
def TRIM_PD_WAIT : Fld := ⟨0x1A424, 31, 0⟩
/-- R240 (RO): as its table states. -/
def TRIM_RETUNE : Fld := ⟨0x1A428, 31, 0⟩
/-- R274 (RO): as its table states. -/
def MAC_FC_RES : Fld := ⟨0x20400, 31, 0⟩
/-- R274 (RO): as its table states. -/
def MAC_FC_BASE : Fld := ⟨0x20404, 31, 0⟩
/-- R274 (RO): as its table states. -/
def MAC_FC_HI : Fld := ⟨0x20408, 31, 0⟩
/-- R274 (RO): as its table states. -/
def MAC_DEDUP_COPIES : Fld := ⟨0x20460, 31, 0⟩
/-- R274 (RO): as its table states. -/
def MAC_DEDUP_LATE : Fld := ⟨0x20464, 31, 0⟩
/-- R274 (RO): as its table states. -/
def MAC_DEDUP_RETRY : Fld := ⟨0x20468, 31, 0⟩
/-- R274 (RO): as its table states. -/
def MAC_DEDUP_EVICT : Fld := ⟨0x2046C, 31, 0⟩
/-- R274 (RO): as its table states. -/
def MAC_CARRIER_BUSY : Fld := ⟨0x20470, 31, 0⟩
/-- R274 (RO): as its table states. -/
def MAC_FCS_FAIL : Fld := ⟨0x20474, 31, 0⟩
/-- R274 (RO): as its table states. -/
def MAC_FRAME_UNSUP : Fld := ⟨0x20478, 31, 0⟩
/-- R274 (RO): as its table states. -/
def MAC_ADDR_MISS : Fld := ⟨0x2047C, 31, 0⟩
/-- R274 (RO): as its table states. -/
def MAC_SEC_UNSUP : Fld := ⟨0x20480, 31, 0⟩
/-- R274 (RO): as its table states. -/
def MAC_REPLAY_OLD : Fld := ⟨0x20484, 31, 0⟩
/-- R274 (RO): as its table states. -/
def MAC_REPLAY_DUP : Fld := ⟨0x20488, 31, 0⟩
/-- R274 (RO): as its table states. -/
def MAC_TC_CLAMP : Fld := ⟨0x2048C, 31, 0⟩
/-- R274 (RO): as its table states. -/
def MAC_CH_OTHER : Fld := ⟨0x20490, 31, 0⟩
/-- R274 (RO): as its table states. -/
def MAC_CH_FOREIGN : Fld := ⟨0x20494, 31, 0⟩
/-- R274 (RO): as its table states. -/
def MAC_ACK_SENT : Fld := ⟨0x20498, 31, 0⟩
/-- R274 (RO): as its table states. -/
def MAC_DL_UNANSWERED : Fld := ⟨0x2049C, 31, 0⟩
/-- R274 (RO): as its table states. -/
def MAC_DL_ACK_LATE : Fld := ⟨0x204A0, 31, 0⟩
/-- R274 (RO): as its table states. -/
def MAC_DL_DROPPED : Fld := ⟨0x204A4, 31, 0⟩
/-- R274 (RO): as its table states. -/
def MAC_HELD_ENTRY : Fld := ⟨0x204A8, 31, 0⟩
/-- R274 (RO): as its table states. -/
def MAC_DRIFT_HOLD : Fld := ⟨0x204AC, 31, 0⟩
/-- R274 (RO): as its table states. -/
def MAC_NODE_LOST : Fld := ⟨0x204B0, 31, 0⟩
/-- R274 (RO): as its table states. -/
def MAC_NODE_FOUND : Fld := ⟨0x204B4, 31, 0⟩
/-- R274 (RO): as its table states. -/
def MAC_BEACON_SENT : Fld := ⟨0x204B8, 31, 0⟩
/-- R274 (RO): as its table states. -/
def MAC_BEACON_MISS : Fld := ⟨0x204BC, 31, 0⟩
/-- R274 (RO): as its table states. -/
def MAC_PEER_MISS : Fld := ⟨0x204C0, 31, 0⟩
/-- R274 (RO): as its table states. -/
def MAC_HINT_WRITTEN : Fld := ⟨0x204C4, 31, 0⟩
/-- R274 (RO): as its table states. -/
def MAC_HINT_CONFLICT : Fld := ⟨0x204C8, 31, 0⟩
/-- R274 (RO): as its table states. -/
def MAC_FC_EXHAUSTED : Fld := ⟨0x204CC, 31, 0⟩
/-- R274 (RO): as its table states. -/
def MAC_FC_RESERVE : Fld := ⟨0x204D0, 31, 0⟩
/-- R274 (RO): as its table states. -/
def MAC_LINK_INVALID : Fld := ⟨0x204D4, 31, 0⟩
/-- R274 (RO): as its table states. -/
def MAC_CHANNEL_INVALID : Fld := ⟨0x204D8, 31, 0⟩
/-- R274 (RO): as its table states. -/
def MAC_NO_PORT : Fld := ⟨0x204DC, 31, 0⟩
/-- R274 (RO): as its table states. -/
def MAC_PROFILE_INVALID : Fld := ⟨0x204E0, 31, 0⟩
/-- R274 (RO): as its table states. -/
def MAC_FC_GROUP : Fld := ⟨0x20500, 31, 0⟩
/-- R277 (RO): as its table states. -/
def DWELL_DEFER : Fld := ⟨0x21410, 31, 0⟩
/-- R277 (RO): as its table states. -/
def DWELL_LEDGER_FULL : Fld := ⟨0x21414, 31, 0⟩
/-- R277 (RO): as its table states. -/
def DWELL_ACK_DROP : Fld := ⟨0x21418, 31, 0⟩
/-- R277 (RO): as its table states. -/
def DWELL_BEACON_DROP : Fld := ⟨0x2141C, 31, 0⟩
/-- R307 (RO): as its table states. -/
def NODETAB_LOOKUPS : Fld := ⟨0x18420, 31, 0⟩
/-- R307 (RO): as its table states. -/
def NODETAB_MISSES : Fld := ⟨0x18424, 31, 0⟩
/-- R307 (RO): as its table states. -/
def NODETAB_PORT_MOVE : Fld := ⟨0x18428, 31, 0⟩
/-- R307 (RO): as its table states. -/
def NODETAB_STATIC_MISMATCH : Fld := ⟨0x1842C, 31, 0⟩
/-- R307 (RO): as its table states. -/
def NODETAB_LEARN_REINSERT : Fld := ⟨0x18430, 31, 0⟩
/-- R307 (RO): as its table states. -/
def NODETAB_LEARN_NOREC : Fld := ⟨0x18434, 31, 0⟩
/-- R307 (RO): as its table states. -/
def NODETAB_AGED : Fld := ⟨0x18438, 31, 0⟩
/-- R307 (RO): as its table states. -/
def NODETAB_AGE_RACE : Fld := ⟨0x1843C, 31, 0⟩
/-- R307 (RO): as its table states. -/
def NODETAB_PARKED : Fld := ⟨0x18440, 31, 0⟩
/-- R307 (RO): as its table states. -/
def NODETAB_PEND_FULL : Fld := ⟨0x18444, 31, 0⟩
/-- R307 (RO): as its table states. -/
def NODETAB_MOVED : Fld := ⟨0x18448, 31, 0⟩
/-- R307 (RO): as its table states. -/
def NODETAB_MOVE_DEFER : Fld := ⟨0x1844C, 31, 0⟩
/-- R307 (RO): as its table states. -/
def NODETAB_MOVE_RETRY : Fld := ⟨0x18450, 31, 0⟩
/-- R307 (RO): as its table states. -/
def NODETAB_PROMOTED : Fld := ⟨0x18454, 31, 0⟩
/-- R307 (RO): as its table states. -/
def NODETAB_DIRECT_WR : Fld := ⟨0x18458, 31, 0⟩
/-- R307 (RO): as its table states. -/
def NODETAB_SHORT_MISS : Fld := ⟨0x1845C, 31, 0⟩
/-- R307 (RO): as its table states. -/
def NODETAB_PEND_DISCARD : Fld := ⟨0x18460, 31, 0⟩
/-- R309 (RO): as its table states. -/
def ROUTE_WALKS : Fld := ⟨0x19410, 31, 0⟩
/-- R309 (RO): as its table states. -/
def ROUTE_NO_PARENT : Fld := ⟨0x19414, 31, 0⟩
/-- R309 (RO): as its table states. -/
def ROUTE_ROUTE_LOOP : Fld := ⟨0x19418, 31, 0⟩
/-- R309 (RO): as its table states. -/
def ROUTE_ROUTE_LONG : Fld := ⟨0x1941C, 31, 0⟩
/-- R309 (RO): as its table states. -/
def ROUTE_NO_NODE : Fld := ⟨0x19420, 31, 0⟩
/-- R309 (RO): as its table states. -/
def ROUTE_HOP_LIMIT : Fld := ⟨0x19424, 31, 0⟩
/-- R309 (RO): as its table states. -/
def ROUTE_NO_UPMAP : Fld := ⟨0x19428, 31, 0⟩
/-- R309 (RO): as its table states. -/
def ROUTE_NO_STATION : Fld := ⟨0x1942C, 31, 0⟩
/-- R309 (RO): as its table states. -/
def ROUTE_ENCAP : Fld := ⟨0x19430, 31, 0⟩
/-- R311 (RO): as its table states. -/
def COMP_EXPANDED : Fld := ⟨0x1A410, 31, 0⟩
/-- R311 (RO): as its table states. -/
def COMP_COMPRESSED : Fld := ⟨0x1A414, 31, 0⟩
/-- R311 (RO): as its table states. -/
def COMP_UNSUP_DISPATCH : Fld := ⟨0x1A418, 31, 0⟩
/-- R311 (RO): as its table states. -/
def COMP_BAD_CTX : Fld := ⟨0x1A41C, 31, 0⟩
/-- R311 (RO): as its table states. -/
def COMP_CSUM_FAIL : Fld := ⟨0x1A420, 31, 0⟩
/-- R311 (RO): as its table states. -/
def COMP_TOO_BIG : Fld := ⟨0x1A424, 31, 0⟩
/-- R335 (RO): as its table states. -/
def SALTERN_HOLD : Fld := ⟨0x11440, 31, 0⟩
/-- R335 (RO): as its table states. -/
def SALTERN_PUSH_TIMEOUT : Fld := ⟨0x11444, 31, 0⟩
/-- R335 (RO): as its table states. -/
def SALTERN_PUSH_REFUSED : Fld := ⟨0x11448, 31, 0⟩
/-- R335 (RO): as its table states. -/
def SALTERN_ETH_DROP : Fld := ⟨0x1144C, 31, 0⟩
/-- R335 (RO): as its table states. -/
def SALTERN_CHAIN_FULL : Fld := ⟨0x1145C, 31, 0⟩
/-- R335 (RO): as its table states. -/
def SALTERN_UNDERRUN : Fld := ⟨0x11460, 31, 0⟩
/-- R335 (RO): as its table states. -/
def SALTERN_LOST_SPLICE : Fld := ⟨0x11464, 31, 0⟩
/-- R335 (RO): as its table states. -/
def SALTERN_LINK_ERR : Fld := ⟨0x11468, 31, 0⟩
/-- R356 (RO): as its table states. -/
def HALYARD_GIVES : Fld := ⟨0x104A0, 31, 0⟩
/-- R356 (RO): as its table states. -/
def HALYARD_TAKES : Fld := ⟨0x104A4, 31, 0⟩
/-- R356 (RO): as its table states. -/
def HALYARD_IDLE_TAKES : Fld := ⟨0x104A8, 31, 0⟩
/-- R356 (RO): as its table states. -/
def HALYARD_GIVE_TIMEOUT : Fld := ⟨0x104AC, 31, 0⟩
/-- R356 (RO): as its table states. -/
def HALYARD_GIVE_CLOSED : Fld := ⟨0x104B0, 31, 0⟩
/-- R356 (RO): as its table states. -/
def HALYARD_GIVE_REFUSED : Fld := ⟨0x104B4, 31, 0⟩
/-- R356 (RO): as its table states. -/
def HALYARD_ROLE_ORPHAN : Fld := ⟨0x104B8, 31, 0⟩
/-- R356 (RO): as its table states. -/
def HALYARD_AFF_MOVE : Fld := ⟨0x104BC, 31, 0⟩
/-- R356 (RO): as its table states. -/
def HALYARD_FLOW_SKIP : Fld := ⟨0x104C0, 31, 0⟩
/-- R356 (RO): as its table states. -/
def HALYARD_DONE_EMPTY : Fld := ⟨0x104C4, 31, 0⟩
/-- R356 (RO): as its table states. -/
def HALYARD_RELEASED : Fld := ⟨0x104C8, 31, 0⟩
/-- R407 (RO): as its table states. -/
def TIME_D_SAMPLES : Fld := ⟨0x304C0, 31, 0⟩
/-- R407 (RO): as its table states. -/
def TIME_D_REFUSED : Fld := ⟨0x304C4, 31, 0⟩
/-- R407 (RO): as its table states. -/
def TIME_D_JUMPS : Fld := ⟨0x304C8, 31, 0⟩
/-- R407 (RO): as its table states. -/
def TIME_D_LOSSES : Fld := ⟨0x304CC, 31, 0⟩
/-- R407 (RO): as its table states. -/
def TIME_D_IGNORED : Fld := ⟨0x304F4, 31, 0⟩
/-- R409 (RO): as its table states. -/
def TPO_PULSES : Fld := ⟨0x31480, 31, 0⟩
/-- R409 (RO): as its table states. -/
def TPO_SKIPPED : Fld := ⟨0x31484, 31, 0⟩
/-- R450 (RO): as its table states. -/
def SESSION_OPENED : Fld := ⟨0x2430, 31, 0⟩
/-- R450 (RO): as its table states. -/
def SESSION_FAILED : Fld := ⟨0x2434, 31, 0⟩
/-- R450 (RO): as its table states. -/
def SESSION_DENIED_W : Fld := ⟨0x2438, 31, 0⟩
/-- R450 (RO): as its table states. -/
def SESSION_DENIED_R : Fld := ⟨0x243C, 31, 0⟩
/-- R450 (RO): as its table states. -/
def SESSION_TIMEOUTS : Fld := ⟨0x2440, 31, 0⟩
/-- R452 (RO): as its table states. -/
def KEYS_STALE_PARENT : Fld := ⟨0x38410, 31, 0⟩
/-- R452 (RO): as its table states. -/
def KEYS_UNWRAP_FAIL : Fld := ⟨0x38414, 31, 0⟩
/-- R452 (RO): as its table states. -/
def KEYS_USAGE_DENIED : Fld := ⟨0x38418, 31, 0⟩
/-- R452 (RO): as its table states. -/
def KEYS_DIRECT_WR : Fld := ⟨0x3841C, 31, 0⟩
/-- R452 (RO): as its table states. -/
def KEYS_PERSIST_OK : Fld := ⟨0x38420, 31, 0⟩
/-- R452 (RO): as its table states. -/
def KEYS_PERSIST_FAIL : Fld := ⟨0x38424, 31, 0⟩
/-- R452 (RO): as its table states. -/
def KEYS_CACHE_MISS : Fld := ⟨0x38428, 31, 0⟩
/-- R455 (RO): as its table states. -/
def CRYPTO_JOBS : Fld := ⟨0x39440, 31, 0⟩
/-- R455 (RO): as its table states. -/
def CRYPTO_TAG_FAIL : Fld := ⟨0x39444, 31, 0⟩
/-- R455 (RO): as its table states. -/
def CRYPTO_OPEN_FAIL : Fld := ⟨0x39448, 31, 0⟩
/-- R455 (RO): as its table states. -/
def CRYPTO_SEAL_FAIL : Fld := ⟨0x3944C, 31, 0⟩
/-- R455 (RO): as its table states. -/
def CRYPTO_NO_KEY : Fld := ⟨0x39450, 31, 0⟩
/-- R457 (RO): as its table states. -/
def RSA_SIGNS : Fld := ⟨0x3A440, 31, 0⟩
/-- R457 (RO): as its table states. -/
def RSA_VERIFIES : Fld := ⟨0x3A444, 31, 0⟩
/-- R457 (RO): as its table states. -/
def RSA_VERIFY_FAIL : Fld := ⟨0x3A448, 31, 0⟩
/-- R459 (RO): as its table states. -/
def DRBG_RESEEDS : Fld := ⟨0x3B410, 31, 0⟩
/-- R459 (RO): as its table states. -/
def DRBG_HEALTH_FAIL : Fld := ⟨0x3B414, 31, 0⟩
/-- R459 (RO): as its table states. -/
def DRBG_OUT_WORDS : Fld := ⟨0x3B418, 31, 0⟩
/-- R461 (RO): as its table states. -/
def CRYST_REGENS : Fld := ⟨0x3C410, 31, 0⟩
/-- R461 (RO): as its table states. -/
def CRYST_FAILS : Fld := ⟨0x3C414, 31, 0⟩
/-- R463 (RO): as its table states. -/
def TAMPER_TRIGGERS : Fld := ⟨0x3D420, 31, 0⟩
/-- R463 (RO): as its table states. -/
def TAMPER_FILTERED : Fld := ⟨0x3D424, 31, 0⟩
/-- R495 (RO): as its table states. -/
def PAIR_MIRRORED : Fld := ⟨0x4440, 31, 0⟩
/-- R495 (RO): as its table states. -/
def PAIR_COMPARED : Fld := ⟨0x4444, 31, 0⟩
/-- R495 (RO): as its table states. -/
def PAIR_MISMATCH_CNT : Fld := ⟨0x4448, 31, 0⟩
/-- R495 (RO): as its table states. -/
def PAIR_DIVERGE : Fld := ⟨0x444C, 31, 0⟩
/-- R495 (RO): as its table states. -/
def PAIR_HB_MISS : Fld := ⟨0x4450, 31, 0⟩
/-- R495 (RO): as its table states. -/
def PAIR_LINK_SPLIT : Fld := ⟨0x4454, 31, 0⟩
/-- R495 (RO): as its table states. -/
def PAIR_FAILOVER : Fld := ⟨0x4458, 31, 0⟩
/-- R495 (RO): as its table states. -/
def PAIR_SWAPS : Fld := ⟨0x445C, 31, 0⟩
/-- R495 (RO): as its table states. -/
def PAIR_XFER_DONE : Fld := ⟨0x4460, 31, 0⟩
/-- R495 (RO): as its table states. -/
def PAIR_XFER_FAIL : Fld := ⟨0x4464, 31, 0⟩
/-- R495 (RO): as its table states. -/
def PAIR_SAIL_LOST : Fld := ⟨0x4468, 31, 0⟩
/-- R497 (RO): as its table states. -/
def FEED_LOW : Fld := ⟨0x5410, 31, 0⟩
/-- R497 (RO): as its table states. -/
def FEED_LOST : Fld := ⟨0x5414, 31, 0⟩
/-- R497 (RO): as its table states. -/
def FEED_OVP : Fld := ⟨0x5418, 31, 0⟩
/-- R497 (RO): as its table states. -/
def FEED_TRANSFERS : Fld := ⟨0x5428, 31, 0⟩
/-- R532 (RO): as its table states. -/
def UPDATE_CHUNKS : Fld := ⟨0x40460, 31, 0⟩
/-- R532 (RO): as its table states. -/
def UPDATE_CHUNK_DUP : Fld := ⟨0x40464, 31, 0⟩
/-- R532 (RO): as its table states. -/
def UPDATE_CHUNK_CRC_ERR : Fld := ⟨0x40468, 31, 0⟩
/-- R532 (RO): as its table states. -/
def UPDATE_VERIFY_FAIL : Fld := ⟨0x4046C, 31, 0⟩
/-- R532 (RO): as its table states. -/
def UPDATE_ACTIVATIONS : Fld := ⟨0x40470, 31, 0⟩
/-- R532 (RO): as its table states. -/
def UPDATE_CONFIRMS : Fld := ⟨0x40474, 31, 0⟩
/-- R532 (RO): as its table states. -/
def UPDATE_REVERTS : Fld := ⟨0x40478, 31, 0⟩
/-- R532 (RO): as its table states. -/
def UPDATE_REFUSED : Fld := ⟨0x4047C, 31, 0⟩
/-- R532 (RO): as its table states. -/
def UPDATE_LATE_CONFIRM : Fld := ⟨0x40480, 31, 0⟩
/-- R534 (RO): as its table states. -/
def CAMPAIGN_FRAG_MC : Fld := ⟨0x41460, 31, 0⟩
/-- R534 (RO): as its table states. -/
def CAMPAIGN_FRAG_UNI : Fld := ⟨0x41464, 31, 0⟩
/-- R534 (RO): as its table states. -/
def CAMPAIGN_OFFERS : Fld := ⟨0x41468, 31, 0⟩
/-- R534 (RO): as its table states. -/
def CAMPAIGN_REPORTS : Fld := ⟨0x4146C, 31, 0⟩
/-- R534 (RO): as its table states. -/
def CAMPAIGN_REPORT_BAD : Fld := ⟨0x41470, 31, 0⟩
/-- R534 (RO): as its table states. -/
def CAMPAIGN_REFUSALS : Fld := ⟨0x41474, 31, 0⟩
/-- R534 (RO): as its table states. -/
def CAMPAIGN_SHEET_HOME : Fld := ⟨0x41478, 31, 0⟩
/-- R534 (RO): as its table states. -/
def CAMPAIGN_REVERTED : Fld := ⟨0x4147C, 31, 0⟩
/-- R534 (RO): as its table states. -/
def CAMPAIGN_LATE_HEALTH : Fld := ⟨0x41480, 31, 0⟩
/-- R534 (RO): as its table states. -/
def CAMPAIGN_NO_ANSWER : Fld := ⟨0x41484, 31, 0⟩
/-- R534 (RO): as its table states. -/
def CAMPAIGN_PERSISTS : Fld := ⟨0x41488, 31, 0⟩
/-- R566 (RO): as its table states. -/
def SYS_SRAM_CORR : Fld := ⟨0x420, 31, 0⟩
/-- R566 (RO): as its table states. -/
def SYS_SRAM_UNCORR : Fld := ⟨0x424, 31, 0⟩
/-- R566 (RO): as its table states. -/
def SYS_TMR_FIX : Fld := ⟨0x428, 31, 0⟩
/-- R566 (RO): as its table states. -/
def SYS_UNMAPPED : Fld := ⟨0x42C, 31, 0⟩
/-- R568 (RO): as its table states. -/
def COMMIT_COMMITS : Fld := ⟨0x1420, 31, 0⟩
/-- R568 (RO): as its table states. -/
def COMMIT_TICK_COMMITS : Fld := ⟨0x1424, 31, 0⟩
/-- R568 (RO): as its table states. -/
def COMMIT_DEFERRED : Fld := ⟨0x1428, 31, 0⟩
/-- R568 (RO): as its table states. -/
def COMMIT_REFUSED_PAGES : Fld := ⟨0x142C, 31, 0⟩
/-- R568 (RO): as its table states. -/
def COMMIT_SNAPS : Fld := ⟨0x1430, 31, 0⟩
/-- R568 (RO): as its table states. -/
def COMMIT_SPLIT : Fld := ⟨0x1434, 31, 0⟩
/-- R570 (RO): as its table states. -/
def IRQ_MSIX_SENT : Fld := ⟨0x3420, 31, 0⟩
/-- R573 (RO): as its table states. -/
def TATRUM_REPLAY : Fld := ⟨0x8440, 31, 0⟩
/-- R573 (RO): as its table states. -/
def TATRUM_CRC_ERR : Fld := ⟨0x8444, 31, 0⟩
/-- R573 (RO): as its table states. -/
def TATRUM_PROTO_ERR : Fld := ⟨0x8448, 31, 0⟩
/-- R573 (RO): as its table states. -/
def TATRUM_RETRAINS : Fld := ⟨0x844C, 31, 0⟩
/-- R573 (RO): as its table states. -/
def TATRUM_FAR_ERR : Fld := ⟨0x84B0, 31, 0⟩
/-- R573 (RO): as its table states. -/
def TATRUM_FAR_TIMEOUT : Fld := ⟨0x84B4, 31, 0⟩
/-- R598 (RO): as its table states. -/
def ETH_RX_FRAMES : Fld := ⟨0x49420, 31, 0⟩
/-- R598 (RO): as its table states. -/
def ETH_TX_FRAMES : Fld := ⟨0x49424, 31, 0⟩
/-- R598 (RO): as its table states. -/
def ETH_RX_ERR : Fld := ⟨0x49428, 31, 0⟩
/-- R598 (RO): as its table states. -/
def ETH_ADDR_DROP : Fld := ⟨0x4942C, 31, 0⟩
/-- R598 (RO): as its table states. -/
def ETH_PARTNER_REFUSED : Fld := ⟨0x49430, 31, 0⟩
/-- R598 (RO): as its table states. -/
def ETH_VLAN_DROP : Fld := ⟨0x49434, 31, 0⟩
/-- R598 (RO): as its table states. -/
def ETH_OTHER_DROP : Fld := ⟨0x49438, 31, 0⟩
/-- R598 (RO): as its table states. -/
def ETH_NO_PARTNER : Fld := ⟨0x4943C, 31, 0⟩
/-- R598 (RO): as its table states. -/
def ETH_PAUSE_RX : Fld := ⟨0x49440, 31, 0⟩
/-- R598 (RO): as its table states. -/
def ETH_PAUSE_TX : Fld := ⟨0x49444, 31, 0⟩
/-- R598 (RO): as its table states. -/
def ETH_TS_RX : Fld := ⟨0x49448, 31, 0⟩
/-- R598 (RO): as its table states. -/
def ETH_TS_TX : Fld := ⟨0x4944C, 31, 0⟩
/-- R598 (RO): as its table states. -/
def ETH_LINK_DOWN : Fld := ⟨0x49450, 31, 0⟩
/-- R600 (RO): as its table states. -/
def PCIE_TX_FRAMES : Fld := ⟨0x48420, 31, 0⟩
/-- R600 (RO): as its table states. -/
def PCIE_RX_FRAMES : Fld := ⟨0x48424, 31, 0⟩
/-- R600 (RO): as its table states. -/
def PCIE_TX_BAD : Fld := ⟨0x48428, 31, 0⟩
/-- R600 (RO): as its table states. -/
def PCIE_RING_ERR : Fld := ⟨0x4842C, 31, 0⟩
/-- R600 (RO): as its table states. -/
def PCIE_DMA_MERGE : Fld := ⟨0x48430, 31, 0⟩
/-- R600 (RO): as its table states. -/
def PCIE_LINK_DOWN : Fld := ⟨0x48434, 31, 0⟩
/-- R601 (RO): as its table states. -/
def MGMT_REQUESTS : Fld := ⟨0x4D420, 31, 0⟩
/-- R601 (RO): as its table states. -/
def MGMT_CRC_ERR : Fld := ⟨0x4D424, 31, 0⟩
/-- R601 (RO): as its table states. -/
def MGMT_FRAMING_ERR : Fld := ⟨0x4D428, 31, 0⟩
/-- R601 (RO): as its table states. -/
def MGMT_TIMEOUT : Fld := ⟨0x4D42C, 31, 0⟩
/-- R601 (RO): as its table states. -/
def MGMT_FRAMES : Fld := ⟨0x4D430, 31, 0⟩
/-- R630 (RO): as its table states. -/
def NVSTORE_WRITES : Fld := ⟨0x42440, 31, 0⟩
/-- R630 (RO): as its table states. -/
def NVSTORE_WRITE_FAIL : Fld := ⟨0x42444, 31, 0⟩
/-- R630 (RO): as its table states. -/
def NVSTORE_TORN : Fld := ⟨0x42448, 31, 0⟩
/-- R630 (RO): as its table states. -/
def NVSTORE_CKPT_DONE : Fld := ⟨0x4244C, 31, 0⟩
/-- R630 (RO): as its table states. -/
def NVSTORE_RESTORED : Fld := ⟨0x42450, 31, 0⟩
/-- R630 (RO): as its table states. -/
def NVSTORE_RING_WRITES : Fld := ⟨0x42454, 31, 0⟩
/-- R632 (RO): as its table states. -/
def FLASH_READS : Fld := ⟨0x43420, 31, 0⟩
/-- R632 (RO): as its table states. -/
def FLASH_PROGRAMS : Fld := ⟨0x43424, 31, 0⟩
/-- R632 (RO): as its table states. -/
def FLASH_ERASES : Fld := ⟨0x43428, 31, 0⟩
/-- R632 (RO): as its table states. -/
def FLASH_SUSPENDS : Fld := ⟨0x4342C, 31, 0⟩
/-- R632 (RO): as its table states. -/
def FLASH_ERRORS : Fld := ⟨0x43430, 31, 0⟩
/-- R274 (W1C): current RSV[s]. -/
def MAC_BEACON_STATE_RSV : Fld := ⟨0x2040C, 5, 0⟩
/-- R274 (RO): miss run, 2 bits per sail. -/
def MAC_BEACON_STATE_RUN : Fld := ⟨0x2040C, 19, 8⟩
/-- R274 (W1C): DROPPED[p]. -/
def MAC_PEER_STATE_DROPPED : Fld := ⟨0x20410, 3, 0⟩
/-- R274 (RO): miss run, 2 bits per peer. -/
def MAC_PEER_STATE_RUN : Fld := ⟨0x20410, 11, 4⟩
/-- R274 (W1C): R273. -/
def MAC_CFG_ERR_CAUSES : Fld := ⟨0x20414, 31, 0⟩
/-- R95 (RO): driven level of FE_CTL[7:0]. -/
def FECTL_LINE_STATE_LEVEL : Fld := ⟨0x2400, 7, 0⟩
/-- R235 (RO): handle of the last request. -/
def TXP_ABORT_HANDLE_HANDLE : Fld := ⟨0x18494, 31, 0⟩
/-- R382 (WO): as its table states. -/
def GSTAT_HWM_CLR_ALL : Fld := ⟨0x131040, 31, 31⟩
/-- R382 (WO): as its table states. -/
def GSTAT_HWM_CLR_CLASS : Fld := ⟨0x131040, 2, 0⟩
/-- R541 (RO): die of the page. -/
def HDR_PAGE_ID_DIE : Fld := ⟨0, 31, 29⟩
/-- R541 (RO): 1 sail page. -/
def HDR_PAGE_ID_SAIL : Fld := ⟨0, 28, 28⟩
/-- R541 (RO): as its table states. -/
def HDR_PAGE_ID_PAGE : Fld := ⟨0, 9, 0⟩
/-- R541 (RO): register layout version. -/
def HDR_PAGE_VER_MAJOR : Fld := ⟨4, 15, 8⟩
/-- R541 (RO): as its table states. -/
def HDR_PAGE_VER_MINOR : Fld := ⟨4, 7, 0⟩
/-- R541 (RW): page not copied by snapshot. -/
def HDR_CTRL_SNAP_EXCL : Fld := ⟨8, 1, 1⟩
/-- R541 (WO): 1 clears every live counter of the page in one cycle. -/
def HDR_CTRL_CNT_CLR : Fld := ⟨8, 0, 0⟩
/-- R541 (W1C): an access was denied, R444. -/
def HDR_STATUS_PRIVD : Fld := ⟨0xC, 2, 2⟩
/-- R541 (W1C): R546, R547. -/
def HDR_STATUS_LOCKV : Fld := ⟨0xC, 1, 1⟩
/-- R541 (W1C): R544, R545. -/
def HDR_STATUS_ACCERR : Fld := ⟨0xC, 0, 0⟩
/-- R541 (W1C): as the page's chapter assigns. -/
def HDR_IRQ_STATUS_EVENTS : Fld := ⟨0x10, 31, 0⟩
/-- R541 (RW): bit i enables IRQ_STATUS bit i. -/
def HDR_IRQ_ENABLE_EN : Fld := ⟨0x14, 31, 0⟩
/-- R541 (WO): 1 sets IRQ_STATUS bit i. -/
def HDR_IRQ_FORCE_SET : Fld := ⟨0x18, 31, 0⟩
/-- R541 (W1C): holds the first error since cleared. -/
def HDR_ERR_CAPTURE_VALID : Fld := ⟨0x1C, 31, 31⟩
/-- R541 (RO): 1 narrow access dropped, R544; 2 unaligned; 3 locked field, or another write refused with LOCKV, R546; 4 WOT conflict; 5 denied; 6 far error. -/
def HDR_ERR_CAPTURE_CAUSE : Fld := ⟨0x1C, 30, 28⟩
/-- R541 (RO): 0–15 core; 16 host; 17 management port; 18 far pair or peer mast. -/
def HDR_ERR_CAPTURE_REQ : Fld := ⟨0x1C, 27, 23⟩
/-- R541 (RO): byte offset of the access. -/
def HDR_ERR_CAPTURE_OFFSET : Fld := ⟨0x1C, 11, 0⟩
/-- R541 (RWL): commit group of the page; acts at once. -/
def HDR_COMMIT_GROUP_GROUP : Fld := ⟨0x20, 3, 0⟩
/-- R541 (W1C): the latest commit that acted on this page was refused; cleared by a commit that applies the page, R555. -/
def HDR_PENDING_REFUSED : Fld := ⟨0x24, 2, 2⟩
/-- R541 (RO): the page's group is in an armed tick commit. -/
def HDR_PENDING_ARMED : Fld := ⟨0x24, 1, 1⟩
/-- R541 (RO): a pending copy was written since the last commit. -/
def HDR_PENDING_PEND : Fld := ⟨0x24, 0, 0⟩
/-- R541 (RO): sequence number of the snapshot held in 0xC00–0xFFF. -/
def HDR_SNAP_SEQ_SEQ : Fld := ⟨0x28, 31, 0⟩
/-- R541 (WOT): 1 locks the page's RWL fields, R546. -/
def HDR_LOCK_LOCK : Fld := ⟨0x2C, 0, 0⟩

end Sys2Proof.Machine.F
end

