-- ==== Sys2Proof/Machine/StateKeys.lean ====
section
/-! DEFINITION. The key engine's state of a mast: slots, cached node keys, the root, the RSA register, jobs, the DRBG, the
sessions, the password records and the tamper logic (chapter 15).  Key material is a number that no command returns; its
bytes stand most significant first. -/

namespace Sys2Proof.Machine

/-- A key slot (R417, R453), with the recipe that PERSIST stores for a derived slot (R435). -/
structure KeySlot where
  valid : Bool
  typ : Nat
  usage : Nat
  lock : Bool
  origin : Nat
  persisted : Bool
  parent : Nat
  parentGen : Nat
  gen : Nat
  material : Nat
  label : List Nat
  context : List Nat
deriving DecidableEq, Repr

/-- An empty slot at generation `g`. -/
def KeySlot.empty (g : Nat) : KeySlot := ⟨false, 0, 0, false, 0, false, 0x3FF, 0, g, 0, [], []⟩

/-- A cached unwrapped node key with its four tags (R425). -/
structure CacheKey where
  node : Nat
  ver : Nat
  kek : Nat
  kekGen : Nat
  key : Nat
deriving DecidableEq, Repr

/-- A saved slot of a key-blob record (R435): its attributes, its wrapped material (0 for a derived slot) and its recipe. -/
structure SavedSlot where
  slot : Nat
  typ : Nat
  usage : Nat
  lock : Bool
  origin : Nat
  parent : Nat
  blob : Nat
  label : List Nat
  context : List Nat
deriving DecidableEq, Repr

/-- A key-blob record (R435): its sequence number, its slots, the group map and NODE_KEK. -/
structure KeyRecord where
  seq : Nat
  slots : List SavedSlot
  groups : List Nat
  nodeKek : Nat
deriving DecidableEq, Repr

/-- A crypto job under way (R428): the requester's job as its registers stood at GO. -/
structure Job where
  mode : Nat
  slot : Nat
  tagLen : Nat
  cell : Nat
  aad : Nat
  len : Nat
  iv : List Nat
  tag : List Nat
  early : Option Nat
  key : List Nat
deriving DecidableEq, Repr

/-- An RSA operation under way: its OP, and the RESULT, output words and private-key register it will leave. -/
structure RsaOp where
  op : Nat
  result : Nat
  out : List Nat
  key : Option RsaKey
deriving DecidableEq, Repr

/-- A session context (R442–R448): level, idle time in seconds, whether a session holds. -/
structure Session where
  isOpen : Bool
  level : Nat
  idle : Nat
deriving DecidableEq, Repr

/-- A password record of the config store (R446). -/
structure PwRecord where
  salt : Nat
  hash : Nat
  cap : Nat
deriving DecidableEq, Repr

/-- A password attempt under way (R446). -/
structure PwTry where
  req : Nat
  priv : Nat
  idle : Nat
  pw : List Nat
deriving DecidableEq, Repr

/-- The crystallizer's helper record (R413): FORMAT, CHK, OFFSET and CRC. -/
structure Helper where
  format : Nat
  chk : Nat
  offset : Nat
  crc : Nat
deriving DecidableEq, Repr

/-- The key engine of a mast. -/
structure KeyEng where
  slots : Tbl KeySlot
  cache : List CacheKey
  root : Option Nat
  persisting : Option KeyRecord
  banks : List KeyRecord
  jobs : Tbl (Option Job)
  rsaKey : Option RsaKey
  rsaOp : Option RsaOp
  rsaIn : Tbl Nat
  rsaOut : Tbl Nat
  ownerOtp : Option Nat
  ownerKey : Option Nat
  helper : Option Helper
  pairSecret : Nat
  sessions : Tbl Session
  nonces : Tbl (Option Nat)
  pwRecords : Tbl (Option PwRecord)
  pwTry : List PwTry
  delayFrom : Nat
  asserted : Nat
  recordDue : Nat
deriving DecidableEq, Repr

/-- The key engine at reset: every slot empty, no root, no session. -/
def KeyEng.reset : KeyEng :=
  { slots := [], cache := [], root := none, persisting := none, banks := [], jobs := [], rsaKey := none, rsaOp := none,
    rsaIn := [], rsaOut := [], ownerOtp := none, ownerKey := none, helper := none, pairSecret := 0, sessions := [],
    nonces := [], pwRecords := [], pwTry := [], delayFrom := 0, asserted := 0, recordDue := 0 }

end Sys2Proof.Machine
end

