-- ==== Sys2Proof/Machine/StateTime.lean ====
section
/-! DEFINITION. A mast's time domains and its gates and sluices (chapters 13 and 14). -/

namespace Sys2Proof.Machine

/-- A time domain (R383, R391): its value in units of 2^-16 · 10^-9 ns as it stood at LOCAL time `at_` (for MESH, the offset in the
slot), FREQ and INTEG in 2^-16 ppb, the run of accepted samples inside LOCK (R392), and the LOCAL time of the last accepted
sample.  STATE and ARMED are register fields. -/
structure Dom where
  val : Int
  at_ : Nat
  freq : Int
  integ : Int
  run : Nat
  last : Option Nat
deriving DecidableEq, Repr

/-- A domain at reset: zero, FREE (R395). -/
def Dom.reset : Dom := ⟨0, 0, 0, 0, 0, none⟩

/-- A gate list entry (R364): gate bits and INTERVAL in ns. -/
structure GateEntry where
  gates : Nat
  ns : Nat
deriving DecidableEq, Repr

/-- A gate list with its CYCLE in ns and the NET time, in ns, at which it starts (R364, R366). -/
structure GateList where
  entries : List GateEntry
  cycle : Nat
  base : Nat
deriving DecidableEq, Repr

/-- A hold on the head frame of a class (R369): its cell, the hold time before `since`, and the LOCAL time from which it runs. -/
structure GateHold where
  cell : Nat
  acc : Nat
  since : Nat
deriving DecidableEq, Repr

/-- An Ethernet egress port (R361–R369): the running list, the pending list, the class and the LOCAL end of the frame on the wire,
whether a received pause is in force, the holds per class, the PAUSE directions (receive, transmit) that clause 37 resolved, and
whether PARTNER_REFUSED has been raised since the partner state changed (R577). -/
structure Gate where
  running : Option GateList
  pending : Option GateList
  wire : Option (Nat × Nat)
  paused : Bool
  holds : Tbl GateHold
  dirs : Option (Bool × Bool)
  warned : Bool
  shifted : Bool
deriving DecidableEq, Repr

/-- A port before any list: free. -/
def Gate.reset : Gate := ⟨none, none, none, false, [], none, false, false⟩

/-- The configuration of a host ring (R599). -/
structure RingCfg where
  base : Nat
  en : Bool
  dir : Bool
  sizeLog2 : Nat
  cls : Nat
  vec : Nat
  coalUs : Nat
  coalCnt : Nat
deriving DecidableEq, Repr

/-- A ring's configuration at reset (R599). -/
def RingCfg.reset : RingCfg := ⟨0, false, false, 8, 0, 0, 50, 16⟩

/-- A host ring (R584–R589): its configuration, active and pending; HEAD, TAIL and ACK, its completion count, its error bit, whether
the oldest unacknowledged completion has waited COAL_US, and whether it waits for cells (R587). -/
structure Ring where
  cfg : RingCfg
  pend : Option RingCfg
  head : Nat
  tail : Nat
  ack : Nat
  count : Nat
  err : Bool
  late : Bool
  waiting : Bool
deriving DecidableEq, Repr

/-- A ring at reset. -/
def Ring.reset : Ring := ⟨RingCfg.reset, none, 0, 0, 0, 0, false, false, false⟩

end Sys2Proof.Machine
end

