-- ==== Sys2Proof/Machine/StateNv.lean ====
section
/-! DEFINITION. What outlives a power loss in a mast's flash and OTP, and the engines that work on it: the NV store, the own-image
update and node campaigns (chapters 17 and 20). -/

namespace Sys2Proof.Machine

/-- The update fields of the update record (R506).  `rxState`: 0 nothing received, 1 receiving, 2 verified, 3 to be erased by the next
BEGIN (R505); `bitmap` bit i: chunk i received. -/
structure UpdRec where
  setSlot : Nat
  mode : Nat
  boots : Nat
  elapsed : Nat
  trialTime : Nat
  secPend : Option Nat
  revPend : Nat
  manifest : List Nat
  bitmap : Nat
  rxState : Nat
  last : Nat
deriving DecidableEq, Repr

/-- An update record of a mast that has never been updated. -/
def UpdRec.fresh : UpdRec := ⟨0, 0, 0, 0, 0, none, 0, [], 0, 0, 0⟩

/-- A config record (R506, R629): the update record, and SCAL.USER of every sail (word i of sail k at `64 * k + i`). -/
structure CfgRec where
  upd : UpdRec
  cal : Tbl Nat
deriving DecidableEq, Repr

/-- A campaign node's word in the campaign record (R530), with its remaining trial slots. -/
structure CampWord where
  node : Nat
  nstate : Nat
  reason : Nat
  tries : Nat
  left : Nat
deriving DecidableEq, Repr

/-- A campaign record (R518, R530): the CAMPAIGN page's configuration, the load's received bitmap, phase, wave and round, and a word
per node. -/
structure CampRec where
  cfg : Tbl (BitVec 32)
  bits : Nat
  phase : Nat
  wave : Nat
  round : Nat
  nodes : List CampWord
deriving DecidableEq, Repr

/-- A checkpoint entry (R626): words 0–7 of a node's record, and the STATIC flag of its table entry. -/
structure CkptEntry where
  node : Nat
  record : NodeRec
  static : Bool
deriving DecidableEq, Repr

/-- A checkpoint (R626): SEED_CUR and the entries of the records in use. -/
structure Ckpt where
  seed : Nat
  entries : List CkptEntry
deriving DecidableEq, Repr

/-- A FLASH page operation under way (R631): its OP, its address and its data bytes. -/
structure FlashOp where
  op : Nat
  addr : Nat
  data : List Nat
deriving DecidableEq, Repr

/-- The NV store of a mast (R620–R631).  Record stores are held decoded: the record in use and the writes not yet complete, oldest first.
`flash` holds the bytes of every other area — headers with helper data, image slots, campaign image, user area; an unlisted byte
is erased, 0xFF.  `torn` lists the stores that hold a bank with a header and no valid trailer, and `slots` counts
the record slots used in each config bank (R623).  The spec does not say where a booted image's manifest lies: `manifests` holds
that of each image slot.  `ringP` and `ringSeq` are the newest valid reservation entry,
`ringUsed` the ring sectors programmed since their last erase. -/
structure Nv where
  cfg : Option CfgRec
  cfgJobs : List CfgRec
  camp : Option CampRec
  campJobs : List CampRec
  ckpt : Option Ckpt
  ckptJob : Option Ckpt
  ckptStart : Option Nat
  ckptEnd : Option Nat
  flash : Tbl (BitVec 8)
  manifests : Tbl (List Nat)
  ringP : Option Nat
  ringSeq : Nat
  ringUsed : List Nat
  flashOp : Option FlashOp
  ownerHash : Tbl Nat
  torn : List Nat
  slots : Tbl Nat
deriving DecidableEq, Repr

/-- A flash never written. -/
def Nv.empty : Nv :=
  { cfg := none, cfgJobs := [], camp := none, campJobs := [], ckpt := none, ckptJob := none, ckptStart := none, ckptEnd := none,
    flash := [], manifests := [], ringP := none, ringSeq := 0, ringUsed := [], flashOp := none, ownerHash := [], torn := [], slots := [] }

/-- The update engine of a mast (R499–R516): the record as it works with it, the chunks received, those not yet recorded, the chunk being
programmed (or, during an erase, the manifest to be recorded) and the item it came from, and what runs: an erase, a hash, an activation that waits for its tick. -/
structure Upd where
  urec : UpdRec
  bits : Nat
  unrec : Nat
  prog : Option (Nat × List Nat)
  cell : Nat
  erasing : Bool
  verifying : Bool
  actPend : Bool
deriving DecidableEq, Repr

/-- The update engine at reset. -/
def Upd.reset : Upd := ⟨UpdRec.fresh, 0, 0, none, 0, false, false, false⟩

/-- What a campaign sends in one multicast slot on a sail (R524). -/
inductive McWork where
  | frag (f : Nat)
  | gap
  | roundEnd (r : Nat)
deriving DecidableEq, Repr

/-- A campaign frame (R519): TYPE, and the node or (for a multicast frame) the sail that it goes to, with its fragment or round; `cell`
is its item once built. -/
structure CampFrame where
  typ : Nat
  node : Nat
  sail : Nat
  arg : Nat
  cell : Nat
deriving DecidableEq, Repr

/-- The campaign engine of a mast (R518–R530): chunks of the image received, the chunk being programmed and whether the hash runs; the wave
(nodes with their WSLOT), each slot's missing fragments, the ASN of WAVE_GO, whether the wave runs, the phase to resume; nodes that
reported since the last ROUND_END; multicast work per sail and the multicast chains; frames to build and frames in chains. -/
structure Camp where
  bits : Nat
  unrec : Nat
  prog : Option (Nat × List Nat)
  cell : Nat
  verifying : Bool
  wave : List (Nat × Nat)
  missing : Tbl Nat
  startAsn : Nat
  running : Bool
  resume : Nat
  roundOpen : Bool
  reported : List Nat
  mcWork : Tbl (List McWork)
  mcChain : Tbl Chain
  todo : List CampFrame
  sent : List CampFrame
deriving DecidableEq, Repr

/-- The campaign engine at reset. -/
def Camp.reset : Camp :=
  { bits := 0, unrec := 0, prog := none, cell := 0, verifying := false, wave := [], missing := [], startAsn := 0, running := false, resume := 0,
    roundOpen := false, reported := [], mcWork := [], mcChain := [], todo := [], sent := [] }

end Sys2Proof.Machine
end

