-- ==== Sys2Proof/Machine/State.lean ====
section
/-! DEFINITION. The whole state of a package as plain data, the reasons a step can stop, and the state after reset. -/

namespace Sys2Proof.Machine

/-- The package variants (R1): NLY-S2-E, NLY-S4-E and NLY-S8-E. -/
inductive Variant where
  | s2 | s4 | s8
deriving DecidableEq, Repr

/-- What leaves the package, crosses a connection or shows on a pin. -/
inductive Out where
  | packet (x : LinkPkt)
  | linkctl (src dst : Nat) (x : LinkCtl)
  | msix (mast vec : Nat)
  | pause (mast port : Nat) (on : Bool)
  | busError (mast req : Nat)
  | ethTx (mast port : Nat) (b : Body)
  | dma (mast addr : Nat) (words : List Nat) (b : Body)
  | tpo (mast o : Nat)
  | feSpi (sail word bits : Nat)
  | mgmt (status : Nat) (data : List Nat)
  | read (mast req : Nat) (words : List Nat)
  | scan (mast id : Nat)
deriving DecidableEq, Repr

/-- Why a step can stop with a fault.  No command of the table does: the spec gives each an effect, so nothing raises this (safe). -/
inductive Fault where
  /-- Raised by nothing; every command answers a next state. Safe. -/
  | unused
deriving DecidableEq, Repr

/-- Why a step can be refused. -/
inductive Refusal where
  /-- Raised by an arm of `exec` whose command has no meaning yet. Safe: the machine stops where the device goes on. -/
  | notModelled (mnemonic : String)
deriving DecidableEq, Repr

/-- A die's LOCAL clock (R62, R383): the instant (in half ns) at which it read 0, and the value at which it is held, if it is. -/
structure Clock where
  base : Nat
  held : Option Nat
deriving DecidableEq, Repr

/-- A far access not yet answered (R549–R552), or one that waits its turn (R551): its request number, the requester, the sail, whether
it writes, whether it is 64 bits wide, the sail page and offset, and the value written. -/
structure FarReq where
  tag : Nat
  req : Nat
  sail : Nat
  write : Bool
  wide : Bool
  page : Nat
  off : Nat
  value : Nat
deriving DecidableEq, Repr

/-- A commit or package snapshot under way (R554–R561): SEQ, the group mask, the snapshot number it carries, whether it lands on a tick,
the landing ASN once chosen, the sails whose COMMIT packet has left, the far writes it waits for, the dies on which it has landed, and
the ASN of the next tick at its GO. -/
structure CommitRun where
  seq : Nat
  mask : Nat
  snap : Option Nat
  tick : Bool
  landAsn : Option Nat
  sent : List Nat
  waitFar : List Nat
  landed : List Nat
  next : Nat
deriving DecidableEq, Repr

/-- A mast die, beside its registers: the node store, shared core memory by byte with the length of the executable section and the entry that the
boot ROM gave the cores (R24, R606, R610), the state of its engines, and what has been written to its peer's port pages (R538), by page
times 2^12 and offset. -/
structure Mast where
  nodes : Tbl NodeRec
  core : Tbl Nat
  execLen : Nat
  entry : Nat
  nt : NodeTab
  sal : Saltern
  hal : Halyard
  mac : Mac
  keys : KeyEng
  pair : Pair
  nv : Nv
  upd : Upd
  camp : Camp
  booting : Bool
  bootStep : Nat
  wdtAt : Nat
  far : List FarReq
  farHeld : List FarReq
  farSeq : Nat
  runs : List CommitRun
  prepared : List Prepared
  cmdSeq : Tbl Nat
  ringVecs : List Nat
  msixMask : List Nat
  pba : List Nat
  clk : Clock
  asn : Nat
  tickNow : Nat
  posTick : Int
  posPrev : Int
  asnPrev : Nat
  ticked : Bool
  imgHash : Nat
  rollback : Nat
  outCount : Tbl Nat
  outLog : List (Nat × Nat × Nat)
  heldEvents : List Event
  nextTick : Option (Nat × Nat)
  tickSent : Option Nat
  dutyCopy : Tbl Nat
  dutyRec : Option (Tbl Nat)
  doms : Tbl Dom
  meshStep : Option Int
  meshSet : Option Nat
  refSince : Tbl Nat
  relockRef : Option Nat
  tpoEnd : Tbl Nat
  tpoPol : Tbl Bool
  gates : Tbl Gate
  sluiceFrac : Tbl Nat
  sluiceLast : Tbl Nat
  shapeFrac : Tbl Nat
  rings : Tbl Ring
  ringTurn : Nat
  dmaCount : Tbl Nat
  dmaUnsent : List Nat
  thermHigh : Bool
  slotSel : Nat
  peerPorts : Tbl Nat
deriving DecidableEq, Repr

/-- A mast after its reset, its LOCAL clock reading 0 at the instant `now`. -/
def Mast.resetAt (now : Nat) : Mast :=
  { nodes := [], core := [], execLen := 0, entry := 0, nt := NodeTab.empty, sal := Saltern.reset, hal := Halyard.reset, mac := Mac.reset, keys := KeyEng.reset,
    pair := Pair.reset, nv := Nv.empty, upd := Upd.reset, camp := Camp.reset, booting := false, bootStep := 0, wdtAt := 0, far := [],
    farHeld := [], farSeq := 0, runs := [], prepared := [], cmdSeq := [], ringVecs := [], msixMask := List.range 64, pba := [],
    clk := ⟨now, none⟩, asn := 0, tickNow := 0, posTick := 0, posPrev := 0, asnPrev := 0, ticked := false, imgHash := 0, rollback := 0, outCount := [], outLog := [],
    heldEvents := [], nextTick := none, tickSent := none, dutyCopy := [], dutyRec := none, doms := [], meshStep := none, meshSet := none,
    refSince := [], relockRef := none, tpoEnd := [], tpoPol := [], gates := [], sluiceFrac := [], sluiceLast := [], shapeFrac := [], rings := [],
    ringTurn := 0, dmaCount := [], dmaUnsent := [], thermHigh := false, slotSel := 1, peerPorts := [] }

/-- The package: its variant; the instant `now` in half ns; the count of free values used; every register word and requester's copy (a word
that is not listed has its reset value); the two masts; the sails; the connections; the profile tables (active and pending); timers;
dies in debug halt; conversions under way; the state a transfer carries; the package's pins and power phase (0 held in reset, 1 waits
for a reference, 2 running); reefed mode; the test access ports; what has left, newest first; and the commands that wait. -/
structure State where
  variant : Variant
  now : Nat
  freeCtr : Nat
  regs : Tbl Word
  mastA : Mast
  mastB : Mast
  sails : Tbl Sail
  conns : Tbl Conn
  profAct : Tbl Nat
  profPend : Tbl Nat
  timerAt : Tbl Nat
  timerRem : Tbl Nat
  halted : List Nat
  convs : List (Nat × Nat)
  shadow : Option (Mast × Tbl Word)
  phase : Nat
  refValid : Bool
  browned : Bool
  testEn : Bool
  lowpwr : Bool
  reefed : Bool
  tap : Tbl Nat
  out : List Out
  pending : List Instr
deriving DecidableEq, Repr

/-- The package in reset, before feeds good: an NLY-S8-E (log entry 1), every register word at its reset value, nothing received, nothing
sent, and no command waiting. -/
def State.reset : State :=
  { variant := .s8, now := 0, freeCtr := 0, regs := [], mastA := Mast.resetAt 0, mastB := Mast.resetAt 0, sails := [], conns := [],
    profAct := [], profPend := [], timerAt := [], timerRem := [], halted := [], convs := [], shadow := none, phase := 0, refValid := false,
    browned := false, testEn := false, lowpwr := false, reefed := false, tap := [], out := [], pending := [] }

/-- Record `n` of the node store. -/
def Mast.node (M : Mast) (n : Nat) : NodeRec := Tbl.get (fun _ => NodeRec.zero) M.nodes n

/-- Write record `n` of the node store. -/
def Mast.setNode (M : Mast) (n : Nat) (r : NodeRec) : Mast := { M with nodes := Tbl.set (fun _ => NodeRec.zero) M.nodes n r }

/-- Byte `a` of shared core memory (R24, R606): an unlisted byte of the executable section is one of erased flash, any other is 0, as step 6 of
R603 leaves it.  While a wave runs, 4 MiB from 0x2_0000_0 on hold its bitmaps of missing fragments, 512 bytes a wave slot (R25). -/
def Mast.coreByte (M : Mast) (a : Nat) : Nat :=
  if M.camp.running ∧ 0x200000 ≤ a ∧ a < 0x600000 then
    Tbl.get (fun _ => 0) M.camp.missing ((a - 0x200000) / 512) / 2 ^ (8 * ((a - 0x200000) % 512)) % 256
  else Tbl.get (fun i => if i < M.execLen then 0xFF else 0) M.core a

/-- Write `n` bytes of shared core memory, least significant first. -/
def Mast.setCore (M : Mast) (a n v : Nat) : Mast :=
  { M with core := (List.range n).foldl (fun t i => Tbl.set (fun j => if j < M.execLen then 0xFF else 0) t (a + i) (v / 2 ^ (8 * i) % 256)) M.core }

/-- LOCAL of mast `m` in ns (R383). -/
def State.localNs (s : State) (m : Nat) : Nat :=
  let c := (if m = 0 then s.mastA else s.mastB).clk
  match c.held with
  | some t => t
  | none => (s.now - c.base) / 2

end Sys2Proof.Machine
end

