-- ==== Sys2Proof/Machine/Ops.lean ====
section
/-! DEFINITION. The named operations over the register store: words, fields, counters, event bits, privilege and the checks
every software access passes (R535–R548, R442–R444, R563–R564). -/

namespace Sys2Proof.Machine

/-! ## Fields of a word -/

/-- Bits `hi`:`lo` of a word. -/
def fieldOf (w : Word) (hi lo : Nat) : Nat := w.toNat / 2 ^ lo % 2 ^ (hi + 1 - lo)

/-- The word with bits `hi`:`lo` replaced by `v`. -/
def withField (w : Word) (hi lo v : Nat) : Word :=
  Word.ofNat (w.toNat / 2 ^ (hi + 1) * 2 ^ (hi + 1) + v % 2 ^ (hi + 1 - lo) * 2 ^ lo + w.toNat % 2 ^ lo)

/-- Two's complement value of an `n`-bit number. -/
def signed (n v : Nat) : Int := if v % 2 ^ n < 2 ^ (n - 1) then (v % 2 ^ n : Nat) else (v % 2 ^ n : Nat) - (2 ^ n : Nat)

/-- The `n`-bit two's complement number of an integer. -/
def unsigned (n : Nat) (v : Int) : Nat := (v % (2 ^ n : Nat)).toNat

/-- The signed `n`-bit difference `a − b` of two counts that wrap (R37). -/
def sdiff (n a b : Nat) : Int := signed n ((a + 2 ^ n - b % 2 ^ n) % 2 ^ n)

/-! ## Register keys -/

/-- The key of the word at `addr` (page · 4096 + offset) of die `d`. -/
def key (d addr : Nat) : Nat := d * 2 ^ 24 + addr

/-- The key of requester `r`'s copy of a banked word. -/
def bankKey (r d addr : Nat) : Nat := (r + 1) * 2 ^ 28 + key d addr

/-- The die of a key. -/
def keyDie (k : Nat) : Nat := k / 2 ^ 24 % 16
/-- The page of a key. -/
def keyPage (k : Nat) : Nat := k / 4096 % 4096
/-- The offset of a key. -/
def keyOff (k : Nat) : Nat := k % 4096

/-- What a word reads before anything has written it (R539, R541 and the reset columns of the register tables).  A pending
copy holds its active register's reset value (R553), a snapshot copy 0. -/
def resetWord (k : Nat) : Word :=
  let d := keyDie k
  let page := keyPage k
  let off := if 0x800 ≤ keyOff k ∧ keyOff k < 0xC00 then keyOff k - 0x800 else keyOff k
  if off = 0x000 then Word.ofNat (d * 2 ^ 29 + (if d < 2 then 0 else 2 ^ 28) + page)
  else if off = 0x004 then Word.ofNat 0x100
  else if off = 0x020 then Word.ofNat (if d < 2 then mastGroup page else sailGroup page)
  else if d < 2 ∧ page = 0x004 ∧ off = 0x400 then
    Word.ofNat ((if d = 0 then 2 ^ 31 else 0) + d % 8 * 2 ^ 16)
  else match rowOf d page off with
    | some (r, i) => Word.ofNat (runAt r.runs i)
    | none => 0

/-! ## The register store -/

/-- The word at key `k`. -/
def State.word (s : State) (k : Nat) : Word := Tbl.get resetWord s.regs k

/-- Write the word at key `k`. -/
def State.setWord (s : State) (k : Nat) (w : Word) : State := { s with regs := Tbl.set resetWord s.regs k w }

/-- A field's active or live value on die `d`. -/
def State.get (s : State) (d : Nat) (f : Fld) : Nat := fieldOf (s.word (key d f.addr)) f.hi f.lo

/-- Whether a one-bit field is 1. -/
def State.bit (s : State) (d : Nat) (f : Fld) : Bool := s.get d f != 0

/-- A field as a signed number. -/
def State.getS (s : State) (d : Nat) (f : Fld) : Int := signed (f.hi + 1 - f.lo) (s.get d f)

/-- Write a field on die `d`, as hardware does. -/
def State.put (s : State) (d : Nat) (f : Fld) (v : Nat) : State :=
  s.setWord (key d f.addr) (withField (s.word (key d f.addr)) f.hi f.lo v)

/-- A field of requester `r`'s banked copy. -/
def State.bget (s : State) (r d : Nat) (f : Fld) : Nat := fieldOf (s.word (bankKey r d f.addr)) f.hi f.lo

/-- Write a field of requester `r`'s banked copy. -/
def State.bput (s : State) (r d : Nat) (f : Fld) (v : Nat) : State :=
  s.setWord (bankKey r d f.addr) (withField (s.word (bankKey r d f.addr)) f.hi f.lo v)

/-- A 64-bit value held in two words, the second at the next address. -/
def State.get64 (s : State) (d : Nat) (f : Fld) : Nat :=
  (s.word (key d f.addr)).toNat + 2 ^ 32 * (s.word (key d (f.addr + 4))).toNat

/-- Write a 64-bit value to two words. -/
def State.put64 (s : State) (d : Nat) (f : Fld) (v : Nat) : State :=
  (s.setWord (key d f.addr) (Word.ofNat v)).setWord (key d (f.addr + 4)) (Word.ofNat (v / 2 ^ 32))

/-- A 64-bit value of requester `r`'s banked copy. -/
def State.bget64 (s : State) (r d : Nat) (f : Fld) : Nat :=
  (s.word (bankKey r d f.addr)).toNat + 2 ^ 32 * (s.word (bankKey r d (f.addr + 4))).toNat

/-- Write a 64-bit value of requester `r`'s banked copy. -/
def State.bput64 (s : State) (r d : Nat) (f : Fld) (v : Nat) : State :=
  (s.setWord (bankKey r d f.addr) (Word.ofNat v)).setWord (bankKey r d (f.addr + 4)) (Word.ofNat (v / 2 ^ 32))

/-- A counter rises by `n`, saturating at 0xFFFF_FFFF (R59 and every counter table). -/
def State.count (s : State) (d : Nat) (f : Fld) (n : Nat) : State := s.put d f (min (s.get d f + n) (2 ^ (f.hi + 1 - f.lo) - 1))

/-- A counter rises by 1, saturating. -/
def State.bump (s : State) (d : Nat) (f : Fld) : State := s.count d f 1

/-- Raise a high-water mark to `v` when `v` exceeds it. -/
def State.raise (s : State) (d : Nat) (f : Fld) (v : Nat) : State := if s.get d f < v then s.put d f v else s

/-- The minute of mast `m`'s duty bookkeeping: its LOCAL minute, from a base of 2^20, so that minutes before a restart can be named (R231). -/
def State.dutyMinute (s : State) (m : Nat) : Nat := 2 ^ 20 + s.localNs m / 60000000000

/-- The next free value (log entry 2), and the state that has used it. -/
def State.free (s : State) : Nat × State := (Config.freeValue s.freeCtr, { s with freeCtr := s.freeCtr + 1 })

/-! ## Dies -/

/-- Whether die `d` is fitted (R1, R2). -/
def State.fitted (s : State) (d : Nat) : Bool :=
  match s.variant with
  | .s2 => d == 0 || d == 2
  | .s4 => d < 4
  | .s8 => d < 8

/-- Whether the package is redundant (R1). -/
def State.redundant (s : State) : Bool := s.variant != .s2

/-- The count of fitted sails (R1). -/
def State.sailCount (s : State) : Nat :=
  match s.variant with
  | .s2 => 1
  | .s4 => 2
  | .s8 => 6

/-- The fitted sails. -/
def State.sailList (s : State) : List Nat := List.range s.sailCount

/-- The die of sail `k` (R2). -/
def sailDie (k : Nat) : Nat := k + 2

/-- The number under which mast `m` keeps its copy of the configuration of sail `k` (R154, R211): `keyDie` of it is the sail's die. -/
def copyDie (m k : Nat) : Nat := 1024 * (m + 1) + k + 2

/-- The sail of its die or of a mast's copy of it. -/
def dieSail (d : Nat) : Nat := d % 16 - 2

/-- The active mast (R464, R465, R481): the mast whose ROLE votes active, and of two such the one of higher EPOCH. -/
def State.active (s : State) : Nat :=
  if s.redundant ∧ s.bit 1 F.PAIR_ROLE_ACTIVE
      ∧ (s.bit 0 F.PAIR_ROLE_ACTIVE = false ∨ s.get 0 F.PAIR_ROLE_EPOCH < s.get 1 F.PAIR_ROLE_EPOCH)
  then 1 else 0

/-- The mast record of mast `m` (0 A, 1 B). -/
def State.mast (s : State) (m : Nat) : Mast := if m = 0 then s.mastA else s.mastB

/-- Replace mast `m`. -/
def State.setMast (s : State) (m : Nat) (x : Mast) : State := if m = 0 then { s with mastA := x } else { s with mastB := x }

/-- Something leaves the package or shows on a pin: recorded, newest first. -/
def State.emit (s : State) (o : Out) : State := { s with out := o :: s.out }

/-! ## Tatrum connections (R14–R22)

Connection `8 m + k` joins mast `m` to sail `k`; connection 6 joins the two masts. -/

/-- Several things leave, oldest first. -/
def State.emitAll (s : State) (l : List Out) : State := { s with out := l.reverse ++ s.out }

/-- The number of the connection of mast `m` that its TATRUM page numbers `k` (R572). -/
def connId (m k : Nat) : Nat := if k = 6 then 6 else 8 * m + k

/-- Connection `c`. -/
def State.conn (s : State) (c : Nat) : Conn := Tbl.get (fun _ => Conn.reset) s.conns c

/-- Replace connection `c`. -/
def State.setConn (s : State) (c : Nat) (x : Conn) : State := { s with conns := Tbl.set (fun _ => Conn.reset) s.conns c x }

/-- One direction of a connection: `true` towards the mast (or from mast B to mast A). -/
def Conn.dir (x : Conn) (up : Bool) : Dir := if up then x.up else x.down

/-- Replace one direction of a connection. -/
def Conn.setDir (x : Conn) (up : Bool) (d : Dir) : Conn := if up then { x with up := d } else { x with down := d }

/-- Flits that a receiver holds per VC (R18). -/
def vcFlits (c : Nat) : Nat := if c = 6 then 256 else 64

/-- The sending die of a direction. -/
def sendDie (c : Nat) (up : Bool) : Nat := if c = 6 then (if up then 1 else 0) else if up then c % 8 + 2 else c / 8

/-- The receiving die of a direction. -/
def recvDie (c : Nat) (up : Bool) : Nat := sendDie c (!up)

/-- Credits of a VC (R18). -/
def Dir.credit (d : Dir) (c vc : Nat) : Nat := Tbl.get (fun _ => vcFlits c) d.credits vc

/-- Send the waiting packets of a direction whose VC has credit, each VC in order (R18, R19): a VC that stalls does not hold
another.  Answers the direction and the packets sent, oldest first. -/
def Dir.pump (c : Nat) : List Pkt → List Nat → Dir → Dir × List Sent
  | [], _, d => (d, [])
  | p :: ps, stalled, d =>
    if stalled.contains p.vc ∨ d.credit c p.vc < 4 then
      let r := Dir.pump c ps (p.vc :: stalled) d
      ({ r.1 with waiting := p :: r.1.waiting }, r.2)
    else
      let x : Sent := ⟨d.txSeq, p⟩
      let d1 := { d with txSeq := (d.txSeq + 1) % 4096, out := d.out ++ [x],
                         credits := Tbl.set (fun _ => vcFlits c) d.credits p.vc (d.credit c p.vc - 4) }
      let r := Dir.pump c ps stalled d1
      (r.1, x :: r.2)

/-- Send what a direction of connection `c` can send now; nothing while the connection is not UP (R22). -/
def State.pump (s : State) (c : Nat) (up : Bool) : State :=
  let x := s.conn c
  if x.state ≠ 2 then s
  else
    let d := x.dir up
    let r := Dir.pump c d.waiting [] { d with waiting := [] }
    (s.setConn c (x.setDir up r.1)).emitAll (r.2.map (fun y => .packet (y.pkt.onLink (sendDie c up) (recvDie c up) y.seq)))

/-- Offer packets to a direction of connection `c`; a FAILED connection discards them (R22). -/
def State.sendOn (s : State) (c : Nat) (up : Bool) (ps : List Pkt) : State :=
  let x := s.conn c
  if x.state = 3 then s
  else
    let d := x.dir up
    (s.setConn c (x.setDir up { d with waiting := d.waiting ++ ps })).pump c up

/-- A LINKCTL of the receiver of direction `up` of connection `c` (R17, R21): ACKSEQ, NAK, and the flits freed on each VC since the
last, at most 255 of a VC in one LINKCTL. -/
def State.sendLinkctl (s : State) (c : Nat) (up : Bool) : State :=
  let x := s.conn c
  let d := x.dir up
  let told := (List.range 4).map (fun v => min 255 (Tbl.get (fun _ => 0) d.freed v))
  let left := (List.range 4).foldl (fun t v => Tbl.set (fun _ => 0) t v (Tbl.get (fun _ => 0) d.freed v - told.getD v 0)) []
  (s.setConn c (x.setDir up { d with nak := false, freed := left })).emit
    (.linkctl (recvDie c up) (sendDie c up) (LinkCtl.make ((d.rxSeq + 4095) % 4096) d.nak told))

/-- The receiver of direction `up` of connection `c` takes one packet (R16, R20, R21): a bad CRC (CRC_ERR) or a SEQ out of order is
discarded with a NAK; a packet in order is acknowledged and its flits are freed, and one with a reserved TYPE or on the wrong VC is then
discarded as a protocol error.  Answers whether it was in order and whether it stands. -/
def State.takePkt (s : State) (c : Nat) (up : Bool) (p : LinkPkt) : (Bool × Bool) × State :=
  let x := s.conn c
  let d := x.dir up
  let die := recvDie c up
  let k := c % 8
  if p.good = false ∨ p.seq ≠ d.rxSeq then
    let s1 := s.setConn c (x.setDir up { d with nak := true })
    let s2 := if p.good = false ∧ die < 2 then s1.bump die (F.TATRUM_CRC_ERR.at 16 k) else s1
    ((false, false), s2.sendLinkctl c up)
  else
    let d1 := { d with rxSeq := (d.rxSeq + 1) % 4096,
                       freed := Tbl.set (fun _ => 0) d.freed p.p.vc (Tbl.get (fun _ => 0) d.freed p.p.vc + 4) }
    let s1 := (s.setConn c (x.setDir up d1)).sendLinkctl c up
    if pktVc p.p.typ = some p.p.vc then ((true, true), s1)
    else ((true, false), if die < 2 then s1.bump die (F.TATRUM_PROTO_ERR.at 16 k) else s1)

/-- The receiver takes packets of a message of TYPE `typ` in turn (R16, R20): once one is not in order, it and all later ones are
discarded.  Answers whether the message is whole: every packet stood, and its last was among them. -/
def State.takePkts (s : State) (c : Nat) (up : Bool) (typ : Nat) : List LinkPkt → Bool × State
  | [] => (false, s)
  | p :: ps =>
    let r := s.takePkt c up p
    if r.1.1 = false then (false, r.2)
    else
      let ok := r.1.2 && p.p.typ == typ
      match ps with
      | [] => (ok && (p.p.pos == 0 || p.p.pos == 3), r.2)
      | _ :: _ =>
        let q := r.2.takePkts c up typ ps
        (ok && q.1, q.2)

/-- What the receiver of direction `up` of connection `c` makes of packets of a message of TYPE `typ` (R16, R17, R20–R22): whether the
message is delivered.  A connection that is not UP receives nothing. -/
def State.receive (s : State) (c : Nat) (up : Bool) (typ : Nat) (h : List LinkPkt) : Bool × State :=
  if (s.conn c).state ≠ 2 then (false, s) else s.takePkts c up typ h

/-- A message from sail `k` to its master, on VC1 or VC3: nothing without a master (R485), else to the master alone (R486). -/
def State.sailSend (s : State) (k : Nat) (ps : List Pkt) : State :=
  let d := sailDie k
  if s.bit d F.SSTAT_MASTER_VALID then s.sendOn (connId (s.get d F.SSTAT_MASTER_DIE) k) true ps else s

/-- An EVENT message of sail `k` (R16) with a payload of `bytes`: its TAG is the sail's event sequence. -/
def State.sailEvent (s : State) (k : Nat) (bytes : List Nat) : State :=
  let x := Tbl.get (fun _ => Sail.reset) s.sails k
  if s.bit (sailDie k) F.SSTAT_MASTER_VALID then
    { s with sails := Tbl.set (fun _ => Sail.reset) s.sails k { x with evSeq := (x.evSeq + 1) % 2 ^ 32 } }.sailSend k
      (message 0x0A x.evSeq bytes)
  else s

/-! ## Event bits and vectors (R541, R542, R563, R564) -/

/-- Whether page `p` of die `d` is pending: IRQ_STATUS AND IRQ_ENABLE is not zero (R563). -/
def State.pagePending (s : State) (d p : Nat) : Bool :=
  (s.word (key d (p * 4096 + 0x010)) &&& s.word (key d (p * 4096 + 0x014))) != 0

/-- The vector of page `p` (R564). -/
def State.routeOf (s : State) (d p : Nat) : Nat := fieldOf (s.word (key d (0x003080 + 4 * (p / 4)))) (8 * (p % 4) + 5) (8 * (p % 4))

/-- The vector of sail `k` (R564). -/
def State.sailRouteOf (s : State) (d k : Nat) : Nat :=
  fieldOf (s.word (key d (0x003100 + 4 * (k / 4)))) (8 * (k % 4) + 5) (8 * (k % 4))

/-- The mast pages that can be pending. -/
def irqPages : List Nat := mastPages.filter (fun p => p < 0x080)

/-- Whether vector `v` is pending on mast `m`: some page or sail routed to it is (R564), or some host ring (R589). -/
def State.vecPending (s : State) (m v : Nat) : Bool :=
  irqPages.any (fun p => s.routeOf m p == v && s.pagePending m p)
    || s.sailList.any (fun k => s.sailRouteOf m k == v && s.get m F.IRQ_SAIL_PEND_SAILS / 2 ^ k % 2 == 1)
    || (s.mast m).ringVecs.contains v

/-- Vector `v` has become pending: with HOST set, the active mast sends its MSI-X message, or sets its PBA bit when it is
masked (R564, R589). -/
def State.vecSend (s : State) (m v : Nat) : State :=
  if s.active = m ∧ s.get m (F.IRQ_VEC_TARGET_HOST.at 4 v) = 1 then
    if (s.mast m).msixMask.contains v then s.setMast m { s.mast m with pba := (s.mast m).pba.insert v }
    else (s.bump m F.IRQ_MSIX_SENT).emit (.msix m v)
  else s

/-- The pages of a sail that are pending, as an OR (R563). -/
def State.sailPending (s : State) (d : Nat) : Bool := sailPages.any (fun p => s.pagePending d p)

/-- Send what a change of the pending sources asks for: `before` is the state before the change.  On a mast, the vector of
page `p`; on a sail, an EVENT packet when the OR of its pages changes (R563, R564). -/
def State.irqEdge (before s : State) (d p : Nat) : State :=
  if d < 2 then
    let v := s.routeOf d p
    if s.vecPending d v ∧ before.vecPending d v = false then s.vecSend d v else s
  else if s.sailPending d = before.sailPending d then s
  else s.sailEvent (d - 2) [0xE0, if s.sailPending d then 1 else 0]

/-- Hardware sets IRQ_STATUS bit `b` of page `p` of die `d` (R541, R542). -/
def State.irq (s : State) (d p b : Nat) : State :=
  let k := key d (p * 4096 + 0x010)
  State.irqEdge s (s.setWord k (s.word k ||| Word.ofNat (2 ^ b))) d p

/-- Hardware sets bit `b` of a W1C word. -/
def State.setBit (s : State) (d addr b : Nat) : State := s.setWord (key d addr) (s.word (key d addr) ||| Word.ofNat (2 ^ b))

/-! ## Software accesses (R442–R444, R535–R548) -/

/-- Requesters: 0–15 the cores, 16 the host, 17 the management port, 18 the far pair or the peer mast (R541). -/
abbrev Req := Nat

/-- PROXY.CTX of core `r` (R449): 0–3 or 8–11, and any other value acts as 0. -/
def State.proxyCtx (s : State) (m : Nat) (r : Req) : Nat :=
  let c := s.bget r m F.SESSION_PROXY_CTX
  if c < 4 ∨ (8 ≤ c ∧ c < 12) then c else 0

/-- The context a requester's accesses are checked against (R442). -/
def State.ctxOf (s : State) (m : Nat) (r : Req) : Nat :=
  if r = 16 then 4 else if r = 17 then 5
  else if s.bget r m F.SESSION_PROXY_EN = 1 then s.proxyCtx m r else 6

/-- Whether WAIT_ACK holds (R440): tamper records outnumber acknowledgement fuses. -/
def State.waitAck (s : State) (m : Nat) : Bool := decide (s.get m F.TAMPER_RECORDS_ACKS < s.get m F.TAMPER_RECORDS_COUNT)

/-- Session context `ctx` of mast `m`. -/
def State.session (s : State) (m ctx : Nat) : Session := Tbl.get (fun _ => ⟨false, 0, 0⟩) (s.mast m).keys.sessions ctx

/-- A context's privilege level, 0 NONE to 3 OWNER (R443): that of its session; without one NONE, or OPERATE for context 6, which is at NONE
while WAIT_ACK holds. -/
def State.privOf (s : State) (m ctx : Nat) : Nat :=
  let x := s.session m ctx
  if ctx = 6 ∧ s.waitAck m then 0 else if x.isOpen then x.level else if ctx = 6 then 2 else 0

/-- The page whose minima a page takes (R443): array pages take those of their block page. -/
def blockPage (p : Nat) : Nat :=
  if p < 0x080 then p else if p < 0x110 then 0x011 else if p < 0x114 then 0x010 else if p < 0x122 then 0x038 else 0x028

/-- The read minimum of a mast page (R443, R449). -/
def State.readMin (s : State) (m p : Nat) : Nat :=
  let q := blockPage p
  fieldOf (s.word (key m (0x0020C0 + 4 * (q / 8)))) (4 * (q % 8) + 1) (4 * (q % 8))

/-- The write minimum of a mast page (R443, R449). -/
def State.writeMin (s : State) (m p : Nat) : Nat :=
  let q := blockPage p
  fieldOf (s.word (key m (0x0020C0 + 4 * (q / 8)))) (4 * (q % 8) + 3) (4 * (q % 8) + 2)

/-- The four SESSION registers that any level may write (R443): REQ, RESP, PW and CTL. -/
def sessionOpenWrite (page off : Nat) : Bool := page == 0x002 && (decide (0x044 ≤ off) && decide (off < 0x0AC))

/-- The two SESSION registers that any level may read (R443): NONCE and STATE. -/
def sessionOpenRead (page off : Nat) : Bool := page == 0x002 && (decide (0x400 ≤ off) && decide (off < 0x424))

/-- Record an error of an access in the page's STATUS and, when none is held, in ERR_CAPTURE (R541). -/
def State.capture (s : State) (d page statusBit cause req off : Nat) : State :=
  let s1 := s.setBit d (page * 4096 + 0x00C) statusBit
  if s1.get d (F.HDR_ERR_CAPTURE_VALID.page page) = 1 then s1
  else s1.setWord (key d (page * 4096 + 0x01C)) (Word.ofNat (2 ^ 31 + cause % 8 * 2 ^ 28 + req % 32 * 2 ^ 23 + off % 4096))

/-- A denied access (R444). -/
def State.deny (s : State) (m page off : Nat) (r : Req) (write : Bool) : State :=
  ((s.capture m page 2 5 r off).bump m (if write then F.SESSION_DENIED_W else F.SESSION_DENIED_R)).irq m 0x002 1

/-- An access to an address that names no mast or page (R537). -/
def State.unmapped (s : State) (m : Nat) (addr : Nat) : State :=
  (s.put m F.SYS_BUS_ERR_ADDR addr).bump m F.SYS_UNMAPPED

/-- Whether an access of privilege-checked kind passes (R443). -/
def State.allowed (s : State) (m page off : Nat) (r : Req) (write : Bool) : Bool :=
  if write then sessionOpenWrite page off || decide (s.writeMin m page ≤ s.privOf m (s.ctxOf m r))
  else sessionOpenRead page off || decide (s.readMin m page ≤ s.privOf m (s.ctxOf m r))

/-- Whether recovery hides a page of mast `m` from requester `r` (R609): the host and the management port reach only SYS, SESSION and
FLASH. -/
def State.hidden (s : State) (m page : Nat) (r : Req) : Bool :=
  (r == 16 || r == 17) && s.bit m F.FLASH_BOOT_RECOVERY && !(page == 0x000 || page == 0x002 || page == 0x043)

/-- A software access that acts through the access itself (R544): privilege (R444), then full width (ACCERR with CAUSE 1 when
narrower), then `act`.  A 64-bit access of an 8-aligned 32-bit register acts on it; of another one it is unaligned (R545). -/
def State.action (s : State) (m page off : Nat) (r : Req) (write : Bool) (width full : Nat) (act : State → State) : State :=
  if s.fitted m = false ∨ 2 ≤ m then s.unmapped 0 (m % 4 * 2 ^ 22 + page * 4096 + off % 4096)
  else if s.hidden m page r then s.unmapped m (m % 4 * 2 ^ 22 + page * 4096 + off % 4096)
  else if s.allowed m page off r write = false then s.deny m page off r write
  else if width = 8 ∧ full = 4 ∧ off % 8 ≠ 0 then s.capture m page 0 2 r off
  else if width < full then s.capture m page 0 1 r off
  else act s

/-- Another write refused with LOCKV and CAUSE 3 (R546). -/
def State.lockv (s : State) (d page off : Nat) (r : Req) : State := s.capture d page 1 3 r off

end Sys2Proof.Machine
end

