-- ==== Sys2Proof/Machine/Mirror.lean ====
section
/-! DEFINITION. Inputs of a redundant pair: when the active mast mirrors, the MIRROR message of an input, and the writes of the
host and the management port, which are inputs (R434, R467–R470, R479). -/

namespace Sys2Proof.Machine

/-- PAIR.STATE.STATE of mast `m` (R466). -/
def State.pairState (s : State) (m : Nat) : Nat := s.get m F.PAIR_STATE_STATE

/-- Whether the active mast mirrors its inputs: its peer is a jury that executes them (IN_STEP, DIVERGED) or takes them into
its input buffer (the final pass and the catch-up of a transfer, R487). -/
def State.mirroring (s : State) : Bool :=
  let a := s.active
  s.redundant && (s.pairState a == 1 || s.pairState a == 3
    || (s.pairState a == 2 && decide (2 ≤ s.get a F.PAIR_XFER_STATUS_PHASE)))

/-- The MIRROR message of an input numbered `n` (R468): KIND, the source's port code and T_OFF (10 ns units from the slot's tick) in the header
of its first packet, STAMP, and the content; SLOT_END adds INSEQ bits 63:32 and the LOCAL time of the tick. -/
def State.mirrorMsg (s : State) (m n : Nat) (i : Input) (stamp : Nat) : List Pkt :=
  let off := (s.localNs m - (s.mast m).tickNow) / 10 % 2 ^ 21
  match i with
  | .slotEnd _ => messageX 0x0B (n % 2 ^ 32) (i.kind * 2 ^ 25 + 15 * 2 ^ 21 + off) (List.replicate 6 0 ++ i.content ++ leBytes 4 (n / 2 ^ 32) ++ leBytes 8 stamp)
  | _ => messageX 0x0B (n % 2 ^ 32) (i.kind * 2 ^ 25 + i.port % 16 * 2 ^ 21 + off) (leBytes 6 stamp ++ i.content)

/-- Accept an input on mast `m` (R467–R469): the active mast of a pair that mirrors gives it the next INSEQ and sends the jury
its MIRROR message; while the mast–mast connection is not UP it accepts none, and its producer is held. -/
def State.mirror (s : State) (m : Nat) (i : Input) (stamp : Nat) : Option State :=
  if s.mirroring = false ∨ m ≠ s.active then some s
  else if (s.conn 6).state ≠ 2 then none
  else
    let P := (s.mast m).pair
    let n := P.inseq + 1
    let s1 := (s.setMast m { s.mast m with pair := { P with inseq := n } }).put64 m F.PAIR_INSEQ_SEQ n
    some ((s1.bump m F.PAIR_MIRRORED).sendOn 6 (decide (m = 1)) (s.mirrorMsg m n i stamp))

/-- An input without an item met at mast `m` (R467, R490): the active mast mirrors it and executes it by `f`; a jury that takes the active
mast's inputs leaves its own alone. -/
def State.input (s : State) (m : Nat) (i : Input) (f : State → State) : State :=
  if s.mirroring ∧ m ≠ s.active then s
  else match s.mirror m i 0 with
    | some t => f t
    | none => s

/-- Whether a page is a port page (R538): ETH0–ETH3 and the gate list pages. -/
def portPage (page : Nat) : Bool := (decide (0x049 ≤ page) && decide (page < 0x04D)) || (decide (0x130 ≤ page) && decide (page < 0x138))

/-- Mast `1 - m` records a write to a port page of mast `m` (R538). -/
def State.recordPort (s : State) (m page off value : Nat) : State :=
  let M := s.mast (1 - m)
  s.setMast (1 - m) { M with peerPorts := Tbl.set (fun _ => 0) M.peerPorts (page * 4096 + off) value }

/-- A register write by requester `r` (R467, R470, R538): in a pair that is IN_STEP, in TRANSFER or DIVERGED a write of the host or of the
management port is an input, carried to the active mast and mirrored; a port page's port is that of the mast named.  Any other write
takes place on mast `m`, where 2 stands for the active mast (R536). -/
def State.hostOn (s : State) (m r page off width value : Nat) (body : Body) (f : Nat → State → State) : State :=
  let m := if m = 2 then s.active else m
  let st := s.pairState s.active
  if (r = 16 ∨ r = 17) ∧ m < 2 ∧ s.redundant ∧ (st = 1 ∨ st = 2 ∨ st = 3) then
    let a := s.active
    match s.mirror a (.regWrite r page off width value body) 0 with
    | some t => if portPage page then (f m t).recordPort m page off value else f a t
    | none => s
  else f m s

/-- One DRBG output of `2 ^ bits` values delivered by mast `m` (R434): the jury takes the mirrored value; otherwise it is a
fresh value of the entropy source, mirrored as an input. -/
def State.draw (s : State) (m bits : Nat) : Nat × State :=
  let P := (s.mast m).pair
  match P.drbgIn with
  | v :: rest =>
    if m = s.active then let x := s.free
                         (x.1 % 2 ^ bits, (x.2.mirror m (.drbg (x.1 % 2 ^ bits)) 0).getD x.2)
    else (v % 2 ^ bits, s.setMast m { s.mast m with pair := { P with drbgIn := rest } })
  | [] => let x := s.free
          (x.1 % 2 ^ bits, (x.2.mirror m (.drbg (x.1 % 2 ^ bits)) 0).getD x.2)

/-- Self-check faults of mast `m`, a set of bits of R475, are latched and raised. -/
def State.selfFaults (s : State) (m bits : Nat) : State :=
  let w := s.get m F.PAIR_STATE_SELF_FAULT
  let n := w ||| bits
  if n = w then s else (s.put m F.PAIR_STATE_SELF_FAULT n).irq m 0x004 6

end Sys2Proof.Machine
end

