-- ==== Sys2Proof/Machine/Feeds.lean ====
section
/-! DEFINITION. The two power feeds (R489, R490, R496, R497). -/

namespace Sys2Proof.Machine

/-- FEED.LOW_V in effect: 3 000 to 3 500 mV, the nearest bound outside (R496). -/
def State.lowV (s : State) (m : Nat) : Nat := max 3000 (min 3500 (s.get m F.FEED_LOW_V_MV))

/-- STATE of feed `f` (R496): 0 GOOD, 1 LOW, 2 LOST, 3 OVP. -/
def State.feedState (s : State) (m f : Nat) : Nat := s.get m (F.FEED_STAT_STATE.at 4 f)

/-- FEED.BUS.SINGLE follows the two states (R490): one path alone carries the load; entries are counted in TRANSFERS. -/
def State.feedSingle (s : State) (m : Nat) : State :=
  let up (f : Nat) : Bool := decide (s.feedState m f < 2)
  let one := up 0 != up 1
  let s1 := s.put m F.FEED_BUS_SINGLE (if one then 1 else 0)
  if one ∧ s.get m F.FEED_BUS_SINGLE = 0 then s1.bump m F.FEED_TRANSFERS else s1

/-- Feed `f` enters a state (R490): counted and raised; LOW 1, LOST 2, OVP 3. -/
def State.feedEnter (s : State) (m f st : Nat) : State :=
  if s.feedState m f = st then s
  else
    let s1 := (s.put m (F.FEED_STAT_STATE.at 4 f) st).feedSingle m
    match st with
    | 1 => (s1.bump m (F.FEED_LOW.at 12 f)).irq m 0x005 0
    | 2 => (s1.bump m (F.FEED_LOST.at 12 f)).irq m 0x005 1
    | 3 => (s1.bump m (F.FEED_OVP.at 12 f)).irq m 0x005 3
    | _ => s1.irq m 0x005 2

/-- A sample of feed `f` on mast `m` (R490): its voltage (mV), its current (10 mA) and the bus voltage.  A feed falls to LOW or
LOST at once; it returns to GOOD only by FEED_RESTORED. -/
def State.feedSample (s : State) (m f v i bus : Nat) : State :=
  let s1 := ((s.put m (F.FEED_STAT_V.at 4 f) v).put m (F.FEED_STAT_I.at 4 f) i).put m F.FEED_BUS_V bus
  let st := s1.feedState m f
  if v < 2800 then s1.feedEnter m f 2
  else if v < s1.lowV m ∧ st ≠ 2 ∧ st ≠ 3 then s1.feedEnter m f 1
  else if st = 2 then s1.feedEnter m f 1
  else s1

/-- FEED_SAMPLE (R490). -/
def execFeedSample (m f v i bus : Nat) (s : State) : Host.Outcome State Fault Refusal :=
  .next (
    if 2 ≤ f ∨ s.fitted m = false ∨ 2 ≤ m then s
    else s.input m (.data 0 f (v * 2 ^ 24 + i * 2 ^ 12 + bus)) (fun t => t.feedSample m f v i bus))

/-- FEED_RESTORED (R490): feed `f` has been at or above LOW_V + 50 mV for 10 ms. -/
def execFeedRestored (m f : Nat) (s : State) : Host.Outcome State Fault Refusal :=
  .next (
    if 2 ≤ f ∨ s.fitted m = false ∨ 2 ≤ m ∨ s.get m (F.FEED_STAT_V.at 4 f) < s.lowV m + 50 then s
    else s.input m (.data 1 f 0) (fun t => t.feedEnter m f 0))

/-- FEED_LOSS (R489): the ideal-diode path of feed `f` blocks, and the other feed carries the load. -/
def execFeedLoss (m f : Nat) (s : State) : Host.Outcome State Fault Refusal :=
  .next (
    if 2 ≤ f ∨ s.fitted m = false ∨ 2 ≤ m then s
    else s.input m (.data 1 f 2) (fun t => t.feedEnter m f 2))

/-- FEED_OVP (R489): feed `f` above 3.9 V is isolated. -/
def execFeedOvp (m f : Nat) (s : State) : Host.Outcome State Fault Refusal :=
  .next (
    if 2 ≤ f ∨ s.fitted m = false ∨ 2 ≤ m then s
    else s.input m (.data 1 f 3) (fun t => t.feedEnter m f 3))

end Sys2Proof.Machine
end

