-- ==== Sys2Proof/Machine/Saltern.lean ====
section
/-! DEFINITION. The Saltern: cells, items, queues, chains, admission, producers held, pushes and pops (R312–R336, R668),
and the event reports of queue 128. -/

namespace Sys2Proof.Machine

/-- Cells that `b` data bytes take (R312). -/
def cellsFor (b : Nat) : Nat := 1 + (b - 112 + 127) / 128

/-- Free cells on the brine list (R314). -/
def Saltern.brine (S : Saltern) : Nat := (131072 - S.fresh) + S.freed.length

/-- `shared_free` of R322; negative after a splice beyond it (R324). -/
def Saltern.sharedFree (S : Saltern) : Int := (S.brine : Int) - (S.resIdle : Int)

/-- Queue `q`. -/
def Saltern.queue (S : Saltern) (q : Nat) : Queue := Tbl.get queueReset S.queues q

/-- Replace queue `q`. -/
def Saltern.setQueue (S : Saltern) (q : Nat) (x : Queue) : Saltern := { S with queues := Tbl.set queueReset S.queues q x }

/-- The item whose head cell is `c`. -/
def Saltern.item (S : Saltern) (c : Nat) : Item := Tbl.get (fun _ => Item.none) S.items c

/-- Replace the item at head cell `c`. -/
def Saltern.setItem (S : Saltern) (c : Nat) (x : Item) : Saltern := { S with items := Tbl.set (fun _ => Item.none) S.items c x }

/-- Take `n` cells from the head of the brine list (R314). -/
def Saltern.takeCells : Nat → Saltern → List Nat × Saltern
  | 0, S => ([], S)
  | n + 1, S =>
    if S.fresh < 131072 then
      let r := Saltern.takeCells n { S with fresh := S.fresh + 1 }
      (S.fresh :: r.1, r.2)
    else match S.freed with
      | c :: rest =>
        let r := Saltern.takeCells n { S with freed := rest }
        (c :: r.1, r.2)
      | [] => ([], S)

/-- Change queue or account `q`'s cell count to `n`, with `reserved_idle` following (R322). -/
def Saltern.setCells (S : Saltern) (q n : Nat) : Saltern :=
  let x := S.queue q
  { S.setQueue q { x with cells := n } with resIdle := S.resIdle - (x.min - x.cells) + (x.min - n) }

/-- The chain pool's configuration: MIN, MAX, APRIO (R319). -/
def State.chainCfg (s : State) (m : Nat) : Nat × Nat × Nat :=
  (s.get m F.SALTERN_CHAIN_MIN_MIN, s.get m F.SALTERN_CHAIN_MAX_MAX, s.get m F.SALTERN_CHAIN_CFG_APRIO)

/-- The floor of an admission priority (R322). -/
def State.floorOf (s : State) (m p : Nat) : Nat := s.get m (F.SALTERN_FLOOR_FLOOR.at 4 p)

/-- Admission of `n` cells to a target (R322), from the target's figures. -/
def admitRule (broken : Bool) (cells mn mx n : Nat) (shared : Int) (floor : Nat) : Bool :=
  if broken ∨ mx < cells + n then false
  else
    let need := n - min n (mn - cells)
    decide (need = 0) || decide ((floor : Int) ≤ shared - (need : Int))

/-- Admission of `n` cells to queue or account `q` (R322). -/
def State.admitQ (s : State) (m q n : Nat) : Bool :=
  let S := (s.mast m).sal
  let x := S.queue q
  admitRule x.broken x.cells x.min x.max n S.sharedFree (s.floorOf m x.aprio)

/-- Admission of `n` cells to the chain pool (R319, R322); a BROKEN chain of the pool refuses on its own. -/
def State.admitChain (s : State) (m n : Nat) : Bool :=
  let S := (s.mast m).sal
  let c := s.chainCfg m
  admitRule false S.chainCells c.1 c.2.1 n S.sharedFree (s.floorOf m c.2.2)

/-- Replace mast `m`'s Saltern. -/
def State.setSal (s : State) (m : Nat) (S : Saltern) : State := s.setMast m { s.mast m with sal := S }

/-- The PAUSE directions in use on Ethernet port `p` of mast `m`, receive and transmit (R576): as clause 37 resolved them in 1000BASE-X
with AN_EN, else RX_PAUSE_EN and TX_PAUSE_EN. -/
def State.pauseDirs (s : State) (m p : Nat) : Bool × Bool :=
  let cfg := (s.bit m (F.ETH_CFG_RX_PAUSE_EN.page p), s.bit m (F.ETH_CFG_TX_PAUSE_EN.page p))
  if s.get m (F.ETH_CFG_MODE.page p) = 1 ∧ s.bit m (F.ETH_CFG_AN_EN.page p) then
    ((Tbl.get (fun _ => Gate.reset) (s.mast m).gates p).dirs).getD cfg
  else cfg

/-- The mast whose Ethernet port entry `p` stands for: 0–3 the active mast's ports, 4–7 the peer's (R326). -/
def State.pausePort (s : State) (p : Nat) : Nat := if p < 4 then s.active else 1 - s.active

/-- XOFF or XON of entry `p` (R326): the port's own mast sends the PAUSE frame and counts it; a jury's Saltern only follows. -/
def State.pauseSend (s : State) (m p : Nat) (on : Bool) : State :=
  let S := (s.mast m).sal
  let s1 := s.setSal m { S with xoff := Tbl.set (fun _ => false) S.xoff p on }
  if m = s.active then (s1.bump (s.pausePort p) (F.ETH_PAUSE_TX.page (p % 4))).emit (.pause (s.pausePort p) (p % 4) on) else s1

/-- XOFF and XON of an Ethernet port after a change of cells (R326), while its link is UP and PAUSE is in use: entry `p` of account `acct`. -/
def State.pauseCheck (s : State) (m p : Nat) : State :=
  let acct := if p < 4 then 41 + p else 49 + (p - 4)
  let S := (s.mast m).sal
  let x := S.queue acct
  let head := s.get m F.SALTERN_PAUSE_CFG_HEAD
  let hyst := s.get m F.SALTERN_PAUSE_CFG_HYST
  let fl : Int := s.floorOf m x.aprio
  let on := Tbl.get (fun _ => false) S.xoff p
  if (s.pauseDirs (s.pausePort p) (p % 4)).2 = false ∨ s.get (s.pausePort p) (F.ETH_LINK_STATE.page (p % 4)) ≠ 2 then s
  else if on = false ∧ (x.max ≤ x.cells + head ∨ S.sharedFree ≤ fl + head) then s.pauseSend m p true
  else if on ∧ x.cells + head + hyst ≤ x.max ∧ fl + head + hyst < S.sharedFree then s.pauseSend m p false
  else s

/-- The pause checks of every Ethernet port. -/
def State.pauseAll (s : State) (m : Nat) : State := (List.range 8).foldl (fun t p => t.pauseCheck m p) s

/-- What follows a change of cells: the pause checks of every port (R326) and the brine marks, the low-water mark, and BRINE_LOW once when SHARED_FREE falls to FLOOR[3] or below,
armed again above FLOOR[3] + HYST (R335). -/
def State.brineCheck (s : State) (m : Nat) : State :=
  let s := s.pauseAll m
  let S := (s.mast m).sal
  let S1 := { S with brineLwm := min S.brineLwm S.brine }
  let f3 : Int := s.floorOf m 3
  if S1.brineLow = false ∧ S1.sharedFree ≤ f3 then (s.setSal m { S1 with brineLow := true }).irq m 0x011 2
  else if S1.brineLow ∧ f3 + (s.get m F.SALTERN_PAUSE_CFG_HYST : Int) < S1.sharedFree then s.setSal m { S1 with brineLow := false }
  else s.setSal m S1

/-- Cells counted on a place rise by `n`. -/
def State.placeAdd (s : State) (m : Nat) (p : Place) (n : Nat) : State :=
  let S := (s.mast m).sal
  match p with
  | .acct q => s.setSal m (S.setCells q ((S.queue q).cells + n))
  | .queue q => s.setSal m (S.setCells q ((S.queue q).cells + n))
  | .chain _ =>
    let mn := (s.chainCfg m).1
    s.setSal m { S with chainCells := S.chainCells + n, chainHwm := max S.chainHwm (S.chainCells + n),
                        resIdle := S.resIdle - (mn - S.chainCells) + (mn - (S.chainCells + n)) }
  | .none => s

/-- Cells counted on a place fall by `n`. -/
def State.placeSub (s : State) (m : Nat) (p : Place) (n : Nat) : State :=
  let S := (s.mast m).sal
  match p with
  | .acct q => s.setSal m (S.setCells q ((S.queue q).cells - n))
  | .queue q => s.setSal m (S.setCells q ((S.queue q).cells - n))
  | .chain _ =>
    let mn := (s.chainCfg m).1
    s.setSal m { S with chainCells := S.chainCells - n, resIdle := S.resIdle - (mn - S.chainCells) + (mn - (S.chainCells - n)) }
  | .none => s

/-- A producer allocates the cells of an item of `b` data bytes on account `q` (R321); none when refused (R322). -/
def State.allocItem (s : State) (m q b : Nat) (body : Body) : Option (Nat × State) :=
  let n := cellsFor b
  if s.admitQ m q n = false ∨ (s.mast m).sal.brine < n then none
  else
    let r := Saltern.takeCells n (s.mast m).sal
    match r.1 with
    | [] => none
    | c :: rest =>
      let s1 := (s.setSal m (r.2.setItem c ⟨c :: rest, Desc.zero, body, 0, .acct q, none, none, 0⟩)).placeAdd m (.acct q) n
      some (c, s1.brineCheck m)

/-- Whether place `p` is a BROKEN queue or chain (R315). -/
def Saltern.broken (S : Saltern) (p : Place) : Bool :=
  match p with
  | .queue q => (S.queue q).broken
  | .chain n => S.brokenChains.contains n
  | _ => false

/-- What the consumer of chain `n` sees of it (R315): a BROKEN chain is empty. -/
def Saltern.seen (S : Saltern) (n : Nat) (c : Chain) : List Nat := if S.brokenChains.contains n then [] else c.heads

/-- The items that the consumers of node `n`'s chain see. -/
def State.nodeHeads (s : State) (m n : Nat) : List Nat := (s.mast m).sal.seen n ((s.mast m).node n).chain

/-- Free the item at head cell `c` through EOI: its cells leave their place and join the brine list's tail (R314, R321); those of a
BROKEN queue or chain stay there (R315). -/
def State.freeItem (s : State) (m c : Nat) : State :=
  let x := (s.mast m).sal.item c
  if x.cells = [] ∨ (s.mast m).sal.broken x.place then s
  else
    let s1 := s.placeSub m x.place x.cells.length
    let S := (s1.mast m).sal
    (s1.setSal m { S.setItem c Item.none with freed := S.freed ++ x.cells }).brineCheck m

/-- The item at head cell `c` comes to hold `b` data bytes (R312): cells beyond its need are freed, further ones are admitted where
its cells count; none while they are refused. -/
def State.resizeItem (s : State) (m c b : Nat) : Option State :=
  let S := (s.mast m).sal
  let x := S.item c
  let n := x.cells.length
  let k := cellsFor b
  let ok := match x.place with
    | .acct q => s.admitQ m q (k - n)
    | _ => true
  if x.cells = [] ∨ k = n then some s
  else if k < n then
    let s1 := s.placeSub m x.place (n - k)
    let S1 := (s1.mast m).sal
    some ((s1.setSal m { S1.setItem c { S1.item c with cells := x.cells.take k } with freed := S1.freed ++ x.cells.drop k }).brineCheck m)
  else if ok = false ∨ S.brine < k - n then none
  else
    let r := Saltern.takeCells (k - n) S
    some (((s.setSal m (r.2.setItem c { r.2.item c with cells := x.cells ++ r.1 })).placeAdd m x.place (k - n)).brineCheck m)

/-- Write an item's descriptor and body. -/
def State.setItemBody (s : State) (m c : Nat) (d : Desc) (b : Body) : State :=
  let S := (s.mast m).sal
  s.setSal m (S.setItem c { S.item c with desc := d, body := b })

/-- Microseconds of mast LOCAL time (R313). -/
def State.localUs (s : State) (m : Nat) : Nat := s.localNs m / 1000

/-- Put the item at head cell `c` at the tail of queue `q` (R321): its cells move there, ENQ_T is stamped, and the depth mark follows
(R332). -/
def State.enqueueAs (s : State) (m q c : Nat) : State :=
  let x := (s.mast m).sal.item c
  let n := x.cells.length
  let s1 := (s.placeSub m x.place n).placeAdd m (.queue q) n
  let S := (s1.mast m).sal
  let y := S.queue q
  let S1 := S.setItem c { S.item c with place := .queue q, held := none, enqT := s.localUs m % 2 ^ 32 }
  (s1.setSal m (S1.setQueue q { y with heads := y.heads ++ [c], depthHwm := max y.depthHwm y.cells })).brineCheck m

/-- Enqueue the item at head cell `c` on queue `q` (R321, R322): none when the queue's admission refuses it. -/
def State.enqueue (s : State) (m q c : Nat) : Option State :=
  let x := (s.mast m).sal.item c
  if x.cells = [] ∨ s.admitQ m q x.cells.length = false then none else some (s.enqueueAs m q c)

/-- Remove the head item of queue `q`: its cells leave the queue's count, the residence mark follows (R332).  An empty or
BROKEN queue gives nothing (R315). -/
def State.dequeue (s : State) (m q : Nat) : Option (Nat × State) :=
  let S := (s.mast m).sal
  let y := S.queue q
  match y.heads with
  | [] => none
  | c :: rest =>
    if y.broken then none
    else
      let x := S.item c
      let res := (sdiff 32 (s.localUs m) x.enqT).toNat
      let s1 := s.setSal m (S.setQueue q { y with heads := rest, resHwm := max y.resHwm res })
      let s2 := s1.placeSub m (.queue q) x.cells.length
      let S2 := (s2.mast m).sal
      some (c, (s2.setSal m (S2.setItem c { S2.item c with place := .none })).brineCheck m)

/-- Count an output at a point of the digest (R471), with its content: the first output of a point has index 1.  A single mast forms
no digest. -/
def State.output (s : State) (m p : Nat) (content : List Nat) : State :=
  let M := s.mast m
  let i := Tbl.get (fun _ => 0) M.outCount p + 1
  if s.redundant = false then s
  else s.setMast m { M with outCount := Tbl.set (fun _ => 0) M.outCount p i,
                            outLog := M.outLog ++ [(p, i, crc64 (p :: leBytes 8 i ++ content))] }

/-- The output point of queue `q` (R471): queues 0–39 and their peer copies 160–191 at 6 + (q or q − 160), queues 128 and 129
at 47; other queues have none. -/
def outPointOf (q : Nat) : Option Nat :=
  if q < 40 then some (q + 6) else if 160 ≤ q ∧ q < 192 then some (q - 160 + 6)
  else if q = 128 ∨ q = 129 then some 47 else none

/-- Enqueue and count the output (R471). -/
def State.enqueueOut (s : State) (m q c : Nat) : Option State :=
  match s.enqueue m q c, outPointOf q with
  | some t, some p => some (t.output m p ((s.mast m).sal.item c).desc.bytes)
  | r, _ => r

/-- Place an event report in event queue 128 (one cell, R312).  A report that admission refuses is held by its engine and
retried (R325): it waits in `heldEvents`. -/
def State.event (s : State) (m : Nat) (k : EventKind) (index : Nat) (bytes : List Nat) : State :=
  let S := (s.mast m).sal
  let hold := (s.setMast m { s.mast m with heldEvents := (s.mast m).heldEvents ++ [⟨k, index, bytes⟩] }).bump m F.SALTERN_HOLD
  if s.admitQ m 128 1 = false ∨ (s.mast m).heldEvents ≠ [] then hold
  else
    let r := Saltern.takeCells 1 S
    match r.1 with
    | c :: _ =>
      let d : Desc := { Desc.zero with station := 0xFF, node := index % 2 ^ 20, len := bytes.length % 2048, cell := c, stamp := s.localNs m % 2 ^ 48 }
      let s1 := s.setSal m (r.2.setItem c ⟨[c], d, .event ⟨k, index, bytes⟩, 0, .none, none, none, 0⟩)
      (s1.enqueueAs m 128 c).output m 47 d.bytes
    | [] => hold

/-- Append the item at head cell `c` to node `n`'s downlink chain (R319): none when the chain pool's admission refuses, or the chain is
BROKEN (R315). -/
def State.chainAppend (s : State) (m n c : Nat) : Option State :=
  let x := (s.mast m).sal.item c
  let k := x.cells.length
  if x.cells = [] ∨ (s.mast m).sal.broken (.chain n) ∨ s.admitChain m k = false then none
  else
    let s1 := (s.placeSub m x.place k).placeAdd m (.chain n) k
    let M := s1.mast m
    let r := M.node n
    let S1 := M.sal.setItem c { M.sal.item c with place := .chain n, held := none, enqT := s.localUs m % 2 ^ 32 }
    some ((s1.setMast m { M.setNode n { r with chain := ⟨r.chain.heads ++ [c], r.chain.cells + k⟩ } with sal := S1 }).brineCheck m)

/-- Remove the item at head cell `c` from node `n`'s chain and free its cells. -/
def State.chainRemove (s : State) (m n c : Nat) : State :=
  let r := (s.mast m).node n
  if (s.nodeHeads m n).contains c then
    let k := ((s.mast m).sal.item c).cells.length
    (s.setMast m ((s.mast m).setNode n { r with chain := ⟨r.chain.heads.erase c, r.chain.cells - k⟩ })).freeItem m c
  else s

/-- Splice node `n`'s whole chain to lost queue 129 (R320): always admitted, each item keeps its ENQ_T. -/
def State.spliceLost (s : State) (m n : Nat) : State :=
  let r := (s.mast m).node n
  if s.nodeHeads m n = [] then s
  else
    let s1 := ((s.placeSub m (.chain n) r.chain.cells).placeAdd m (.queue 129) r.chain.cells)
    let S := (s1.mast m).sal
    let y := S.queue 129
    let S1 := S.setQueue 129 { y with heads := y.heads ++ r.chain.heads, depthHwm := max y.depthHwm y.cells }
    let S2 := r.chain.heads.foldl (fun A c => A.setItem c { A.item c with place := .queue 129 }) S1
    let s2 := s1.setMast m { (s1.mast m).setNode n { r with chain := Chain.nil } with sal := S2 }
    ((s2.bump m F.SALTERN_LOST_SPLICE).output m 47 (leBytes 4 n)).brineCheck m

/-! ## Software pushes, pops, allocations and frees (R331, R668) -/

/-- The queue a requester's IO_SEL names. -/
def State.ioSel (s : State) (m r : Nat) : Nat := s.bget r m F.SALTERN_IO_SEL_QUEUE

/-- Whether the requester is an application core. -/
def isCore (r : Req) : Bool := r < 16

/-- A pop by requester `r` (R328, R329, R331): the head item becomes the requester's; an empty IDLE queue gives the idle
descriptor; an empty UNDERRUN queue the last popped descriptor, with UNDERRUN set and counted; a queue of class "—" is
refused with NOPOP.  The value read is left in the banked POP and POP_HI words. -/
def State.pop (s : State) (m r : Nat) : State :=
  let q := s.ioSel m r
  let y := (s.mast m).sal.queue q
  let give (t : State) (d : Desc) : State := (t.bput64 r m F.SALTERN_POP_DESC_LO d.lo).bput64 r m F.SALTERN_POP_HI_DESC_HI d.hi
  if y.cls = 0 then
    (s.setWord (bankKey r m F.SALTERN_IO_STATUS_NOPOP.addr)
        (s.word (bankKey r m F.SALTERN_IO_STATUS_NOPOP.addr) ||| Word.ofNat (2 ^ F.SALTERN_IO_STATUS_NOPOP.lo))).bput64 r m
      F.SALTERN_POP_DESC_LO 0
  else match s.dequeue m q with
    | some (c, t) =>
      let S := (t.mast m).sal
      let x := S.item c
      let d := { x.desc with cell := c }
      let S1 := { S.setItem c { x with held := some r } with lastPop := Tbl.set (fun _ => Desc.zero) S.lastPop r d }
      give (t.setSal m S1) d
    | none =>
      if y.cls = 1 then give s Desc.idle
      else
        let S := (s.mast m).sal
        let s1 := (s.setSal m (S.setQueue q { y with underrun := true })).bump m F.SALTERN_UNDERRUN
        give s1 (Tbl.get (fun _ => Desc.zero) S.lastPop r)

/-- Set a bit of requester `r`'s banked SALTERN.IO_STATUS. -/
def State.ioFlag (s : State) (m r : Nat) (f : Fld) : State := s.bput r m f 1

/-- Whether requester `r` holds the item whose head cell is `c` (R668). -/
def State.holds (s : State) (m r c : Nat) : Bool :=
  let x := (s.mast m).sal.item c
  x.cells != [] && x.held == some r

/-- Close requester `r`'s open item when its head is `c` (R668). -/
def State.closeOpen (s : State) (m r c : Nat) : State :=
  let S := (s.mast m).sal
  if Tbl.get (fun _ => none) S.openItem r = some c then s.setSal m { S with openItem := Tbl.set (fun _ => none) S.openItem r none }
  else s

/-- Complete an admitted push of the item named by `d`, counting the output (R471). -/
def State.pushDone (s : State) (m r q : Nat) (d : Desc) : Option State := (s.closeOpen m r d.cell).enqueueOut m q d.cell

/-- A push by requester `r` of descriptor `d`, whose cells hold `body` (R331, R325): dropped with NOTHELD when the requester
holds no such item; enqueued when admitted; else a core is held and the host and management port have it dropped. -/
def State.push (s : State) (m r : Nat) (d : Desc) (body : Body) : State :=
  let q := s.ioSel m r
  if s.holds m r d.cell = false then (s.ioFlag m r F.SALTERN_IO_STATUS_NOTHELD).bump m F.SALTERN_PUSH_REFUSED
  else
    let s0 := s.setItemBody m d.cell d body
    match s0.pushDone m r q d with
    | some t => t
    | none =>
      if isCore r then
        (s0.setSal m { (s0.mast m).sal with held := (s0.mast m).sal.held ++ [⟨r, q, d, false⟩] }).bump m F.SALTERN_HOLD
      else (s0.ioFlag m r F.SALTERN_IO_STATUS_REFUSED).bump m F.SALTERN_PUSH_REFUSED

/-- Append one cell of account 46 to requester `r`'s open item, or open a new one (R668); none when refused. -/
def State.allocCell (s : State) (m r : Nat) : Option (Nat × State) :=
  let S := (s.mast m).sal
  if s.admitQ m 46 1 = false ∨ S.brine = 0 then none
  else
    let t := Saltern.takeCells 1 S
    match t.1 with
    | [] => none
    | c :: _ =>
      let S1 := match Tbl.get (fun _ => none) S.openItem r with
        | some h => t.2.setItem h { t.2.item h with cells := (t.2.item h).cells ++ [c] }
        | none => { t.2.setItem c ⟨[c], Desc.zero, .empty, 0, .acct 46, some r, none, 0⟩ with
                    openItem := Tbl.set (fun _ => none) t.2.openItem r (some c) }
      some (c, ((s.setSal m S1).placeAdd m (.acct 46) 1).brineCheck m)

/-- The ALLOC word of an outcome (R333): FAIL and CELL. -/
def State.allocWord (s : State) (m r : Nat) (res : Option Nat) : State :=
  match res with
  | some c => s.setWord (bankKey r m F.SALTERN_ALLOC_CELL.addr) (Word.ofNat c)
  | none => s.setWord (bankKey r m F.SALTERN_ALLOC_CELL.addr) (Word.ofNat (2 ^ 31))

/-- An ALLOC read by requester `r` (R668, R325). -/
def State.alloc (s : State) (m r : Nat) : State :=
  match s.allocCell m r with
  | some (c, t) => t.allocWord m r (some c)
  | none =>
    if isCore r then
      (s.setSal m { (s.mast m).sal with held := (s.mast m).sal.held ++ [⟨r, 46, Desc.zero, true⟩] }).bump m F.SALTERN_HOLD
    else s.allocWord m r none

/-! ## The commands -/

/-- Where the item that holds cell `c` stands. -/
def Saltern.placeOf (S : Saltern) (c : Nat) : Place :=
  match List.find? (fun (e : Nat × Item) => e.2.cells.contains c) S.items with
  | some e => e.2.place
  | none => .none

/-- A double-bit error in the link of cell `c` (R315, R26): the queue or chain that holds the cell is BROKEN; the error is counted and
raised, and is a self-check fault. -/
def State.linkErr (s : State) (m c : Nat) : State :=
  let S := (s.mast m).sal
  let S1 := match S.placeOf c with
    | .queue q => S.setQueue q { S.queue q with broken := true }
    | .chain n => if S.brokenChains.contains n then S else { S with brokenChains := S.brokenChains ++ [n] }
    | _ => S
  (((((s.setSal m S1).bump m F.SALTERN_LINK_ERR).irq m 0x011 1).bump m
    F.SYS_SRAM_UNCORR).irq m 0x000 0).selfFaults m 3

/-- The read of the link of a queue's head cell meets no error, a single-bit error, which is corrected and counted, or a double-bit
error (R26, R313, R315); an empty queue has no link to read. -/
def State.popLink (s : State) (m r ecc : Nat) : State :=
  match ((s.mast m).sal.queue (s.ioSel m r)).heads with
  | [] => s
  | c :: _ => if ecc = 0 then s else if ecc = 1 then s.bump m F.SYS_SRAM_CORR else s.linkErr m c

/-- SALTERN_POP (R331); `ecc` says what the read of the link meets. -/
def execSalternPop (m r width ecc : Nat) (s : State) : Host.Outcome State Fault Refusal :=
  .next (s.action m 0x011 0x098 r false width 8 (fun t => (t.popLink m r ecc).pop m r))

/-- A write of SALTERN.PUSH (R331). -/
def State.accPush (s : State) (m r width lo : Nat) (body : Body) : State :=
  s.action m 0x011 0x0B0 r true width 8 (fun t => t.push m r (Desc.ofBits (t.bget64 r m F.SALTERN_PUSH_HI_DESC_HI) lo) body)

/-- SALTERN_PUSH (R331): `lo` is the value written; `body` what software has written in the item's cells (R668). -/
def execSalternPush (m r width lo : Nat) (body : Body) (s : State) : Host.Outcome State Fault Refusal :=
  .next (s.hostOn m r 0x011 0x0B0 width lo body (fun m t => t.accPush m r width lo body))

/-- SALTERN_ALLOC (R668). -/
def execSalternAlloc (m r width : Nat) (s : State) : Host.Outcome State Fault Refusal :=
  .next (s.action m 0x011 0x0B8 r false width 4 (fun t => t.alloc m r))

/-- A write of SALTERN.FREE (R668): the cells of an item the requester holds return to the brine list; a CELL that names no
such item frees nothing (log entry 11). -/
def State.accFree (s : State) (m r width value : Nat) : State :=
  s.action m 0x011 0x0BC r true width 4 (fun t =>
    let cell := value % 2 ^ 17
    if t.holds m r cell then (t.closeOpen m r cell).freeItem m cell else t)

/-- SALTERN_FREE (R668). -/
def execSalternFree (m r width value : Nat) (s : State) : Host.Outcome State Fault Refusal :=
  .next (s.hostOn m r 0x011 0x0BC width value .empty (fun m t => t.accFree m r width value))

/-- A write of SALTERN.HWM_CLR (R332): the marks of every queue and the chain pool, or of one queue. -/
def State.accSalternHwmClr (s : State) (m r width value : Nat) : State :=
  s.action m 0x011 0x080 r true width 4 (fun t =>
    let S := (t.mast m).sal
    if value / 2 ^ 31 % 2 = 1 then
      t.setSal m { S with queues := S.queues.foldl (fun A e => Tbl.set queueReset A e.1 { e.2 with depthHwm := 0, resHwm := 0 }) [],
                          chainHwm := 0 }
    else
      let q := value % 4096
      t.setSal m (S.setQueue q { S.queue q with depthHwm := 0, resHwm := 0 }))

/-- SALTERN_HWM_CLR (R332). -/
def execSalternHwmClr (m r width value : Nat) (s : State) : Host.Outcome State Fault Refusal :=
  .next (s.hostOn m r 0x011 0x080 width value .empty (fun m t => t.accSalternHwmClr m r width value))

/-- PUSH_TIMEOUT (R325): a core's held push or allocation completes with a bus error; the core keeps the item. -/
def execPushTimeout (m r : Nat) (s : State) : Host.Outcome State Fault Refusal :=
  let S := (s.mast m).sal
  match S.held.find? (fun h => h.req == r) with
  | some h =>
    let s1 := (s.setSal m { S with held := S.held.erase h }).bump m F.SALTERN_PUSH_TIMEOUT
    .next ((if h.alloc then s1.allocWord m r none else s1).emit (.busError m r))
  | none => .next s

/-- One attempt for the held push or allocation `h` (R325). -/
def State.retryOne (s : State) (m : Nat) (h : HeldPush) : State :=
  let done (t : State) : State := t.setSal m { (t.mast m).sal with held := (t.mast m).sal.held.erase h }
  if h.alloc then
    match s.allocCell m h.req with
    | some (c, t) => (done t).allocWord m h.req (some c)
    | none => s
  else match s.pushDone m h.req h.queue h.desc with
    | some t => done t
    | none => s

/-- One attempt for every held push and allocation, in requester order (R330, R342): one that is still refused holds no other back. -/
def State.retryPush (s : State) (m : Nat) : State :=
  ((List.range 16).flatMap (fun r => (s.mast m).sal.held.filter (fun h => h.req == r))).foldl (fun t h => t.retryOne m h) s

/-- One attempt for the first held event report. -/
def State.retryEvent (s : State) (m : Nat) : State :=
  match (s.mast m).heldEvents with
  | [] => s
  | e :: rest =>
    if s.admitQ m 128 1 ∧ (s.mast m).sal.brine ≠ 0 then
      let s1 := (s.setMast m { s.mast m with heldEvents := [] }).event m e.kind e.index e.bytes
      s1.setMast m { s1.mast m with heldEvents := rest }
    else s

/-- ADMISSION_HOLD_RELEASE (R325): held producers retry; each is admitted when its target now admits it. -/
def execAdmissionHoldRelease (m : Nat) (s : State) : Host.Outcome State Fault Refusal :=
  .next ((s.retryEvent m).retryPush m)

/-- PAUSE_REFRESH (R579): while XOFF holds, Ethernet port `p` of mast `m` sends its PAUSE frame again. -/
def execPauseRefresh (m p : Nat) (s : State) : Host.Outcome State Fault Refusal :=
  .next (
    if p < 4 ∧ s.fitted m ∧ m < 2 ∧ Tbl.get (fun _ => false) (s.mast s.active).sal.xoff (if m = s.active then p else 4 + p)
        ∧ s.get m (F.ETH_LINK_STATE.page p) = 2 then
      (s.bump m (F.ETH_PAUSE_TX.page p)).emit (.pause m p true)
    else s)

end Sys2Proof.Machine
end

