-- ==== Sys2Proof/Machine/NvBase.lean ====
section
/-! DEFINITION. The NV store's bookkeeping (R620–R625): records written to two banks, requests that suspend one another, the flash bytes
of the areas that hold no record, and the reservation ring. -/

namespace Sys2Proof.Machine

/-- Replace mast `m`'s NV store. -/
def State.setNv (s : State) (m : Nat) (N : Nv) : State := s.setMast m { s.mast m with nv := N }

/-! ## Bytes -/

/-- The byte at address `a`. -/
def Nv.byte (N : Nv) (a : Nat) : Nat := (Tbl.get (fun _ => (0xFF : BitVec 8)) N.flash a).toNat

/-- `n` bytes from address `a`. -/
def Nv.bytes (N : Nv) (a n : Nat) : List Nat := (List.range n).map (fun i => N.byte (a + i))

/-- Program bytes from address `a`: NOR cells change from 1 to 0 only (R504). -/
def Nv.program (N : Nv) (a : Nat) (l : List Nat) : Nv :=
  { N with flash := ((List.range l.length).zip l).foldl (fun t e =>
      Tbl.set (fun _ => (0xFF : BitVec 8)) t (a + e.1) (BitVec.ofNat 8 (N.byte (a + e.1) &&& e.2))) N.flash }

/-- Write bytes from address `a` as they come to stand, whatever stood there. -/
def Nv.overwrite (N : Nv) (a : Nat) (l : List Nat) : Nv :=
  { N with flash := ((List.range l.length).zip l).foldl (fun t e =>
      Tbl.set (fun _ => (0xFF : BitVec 8)) t (a + e.1) (BitVec.ofNat 8 e.2)) N.flash }

/-- Erase `n` bytes from address `a`. -/
def Nv.erase (N : Nv) (a n : Nat) : Nv := { N with flash := List.filter (fun (e : Nat × BitVec 8) => decide (e.1 < a ∨ a + n ≤ e.1)) N.flash }

/-! ## Requests (R624) -/

/-- Priorities of the operations that mast `m`'s NV store has: 0 ring, 1 config, 2 key-blob, 3 campaign, 4 checkpoint, 5 user area. -/
def State.nvWork (s : State) (m : Nat) : List Nat :=
  let M := s.mast m
  let N := M.nv
  (if M.mac.fcPending.isSome then [0] else []) ++ (if N.cfgJobs = [] then [] else [1]) ++ (if M.keys.persisting.isSome then [2] else [])
    ++ (if N.campJobs = [] then [] else [3]) ++ (if N.ckptJob.isSome then [4] else [])
    ++ (match N.flashOp with
        | some o => if o.op = 1 then [] else [5]
        | none => [])

/-- A request of priority `p` comes: an erase or program of lower priority in progress is suspended (R624, R632). -/
def State.nvRequest (s : State) (m p : Nat) : State :=
  match s.nvWork m with
  | q :: _ => if p < q then s.bump m F.FLASH_SUSPENDS else s
  | [] => s

/-! ## Records and their banks (R621–R623) -/

/-- Field `f` of store `k`'s SEQ and BANK words. -/
def nvf (f : Fld) (k : Nat) : Fld := f.at 8 k

/-- The bank that the next write of store `k` goes to (R622): the one that does not hold the record in use, bank 0 when there is none. -/
def State.nvTarget (s : State) (m k : Nat) : Nat :=
  if s.bit m (nvf F.NVSTORE_BANK_VALID0 k) = false ∧ s.bit m (nvf F.NVSTORE_BANK_VALID1 k) = false then 0
  else 1 - s.get m (nvf F.NVSTORE_BANK_IN_USE k)

/-- VALID of a bank. -/
def validBit (b : Nat) : Fld := if b = 0 then F.NVSTORE_BANK_VALID0 else F.NVSTORE_BANK_VALID1

/-- Whether a write of store `k` is under way. -/
def State.nvBusy (s : State) (m k : Nat) : Bool :=
  let M := s.mast m
  match k with
  | 0 => M.nv.cfgJobs != []
  | 1 => M.keys.persisting.isSome
  | 2 => M.nv.campJobs != []
  | _ => M.nv.ckptJob.isSome

/-- The first step of a write of store `k` (R622, R623): the bank it goes to is erased, a config bank only when its 32 slots are used up, and
otherwise the next slot is used. -/
def State.nvErase (s : State) (m k : Nat) : State :=
  let b := s.nvTarget m k
  let N := (s.mast m).nv
  let n := Tbl.get (fun _ => 0) N.slots b
  let s1 := s.setNv m { N with torn := N.torn.filter (fun x => x != k) }
  let use (t : State) (c : Nat) : State := t.setNv m { (t.mast m).nv with slots := Tbl.set (fun _ => 0) N.slots b c }
  if k ≠ 0 then s1.put m (nvf (validBit b) k) 0
  else if 0 < n ∧ n < 32 then use s1 (n + 1)
  else use (s1.put m (nvf (validBit b) k) 0) 1

/-- A write of store `k` is asked for (R624); behind one of the same store it waits. -/
def State.nvStart (s : State) (m k : Nat) : State :=
  let s1 := s.nvRequest m (k + 1)
  if s1.nvBusy m k then s1 else s1.nvErase m k

/-- A write of store `k` ends (R622): complete, its record is the one in use; failed, NV_WRITE_FAIL, the older record stays, and the bank holds a
header without a valid trailer. -/
def State.nvDone (s : State) (m k : Nat) (ok : Bool) : State :=
  let b := s.nvTarget m k
  if ok then
    (((s.put m (nvf F.NVSTORE_SEQ_SEQ k) (s.get m (nvf F.NVSTORE_SEQ_SEQ k) + 1)).put m (nvf (validBit b) k) 1).put m
      (nvf F.NVSTORE_BANK_IN_USE k) b).bump m F.NVSTORE_WRITES
  else
    let N := (s.mast m).nv
    ((s.setNv m { N with torn := N.torn.insert k }).bump m F.NVSTORE_WRITE_FAIL).irq m 0x042 0

/-! ## The reservation ring (R625) -/

/-- The slot after the highest programmed one. -/
def State.ringNext (s : State) (m : Nat) : Nat := s.get m F.NVSTORE_RING_SECTOR * 256 + s.get m F.NVSTORE_RING_ENTRY

/-- Program the next ring slot with a reservation of P (R625): valid, it is the newest entry; torn or failed, only its slot is used. -/
def State.ringWrite (s : State) (m p : Nat) (ok : Bool) : State :=
  let N := (s.mast m).nv
  let n := s.ringNext m
  let k := n / 256 % 256
  let N1 := { N with ringUsed := N.ringUsed.insert k }
  let N2 := if ok then { N1 with ringP := some p, ringSeq := (N1.ringSeq + 1) % 2 ^ 32 } else N1
  let s1 := ((s.setNv m N2).put m F.NVSTORE_RING_SECTOR ((n + 1) / 256 % 256)).put m F.NVSTORE_RING_ENTRY ((n + 1) % 256)
  if ok then s1.bump m F.NVSTORE_RING_WRITES else s1

/-! ## The config store (R506, R629) -/

/-- The config record as the next write will find it. -/
def State.cfgNow (s : State) (m : Nat) : CfgRec :=
  let N := (s.mast m).nv
  match N.cfgJobs.getLast? with
  | some r => r
  | none => N.cfg.getD ⟨UpdRec.fresh, []⟩

/-- The numbers of an update record, as an output's content. -/
def UpdRec.words (u : UpdRec) : List Nat :=
  [u.setSlot, u.mode, u.boots, u.elapsed, u.trialTime, u.secPend.getD 0xFF, u.revPend, u.bitmap, u.rxState, u.last] ++ u.manifest

/-- Start a write of a config record. -/
def State.cfgWrite (s : State) (m : Nat) (r : CfgRec) : State :=
  let s1 := s.nvStart m 0
  (s1.setNv m { (s1.mast m).nv with cfgJobs := (s1.mast m).nv.cfgJobs ++ [r] }).output m 49
    (numBytes (0 :: r.upd.words ++ r.cal.flatMap (fun e => [e.1, e.2])))

/-- Set the update record the engine works with, and write it (R506). -/
def State.updWrite (s : State) (m : Nat) (u : UpdRec) : State :=
  let s1 := s.setMast m { s.mast m with upd := { (s.mast m).upd with urec := u } }
  s1.cfgWrite m { s1.cfgNow m with upd := u }

end Sys2Proof.Machine
end

