-- ==== Sys2Proof/Machine/Halyard.lean ====
section
/-! DEFINITION. Halyard dispatch: the station table, give and take, selection, flows, roles, back-pressure and observation
(R337–R358). -/

namespace Sys2Proof.Machine

/-- A field of station `st`'s entry (R357). -/
def stf (f : Fld) (st : Nat) : Fld := (f.page (st / 64)).at 8 (st % 64)

/-- One of station `st`'s live words (R358). -/
def stl (f : Fld) (st : Nat) : Fld := (f.page (st / 64)).at 16 (st % 64)

/-- ENGINE of a station (R340). -/
def State.engineOf (s : State) (m st : Nat) : Bool := s.bit m (stf F.STAB_SCFG_ENGINE st)
/-- ATOMIC of a station (R340). -/
def State.atomicOf (s : State) (m st : Nat) : Bool := s.bit m (stf F.STAB_SCFG_ATOMIC st)
/-- AFFINITY of a station (R340). -/
def State.affinityOf (s : State) (m st : Nat) : Bool := s.bit m (stf F.STAB_SCFG_AFFINITY st)
/-- DEPTH of a station (R340). -/
def State.depthOf (s : State) (m st : Nat) : Nat := s.get m (stf F.STAB_SCFG_DEPTH st)
/-- NEXT of a station (R340). -/
def State.nextOf (s : State) (m st : Nat) : Nat := s.get m (stf F.STAB_SCFG_NEXT st)
/-- OUT_PRIO of a station applied to an item's PRIO (R340). -/
def State.outPrio (s : State) (m st prio : Nat) : Nat :=
  let p := s.get m (stf F.STAB_SCFG_OUT_PRIO st)
  if p < 16 then p else prio

/-- Stations 0x12–0x3F are reserved (R339). -/
def stationReserved (st : Nat) : Bool := 0x12 ≤ st && st < 0x40

/-- Items queued at station `st`. -/
def Halyard.countAt (H : Halyard) (st : Nat) : Nat := (H.entries.filter (fun e => e.desc.station == st)).length

/-- Flow context `f`. -/
def Halyard.flow (H : Halyard) (f : Nat) : Flow := Tbl.get (fun _ => Flow.idle) H.flows f

/-- Replace flow context `f`. -/
def Halyard.setFlow (H : Halyard) (f : Nat) (x : Flow) : Halyard := { H with flows := Tbl.set (fun _ => Flow.idle) H.flows f x }

/-- Replace mast `m`'s Halyard. -/
def State.setHal (s : State) (m : Nat) (H : Halyard) : State := s.setMast m { s.mast m with hal := H }

/-- Items of flow `f` queued at AFFINITY stations (R346): PENDING. -/
def State.flowPending (s : State) (m f : Nat) : Nat :=
  ((s.mast m).hal.entries.filter (fun e => e.desc.flow == f && s.affinityOf m e.desc.station)).length

/-- Flow `f` loses its affinity when it has nothing queued or in service at AFFINITY stations (R347). -/
def State.settleFlow (s : State) (m f : Nat) : State :=
  let H := (s.mast m).hal
  let x := H.flow f
  if x.affValid = false ∨ s.flowPending m f ≠ 0 ∨ (List.range 16).any (fun c => match Tbl.get (fun _ => none) H.service c with
      | some d => d.flow == f && s.affinityOf m d.station
      | none => false) then s
  else s.setHal m (H.setFlow f { x with affValid := false, affCore := 0 })

/-- Every flow loses its affinity that has nothing at AFFINITY stations. -/
def State.settleFlows (s : State) (m : Nat) : State := (s.mast m).hal.flows.foldl (fun t e => t.settleFlow m e.1) s

/-- Core `c`'s role mask in effect (R350). -/
def Halyard.role (H : Halyard) (c : Nat) : Nat := Tbl.get (fun _ => 0) H.roles c

/-- The role mask that HALYARD.ROLE holds for core `c`, reserved stations and 0xFF reading 0 (R354). -/
def State.roleReg (s : State) (m c : Nat) : Nat :=
  let w (i : Nat) : Nat := (s.word (key m (0x010080 + 32 * c + 4 * i))).toNat
  let full := (List.range 8).foldl (fun a i => a + w i * 2 ^ (32 * i)) 0
  (List.range 256).foldl (fun a st => if full.testBit st && !(stationReserved st) && st != 0xFF then a + 2 ^ st else a) 0

/-! ## Giving -/

/-- Queue an item at its station: the give is accepted, numbered and stamped (R342, R353); an item given to an orphaned
station is counted (R351). -/
def State.queueAt (s : State) (m : Nat) (d : Desc) : State :=
  let H := (s.mast m).hal
  let st := d.station
  let H1 := { H with entries := H.entries ++ [⟨H.nextSeq, d, s.localNs m⟩], nextSeq := H.nextSeq + 1 }
  let s1 := ((s.setHal m H1).bump m F.HALYARD_GIVES).bump m (stl F.STAB_SGIVES_GIVES st)
  let s2 := (s1.raise m (stl F.STAB_SDEPTH_HWM st) (H1.countAt st)).raise m F.HALYARD_ENTRIES_HWM_HWM H1.entries.length
  if H1.orphans.contains st then s2.bump m F.HALYARD_ROLE_ORPHAN else s2

/-- A give waits at a full station (R348): it joins the held gives and the station's SHOLD counts it; a held engine is busy
from now (R353). -/
def State.holdGive (s : State) (m : Nat) (g : Giver) (d : Desc) : State :=
  let H := (s.mast m).hal
  let H1 := { H with held := H.held ++ [⟨g, d⟩] }
  let H2 := match g with
    | .engine st => { H1 with busyFrom := Tbl.set (fun _ => none) H1.busyFrom (16 + st) (some (s.localNs m)) }
    | _ => H1
  (s.setHal m H2).bump m (stl F.STAB_SHOLD_HOLD d.station)

/-- A give by an engine, a port or the ring reader (R342): nothing for 0xFF; dropped and its cells freed at a reserved or
closed station; queued below DEPTH; held at DEPTH (R348). -/
def State.giveHw (s : State) (m : Nat) (g : Giver) (d : Desc) : State :=
  if d.station = 0xFF then s
  else if stationReserved d.station ∨ s.depthOf m d.station = 0 then (s.freeItem m d.cell).bump m F.HALYARD_GIVE_CLOSED
  else if (s.mast m).hal.countAt d.station < s.depthOf m d.station then s.queueAt m d
  else s.holdGive m g d

/-- Whether the give of Ethernet port entry `p` is held. -/
def State.ethHeld (s : State) (m p : Nat) : Bool := (s.mast m).hal.held.any (fun h => decide (h.giver = Giver.eth p))

/-- Ethernet port entry `p` gives an accepted frame (R327); the start of a hold is counted. -/
def State.ethGive (s : State) (m p : Nat) (d : Desc) : State :=
  let t := s.giveHw m (.eth p) d
  if t.ethHeld m p then t.bump m F.SALTERN_HOLD else t

/-- The port gives the frames of its hold list in arrival order, until a give is held (R327). -/
def State.ethDrain (s : State) (m p : Nat) : List Nat → State
  | [] => s
  | c :: rest =>
    if s.ethHeld m p then s
    else
      let S := (s.mast m).sal
      ((s.setSal m { S with ethHold := Tbl.set (fun _ => []) S.ethHold p rest }).ethGive m p (S.item c).desc).ethDrain m p rest

/-- The engine of station `st` gives item `d` to station `to`, with its OUT_PRIO (R340). -/
def State.engineTo (s : State) (m st dest : Nat) (d : Desc) : State :=
  s.giveHw m (.engine st) { d with station := dest, prio := s.outPrio m st d.prio }

/-- The engine of station `st` gives item `d` to its NEXT (R340). -/
def State.engineNext (s : State) (m st : Nat) (d : Desc) : State := s.engineTo m st (s.nextOf m st) d

/-- A give by a core, the host or the management port (R342). -/
def State.giveSw (s : State) (m r : Nat) (d : Desc) (body : Body) : State :=
  if d.station = 0xFF then s
  else if s.holds m r d.cell = false then (s.bput r m F.HALYARD_IO_STATUS_NOTHELD 1).bump m F.HALYARD_GIVE_REFUSED
  else
    let s0 := (s.closeOpen m r d.cell).setItemBody m d.cell d body
    let unhold (t : State) : State :=
      let S := (t.mast m).sal
      t.setSal m (S.setItem d.cell { S.item d.cell with held := none })
    if stationReserved d.station ∨ s.depthOf m d.station = 0 then
      ((s0.freeItem m d.cell).bput r m F.HALYARD_IO_STATUS_CLOSED 1).bump m F.HALYARD_GIVE_CLOSED
    else if (s.mast m).hal.countAt d.station < s.depthOf m d.station then (unhold s0).queueAt m d
    else if isCore r then s0.holdGive m (.core r) d
    else ((s0.freeItem m d.cell).bput r m F.HALYARD_IO_STATUS_REFUSED 1).bump m F.HALYARD_GIVE_REFUSED

/-! ## Selection (R345) -/

/-- Insert an entry in order of PRIO, then give sequence. -/
def insertByPrio (e : QEntry) : List QEntry → List QEntry
  | [] => [e]
  | x :: xs => if e.desc.prio < x.desc.prio ∨ (e.desc.prio = x.desc.prio ∧ e.seq ≤ x.seq) then e :: x :: xs
               else x :: insertByPrio e xs

/-- Entries in order of PRIO, then give sequence. -/
def sortByPrio : List QEntry → List QEntry
  | [] => []
  | e :: es => insertByPrio e (sortByPrio es)

/-- Whether the flow rule makes selection pass over `e` (R345): its flow is busy, or an earlier item of its flow waits at the
same station. -/
def State.flowBlocks (s : State) (m : Nat) (e : QEntry) : Bool :=
  let H := (s.mast m).hal
  s.atomicOf m e.desc.station && !e.desc.noflow
    && ((H.flow e.desc.flow).busy
        || H.entries.any (fun x => x.desc.station == e.desc.station && x.desc.flow == e.desc.flow && !x.desc.noflow && decide (x.seq < e.seq)))

/-- Walk the candidates in order: the first that neither rule passes over, and how many were skipped for their flow. -/
def State.selectFrom (s : State) (m : Nat) (core : Option Nat) : List QEntry → Nat → Option QEntry × Nat
  | [], k => (none, k)
  | e :: es, k =>
    if s.flowBlocks m e then s.selectFrom m core es (k + 1)
    else
      let f := (s.mast m).hal.flow e.desc.flow
      match core with
      | some c =>
        if s.affinityOf m e.desc.station ∧ f.affValid ∧ f.affCore ≠ c then s.selectFrom m core es k else (some e, k)
      | none => (some e, k)

/-- Selection for the engine of station `st` (R345). -/
def State.selectEngine (s : State) (m st : Nat) : Option QEntry × Nat :=
  s.selectFrom m none (sortByPrio ((s.mast m).hal.entries.filter (fun e => e.desc.station == st))) 0

/-- Selection for core `c` (R345): stations served by cores whose bit is in its role. -/
def State.selectCore (s : State) (m c : Nat) : Option QEntry × Nat :=
  let H := (s.mast m).hal
  s.selectFrom m (some c)
    (sortByPrio (H.entries.filter (fun e => !(s.engineOf m e.desc.station) && (H.role c).testBit e.desc.station))) 0

/-- Remove a selected entry from its station: the wait mark and TAKES follow (R353). -/
def State.unqueue (s : State) (m : Nat) (e : QEntry) : State :=
  let H := (s.mast m).hal
  ((s.setHal m { H with entries := H.entries.erase e }).bump m F.HALYARD_TAKES).raise m (stl F.STAB_SWAIT_HWM e.desc.station) ((s.localNs m - e.time) / 1000)

/-- The flow of item `d` is held by the engine of its ATOMIC station `st` (R346). -/
def State.engineHolds (s : State) (m st : Nat) (d : Desc) : State :=
  let H := (s.mast m).hal
  if s.atomicOf m st ∧ d.noflow = false then s.setHal m (H.setFlow d.flow { H.flow d.flow with busy := true, owner := 16 + st }) else s

/-- The flow `f` when requester `r` holds it no more (R346). -/
def Flow.left (f : Flow) (r : Nat) : Flow := if f.busy ∧ f.owner = r then { f with busy := false, owner := 0 } else f

/-- The service of requester `r` on an item of flow `f` has ended (R346): BUSY is cleared. -/
def State.flowLeft (s : State) (m f r : Nat) : State :=
  let H := (s.mast m).hal
  s.setHal m (H.setFlow f ((H.flow f).left r))

/-- The engine of station `st` takes its next item, when the station is served by its engine and the engine holds no give
(R345, R348); the item that it holds while its target refuses comes first.  The engine finishes the item within the command, so the
flow it took is free again afterwards (R346). -/
def State.engineTake (s : State) (m st : Nat) : Option (Desc × State) :=
  let H := (s.mast m).hal
  match Tbl.get (fun _ => none) H.taken st with
  | some d => some (d, (s.setHal m { H with taken := Tbl.set (fun _ => none) H.taken st none }).flowLeft m d.flow (16 + st))
  | none =>
    if s.engineOf m st = false ∨ H.held.any (fun h => decide (h.giver = Giver.engine st)) then none
    else match s.selectEngine m st with
      | (some e, k) => some (e.desc, ((s.count m F.HALYARD_FLOW_SKIP k).unqueue m e).settleFlow m e.desc.flow)
      | (none, _) => none

/-- The engine of station `st` finds no item that it may take; those that its selection passes over for their flow are counted (R345). -/
def State.engineIdle (s : State) (m st : Nat) : State :=
  if s.engineOf m st = false ∨ (s.mast m).hal.held.any (fun h => decide (h.giver = Giver.engine st)) then s
  else s.count m F.HALYARD_FLOW_SKIP (s.selectEngine m st).2

/-- Producer `st` finds its Saltern target refusing (R325): it waits, busy, and the start of the hold is counted. -/
def State.engineWaits (s : State) (m st : Nat) : State :=
  let S := (s.mast m).sal
  if S.waitSt.contains st then s
  else
    let s1 := (s.setSal m { S with waitSt := S.waitSt ++ [st] }).bump m F.SALTERN_HOLD
    let H := (s1.mast m).hal
    s1.setHal m { H with busyFrom := Tbl.set (fun _ => none) H.busyFrom (16 + st) (some (s.localNs m)) }

/-- Engine `st`, whose next item is the one of `engineTake`, finds its Saltern target refusing (R325): it waits with the item in service. -/
def State.engineRefused (s : State) (m st : Nat) : State :=
  match s.engineTake m st with
  | none => s
  | some (d, t) =>
    let H := (t.mast m).hal
    ((t.setHal m { H with taken := Tbl.set (fun _ => none) H.taken st (some d) }).engineHolds m st d).engineWaits m st

/-- Engine `st` is refused no more: its wait ends (R325, R353). -/
def State.engineAdmitted (s : State) (m st : Nat) : State :=
  let S := (s.mast m).sal
  if S.waitSt.contains st then
    let s1 := s.setSal m { S with waitSt := S.waitSt.erase st }
    let H := (s1.mast m).hal
    match Tbl.get (fun _ => none) H.busyFrom (16 + st) with
    | some b => s1.setHal m { H with busyFrom := Tbl.set (fun _ => none) H.busyFrom (16 + st) none,
                                      busyAcc := Tbl.set (fun _ => 0) H.busyAcc (16 + st)
                                        (Tbl.get (fun _ => 0) H.busyAcc (16 + st) + (s.localNs m - b)) }
    | none => s1
  else s

/-! ## Cores (R343, R344, R350, R351) -/

/-- End core `c`'s service: the flow it holds is freed, its affinity count falls, its busy time is added (R344, R346, R353). -/
def State.endService (s : State) (m c : Nat) : State :=
  let H := (s.mast m).hal
  match Tbl.get (fun _ => none) H.service c with
  | none => s
  | some d =>
    let H1 := { H with service := Tbl.set (fun _ => none) H.service c none }
    let H2 := if d.noflow then H1 else H1.setFlow d.flow ((H1.flow d.flow).left c)
    let t := s.localNs m
    let from_ := Tbl.get (fun _ => none) H2.busyFrom c
    let acc := Tbl.get (fun _ => 0) H2.busyAcc c
    let H3 := match from_ with
      | some b => { H2 with busyFrom := Tbl.set (fun _ => none) H2.busyFrom c none,
                            busyAcc := Tbl.set (fun _ => 0) H2.busyAcc c (acc + (t - b)) }
      | none => H2
    (s.setHal m H3).settleFlow m d.flow

/-- Core `c` receives entry `e` (R343–R347): it leaves its station, sets its flow BUSY at an ATOMIC station, takes affinity at
an AFFINITY station, becomes the core's item in service, and its descriptor is returned. -/
def State.startService (s : State) (m c : Nat) (e : QEntry) : State :=
  let s1 := s.unqueue m e
  let H := (s1.mast m).hal
  let d := e.desc
  let f := H.flow d.flow
  let f1 := if s.atomicOf m d.station ∧ d.noflow = false then { f with busy := true, owner := c } else f
  let f2 := if s.affinityOf m d.station then { f1 with affValid := true, affCore := c } else f1
  let H1 := H.setFlow d.flow f2
  let H2 := { H1 with service := Tbl.set (fun _ => none) H1.service c (some d), blocked := H1.blocked.erase c,
                      busyFrom := Tbl.set (fun _ => none) H1.busyFrom c (some (s.localNs m)) }
  let s2 := s1.setHal m H2
  let S := (s2.mast m).sal
  let s3 := if (S.item d.cell).cells = [] then s2 else s2.setSal m (S.setItem d.cell { S.item d.cell with held := some c })
  (s3.bput64 c m F.HALYARD_TAKE_DESC_LO d.lo).bput64 c m F.HALYARD_TAKE_HI_DESC_HI d.hi

/-- Core `c`'s blocked TAKE returns the idle descriptor (R343). -/
def State.idleTake (s : State) (m c : Nat) : State :=
  let H := (s.mast m).hal
  let s1 := (s.setHal m { H with blocked := H.blocked.erase c }).bump m
    F.HALYARD_IDLE_TAKES
  (s1.bput64 c m F.HALYARD_TAKE_DESC_LO Desc.idle.lo).bput64 c m F.HALYARD_TAKE_HI_DESC_HI Desc.idle.hi

/-- Core `c`'s role becomes `mask` (R350, R351): flows of `c` at the stations it loses lose their affinity (AFF_MOVE), a
station served by cores that no core now holds is orphaned, and a station a core gains is orphaned no more. -/
def State.applyRole (s : State) (m c mask : Nat) : State :=
  let H := (s.mast m).hal
  let old := H.role c
  if old = mask then s
  else
    let H1 := { H with roles := Tbl.set (fun _ => 0) H.roles c mask }
    let lost := (List.range 256).filter (fun st => old.testBit st && !mask.testBit st)
    let gained := (List.range 256).filter (fun st => mask.testBit st && !old.testBit st)
    let movers := ((H1.entries.filter (fun e => lost.contains e.desc.station && s.affinityOf m e.desc.station
      && (H1.flow e.desc.flow).affValid && (H1.flow e.desc.flow).affCore == c)).map (fun e => e.desc.flow)).eraseDups
    let H2 := movers.foldl (fun A f => A.setFlow f { A.flow f with affValid := false, affCore := 0 }) H1
    let orphaned := lost.filter (fun st => !(s.engineOf m st) && !((List.range 16).any (fun k => (H2.role k).testBit st))
      && !H2.orphans.contains st)
    let H3 := { H2 with orphans := (H2.orphans.filter (fun st => !gained.contains st)) ++ orphaned }
    let s1 := (s.setHal m H3).count m F.HALYARD_AFF_MOVE movers.length
    if orphaned = [] then s1
    else (s1.count m F.HALYARD_ROLE_ORPHAN ((H3.entries.filter (fun e => orphaned.contains e.desc.station)).length)).irq m 0x010 2

/-- Whether reefed mode gates core `c` at its read of TAKE (R617, R618). -/
def State.coreGated (s : State) (c : Nat) : Bool := s.reefed && decide (2 ≤ c)

/-- Core `c`, gated at TAKE, holds no station (R618). -/
def State.gateCore (s : State) (m c : Nat) : State :=
  let s1 := s.applyRole m c 0
  let H := (s1.mast m).hal
  s1.setHal m { H with blocked := if H.blocked.contains c then H.blocked else H.blocked ++ [c] }

/-- A read of TAKE by requester `r` (R343, R344): a core's service ends, its written role applies, and it receives its next
item or blocks; the host and the management port receive the idle descriptor with NOTAKE. -/
def State.take (s : State) (m r : Nat) : State :=
  if isCore r ∧ s.coreGated r then (s.endService m r).gateCore m r
  else if isCore r then
    let s1 := (s.endService m r).applyRole m r (s.roleReg m r)
    match s1.selectCore m r with
    | (some e, k) => (s1.count m F.HALYARD_FLOW_SKIP k).startService m r e
    | (none, k) =>
      let s2 := s1.count m F.HALYARD_FLOW_SKIP k
      let H := (s2.mast m).hal
      s2.setHal m { H with blocked := if H.blocked.contains r then H.blocked else H.blocked ++ [r] }
  else
    ((s.bput r m F.HALYARD_IO_STATUS_NOTAKE 1).bput64 r m F.HALYARD_TAKE_DESC_LO Desc.idle.lo).bput64 r m
      F.HALYARD_TAKE_HI_DESC_HI Desc.idle.hi

/-- The first of the cores `cs` that is blocked in TAKE and for which an item is eligible receives it (R345); each selection counts what it
passes over for its flow. -/
def State.wakeFirst (s : State) (m : Nat) : List Nat → State
  | [] => s
  | c :: cs =>
    if (s.mast m).hal.blocked.contains c ∧ s.coreGated c = false then
      match s.selectCore m c with
      | (some e, k) => (s.count m F.HALYARD_FLOW_SKIP k).startService m c e
      | (none, k) => (s.count m F.HALYARD_FLOW_SKIP k).wakeFirst m cs
    else s.wakeFirst m cs

/-! ## The commands -/

/-- A write of HALYARD.GIVE (R342). -/
def State.accGive (s : State) (m r width lo : Nat) (body : Body) : State :=
  s.action m 0x010 0x318 r true width 8 (fun t => t.giveSw m r (Desc.ofBits (t.bget64 r m F.HALYARD_GIVE_HI_DESC_HI) lo) body)

/-- HALYARD_GIVE (R342): `lo` is the value written; `body` what software has written in the item's cells. -/
def execHalyardGive (m r width lo : Nat) (body : Body) (s : State) : Host.Outcome State Fault Refusal :=
  .next (s.hostOn m r 0x010 0x318 width lo body (fun m t => t.accGive m r width lo body))

/-- HALYARD_TAKE (R343). -/
def execHalyardTake (m r width : Nat) (s : State) : Host.Outcome State Fault Refusal :=
  .next (s.action m 0x010 0x300 r false width 8 (fun t => t.take m r))

/-- TAKE_WAKE (R343): an eligible item reaches the lowest-numbered blocked core it is eligible for. -/
def execTakeWake (m : Nat) (s : State) : Host.Outcome State Fault Refusal :=
  .next (s.wakeFirst m (List.range 16))

/-- TAKE_IRQ_RELEASE (R343): a pending enabled interrupt of core `c` ends its blocked TAKE when IRQ_RELEASE has its bit. -/
def execTakeIrqRelease (m c : Nat) (s : State) : Host.Outcome State Fault Refusal :=
  .next (if (s.mast m).hal.blocked.contains c ∧ s.coreGated c = false ∧ (s.get m F.HALYARD_IRQ_RELEASE_CORES).testBit c
    then (s.idleTake m c).bump m F.HALYARD_RELEASED else s)

/-- A write of HALYARD.RELEASE (R343): the named cores' blocked TAKEs end. -/
def State.accRelease (s : State) (m r width cores : Nat) : State :=
  s.action m 0x010 0x044 r true width 4 (fun t =>
    (List.range 16).foldl (fun u c =>
      if cores.testBit c ∧ (u.mast m).hal.blocked.contains c ∧ u.coreGated c = false then (u.idleTake m c).bump m F.HALYARD_RELEASED else u) t)

/-- HALYARD_RELEASE (R343). -/
def execHalyardRelease (m r width cores : Nat) (s : State) : Host.Outcome State Fault Refusal :=
  .next (s.hostOn m r 0x010 0x044 width cores .empty (fun m t => t.accRelease m r width cores))

/-- A write of HALYARD.DONE by requester `r` (R344): with no item in service nothing changes but DONE_EMPTY. -/
def State.accDone (s : State) (m r width value : Nat) : State :=
  s.action m 0x010 0x320 r true width 4 (fun t =>
    if value % 2 = 0 then t
    else if Tbl.get (fun _ => none) (t.mast m).hal.service r = none then t.bump m F.HALYARD_DONE_EMPTY
    else t.endService m r)

/-- HALYARD_DONE (R344). -/
def execHalyardDone (m r width value : Nat) (s : State) : Host.Outcome State Fault Refusal :=
  .next (s.hostOn m r 0x010 0x320 width value .empty (fun m t => t.accDone m r width value))

/-- A write of word `i` of core `c`'s HALYARD.ROLE (R350): a core blocked in TAKE takes the role at once. -/
def State.accRole (s : State) (m r width c i value : Nat) : State :=
  s.action m 0x010 (0x080 + 32 * c + 4 * i) r true width 4 (fun t =>
    let t1 := t.setWord (key m (0x010080 + 32 * c + 4 * i)) (Word.ofNat value)
    if (t1.mast m).hal.blocked.contains c ∧ t1.coreGated c = false then t1.applyRole m c (t1.roleReg m c) else t1)

/-- HALYARD_ROLE_WRITE (R350). -/
def execHalyardRoleWrite (m r width c i value : Nat) (s : State) : Host.Outcome State Fault Refusal :=
  .next (s.hostOn m r 0x010 (0x080 + 32 * c + 4 * i) width value .empty (fun m t => t.accRole m r width c i value))

/-- A write of HALYARD.HWM_CLR (R353): the marks of every station or of one, and every load mark.  A depth mark starts again at the
present count (log entry 23). -/
def State.accHalyardHwmClr (s : State) (m r width value : Nat) : State :=
  s.action m 0x010 0x050 r true width 4 (fun t =>
    let clr (u : State) (st : Nat) : State := (u.put m (stl F.STAB_SDEPTH_HWM st) ((u.mast m).hal.countAt st)).put m (stl F.STAB_SWAIT_HWM st) 0
    let t1 := if value / 2 ^ 31 % 2 = 1 then (List.range 256).foldl clr t else clr t (value % 256)
    if value / 2 ^ 30 % 2 = 1 then (List.range 34).foldl (fun u k => u.put m (F.HALYARD_LOAD_HWM.at 4 k) 0) t1 else t1)

/-- HALYARD_HWM_CLR (R353). -/
def execHalyardHwmClr (m r width value : Nat) (s : State) : Host.Outcome State Fault Refusal :=
  .next (s.hostOn m r 0x010 0x050 width value .empty (fun m t => t.accHalyardHwmClr m r width value))

/-- GIVE_TIMEOUT (R348): core `c`'s held give completes with a bus error; the item stays with the core. -/
def execGiveTimeout (m c : Nat) (s : State) : Host.Outcome State Fault Refusal :=
  let H := (s.mast m).hal
  .next (match H.held.find? (fun h => decide (h.giver = Giver.core c)) with
    | some h => (((s.setHal m { H with held := H.held.erase h }).bput c m F.HALYARD_IO_STATUS_TIMEOUT 1).bump m
        F.HALYARD_GIVE_TIMEOUT).irq m 0x010 1 |>.emit (.busError m c)
    | none => s)

/-- The first held give whose station now has room (R348). -/
def State.releasable (s : State) (m : Nat) : Option HeldGive :=
  (s.mast m).hal.held.find? (fun h => decide ((s.mast m).hal.countAt h.desc.station < s.depthOf m h.desc.station))

/-- A held give completes (R348): the item is queued; a core no longer holds it, an engine is busy no more, and an Ethernet
port gives the frames of its hold list in order, until a give is held again (R327). -/
def State.releaseHeld (s : State) (m : Nat) (h : HeldGive) : State :=
  let H := (s.mast m).hal
  let s1 := (s.setHal m { H with held := H.held.erase h }).queueAt m h.desc
  match h.giver with
  | .core _ | .ext _ =>
    let S := (s1.mast m).sal
    if (S.item h.desc.cell).cells = [] then s1 else s1.setSal m (S.setItem h.desc.cell { S.item h.desc.cell with held := none })
  | .mgmt => s1
  | .ring r =>
    let M := s1.mast m
    let x := Tbl.get (fun _ => Ring.reset) M.rings r
    s1.setMast m { M with rings := Tbl.set (fun _ => Ring.reset) M.rings r { x with head := (x.head + 1) % 2 ^ 32 } }
  | .engine st =>
    let H1 := (s1.mast m).hal
    match Tbl.get (fun _ => none) H1.busyFrom (16 + st) with
    | some b => s1.setHal m { H1 with busyFrom := Tbl.set (fun _ => none) H1.busyFrom (16 + st) none,
                                      busyAcc := Tbl.set (fun _ => 0) H1.busyAcc (16 + st)
                                        (Tbl.get (fun _ => 0) H1.busyAcc (16 + st) + (s.localNs m - b)) }
    | none => s1
  | .eth p => s1.ethDrain m p (Tbl.get (fun _ => []) (s1.mast m).sal.ethHold p)

/-- HALYARD_HOLD_RELEASE (R348, R327). -/
def execHalyardHoldRelease (m : Nat) (s : State) : Host.Outcome State Fault Refusal :=
  .next (match s.releasable m with
    | some h => s.releaseHeld m h
    | none => s)

/-- Requester `r`'s busy time of the window that closes now. -/
def State.busyTime (s : State) (m r : Nat) : Nat :=
  let H := (s.mast m).hal
  Tbl.get (fun _ => 0) H.busyAcc r + (match Tbl.get (fun _ => none) H.busyFrom r with
    | some b => s.localNs m - max b H.loadFrom
    | none => 0)

/-- LOAD_WINDOW_CLOSE (R353): each requester's busy fraction of the window, in 1/1 024, and its mark. -/
def execLoadWindowClose (m : Nat) (s : State) : Host.Outcome State Fault Refusal :=
  let H := (s.mast m).hal
  let span := s.localNs m - H.loadFrom
  let s1 := (List.range 34).foldl (fun u r =>
    let v := if span = 0 then 0 else min 1024 (s.busyTime m r * 1024 / span)
    (u.put m (F.HALYARD_LOAD_LAST.at 4 r) v).raise m (F.HALYARD_LOAD_HWM.at 4 r) v) s
  .next (s1.setHal m { H with busyAcc := [], loadFrom := s.localNs m })

end Sys2Proof.Machine
end

