-- ==== Sys2Proof/Machine/SailOps.lean ====
section
/-! DEFINITION. Shared operations of a sail: its record and clock, its profile table, windows and detectors, the lane pool with
requests, attachment and release (R66–R70, R96–R117, R133, R150, R665, R666). -/

namespace Sys2Proof.Machine

/-- Sail `k`. -/
def State.sail (s : State) (k : Nat) : Sail := Tbl.get (fun _ => Sail.reset) s.sails k

/-- Replace sail `k`. -/
def State.setSail (s : State) (k : Nat) (x : Sail) : State := { s with sails := Tbl.set (fun _ => Sail.reset) s.sails k x }

/-- Whether sail `k` is fitted. -/
def State.hasSail (s : State) (k : Nat) : Bool := decide (k < s.sailCount)

/-- Sail `k`'s LOCAL time in units of 2.5 ns (R62): 400 MHz. -/
def State.sailLocal (s : State) (k : Nat) : Nat := (s.now - (s.sail k).clkBase) / 5

/-- Slot length in µs for the encoding of TIME.MESH_CFG.SLOT (R36). -/
def slotUs (e : Nat) : Nat := if e = 0 then 5000 else if e = 2 then 20000 else 10000

/-- The slot length of a package in µs: that of the active mast's MESH domain (R36). -/
def State.slotLen (s : State) : Nat := slotUs (s.mast s.active).slotSel

/-- The active entry `p` of the profile table of die `d`. -/
def State.profile (s : State) (d p : Nat) : Nat := Tbl.get (fun i => profReset (i % 256)) s.profAct (256 * d + p % 256)

/-- The pending entry `p` of the profile table of die `d` (R151). -/
def State.profilePend (s : State) (d p : Nat) : Nat := Tbl.get (fun i => s.profile (i / 256) i) s.profPend (256 * d + p % 256)

/-! ## Values in use (R556) -/

/-- The word at `addr` of sail die `d` that its units work with: the active value, or the one before an immediate commit whose change
waits for the tick. -/
def State.usedWord (s : State) (d addr : Nat) : Word :=
  match Tbl.find? (s.sail (d - 2)).prev addr with
  | some v => Word.ofNat v
  | none => s.word (key d addr)

/-- A field of a word in use. -/
def State.used (s : State) (d : Nat) (f : Fld) : Nat := fieldOf (s.usedWord d f.addr) f.hi f.lo

/-- A field of a word in use, as a signed number. -/
def State.usedS (s : State) (d : Nat) (f : Fld) : Int := signed (f.hi + 1 - f.lo) (s.used d f)

/-! ## Calibration (R243, R244) -/

/-- The effective value of calibrated quantity `q` on die `d`: factory plus user, saturating at ±32 767. -/
def State.eff (s : State) (d q : Nat) : Int :=
  max (-32767) (min 32767 (s.getS d (F.SCAL_FACT_FACT.at 4 q) + s.usedS d (F.SCAL_USER_USER.at 4 q)))

/-! ## Windows (R66–R70, R82) -/

/-- The window control word in effect for receive window `w` of sail `k` (R69). -/
def State.winWord (s : State) (k w : Nat) : Nat := Tbl.get (fun _ => 0x323BE) (s.sail k).winRun w

/-- CENTRE of a window control word, in 100 kHz. -/
def centreOf (word : Nat) : Nat := word % 2 ^ 15

/-- Whether a span about CENTRE `c` lies where reefed mode can serve it (R67): from 400 MHz to below 1 000 MHz. -/
def reefedSpan (c : Nat) : Bool := decide (4516 ≤ c ∧ c ≤ 9491)

/-- Whether window `w` is enabled and not suspended: in reefed mode only window 0 runs, and only below 1 000 MHz (R617, R618). -/
def State.winOn (s : State) (k w : Nat) : Bool :=
  (s.winWord k w).testBit 31 && (!(s.sail k).reefed || (w == 0 && reefedSpan (centreOf (s.winWord k w))))

/-- Edges of a span about a centre, in 100 kHz (R67): 51.6 MHz below and 50.8 MHz above. -/
def spanLo (c : Nat) : Int := (c : Int) - 516
/-- Upper edge of a span. -/
def spanHi (c : Nat) : Int := (c : Int) + 508

/-- Whether receive window `w` is blanked by a transmission of sail `k` (R82): its span meets the transmit window span widened
by GUARD; a shared edge meets (DESIGN CHOICE, log entry 156). -/
def State.winBlanks (s : State) (k w : Nat) : Bool :=
  let g : Int := s.get (sailDie k) F.WIN_BLANK_CFG_GUARD
  let t := centreOf (s.sail k).txRun
  let c := centreOf (s.winWord k w)
  decide (spanLo t - g ≤ spanHi c) && decide (spanLo c ≤ spanHi t + g)

/-- Whether window `w` is blanked now (R83). -/
def State.blanked (s : State) (k w : Nat) : Bool := (s.get (sailDie k) F.WIN_STATUS_W_BLANKED).testBit w

/-- Whether the detectors of window `w` on an aerial run as far as suspensions go (R65, R69, R83, R84). -/
def State.aerialUp (s : State) (k w aer : Nat) : Bool :=
  let x := s.sail k
  s.winOn k w && (s.winWord k w).testBit (16 + aer) && !(s.blanked k w) && !(x.settling.contains w) && !x.clockLost
    && !x.gated && ((x.obs == none && !x.reefed) || aer == 0)

/-- Whether the detector of a bin on an aerial runs (R96). -/
def State.detectorUp (s : State) (k w bin aer : Nat) : Bool :=
  s.aerialUp k w aer && (s.get (sailDie k) ((F.WIN_BIN_MASK_EN.at 16 w).at 4 (bin / 32))).testBit (bin % 32)

/-- The hypothesis word (R97) of hypothesis `h` of a bin. -/
def State.hypAddr (s : State) (k w bin h : Nat) : Nat :=
  let set := s.used (sailDie k) ((F.NEST_BIN_SET_SET.at 64 w).at 4 (bin / 8)) / 2 ^ (4 * (bin % 8)) % 16
  16 * set + 4 * h

/-- A field of hypothesis `h` of a bin. -/
def State.hypField (s : State) (k w bin h : Nat) (f : Fld) : Nat := s.used (sailDie k) (f.at 1 (s.hypAddr k w bin h))

/-! ## The lane pool (R106–R112) -/

/-- Lane `l` of sail `k`. -/
def State.lane (s : State) (k l : Nat) : Lane := Tbl.get (fun _ => Lane.idle) (s.sail k).lanes l

/-- Replace lane `l`. -/
def State.setLane (s : State) (k l : Nat) (x : Lane) : State :=
  s.setSail k { s.sail k with lanes := Tbl.set (fun _ => Lane.idle) (s.sail k).lanes l x }

/-- Lanes that exist (R112). -/
def Sail.laneCount (x : Sail) : Nat := if x.reefed then 64 else 512

/-- The attached lanes, lowest index first. -/
def Sail.attached (x : Sail) : List (Nat × Lane) := x.lanes.filter (fun e => e.2.state != 0)

/-- Free lanes (R108). -/
def Sail.freeLanes (x : Sail) : List Nat := (List.range x.laneCount).filter (fun l => (Tbl.get (fun _ => Lane.idle) x.lanes l).state == 0)

/-- in_use[w] (R108). -/
def Sail.inUse (x : Sail) (w : Nat) : Nat := (x.attached.filter (fun e => e.2.win == w)).length

/-- RESERVE[w], ignored in reefed mode (R112). -/
def State.reserve (s : State) (k w : Nat) : Nat :=
  if (s.sail k).reefed then 0 else s.get (sailDie k) (F.LANE_RESERVE_RESERVE.at 4 w)

/-- shared_free (R108). -/
def State.laneShared (s : State) (k : Nat) : Int :=
  let x := s.sail k
  let idle := (List.range 4).foldl (fun a w => if s.winOn k w then a + (s.reserve k w - x.inUse w) else a) 0
  (x.freeLanes.length : Int) - (idle : Int)

/-- Whether a request of window `w` is eligible (R108). -/
def State.eligible (s : State) (k w : Nat) : Bool :=
  let x := s.sail k
  if x.freeLanes = [] then false
  else if x.inUse w < s.reserve k w then true
  else decide (0 < s.laneShared k)

/-- Whether a fork is allowed (R108, R112). -/
def State.forkAllowed (s : State) (k : Nat) : Bool :=
  let r := s.get (sailDie k) F.NEST_CFG_FORK_RESERVE
  decide (((if (s.sail k).reefed then min r 8 else r : Nat) : Int) < s.laneShared k)

/-- What an attachment gives a lane (R106): during observation it selects aerial A (R102, R666). -/
def State.attachLane (s : State) (k l : Nat) (q : LaneReq) (forked restarted : Bool) : State :=
  let x := s.lane k l
  let onA := (s.sail k).obs != none
  let y : Lane := { Lane.idle with
    state := 1, lastRsn := if restarted then 4 else x.lastRsn, win := q.win, bin := q.bin, hyp := q.hyp,
    aerial := if onA then 0 else q.aerial, selected := onA, pers := s.hypField k q.win q.bin q.hyp F.NEST_HYPSET_PERS,
    offset := signed 13 (s.hypField k q.win q.bin q.hyp F.NEST_HYPSET_OFFSET), forked := forked, restarted := restarted,
    attachT := s.sailLocal k, metric := q.metric, delivered := x.delivered }
  let s1 := s.setLane k l y
  if onA ∧ q.aerial = 1 then s1.bump (sailDie k) F.NEST_SEL_OTHER else s1

/-- Attach a free lane, which one the device does not fix (log entry 2), to a request or a fork. -/
def State.attachNew (s : State) (k : Nat) (q : LaneReq) (forked : Bool) : State :=
  let fs := (s.sail k).freeLanes
  let v := s.free
  let l := fs.getD (v.1 % fs.length) 0
  let d := sailDie k
  let s1 := (v.2.attachLane k l q forked false).bump d F.LANE_ATTACH
  s1.raise d (F.LANE_IN_USE_HWM.at 4 q.win) ((s1.sail k).inUse q.win)

/-- Whether request `a` is served before `b` (R109): higher metric, earlier detection, lower window, lower bin, aerial A. -/
def reqBefore (a b : LaneReq) : Bool :=
  if a.metric ≠ b.metric then b.metric < a.metric
  else if a.time ≠ b.time then a.time < b.time
  else if a.win ≠ b.win then a.win < b.win
  else if a.bin ≠ b.bin then a.bin < b.bin
  else a.aerial ≤ b.aerial

/-- The first request in serving order among those given. -/
def bestReq : List LaneReq → Option LaneReq
  | [] => none
  | q :: qs => match bestReq qs with
    | none => some q
    | some r => if reqBefore q r then some q else some r

/-- Give a freed lane to the eligible waiting request of highest metric (R109), if there is one. -/
def State.serveOne (s : State) (k : Nat) : State :=
  match bestReq ((s.sail k).waits.filter (fun q => s.eligible k q.win)) with
  | none => s
  | some q =>
    let x := s.sail k
    let s1 := (s.setSail k { x with waits := x.waits.erase q }).attachNew k q false
    s1.raise (sailDie k) F.LANE_WAIT_HWM_HWM ((s.sailLocal k - q.time) / 400)

/-- Serve waiting requests up to `n` times. -/
def State.serve (s : State) (k : Nat) : Nat → State
  | 0 => s
  | n + 1 => (s.serveOne k).serve k n

/-- Release lane `l` with a reason (R106, R117): it keeps the values of its last reception (R133). -/
def State.releaseLane (s : State) (k l rsn : Nat) : State :=
  let x := s.lane k l
  let d := sailDie k
  if x.state = 0 then s
  else
    let s1 := (s.setLane k l { x with state := 0, lastRsn := rsn, overtaken := false }).bump d (F.LANE_REL.at 4 rsn)
    if x.overtaken ∧ (rsn = 1 ∨ rsn = 9) then s1.bump d F.NEST_FALSE_START else s1

/-- Release a lane and serve a waiting request with it. -/
def State.releaseServe (s : State) (k l rsn : Nat) : State := (s.releaseLane k l rsn).serveOne k

/-- Whether a lane is in ACQ, SYNC, HDR or DATA. -/
def Lane.receiving (x : Lane) : Bool := 1 ≤ x.state && x.state ≤ 4

/-- Release every receiving lane that satisfies `p`, counting each with `c`, then serve waiting requests. -/
def State.releaseAll (s : State) (k rsn : Nat) (p : Nat → Lane → Bool) (c : Lane → State → State) : State :=
  let ls := (s.sail k).attached.filter (fun e => e.2.receiving && p e.1 e.2)
  (ls.foldl (fun t e => c e.2 (t.releaseLane k e.1 rsn)) s).serve k ls.length

/-- Drop waiting requests that satisfy `p`, counted in LANE.WAIT_DROP (R666). -/
def State.dropWaits (s : State) (k : Nat) (p : LaneReq → Bool) : State :=
  let x := s.sail k
  let gone := x.waits.filter p
  (s.setSail k { x with waits := x.waits.filter (fun q => !p q) }).count (sailDie k) F.LANE_WAIT_DROP gone.length

/-- Count a LANE_STARVED drop (R110); its event is raised at the first drop in a slot. -/
def State.starve (s : State) (k w : Nat) : State :=
  let d := sailDie k
  let s1 := (s.bump d F.LANE_STARVED).bump d (F.LANE_STARVED_W.at 4 w)
  if (s1.sail k).starved then s1 else (s1.setSail k { s1.sail k with starved := true }).irq d 0x00B 1

/-- The waiting request of lowest metric; of equals the last in serving order, which R110 leaves open (DESIGN CHOICE, log entry 157). -/
def worstReq : List LaneReq → Option LaneReq
  | [] => none
  | q :: qs => match worstReq qs with
    | none => some q
    | some r => if reqBefore q r then some r else some q

/-- A request of a bin (R107–R110): attached at once when eligible, else waiting, displacing or dropped at a full list. -/
def State.request (s : State) (k : Nat) (q : LaneReq) : State :=
  if s.eligible k q.win then s.attachNew k q false
  else
    let x := s.sail k
    if x.waits.length < 64 then s.setSail k { x with waits := x.waits ++ [q] }
    else match worstReq x.waits with
      | some r =>
        if r.metric < q.metric then
          ((s.setSail k { x with waits := x.waits.erase r ++ [q] }).bump (sailDie k) F.LANE_DISPLACED).starve k r.win
        else s.starve k q.win
      | none => s

/-! ## Register actions of a sail (R541, R544) -/

/-- A full-width access that acts through the access itself on a sail: narrower is refused with ACCERR and CAUSE 1. -/
def State.sailAction (s : State) (k page off r width : Nat) (act : State → State) : State :=
  if s.hasSail k = false then s
  else if width ≠ 4 then s.capture (sailDie k) page 0 1 r off
  else act s

/-- The configuration that a mast's copy holds of sail `k`: active words by address, those of the fuses and the factory aside. -/
def State.copyConfig (s : State) (m k : Nat) : Tbl Nat :=
  (List.filter (fun (e : Nat × Word) => decide (e.1 / 2 ^ 24 = copyDie m k) && decide (0x040 ≤ keyOff e.1 ∧ keyOff e.1 < 0x400)
    && decide (keyPage e.1 ≠ 0x004)) s.regs).map (fun e => (e.1 % 2 ^ 24, e.2.toNat))

/-- Mast `m` reloads the configuration of sail `k` from its copy by far writes and one commit (R485): active and pending values. -/
def State.loadConfig (s : State) (m k : Nat) : State :=
  let d := sailDie k
  let one (t : State) (e : Nat × Nat) : State :=
    let t1 := t.setWord (key d e.1) (Word.ofNat e.2)
    match rowOf d (e.1 / 4096) (e.1 % 4096) with
    | some (r, _) => if r.rwb = 0 then t1 else t1.setWord (key d (e.1 + 0x800)) (Word.ofNat e.2)
    | none => t1
  let s1 := (s.copyConfig m k).foldl one s
  let mine := List.filter (fun (e : Nat × Nat) => e.1 / 256 == copyDie m k) s1.profAct
  { s1 with profAct := mine.foldl (fun (t : Tbl Nat) (e : Nat × Nat) => Tbl.set (fun i => profReset (i % 256)) t (256 * d + e.1 % 256) e.2) s1.profAct,
            profPend := List.filter (fun (e : Nat × Nat) => e.1 / 256 != d) s1.profPend }

end Sys2Proof.Machine
end

