-- ==== Sys2Proof/Machine/Domains.lean ====
section
/-! DEFINITION. The values of the time domains LOCAL, MESH, NET and AUX, and the comparison of times (R383, R384). -/

namespace Sys2Proof.Machine

/-- Units of a domain value in one ns: 2^16 · 10^9 (R391: rates are held to 2^-16 ppb). -/
def domUnit : Int := 65536000000000

/-- Domain `x` of mast `m` (1 MESH, 2 NET, 3 AUX). -/
def State.dom (s : State) (m x : Nat) : Dom := Tbl.get (fun _ => Dom.reset) (s.mast m).doms x

/-- Replace domain `x` of mast `m`. -/
def State.setDom (s : State) (m x : Nat) (d : Dom) : State :=
  s.setMast m { s.mast m with doms := Tbl.set (fun _ => Dom.reset) (s.mast m).doms x d }

/-- A domain carried to LOCAL time `t`: it advances at LOCAL × (1 + FREQ) (R383). -/
def Dom.toTime (d : Dom) (t : Nat) : Dom := { d with val := d.val + ((t : Int) - d.at_) * (domUnit + d.freq), at_ := t }

/-- The slot length in ns that mast `m` has in force. -/
def State.slotNs (s : State) (m : Nat) : Nat := 1000 * slotUs (s.mast m).slotSel

/-- The ns of domain `x` now: TAI ns for NET and AUX; ns since ASN 0 for MESH. -/
def State.domNs (s : State) (m x : Nat) : Int :=
  let v := ((s.dom m x).toTime (s.localNs m)).val / domUnit
  if x = 1 then ((s.mast m).asn : Int) * s.slotNs m + v else v

/-- NET time in ns. -/
def State.netNs (s : State) (m : Nat) : Int := s.domNs m 2

/-- Units of the high part of a time of domain `x` in ns: 1 for LOCAL, S for MESH, 10^9 for NET and AUX (R396). -/
def State.hiNs (s : State) (m x : Nat) : Nat := if x = 0 then 1 else if x = 1 then s.slotNs m else 1000000000

/-- Bits of the high part of a time of domain `x` (R383, R396). -/
def hiBits (x : Nat) : Nat := if x = 0 then 64 else if x = 1 then 40 else 48

/-- The time of domain `x` now, as its high part and its ns. -/
def State.domTime (s : State) (m x : Nat) : Nat × Nat :=
  if x = 0 then (s.localNs m % 2 ^ 64, 0)
  else
    let v := s.domNs m x
    let u : Int := s.hiNs m x
    ((v / u).toNat % 2 ^ hiBits x, (v % u).toNat)

/-- How far, in ns, the domain time `(hi, lo)` lies ahead of now: a signed difference of the width of the high part (R384). -/
def State.ahead (s : State) (m x hi lo : Nat) : Int :=
  let n := s.domTime m x
  sdiff (hiBits x) hi n.1 * s.hiNs m x + ((lo : Int) - n.2)

/-- The domain time `ns` after `(hi, lo)`; a carry out of the low part goes into the high part (R396). -/
def State.domAdd (s : State) (m x hi lo ns : Nat) : Nat × Nat :=
  let u := s.hiNs m x
  let t := hi * u + lo + ns
  (t / u % 2 ^ hiBits x, t % u)

end Sys2Proof.Machine
end

