-- ==== Sys2Proof/Machine/Gates.lean ====
section
/-! DEFINITION. Egress ports and their gates, the radio downlink shapers and the sluices (R359–R376, R578, R581). -/

namespace Sys2Proof.Machine

/-! ## Gate lists (R364–R368) -/

/-- The entry in force at `pos` ns of a cycle: its index, its gate bits and the ns left of it (R364). -/
def entryAt : List GateEntry → Nat → Nat → Nat × Nat × Nat
  | [], _, i => (i, 0xFF, 0)
  | e :: es, pos, i => if pos < e.ns then (i, e.gates, e.ns - pos) else entryAt es (pos - e.ns) (i + 1)

/-- The entry of a list in force at NET time `t` (R364, R367). -/
def GateList.atTime (l : GateList) (t : Int) : Nat × Nat × Nat :=
  entryAt l.entries (if l.cycle = 0 then 0 else ((t - l.base) % (l.cycle : Int)).toNat) 0

/-- The ns for which class `c` stays open from the start of the entries, and whether a closed entry ends it. -/
def openPrefix (c : Nat) : List GateEntry → Nat × Bool
  | [] => (0, false)
  | e :: es => if e.gates.testBit c then ((openPrefix c es).1 + e.ns, (openPrefix c es).2) else (0, true)

/-- The ns for which class `c` stays open from time `t` in a list that keeps running; none when it never closes (R368). -/
def GateList.openFor (l : GateList) (c : Nat) (t : Int) : Option Nat :=
  let p := l.atTime t
  if p.2.1.testBit c = false then some 0
  else
    let r := openPrefix c (l.entries.drop (p.1 + 1))
    if r.2 then some (p.2.2 + r.1)
    else
      let q := openPrefix c l.entries
      if q.2 then some (p.2.2 + r.1 + q.1) else none

/-- The longest of the open windows of class `c` in a run of entries, `cur` ns being open already (R368). -/
def longestOpen (c : Nat) : List GateEntry → Nat → Nat
  | [], cur => cur
  | e :: es, cur => if e.gates.testBit c then longestOpen c es (cur + e.ns) else max cur (longestOpen c es 0)

/-- MAX_OPEN of class `c` (R368): none when the gate never closes. -/
def GateList.maxOpen (l : GateList) (c : Nat) : Option Nat :=
  if l.entries.all (fun e => e.gates.testBit c) then none else some (longestOpen c (l.entries ++ l.entries) 0)

/-! ## Ports (R359–R363, R578) -/

/-- Egress port `p` of mast `m`. -/
def State.eport (s : State) (m p : Nat) : Gate := Tbl.get (fun _ => Gate.reset) (s.mast m).gates p

/-- Replace egress port `p` of mast `m`. -/
def State.setEport (s : State) (m p : Nat) (g : Gate) : State :=
  s.setMast m { s.mast m with gates := Tbl.set (fun _ => Gate.reset) (s.mast m).gates p g }

/-- A field of port `p`'s GCL page. -/
def gcl (f : Fld) (p : Nat) : Fld := f.page (2 * p)

/-- A word of class `c` of port `p`'s GSTAT page (R382). -/
def gstat (f : Fld) (p c : Nat) : Fld := (f.page (2 * p)).at 32 c

/-- A field of port `p`'s ETH page. -/
def eth (f : Fld) (p : Nat) : Fld := f.page p

/-- Wire time per byte in 0.1 ns of the line rate of ETH.CFG.MODE (R360, R576); 0 for a disabled port. -/
def byteTime (mode : Nat) : Nat := if mode = 1 then 80 else if mode = 2 then 32 else if mode = 3 then 8 else 0

/-- wire(L) in 0.1 ns (R360). -/
def State.wire (s : State) (m p L : Nat) : Nat := (L + 20) * byteTime (s.get m (eth F.ETH_CFG_MODE p))

/-- Whether class `c` of port `p` is open now (R364, R366). -/
def State.gateOpen (s : State) (m p c : Nat) : Bool :=
  match (s.eport m p).running with
  | none => true
  | some l => (l.atTime (s.netNs m)).2.1.testBit c

/-- remaining(c, t) of R368, across a pending change time; none when the gate never closes. -/
def State.remaining (s : State) (m p c : Nat) : Option Nat :=
  let g := s.eport m p
  let t := s.netNs m
  let r := match g.running with
    | none => none
    | some l => l.openFor c t
  match g.pending with
  | none => r
  | some n =>
    let d := ((n.base : Int) - t).toNat
    let later := (n.openFor c n.base).map (fun x => d + x)
    match r with
    | none => later
    | some x => if x < d then some x else later

/-- What gate fit makes of a head frame (R368). -/
inductive Fit where
  | start | hold | oversize | gateOversize
deriving DecidableEq, Repr

/-- Gate fit of a head frame of class `c` and `L` bytes (R368). -/
def State.fit (s : State) (m p c L : Nat) : Fit :=
  let mf := max 64 (s.get m (gcl F.GCL_MAX_FRAME_BYTES p))
  let guard_ := s.bit m (gcl F.GCL_CTL_MODE p)
  let w := s.wire m p L
  let g := s.wire m p mf
  let mo := (s.eport m p).running.bind (fun l => l.maxOpen c)
  let beyond (f : Nat → Bool) : Bool := match mo with
    | none => false
    | some x => f x
  if mf < L then .oversize
  else if guard_ = false ∧ beyond (fun x => decide (10 * x < w)) then .gateOversize
  else if guard_ ∧ beyond (fun x => decide (10 * x ≤ g)) then .gateOversize
  else if s.gateOpen m p c = false then .hold
  else match s.remaining m p c with
    | none => .start
    | some x => if guard_ then (if 10 * x ≤ g then .hold else .start) else if 10 * x < w then .hold else .start

/-- The queue that class `c` of port `p` of mast `m` drains (R361, R362): queues 160–191 for the ports of a mast that is not active. -/
def State.egressQ (s : State) (m p c : Nat) : Nat := if m = s.active then 8 * p + c else 160 + 8 * p + c

/-- The head item of class `c` of port `p`, on the active mast: its cell and the item; a BROKEN queue gives none. -/
def State.egressHead (s : State) (m p c : Nat) : Option (Nat × Item) :=
  let S := (s.mast s.active).sal
  let q := S.queue (s.egressQ m p c)
  match q.heads with
  | [] => none
  | h :: _ => if q.broken then none else some (h, S.item h)

/-- FLAGS USER bit 0: the item is a raw frame (R578). -/
def Desc.raw (d : Desc) : Bool := d.flags / 4 % 2 = 1

/-- Frame bytes of an item on an Ethernet port (R359, R578): header, tag, padding to 60 bytes and FCS. -/
def State.ethLen (s : State) (m p : Nat) (x : Item) : Nat :=
  if x.desc.raw then max 60 x.desc.len + 4
  else max 60 (14 + (if s.bit m (eth F.ETH_VLAN_TX_TAG p) then 4 else 0) + x.desc.len) + 4

/-- The frame that port `p` of mast `m` puts on the wire for a body of class `c` whose item holds `n` data bytes (R578). -/
def State.ethFrame (s : State) (m p c L n : Nat) (b : Body) : Body :=
  let tag := if s.bit m (eth F.ETH_VLAN_TX_TAG p) then some (s.get m (eth F.ETH_VLAN_VID p), c) else none
  let ip (k : Packet) : Body := .ether { dst := s.get64 m (eth F.ETH_PARTNER_MAC p) % 2 ^ 48, src := s.get64 m (eth F.ETH_OWN_MAC_MAC p) % 2 ^ 48,
                                         vlan := tag, etherType := 0x86DD, len := L, fcsOk := true, pkt := some k, ipLen := n, data := [], stamp := none }
  match b with
  | .ether e => .ether { e with len := L, fcsOk := true }
  | .packet k _ => ip k
  | x => x

/-- messageType, domainNumber and sequenceId of a body that is a PTP event message (R580, R581): IEEE 802.3 or UDP over IPv6. -/
def ptpOf (b : Body) : Option (Nat × Nat × Nat) :=
  let info (l : List Nat) : Option (Nat × Nat × Nat) :=
    if l.getD 0 15 % 16 < 4 then some (l.getD 0 0 % 16, l.getD 4 0, l.getD 30 0 * 256 + l.getD 31 0) else none
  match b with
  | .ether e => if e.etherType = 0x88F7 then info e.data
                else match e.pkt with
                  | some k => if k.udpDst = some 319 then info k.data else none
                  | none => none
  | .packet k _ => if k.udpDst = some 319 then info k.data else none
  | _ => none

/-- Bytes of the transmit time-stamp record (R581) of a frame that leaves port `p` of mast `m` now. -/
def State.ptpRecord (s : State) (m p code : Nat) (b : Body) : Option (List Nat) :=
  (ptpOf b).map (fun i =>
    let t := s.netNs m + s.getS m (eth F.ETH_PTP_CFG_TX_DELAY p)
    [0xE1, code, i.1, i.2.1] ++ beBytes 2 i.2.2 ++ leBytes 6 (t / 1000000000).toNat ++ leBytes 4 (t % 1000000000).toNat)

/-- A frame leaves port `p` of mast `m` (R578, R581): on the wire, with the record of a PTP event message.  The record of a jury's
port goes back to the active mast as a PORT_RELAY message. -/
def State.ethSend (s : State) (m p c L n : Nat) (b : Body) : State :=
  let s1 := (s.bump m (eth F.ETH_TX_FRAMES p)).emit (.ethTx m p (s.ethFrame m p c L n b))
  match s.ptpRecord m p (if m = s.active then 8 + p else 14) b with
  | none => s1
  | some w =>
    let s2 := s1.bump m (eth F.ETH_TS_TX p)
    if m = s.active then s2.event m .ptpTx (8 + p) w
    else s2.sendOn 6 (decide (m = 1)) (message 0x0F (16 + p) (Relay.bytes (.ptp w)))

/-- The head frame of class `c` is held (R369): a new hold is counted. -/
def State.holdHead (s : State) (m p c cell : Nat) : State :=
  let g := s.eport m p
  match Tbl.find? g.holds c with
  | some h => if h.cell = cell then s else
      (s.setEport m p { g with holds := Tbl.put g.holds c ⟨cell, 0, s.localNs m⟩ }).bump m (gstat F.GSTAT_GATE_HOLDS_COUNT p c)
  | none => (s.setEport m p { g with holds := Tbl.put g.holds c ⟨cell, 0, s.localNs m⟩ }).bump m (gstat F.GSTAT_GATE_HOLDS_COUNT p c)

/-- The head frame of class `c` starts (R361, R369, R376): the hold and latency marks, the wire until wire(L), and the frame sent;
a jury's port receives it over the mast–mast connection (R362). -/
def State.startFrame (s : State) (m p c L : Nat) : State :=
  let a := s.active
  match s.dequeue a (s.egressQ m p c) with
  | none => s
  | some (cell, s1) =>
    let x := (s1.mast a).sal.item cell
    let t := s.localNs m
    let stop := t + (s.wire m p L + 9) / 10
    let g := s1.eport m p
    let held := match Tbl.find? g.holds c with
      | some h => if h.cell = cell then h.acc + (t - h.since) else 0
      | none => 0
    let others := (Tbl.del g.holds c).map (fun e => (e.1, { e.2 with acc := e.2.acc + (t - e.2.since), since := stop }))
    let s2 := s1.setEport m p { g with wire := some (c, stop), holds := others, shifted := false }
    let lat := (sdiff 48 (s.localNs a) x.desc.stamp / 1000).toNat
    let s3 := (((s2.raise m (gstat F.GSTAT_GATE_WAIT_HWM_HWM p c) held).raise m (gstat F.GSTAT_LAT_HWM_HWM p c) lat).bump m
      (gstat F.GSTAT_TX_FRAMES_COUNT p c)).freeItem a cell
    if m = a then s3.ethSend m p c L x.desc.len x.body
    else s3.sendOn 6 (decide (a = 1)) (message 0x0F p (Relay.bytes (.egress p c L x.desc.len x.body)))

/-- Remove the head of class `c` and free its cells, counting it. -/
def State.dropHead (s : State) (m p c : Nat) (f : Fld) : State :=
  match s.dequeue s.active (s.egressQ m p c) with
  | none => s
  | some (cell, s1) =>
    let g := s1.eport m p
    ((s1.setEport m p { g with holds := Tbl.del g.holds c }).freeItem s.active cell).bump m f

/-- Serve class `c` of port `p`: its head frame is dropped, held or started (R361, R368, R578); whether one started. -/
def State.serveClass (s : State) (m p c : Nat) : Nat → Bool × State
  | 0 => (false, s)
  | n + 1 =>
    match s.egressHead m p c with
    | none => (false, s)
    | some (cell, x) =>
      let L := s.ethLen m p x
      match s.fit m p c L with
      | .oversize => (s.dropHead m p c (gstat F.GSTAT_OVERSIZE_COUNT p c)).serveClass m p c n
      | .gateOversize => (s.dropHead m p c (gstat F.GSTAT_GATE_OVERSIZE_COUNT p c)).serveClass m p c n
      | .hold => (false, s.holdHead m p c cell)
      | .start =>
        if s.bit m (eth F.ETH_PARTNER_VALID p) = false then (s.dropHead m p c (eth F.ETH_NO_PARTNER p)).serveClass m p c n
        else (true, s.startFrame m p c L)

/-- Serve the classes in the order given until one starts a frame. -/
def State.serveClasses (s : State) (m p : Nat) : List Nat → State
  | [] => s
  | c :: cs =>
    let r := s.serveClass m p c (((s.mast s.active).sal.queue (s.egressQ m p c)).heads.length + 1)
    if r.1 then r.2 else r.2.serveClasses m p cs

/-- Whether reefed mode gates port `p` of mast `m` (R617): every port but port 0 as 1000BASE-X. -/
def State.portGated (s : State) (m p : Nat) : Bool := s.reefed && (p != 0 || s.get m (eth F.ETH_CFG_MODE p) != 1)

/-- A free port starts the head frame of the highest class that has an allowed one (R361); nothing while it is paused, busy, not
fitted or not up. -/
def State.portLook (s : State) (m p : Nat) : State :=
  let g := s.eport m p
  if g.paused ∨ g.wire ≠ none ∨ s.get m (eth F.ETH_LINK_STATE p) ≠ 2 ∨ byteTime (s.get m (eth F.ETH_CFG_MODE p)) = 0
      ∨ 4 ≤ p ∨ 2 ≤ m ∨ s.fitted m = false ∨ s.portGated m p then s
  else s.serveClasses m p [7, 6, 5, 4, 3, 2, 1, 0]

/-- GCL.OPER follows the list in force (R381). -/
def State.showGate (s : State) (m p : Nat) : State :=
  let g := s.eport m p
  let e := match g.running with
    | none => (0, 0xFF, 0)
    | some l => l.atTime (s.netNs m)
  ((((s.put m (gcl F.GCL_OPER_ENTRY p) e.1).put m (gcl F.GCL_OPER_GATES p) e.2.1).put m (gcl F.GCL_OPER_OPER_EN p)
    (if g.running = none then 0 else 1)).put m (gcl F.GCL_OPER_PENDING p) (if g.pending = none then 0 else 1)).put m (gcl F.GCL_OPER_MODE p)
    (s.get m (gcl F.GCL_CTL_MODE p))

/-- GCL.MAX_OPEN of every class follows the running list (R368). -/
def State.showMaxOpen (s : State) (m p : Nat) : State :=
  (List.range 8).foldl (fun t c =>
    t.put m ((gcl F.GCL_MAX_OPEN_NS p).at 4 c) (match (s.eport m p).running.bind (fun l => l.maxOpen c) with
      | none => 0xFFFFFFFF
      | some x => x)) s

/-- A frame that a step or a list change leaves on the wire after its class has closed is counted, once (R367). -/
def State.overrun (s : State) (m p : Nat) : State :=
  let g := s.eport m p
  match g.wire with
  | some (c, stop) =>
    if g.shifted ∧ s.localNs m < stop ∧ s.gateOpen m p c = false then
      (s.setEport m p { g with shifted := false }).bump m (gstat F.GSTAT_TX_OVERRUN_COUNT p c)
    else s
  | none => s

/-- The schedule of port `p` has moved by a step or a list change (R367), under the frame that is on the wire. -/
def State.shiftGates (s : State) (m p : Nat) : State := (s.setEport m p { s.eport m p with shifted := true }).overrun m p

/-- The NET domain of mast `m` has stepped (R367): every port finds its place again. -/
def State.gatesStepped (s : State) (m : Nat) : State :=
  (List.range 4).foldl (fun t p => ((t.showGate m p).shiftGates m p).portLook m p) s

/-- The list that the GCL page of port `p` configures (R364). -/
def State.gclList (s : State) (m p : Nat) : GateList :=
  { entries := (List.range (min 64 (s.get m (gcl F.GCL_CTL_LIST_LEN p)))).map (fun e =>
      ⟨s.get m ((gcl F.GCL_ENTRY_GATES p).at 8 e), s.get m ((gcl F.GCL_ENTRY_INTERVAL p).at 8 e)⟩),
    cycle := s.get m (gcl F.GCL_CYCLE_NS p),
    base := s.get64 m (gcl F.GCL_BASE_SEC_SEC p) % 2 ^ 48 * 1000000000 + s.get m (gcl F.GCL_BASE_NS_NS p) }

/-- What refuses a commit of port `p`'s GCL page (R365): a limit (RANGE), the interval sum (SUM). -/
def State.gclErrors (s : State) (m p : Nat) : Bool × Bool :=
  let l := s.gclList m p
  let n := s.get m (gcl F.GCL_CTL_LIST_LEN p)
  (decide (n = 0 ∨ 64 < n ∨ l.cycle < 1000 ∨ 1000000000 < l.cycle ∨ 1000000000 ≤ s.get m (gcl F.GCL_BASE_NS_NS p))
      || l.entries.any (fun e => decide (e.ns < 64)),
   decide (l.entries.foldl (fun a e => a + e.ns) 0 ≠ l.cycle))

/-- A commit of port `p`'s GCL page has been applied (R366): the list becomes pending with its change time; GATE_EN = 0 opens every
gate at once. -/
def State.gclCommitted (s : State) (m p : Nat) : State :=
  let g := s.eport m p
  if s.bit m (gcl F.GCL_CTL_GATE_EN p) = false then
    (((s.setEport m p { g with running := none, pending := none }).showGate m p).showMaxOpen m p).portLook m p
  else
    let l := s.gclList m p
    let lead := s.ahead m 2 (l.base / 1000000000) (l.base % 1000000000)
    let t := if 0 < lead ∨ l.cycle = 0 then l.base else l.base + l.cycle * ((-lead).toNat / l.cycle + 1)
    let s1 := (s.setEport m p { g with pending := some { l with base := t } }).showGate m p
    (s1.put64 m (gcl F.GCL_CHANGE_SEC_SEC p) (t / 1000000000)).put m (gcl F.GCL_CHANGE_NS_NS p) (t % 1000000000)

/-- Whether mast `m` has an Ethernet port `p`. -/
def State.hasPort (s : State) (m p : Nat) : Bool := decide (p < 4) && decide (m < 2) && s.fitted m

/-- GCL_CHANGE (R366): the pending list starts with its entry 0. -/
def execGclChange (m p : Nat) (s : State) : Host.Outcome State Fault Refusal :=
  let g := s.eport m p
  .next (match g.pending with
    | none => s
    | some l =>
      if s.hasPort m p = false then s
      else
        let s1 := ((s.setEport m p { g with running := some l, pending := none }).showGate m p).showMaxOpen m p
        ((s1.shiftGates m p).irq m (0x130 + 2 * p) 1).portLook m p)

/-- GATE_ENTRY_CHANGE (R364): the next entry's gate bits apply, as NET time places them, and a free port looks again. -/
def execGateEntryChange (m p : Nat) (s : State) : Host.Outcome State Fault Refusal :=
  .next (if s.hasPort m p then ((s.showGate m p).overrun m p).portLook m p else s)

/-- PORT_FREE (R361): the port is free and starts the head frame of the highest allowed class. -/
def execPortFree (m p : Nat) (s : State) : Host.Outcome State Fault Refusal :=
  .next (if s.hasPort m p then (s.setEport m p { s.eport m p with wire := none }).portLook m p else s)

/-- PAUSE_END (R363): a received pause ends and gate fit is evaluated again. -/
def execPauseEnd (m p : Nat) (s : State) : Host.Outcome State Fault Refusal :=
  .next (if s.hasPort m p then
      ((s.setEport m p { s.eport m p with paused := false }).put m (eth F.ETH_LINK_PAUSED p) 0).portLook m p
    else s)

/-! ## Radio downlink shapers (R370, R371, R378) -/

/-- BURST of shaper `j` in bytes; 0 acts as 1 (R377). -/
def State.shapeBurst (s : State) (m j : Nat) : Nat := max 1 (s.get m (F.SHAPE_BURST_BURST.at 8 j))

/-- The gain of every enabled shaper at a grant (R370). -/
def State.shapeGrant (s : State) (m : Nat) : State :=
  (List.range (8 * s.sailCount)).foldl (fun t j =>
    if t.bit m (F.SHAPE_BURST_EN.at 8 j) = false then t
    else
      let M := t.mast m
      let b : Int := t.shapeBurst m j
      let sum := t.getS m (F.SHAPE_TOKENS_TOKENS.at 4 j) * 1000000 + (Tbl.get (fun _ => 0) M.shapeFrac j : Nat)
        + (t.get m (F.SHAPE_RATE_RATE.at 8 j) * slotUs (t.mast m).slotSel : Nat)
      let full := decide (b * 1000000 ≤ sum)
      let tok := if full then b else sum / 1000000
      let fr := if full then 0 else (sum % 1000000).toNat
      (t.setMast m { M with shapeFrac := Tbl.set (fun _ => 0) M.shapeFrac j fr }).put m (F.SHAPE_TOKENS_TOKENS.at 4 j) (unsigned 32 tok)) s

/-- The shaper check of a data frame of `L` bytes for sail `k` and class `c` (R371): whether it passes; a pass is charged, a
deferral counted. -/
def State.shape (s : State) (m k c L : Nat) : Bool × State :=
  let j := 8 * k + c
  let tok := s.getS m (F.SHAPE_TOKENS_TOKENS.at 4 j)
  if s.bit m (F.SHAPE_BURST_EN.at 8 j) = false then (true, s)
  else if (L : Int) ≤ tok ∨ tok = s.shapeBurst m j then (true, s.put m (F.SHAPE_TOKENS_TOKENS.at 4 j) (unsigned 32 (tok - L)))
  else (false, s.bump m (F.SHAPE_DEFER_COUNT.at 4 j))

/-- A frame of `L` bytes returns its tokens (R371), capped at BURST. -/
def State.unshape (s : State) (m k c L : Nat) : State :=
  let j := 8 * k + c
  if s.bit m (F.SHAPE_BURST_EN.at 8 j) = false then s
  else s.put m (F.SHAPE_TOKENS_TOKENS.at 4 j) (unsigned 32 (min (s.shapeBurst m j : Int) (s.getS m (F.SHAPE_TOKENS_TOKENS.at 4 j) + L)))

/-! ## Sluices (R372–R375) -/

/-- A field of sluice `i`: `own` for 0–40, `peer` for 41–72 (R379). -/
def slf (own peer : Fld) (stride i : Nat) : Fld := if i < 41 then own.at stride i else peer.at stride (i - 41)

/-- Partner sluice or join sluice `i` examines an item of `L` bytes with STAMP `stamp` (R373): whether it passes. -/
def State.sluice (s : State) (m i L stamp : Nat) : Bool × State :=
  if s.bit m (slf F.SLUICE_PBURST_EN F.SLUICE_PBURST_PEER_EN 8 i) = false then (true, s)
  else
    let M := s.mast m
    let dt := (sdiff 48 stamp (Tbl.get (fun _ => 0) M.sluiceLast i)).toNat
    let b := max 1 (s.get m (slf F.SLUICE_PBURST_BURST F.SLUICE_PBURST_PEER_BURST 8 i))
    let f := slf F.SLUICE_PTOKENS_TOKENS F.SLUICE_PTOKENS_PEER_TOKENS 4 i
    let sum := s.get m f * 1000000000 + Tbl.get (fun _ => 0) M.sluiceFrac i + s.get m (slf F.SLUICE_PRATE_RATE F.SLUICE_PRATE_PEER_RATE 8 i) * dt
    let full := decide (b * 1000000000 ≤ sum)
    let tok := if full then b else sum / 1000000000
    let s1 := s.setMast m { M with sluiceFrac := Tbl.set (fun _ => 0) M.sluiceFrac i (if full then 0 else sum % 1000000000),
                                   sluiceLast := Tbl.set (fun _ => 0) M.sluiceLast i stamp }
    if L ≤ tok then (true, s1.put m f (tok - L))
    else (false, (s1.put m f tok).bump m (slf F.SLUICE_PDROP_COUNT F.SLUICE_PDROP_PEER_COUNT 4 i))

/-- Node `n`'s uplink sluice polices a frame of `L` bytes of the slot with ASN `a` (R374, R375): whether it passes. -/
def State.nodeSluice (s : State) (m n a L : Nat) : Bool × State :=
  let M := s.mast m
  let r := M.node n
  let w := r.sluice
  if s.bit m (F.SLUICE_UPBURST_EN.at 8 w.prof) = false then (true, s)
  else
    let b := max 1 (s.get m (F.SLUICE_UPBURST_BURST.at 8 w.prof))
    let rate := s.get m (F.SLUICE_UPRATE_RATE.at 8 w.prof)
    let ahead := (sdiff 40 a w.lastAsn).toNat
    let tok := if w.init = false then b else min b (w.tokens + rate * slotUs (s.mast m).slotSel * ahead / 16000000)
    let last := if 0 < sdiff 40 a w.lastAsn then a else w.lastAsn
    if L ≤ tok then
      (true, (s.setMast m (M.setNode n { r with sluice := { w with tokens := tok - L, init := true, lastAsn := last } })).bump m
        F.SLUICE_UP_PASS_COUNT)
    else
      (false, (s.setMast m (M.setNode n { r with sluice := { w with tokens := tok, init := true, lastAsn := last,
                                                                    drops := min 65535 (w.drops + 1) } })).bump m F.SLUICE_UP_DROP_COUNT)

end Sys2Proof.Machine
end

