-- ==== Sys2Proof/Machine/NodeTab.lean ====
section
/-! DEFINITION. The node lookup engine: hash, lookup, insertion, parking, rehash, relocation, promotion, aging and the
commands of the NODETAB page (R282–R299, R306–R307). -/

namespace Sys2Proof.Machine

/-- The seed of generation `g` (R283, R292): SEED_CUR for the current one, SEED_NEW for the other. -/
def State.seedOf (s : State) (m : Nat) (g : Bool) : Nat :=
  if g = (s.mast m).nt.gen then s.get64 m F.NODETAB_SEED_CUR_SEED else s.get64 m F.NODETAB_SEED_NEW_SEED

/-- Bucket and the two bittern sets of a key (R283). -/
structure Spot where
  b : Nat
  s1 : Nat
  s2 : Nat
deriving DecidableEq, Repr

/-- R283's location under `seed`. -/
def spotOf (seed k : Nat) : Spot :=
  let h := crc32c (leBytes 8 (k ^^^ seed)).reverse
  let s1 := h / 2 ^ 16 % 1024
  ⟨h % 65536, s1, s1 ^^^ (h / 2 ^ 26 * 16 ||| 0x00F)⟩

/-- The first bittern position: positions 0–262 143 are bucket entries `4 b + i`, the rest bittern entries `8 s + w`. -/
def bitternBase : Nat := 262144

/-- The entry at a position. -/
def NodeTab.ent (T : NodeTab) (p : Nat) : Entry :=
  if p < bitternBase then Tbl.get (fun _ => Entry.free) T.buckets p else Tbl.get (fun _ => Entry.free) T.bittern (p - bitternBase)

/-- Replace the entry at a position. -/
def NodeTab.setEnt (T : NodeTab) (p : Nat) (e : Entry) : NodeTab :=
  if p < bitternBase then { T with buckets := Tbl.set (fun _ => Entry.free) T.buckets p e }
  else { T with bittern := Tbl.set (fun _ => Entry.free) T.bittern (p - bitternBase) e }

/-- The OVF count of bucket `b` under generation `g` (R282, R286). -/
def NodeTab.ovf (T : NodeTab) (g : Bool) (b : Nat) : Nat := Tbl.get (fun _ => 0) (if g then T.ovf1 else T.ovf0) b

/-- Set the OVF count of bucket `b` under generation `g`. -/
def NodeTab.setOvf (T : NodeTab) (g : Bool) (b n : Nat) : NodeTab :=
  if g then { T with ovf1 := Tbl.set (fun _ => 0) T.ovf1 b n } else { T with ovf0 := Tbl.set (fun _ => 0) T.ovf0 b n }

/-- Bittern entries in use (R306). -/
def NodeTab.bitternUse (T : NodeTab) : Nat := (T.bittern.filter (fun e => e.2.valid)).length

/-- The generation that insertions use (R290). -/
def NodeTab.insGen (T : NodeTab) : Bool := if T.rehash then !T.gen else T.gen

/-- Replace mast `m`'s node table. -/
def State.setNt (s : State) (m : Nat) (T : NodeTab) : State := s.setMast m { s.mast m with nt := T }

/-- Positions of the four entries of bucket `b`. -/
def bucketPos (b : Nat) : List Nat := (List.range 4).map (fun i => 4 * b + i)

/-- Positions of the eight ways of bittern set `w`. -/
def setPos (w : Nat) : List Nat := (List.range 8).map (fun i => bitternBase + 8 * w + i)

/-- The matches of a key in one generation, in the order of R287. -/
def State.hitsIn (s : State) (m k : Nat) (g : Bool) : List Nat :=
  let T := (s.mast m).nt
  let sp := spotOf (s.seedOf m g) k
  let ok (p : Nat) : Bool := (T.ent p).valid && (T.ent p).key == k && (T.ent p).gen == g
  (if T.ovf g sp.b = 0 then [] else (setPos sp.s1 ++ setPos sp.s2).filter ok) ++ (bucketPos sp.b).filter ok

/-- Every match of a key, old generation first (R287). -/
def State.hits (s : State) (m k : Nat) : List Nat :=
  let T := (s.mast m).nt
  if T.rehash then s.hitsIn m k T.gen ++ s.hitsIn m k (!T.gen) else s.hitsIn m k T.gen

/-- The copy that a lookup selects (R287): a bucket copy before a bittern copy, and of two of one kind the new one. -/
def State.pick (s : State) (m : Nat) (hs : List Nat) : Option Nat :=
  let T := (s.mast m).nt
  let bs := hs.filter (fun p => p < bitternBase)
  let pool := if bs = [] then hs else bs
  match pool.find? (fun p => (T.ent p).gen != T.gen) with
  | some p => some p
  | none => pool.head?

/-- A lookup through the hash table, counted (R287, R289, R307). -/
def State.lookupKey (s : State) (m k : Nat) : Option Nat × State :=
  let s1 := s.bump m F.NODETAB_LOOKUPS
  match s.pick m (s.hits m k) with
  | some p => (some p, s1)
  | none => (none, s1.bump m F.NODETAB_MISSES)

/-- A lookup through the short-address index, counted (R284, R289, R307): the node, unless AGED or not USED. -/
def State.lookupShort (s : State) (m a : Nat) : Option Nat × State :=
  let s1 := s.bump m F.NODETAB_LOOKUPS
  match Tbl.get (fun _ => none) (s.mast m).nt.short a with
  | some n =>
    let r := (s.mast m).node n
    if r.ident.used ∧ r.ident.aged = false then (some n, s1) else (none, s1.bump m F.NODETAB_SHORT_MISS)
  | none => (none, s1.bump m F.NODETAB_SHORT_MISS)

/-- The node and position of an address (R289): an EUI-64 through the hash table, a short address through the index. -/
def State.lookupAddr (s : State) (m : Nat) (a : Addr) : Option Nat × State :=
  match a with
  | .ext k => let r := s.lookupKey m k
              (r.1.map (fun p => ((s.mast m).nt.ent p).node), r.2)
  | .short x => s.lookupShort m x
  | .none => (none, s)

/-! ## Placement (R286, R290) -/

/-- A free location for a key under generation `g` by R290's rule. -/
def State.placeFor (s : State) (m k : Nat) (g : Bool) : Option Nat :=
  let T := (s.mast m).nt
  let sp := spotOf (s.seedOf m g) k
  match (bucketPos sp.b).find? (fun p => !(T.ent p).valid) with
  | some p => some p
  | none =>
    let f1 := (setPos sp.s1).filter (fun p => !(T.ent p).valid)
    let f2 := (setPos sp.s2).filter (fun p => !(T.ent p).valid)
    let f := if f1.length < f2.length then f2 else f1
    if T.ovf g sp.b < 2047 then f.head? else none

/-- Write an entry at a free position: OVF rises first for a bittern entry (R286), COUNT follows, and the use mark (R306). -/
def State.putEntry (s : State) (m p : Nat) (e : Entry) : State :=
  let T := (s.mast m).nt
  let b := (spotOf (s.seedOf m e.gen) e.key).b
  let T1 := if p < bitternBase then T else T.setOvf e.gen b (T.ovf e.gen b + 1)
  let T2 := { T1.setEnt p { e with valid := true, pendingMove := false } with count := T.count + 1 }
  (s.setNt m T2).raise m F.NODETAB_BITTERN_HWM_HWM T2.bitternUse

/-- Clear VALID of the entry at a position; OVF of its bucket falls after (R286). -/
def State.dropEntry (s : State) (m p : Nat) : State :=
  let T := (s.mast m).nt
  let e := T.ent p
  let b := (spotOf (s.seedOf m e.gen) e.key).b
  let T1 := { T.setEnt p { e with valid := false, pendingMove := false } with count := T.count - 1 }
  s.setNt m (if p < bitternBase then T1 else T1.setOvf e.gen b (T1.ovf e.gen b - 1))

/-- Outcome codes of CMD_STATUS (R306). -/
inductive CmdStatus where
  | ok | notFound | exists_ | parked | pendFull | shortTaken | badArg | notActive | noRoom
deriving DecidableEq, Repr

/-- The number that CMD_STATUS shows (R306). -/
def CmdStatus.code : CmdStatus → Nat
  | .ok => 0 | .notFound => 1 | .exists_ => 2 | .parked => 3 | .pendFull => 4 | .shortTaken => 5 | .badArg => 6
  | .notActive => 7 | .noRoom => 8

/-- The insertion of R290 up to the placement: the state after it when it placed the entry, else why not; `none` parks. -/
def State.tryInsert (s : State) (m : Nat) (x : Parked) : Option CmdStatus × State :=
  let r := (s.mast m).node x.node
  if r.ident.used = false ∨ r.ident.eui ≠ x.key then (some .badArg, s)
  else if s.hits m x.key ≠ [] then (some .exists_, s)
  else
    let T := (s.mast m).nt
    match s.placeFor m x.key T.insGen with
    | none => (none, s)
    | some p =>
      let s1 := s.putEntry m p ⟨x.key, x.node, x.port, true, x.static, false, T.now, T.insGen⟩
      (some .ok, s1.setMast m ((s1.mast m).setNode x.node
        { r with ident := { r.ident with port := x.port, joinTs := T.now, aged := false } }))

/-- Park an insertion (R291). -/
def State.park (s : State) (m : Nat) (x : Parked) : CmdStatus × State :=
  let T := (s.mast m).nt
  if 16 ≤ T.pend.length then (.pendFull, (s.bump m F.NODETAB_PEND_FULL).irq m 0x018 3)
  else
    let s1 := (s.setNt m { T with pend := T.pend ++ [x] }).bump m F.NODETAB_PARKED
    (.parked, if T.rehash then s1 else (s1.put m F.NODETAB_NT_STATUS_REHASH_REQ 1).irq m 0x018 0)

/-- An insertion (R290, R291). -/
def State.insert (s : State) (m : Nat) (x : Parked) : CmdStatus × State :=
  match s.tryInsert m x with
  | (some st, t) => (st, t)
  | (none, t) => t.park m x

/-- Retry parked insertions in arrival order (R291); those that park again keep their place. -/
def State.retryList (s : State) (m : Nat) : List Parked → List Parked × State
  | [] => ([], s)
  | x :: xs =>
    match s.tryInsert m x with
    | (none, t) => let r := t.retryList m xs
                   (x :: r.1, r.2)
    | (some st, t) => (if st = .ok then t else t.bump m F.NODETAB_PEND_DISCARD).retryList m xs

/-- PEND_RETRY (R291). -/
def State.pendRetry (s : State) (m : Nat) : State :=
  let r := s.retryList m (s.mast m).nt.pend
  r.2.setNt m { (r.2.mast m).nt with pend := r.1 }

/-! ## Rehash and relocation (R292–R295) -/

/-- REHASH_DONE (R292 step 5). -/
def State.rehashDone (s : State) (m : Nat) : State :=
  let T := (s.mast m).nt
  let T1 := { T with gen := !T.gen, rehash := false, oldLeft := 0, moverRun := false }
  let T2 := if T.gen then { T1 with ovf1 := [] } else { T1 with ovf0 := [] }
  (((s.setNt m T2).put64 m F.NODETAB_SEED_CUR_SEED (s.get64 m F.NODETAB_SEED_NEW_SEED)).put m F.NODETAB_NT_STATUS_STALL 0).irq m 0x018 1

/-- OLD_LEFT falls by 1 (R292, R293). -/
def State.oldDec (s : State) (m : Nat) : State :=
  let T := (s.mast m).nt
  let s1 := s.setNt m { T with oldLeft := T.oldLeft - 1 }
  if T.oldLeft ≤ 1 then s1.rehashDone m else s1

/-- ENTRY_PROMOTION (R295): the valid bittern entry of lowest index whose key falls in bucket `b` moves to position `p`. -/
def State.promote (s : State) (m b p : Nat) : State :=
  let T := (s.mast m).nt
  match List.find? (fun (x : Nat × Entry) => x.2.valid && (spotOf (s.seedOf m T.gen) x.2.key).b == b) T.bittern with
  | some (q, e) => ((s.putEntry m p e).dropEntry m (bitternBase + q)).bump m F.NODETAB_PROMOTED
  | none => s

/-- The entry at `p` is deleted, and OLD_LEFT or a promotion follows (R292, R295); once its record follows too, the deletion retries the
parked insertions (R291: `State.pendRetry`). -/
def State.removeEntry (s : State) (m p : Nat) : State :=
  let T := (s.mast m).nt
  let e := T.ent p
  let b := (spotOf (s.seedOf m e.gen) e.key).b
  let s1 := s.dropEntry m p
  if T.rehash then (if e.gen = T.gen then s1.oldDec m else s1)
  else if p < bitternBase ∧ T.ovf T.gen b ≠ 0 then s1.promote m b p
  else s1

/-- A refresh of the entry at `p` heard on `port` (R297): the rows of a hit. -/
def State.refresh (s : State) (m p port : Nat) : State :=
  let T := (s.mast m).nt
  let e := T.ent p
  if e.static then (if e.port = port then s else s.bump m F.NODETAB_STATIC_MISMATCH)
  else if e.port = port ∨ s.get m F.NODETAB_LEARN_CFG_PORT_LEARN = 0 then s.setNt m (T.setEnt p { e with ageTs := T.now })
  else
    let s1 := s.setNt m (T.setEnt p { e with ageTs := T.now, port := port })
    let r := (s1.mast m).node e.node
    (s1.setMast m ((s1.mast m).setNode e.node { r with ident := { r.ident with port := port } })).bump m F.NODETAB_PORT_MOVE

/-- The refreshes that meet another operation on the entry at `p` (R299): of `races`, position and heard port, those of that entry.  Each is the
refresh that a NODE_LEARN still in service makes; its NODE_LEARN command then finds it made. -/
def State.meets (s : State) (m p : Nat) (races : List (Nat × Nat)) : State :=
  (races.filter (fun r => r.1 == p && ((s.mast m).nt.ent p).valid)).foldl (fun t r => t.refresh m p r.2) s

/-- The entry at `q` takes AGE_TS and PORT of the entry at `p` when that has changed since it read as `e` (R293 step 4), which is counted. -/
def State.carryRefresh (s : State) (m p q : Nat) (e : Entry) : State :=
  let T := (s.mast m).nt
  let x := T.ent p
  if x.ageTs = e.ageTs ∧ x.port = e.port then s
  else (s.setNt m (T.setEnt q { T.ent q with ageTs := x.ageTs, port := x.port })).bump m F.NODETAB_MOVE_RETRY

/-- One move of the old-generation entry at `p` (R293), while the refreshes `races` reach it: whether it moved. -/
def State.moveEntry (s : State) (m p : Nat) (races : List (Nat × Nat)) : Bool × State :=
  let T := (s.mast m).nt
  let e := T.ent p
  let s1 := s.setNt m (T.setEnt p { e with pendingMove := true })
  match s1.placeFor m e.key (!T.gen) with
  | none =>
    let T1 := (s1.mast m).nt
    (false, ((s1.setNt m (T1.setEnt p { T1.ent p with pendingMove := false })).bump m F.NODETAB_MOVE_DEFER).meets m p races)
  | some q =>
    let s2 := (s1.putEntry m q { e with gen := !T.gen }).meets m p races
    (true, (((s2.carryRefresh m p q e).dropEntry m p).bump m F.NODETAB_MOVED).oldDec m)

/-- Listed positions of a table in a range. -/
def Tbl.keysIn {α : Type} (t : Tbl α) (lo hi : Nat) : List Nat := (t.filter (fun e => decide (lo ≤ e.1) && decide (e.1 < hi))).map Prod.fst

/-- The valid positions of mover units `u0` … `u1` − 1 (R292): buckets, then bittern sets. -/
def NodeTab.unitPos (T : NodeTab) (u0 u1 : Nat) : List Nat :=
  Tbl.keysIn T.buckets (4 * u0) (4 * min u1 65536)
    ++ (Tbl.keysIn T.bittern (8 * (u0 - 65536)) (8 * (u1 - 65536))).map (fun q => bitternBase + q)

/-- Move the old-generation entries among `ps`, until the rehash ends. -/
def State.moveAll (s : State) (m : Nat) (races : List (Nat × Nat)) : List Nat → State
  | [] => s
  | p :: ps =>
    let T := (s.mast m).nt
    if T.rehash = false then s
    else if (T.ent p).valid ∧ (T.ent p).gen = T.gen then
      let r := s.moveEntry m p races
      let T1 := (r.2.mast m).nt
      (if r.1 then r.2.setNt m { T1 with moverMoved := T1.moverMoved + 1 } else r.2).moveAll m races ps
    else s.moveAll m races ps

/-- MOVER_INTERVAL (R292–R294): MOVER_RATE units are visited, while the refreshes `races` (position, heard port) reach entries in their moves; at
the end of a pass, the one that ends the rehash among them, PEND is retried (R291), and a pass that moved nothing stalls. -/
def execMoverInterval (m : Nat) (races : List (Nat × Nat)) (s : State) : Host.Outcome State Fault Refusal :=
  let T := (s.mast m).nt
  if T.rehash = false ∨ T.moverRun = false ∨ s.get m F.NODETAB_REHASH_CTL_MOVER_EN = 0 then .next s
  else
    let u1 := min 66560 (T.moverAt + max 1 (s.get m F.NODETAB_RATE_CFG_MOVER_RATE))
    let s1 := s.moveAll m races (T.unitPos T.moverAt u1)
    let T1 := (s1.mast m).nt
    if T1.rehash = false then .next (s1.pendRetry m)
    else if u1 < 66560 then .next (s1.setNt m { T1 with moverAt := u1 })
    else
      let s2 := s1.pendRetry m
      let T2 := (s2.mast m).nt
      if T1.moverMoved = 0 then
        .next (((s2.setNt m { T2 with moverAt := 0, moverMoved := 0, moverRun := false }).put m F.NODETAB_NT_STATUS_STALL 1).irq m 0x018 2)
      else .next (s2.setNt m { T2 with moverAt := 0, moverMoved := 0 })

/-- REHASH_START (R292): ignored when a rehash is active or SEED_NEW equals SEED_CUR. -/
def State.rehashStart (s : State) (m : Nat) : State :=
  let T := (s.mast m).nt
  if T.rehash ∨ s.get64 m F.NODETAB_SEED_NEW_SEED = s.get64 m F.NODETAB_SEED_CUR_SEED then s
  else
    let s1 := s.setNt m { T with rehash := true, oldLeft := T.count, moverAt := 0, moverMoved := 0, moverRun := true }
    let s2 := s1.pendRetry m
    if T.count = 0 then s2.rehashDone m else s2

/-- RESUME (R294): clears STALL and starts a new pass. -/
def State.rehashResume (s : State) (m : Nat) : State :=
  let T := (s.mast m).nt
  if T.rehash then (s.setNt m { T with moverAt := 0, moverMoved := 0, moverRun := true }).put m F.NODETAB_NT_STATUS_STALL 0 else s

/-- A write of REHASH_CTL (R306): MOVER_EN is stored; START begins a rehash; RESUME starts a new pass. -/
def State.accRehashCtl (s : State) (m r width value : Nat) : State :=
  s.action m 0x018 0x05C r true width 4 (fun t =>
    let t1 := t.put m F.NODETAB_REHASH_CTL_MOVER_EN (value / 4 % 2)
    let t2 := if value.testBit 0 then t1.rehashStart m else t1
    if value.testBit 1 then t2.rehashResume m else t2)

/-- REHASH_START (R292): a write of REHASH_CTL with START. -/
def execRehashStart (m r width value : Nat) (s : State) : Host.Outcome State Fault Refusal :=
  .next (s.hostOn m r 0x018 0x05C width (value ||| 1) .empty (fun m t => t.accRehashCtl m r width (value ||| 1)))

/-- REHASH_RESUME (R294): a write of REHASH_CTL with RESUME. -/
def execRehashResume (m r width value : Nat) (s : State) : Host.Outcome State Fault Refusal :=
  .next (s.hostOn m r 0x018 0x05C width (value ||| 2) .empty (fun m t => t.accRehashCtl m r width (value ||| 2)))

/-! ## Aging and NOW (R296, R298) -/

/-- Record `n` takes AGED = 1 (R298, R306). -/
def State.setAged (s : State) (m n : Nat) : State :=
  let r := (s.mast m).node n
  s.setMast m ((s.mast m).setNode n { r with ident := { r.ident with aged := true } })

/-- The ager's visit of position `p` (R298, R299): an entry past AGE_LIMIT is deleted, unless one of the refreshes `races` commits between its
read and its compare. -/
def State.agePos (s : State) (m p : Nat) (races : List (Nat × Nat)) : State :=
  let T := (s.mast m).nt
  let e := T.ent p
  let lim := max 1 (s.get m F.NODETAB_AGE_CFG_AGE_LIMIT)
  if e.valid ∧ e.static = false ∧ e.pendingMove = false ∧ (lim : Int) < sdiff 24 T.now e.ageTs then
    let s1 := s.meets m p races
    if ((s1.mast m).nt.ent p).ageTs ≠ e.ageTs then s1.bump m F.NODETAB_AGE_RACE
    else ((((s1.removeEntry m p).setAged m e.node).bump m F.NODETAB_AGED).event m .nodeAged e.node []).pendRetry m
  else s

/-- The listed positions among entries `lo` … `hi` − 1 of the 270 336. -/
def NodeTab.entPos (T : NodeTab) (lo hi : Nat) : List Nat :=
  Tbl.keysIn T.buckets lo (min hi bitternBase) ++ (Tbl.keysIn T.bittern (lo - bitternBase) (hi - bitternBase)).map (fun q => bitternBase + q)

/-- AGER_INTERVAL (R298): AGER_RATE entries are visited, while the refreshes `races` (position, heard port) meet the ager. -/
def execAgerInterval (m : Nat) (races : List (Nat × Nat)) (s : State) : Host.Outcome State Fault Refusal :=
  if s.get m F.NODETAB_AGE_CFG_AGE_EN = 0 then .next s
  else
    let T := (s.mast m).nt
    let e := T.agerAt + max 1 (s.get m F.NODETAB_RATE_CFG_AGER_RATE)
    let ps := T.entPos T.agerAt (min e 270336) ++ T.entPos 0 (e - 270336)
    let s1 := ps.foldl (fun t p => t.agePos m p races) s
    .next (s1.setNt m { (s1.mast m).nt with agerAt := e % 270336 })

/-- NOW_ADVANCE (R296): NOW is a 24-bit count of seconds of MESH time. -/
def execNowAdvance (m : Nat) (s : State) : Host.Outcome State Fault Refusal :=
  .next (s.setNt m { (s.mast m).nt with now := ((s.mast m).nt.now + 1) % 2 ^ 24 })

/-- NODE_LEARN's table (R297) for node `n`, heard on `port`; `src` the frame's source address. -/
def State.learn (s : State) (m n port : Nat) (src : Addr) : State :=
  if n = noNode then s
  else
    let r := (s.mast m).node n
    let l := s.lookupKey m r.ident.eui
    match l.1 with
    | some p => l.2.refresh m p port
    | none =>
      let same : Bool := match src with
        | .ext k => decide (k = r.ident.eui)
        | _ => true
      if r.ident.used ∧ same ∧ s.get m F.NODETAB_LEARN_CFG_REINSERT = 1 then
        ((l.2.insert m ⟨r.ident.eui, n, port, false⟩).2).bump m F.NODETAB_LEARN_REINSERT
      else l.2.bump m F.NODETAB_LEARN_NOREC

/-! ## Commands of the NODETAB page (R306) -/

/-- CMD_KEY. -/
def State.cmdKey (s : State) (m : Nat) : Nat := s.get64 m F.NODETAB_CMD_KEY_KEY
/-- CMD_NODE. -/
def State.cmdNode (s : State) (m : Nat) : Nat := s.get m F.NODETAB_CMD_NODE_NODE

/-- Complete a command of the NODETAB page: CMD_STATUS shows how. -/
def State.ntDone (s : State) (m : Nat) (st : CmdStatus) : State := s.put m F.NODETAB_NT_STATUS_CMD_STATUS st.code

/-- A write of CMD_OP by requester `r` (R306): refused accesses as R544; then `act`, and its CMD_STATUS. -/
def State.ntCommand (s : State) (m r width : Nat) (act : State → CmdStatus × State) : State :=
  s.action m 0x018 0x090 r true width 4 (fun t => let x := act t
                                                 x.2.ntDone m x.1)

/-- CMD_RESULT and CMD_LOC of a LOOKUP hit at position `p` with `k` copies (R306). -/
def State.showHit (s : State) (m p k : Nat) : State :=
  let T := (s.mast m).nt
  let e := T.ent p
  let bt := decide (bitternBase ≤ p)
  let w := 2 ^ 31 + (if bt then 2 ^ 30 else 0) + (if 1 < k then 2 ^ 29 else 0) + (if e.gen then 2 ^ 28 else 0)
    + e.port % 16 * 2 ^ 24 + e.node % 2 ^ 20
  (s.setWord (key m F.NODETAB_CMD_RESULT_FOUND.addr) (Word.ofNat w)).setWord (key m F.NODETAB_CMD_LOC_BUCKET.addr)
    (Word.ofNat ((spotOf (s.seedOf m e.gen) e.key).b * 2 ^ 16 + (if bt then p - bitternBase else 0)))

/-- NODETAB_LOOKUP (R287, R306). -/
def State.accNodetabLookup (s : State) (m r width : Nat) : State :=
  s.ntCommand m r width (fun t =>
    let l := t.lookupKey m (t.cmdKey m)
    match l.1 with
    | some p => (.ok, l.2.showHit m p (t.hits m (t.cmdKey m)).length)
    | none => (.notFound, l.2.setWord (key m F.NODETAB_CMD_RESULT_FOUND.addr) 0))

/-- The command NODETAB_LOOKUP: a write of CMD_OP with OP = 1. -/
def execNodetabLookup (m r width : Nat) (s : State) : Host.Outcome State Fault Refusal :=
  .next (s.hostOn m r 0x018 0x090 width 1 .empty (fun m t => t.accNodetabLookup m r width))

/-- NODETAB_INSERT (R290). -/
def State.accNodetabInsert (s : State) (m r width : Nat) : State :=
  s.ntCommand m r width (fun t =>
    t.insert m ⟨t.cmdKey m, t.cmdNode m, t.get m F.NODETAB_CMD_ARG_PORT, t.bit m F.NODETAB_CMD_ARG_STATIC⟩)

/-- The command NODETAB_INSERT: a write of CMD_OP with OP = 2. -/
def execNodetabInsert (m r width : Nat) (s : State) : Host.Outcome State Fault Refusal :=
  .next (s.hostOn m r 0x018 0x090 width 2 .empty (fun m t => t.accNodetabInsert m r width))

/-- NODETAB_DELETE (R306): the entry is removed and its record takes AGED. -/
def State.accNodetabDelete (s : State) (m r width : Nat) : State :=
  s.ntCommand m r width (fun t =>
    let l := t.lookupKey m (t.cmdKey m)
    match l.1 with
    | none => (.notFound, l.2)
    | some p =>
      let n := ((t.mast m).nt.ent p).node
      (.ok, ((l.2.removeEntry m p).setAged m n).pendRetry m))

/-- The command NODETAB_DELETE: a write of CMD_OP with OP = 3. -/
def execNodetabDelete (m r width : Nat) (s : State) : Host.Outcome State Fault Refusal :=
  .next (s.hostOn m r 0x018 0x090 width 3 .empty (fun m t => t.accNodetabDelete m r width))

/-- Drop a short address of record `n` from the index. -/
def State.unshort (s : State) (m n : Nat) : State :=
  let r := (s.mast m).node n
  let T := (s.mast m).nt
  if r.ident.shortValid ∧ Tbl.get (fun _ => none) T.short r.ident.short = some n then
    s.setNt m { T with short := Tbl.set (fun _ => none) T.short r.ident.short none }
  else s

/-- FREE (R306): the record's entry and short index go, USED and SHORT_VALID clear, its chain's items are freed (R318) and its
key section is cleared (R424). -/
def State.freeNode (s : State) (m n : Nat) : State :=
  let r := (s.mast m).node n
  let s1 := match (s.hits m r.ident.eui).find? (fun p => ((s.mast m).nt.ent p).node == n) with
    | some p => s.removeEntry m p
    | none => s
  let s2 := r.chain.heads.foldl (fun t c => t.chainRemove m n c) (s1.unshort m n)
  let q := (s2.mast m).node n
  (s2.setMast m ((s2.mast m).setNode n { q with ident := { q.ident with used := false, shortValid := false },
                                                key := ⟨0, 0, 0, 0, false⟩ })).pendRetry m

/-- NODETAB_FREE (R306). -/
def State.accNodetabFree (s : State) (m r width : Nat) : State :=
  s.ntCommand m r width (fun t => if 131072 ≤ t.cmdNode m then (.badArg, t) else (.ok, t.freeNode m (t.cmdNode m)))

/-- The command NODETAB_FREE: a write of CMD_OP with OP = 4. -/
def execNodetabFree (m r width : Nat) (s : State) : Host.Outcome State Fault Refusal :=
  .next (s.hostOn m r 0x018 0x090 width 4 .empty (fun m t => t.accNodetabFree m r width))

/-- SHORT_SET (R306). -/
def State.accShortSet (s : State) (m r width : Nat) : State :=
  s.ntCommand m r width (fun t =>
    let n := t.cmdNode m
    let a := t.get m F.NODETAB_CMD_ARG_SHORT
    let x := (t.mast m).node n
    if 0xFFFE ≤ a ∨ 131072 ≤ n ∨ x.ident.used = false then (.badArg, t)
    else match Tbl.get (fun _ => none) (t.mast m).nt.short a with
      | some k => if k = n then (.ok, t) else (.shortTaken, t)
      | none =>
        let t1 := t.unshort m n
        let T := (t1.mast m).nt
        let t2 := t1.setNt m { T with short := Tbl.set (fun _ => none) T.short a (some n) }
        (.ok, t2.setMast m ((t2.mast m).setNode n { x with ident := { x.ident with short := a, shortValid := true } })))

/-- The command SHORT_SET: a write of CMD_OP with OP = 5. -/
def execShortSet (m r width : Nat) (s : State) : Host.Outcome State Fault Refusal :=
  .next (s.hostOn m r 0x018 0x090 width 5 .empty (fun m t => t.accShortSet m r width))

/-- SHORT_CLR (R306). -/
def State.accShortClr (s : State) (m r width : Nat) : State :=
  s.ntCommand m r width (fun t =>
    let n := t.cmdNode m
    if 131072 ≤ n then (.badArg, t)
    else
      let t1 := t.unshort m n
      let x := (t1.mast m).node n
      (.ok, t1.setMast m ((t1.mast m).setNode n { x with ident := { x.ident with shortValid := false } })))

/-- The command SHORT_CLR: a write of CMD_OP with OP = 6. -/
def execShortClr (m r width : Nat) (s : State) : Host.Outcome State Fault Refusal :=
  .next (s.hostOn m r 0x018 0x090 width 6 .empty (fun m t => t.accShortClr m r width))

/-- SET_PORT (R306). -/
def State.accSetPort (s : State) (m r width : Nat) : State :=
  s.ntCommand m r width (fun t =>
    let l := t.lookupKey m (t.cmdKey m)
    match l.1 with
    | none => (.notFound, l.2)
    | some p =>
      let T := (t.mast m).nt
      let e := T.ent p
      let port := t.get m F.NODETAB_CMD_ARG_PORT
      let t1 := l.2.setNt m (T.setEnt p { e with port := port, static := t.bit m F.NODETAB_CMD_ARG_STATIC })
      let x := (t1.mast m).node e.node
      (.ok, t1.setMast m ((t1.mast m).setNode e.node { x with ident := { x.ident with port := port } })))

/-- The command SET_PORT: a write of CMD_OP with OP = 7. -/
def execSetPort (m r width : Nat) (s : State) : Host.Outcome State Fault Refusal :=
  .next (s.hostOn m r 0x018 0x090 width 7 .empty (fun m t => t.accSetPort m r width))

/-- NODETAB_MOVE (R293, R306), while the refreshes `races` reach the entry. -/
def State.accNodetabMove (s : State) (m r width : Nat) (races : List (Nat × Nat)) : State :=
  s.ntCommand m r width (fun t =>
    let T := (t.mast m).nt
    if T.rehash = false then (.notActive, t)
    else
      let l := t.lookupKey m (t.cmdKey m)
      match l.1 with
      | none => (.notFound, l.2)
      | some p =>
        if (T.ent p).gen ≠ T.gen then (.ok, l.2)
        else
          let v := l.2.moveEntry m p races
          (if v.1 then .ok else .noRoom, v.2))

/-- The command NODETAB_MOVE: a write of CMD_OP with OP = 8. -/
def execNodetabMove (m r width : Nat) (races : List (Nat × Nat)) (s : State) : Host.Outcome State Fault Refusal :=
  .next (s.hostOn m r 0x018 0x090 width 8 .empty (fun m t => t.accNodetabMove m r width races))

/-- TABLE_DIRECT_WRITE (R285): a core's store to a table partition is dropped with a bus error and counted. -/
def execTableDirectWrite (m r : Nat) (s : State) : Host.Outcome State Fault Refusal :=
  .next ((s.bump m F.NODETAB_DIRECT_WR).emit (.busError m r))

end Sys2Proof.Machine
end

