-- ==== Sys2Proof/Machine/Keys.lean ====
section
/-! DEFINITION. Keys: slots, the commands of the KEYS page, node and group keys, crypto jobs, the RSA engine, the DRBG, the
crystallizer and let-fly (R413–R441, R451–R463). -/

namespace Sys2Proof.Machine

/-! ## Slots -/

/-- Replace mast `m`'s key engine. -/
def State.setKeys (s : State) (m : Nat) (K : KeyEng) : State := s.setMast m { s.mast m with keys := K }

/-- Slot `k`. -/
def KeyEng.slot (K : KeyEng) (k : Nat) : KeySlot := Tbl.get (fun _ => KeySlot.empty 0) K.slots k

/-- Replace slot `k`. -/
def KeyEng.setSlot (K : KeyEng) (k : Nat) (x : KeySlot) : KeyEng := { K with slots := Tbl.set (fun _ => KeySlot.empty 0) K.slots k x }

/-- The attribute word of a slot (R453); NOEXPORT is always 1. -/
def KeySlot.word (x : KeySlot) : Nat :=
  (if x.valid then 2 ^ 31 else 0) + x.typ % 4 * 2 ^ 29 + x.usage % 128 * 2 ^ 22 + (if x.lock then 2 ^ 21 else 0) + 2 ^ 20 + x.origin % 8 * 2 ^ 17
    + (if x.persisted then 2 ^ 16 else 0) + x.parent % 1024

/-- A slot whose attribute word is `w` (R453). -/
def KeySlot.withWord (x : KeySlot) (w : Nat) : KeySlot :=
  { x with valid := w.testBit 31, typ := w / 2 ^ 29 % 4, usage := w / 2 ^ 22 % 128, lock := w.testBit 21, origin := w / 2 ^ 17 % 8,
           persisted := w.testBit 16, parent := w % 1024 }

/-- The generations of a slot, as KEYS.SLOT_GEN shows them (R451). -/
def KeySlot.gens (x : KeySlot) : Nat := x.parentGen % 2 ^ 16 * 2 ^ 16 + x.gen % 2 ^ 16

/-- A slot with the generations `w`. -/
def KeySlot.withGens (x : KeySlot) (w : Nat) : KeySlot := { x with parentGen := w / 2 ^ 16 % 2 ^ 16, gen := w % 2 ^ 16 }

/-- The count T of blown tamper-record fuses (R414), which is the root's generation (R417). -/
def State.tamperT (s : State) (m : Nat) : Nat := s.get m F.TAMPER_RECORDS_COUNT

/-- The current generation of a parent code (R417): T for the root, a slot's GEN, 0 for none. -/
def State.parentGen (s : State) (m p : Nat) : Nat :=
  if p = 0x200 then s.tamperT m else if p < 512 then ((s.mast m).keys.slot p).gen else 0

/-- INVALIDATE slot `k` (R420): material and VALID go, GEN rises by 1; at GEN 0xFFFF every slot whose parent is `k` goes first,
and GEN becomes 0.  `fuel` bounds the generations of children (512 slots). -/
def KeyEng.invalidate : Nat → Nat → KeyEng → KeyEng
  | 0, _, K => K
  | fuel + 1, k, K =>
    let g := (K.slot k).gen
    if g = 0xFFFF then
      let kids := (List.range 512).filter (fun j => (K.slot j).valid && (K.slot j).parent == k && j != k)
      (kids.foldl (fun A j => KeyEng.invalidate fuel j A) K).setSlot k (KeySlot.empty 0)
    else K.setSlot k (KeySlot.empty (g + 1))

/-- RESULT codes of KEYS.STATUS (R451). -/
inductive KeyResult where
  | ok | slotBusy | usageDenied | staleParent | unwrapFail | locked | noRoot | badArg | nvFail | noEntropy
deriving DecidableEq, Repr

/-- The number that RESULT shows (R451). -/
def KeyResult.code : KeyResult → Nat
  | .ok => 0 | .slotBusy => 1 | .usageDenied => 2 | .staleParent => 3 | .unwrapFail => 4 | .locked => 5 | .noRoot => 6
  | .badArg => 7 | .nvFail => 8 | .noEntropy => 9

/-- Usage bits of the attribute word (R453), counted from bit 22. -/
inductive Usage where
  | enc | dec | wrap | unwrap | derive | mac | verify
deriving DecidableEq, Repr

/-- Bit of a usage. -/
def Usage.bit : Usage → Nat
  | .enc => 0 | .dec => 1 | .wrap => 2 | .unwrap => 3 | .derive => 4 | .mac => 5 | .verify => 6

/-- The key type that an operation needs (R422): HMAC for DERIVE, MAC and VERIFY, AES for the others. -/
def Usage.typeOk (u : Usage) (t : Nat) : Bool :=
  match u with
  | .derive | .mac | .verify => t == 2
  | _ => t == 0 || t == 1

/-- Use slot `k` for an operation (R415, R421, R422): its material and type, or why not.  A stale slot is invalidated. -/
def State.useSlot (s : State) (m k : Nat) (u : Usage) : Except KeyResult (Nat × Nat) × State :=
  let K := (s.mast m).keys
  let x := K.slot k
  if K.root = none then (.error .noRoot, s)
  else if x.valid ∧ x.parent ≠ 0x3FF ∧ x.parentGen ≠ s.parentGen m x.parent then
    (.error .staleParent, (s.setKeys m (K.invalidate 513 k)).bump m F.KEYS_STALE_PARENT)
  else if x.valid = false ∨ x.usage.testBit u.bit = false ∨ u.typeOk x.typ = false then
    (.error .usageDenied, s.bump m F.KEYS_USAGE_DENIED)
  else (.ok (x.material, x.typ), s)

/-- Big-endian four bytes of a number, as [x]₃₂ of R419. -/
def beWord (x : Nat) : List Nat := (leBytes 4 x).reverse

/-- SP 800-108 derivation of `L` bits from a root or an HMAC key (R419): the leading bits of one block. -/
def kdf (ki : Nat) (label context : List Nat) (L : Nat) : Nat :=
  beNat ((hmacSha256 (beBytes 32 ki) (beWord 1 ++ label ++ [0] ++ context ++ beWord L)).take (L / 8))

/-- Bits of a key type (R417). -/
def keyBits (typ : Nat) : Nat := if typ = 0 then 128 else 256

/-- The bytes of a key: its material and its type. -/
def keyOf (x : Nat × Nat) : List Nat := beBytes (keyBits x.2 / 8) x.1

/-- The RFC 3394 wrap of `bits` bits of material under the key `kek`: a number whose first byte is the least significant. -/
def wrapKey (kek : List Nat) (material bits : Nat) : Nat := leNat (keyWrap kek (beBytes (bits / 8) material))

/-- The material that a blob of `bits` bits wraps; none when its integrity check fails. -/
def unwrapKey (kek : List Nat) (blob bits : Nat) : Option Nat := (keyUnwrap kek (leBytes (bits / 8 + 8) blob)).map beNat

/-- The first `n` bytes of `w` words from an array of registers. -/
def State.regBytes (s : State) (d : Nat) (f : Fld) (w n : Nat) : List Nat :=
  ((List.range w).flatMap (fun i => leBytes 4 (s.word (key d (f.addr + 4 * i))).toNat)).take n

/-- One DRBG request of `bits` bits (R433): none while it is not instantiated or halted; a reseed falls due every RESEED_INT
requests, and at every request with PR. -/
def State.drbgRequest (s : State) (m bits : Nat) : Option (Nat × State) :=
  if s.bit m F.DRBG_STATUS_READY = false ∨ s.bit m F.DRBG_STATUS_HALT then none
  else
    let due := s.bit m F.DRBG_CFG_PR || decide (max 1 (s.get m F.DRBG_CFG_RESEED_INT) ≤ s.get m F.DRBG_STATUS_SINCE)
    let s1 := if due then (s.put m F.DRBG_STATUS_SINCE 0).bump m F.DRBG_RESEEDS else s
    let r := s1.draw m bits
    some (r.1, r.2.put m F.DRBG_STATUS_SINCE (r.2.get m F.DRBG_STATUS_SINCE + 1))

/-! ## Commands of the KEYS page (R418) -/

/-- The target slot. -/
def State.keySlot (s : State) (m : Nat) : Nat := s.get m F.KEYS_CMD_A_SLOT
/-- The parent code. -/
def State.keyParent (s : State) (m : Nat) : Nat := s.get m F.KEYS_CMD_A_PARENT

/-- Load a target slot (R417, R418): attributes from CMD_B, the recorded parent and its generation. -/
def State.loadSlot (s : State) (m origin parent material : Nat) (label context : List Nat) : State :=
  let K := (s.mast m).keys
  let k := s.keySlot m
  s.setKeys m (K.setSlot k
    { valid := true, typ := s.get m F.KEYS_CMD_B_TYPE, usage := s.get m F.KEYS_CMD_B_USAGE, lock := s.bit m F.KEYS_CMD_B_LOCK,
      origin := origin, persisted := false, parent := parent, parentGen := s.parentGen m parent, gen := (K.slot k).gen,
      material := material, label := label, context := context })

/-- The checks common to the loads, in the order of log entry 21: TYPE, root, WAIT_ACK, empty target (R418, R440). -/
def State.loadCheck (s : State) (m : Nat) : Option KeyResult :=
  if s.get m F.KEYS_CMD_B_TYPE = 3 then some .badArg
  else if (s.mast m).keys.root = none ∨ s.waitAck m then some .noRoot
  else if ((s.mast m).keys.slot (s.keySlot m)).valid then some .slotBusy
  else none

/-- DERIVE (R419). -/
def State.keyDerive (s : State) (m : Nat) : KeyResult × State :=
  let p := s.keyParent m
  let ll := s.get m F.KEYS_CMD_B_LABEL_LEN
  let cl := s.get m F.KEYS_CMD_B_CTX_LEN
  if 32 < ll ∨ 32 < cl ∨ (512 < p ∨ p = 0x3FF) then (.badArg, s)
  else match s.loadCheck m with
    | some e => (e, s)
    | none =>
      let label := s.regBytes m F.KEYS_LABEL_BYTES 8 ll
      let ctx := s.regBytes m F.KEYS_CONTEXT_BYTES 8 cl
      let L := keyBits (s.get m F.KEYS_CMD_B_TYPE)
      if p = 0x200 then (.ok, s.loadSlot m 1 p (kdf ((s.mast m).keys.root.getD 0) label ctx L) label ctx)
      else match s.useSlot m p .derive with
        | (.ok x, t) => (.ok, t.loadSlot m 1 p (kdf x.1 label ctx L) label ctx)
        | (.error e, t) => (e, t)

/-- GENERATE (R418). -/
def State.keyGenerate (s : State) (m : Nat) : KeyResult × State :=
  match s.loadCheck m with
  | some e => (e, s)
  | none =>
    match s.drbgRequest m (keyBits (s.get m F.KEYS_CMD_B_TYPE)) with
    | some (v, t) => (.ok, t.loadSlot m 2 0x3FF v [] [])
    | none => (.noEntropy, s)

/-- The RFC 3394 blob of `bits` bits of material in KEYS.DATA. -/
def State.keyData (s : State) (m bits : Nat) : Nat := leNat (s.regBytes m F.KEYS_DATA_BYTES 10 (bits / 8 + 8))

/-- IMPORT (R418). -/
def State.keyImport (s : State) (m : Nat) : KeyResult × State :=
  let p := s.keyParent m
  if 512 ≤ p then (.badArg, s)
  else match s.loadCheck m with
    | some e => (e, s)
    | none =>
      let bits := keyBits (s.get m F.KEYS_CMD_B_TYPE)
      match s.useSlot m p .unwrap with
      | (.error e, t) => (e, t)
      | (.ok x, t) =>
        match unwrapKey (keyOf x) (s.keyData m bits) bits with
        | some v => (.ok, t.loadSlot m 3 p v [] [])
        | none => (.unwrapFail, t.bump m F.KEYS_UNWRAP_FAIL)

/-- INVALIDATE (R420). -/
def State.keyInvalidate (s : State) (m : Nat) : KeyResult × State :=
  let K := (s.mast m).keys
  if K.root = none then (.noRoot, s)
  else if (K.slot (s.keySlot m)).lock then (.locked, s)
  else (.ok, s.setKeys m (K.invalidate 513 (s.keySlot m)))

/-- LOCK (R418): an empty slot gives BAD_ARG (log entry 21). -/
def State.keyLock (s : State) (m : Nat) : KeyResult × State :=
  let K := (s.mast m).keys
  if K.root = none then (.noRoot, s)
  else if (K.slot (s.keySlot m)).valid = false then (.badArg, s)
  else (.ok, s.setKeys m (K.setSlot (s.keySlot m) { K.slot (s.keySlot m) with lock := true }))

/-- The node a KEYS command names. -/
def State.keyNode (s : State) (m : Nat) : Nat := s.get m F.KEYS_CMD_NODE_NODE

/-- Drop a node's cached key (R425). -/
def State.uncache (s : State) (m n : Nat) : State :=
  let K := (s.mast m).keys
  s.setKeys m { K with cache := K.cache.filter (fun c => c.node != n) }

/-- Write node `n`'s key section (R424). -/
def State.setKeySec (s : State) (m n : Nat) (x : KeySec) : State :=
  (s.setMast m ((s.mast m).setNode n { (s.mast m).node n with key := x })).uncache m n

/-- Wrap a node key under the node KEK into record `n` (R424). -/
def State.nodeWrap (s : State) (m n material ver : Nat) : KeyResult × State :=
  let kk := s.get m F.KEYS_NODE_KEK_SLOT
  match s.useSlot m kk .wrap with
  | (.error e, t) => (e, t)
  | (.ok x, t) => (.ok, t.setKeySec m n ⟨wrapKey (keyOf x) material 128, ((t.mast m).keys.slot kk).gen, kk, ver, true⟩)

/-- NODE_SET (R424). -/
def State.nodeSet (s : State) (m : Nat) : KeyResult × State :=
  let n := s.keyNode m
  let p := s.keyParent m
  if 131072 ≤ n ∨ 512 ≤ p then (.badArg, s)
  else match s.useSlot m p .unwrap with
    | (.error e, t) => (e, t)
    | (.ok x, t) =>
      match unwrapKey (keyOf x) (s.keyData m 128) 128 with
      | none => (.unwrapFail, t.bump m F.KEYS_UNWRAP_FAIL)
      | some v => t.nodeWrap m n v ((((t.mast m).node n).key.ver + 1) % 256)

/-- NODE_CLEAR (R418). -/
def State.nodeClear (s : State) (m : Nat) : KeyResult × State :=
  if 131072 ≤ s.keyNode m then (.badArg, s) else (.ok, s.setKeySec m (s.keyNode m) ⟨0, 0, 0, 0, false⟩)

/-- NODE_REWRAP (R418): the record's key, unwrapped under its KEK, is wrapped under the current node KEK. -/
def State.nodeRewrap (s : State) (m : Nat) : KeyResult × State :=
  let n := s.keyNode m
  let x := ((s.mast m).node n).key
  if 131072 ≤ n ∨ x.valid = false then (.badArg, s)
  else match s.useSlot m x.kek .unwrap with
    | (.error e, t) => (e, t)
    | (.ok k, t) =>
      if ((t.mast m).keys.slot x.kek).gen ≠ x.kekGen then (.unwrapFail, t.bump m F.KEYS_UNWRAP_FAIL)
      else match unwrapKey (keyOf k) x.blob 128 with
        | none => (.unwrapFail, t.bump m F.KEYS_UNWRAP_FAIL)
        | some v => t.nodeWrap m n v x.ver

/-- The internal KEK of the key-blob store (R435): LABEL "NV-KEYS". -/
def nvKek (root : Nat) : List Nat := beBytes 32 (kdf root [0x4E, 0x56, 0x2D, 0x4B, 0x45, 0x59, 0x53] [] 256)

/-- The record that PERSIST writes (R435). -/
def State.keyRecord (s : State) (m : Nat) : KeyRecord :=
  let K := (s.mast m).keys
  let kek := nvKek (K.root.getD 0)
  let save (k : Nat) : Option SavedSlot :=
    let x := K.slot k
    if x.valid ∧ x.origin ≠ 0 then
      some ⟨k, x.typ, x.usage, x.lock, x.origin, x.parent, if x.origin = 1 then 0 else wrapKey kek x.material (keyBits x.typ), x.label, x.context⟩
    else none
  { seq := s.get m F.KEYS_PERSIST_SEQ_SEQ + 1, slots := (List.range 512).filterMap save,
    groups := (List.range 16).map (fun g => (s.word (key m (F.KEYS_GROUP_SLOT_SLOT.addr + 4 * g))).toNat),
    nodeKek := s.get m F.KEYS_NODE_KEK_SLOT }

/-- End a command of the KEYS page: RESULT, BUSY clear, KEY_CMD_DONE (R418). -/
def State.keyDone (s : State) (m : Nat) (x : KeyResult) : State :=
  ((s.put m F.KEYS_STATUS_RESULT x.code).put m F.KEYS_STATUS_BUSY 0).irq m 0x038 0

/-- A write of KEYS.CMD_OP (R418, R546): a busy engine refuses it with LOCKV; then `act`, its RESULT and KEY_CMD_DONE. -/
def State.keyCommand (s : State) (m r width : Nat) (act : State → KeyResult × State) : State :=
  s.action m 0x038 0x104 r true width 4 (fun t =>
    if t.bit m F.KEYS_STATUS_BUSY then t.lockv m 0x038 0x104 r
    else let x := act t
         x.2.keyDone m x.1)

/-- A write of CMD_OP = 1. -/
def State.accDerive (s : State) (m r width : Nat) : State := s.keyCommand m r width (fun t => t.keyDerive m)
/-- A write of CMD_OP = 2. -/
def State.accGenerate (s : State) (m r width : Nat) : State := s.keyCommand m r width (fun t => t.keyGenerate m)
/-- A write of CMD_OP = 3. -/
def State.accImport (s : State) (m r width : Nat) : State := s.keyCommand m r width (fun t => t.keyImport m)
/-- A write of CMD_OP = 4. -/
def State.accInvalidate (s : State) (m r width : Nat) : State := s.keyCommand m r width (fun t => t.keyInvalidate m)
/-- A write of CMD_OP = 5. -/
def State.accKeyLock (s : State) (m r width : Nat) : State := s.keyCommand m r width (fun t => t.keyLock m)
/-- A write of CMD_OP = 6. -/
def State.accNodeSet (s : State) (m r width : Nat) : State := s.keyCommand m r width (fun t => t.nodeSet m)
/-- A write of CMD_OP = 7. -/
def State.accNodeClear (s : State) (m r width : Nat) : State := s.keyCommand m r width (fun t => t.nodeClear m)
/-- A write of CMD_OP = 8. -/
def State.accNodeRewrap (s : State) (m r width : Nat) : State := s.keyCommand m r width (fun t => t.nodeRewrap m)
/-- A write of CMD_OP = 9: PERSIST starts, when the root is valid (R415, R435). -/
def State.accPersist (s : State) (m r width : Nat) : State :=
  s.action m 0x038 0x104 r true width 4 (fun t =>
    let K := (t.mast m).keys
    if t.bit m F.KEYS_STATUS_BUSY then t.lockv m 0x038 0x104 r
    else if K.root = none then t.keyDone m .noRoot
    else
      let t1 := t.nvStart m 1
      (t1.setKeys m { K with persisting := some (t.keyRecord m) }).put m F.KEYS_STATUS_BUSY 1)

/-- DERIVE (R419). -/
def execDerive (m r width : Nat) (s : State) : Host.Outcome State Fault Refusal :=
  .next (s.hostOn m r 0x038 0x104 width 1 .empty (fun m t => t.accDerive m r width))
/-- GENERATE (R418). -/
def execGenerate (m r width : Nat) (s : State) : Host.Outcome State Fault Refusal :=
  .next (s.hostOn m r 0x038 0x104 width 2 .empty (fun m t => t.accGenerate m r width))
/-- IMPORT (R418). -/
def execImport (m r width : Nat) (s : State) : Host.Outcome State Fault Refusal :=
  .next (s.hostOn m r 0x038 0x104 width 3 .empty (fun m t => t.accImport m r width))
/-- INVALIDATE (R420). -/
def execInvalidate (m r width : Nat) (s : State) : Host.Outcome State Fault Refusal :=
  .next (s.hostOn m r 0x038 0x104 width 4 .empty (fun m t => t.accInvalidate m r width))
/-- KEY_LOCK (R418). -/
def execKeyLock (m r width : Nat) (s : State) : Host.Outcome State Fault Refusal :=
  .next (s.hostOn m r 0x038 0x104 width 5 .empty (fun m t => t.accKeyLock m r width))
/-- NODE_SET (R424). -/
def execNodeSet (m r width : Nat) (s : State) : Host.Outcome State Fault Refusal :=
  .next (s.hostOn m r 0x038 0x104 width 6 .empty (fun m t => t.accNodeSet m r width))
/-- NODE_CLEAR (R418). -/
def execNodeClear (m r width : Nat) (s : State) : Host.Outcome State Fault Refusal :=
  .next (s.hostOn m r 0x038 0x104 width 7 .empty (fun m t => t.accNodeClear m r width))
/-- NODE_REWRAP (R418). -/
def execNodeRewrap (m r width : Nat) (s : State) : Host.Outcome State Fault Refusal :=
  .next (s.hostOn m r 0x038 0x104 width 8 .empty (fun m t => t.accNodeRewrap m r width))
/-- PERSIST (R435). -/
def execPersist (m r width : Nat) (s : State) : Host.Outcome State Fault Refusal :=
  .next (s.hostOn m r 0x038 0x104 width 9 .empty (fun m t => t.accPersist m r width))

/-- A key-blob write ends (R435): on success the record takes the bank that does not hold the newest and PERSIST_SEQ its number;
on failure PERSIST_FAIL, and the previous set stays. -/
def State.persistDone (s : State) (m : Nat) (ok : Bool) : State :=
  let K := (s.mast m).keys
  match K.persisting with
  | none => s
  | some rec_ =>
    if ok then
      let saved := rec_.slots.map (fun x => x.slot)
      let slots := (List.range 512).foldl (fun A k =>
        let x := K.slot k
        if x.valid then Tbl.set (fun _ => KeySlot.empty 0) A k { x with persisted := saved.contains k } else A) K.slots
      let s1 := s.setKeys m { K with persisting := none, banks := (rec_ :: K.banks).take 2, slots := slots }
      (((s1.nvDone m 1 true).put m F.KEYS_PERSIST_SEQ_SEQ rec_.seq).bump m F.KEYS_PERSIST_OK).keyDone m .ok
    else
      ((((s.setKeys m { K with persisting := none, banks := K.banks.take 1 }).nvDone m 1 false).bump m F.KEYS_PERSIST_FAIL).irq m 0x038 1).keyDone m
        .nvFail

/-- PERSIST_COMPLETE (R435). -/
def execPersistComplete (m : Nat) (ok : Bool) (s : State) : Host.Outcome State Fault Refusal := .next (s.persistDone m ok)

/-- Rebuild the slots from the newest key-blob record (R436), in index order. -/
def State.rebuildKeys (s : State) (m : Nat) : State :=
  let K := (s.mast m).keys
  match K.root, K.banks with
  | some root, rec_ :: _ =>
    let kek := nvKek root
    let one (t : State) (x : SavedSlot) : State :=
      let A := (t.mast m).keys
      let bits := keyBits x.typ
      let material : Option Nat :=
        if x.origin = 1 then
          if x.parent = 0x200 then some (kdf root x.label x.context bits)
          else if (A.slot x.parent).valid then some (kdf (A.slot x.parent).material x.label x.context bits) else none
        else unwrapKey kek x.blob bits
      match material with
      | some v => t.setKeys m (A.setSlot x.slot ⟨true, x.typ, x.usage, x.lock, x.origin, true, x.parent, t.parentGen m x.parent, 0, v, x.label, x.context⟩)
      | none => (t.irq m 0x038 2).event m .keyBad x.slot []
    let s1 := rec_.slots.foldl one s
    let s2 := (List.range 16).foldl (fun t g => t.setWord (key m (F.KEYS_GROUP_SLOT_SLOT.addr + 4 * g)) (Word.ofNat (rec_.groups.getD g 0))) s1
    (s2.put m F.KEYS_NODE_KEK_SLOT rec_.nodeKek).put m F.KEYS_PERSIST_SEQ_SEQ rec_.seq
  | _, _ => s

/-- KEY_WORD_DIRECT_WRITE (R424): a core's store to words 5–7 of a record is dropped with a bus error. -/
def execKeyWordDirectWrite (m r : Nat) (s : State) : Host.Outcome State Fault Refusal :=
  .next ((s.bump m F.KEYS_DIRECT_WR).emit (.busError m r))

/-! ## Keys of frames (R425, R426) -/

/-- A frame that fails for want of its key (R425, R455). -/
def State.noKey (s : State) (m : Nat) : State := s.bump m F.CRYPTO_NO_KEY

/-- Resolve node `n`'s key (R425): its bytes, or none with NO_KEY counted. -/
def State.nodeKey (s : State) (m n : Nat) : Option (List Nat) × State :=
  let r := (s.mast m).node n
  let K := (s.mast m).keys
  let x := r.key
  let bad (t : State) : Option (List Nat) × State :=
    (none, ((t.bump m F.KEYS_UNWRAP_FAIL).noKey m).event m .keyBad n [])
  if x.valid = false ∨ r.ident.used = false ∨ K.root = none then (none, s.noKey m)
  else if (K.slot x.kek).valid = false ∨ (K.slot x.kek).gen ≠ x.kekGen then bad (s.irq m 0x038 2)
  else match K.cache.find? (fun c => c.node == n && c.ver == x.ver && c.kek == x.kek && c.kekGen == x.kekGen) with
    | some c => (some (beBytes 16 c.key), s)
    | none =>
      match s.useSlot m x.kek .unwrap with
      | (.error _, t) => (none, t.noKey m)
      | (.ok k, t) =>
        match unwrapKey (keyOf k) x.blob 128 with
        | none => bad (t.irq m 0x038 2)
        | some v =>
          let K1 := (t.mast m).keys
          (some (beBytes 16 v), (t.setKeys m { K1 with cache := (⟨n, x.ver, x.kek, x.kekGen, v⟩ :: K1.cache).take 4096 }).bump m F.KEYS_CACHE_MISS)

/-- Resolve the group key of key index `k`, 1–16 (R426). -/
def State.groupKey (s : State) (m k : Nat) (u : Usage) : Option (List Nat) × State :=
  if k = 0 ∨ 16 < k ∨ s.bit m (F.KEYS_GROUP_SLOT_VALID.at 4 (k - 1)) = false then (none, s.noKey m)
  else match s.useSlot m (s.get m (F.KEYS_GROUP_SLOT_SLOT.at 4 (k - 1))) u with
    | (.ok x, t) => (some (keyOf x), t)
    | (.error _, t) => (none, t.noKey m)

/-! ## Crypto jobs (R427, R428, R454) -/

/-- RESULT of a job that its arguments or its key stop (R454); none when it can run, with the key's bytes. -/
def State.jobCheck (s : State) (m : Nat) (j : Job) : Option Nat × List Nat × State :=
  let tagOk := if j.mode = 1 ∨ j.mode = 2 then [0, 4, 8, 16].contains j.tagLen
    else if j.mode = 3 ∨ j.mode = 4 then j.tagLen == 16
    else if j.mode = 7 ∨ j.mode = 8 then decide (1 ≤ j.tagLen ∧ j.tagLen ≤ 32) else true
  if j.mode = 0 ∨ 8 < j.mode ∨ j.len = 0 ∨ j.len < j.aad ∨ tagOk = false ∨ ((s.mast m).sal.item j.cell).cells = [] then
    (some 5, [], s)
  else if j.mode = 6 then (none, [], s)
  else if ((s.mast m).keys.slot j.slot).valid = false ∨ (s.mast m).keys.root = none then (some 4, [], s)
  else
    let u : Usage := match j.mode with
      | 1 | 3 => .enc
      | 5 => if ((s.mast m).keys.slot j.slot).usage.testBit 0 then .enc else .dec
      | 2 | 4 => .dec
      | 7 => .mac
      | _ => .verify
    match s.useSlot m j.slot u with
    | (.ok x, t) => (none, keyOf x, t)
    | (.error .staleParent, t) => (some 3, [], t)
    | (.error _, t) => (some 2, [], t)

/-- A write of CRYPTO.JOB_GO by requester `r` (R428): ignored while BUSY; the key is loaded into the engine (R421). -/
def State.accJobGo (s : State) (m r width value : Nat) : State :=
  s.action m 0x039 0x060 r true width 4 (fun t =>
    if value % 2 = 0 ∨ t.bget r m F.CRYPTO_JOB_STATUS_BUSY = 1 then t
    else
      let w (f : Fld) (i : Nat) : List Nat := leBytes 4 (t.word (bankKey r m (f.addr + 4 * i))).toNat
      let j : Job := { mode := t.bget r m F.CRYPTO_JOB_CFG_MODE, slot := t.bget r m F.CRYPTO_JOB_CFG_SLOT,
                       tagLen := t.bget r m F.CRYPTO_JOB_CFG_TAG_LEN, cell := t.bget r m F.CRYPTO_JOB_IN_CELL,
                       aad := t.bget r m F.CRYPTO_JOB_LEN_AAD_LEN, len := t.bget r m F.CRYPTO_JOB_LEN_LEN,
                       iv := (List.range 4).flatMap (w F.CRYPTO_JOB_IV_IV), tag := (List.range 8).flatMap (w F.CRYPTO_TAG_TAG),
                       early := none, key := [] }
      let x := t.jobCheck m j
      let K := (x.2.2.mast m).keys
      (x.2.2.setKeys m { K with jobs := Tbl.set (fun _ => none) K.jobs r (some { j with early := x.1, key := x.2.1 }) }).bput r m
        F.CRYPTO_JOB_STATUS_BUSY 1)

/-- CRYPTO_JOB_GO (R428). -/
def execCryptoJobGo (m r width value : Nat) (s : State) : Host.Outcome State Fault Refusal :=
  .next (s.hostOn m r 0x039 0x060 width value .empty (fun m t => t.accJobGo m r width value))

/-- Complete requester `r`'s job: BUSY clear, RESULT, OUT_CELL, the count. -/
def State.jobEnd (s : State) (m r res cell : Nat) : State :=
  let K := (s.mast m).keys
  (((s.setKeys m { K with jobs := Tbl.set (fun _ => none) K.jobs r none }).setWord (bankKey r m F.CRYPTO_JOB_STATUS_BUSY.addr)
    (Word.ofNat (res * 2 ^ 24 + cell % 2 ^ 17))).bump m F.CRYPTO_JOBS)

/-- The banked TAG registers take the bytes of a tag or digest, the first in bits 7:0 of the first. -/
def State.setTag (s : State) (m r : Nat) (v : List Nat) : State :=
  (List.range 8).foldl (fun t i => t.setWord (bankKey r m (F.CRYPTO_TAG_TAG.addr + 4 * i)) (Word.ofNat (leNat ((v.drop (4 * i)).take 4)))) s

/-- What a job makes of its input (R427, R454). -/
inductive JobResult where
  /-- The output item's bytes, and the tag that an encryption writes to TAG. -/
  | item (out : List Nat) (tag : Option (List Nat))
  /-- A digest or an HMAC for TAG. -/
  | digest (v : List Nat)
  /-- A verification without output that holds. -/
  | passed
  /-- A tag that fails. -/
  | tagFail
deriving DecidableEq, Repr

/-- Run a job on the LEN bytes of its input (R427, R428, R454). -/
def Job.run (j : Job) (input : List Nat) : JobResult :=
  let aad := input.take j.aad
  let rest := input.drop j.aad
  let split := Config.jobSplit j.tagLen rest j.tag
  let open_ (text tag : List Nat) : JobResult := if split.2 = tag then .item (Config.jobOutput aad text []) none else .tagFail
  match j.mode with
  | 1 =>
    let x := ccmSeal j.key (j.iv.take 13) aad rest j.tagLen
    .item (Config.jobOutput aad x.1 x.2) (some x.2)
  | 2 =>
    let nonce := j.iv.take 13
    let text := ctrMode j.key (ccmCtr nonce) 1 split.1
    open_ text (xorBytes (ccmTag j.key nonce aad text j.tagLen) (aesEnc j.key (ccmCtr nonce 0)))
  | 3 =>
    let text := gcmText j.key (j.iv.take 12) rest
    let tag := gcmTag j.key (j.iv.take 12) aad text
    .item (Config.jobOutput aad text tag) (some tag)
  | 4 => open_ (gcmText j.key (j.iv.take 12) split.1) (gcmTag j.key (j.iv.take 12) aad split.1)
  | 5 => .item (Config.jobOutput aad (ctrText j.key j.iv rest) []) none
  | 6 => .digest (sha256 input)
  | 7 => .digest ((hmacSha256 j.key input).take j.tagLen)
  | _ => if (hmacSha256 j.key input).take j.tagLen = j.tag.take j.tagLen then .passed else .tagFail

/-- CRYPTO_JOB_DONE (R428): the output goes to a new item of account 46 that the requester holds; a tag that fails writes no
output; a digest or HMAC goes to TAG. -/
def execCryptoJobDone (m r : Nat) (s : State) : Host.Outcome State Fault Refusal :=
  match Tbl.get (fun _ => none) (s.mast m).keys.jobs r with
  | none => .next s
  | some j =>
    match j.early with
    | some e => .next (s.jobEnd m r e 0)
    | none =>
      match j.run ((((s.mast m).sal.item j.cell).body.spell ++ List.replicate j.len 0).take j.len) with
      | .digest v => .next ((s.setTag m r v).jobEnd m r 0 0)
      | .passed => .next (s.jobEnd m r 0 0)
      | .tagFail => .next ((s.bump m F.CRYPTO_TAG_FAIL).jobEnd m r 1 0)
      | .item out tag =>
        match s.allocItem m 46 out.length (.bytes out) with
        | none => .next (s.jobEnd m r 6 0)
        | some (c, t) =>
          let S := (t.mast m).sal
          let t1 := t.setSal m (S.setItem c { S.item c with held := some r })
          .next ((match tag with
            | some v => t1.setTag m r v
            | none => t1).jobEnd m r 0 c)

/-! ## RSA (R430–R432, R456, R457) -/

/-- The bytes of `n` words from word `a` of the input window, the first in bits 7:0 of the first word. -/
def State.rsaBytes (s : State) (m a n : Nat) : List Nat :=
  (List.range n).flatMap (fun i => leBytes 4 (Tbl.get (fun _ => 0) (s.mast m).keys.rsaIn (a + i)))

/-- The digest in RSA.HASH. -/
def State.rsaDigest (s : State) (m : Nat) : List Nat := s.regBytes m F.RSA_HASH_DIGEST 8 32

/-- The private-key register becomes `k` (R430): KEY_VALID and KEY_HASH show it. -/
def State.rsaHold (s : State) (m : Nat) (k : Option RsaKey) : State :=
  let h := (k.map (fun x => sha256 (beBytes 384 x.n))).getD []
  let s1 := (s.setKeys m { (s.mast m).keys with rsaKey := k }).put m F.RSA_STATUS_KEY_VALID (if k.isSome then 1 else 0)
  (List.range 8).foldl (fun (u : State) i => u.put m (F.RSA_KEY_HASH_HASH.at 4 i) (leNat ((h.drop (4 * i)).take 4))) s1

/-- Start an RSA operation (R456): BUSY; what it will leave is fixed by the key it has loaded (R421). -/
def State.rsaStart (s : State) (m : Nat) (x : RsaOp) : State :=
  (s.setKeys m { (s.mast m).keys with rsaOp := some x }).put m F.RSA_STATUS_BUSY 1

/-- LOAD (R430, R440): refused while WAIT_ACK holds.  A refused LOAD leaves the register as it is; a failed check empties it. -/
def State.rsaLoad (s : State) (m : Nat) : State :=
  let old := (s.mast m).keys.rsaKey
  if s.waitAck m then s.rsaStart m ⟨1, 2, [], old⟩
  else match s.useSlot m (s.get m F.RSA_SLOT_SLOT) .unwrap with
    | (.error .noRoot, t) => t.rsaStart m ⟨1, 2, [], old⟩
    | (.error .staleParent, t) => t.rsaStart m ⟨1, 5, [], old⟩
    | (.error _, t) => t.rsaStart m ⟨1, 4, [], old⟩
    | (.ok k, t) =>
      match (keyUnwrap (keyOf k) (s.rsaBytes m 1 242)).bind (rsaKeyOf (s.rsaBytes m 0 1)) with
      | none => t.rsaStart m ⟨1, 3, [], none⟩
      | some x => t.rsaStart m ⟨1, 0, [], some x⟩

/-- The attestation statement (R431), as bytes. -/
def State.attestation (s : State) (m : Nat) : List Nat :=
  let K := (s.mast m).keys
  let flags := (if K.root.isSome then 1 else 0) + (if s.bit m F.PAIR_ROLE_ACTIVE then 2 else 0)
  leBytes 4 1 ++ s.regBytes m F.RSA_NONCE_NONCE 8 32 ++ leBytes 32 (s.mast m).imgHash ++ leBytes 8 (s.mast m).rollback
    ++ [s.tamperT m, s.get m F.TAMPER_RECORDS_ACKS, m, flags] ++ leBytes 5 (s.mast m).asn ++ List.replicate 43 0

/-- The words of bytes, four to a word. -/
def wordsOf (n : Nat) (b : List Nat) : List Nat := (List.range n).map (fun i => leNat ((b.drop (4 * i)).take 4))

/-- Sign a digest (R431): the salt comes from the DRBG. -/
def State.rsaSignWith (s : State) (m op : Nat) (digest tail : List Nat) : State :=
  match (s.mast m).keys.rsaKey with
  | none => s.rsaStart m ⟨op, 2, [], none⟩
  | some k =>
    match s.drbgRequest m 256 with
    | none => s.rsaStart m ⟨op, 7, [], some k⟩
    | some (salt, t) => t.rsaStart m ⟨op, 0, wordsOf 96 (rsaSign k digest (beBytes 32 salt)) ++ tail, some k⟩

/-- VERIFY (R432). -/
def State.rsaVerify (s : State) (m : Nat) : State :=
  let e := s.get m F.RSA_E_E
  let k := (s.mast m).keys.rsaKey
  if e % 2 = 0 ∨ e < 3 then s.rsaStart m ⟨3, 6, [], k⟩
  else if Machine.rsaVerify (beNat (s.rsaBytes m 0 96)) (beNat (s.rsaBytes m 96 96)) e (s.rsaDigest m) then s.rsaStart m ⟨3, 0, [], k⟩
  else s.rsaStart m ⟨3, 1, [], k⟩

/-- A write of RSA.CTL (R456): refused with LOCKV while BUSY. -/
def State.rsaCommand (s : State) (m r width : Nat) (act : State → State) : State :=
  s.action m 0x03A 0x040 r true width 4 (fun t => if t.bit m F.RSA_STATUS_BUSY then t.lockv m 0x03A 0x040 r else act t)

/-- RSA.CTL = LOAD. -/
def State.accRsaLoad (s : State) (m r width : Nat) : State := s.rsaCommand m r width (fun t => t.rsaLoad m)
/-- RSA.CTL = SIGN. -/
def State.accRsaSign (s : State) (m r width : Nat) : State := s.rsaCommand m r width (fun t => t.rsaSignWith m 2 (t.rsaDigest m) [])
/-- RSA.CTL = VERIFY. -/
def State.accRsaVerify (s : State) (m r width : Nat) : State := s.rsaCommand m r width (fun t => t.rsaVerify m)
/-- RSA.CTL = ATTEST, refused while WAIT_ACK holds (R440). -/
def State.accRsaAttest (s : State) (m r width : Nat) : State :=
  s.rsaCommand m r width (fun t =>
    if t.waitAck m then t.rsaStart m ⟨4, 2, [], (t.mast m).keys.rsaKey⟩
    else t.rsaSignWith m 4 (sha256 (t.attestation m)) (wordsOf 32 (t.attestation m)))
/-- RSA.CTL = CLEAR (R430): the register is empty at once. -/
def State.accRsaClear (s : State) (m r width : Nat) : State :=
  s.rsaCommand m r width (fun t =>
    ((t.rsaHold m none).put m F.RSA_STATUS_RESULT 0).irq m 0x03A 0)

/-- RSA_LOAD (R430). -/
def execRsaLoad (m r width : Nat) (s : State) : Host.Outcome State Fault Refusal :=
  .next (s.hostOn m r 0x03A 0x040 width 1 .empty (fun m t => t.accRsaLoad m r width))
/-- RSA_SIGN (R431). -/
def execRsaSign (m r width : Nat) (s : State) : Host.Outcome State Fault Refusal :=
  .next (s.hostOn m r 0x03A 0x040 width 2 .empty (fun m t => t.accRsaSign m r width))
/-- RSA_VERIFY (R432). -/
def execRsaVerify (m r width : Nat) (s : State) : Host.Outcome State Fault Refusal :=
  .next (s.hostOn m r 0x03A 0x040 width 3 .empty (fun m t => t.accRsaVerify m r width))
/-- RSA_ATTEST (R431). -/
def execRsaAttest (m r width : Nat) (s : State) : Host.Outcome State Fault Refusal :=
  .next (s.hostOn m r 0x03A 0x040 width 4 .empty (fun m t => t.accRsaAttest m r width))
/-- RSA_CLEAR (R430). -/
def execRsaClear (m r width : Nat) (s : State) : Host.Outcome State Fault Refusal :=
  .next (s.hostOn m r 0x03A 0x040 width 5 .empty (fun m t => t.accRsaClear m r width))

/-- RSA_DONE (R457): the operation under way leaves its result. -/
def execRsaDone (m : Nat) (s : State) : Host.Outcome State Fault Refusal :=
  let K := (s.mast m).keys
  match K.rsaOp with
  | none => .next s
  | some x =>
    let area := ((List.range x.out.length).zip x.out).foldl (fun A w => Tbl.set (fun _ => 0) A w.1 w.2) K.rsaOut
    let s1 := (s.setKeys m { K with rsaOp := none, rsaOut := area }).put m F.RSA_STATUS_BUSY 0
    let s3 := (s1.put m F.RSA_STATUS_RESULT x.result).rsaHold m x.key
    let s4 := if x.op = 2 ∨ x.op = 4 then (if x.result = 0 then s3.bump m F.RSA_SIGNS else s3)
      else if x.op = 3 then (let t := s3.bump m F.RSA_VERIFIES
                             if x.result = 1 then t.bump m F.RSA_VERIFY_FAIL else t)
      else s3
    .next (s4.irq m 0x03A 0)

/-! ## DRBG (R433, R458, R459) -/

/-- DRBG_OUT_READ (R458): 32 fresh bits, or 0 while halted. -/
def execDrbgOutRead (m r width : Nat) (s : State) : Host.Outcome State Fault Refusal :=
  .next (s.action m 0x03B 0x400 r false width 4 (fun t =>
    match t.drbgRequest m 32 with
    | some (v, u) => (u.put m F.DRBG_OUT_RAND v).bump m F.DRBG_OUT_WORDS
    | none => t.put m F.DRBG_OUT_RAND 0))

/-- Instantiate or reseed the DRBG with success: the halt clears (R433). -/
def State.drbgSeed (s : State) (m : Nat) : State :=
  (((s.put m F.DRBG_STATUS_READY 1).put m F.DRBG_STATUS_HALT 0).put m F.DRBG_STATUS_SINCE 0).bump m F.DRBG_RESEEDS

/-- A write of DRBG.RESEED (R433); `ok`: the entropy source passes its tests. -/
def State.accReseed (s : State) (m r width value : Nat) (ok : Bool) : State :=
  s.action m 0x03B 0x044 r true width 4 (fun t => if value % 2 = 1 ∧ ok then t.drbgSeed m else t)

/-- DRBG_RESEED (R433). -/
def execDrbgReseed (m r width value : Nat) (ok : Bool) (s : State) : Host.Outcome State Fault Refusal :=
  .next (s.hostOn m r 0x03B 0x044 width value .empty (fun m t => t.accReseed m r width value ok))

/-- ENTROPY_FAIL (R433): the repetition count test (`rct`) or the adaptive proportion test failed. -/
def execEntropyFail (m : Nat) (rct : Bool) (s : State) : Host.Outcome State Fault Refusal :=
  let s1 := (s.put m F.DRBG_STATUS_HALT 1).put m (if rct then F.DRBG_STATUS_RCT_FAIL else F.DRBG_STATUS_APT_FAIL) 1
  .next ((s1.bump m F.DRBG_HEALTH_FAIL).irq m 0x03B 0)

/-! ## The crystallizer (R413–R416) -/

/-- Groups of 8 bits decided by majority (R414): the decided bits as a number, and the count of 4–4 ties. -/
def majority (n v : Nat) : Nat × Nat :=
  (List.range n).foldl (fun a g =>
    let ones := ((List.range 8).filter (fun i => v.testBit (8 * g + i))).length
    (if 4 < ones then a.1 + 2 ^ g else a.1, if ones = 4 then a.2 + 1 else a.2)) (0, 0)

/-- CRYST_REGENERATION (R413–R416): the power-up pattern is decoded with the helper data; on success the root is formed and
the slots are rebuilt (R436).  Refused while WAIT_ACK or RETIRED holds (R440, R441). -/
def execCrystRegeneration (m pattern : Nat) (s : State) : Host.Outcome State Fault Refusal :=
  if s.fitted m = false ∨ 2 ≤ m ∨ s.waitAck m ∨ s.bit m F.CRYST_STATUS_RETIRED then .next s
  else
    let K := (s.mast m).keys
    let h := K.helper.getD ⟨0, 0, 0, 0⟩
    let good := decide (h.format = 1 ∧ h.crc = crc32 (leBytes 4 h.format ++ leBytes 8 h.chk ++ leBytes 4080 h.offset))
    let mj := majority 4080 (pattern ^^^ h.offset)
    let words := (List.range 16).map (fun i => bchDecode (mj.1 / 2 ^ (255 * i) % 2 ^ 255))
    let maxc := words.foldl (fun a w => max a ((w.map Prod.snd).getD 0)) 0
    let S := ((List.range 16).zip words).foldl (fun a w => a + ((w.2.map Prod.fst).getD 0) % 2 ^ 131 * 2 ^ (131 * w.1)) 0
    let ok := good && words.all (fun w => w.isSome) && decide (leNat ((sha256 (leBytes 262 S ++ [0xFF])).take 8) = h.chk)
    let s1 := (((s.bump m F.CRYST_REGENS).put m F.CRYST_ERR_MAX_BLOCK maxc).put m F.CRYST_ERR_TIES mj.2).raise m F.CRYST_ERR_HWM_HWM maxc
    let s2 := (s1.put m F.CRYST_STATUS_HELPER_BAD (if good then 0 else 1)).put m F.CRYST_STATUS_T (s.tamperT m)
    let s3 := if 12 < maxc then s2.irq m 0x03C 1 else s2
    if ok then
      let root := beNat (sha256 (leBytes 262 S ++ [s.tamperT m]))
      .next ((((s3.setKeys m { K with root := some root }).put m F.CRYST_STATUS_ROOT_VALID 1).put m F.CRYST_STATUS_FAIL 0).rebuildKeys m)
    else
      .next (((((s3.setKeys m { K with root := none }).put m F.CRYST_STATUS_ROOT_VALID 0).put m F.CRYST_STATUS_FAIL 1).bump m
        F.CRYST_FAILS).irq m 0x03C 0)

/-! ## Let-fly (R438–R441) -/

/-- Close context `ctx`'s session (R448): the context returns to its base level, and PROXY that names it clears. -/
def State.closeSession (s : State) (m ctx : Nat) : State :=
  let K := (s.mast m).keys
  let s1 := s.setKeys m { K with sessions := Tbl.set (fun _ => ⟨false, 0, 0⟩) K.sessions ctx ⟨false, 0, 0⟩ }
  (List.range 16).foldl (fun t c => if t.bget c m F.SESSION_PROXY_EN = 1 ∧ t.proxyCtx m c = ctx then
    t.bput c m F.SESSION_PROXY_EN 0 else t) s1

/-- Zeroise mast `m` (R439): slots keep their GEN, a mast's keys, caches, RSA register, root, DRBG state and owner key go, every
session closes, and what was under way writes no result. -/
def State.zeroise (s : State) (m : Nat) : State :=
  let K := (s.mast m).keys
  let slots := K.slots.foldl (fun A e => Tbl.set (fun _ => KeySlot.empty 0) A e.1 (KeySlot.empty e.2.gen)) []
  let s1 := s.setKeys m { K with slots := slots, cache := [], root := none, persisting := none, jobs := [], rsaOp := none, ownerKey := none, nonces := [], pwTry := [] }
  let s2 := (List.range 12).foldl (fun t c => t.closeSession m c) s1
  let s3 := (((s2.put m F.CRYST_STATUS_ROOT_VALID 0).rsaHold m none).put m F.RSA_STATUS_BUSY 0).put m F.KEYS_STATUS_BUSY 0
  let s4 := (List.range 18).foldl (fun t r => t.bput r m F.CRYPTO_JOB_STATUS_BUSY 0) s3
  (s4.put m F.DRBG_STATUS_READY 0).put m F.DRBG_STATUS_SINCE 0

/-- The enabled sources asserted on mast `m` (R438). -/
def State.tamperNow (s : State) (m : Nat) : Nat := (s.mast m).keys.asserted &&& s.get m F.TAMPER_SRC_EN_EN

/-- Let-fly on the mast that sees the trigger and on its peer (R438, R439): LETFLY is one package net. -/
def State.letfly (s : State) (m : Nat) : State :=
  let one (t : State) (k : Nat) : State :=
    let t1 := (t.zeroise k).put k F.TAMPER_STATE_LETFLY 1
    let t2 := if k = m then t1.put k F.TAMPER_CAUSE_SRC (t.get k F.TAMPER_CAUSE_SRC ||| s.tamperNow k) else t1.put k F.TAMPER_CAUSE_PEER 1
    let K := (t2.mast k).keys
    ((t2.setKeys k { K with recordDue := K.recordDue + 1 }).put64 k F.TAMPER_TIME_NS (s.localNs k)).bump k F.TAMPER_TRIGGERS
  if s.redundant then one (one s m) (1 - m) else one s m

/-- TAMPER_ASSERT (R438): an enabled source asserts; beside another enabled source it triggers at once. -/
def execTamperAssert (m src : Nat) (s : State) : Host.Outcome State Fault Refusal :=
  let K := (s.mast m).keys
  let s1 := s.setKeys m { K with asserted := K.asserted ||| 2 ^ src }
  let now := s1.tamperNow m
  let s2 := s1.put m F.TAMPER_STATE_NOW (s1.mast m).keys.asserted
  .next (if now.testBit src ∧ now ≠ 2 ^ src ∧ s.bit m F.TAMPER_STATE_LETFLY = false then s2.letfly m else s2)

/-- Release the LETFLY line when no mast has an enabled source asserted (R439, R463). -/
def State.letflyRelease (s : State) (m : Nat) : State :=
  if s.tamperNow 0 = 0 ∧ (s.redundant = false ∨ s.tamperNow 1 = 0) then
    [m, 1 - m].foldl (fun t k => if t.bit k F.TAMPER_STATE_LETFLY then (t.put k F.TAMPER_STATE_LETFLY 0).irq k 0x03D 0 else t) s
  else s

/-- TAMPER_RELEASE (R438): a source that ends before it triggered is counted in FILTERED. -/
def execTamperRelease (m src : Nat) (s : State) : Host.Outcome State Fault Refusal :=
  let K := (s.mast m).keys
  let was := (s.tamperNow m).testBit src
  let s1 := (s.setKeys m { K with asserted := K.asserted &&& (255 - 2 ^ src) }).put m F.TAMPER_STATE_NOW (K.asserted &&& (255 - 2 ^ src))
  if was = false then .next s1
  else if s.bit m F.TAMPER_STATE_LETFLY then .next (s1.letflyRelease m)
  else .next ((s1.bump m F.TAMPER_FILTERED).irq m 0x03D 1)

/-- LETFLY_TRIGGER (R439): an enabled source has stayed asserted for 50 µs. -/
def execLetflyTrigger (m src : Nat) (s : State) : Host.Outcome State Fault Refusal :=
  .next (if (s.tamperNow m).testBit src ∧ s.bit m F.TAMPER_STATE_LETFLY = false then s.letfly m else s)

/-- The fuse counts as the CRYST and TAMPER pages show them (R440, R441, R460, R462). -/
def State.tamperShow (s : State) (m : Nat) : State :=
  let w := if s.waitAck m then 1 else 0
  ((s.put m F.CRYST_STATUS_WAIT_ACK w).put m F.TAMPER_STATE_WAIT_ACK w).put m F.CRYST_STATUS_RETIRED
    (if s.tamperT m = 32 then 1 else 0) |>.put m F.CRYST_STATUS_T (s.tamperT m)

/-- TAMPER_RECORD_FUSE (R440): one of the 32 tamper-record fuses is blown for a trigger. -/
def execTamperRecordFuse (m : Nat) (s : State) : Host.Outcome State Fault Refusal :=
  let K := (s.mast m).keys
  if K.recordDue = 0 then .next s
  else .next (((s.setKeys m { K with recordDue := K.recordDue - 1 }).put m F.TAMPER_RECORDS_COUNT (min 32 (s.tamperT m + 1))).tamperShow m)

/-- OWNER_KEY_RELOAD (R440, R459): with every enabled source clear, the owner key is reloaded and the DRBG instantiated. -/
def execOwnerKeyReload (m : Nat) (s : State) : Host.Outcome State Fault Refusal :=
  let K := (s.mast m).keys
  if s.tamperNow m = 0 then .next ((s.setKeys m { K with ownerKey := K.ownerOtp }).drbgSeed m) else .next s

/-- The scope of a TAMPER acknowledgement (R613): key slots, node-key cache, RSA register and DRBG are reset, and RESET_CAUSE shows it. -/
def State.tamperReset (s : State) (m : Nat) : State :=
  let s1 := s.setKeys m { (s.mast m).keys with slots := [], cache := [] }
  ((s1.rsaHold m none).drbgSeed m).setBit m F.SYS_RESET_CAUSE_CAUSE.addr 5

/-- A write of TAMPER.ACK (R441): from an OWNER context, 0xA5, with no enabled source asserted. -/
def State.accTamperAck (s : State) (m r width value : Nat) : State :=
  s.action m 0x03D 0x044 r true width 4 (fun t =>
    if t.privOf m (t.ctxOf m r) < 3 then t.deny m 0x03D 0x044 r true
    else if value % 256 ≠ 0xA5 then t
    else if t.tamperNow m ≠ 0 then t.lockv m 0x03D 0x044 r
    else if t.waitAck m = false then t
    else ((t.put m F.TAMPER_RECORDS_ACKS (t.get m F.TAMPER_RECORDS_ACKS + 1)).tamperShow m).tamperReset m)

/-- TAMPER_ACK (R441); the regeneration that follows is CRYST_REGENERATION. -/
def execTamperAck (m r width value : Nat) (s : State) : Host.Outcome State Fault Refusal :=
  .next (s.hostOn m r 0x03D 0x044 width value .empty (fun m t => t.accTamperAck m r width value))

end Sys2Proof.Machine
end

