-- ==== Sys2Proof/Machine/Lanes.lean ====
section
/-! DEFINITION. Detection, lanes and delivery: the commands of chapter 4, and of chapters 5 to 7 as far as they act on a lane
(R96–R122, R145–R166, R186–R200). -/

namespace Sys2Proof.Machine

/-! ## Detection, relook and requests (R99, R107–R117) -/

/-- A restart of lane `l` on a new detection (R114, R106, R117). -/
def State.restartLane (s : State) (k l : Nat) (q : LaneReq) : State :=
  let d := sailDie k
  (((s.attachLane k l q (s.lane k l).forked true).bump d (F.LANE_REL.at 4 4)).bump d F.NEST_RELOOK_RESTART).bump d F.NEST_FALSE_START

/-- Whether a lane is open to relook (R113): from 40 µs after its attachment until its PHR check. -/
def State.openLane (s : State) (k : Nat) (x : Lane) : Bool :=
  1 ≤ x.state && x.state ≤ 3 && decide (x.attachT + 16000 ≤ s.sailLocal k)

/-- The lane of lowest attach metric; of equals the lower index, which R114 leaves open (DESIGN CHOICE, log entry 161). -/
def lowestLane : List (Nat × Lane) → Option (Nat × Lane)
  | [] => none
  | e :: es => match lowestLane es with
    | none => some e
    | some f => if e.2.metric ≤ f.2.metric then some e else some f

/-- What a detection that fired does (R107, R113–R115). -/
def State.detect (s : State) (k : Nat) (q : LaneReq) : State :=
  let d := sailDie k
  let x := s.sail k
  let ls := x.attached.filter (fun e => e.2.win == q.win && e.2.bin == q.bin)
  let ws := x.waits.filter (fun r => r.win == q.win && r.bin == q.bin)
  let older := if s.bit d F.NEST_CFG_RELOOK_EN
    then ls.filter (fun e => decide (e.2.metric + s.get d F.NEST_CFG_RELOOK_MARGIN ≤ q.metric)) else []
  match lowestLane (older.filter (fun e => s.openLane k e.2)) with
  | some e =>
    if ls.length = 1 ∧ ws = [] ∧ s.bit d F.NEST_CFG_FORK_EN ∧ s.forkAllowed k then
      ((s.setLane k e.1 { e.2 with overtaken := true }).attachNew k q true).bump d F.NEST_RELOOK_FORK
    else s.restartLane k e.1 q
  | none =>
    if older ≠ [] ∧ ls.length = 2 then s.bump d F.NEST_BIN_FULL
    else if ls.any (fun e => e.2.hyp == q.hyp) then s
    else match ws.find? (fun r => r.hyp == q.hyp) with
      | some r => s.setSail k { x with waits := x.waits.map (fun y => if y = r then { y with metric := max y.metric q.metric } else y) }
      | none => if 2 ≤ ls.length + ws.length then s.bump d F.NEST_BIN_FULL else s.request k q

/-- Whether hypothesis `h` of a bin fires on a metric (R97, R99): it is valid and its personality's threshold is reached. -/
def State.qualifies (s : State) (k w bin h metric : Nat) : Bool :=
  s.hypField k w bin h F.NEST_HYPSET_VALID != 0
    && decide (s.used (sailDie k) (F.NEST_THRESH_THRESH.at 4 (s.hypField k w bin h F.NEST_HYPSET_PERS)) ≤ metric)

/-- The hypothesis of highest metric among (hypothesis, metric) pairs; of equals the first. -/
def bestHyp : List (Nat × Nat) → Option (Nat × Nat)
  | [] => none
  | x :: xs => match bestHyp xs with
    | none => some x
    | some y => if x.2 < y.2 then some y else some x

/-- The metrics of hypotheses 0 to 3 in order, with their indices. -/
def hypMetrics (metrics : List Nat) : List (Nat × Nat) := (metrics.take 4).zipIdx.map (fun x => (x.2, x.1))

/-- DETECTOR_FIRE (R99): the metrics of hypotheses 0 to 3 of a bin on an aerial at one sample, in 0.25 dB; of those that qualify the highest
fires, and the lower index wins a tie. -/
def execDetectorFire (k w bin aer : Nat) (metrics : List Nat) (s : State) : Host.Outcome State Fault Refusal :=
  let d := sailDie k
  .next (
    if s.hasSail k = false ∨ s.detectorUp k w bin aer = false then s
    else match bestHyp ((hypMetrics metrics).filter (fun x => s.qualifies k w bin x.1 x.2)) with
      | none => s
      | some x => (s.bump d (if aer = 0 then F.NEST_DETECT_A else F.NEST_DETECT_B)).detect k ⟨w, bin, x.1, aer, x.2, s.sailLocal k⟩)

/-- LANE_STARVED (R110): a request that has waited 40 µs is dropped. -/
def execLaneStarved (k w bin hyp : Nat) (s : State) : Host.Outcome State Fault Refusal :=
  let x := s.sail k
  .next (match x.waits.find? (fun r => r.win == w && r.bin == bin && r.hyp == hyp) with
    | some r => if s.hasSail k then (s.setSail k { x with waits := x.waits.erase r }).starve k w else s
    | none => s)

/-- AERIAL_SELECT (R101, R102): the metrics of both aerials after 80 µs of preamble, in 0.25 dB. -/
def execAerialSelect (k l metricA metricB : Nat) (s : State) : Host.Outcome State Fault Refusal :=
  let x := s.lane k l
  .next (
    if s.hasSail k = false ∨ x.state ≠ 1 ∨ x.selected then s
    else
      let m (a : Nat) : Nat := if a = 0 then metricA else metricB
      let other := 1 - x.aerial
      let a := if (s.sail k).obs ≠ none then 0
        else if s.aerialUp k x.win other = false then x.aerial
        else if s.aerialUp k x.win x.aerial = false then other
        else if m x.aerial + 4 ≤ m other then other else x.aerial
      let s1 := s.setLane k l { x with aerial := a, selected := true }
      if a ≠ x.aerial then s1.bump (sailDie k) F.NEST_SEL_OTHER else s1)

/-- ACQ_TIMEOUT (R106): no preamble end within 400 µs of attachment. -/
def execAcqTimeout (k l : Nat) (s : State) : Host.Outcome State Fault Refusal :=
  .next (if s.hasSail k ∧ (s.lane k l).state = 1 then s.releaseServe k l 9 else s)

/-- The time-stamp taken now by a lane on an aerial (R121, R57): its offset from the tick that opened its slot, referred to the
connector by the front-end delay, and the low byte of that slot's ASN. -/
def State.stampNow (s : State) (k aer : Nat) : Nat × Nat :=
  let x := s.sail k
  let t : Int := (s.sailLocal k : Int) - s.eff (sailDie k) (38 + aer) / 25
  if (x.tickNow : Int) ≤ t then ((t - x.tickNow).toNat, x.asn % 256) else ((t - x.tickPrev).toNat, (x.asn + 255) % 256)

/-- PREAMBLE_END_FOUND (R156, R195, R196): the lane enters SYNC with the coarse offset that its preamble gives; the time-stamp is taken here, but for
MR-FSK, whose reference point is its SFD (R194). -/
def execPreambleEndFound (k l : Nat) (pre : PreIn) (s : State) : Host.Outcome State Fault Refusal :=
  let x := s.lane k l
  let t := s.stampNow k x.aerial
  let coarse := coarseOffset x.pers pre
  .next (
    if s.hasSail k = false ∨ x.state ≠ 1 ∨ x.selected = false then s
    else if isFsk x.pers then s.setLane k l { x with state := 2, coarse := coarse, cfo := coarse }
    else s.setLane k l { x with state := 2, coarse := coarse, cfo := coarse, tsOff := t.1, asnLo := t.2 })

/-! ## The LTF decision (R157–R160, R195) -/

/-- A candidate: its offset m (10 Hz) and metric. -/
abbrev Cand := Int × Int

/-- The better of two candidates (R159): higher metric, then lower |m|. -/
def betterCand (a b : Cand) : Cand := if a.2 < b.2 ∨ (a.2 = b.2 ∧ b.1.natAbs < a.1.natAbs) then b else a

/-- The best of a list of candidates. -/
def bestCand : List Cand → Option Cand
  | [] => none
  | c :: cs => match bestCand cs with
    | none => some c
    | some b => some (betterCand c b)

/-- |r|. -/
def absRat (r : Rat) : Rat := if r < 0 then -r else r

/-- The candidate nearest an offset, of two equally near the one of lower |m|. -/
def nearCand (h coarse : Rat) : List Cand → Option Cand
  | [] => none
  | c :: cs => match nearCand h coarse cs with
    | none => some c
    | some b =>
      let dc := absRat (coarse + c.1 - h)
      let db := absRat (coarse + b.1 - h)
      if dc < db ∨ (dc = db ∧ c.1.natAbs ≤ b.1.natAbs) then some c else some b

/-- Whether a fine NCO setting of a lane, its hypothesis offset and `cfo` in 10 Hz, passes ±525 kHz (R103). -/
def Lane.ncoOver (x : Lane) (cfo : Rat) : Bool := decide (52500 < absRat (10 * (x.offset : Rat) + cfo))

/-- Pilot tracking lost, or an offset beyond the NCO (R103, R162): the lane is released with LOST_SYNC, counted for Cleura OFDM. -/
def State.lostSync (s : State) (k l : Nat) : State :=
  (if (s.lane k l).pers = 0 then s.bump (sailDie k) F.CLEURA_TRACK_LOST else s).releaseServe k l 3

/-- Accept the LTF with offset `cfo` and what it gives (R160, R103). -/
def State.acceptLtf (s : State) (k l : Nat) (cfo : Rat) (t : Track) : State :=
  let x := s.lane k l
  if x.ncoOver cfo then s.lostSync k l else s.setLane k l { x with state := 3, cfo := cfo, track := t }

/-- The candidate that R159 chooses, of those that reach LTF_MIN, counting a hint's use; none where there is no candidate. -/
def State.chooseLtf (s : State) (k : Nat) (x : Lane) (cands : List Cand) : State × Option Cand :=
  let d := sailDie k
  match bestCand cands with
  | none => (s, none)
  | some best =>
    let near := match Tbl.find? (s.sail k).hints (128 * x.win + x.bin) with
      | some h => if s.bit d F.CLEURA_ACQ_CFG_HINT_EN ∧ h.hyp = x.hyp ∧ h.asnLo = x.asnLo
        then (nearCand (h.cfo : Rat) x.coarse cands).filter (fun (c : Cand) => decide (absRat (x.coarse + c.1 - (h.cfo : Rat)) ≤ 2500)) else none
      | none => none
    match near with
    | none => (s, some best)
    | some n =>
      let s1 := s.bump d F.CLEURA_HINT_USED
      if n.2 + (s.get d F.CLEURA_ACQ_CFG_HINT_MARGIN : Int) ≤ best.2 ∧ best ≠ n then (s1.bump d F.CLEURA_HINT_OVERRULED, some best)
      else if n.2 < best.2 then (s1.bump d F.CLEURA_HINT_DECISIVE, some n)
      else (s1, some n)

/-- The candidates of a Cleura OFDM lane (R157): the hypotheses coarse + m whose metric reaches LTF_MIN. -/
def State.ltfCands (s : State) (k : Nat) (x : List Iq) : List Cand :=
  (([-2, -1, 0, 1, 2] : List Int).map (fun i => (5000 * i, ltfMetric x i))).filter (fun (c : Cand) =>
    decide ((s.get (sailDie k) F.CLEURA_ACQ_CFG_LTF_MIN : Int) ≤ c.2))

/-- LTF_DECISION (R157–R160, R195). -/
def execLtfDecision (k l : Nat) (ltf : LtfIn) (s : State) : Host.Outcome State Fault Refusal :=
  let x := s.lane k l
  .next (
    if s.hasSail k = false ∨ x.state ≠ 2 then s
    else match ltf with
      | .ofdm metrics =>
        if isOfdm x.pers = false then s
        else match bestCand (([-4167, 0, 4167] : List Int).zip metrics) with
          | none => s.releaseServe k l 9
          | some c => s.acceptLtf k l (x.coarse + mkRat (c.1.sign * 12500) 3) Track.idle
      | .cleura samples =>
        if x.pers ≠ 0 then s
        else
          let r := s.chooseLtf k x (s.ltfCands k samples)
          match r.2 with
          | none => (r.1.bump (sailDie k) F.CLEURA_LTF_FAIL).releaseServe k l 9
          | some c =>
            let a := ltfAccept samples (c.1 / 5000) (s.get (sailDie k) F.CLEURA_ACQ_CFG_FFT_BACKOFF)
            r.1.acceptLtf k l (x.coarse + c.1 + a.1) a.2)

/-- The tracking limits in effect (R162, R170): LOSS_SYMBOLS and SCO_LIMIT of 0 act as 1. -/
def State.trackLimits (s : State) (k : Nat) : TrackLimits :=
  let d := sailDie k
  ⟨s.getS d F.CLEURA_TRACK_CFG_TRACK_SNR, max 1 (s.get d F.CLEURA_TRACK_CFG_LOSS_SYMBOLS), max 1 (s.get d F.CLEURA_TRACK_CFG_SCO_LIMIT)⟩

/-- The `n` symbols of a field of lane `l`, the first counted `n0` from the first PHR symbol (R161–R163). -/
def State.trackSymbols (s : State) (k l : Nat) (x : List Iq) (n0 n : Nat) : Tracked :=
  let y := s.lane k l
  trackField (s.trackLimits k) (10 * (y.offset : Rat)) x n0 ⟨y.track, y.cfo, false, []⟩ n

/-- The lane takes what tracking gives, and its FFT window moves are counted (R161). -/
def State.tracked (s : State) (k l : Nat) (t : Tracked) : State :=
  (s.setLane k l { s.lane k l with track := { t.track with slips := 0 }, cfo := t.cfo }).count (sailDie k) F.CLEURA_WIN_SLIP t.track.slips

/-! ## The PHR check (R145–R147, R192) -/

/-- A failed PHR check: counted with `f`, the lane released with PHR_FAIL. -/
def State.phrFail (s : State) (k l : Nat) (f : Fld) : State := (s.bump (sailDie k) f).releaseServe k l 1

/-- Latch what a passed PHR check latches (R153, R189) and enter DATA. -/
def State.phrPass (s : State) (k l : Nat) (len prof fec seed : Nat) : State :=
  let d := sailDie k
  s.setLane k l { s.lane k l with
    state := 4, len := len, prof := prof, fec := fec, seed := seed, entry := s.profile d prof,
    eraseEn := s.bit d F.FEC_CFG_ERASE_EN, sliceEn := s.bit d F.FEC_CFG_SLICE_EN, sliceLim := s.getS d F.FEC_CFG_SLICE_LIM,
    eraseSnr := 0 :: (List.range 5).map (fun c => s.getS d (F.FEC_ERASE_SNR_ERASE_SNR.at 4 c)) }

/-- The PHR check of a Cleura OFDM lane on ten decided bytes (R147). -/
def State.phrBytes (s : State) (k l : Nat) (bytes : List Nat) : State :=
  let d := sailDie k
  match rsDecode 2 bytes [] with
  | none => s.phrFail k l F.CLEURA_PHR_RS_FAIL
  | some w =>
    let p := Phr.ofBytes (w.take 4)
    if leBytes 2 (crc16 (w.take 4)) ≠ (w.drop 4).take 2 then s.phrFail k l F.CLEURA_PHR_CRC_FAIL
    else if p.version ≠ 0 ∨ p.fec = 3 ∨ p.length = 0 then s.phrFail k l F.CLEURA_PHR_FIELD_FAIL
    else if profValid (s.profile d p.profile) = false then s.phrFail k l F.CLEURA_PHR_PROF_FAIL
    else
      let s1 := (s.phrPass k l p.length p.profile p.fec p.seed).bump d F.CLEURA_PHR_PASS
      if w = bytes then s1 else s1.bump d F.CLEURA_PHR_CORRECTED

/-- The PHR of a Cleura OFDM lane (R147, R161, R162): its four symbols are tracked, the copies of each bit combined, and the word checked. -/
def State.phrCleura (s : State) (k l : Nat) (x : List Iq) : State :=
  let t := s.trackSymbols k l x 0 4
  let s1 := s.tracked k l t
  if t.lost then s1.lostSync k l else s1.phrBytes k l (bytesOfBits 10 (phrDecide t.syms))

/-- The PHR check of an MR-OFDM lane (R192). -/
def State.phrOfdm (s : State) (k l : Nat) (hcsOk : Bool) (rate len : Nat) : State :=
  let d := sailDie k
  let o := (s.lane k l).pers
  if hcsOk = false then s.phrFail k l F.SUNPHY_HCS_FAIL
  else if mcsSupported o rate = false ∨ (s.get d (F.SUNPHY_OFDM_CFG_MCS_MASK.at 4 (o - 1))).testBit rate = false then
    s.phrFail k l F.SUNPHY_RATE_REJECT
  else if len = 0 ∨ 2047 < len then s.phrFail k l F.SUNPHY_LEN_REJECT
  else (s.phrPass k l len (rate % 8) 0 0).bump d F.SUNPHY_PHR_PASS

/-- The PHR check of an MR-FSK lane (R192), and the rate code of R200: the modulation index is that of the received frame (R203). -/
def State.phrFsk (s : State) (k l : Nat) (ms fcs4 dw half : Bool) (len : Nat) : State :=
  let d := sailDie k
  let x := s.lane k l
  let r := x.pers - 5
  if len = 0 ∨ 2047 < len then s.phrFail k l F.SUNPHY_LEN_REJECT
  else if ms then s.phrFail k l F.SUNPHY_MS_REJECT
  else
    let code := (if x.coded then 1 + 2 * s.get d (F.SUNPHY_FSK_CFG_FEC_SCHEME.at 4 r) + 4 * s.get d (F.SUNPHY_FSK_CFG_FEC_INTLV.at 4 r) else 0)
      + (if dw then 8 else 0) + (if half then 16 else 0) + (if fcs4 then 32 else 0)
    (s.phrPass k l len code 0 0).bump d F.SUNPHY_PHR_PASS

/-- PHR_CHECK (R147, R192). -/
def execPhrCheck (k l : Nat) (phr : PhrIn) (s : State) : Host.Outcome State Fault Refusal :=
  let x := s.lane k l
  .next (
    if s.hasSail k = false ∨ x.state ≠ 3 then s
    else match phr with
      | .cleura b => if x.pers = 0 then s.phrCleura k l b else s
      | .ofdm h r n => if isOfdm x.pers then s.phrOfdm k l h r n else s
      | .fsk m f w h n => if isFsk x.pers then s.phrFsk k l m f w h n else s)

/-- PILOT_TRACK_LOST (R103, R162): the lane's symbols of its PHR, or of its data, up to the one that the test is made in; the lane is released
when the test says that tracking is lost. -/
def execPilotTrackLost (k l : Nat) (t : TrackIn) (s : State) : Host.Outcome State Fault Refusal :=
  let x := s.lane k l
  .next (
    if s.hasSail k = false ∨ x.state < 2 ∨ 4 < x.state then s
    else match t with
      | .cleura b =>
        if x.pers ≠ 0 ∨ x.state = 2 then s
        else
          let r := s.trackSymbols k l b (if x.state = 3 then 0 else 4) (b.length / symLen)
          if r.lost then (s.count (sailDie k) F.CLEURA_WIN_SLIP r.track.slips).lostSync k l else s
      | .ofdm cfo => if isOfdm x.pers ∧ x.ncoOver (cfo : Rat) then s.lostSync k l else s)

/-- SFD_FOUND (R196): whether the SFD found is the coded one. -/
def execSfdFound (k l : Nat) (coded : Bool) (s : State) : Host.Outcome State Fault Refusal :=
  let x := s.lane k l
  let t := s.stampNow k x.aerial
  .next (
    if s.hasSail k = false ∨ x.state ≠ 2 ∨ isFsk x.pers = false then s
    else s.setLane k l { x with state := 3, coded := coded, tsOff := t.1, asnLo := t.2 })

/-- SFD_TIMEOUT (R196). -/
def execSfdTimeout (k l : Nat) (s : State) : Host.Outcome State Fault Refusal :=
  let x := s.lane k l
  .next (
    if s.hasSail k = false ∨ x.state ≠ 2 ∨ isFsk x.pers = false then s
    else (s.bump (sailDie k) F.SUNPHY_SFD_TIMEOUT).releaseServe k l 9)

/-! ## Decoding and delivery (R118–R122, R182–R190) -/

/-- Whether the connection of sail `k` to its master has been declared failed (R22). -/
def State.masterFailed (s : State) (k : Nat) : Bool :=
  s.bit (sailDie k) F.SSTAT_MASTER_VALID && (s.conn (connId (s.get (sailDie k) F.SSTAT_MASTER_DIE) k)).state == 3

/-- Lane `l` enters DELIVER and sends its FRAME_UP message, the PSDU and the metadata word (R118–R120), or leaves it with LINK_FAIL when the
connection to its master has failed (R122).  `snr` is the SNR field and `cfo` the tracked offset in 10 Hz. -/
def State.deliver (s : State) (k l corr : Nat) (errOnly : Bool) (psdu : List Nat) (snr : Nat) (cfo : Rat) (o : RxObs) : State :=
  let x := s.lane k l
  let y := s.sail k
  let h := l * 2 ^ 23 + y.recvSeq
  let md : Meta :=
    { tsOff := x.tsOff, asnLo := x.asnLo, len := x.len, pers := x.pers, profile := x.prof, fec := x.fec, win := x.win, bin := x.bin,
      hyp := x.hyp, aerial := x.aerial, lane := l, rssi := o.rssi, snr := min 255 snr, corr := min 63 corr, cfo := roundRat cfo,
      clip := o.clip, gainStep := x.gainStep, refSwitch := x.refSwitch, forked := x.forked, restarted := x.restarted,
      errOnly := errOnly }
  let s1 := (s.setSail k { y with recvSeq := (y.recvSeq + 1) % 2 ^ 23 }).setLane k l
    { x with state := 5, cfo := cfo, handle := h, errOnly := errOnly }
  if s.masterFailed k then s1.releaseServe k l 11
  else s1.sailSend k (message 0x01 h (psdu ++ leBytes 16 md.bits))

/-- FEC.LAST of a frame (R189): of two lanes whose decoding ends in the same cycle the lower index is reported.  For a frame released with FEC_FAIL
CORR is the sum over the codewords before the failing one (DESIGN CHOICE, log entry 162). -/
def State.putLast (s : State) (k l : Nat) (r : FecResult) (fec cws : Nat) : State :=
  let y := s.sail k
  if (y.decodeAt.map (fun e => decide (e.1 = s.now ∧ e.2 < l))).getD false then s
  else
    let last := (if r.errOnly then 2 ^ 31 else 0) + (r.failCw.map (fun j => 2 ^ 30 + j % 16 * 2 ^ 26)).getD 0 + fec % 4 * 2 ^ 24
      + min 255 r.maxErase * 2 ^ 16 + min 255 r.corr * 2 ^ 8 + cws % 16
    (s.setSail k { y with decodeAt := some (s.now, l) }).setWord (key (sailDie k) F.FEC_LAST_CORR.addr) (Word.ofNat last)

/-- Count what decoding did (R182, R190). -/
def State.countFec (s : State) (d : Nat) (r : FecResult) (bySnr bySlice : Nat) : State :=
  let s1 := (((((((s.count d F.FEC_CW_CLEAN r.clean).count d F.FEC_CW_CORRECTED r.corrected).count d F.FEC_CW_ERASE_MODE r.eraseMode).count d
    F.FEC_CW_FALLBACK r.fallback).count d F.FEC_ERASURES_USED r.erasuresUsed).count d F.FEC_BYTES_CORRECTED r.bytesChanged).count d
    F.FEC_SNR_MARKS bySnr).count d F.FEC_SLICE_MARKS bySlice
  if r.failCw.isSome then s1.bump d F.FEC_CW_FAIL else s1

/-- The end of a Cleura OFDM frame (R161–R163, R182–R187, R190): its data symbols are tracked, sliced and marked, and its codewords decoded. -/
def State.decodeCleura (s : State) (k l : Nat) (samples : List Iq) (o : RxObs) : State :=
  let x := s.lane k l
  let t := s.trackSymbols k l samples 4 (dataSymbols x.entry x.len (fecT x.fec))
  let s1 := s.tracked k l t
  if t.lost then s1.lostSync k l
  else
    let bySnr := t.syms.map (snrMarks (fun c => x.eraseSnr.getD c 0) x.entry)
    let only := (bySnr.zip (t.syms.map (sliceMarks x.sliceEn x.sliceLim x.entry))).map (fun z => z.2.filter (fun c => !z.1.contains c))
    let r := decodeFrame x.entry x.len (fecT x.fec) x.seed x.eraseEn (t.syms.flatMap (symbolBits x.entry)) ((bySnr.zip only).map (fun z => z.1 ++ z.2))
    let s2 := (s1.countFec (sailDie k) r (bySnr.foldl (fun a z => a + z.length) 0) (only.foldl (fun a z => a + z.length) 0)).putLast k l r x.fec
      (codewords x.len (fecT x.fec))
    match r.failCw with
    | some _ => s2.releaseServe k l 2
    | none =>
      (s2.setLane k l { s2.lane k l with means := toneMeans t.syms }).deliver k l r.corr r.errOnly r.data
        (quarterDb 0 255 (frameSnr x.entry t.syms)).toNat t.cfo o

/-- FRAME_DECODE_END (R186, R193): a Cleura OFDM lane decodes its codewords; a SUN frame always enters DELIVER, unless its tracked offset has
passed the NCO's limit (R103). -/
def execFrameDecodeEnd (k l : Nat) (o : RxObs) (s : State) : Host.Outcome State Fault Refusal :=
  let x := s.lane k l
  .next (
    if s.hasSail k = false ∨ x.state ≠ 4 then s
    else match o.body with
      | .cleura samples => if x.pers = 0 then s.decodeCleura k l samples o else s
      | .sun psdu snr cfo =>
        if x.pers = 0 ∨ psdu.length ≠ x.len then s
        else if x.ncoOver (cfo : Rat) then s.lostSync k l
        else s.deliver k l 0 false psdu snr (cfo : Rat) o)

/-- Whether a packet of message `h` still waits to be accepted by the link of sail `k`'s master. -/
def State.handleWaits (s : State) (k h : Nat) : Bool :=
  let c := connId (s.get (sailDie k) F.SSTAT_MASTER_DIE) k
  (s.conn c).up.waiting.any (fun p => p.typ == 0x01 && p.tag == h)

/-- The advisor takes a delivered Cleura OFDM frame into its queue (R164).  With MODE = 2 it takes the last of each 2^SAMPLE deliveries of the sail,
counted in every MODE and over all personalities (DESIGN CHOICE, log entry 163). -/
def State.advise (s : State) (k : Nat) (x : Lane) : State :=
  let d := sailDie k
  let y := s.sail k
  let mode := s.get d F.CLEURA_ADV_CFG_MODE
  let n := y.advCount + 1
  let s1 := s.setSail k { y with advCount := n }
  if x.pers ≠ 0 ∨ (mode ≠ 1 ∧ mode ≠ 2) ∨ (mode = 2 ∧ n % 2 ^ s.get d F.CLEURA_ADV_CFG_SAMPLE ≠ 0) then s1
  else if 32 ≤ y.adv.length then s1.bump d F.CLEURA_ADV_DROP
  else s1.setSail k { s1.sail k with adv := y.adv ++ [⟨x.handle, x.prof, x.errOnly, x.means⟩] }

/-- LANE_DELIVERED (R122): every packet of the lane's message has been accepted by the link. -/
def execLaneDelivered (k l : Nat) (s : State) : Host.Outcome State Fault Refusal :=
  let d := sailDie k
  let x := s.lane k l
  .next (
    if s.hasSail k = false ∨ x.state ≠ 5 ∨ s.handleWaits k x.handle then s
    else
      let s1 := (s.setLane k l { x with delivered := min (x.delivered + 1) (2 ^ 32 - 1) }).bump d F.LANE_DELIVERED
      let s2 := if x.pers = 0 then s1.bump d (F.PROF_RX_FRAMES.at 4 x.prof) else s1
      (s2.advise k x).releaseServe k l 0)

/-! ## The loading advisor (R164, R165) -/

/-- The code that the advisor recommends for a subcarrier of mean SNR `m`, a ratio (R164). -/
def State.advCode (s : State) (k : Nat) (m : Rat) : Nat :=
  let d := sailDie k
  match ([5, 4, 3, 2, 1] : List Nat).find? (fun c =>
      dbGe m (s.get d (F.CLEURA_ADV_REQ_REQ.at 4 (c - 1)) + s.get d F.CLEURA_ADV_CFG_ADV_MARGIN : Nat)) with
  | some c => c
  | none => if s.bit d F.CLEURA_ADV_CFG_NULL_EN then 0 else 1

/-- The profile that the advisor matches to recommended codes (R164): of the fitting ones the greatest B, then the lowest. -/
def State.advMatch (s : State) (k : Nat) (codes : List Nat) : Option Nat :=
  let d := sailDie k
  (List.range 256).foldl (fun best p =>
    let e := s.profile d p
    if profValid e ∧ e.testBit 158 = false ∧ (List.range 46).all (fun i => decide (profCode e i ≤ codes.getD i 0)) then
      match best with
      | none => some p
      | some b => if profBits (s.profile d b) < profBits e then some p else some b
    else best) none

/-- ADVISOR_EXAMINE (R164, R165): the next queued frame is examined and its ADVICE report sent, 76 bytes. -/
def execAdvisorExamine (k : Nat) (s : State) : Host.Outcome State Fault Refusal :=
  let d := sailDie k
  let x := s.sail k
  .next (match x.adv with
    | [] => s
    | a :: rest =>
      if s.hasSail k = false then s
      else
        let codes := (List.range 46).map (fun i => s.advCode k (a.means.getD i 0))
        let bits := codes.foldl (fun n c => n + codeBits c) 0
        let mt := s.advMatch k codes
        let bytes := [0xA1, (if mt.isSome then 1 else 0) + (if a.errOnly then 2 else 0), mt.getD 0, a.prof] ++ leBytes 4 a.handle ++ leBytes 2 bits
          ++ leBytes 2 ((mt.map (fun p => profBits (s.profile d p))).getD 0) ++ leBytes 18 (codes.zipIdx.foldl (fun n z => n + z.1 * 2 ^ (3 * z.2)) 0)
          ++ (List.range 46).map (fun i => (quarterDb 0 255 (a.means.getD i 0)).toNat)
        ((if s.bit d F.SSTAT_MASTER_VALID then s.bump d F.CLEURA_ADV_SENT else s).setSail k { x with adv := rest }).sailEvent k bytes)

end Sys2Proof.Machine
end

