-- ==== Sys2Proof/Machine/Power.lean ====
section
/-! DEFINITION. The arithmetic of transmit power and of the locked channel groups (R208, R214–R216, R229–R233, R243–R244).
Powers that R215 computes exactly are integers in units of 1/4 800 000 000 dB, in which every interpolation is a whole number. -/

namespace Sys2Proof.Machine

/-- Units of R215's arithmetic in 1/16 dB: a common multiple of every table step. -/
def unit16 : Int := 300000000
/-- Units in 0.25 dB. -/
def unitQ : Int := 4 * unit16

/-- Piecewise linear interpolation between calibrated quantities `q`, `q + 1`, … of die `d` at the points `xs`, end values held
(R215); the points are as R244 gives them. -/
def State.interp (s : State) (d : Nat) : List Int → Nat → Int → Int
  | [], _, _ => 0
  | [_], q, _ => s.eff d q * unit16
  | a :: b :: rest, q, x =>
    if x ≤ a then s.eff d q * unit16
    else if x ≤ b then s.eff d q * unit16 + (s.eff d (q + 1) - s.eff d q) * unit16 * (x - a) / (b - a)
    else s.interp d (b :: rest) (q + 1) x

/-- The frequencies of TX_FREQ, in Hz (R244). -/
def freqPoints : List Int := (List.range 22).map (fun (i : Nat) => (400000000 : Int) + 100000000 * (i : Int))
/-- The temperatures of TX_TEMP, in 0.125 °C (R244). -/
def tempPoints : List Int := [-320, -160, 0, 160, 320, 480, 640, 880]
/-- The supplies of TX_SUPPLY, in mV (R244). -/
def supplyPoints : List Int := [1740, 1780, 1820, 1860]

/-- `corr` of R215 for a carrier at `f` Hz. -/
def State.corr (s : State) (d : Nat) (f : Nat) : Int :=
  s.eff d 34 * unit16 + s.interp d freqPoints 0 f + s.interp d tempPoints 22 (s.getS d F.PWR_SENSE_NOW_TEMP)
    + s.interp d supplyPoints 30 (s.get d F.PWR_SENSE_NOW_VDAC) + s.getS d F.PWR_TRIM_OFS_OFS * unit16

/-! ## Milliwatts (R216) -/

/-- The sum of `z ^ n / n!` from term `n` on, in fixed point with 96 fraction bits. -/
def expTerms : Nat → Nat → Nat → Nat → Nat
  | 0, _, _, _ => 0
  | fuel + 1, z, n, term => term + expTerms fuel z (n + 1) (term * z / ((n + 1) * 2 ^ 96))

/-- `10 ^ (x / 10 dB)` milliwatts in units of 2^-96 mW, for `x` in the units of this file. -/
def milliwatt (x : Int) : Nat :=
  let ten : Int := 10 * 16 * unit16
  let q := x / ten
  let r := (x % ten).toNat
  let e := expTerms 60 (r * 182429585950654714090129938606 / ten.toNat) 0 (2 ^ 96)
  if 0 ≤ q then e * 10 ^ q.toNat else e / 10 ^ (-q).toNat

/-- The greatest quarter-dB value below `hi`, by bisection over `n` halvings of a span that starts at `lo`, whose power does
not exceed `head`. -/
def quarterFloor (head : Nat) : Nat → Int → Int → Int
  | 0, lo, _ => lo
  | n + 1, lo, hi =>
    let mid := (lo + hi) / 2
    if milliwatt (mid * unitQ) ≤ head then quarterFloor head n mid hi else quarterFloor head n lo mid

/-- `floor` to 0.25 dB of `10 log10` of a power (R216), from −512 to +511 quarter dB. -/
def dbFloor (head : Nat) : Int := quarterFloor head 10 (-512) 512

/-! ## Locked channel groups (R214, R229–R233) -/

/-- A lock entry (R233): edges in Hz, PMAX in 0.25 dB, DUTY in 0.01 %, DWELL_MAX in ms. -/
structure LockEntry where
  index : Nat
  lo : Nat
  hi : Nat
  pmax : Int
  duty : Nat
  dwell : Nat
deriving DecidableEq, Repr

/-- The 128-bit word of lock entry `e` of die `d`. -/
def State.lockWord (s : State) (d e : Nat) : Nat :=
  (List.range 4).foldl (fun a i => a + (s.get d ((F.REGLOCK_ENTRY_WORD.at 16 e).at 4 i)) * 2 ^ (32 * i)) 0

/-- Lock entry `e` of die `d`, when it is in force. -/
def State.lockEntry (s : State) (d e : Nat) : Option LockEntry :=
  let w := s.lockWord d e
  if w.testBit 127 ∧ (s.get d F.REGLOCK_STATUS_VOTE_FAIL).testBit e = false then
    some ⟨e, w / 2 ^ 112 % 2 ^ 15 * 100000, w / 2 ^ 97 % 2 ^ 15 * 100000, signed 8 (w / 2 ^ 89), min 10000 (w / 2 ^ 75 % 2 ^ 14),
      w / 2 ^ 59 % 2 ^ 16⟩
  else none

/-- The lock entries in force of die `d`. -/
def State.locks (s : State) (d : Nat) : List LockEntry := (List.range 16).filterMap (s.lockEntry d)

/-- Half-width of a personality's occupied band, in Hz (R208). -/
def halfWidth (pers : Nat) : Nat :=
  match pers with
  | 0 => 325000 | 1 => 547000 | 2 => 276000 | 3 => 138000 | 4 => 78000 | 5 => 100000 | 6 => 100000 | _ => 200000

/-- Whether two bands overlap. -/
def bandsMeet (alo ahi blo bhi : Nat) : Bool := decide (alo ≤ bhi) && decide (blo ≤ ahi)

/-- The lock entries that a carrier's occupied band overlaps. -/
def State.locksOver (s : State) (d f pers : Nat) : List LockEntry :=
  (s.locks d).filter (fun e => bandsMeet (f - halfWidth pers) (f + halfWidth pers) e.lo e.hi)

/-- lim(c) of R214 in 0.25 dB, and whether a locked entry, not the open ceiling, gives it. -/
def State.limit (s : State) (d f pers : Nat) : Int × Bool :=
  let es := s.locksOver d f pers
  let p := es.foldl (fun a e => min a (min 8 e.pmax)) (8 : Int)
  if es.any (fun e => decide (e.lo + halfWidth pers ≤ f) && decide (f + halfWidth pers ≤ e.hi)) then (p, true)
  else if p < -24 then (p, true) else (-24, false)

/-- The duty bound of an entry in µs (R229). -/
def LockEntry.bound (e : LockEntry) : Nat := e.duty * 360000

/-! ## Duty accumulators (R229) -/

/-- The minute of sail `k`'s LOCAL time. -/
def State.minute (s : State) (k : Nat) : Nat := 2 ^ 20 + s.sailLocal k / 24000000000

/-- The µs charged to entry `e` in a minute. -/
def Sail.dutyAt (x : Sail) (e minute : Nat) : Nat := Tbl.get (fun _ => 0) x.duty (e * 2 ^ 40 + minute)

/-- DUTY_USED[e] (R229): the current minute and the 60 whole minutes before it. -/
def State.dutyUsed (s : State) (k e : Nat) : Nat :=
  let n := s.minute k
  (List.range 61).foldl (fun a i => if i ≤ n then a + (s.sail k).dutyAt e (n - i) else a) 0

/-- Add `us` to entry `e` of sail `k` in a minute. -/
def State.chargeDuty (s : State) (k e minute us : Nat) : State :=
  let x := s.sail k
  s.setSail k { x with duty := Tbl.set (fun _ => 0) x.duty (e * 2 ^ 40 + minute) (x.dutyAt e minute + us) }

/-- Take `us` back from entry `e` of sail `k` in a minute. -/
def State.unchargeDuty (s : State) (k e minute us : Nat) : State :=
  let x := s.sail k
  s.setSail k { x with duty := Tbl.set (fun _ => 0) x.duty (e * 2 ^ 40 + minute) (x.dutyAt e minute - us) }

end Sys2Proof.Machine
end

