-- ==== Sys2Proof/Machine/Transmit.lean ====
section
/-! DEFINITION. The transmit path of a sail: modulator, cut-off checks, launch, reports, aborts, timeouts, observation,
predistortion, trim, retune, fuses and power sensing (R206–R244, R168–R169, R201). -/

namespace Sys2Proof.Machine

/-! ## Frames and reports -/

/-- The 16 bytes of a launch descriptor (R210). -/
def LaunchDesc.bytes (d : LaunchDesc) : List Nat :=
  leBytes 3 d.start ++ [d.asnLo % 256] ++ leBytes 4 d.freq ++ [d.carrier % 4, d.pers % 16, d.rate % 256, d.fec % 4, unsigned 8 d.power, d.prio % 16,
    (if d.beacon then 1 else 0) + (if d.ack then 2 else 0), 0]

/-- The frame of transmit handle `h`. -/
def Sail.txOf (x : Sail) (h : Nat) : Option TxFrame := x.tx.find? (fun f => f.handle == h)

/-- Replace the frame of its handle. -/
def State.setTx (s : State) (k : Nat) (f : TxFrame) : State :=
  let x := s.sail k
  s.setSail k { x with tx := x.tx.map (fun g => if g.handle = f.handle then f else g) }

/-- Remove the frame of handle `h`. -/
def State.dropTx (s : State) (k h : Nat) : State :=
  let x := s.sail k
  s.setSail k { x with tx := x.tx.filter (fun g => g.handle != h) }

/-- An FE_SPI word leaves sail `k` (R74, R93, R217), WORD_BITS long. -/
def State.feSend (s : State) (k word : Nat) : State :=
  let b := s.get (sailDie k) F.FECTL_SPI_CFG_WORD_BITS
  let bits := if 8 ≤ b ∧ b ≤ 24 then b else 24
  s.emit (.feSpi k (word % 2 ^ bits) bits)

/-- Frames on air. -/
def Sail.onAir (x : Sail) : List TxFrame := x.tx.filter (fun f => f.phase == 3)
/-- Frames past their cut-off, on air or not. -/
def Sail.committed (x : Sail) : List TxFrame := x.tx.filter (fun f => decide (2 ≤ f.phase))

/-- The frame of handle `h` leaves the air now, ended or cut; one that was on air during an observation is kept for its power loop (R223). -/
def State.endAir (s : State) (k h : Nat) : State :=
  let f := ((s.sail k).txOf h).toList
  let x := (s.dropTx k h).sail k
  (s.dropTx k h).setSail k { x with
    lastEnd := some (s.sailLocal k), obsEnded := if x.obs = none then x.obsEnded else x.obsEnded ++ f }

/-- LEAD of TXP.PA_CFG in effect, in µs (R235). -/
def State.paLead (s : State) (d : Nat) : Nat := if 1 ≤ s.get d F.TXP_PA_CFG_LEAD ∧ s.get d F.TXP_PA_CFG_LEAD ≤ 8 then s.get d F.TXP_PA_CFG_LEAD else 8

/-- PA_EN of sail `k` now (R217): from LEAD µs before the first sample of a burst to TAIL µs after its last. -/
def State.paEn (s : State) (k : Nat) : Bool :=
  let d := sailDie k
  let x := s.sail k
  let t := s.sailLocal k
  x.onAir != [] || x.tx.any (fun f => f.phase == 2 && decide (f.at_ ≤ t + 400 * s.paLead d))
    || (x.lastEnd.map (fun e => decide (t < e + 400 * s.get d F.TXP_PA_CFG_TAIL))).getD false

/-- The TX_DONE report of a frame (R213). -/
def TxFrame.report (f : TxFrame) (status reason flags air : Nat) : TxReport :=
  match f.desc with
  | some d => ⟨status, reason, flags, f.handle, d.carrier, f.power, d.start, d.asnLo, air⟩
  | none => ⟨status, reason, flags, f.handle, 0, f.power, 0, 0, air⟩

/-- Send a TX_DONE report: an EVENT packet of 18 bytes (R213). -/
def State.sendReport (s : State) (k : Nat) (r : TxReport) : State :=
  s.sailEvent k r.bytes

/-- The carrier of a frame. -/
def TxFrame.carrier (f : TxFrame) : Nat := (f.desc.map (fun d => d.carrier)).getD 0

/-- Refuse a launch with a reason code (R213): the frame is removed, counted and reported. -/
def State.refuseTx (s : State) (k : Nat) (f : TxFrame) (reason : Nat) : State :=
  (((s.dropTx k f.handle).bump (sailDie k) (F.TXP_REFUSE.at 4 reason))).sendReport k (f.report 2 reason f.flags 0)

/-- Take back the duty charge of a frame but for `keep` µs (R229). -/
def State.refundDuty (s : State) (k : Nat) (f : TxFrame) (keep : Nat) : State :=
  match f.desc with
  | some d => (s.locksOver (sailDie k) d.freq d.pers).foldl (fun t e => t.unchargeDuty k e.index f.minute (f.air - keep)) s
  | none => s

/-! ## The modulator (R168, R169, R181, R201) -/

/-- Whether a SUN rate code may be transmitted (R201). -/
def State.rateOk (s : State) (d pers rate : Nat) : Bool :=
  if isOfdm pers then mcsSupported pers (rate % 8) && (s.get d (F.SUNPHY_OFDM_CFG_MCS_MASK.at 4 (pers - 1))).testBit (rate % 8)
  else isFsk pers && (pers != 7 || rate / 16 % 2 == 1)

/-- MR-FSK preamble octets sent (R201, R203). -/
def State.preamble (s : State) (d pers : Nat) : Nat := if isFsk pers then s.get d (F.SUNPHY_FSK_CFG_PREAMBLE_TX.at 4 (pers - 5)) else 0

/-- The SEED of the next frame on carrier `c` (R168); the counter's first value is 1 (DESIGN CHOICE, log entry 164). -/
def State.seedFor (s : State) (k c : Nat) : Nat :=
  let d := sailDie k
  if s.bit d F.CLEURA_TX_CFG_SEED_FIX_EN then s.get d F.CLEURA_TX_CFG_SEED_FIX
  else Tbl.get (fun _ => 1) (s.sail k).seeds c

/-- Samples of a frame still in its carrier's transmit FIFO at LOCAL time `t` of its sail: one on air empties it evenly. -/
def TxFrame.samplesLeft (f : TxFrame) (t : Nat) : Nat :=
  if f.phase = 0 then 0 else if f.phase < 3 ∨ f.air = 0 then f.samples else f.samples - f.samples * (t - f.at_) / (400 * f.air)

/-- Samples in the transmit FIFO of carrier `c` of sail `k` (R51). -/
def State.fifoUsed (s : State) (k c : Nat) : Nat :=
  ((s.sail k).tx.filter (fun f => f.carrier == c)).foldl (fun a f => a + f.samplesLeft (s.sailLocal k)) 0

/-- The counter value that follows one of carrier `c` (R168): 1 to 15 in turn, one step a frame whether or not SEED_FIX is sent. -/
def State.stepSeed (s : State) (k c : Nat) : State :=
  let x := s.sail k
  s.setSail k { x with seeds := Tbl.set (fun _ => 1) x.seeds c (Tbl.get (fun _ => 1) x.seeds c % 15 + 1) }

/-- What the modulator of a SUN frame latches (R201). -/
def State.sunLatch (s : State) (d pers rate : Nat) : SunTx :=
  let o := pers - 1
  let r := pers - 5
  if isOfdm pers then
    ⟨pers, rate, s.get d (F.SUNPHY_OFDM_CFG_INTLV.at 4 o), s.get d (F.SUNPHY_OFDM_CFG_TX_SCRAM.at 4 o), 0, 0, 0, 0, 0⟩
  else
    ⟨pers, rate, 0, 0, s.preamble d pers, s.get d (F.SUNPHY_FSK_CFG_SFD_SEL.at 4 r), s.get d (F.SUNPHY_FSK_CFG_FEC_SCHEME.at 4 r),
      s.get d (F.SUNPHY_FSK_CFG_FEC_INTLV.at 4 r), s.get d (F.SUNPHY_FSK_CFG_MOD_IDX.at 4 r)⟩

/-- The rate code by which a latched MR-FSK frame is coded: its FEC scheme and interleaving are those of the SUNPHY page (R201). -/
def SunTx.code (x : SunTx) : Nat := if isFsk x.pers then x.rate % 2 + 2 * x.scheme + 4 * x.fecIntlv else x.rate

/-- MODULATOR_START (R169, R181, R201): the modulator takes the frame of handle `h`, latches its profile entry or SUN settings, encodes it and
fills the carrier's FIFO; a launch that its profile, FEC byte or rate code forbids is refused and the carrier stays idle. -/
def execModulatorStart (k h : Nat) (s : State) : Host.Outcome State Fault Refusal :=
  let d := sailDie k
  .next (match (s.sail k).txOf h with
    | none => s
    | some f => match f.frame, f.desc with
      | some fr, some ld =>
        if s.hasSail k = false ∨ f.phase ≠ 0 ∨ 262144 ≤ s.fifoUsed k ld.carrier then s
        else if ld.pers = 0 then
          let e := s.profile d ld.rate
          if profValid e = false ∨ ld.fec = 3 then (s.bump d F.CLEURA_TX_BADPROF).refuseTx k f 9
          else
            let sd := s.seedFor k ld.carrier
            (s.stepSeed k ld.carrier).setTx k { f with
              phase := 1, entry := e, seed := sd, air := airTime 0 e ld.rate ld.fec fr.len 0, samples := airSamples 0 e ld.rate ld.fec fr.len 0,
              wave := cleuraSamples e ld.rate ld.fec sd (s.get d F.CLEURA_TX_CFG_WIN_LEN) (psduBytes fr) }
        else if s.rateOk d ld.pers ld.rate = false then (s.bump d F.SUNPHY_TX_BADRATE).refuseTx k f 9
        else
          let x := s.sunLatch d ld.pers ld.rate
          s.setTx k { f with
            phase := 1, sun := some x, air := airTime ld.pers 0 x.code 0 fr.len x.preamble, samples := airSamples ld.pers 0 x.code 0 fr.len x.preamble,
            wave := (Config.sunSamples x (psduBytes fr)).map (fun i => ⟨i.1, i.2⟩) }
      | _, _ => s)

/-! ## The cut-off (R48, R212–R216) -/

/-- Sail LOCAL time of the tick that opens the slot whose ASN has low byte `a`. -/
def State.slotTick (s : State) (k a : Nat) : Nat :=
  let x := s.sail k
  if a = x.asn % 256 then x.tickNow
  else if a = (x.asn + 1) % 256 then x.tickNow + 400 * s.slotLen
  else x.tickPrev

/-- STAGE_SOFT_END at a sail (R53, R59): the modulation of the frame of handle `h` has finished after the tick that opened its slot. -/
def State.modulatedLate (s : State) (k h : Nat) : State :=
  let x := s.sail k
  match x.txOf h with
  | none => s
  | some f =>
    let opened := (f.desc.map (fun d => decide (0 ≤ signed 8 ((x.asn + 256 - d.asnLo % 256) % 256)))).getD false
    if s.hasSail k = false ∨ f.phase ≠ 1 ∨ f.counted ∨ opened = false then s
    else (s.setTx k { f with counted := true }).bump (sailDie k) F.SSTAT_MOD_OVERRUN

/-- Whether frames `f` (starting at `t` and lasting `air` µs) and `g` are on air together. -/
def TxFrame.during (g : TxFrame) (t air : Nat) : Bool := decide (g.at_ < t + 400 * air) && decide (t < g.at_ + 400 * g.air)

/-- COMP_MAX_eff of R216 in 0.25 dB, by configuration `d`: a sail's own, or a mast's copy; PD_STALE is the sail's. -/
def State.compMax (s : State) (d : Nat) : Int :=
  min 8 (s.getS d F.TXP_COMP_CFG_COMP_MAX)
    - (if s.bit (sailDie (dieSail d)) F.TRIM_STATE_PD_STALE then (s.get d F.TRIM_PD_CFG2_BACKOFF : Int) else 0)

/-- TIMEOUT[c] in µs (R235). -/
def State.timeoutUs (s : State) (d c : Nat) : Nat := 1000 * max 1 (min 500 (s.get d (F.TXP_TIMEOUT_MS.at 4 c)))

/-- The sum of the output powers of frames, in milliwatts of 2^-96. -/
def sumMilliwatt (fs : List TxFrame) : Nat := fs.foldl (fun a f => a + milliwatt f.pout) 0

/-- Whether a carrier exists by configuration `d` (a sail's own, or a mast's copy) and is enabled (R209, R212, R618): none on a gated sail, and in reefed mode carrier 0 alone, while the
transmit window lies below 1 000 MHz. -/
def State.carrierOn (s : State) (d c : Nat) (reefed : Bool) : Bool :=
  let x := s.sail (dieSail d)
  (s.get d F.TXP_CARRIER_CFG_EN).testBit c && !x.gated && (!reefed || (c == 0 && reefedSpan (centreOf x.txRun)))

/-- Whether an occupied band lies inside the transmit window span about CENTRE `c` (R208). -/
def inSpan (c f pers : Nat) : Bool :=
  decide ((c - 516) * 100000 + halfWidth pers ≤ f) && decide (f + halfWidth pers ≤ (c + 508) * 100000)

/-- The first failing check of R212 that the configuration and the air time decide (4, 6–8), for a frame of `air` µs. -/
def State.launchCheck (s : State) (d centre : Nat) (usedOf : Nat → Nat) (f pers carrier air : Nat) (overlap : Bool) : Option Nat :=
  let es := s.locksOver d f pers
  if inSpan centre f pers = false then some 6
  else if overlap then some 7
  else if s.timeoutUs d carrier < air then some 2
  else if es.any (fun e => e.dwell != 0 && decide (1000 * e.dwell < air)) then some 3
  else if es.any (fun e => e.duty != 10000 && decide (e.bound < usedOf e.index + air)) then some 4
  else none

/-- The power of R215 before the composite fit: P in 0.25 dB and the clamp flags (bits 1–3 of FLAGS). -/
def State.fixPower (s : State) (d f pers : Nat) (req : Int) : Int × Nat :=
  let fl := s.getS d F.PWR_FLOOR_FLOOR
  let r := max req fl
  let l := s.limit d f pers
  let p := min r (min 8 l.1)
  (p, (if req < fl then 8 else 0) + (if p < r then (if l.2 then 2 else 4) else 0))

/-- The digital gain in 0.25 dB of a frame launched at `p`, and its Pout (R215). -/
def State.outPower (s : State) (d f : Nat) (p : Int) : Int × Int :=
  let corr := s.corr d f
  let g := max (-176) (min 32 ((p * unitQ - corr) / unitQ))
  (g, corr + g * unitQ)

/-- The composite fit of R216: the power a frame keeps, and whether it was trimmed; none refuses it. -/
def compositeFit (p compMax maxTrim : Int) (others : Nat) : Option (Int × Bool) :=
  let cap := milliwatt (compMax * unitQ)
  if cap ≤ others then none
  else if milliwatt (p * unitQ) ≤ cap - others then some (p, false)
  else
    let q := dbFloor (cap - others)
    if p - q ≤ maxTrim then some (q, true) else none

/-- Count the clamp flags of a launched frame (R236). -/
def State.countFlags (s : State) (d flags : Nat) : State :=
  let c (t : State) (b : Nat) (f : Fld) : State := if flags.testBit b then t.bump d f else t
  c (c (c (c s 1 F.TXP_CLAMP_LOCK) 2 F.TXP_CLAMP_OPEN) 3 F.TXP_CLAMP_FLOOR) 4 F.TXP_COMP_TRIM

/-- The cut-off of one launch (R212): `whole` says that the modulator has finished the frame; every sample is then in the FIFO,
if it has room for them (R48, R51). -/
def State.cutoffOne (s : State) (k : Nat) (h : Nat) (whole : Bool) : State :=
  let d := sailDie k
  let x := s.sail k
  match x.txOf h with
  | none => s
  | some f => match f.desc with
    | none => s
    | some ld =>
      let t := s.slotTick k ld.asnLo + ld.start
      let c := ld.carrier
      if whole = false ∨ 262144 < s.fifoUsed k c ∨ f.phase ≠ 1 ∨ x.clockLost then (s.bump d (F.SSTAT_LAUNCH_LATE.at 4 c)).refuseTx k f 1
      else if x.txRun.testBit 31 = false ∨ s.carrierOn d c x.reefed = false then s.refuseTx k f 10
      else if s.bit d F.TXP_ONAIR_RETUNE_PEND then s.refuseTx k f 8
      else
        let meets := x.committed.any (fun g => g.during t f.air && (match g.desc with
          | some e => bandsMeet (ld.freq - halfWidth ld.pers) (ld.freq + halfWidth ld.pers) (e.freq - halfWidth e.pers) (e.freq + halfWidth e.pers)
              || e.carrier == c
          | none => false))
        match s.launchCheck d (centreOf x.txRun) (s.dutyUsed k) ld.freq ld.pers c f.air meets with
        | some r => s.refuseTx k f r
        | none =>
          let pf := s.fixPower d ld.freq ld.pers ld.power
          let others := sumMilliwatt (x.committed.filter (fun g => decide (g.at_ ≤ t) && decide (t < g.at_ + 400 * g.air)))
          match compositeFit pf.1 (s.compMax d) (s.get d F.TXP_COMP_CFG_MAX_TRIM) others with
          | none => s.refuseTx k f 5
          | some (p, trimmed) =>
            let out := s.outPower d ld.freq p
            let flags := f.flags + pf.2 + (if trimmed then 16 else 0) + (if s.bit d F.TRIM_STATE_PD_STALE then 64 else 0)
            let s0 := if x.committed = [] ∧ s.bit d F.TXP_PA_CFG_SPI_EN then s.feSend k (s.get d F.TXP_PA_WORD_SPI_WORD) else s
            let s1 := s0.setTx k { f with
              phase := 2, at_ := t, minute := s.minute k, power := p, gain := out.1, pout := out.2, flags := flags }
            let s2 := (s.locksOver d ld.freq ld.pers).foldl (fun u e => u.chargeDuty k e.index (s.minute k) f.air) s1
            (((s2.put d (F.PWR_LAST_G.at 4 c) (unsigned 10 out.1)).put d (F.PWR_LAST_P.at 4 c) (unsigned 8 p)).countFlags d flags)

/-- Whether launch `a` is checked before `b` (R212): BEACON, then PRIO, then carrier. -/
def launchBefore (a b : LaunchDesc) : Bool :=
  if a.beacon ≠ b.beacon then a.beacon else if a.prio ≠ b.prio then a.prio < b.prio else a.carrier ≤ b.carrier

/-- Insert a launch in checking order. -/
def insertLaunch (x : Nat × LaunchDesc) : List (Nat × LaunchDesc) → List (Nat × LaunchDesc)
  | [] => [x]
  | y :: ys => if launchBefore x.2 y.2 then x :: y :: ys else y :: insertLaunch x ys

/-- Launches in checking order. -/
def sortLaunches : List (Nat × LaunchDesc) → List (Nat × LaunchDesc)
  | [] => []
  | x :: xs => insertLaunch x (sortLaunches xs)

/-- LAUNCH_CUTOFF (R212): every launch of sail `k` at START in the slot named by `asnLo`; `late` are the handles whose frame is
not whole in its FIFO. -/
def execLaunchCutoff (k asnLo start : Nat) (late : List Nat) (s : State) : Host.Outcome State Fault Refusal :=
  let ls := (s.sail k).tx.filterMap (fun f => match f.desc with
    | some d => if d.asnLo = asnLo ∧ d.start = start ∧ f.phase < 2 then some (f.handle, d) else none
    | none => none)
  .next (if s.hasSail k then (sortLaunches ls).foldl (fun t e => t.cutoffOne k e.1 (!late.contains e.1)) s else s)

/-! ## On air (R210, R213, R217, R228, R232) -/

/-- FRAME_LAUNCH (R210): the frame of handle `h`, past its cut-off, starts; a predistortion set that waits takes effect at the
first sample of a burst (R220).  A frame whose START comes while the sample clock is lost is not sent, and is reported as LAUNCH_LATE; one
whose START comes after the resume starts (DESIGN CHOICE, log entry 158: R65 says neither). -/
def execFrameLaunch (k h : Nat) (s : State) : Host.Outcome State Fault Refusal :=
  let x := s.sail k
  let d := sailDie k
  .next (match x.txOf h with
    | some f =>
      if s.hasSail k = false ∨ f.phase ≠ 2 then s
      else if x.clockLost then (((s.refundDuty k f 0).bump d (F.SSTAT_LAUNCH_LATE.at 4 f.carrier))).refuseTx k f 1
      else
        let s1 := if x.onAir = [] ∧ x.pdNew then
            (let u := s.setSail k { x with pdNew := false }
             if u.get d F.TRIM_STATE_STATE = 4 then u.put d F.TRIM_STATE_STATE 0 else u) else s
        s1.setTx k { f with phase := 3 }
    | none => s)

/-- Count a transmitted frame by its personality (R171, R205). -/
def State.countSent (s : State) (d : Nat) (f : TxFrame) : State :=
  match f.desc with
  | some ld => s.bump d (if ld.pers = 0 then F.CLEURA_TX_FRAMES else F.SUNPHY_TX_FRAMES)
  | none => s

/-- TX_FRAME_END (R213): the frame ends and its report is sent. -/
def execTxFrameEnd (k h : Nat) (s : State) : Host.Outcome State Fault Refusal :=
  let d := sailDie k
  .next (match (s.sail k).txOf h with
    | some f =>
      if s.hasSail k = false ∨ f.phase ≠ 3 then s
      else ((((s.endAir k h).bump d (F.TXP_FRAMES.at 4 f.carrier)).countSent d f)).sendReport k (f.report 0 0 f.flags f.air)
    | none => s)

/-- TX_TIMEOUT_CUT (R228): the carrier is forced to zero, the report has STATUS CUT, and only the time on air stays charged. -/
def execTxTimeoutCut (k h : Nat) (s : State) : Host.Outcome State Fault Refusal :=
  let d := sailDie k
  .next (match (s.sail k).txOf h with
    | some f =>
      if s.hasSail k = false ∨ f.phase ≠ 3 then s
      else
        let us := s.timeoutUs d f.carrier
        ((((s.refundDuty k f us).endAir k h).bump d (F.TXP_CUT.at 4 f.carrier)).irq d 0x018 1).sendReport k (f.report 3 0 f.flags us)
    | none => s)

/-- A write of a transmit handle to TXP.ABORT (R232). -/
def State.accAbort (s : State) (k r width h : Nat) : State :=
  s.sailAction k 0x018 0x064 r width (fun t =>
    let d := sailDie k
    let out (u : State) (o : Nat) (late : Bool) : State :=
      ((u.put d F.TXP_ABORT_RESULT_OUTCOME o).put d F.TXP_ABORT_RESULT_ABORT_LATE (if late then 1 else 0)).put d F.TXP_ABORT_HANDLE_HANDLE h
    match (t.sail k).txOf h with
    | none => out t 3 false
    | some f =>
      if f.phase = 3 then (out (t.setTx k { f with flags := f.flags ||| 1 }) 1 true).bump d F.TXP_ABORT_LATE
      else
        let t1 := if f.phase = 2 then t.refundDuty k f 0 else t
        (out ((t1.dropTx k h).bump d F.TXP_ABORTED) 2 false).sendReport k (f.report 1 0 f.flags 0))

/-- TX_ABORT (R232). -/
def execTxAbort (k r width h : Nat) (s : State) : Host.Outcome State Fault Refusal := .next (s.accAbort k r width h)

/-- TX_RETUNE_APPLY (R226): a held window change is applied once nothing is on air or past its cut-off. -/
def State.applyRetune (s : State) (k : Nat) : State :=
  let d := sailDie k
  let x := s.sail k
  let w := (s.word (key d F.TXP_WIN_CTL_CENTRE.addr)).toNat
  let s1 := (((s.setSail k { x with txRun := w }).put d F.TXP_ONAIR_RETUNE_PEND 0).bump d F.TRIM_RETUNE).put d F.TRIM_STATE_PD_VALID 0
  if s1.bit d F.TRIM_CFG_PD_EN = false ∨ s1.bit d F.TRIM_STATE_PD_STALE then s1
  else ((s1.put d F.TRIM_STATE_PD_STALE 1).bump d F.TRIM_PD_STALE).irq d 0x01A 0

/-- TX_RETUNE_APPLY (R226). -/
def execTxRetuneApply (k : Nat) (s : State) : Host.Outcome State Fault Refusal :=
  .next (if s.hasSail k ∧ s.bit (sailDie k) F.TXP_ONAIR_RETUNE_PEND ∧ (s.sail k).committed = [] then s.applyRetune k else s)

/-! ## Observation, predistortion and trim (R84, R85, R220–R225) -/

/-- Whether predistortion training is due (R221). -/
def State.trainingDue (s : State) (d : Nat) : Bool :=
  s.bit d F.TRIM_CFG_PD_EN && (!(s.bit d F.TRIM_STATE_PD_VALID)
    || decide (s.get d F.TRIM_PD_CFG_PERIOD ≤ s.get d F.TRIM_PD_AGE_AGE)
    || decide (4 * max 1 (s.get d F.TRIM_PD_CFG_TEMP_STEP) ≤ (s.getS d F.PWR_SENSE_NOW_TEMP - s.getS d F.TRIM_PD_TEMP_TEMP).natAbs))

/-- Whether the trim engine requests observation for frame `f` (R221): it opens a burst and ranks highest there, is long
enough, and the composite at its START is near COMP_MAX_eff. -/
def State.observable (s : State) (k : Nat) (f : TxFrame) : Bool :=
  let d := sailDie k
  let x := s.sail k
  let mates := x.committed.filter (fun g => g.at_ == f.at_)
  let first := (sortLaunches (mates.filterMap (fun g => g.desc.map (fun e => (g.handle, e))))).head?
  s.trainingDue d && x.onAir == [] && f.phase == 2 && decide (first.map (fun e => e.1) = some f.handle)
    && decide (10 * s.get d F.TRIM_PD_CFG2_OBS_MIN ≤ f.air)
    && decide (milliwatt ((s.compMax d - (s.get d F.TRIM_PD_CFG_LEVEL : Int)) * unitQ) ≤ sumMilliwatt mates)

/-- Lanes that have not yet selected an aerial when aerial B is suspended for observation select aerial A (R102). -/
def State.selectA (s : State) (k : Nat) : State :=
  let open_ := (s.sail k).attached.filter (fun e => e.2.state == 1 && !e.2.selected)
  open_.foldl (fun t e =>
    let t1 := t.setLane k e.1 { e.2 with aerial := 0, selected := true }
    if e.2.aerial = 1 then t1.bump (sailDie k) F.NEST_SEL_OTHER else t1) s

/-- OBSERVATION_START (R84, R85): for a requested observation of frame `h` the switch closes, or MODE 0 refuses it while a lane
of a window that is not blanked holds aerial B. -/
def execObservationStart (k h : Nat) (s : State) : Host.Outcome State Fault Refusal :=
  let d := sailDie k
  let x := s.sail k
  .next (match x.txOf h with
    | some f =>
      if s.hasSail k = false ∨ s.observable k f = false ∨ x.obs ≠ none then s
      else
        let hold (_ : Nat) (y : Lane) : Bool := (y.selected || decide (2 ≤ y.state)) && y.aerial == 1 && !(s.blanked k y.win)
        if s.get d F.FECTL_OBS_CTL_MODE = 0 ∧ x.attached.any (fun e => e.2.receiving && hold e.1 e.2) then s.bump d F.FECTL_OBS_DEFER
        else
          let s1 := s.releaseAll k 7 hold (fun _ t => t.bump d F.FECTL_OBS_PREEMPT)
          let s2 := s1.setTx k { f with flags := f.flags ||| 32 }
          ((s2.setSail k { s2.sail k with obs := some h, obsEnded := [] }).selectA k).put d F.TRIM_STATE_STATE 2
    | none => s)

/-- Round `n / m` to the nearest whole number, halves away from zero. -/
def roundHalfAway (n : Int) (m : Nat) : Int :=
  let q := (2 * n.natAbs + m) / (2 * m)
  if n < 0 then -(q : Int) else q

/-- The power loop of R223: measured levels at the ADC B input, by transmit handle, in 1/16 dBm, of the frames on air during the observation, those that
ended in it too. -/
def State.powerLoop (s : State) (k : Nat) (levels : List (Nat × Int)) : State :=
  let d := sailDie k
  let diffs := levels.filterMap (fun e => (((s.sail k).onAir ++ (s.sail k).obsEnded).find? (fun f => f.handle == e.1)).map (fun f =>
    (e.2 - s.eff d 44) * unit16 - f.pout))
  if s.bit d F.TRIM_CFG_PWR_LOOP = false ∨ diffs = [] then s
  else
    let step := max (-4) (min 4 (roundHalfAway (diffs.foldl (· + ·) 0) (diffs.length * unit16.toNat)))
    let v := s.getS d F.PWR_TRIM_OFS_OFS + step
    let s1 := s.put d F.PWR_TRIM_OFS_OFS (unsigned 8 (max (-24) (min 24 v)))
    if v < -24 ∨ 24 < v then (s1.bump d F.PWR_TRIM_LIMIT).irq d 0x019 0 else s1

/-- OBSERVATION_END (R221–R223): the observed frame ends, the solver starts, and the power loop takes the measured levels. -/
def execObservationEnd (k : Nat) (levels : List (Nat × Int)) (s : State) : Host.Outcome State Fault Refusal :=
  let d := sailDie k
  .next (
    if s.hasSail k = false ∨ (s.sail k).obs = none then s
    else
      let s1 := s.powerLoop k levels
      ((s1.setSail k { s1.sail k with obs := none, obsEnded := [] }).bump d F.TRIM_OBS_DONE).put d F.TRIM_STATE_STATE 3)

/-- PD_SOLVE_DONE (R222): `acr` is the new set's estimated ratio in −dBc, 0.25 dB units. -/
def execPdSolveDone (k acr : Nat) (s : State) : Host.Outcome State Fault Refusal :=
  let d := sailDie k
  .next (
    if s.hasSail k = false ∨ s.get d F.TRIM_STATE_STATE ≠ 3 then s
    else if s.bit d F.TRIM_STATE_PD_VALID ∧ acr < s.get d F.TRIM_PD_ERR_ACR then (s.bump d F.TRIM_PD_REJECT).put d F.TRIM_STATE_STATE 0
    else
      let s1 := ((((((s.put d F.TRIM_STATE_PD_VALID 1).put d F.TRIM_STATE_PD_STALE 0).put d F.TRIM_PD_AGE_AGE 0).put d F.TRIM_PD_TEMP_TEMP
        (s.get d F.PWR_SENSE_NOW_TEMP)).put d F.TRIM_PD_ERR_ACR acr).bump d F.TRIM_PD_UPDATE).put d F.TRIM_STATE_STATE 4
      let s2 := s1.setSail k { s1.sail k with pdNew := true }
      if (s2.sail k).onAir = [] then s2 else s2.bump d F.TRIM_PD_WAIT)

/-- DAC_CAL_STEP (R225): one calibration step, when nothing is on air, blanked or past its cut-off. -/
def execDacCalStep (k : Nat) (s : State) : Host.Outcome State Fault Refusal :=
  let d := sailDie k
  .next (
    if s.hasSail k = false ∨ s.bit d F.TRIM_CFG_DAC_EN = false ∨ (s.sail k).committed ≠ [] ∨ s.get d F.WIN_STATUS_W_BLANKED ≠ 0 then s
    else s.bump d F.TRIM_DAC_STEPS)

/-- PD_STALE after a change of temperature or of PD_EN (R224). -/
def State.staleCheck (s : State) (d : Nat) : State :=
  if s.bit d F.TRIM_CFG_PD_EN = false then s.put d F.TRIM_STATE_PD_STALE 0
  else if s.bit d F.TRIM_STATE_PD_STALE then s
  else if s.bit d F.TRIM_STATE_PD_VALID = false
      ∨ 8 * max 1 (s.get d F.TRIM_PD_CFG_TEMP_STEP) ≤ (s.getS d F.PWR_SENSE_NOW_TEMP - s.getS d F.TRIM_PD_TEMP_TEMP).natAbs then
    ((s.put d F.TRIM_STATE_PD_STALE 1).bump d F.TRIM_PD_STALE).irq d 0x01A 0
  else s

/-- POWER_SENSE (R215, R224): die temperature in 0.125 °C and DAC supply in mV. -/
def execPowerSense (k : Nat) (temp : Int) (vdac : Nat) (s : State) : Host.Outcome State Fault Refusal :=
  let d := sailDie k
  .next (if s.hasSail k then ((s.put d F.PWR_SENSE_NOW_TEMP (unsigned 16 temp)).put d F.PWR_SENSE_NOW_VDAC vdac).staleCheck d else s)

/-- PDET_SAMPLE (R218): PDET in mV at the middle of a burst. -/
def execPdetSample (k mv : Nat) (s : State) : Host.Outcome State Fault Refusal :=
  let d := sailDie k
  let x := s.sail k
  .next (
    if s.hasSail k = false ∨ s.bit d F.PWR_PDET_CFG_EN = false ∨ x.onAir = [] then s
    else
      let measured := (16 * s.eff d 42 * mv + 1000 * s.eff d 43) / 4000
      let expected := dbFloor (sumMilliwatt x.onAir) + s.getS d F.PWR_PDET_CFG_PA_GAIN
      let s1 := (s.put d F.PWR_PDET_LAST_MEASURED (unsigned 16 measured)).put d F.PWR_PDET_LAST_EXPECTED (unsigned 16 expected)
      if s.get d F.PWR_PDET_CFG_TOL < (measured - expected).natAbs then (s1.bump d F.PWR_PDET_DEV).irq d 0x019 1 else s1)

/-! ## Fuses (R234) -/

/-- A write of REGLOCK.FUSE_GO (R234): 0xA5 programs the selected entry, unless it already holds VALID = 1. -/
def State.accFuseGo (s : State) (k r width value : Nat) : State :=
  s.sailAction k 0x004 0x154 r width (fun t =>
    let d := sailDie k
    let x := t.sail k
    let e := t.get d F.REGLOCK_FUSE_SEL_ENTRY
    if value % 256 ≠ 0xA5 ∨ x.fusing ≠ none then t
    else if (Tbl.get (fun _ => 0) x.otp e).testBit 127 then t.put d F.REGLOCK_STATUS_FUSE_ERR 1
    else
      let v := (List.range 4).foldl (fun a i => a + (t.get d (F.REGLOCK_FUSE_DATA_DATA.at 4 i)) * 2 ^ (32 * i)) 0
      (t.setSail k { x with fusing := some (e, v) }).put d F.REGLOCK_STATUS_FUSE_BUSY 1)

/-- FUSE_GO (R234). -/
def execFuseGo (k r width value : Nat) (s : State) : Host.Outcome State Fault Refusal := .next (s.accFuseGo k r width value)

/-- FUSE_DONE (R234): the fuses hold the entry, which takes effect at the next cold start. -/
def execFuseDone (k : Nat) (s : State) : Host.Outcome State Fault Refusal :=
  let d := sailDie k
  let x := s.sail k
  .next (match x.fusing with
    | some (e, v) =>
      if s.hasSail k then
        ((s.setSail k { x with otp := Tbl.set (fun _ => 0) x.otp e (Tbl.get (fun _ => 0) x.otp e ||| v), fusing := none }).put d
          F.REGLOCK_STATUS_FUSE_BUSY 0).irq d 0x004 1
      else s
    | none => s)

end Sys2Proof.Machine
end

