-- ==== Sys2Proof/Machine/Receive.lean ====
section
/-! DEFINITION. The receiver's events: references and the sample clock, wideband gain, retuned windows, blanking
(R60–R95). -/

namespace Sys2Proof.Machine

/-! ## References and the sample clock (R62–R65) -/

/-- The field that says whether reference `ref` (0 A, 1 B) is valid. -/
def refOk (ref : Nat) : Fld := if ref = 0 then F.ADC_CLK_STATUS_REF_A_OK else F.ADC_CLK_STATUS_REF_B_OK

/-- A switch of sail `k` to reference `ref` (R63): lanes that receive and frames on air are marked. -/
def State.refSwitch (s : State) (k ref : Nat) : State :=
  let d := sailDie k
  let x := s.sail k
  let x1 := { x with
    lanes := x.lanes.map (fun e => if e.2.receiving then (e.1, { e.2 with refSwitch := true }) else e),
    tx := x.tx.map (fun f => if f.phase = 3 then { f with flags := f.flags ||| 128 } else f) }
  (((s.setSail k x1).put d F.ADC_CLK_STATUS_REF_SEL ref).bump d F.ADC_REF_SWITCH).irq d 0x008 0

/-- Reference `ref` of sail `k` counts as lost (R63, R65). -/
def State.sailRefLoss (s : State) (k ref : Nat) : State :=
  let d := sailDie k
  let x := s.sail k
  let s1 := (s.setSail k { x with refSince := Tbl.del x.refSince ref,
                                   relockRef := if x.relockRef = some ref then none else x.relockRef }).put d (refOk ref) 0
  if s.get d F.ADC_CLK_STATUS_REF_SEL ≠ ref ∨ s.bit d F.ADC_CLK_STATUS_HOLDOVER then s1
  else if s1.bit d (refOk (1 - ref)) then s1.refSwitch k (1 - ref)
  else s1.put d F.ADC_CLK_STATUS_HOLDOVER 1

/-- The µs for which a frame has been on air now. -/
def State.airSoFar (s : State) (k : Nat) (f : TxFrame) : Nat := min f.air ((s.sailLocal k - f.at_) / 400)

/-- SAMPLE_CLOCK_LOST (R65): both references have been lost for 100 µs.  An observation ends without a solution, and the trim engine is idle
(DESIGN CHOICE, log entry 165). -/
def execSampleClockLost (k : Nat) (s : State) : Host.Outcome State Fault Refusal :=
  let d := sailDie k
  .next (
    if s.hasSail k = false ∨ s.bit d F.ADC_CLK_STATUS_HOLDOVER = false ∨ (s.sail k).clockLost ∨ s.bit d (refOk 0) ∨ s.bit d (refOk 1) then s
    else
      let s0 := if (s.sail k).obs = none then s else s.put d F.TRIM_STATE_STATE 0
      let s1 := s0.setSail k { s0.sail k with clockLost := true, relocked := false, obs := none, obsEnded := [] }
      let s2 := (s1.dropWaits k (fun _ => true)).releaseAll k 8 (fun _ _ => true) (fun _ t => t)
      let s3 := (s2.sail k).onAir.foldl (fun t f =>
        let us := t.airSoFar k f
        let t1 := (t.refundDuty k f us).endAir k f.handle
        t1.setSail k { t1.sail k with cutAtLoss := (t1.sail k).cutAtLoss ++ [f.report 3 0 f.flags us] }) s2
      ((s3.put d F.ADC_CLK_STATUS_PLL_LOCK 0).bump d F.ADC_CLOCK_LOST).irq d 0x008 1)

/-- Reference `ref` of sail `k` has been valid for 1 ms (R65): it counts as valid again, and a relock starts when the sample
clock holds or is lost. -/
def State.sailRefValid (s : State) (k ref : Nat) : State :=
  let d := sailDie k
  let x := s.sail k
  let x1 := { x with refSince := Tbl.put x.refSince ref (s.sailLocal k - 400000) }
  let hold := s.bit d F.ADC_CLK_STATUS_HOLDOVER && x.relockRef == none
  (s.setSail k (if hold then { x1 with relockRef := some ref } else x1)).put d (refOk ref) 1

/-- The clock of sail `k` is locked again (R65): the CUT reports are sent, and a DAC step runs (R227); detectors and carriers resume at the next
tick. -/
def State.sailRelocked (s : State) (k : Nat) : State :=
  let d := sailDie k
  let x := s.sail k
  match x.relockRef with
  | none => s
  | some ref =>
    let s0 := (((s.setSail k { x with relockRef := none, relocked := true, cutAtLoss := [] }).put d F.ADC_CLK_STATUS_PLL_LOCK 1).put d
      F.ADC_CLK_STATUS_HOLDOVER 0).put d F.ADC_CLK_STATUS_REF_SEL ref
    let s1 := if x.clockLost then s0.bump d F.TRIM_DAC_STEPS else s0
    x.cutAtLoss.foldl (fun t r => (t.bump d (F.TXP_CUT.at 4 r.carrier)).sendReport k r) s1

/-- The return to the preferred reference on a tick (R64, action 7 of R41): with REVERT set, once it has been valid for 1 s. -/
def State.sailRevert (s : State) (k : Nat) : State :=
  let d := sailDie k
  let p := s.get d F.ADC_CLK_CFG_REF_PREF
  match Tbl.find? (s.sail k).refSince p with
  | none => s
  | some t =>
    if s.bit d F.ADC_CLK_CFG_REVERT ∧ s.bit d (refOk p) ∧ s.get d F.ADC_CLK_STATUS_REF_SEL ≠ p ∧ t + 400000000 ≤ s.sailLocal k
        ∧ (s.sail k).clockLost = false then s.refSwitch k p
    else s

/-! ## Wideband gain (R74–R81) -/

/-- The field of an aerial's current gain state. -/
def gainState (aer : Nat) : Fld := if aer = 0 then F.ADC_GAIN_STATE_STATE_A else F.ADC_GAIN_STATE_STATE_B

/-- Whether gain state `g` may be entered (R74). -/
def State.gainValid (s : State) (d g : Nat) : Bool := decide (g < 8) && s.bit d (F.FECTL_GAIN_TAB_VALID.at 8 g)

/-- The calibrated gain of a state on an aerial, in 1/16 dB (R74, R243, R244). -/
def State.gainOf (s : State) (d aer g : Nat) : Int := 4 * s.getS d (F.FECTL_GAIN_TAB_GAIN.at 8 g) + s.eff d (36 + aer)

/-- A field of an aerial's AGC_CFG. -/
def agc (aer : Nat) (f : Fld) : Fld := f.at 4 aer

/-- One state toward lower gain than `g`, no further than MAX_STATE: the next that may be entered, since R74 lets no other be (DESIGN
CHOICE, log entry 156). -/
def State.stateDown (s : State) (d aer g : Nat) : Option Nat :=
  (List.range 8).find? (fun h => decide (g < h) && decide (h ≤ s.get d (agc aer F.ADC_AGC_CFG_MAX_STATE)) && s.gainValid d h)

/-- One state toward higher gain than `g` that may be entered (log entry 156), no further than MIN_STATE. -/
def State.stateUp (s : State) (d aer g : Nat) : Option Nat :=
  (List.range 8).reverse.find? (fun h => decide (h < g) && decide (s.get d (agc aer F.ADC_AGC_CFG_MIN_STATE) ≤ h) && s.gainValid d h)

/-- Whether the ADC of an aerial runs (R60): in reefed mode ADC B is powered down. -/
def State.adcOn (s : State) (k aer : Nat) : Bool := aer == 0 || !(s.sail k).reefed

/-- ADC samples from a gain command to the analog change on an aerial (R74, R93, R244). -/
def State.gainLat (s : State) (d aer : Nat) : Nat := ((s.get d (F.FECTL_GAIN_LAT_LAT.at 4 aer) : Int) + s.eff d (40 + aer)).toNat

/-- The digital gain of an aerial, in 1/16 dB, at LOCAL time `t` of its sail (R74). -/
def Sail.digitalGain (x : Sail) (aer t : Nat) : Int :=
  match Tbl.find? x.digital aer with
  | none => 0
  | some (land, before, after) => if t < land then before else after

/-- An aerial enters gain state `g` (R74): its FE_SPI word is sent, and the digital gain changes by the difference of the calibrated gains on
the sample at which the analog gain does. -/
def State.enterGain (s : State) (k aer g : Nat) : State :=
  let d := sailDie k
  let x := s.sail k
  let now := s.sailLocal k
  let before := x.digitalGain aer now
  let land := now + (if x.reefed then s.gainLat d aer * 5 / 32 else s.gainLat d aer / 16)
  let after := before + s.gainOf d aer (s.get d (gainState aer)) - s.gainOf d aer g
  ((s.setSail k { x with digital := Tbl.put x.digital aer (land, before, after) }).put d (gainState aer) g).feSend k
    (s.get d (F.FECTL_GAIN_TAB_SPI_WORD.at 8 g))

/-- Whether a fast step of an aerial may follow its last one (R76): 20 µs apart. -/
def State.stepFree (s : State) (k aer : Nat) : Bool :=
  match Tbl.find? (s.sail k).stepAt aer with
  | none => true
  | some t => decide (t + 8000 ≤ s.sailLocal k)

/-- GAIN_FAST_STEP (R76, R77, R79, R81): CLIP_COUNT clipped samples within 1 µs on an aerial; those under blanking do not count with
CLIP_MASK_TX. -/
def execGainFastStep (k aer : Nat) (s : State) : Host.Outcome State Fault Refusal :=
  let d := sailDie k
  .next (
    if s.hasSail k = false ∨ 2 ≤ aer ∨ s.adcOn k aer = false ∨ s.bit d (agc aer F.ADC_AGC_CFG_AUTO) = false ∨ s.stepFree k aer = false
        ∨ ((s.sail k).blankFrom ≠ none ∧ s.bit d (agc aer F.ADC_AGC_CFG_CLIP_MASK_TX)) then s
    else match s.stateDown d aer (s.get d (gainState aer)) with
      | none => s
      | some g =>
        let x := s.sail k
        let x1 := { x with
          lanes := x.lanes.map (fun e => if e.2.receiving ∧ e.2.aerial = aer then (e.1, { e.2 with gainStep := true }) else e),
          clipped := x.clipped ||| 2 ^ aer, slots := Tbl.put x.slots aer [], stepAt := Tbl.put x.stepAt aer (s.sailLocal k) }
        (((s.setSail k x1).enterGain k aer g).bump d (if aer = 0 then F.ADC_FAST_STEP_A else F.ADC_FAST_STEP_B)).irq d 0x008 2)

/-- Whether each of the last RISE_SLOTS closed slots of an aerial qualifies for a rise to state `h` (R78): no clipped sample, and a peak that
the higher gain leaves 3 dB below full scale. -/
def State.riseDue (s : State) (k aer h : Nat) : Bool :=
  let d := sailDie k
  let n := max 1 (s.get d (agc aer F.ADC_AGC_CFG_RISE_SLOTS))
  let past := (Tbl.get (fun _ => []) (s.sail k).slots aer).take n
  let top := -(s.gainOf d aer h - s.gainOf d aer (s.get d (gainState aer)) + 48)
  past.length == n && past.all (fun e => e.1 && decide (4 * e.2 ≤ top))

/-- The state that the gain of an aerial rises to at this tick (R78), if it does: at most once per tick. -/
def State.riseTo (s : State) (k aer : Nat) : Option Nat :=
  let d := sailDie k
  if s.bit d (agc aer F.ADC_AGC_CFG_AUTO) = false ∨ s.adcOn k aer = false ∨ (s.sail k).clipped.testBit (2 + aer) then none
  else (s.stateUp d aer (s.get d (gainState aer))).filter (s.riseDue k aer)

/-- GAIN_TICK_RISE (R78): the gain of an aerial rises one state at the tick. -/
def execGainTickRise (k aer : Nat) (s : State) : Host.Outcome State Fault Refusal :=
  .next (if s.hasSail k = false ∨ 2 ≤ aer then s
    else match s.riseTo k aer with
      | none => s
      | some g =>
        ((s.setSail k { s.sail k with clipped := (s.sail k).clipped ||| 2 ^ (2 + aer) }).enterGain k aer g).bump (sailDie k)
          (if aer = 0 then F.ADC_TICK_RISE_A else F.ADC_TICK_RISE_B))

/-- The close of a slot for an aerial's gain (R75, R78, R79, R81, R89): clipped samples are counted, the peak is kept, and the slot joins those
that a rise looks back on. -/
def State.closeSlotGain (s : State) (k aer clip masked : Nat) (peak : Int) : State :=
  let d := sailDie k
  let x := s.sail k
  if s.adcOn k aer = false then s
  else
    let counted := clip - (if s.bit d (agc aer F.ADC_AGC_CFG_CLIP_MASK_TX) then masked else 0)
    let ok := decide (counted = 0) && !(x.clipped.testBit aer)
    let s1 := s.setSail k { x with slots := Tbl.put x.slots aer (((ok, peak) :: Tbl.get (fun _ => []) x.slots aer).take 15) }
    (s1.count d (if aer = 0 then F.ADC_CLIP_SAMPLES_A else F.ADC_CLIP_SAMPLES_B) clip).put d
      (if aer = 0 then F.ADC_PEAK_A else F.ADC_PEAK_B) (unsigned 16 peak)

/-! ## Windows retuned and blanked (R69, R82, R83) -/

/-- DETECTOR_RESUME (R69): window `w` has settled 25 µs after the tick of its retune. -/
def execDetectorResume (k w : Nat) (s : State) : Host.Outcome State Fault Refusal :=
  .next (if s.hasSail k then s.setSail k { s.sail k with settling := (s.sail k).settling.filter (fun v => v != w) } else s)

/-- The bits of the windows that are blanked. -/
def Sail.blankBits (x : Sail) : Nat := (List.range 4).foldl (fun a w => if (Tbl.find? x.blankAt w).isSome then a + 2 ^ w else a) 0

/-- Window `w` is blanked no more: its time of blanking is counted (R92). -/
def State.unblank (s : State) (k w : Nat) : State :=
  match Tbl.find? (s.sail k).blankAt w with
  | none => s
  | some t0 =>
    (s.setSail k { s.sail k with blankAt := Tbl.del (s.sail k).blankAt w }).count (sailDie k) (F.WIN_BLANK_TIME.at 4 w) ((s.sailLocal k - t0) / 400)

/-- A window whose control word has changed during a transmission is blanked or not as its new span asks (R82, R83). -/
def State.reblank (s : State) (k w : Nat) : State :=
  let x := s.sail k
  if x.blankFrom = none then s
  else
    let on := s.winOn k w && s.winBlanks k w
    let s1 := if on = false then s.unblank k w
              else if (Tbl.find? x.blankAt w).isSome then s
              else s.setSail k { x with blankAt := Tbl.put x.blankAt w (s.sailLocal k) }
    s1.put (sailDie k) F.WIN_STATUS_W_BLANKED (s1.sail k).blankBits

/-- Changed windows at a tick (R69, R83, R666): their detectors are suspended and blanked as their new spans ask, the requests that wait
for them dropped, and then the lanes that receive there released. -/
def State.retuneWindows (s : State) (k : Nat) : State :=
  let d := sailDie k
  let now (w : Nat) : Nat := (s.word (key d (F.WIN_WIN_CTL_CENTRE.at 8 w).addr)).toNat
  let ws := (List.range 4).filter (fun w => now w != s.winWord k w)
  let s1 := ws.foldl (fun t w =>
    let x := t.sail k
    (t.setSail k { x with winRun := Tbl.set (fun _ => 0x323BE) x.winRun w (now w),
                          settling := if x.settling.contains w then x.settling else x.settling ++ [w] }).reblank k w) s
  (s1.dropWaits k (fun q => ws.contains q.win)).releaseAll k 6 (fun _ y => ws.contains y.win) (fun y u => u.bump d (F.WIN_RETUNE_REL.at 4 y.win))

/-- BLANKING_START (R83): 10 µs before the first sample of a burst, the windows that meet the transmit band are blanked. -/
def execBlankingStart (k : Nat) (s : State) : Host.Outcome State Fault Refusal :=
  let d := sailDie k
  let x := s.sail k
  .next (
    if s.hasSail k = false ∨ x.committed = [] ∨ x.blankFrom ≠ none then s
    else
      let ws := (List.range 4).filter (fun w => s.winOn k w && s.winBlanks k w)
      let t0 := s.sailLocal k
      let x1 := { x with blankFrom := some t0, blankAt := ws.foldl (fun l w => Tbl.put l w t0) [] }
      let s1 := (s.setSail k x1).put d F.WIN_STATUS_W_BLANKED x1.blankBits
      (s1.dropWaits k (fun q => ws.contains q.win)).releaseAll k 5 (fun _ y => ws.contains y.win)
        (fun y t => t.bump d (F.WIN_TX_BLANKED.at 4 y.win)))

/-- BLANKING_END (R83): 50 µs after the last sample on air. -/
def execBlankingEnd (k : Nat) (s : State) : Host.Outcome State Fault Refusal :=
  let x := s.sail k
  .next (
    if s.hasSail k = false ∨ x.blankFrom = none ∨ x.onAir ≠ [] then s
    else
      let s1 := (List.range 4).foldl (fun t w => t.unblank k w) s
      (s1.setSail k { s1.sail k with blankFrom := none }).put (sailDie k) F.WIN_STATUS_W_BLANKED 0)

/-- A write of LANE.HWM_CLR (R131): the marks start again from 0 for the waits and from the lanes now in use (DESIGN CHOICE, log entry 23). -/
def State.accLaneHwmClr (s : State) (k r width value : Nat) : State :=
  s.sailAction k 0x00B 0x050 r width (fun t =>
    if value % 2 = 0 then t
    else (List.range 4).foldl (fun u w => u.put (sailDie k) (F.LANE_IN_USE_HWM.at 4 w) ((u.sail k).inUse w)) (t.put (sailDie k) F.LANE_WAIT_HWM_HWM 0))

end Sys2Proof.Machine
end

