-- ==== Sys2Proof/Machine/Time.lean ====
section
/-! DEFINITION. The references of both die types, the servos of MESH, NET and AUX, their samples, steps and sets, and the time
pulse outputs (R63–R65, R383–R399). -/

namespace Sys2Proof.Machine

/-- A register of domain `x` in the configuration block (stride 0x40). -/
def dc (f : Fld) (x : Nat) : Fld := f.at 0x40 (x - 1)
/-- A live register of domain `x` (stride 0x20). -/
def dl (f : Fld) (x : Nat) : Fld := f.at 0x20 (x - 1)
/-- A counter of domain `x` (stride 0x10). -/
def dk (f : Fld) (x : Nat) : Fld := f.at 0x10 (x - 1)

/-! ## References of a mast (R385) -/

/-- The field that says whether reference `ref` of a mast is valid. -/
def mastRefOk (ref : Nat) : Fld := if ref = 0 then F.TIME_LOCAL_STATUS_REF_A_OK else F.TIME_LOCAL_STATUS_REF_B_OK

/-- Mast `m` switches to reference `ref`: REFCLK_SWITCHED on the TIME page. -/
def State.mastRefSwitch (s : State) (m ref : Nat) : State := (s.put m F.TIME_LOCAL_STATUS_REF_SEL ref).irq m 0x030 16

/-- Reference `ref` of mast `m` counts as lost. -/
def State.mastRefLoss (s : State) (m ref : Nat) : State :=
  let M := s.mast m
  let s1 := (s.setMast m { M with refSince := Tbl.del M.refSince ref,
                                   relockRef := if M.relockRef = some ref then none else M.relockRef }).put m (mastRefOk ref) 0
  if s.get m F.TIME_LOCAL_STATUS_REF_SEL = ref ∧ s1.bit m (mastRefOk (1 - ref)) then s1.mastRefSwitch m (1 - ref) else s1

/-- REFCLK_LOSS (R63, R385): reference `ref` (0 A, 1 B) of die `d` counts as lost. -/
def execRefclkLoss (d ref : Nat) (s : State) : Host.Outcome State Fault Refusal :=
  .next (if s.fitted d = false ∨ 2 ≤ ref then s else if d < 2 then s.mastRefLoss d ref else s.sailRefLoss (d - 2) ref)

/-- LOCAL_CLOCK_HOLD (R385): both references of mast `m` are lost; the PLL holds and LOCAL keeps counting. -/
def execLocalClockHold (m : Nat) (s : State) : Host.Outcome State Fault Refusal :=
  .next (
    if s.fitted m = false ∨ 2 ≤ m ∨ s.bit m (mastRefOk 0) ∨ s.bit m (mastRefOk 1) ∨ s.bit m F.TIME_LOCAL_STATUS_HOLD then s
    else ((s.put m F.TIME_LOCAL_STATUS_HOLD 1).irq m 0x030 17).selfFaults m 64)

/-- REF_RELOCK_START (R65, R385): reference `ref` of die `d` has been valid for 1 ms. -/
def execRefRelockStart (d ref : Nat) (s : State) : Host.Outcome State Fault Refusal :=
  .next (
    if s.fitted d = false ∨ 2 ≤ ref then s
    else if 2 ≤ d then s.sailRefValid (d - 2) ref
    else
      let M := s.mast d
      let hold := s.bit d F.TIME_LOCAL_STATUS_HOLD && M.relockRef == none
      (s.setMast d { M with refSince := Tbl.put M.refSince ref (s.localNs d - 1000000),
                            relockRef := if hold then some ref else M.relockRef }).put d (mastRefOk ref) 1)

/-- RELOCK_COMPLETE (R65, R385): the clock of die `d` is locked again. -/
def execRelockComplete (d : Nat) (s : State) : Host.Outcome State Fault Refusal :=
  .next (
    if s.fitted d = false then s
    else if 2 ≤ d then s.sailRelocked (d - 2)
    else match (s.mast d).relockRef with
      | none => s
      | some ref => (((s.setMast d { s.mast d with relockRef := none }).put d F.TIME_LOCAL_STATUS_HOLD 0).put d
          F.TIME_LOCAL_STATUS_PLL_LOCK 1).put d F.TIME_LOCAL_STATUS_REF_SEL ref)

/-- The return of mast `m` to its preferred reference on a tick (R64, R385, action 7 of R41). -/
def State.mastRevert (s : State) (m : Nat) : State :=
  let p := s.get m F.TIME_LOCAL_CFG_REF_PREF
  match Tbl.find? (s.mast m).refSince p with
  | none => s
  | some t =>
    if s.bit m F.TIME_LOCAL_CFG_REVERT ∧ s.bit m (mastRefOk p) ∧ s.get m F.TIME_LOCAL_STATUS_REF_SEL ≠ p
        ∧ t + 1000000000 ≤ s.localNs m then s.mastRefSwitch m p
    else s

/-! ## Time pulse outputs (R396–R399) -/

/-- A register of output `o` in the TPO configuration block. -/
def tc (f : Fld) (o : Nat) : Fld := f.at 0x20 o
/-- A live register of output `o`. -/
def tl (f : Fld) (o : Nat) : Fld := f.at 0x10 o

/-- DOMAIN of output `o`. -/
def State.tpoDomain (s : State) (m o : Nat) : Nat := s.get m (tc F.TPO_CTL_DOMAIN o)

/-- START of output `o` (R396): START_LO is ignored for LOCAL; an offset that reaches the slot length is carried into the ASN. -/
def State.tpoStart (s : State) (m o : Nat) : Nat × Nat :=
  let x := s.tpoDomain m o
  let hi := s.get64 m (tc F.TPO_START_HI_HI o)
  if x = 0 then (hi, 0) else s.domAdd m x hi (s.get m (tc F.TPO_START_LO_NS o)) 0

/-- Schedule output `o`'s next edge. -/
def State.tpoNext (s : State) (m o : Nat) (t : Nat × Nat) : State :=
  ((s.put64 m (tl F.TPO_NEXT_HI_HI o) t.1).put m (tl F.TPO_NEXT_LO_NS o) t.2).put m (tl F.TPO_STATUS_ACTIVE o) 1

/-- The held next edge of output `o`. -/
def State.tpoEdge (s : State) (m o : Nat) : Nat × Nat := (s.get64 m (tl F.TPO_NEXT_HI_HI o), s.get m (tl F.TPO_NEXT_LO_NS o))

/-- Output `o` takes the polarity that its CTL holds (R397): at its edges, and when it is armed. -/
def State.tpoPolarity (s : State) (m o : Nat) : State :=
  s.setMast m { s.mast m with tpoPol := Tbl.set (fun _ => false) (s.mast m).tpoPol o (s.bit m (tc F.TPO_CTL_POL o)) }

/-- A commit of output `o`'s mode, START or PERIOD (R397): one pulse at START, late when START is past; or the first
START + n·PERIOD that lies in the future; or off. -/
def State.tpoArm (s : State) (m o : Nat) : State :=
  let s := s.tpoPolarity m o
  let x := s.tpoDomain m o
  let t := s.tpoStart m o
  let ahead := s.ahead m x t.1 t.2
  match s.get m (tc F.TPO_CTL_MODE o) with
  | 1 => if 0 < ahead then s.tpoNext m o t else (s.put m (tl F.TPO_STATUS_ACTIVE o) 0).irq m 0x031 o
  | 2 =>
    let per := s.get m (tc F.TPO_PERIOD_NS o)
    if 0 < ahead ∨ per = 0 then s.tpoNext m o t
    else s.tpoNext m o (s.domAdd m x t.1 t.2 (per * ((-ahead).toNat / per + 1)))
  | _ => s.put m (tl F.TPO_STATUS_ACTIVE o) 0

/-- After domain `x` has stepped forward, the edges of output `o` that the step passed are not produced (R398). -/
def State.tpoSkip (s : State) (m x o : Nat) : State :=
  if s.tpoDomain m o ≠ x ∨ s.bit m (tl F.TPO_STATUS_ACTIVE o) = false then s
  else
    let e := s.tpoEdge m o
    let ahead := s.ahead m x e.1 e.2
    if 0 ≤ ahead then s
    else
      let per := s.get m (tc F.TPO_PERIOD_NS o)
      if s.get m (tc F.TPO_CTL_MODE o) = 2 ∧ per ≠ 0 then
        let n := ((-ahead).toNat + per - 1) / per
        (s.tpoNext m o (s.domAdd m x e.1 e.2 (per * n))).count m (F.TPO_SKIPPED.at 8 o) n
      else (s.put m (tl F.TPO_STATUS_ACTIVE o) 0).bump m (F.TPO_SKIPPED.at 8 o)

/-- TPO_EDGE (R396–R399): output `o` asserts for WIDTH; both masts compute the edge and the active mast drives it. -/
def execTpoEdge (m o : Nat) (s : State) : Host.Outcome State Fault Refusal :=
  .next (
    if s.fitted m = false ∨ 2 ≤ m ∨ 8 ≤ o ∨ s.bit m (tl F.TPO_STATUS_ACTIVE o) = false then s
    else
      let e := s.tpoEdge m o
      let s1 := ((s.tpoPolarity m o).bump m (F.TPO_PULSES.at 8 o)).output m 48 (o :: leBytes 8 e.1 ++ leBytes 8 e.2)
      let s2 := s1.setMast m { s1.mast m with tpoEnd := Tbl.set (fun _ => 0) (s1.mast m).tpoEnd o (s.localNs m + s.get m (tc F.TPO_WIDTH_NS o)) }
      let s3 := if s.active = m then s2.emit (.tpo m o) else s2
      if s.get m (tc F.TPO_CTL_MODE o) = 2 then
        s3.tpoNext m o (s.domAdd m (s.tpoDomain m o) e.1 e.2 (s.get m (tc F.TPO_PERIOD_NS o)))
      else s3.put m (tl F.TPO_STATUS_ACTIVE o) 0)

/-- What refuses output `o`'s configuration (R399). -/
def State.tpoBad (s : State) (m o : Nat) : Bool :=
  let w := s.get m (tc F.TPO_WIDTH_NS o)
  decide (w < 8) || (decide (s.get m (tc F.TPO_CTL_MODE o) = 2) && decide (s.get m (tc F.TPO_PERIOD_NS o) < w + 8))
    || (decide (2 ≤ s.tpoDomain m o) && decide (1000000000 ≤ s.get m (tc F.TPO_START_LO_NS o)))

/-- The configuration of output `o` that arms it: MODE and DOMAIN, START and PERIOD. -/
def State.tpoKey (s : State) (m o : Nat) : List Nat :=
  [s.get m (tc F.TPO_CTL_MODE o), s.tpoDomain m o, s.get64 m (tc F.TPO_START_HI_HI o), s.get m (tc F.TPO_START_LO_NS o),
    if s.get m (tc F.TPO_CTL_MODE o) = 2 then s.get m (tc F.TPO_PERIOD_NS o) else 0]

/-- A commit of the TPO page has been applied: `old` is the state before it (R397). -/
def State.tpoCommitted (old s : State) (m : Nat) : State :=
  (List.range 8).foldl (fun t o => if old.tpoKey m o = t.tpoKey m o then t else t.tpoArm m o) s

/-! ## Steps of a domain (R393–R395) -/

/-- The step of a domain by `by_` ns takes effect: gates follow NET (R367), outputs follow their domain (R398). -/
def State.domStepped (s : State) (m x : Nat) : State :=
  let s1 := if x = 2 then s.gatesStepped m else s
  (List.range 8).foldl (fun t o => t.tpoSkip m x o) s1

/-- A domain steps by `d` ns (R394): NET and AUX at once, MESH on the next tick. -/
def State.step' (s : State) (m x : Nat) (d : Int) : State :=
  if x = 1 then s.setMast m { s.mast m with meshStep := some ((s.mast m).meshStep.getD 0 + d) }
  else
    let D := (s.dom m x).toTime (s.localNs m)
    (s.setDom m x { D with val := D.val + d * domUnit }).domStepped m x

/-! ## The servo (R391, R392) -/

/-- FREQ_MAX of domain `x` in 2^-16 ppb (R406): above 500 000 ppb acts as 500 000. -/
def State.freqMax (s : State) (m x : Nat) : Int := (min 500000 (s.get m (dc F.TIME_D_FREQ_MAX_PPB x)) : Nat) * 65536

/-- A rate within ±FREQ_MAX. -/
def clampTo (b v : Int) : Int := max (-b) (min b v)

/-- A quotient held to a whole unit: exact when it divides, else one of the two neighbours, which the spec does not name (a free
value, log entry 2). -/
def State.quotient (s : State) (n d : Int) : Int × State :=
  if n % d = 0 then (n / d, s) else let f := s.free; (n / d + (f.1 % 2 : Nat), f.2)

/-- STATE of domain `x`: 0 FREE, 1 HOLD, 2 TRACK, 3 LOCKED. -/
def State.domState (s : State) (m x : Nat) : Nat := s.get m (dl F.TIME_D_STATE_STATE x)

/-- Set FREQ of a domain from now on. -/
def State.setFreq (s : State) (m x : Nat) (f : Int) : State :=
  s.setDom m x { (s.dom m x).toTime (s.localNs m) with freq := f }

/-- τ of R391: LOCAL time since the previous accepted sample, held within 1 ms to 64 s; a free value before the first. -/
def State.tau (s : State) (m x : Nat) : Nat × State :=
  let bound (t : Nat) : Nat := max 1000000 (min 64000000000 t)
  match (s.dom m x).last with
  | some t => (bound (s.localNs m - t), s)
  | none => let f := s.free; (bound f.1, f.2)

/-- 32-bit signed field with saturation (R406). -/
def sat32 (v : Int) : Nat := unsigned 32 (max (-2147483648) (min 2147483647 v))

/-- The servo of domain `x` acts on a sample `e` in ns (R391, R392). -/
def State.servo (s : State) (m x : Nat) (e : Int) : State :=
  let now := s.localNs m
  if s.bit m (dl F.TIME_D_STATE_ARMED x) then
    let D := s.dom m x
    let s1 := (s.setDom m x { D with last := some now, run := 0 }).step' m x (-e)
    (((s1.put m (dl F.TIME_D_STATE_ARMED x) 0).bump m (dk F.TIME_D_JUMPS x)).put m (dl F.TIME_D_STATE_STATE x) 2).irq m 0x030 (3 + x)
  else if s.get m (dc F.TIME_D_JUMP_NS x) < e.natAbs ∨ s.get m (dc F.TIME_D_JUMP_NS x) = 0 then
    let D := (s.dom m x).toTime now
    ((((s.setDom m x { D with freq := D.integ, run := 0 }).bump m (dk F.TIME_D_REFUSED x)).put m (dl F.TIME_D_STATE_STATE x) 1).irq m 0x030
      (x - 1))
  else
    let t := s.tau m x
    let num := e * 65536000000000
    let i := t.2.quotient num ((t.1 : Int) * (2 ^ s.get m (dc F.TIME_D_SERVO_KI x) : Nat))
    let p := i.2.quotient num ((t.1 : Int) * (2 ^ s.get m (dc F.TIME_D_SERVO_KP x) : Nat))
    let fm := s.freqMax m x
    let D := (s.dom m x).toTime now
    let integ := clampTo fm (D.integ - i.1)
    let freq := clampTo fm (integ - p.1)
    let inLock := decide (e.natAbs ≤ s.get m (dc F.TIME_D_SERVO_LOCK x))
    let run := if inLock then D.run + 1 else 0
    let st := if s.domState m x = 3 then (if inLock then 3 else 2) else if 8 ≤ run then 3 else 2
    ((((p.2.setDom m x { D with integ := integ, freq := freq, run := run, last := some now }).put m (dl F.TIME_D_LAST_E_NS x) (sat32 e)).bump m
      (dk F.TIME_D_SAMPLES x)).put m (dl F.TIME_D_STATE_STATE x) st).raise m (dl F.TIME_D_OFS_HWM_NS x) (min e.natAbs 0xFFFFFFFF)

/-- The source of domain `x` is lost (R387, R392): TRACK and LOCKED go to HOLD.  SOURCE_LOST of MESH with SRC = 3 is raised on the
MAC page (R271). -/
def State.sourceLost (s : State) (m x : Nat) : State :=
  if s.domState m x = 2 ∨ s.domState m x = 3 then
    let D := (s.dom m x).toTime (s.localNs m)
    let s1 := ((s.setDom m x { D with freq := D.integ, run := 0 }).put m (dl F.TIME_D_STATE_STATE x) 1).bump m (dk F.TIME_D_LOSSES x)
    let s2 := if s.get m (dc F.TIME_D_SRC_SRC x) = 3 then s1 else s1.irq m 0x030 (11 + x)
    s2.irq m 0x030 (7 + x)
  else s

/-- A commit of the TIME page has been applied (R392, R393): SRC = 0 puts a domain in FREE at FREQ_SET and disarms it; another
source takes it from FREE to HOLD at INTEG. -/
def State.timeCommitted (s : State) (m : Nat) : State :=
  [1, 2, 3].foldl (fun t x =>
    let D := (t.dom m x).toTime (t.localNs m)
    if t.get m (dc F.TIME_D_SRC_SRC x) = 0 then
      ((t.setDom m x { D with freq := clampTo (t.freqMax m x) (t.getS m (dc F.TIME_D_FREQ_SET_PPB x) * 65536), run := 0 }).put m
        (dl F.TIME_D_STATE_STATE x) 0).put m (dl F.TIME_D_STATE_ARMED x) 0
    else if t.domState m x = 0 then (t.setDom m x { D with freq := D.integ }).put m (dl F.TIME_D_STATE_STATE x) 1
    else t) s

/-- Whether a TIME configuration names a reserved source (R387). -/
def State.timeBad (s : State) (m : Nat) : Bool :=
  [1, 2, 3].any (fun x => let c := s.get m (dc F.TIME_D_SRC_SRC x); decide (4 ≤ c) || (c == 3 && x != 1))

/-! ## Samples (R387–R390) -/

/-- A write of TIME.Dx_SAMPLE (R387): ignored and counted while SRC ≠ 1. -/
def State.accTimeSample (s : State) (m r width x value : Nat) : State :=
  s.action m 0x030 (0x098 + 0x40 * (x - 1)) r true width 8 (fun t =>
    if t.get m (dc F.TIME_D_SRC_SRC x) = 1 then t.servo m x (signed 48 value) else t.bump m (F.TIME_D_IGNORED.at 4 (x - 1)))

/-- Whether `x` numbers a domain. -/
def isDomain (x : Nat) : Bool := 1 ≤ x && x ≤ 3

/-- TIME_SAMPLE_WRITE (R387). -/
def execTimeSampleWrite (m r width x value : Nat) (s : State) : Host.Outcome State Fault Refusal :=
  .next (if isDomain x then
      s.hostOn m r 0x030 (0x098 + 0x40 * (x - 1)) width value .empty (fun m t => t.accTimeSample m r width x value)
    else s)

/-- The ns field of domain `x` as PPS captures it (R388): for MESH, the offset and the slots since the last ASN that is a multiple of
1 s. -/
def State.capNs (s : State) (m x : Nat) : Nat :=
  if x = 1 then
    let u : Int := s.slotNs m
    (((s.mast m).asn % (1000000000 / s.slotNs m) : Nat) * u + (s.domNs m 1 - (s.mast m).asn * u)).toNat
  else (s.domNs m x % 1000000000).toNat

/-- `v` modulo 10^9 in −5·10^8 … 5·10^8 − 1 (R388). -/
def foldSecond (v : Int) : Int := (v + 500000000) % 1000000000 - 500000000

/-- A PPS sample on mast `m` for domain `x`: an input of the active mast (R390). -/
def State.ppsSample (s : State) (m x : Nat) (e : Int) : State :=
  match s.mirror m (.ext 2 x (unsigned 64 e)) 0 with
  | some t => t.servo m x e
  | none => s

/-- PPS_EDGE (R388): LOCAL and every domain are captured, and the domains with SRC = 2 take a sample.  The jury of a pair in step
takes the active mast's samples (R390). -/
def execPpsEdge (m : Nat) (s : State) : Host.Outcome State Fault Refusal :=
  .next (
    if s.fitted m = false ∨ 2 ≤ m then s
    else
      let fresh := s.bit m F.TIME_PPS_STATUS_FRESH
      let s1 := (s.put64 m F.TIME_PPS_CAP_LOCAL_NS (s.localNs m)).put m F.TIME_PPS_STATUS_FRESH 1
      let s2 := [1, 2, 3].foldl (fun t x => t.put m (F.TIME_PPS_CAP_NS_NS.at 4 (x - 1)) (s.capNs m x)) s1
      let s3 := (if fresh then s2.put m F.TIME_PPS_STATUS_OVR 1 else s2).put m F.TIME_PPS_STATUS_MISS 0
      if s.mirroring ∧ m ≠ s.active then s3
      else [1, 2, 3].foldl (fun t x =>
        if s.get m (dc F.TIME_D_SRC_SRC x) = 2 then
          t.ppsSample m x (foldSecond ((s.capNs m x : Int) - s.getS m F.TIME_PPS_CFG_DELAY))
        else t) s3)

/-- PPS_MISSED (R388): the third consecutive missed edge loses the source. -/
def execPpsMissed (m : Nat) (s : State) : Host.Outcome State Fault Refusal :=
  .next (
    if s.fitted m = false ∨ 2 ≤ m then s
    else
      let n := min 3 (s.get m F.TIME_PPS_STATUS_MISS + 1)
      let s1 := s.put m F.TIME_PPS_STATUS_MISS n
      if n < 3 then s1
      else [1, 2, 3].foldl (fun t x => if s.get m (dc F.TIME_D_SRC_SRC x) = 2 then t.sourceLost m x else t) s1)

/-- SOURCE_LOSS_TIMEOUT (R387): no software sample for LOSS.SEC seconds. -/
def execSourceLossTimeout (m x : Nat) (s : State) : Host.Outcome State Fault Refusal :=
  .next (if s.fitted m ∧ m < 2 ∧ isDomain x ∧ s.get m (dc F.TIME_D_SRC_SRC x) = 1 then s.sourceLost m x else s)

/-! ## ARM and SET_GO (R393, R395) -/

/-- SET_GO of domain `x` (R395): NET and AUX take the value at once, MESH on the next tick. -/
def State.setGo (s : State) (m x : Nat) : State :=
  let hi := s.get64 m (dc F.TIME_D_SET_HI_HI x) % 2 ^ 48
  let s1 := s.bump m (dk F.TIME_D_JUMPS x)
  if x = 1 then s1.setMast m { s1.mast m with meshSet := some (hi % 2 ^ 40) }
  else
    let D := (s1.dom m x).toTime (s.localNs m)
    (s1.setDom m x { D with val := ((hi * 1000000000 + s.get m (dc F.TIME_D_SET_LO_NS x) : Nat) : Int) * domUnit }).domStepped m x

/-- A write of TIME.Dx_CTL (R393, R395). -/
def State.accTimeCtl (s : State) (m r width x value : Nat) : State :=
  s.action m 0x030 (0x0AC + 0x40 * (x - 1)) r true width 4 (fun t =>
    let t1 := if value % 2 = 1 then t.put m (dl F.TIME_D_STATE_ARMED x) 1 else t
    if value / 2 % 2 = 1 then t1.setGo m x else t1)

/-- TIME_ARM (R393): a write of 1 to ARM. -/
def execTimeArm (m r width x : Nat) (s : State) : Host.Outcome State Fault Refusal :=
  .next (if isDomain x then s.hostOn m r 0x030 (0x0AC + 0x40 * (x - 1)) width 1 .empty (fun m t => t.accTimeCtl m r width x 1) else s)

/-- TIME_SET_GO (R395): a write of 1 to SET_GO. -/
def execTimeSetGo (m r width x : Nat) (s : State) : Host.Outcome State Fault Refusal :=
  .next (if isDomain x then s.hostOn m r 0x030 (0x0AC + 0x40 * (x - 1)) width 2 .empty (fun m t => t.accTimeCtl m r width x 2) else s)

/-! ## MESH at a tick (R37, R383, R394, R395) -/

/-- The ASN and the offset in ns with which the next tick of mast `m` opens its slot: the next ASN, 0 at the first tick (R605); or the ASN set (R395); or after a
step of `d` ns, the whole slots in the ASN and the rest, folded into ±S/2, in the offset (R394). -/
def State.nextSlot (s : State) (m : Nat) : Nat × Int :=
  let M := s.mast m
  let u : Int := s.slotNs m
  let next : Nat := if M.ticked then (M.asn + 1) % 2 ^ 40 else 0
  match M.meshSet, M.meshStep with
  | some a, _ => (a, 0)
  | none, some d =>
    let q := (d + u / 2) / u
    ((((next : Int) + q) % (2 ^ 40 : Nat)).toNat, d - q * u)
  | none, none => (next, 0)

/-- The MESH domain of mast `m` opens its next slot: a new ASN, the offset of R394, and the outputs of MESH after a step. -/
def State.meshTick (s : State) (m : Nat) : State :=
  let n := s.nextSlot m
  let M := s.mast m
  let stepped := M.meshSet ≠ none || M.meshStep ≠ none
  let t := s.localNs m
  let s1 := (s.setMast m { M with asn := n.1, tickNow := t, ticked := true, meshStep := none, meshSet := none }).setDom m 1
    { s.dom m 1 with val := n.2 * domUnit, at_ := t }
  if stepped then s1.domStepped m 1 else s1

/-- The LOCAL time, in ns, at which mast `m`'s MESH domain reaches the slot length (R39, R383). -/
def State.nextTickNs (s : State) (m : Nat) : Nat :=
  let D := s.dom m 1
  let left := (s.slotNs m : Int) * domUnit - D.val
  (D.at_ + (left + (domUnit + D.freq) - 1) / (domUnit + D.freq)).toNat

end Sys2Proof.Machine
end

