-- ==== Sys2Proof/Machine/MacBase.lean ====
section
/-! DEFINITION. Shared operations of the mesh MAC: positions in slot time, link events and hopping, the channel list, outgoing frame
counters, the dwell ledger, the carriers of the launch builder, and packets to a sail (R45, R46, R211, R249–R268). -/

namespace Sys2Proof.Machine

/-! ## Slot time

A position is a count of 2.5 ns units of MESH time that goes on over every tick, whatever its ASN (R37, R38): `posTick` is the tick of the
present slot and `posPrev` the tick before it.  Positions of other slots count slots of the present length by the signed 40-bit difference. -/

/-- The slot length of mast `m` in 2.5 ns units. -/
def State.slotUnits (s : State) (m : Nat) : Nat := 400 * slotUs (s.mast m).slotSel

/-- The ASN whose low byte is `lo`, nearest `cur` (R37, R257). -/
def nearAsn (cur lo : Nat) : Nat := (((cur : Int) + ((((lo : Int) - cur + 128) % 256) - 128)) % 2 ^ 40).toNat

/-- The position `off` units after the tick of slot `a`. -/
def State.pos (s : State) (m a : Nat) (off : Int) : Int :=
  let M := s.mast m
  let k := sdiff 40 a M.asn
  (if k < 0 then M.posPrev + (k + 1) * s.slotUnits m else M.posTick + k * s.slotUnits m) + off

/-- The slot that position `p` falls in, with its offset after that slot's tick. -/
def State.slotAt (s : State) (m : Nat) (p : Int) : Nat × Nat :=
  let M := s.mast m
  let S : Int := s.slotUnits m
  if p < M.posTick ∧ M.posPrev ≤ p then (M.asnPrev, (p - M.posPrev).toNat)
  else ((((M.asn : Int) + (p - M.posTick) / S) % 2 ^ 40).toNat, ((p - M.posTick) % S).toNat)

/-- Mast LOCAL time, in ns, of a position. -/
def State.posNs (s : State) (m : Nat) (p : Int) : Int := ((s.mast m).tickNow : Int) + (p - (s.mast m).posTick) * 5 / 2

/-- The present position of mast `m`. -/
def State.nowPos (s : State) (m : Nat) : Int := (s.mast m).posTick + ((s.localNs m : Int) - (s.mast m).tickNow) * 2 / 5

/-- TsTxOffset in effect, in µs (R45, R46). -/
def State.tsTx (s : State) (m : Nat) : Nat :=
  max 500 (min (s.get m F.MAC_TX_TIMING_TS_TX_OFFSET) (2 * slotUs (s.mast m).slotSel / 5))

/-- TsTxAckDelay in effect, in µs (R272). -/
def State.ackDelay (s : State) (m : Nat) : Nat := max 1000 (min 4000 (s.get m F.MAC_ACK_CFG_ACK_DELAY))

/-- REF of R257 in 2.5 ns units: from a frame's first sample to its reference point, for a frame of personality `pers` that sail `k`
received from a node whose NODE_PRE is `pre`. -/
def State.refUnits (s : State) (k pers pre : Nat) : Nat :=
  if isFsk pers then
    let p := if pre < 8 then s.get (sailDie k) (F.SUNPHY_FSK_CFG_PREAMBLE_TX.at 4 (pers - 5)) else pre
    (8 * p + 16) * 400000 / fskBaud pers
  else if isOfdm pers then 480 * 400
  else 320 * 400

/-- The rate code by which a sail would code a frame, from mast `m`'s copy of its configuration: MR-FSK takes FEC scheme and interleaving from the
SUNPHY page (R201). -/
def State.copyCode (s : State) (m k pers rate : Nat) : Nat := if pers = 0 then rate else (s.sunLatch (copyDie m k) pers rate).code

/-- The air time in µs of a frame of `len` bytes on sail `k`, from mast `m`'s copy of the sail's profile table (R154). -/
def State.airOn (s : State) (m k pers rate fec len pre : Nat) : Nat :=
  airTime pers (s.profile (copyDie m k) rate) (s.copyCode m k pers rate) fec len pre

/-- The samples of a frame of `len` bytes on sail `k` (R52, R154). -/
def State.samplesOn (s : State) (m k pers rate fec len pre : Nat) : Nat :=
  airSamples pers (s.profile (copyDie m k) rate) (s.copyCode m k pers rate) fec len pre

/-! ## Links (R253, R254) -/

/-- Replace the link section of node `n`. -/
def State.setLink (s : State) (m n : Nat) (l : Link) : State :=
  s.setMast m ((s.mast m).setNode n { (s.mast m).node n with link := l })

/-- The event of a link nearest ASN `a` (R253): its counter and its ASN. -/
def Link.eventAt (l : Link) (a : Nat) : Nat × Nat :=
  let p : Int := l.period
  let j := (2 * sdiff 40 a l.anchor + p) / (2 * p)
  ((((l.event : Int) + j) % 2 ^ 24).toNat, (((l.anchor : Int) + j * p) % 2 ^ 40).toNat)

/-- Channel map `i`. -/
def Mac.map (M : Mac) (i : Nat) : ChanMap := (Tbl.find? M.mapsOld i).getD (Tbl.get (fun _ => ⟨0, []⟩) M.maps i)

/-- Channel-list entry `i`. -/
def Mac.chan (M : Mac) (i : Nat) : Channel := Tbl.get (fun _ => Channel.free) M.chans i

/-- Whether a link is valid (R254). -/
def Mac.linkOk (M : Mac) (l : Link) : Bool :=
  l.period != 0 && (M.map l.map).len != 0 && Nat.gcd l.step (M.map l.map).len == 1

/-- The hop function (R254): the channel-list index of event `k`. -/
def Mac.hop (M : Mac) (l : Link) (k : Nat) : Nat :=
  Tbl.get (fun _ => 0) (M.map l.map).entries ((l.seed + k * l.step) % (M.map l.map).len)

/-- Where sail `k` receives frequency `f` (R70, R250): window and bin, when an enabled window contains it. -/
def State.locate (s : State) (k f : Nat) : Option (Nat × Nat) :=
  if s.hasSail k = false then none
  else (List.range 4).findSome? (fun w =>
    let word := (s.word (key (sailDie k) (F.WIN_WIN_CTL_CENTRE.at 8 w).addr)).toNat
    let c : Int := centreOf word
    if word.testBit 31 ∧ spanLo c.toNat * 100000 ≤ (f : Int) ∧ (f : Int) < spanHi c.toNat * 100000 then
      some (w, (((f : Int) - c * 100000 + 400000) / 800000 + 64).toNat)
    else none)

/-- HYP of sail `k` in a channel-list entry (R249). -/
def Channel.hyp (e : Channel) (k : Nat) : Nat := ((e.sails.getD k (false, 0, 0, 0)).2.2.2)

/-- Whether a channel-list entry matches a copy on sail `k` (R256): its SAIL[k] is valid and names the copy's window, bin and hypothesis. -/
def State.matches (s : State) (k : Nat) (e : Channel) (md : Meta) : Bool :=
  e.hyp k == md.hyp && s.locate k e.freq == some (md.win, md.bin)

/-- The frequency, in Hz, of a copy's window, bin and hypothesis on sail `k` (R70, R256). -/
def State.copyFreq (s : State) (k : Nat) (md : Meta) : Nat :=
  let c := centreOf (s.word (key (sailDie k) (F.WIN_WIN_CTL_CENTRE.at 8 md.win).addr)).toNat
  ((c : Int) * 100000 + ((md.bin : Int) - 64) * 800000
    + 100 * signed 13 (s.hypField k md.win md.bin md.hyp F.NEST_HYPSET_OFFSET)).toNat

/-! ## Outgoing frame counters (R265, R266) -/

/-- What an assignment of a frame counter comes to. -/
inductive FcGrant where
  | value (v : Nat)
  | wait
  | deferred
  | exhausted
deriving DecidableEq, Repr

/-- The counter after `prev` (R265, R266). -/
def State.fcNext (s : State) (m prev : Nat) : FcGrant :=
  let M := (s.mast m).mac
  let v := max (prev + 1) M.fcBase
  if 2 ^ 32 ≤ v then .exhausted
  else if v < M.fcReserve then .value v
  else if M.fcFailed then .deferred else .wait

/-- Replace mast `m`'s MAC. -/
def State.setMac (s : State) (m : Nat) (M : Mac) : State := s.setMast m { s.mast m with mac := M }

/-- Start a reservation write when one is due (R265): the counters have reached P − 16 384 (FC_BASE is what the first one takes, so a failed
start-up write is due again), P is below 2^32, and none is under way. -/
def State.fcReserve (s : State) (m : Nat) : State :=
  let M := (s.mast m).mac
  if M.fcPending = none ∧ M.fcReserve < 2 ^ 32 ∧ M.fcReserve ≤ max (s.get m F.MAC_FC_HI) M.fcBase + 16384 then
    let p := min (M.fcReserve + 65536) (2 ^ 32)
    ((s.nvRequest m 0).setMac m { M with fcPending := some p }).output m 49 (0xFC :: leBytes 8 p)
  else s

/-- Record an assigned counter (R265). -/
def State.fcTaken (s : State) (m v : Nat) : State := (s.raise m F.MAC_FC_HI v).fcReserve m

/-- A frame sealed by the device (R247) under the key's bytes with counter `v`. -/
def State.sealFrame (s : State) (m : Nat) (key : List Nat) (v : Nat) (f : Frame) : Frame :=
  { f with fc := v, unsealed := false }.sealWith key (s.get64 m F.MAC_OWN_EUI_EUI)

/-- An exhausted counter refuses a frame (R266): counted and reported, with the node or group number `i`. -/
def State.fcExhausted (s : State) (m i : Nat) : State := ((s.bump m F.MAC_FC_EXHAUSTED).irq m 0x020 5).event m .fcExhausted i []

/-! ## Dwell (R267, R268) -/

/-- The bucket of a position: 10 ms of MESH time. -/
def bucketOf (p : Int) : Nat := (p / 4000000).toNat

/-- W of dwell class `c` before its clamp (R267). -/
def State.dwellRaw (s : State) (m c : Nat) : Nat :=
  (s.get m (F.DWELL_CLASS_WIN_WINDOW.at 8 c) * slotUs (s.mast m).slotSel + 9999) / 10000

/-- W of dwell class `c` (R267). -/
def State.dwellW (s : State) (m c : Nat) : Nat := min 4096 (s.dwellRaw m c)

/-- µs charged to channel `ch` over the `w` buckets that end at `b`. -/
def Mac.used (M : Mac) (ch b w : Nat) : Nat :=
  (M.ledger.filter (fun e => e.channel == ch && decide (e.bucket ≤ b) && decide (b < e.bucket + w))).foldl (fun a e => a + e.us) 0

/-- Entries whose bucket has left the window of their channel's class are free again. -/
def State.dwellAge (s : State) (m : Nat) : State :=
  let M := (s.mast m).mac
  let b := bucketOf (s.nowPos m)
  s.setMac m { M with ledger := M.ledger.filter (fun e => decide (b < e.bucket + s.dwellW m (M.chan e.channel).dclass)) }

/-- The dwell check of a frame of `air` µs at a position on channel `ch` (R267): whether it passes, charged when its class has a
window; a full ledger refuses (R268). -/
def State.dwell (s : State) (m ch : Nat) (p : Int) (air : Nat) : Bool × State :=
  let c := ((s.mast m).mac.chan ch).dclass
  let w := s.dwellW m c
  if w = 0 then (true, s)
  else
    let s1 := s.dwellAge m
    let M := (s1.mast m).mac
    let b := bucketOf p
    let same := M.ledger.any (fun e => e.channel == ch && e.bucket == b)
    if 131072 ≤ M.ledger.length then (false, s1.bump m F.DWELL_LEDGER_FULL)
    else if s.get m (F.DWELL_CLASS_LIM_LIMIT.at 8 c) < M.used ch b w + air then (false, s1)
    else
      let l := if same then M.ledger.map (fun e => if e.channel = ch ∧ e.bucket = b then { e with us := e.us + air } else e)
               else M.ledger ++ [⟨ch, b, air⟩]
      (true, (s1.setMac m { M with ledger := l }).raise m F.DWELL_LEDGER_HWM_HWM l.length)

/-- Take back `us` of a charge (R268); an entry with nothing charged is free. -/
def Mac.uncharge (M : Mac) (ch b us : Nat) : Mac :=
  let l := M.ledger.map (fun e => if e.channel = ch ∧ e.bucket = b then { e with us := e.us - us } else e)
  { M with ledger := l.filter (fun e => e.us != 0) }

/-! ## Packets to a sail (R16, R471) -/

/-- The content of a packet as the digest takes it (R472): TYPE, TAG and payload. -/
def Pkt.content (p : Pkt) : List Nat := p.typ :: leBytes 4 p.tag ++ p.data

/-- Mast `m` sends a message to sail `k`: each packet is an output of point `k`; only the active mast's leaves. -/
def State.toSail (s : State) (m k typ tag : Nat) (bytes : List Nat) : State :=
  let ps := message typ tag bytes
  let s1 := ps.foldl (fun t p => t.output m k p.content) s
  if s.active = m then s1.sendOn (connId m k) false ps else s1

/-! ## Carriers (R47, R58, R211) -/

/-- The first and last position of a launch, as its plan placed it: a later change of S, step or set moves neither (R47). -/
def Launch.span (l : Launch) : Int × Int := (l.at_, l.at_ + 400 * l.airUs)

/-- Carriers of sail `k` that exist and are enabled, by the copy of mast `m` (R209, R211). -/
def State.carriers (s : State) (m k : Nat) : List Nat :=
  if s.hasSail k then (List.range 4).filter (fun c => s.carrierOn (copyDie m k) c (s.sail k).reefed) else []

/-- Launches of sail `k` that have a carrier and are on air at some time from `a` to `b`. -/
def State.overlapping (s : State) (m k : Nat) (a b : Int) : List Launch :=
  (s.mast m).mac.launches.filter (fun l => l.sail == k && l.placed && decide (l.span.1 < b) && decide (a < l.span.2))

/-- Carriers of sail `k` that are free from `a` to `b`. -/
def State.freeCarriers (s : State) (m k : Nat) (a b : Int) : List Nat :=
  let busy := (s.overlapping m k a b).map (fun l => l.carrier)
  (s.carriers m k).filter (fun c => !busy.contains c)

/-- DUTY_USED of entry `e` of sail `k` in the copy that mast `m` keeps (R231). -/
def State.copyDuty (s : State) (m k e : Nat) : Nat :=
  let n := s.dutyMinute m
  (List.range 61).foldl (fun a i => if i ≤ n then a + Tbl.get (fun _ => 0) (s.mast m).dutyCopy ((16 * k + e) * 2 ^ 40 + (n - i)) else a) 0

/-- The checks of R211 on a frame for sail `k`, with the configuration copy of mast `m`; what the sail senses and tracks (temperature, supply,
TRIM_OFS, PD_STALE) is taken from it (DESIGN CHOICE, log entry 167): checks 4 to 9 of R212, the profile, FEC and rate tests, and the transmit window of
check 2.  The code of R213 of the first that fails, else the output power that the composite fit leaves it (R216). -/
def State.planCheck (s : State) (m k carrier freq pers rate fec air : Nat) (power : Int) (a : Int) : Except Nat Int :=
  let d := copyDie m k
  let tx := (s.word (key d F.TXP_WIN_CTL_CENTRE.addr)).toNat
  let others := s.overlapping m k a (a + 400 * air)
  let meets := others.any (fun l => bandsMeet (freq - halfWidth pers) (freq + halfWidth pers) (l.freq - halfWidth l.pers) (l.freq + halfWidth l.pers))
  if pers = 0 ∧ (profValid (s.profile d rate) = false ∨ fec = 3) then .error 9
  else if pers ≠ 0 ∧ s.rateOk d pers rate = false then .error 9
  else if tx.testBit 31 = false then .error 10
  else match s.launchCheck d (centreOf tx) (s.copyDuty m k) freq pers carrier air meets with
    | some r => .error r
    | none =>
      let p := (s.fixPower d freq pers power).1
      let sum := (others.filter (fun l => decide (l.span.1 ≤ a))).foldl (fun x l => x + milliwatt l.pout) 0
      match compositeFit p (s.compMax d) (s.get d F.TXP_COMP_CFG_MAX_TRIM) sum with
      | none => .error 5
      | some (q, _) => .ok (s.outPower (sailDie k) freq q).2

/-- Launch `h`. -/
def Mac.launch (M : Mac) (h : Nat) : Option Launch := M.launches.find? (fun l => l.handle == h)

/-- Replace the launch of its handle. -/
def Mac.setLaunch (M : Mac) (l : Launch) : Mac := { M with launches := M.launches.map (fun x => if x.handle = l.handle then l else x) }

/-- Resolve launch `h`: it is planned no more, and the charge it keeps is `keep` µs (R268). -/
def State.resolve (s : State) (m : Nat) (l : Launch) (keep : Nat) : State :=
  let M := (s.mast m).mac
  let M1 := { M with launches := M.launches.filter (fun x => x.handle != l.handle) }
  s.setMac m (if l.charged then M1.uncharge l.channel l.bucket (l.airUs - keep) else M1)

/-- Remove an item from the queue that it waits in. -/
def State.unqueueItem (s : State) (m q c : Nat) : State :=
  let S := (s.mast m).sal
  s.setSal m (S.setQueue q { S.queue q with heads := (S.queue q).heads.erase c })

/-- The item of a launch leaves the launch queue of its sail and is freed; a BROKEN queue gives nothing (R315). -/
def State.dropQueued (s : State) (m : Nat) (l : Launch) : State :=
  if ((s.mast m).sal.queue (130 + l.sail)).broken then s else (s.unqueueItem m (130 + l.sail) l.cell).freeItem m l.cell

/-- Add a launch under the next handle. -/
def State.addLaunch (s : State) (m : Nat) (l : Launch) : State :=
  let M := (s.mast m).mac
  s.setMac m { M with launches := M.launches ++ [{ l with handle := M.nextHandle }], nextHandle := (M.nextHandle + 1) % 2 ^ 32 }

/-- The launch descriptor of a launch (R210). -/
def Launch.desc (l : Launch) : LaunchDesc :=
  { start := l.start, asnLo := l.asn % 256, freq := l.freq, carrier := l.carrier, pers := l.pers, rate := l.rate, fec := l.fec,
    power := l.power, prio := l.prio, beacon := decide (l.kind = .beacon), ack := decide (l.kind = .ack) }

/-- Whether every FRAME_DOWN packet of a launch has left mast `m` (R53, R54). -/
def State.hasLeft (s : State) (m : Nat) (l : Launch) : Bool :=
  (((s.conn (connId m l.sail)).dir false).waiting.all (fun p => !(p.typ == 0x02 && p.tag == l.handle)))

/-- Note the launches handed to sail `k` whose last FRAME_DOWN packet has left now: a planned frame that leaves after the Deliver soft end
is counted, with how late it is (R53, R54). -/
def State.noteLeft (s : State) (m k : Nat) : State :=
  ((s.mast m).mac.launches.filter (fun l => l.sail == k && l.stage == 2 && !l.left && s.hasLeft m l)).foldl (fun t l =>
    let t1 := t.setMac m ((t.mast m).mac.setLaunch { l with left := true })
    if l.kind = .ack ∨ t.localNs m ≤ l.softNs then t1
    else (t1.bump m F.MAC_DELIVER_OVERRUN).raise m F.MAC_LATE_HWM ((t.localNs m - l.softNs) / 1000)) s

/-- Whether mast `m` can hand an item to sail `k` now (R49, R51): the link is up, nothing of VC2 waits, and VC2 has credit for a packet.  A mast
that is not active sends nothing and never stalls. -/
def State.linkTakes (s : State) (m k : Nat) : Bool :=
  let x := s.conn (connId m k)
  s.active != m || (x.state == 2 && x.down.waiting.all (fun p => p.vc != 2) && decide (4 ≤ x.down.credit (connId m k) 2))

/-- Send a launch to its sail (R43, R210): FRAME_DOWN, then LAUNCH. -/
def State.handLaunch (s : State) (m : Nat) (l : Launch) : State :=
  let s1 := s.setMac m ((s.mast m).mac.setLaunch { l with stage := 2 })
  ((s1.toSail m l.sail 0x02 l.handle (psduBytes l.frame)).toSail m l.sail 0x03 l.handle l.desc.bytes).noteLeft m l.sail

end Sys2Proof.Machine
end

