-- ==== Sys2Proof/Machine/Packets.lean ====
section
/-! DEFINITION. The Tatrum link's own events (LINKCTL, replay, retraining) and the packets that a sail receives, but for far
accesses and commits (R14–R22, R39, R40, R158, R210, R478, R484–R486, R572, R667). -/

namespace Sys2Proof.Machine

/-! ## LINKCTL, replay and retraining (R17–R22) -/

/-- The masts whose TATRUM pages show connection `c`, and the number each gives it. -/
def connMasts (c : Nat) : List (Nat × Nat) := if c = 6 then [(0, 6), (1, 6)] else [(c / 8, c % 8)]

/-- Whether connection `c` exists in the variant. -/
def State.hasConn (s : State) (c : Nat) : Bool :=
  if c = 6 then s.redundant else (c / 8 == 0 || (c / 8 == 1 && s.redundant)) && decide (c % 8 < s.sailCount)

/-- Count a connection's event on the TATRUM page of its mast. -/
def State.countConn (s : State) (c : Nat) (f : Fld) : State := (connMasts c).foldl (fun t e => t.bump e.1 (f.at 16 e.2)) s

/-- Start a retraining of connection `c` (R22): its packets are held. -/
def State.retrain (s : State) (c : Nat) : State :=
  (s.setConn c { s.conn c with state := 1 }).countConn c F.TATRUM_RETRAINS

/-- Send every outstanding packet of a direction again. -/
def State.resend (s : State) (c : Nat) (up : Bool) : State :=
  s.emitAll (((s.conn c).dir up).out.map (fun y => .packet (y.pkt.onLink (sendDie c up) (recvDie c up) y.seq)))

/-- A NAK or a timeout asks direction `up` of connection `c` for a replay (R20): the replay is counted and sent, unless 8 replays in a row
have already failed to advance ACKSEQ, when the connection retrains (R22). -/
def State.replay (s : State) (c : Nat) (up : Bool) : State :=
  let x := s.conn c
  let d := x.dir up
  if 8 ≤ d.replays then (s.setConn c (x.setDir up { d with replays := 0 })).retrain c
  else ((s.setConn c (x.setDir up { d with replays := d.replays + 1 })).countConn c F.TATRUM_REPLAY).resend c up

/-- Whether SEQ `a` is covered by ACKSEQ `k` (12-bit sequence numbers). -/
def ackCovers (k a : Nat) : Bool := decide ((k + 4096 - a) % 4096 < 2048)

/-- Credits come back to a sender, VC by VC. -/
def Dir.credited (c : Nat) (d : Dir) (cr : List Nat) : Dir :=
  (List.range 4).foldl (fun e vc => { e with credits := Tbl.set (fun _ => vcFlits c) e.credits vc (min (vcFlits c) (e.credit c vc + cr.getD vc 0)) }) d

/-- Offer stored answers of a sail to its link while VC1 has credit (R19). -/
def State.flushAnswers (s : State) (c : Nat) : Nat → State
  | 0 => s
  | n + 1 =>
    let x := s.conn c
    match x.answers with
    | [] => s
    | p :: rest =>
      if x.state = 2 ∧ 4 ≤ x.up.credit c 1 ∧ x.up.waiting.any (fun q => q.vc == 1) = false then
        ((s.setConn c { x with answers := rest }).sendOn c true [p]).flushAnswers c n
      else s

/-- Sail `k` records the LOCAL time of a packet from mast `m` (R476). -/
def State.hear (s : State) (k m : Nat) : State := s.setSail k { s.sail k with heard := (s.sail k).heard.set m (s.sailLocal k) }

/-- LINKCTL (R17, R20): the sender of direction `up` of connection `c` frees its replay buffer up to ACKSEQ, takes the credits,
and replays on NAK; a LINKCTL with a bad CRC is discarded.  A sail records the time of one from a mast (R476). -/
def execLinkctl (c : Nat) (up : Bool) (l : LinkCtl) (s : State) : Host.Outcome State Fault Refusal :=
  let x := s.conn c
  let d := x.dir up
  .next (
    if s.hasConn c = false ∨ l.crc ≠ l.check ∨ x.state ≠ 2 then s
    else
      let left := d.out.filter (fun y => !ackCovers l.ack y.seq)
      let d1 := { d with out := left, ackSeq := l.ack % 4096, replays := if l.ack % 4096 = d.ackSeq then d.replays else 0 }
      let s0 := if c ≠ 6 ∧ up then s.hear (c % 8) (c / 8) else s
      let s1 := (connMasts c).foldl (fun t e => if sendDie c up = e.1 then t.put e.1 (F.TATRUM_LINK_ACKSEQ.at 4 e.2) (l.ack % 4096) else t)
        (s0.setConn c (x.setDir up (Dir.credited c d1 l.credits)))
      let s2 := if l.nak ∧ left ≠ [] then s1.replay c up else s1
      let s3 := (s2.pump c up).flushAnswers c 16
      if c = 6 ∨ up then s3 else s3.noteLeft (c / 8) (c % 8))

/-- LINK_REPLAY_TIMEOUT (R20): an outstanding packet is not covered by an ACKSEQ within 500 ns. -/
def execLinkReplayTimeout (c : Nat) (up : Bool) (s : State) : Host.Outcome State Fault Refusal :=
  .next (if s.hasConn c ∧ (s.conn c).state = 2 ∧ ((s.conn c).dir up).out ≠ [] then s.replay c up else s)

/-- LINKCTL_KEEPALIVE (R21, R476): the receiver of direction `up` sends a LINKCTL. -/
def execLinkctlKeepalive (c : Nat) (up : Bool) (s : State) : Host.Outcome State Fault Refusal :=
  .next (if s.hasConn c ∧ (s.conn c).state = 2 then s.sendLinkctl c up else s)

/-- TAKEOVER to sail `k` (R481, R485): byte 0 is 0xD1, then the mast's EPOCH and its die index. -/
def State.takeoverTo (s : State) (m k : Nat) : State :=
  s.sendOn (connId m k) false (message 0x09 (Tbl.get (fun _ => 0) (s.mast m).cmdSeq k) ([0xD1] ++ leBytes 2 (s.get m F.PAIR_ROLE_EPOCH) ++ [m]))

/-- Step 7 ends for sail `k` (R603): its sample clock is locked to the preferred reference, or to the other one where only that is valid. -/
def State.sailLocked (s : State) (k : Nat) : State :=
  let d := sailDie k
  let p := s.get d F.ADC_CLK_CFG_REF_PREF
  let ref := if s.bit d (refOk p) = false ∧ s.bit d (refOk (1 - p)) then 1 - p else p
  (s.put d F.ADC_CLK_STATUS_PLL_LOCK 1).put d F.ADC_CLK_STATUS_REF_SEL ref

/-- Step 8 ends for connection `c` (R485, R603): a sail calibrated and without a master runs, and the active mast sends it a TAKEOVER. -/
def State.trained (s : State) (c : Nat) : State :=
  let m := c / 8
  let k := c % 8
  if c = 6 ∨ s.bit (sailDie k) F.SSTAT_MASTER_VALID then s
  else
    let s1 := if s.get (sailDie k) F.SSYS_STATE_STATE = 1 then (s.sailLocked k).put (sailDie k) F.SSYS_STATE_STATE 2 else s
    if s1.active = m then s1.takeoverTo m k else s1

/-- RETRAINING_COMPLETE (R22): delivery resumes from ACKSEQ. -/
def execRetrainingComplete (c : Nat) (s : State) : Host.Outcome State Fault Refusal :=
  let x := s.conn c
  .next (
    if s.hasConn c = false ∨ x.state ≠ 1 then s
    else
      let s1 := (((((s.setConn c { x with state := 2, fails := 0 }).resend c true).resend c false).pump c true).pump c false).flushAnswers c 16
      (if c = 6 then s1 else s1.noteLeft (c / 8) (c % 8)).trained c)

/-- The active mast finds its peer absent (R479): it stops mirroring and raises PEER_LOST; a running transfer fails with LINK. -/
def State.peerLost (s : State) (m : Nat) : State :=
  if s.redundant = false ∨ s.active ≠ m ∨ s.pairState m = 5 then s
  else
    let s1 := if s.pairState m = 2 then
        ((((s.put m F.PAIR_XFER_STATUS_RESULT 4).put m F.PAIR_XFER_STATUS_PHASE 0).bump m F.PAIR_XFER_FAIL).irq m 0x004 5) else s
    (s1.put m F.PAIR_STATE_STATE 5).irq m 0x004 2

/-- Connection `c` is declared failed (R22): undelivered packets are discarded, lanes in DELIVER towards it are released with
LINK_FAIL (R122), and the masts act as R479 and R480 state.  A sail-link takeover is decided here (R477). -/
def State.linkFailed (s : State) (c : Nat) : State :=
  let s1 := (connMasts c).foldl (fun t e => t.irq e.1 0x008 e.2) (s.setConn c { Conn.reset with state := 3, fails := 3 })
  if c = 6 then
    let j := 1 - s1.active
    let s2 := if s1.redundant ∧ s1.pairState j = 2 then (s1.put j F.PAIR_STATE_STATE 4).put j F.PAIR_XFER_STATUS_PHASE 0 else s1
    s2.peerLost s2.active
  else
    let m := c / 8
    let k := c % 8
    let s2 := if s1.bit (sailDie k) F.SSTAT_MASTER_VALID ∧ s1.get (sailDie k) F.SSTAT_MASTER_DIE = m then
        let ls := (s1.sail k).attached.filter (fun e => e.2.state == 5)
        (ls.foldl (fun t e => t.releaseLane k e.1 11) s1).serve k ls.length
      else s1
    if s2.active ≠ m then s2
    else
      let s3 := (s2.bump m F.PAIR_SAIL_LOST).irq m 0x004 7
      let j := 1 - m
      if s3.redundant ∧ s3.pairState j = 1 ∧ s3.bit j F.PAIR_CFG_SAIL_FAILOVER ∧ (s3.conn (connId j k)).state = 2 then
        s3.setMast j { s3.mast j with pair := { (s3.mast j).pair with takeover := some 0 } }
      else s3

/-- RETRAINING_TIMEOUT (R22): the third consecutive failure declares the connection failed; before it, training starts again. -/
def execRetrainingTimeout (c : Nat) (s : State) : Host.Outcome State Fault Refusal :=
  let x := s.conn c
  .next (
    if s.hasConn c = false ∨ x.state ≠ 1 then s
    else if 3 ≤ x.fails + 1 then s.linkFailed c
    else (s.setConn c { x with fails := x.fails + 1 }).retrain c)

/-- A write of TATRUM.RETRAIN (R572). -/
def State.accRetrain (s : State) (m r width value : Nat) : State :=
  s.action m 0x008 0x050 r true width 4 (fun t =>
    let k := value % 8
    let c := connId m k
    if value / 256 % 256 ≠ 0x7A ∨ 6 < k ∨ t.hasConn c = false then t
    else match (t.conn c).state with
      | 2 => t.retrain c
      | 3 => (t.setConn c { Conn.reset with state := 3 }).retrain c
      | _ => t)

/-- TATRUM_RETRAIN (R572). -/
def execTatrumRetrain (m r width value : Nat) (s : State) : Host.Outcome State Fault Refusal :=
  .next (s.hostOn m r 0x008 0x050 width value .empty (fun m t => t.accRetrain m r width value))

/-! ## Arrivals at a sail (R478, R485, R486) -/

/-- Packets of a message of TYPE `typ` arrive at sail `k` from mast `m`: the link's checks, and the time of the last packet received from the
mast (R476). -/
def State.arrive (s : State) (k m typ : Nat) (h : List LinkPkt) : Bool × State :=
  if s.hasSail k = false ∨ s.hasConn (connId m k) = false ∨ 2 ≤ m then (false, s)
  else
    let r := s.receive (connId m k) false typ h
    (r.1, if (s.conn (connId m k)).state = 2 ∧ h.any LinkPkt.good then r.2.hear k m else r.2)

/-- The records of executed packets of a TYPE, newest first (R486). -/
def Sail.recordsOf (x : Sail) (typ : Nat) : List (Nat × Content) := Tbl.get (fun _ => []) x.records typ

/-- Record an executed packet: the last 1 024 keys of its TYPE stay (R486). -/
def State.recordCmd (s : State) (k typ tag : Nat) (c : Content) : State :=
  let x := s.sail k
  s.setSail k { x with records := Tbl.set (fun _ => []) x.records typ (((tag, c) :: x.recordsOf typ).take 1024) }

/-- Whether sail `k` executes a CMD, COMMIT, FAR_WRITE, FRAME_DOWN or LAUNCH packet from mast `m` (R485, R486). -/
def State.gate (s : State) (k m typ tag : Nat) (c : Content) : Bool × State :=
  let d := sailDie k
  let x := s.sail k
  if s.bit d F.SSTAT_MASTER_VALID = false then (false, s.bump d F.SSTAT_STALE_MASTER_COUNT)
  else if x.window ≠ none then
    match (x.recordsOf typ).find? (fun e => e.1 == tag) with
    | some e =>
      if e.2 = c then (false, s.bump d F.SSTAT_DUP_CMD_COUNT)
      else (false, (s.bump d F.SSTAT_CMD_CONFLICT_COUNT).irq d 0x028 0)
    | none => (true, s.recordCmd k typ tag c)
  else if s.get d F.SSTAT_MASTER_DIE ≠ m then (false, s.bump d F.SSTAT_STALE_MASTER_COUNT)
  else (true, s.recordCmd k typ tag c)

/-- Arrival and gate together. -/
def State.accepts (s : State) (k m typ tag : Nat) (c : Content) (h : List LinkPkt) : Bool × State :=
  let r := s.arrive k m typ h
  if r.1 then r.2.gate k m typ tag c else r

/-- A frame not yet known to a sail's transmit path. -/
def TxFrame.new (h : Nat) : TxFrame :=
  { handle := h, frame := none, desc := none, phase := 0, entry := 0, seed := 0, sun := none, wave := [], at_ := 0, air := 0,
    samples := 0, counted := false, minute := 0, power := 0,
    gain := 0, pout := 0, flags := 0 }

/-- Update the frame of handle `h`, adding one when the sail holds none. -/
def State.joinTx (s : State) (k h : Nat) (f : TxFrame → TxFrame) : State :=
  let x := s.sail k
  match x.txOf h with
  | some g => s.setTx k (f g)
  | none => s.setSail k { x with tx := x.tx ++ [f (TxFrame.new h)] }

/-- FRAME_DOWN (R210): the PSDU of transmit handle `h`. -/
def execFrameDown (k m h : Nat) (frame : Frame) (hdr : List LinkPkt) (s : State) : Host.Outcome State Fault Refusal :=
  let r := s.accepts k m 0x02 h (.frame frame) hdr
  .next (if r.1 then r.2.joinTx k h (fun f => { f with frame := some frame }) else r.2)

/-- LAUNCH (R210): the launch descriptor of transmit handle `h`.  While 16 frames of its carrier wait for the modulator the sail takes no
further one: the packet stays on the link (R51). -/
def execLaunch (k m h : Nat) (desc : LaunchDesc) (hdr : List LinkPkt) (s : State) : Host.Outcome State Fault Refusal :=
  let wait := (s.sail k).tx.filter (fun f => f.phase == 0 && decide (f.desc.map (fun d => d.carrier) = some desc.carrier))
  let r := s.accepts k m 0x03 h (.nums desc.bytes) hdr
  .next (if 16 ≤ wait.length then s else if r.1 then r.2.joinTx k h (fun f => { f with desc := some desc }) else r.2)

/-- The full ASN nearest `now` whose low 32 bits are `lo` (R37). -/
def asnFrom32 (now lo : Nat) : Nat := ((now : Int) + sdiff 32 lo now).toNat % 2 ^ 40

/-- TICK (R39): a sail, or the jury's mast (die 0 or 1), learns the LOCAL time of its next tick and the ASN it opens; at a sail
it clears FREERUN (R386). -/
def execTick (d m time lo : Nat) (hdr : List LinkPkt) (s : State) : Host.Outcome State Fault Refusal :=
  .next (
    if 2 ≤ d then
      let r := s.arrive (d - 2) m 0x07 hdr
      if r.1 then
        ((r.2.setSail (d - 2) { r.2.sail (d - 2) with nextTick := some (asnFrom32 (r.2.sail (d - 2)).asn lo, time) }).put d F.STIME_STATUS_FREERUN 0).put d
          F.STIME_STATUS_RUN 0
      else r.2
    else if s.redundant = false ∨ m = d then s
    else
      let r := s.receive 6 (decide (d = 0)) 0x07 hdr
      if r.1 then r.2.setMast d { r.2.mast d with nextTick := some (asnFrom32 (r.2.mast d).asn lo, time) } else r.2)

/-- TICK_FREERUN (R40, R386): no TICK packet 5 µs before the expected tick; the sail makes the tick itself. -/
def execTickFreerun (k : Nat) (s : State) : Host.Outcome State Fault Refusal :=
  let d := sailDie k
  let x := s.sail k
  .next (
    if s.hasSail k = false ∨ x.ticked = false ∨ x.nextTick ≠ none then s
    else
      let s1 := s.setSail k { x with nextTick := some ((x.asn + 1) % 2 ^ 40, x.tickNow + 400 * s.slotLen) }
      ((((s1.bump d F.SSTAT_TICK_MISS).put d F.STIME_STATUS_FREERUN 1).put d F.STIME_STATUS_RUN (min 255 (s.get d F.STIME_STATUS_RUN + 1))).irq d
        0x020 0))

/-- A hint entry as a number. -/
def HintEntry.word (e : HintEntry) : Nat :=
  e.hint.asnLo % 256 * 2 ^ 40 + (if e.valid then 2 ^ 39 else 0) + e.hint.win % 4 * 2 ^ 37 + e.hint.bin % 128 * 2 ^ 30 + e.hint.hyp % 4 * 2 ^ 28
    + unsigned 16 e.hint.cfo

/-- Write or clear the hint of each bin named (R158). -/
def State.takeHints (s : State) (k : Nat) (es : List HintEntry) : State :=
  let x := s.sail k
  s.setSail k { x with hints := es.foldl (fun t e =>
    let i := 128 * e.hint.win + e.hint.bin
    if e.valid then Tbl.put t i e.hint else Tbl.del t i) x.hints }

/-- CFO_HINT (R158, R667): `count` is its count byte and `len` its payload length. -/
def execCfoHint (k m tag count len : Nat) (es : List HintEntry) (hdr : List LinkPkt) (s : State) : Host.Outcome State Fault Refusal :=
  let r := s.accepts k m 0x09 tag (.nums (0xC1 :: count :: len :: es.map HintEntry.word)) hdr
  .next (
    if r.1 = false then r.2
    else if count = 0 ∨ 7 < count ∨ len < 2 + 6 * count ∨ es.length < count then r.2.bump (sailDie k) F.SSTAT_CMD_BAD_COUNT
    else r.2.takeHints k (es.take count))

/-- CMD_UNKNOWN_KIND (R667): a CMD packet of an unknown kind or a malformed payload. -/
def execCmdUnknownKind (k m tag : Nat) (payload : List Nat) (hdr : List LinkPkt) (s : State) : Host.Outcome State Fault Refusal :=
  let r := s.accepts k m 0x09 tag (.nums payload) hdr
  .next (if r.1 then r.2.bump (sailDie k) F.SSTAT_CMD_BAD_COUNT else r.2)

/-- The mast `m` loads its duty copy into sail `k` (R231): the minutes before now take the recorded charges. -/
def State.loadDuty (s : State) (m k : Nat) : State :=
  let now := s.minute k
  let mine := (s.mast m).dutyCopy
  let from_ := s.dutyMinute m
  (List.range 16).foldl (fun t e => (List.range 61).foldl (fun u i =>
    let us := Tbl.get (fun _ => 0) mine ((16 * k + e) * 2 ^ 40 + (from_ - i))
    if us = 0 ∨ from_ < i then u else u.chargeDuty k e (now - i) us) t) s

/-- TAKEOVER (R484, R485): accepted when the sail has no master or the EPOCH is higher than the held one; it opens the
dual-command window of 200 µs.  A sail without a master is one after its reset, and its duty history is loaded (R231). -/
def execTakeover (k m epoch die : Nat) (hdr : List LinkPkt) (s : State) : Host.Outcome State Fault Refusal :=
  let d := sailDie k
  let r := s.arrive k m 0x09 hdr
  .next (
    if r.1 = false then r.2
    else if r.2.bit d F.SSTAT_MASTER_VALID ∧ epoch ≤ r.2.get d F.SSTAT_MASTER_EPOCH then r.2.bump d F.SSTAT_STALE_MASTER_COUNT
    else
      let first := !(r.2.bit d F.SSTAT_MASTER_VALID)
      let s1 := r.2.setSail k { r.2.sail k with window := some (r.2.sailLocal k) }
      let s2 := (((s1.put d F.SSTAT_MASTER_VALID 1).put d F.SSTAT_MASTER_DIE die).put d F.SSTAT_MASTER_EPOCH epoch).put d F.SSTAT_MASTER_WINDOW 1
      if first then (s2.loadConfig m k).loadDuty m k else s2)

/-- DUAL_WINDOW_CLOSE (R484): the window closes 200 µs after its TAKEOVER. -/
def execDualWindowClose (k : Nat) (s : State) : Host.Outcome State Fault Refusal :=
  .next (
    if s.hasSail k ∧ (s.sail k).window ≠ none then (s.setSail k { s.sail k with window := none }).put (sailDie k) F.SSTAT_MASTER_WINDOW 0
    else s)

/-- A sail's answer to a VC0 packet towards mast `m` (R19): sent on VC1 when credit allows, else kept among at most 16, else
dropped and counted. -/
def State.answer (s : State) (k m : Nat) (p : Pkt) : State :=
  let c := connId m k
  let x := s.conn c
  if x.state ≠ 2 ∨ 16 ≤ x.answers.length then s.bump (sailDie k) F.SSTAT_ANSWER_DROP_COUNT
  else (s.setConn c { x with answers := x.answers ++ [p] }).flushAnswers c 16

/-- µs since a sail heard a mast, saturating (R478). -/
def State.silence (s : State) (k m : Nat) : Nat := min 65535 ((s.sailLocal k - (s.sail k).heard.getD m 0) / 400)

/-- LIVENESS (R478): a sail reports its master's EPOCH and how long ago it heard each mast. -/
def execLiveness (k m tag : Nat) (hdr : List LinkPkt) (s : State) : Host.Outcome State Fault Refusal :=
  let d := sailDie k
  let r := s.arrive k m 0x09 hdr
  .next (
    if r.1 = false then r.2
    else (message 0x06 tag ([0xD2, d] ++ leBytes 2 (if r.2.bit d F.SSTAT_MASTER_VALID then r.2.get d F.SSTAT_MASTER_EPOCH else 0)
      ++ leBytes 2 (r.2.silence k 0) ++ leBytes 2 (r.2.silence k 1))).foldl (fun t p => t.answer k m p) r.2)

/-! ## Events of a sail at its master (R563) -/

/-- IRQ.SAIL_PEND follows a sail's pending state (R563, R564). -/
def State.sailIrq (s : State) (m k : Nat) (pend : Bool) : State :=
  let w := s.get m F.IRQ_SAIL_PEND_SAILS
  let n := if pend then w ||| 2 ^ k else w - (if w.testBit k then 2 ^ k else 0)
  let s1 := s.put m F.IRQ_SAIL_PEND_SAILS n
  let v := s.sailRouteOf m k
  if s1.vecPending m v ∧ s.vecPending m v = false then s1.vecSend m v else s1

/-- SAIL_IRQ_EVENT (R563). -/
def execSailIrqEvent (m k : Nat) (pend : Bool) (hdr : List LinkPkt) (s : State) : Host.Outcome State Fault Refusal :=
  .next (
    if s.hasSail k = false then s
    else
      let r := s.receive (connId m k) true 0x0A hdr
      if r.1 = false then r.2
      else match r.2.mirror m (.sailIrq k pend) 0 with
        | some t => t.sailIrq m k pend
        | none => s)

/-- An ADVICE report of sail `k` is placed in the event queue (R165). -/
def State.advice (s : State) (m k : Nat) (bytes : List Nat) : State := s.event m .advice k bytes

end Sys2Proof.Machine
end

