-- ==== Sys2Proof/Machine/Timers.lean ====
section
/-! DEFINITION. General timers (R400–R405, R410, R412), the DMA request lines they drive (R591) and the THERM page's conversions
(R571). -/

namespace Sys2Proof.Machine

/-! ## Timers -/

/-- Timers of a die (R400): 32 on a mast, 8 on a sail. -/
def timersOf (d : Nat) : Nat := if d < 2 then 32 else 8

/-- A register of timer `t` of die `d`: `f` on the TIMERS page, `g` on the STIMERS page. -/
def tf (f g : Fld) (d t : Nat) : Fld := (if d < 2 then f else g).at 16 t

/-- Whether die `d` is in debug halt (R405). -/
def State.inHalt (s : State) (d : Nat) : Bool := if d < 2 then s.halted.contains d else s.bit d F.SSYS_DEBUG_HALT

/-- Whether timer `t` of die `d` counts its own clock (R400, R403–R405). -/
def State.timerRuns (s : State) (d t : Nat) : Bool :=
  s.bit d (tf F.TIMERS_TCTL_EN F.STIMERS_TCTL_EN d t)
    && !(s.bit d (tf F.TIMERS_TCTL_FREEZE F.STIMERS_TCTL_FREEZE d t) && s.inHalt d)
    && !(t % 2 == 1 && s.bit d (tf F.TIMERS_TCTL_CHAIN F.STIMERS_TCTL_CHAIN d t))
    && !(decide (2 ≤ d) && (s.sail (d - 2)).asleep)

/-- A prescaled tick of timer `t` in half ns (R400): 500 MHz on a mast, 400 MHz on a sail. -/
def State.timerTick (s : State) (d t : Nat) : Nat :=
  (if d < 2 then 4 else 5) * 2 ^ s.get d (tf F.TIMERS_TCTL_PRESC F.STIMERS_TCTL_PRESC d t)

/-- COUNT after `n` more ticks (R400): it wraps after RELOAD; a COUNT above RELOAD goes to 0 at the next tick. -/
def countAfter (reload c n : Nat) : Nat :=
  if n = 0 then c else if c ≤ reload then (c + n) % (reload + 1) else (n - 1) % (reload + 1)

/-- The LOCAL instant, in half ns, from which timer `t`'s COUNT runs. -/
def State.timerBase (s : State) (d t : Nat) : Nat := Tbl.get (fun _ => 0) s.timerAt (64 * d + t)

/-- COUNT of timer `t` of die `d` now. -/
def State.timerCount (s : State) (d t : Nat) : Nat :=
  let c := s.get d (tf F.TIMERS_TCOUNT_COUNT F.STIMERS_TCOUNT_COUNT d t)
  if s.timerRuns d t then
    countAfter (s.get d (tf F.TIMERS_RELOAD_RELOAD F.STIMERS_RELOAD_RELOAD d t)) c ((s.now - s.timerBase d t) / s.timerTick d t)
  else c

/-- Put timer `t`'s COUNT in its register and let it run from here; `fresh` starts a new prescaler period. -/
def State.timerSync (s : State) (d t : Nat) (fresh : Bool) : State :=
  let c := s.timerCount d t
  let p := s.timerTick d t
  let b := s.timerBase d t
  let at_ := if fresh ∨ s.timerRuns d t = false then s.now else b + (s.now - b) / p * p
  { s.put d (tf F.TIMERS_TCOUNT_COUNT F.STIMERS_TCOUNT_COUNT d t) c with timerAt := Tbl.set (fun _ => 0) s.timerAt (64 * d + t) at_ }

/-- Every timer of die `d` is carried to now. -/
def State.timersSync (s : State) (d : Nat) : State := (List.range (timersOf d)).foldl (fun u t => u.timerSync d t false) s

/-- Set COUNT from now on. -/
def State.setCount (s : State) (d t c : Nat) : State :=
  { s.put d (tf F.TIMERS_TCOUNT_COUNT F.STIMERS_TCOUNT_COUNT d t) c with timerAt := Tbl.set (fun _ => 0) s.timerAt (64 * d + t) s.now }

/-- Set or clear EN of timer `t` (R402, R410). -/
def State.timerEn (s : State) (d t : Nat) (on : Bool) : State :=
  (s.timerSync d t false).put d (tf F.TIMERS_TCTL_EN F.STIMERS_TCTL_EN d t) (if on then 1 else 0)

/-- COUNT of timer `t` advances by `n` besides its clock (R402, R403). -/
def State.timerAdvance (s : State) (d t n : Nat) : State :=
  let s1 := s.timerSync d t false
  s1.put d (tf F.TIMERS_TCOUNT_COUNT F.STIMERS_TCOUNT_COUNT d t)
    (countAfter (s1.get d (tf F.TIMERS_RELOAD_RELOAD F.STIMERS_RELOAD_RELOAD d t)) (s1.timerCount d t) n)

/-- A conversion of a kind (0 temperature, 1 supply) starts on die `d`; one in progress merges with it (R402, R571). -/
def State.convStart (s : State) (d kind : Nat) : State := if s.convs.contains (d, kind) then s else { s with convs := s.convs ++ [(d, kind)] }

/-- A request on DMA line `l` of mast `m` (R591): its 16 bytes are written to host memory.  `stall` says that the endpoint does not
send the write at once: a later request then replaces it and is counted.  The active mast's endpoint alone makes DMA (R592). -/
def State.dmaRequest (s : State) (m l : Nat) (stall : Bool) : State :=
  if s.bit m (F.PCIE_DMA_LINE_EN.at 8 l) = false then s
  else
    let M := s.mast m
    let n := (Tbl.get (fun _ => 0) M.dmaCount l + 1) % 2 ^ 32
    let addr := s.get64 m (F.PCIE_DMA_LINE_ADDR.at 8 l) / 16 * 16
    let s1 := s.setMast m { M with dmaCount := Tbl.set (fun _ => 0) M.dmaCount l n,
                                   dmaUnsent := if stall then M.dmaUnsent.insert l else M.dmaUnsent.erase l }
    let s2 := if M.dmaUnsent.contains l then s1.bump m F.PCIE_DMA_MERGE else s1
    if stall = false ∧ s.active = m then
      s2.emit (.dma m addr [s.localNs m % 2 ^ 32, s.localNs m / 2 ^ 32 % 2 ^ 32, (s.netNs m % 1000000000).toNat, n] .empty)
    else s2

/-- The action of timer `t` (R402). -/
def State.timerAct (s : State) (d t : Nat) (stall : Bool) : State :=
  let tgt := s.get d (tf F.TIMERS_TTRIG_TARGET F.STIMERS_TTRIG_TARGET d t) % timersOf d
  match s.get d (tf F.TIMERS_TTRIG_ACT F.STIMERS_TTRIG_ACT d t) with
  | 1 => s.convStart d 0
  | 2 => s.convStart d 1
  | 3 => if d < 2 then s.dmaRequest d (s.get d (F.TIMERS_TTRIG_DMA_CH.at 16 t)) stall else s
  | 4 => s.timerEn d tgt true
  | 5 => s.timerEn d tgt false
  | 6 => s.timerAdvance d tgt 1
  | _ => s

/-- The page of a die's timers. -/
def timerPage (d : Nat) : Nat := if d < 2 then 0x032 else 0x021

/-- MATCH of timer `t` is set, raised, and its action performed when ON_MATCH is set (R400, R402). -/
def State.timerMatched (s : State) (d t : Nat) (stall : Bool) : State :=
  let s1 := (s.put d (tf F.TIMERS_TSTAT_MATCH F.STIMERS_TSTAT_MATCH d t) 1).irq d (timerPage d) t
  if s.bit d (tf F.TIMERS_TTRIG_ON_MATCH F.STIMERS_TTRIG_ON_MATCH d t) then s1.timerAct d t stall else s1

/-- WRAP of timer `t` is set, raised, and its action performed when ON_WRAP is set (R400, R402). -/
def State.timerWrapped (s : State) (d t : Nat) (stall : Bool) : State :=
  let s1 := (s.put d (tf F.TIMERS_TSTAT_WRAP F.STIMERS_TSTAT_WRAP d t) 1).irq d (timerPage d) t
  if s.bit d (tf F.TIMERS_TTRIG_ON_WRAP F.STIMERS_TTRIG_ON_WRAP d t) then s1.timerAct d t stall else s1

/-- The odd timer above an even timer `t`, when it is chained to it, advances by `n` (R403). -/
def State.timerChain (s : State) (d t n : Nat) : State :=
  if t % 2 = 0 ∧ s.bit d (tf F.TIMERS_TCTL_CHAIN F.STIMERS_TCTL_CHAIN d (t + 1)) ∧ s.bit d (tf F.TIMERS_TCTL_EN F.STIMERS_TCTL_EN d (t + 1)) then
    s.put d (tf F.TIMERS_TCOUNT_COUNT F.STIMERS_TCOUNT_COUNT d (t + 1))
      (countAfter (s.get d (tf F.TIMERS_RELOAD_RELOAD F.STIMERS_RELOAD_RELOAD d (t + 1)))
        (s.get d (tf F.TIMERS_TCOUNT_COUNT F.STIMERS_TCOUNT_COUNT d (t + 1))) n)
  else s

/-- Whether die `d` has a timer `t`. -/
def State.hasTimer (s : State) (d t : Nat) : Bool := s.fitted d && decide (t < timersOf d)

/-- TIMER_MATCH (R400, R402): COUNT of timer `t` of die `d` reaches MATCH. -/
def execTimerMatch (d t : Nat) (stall : Bool) (s : State) : Host.Outcome State Fault Refusal :=
  .next (
    if s.hasTimer d t then (s.setCount d t (s.get d (tf F.TIMERS_MATCH_MATCH F.STIMERS_MATCH_MATCH d t))).timerMatched d t stall
    else s)

/-- TIMER_WRAP (R400, R402, R403): timer `t` of die `d` goes from RELOAD to 0. -/
def execTimerWrap (d t : Nat) (stall : Bool) (s : State) : Host.Outcome State Fault Refusal :=
  .next (if s.hasTimer d t then ((s.setCount d t 0).timerChain d t 1).timerWrapped d t stall else s)

/-- Whether a capture source of a die is not reserved (R401). -/
def capSource (d c : Nat) : Bool := if d < 2 then 1 ≤ c && c ≤ 26 else 1 ≤ c && c ≤ 3

/-- A capture of COUNT `c` by timer `t` (R401): an unread capture is overwritten with OVR. -/
def State.capTimer (s : State) (d t c : Nat) : State :=
  let s1 := s.put d (tf F.TIMERS_TCAP_CAP F.STIMERS_TCAP_CAP d t) c
  let s2 := if s.bit d (tf F.TIMERS_TSTAT_FRESH F.STIMERS_TSTAT_FRESH d t) then
      (s1.put d (tf F.TIMERS_TSTAT_OVR F.STIMERS_TSTAT_OVR d t) 1).irq d (timerPage d) t else s1
  s2.put d (tf F.TIMERS_TSTAT_FRESH F.STIMERS_TSTAT_FRESH d t) 1

/-- TIMER_CAPTURE (R401): an edge of CAP_SRC of timer `t`; on the active mast an input (R467). -/
def execTimerCapture (d t : Nat) (s : State) : Host.Outcome State Fault Refusal :=
  let c := s.timerCount d t
  .next (
    if s.hasTimer d t = false ∨ capSource d (s.get d (tf F.TIMERS_TCTL_CAP_SRC F.STIMERS_TCTL_CAP_SRC d t)) = false then s
    else if 2 ≤ d then s.capTimer d t c
    else s.input d (.ext 0 t c) (fun u => u.capTimer d t c))

/-- A read of a timer register by requester `r`, of 32 bits, or 64 where `wide`. -/
def State.timerRead (s : State) (d off r width : Nat) (wide : Bool) (act : State → State) : State :=
  if wide ∧ width = 8 then (if d < 2 then s.action d 0x032 off r false 8 8 act else s.sailAction (d - 2) 0x021 off r 4 act)
  else if d < 2 then s.action d 0x032 off r false width 4 act else s.sailAction (d - 2) 0x021 off r width act

/-- TCAP_READ (R401): the read clears FRESH. -/
def execTcapRead (d r width t : Nat) (s : State) : Host.Outcome State Fault Refusal :=
  .next (if s.hasTimer d t then
      s.timerRead d (0x408 + 16 * t) r width false (fun u => u.put d (tf F.TIMERS_TSTAT_FRESH F.STIMERS_TSTAT_FRESH d t) 0)
    else s)

/-- TCOUNT_READ (R403): a read of an even timer's TCOUNT latches the odd timer's COUNT into THOLD. -/
def execTcountRead (d r width t : Nat) (s : State) : Host.Outcome State Fault Refusal :=
  .next (if s.hasTimer d t then
      s.timerRead d (0x400 + 16 * t) r width true (fun u =>
        if t % 2 = 0 then u.put d (tf F.TIMERS_THOLD_HOLD F.STIMERS_THOLD_HOLD d t) (u.timerCount d (t + 1)) else u)
    else s)

/-- Masks of GROUP_START and GROUP_STOP act in one cycle (R410): a bit in both leaves EN unchanged. -/
def State.group (s : State) (d start stop : Nat) : State :=
  (List.range (timersOf d)).foldl (fun u t =>
    if start.testBit t = stop.testBit t then u else u.timerEn d t (start.testBit t)) s

/-- A write of GROUP_START (`off` 0x240) or GROUP_STOP (0x244) of die `d`; a 64-bit write at 0x240 writes both. -/
def State.accGroup (s : State) (d r width off value : Nat) : State :=
  let start := if off = 0x240 then value % 2 ^ 32 else 0
  let stop := if off = 0x244 then value % 2 ^ 32 else if width = 8 then value / 2 ^ 32 else 0
  let w := if width = 8 ∧ off = 0x240 then 4 else width
  if d < 2 then s.action d 0x032 off r true w 4 (fun u => u.group d start stop)
  else s.sailAction (d - 2) 0x021 off r w (fun u => u.group d start stop)

/-- GROUP_START (R410). -/
def execGroupStart (d r width value : Nat) (s : State) : Host.Outcome State Fault Refusal :=
  .next (
    if s.fitted d = false then s
    else if d < 2 then s.hostOn d r 0x032 0x240 width value .empty (fun m u => u.accGroup m r width 0x240 value)
    else s.accGroup d r width 0x240 value)

/-- GROUP_STOP (R410). -/
def execGroupStop (d r width value : Nat) (s : State) : Host.Outcome State Fault Refusal :=
  .next (
    if s.fitted d = false then s
    else if d < 2 then s.hostOn d r 0x032 0x244 width value .empty (fun m u => u.accGroup m r width 0x244 value)
    else s.accGroup d r width 0x244 value)

/-- Whether an advance of `n` ticks from COUNT `c` reaches `v` (R404): `v` lies within the next `n` values of the cycle. -/
def reaches (reload c n v : Nat) : Bool :=
  if n = 0 ∨ reload < v then false
  else if c ≤ reload then decide ((v + (reload + 1) - c - 1) % (reload + 1) + 1 ≤ n)
  else decide (v + 1 ≤ n)

/-- Wraps of an advance of `n` ticks from COUNT `c`. -/
def wrapsOf (reload c n : Nat) : Nat := if n = 0 then 0 else if c ≤ reload then (c + n) / (reload + 1) else 1 + (n - 1) / (reload + 1)

/-- COUNT of timer `t` at the instant, `n` slow-clock periods ago, when the peripheral clock was gated (R404). -/
def State.gatedCount (s : State) (d t n : Nat) : Nat :=
  let c := s.get d (tf F.TIMERS_TCOUNT_COUNT F.STIMERS_TCOUNT_COUNT d t)
  if s.timerRuns d t then
    countAfter (s.get d (tf F.TIMERS_RELOAD_RELOAD F.STIMERS_RELOAD_RELOAD d t)) c ((s.now - s.timerBase d t - n * 1953125 / 32) / s.timerTick d t)
  else c

/-- What a wake adds to timer `t` (R404): its ticks, and REM after them; `n` slow-clock periods count, a chained odd timer has none. -/
def State.wakeAdd (s : State) (d t n : Nat) : Nat × Nat :=
  let rem := Tbl.get (fun _ => 0) s.timerRem (64 * d + t)
  if s.bit d (tf F.TIMERS_TCTL_EN F.STIMERS_TCTL_EN d t) = false
      ∨ (t % 2 = 1 ∧ s.bit d (tf F.TIMERS_TCTL_CHAIN F.STIMERS_TCTL_CHAIN d t)) then (0, rem)
  else
    let acc := rem + n * (if d < 2 then 1953125 else 1562500)
    let step := 128 * 2 ^ s.get d (tf F.TIMERS_TCTL_PRESC F.STIMERS_TCTL_PRESC d t)
    (acc / step, acc % step)

/-- How a wake moves timer `t` (R404): its COUNT when it was gated and the ticks it advances by, which for a chained odd timer are the wraps
of the timer below it. -/
def State.wakeMove (s : State) (d t n add : Nat) : Nat × Nat :=
  let reload (u : Nat) : Nat := s.get d (tf F.TIMERS_RELOAD_RELOAD F.STIMERS_RELOAD_RELOAD d u)
  let own := (s.gatedCount d t n, (s.wakeAdd d t add).1)
  if t % 2 = 1 ∧ s.bit d (tf F.TIMERS_TCTL_EN F.STIMERS_TCTL_EN d t) ∧ s.bit d (tf F.TIMERS_TCTL_CHAIN F.STIMERS_TCTL_CHAIN d t) then
    (own.1, wrapsOf (reload (t - 1)) (s.gatedCount d (t - 1) n) (s.wakeAdd d (t - 1) add).1)
  else own

/-- The peripheral clock of die `d` runs again after `n` slow-clock periods, of which `add` are added (R404): every timer advances and is
SLEPT; then MATCH and WRAP are set once where the advance passed them, with their actions. -/
def State.wakeTimers (s : State) (d n add : Nat) : State :=
  let ts := List.range (timersOf d)
  let moved := ts.foldl (fun (u : State) t =>
    let r := s.wakeMove d t n add
    let v := { u with timerRem := Tbl.set (fun _ => 0) u.timerRem (64 * d + t) (s.wakeAdd d t add).2 }
    (v.put d (tf F.TIMERS_TSTAT_SLEPT F.STIMERS_TSTAT_SLEPT d t) 1).setCount d t
      (countAfter (s.get d (tf F.TIMERS_RELOAD_RELOAD F.STIMERS_RELOAD_RELOAD d t)) r.1 r.2)) s
  ts.foldl (fun u t =>
    let r := s.wakeMove d t n add
    let reload := s.get d (tf F.TIMERS_RELOAD_RELOAD F.STIMERS_RELOAD_RELOAD d t)
    let v := if reaches reload r.1 r.2 (s.get d (tf F.TIMERS_MATCH_MATCH F.STIMERS_MATCH_MATCH d t)) then u.timerMatched d t false else u
    if wrapsOf reload r.1 r.2 = 0 then v else v.timerWrapped d t false) moved

/-- TIMER_WAKE (R404): the peripheral clock of die `d` runs again after `n` slow-clock periods of gating; nothing is added while
the slow clock is absent, and a sail that reefed mode gates does not wake. -/
def execTimerWake (d n : Nat) (s : State) : Host.Outcome State Fault Refusal :=
  .next (
    if s.fitted d = false ∨ (2 ≤ d ∧ s.reefed ∧ (s.sail (d - 2)).gated) then s
    else
      let slow := s.bit (if d < 2 then d else s.active) F.TIME_LOCAL_STATUS_SLOW_OK
      let u := s.wakeTimers d n (if slow then n else 0)
      if d < 2 then u else u.setSail (d - 2) { u.sail (d - 2) with asleep := false })

/-- DEBUG_HALT (R405): die `d` enters debug halt, and its timers with FREEZE stop; a mast's cores halt through JTAG, and only while WAIT_ACK is
clear (R654). -/
def execDebugHalt (d : Nat) (s : State) : Host.Outcome State Fault Refusal :=
  .next (
    if s.fitted d = false ∨ (d < 2 ∧ s.waitAck d) then s
    else
      let s1 := s.timersSync d
      if d < 2 then { s1 with halted := s1.halted.insert d } else s1.put d F.SSYS_DEBUG_HALT 1)

/-- DEBUG_HALT_EXIT (R405): the timers with FREEZE resume counting without any make-up time. -/
def execDebugHaltExit (d : Nat) (s : State) : Host.Outcome State Fault Refusal :=
  .next (
    if s.fitted d = false then s
    else
      let s1 := s.timersSync d
      if d < 2 then { s1 with halted := s1.halted.erase d } else s1.put d F.SSYS_DEBUG_HALT 0)

/-! ## THERM (R571) -/

/-- A write of THERM.CONV. -/
def State.accThermConv (s : State) (m r width value : Nat) : State :=
  s.action m 0x006 0x044 r true width 4 (fun t =>
    let t1 := if value % 2 = 1 then t.convStart m 0 else t
    if value / 2 % 2 = 1 then t1.convStart m 1 else t1)

/-- THERM_CONV (R571). -/
def execThermConv (m r width value : Nat) (s : State) : Host.Outcome State Fault Refusal :=
  .next (s.hostOn m r 0x006 0x044 width value .empty (fun m t => t.accThermConv m r width value))

/-- THERM_PERIODIC (R571): every PERIOD ms conversions of both kinds start; none with PERIOD 0. -/
def execThermPeriodic (m : Nat) (s : State) : Host.Outcome State Fault Refusal :=
  .next (if s.fitted m ∧ m < 2 ∧ s.get m F.THERM_CFG_PERIOD ≠ 0 then (s.convStart m 0).convStart m 1 else s)

/-- A temperature of mast `m` in 0.125 °C (R571): TEMP, its mark, and THERM_HIGH once per excursion. -/
def State.thermTemp (s : State) (m : Nat) (v : Int) : State :=
  let s1 := s.put m F.THERM_TEMP_TEMP (unsigned 16 v)
  let s2 := if s.getS m F.THERM_TEMP_MAX_HWM < v then s1.put m F.THERM_TEMP_MAX_HWM (unsigned 16 v) else s1
  let alarm := 8 * s.getS m F.THERM_CFG_ALARM
  if (s.mast m).thermHigh = false ∧ alarm ≤ v then (s2.setMast m { s2.mast m with thermHigh := true }).irq m 0x006 0
  else if (s.mast m).thermHigh ∧ v < alarm - 16 then s2.setMast m { s2.mast m with thermHigh := false }
  else s2

/-- The four rails of mast `m` in mV (R571). -/
def State.thermRails (s : State) (m : Nat) (vals : List Int) : State :=
  (List.range 4).foldl (fun t k => t.put m (F.THERM_RAIL_MV.at 4 k) (unsigned 12 (vals.getD k 0))) s

/-- CONVERSION_DONE (R571, R402): the conversion of a kind (0 temperature, 1 supply) in progress on die `d` completes with `vals`.
On a mast the reading is a DATA input (R467); on a sail it is PWR.SENSE_NOW. -/
def execConversionDone (d kind : Nat) (vals : List Int) (s : State) : Host.Outcome State Fault Refusal :=
  .next (
    if s.convs.contains (d, kind) = false ∨ s.fitted d = false then s
    else
      let s1 := { s with convs := s.convs.erase (d, kind) }
      if 2 ≤ d then
        if kind = 0 then (s1.put d F.PWR_SENSE_NOW_TEMP (unsigned 16 (vals.getD 0 0))).staleCheck d
        else s1.put d F.PWR_SENSE_NOW_VDAC (unsigned 16 (vals.getD 0 0))
      else if s1.mirroring ∧ d ≠ s1.active then s1
      else match s1.mirror d (.data 3 kind ((List.range 4).foldl (fun a i => a + unsigned 16 (vals.getD i 0) * 2 ^ (16 * i)) 0)) 0 with
        | some t => if kind = 0 then t.thermTemp d (vals.getD 0 0) else t.thermRails d vals
        | none => s)

end Sys2Proof.Machine
end

