-- ==== Sys2Proof/Machine/Ports.lean ====
section
/-! DEFINITION. Partner ports: Ethernet ingress and links, the relay of the jury's ports, and the PCI Express rings
(R12, R574–R593). -/

namespace Sys2Proof.Machine

/-! ## Ethernet (R574–R582) -/

/-- The partner of port `p` of mast `m` (R574). -/
def State.partnerOf (s : State) (m p : Nat) : Option Nat :=
  if s.bit m (eth F.ETH_PEER_STATIC p) then some (s.get64 m (eth F.ETH_PEER_MAC p) % 2 ^ 48)
  else if s.bit m (eth F.ETH_PARTNER_VALID p) then some (s.get64 m (eth F.ETH_PARTNER_MAC p) % 2 ^ 48) else none

/-- Record or forget the partner of a port: VALID, LEARNED and MAC of ETH.PARTNER; PARTNER_REFUSED may be raised again (R577). -/
def State.setPartner (s : State) (m p : Nat) (mac : Option Nat) (learned : Bool) : State :=
  let w := match mac with
    | some a => a % 2 ^ 48 + 2 ^ 63 + (if learned then 2 ^ 62 else 0)
    | none => 0
  (s.put64 m (eth F.ETH_PARTNER_MAC p) w).setEport m p { s.eport m p with warned := false }

/-- A commit of port `p`'s ETH page has been applied (R574): with STATIC the partner is PEER.MAC; a partner that STATIC named is
forgotten when STATIC ends. -/
def State.ethCommitted (old s : State) (m p : Nat) : State :=
  if s.bit m (eth F.ETH_PEER_STATIC p) then
    if old.partnerOf m p = s.partnerOf m p ∧ old.bit m (eth F.ETH_PEER_STATIC p) then s else s.setPartner m p (s.partnerOf m p) false
  else if old.bit m (eth F.ETH_PEER_STATIC p) then s.setPartner m p none false else s

/-- What a port makes of an ingress frame after its error and address checks (R577). -/
inductive EthFate where
  | pause | refused | vlan | station (st : Nat) (raw : Bool) | noStation
deriving DecidableEq, Repr

/-- Whether a frame is a PTP message (R577): EtherType 0x88F7, or IPv6 UDP to port 319 or 320. -/
def EthFrame.isPtp (e : EthFrame) : Bool :=
  e.etherType == 0x88F7 || (match e.pkt with
    | some k => k.udpDst == some 319 || k.udpDst == some 320
    | none => false)

/-- The rows of R577 from the VLAN check on. -/
def State.ethFate (s : State) (m p : Nat) (e : EthFrame) : EthFate :=
  let raw (st : Nat) : EthFate := if st = 0xFF then .noStation else .station st true
  if e.etherType = 0x8808 ∧ e.data.take 2 = [0x00, 0x01] then .pause
  else if s.bit m (eth F.ETH_VLAN_RX_CHECK p) ∧ (match e.vlan with
      | some v => v.1 != s.get m (eth F.ETH_VLAN_VID p)
      | none => false) = true then .vlan
  else if e.isPtp then raw (s.get m (eth F.ETH_STATIONS_PTP_STATION p))
  else if e.etherType = 0x86DD then .station 0x08 false
  else raw (s.get m (eth F.ETH_STATIONS_OTHER_STATION p))

/-- Whether a frame passes the address check of a port (R577). -/
def State.ethAddr (s : State) (m p : Nat) (e : EthFrame) : Bool :=
  e.dst == s.get64 m (eth F.ETH_OWN_MAC_MAC p) % 2 ^ 48 || e.dst == 2 ^ 48 - 1
    || (e.dst / 2 ^ 32 == 0x3333 && s.bit m (eth F.ETH_CFG_MCAST_EN p))

/-- The sluice of an ingress frame of port `p` (R372): `peer` says that the port is the peer mast's. -/
def State.ethSluice (s : State) (m p : Nat) (peer : Bool) (e : EthFrame) : Nat :=
  let c := match e.vlan with
    | some v => v.2 % 8
    | none => s.get m (F.SLUICE_PORT_CFG_DEF_CLASS.at 4 (if peer then 4 + p else p))
  if peer then 41 + 8 * p + c else 8 * p + c

/-- The active mast accepts an ingress frame of port `p` (R326, R327, R577): allocated on the port's account, dropped whole when
refused, else given to its station behind what the port already holds. -/
def State.acceptEth (s : State) (a p : Nat) (peer : Bool) (st : Nat) (raw : Bool) (e : EthFrame) (stamp : Nat) : State :=
  let i := if peer then 4 + p else p
  let len := if raw then e.len - 4 else e.ipLen
  let trailer := if raw ∧ ptpOf (.ether e) ≠ none then 16 else 0
  let body : Body := match e.pkt with
    | some k => if raw then .ether e else .packet k none
    | none => .ether e
  match s.allocItem a (if peer then 49 + p else 41 + p) (len + trailer) body with
  | none => s.bump a (F.SALTERN_ETH_DROP.at 4 p)
  | some (c, s1) =>
    let d : Desc := { station := st, prio := Config.portPrio % 16, flow := 0, cell := c, len := len, node := noNode,
                      port := if peer then 14 else 8 + p, flags := if raw then 6 else 3, stamp := stamp % 2 ^ 48 }
    let S := (s1.mast a).sal
    let s2 := s1.setSal a (S.setItem c { S.item c with desc := d, dest := if raw then none else some (s.ethSluice a p peer e), frameLen := e.len })
    let q := Tbl.get (fun _ => []) (s2.mast a).sal.ethHold i
    if q ≠ [] ∨ (s2.mast a).hal.held.any (fun h => decide (h.giver = Giver.eth i)) then
      let S2 := (s2.mast a).sal
      s2.setSal a { S2 with ethHold := Tbl.set (fun _ => []) S2.ethHold i (q ++ [c]) }
    else
      s2.ethGive a i d

/-- An accepted frame of port `p` of mast `m` reaches the active mast (R12, R467, R577): directly on its own ports, over the mast–mast
connection from the jury's. -/
def State.ethIn (s : State) (m p st : Nat) (raw : Bool) (e : EthFrame) (stamp : Nat) : State :=
  if m = s.active then
    match s.mirror m (.ethFrame p st raw e) stamp with
    | some t => (t.bump m (eth F.ETH_RX_FRAMES p)).acceptEth m p false st raw e stamp
    | none => s
  else (s.bump m (eth F.ETH_RX_FRAMES p)).sendOn 6 (decide (m = 1)) (message 0x0F (8 + p) (Relay.bytes (.ingress p st raw e stamp)))

/-- ETH_RX_FRAME (R574, R577, R580): a frame at port `p` of mast `m`, handled by the first row of R577 that matches. -/
def execEthRxFrame (m p : Nat) (e : EthFrame) (s : State) : Host.Outcome State Fault Refusal :=
  let maxRx := max 64 (s.get m (eth F.ETH_MAX_RX_BYTES p))
  .next (
    if s.hasPort m p = false ∨ s.get m (eth F.ETH_LINK_STATE p) ≠ 2 ∨ s.portGated m p then s
    else if e.fcsOk = false ∨ e.len < 64 ∨ maxRx < e.len then s.bump m (eth F.ETH_RX_ERR p)
    else if s.ethAddr m p e = false then s.bump m (eth F.ETH_ADDR_DROP p)
    else
      let s1 := if s.partnerOf m p = none then s.setPartner m p (some e.src) true else s
      if s1.partnerOf m p ≠ some e.src then
        let s2 := s1.bump m (eth F.ETH_PARTNER_REFUSED p)
        if (s2.eport m p).warned then s2
        else (s2.setEport m p { s2.eport m p with warned := true }).irq m (0x049 + p) 1
      else
        let t := (s1.localNs m : Int) - s1.getS m (eth F.ETH_PTP_CFG_RX_DELAY p)
        let e1 := if ptpOf (.ether e) = none then e else
          let n := s1.netNs m - s1.getS m (eth F.ETH_PTP_CFG_RX_DELAY p)
          { e with stamp := some ((n / 1000000000).toNat, (n % 1000000000).toNat) }
        match s1.ethFate m p e with
        | .pause =>
          let s2 := s1.bump m (eth F.ETH_PAUSE_RX p)
          if (s2.pauseDirs m p).1 = false then s2
          else
            let on := e.data.getD 2 0 ≠ 0 || e.data.getD 3 0 ≠ 0
            ((s2.setEport m p { s2.eport m p with paused := on }).put m (eth F.ETH_LINK_PAUSED p) (if on then 1 else 0)).portLook m p
        | .vlan => s1.bump m (eth F.ETH_VLAN_DROP p)
        | .noStation => s1.bump m (eth F.ETH_OTHER_DROP p)
        | .refused => s1
        | .station st raw =>
          let s2 := if raw ∧ e1.stamp ≠ none then s1.bump m (eth F.ETH_TS_RX p) else s1
          s2.ethIn m p st raw e1 (t.toNat % 2 ^ 48))

/-- PORT_RELAY (R12, R578, R581): what crosses the mast–mast connection arrives at mast `m`. -/
def execPortRelay (m : Nat) (x : Relay) (hdr : List LinkPkt) (s : State) : Host.Outcome State Fault Refusal :=
  .next (
    if s.redundant = false ∨ 2 ≤ m then s
    else
      let r := s.receive 6 (decide (m = 0)) 0x0F hdr
      if r.1 = false then r.2
      else match x with
        | .ingress p st raw e stamp =>
          if m ≠ s.active ∨ 4 ≤ p then r.2
          else match r.2.mirror m (.ethFrame (4 + p) st raw e) stamp with
            | some t => t.acceptEth m p true st raw e stamp
            | none => r.2
        | .egress p c len n b => if m = s.active ∨ 4 ≤ p then r.2 else r.2.ethSend m p c len n b
        | .ptp w =>
          if m ≠ s.active then r.2
          else match r.2.mirror m (.ptp w) 0 with
            | some t => t.event m .ptpTx 14 w
            | none => r.2)

/-- The session context of port `p` of mast `m` (R575). -/
def State.portCtx (s : State) (m p : Nat) : Nat := if m = s.active then p else 8 + p

/-- ETH_LINK_CHANGE (R574, R576): the link of port `p` takes STATE `st` (0 DOWN, 1 NEGOTIATING, 2 UP); `dirs` is the PAUSE resolution of
clause 37, where it ran. -/
def execEthLinkChange (m p st : Nat) (dirs : Option (Bool × Bool)) (s : State) : Host.Outcome State Fault Refusal :=
  .next (
    if s.hasPort m p = false ∨ 3 ≤ st ∨ s.get m (eth F.ETH_LINK_STATE p) = st then s
    else
      let g := s.eport m p
      let mode := s.get m (eth F.ETH_CFG_MODE p)
      let s1 := ((s.put m (eth F.ETH_LINK_STATE p) st).put m (eth F.ETH_LINK_MODE p) (if st = 2 ∧ mode < 4 then mode else 0)).irq m (0x049 + p) 0
      if st = 2 then ((s1.setEport m p { g with dirs := dirs }).pauseAll s.active).portLook m p
      else
        let s2 := (s1.setEport m p { g with wire := none, paused := false, dirs := none }).put m (eth F.ETH_LINK_PAUSED p) 0
        let s3 := if st = 0 then s2.bump m (eth F.ETH_LINK_DOWN p) else s2
        if st = 0 ∧ s.bit m (eth F.ETH_PARTNER_LEARNED p) ∧ (s.session s.active (s.portCtx m p)).isOpen = false then
          s3.setPartner m p none false
        else s3)

/-! ## Rings (R584–R593) -/

/-- Ring `r` of mast `m`. -/
def State.ring (s : State) (m r : Nat) : Ring := Tbl.get (fun _ => Ring.reset) (s.mast m).rings r

/-- SIZE_LOG2 in effect (R599): 4 to 15, the nearest bound outside. -/
def RingCfg.size (c : RingCfg) : Nat := 2 ^ max 4 (min 15 c.sizeLog2)

/-- Whether a ring is pending (R589). -/
def Ring.isPending (x : Ring) : Bool :=
  let n := (sdiff 32 x.count x.ack).toNat
  decide (n ≠ 0) && (decide (max 1 x.cfg.coalCnt ≤ n) || x.late)

/-- The vectors of the pending rings of mast `m`. -/
def Mast.pendingVecs (M : Mast) : List Nat := ((M.rings.filter (fun e => e.2.isPending)).map (fun e => e.2.cfg.vec)).eraseDups

/-- Replace ring `r`; a vector that becomes pending sends its message (R564, R589). -/
def State.setRing (s : State) (m r : Nat) (x : Ring) : State :=
  let M := s.mast m
  let M1 := { M with rings := Tbl.set (fun _ => Ring.reset) M.rings r x }
  let s1 := s.setMast m { M1 with ringVecs := M1.pendingVecs }
  if s1.vecPending m x.cfg.vec ∧ s.vecPending m x.cfg.vec = false then s1.vecSend m x.cfg.vec else s1

/-- A TAIL write of ring `ring` (R585). -/
def State.accTail (s : State) (m r width ring value : Nat) : State :=
  s.action m 0x048 (0x1000 + 16 * ring) r true width 4 (fun t =>
    let x := t.ring m ring
    let d := sdiff 32 value x.head
    if d < 0 ∨ (x.cfg.size : Int) < d then ((t.setRing m ring { x with err := true }).irq m 0x048 1).bump m F.PCIE_RING_ERR
    else t.setRing m ring { x with tail := value % 2 ^ 32 })

/-- PCIE_TAIL_WRITE (R585). -/
def execPcieTailWrite (m width ring value : Nat) (s : State) : Host.Outcome State Fault Refusal :=
  .next (if ring < 64 then s.hostOn m 16 0x048 (0x1000 + 16 * ring) width value .empty (fun m t => t.accTail m 16 width ring value) else s)

/-- An ACK write of ring `ring` (R589): ahead of the count it counts as caught up. -/
def State.accAck (s : State) (m r width ring value : Nat) : State :=
  s.action m 0x048 (0x1008 + 16 * ring) r true width 4 (fun t =>
    let x := t.ring m ring
    t.setRing m ring { x with ack := if sdiff 32 x.count value < 0 then x.count else value % 2 ^ 32, late := false })

/-- PCIE_ACK_WRITE (R589). -/
def execPcieAckWrite (m width ring value : Nat) (s : State) : Host.Outcome State Fault Refusal :=
  .next (if ring < 64 then s.hostOn m 16 0x048 (0x1008 + 16 * ring) width value .empty (fun m t => t.accAck m 16 width ring value) else s)

/-- The TX ring whose turn it is (R587): the next after the last served that is enabled and has descriptors. -/
def State.txTurn (s : State) (m : Nat) : Option Nat :=
  let last := (s.mast m).ringTurn
  ((List.range 64).map (fun i => (last + 1 + i) % 64)).find? (fun r =>
    let x := s.ring m r
    x.cfg.en && !x.cfg.dir && decide (x.tail ≠ x.head))

/-- A frame of PORT 12 given to FROM_PARTNER: its descriptor; `i` is the sluice. -/
def State.hostDesc (s : State) (m c len user : Nat) : Desc :=
  { station := 0x08, prio := Config.portPrio % 16, flow := 0, cell := c, len := len, node := noNode, port := 12,
    flags := 3 + 4 * (user % 16), stamp := s.localNs m % 2 ^ 48 }

/-- Mast `m` takes one frame of TX ring `r` (R587): `len` and `user` of its descriptor, and the packet read. -/
def State.serveTx (s : State) (m r len user stamp : Nat) (k : Packet) : State :=
  let x := s.ring m r
  let s0 := s.setMast m { s.mast m with ringTurn := r }
  let next (t : State) : State := t.setRing m r { t.ring m r with head := (x.head + 1) % 2 ^ 32, waiting := false }
  if len = 0 ∨ 2047 < len then (next s0).bump m F.PCIE_TX_BAD
  else match s0.allocItem m 45 len (.packet k none) with
    | none =>
      if x.waiting then s0 else (s0.setRing m r { x with waiting := true }).bump m F.SALTERN_HOLD
    | some (c, s1) =>
      let d := { s1.hostDesc m c len user with stamp := stamp % 2 ^ 48 }
      let S := (s1.mast m).sal
      let s2 := ((s1.setSal m (S.setItem c { S.item c with desc := d, dest := some (32 + x.cfg.cls), frameLen := len })).bump m F.PCIE_TX_FRAMES)
      let s3 := s2.giveHw m (.ring r) d
      if (s3.mast m).hal.held.any (fun h => decide (h.giver = Giver.ring r)) then s3.setRing m r { s3.ring m r with waiting := false }
      else next s3

/-- TX_RING_SERVE (R587, R592): the active mast's endpoint reads one frame of the ring whose turn it is. -/
def execTxRingServe (m len user : Nat) (k : Packet) (s : State) : Host.Outcome State Fault Refusal :=
  .next (match s.txTurn m with
    | none => s
    | some r =>
      if m ≠ s.active ∨ (s.mast m).hal.held.any (fun h => decide (h.giver = Giver.ring r)) then s
      else match s.mirror m (.ringFrame r len user k) (s.localNs m) with
        | some t => t.serveTx m r len user (s.localNs m) k
        | none => s)

/-- The queue that feeds RX ring `r` next (R588): the mapped classes in descending order, then queue 64 + r. -/
def State.rxQueue (s : State) (m r : Nat) : Option Nat :=
  let ringOf (c : Nat) : Nat := s.get64 m F.PCIE_CLASS_RING_RING0 / 2 ^ (6 * c) % 64
  let S := (s.mast m).sal
  let qs := ([7, 6, 5, 4, 3, 2, 1, 0].filter (fun c => ringOf c == r)).map (fun c => 32 + c) ++ [64 + r]
  qs.find? (fun q => (S.queue q).heads != [] && !(S.queue q).broken)

/-- RX_RING_DELIVER (R588, R589, R592): mast `m` delivers one item to RX ring `r`, whose next buffer lies at `addr`.  The active mast
alone writes host memory; the jury keeps its own HEAD and completion count (R593). -/
def execRxRingDeliver (m r addr : Nat) (s : State) : Host.Outcome State Fault Refusal :=
  let x := s.ring m r
  .next (
    if s.fitted m = false ∨ 2 ≤ m ∨ 64 ≤ r ∨ x.cfg.en = false ∨ x.cfg.dir = false ∨ x.head = x.tail then s
    else match s.rxQueue m r with
      | none => s
      | some q => match s.dequeue m q with
        | none => s
        | some (c, s1) =>
          let it := (s1.mast m).sal.item c
          let d := it.desc
          let hi := d.len % 2048 + d.port % 16 * 2 ^ 11 + d.node % 2 ^ 20 * 2 ^ 15 + d.flags / 4 % 16 * 2 ^ 35 + x.count % 2 ^ 16 * 2 ^ 48
          let slot := x.cfg.base + 16 * (x.head % x.cfg.size) + 8
          let s2 := if m = s.active then (s1.emit (.dma m addr [] it.body)).emit (.dma m slot [hi % 2 ^ 32, hi / 2 ^ 32] .empty) else s1
          let s3 := (s2.output m 46 (r :: leBytes 8 hi)).setRing m r { x with head := (x.head + 1) % 2 ^ 32, count := (x.count + 1) % 2 ^ 32 }
          (s3.freeItem m c).bump m F.PCIE_RX_FRAMES)

/-- RING_COALESCE_TIMEOUT (R589): the oldest unacknowledged completion of ring `r` has waited COAL_US. -/
def execRingCoalesceTimeout (m r : Nat) (s : State) : Host.Outcome State Fault Refusal :=
  let x := s.ring m r
  .next (if s.fitted m ∧ m < 2 ∧ r < 64 ∧ x.count ≠ x.ack then s.setRing m r { x with late := true } else s)

/-- DMA of mast `m`'s endpoint stops (R590): EN of every ring is cleared. -/
def State.pcieDown (s : State) (m : Nat) : State :=
  let M := s.mast m
  let rs := M.rings.foldl (fun A e => Tbl.set (fun _ => Ring.reset) A e.1 { e.2 with cfg := { e.2.cfg with en := false }, waiting := false }) []
  (s.setMast m { M with rings := rs, dmaUnsent := [] }).irq m 0x048 0

/-- PCIE_LINK_DOWN (R590): link-down (0), hot reset (1), FLR (2), PERST_N (3) or clearing of Bus Master Enable (4).  A reset of the
function masks every MSI-X vector, as the capability does. -/
def execPcieLinkDown (m ev : Nat) (s : State) : Host.Outcome State Fault Refusal :=
  .next (
    if s.fitted m = false ∨ 2 ≤ m ∨ 5 ≤ ev then s
    else
      let s1 := (s.pcieDown m).bump m F.PCIE_LINK_DOWN
      let s2 := if ev = 0 ∨ ev = 3 then s1.put m F.PCIE_LINK_UP 0 else s1
      let s3 := s2.put m F.PCIE_LINK_BME 0
      if 1 ≤ ev ∧ ev ≤ 3 then
        (s3.setMast m { s3.mast m with msixMask := List.range 64, pba := [] }).put m F.PCIE_LINK_MSIX_EN 0
      else s3)

/-- MSIX_UNMASK (R589): vector `v` is unmasked; still pending, it sends the message its PBA bit holds. -/
def execMsixUnmask (m v : Nat) (s : State) : Host.Outcome State Fault Refusal :=
  let M := s.mast m
  .next (
    if s.fitted m = false ∨ 2 ≤ m ∨ 64 ≤ v ∨ M.msixMask.contains v = false then s
    else
      let s1 := s.setMast m { M with msixMask := M.msixMask.erase v, pba := M.pba.erase v }
      if M.pba.contains v ∧ s1.vecPending m v then s1.vecSend m v else s1)

end Sys2Proof.Machine
end

