-- ==== Sys2Proof/Machine/MacRx.lean ====
section
/-! DEFINITION. The receive stations of the mast: FRAME_UP, LANE_IN, DEDUP, CCM_OPEN, REPLAY and ACK_BUILD
(R118–R127, R245–R262, R265, R271, R338, R389). -/

namespace Sys2Proof.Machine

/-- The item that the engine of station `st` would take now (R345), not yet taken. -/
def State.enginePeek (s : State) (m st : Nat) : Option Desc := (s.engineTake m st).map Prod.fst

/-- What the cells of item `d` hold. -/
def State.bodyOf (s : State) (m : Nat) (d : Desc) : Body := ((s.mast m).sal.item d.cell).body

/-- An item for a station field that names a firmware station (R301, R304, R305): given there, or dropped at 0xFF and counted. -/
def State.toField (s : State) (m st field : Nat) (d : Desc) (lost : State → State) : State :=
  if field = 0xFF then lost (s.freeItem m d.cell) else s.engineTo m st field d

/-! ## FRAME_UP and LANE_IN (R118, R246, R338) -/

/-- STAMP of a reception (R338): mast LOCAL time of its reference point. -/
def State.rxStamp (s : State) (m : Nat) (md : Meta) : Nat :=
  ((s.posNs m (s.pos m (nearAsn (s.mast m).asn md.asnLo) md.tsOff)) % 2 ^ 48).toNat

/-- The mast writes the cells of a FRAME_UP message and forms its item for LANE_IN (R118); none while account 40 or the station
refuses it (R325, R348). -/
def State.frameUp (s : State) (m k : Nat) (md : Meta) (f : Frame) (stamp : Nat) : Option State :=
  if s.depthOf m 0 ≠ 0 ∧ s.depthOf m 0 ≤ (s.mast m).hal.countAt 0 then none
  else match s.allocItem m 40 (f.len + 16) (.up md k f) with
    | none => none
    | some (c, t) =>
      let d : Desc := { station := 0, prio := Config.portPrio % 16, flow := 0, cell := c, len := f.len % 2048, node := noNode, port := k,
                        flags := 2, stamp := stamp }
      some (((t.setItemBody m c d (.up md k f)).giveHw m (.engine 0) d).engineAdmitted m (256 + k))

/-- FRAME_UP (R118, R467): the whole message of sail `k` reaches mast `m`.  While it is refused its packets stay on the link, and the
start of the hold is counted. -/
def execFrameUp (m k lane seq : Nat) (md : Meta) (f : Frame) (hdr : List LinkPkt) (s : State) : Host.Outcome State Fault Refusal :=
  .next (
    if s.hasSail k = false ∨ s.fitted m = false ∨ m ≠ s.active then s
    else
      let r := s.receive (connId m k) true 0x01 hdr
      if r.1 = false then r.2
      else
        let stamp := s.rxStamp m md
        match r.2.mirror m (.frameUp k lane seq md f) stamp with
        | none => s
        | some t => match t.frameUp m k md f stamp with
          | some u => u
          | none => s.engineWaits m (256 + k))

/-- Whether a beacon's source is an enabled peer (R245, R271): its number. -/
def State.peerOf (s : State) (m : Nat) (a : Addr) : Option Nat :=
  match a with
  | .ext e => (List.range 4).find? (fun p => s.bit m (F.MAC_PEER_EN.at 16 p) && s.get64 m (F.MAC_PEER_EUI.at 16 p) == e)
  | _ => none

/-- Whether a frame's destination address is one of the device's own (R246, R258). -/
def State.ownDst (s : State) (m : Nat) (a : Addr) : Bool :=
  match a with
  | .short x => x == s.get m F.MAC_OWN_ID_SHORT
  | .ext e => e == s.get64 m F.MAC_OWN_EUI_EUI
  | .none => false

/-- The counter of the first check of R246 that a copy fails. -/
def State.laneInCheck (s : State) (m : Nat) (f : Frame) : Option Fld :=
  let typeOk := f.version == 2 && (f.ftype == 1 || f.ftype == 2 || f.ftype == 3 || (f.ftype == 0 && s.peerOf m f.src != none))
  let panOk := match f.dstPan with
    | some p => p == s.get m F.MAC_OWN_ID_PAN_ID || p == 0xFFFF
    | none => true
  if f.fcsOk = false then some F.MAC_FCS_FAIL
  else if typeOk = false then some F.MAC_FRAME_UNSUP
  else if panOk = false then some F.MAC_ADDR_MISS
  else if s.ownDst m f.dst = false ∧ f.dst ≠ .short 0xFFFF then some F.MAC_ADDR_MISS
  else if f.secLevel = 4 ∨ 7 < f.secLevel ∨ (f.secLevel ≠ 0 ∧ 1 < f.keyMode) then some F.MAC_SEC_UNSUP
  else none

/-- LANE_IN (R246, R289, R338): the next copy is checked; its descriptor names its node and its flow. -/
def execLaneIn (m : Nat) (s : State) : Host.Outcome State Fault Refusal :=
  .next (match s.engineTake m 0 with
    | none => s.engineIdle m 0
    | some (d, t) => match t.bodyOf m d with
      | .up md k f => match t.laneInCheck m f with
        | some c => (t.freeItem m d.cell).bump m c
        | none =>
          let r := t.lookupAddr m f.src
          let n := r.1.getD noNode
          let d1 := { d with flow := n % 1024, node := n, port := k, flags := if n = noNode then 2 else 0 }
          (r.2.setItemBody m d.cell d1 (.up md k f)).engineNext m 0 d1
      | _ => t.engineNext m 0 d)

/-! ## DEDUP (R123–R127) -/

/-- The counter part of a frame's DEDUP key (R123). -/
def dedupCtr (f : Frame) : Nat := if f.secLevel ≠ 0 then f.fc else f.seqNo * 2 ^ 32 + crc32c (psduBytes f)

/-- `lq` of R125. -/
def Copy.lq (c : Copy) : Nat := c.md.snr - c.md.corr

/-- Replace the group of its id. -/
def Mac.setGroup (M : Mac) (g : Group) : Mac := { M with groups := M.groups.map (fun x => if x.id = g.id then g else x) }

/-- Group `i`. -/
def Mac.group (M : Mac) (i : Nat) : Option Group := M.groups.find? (fun g => g.id == i)

/-- The newest group whose copy with head cell `c` was passed on. -/
def Mac.groupOf (M : Mac) (c : Nat) : Option Group := M.groups.reverse.find? (fun g => g.kept == some c)

/-- Free the copies of a group, but for the one passed on; answers how many. -/
def State.freeCopies (s : State) (m : Nat) (g : Group) : Nat × State :=
  let held := g.copies.filter (fun c => g.kept != some c.cell)
  (held.length, held.foldl (fun t c => t.freeItem m c.cell) s)

/-- Note what DEDUP passes on with the frame of head cell `c` (R126, R127). -/
def State.notePassed (s : State) (m c : Nat) (x : Passed) : State :=
  let M := (s.mast m).mac
  s.setMac m { M with passed := Tbl.set (fun _ => Passed.none) M.passed c x }

/-- What DEDUP passed on with the frame of head cell `c`. -/
def State.passedOf (s : State) (m c : Nat) : Passed := Tbl.get (fun _ => Passed.none) (s.mast m).mac.passed c

/-- Retire a group (R124): the copies that it still holds are freed. -/
def State.retireGroup (s : State) (m : Nat) (g : Group) : State :=
  let t := if g.decided ∨ g.failedAll then s else (s.freeCopies m g).2
  let M := (t.mast m).mac
  t.setMac m { M with groups := M.groups.filter (fun x => x.id != g.id) }

/-- E of a copy (R125): the end of its frame, from its time-stamp and the duration from its PHR. -/
def State.endOf (s : State) (m k : Nat) (md : Meta) : Int :=
  let pre := s.preamble (copyDie m k) md.pers
  s.pos m (nearAsn (s.mast m).asn md.asnLo) md.tsOff - (s.refUnits k md.pers 0 : Nat)
    + 400 * (airTime md.pers (s.profile (copyDie m k) md.profile) md.profile md.fec md.len pre : Nat)

/-- DEDUP takes copy `d` (R123–R125). -/
def State.dedup (s : State) (m : Nat) (d : Desc) (md : Meta) (k : Nat) (f : Frame) : State :=
  let M := (s.mast m).mac
  let asn := (s.mast m).asn
  let at_ := s.pos m (nearAsn asn md.asnLo) md.tsOff
  let cp : Copy := ⟨d.cell, k, md, f, false⟩
  let same (g : Group) : Bool := decide (sdiff 40 asn g.due < 0) && decide (g.src = f.src) && g.ctr == dedupCtr f
    && g.secured == (f.secLevel != 0) && decide ((at_ - g.at_).natAbs ≤ 8000)
  match M.groups.reverse.find? same with
  | some g =>
    let s1 := if g.closed then s.bump m F.MAC_DEDUP_LATE else s
    if g.decided ∨ g.failedAll then s1.freeItem m d.cell
    else s1.setMac m (M.setGroup { g with copies := g.copies ++ [cp] })
  | none =>
    let s1 := match M.groups with
      | old :: _ => if 65536 ≤ M.groups.length then (s.retireGroup m old).bump m F.MAC_DEDUP_EVICT else s
      | [] => s
    let M1 := (s1.mast m).mac
    let g : Group := { id := M1.nextGroup, src := f.src, ctr := dedupCtr f, secured := f.secLevel != 0, at_ := at_, endAt := s.endOf m k md,
                       copies := [cp], closed := false, kept := none, verified := none, failedAll := false, decided := false,
                       ackSail := none, heard := k, due := (asn + 2) % 2 ^ 40 }
    s1.setMac m { M1 with groups := M1.groups ++ [g], nextGroup := M1.nextGroup + 1 }

/-- DEDUP (R123): the next copy joins its group or opens one. -/
def execDedup (m : Nat) (s : State) : Host.Outcome State Fault Refusal :=
  .next (match s.engineTake m 1 with
    | none => s.engineIdle m 1
    | some (d, t) => match t.bodyOf m d with
      | .up md k f => (t.setItemBody m d.cell d (.up md k f)).dedup m d md k f
      | _ => t.engineNext m 1 d)

/-- Whether copy `a` comes before `b` in close order (R125); of two equal ones the earlier arrival stays first. -/
def copyBefore (port : Nat) (a b : Copy) : Bool :=
  if a.lq ≠ b.lq then b.lq < a.lq
  else if (a.sail = port) ≠ (b.sail = port) then a.sail == port
  else decide (a.sail < b.sail)

/-- Insert a later arrival in close order. -/
def insertCopy (port : Nat) (c : Copy) : List Copy → List Copy
  | [] => [c]
  | x :: xs => if copyBefore port c x then c :: x :: xs else x :: insertCopy port c xs

/-- The node that copy `c` names, as LANE_IN found it. -/
def State.copyNode (s : State) (m : Nat) (c : Copy) : Nat := ((s.mast m).sal.item c.cell).desc.node

/-- The port of a node's record (R125); none without a record. -/
def State.portOf (s : State) (m n : Nat) : Nat := if n = noNode then 15 else ((s.mast m).node n).ident.port

/-- DEDUP passes copy `c` of group `g` on: the first to its NEXT, another to CCM_OPEN (R125, R341). -/
def State.sendCopy (s : State) (m : Nat) (g : Group) (c : Copy) (retry : Bool) : State :=
  let s1 := (s.setMac m ((s.mast m).mac.setGroup { g with kept := some c.cell })).notePassed m c.cell Passed.none
  let d := ((s.mast m).sal.item c.cell).desc
  if retry then s1.engineTo m 1 2 d else s1.engineNext m 1 d

/-- DEDUP_GROUP_CLOSE (R125): group `g` closes at E + 250 µs. -/
def execDedupGroupClose (m g : Nat) (s : State) : Host.Outcome State Fault Refusal :=
  .next (match (s.mast m).mac.group g with
    | none => s
    | some G =>
      if G.closed then s
      else
        let port := s.portOf m ((G.copies.head?.map (s.copyNode m)).getD noNode)
        let order := G.copies.foldl (fun l c => insertCopy port c l) []
        match order with
        | [] => s
        | c :: _ => s.sendCopy m { G with closed := true, copies := order } c false)

/-- DEDUP_GROUP_RETIRE (R124): at the tick that closes the slot after the one in which its first copy arrived. -/
def execDedupGroupRetire (m g : Nat) (s : State) : Host.Outcome State Fault Refusal :=
  .next (match (s.mast m).mac.group g with
    | none => s
    | some G => if 0 ≤ sdiff 40 (s.mast m).asn G.due then s.retireGroup m G else s)

/-- Whether copy `c` is valid (R125). -/
def Group.valid (g : Group) (c : Copy) : Bool := if g.secured then g.verified == some c.frame else true

/-- Whether a frame asks the device for an ACK that R258 can owe it: the AR bit, and an own destination address. -/
def State.asksAck (s : State) (m : Nat) (f : Frame) : Bool := f.ackReq && s.ownDst m f.dst

/-- ACK_SENDER_CHOICE (R125–R127): group `g` is decided at E + 400 µs.  The frame passed on takes heard_port with it; without a pass of CCM_OPEN
the ACK that it asks for is late. -/
def execAckSenderChoice (m g : Nat) (s : State) : Host.Outcome State Fault Refusal :=
  .next (match (s.mast m).mac.group g with
    | none => s
    | some G =>
      if G.closed = false ∨ G.decided ∨ G.failedAll then s
      else
        let keptCopy := G.copies.find? (fun c => G.kept == some c.cell)
        let port := s.portOf m ((keptCopy.map (s.copyNode m)).getD noNode)
        let vs := G.copies.filter G.valid
        let onPort := vs.any (fun c => c.sail == port)
        let sender := if onPort then some port else (vs.head?).map (fun c => c.sail)
        let heard := if onPort then port else (keptCopy.map (fun c => c.sail)).getD G.heard
        let late := G.secured && G.verified.isNone && (keptCopy.map (fun c => s.asksAck m c.frame)).getD false
        let r := s.freeCopies m G
        let G1 := { G with decided := true, ackSail := sender, heard := heard, copies := G.copies.filter (fun c => G.kept == some c.cell) }
        let s1 := (r.2.setMac m ((r.2.mast m).mac.setGroup G1)).count m F.MAC_DEDUP_COPIES r.1
        let s2 := if late then s1.bump m F.MAC_ACK_LATE else s1
        match G.kept with
        | some c => s2.notePassed m c ⟨some heard, late⟩
        | none => s2)

/-! ## CCM_OPEN (R247, R271, R389, R425, R426) -/

/-- A frame of node `n` verified and decrypted (R247), by the node's key or a group key, never without a node record: none when it fails. -/
def State.ccmOpen (s : State) (m n : Nat) (f : Frame) : Option Frame × State :=
  if f.secLevel = 0 then (some f, s)
  else if n = noNode then (none, s)
  else
    let r := if f.keyMode = 0 then s.nodeKey m n else s.groupKey m f.keyIndex .dec
    match r.1 with
    | none => (none, r.2)
    | some k => (f.openWith k ((s.mast m).node n).ident.eui, r.2)

/-- A copy fails in CCM_OPEN (R125): the next copy that differs from every failed one is tried; without one the group fails, and its copies are
freed.  A copy that fails before the decision stays with its group until then. -/
def State.copyFailed (s : State) (m : Nat) (d : Desc) : State :=
  match (s.mast m).mac.groupOf d.cell with
  | none => s.freeItem m d.cell
  | some G =>
    let cs := G.copies.map (fun c => if c.cell = d.cell then { c with failed := true } else c)
    let bad := (cs.filter (fun c => c.failed)).map (fun c => c.frame)
    match cs.find? (fun c => !c.failed && !bad.contains c.frame) with
    | some c => (s.bump m F.MAC_DEDUP_RETRY).sendCopy m { G with copies := cs } c true
    | none =>
      let G1 := { G with copies := cs, kept := none, failedAll := true }
      let r := s.freeCopies m G1
      r.2.setMac m ((r.2.mast m).mac.setGroup { G1 with copies := [] })

/-- A peer beacon that passed CCM_OPEN (R271, R389): accepted in its slot from a source that is not dropped. -/
def State.peerBeacon (s : State) (m : Nat) (md : Meta) (k : Nat) (f : Frame) : State :=
  match s.peerOf m f.src with
  | none => s
  | some p =>
    let a := nearAsn (s.mast m).asn md.asnLo
    if s.get m (F.MAC_PEER_PERIOD.at 16 p) = 0 ∨ a % s.get m (F.MAC_PEER_PERIOD.at 16 p) ≠ s.get m (F.MAC_PEER_PHASE.at 16 p)
        ∨ (s.get m F.MAC_PEER_STATE_DROPPED).testBit p then s
    else
      let M := (s.mast m).mac
      let s1 := s.setMac m { M with peerSeen := Tbl.set (fun _ => false) M.peerSeen p true, peerRun := Tbl.set (fun _ => 0) M.peerRun p 0 }
      if s.get m (dc F.TIME_D_SRC_SRC 1) ≠ 3 then s1
      else
        let S : Int := s.slotNs m
        let o := ((md.tsOff : Int) - 400 * s.tsTx m - s.refUnits k md.pers 0) * 5 / 2 - s.getS m (F.TIME_PEER_CORR_NS.at 4 p)
        let o1 := (o + S / 2) % S - S / 2
        s1.servo m 1 (match f.tsync with
          | some b => sdiff 40 a b * S + o1
          | none => o1)

/-- CCM_OPEN (R247): the next copy is verified, and its cells hold the opened frame, or it fails. -/
def execCcmOpen (m : Nat) (s : State) : Host.Outcome State Fault Refusal :=
  .next (match s.engineTake m 2 with
    | none => s.engineIdle m 2
    | some (d, t) => match t.bodyOf m d with
      | .up md k f =>
        let r := t.ccmOpen m d.node f
        match r.1 with
        | none => r.2.copyFailed m d
        | some g =>
          let M := (r.2.mast m).mac
          let t1 := match M.groupOf d.cell with
            | some G => r.2.setMac m (M.setGroup { G with verified := some f })
            | none => r.2
          if g.ftype = 0 then (t1.peerBeacon m md k g).freeItem m d.cell
          else (t1.setItemBody m d.cell d (.up md k g)).engineNext m 2 d
      | _ => t.engineNext m 2 d)

/-! ## REPLAY (R253, R255–R260, R262) -/

/-- The timing error of a copy (R257). -/
structure Timing where
  a : Nat
  aInt : Nat
  delta : Int
  tc : Int
  clamped : Bool
deriving DecidableEq, Repr

/-- The timing error of a copy on sail `k` of a node whose NODE_PRE is `pre` (R257); `delta` in 2.5 ns units. -/
def State.timing (s : State) (m k pre : Nat) (md : Meta) : Timing :=
  let a := nearAsn (s.mast m).asn md.asnLo
  let S : Int := s.slotUnits m
  let d0 := (400 * s.tsTx m + s.refUnits k md.pers pre : Nat) - (md.tsOff : Int)
  let r : Int × Nat := if d0 < -(S / 2) then (d0 + S, (a + 1) % 2 ^ 40) else if S / 2 ≤ d0 then (d0 - S, (a + 2 ^ 40 - 1) % 2 ^ 40) else (d0, a)
  let us := (r.1 + 200) / 400
  let tc := max (-2047) (min 2047 us)
  { a := a, aInt := r.2, delta := r.1, tc := tc, clamped := tc != us }

/-- DRIFT of a link after an uplink (R260). -/
def State.driftOf (s : State) (m : Nat) (l : Link) (t : Timing) : Int :=
  let el := sdiff 40 t.aInt l.lastSync * slotUs (s.mast m).slotSel
  if l.syncValid = false ∨ l.tcClamped ∨ el ≤ 0 ∨ el < 1000000 * s.get m F.MAC_DRIFT_CFG_MIN_EL then l.drift
  else
    let d := Int.tdiv (t.delta * 2500000) el
    max (-524288) (min 524287 (l.drift + Int.tdiv (d - l.drift) (2 ^ s.get m F.MAC_DRIFT_CFG_SHIFT : Nat)))

/-- The entry hop(link, k) of event `ev`, where the link has events and its map entries (R254). -/
def Mac.hopEntry (M : Mac) (l : Link) (ev : Nat) : Option Nat :=
  if l.period = 0 ∨ (M.map l.map).len = 0 then none else some (M.hop l ev)

/-- The channel test of an accepted uplink of node `n` (R256): counted when the event's channel does not match. -/
def State.channelTest (s : State) (m k : Nat) (l : Link) (ev : Nat) (md : Meta) : State :=
  let M := (s.mast m).mac
  if (M.hopEntry l ev).any (fun i => s.matches k (M.chan i) md) then s
  else
    let map := M.map l.map
    if (List.range map.len).any (fun i => s.matches k (M.chan (Tbl.get (fun _ => 0) map.entries i)) md) then s.bump m F.MAC_CH_OTHER
    else s.bump m F.MAC_CH_FOREIGN

/-- Node `n` is found again (R255). -/
def State.nodeFound (s : State) (m n : Nat) : State := ((s.bump m F.MAC_NODE_FOUND).irq m 0x020 2).event m .nodeFound n []

/-- An accepted uplink of node `n` (R253, R255, R260). -/
def State.uplinkAccepted (s : State) (m n k : Nat) (md : Meta) : State :=
  let l := ((s.mast m).node n).link
  let t := s.timing m k l.nodePre md
  let ev := l.eventAt t.aInt
  let l1 := { l with drift := s.driftOf m l t, lastHeard := t.a, cfo := md.cfo }
  let l2 := if l.period = 0 then l1 else { l1 with event := ev.1, anchor := ev.2 }
  let l3 := if l.state = 0 then l2 else { l2 with state := 1, miss := 0 }
  let s1 := (s.setLink m n l3).channelTest m k l ev.1 md
  if l.state = 3 then s1.nodeFound m n else s1

/-- An enhanced ACK of node `n` that REPLAY accepted (R262): it answers the downlink of its sequence number inside the answer
interval; later ones are counted. -/
def State.downlinkAnswer (s : State) (m n : Nat) (seqNo : Nat) (p : Int) : State :=
  let M := (s.mast m).mac
  match M.waits.find? (fun w => w.node == n && w.seqNo == seqNo) with
  | none => s
  | some w =>
    let last := w.endAt + 400 * (s.ackDelay m + s.get m F.MAC_ACK_CFG_ACK_WAIT : Nat)
    if w.judged ∨ last < p then s.bump m F.MAC_DL_ACK_LATE
    else if p < w.endAt then s
    else s.setMac m { M with waits := M.waits.map (fun x => if x = w then { x with answered := true, heard := (s.slotAt m p).1 } else x) }

/-- Whether an ACK is owed for a frame that REPLAY accepted or found DUP (R258). -/
def State.ackIsOwed (s : State) (m : Nat) (f : Frame) : Bool :=
  s.asksAck m f && (f.secLevel != 0 || s.bit m F.MAC_SEC_CFG_UNSEC_ACK)

/-- REPLAY on item `d` (R259). -/
def State.replayItem (s : State) (m : Nat) (d : Desc) (md : Meta) (k : Nat) (f : Frame) : State :=
  let n := d.node
  let owed := s.ackIsOwed m f
  let mark (t : State) (dup : Bool) : State :=
    let M := (t.mast m).mac
    t.setMac m { M with ackOwed := if owed then M.ackOwed.insert d.cell else M.ackOwed.erase d.cell,
                        dups := if dup then M.dups.insert d.cell else M.dups.erase d.cell }
  if n = noNode then (mark s false).engineNext m 3 d
  else
    let l := ((s.mast m).node n).link
    if f.secLevel ≠ 0 ∧ f.fc < l.rxFc then (s.bump m F.MAC_REPLAY_OLD).freeItem m d.cell
    else if f.secLevel ≠ 0 ∧ f.fc = l.rxFc then
      let s1 := (s.setLink m n { l with syncValid := false }).bump m F.MAC_REPLAY_DUP
      if f.ftype = 2 ∨ owed = false then s1.freeItem m d.cell else (mark s1 true).engineNext m 3 d
    else
      let s1 := if f.secLevel ≠ 0 then s.setLink m n { l with rxFc := f.fc } else s
      if f.ftype = 2 then
        (s1.downlinkAnswer m n f.seqNo (s.pos m (nearAsn (s.mast m).asn md.asnLo) md.tsOff)).freeItem m d.cell
      else (mark (s1.uplinkAccepted m n k md) false).engineNext m 3 d

/-- REPLAY (R259). -/
def execReplay (m : Nat) (s : State) : Host.Outcome State Fault Refusal :=
  .next (match s.engineTake m 3 with
    | none => s.engineIdle m 3
    | some (d, t) => match t.bodyOf m d with
      | .up md k f => t.replayItem m d md k f
      | _ => t.engineNext m 3 d)

/-! ## ACK_BUILD (R256–R258, R265) -/

/-- The channel-list index of a copy (R256): the event's channel when it matches, else the first entry in use that does. -/
def State.copyChannel (s : State) (m k : Nat) (l : Link) (ev : Nat) (md : Meta) : Option Nat :=
  let M := (s.mast m).mac
  match (M.hopEntry l ev).filter (fun i => s.matches k (M.chan i) md) with
  | some i => some i
  | none => (List.find? (fun (e : Nat × Channel) => e.2.valid && s.matches k e.2 md) M.chans).map Prod.fst

/-- The enhanced ACK to frame `f` (R258), sealed with counter `fc` and the node's key when `f` is secured. -/
def State.ackFrame (s : State) (m : Nat) (f : Frame) (tc : Int) (fc : Nat) (sealKey : Option (List Nat)) : Frame :=
  let a0 : Frame := { ftype := 2, version := 2, fcsOk := true, fcs4 := f.fcs4, seqNo := f.seqNo, ackReq := false,
                      dstPan := some (s.get m F.MAC_OWN_ID_PAN_ID), dst := f.src, src := .none, secLevel := f.secLevel, keyMode := 0, keyIndex := 0,
                      fc := fc, tsync := none, tcIe := some tc, vendor := [], payload := [], len := 0, mic := 0 }
  match sealKey with
  | some k => s.sealFrame m k fc a0.sized
  | none => a0.sized

/-- The launch of an ACK to item `d` from sail `j` (R55, R58, R258): its position, channel, rate and power.  To a source without a
record, rate, FEC and power are free values (log entry 2). -/
def State.ackLaunch (s : State) (m j : Nat) (G : Group) (d : Desc) (k : Nat) (md : Meta) (t : Timing) (ack : Frame) (cell : Nat) : Launch × State :=
  let l := ((s.mast m).node d.node).link
  let M := (s.mast m).mac
  let ch := s.copyChannel m k l (l.eventAt t.aInt).1 md
  let p := G.endAt + 400 * (s.ackDelay m : Nat)
  let at_ := s.slotAt m p
  let u := s.free
  let known := d.node ≠ noNode
  let rate := if known then l.dnProf else u.1 % 256
  let fec := if known then l.dnFec else u.1 / 256 % 3
  ({ handle := M.nextHandle, kind := .ack, sail := j, carrier := 0, placed := false, asn := at_.1, start := at_.2, at_ := p,
     softNs := 0, left := false, node := d.node, cell := cell,
     frame := ack, channel := ch.getD 1024, freq := (ch.map (fun i => (M.chan i).freq)).getD (s.copyFreq k md), pers := md.pers, rate := rate,
     fec := fec, power := if known then l.txPower else signed 8 (u.1 / 65536), pout := 0, prio := 0,
     airUs := s.airOn m j md.pers rate fec ack.len (s.preamble (copyDie m j) md.pers), charged := false, bucket := 0, stage := 0, aInt := t.aInt,
     tc := t.tc, tcClamped := t.clamped }, if known then s else u.2)

/-- ACK_BUILD has finished with item `d`: a DUP is dropped, any other goes on (R259, R340). -/
def State.ackPassed (s : State) (m : Nat) (d : Desc) : State :=
  let M := (s.mast m).mac
  let s1 := s.setMac m { M with ackOwed := M.ackOwed.erase d.cell, dups := M.dups.erase d.cell }
  if M.dups.contains d.cell then s1.freeItem m d.cell else s1.engineNext m 15 d

/-- The ACK of item `d` is built, sealed and given to MAC_LAUNCH (R258, R265, R341); none while account 48 or the counter
reservation holds the station.  One that is deferred for FC_WAIT misses its cut-off (DESIGN CHOICE, log entry 169). -/
def State.buildAck (s : State) (m j : Nat) (G : Group) (d : Desc) (k : Nat) (md : Meta) (f : Frame) (t : Timing) : Option State :=
  let n := d.node
  let link := ((s.mast m).node n).link
  let finish (u : State) (ack : Frame) : Option State :=
    match u.allocItem m 48 ack.len (.down ack) with
    | none => none
    | some (c, v) =>
      let r := v.ackLaunch m j G d k md t ack c
      let v1 := r.2.addLaunch m r.1
      let dd : Desc := { d with cell := c, len := ack.len, port := j, flags := 3, prio := 0 }
      some ((v1.setItemBody m c dd (.down ack)).engineTo m 15 14 dd)
  if f.secLevel = 0 then finish s (s.ackFrame m f t.tc 0 none)
  else
    let key := s.nodeKey m n
    match key.1 with
    | none => some key.2
    | some kk => match key.2.fcNext m link.dnFc with
      | .exhausted => some (key.2.fcExhausted m n)
      | .deferred => some ((key.2.fcReserve m).bump m F.MAC_ACK_LATE)
      | .wait => none
      | .value v => finish ((key.2.setLink m n { link with dnFc := v }).fcTaken m v) (s.ackFrame m f t.tc v (some kk))

/-- ACK_BUILD on item `d`, whose ACK sender is chosen (R257, R258, R127): without one the ACK is counted late, once. -/
def State.ackItem (s : State) (m : Nat) (G : Option Group) (d : Desc) (md : Meta) (k : Nat) (f : Frame) : Option State :=
  let pre := if d.node = noNode then 0 else ((s.mast m).node d.node).link.nodePre
  let t := s.timing m k pre md
  let s1 := if t.clamped then s.bump m F.MAC_TC_CLAMP else s
  if (s.mast m).mac.ackOwed.contains d.cell = false then some (s1.ackPassed m d)
  else match G.bind (fun g => g.ackSail.map (fun j => (g, j))) with
    | some (g, j) => (s1.buildAck m j g d k md f t).map (fun u => u.ackPassed m d)
    | none => some ((if (s.passedOf m d.cell).late then s1 else s1.bump m F.MAC_ACK_LATE).ackPassed m d)

/-- ACK_BUILD (R257): it waits for the choice of the ACK sender, for account 48 and for a counter reservation. -/
def execAckBuild (m : Nat) (s : State) : Host.Outcome State Fault Refusal :=
  .next (match s.engineTake m 15 with
    | none => s.engineIdle m 15
    | some (d, t) => match t.bodyOf m d with
      | .up md k f =>
        let G := (s.mast m).mac.groupOf d.cell
        if (G.map (fun g => g.decided)).getD true = false then s
        else match t.ackItem m G d md k f with
          | some u => u.engineAdmitted m 15
          | none => s.engineRefused m 15
      | _ => t.engineNext m 15 d)

/-- ACK_CUTOFF (R56): the ACK of handle `h` has not reached the sail at its cut-off: it is not sent, and is counted.  Its cells are freed from
its launch queue at once, or when MAC_LAUNCH takes it; the sail itself refuses one that has reached it (R212). -/
def execAckCutoff (m h : Nat) (s : State) : Host.Outcome State Fault Refusal :=
  .next (match (s.mast m).mac.launch h with
    | none => s
    | some l =>
      if l.kind ≠ .ack ∨ 2 ≤ l.stage then s
      else
        let s1 := (s.resolve m l 0).bump m F.MAC_ACK_LATE
        if l.stage = 1 then s1.dropQueued m l else s1)

end Sys2Proof.Machine
end

