-- ==== Sys2Proof/Machine/MacPath.lean ====
section
/-! DEFINITION. The stations between the MAC and the partners: HC_EXPAND, NODE_LEARN, SLUICE_UP, CLASSIFY, TO_PARTNER, FROM_PARTNER,
ROUTE_WALK, HC_COMPRESS, CCM_SEAL and LINK_QUEUE (R27, R28, R265, R297–R305, R319, R373, R375). -/

namespace Sys2Proof.Machine

/-- ADVICE_RECEIVED (R165, R467): an ADVICE report of sail `k` reaches mast `m`. -/
def execAdviceReceived (m k : Nat) (bytes : List Nat) (hdr : List LinkPkt) (s : State) : Host.Outcome State Fault Refusal :=
  .next (
    if s.hasSail k = false ∨ s.fitted m = false ∨ m ≠ s.active then s
    else
      let r := s.receive (connId m k) true 0x0A hdr
      if r.1 = false then r.2
      else match r.2.mirror m (.advice k bytes) 0 with
        | some t => t.advice m k bytes
        | none => s)

/-! ## HC_EXPAND (R304) -/

/-- Whether context `c` is valid (R310). -/
def State.ctxValid (s : State) (m c : Nat) : Bool := s.bit m (F.COMP_CTX_VALID.at 16 c)

/-- Prefix of context `c`. -/
def State.ctxPrefix (s : State) (m c : Nat) : Nat := s.get64 m (F.COMP_CTX_PREFIX.at 16 c)

/-- The contexts of expansion (R304, R310). -/
def State.contexts (s : State) (m : Nat) : Contexts := fun c => if c < 16 ∧ s.ctxValid m c then some (s.ctxPrefix m c) else none

/-- HC_EXPAND on item `d` (R304): MAC commands and frames without payload pass unchanged. -/
def State.expand (s0 s : State) (m : Nat) (d : Desc) (md : Meta) (k : Nat) (f : Frame) : State :=
  if f.ftype = 3 ∨ f.payload = [] then s.engineNext m 4 d
  else match expandLowpan (s.contexts m) (s.bit m F.COMP_CFG_CSUM_ELIDE_RX) f.src f.dst f.payload with
    | .unsupported => (s.toField m 4 (s.get m F.COMP_CFG_RAW_STATION) d id).bump m F.COMP_UNSUP_DISPATCH
    | .badCtx => (s.freeItem m d.cell).bump m F.COMP_BAD_CTX
    | .csumFail => (s.freeItem m d.cell).bump m F.COMP_CSUM_FAIL
    | .packet p =>
      let d1 := { d with len := packetLen p % 2048 }
      match s.resizeItem m d.cell d1.len with
      | none => s0.engineRefused m 4
      | some t => (((t.setItemBody m d.cell d1 (.packet p (some (md, k, f)))).bump m F.COMP_EXPANDED).engineAdmitted m 4).engineNext m 4 d1

/-- HC_EXPAND (R304). -/
def execHcExpand (m : Nat) (s : State) : Host.Outcome State Fault Refusal :=
  .next (match s.engineTake m 4 with
    | none => s.engineIdle m 4
    | some (d, t) => match t.bodyOf m d with
      | .up md k f => s.expand t m d md k f
      | _ => t.engineNext m 4 d)

/-! ## NODE_LEARN and SLUICE_UP (R297, R372, R375) -/

/-- The reception that an uplink item came from: metadata, sail and frame. -/
def Body.reception : Body → Option (Meta × Nat × Frame)
  | .up m k f => some (m, k, f)
  | .packet _ u => u
  | _ => none

/-- NODE_LEARN (R297): the node is refreshed with the port on which DEDUP heard it (R126). -/
def execNodeLearn (m : Nat) (s : State) : Host.Outcome State Fault Refusal :=
  .next (match s.engineTake m 5 with
    | none => s.engineIdle m 5
    | some (d, t) => match (t.bodyOf m d).reception with
      | some (_, k, f) =>
        ((t.learn m d.node ((t.passedOf m d.cell).heard.getD k) f.src).notePassed m d.cell Passed.none).engineNext m 5 d
      | none => t.engineNext m 5 d)

/-- SLUICE_UP (R372, R375): an uplink that its sluice does not pass is freed. -/
def execSluiceUp (m : Nat) (s : State) : Host.Outcome State Fault Refusal :=
  .next (match s.engineTake m 6 with
    | none => s.engineIdle m 6
    | some (d, t) =>
      let r := match (t.bodyOf m d).reception with
        | some (md, _, f) => if d.node = noNode then t.sluice m 40 f.len d.stamp
                             else t.nodeSluice m d.node (nearAsn (t.mast m).asn md.asnLo) f.len
        | none => if d.node = noNode then t.sluice m 40 d.len d.stamp else t.nodeSluice m d.node (t.mast m).asn d.len
      if r.1 then r.2.engineNext m 6 d else r.2.freeItem m d.cell)

/-! ## CLASSIFY (R300, R301) -/

/-- Whether a prefix is a mesh prefix (R300). -/
def State.meshPrefix (s : State) (m p : Nat) : Bool :=
  (List.range 16).any (fun c => s.ctxValid m c && s.bit m (F.COMP_CTX_MESH.at 16 c) && s.ctxPrefix m c == p)

/-- The interface identifier of an EUI-64 (R300): bit 1 of its first byte inverted. -/
def iidOf (eui : Nat) : Nat := eui ^^^ 2 ^ 57

/-- Whether an address is the device's own (R300). -/
def State.ownAddr (s : State) (m : Nat) (a : Ip6) : Bool :=
  a.iid == iidOf (s.get64 m F.MAC_OWN_EUI_EUI) && (a.pfx == 0xFE80000000000000 || s.meshPrefix m a.pfx)

/-- The node of an interface identifier (R289, R300). -/
def State.lookupIid (s : State) (m iid : Nat) : Option Nat × State :=
  if iid / 2 ^ 16 = 0x000000FFFE00 then s.lookupShort m (iid % 2 ^ 16) else s.lookupAddr m (.ext (iidOf iid))

/-- A destination has no route (R301, R302): ROUTE_FAIL with a reason, its counter, and the item to FAIL_STATION or dropped. -/
def State.routeFail (s : State) (m st n : Nat) (d : Desc) (r : Reason) (c : Fld) : State :=
  ((s.toField m st (s.get m F.ROUTE_STATIONS_FAIL_STATION) d id).bump m c).irq m 0x019 0 |>.event m (.routeFail r) n []

/-- The downlink lookup of CLASSIFY (R301, R338). -/
def State.classifyDown (s : State) (m : Nat) (d : Desc) (p : Packet) : State :=
  let fail (t : State) : State := t.routeFail m 9 noNode d .noNode F.ROUTE_NO_NODE
  if s.meshPrefix m p.dst.pfx then
    let r := s.lookupIid m p.dst.iid
    match r.1 with
    | some n => r.2.engineTo m 9 10 { d with node := n, flow := n % 1024, flags := d.flags % 2 + d.flags / 4 * 4 }
    | none => fail r.2
  else fail s

/-- ROUTE.UPMAP (R301, R308): the destination of an uplink of class `c`. -/
def State.upmap (s : State) (m : Nat) (d : Desc) (c : Nat) : State :=
  let port := s.get m (F.ROUTE_UPMAP_PORT.at 4 c)
  let into (q : Nat) : State :=
    let S := (s.mast m).sal
    (s.setSal m (S.setItem d.cell { S.item d.cell with dest := some q })).engineTo m 9 7 d
  if 8 ≤ port ∧ port ≤ 11 then
    let peer := s.redundant && s.bit m (F.ROUTE_UPMAP_PEER.at 4 c)
    into ((if peer then 160 else 0) + 8 * (port - 8) + s.get m (F.ROUTE_UPMAP_TC.at 4 c))
  else if port = 12 then into (64 + s.get m (F.ROUTE_UPMAP_RING.at 4 c))
  else if port = 13 then s.toField m 9 (s.get m (F.ROUTE_UPMAP_STATION.at 4 c)) d id
  else (s.freeItem m d.cell).bump m F.ROUTE_NO_UPMAP

/-- CLASSIFY on item `d` (R301): the first row that matches. -/
def State.classify (s : State) (m : Nat) (d : Desc) : State :=
  let body := s.bodyOf m d
  let field (f : Fld) : State := s.toField m 9 (s.get m f) d (fun t => t.bump m F.ROUTE_NO_STATION)
  let unsecured := match body.reception with
    | some (_, _, f) => f.secLevel == 0
    | none => true
  let command := match body.reception with
    | some (_, _, f) => f.ftype == 3
    | none => false
  if d.down then
    match body with
    | .packet p _ => if s.ownAddr m p.dst then field F.ROUTE_STATIONS_LOCAL_STATION else s.classifyDown m d p
    | _ => s.routeFail m 9 noNode d .noNode F.ROUTE_NO_NODE
  else if command then s.toField m 9 (s.get m F.ROUTE_STATIONS2_MACCMD_STATION) d id
  else if d.node = noNode ∧ unsecured then s.toField m 9 (s.get m F.MAC_SEC_CFG_JOIN_STATION) d id
  else
    let c := if d.node = noNode then 0 else ((s.mast m).node d.node).ident.cls
    match body with
    | .packet p _ =>
      if s.ownAddr m p.dst then
        if p.inner = [] ∧ p.icmpType = some 155 then field F.ROUTE_STATIONS_RPL_STATION else field F.ROUTE_STATIONS_LOCAL_STATION
      else if p.dst.pfx / 2 ^ 56 = 0xFF then field F.ROUTE_STATIONS_MCAST_STATION
      else if s.meshPrefix m p.dst.pfx then s.classifyDown m d p
      else s.upmap m d c
    | _ => s.upmap m d c

/-- CLASSIFY (R301). -/
def execClassify (m : Nat) (s : State) : Host.Outcome State Fault Refusal :=
  .next (match s.engineTake m 9 with
    | none => s.engineIdle m 9
    | some (d, t) => t.classify m d)

/-! ## TO_PARTNER and FROM_PARTNER (R27, R373) -/

/-- TO_PARTNER (R27, R325): the item is enqueued on the queue that CLASSIFY chose, or waits there for admission.  An item that came
by no CLASSIFY names no queue: its queue is a free value (log entry 2). -/
def execToPartner (m : Nat) (s : State) : Host.Outcome State Fault Refusal :=
  .next (match s.engineTake m 7 with
    | none => s.engineIdle m 7
    | some (d, t) =>
      let u := t.free
      let q := match ((t.mast m).sal.item d.cell).dest with
        | some q => (q, t)
        | none => (u.1 % 40, u.2)
      match (q.2.setItemBody m d.cell d (t.bodyOf m d)).enqueueOut m q.1 d.cell with
      | some v => v.engineAdmitted m 7
      | none => s.engineRefused m 7)

/-- FROM_PARTNER (R373, R338): a partner frame passes its sluice, or is freed. -/
def execFromPartner (m : Nat) (s : State) : Host.Outcome State Fault Refusal :=
  .next (match s.engineTake m 8 with
    | none => s.engineIdle m 8
    | some (d, t) =>
      let r := match ((t.mast m).sal.item d.cell).dest with
        | some i => t.sluice m i ((t.mast m).sal.item d.cell).frameLen d.stamp
        | none => (true, t)
      if r.1 then
        let d1 := { d with flow := 0, flags := d.flags / 4 * 4 + 3 }
        (r.2.setItemBody m d.cell d1 (r.2.bodyOf m d)).engineNext m 8 d1
      else r.2.freeItem m d.cell)

/-! ## ROUTE_WALK (R302, R303) -/

/-- MAX_HOPS in effect (R308). -/
def State.maxHops (s : State) (m : Nat) : Nat :=
  let h := s.get m F.ROUTE_CFG_MAX_HOPS
  if h = 0 ∨ 16 < h then 16 else h

/-- The walk of R302 from `v`, whose path so far is given. -/
def State.walk (s : State) (m : Nat) : Nat → Nat → List Nat → Except Reason (List Nat)
  | 0, _, _ => .error .routeLong
  | fuel + 1, v, path =>
    let r := ((s.mast m).node v).routing
    if r.rootAdj then .ok path
    else if r.parentValid = false then .error .noParent
    else
      let p := (s.mast m).node r.parent
      if p.ident.used = false ∨ p.ident.aged then .error .noParent
      else if path.contains r.parent then .error .routeLoop
      else if s.maxHops m < path.length + 1 then .error .routeLong
      else s.walk m fuel r.parent (r.parent :: path)

/-- The mesh address of node `v` (R280, R300): the prefix of its context and the identifier of its EUI-64. -/
def State.nodeAddr (s : State) (m v : Nat) : Ip6 :=
  let r := (s.mast m).node v
  ⟨s.ctxPrefix m r.routing.ctx, iidOf r.ident.eui⟩

/-- The routing header of a path `a1, …, d` to final address `dst` under an outer destination of prefix `pfx` (R303): none for one hop. -/
def State.routeHeader (s : State) (m : Nat) (path : List Nat) (pfx : Nat) (dst : Ip6) : Option RouteHdr :=
  let n := path.length - 1
  let addrs := (path.drop 1).dropLast.map (s.nodeAddr m) ++ [dst]
  let short := addrs.all (fun a => a.pfx == pfx)
  if n = 0 then none else some ⟨n, if short then 8 else 0, if short then n else 2 * n, addrs⟩

/-- The packet for a path `a1, …, d` (R303), and whether it is encapsulated; none when the inner hop limit stops it.  A routing header goes in
right after the IPv6 header. -/
def State.routePacket (s : State) (m : Nat) (p : Packet) (path : List Nat) : Option (Packet × Bool) :=
  let via := match path with
    | a :: _ :: _ => s.nodeAddr m a
    | _ => p.dst
  let rh := s.routeHeader m path via.pfx p.dst
  if s.ownAddr m p.src then
    some (match rh with
      | none => p
      | some r => if p.exts = [] ∧ p.rh = none then { p with dst := via, rh := rh } else { p with dst := via, exts := (43, r.bytes) :: p.exts }, false)
  else if p.hopLimit ≤ 1 then none
  else some ({ p with src := ⟨p.dst.pfx, iidOf (s.get64 m F.MAC_OWN_EUI_EUI)⟩, dst := via, hopLimit := s.get m F.ROUTE_CFG_HLIM, tc := 0, flow := 0,
                      exts := [], rh := rh, inner := { p.outer with hopLimit := p.hopLimit - 1 } :: p.inner }, true)

/-- ROUTE_WALK on item `d` (R302, R303), taken from the queue in `s`; the headers that it adds lengthen the item. -/
def State.routeWalk (s0 s : State) (m : Nat) (d : Desc) (p : Packet) (up : Option (Meta × Nat × Frame)) : State :=
  let s1 := s.bump m F.ROUTE_WALKS
  match s1.walk m 17 d.node [d.node] with
  | .error .noParent => s1.routeFail m 10 d.node d .noParent F.ROUTE_NO_PARENT
  | .error .routeLoop => s1.routeFail m 10 d.node d .routeLoop F.ROUTE_ROUTE_LOOP
  | .error _ => s1.routeFail m 10 d.node d .routeLong F.ROUTE_ROUTE_LONG
  | .ok path =>
    let s2 := s1.raise m F.ROUTE_HOPS_HWM_HWM path.length
    match s2.routePacket m p path with
    | none => s2.routeFail m 10 d.node d .hopLimit F.ROUTE_HOP_LIMIT
    | some (q, encap) =>
      let a := path.headD d.node
      let d1 := { d with node := a, flow := a % 1024, len := packetLen q % 2048 }
      match s2.resizeItem m d.cell d1.len with
      | none => s0.engineRefused m 10
      | some t => ((if encap then t.bump m F.ROUTE_ENCAP else t).setItemBody m d.cell d1 (.packet q up)).engineAdmitted m 10
        |>.engineNext m 10 d1

/-- ROUTE_WALK (R302). -/
def execRouteWalk (m : Nat) (s : State) : Host.Outcome State Fault Refusal :=
  .next (match s.engineTake m 10 with
    | none => s.engineIdle m 10
    | some (d, t) => match t.bodyOf m d with
      | .packet p up => s.routeWalk t m d p up
      | _ => t.engineNext m 10 d)

/-! ## HC_COMPRESS, CCM_SEAL and LINK_QUEUE (R247, R254, R265, R305, R319) -/

/-- The contexts of compression (R305): those with COMPRESS = 1. -/
def State.packing (s : State) (m : Nat) : Contexts := fun c => if s.bit m (F.COMP_CTX_COMPRESS.at 16 c) then s.contexts m c else none

/-- A downlink data frame for node `n` (R245, R262, R305): its sequence number is a free value (log entry 2). -/
def State.dataFrame (s : State) (m n : Nat) (p : Packet) (seqNo : Nat) : Frame :=
  let r := (s.mast m).node n
  let dst : Addr := .ext r.ident.eui
  let src : Addr := .ext (s.get64 m F.MAC_OWN_EUI_EUI)
  let f : Frame := { ftype := 1, version := 2, fcsOk := true, seqNo := seqNo % 256, ackReq := r.link.ackReq,
                     dstPan := some (s.get m F.MAC_OWN_ID_PAN_ID), dst := dst, src := src, secLevel := Config.downlinkLevel % 8, keyMode := 0,
                     keyIndex := 0, fc := 0, tsync := none, tcIe := none, vendor := [], payload := compressLowpan (s.packing m) src dst p, len := 0,
                     mic := 0 }
  f.sized

/-- HC_COMPRESS (R305): a MAC frame above 2 047 bytes goes to RAW_STATION or is dropped. -/
def execHcCompress (m : Nat) (s : State) : Host.Outcome State Fault Refusal :=
  .next (match s.engineTake m 11 with
    | none => s.engineIdle m 11
    | some (d, t) => match t.bodyOf m d with
      | .packet p _ =>
        let u := t.free
        let f := t.dataFrame m d.node p u.1
        if 2047 < f.len then (t.toField m 11 (t.get m F.COMP_CFG_RAW_STATION) d id).bump m F.COMP_TOO_BIG
        else
          let d1 := { d with len := f.len }
          match u.2.resizeItem m d.cell d1.len with
          | none => s.engineRefused m 11
          | some v => (((v.setItemBody m d.cell d1 (.down f)).bump m F.COMP_COMPRESSED).engineAdmitted m 11).engineNext m 11 d1
      | _ => t.engineNext m 11 d)

/-- Whether the chain of node `n` holds a frame that still waits for its counter (R265). -/
def State.chainWaits (s : State) (m n : Nat) : Bool :=
  ((s.mast m).node n).chain.heads.any (fun c => match ((s.mast m).sal.item c).body with
    | .down f => f.unsealed
    | _ => false)

/-- CCM_SEAL on item `d` (R265, R266, R425): none while the counter reservation holds the station.  After a failed reservation write a frame goes
on unsealed and the launch builder defers it with FC_WAIT, and so do the frames behind it in its chain (DESIGN CHOICE, log entry 169). -/
def State.seal (s : State) (m : Nat) (d : Desc) (f : Frame) : Option State :=
  let later (t : State) : State := (t.setItemBody m d.cell d (.down { f with unsealed := true })).engineNext m 12 d
  if f.secLevel = 0 then some (s.engineNext m 12 d)
  else
    let key := s.nodeKey m d.node
    match key.1 with
    | none => some (key.2.freeItem m d.cell)
    | some k =>
      let l := ((s.mast m).node d.node).link
      match key.2.fcNext m l.dnFc with
      | .exhausted => some ((key.2.fcExhausted m d.node).freeItem m d.cell)
      | .wait => none
      | .deferred => some (later (key.2.fcReserve m))
      | .value v =>
        if s.chainWaits m d.node then some (later key.2)
        else some ((((key.2.setLink m d.node { l with dnFc := v }).fcTaken m v).setItemBody m d.cell d
          (.down (s.sealFrame m k v { f with keyMode := 0 }))).engineNext m 12 d)

/-- CCM_SEAL (R265). -/
def execCcmSeal (m : Nat) (s : State) : Host.Outcome State Fault Refusal :=
  .next (match s.engineTake m 12 with
    | none => s.engineIdle m 12
    | some (d, t) => match t.bodyOf m d with
      | .down f => match t.seal m d f with
        | some u => u.engineAdmitted m 12
        | none => (s.fcReserve m).engineRefused m 12
      | _ => t.engineNext m 12 d)

/-- The event LINK_INVALID of node `n` (R254): raised once until the builder has found the link valid. -/
def State.linkInvalid (s : State) (m n : Nat) : State :=
  let M := (s.mast m).mac
  if M.linkBad.contains n then s
  else ((s.setMac m { M with linkBad := M.linkBad ++ [n] }).irq m 0x020 8).event m .linkInvalid n []

/-- A dropped downlink (R262, R319): the event DL_DROPPED with its reason. -/
def State.dlDropped (s : State) (m n : Nat) (r : Reason) : State := (s.irq m 0x020 7).event m (.dlDropped r) n []

/-- A multicast campaign frame joins the multicast chain of sail `k`, which counts in the chain pool (R319, R520): none when the pool
refuses it. -/
def State.mcAppend (s : State) (m k c : Nat) : Option State :=
  let x := (s.mast m).sal.item c
  let n := x.cells.length
  if x.cells = [] ∨ (s.mast m).sal.broken (.chain (2 ^ 20 + k)) ∨ s.admitChain m n = false then none
  else
    let s1 := (s.placeSub m x.place n).placeAdd m (.chain (2 ^ 20 + k)) n
    let M := s1.mast m
    let ch := Tbl.get (fun _ => Chain.nil) M.camp.mcChain k
    let S1 := M.sal.setItem c { M.sal.item c with place := .chain (2 ^ 20 + k), held := none, enqT := s.localUs m % 2 ^ 32 }
    let mc := Tbl.set (fun _ => Chain.nil) M.camp.mcChain k ⟨ch.heads ++ [c], ch.cells + n⟩
    some ((s1.setMast m { M with sal := S1, camp := { M.camp with mcChain := mc } }).brineCheck m)

/-- Remove the item at head cell `c` from the multicast chain of sail `k` and free its cells. -/
def State.mcRemove (s : State) (m k c : Nat) : State :=
  let M := s.mast m
  let ch := Tbl.get (fun _ => Chain.nil) M.camp.mcChain k
  if (M.sal.seen (2 ^ 20 + k) ch).contains c then
    let n := (M.sal.item c).cells.length
    let mc := Tbl.set (fun _ => Chain.nil) M.camp.mcChain k ⟨ch.heads.erase c, ch.cells - n⟩
    (s.setMast m { M with camp := { M.camp with mcChain := mc } }).freeItem m c
  else s

/-- LINK_QUEUE on item `d` (R319): dropped past NODE_MAX; none while the chain pool refuses it.  An item of no node goes to the
multicast chain of its sail (R520). -/
def State.linkQueue (s : State) (m : Nat) (d : Desc) : Option State :=
  let n := d.node
  let r := (s.mast m).node n
  let k := ((s.mast m).sal.item d.cell).cells.length
  if n = noNode then (s.setItemBody m d.cell d (s.bodyOf m d)).mcAppend m d.port d.cell
  else if max 1 (s.get m F.SALTERN_CHAIN_CFG_NODE_MAX) < r.chain.cells + k then
    some (((s.freeItem m d.cell).bump m F.SALTERN_CHAIN_FULL).dlDropped m n .chainFull)
  else match (s.setItemBody m d.cell d (s.bodyOf m d)).chainAppend m n d.cell with
    | none => none
    | some t => some (if r.link.period = 0 then t.linkInvalid m n else t)

/-- LINK_QUEUE (R319). -/
def execLinkQueue (m : Nat) (s : State) : Host.Outcome State Fault Refusal :=
  .next (match s.engineTake m 13 with
    | none => s.engineIdle m 13
    | some (d, t) => match t.linkQueue m d with
      | some u => u.engineAdmitted m 13
      | none => s.engineRefused m 13)

end Sys2Proof.Machine
end

