-- ==== Sys2Proof/Machine/CampBase.lean ====
section
/-! DEFINITION. The campaign engine's bookkeeping that the MAC reaches too: node states, tries, bitmaps, frames to append and frames that
leave their chains (R521–R527). -/

namespace Sys2Proof.Machine

/-- Replace mast `m`'s campaign engine. -/
def State.setCamp (s : State) (m : Nat) (c : Camp) : State := s.setMast m { s.mast m with camp := c }

/-- The campaign's identifier (R533). -/
def State.campId (s : State) (m : Nat) : Nat := s.get m F.CAMPAIGN_ID_CAMP_ID

/-- Fragments of the node image (R518): at most 4 096. -/
def State.fragCount (s : State) (m : Nat) : Nat := min 4096 ((s.get m F.CAMPAIGN_IMG_LEN_BYTES + 255) / 256)

/-- Whether the group of node `v` is set in TARGET, GROUP_LOCK or LIT (R533). -/
def State.groupIn (s : State) (m v : Nat) (f : Fld) : Bool :=
  let g := ((s.mast m).node v).ident.group
  (s.word (key m (f.at 4 (g / 32)).addr)).toNat.testBit (g % 32)

/-- The campaign section of node `v`. -/
def State.campOf (s : State) (m v : Nat) : CampSec := ((s.mast m).node v).camp

/-- Whether node `v` is in the campaign (R522). -/
def State.inCamp (s : State) (m v : Nat) : Bool := (s.campOf m v).campId == s.campId m && (s.campOf m v).nstate != 0

/-- Write the campaign section of node `v` (R521). -/
def State.setCampOf (s : State) (m v : Nat) (c : CampSec) : State :=
  let M := s.mast m
  s.setMast m (M.setNode v { M.node v with camp := c })

/-- Slots in `sec` seconds. -/
def State.secSlots (s : State) (m sec : Nat) : Nat := sec * 1000000 / slotUs (s.mast m).slotSel

/-- Append a frame to the engine's work; none to a node whose group is locked (R526) or that is in TRIAL (R527). -/
def State.campFrame (s : State) (m typ v arg : Nat) : State :=
  if s.groupIn m v F.CAMPAIGN_GROUP_LOCK_GROUPS ∨ (s.campOf m v).nstate = 6 then s
  else
    let C := (s.mast m).camp
    s.setCamp m { C with todo := C.todo ++ [⟨typ, v, ((s.mast m).node v).ident.port, arg, 0⟩] }

/-- The missing fragments of node `v`, as a number whose bit f says that fragment f is missing (R517). -/
def State.missingOf (s : State) (m v : Nat) : Nat := Tbl.get (fun _ => 0) (s.mast m).camp.missing (s.campOf m v).wslot

/-- Bits set among the first `n`. -/
def bitCount (n x : Nat) : Nat := ((List.range n).filter (fun i => x.testBit i)).length

/-- Write node `v`'s bitmap, with MISSING recounted over the fragment count (R523). -/
def State.setMissing (s : State) (m v bits : Nat) : State :=
  let C := (s.mast m).camp
  let c := s.campOf m v
  (s.setCamp m { C with missing := Tbl.set (fun _ => 0) C.missing c.wslot bits }).setCampOf m v { c with missing := bitCount (s.fragCount m) bits }

/-- An unanswered offer, query or dropped fragment (R522): the third moves the node to NO_ANSWER; before it `retry` goes on. -/
def State.campTry (s : State) (m v : Nat) (retry : State → State) : State :=
  let c := s.campOf m v
  let n := c.tries + 1
  if 3 ≤ n ∧ 1 ≤ c.nstate ∧ c.nstate ≤ 3 then
    (s.setCampOf m v { c with tries := min 7 n, nstate := 12, reason := 6 }).bump m F.CAMPAIGN_NO_ANSWER
  else retry (s.setCampOf m v { c with tries := min 7 n })

/-- The lowest missing fragment among the first `n`. -/
def lowestBit (n x : Nat) : Option Nat := (List.range n).find? (fun i => x.testBit i)

/-- A STRAGGLER gets its next frame when it has none in its chain (R525): its lowest missing fragment, or a QUERY when none is
missing. -/
def State.straggle (s : State) (m v : Nat) : State :=
  let C := (s.mast m).camp
  if (s.campOf m v).nstate ≠ 3 ∨ C.todo.any (fun f => f.node == v && f.typ != 0) ∨ C.sent.any (fun f => f.node == v) then s
  else match lowestBit (s.fragCount m) (s.missingOf m v) with
    | some f => s.campFrame m 1 v f
    | none => s.campFrame m 5 v 0

/-- A campaign frame, whose item had head cell `c`, has left its chain (R522, R525): answered, or dropped. -/
def State.campLeft (s : State) (m c : Nat) (answered : Bool) : State :=
  let C := (s.mast m).camp
  match C.sent.find? (fun f => f.cell == c) with
  | none => s
  | some f =>
    let s1 := s.setCamp m { C with sent := C.sent.erase f }
    let v := f.node
    let st := (s1.campOf m v).nstate
    match f.typ with
    | 1 =>
      if st ≠ 3 then s1
      else if answered then
        let s2 := s1.setMissing m v (s1.missingOf m v - (if (s1.missingOf m v).testBit f.arg then 2 ^ f.arg else 0))
        (s2.setCampOf m v { s2.campOf m v with tries := 0 }).straggle m v
      else s1.campTry m v (fun t => t.straggle m v)
    | 2 => if st = 1 ∧ answered = false then s1.campTry m v (fun t => t.campFrame m 2 v 0) else s1
    | 4 =>
      if st = 5 ∧ answered then
        let due := ((s.mast m).asn + s.secSlots m (s.get m F.CAMPAIGN_NODE_TRIAL_S)) % 2 ^ 40
        s1.setCampOf m v { s1.campOf m v with nstate := 6, deadline := due }
      else s1
    | 5 => if st = 3 ∧ answered = false then s1.campTry m v (fun t => t.straggle m v) else s1
    | _ => s1

/-- Every campaign frame of node `v` leaves its chain with it (R263, R522). -/
def State.campLost (s : State) (m v : Nat) : State :=
  ((s.mast m).camp.sent.filter (fun f => f.node == v)).foldl (fun t f => t.campLeft m f.cell false) s

end Sys2Proof.Machine
end

