-- ==== Sys2Proof/Machine/MacTx.lean ====
section
/-! DEFINITION. The transmit side of the mesh MAC: plan, build and deliver, TX_DONE, judgement, supervision, beacons, peers, counter
reservations and the duty record (R42–R54, R58, R211, R213, R231, R254, R261–R271). -/

namespace Sys2Proof.Machine

/-! ## Beacons (R269, R270) -/

/-- A beacon of sail `k` is not launched (R270): the third consecutive miss moves the sail to the reserve set. -/
def State.beaconMiss (s : State) (m k : Nat) : State :=
  let s1 := s.bump m F.MAC_BEACON_MISS
  let M := (s1.mast m).mac
  let run := Tbl.get (fun _ => 0) M.beaconRun k + 1
  if run < 3 then s1.setMac m { M with beaconRun := Tbl.set (fun _ => 0) M.beaconRun k run }
  else
    let s2 := s1.setMac m { M with beaconRun := Tbl.set (fun _ => 0) M.beaconRun k 0 }
    ((s2.setBit m F.MAC_BEACON_STATE_RSV.addr k).irq m 0x020 3).event m .beaconGap k []

/-- The channels of sail `k`'s active beacon set (R269). -/
def State.beaconSet (s : State) (m k : Nat) : List Nat :=
  let base := if (s.get m F.MAC_BEACON_STATE_RSV).testBit k then 8 else 0
  ((List.range 8).filter (fun i => s.bit m (F.MAC_BEACON_CH_VALID.at 4 (base + i)))).map (fun i => s.get m (F.MAC_BEACON_CH_CHANNEL.at 4 (base + i)))

/-- Whether slot `n` is a beacon slot of sail `k` (R269). -/
def State.beaconDue (s : State) (m k n : Nat) : Bool :=
  let p := s.get m F.MAC_BEACON_CFG_PERIOD
  p != 0 && n % p == 0 && (s.get m F.MAC_BEACON_CFG_SAIL_MASK).testBit k && s.hasSail k

/-- The beacon of slot `n` before it is sealed (R248, R269); its key index is a free value (log entry 2). -/
def State.beaconFrame (s : State) (m n u : Nat) : Frame :=
  let len := min 64 (s.get m F.MAC_BEACON_CFG_TPL_LEN)
  let f : Frame := { ftype := 0, version := 2, fcsOk := true, seqNo := u % 256, ackReq := false, dstPan := some (s.get m F.MAC_OWN_ID_PAN_ID),
                     dst := .short 0xFFFF, src := .ext (s.get64 m F.MAC_OWN_EUI_EUI), secLevel := 1, keyMode := 1, keyIndex := u / 256 % 256,
                     fc := 0, tsync := some n, join := 0, tcIe := none,
                     vendor := leBytes 3 (s.get m F.MAC_IE_CFG_OUI) ++ s.regBytes m F.MAC_BEACON_TPL_BYTES 16 len,
                     payload := [], len := 0, mic := 0 }
  f.sized

/-! ## Planning (R211, R251–R254, R261, R264, R267) -/

/-- Carriers of sail `k` that a planned frame may use in slot `n`, from its tick to `b` (R45, R47, R211): none once the planned frames
of the slot leave only the ACK reservation. -/
def State.planCarrier (s : State) (m k n : Nat) (b : Int) : Option Nat :=
  let a := s.pos m n 0
  let e := (s.carriers m k).length
  let rsv := if (s.sail k).reefed then 0 else min (s.get (sailDie k) F.TXP_CARRIER_CFG_ACK_RSV) (e - 1)
  let used := ((s.mast m).mac.launches.filter (fun l => l.sail == k && l.asn == n && l.kind != .ack)).length
  if e ≤ used + rsv then none else (s.freeCarriers m k a (max b (s.pos m (n + 1) 0))).head?

/-- Whether a refusal by code is not deferred (R212): OUT_OF_WINDOW, AIRTIME_OVER, LOCK_DWELL. -/
def notDeferred (code : Nat) : Bool := code == 6 || code == 2 || code == 3

/-- A refusal that is not deferred, or a cut, goes to the event queue with the bytes of its report (R213). -/
def State.txEvent (s : State) (m n : Nat) (r : TxReport) : State := s.event m .txDone n r.bytes

/-- The report of a frame that the builder refuses at plan time (R211): no handle, and nothing on air (log entry 154). -/
def planRefusal (code carrier : Nat) (power : Int) (start asn : Nat) : TxReport := ⟨2, code, 0, 0, carrier, power, start, asn % 256, 0⟩

/-- A frame whose samples exceed the FIFO is refused (R52). -/
def State.fifoOver (s : State) (m n : Nat) : State := ((s.bump m F.MAC_FIFO_OVER).irq m 0x020 6).event m .fifoOver n []

/-- How the plan of a frame ends: its samples exceed a FIFO, no carrier, a check of R211, shaped, over its dwell limit, or planned. -/
inductive PlanEnd where
  | fifo
  | busy
  | refused (r : TxReport)
  | shaped
  | dwell
  | planned
deriving DecidableEq, Repr

/-- Plan frame `f` of a kind for sail `k` in slot `n`, `off` units after its tick, on channel `ch` (R52, R211, R267, R371): a data frame passes
its shaper class `prio / 2` too, and gets its tokens back when the dwell check refuses it. -/
def State.planOn (s : State) (m k n : Nat) (kind : LaunchKind) (node cell : Nat) (f : Frame) (ch rate fec : Nat) (power : Int) (prio : Nat)
    (off : Int) : PlanEnd × State :=
  let e := (s.mast m).mac.chan ch
  let pre := s.preamble (copyDie m k) e.pers
  let air := s.airOn m k e.pers rate fec f.len pre
  let start := s.pos m n off
  if 262144 < s.samplesOn m k e.pers rate fec f.len pre then (.fifo, s)
  else match s.planCarrier m k n (start + 400 * air) with
    | none => (.busy, s)
    | some c => match s.planCheck m k c e.freq e.pers rate fec air power start with
      | .error r => (.refused (planRefusal r c power off.toNat n), s)
      | .ok pout =>
        let sh := if kind = .data then s.shape m k (prio / 2) f.len else (true, s)
        if sh.1 = false then (.shaped, sh.2)
        else
          let w := sh.2.dwell m ch start air
          if w.1 = false then (.dwell, if kind = .data then w.2.unshape m k (prio / 2) f.len else w.2)
          else (.planned, w.2.addLaunch m
            { handle := 0, kind := kind, sail := k, carrier := c, placed := true, asn := n, start := off.toNat, at_ := start,
              softNs := (s.mast m).tickNow + 3 * s.slotNs m / 4, left := false, node := node, cell := cell, frame := f, channel := ch,
              freq := e.freq, pers := e.pers, rate := rate, fec := fec, power := power, pout := pout, prio := prio, airUs := air,
              charged := s.dwellW m e.dclass != 0, bucket := bucketOf start, stage := 0, aInt := n, tc := 0, tcClamped := false })

/-- Plan the beacon of sail `k` in slot `n` (R269). -/
def State.planBeacon (s : State) (m k n : Nat) : State :=
  let set := s.beaconSet m k
  let u := s.free
  let ch := set.getD (n / max 1 (s.get m F.MAC_BEACON_CFG_PERIOD) % max 1 set.length) 0
  if set = [] ∨ ((s.mast m).mac.chan ch).valid = false then s.beaconMiss m k
  else
    let r := u.2.planOn m k n .beacon noNode 0 (s.beaconFrame m n u.1) ch (s.get m F.MAC_BEACON_RADIO_PROF) (s.get m F.MAC_BEACON_RADIO_FEC)
      (s.getS m F.MAC_BEACON_RADIO_POWER) 0 (400 * s.tsTx m : Nat)
    match r.1 with
    | .planned => r.2
    | .fifo => (r.2.fifoOver m noNode).beaconMiss m k
    | .dwell => (r.2.bump m F.DWELL_BEACON_DROP).beaconMiss m k
    | .refused c => (if notDeferred c.reason then r.2.txEvent m noNode c else r.2).beaconMiss m k
    | _ => r.2.beaconMiss m k

/-- The head frame of node `v`'s chain leaves it for good, answered or not (R262, R525); a campaign's multicast frame leaves its
sail's chain. -/
def State.frameGone (s : State) (m v k c : Nat) (answered : Bool) : State :=
  if v = noNode then s.mcRemove m k c else (s.chainRemove m v c).campLeft m c answered

/-- Node `n`'s link is LOST (R263). -/
def State.nodeLost (s : State) (m n : Nat) : State :=
  let M := (s.mast m).mac
  let l := ((s.mast m).node n).link
  let s1 := (s.setMac m { M with waits := M.waits.filter (fun w => w.node != n) }).setLink m n { l with state := 3 }
  (((((s1.spliceLost m n).campLost m n).bump m F.MAC_NODE_LOST).irq m 0x020 1).event m .nodeLost n [])

/-- Whether node `n`'s supervision has expired at ASN `a` (R263). -/
def State.supervised (s : State) (m n a : Nat) : Bool :=
  let l := ((s.mast m).node n).link
  l.supervision != 0 && (l.state == 1 || l.state == 2) && decide ((l.supervision : Int) < sdiff 40 a l.lastHeard)

/-- Note a CFO hint for slot `n` on channel `ch` of node `v` (R264): a later one for the same bin replaces an earlier one. -/
def State.planHint (s : State) (m v n ch : Nat) : State :=
  let r := (s.mast m).node v
  let M := (s.mast m).mac
  let e := M.chan ch
  let k := r.ident.port
  match s.locate k e.freq with
  | none => s
  | some (w, b) =>
    let h : Hint := ⟨w, b, e.hyp k, n % 256, r.link.cfo⟩
    let same (x : Nat × Hint) : Bool := x.1 == k && x.2.win == w && x.2.bin == b
    let s1 := s.setMac m { M with hints := M.hints.filter (fun x => !same x) ++ [(k, h)] }
    if M.hints.any same then s1.bump m F.MAC_HINT_CONFLICT else s1

/-- The frame of a chain's item. -/
def Body.txFrame : Body → Frame
  | .down f => f
  | b => { ftype := 1, version := 2, fcsOk := true, seqNo := 0, ackReq := false, dstPan := none, dst := .none, src := .none, secLevel := 0,
           keyMode := 0, keyIndex := 0, fc := 0, tsync := none, tcIe := none, vendor := [],
           payload := (match b with | .bytes x => x | _ => []), len := (match b with | .bytes x => x.length | _ => 0), mic := 0 }

/-- The pre-shift of a downlink in slot `n` (R261), in 2.5 ns units; none when it cannot be trusted. -/
def State.preshift (s : State) (m n : Nat) (l : Link) : Option Int :=
  let us : Int := sdiff 40 n l.lastSync * slotUs (s.mast m).slotSel
  let pmax := min (10 * s.get m F.MAC_DRIFT_CFG_PRESHIFT_MAX) (s.tsTx m - 500)
  if l.syncValid = false ∨ pmax * 1000000000 < (l.drift * us).natAbs
      ∨ 10 * l.guard * 1000000000 < 10 * s.get m F.MAC_DRIFT_CFG_UNC * us.natAbs then none
  else some (Int.tdiv (l.drift * us * 400) 1000000000)

/-- Plan the head frame (cell `c`) of node `v` at its event `ev` in slot `n` on a valid channel `ch` of sail `k` (R52, R211, R261, R371): one to
the broadcast address gets no pre-shift. -/
def State.planFrame (s : State) (m v n ev k ch c : Nat) : State :=
  let l := ((s.mast m).node v).link
  let it := (s.mast m).sal.item c
  let f := it.body.txFrame
  let e := (s.mast m).mac.chan ch
  match (if f.dst = .short 0xFFFF then some 0 else s.preshift m n l) with
    | none =>
      if 262144 < s.samplesOn m k e.pers l.dnProf l.dnFec f.len (s.preamble (copyDie m k) e.pers) then
        (s.frameGone m v k c false).fifoOver m v
      else (s.setLink m v { l with state := 2 }).bump m F.MAC_DRIFT_HOLD
    | some shift =>
      if s.carriers m k = [] then s
      else
        let r := s.planOn m k n .data v c f ch l.dnProf l.dnFec l.txPower it.desc.prio ((400 * s.tsTx m : Nat) - shift)
        match r.1 with
        | .fifo => (r.2.frameGone m v k c false).fifoOver m v
        | .busy => r.2.bump m F.MAC_CARRIER_BUSY
        | .refused x =>
          if notDeferred x.reason then (r.2.frameGone m v k c false).txEvent m v x
          else if x.reason = 9 then r.2.bump m F.MAC_PROFILE_INVALID else r.2
        | .shaped => r.2
        | .dwell => r.2.bump m F.DWELL_DEFER
        | .planned =>
          let s1 := r.2.setLink m v { l with anchor := n, event := ev }
          if l.ackReq ∧ s.bit m F.MAC_HINT_CFG_ACK_EN then s1.planHint m v n ch else s1

/-- The head frame `f` (cell `c`) of node `v` takes the counter that it still waits for (R265): whether it has one now.  With none below the
reservation it is deferred with FC_WAIT. -/
def State.sealHead (s : State) (m v k c : Nat) (f : Frame) : Bool × State :=
  let key := s.nodeKey m v
  match key.1 with
  | none => (false, key.2.frameGone m v k c false)
  | some x =>
    let l := ((s.mast m).node v).link
    match key.2.fcNext m l.dnFc with
    | .exhausted => (false, (key.2.fcExhausted m v).frameGone m v k c false)
    | .wait | .deferred => (false, key.2.fcReserve m)
    | .value y => (true, ((key.2.setLink m v { l with dnFc := y }).fcTaken m y).setItemBody m c ((s.mast m).sal.item c).desc
        (.down (s.sealFrame m x y { f with keyMode := 0 })))

/-- The builder at an event of node `v` in slot `n` (R251, R254, R255, R262–R264, R29). -/
def State.planNode (s : State) (m v n : Nat) : State :=
  let M := (s.mast m).mac
  let r := (s.mast m).node v
  let l := r.link
  let ev := (l.eventAt n).1
  if s.supervised m v n then s.nodeLost m v
  else
    let ok := M.linkOk l
    let s1 := if l.hint ∧ ok ∧ s.bit m F.MAC_HINT_CFG_UPLINK_EN then s.planHint m v n (M.hop l ev) else s
    match s.nodeHeads m v with
    | [] => s1
    | c :: _ =>
      if l.state ≠ 1 ∨ M.waits.any (fun w => w.node == v && !w.judged)
          ∨ M.launches.any (fun x => x.node == v && decide (x.kind = .data)) then s1
      else if s.hasSail r.ident.port = false then s1.bump m F.MAC_NO_PORT
      else if ok = false then (s1.bump m F.MAC_LINK_INVALID).linkInvalid m v
      else
        let M1 := (s1.mast m).mac
        let s2 := s1.setMac m { M1 with linkBad := M1.linkBad.erase v }
        let ch := M.hop l ev
        if (M.chan ch).valid = false then s2.bump m F.MAC_CHANNEL_INVALID
        else
          let f := ((s2.mast m).sal.item c).body.txFrame
          let w := if f.unsealed then s2.sealHead m v r.ident.port c f else (true, s2)
          if w.1 then w.2.planFrame m v n ev r.ident.port ch c else w.2

/-- The multicast chain of sail `k` as the builder sees it (R315, R520). -/
def State.mcHeads (s : State) (m k : Nat) : List Nat :=
  (s.mast m).sal.seen (2 ^ 20 + k) (Tbl.get (fun _ => Chain.nil) (s.mast m).camp.mcChain k)

/-- Whether slot `n` is a multicast slot of sail `k` with a frame in its multicast chain (R520). -/
def State.mcDue (s : State) (m k n : Nat) : Bool :=
  s.bit m (F.CAMPAIGN_MC_CH_VALID.at 4 k) && n % max 1 (s.get m F.CAMPAIGN_MC_CFG_PERIOD) == s.get m F.CAMPAIGN_MC_CFG_PHASE
    && s.mcHeads m k != []

/-- Plan the head of sail `k`'s multicast chain in slot `n` (R520): shapers and dwell apply; refused or deferred, it stays. -/
def State.planMulticast (s : State) (m k n : Nat) : State :=
  match s.mcHeads m k with
  | [] => s
  | c :: _ =>
    let ch := s.get m (F.CAMPAIGN_MC_CH_CHANNEL.at 4 k)
    let it := (s.mast m).sal.item c
    if ((s.mast m).mac.chan ch).valid = false
        ∨ (s.mast m).mac.launches.any (fun x => x.cell == c && decide (x.kind = .data) && x.node == noNode) then s
    else
      let r := s.planOn m k n .data noNode c it.body.txFrame ch (s.get m F.CAMPAIGN_RADIO_PROF) (s.get m F.CAMPAIGN_RADIO_FEC)
        (s.getS m F.CAMPAIGN_RADIO_POWER) it.desc.prio (400 * s.tsTx m : Nat)
      match r.1 with
      | .fifo => r.2.fifoOver m noNode
      | .busy => r.2.bump m F.MAC_CARRIER_BUSY
      | .refused x =>
        if notDeferred x.reason then r.2.txEvent m noNode x
        else if x.reason = 9 then r.2.bump m F.MAC_PROFILE_INVALID else r.2
      | .shaped => r.2
      | .dwell => r.2.bump m F.DWELL_DEFER
      | .planned => r.2

/-- A candidate of the plan: beacons of sail `k` as `2^20 + k`, its multicast chain as `2^21 + k` (R520), nodes by index; with its rank
(R211). -/
structure PlanCand where
  id : Nat
  prio : Nat
  enq : Nat
deriving DecidableEq, Repr

/-- Whether `a` is planned before `b` (R211). -/
def PlanCand.before (a b : PlanCand) : Bool :=
  if a.prio ≠ b.prio then a.prio < b.prio else if a.enq ≠ b.enq then decide (sdiff 32 a.enq b.enq < 0) else a.id ≤ b.id

/-- The first of some candidates in plan order. -/
def firstCand : List PlanCand → Option PlanCand
  | [] => none
  | a :: as => match firstCand as with
    | some b => if a.before b then some a else some b
    | none => some a

/-- What is left to plan for slot `n` (R43): due beacons first, then nodes with an event in `n`. -/
def State.cands (s : State) (m n : Nat) : List PlanCand :=
  let M := s.mast m
  let bs := (s.sailList.filter (fun k => s.beaconDue m k n)).map (fun k => (⟨2 ^ 20 + k, 0, 0⟩ : PlanCand))
  let ns := (List.filter (fun (e : Nat × NodeRec) => e.2.link.period != 0 && (e.2.link.eventAt n).2 == n % 2 ^ 40) M.nodes).map
    (fun e => match M.sal.seen e.1 e.2.chain with
      | c :: _ => (⟨e.1, 1 + (M.sal.item c).desc.prio, (M.sal.item c).enqT⟩ : PlanCand)
      | [] => ⟨e.1, 17, 0⟩)
  let cs := (s.sailList.filter (fun k => s.mcDue m k n)).map (fun k => (⟨2 ^ 21 + k, 0, 0⟩ : PlanCand))
  (bs ++ cs ++ ns).filter (fun c => !(M.mac.planned.contains c.id))

/-- Launches of sail `k` that are planned and not yet built (R51): at most 64. -/
def Mac.unbuilt (M : Mac) (k : Nat) : Nat := (M.launches.filter (fun l => l.sail == k && l.stage == 0)).length

/-- The sail that a plan candidate is for. -/
def State.candSail (s : State) (m c : Nat) : Nat :=
  if 2 ^ 21 ≤ c then c - 2 ^ 21 else if 2 ^ 20 ≤ c then c - 2 ^ 20 else ((s.mast m).node c).ident.port

/-- Plan the next candidate of the granted slot (R42, R43); Plan stalls while its sail has 64 launches that Build has not taken (R51). -/
def State.planNext (s : State) (m : Nat) : State :=
  match (s.mast m).mac.grant with
  | none => s
  | some n => match firstCand (s.cands m n) with
    | none => s
    | some c =>
      let M := (s.mast m).mac
      let s1 := s.setMac m { M with planned := M.planned ++ [c.id] }
      if 64 ≤ M.unbuilt (s.candSail m c.id) then s
      else if 2 ^ 21 ≤ c.id then s1.planMulticast m (c.id - 2 ^ 21) n
      else if 2 ^ 20 ≤ c.id then s1.planBeacon m (c.id - 2 ^ 20) n else s1.planNode m c.id n

/-! ## ACKs, build and deliver (R43, R51, R55, R58, R268) -/

/-- Whether the MAC launch queue of sail `k` has a free entry (R51): 32 launches that are built and not yet handed to the link fill it. -/
def State.launchRoom (s : State) (m k : Nat) : Bool :=
  decide (((s.mast m).mac.launches.filter (fun l => l.sail == k && l.stage == 1)).length < 32)

/-- An ACK that is not sent: its launch and its cells go. -/
def State.dropAck (s : State) (m : Nat) (l : Launch) : State := (s.resolve m l 0).freeItem m l.cell

/-- MAC_LAUNCH takes the ACK of item `d` (R52, R58, R211, R268): it gets any free carrier, passes the builder's checks and the dwell, and
joins its sail's launch queue; none while that has no room. -/
def State.placeAck (s : State) (m : Nat) (d : Desc) (l : Launch) : Option State :=
  let M := (s.mast m).mac
  let pre := s.preamble (copyDie m l.sail) l.pers
  if s.launchRoom m l.sail = false then none
  else if 262144 < s.samplesOn m l.sail l.pers l.rate l.fec l.frame.len pre then
    some ((s.dropAck m l).fifoOver m l.node)
  else match (s.freeCarriers m l.sail l.at_ (l.at_ + 400 * l.airUs)).head? with
    | none => some ((s.dropAck m l).bump m F.MAC_ACK_NOCARRIER)
    | some c => match s.planCheck m l.sail c l.freq l.pers l.rate l.fec l.airUs l.power l.at_ with
      | .error r =>
        some (if notDeferred r then (s.dropAck m l).txEvent m l.node (planRefusal r c l.power l.start l.asn) else s.dropAck m l)
      | .ok pout =>
        let w := s.dwell m l.channel l.at_ l.airUs
        if w.1 = false then some ((w.2.dropAck m l).bump m F.DWELL_ACK_DROP)
        else
          let M1 := (w.2.mast m).mac
          let l1 := { l with carrier := c, placed := true, pout := pout, stage := 1, charged := s.dwellW m (M.chan l.channel).dclass != 0,
                             bucket := bucketOf l.at_ }
          (w.2.setMac m (M1.setLaunch l1)).enqueue m (130 + l.sail) d.cell

/-- Build works past its soft end (R53): the slot is counted once. -/
def State.buildLateCheck (s : State) (m : Nat) : State :=
  let M := (s.mast m).mac
  if M.buildLate ∨ s.localNs m ≤ (s.mast m).tickNow + 3 * s.slotNs m / 5 then s
  else (s.setMac m { M with buildLate := true }).bump m F.MAC_BUILD_OVERRUN

/-- Seal the beacon of launch `l` under its group counter and put it on its sail's launch queue (R265, R269); it waits for a counter
reservation, for account 48 and its queue, where a wait that admission makes is a hold (R325). -/
def State.buildBeacon (s : State) (m : Nat) (l : Launch) : State :=
  let miss (t : State) : State := (t.resolve m l 0).beaconMiss m l.sail
  match s.useSlot m (s.get m F.MAC_BEACON_RADIO_KEY_SLOT) .enc with
  | (.error _, t) => miss (t.noKey m)
  | (.ok k, t) =>
    match t.fcNext m (s.get m (F.MAC_FC_GROUP.at 4 0)) with
    | .exhausted => miss (t.fcExhausted m 0)
    | .deferred => miss (t.fcReserve m)
    | .wait => s.fcReserve m
    | .value v =>
      let f := s.sealFrame m (keyOf k) v l.frame
      match t.allocItem m 48 f.len (.down f) with
      | none => s.engineWaits m 14
      | some (c, u) =>
        let d : Desc := { Desc.zero with station := 14, cell := c, len := f.len, node := noNode, port := l.sail, flags := 3 }
        let u1 := ((u.put m (F.MAC_FC_GROUP.at 4 0) v).fcTaken m v).setItemBody m c d (.down f)
        match (u1.setMac m ((u1.mast m).mac.setLaunch { l with stage := 1, cell := c, frame := f })).enqueue m (130 + l.sail) c with
        | none => s.engineWaits m 14
        | some w => w.engineAdmitted m 14

/-- Build the launch of handle `h` for the granted slot (R42, R43, R51): a beacon is sealed; a data frame keeps its sealed bytes (R50). -/
def State.buildLaunch (s : State) (m h : Nat) : State :=
  match (s.mast m).mac.launch h with
  | none => s
  | some l =>
    if l.stage ≠ 0 ∨ l.kind = .ack ∨ (s.mast m).mac.grant ≠ some l.asn ∨ s.launchRoom m l.sail = false then s
    else
      let s1 := s.buildLateCheck m
      if l.kind = .data then s1.setMac m ((s1.mast m).mac.setLaunch { l with stage := 1 }) else s1.buildBeacon m l

/-- Deliver the launch of handle `h` (R43, R49, R51, R53, R54): it leaves its queue and goes to the link, once that takes it; a planned frame
only within its grant.  A BROKEN launch queue gives nothing (R315). -/
def State.deliverLaunch (s : State) (m h : Nat) : State :=
  match (s.mast m).mac.launch h with
  | none => s
  | some l =>
    if l.stage ≠ 1 ∨ s.linkTakes m l.sail = false ∨ (l.kind ≠ .ack ∧ (s.mast m).mac.grant ≠ some l.asn)
        ∨ (l.kind ≠ .data ∧ ((s.mast m).sal.queue (130 + l.sail)).broken) then s
    else (if l.kind = .data then s else s.dropQueued m l).handLaunch m l

/-- Write the CFO hints of the first sail that has some (R158, R264): one CMD of at most seven entries. -/
def State.sendHints (s : State) (m : Nat) : State :=
  let M := (s.mast m).mac
  match M.hints with
  | [] => s
  | (k, _) :: _ =>
    let mine := (M.hints.filter (fun x => x.1 == k)).take 7
    let seq := Tbl.get (fun _ => 0) (s.mast m).cmdSeq k
    let s1 := s.setMast m { s.mast m with mac := { M with hints := M.hints.filter (fun x => !mine.contains x) },
                                          cmdSeq := Tbl.set (fun _ => 0) (s.mast m).cmdSeq k ((seq + 1) % 2 ^ 32) }
    (s1.toSail m k 0x09 seq (0xC1 :: mine.length :: mine.flatMap (fun x => leBytes 6 (HintEntry.word ⟨true, x.2⟩)))).count m
      F.MAC_HINT_WRITTEN mine.length

/-- MAC_LAUNCH (R43): one piece of work of station 0x0E on mast `m`: 0 takes the next ACK, 1 plans the next candidate of the granted
slot, 2 builds launch `h`, 3 delivers it, 4 writes CFO hints. -/
def execMacLaunch (m work h : Nat) (s : State) : Host.Outcome State Fault Refusal :=
  .next (
    if s.fitted m = false ∨ 2 ≤ m then s
    else match work with
      | 0 => match s.engineTake m 14 with
        | none => s.engineIdle m 14
        | some (d, t) => match (t.mast m).mac.launches.find? (fun l => decide (l.kind = .ack) && l.cell == d.cell && l.stage == 0) with
          | none => t.freeItem m d.cell
          | some l => match t.placeAck m d l with
            | some u => u.engineAdmitted m 14
            | none => s.engineRefused m 14
      | 1 => s.planNext m
      | 2 => s.buildLaunch m h
      | 3 => s.deliverLaunch m h
      | 4 => s.sendHints m
      | _ => s)

/-! ## TX_DONE (R213, R231, R258, R260, R262, R268–R270) -/

/-- The mast's copy of the duty history takes the air time of a report (R231). -/
def State.copyCharge (s : State) (m : Nat) (l : Launch) (us : Nat) : State :=
  let minute := s.dutyMinute m
  (s.locksOver (copyDie m l.sail) l.freq l.pers).foldl (fun t e =>
    let i := (16 * l.sail + e.index) * 2 ^ 40 + minute
    let M := t.mast m
    t.setMast m { M with dutyCopy := Tbl.set (fun _ => 0) M.dutyCopy i (Tbl.get (fun _ => 0) M.dutyCopy i + us) }) s

/-- A beacon's report (R269, R270). -/
def State.beaconDone (s : State) (m : Nat) (l : Launch) (status : Nat) : State :=
  if status = 0 ∨ status = 3 then
    let M := (s.mast m).mac
    (s.setMac m { M with beaconRun := Tbl.set (fun _ => 0) M.beaconRun l.sail 0 }).bump m F.MAC_BEACON_SENT
  else s.beaconMiss m l.sail

/-- An ACK's report (R56, R258, R260). -/
def State.ackDone (s : State) (m : Nat) (l : Launch) (status reason : Nat) : State :=
  let s1 := if status = 0 ∨ status = 3 then s.bump m F.MAC_ACK_SENT else if status = 2 ∧ reason = 1 then s.bump m F.MAC_ACK_LATE else s
  if status = 0 ∧ l.node ≠ noNode then
    let k := ((s1.mast m).node l.node).link
    s1.setLink m l.node { k with lastSync := l.aInt, syncValid := true, lastTc := l.tc, tcClamped := l.tcClamped }
  else s1

/-- A data frame's report (R50, R212, R213, R262). -/
def State.dataDone (s : State) (m : Nat) (l : Launch) (r : TxReport) : State :=
  let k := ((s.mast m).node l.node).link
  if r.status = 2 ∧ notDeferred r.reason ∧ l.node ≠ noNode then s.frameGone m l.node l.sail l.cell false
  else if r.status = 1 ∨ r.status = 2 then s
  else if l.node ≠ noNode ∧ k.ackReq then
    let M := (s.mast m).mac
    let e := s.pos m (nearAsn (s.mast m).asn r.asnLo) r.start + 400 * r.air
    s.setMac m { M with waits := M.waits.filter (fun w => w.node != l.node) ++ [⟨l.node, l.cell, l.frame.seqNo, e, 0, false, false, false⟩] }
  else if r.status = 0 then s.frameGone m l.node l.sail l.cell true
  else s

/-- The MAC launch builder acts on a TX_DONE report of sail `k` (R213). -/
def State.txDone (s : State) (m k : Nat) (r : TxReport) : State :=
  match (s.mast m).mac.launches.find? (fun l => l.handle == r.handle && l.sail == k && l.stage == 2) with
  | none => s
  | some l =>
    let back := r.status = 1 ∨ r.status = 2
    let s1 := s.resolve m l (if back then 0 else if r.status = 3 then r.air else l.airUs)
    let s2 := if back ∧ l.kind = .data then s1.unshape m k (l.prio / 2) l.frame.len else s1
    let s3 := if back then s2 else s2.copyCharge m l r.air
    let s4 := if r.status = 3 ∨ (r.status = 2 ∧ notDeferred r.reason) then s3.txEvent m l.node r else s3
    match l.kind with
    | .beacon => s4.beaconDone m l r.status
    | .ack => s4.ackDone m l r.status r.reason
    | .data => s4.dataDone m l r

/-- TX_DONE (R213, R467). -/
def execTxDone (m k : Nat) (r : TxReport) (hdr : List LinkPkt) (s : State) : Host.Outcome State Fault Refusal :=
  .next (
    if s.hasSail k = false ∨ s.fitted m = false ∨ m ≠ s.active then s
    else
      let x := s.receive (connId m k) true 0x0A hdr
      if x.1 = false then x.2
      else match x.2.mirror m (.txDone k r) 0 with
        | some t => t.txDone m k r
        | none => s)

/-! ## Judgement and supervision (R255, R262, R263) -/

/-- RETRY_LIMIT in effect (R272). -/
def State.retryLimit (s : State) (m : Nat) : Nat := max 1 (s.get m F.MAC_RETRY_CFG_RETRY_LIMIT)

/-- A downlink of node `v` is unanswered (R262). -/
def State.unanswered (s : State) (m v c : Nat) : State :=
  let l := ((s.mast m).node v).link
  let miss := min 2 (l.miss + 1)
  let hold := miss = 2 ∧ l.state = 1
  let retry := min 15 (l.retry + 1)
  let drop := s.retryLimit m ≤ retry
  let s1 := (s.setLink m v { l with retry := if drop then 0 else retry, miss := miss, state := if hold then 2 else l.state }).bump m
    F.MAC_DL_UNANSWERED
  let s2 := if hold then s1.bump m F.MAC_HELD_ENTRY else s1
  if drop then (((s2.chainRemove m v c).campLeft m c false).bump m F.MAC_DL_DROPPED).dlDropped m v .noAck else s2

/-- ACK_JUDGEMENT (R262): the downlink of node `v` is judged 20 ms after its answer interval. -/
def execAckJudgement (m v : Nat) (s : State) : Host.Outcome State Fault Refusal :=
  .next (match (s.mast m).mac.waits.find? (fun w => w.node == v && !w.judged) with
    | none => s
    | some w =>
      let M := (s.mast m).mac
      let s1 := s.setMac m { M with waits := M.waits.map (fun x => if x = w then { x with judged := true } else x) }
      if w.answered then
        let l := ((s1.mast m).node v).link
        (s1.setLink m v { l with retry := 0, miss := 0, lastHeard := w.heard % 2 ^ 40 }).frameGone m v 0 w.cell true
      else s1.unanswered m v w.cell)

/-- SUPERVISION_SWEEP (R263): the next 256 records. -/
def execSupervisionSweep (m : Nat) (s : State) : Host.Outcome State Fault Refusal :=
  .next (
    if s.fitted m = false ∨ 2 ≤ m ∨ s.bit m F.MAC_SUPV_CFG_SWEEP_EN = false then s
    else
      let a := (s.mast m).mac.sweepAt
      let t := (Tbl.keysIn (s.mast m).nodes a (a + 256)).foldl (fun t v => if t.supervised m v (s.mast m).asn then t.nodeLost m v else t) s
      t.setMac m { (t.mast m).mac with sweepAt := (a + 256) % 131072 })

/-! ## Peers, reservations, soft ends and the duty record (R53, R231, R265, R271) -/

/-- PEER_BEACON_SLOT_END (R271): the beacon slot of peer `p` has ended; `blanked` says that every fitted sail had all of its enabled
windows blanked for more than half of it. -/
def execPeerBeaconSlotEnd (m p : Nat) (blanked : Bool) (s : State) : Host.Outcome State Fault Refusal :=
  let M := (s.mast m).mac
  let per := s.get m (F.MAC_PEER_PERIOD.at 16 p)
  let dropped (t : State) (q : Nat) : Bool := (t.get m F.MAC_PEER_STATE_DROPPED).testBit q
  .next (
    if s.fitted m = false ∨ 2 ≤ m ∨ 4 ≤ p ∨ s.bit m (F.MAC_PEER_EN.at 16 p) = false ∨ per = 0
        ∨ ((s.mast m).asn + 2 ^ 40 - 1) % 2 ^ 40 % per ≠ s.get m (F.MAC_PEER_PHASE.at 16 p) ∨ dropped s p then s
    else if Tbl.get (fun _ => false) M.peerSeen p then s.setMac m { M with peerSeen := Tbl.set (fun _ => false) M.peerSeen p false }
    else if blanked then s
    else
      let run := Tbl.get (fun _ => 0) M.peerRun p + 1
      let s1 := (s.setMac m { M with peerRun := Tbl.set (fun _ => 0) M.peerRun p (run % 3) }).bump m F.MAC_PEER_MISS
      if run < 3 then s1
      else
        let s2 := (s1.setBit m F.MAC_PEER_STATE_DROPPED.addr p).irq m 0x020 4
        let all := (List.range 4).all (fun q => !(s2.bit m (F.MAC_PEER_EN.at 16 q)) || dropped s2 q)
        if all ∧ s2.get m (dc F.TIME_D_SRC_SRC 1) = 3 then s2.sourceLost m 1 else s2)

/-- FC_RESERVE_DONE (R265): the reservation write of mast `m` completes, or fails. -/
def execFcReserveDone (m : Nat) (ok : Bool) (s : State) : Host.Outcome State Fault Refusal :=
  let M := (s.mast m).mac
  .next (match M.fcPending with
    | none => s
    | some p =>
      if ok then ((s.ringWrite m p true).setMac m { M with fcReserve := p, fcPending := none, fcFailed := false }).bump m F.MAC_FC_RESERVE
      else ((s.ringWrite m p false).setMac m { M with fcPending := none, fcFailed := true }).irq m 0x020 9)

/-- STAGE_SOFT_END (R53, R59): stage 0 Plan and 1 Build of mast `d` are counted when they still have work of the granted slot; Build that
gets its work later is counted as it works (`State.buildLateCheck`), and Deliver frame by frame (`State.noteLeft`).  Stage 3: the modulator
of the sail of die `d` finishes the frame of handle `h` after the tick that opened its slot. -/
def execStageSoftEnd (d stage h : Nat) (s : State) : Host.Outcome State Fault Refusal :=
  .next (
    if s.fitted d = false then s
    else if 2 ≤ d then (if stage = 3 then s.modulatedLate (d - 2) h else s)
    else
      let M := (s.mast d).mac
      match stage, M.grant with
      | 0, some n => if s.cands d n = [] then s else s.bump d F.MAC_PLAN_OVERRUN
      | 1, some n =>
        if M.buildLate = false ∧ M.launches.any (fun l => l.asn == n && l.stage == 0 && l.kind != .ack) then
          (s.setMac d { M with buildLate := true }).bump d F.MAC_BUILD_OVERRUN
        else s
      | _, _ => s)

/-- The enabled carriers of sail `k` whose band can overlap lock entry `e` (R231): all that run, when the transmit window span meets it. -/
def State.carriersOver (s : State) (m k : Nat) (e : LockEntry) : Nat :=
  let x := s.sail k
  let c := centreOf x.txRun
  if x.txRun.testBit 31 ∧ bandsMeet ((c - 516) * 100000) ((c + 508) * 100000) e.lo e.hi then
    ((List.range 4).filter (fun i => s.carrierOn (copyDie m k) i x.reefed)).length
  else 0

/-- The duty record's content: at `(16 * sail + entry) * 2^40 + age` the µs charged `age` minutes before the record, and at age `2^39` the
number of carriers that could use the entry.
DUTY_RECORD_WRITE (R231): mast `m` writes its duty record while any accumulator is not zero. -/
def execDutyRecordWrite (m : Nat) (s : State) : Host.Outcome State Fault Refusal :=
  .next (
    if s.fitted m = false ∨ 2 ≤ m then s
    else
      let now := s.dutyMinute m
      let M := s.mast m
      let live := List.filter (fun (e : Nat × Nat) => decide (now < e.1 % 2 ^ 40 + 61)) M.dutyCopy
      if live = [] then s.setMast m { M with dutyCopy := [] }
      else
        let aged := live.map (fun (e : Nat × Nat) => (e.1 / 2 ^ 40 * 2 ^ 40 + (now - e.1 % 2 ^ 40), e.2))
        let cars := s.sailList.flatMap (fun k => (s.locks (copyDie m k)).filterMap (fun e =>
          if s.carriersOver m k e = 0 then none else some ((16 * k + e.index) * 2 ^ 40 + 2 ^ 39, s.carriersOver m k e)))
        let rec_ := (aged ++ cars).foldl (fun (t : Tbl Nat) e => Tbl.set (fun _ => 0) t e.1 e.2) []
        (s.setMast m { M with dutyCopy := live, dutyRec := some rec_ }).output m 49 (0xD0 :: rec_.flatMap (fun (e : Nat × Nat) => leBytes 8 e.1 ++ leBytes 8 e.2)))

/-! ## At the tick (R42, R49, R483) -/

/-- Withdraw what mast `m` has planned and not handed to the link, for the slot that opens now or one that a step or set has skipped, and
count beacons that were not planned as missed (R42, R49, R50, R270). -/
def State.withdrawTick (s : State) (m : Nat) : State :=
  let n := (s.mast m).asn
  let M := (s.mast m).mac
  let late := M.launches.filter (fun l => decide (l.stage < 2) && l.kind != .ack)
  let s1 := late.foldl (fun t l =>
    let t1 := (t.resolve m l 0).bump m F.MAC_TICK_WITHDRAW
    if l.kind = .data then t1.unshape m l.sail (l.prio / 2) l.frame.len
    else ((if l.stage = 1 then t1.dropQueued m l else t1).beaconMiss m l.sail)) s
  if M.grant = some n then
    (s.sailList.filter (fun k => s.beaconDue m k n && !(M.planned.contains (2 ^ 20 + k)))).foldl (fun t k => t.beaconMiss m k) s1
  else s1

/-- Resolve as REFUSED with LAUNCH_LATE what a mast that took over had planned as jury, once the slot has ended (R483). -/
def State.oldLaunches (s : State) (m : Nat) : State :=
  let M := (s.mast m).mac
  let n := (s.mast m).asn
  let due := M.launches.filter (fun l => M.oldLaunch.contains l.handle && decide (sdiff 40 l.asn n < 0))
  let s1 := due.foldl (fun t l => t.txDone m l.sail ⟨2, 1, 0, l.handle, l.carrier, l.power, l.start, l.asn % 256, 0⟩) s
  s1.setMac m { (s1.mast m).mac with oldLaunch := M.oldLaunch.filter (fun h => !(due.any (fun l => l.handle == h))) }

/-- The grant of the following slot (R42, R370). -/
def State.grantSlot (s : State) (m : Nat) : State :=
  let s1 := s.shapeGrant m
  s1.setMac m { (s1.mast m).mac with grant := some (((s.mast m).asn + 1) % 2 ^ 40), planned := [], buildLate := false, hints := [] }

end Sys2Proof.Machine
end

