-- ==== Sys2Proof/Machine/Nv.lean ====
section
/-! DEFINITION. The NV store's commands and completions: record writes, the reservation ring, checkpoints, SAVE_CAL and the FLASH page
(R620–R632). -/

namespace Sys2Proof.Machine

/-! ## Record writes (R621–R623) -/

/-- A config write ends (R622): failed, the update engine shows NV_FAIL and works on from the older record. -/
def State.cfgDone (s : State) (m : Nat) (ok : Bool) : State :=
  let N := (s.mast m).nv
  match N.cfgJobs with
  | [] => s
  | r :: rest =>
    let s0 := s.nvDone m 0 ok
    let s1 := s0.setNv m { (s0.mast m).nv with cfg := if ok then some r else N.cfg, cfgJobs := rest }
    let s2 := if rest = [] then s1 else s1.nvErase m 0
    if ok then s2
    else
      let old := N.cfg.getD ⟨UpdRec.fresh, []⟩
      let s3 := if r.cal = old.cal then s2 else s2.put m F.NVSTORE_STATUS_RESULT 2
      if r.upd = old.upd then s3
      else (s3.put m F.UPDATE_STATUS_RESULT 14).setMast m { (s3.put m F.UPDATE_STATUS_RESULT 14).mast m with
        upd := { (s3.mast m).upd with urec := old.upd } }

/-- A campaign write ends (R530): counted, or CAMP_PERSIST_FAIL. -/
def State.campDone (s : State) (m : Nat) (ok : Bool) : State :=
  let N := (s.mast m).nv
  match N.campJobs with
  | [] => s
  | r :: rest =>
    let s0 := s.nvDone m 2 ok
    let s1 := s0.setNv m { (s0.mast m).nv with camp := if ok then some r else N.camp, campJobs := rest }
    let s2 := if rest = [] then s1 else s1.nvErase m 2
    if ok then s2.bump m F.CAMPAIGN_PERSISTS else (s2.put m F.CAMPAIGN_STATUS_RESULT 7).irq m 0x041 3

/-- A checkpoint pass ends (R626). -/
def State.ckptDone (s : State) (m : Nat) (ok : Bool) : State :=
  let N := (s.mast m).nv
  match N.ckptJob with
  | none => s
  | some c =>
    let s1 := (s.nvDone m 3 ok).put m F.NVSTORE_STATUS_CKPT_BUSY 0
    if ok then
      ((s1.setNv m { (s1.mast m).nv with ckpt := some c, ckptJob := none, ckptEnd := some (s.localNs m) }).bump m F.NVSTORE_CKPT_DONE).irq m 0x042 3
    else (s1.setNv m { (s1.mast m).nv with ckptJob := none }).put m F.NVSTORE_STATUS_RESULT 2

/-- NV_RECORD_WRITE_DONE (R622): the oldest write of store `k` completes its trailer or fails its read-back. -/
def execNvRecordWriteDone (m k : Nat) (ok : Bool) (s : State) : Host.Outcome State Fault Refusal :=
  .next (
    if s.fitted m = false ∨ 2 ≤ m then s
    else match k with
      | 0 => s.cfgDone m ok
      | 1 => s.persistDone m ok
      | 2 => s.campDone m ok
      | 3 => s.ckptDone m ok
      | _ => s)

/-- RING_SECTOR_ERASE (R625): sector `k` is erased in the background once the first slot of the sector before it is programmed. -/
def execRingSectorErase (m k : Nat) (s : State) : Host.Outcome State Fault Refusal :=
  .next (
    let n := s.ringNext m
    if s.fitted m = false ∨ 2 ≤ m ∨ n % 256 = 0 ∨ (n / 256 + 1) % 256 ≠ k then s
    else s.setNv m { (s.mast m).nv with ringUsed := (s.mast m).nv.ringUsed.erase k })

/-! ## Checkpoints (R626) -/

/-- The entries of a checkpoint: every record in use, with the STATIC flag of its table entry. -/
def State.ckptOf (s : State) (m : Nat) : Ckpt :=
  let M := s.mast m
  let stat (n : Nat) : Bool := M.nt.buckets.any (fun e => e.2.valid && e.2.node == n && e.2.static)
    || M.nt.bittern.any (fun e => e.2.valid && e.2.node == n && e.2.static)
  { seed := s.get64 m F.NODETAB_SEED_CUR_SEED,
    entries := (List.filter (fun (e : Nat × NodeRec) => e.2.ident.used) M.nodes).map (fun e => ⟨e.1, e.2, stat e.1⟩) }

/-- A checkpoint pass starts (R626). -/
def State.ckptStart (s : State) (m : Nat) : State :=
  let s1 := (s.nvStart m 3).put m F.NVSTORE_STATUS_CKPT_BUSY 1
  let c := s1.ckptOf m
  (s1.setNv m { (s1.mast m).nv with ckptJob := some c, ckptStart := some (s.localNs m) }).output m 49
    (numBytes (3 :: c.seed :: c.entries.map (fun e => e.node)))

/-- CHECKPOINT_PERIODIC (R626): PERIOD minutes have passed since the last pass. -/
def execCheckpointPeriodic (m : Nat) (s : State) : Host.Outcome State Fault Refusal :=
  .next (
    if s.fitted m = false ∨ 2 ≤ m ∨ s.bit m F.NVSTORE_CKPT_CFG_EN = false ∨ (s.mast m).nv.ckptJob.isSome then s
    else s.ckptStart m)

/-- CHECKPOINT_DONE (R626). -/
def execCheckpointDone (m : Nat) (ok : Bool) (s : State) : Host.Outcome State Fault Refusal :=
  .next (if s.fitted m = false ∨ 2 ≤ m then s else s.ckptDone m ok)

/-- The user calibration of every fitted sail (R629). -/
def State.calNow (s : State) : Tbl Nat :=
  s.sailList.foldl (fun t k => (List.range 45).foldl (fun u i =>
    Tbl.set (fun _ => 0) u (64 * k + i) (s.word (key (sailDie k) (F.SCAL_USER_USER.addr + 4 * i))).toNat) t) []

/-- A write of NVSTORE.CMD (R629): other values are ignored; a CHECKPOINT within 120 minutes of the start of the last pass is refused. -/
def State.accNvCmd (s : State) (m r width value : Nat) : State :=
  s.action m 0x042 0x044 r true width 4 (fun t =>
    match value % 16 with
    | 1 =>
      let soon := match (t.mast m).nv.ckptStart with
        | some a => decide (t.localNs m < a + 7200000000000)
        | none => false
      if soon then t.put m F.NVSTORE_STATUS_RESULT 1 else (t.put m F.NVSTORE_STATUS_RESULT 0).ckptStart m
    | 2 => (t.put m F.NVSTORE_STATUS_RESULT 0).cfgWrite m { t.cfgNow m with cal := t.calNow }
    | _ => t)

/-- CHECKPOINT (R626). -/
def execCheckpoint (m r width : Nat) (s : State) : Host.Outcome State Fault Refusal :=
  .next (s.hostOn m r 0x042 0x044 width 1 .empty (fun m t => t.accNvCmd m r width 1))

/-- SAVE_CAL (R629). -/
def execSaveCal (m r width : Nat) (s : State) : Host.Outcome State Fault Refusal :=
  .next (s.hostOn m r 0x042 0x044 width 2 .empty (fun m t => t.accNvCmd m r width 2))

/-! ## The FLASH page (R631, R632) -/

/-- A FLASH operation ends with RESULT `x`. -/
def State.flashEnd (s : State) (m x : Nat) : State :=
  let s1 := ((s.setNv m { (s.mast m).nv with flashOp := none }).put m F.FLASH_STATUS_BUSY 0).put m F.FLASH_STATUS_RESULT x
  if x = 0 then s1.irq m 0x043 0 else (s1.bump m F.FLASH_ERRORS).irq m 0x043 1

/-- Why an operation is refused (R609, R631): PRIV below OWNER in recovery; RANGE outside the user area, outside the flash or unaligned. -/
def State.flashCheck (s : State) (m r op a : Nat) : Nat :=
  let n := if op = 3 then 4096 else 256
  let rec_ := s.bit m F.FLASH_BOOT_RECOVERY
  if rec_ ∧ s.privOf m (s.ctxOf m r) < 3 then 4
  else if (rec_ = false ∧ a < 0x03700000) ∨ s.get m F.FLASH_INFO_SIZE_MIB * 2 ^ 20 < a + n then 1
  else if (op = 2 ∧ a % 256 ≠ 0) ∨ (op = 3 ∧ a % 4096 ≠ 0) then 1
  else 0

/-- A write of FLASH.CMD (R631): other values are ignored; while BUSY it sets LOCKV. -/
def State.accFlash (s : State) (m r width value : Nat) : State :=
  s.action m 0x043 0x044 r true width 4 (fun t =>
    let op := value % 16
    let a := t.get m F.FLASH_ADDR_ADDR
    if op = 0 ∨ 3 < op then t
    else if t.bit m F.FLASH_STATUS_BUSY then t.lockv m 0x043 0x044 r
    else
      let x := t.flashCheck m r op a
      if x ≠ 0 then t.flashEnd m x
      else
        let t1 := (t.nvRequest m 5).put m F.FLASH_STATUS_BUSY 1
        t1.setNv m { (t1.mast m).nv with flashOp := some ⟨op, a, if op = 2 then t.regBytes m F.FLASH_DATA_DATA 64 256 else []⟩ })

/-- FLASH_READ (R631). -/
def execFlashRead (m r width : Nat) (s : State) : Host.Outcome State Fault Refusal :=
  .next (s.hostOn m r 0x043 0x044 width 1 .empty (fun m t => t.accFlash m r width 1))

/-- FLASH_PROGRAM (R631). -/
def execFlashProgram (m r width : Nat) (s : State) : Host.Outcome State Fault Refusal :=
  .next (s.hostOn m r 0x043 0x044 width 2 .empty (fun m t => t.accFlash m r width 2))

/-- FLASH_ERASE (R631). -/
def execFlashErase (m r width : Nat) (s : State) : Host.Outcome State Fault Refusal :=
  .next (s.hostOn m r 0x043 0x044 width 3 .empty (fun m t => t.accFlash m r width 3))

/-- `n` free bytes (log entry 2). -/
def State.freeBytes (s : State) : Nat → List Nat × State
  | 0 => ([], s)
  | n + 1 =>
    let x := s.free
    let r := State.freeBytes x.2 n
    (x.1 % 256 :: r.1, r.2)

/-- Load the 256-byte buffer of the FLASH page. -/
def State.flashBuffer (s : State) (m : Nat) (l : List Nat) : State :=
  ((List.range 64).zip (wordsOf 64 l)).foldl (fun t e => t.put m (F.FLASH_DATA_DATA.at 4 e.1) e.2) s

/-- FLASH_DONE (R631, R632): the operation under way ends; `fail` is 0, 2 for a failed verify or 3 for a timeout.  A program that asks a
0 cell to read 1 fails its verify.  A jury that executes inputs takes the bytes it reads from the active mast (R467).  What a failed operation leaves in the bytes it worked on is free. -/
def execFlashDone (m fail : Nat) (s : State) : Host.Outcome State Fault Refusal :=
  .next (
    if s.fitted m = false ∨ 2 ≤ m then s
    else match (s.mast m).nv.flashOp with
      | none => s
      | some o =>
        let N := (s.mast m).nv
        let good := decide (fail ≠ 2 ∧ fail ≠ 3)
        let code := if fail = 3 then 3 else 2
        match o.op with
        | 1 =>
          if good then
            if m ≠ s.active ∧ s.mirroring then s
            else match s.mirror m (.data 2 o.addr (leNat (N.bytes o.addr 256))) 0 with
            | some t => ((t.flashBuffer m (N.bytes o.addr 256)).bump m F.FLASH_READS).flashEnd m 0
            | none => s
          else
            let f := s.freeBytes 256
            (f.2.flashBuffer m f.1).flashEnd m code
        | 2 =>
          if good then
            let N1 := N.program o.addr o.data
            ((s.setNv m N1).bump m F.FLASH_PROGRAMS).flashEnd m (if N1.bytes o.addr 256 = o.data then 0 else 2)
          else
            let f := s.freeBytes 256
            ((f.2.setNv m (N.overwrite o.addr f.1)).bump m F.FLASH_PROGRAMS).flashEnd m code
        | _ =>
          if good then ((s.setNv m (N.erase o.addr 4096)).bump m F.FLASH_ERASES).flashEnd m 0
          else
            let f := s.freeBytes 4096
            ((f.2.setNv m (N.overwrite o.addr f.1)).bump m F.FLASH_ERASES).flashEnd m code)

end Sys2Proof.Machine
end

