-- ==== Sys2Proof/Machine/PairBase.lean ====
section
/-! DEFINITION. The redundant pair's shared operations: which mast takes mirrored inputs, and the outcomes of a state transfer (R466, R487). -/

namespace Sys2Proof.Machine

/-- Replace mast `m`'s pair state. -/
def State.setPair (s : State) (m : Nat) (p : Pair) : State := s.setMast m { s.mast m with pair := p }

/-- PAIR.XFER_STATUS.PHASE of mast `m`. -/
def State.xferPhase (s : State) (m : Nat) : Nat := s.get m F.PAIR_XFER_STATUS_PHASE

/-- Whether mast `j` is a jury that takes mirrored inputs: IN_STEP or DIVERGED, or loading the final pass of a transfer or catching
up after it (R466, R487). -/
def State.jury (s : State) (j : Nat) : Bool :=
  s.redundant && decide (j < 2) && decide (j ≠ s.active)
    && (s.pairState j == 1 || s.pairState j == 3 || (s.pairState j == 2 && decide (2 ≤ s.xferPhase j)))

/-! ## State transfer: outcomes (R487) -/

/-- A transfer ends without success, with a RESULT (R487): the jury returns to OUT_OF_STEP, and the transfer ends on both masts. -/
def State.xferStop (s : State) (code : Nat) : State :=
  let one (t : State) (m : Nat) : State :=
    ((((t.put m F.PAIR_XFER_STATUS_RESULT code).put m F.PAIR_XFER_STATUS_PHASE 0).put m F.PAIR_STATE_STATE 4).bump m F.PAIR_XFER_FAIL).irq m 0x004 5
  let j := 1 - s.active
  let s1 := one (one s s.active) j
  { s1.setPair j { (s1.mast j).pair with buffer := [], slotEnd := none, peerDigest := [] } with shadow := none }

/-- A transfer completes on mast `m` (R487 step 4). -/
def State.xferDone (s : State) (m : Nat) : State :=
  (((((s.put m F.PAIR_STATE_STATE 1).put m F.PAIR_STATE_SELF_FAULT 0).put m F.PAIR_XFER_STATUS_RESULT 1).put m F.PAIR_XFER_STATUS_PHASE 0).bump m
    F.PAIR_XFER_DONE).irq m 0x004 4

/-- The active mast starts a state transfer (R487 step 1). -/
def State.xferStart (s : State) : State :=
  let one (t : State) (m : Nat) : State :=
    (((t.put m F.PAIR_STATE_STATE 2).put m F.PAIR_XFER_STATUS_PHASE 1).put m F.PAIR_XFER_STATUS_PASS 1).put m F.PAIR_XFER_STATUS_RESULT 0
  let a := s.active
  let s1 := one (one s a) (1 - a)
  let s2 := s1.setPair a { (s1.mast a).pair with xferCount := (s1.mast a).pair.xferCount + 1 }
  s2.setPair (1 - a) { (s2.mast (1 - a)).pair with buffer := [], slotEnd := none, peerDigest := [] }

end Sys2Proof.Machine
end

