-- ==== Sys2Proof/Machine/Sessions.lean ====
section
/-! DEFINITION. Sessions: nonces, opening by owner key or password, password records, closing and the failure delay
(R442–R450). -/

namespace Sys2Proof.Machine

/-- Replace session context `ctx`. -/
def State.setSession (s : State) (m ctx : Nat) (x : Session) : State :=
  let K := (s.mast m).keys
  s.setKeys m { K with sessions := Tbl.set (fun _ => ⟨false, 0, 0⟩) K.sessions ctx x }

/-- RESULT of requester `r`'s last attempt (R449). -/
def State.sessionResult (s : State) (m r v : Nat) : State := (s.bput r m F.SESSION_STATE_RESULT v).bput r m F.SESSION_STATE_BUSY 0

/-- IDLE_S of a request; 0 acts as 600 (R449). -/
def idleOf (v : Nat) : Nat := if v = 0 then 600 else v

/-- An attempt succeeds (R445, R447): the context's session opens at `level`, F becomes 0.  Context 6 does not rise above
OPERATE of itself (R443). -/
def State.openSession (s : State) (m r level idle : Nat) : State :=
  let ctx := s.ctxOf m r
  let s1 := s.setSession m ctx ⟨true, if ctx = 6 then min level 2 else level, idleOf idle⟩
  ((s1.put m F.SESSION_DELAY_FAILS 0).bump m F.SESSION_OPENED).sessionResult m r 1

/-- The delay for the present F starts (R447): 2^(F−1) s, up to 1 024 s. -/
def State.delayRuns (s : State) (m : Nat) : State :=
  let f := s.get m F.SESSION_DELAY_FAILS
  (s.setKeys m { (s.mast m).keys with delayFrom := s.now }).put m F.SESSION_DELAY_LEFT
    (if f = 0 then 0 else if 11 ≤ f then 1024 else 2 ^ (f - 1))

/-- An attempt fails (R447): F rises, is written to the config store, and its delay of 2^(F−1) s, up to 1 024 s, runs. -/
def State.failSession (s : State) (m r : Nat) : State :=
  let f := min 4095 (s.get m F.SESSION_DELAY_FAILS + 1)
  let s1 := ((s.put m F.SESSION_DELAY_FAILS f).delayRuns m).output m 49 [0x46, f % 256]
  ((s1.bump m F.SESSION_FAILED).sessionResult m r 2).irq m 0x002 0

/-- The nonce word registers of requester `r`. -/
def State.showNonce (s : State) (m r v : Nat) : State :=
  (List.range 8).foldl (fun (t : State) i => t.setWord (bankKey r m (F.SESSION_NONCE_NONCE.addr + 4 * i)) (Word.ofNat (v / 2 ^ (32 * i)))) s

/-- NONCE_DRAW (R445): a read of NONCE[0] draws 32 fresh bytes for the requester's context; without a working DRBG the words
read 0 and no nonce is valid. -/
def execNonceDraw (m r width : Nat) (s : State) : Host.Outcome State Fault Refusal :=
  .next (s.action m 0x002 0x400 r false width 4 (fun t =>
    let ctx := t.ctxOf m r
    match t.drbgRequest m 256 with
    | some (v, u) =>
      let K := (u.mast m).keys
      (u.setKeys m { K with nonces := Tbl.set (fun _ => none) K.nonces ctx (some v) }).showNonce m r v
    | none =>
      let K := (t.mast m).keys
      (t.setKeys m { K with nonces := Tbl.set (fun _ => none) K.nonces ctx none }).showNonce m r 0))

/-- NONCE_EXPIRY (R445): the nonce of a context is valid no more. -/
def execNonceExpiry (m ctx : Nat) (s : State) : Host.Outcome State Fault Refusal :=
  let K := (s.mast m).keys
  .next (s.setKeys m { K with nonces := Tbl.set (fun _ => none) K.nonces ctx none })

/-- Words of a banked array as bytes. -/
def State.bankBytes (s : State) (r d : Nat) (f : Fld) (w n : Nat) : List Nat :=
  ((List.range w).flatMap (fun i => leBytes 4 (s.word (bankKey r d (f.addr + 4 * i))).toNat)).take n

/-- The owner-key check of R445: RESP = HMAC(owner key, nonce ‖ P). -/
def State.ownerOk (s : State) (m r : Nat) : Bool :=
  let ctx := s.ctxOf m r
  let idle := s.bget r m F.SESSION_REQ_IDLE_S
  match (s.mast m).keys.ownerKey, Tbl.get (fun _ => none) (s.mast m).keys.nonces ctx with
  | some k, some n =>
    let p := [ctx, s.bget r m F.SESSION_REQ_PRIV] ++ leBytes 2 idle ++ [m, 0, 0, 0]
    decide (hmacSha256 (beBytes 32 k) (leBytes 32 n ++ p) = s.bankBytes r m F.SESSION_RESP_RESP 8 32)
  | _, _ => false

/-- A write of SESSION.CTL with OPEN and METHOD 0 (R445): refused during the delay; one attempt for a nonce. -/
def State.accOpenOwner (s : State) (m r width : Nat) : State :=
  s.action m 0x002 0x0A8 r true width 4 (fun t =>
    if t.get m F.SESSION_DELAY_LEFT ≠ 0 then t.sessionResult m r 3
    else
      let ok := t.ownerOk m r
      let K := (t.mast m).keys
      let t1 := t.setKeys m { K with nonces := Tbl.set (fun _ => none) K.nonces (t.ctxOf m r) none }
      if ok then t1.openSession m r (t.bget r m F.SESSION_REQ_PRIV) (t.bget r m F.SESSION_REQ_IDLE_S) else t1.failSession m r)

/-- SESSION_OPEN_OWNER (R445). -/
def execSessionOpenOwner (m r width : Nat) (s : State) : Host.Outcome State Fault Refusal :=
  .next (s.hostOn m r 0x002 0x0A8 width 1 .empty (fun m t => t.accOpenOwner m r width))

/-- A write of SESSION.CTL with OPEN and METHOD 1 (R446): the computation starts; PW_LEN outside 1–64 fails the attempt. -/
def State.accOpenPassword (s : State) (m r width value : Nat) : State :=
  s.action m 0x002 0x0A8 r true width 4 (fun t =>
    let n := value / 2 ^ 8 % 2 ^ 7
    if t.get m F.SESSION_DELAY_LEFT ≠ 0 then t.sessionResult m r 3
    else if n = 0 ∨ 64 < n then t.failSession m r
    else
      let K := (t.mast m).keys
      let x : PwTry := ⟨r, t.bget r m F.SESSION_REQ_PRIV, t.bget r m F.SESSION_REQ_IDLE_S, t.bankBytes r m F.SESSION_PW_BYTES 16 n⟩
      if K.pwTry.any (fun y => y.req == r) then t
      else (t.setKeys m { K with pwTry := K.pwTry ++ [x] }).bput r m F.SESSION_STATE_BUSY 1)

/-- SESSION_OPEN_PASSWORD (R446). -/
def execSessionOpenPassword (m r width value : Nat) (s : State) : Host.Outcome State Fault Refusal :=
  .next (s.hostOn m r 0x002 0x0A8 width (value ||| 5) .empty (fun m t => t.accOpenPassword m r width value))

/-- Whether a password matches some record whose cap PRIV does not exceed (R446). -/
def KeyEng.pwOk (K : KeyEng) (x : PwTry) : Bool :=
  (List.range 3).any (fun i => match Tbl.get (fun _ => none) K.pwRecords i with
    | some q => decide (leNat (pbkdf2 x.pw (leBytes 16 q.salt) 10000) = q.hash ∧ x.priv ≤ q.cap)
    | none => false)

/-- PASSWORD_RESULT (R446): the computation under way for requester `r` completes. -/
def execPasswordResult (m r : Nat) (s : State) : Host.Outcome State Fault Refusal :=
  let K := (s.mast m).keys
  match K.pwTry.find? (fun x => x.req == r) with
  | none => .next s
  | some x =>
    let s1 := s.setKeys m { K with pwTry := K.pwTry.erase x }
    .next (if K.pwOk x then s1.openSession m r x.priv x.idle else s1.failSession m r)

/-- A write of SESSION.CTL with SETPW (R446): an OWNER session sets record PW_SLOT, with a salt from the DRBG. -/
def State.accSetpw (s : State) (m r width value : Nat) : State :=
  s.action m 0x002 0x0A8 r true width 4 (fun t =>
    let n := value / 2 ^ 8 % 2 ^ 7
    if t.privOf m (t.ctxOf m r) < 3 then t.deny m 0x002 0x0A8 r true
    else if n = 0 ∨ 64 < n then t.sessionResult m r 2
    else match t.drbgRequest m 128 with
      | none => t.sessionResult m r 2
      | some (salt, u) =>
        let K := (u.mast m).keys
        let x : PwRecord := ⟨salt, leNat (pbkdf2 (t.bankBytes r m F.SESSION_PW_BYTES 16 n) (leBytes 16 salt) 10000), t.bget r m F.SESSION_REQ_PRIV⟩
        let i := min 2 (t.bget r m F.SESSION_REQ_PW_SLOT)
        (u.setKeys m { K with pwRecords := Tbl.set (fun _ => none) K.pwRecords i (some x) }).output m 49 [0x50, i])

/-- SETPW (R446). -/
def execSetpw (m r width value : Nat) (s : State) : Host.Outcome State Fault Refusal :=
  .next (s.hostOn m r 0x002 0x0A8 width (value ||| 8) .empty (fun m t => t.accSetpw m r width value))

/-- A write of SESSION.CTL with CLOSE (R448). -/
def State.accClose (s : State) (m r width : Nat) : State :=
  s.action m 0x002 0x0A8 r true width 4 (fun t => t.closeSession m (t.ctxOf m r))

/-- SESSION_CLOSE (R448). -/
def execSessionClose (m r width : Nat) (s : State) : Host.Outcome State Fault Refusal :=
  .next (s.hostOn m r 0x002 0x0A8 width 2 .empty (fun m t => t.accClose m r width))

/-- SESSION_IDLE_TIMEOUT (R448): an open session whose context has made no access for IDLE_S closes. -/
def execSessionIdleTimeout (m ctx : Nat) (s : State) : Host.Outcome State Fault Refusal :=
  .next (if (s.session m ctx).isOpen then (s.closeSession m ctx).bump m F.SESSION_TIMEOUTS else s)

/-- FAIL_DELAY_EXPIRY (R447): attempts are accepted again. -/
def execFailDelayExpiry (m : Nat) (s : State) : Host.Outcome State Fault Refusal :=
  .next (s.put m F.SESSION_DELAY_LEFT 0)

end Sys2Proof.Machine
end

