-- ==== Sys2Proof/Machine/Reset.lean ====
section
/-! DEFINITION. The reset of a mast and of a sail: what each clears and what outlives it (R485, R613–R615). -/

namespace Sys2Proof.Machine

/-! ## A mast (R613) -/

/-- Whether the word at `addr` of a mast outlives its reset: chip and fuse readings, reset causes, the crystallizer and tamper pages,
feed and reference states, the flash header, and the state of the NV store. -/
def keepWord (addr : Nat) : Bool :=
  let p := addr / 4096
  let o := addr % 4096
  (p == 0x000 && (o == 0x400 || o == 0x404)) || (p == 0x002 && o == 0x424) || (p == 0x005 && decide (0x400 ≤ o ∧ o < 0x410))
    || (p == 0x030 && o == 0x408) || ((p == 0x03C || p == 0x03D) && decide (0x400 ≤ o ∧ o < 0x800)) || (p == 0x040 && o == 0x410)
    || (p == 0x042 && decide (0x410 ≤ o ∧ o < 0x434)) || (p == 0x043 && (o == 0x404 || o == 0x408))

/-- Whether a key belongs to the copies that mast `m` keeps of the sails' configuration (R154, R211). -/
def inCopies (m k : Nat) : Bool := decide (k / 2 ^ 34 = m + 1)

/-- The registers of the package without those of die `d`, but for the words that `keep` names; the masts' copies of the sails stay. -/
def regsWithout (d : Nat) (keep : Nat → Bool) (l : Tbl Word) : Tbl Word :=
  List.filter (fun (e : Nat × Word) => decide (2 ^ 34 ≤ e.1) || keyDie e.1 != d || (decide (e.1 < 2 ^ 28) && keep (e.1 % 2 ^ 24))) l

/-- The words that a mast's copy of sail `k` reads of the sail itself: its lock entries, their votes, and its factory calibration (R211). -/
def fuseWord (addr : Nat) : Bool :=
  (addr / 4096 == 0x004 && decide (0x040 ≤ addr % 4096 ∧ addr % 4096 < 0x140)) || addr == 0x004400
    || (addr / 4096 == 0x003 && decide (0x400 ≤ addr % 4096 ∧ addr % 4096 < 0x500))

/-- Both masts' copies take the fuse and factory words of sail `k` (R211). -/
def State.copyFuses (s : State) (k : Nat) : State :=
  let ws := List.filter (fun (e : Nat × Word) => decide (e.1 / 2 ^ 24 = sailDie k) && fuseWord (e.1 % 2 ^ 24)) s.regs
  let one (t : State) (m : Nat) : State :=
    let t1 := { t with regs := List.filter (fun (e : Nat × Word) => !(decide (e.1 / 2 ^ 24 = copyDie m k) && fuseWord (e.1 % 2 ^ 24))) t.regs }
    ws.foldl (fun u e => u.setWord (key (copyDie m k) (e.1 % 2 ^ 24)) e.2) t1
  one (one s 0) 1

/-- The copies of mast `m` are at the sails' reset configuration. -/
def State.clearCopies (s : State) (m : Nat) : State :=
  let t := { s with regs := List.filter (fun (e : Nat × Word) => !(inCopies m e.1)) s.regs,
                    profAct := List.filter (fun (e : Nat × Nat) => !(decide (e.1 / 2 ^ 18 = m + 1))) s.profAct,
                    profPend := List.filter (fun (e : Nat × Nat) => !(decide (e.1 / 2 ^ 18 = m + 1))) s.profPend }
  t.sailList.foldl (fun u k => u.copyFuses k) t

/-- Timers, halts and conversions of die `d` stop. -/
def State.dropDie (s : State) (d : Nat) : State :=
  { s with timerAt := List.filter (fun (e : Nat × Nat) => e.1 / 64 != d) s.timerAt,
           timerRem := List.filter (fun (e : Nat × Nat) => e.1 / 64 != d) s.timerRem,
           halted := s.halted.filter (fun x => x != d), convs := s.convs.filter (fun x => x.1 != d) }

/-- The stores whose write a stop tears (R602, R622). -/
def State.tornNow (s : State) (m : Nat) : List Nat :=
  let N := (s.mast m).nv
  (if N.cfgJobs = [] then [] else [0]) ++ (if (s.mast m).keys.persisting.isSome then [1] else []) ++ (if N.campJobs = [] then [] else [2])
    ++ (if N.ckptJob.isSome then [3] else [])

/-- Base address of an image slot (R620). -/
def slotBase (k : Nat) : Nat := if k = 0 then 0x00010000 else 0x00810000

/-- The flash operations under way stop: a reservation's slot is torn (R625), a record's write is torn (R622), and the bytes of a
program or erase under way are free. -/
def State.tearNv (s : State) (m : Nat) : State :=
  let M := s.mast m
  let s1 := match M.mac.fcPending with
    | some p => s.ringWrite m p false
    | none => s
  let hole (t : State) (a n : Nat) : State :=
    let f := t.freeBytes n
    f.2.setNv m ((f.2.mast m).nv.overwrite a f.1)
  let s2 := match M.nv.flashOp with
    | some o => if o.op = 1 then s1 else if o.op = 2 then hole s1 o.addr 256 else hole s1 o.addr 4096
    | none => s1
  let s3 := match M.upd.prog with
    | some (i, _) => if M.upd.erasing then s2 else hole s2 (slotBase (1 - M.upd.urec.setSlot) + 1024 * i) 1024
    | none => s2
  let s4 := match M.camp.prog with
    | some (i, _) => hole s3 (0x03600000 + 1024 * i) 1024
    | none => s3
  s4.setNv m { (s4.mast m).nv with cfgJobs := [], campJobs := [], ckptJob := none, flashOp := none, ckptStart := none, ckptEnd := none,
                                   torn := (s4.tornNow m).foldl (fun l k => l.insert k) (s4.mast m).nv.torn }

/-- What of the key engine outlives a mast reset: what is in fuses and flash, the root, and the tamper inputs (R613). -/
def KeyEng.kept (K : KeyEng) : KeyEng :=
  { KeyEng.reset with root := K.root, banks := K.banks, ownerOtp := K.ownerOtp, ownerKey := K.ownerKey, helper := K.helper,
                      pairSecret := K.pairSecret, pwRecords := K.pwRecords, asserted := K.asserted, recordDue := K.recordDue }

/-- The connections of mast `m` train again. -/
def State.trainMast (s : State) (m : Nat) : State :=
  let s1 := s.sailList.foldl (fun t k => t.setConn (connId m k) { Conn.reset with state := 1 }) s
  if s.redundant then s1.setConn 6 { Conn.reset with state := 1 } else s1

/-- A reset of mast `m` (R613), which restarts at step 5: `cause` is the bit of RESET_CAUSE.  The root, the sail dies, LOCAL and the NV
store stay, SELF_FAULT is latched until a state transfer (R475), and the delay for the stored count of failures runs again (R447). -/
def State.resetMast (s : State) (m cause : Nat) : State :=
  let s1 := s.tearNv m
  let M := s1.mast m
  let fresh := { Mast.resetAt s.now with clk := M.clk, nv := M.nv, keys := M.keys.kept, dutyRec := M.dutyRec, refSince := M.refSince,
                                         rollback := M.rollback, booting := true, bootStep := 5 }
  let s2 := ({ s1.setMast m fresh with regs := regsWithout m keepWord s1.regs }).dropDie m
  let s3 := s2.put m F.PAIR_STATE_SELF_FAULT (s1.get m F.PAIR_STATE_SELF_FAULT)
  (((s3.clearCopies m).trainMast m).delayRuns m).setBit m F.SYS_RESET_CAUSE_CAUSE.addr cause

/-! ## A sail (R485, R615, R633) -/

/-- Whether the word at `addr` of a sail outlives its reset. -/
def keepSailWord (addr : Nat) : Bool :=
  let o := addr % 4096
  (addr / 4096 == 0x003 && decide (0x400 ≤ o ∧ o < 0x500)) || (addr / 4096 == 0x000 && o == 0x404)
    || (addr / 4096 == 0x004 && decide (0x040 ≤ o ∧ o < 0x140)) || addr == 0x004400

/-- A reset of sail `k`, which restarts at step 7: `cause` is the bit of SSYS.RESET_CAUSE.  Once it has a master, that mast reloads its
configuration (R485). -/
def State.resetSail (s : State) (k cause : Nat) : State :=
  let d := sailDie k
  let x := s.sail k
  let s1 := { s with regs := regsWithout d keepSailWord s.regs,
                     profAct := List.filter (fun (e : Nat × Nat) => e.1 / 256 != d) s.profAct,
                     profPend := List.filter (fun (e : Nat × Nat) => e.1 / 256 != d) s.profPend }
  let s2 := (s1.dropDie d).setSail k { Sail.reset with clkBase := s.now, otp := x.otp }
  let s3 := ([0, 1].filter (fun m => s.fitted m)).foldl (fun t m => t.setConn (connId m k) { Conn.reset with state := 1 }) s2
  (((s3.put d F.SSYS_STATE_STATE 1).put d F.REGLOCK_STATUS_FUSE_BUSY 0).put d F.REGLOCK_STATUS_FUSE_ERR 0).setBit d F.SSYS_RESET_CAUSE_CAUSE.addr cause

/-- The user calibration of sail `k` in a config record, by address (R629). -/
def calWords (r : Option CfgRec) (k : Nat) : Tbl Nat :=
  match r with
  | none => []
  | some c => (List.range 45).filterMap (fun i =>
      let v := Tbl.get (fun _ => 0) c.cal (64 * k + i)
      if v = 0 then none else some (F.SCAL_USER_USER.addr + 4 * i, v))

/-- The only mast in service resets every fitted sail (R615), whose configuration is then at reset values but for the user calibration of
the config store (R612 step 2). -/
def State.resetSails (s : State) (m cause : Nat) : State :=
  s.sailList.foldl (fun t k => (calWords (t.mast m).nv.cfg k).foldl (fun u e =>
    (u.setWord (key (copyDie m k) e.1) (Word.ofNat e.2)).setWord (key (copyDie m k) (e.1 + 0x800)) (Word.ofNat e.2)) (t.resetSail k cause)) s

end Sys2Proof.Machine
end

