-- ==== Sys2Proof/Machine/UpdBase.lean ====
section
/-! DEFINITION. The update engine's shared operations: its record, sheet home, reversion, abandonment, and what a transfer's end means to an
update under way (R506–R517). -/

namespace Sys2Proof.Machine

/-- UPDATE.STATUS.PHASE of mast `m`. -/
def State.updPhase (s : State) (m : Nat) : Nat := s.get m F.UPDATE_STATUS_PHASE

/-- The update record that mast `m`'s engine works with. -/
def State.urec (s : State) (m : Nat) : UpdRec := (s.mast m).upd.urec

/-- Replace mast `m`'s update engine. -/
def State.setUpd (s : State) (m : Nat) (u : Upd) : State := s.setMast m { s.mast m with upd := u }

/-- Write the record and complete the write before what follows it, a boot or a reset. -/
def State.updCommit (s : State) (m : Nat) (u : UpdRec) : State :=
  let s1 := s.updWrite m u
  match (s1.mast m).nv.cfgJobs.getLast? with
  | none => s1
  | some r =>
    let s2 := s1.setNv m { (s1.mast m).nv with cfg := some r, cfgJobs := [] }
    s2.nvDone m 0 true

/-- The PHASE of an engine that runs no update: from the reception state of its record. -/
def UpdRec.phase (u : UpdRec) : Nat := match u.rxState with
  | 1 => 2
  | 2 => 3
  | 3 => 2
  | _ => 0

/-- The record of a trial about to start (R513, R514). -/
def State.trialRec (s : State) (m : Nat) : UpdRec :=
  { s.urec m with mode := 1, boots := 0, elapsed := 0, trialTime := max 60 (min 604800 (s.get m F.UPDATE_TRIAL_TIME_S)) }

/-- Bytes of a manifest as a number (R500). -/
def manNum (man : List Nat) (a n : Nat) : Nat := leNat ((man.drop a).take n)

/-- The image of mast `m`'s trial slot sheets home (R509): the record of its outcome `last`; the fuses follow. -/
def State.sheetHome (s : State) (m last : Nat) : State :=
  let u := s.urec m
  s.updWrite m { u with setSlot := 1 - u.setSlot, mode := 0, boots := 0, last := last, secPend := some (manNum u.manifest 12 1),
                        revPend := manNum u.manifest 14 1 % 16, manifest := [], bitmap := 0, rxState := 0 }

/-- A trial of mast `m` ends without its image (R508, R516): MODE NORMAL and LAST, counted and raised. -/
def State.trialEnds (s : State) (m last : Nat) : State :=
  let s1 := (s.updCommit m { s.urec m with mode := 0, last := last }).bump m F.UPDATE_REVERTS
  (s1.put m F.UPDATE_STATUS_PHASE (s.urec m).phase).irq m 0x040 2

/-- The peer restarts, and a transfer then brings it into step (R516, R613). -/
def State.resyncPeer (s : State) (cause : Nat) : State := (s.resetMast (1 - s.active) cause).xferStart

/-- The update is abandoned before the swap (R512, R516): the jury boots its old image, and a transfer returns the pair to IN_STEP. -/
def State.updAbandon (s : State) : State :=
  let a := s.active
  let j := 1 - a
  let s1 := (s.updCommit j { s.urec j with mode := 0, last := 6 }).updWrite a { s.urec a with last := 6 }
  ((s1.put a F.UPDATE_STATUS_PHASE (s.urec a).phase).irq a 0x040 3).resyncPeer 6

/-- A transfer fails with a RESULT (R487): during an update transfer the update is abandoned, and during SECOND the second mast stays
OUT_OF_STEP in trial (R516). -/
def State.xferFail (s : State) (code : Nat) : State :=
  let a := s.active
  let s1 := s.xferStop code
  match s.updPhase a with
  | 5 => s1.updAbandon
  | 7 => s1.irq a 0x040 3
  | _ => s1

/-- Mast `m` hears that the transfer is complete (R487): on the active mast in SECOND, the update is done (R514 step 8). -/
def State.xferHeard (s : State) (m : Nat) : State :=
  let s1 := s.xferDone m
  if s.updPhase m ≠ 7 then s1
  else
    let j := 1 - m
    let s2 := if (s1.urec j).mode = 1 then s1.sheetHome j 7 else s1
    let s3 := (s2.updWrite m { s2.urec m with last := 7 }).put m F.UPDATE_STATUS_PHASE 0
    (s3.irq m 0x040 5).irq j 0x040 5

/-- The jury `j` starts the border function alone, as at a cold start (R517): it restarts at step 5. -/
def State.soleStart (s : State) (j : Nat) : State :=
  let s1 := s.put (1 - j) F.PAIR_ROLE_ACTIVE 0
  ((s1.put (1 - j) F.UPDATE_STATUS_PHASE 0).put j F.PAIR_ROLE_ACTIVE 0).resetMast j 6

/-- A takeover has moved the active role away from mast `x` (R516): a trial that ran there ends, and its mast boots the old image. -/
def State.updTakenOver (s : State) (x : Nat) : State :=
  if s.updPhase x ≠ 6 then s
  else
    let s1 := if (s.urec x).mode = 1 then s.trialEnds x 5 else s.put x F.UPDATE_STATUS_PHASE (s.urec x).phase
    if s1.bit (1 - x) F.PAIR_STATE_PEER_PRESENT then s1.resyncPeer 6 else s1

end Sys2Proof.Machine
end

