-- ==== Sys2Proof/Machine/Pair.lean ====
section
/-! DEFINITION. The redundant pair: mirrored inputs as the jury receives them, digests, heartbeats, fail-over, the takeover on a tick
and the state transfer (R464–R488, R494, R495).  The jury's execution of its inputs is in JuryRun. -/

namespace Sys2Proof.Machine

/-! ## Mirrored inputs (R467–R470) -/

/-- Bytes of the inputs in a jury's buffer. -/
def Pair.bufBytes (p : Pair) : Nat := p.buffer.foldl (fun n x => n + x.input.bytes) 0

/-- The jury holds an input (R470, R487): a buffer of 8 MiB that fills during a transfer ends it with OVERRUN. -/
def State.takeInput (s : State) (j : Nat) (x : Mirrored) : State :=
  if s.jury j = false then s
  else
    let P := (s.mast j).pair
    let n := P.bufBytes + x.input.bytes
    if s.pairState j = 2 ∧ 8388608 < n then s.xferFail 3
    else (s.setPair j { P with buffer := P.buffer ++ [x] }).raise j F.PAIR_BUF_HWM_KIB (min 16383 ((n + 1023) / 1024))

/-- MIRROR (R467, R468): an input of the active mast, with its INSEQ and STAMP, reaches mast `j`. -/
def execMirror (j inseq stamp : Nat) (i : Input) (hdr : List LinkPkt) (s : State) : Host.Outcome State Fault Refusal :=
  .next (
    if s.redundant = false ∨ 2 ≤ j then s
    else
      let r := s.receive 6 (decide (j = 0)) 0x0B hdr
      if r.1 then r.2.takeInput j ⟨inseq, stamp, i⟩ else r.2)

/-! ## Digests (R471–R474) -/

/-- The output counts of mast `m` at the 50 points (R471), 32 bits each. -/
def State.outCounts (s : State) (m : Nat) : List Nat := (List.range 50).map (fun p => Tbl.get (fun _ => 0) (s.mast m).outCount p % 2 ^ 32)

/-- The sum of the contributions of a log (R472). -/
def digestOf (l : List (Nat × Nat × Nat)) : Nat := l.foldl (fun n e => (n + e.2.2) % 2 ^ 64) 0

/-- DIGEST_STATION (R472): the active mast of a pair that mirrors forms the digest of the slot just closed, over the
outputs counted up to its tick, and sends it. -/
def execDigestStation (m : Nat) (s : State) : Host.Outcome State Fault Refusal :=
  .next (
    if s.redundant = false ∨ 2 ≤ m ∨ m ≠ s.active then s
    else
      let M := s.mast m
      let closed (e : Nat × Nat × Nat) : Bool := decide (0 ≤ sdiff 32 (M.pair.latched.getD e.1 0) e.2.1)
      let d := digestOf (M.outLog.filter closed)
      let s1 := s.setMast m { M with outLog := M.outLog.filter (fun e => !closed e) }
      if s.mirroring = false then s1
      else
        let n := (M.asn + 2 ^ 40 - 1) % 2 ^ 40
        (s1.put64 m F.PAIR_DIGEST_OWN d).sendOn 6 (decide (m = 1))
          (message 0x0C (n % 2 ^ 32) (leBytes 8 d ++ leBytes 8 M.pair.latchSeq ++ M.pair.latched.flatMap (leBytes 4))))

/-- DIGEST_MESSAGE (R472): the jury holds the active mast's digest of slot `asn`. -/
def execDigestMessage (j asn digest inseq : Nat) (counts : List Nat) (hdr : List LinkPkt) (s : State) : Host.Outcome State Fault Refusal :=
  .next (
    if s.redundant = false ∨ 2 ≤ j then s
    else
      let r := s.receive 6 (decide (j = 0)) 0x0C hdr
      if r.1 = false ∨ r.2.jury j = false ∨ r.2.pairState j = 3 then r.2
      else
        let P := (r.2.mast j).pair
        r.2.setPair j { P with peerDigest := P.peerDigest ++ [⟨asn, digest, inseq, counts⟩] })

/-- A mismatch on mast `m` that found CAUSE `cause` in slot `asn` (R474), recorded and counted; its outcome when the masts go
DIVERGED. -/
def State.mismatch (s : State) (m cause asn : Nat) : State :=
  (((s.put m F.PAIR_MISMATCH_CAUSE cause).put m F.PAIR_MISMATCH_ASN asn).put m F.PAIR_MISMATCH_ASN_hi (asn / 2 ^ 32)).bump m F.PAIR_MISMATCH_CNT

/-- Mast `m` enters DIVERGED (R474). -/
def State.diverge (s : State) (m : Nat) : State := ((s.put m F.PAIR_STATE_STATE 3).bump m F.PAIR_DIVERGE).irq m 0x004 0

/-- The jury's decision on a mismatch (R474): fail-over when the active mast alone reports a fault. -/
def State.juryMismatch (s : State) (j cause asn : Nat) : State :=
  let s1 := s.mismatch j cause asn
  let s2 := s1.setPair j { (s1.mast j).pair with result := cause + 1, resultAsn := asn }
  if s2.get j F.PAIR_STATE_PEER_FAULT ≠ 0 ∧ s2.get j F.PAIR_STATE_SELF_FAULT = 0 then
    s2.setPair j { (s2.mast j).pair with takeover := some 1 }
  else s2.diverge j

/-- µs from the tick that opened the slot after `asn` to now, on mast `j` (R473). -/
def State.sinceTick (s : State) (j asn : Nat) : Nat :=
  let M := s.mast j
  let behind := sdiff 40 M.asn ((asn + 1) % 2 ^ 40)
  (((s.localNs j : Int) - M.tickNow + behind * (slotUs (s.mast j).slotSel * 1000 : Nat)) / 1000).toNat

/-- Whether the jury's count has reached the active mast's at every point (R473). -/
def State.digestReached (s : State) (j : Nat) (d : SlotDigest) : Bool :=
  (List.range 50).all (fun p => decide (0 ≤ sdiff 32 (Tbl.get (fun _ => 0) (s.mast j).outCount p) (d.counts.getD p 0)))

/-- Whether a log entry lies in the range of a digest: index above the counts of the digest before it, and not above its own. -/
def inRange (latched : List Nat) (d : SlotDigest) (e : Nat × Nat × Nat) : Bool :=
  decide (0 < sdiff 32 e.2.1 (latched.getD e.1 0)) && decide (0 ≤ sdiff 32 (d.counts.getD e.1 0) e.2.1)

/-- The first digest held is done with: its outputs leave the log, and its counts bound the next. -/
def State.digestNext (s : State) (j : Nat) (d : SlotDigest) (rest : List SlotDigest) : State :=
  let M := s.mast j
  s.setMast j { M with outLog := M.outLog.filter (fun e => !(decide (0 ≤ sdiff 32 (d.counts.getD e.1 0) e.2.1))),
                       pair := { M.pair with peerDigest := rest, latched := d.counts } }

/-- DIGEST_COMPARE (R473, R474, R487): the jury compares the oldest digest it holds, once its counts reach it.  A match that ends a
catch-up completes the transfer. -/
def execDigestCompare (j : Nat) (s : State) : Host.Outcome State Fault Refusal :=
  .next (
    if s.jury j = false ∨ s.pairState j = 3 then s
    else match (s.mast j).pair.peerDigest with
      | [] => s
      | d :: rest =>
        if s.bit j F.PAIR_CFG_DIGEST_EN = false ∨ s.updPhase s.active = 5 then s.digestNext j d rest
        else if s.digestReached j d = false then s
        else
          let own := digestOf ((s.mast j).outLog.filter (inRange (s.mast j).pair.latched d))
          let s1 := (s.digestNext j d rest).bump j F.PAIR_COMPARED
          let s2 := ((s1.raise j F.PAIR_LAG_HWM_HWM (s.sinceTick j d.asn)).put64 j F.PAIR_DIGEST_OWN own).put64 j F.PAIR_DIGEST_PEER_PEER d.digest
          if own = d.digest then
            let s3 := s2.setPair j { (s2.mast j).pair with result := 1, resultAsn := d.asn }
            if s3.pairState j = 2 ∧ s3.xferPhase j = 3 ∧ (s3.mast j).pair.buffer = [] then s3.xferDone j else s3
          else s2.juryMismatch j 1 d.asn)

/-- DIGEST_WAIT_EXPIRY (R473): at T(n + 1) + DIGEST_WAIT the jury still lags. -/
def execDigestWaitExpiry (j : Nat) (s : State) : Host.Outcome State Fault Refusal :=
  .next (
    if s.jury j = false ∨ s.pairState j ≠ 1 ∨ s.bit j F.PAIR_CFG_DIGEST_EN = false then s
    else match (s.mast j).pair.peerDigest with
      | [] => s
      | d :: rest => if s.digestReached j d then s else (s.digestNext j d rest).juryMismatch j 2 d.asn)

/-- A read of an SRAM word of mast `m` meets a double-bit error (R26): its word address is held, the event raised and counted, and the core
`r` that reads it (an engine above 15) receives a bus error.  It is a self-check fault. -/
def State.sramFault (s : State) (m addr r : Nat) : State :=
  let s1 := (((s.put m F.SYS_SRAM_ERR_ADDR_ADDR addr).bump m F.SYS_SRAM_UNCORR).irq m 0x000 0).selfFaults m 1
  if r < 16 then s1.emit (.busError m r) else s1

/-- SELF_FAULT (R475): a self-check fault is latched; bit 7 is reserved.  Bit 0 is an uncorrectable error of the SRAM word `addr` that
requester `r` reads (R26), bit 1 one of the link of cell `addr` (R315). -/
def execSelfFault (m bit addr r : Nat) (s : State) : Host.Outcome State Fault Refusal :=
  .next (
    if s.fitted m = false ∨ 2 ≤ m ∨ 7 ≤ bit then s
    else if bit = 0 then s.sramFault m addr r
    else if bit = 1 then s.linkErr m addr
    else s.selfFaults m (2 ^ bit))

/-! ## Heartbeats and fail-over (R476–R480) -/

/-- HEARTBEAT_SEND (R476): role, EPOCH, STATE, SELF_FAULT and, from the jury, its last comparison. -/
def execHeartbeatSend (m : Nat) (s : State) : Host.Outcome State Fault Refusal :=
  .next (
    if s.redundant = false ∨ 2 ≤ m then s
    else
      let P := (s.mast m).pair
      let bytes := [s.get m F.PAIR_ROLE_ACTIVE] ++ leBytes 2 (s.get m F.PAIR_ROLE_EPOCH) ++ [s.pairState m, s.get m F.PAIR_STATE_SELF_FAULT,
        if m = s.active then 0 else P.result] ++ leBytes 5 P.resultAsn
      (s.setPair m { P with hbCount := P.hbCount + 1, result := 0 }).sendOn 6 (decide (m = 1)) (message 0x0D (P.hbCount % 2 ^ 32) bytes))

/-- The active mast hears the result of the jury's comparison (R473, R474). -/
def State.heardResult (s : State) (m result asn : Nat) : State :=
  if result < 2 ∨ m ≠ s.active ∨ (s.pairState m ≠ 1 ∧ s.pairState m ≠ 2) then s
  else
    let s1 := s.mismatch m (result - 1) asn
    if s1.get m F.PAIR_STATE_SELF_FAULT ≠ 0 ∧ s1.get m F.PAIR_STATE_PEER_FAULT = 0 then s1 else s1.diverge m

/-- HEARTBEAT (R476, R481, R487): mast `m` hears its peer.  A mast in the active role leaves it for a peer of higher EPOCH, and mast A
for an active peer of equal EPOCH; a completed transfer brings the active mast into step. -/
def execHeartbeat (m : Nat) (role : Bool) (epoch state fault result asn : Nat) (hdr : List LinkPkt) (s : State) : Host.Outcome State Fault Refusal :=
  .next (
    if s.redundant = false ∨ 2 ≤ m then s
    else
      let r := s.receive 6 (decide (m = 0)) 0x0D hdr
      if r.1 = false then r.2
      else
        let P := (r.2.mast m).pair
        let s1 := ((r.2.setPair m { P with peerEpoch := epoch, peerActive := role, misses := 0, answers := [] }).put m
          F.PAIR_STATE_PEER_PRESENT 1).put m F.PAIR_STATE_PEER_FAULT fault
        let own := s1.get m F.PAIR_ROLE_EPOCH
        if s1.bit m F.PAIR_ROLE_ACTIVE ∧ P.takeover ≠ some 3 ∧ (own < epoch ∨ (role ∧ own = epoch ∧ m = 0)) then
          (s1.put m F.PAIR_ROLE_ACTIVE 0).put m F.PAIR_STATE_STATE 4
        else if s1.bit m F.PAIR_ROLE_ACTIVE = false then s1
        else if s1.pairState m = 2 ∧ state = 1 ∧ s1.xferPhase m = 3 then s1.xferHeard m
        else
          let s2 := s1.heardResult m result asn
          if s2.pairState m = 5 ∨ ((s2.pairState m = 1 ∨ s2.pairState m = 3) ∧ state = 4) then s2.put m F.PAIR_STATE_STATE 4 else s2)

/-- LIVENESS to every fitted sail (R478).  It carries the command sequence as it stands and does not count as an output. -/
def State.sendLiveness (s : State) (j : Nat) : State :=
  let s1 := s.setPair j { (s.mast j).pair with answers := [] }
  s1.sailList.foldl (fun t k =>
    t.sendOn (connId j k) false (message 0x09 (Tbl.get (fun _ => 0) (t.mast j).cmdSeq k) ([0xD2, j] ++ leBytes 2 (t.get j F.PAIR_ROLE_EPOCH)))) s1

/-- The decision at the third miss of a jury that executes inputs (R477, R478, R515): a sail that heard the active mast within 100 µs splits
the link; otherwise a takeover follows where AUTO_FAILOVER and, from DIVERGED, TAKE_DIVERGED allow it. -/
def State.decideFailover (s : State) (j : Nat) : State :=
  let may := s.pairState j = 1 ∨ s.bit j F.PAIR_CFG_TAKE_DIVERGED ∨ s.updPhase (1 - j) = 6
  if s.pairState j ≠ 1 ∧ s.pairState j ≠ 3 then s
  else if (s.mast j).pair.answers.any (fun e => decide (e.2 ≤ 100)) then
    ((s.bump j F.PAIR_LINK_SPLIT).irq j 0x004 3).put j F.PAIR_STATE_STATE 4
  else if may ∧ s.bit j F.PAIR_CFG_AUTO_FAILOVER then s.setPair j { (s.mast j).pair with takeover := some 2 }
  else s

/-- HEARTBEAT_MISS (R476–R479, R514, R517): a period without a heartbeat of the peer. -/
def execHeartbeatMiss (m : Nat) (s : State) : Host.Outcome State Fault Refusal :=
  .next (
    if s.redundant = false ∨ 2 ≤ m then s
    else
      let P := (s.mast m).pair
      let n := P.misses + 1
      let s1 := (s.setPair m { P with misses := n }).bump m F.PAIR_HB_MISS
      let act := m = s1.active
      if n = 2 ∧ ¬ act then s1.sendLiveness m
      else if n = 3 then
        let s2 := s1.put m F.PAIR_STATE_PEER_PRESENT 0
        if act then (if s2.updPhase m = 4 then s2 else s2.peerLost m)
        else if s2.updPhase (1 - m) = 4 ∨ s2.updPhase (1 - m) = 5 then s2.soleStart m
        else s2.decideFailover m
      else s1)

/-- LIVENESS_ANSWER (R478): the jury `j` hears from sail `k` its master's EPOCH and the silence of die 0 and die 1 in µs. -/
def execLivenessAnswer (j k epoch s0 s1 : Nat) (hdr : List LinkPkt) (s : State) : Host.Outcome State Fault Refusal :=
  .next (
    if s.redundant = false ∨ 2 ≤ j ∨ s.hasSail k = false then s
    else
      let r := s.receive (connId j k) true 0x06 hdr
      let P := (r.2.mast j).pair
      if r.1 = false ∨ P.misses < 2 ∨ j = s.active then r.2
      else r.2.setPair j { P with answers := P.answers ++ [(k, if j = 1 then s0 else s1)] })

/-! ## Takeover on a tick (R481–R483) -/

/-- Exchange two entries of a table. -/
def Tbl.swap {α : Type} [DecidableEq α] (d : Nat → α) (t : Tbl α) (a b : Nat) : Tbl α :=
  Tbl.set d (Tbl.set d t a (Tbl.get d t b)) b (Tbl.get d t a)

/-- The queue or account that R481 exchanges with `q`, or `q`. -/
def queueTwin (q : Nat) : Nat :=
  if q < 32 then 160 + q else if 160 ≤ q ∧ q < 192 then q - 160
  else if 41 ≤ q ∧ q < 45 then q + 8 else if 49 ≤ q ∧ q < 53 then q - 8 else q

/-- The partner sluice that R481 exchanges with `i`, or `i`. -/
def sluiceTwin (i : Nat) : Nat := if i < 32 then 41 + i else if 41 ≤ i ∧ i < 73 then i - 41 else i

/-- The port code that R481 exchanges with `p`. -/
def portTwin (p : Nat) : Nat := if p < 4 then p + 4 else if p < 8 then p - 4 else p

/-- Exchange two words of mast `m`. -/
def State.swapWord (s : State) (m a b : Nat) : State :=
  (s.setWord (key m a) (s.word (key m b))).setWord (key m b) (s.word (key m a))

/-- An item whose queue R481 exchanges: where it counts and where it is to go move with it. -/
def Item.swapped (x : Item) : Item :=
  let p := match x.place with
    | .acct q => .acct (queueTwin q)
    | .queue q => .queue (queueTwin q)
    | y => y
  let down := match x.body with
    | .ether _ => true
    | .packet _ none => true
    | _ => false
  { x with place := p, dest := x.dest.map (fun q => if down then sluiceTwin q else queueTwin q) }

/-- The exchange of R481 step 1 on mast `m`: queues, accounts, sluices, port classes and sessions of its own ports with those of its
peer's, with what the model keeps per port. -/
def State.exchange (s : State) (m : Nat) : State :=
  let M := s.mast m
  let S := M.sal
  let q1 := (List.range 32).foldl (fun t i => Tbl.swap queueReset t i (160 + i)) S.queues
  let q2 := (List.range 4).foldl (fun t p => Tbl.swap queueReset t (41 + p) (49 + p)) q1
  let eh := (List.range 4).foldl (fun t p => Tbl.swap (fun _ => []) t p (4 + p)) S.ethHold
  let xo := (List.range 4).foldl (fun t p => Tbl.swap (fun _ => false) t p (4 + p)) S.xoff
  let hl := S.held.map (fun h => { h with queue := queueTwin h.queue })
  let it := S.items.map (fun e => (e.1, e.2.swapped))
  let fr := (List.range 32).foldl (fun t i => Tbl.swap (fun _ => 0) t i (41 + i)) M.sluiceFrac
  let se := (List.range 4).foldl (fun t p => Tbl.swap (fun _ => ⟨false, 0, 0⟩) t p (8 + p)) M.keys.sessions
  let no := (List.range 4).foldl (fun t p => Tbl.swap (fun _ => none) t p (8 + p)) M.keys.nonces
  let gv := M.hal.held.map (fun h => match h.giver with
    | .eth p => { h with giver := .eth (portTwin p) }
    | _ => h)
  let S1 := { S with queues := q2, ethHold := eh, xoff := xo, held := hl, items := it }
  let s1 := s.setMast m { M with sal := S1, sluiceFrac := fr, hal := { M.hal with held := gv },
                                 keys := { M.keys with sessions := se, nonces := no } }
  let s2 := (List.range 32).foldl (fun t i =>
    let w (f g : Fld) (n : Nat) (u : State) : State := u.swapWord m (f.at n i).addr (g.at n i).addr
    let wp (f g : Fld) (n : Nat) (u : State) : State := u.swapWord m ((f.at n i).addr + 0x800) ((g.at n i).addr + 0x800)
    let cfg (u : State) : State := wp F.SLUICE_PRATE_RATE F.SLUICE_PRATE_PEER_RATE 8 (w F.SLUICE_PRATE_RATE F.SLUICE_PRATE_PEER_RATE 8 u)
    let bur (u : State) : State := wp F.SLUICE_PBURST_EN F.SLUICE_PBURST_PEER_EN 8 (w F.SLUICE_PBURST_EN F.SLUICE_PBURST_PEER_EN 8 u)
    w F.SLUICE_PDROP_COUNT F.SLUICE_PDROP_PEER_COUNT 4 (w F.SLUICE_PTOKENS_TOKENS F.SLUICE_PTOKENS_PEER_TOKENS 4 (bur (cfg t)))) s1
  (List.range 4).foldl (fun t p =>
    let a := (F.SLUICE_PORT_CFG_DEF_CLASS.at 4 p).addr
    (t.swapWord m a (a + 16)).swapWord m (a + 0x800) (a + 16 + 0x800)) s2

/-- LAST_STAMP of every partner sluice becomes the new active mast's LOCAL (R373), and the launches it planned as jury are resolved by
R483. -/
def State.afterTakeover (s : State) (m : Nat) : State :=
  let M := s.mast m
  let l := s.localNs m % 2 ^ 48
  s.setMast m { M with sluiceLast := (List.range 73).foldl (fun t i => Tbl.set (fun _ => 0) t i l) M.sluiceLast,
                       mac := { M.mac with oldLaunch := M.mac.launches.map (fun x => x.handle) } }

/-- TAKEOVER to every fitted sail (R481, R485). -/
def State.sendTakeover (s : State) (m : Nat) : State :=
  s.sailList.foldl (fun t k => t.takeoverTo m k) s

/-- A pending takeover lands on mast `m` at its tick (R481): the jury becomes active; in a commanded takeover (3), at the swap of an
update (4, R514) and at a trial's expiry (5, R516) the old active mast becomes the jury at the same tick, with the same exchange. -/
def State.takeoverAt (s : State) (m : Nat) : State :=
  let P := (s.mast m).pair
  match P.takeover with
  | none => s
  | some kind =>
    let s1 := s.setPair m { P with takeover := none }
    if s.bit m F.PAIR_ROLE_ACTIVE then
      if kind = 3 then ((s1.exchange m).put m F.PAIR_ROLE_ACTIVE 0).put m F.PAIR_STATE_STATE 1
      else if kind = 4 ∨ kind = 5 then (s1.exchange m).put m F.PAIR_ROLE_ACTIVE 0
      else s1
    else
      let e := (max (s1.get m F.PAIR_ROLE_EPOCH) P.peerEpoch + 1) % 65536
      let s2 := ((s1.put m F.PAIR_ROLE_EPOCH e).put m F.PAIR_ROLE_ACTIVE 1).exchange m
      let s3 := ((s2.afterTakeover m).sendTakeover m).bump m F.PAIR_FAILOVER
      let s4 := if kind = 3 then (s3.bump m F.PAIR_SWAPS).put m F.PAIR_STATE_STATE 1
        else if kind = 4 then
          let o := 1 - m
          (((s3.bump m F.PAIR_SWAPS).put m F.UPDATE_STATUS_PHASE 6).put o F.UPDATE_STATUS_PHASE (s3.urec o).phase)
        else s3.put m F.PAIR_STATE_STATE (if 3 ≤ P.misses then 5 else 4)
      let s5 := (s4.irq m 0x004 1).irq m 0x048 2
      if kind = 3 ∨ kind = 4 then s5 else s5.updTakenOver (1 - m)

/-! ## PAIR.CMD (R477, R487, R494) -/

/-- The CMD_STATUS that SWAP gets (R477, R494). -/
def State.swapStatus (s : State) (m : Nat) : Nat :=
  if s.redundant = false ∨ s.pairState m = 5 then 5
  else if s.pairState m = 2 ∨ (s.mast m).pair.takeover ≠ none then 1
  else if s.pairState m ≠ 1 then 2
  else if s.get m F.PAIR_STATE_PEER_FAULT ≠ 0 then 3
  else 0

/-- The CMD_STATUS that RESYNC gets (R487, R494). -/
def State.resyncStatus (s : State) (m : Nat) : Nat :=
  if s.redundant = false ∨ s.pairState m = 5 then 5
  else if s.pairState m = 2 ∨ (s.mast m).pair.takeover ≠ none then 1
  else 0

/-- A write of PAIR.CMD on mast `m` (R494): below OWNER it is denied, with another KEY ignored.  Its effect is the active mast's. -/
def State.accPairCmd (s : State) (m r width value : Nat) : State :=
  s.action m 0x004 0x048 r true width 4 (fun t =>
    if t.privOf m (t.ctxOf m r) < 3 then t.deny m 0x004 0x048 r true
    else if value / 256 % 256 ≠ 0x5A then t
    else
      let j := 1 - m
      match value % 16 with
      | 1 =>
        let st := t.swapStatus m
        let t1 := t.put m F.PAIR_STATE_CMD_STATUS st
        if st = 0 ∧ m = t.active then
          let t2 := t1.setPair m { (t1.mast m).pair with takeover := some 3 }
          t2.setPair j { (t2.mast j).pair with takeover := some 3 }
        else t1
      | 2 =>
        let st := t.resyncStatus m
        let t1 := t.put m F.PAIR_STATE_CMD_STATUS st
        if st = 0 ∧ m = t.active then t1.resyncPeer 6 else t1
      | 3 =>
        let t1 := t.put m F.PAIR_STATE_CMD_STATUS (if t.redundant then 0 else 5)
        if m = t.active ∧ t.redundant ∧ t.pairState m = 2 then t1.xferFail 5 else t1
      | _ => t.put m F.PAIR_STATE_CMD_STATUS 4)

/-- A PAIR.CMD word of an OP. -/
def pairCmdWord (keyByte op : Nat) : Nat := keyByte % 256 * 256 + op

/-- PAIR_SWAP (R477). -/
def execPairSwap (m r width keyByte : Nat) (s : State) : Host.Outcome State Fault Refusal :=
  .next (s.hostOn m r 0x004 0x048 width (pairCmdWord keyByte 1) .empty (fun m t => t.accPairCmd m r width (pairCmdWord keyByte 1)))

/-- PAIR_RESYNC (R487). -/
def execPairResync (m r width keyByte : Nat) (s : State) : Host.Outcome State Fault Refusal :=
  .next (s.hostOn m r 0x004 0x048 width (pairCmdWord keyByte 2) .empty (fun m t => t.accPairCmd m r width (pairCmdWord keyByte 2)))

/-- PAIR_RELEASE_JURY (R487). -/
def execPairReleaseJury (m r width keyByte : Nat) (s : State) : Host.Outcome State Fault Refusal :=
  .next (s.hostOn m r 0x004 0x048 width (pairCmdWord keyByte 3) .empty (fun m t => t.accPairCmd m r width (pairCmdWord keyByte 3)))

/-! ## State transfer (R487, R488) -/

/-- Whether a transfer carries the word at `addr` of a mast (R488): the active and pending configuration of every page, and the live
words of the mesh, time, timer and key pages; never the PAIR page, the ports' own, or what DRBG, CRYST and TAMPER show of the die's own. -/
def xferWord (addr : Nat) : Bool :=
  let p := addr / 4096
  let o := addr % 4096
  p != 4 && p != 0x040 && ((decide (0x040 ≤ o) && decide (o < 0x400)) || (decide (0x800 ≤ o) && decide (o < 0xC00))
    || (decide (0x010 ≤ p) && (decide (p < 0x03B) || p == 0x03E || p == 0x03F || p == 0x041 || decide (0x050 ≤ p)) && decide (0x400 ≤ o)))

/-- The register words that the jury `j` holds after it loads those of mast `m` (R488). -/
def xferRegs (m j : Nat) (src own : Tbl Word) : Tbl Word :=
  let mine := own.filter (fun e => decide (2 ^ 34 ≤ e.1) || !(keyDie e.1 == j && xferWord (e.1 % 2 ^ 24)))
  (src.filter (fun e => decide (e.1 < 2 ^ 34) && keyDie e.1 == m && xferWord (e.1 % 2 ^ 24))).foldl (fun t e =>
    Tbl.set resetWord t (e.1 + j * 2 ^ 24 - m * 2 ^ 24) e.2) mine

/-- Mast `j` takes the copies that mast `m` keeps of the sails' configuration (R211, R488). -/
def State.takeCopies (s : State) (m j : Nat) : State :=
  let rs := List.filter (fun (e : Nat × Word) => inCopies m e.1) s.regs
  let mine (l : Tbl Nat) : List (Nat × Nat) := List.filter (fun (e : Nat × Nat) => decide (e.1 / 2 ^ 18 = m + 1)) l
  let t := s.clearCopies j
  { t with regs := rs.foldl (fun (u : Tbl Word) e => Tbl.set resetWord u (e.1 + j * 2 ^ 34 - m * 2 ^ 34) e.2) t.regs,
           profAct := (mine s.profAct).foldl (fun (u : Tbl Nat) e => Tbl.set (fun i => profReset (i % 256)) u (e.1 + j * 2 ^ 18 - m * 2 ^ 18) e.2) t.profAct,
           profPend := (mine s.profPend).foldl (fun (u : Tbl Nat) e => Tbl.put u (e.1 + j * 2 ^ 18 - m * 2 ^ 18) e.2) t.profPend }

/-- The jury's mast record after it loads the final pass (R488): what belongs to the die stays its own, and in an update transfer its
shared core memory too (R515). -/
def xferMast (src own : Mast) (shift : Int) (update : Bool) : Mast :=
  { src with
    core := if update then own.core else src.core, execLen := if update then own.execLen else src.execLen,
    entry := if update then own.entry else src.entry, clk := own.clk, ringVecs := own.ringVecs, msixMask := own.msixMask, pba := own.pba, gates := own.gates, rings := own.rings,
    nv := own.nv, upd := own.upd, booting := own.booting, bootStep := own.bootStep, wdtAt := own.wdtAt,
    dutyRec := own.dutyRec, refSince := own.refSince, relockRef := own.relockRef, ticked := own.ticked,
    ringTurn := own.ringTurn, nextTick := own.nextTick, tickNow := own.tickNow, imgHash := own.imgHash, rollback := own.rollback,
    dmaCount := own.dmaCount, dmaUnsent := own.dmaUnsent, thermHigh := own.thermHigh, tickSent := none, outLog := [],
    doms := src.doms.map (fun e => (e.1, { e.2 with at_ := ((e.2.at_ : Int) + shift).toNat,
                                                    last := e.2.last.map (fun t => ((t : Int) + shift).toNat) })),
    keys := { src.keys with root := own.keys.root, helper := own.keys.helper, asserted := own.keys.asserted,
                            banks := own.keys.banks, persisting := none, ownerOtp := own.keys.ownerOtp, ownerKey := own.keys.ownerKey,
                            pairSecret := own.keys.pairSecret, pwRecords := own.keys.pwRecords, recordDue := own.keys.recordDue },
    pair := { own.pair with inseq := src.pair.inseq, peerDigest := [], slotEnd := none,
                            latched := (List.range 50).map (fun p => Tbl.get (fun _ => 0) src.outCount p % 2 ^ 32) } }

/-- TRANSFER_PASS_END (R487): a copy pass of the active mast ends with `dirty` blocks left.  A first or further pass either leads to the
final pass, whose state is the state at this tick, or to another; the end of the final pass starts the catch-up. -/
def execTransferPassEnd (m dirty : Nat) (s : State) : Host.Outcome State Fault Refusal :=
  .next (
    if s.redundant = false ∨ 2 ≤ m ∨ m ≠ s.active ∨ s.pairState m ≠ 2 ∨ (s.conn 6).state ≠ 2 then s
    else
      let s1 := s.put m F.PAIR_XFER_STATUS_DIRTY (min 65535 dirty)
      let pass := s.get m F.PAIR_XFER_STATUS_PASS
      if s.xferPhase m = 1 then
        if dirty ≤ min 512 (s.get m F.PAIR_XFER_CFG_FINAL_MAX) then
          let s2 := (s1.put m F.PAIR_XFER_STATUS_PHASE 2).put (1 - m) F.PAIR_XFER_STATUS_PHASE 2
          let M := { s2.mast m with outLog := [] }
          let s3 := s2.setMast m M
          { s3 with shadow := some (M, s3.regs.filter (fun e => decide (e.1 < 2 ^ 34) && keyDie e.1 == m)) }
        else if max 1 (s.get m F.PAIR_XFER_CFG_PASSES) ≤ pass then s1.xferFail 2
        else s1.put m F.PAIR_XFER_STATUS_PASS (pass + 1)
      else if s.xferPhase m = 2 then s1.put m F.PAIR_XFER_STATUS_PHASE 3
      else s1)

/-- STATE_PACKET (R487, R488): the jury `j` loads a block of the transferred state; `last` is the last block of the final pass, with
which the state as it stood at the tick is whole. -/
def execStatePacket (j : Nat) (last : Bool) (hdr : List LinkPkt) (s : State) : Host.Outcome State Fault Refusal :=
  .next (
    if s.redundant = false ∨ 2 ≤ j then s
    else
      let r := s.receive 6 (decide (j = 0)) 0x0E hdr
      let t := r.2
      if r.1 = false ∨ j = t.active ∨ t.pairState j ≠ 2 ∨ last = false then t
      else match t.shadow with
        | none => t
        | some (M, regs) =>
          let own := t.mast j
          let shift := (t.localNs j : Int) - t.localNs (1 - j)
          let t1 := ({ t.setMast j (xferMast M own shift (t.updPhase t.active == 5)) with regs := xferRegs (1 - j) j regs t.regs, shadow := none }).takeCopies (1 - j) j
          let t2 := (t1.put j F.PAIR_XFER_STATUS_PHASE 3).put64 j F.PAIR_INSEQ_SEQ (t1.mast j).pair.inseq
          if own.mac.fcReserve < M.mac.fcReserve then t2.ringWrite j M.mac.fcReserve true else t2)

end Sys2Proof.Machine
end

