-- ==== Sys2Proof/Machine/Update.lean ====
section
/-! DEFINITION. The own-image update: manifests, reception, verification, trial, confirmation and reversion, on a single mast and in a pair
(R499–R517, R531, R532). -/

namespace Sys2Proof.Machine

/-! ## Manifests (R500, R501) -/

/-- EXEC_LEN of a manifest (R500). -/
def manExec (man : List Nat) : Nat := manNum man 20 4
/-- IMAGE_LEN. -/
def manLen (man : List Nat) : Nat := manNum man 16 4
/-- IMAGE_HASH. -/
def manHash (man : List Nat) : Nat := manNum man 28 32
/-- VERSION. -/
def manVersion (man : List Nat) : Nat := manNum man 4 8
/-- SEC_VER. -/
def manSec (man : List Nat) : Nat := manNum man 12 1
/-- Chunks of an image (R503). -/
def chunksOf (len : Nat) : Nat := (len + 1023) / 1024

/-- Check 1 of R501. -/
def manShape (man : List Nat) : Bool :=
  let zero (a n : Nat) : Bool := ((man.drop a).take n).all (fun b => b == 0)
  let idx := manNum man 13 1
  let rev := manNum man 14 1
  let len := manLen man
  let ex := manNum man 20 4
  decide (man.length = 1024) && manNum man 0 4 == 1 && zero 15 1 && zero 60 196 && decide (manSec man ≤ 64) && decide (idx < 4)
    && decide (rev < 16) && decide (1 ≤ len ∧ len ≤ 8388608) && decide (1 ≤ ex ∧ ex ≤ 2097152) && decide (ex ≤ len) && !(rev.testBit idx)

/-- The result of R501's checks on mast `m`: 0, or the code of UPDATE.STATUS.RESULT of the first that fails. -/
def State.checkManifest (s : State) (m : Nat) (man : List Nat) : Nat :=
  let idx := manNum man 13 1
  let modulus := (man.drop 256).take 384
  let sig := (man.drop 640).take 384
  if manShape man = false then 2
  else if Tbl.get (fun _ => 0) (s.mast m).nv.ownerHash idx ≠ leNat (sha256 modulus) ∨ (s.get m F.UPDATE_FUSES_REVOKED).testBit idx then 3
  else if Machine.rsaVerify (beNat modulus) (beNat sig) 65537 (sha256 (man.take 640)) = false then 4
  else if manSec man < s.get m F.UPDATE_FUSES_SEC then 5
  else 0

/-! ## Commands (R502–R505, R511–R516) -/

/-- The bytes of the item that UPDATE.CELL names. -/
def State.updItem (s : State) (m : Nat) : List Nat :=
  let x := (s.mast m).sal.item (s.get m F.UPDATE_CELL_CELL)
  if x.cells = [] then [] else x.body.spell

/-- A command of the update engine ends with RESULT `x`; the item it named is freed. -/
def State.updEnd (s : State) (m cell x : Nat) : State :=
  ((s.put m F.UPDATE_STATUS_RESULT x).put m F.UPDATE_STATUS_BUSY 0).freeItem m cell

/-- A refusal (R511): RESULT, REFUSED and UPDATE_REFUSED. -/
def State.updRefuse (s : State) (m x : Nat) : State := ((s.put m F.UPDATE_STATUS_RESULT x).bump m F.UPDATE_REFUSED).irq m 0x040 4

/-- Whether one feed alone carries the load and is LOW (R511). -/
def State.feedWeak (s : State) (m : Nat) : Bool := s.bit m F.FEED_BUS_SINGLE && (s.feedState m 0 == 1 || s.feedState m 1 == 1)

/-- The refused state that holds for ACTIVATE but for the pair's (R511): 0 when none. -/
def State.actState (s : State) (m : Nat) : Nat :=
  if s.reefed then 10 else if s.feedWeak m then 11 else if s.bit m F.UPDATE_LOCK_LOCK then 9 else 0

/-- The refused state that holds for ACTIVATE (R511): 0 when none. -/
def State.actRefused (s : State) (m : Nat) : Nat :=
  let j := 1 - m
  if s.actState m ≠ 0 then s.actState m
  else if s.redundant ∧ (s.pairState m ≠ 1 ∨ (s.urec j).rxState ≠ 2 ∨ manHash (s.urec j).manifest ≠ manHash (s.urec m).manifest) then 12
  else 0

/-- BEGIN (R502). -/
def State.updBegin (s : State) (m : Nat) : State :=
  let cell := s.get m F.UPDATE_CELL_CELL
  let man := s.updItem m
  let u := s.urec m
  if s.reefed then (s.updRefuse m 10).freeItem m cell
  else if s.bit m F.UPDATE_LOCK_LOCK then (s.updRefuse m 9).freeItem m cell
  else if u.mode = 1 ∨ 4 ≤ s.updPhase m then s.updEnd m cell 13
  else if s.checkManifest m man ≠ 0 then s.updEnd m cell (s.checkManifest m man)
  else if man = u.manifest ∧ u.rxState ≠ 3 ∧ u.rxState ≠ 0 then (s.put m F.UPDATE_STATUS_PHASE 2).updEnd m cell 0
  else
    let N := (s.mast m).nv
    let s1 := (s.setNv m { N with manifests := Tbl.set (fun _ => []) N.manifests (1 - u.setSlot) [] }).nvRequest m 5
    let U := (s1.mast m).upd
    ((s1.setUpd m { U with erasing := true, prog := some (0, man), cell := cell }).put m F.UPDATE_STATUS_PHASE 1).put m F.UPDATE_STATUS_BUSY 1

/-- UPDATE_ERASE_DONE (R502): the furled slot is erased; the bitmap is cleared, the manifest recorded, and reception starts. -/
def execUpdateEraseDone (m : Nat) (s : State) : Host.Outcome State Fault Refusal :=
  .next (
    if s.fitted m = false ∨ 2 ≤ m ∨ (s.mast m).upd.erasing = false then s
    else
      let U := (s.mast m).upd
      let u := U.urec
      let man := (U.prog.map Prod.snd).getD []
      let s1 := s.setNv m ((s.mast m).nv.erase (slotBase (1 - u.setSlot)) 0x00800000)
      let s2 := s1.setUpd m { U with erasing := false, prog := none, bits := 0, unrec := 0 }
      ((s2.updWrite m { u with manifest := man, bitmap := 0, rxState := 1 }).put m F.UPDATE_STATUS_PHASE 2).updEnd m U.cell 0)

/-- CHUNK (R503). -/
def State.updChunk (s : State) (m : Nat) : State :=
  let cell := s.get m F.UPDATE_CELL_CELL
  let data := s.updItem m
  let U := (s.mast m).upd
  let i := s.get m F.UPDATE_INDEX_INDEX
  let len := manLen U.urec.manifest
  if s.reefed then (s.updRefuse m 10).freeItem m cell
  else if s.updPhase m ≠ 2 then s.updEnd m cell 13
  else if chunksOf len ≤ i ∨ data.length ≠ 1024 then s.updEnd m cell 6
  else if crc32 data ≠ s.get m F.UPDATE_CHUNK_CRC_CRC then (s.bump m F.UPDATE_CHUNK_CRC_ERR).updEnd m cell 7
  else if U.bits.testBit i then (s.bump m F.UPDATE_CHUNK_DUP).updEnd m cell 0
  else
    ((s.nvRequest m 5).setUpd m { U with prog := some (i, data.take (min 1024 (len - 1024 * i))), cell := cell }).put m F.UPDATE_STATUS_BUSY 1

/-- The update chunk being programmed is in the furled slot (R503). -/
def State.updProgrammed (s : State) (m : Nat) : State :=
  let U := (s.mast m).upd
  match U.prog with
  | none => s
  | some (i, data) =>
    if U.erasing then s
    else
      let s1 := s.setNv m ((s.mast m).nv.program (slotBase (1 - U.urec.setSlot) + 1024 * i) data)
      ((s1.setUpd m { U with prog := none, bits := U.bits ||| 2 ^ i, unrec := U.unrec + 1 }).bump m F.UPDATE_CHUNKS).updEnd m U.cell 0

/-- Whether every chunk bit is set (R505). -/
def allChunks (len bits : Nat) : Bool := (List.range (chunksOf len)).all (fun i => bits.testBit i)

/-- VERIFY (R505). -/
def State.updVerify (s : State) (m : Nat) : State :=
  let U := (s.mast m).upd
  if s.reefed then s.updRefuse m 10
  else if s.updPhase m ≠ 2 ∨ allChunks (manLen U.urec.manifest) U.bits = false then s.put m F.UPDATE_STATUS_RESULT 13
  else (s.setUpd m { U with verifying := true }).put m F.UPDATE_STATUS_BUSY 1

/-- UPDATE_VERIFY_DONE (R505): the hash of the furled slot is known. -/
def execUpdateVerifyDone (m : Nat) (s : State) : Host.Outcome State Fault Refusal :=
  .next (
    if s.fitted m = false ∨ 2 ≤ m ∨ (s.mast m).upd.verifying = false then s
    else
      let U := (s.mast m).upd
      let u := U.urec
      let N := (s.mast m).nv
      let f := 1 - u.setSlot
      let s1 := (s.setUpd m { U with verifying := false, unrec := 0 }).put m F.UPDATE_STATUS_BUSY 0
      if leNat (sha256 (N.bytes (slotBase f) (manLen u.manifest))) = manHash u.manifest then
        let s2 := s1.setNv m { N with manifests := Tbl.set (fun _ => []) N.manifests f u.manifest }
        let s3 := s2.updWrite m { u with rxState := 2, bitmap := U.bits }
        ((s3.put m F.UPDATE_STATUS_PHASE 3).put m F.UPDATE_STATUS_RESULT 0).irq m 0x040 0
      else
        ((s1.updWrite m { u with rxState := 3, bitmap := U.bits }).put m F.UPDATE_STATUS_RESULT 8).bump m F.UPDATE_VERIFY_FAIL)

/-- ACTIVATE (R511, R513, R514): accepted, it starts at the active mast's next tick. -/
def State.updActivate (s : State) (m : Nat) : State :=
  if s.actRefused m ≠ 0 then s.updRefuse m (s.actRefused m)
  else if s.updPhase m ≠ 3 then s.put m F.UPDATE_STATUS_RESULT 13
  else ((s.setUpd m { (s.mast m).upd with actPend := decide (m = s.active) }).bump m F.UPDATE_ACTIVATIONS).put m F.UPDATE_STATUS_RESULT 0

/-- An accepted ACTIVATE is abandoned before its tick (R512). -/
def State.updDrop (s : State) (m : Nat) : State :=
  ((s.setUpd m { (s.mast m).upd with actPend := false }).updWrite m { s.urec m with last := 6 }).irq m 0x040 3

/-- CANCEL (R516). -/
def State.updCancel (s : State) (m : Nat) : State :=
  if s.redundant ∧ m ≠ s.active then s.put m F.UPDATE_STATUS_RESULT 0
  else if s.updPhase m = 4 ∨ s.updPhase m = 5 then s.updAbandon.put m F.UPDATE_STATUS_RESULT 0
  else if (s.mast m).upd.actPend then (s.updDrop m).put m F.UPDATE_STATUS_RESULT 0
  else s.put m F.UPDATE_STATUS_RESULT 13

/-- A write of UPDATE.CMD (R503, R511, R531): ignored with LOCKV while BUSY; ACTIVATE and CANCEL below OWNER are denied. -/
def State.accUpdate (s : State) (m r width value : Nat) : State :=
  s.action m 0x040 0x040 r true width 4 (fun t =>
    let op := value % 16
    if (op = 4 ∨ op = 5) ∧ t.privOf m (t.ctxOf m r) < 3 then t.deny m 0x040 0x040 r true
    else if t.bit m F.UPDATE_STATUS_BUSY then t.lockv m 0x040 0x040 r
    else match op with
      | 1 => t.updBegin m
      | 2 => t.updChunk m
      | 3 => t.updVerify m
      | 4 => t.updActivate m
      | 5 => t.updCancel m
      | _ => t.put m F.UPDATE_STATUS_RESULT 2)

/-- UPDATE_BEGIN (R502). -/
def execUpdateBegin (m r width : Nat) (s : State) : Host.Outcome State Fault Refusal :=
  .next (s.hostOn m r 0x040 0x040 width 1 .empty (fun m t => t.accUpdate m r width 1))
/-- UPDATE_CHUNK (R503). -/
def execUpdateChunk (m r width : Nat) (s : State) : Host.Outcome State Fault Refusal :=
  .next (s.hostOn m r 0x040 0x040 width 2 .empty (fun m t => t.accUpdate m r width 2))
/-- UPDATE_VERIFY (R505). -/
def execUpdateVerify (m r width : Nat) (s : State) : Host.Outcome State Fault Refusal :=
  .next (s.hostOn m r 0x040 0x040 width 3 .empty (fun m t => t.accUpdate m r width 3))
/-- UPDATE_ACTIVATE (R513, R514). -/
def execUpdateActivate (m r width : Nat) (s : State) : Host.Outcome State Fault Refusal :=
  .next (s.hostOn m r 0x040 0x040 width 4 .empty (fun m t => t.accUpdate m r width 4))
/-- UPDATE_CANCEL (R516). -/
def execUpdateCancel (m r width : Nat) (s : State) : Host.Outcome State Fault Refusal :=
  .next (s.hostOn m r 0x040 0x040 width 5 .empty (fun m t => t.accUpdate m r width 5))

/-- BITMAP_RECORD_WRITE (R504): the received bitmap goes to the record. -/
def execBitmapRecordWrite (m : Nat) (s : State) : Host.Outcome State Fault Refusal :=
  .next (
    if s.fitted m = false ∨ 2 ≤ m ∨ (s.mast m).upd.unrec = 0 then s
    else
      let U := (s.mast m).upd
      (s.setUpd m { U with unrec := 0 }).updWrite m { U.urec with bitmap := U.bits })

/-! ## The trial (R508, R509, R513–R516) -/

/-- A write of UPDATE.CONFIRM (R509): another KEY is ignored.  In a pair the old mast, now the jury, then restarts into the same image
(R514 step 7). -/
def State.accConfirm (s : State) (m r width value : Nat) : State :=
  s.action m 0x040 0x054 r true width 4 (fun t =>
    if value % 256 ≠ 0xC3 then t
    else if t.redundant ∧ m ≠ t.active ∧ t.updPhase t.active = 6 then t
    else if (t.urec m).mode ≠ 1 ∨ t.updPhase m ≠ 6 then (t.put m F.UPDATE_STATUS_RESULT 15).bump m F.UPDATE_LATE_CONFIRM
    else
      let t1 := (t.sheetHome m 1).put m F.UPDATE_STATUS_RESULT 0
      if t1.redundant = false ∨ t1.pairState m = 5 then t1.put m F.UPDATE_STATUS_PHASE 0
      else
        let j := 1 - m
        let t2 := if (t1.urec j).rxState = 2 then t1.updCommit j (t1.trialRec j) else t1
        (t2.put m F.UPDATE_STATUS_PHASE 7).resyncPeer 6)

/-- UPDATE_CONFIRM (R509). -/
def execUpdateConfirm (m r width value : Nat) (s : State) : Host.Outcome State Fault Refusal :=
  .next (s.hostOn m r 0x040 0x054 width value .empty (fun m t => t.accConfirm m r width value))

/-- Blow the pending fuses of the record (R507, R509, R510); the record is cleared of them. -/
def State.blowPending (s : State) (m : Nat) : State :=
  let u := s.urec m
  let sec := max (s.get m F.UPDATE_FUSES_SEC) (min 64 (u.secPend.getD 0))
  let s1 := (s.put m F.UPDATE_FUSES_SEC sec).put m F.UPDATE_FUSES_REVOKED (s.get m F.UPDATE_FUSES_REVOKED ||| u.revPend)
  (s1.setMast m { s1.mast m with rollback := sec }).updWrite m { u with secPend := none, revPend := 0 }

/-- UPDATE_CONFIRMED (R509): the fuses pending at a sheet home are blown. -/
def execUpdateConfirmed (m : Nat) (s : State) : Host.Outcome State Fault Refusal :=
  .next (
    if s.fitted m = false ∨ 2 ≤ m ∨ (s.urec m).secPend = none then s
    else ((s.blowPending m).irq m 0x040 1).bump m F.UPDATE_CONFIRMS)

/-- A write of UPDATE.READY (R514 steps 3 and 4): 0x3C from the jury in JURY_BOOT starts the update transfer. -/
def State.accReady (s : State) (m r width value : Nat) : State :=
  s.action m 0x040 0x05C r true width 4 (fun t =>
    let a := t.active
    if value % 256 ≠ 0x3C ∨ t.redundant = false ∨ m = a ∨ t.updPhase a ≠ 4 ∨ (t.mast m).booting then t
    else t.xferStart.put a F.UPDATE_STATUS_PHASE 5)

/-- UPDATE_READY (R514). -/
def execUpdateReady (m r width value : Nat) (s : State) : Host.Outcome State Fault Refusal :=
  .next (s.accReady m r width value)

/-- JURY_READY_TIMEOUT (R516): 60 s after the jury's reset its READY has not been written. -/
def execJuryReadyTimeout (m : Nat) (s : State) : Host.Outcome State Fault Refusal :=
  .next (if s.redundant ∧ m = s.active ∧ s.updPhase m = 4 then s.updAbandon else s)

/-- TRIAL_ELAPSED_WRITE (R508): 60 s more of a trial. -/
def execTrialElapsedWrite (m : Nat) (s : State) : Host.Outcome State Fault Refusal :=
  .next (
    if s.fitted m = false ∨ 2 ≤ m ∨ (s.urec m).mode ≠ 1 ∨ (s.mast m).booting then s
    else s.updWrite m { s.urec m with elapsed := (s.urec m).elapsed + 60 })

/-- TRIAL_EXPIRY (R508, R516): ELAPSED reaches TRIAL_TIME.  A single mast, or one whose jury cannot take over, restarts into the old image; in a
pair the old mast takes over at the next tick; a second mast restarts into the old image, and its pair stays OUT_OF_STEP. -/
def execTrialExpiry (m : Nat) (s : State) : Host.Outcome State Fault Refusal :=
  .next (
    if s.fitted m = false ∨ 2 ≤ m ∨ (s.urec m).mode ≠ 1 ∨ (s.mast m).booting then s
    else
      let j := 1 - m
      let s1 := s.trialEnds m 2
      if s.redundant = false then s1.resetMast m 4
      else if m = s.active then
        if s.updPhase m = 6 ∧ s.pairState j = 3 then
          let s2 := (s1.put m F.UPDATE_STATUS_PHASE 6).setPair m { (s1.mast m).pair with takeover := some 5 }
          s2.setPair j { (s2.mast j).pair with takeover := some 5 }
        else s1.resetMast m 4
      else
        let s2 := if s1.pairState j = 2 then s1.xferStop 4 else s1
        ((s2.put j F.UPDATE_STATUS_PHASE 0).put j F.PAIR_STATE_STATE 4).resetMast m 6)

/-- What a tick does to an update on the active mast (R512–R516): an accepted ACTIVATE starts, a refused state abandons, an update transfer that
has ended makes the swap, one that has failed abandons. -/
def State.updTick (s : State) (m : Nat) : State :=
  if m ≠ s.active then s
  else if (s.mast m).upd.actPend then
    if s.actRefused m ≠ 0 then s.updDrop m
    else
      let s1 := s.setUpd m { (s.mast m).upd with actPend := false }
      if s.redundant = false then (s1.updCommit m (s1.trialRec m)).resetMast m 4
      else
        let j := 1 - m
        let s2 := (s1.updCommit j { s1.trialRec j with trialTime := (s1.trialRec m).trialTime }).resetMast j 6
        ((s2.put m F.PAIR_STATE_STATE 4).put j F.PAIR_STATE_STATE 4).put m F.UPDATE_STATUS_PHASE 4
  else if (s.updPhase m = 4 ∨ s.updPhase m = 5) ∧ s.actState m ≠ 0 then s.updAbandon
  else if s.updPhase m = 5 then
    let j := 1 - m
    if s.pairState m ≠ 2 then s.updAbandon
    else if s.xferPhase j = 3 ∧ (s.mast j).pair.buffer = [] then
      let one (t : State) (x : Nat) : State :=
        let t1 := ((t.put x F.PAIR_STATE_STATE 3).put x F.PAIR_XFER_STATUS_PHASE 0).put x F.PAIR_XFER_STATUS_RESULT 1
        t1.setPair x { (t1.mast x).pair with takeover := some 4 }
      one (one s m) j
    else s
  else s

end Sys2Proof.Machine
end

