-- ==== Sys2Proof/Machine/Campaign.lean ====
section
/-! DEFINITION. Node campaigns: the image load, waves, multicast rounds, stragglers, reports and persistence (R518–R530, R533, R534). -/

namespace Sys2Proof.Machine

/-! ## Persistence (R518, R530) -/

/-- CAMPAIGN.STATUS.PHASE. -/
def State.campPhase (s : State) (m : Nat) : Nat := s.get m F.CAMPAIGN_STATUS_PHASE

/-- The configuration of the CAMPAIGN page, by address. -/
def State.campCfg (s : State) (m : Nat) : Tbl (BitVec 32) :=
  (List.range 56).foldl (fun t i => Tbl.set (fun _ => 0) t (0x41040 + 4 * i) (s.word (key m (0x41040 + 4 * i)))) []

/-- The campaign record as it now stands (R530). -/
def State.campRec (s : State) (m : Nat) : CampRec :=
  let M := s.mast m
  let now := M.asn
  { cfg := s.campCfg m, bits := M.camp.bits, phase := s.campPhase m, wave := s.get m F.CAMPAIGN_STATUS_WAVE,
    round := s.get m F.CAMPAIGN_STATUS_ROUND,
    nodes := (List.filter (fun (e : Nat × NodeRec) => e.2.camp.campId == s.campId m && e.2.camp.nstate != 0) M.nodes).map (fun e =>
      ⟨e.1, e.2.camp.nstate, e.2.camp.reason, e.2.camp.tries, if e.2.camp.nstate = 6 then (sdiff 40 e.2.camp.deadline now).toNat else 0⟩) }

/-- Start a write of the campaign record (R530). -/
def State.campWrite (s : State) (m : Nat) : State :=
  let r := s.campRec m
  let s1 := s.nvStart m 2
  (s1.setNv m { (s1.mast m).nv with campJobs := (s1.mast m).nv.campJobs ++ [r] }).output m 49
    (numBytes ([2, r.bits, r.phase, r.wave, r.round] ++ r.nodes.map (fun w => w.node + 2 ^ 20 * w.nstate + 2 ^ 24 * w.reason + 2 ^ 28 * w.tries)))

/-- The campaign enters a phase, and its record is written (R530). -/
def State.campEnter (s : State) (m ph : Nat) : State := if s.campPhase m = ph then s else (s.put m F.CAMPAIGN_STATUS_PHASE ph).campWrite m

/-- CAMPAIGN_PERSIST (R530): PERSIST_S seconds since the last write. -/
def execCampaignPersist (m : Nat) (s : State) : Host.Outcome State Fault Refusal :=
  .next (if s.fitted m = false ∨ 2 ≤ m ∨ s.campPhase m = 0 then s else s.campWrite m)

/-! ## The image load (R518) -/

/-- Bytes of the node image. -/
def State.imgLen (s : State) (m : Nat) : Nat := min 1048576 (s.get m F.CAMPAIGN_IMG_LEN_BYTES)

/-- A campaign command ends with RESULT `x`. -/
def State.campEnd (s : State) (m x : Nat) : State := s.put m F.CAMPAIGN_STATUS_RESULT x

/-- The words of IMG_LEN and IMG_HASH (R533). -/
def imgWords : List Nat := (List.range 9).map (fun i => 0x41048 + 4 * i)

/-- Whether the record holds a load of the image that IMG_LEN and IMG_HASH name. -/
def State.sameLoad (s : State) (m : Nat) : Bool :=
  match (s.mast m).nv.camp with
  | none => false
  | some r => r.phase == 1 && imgWords.all (fun a => Tbl.get (fun _ => (0 : BitVec 32)) r.cfg a == s.word (key m a))

/-- IMG_BEGIN (R502, R518): a load of the same image resumes; else the image area is erased. -/
def State.imgBegin (s : State) (m : Nat) : State :=
  let C := (s.mast m).camp
  if C.running ∨ s.campPhase m = 7 then s.campEnd m 6
  else if s.sameLoad m ∧ s.campPhase m = 1 then s.campEnd m 0
  else
    let s1 := (s.nvRequest m 5).setNv m ((s.mast m).nv.erase 0x03600000 0x00100000)
    let s2 := s1.setCamp m { C with bits := 0, unrec := 0 }
    ((s2.put m F.CAMPAIGN_STATUS_PHASE 1).campWrite m).campEnd m 0

/-- IMG_CHUNK (R503, R518). -/
def State.imgChunk (s : State) (m : Nat) : State :=
  let cell := s.get m F.CAMPAIGN_CELL_CELL
  let x := (s.mast m).sal.item cell
  let data := if x.cells = [] then [] else x.body.spell
  let C := (s.mast m).camp
  let i := s.get m F.CAMPAIGN_CHUNK_INDEX
  if s.campPhase m ≠ 1 then (s.campEnd m 6).freeItem m cell
  else if chunksOf (s.imgLen m) ≤ i ∨ data.length ≠ 1024 then (s.campEnd m 2).freeItem m cell
  else if C.bits.testBit i then (s.campEnd m 0).freeItem m cell
  else (s.nvRequest m 5).setCamp m { C with prog := some (i, data.take (min 1024 (s.imgLen m - 1024 * i))), cell := cell }

/-- The campaign chunk being programmed is in the image area. -/
def State.imgProgrammed (s : State) (m : Nat) : State :=
  let C := (s.mast m).camp
  match C.prog with
  | none => s
  | some (i, data) =>
    let s1 := s.setNv m ((s.mast m).nv.program (0x03600000 + 1024 * i) data)
    let s2 := s1.setCamp m { C with prog := none, bits := C.bits ||| 2 ^ i, unrec := C.unrec + 1 }
    let s3 := if 64 ≤ C.unrec + 1 then (s2.setCamp m { (s2.mast m).camp with unrec := 0 }).campWrite m else s2
    (s3.campEnd m 0).freeItem m C.cell

/-- CHUNK_PROGRAMMED (R503, R518): the chunk being programmed, of the own image or of the node image, is in flash. -/
def execChunkProgrammed (m : Nat) (node : Bool) (s : State) : Host.Outcome State Fault Refusal :=
  .next (if s.fitted m = false ∨ 2 ≤ m then s else if node then s.imgProgrammed m else s.updProgrammed m)

/-- IMG_VERIFY (R505, R518). -/
def State.imgVerify (s : State) (m : Nat) : State :=
  let C := (s.mast m).camp
  if s.campPhase m ≠ 1 ∨ allChunks (s.imgLen m) C.bits = false then s.campEnd m 6 else s.setCamp m { C with verifying := true }

/-- IMG_VERIFY_DONE (R518): on a match the campaign is READY; on a mismatch the next IMG_BEGIN erases. -/
def execImgVerifyDone (m : Nat) (s : State) : Host.Outcome State Fault Refusal :=
  .next (
    if s.fitted m = false ∨ 2 ≤ m ∨ (s.mast m).camp.verifying = false then s
    else
      let C := (s.mast m).camp
      let s1 := s.setCamp m { C with verifying := false }
      if sha256 ((s.mast m).nv.bytes 0x03600000 (s.imgLen m)) = (s.regBytes m F.CAMPAIGN_IMG_HASH_HASH 8 32) then
        (s1.campEnter m 2).campEnd m 0
      else ((s1.setCamp m { C with verifying := false, bits := 0 }).campEnter m 0).campEnd m 3)

/-! ## Waves (R528, R529) -/

/-- The lowest free WSLOT. -/
def Camp.freeSlot (C : Camp) : Option Nat := (List.range 8192).find? (fun w => !(C.wave.any (fun e => e.2 == w)))

/-- WAVE_ADD (R528). -/
def State.waveAdd (s : State) (m : Nat) : State :=
  let C := (s.mast m).camp
  let v := s.get m F.CAMPAIGN_NODE_NODE
  let c := s.campOf m v
  if s.campPhase m ≠ 2 ∧ s.campPhase m ≠ 6 then s.campEnd m 6
  else if 131072 ≤ v ∨ ((s.mast m).node v).ident.used = false ∨ s.groupIn m v F.CAMPAIGN_TARGET_GROUPS = false then s.campEnd m 5
  else if C.wave.any (fun e => e.1 == v) ∨ (s.inCamp m v ∧ c.nstate ≠ 11) then s.campEnd m 8
  else match C.freeSlot with
    | none => s.campEnd m 4
    | some w =>
      let n := s.fragCount m
      let C1 := { C with wave := C.wave ++ [(v, w)], missing := Tbl.set (fun _ => 0) C.missing w (2 ^ n - 1) }
      let st := if s.groupIn m v F.CAMPAIGN_GROUP_LOCK_GROUPS then 10 else 1
      let c1 : CampSec := { c with campId := s.campId m, nstate := st, reason := if st = 10 then 5 else 0, missing := n, tries := 0, wslot := w, deadline := 0 }
      ((s.setCamp m C1).setCampOf m v c1).campEnd m 0

/-- Append an OFFER to node `v` (R522). -/
def State.offer (s : State) (m v : Nat) : State := s.campFrame m 2 v 0

/-- WAVE_GO (R528). -/
def State.waveGo (s : State) (m : Nat) : State :=
  let C := (s.mast m).camp
  if (s.campPhase m ≠ 2 ∧ s.campPhase m ≠ 6) ∨ C.wave = [] then s.campEnd m 6
  else
    let C1 := { C with startAsn := (s.mast m).asn, running := true, roundOpen := false, reported := [], mcWork := [] }
    let s1 := ((s.setCamp m C1).put m F.CAMPAIGN_STATUS_WAVE (min 65535 (s.get m F.CAMPAIGN_STATUS_WAVE + 1))).put m F.CAMPAIGN_STATUS_ROUND 0
    let s2 := C.wave.foldl (fun t e => if (t.campOf m e.1).nstate = 1 then t.offer m e.1 else t) s1
    (s2.campEnter m 3).campEnd m 0

/-- The nodes in states 1–3, 9 and 10 of the wave become DEFERRED, and every WSLOT is freed (R529). -/
def State.waveClose (s : State) (m : Nat) : State :=
  let C := (s.mast m).camp
  let s1 := C.wave.foldl (fun t e =>
    let c := t.campOf m e.1
    if c.nstate = 1 ∨ c.nstate = 2 ∨ c.nstate = 3 ∨ c.nstate = 9 ∨ c.nstate = 10 then t.setCampOf m e.1 { c with nstate := 11 } else t) s
  let C1 := (s1.mast m).camp
  let keep (f : CampFrame) : Bool := decide (f.typ = 4)
  s1.setCamp m { C1 with wave := [], missing := [], running := false, roundOpen := false, reported := [], mcWork := [], todo := C1.todo.filter keep }

/-- WAVE_END (R529): no wave node is left in states 1–3, or WAVE_TIME has passed. -/
def execWaveEnd (m : Nat) (s : State) : Host.Outcome State Fault Refusal :=
  .next (
    if s.fitted m = false ∨ 2 ≤ m ∨ (s.mast m).camp.running = false ∨ s.campPhase m = 7 then s
    else ((s.waveClose m).campEnter m 6).irq m 0x041 0)

/-- PAUSE (R533). -/
def State.campPause (s : State) (m : Nat) : State :=
  let C := (s.mast m).camp
  if C.running = false ∨ s.campPhase m = 7 then s.campEnd m 6
  else ((s.setCamp m { C with resume := s.campPhase m }).campEnter m 7).campEnd m 0

/-- RESUME (R533); none in reefed mode (R530). -/
def State.campResume (s : State) (m : Nat) : State :=
  let C := (s.mast m).camp
  if s.campPhase m ≠ 7 ∨ s.reefed then s.campEnd m 6 else (s.campEnter m C.resume).campEnd m 0

/-- ABORT (R533): the wave closes as at its end, and the campaign is IDLE. -/
def State.campAbort (s : State) (m : Nat) : State := (((s.waveClose m).campEnter m 0).campEnd m 0)

/-- A write of CAMPAIGN.CMD (R533): ignored with LOCKV while a command runs. -/
def State.accCampaign (s : State) (m r width value : Nat) : State :=
  s.action m 0x041 0x040 r true width 4 (fun t =>
    let C := (t.mast m).camp
    if C.prog.isSome ∨ C.verifying then t.lockv m 0x041 0x040 r
    else match value % 16 with
      | 1 => t.imgBegin m
      | 2 => t.imgChunk m
      | 3 => t.imgVerify m
      | 4 => t.waveAdd m
      | 5 => t.waveGo m
      | 6 => t.campPause m
      | 7 => t.campResume m
      | 8 => t.campAbort m
      | _ => t)

/-- IMG_BEGIN (R518). -/
def execImgBegin (m r width : Nat) (s : State) : Host.Outcome State Fault Refusal :=
  .next (s.hostOn m r 0x041 0x040 width 1 .empty (fun m t => t.accCampaign m r width 1))
/-- IMG_CHUNK (R518). -/
def execImgChunk (m r width : Nat) (s : State) : Host.Outcome State Fault Refusal :=
  .next (s.hostOn m r 0x041 0x040 width 2 .empty (fun m t => t.accCampaign m r width 2))
/-- IMG_VERIFY (R518). -/
def execImgVerify (m r width : Nat) (s : State) : Host.Outcome State Fault Refusal :=
  .next (s.hostOn m r 0x041 0x040 width 3 .empty (fun m t => t.accCampaign m r width 3))
/-- WAVE_ADD (R528). -/
def execWaveAdd (m r width : Nat) (s : State) : Host.Outcome State Fault Refusal :=
  .next (s.hostOn m r 0x041 0x040 width 4 .empty (fun m t => t.accCampaign m r width 4))
/-- WAVE_GO (R528). -/
def execWaveGo (m r width : Nat) (s : State) : Host.Outcome State Fault Refusal :=
  .next (s.hostOn m r 0x041 0x040 width 5 .empty (fun m t => t.accCampaign m r width 5))
/-- CAMPAIGN_PAUSE (R533). -/
def execCampaignPause (m r width : Nat) (s : State) : Host.Outcome State Fault Refusal :=
  .next (s.hostOn m r 0x041 0x040 width 6 .empty (fun m t => t.accCampaign m r width 6))
/-- CAMPAIGN_RESUME (R533). -/
def execCampaignResume (m r width : Nat) (s : State) : Host.Outcome State Fault Refusal :=
  .next (s.hostOn m r 0x041 0x040 width 7 .empty (fun m t => t.accCampaign m r width 7))
/-- CAMPAIGN_ABORT (R533). -/
def execCampaignAbort (m r width : Nat) (s : State) : Host.Outcome State Fault Refusal :=
  .next (s.hostOn m r 0x041 0x040 width 8 .empty (fun m t => t.accCampaign m r width 8))

/-- GROUP_LOCK has been written (R522, R526): nodes of a locked group in states 1–4 are held; nodes held by a lock that is cleared are
offered again while their wave runs. -/
def State.groupLocked (s : State) (m : Nat) : State :=
  let ns := (List.filter (fun (e : Nat × NodeRec) => e.2.camp.campId == s.campId m && e.2.camp.nstate != 0) (s.mast m).nodes).map Prod.fst
  ns.foldl (fun t v =>
    let c := t.campOf m v
    let C := (t.mast m).camp
    if t.groupIn m v F.CAMPAIGN_GROUP_LOCK_GROUPS then
      if 1 ≤ c.nstate ∧ c.nstate ≤ 4 then
        (t.setCamp m { C with todo := C.todo.filter (fun f => f.node != v) }).setCampOf m v { c with nstate := 10, reason := 5 }
      else t
    else if c.nstate = 10 ∧ C.running ∧ C.wave.any (fun e => e.1 == v) then (t.setCampOf m v { c with nstate := 1, tries := 0 }).offer m v
    else t) s

/-! ## Rounds (R524) -/

/-- The union of the missing fragments of the RECEIVING wave nodes of sail `k`. -/
def State.union (s : State) (m k : Nat) : Nat :=
  (s.mast m).camp.wave.foldl (fun u e =>
    if (s.campOf m e.1).nstate = 2 ∧ ((s.mast m).node e.1).ident.port = k then u ||| (s.missingOf m e.1 % 2 ^ s.fragCount m) else u) 0

/-- ROUND_START (R524): each sail's union is formed; when every union is empty, multicast ends. -/
def execRoundStart (m : Nat) (s : State) : Host.Outcome State Fault Refusal :=
  .next (
    let C := (s.mast m).camp
    if s.fitted m = false ∨ 2 ≤ m ∨ C.running = false ∨ (s.campPhase m ≠ 3 ∧ s.campPhase m ≠ 4) ∨ C.roundOpen ∨ C.mcWork ≠ [] then s
    else
      let n := s.fragCount m
      let us := s.sailList.map (fun k => (k, (List.range n).filter (fun f => (s.union m k).testBit f)))
      let longest := us.foldl (fun a e => max a e.2.length) 0
      if longest = 0 then s.campEnter m 5
      else
        let r := min 255 (s.get m F.CAMPAIGN_STATUS_ROUND + 1)
        let work := us.foldl (fun t e => if e.2 = [] then t
          else Tbl.set (fun _ => []) t e.1 (e.2.map McWork.frag ++ List.replicate (longest - e.2.length) McWork.gap ++ [McWork.roundEnd r])) []
        (((s.setCamp m { C with mcWork := work }).put m F.CAMPAIGN_STATUS_ROUND r).put m F.CAMPAIGN_UNION_FRAGS longest).campEnter m 4)

/-- ROUND_CLOSE (R524): REPORT_WAIT after ROUND_END. -/
def execRoundClose (m : Nat) (s : State) : Host.Outcome State Fault Refusal :=
  .next (
    let C := (s.mast m).camp
    if s.fitted m = false ∨ 2 ≤ m ∨ C.running = false ∨ s.campPhase m ≠ 4 ∨ C.roundOpen = false then s
    else
      let r := s.get m F.CAMPAIGN_STATUS_ROUND
      let last := decide (max 1 (s.get m F.CAMPAIGN_ROUND_CFG_MC_ROUNDS) ≤ r)
      let s1 := s.setCamp m { C with roundOpen := false, reported := [] }
      C.wave.foldl (fun t e =>
        let v := e.1
        if (t.campOf m v).nstate ≠ 2 then t
        else
          let t1 := if C.reported.contains v then t else t.campTry m v id
          let c := t1.campOf m v
          if c.nstate = 2 ∧ (c.missing ≤ s.get m F.CAMPAIGN_ROUND_CFG_STRAGGLE_MAX ∨ last) then
            (t1.setCampOf m v { c with nstate := 3 }).straggle m v
          else t1) s1)

/-! ## Deadlines (R522, R526, R527) -/

/-- Whether node `v` is in the wave, which runs. -/
def State.inWave (s : State) (m v : Nat) : Bool := (s.mast m).camp.running && (s.mast m).camp.wave.any (fun e => e.1 == v)

/-- Whether DEADLINE of node `v` has passed (R521, R522). -/
def State.duePast (s : State) (m v : Nat) : Bool := decide (0 ≤ sdiff 40 (s.mast m).asn (s.campOf m v).deadline)

/-- OFFER_REPORT_TIMEOUT (R522): no REPORT within REPORT_WAIT of the OFFER's ACK. -/
def execOfferReportTimeout (m v : Nat) (s : State) : Host.Outcome State Fault Refusal :=
  .next (
    let C := (s.mast m).camp
    if s.fitted m = false ∨ 2 ≤ m ∨ s.inWave m v = false ∨ (s.campOf m v).nstate ≠ 1 ∨ C.todo.any (fun f => f.node == v)
      ∨ C.sent.any (fun f => f.node == v) then s
    else s.campTry m v (fun t => t.offer m v))

/-- REFUSED_RETRY_DEADLINE (R522): a refused node is offered again while its wave runs. -/
def execRefusedRetryDeadline (m v : Nat) (s : State) : Host.Outcome State Fault Refusal :=
  .next (
    if s.fitted m = false ∨ 2 ≤ m ∨ s.inWave m v = false ∨ (s.campOf m v).nstate ≠ 9 ∨ s.duePast m v = false then s
    else (s.setCampOf m v { s.campOf m v with nstate := 1, tries := 0 }).offer m v)

/-- Node `v` is recorded REVERTED (R522, R527). -/
def State.nodeReverted (s : State) (m v : Nat) : State :=
  (((s.setCampOf m v { s.campOf m v with nstate := 8 }).bump m F.CAMPAIGN_REVERTED).irq m 0x041 1).event m (.campaign 1) v []

/-- NODE_TRIAL_DEADLINE (R527). -/
def execNodeTrialDeadline (m v : Nat) (s : State) : Host.Outcome State Fault Refusal :=
  .next (if s.fitted m = false ∨ 2 ≤ m ∨ s.inCamp m v = false ∨ (s.campOf m v).nstate ≠ 6 ∨ s.duePast m v = false then s
    else s.nodeReverted m v)

/-- COMPLETE_SCAN (R522, R526): the scan visits node `v`. -/
def execCompleteScan (m v : Nat) (s : State) : Host.Outcome State Fault Refusal :=
  .next (
    if s.fitted m = false ∨ 2 ≤ m ∨ s.inCamp m v = false ∨ (s.campOf m v).nstate ≠ 4 ∨ s.bit m F.CAMPAIGN_CFG_AUTO_ACT = false
      ∨ s.groupIn m v F.CAMPAIGN_LIT_GROUPS ∨ s.campPhase m = 7 then s
    else (s.setCampOf m v { s.campOf m v with nstate := 5 }).campFrame m 4 v 0)

/-! ## Reports (R519, R522, R523) -/

/-- A node's bitmap with the bytes BASE to BASE + NBYTES − 1 replaced (R523). -/
def bitmapWith (bits base n : Nat) (b : List Nat) : Nat :=
  (bits - bits / 2 ^ (8 * base) % 2 ^ (8 * n) * 2 ^ (8 * base)) + leNat (b.take n) * 2 ^ (8 * base)

/-- The engine takes a REPORT of node `v` (R522, R523). -/
def State.report (s : State) (m v : Nat) (b : List Nat) : State :=
  let at_ (i : Nat) : Nat := b.getD i 0
  let n16 (i : Nat) : Nat := at_ i + 256 * at_ (i + 1)
  let base := n16 7
  let nb := n16 9
  if b.length < 11 ∨ at_ 0 ≠ 0x11 ∨ n16 1 ≠ s.campId m ∨ s.inCamp m v = false ∨ 4 < at_ 3 ∨ 512 < base + nb ∨ b.length < 11 + nb then
    s.bump m F.CAMPAIGN_REPORT_BAD
  else
    let c := s.campOf m v
    let now := (s.mast m).asn
    let s1 := (s.setCampOf m v { c with lastReport := now, batt := n16 5, tries := 0 }).bump m F.CAMPAIGN_REPORTS
    let C := (s1.mast m).camp
    let s2 := if C.reported.contains v then s1 else s1.setCamp m { C with reported := C.reported ++ [v] }
    let s3 := if s2.inWave m v then s2.setMissing m v (bitmapWith (s2.missingOf m v) base nb (b.drop 11)) else s2
    let c3 := s3.campOf m v
    match at_ 3 with
    | 0 =>
      if c.nstate = 1 then s3.setCampOf m v { c3 with nstate := 2 }
      else if c.nstate = 3 then s3.straggle m v
      else s3
    | 1 => if 1 ≤ c.nstate ∧ c.nstate ≤ 3 then s3.setCampOf m v { c3 with nstate := 4 } else s3
    | 2 =>
      if 1 ≤ c.nstate ∧ c.nstate ≤ 4 then
        (s3.setCampOf m v { c3 with nstate := 9, reason := at_ 4 % 16,
                                    deadline := (now + s.secSlots m (60 * s.get m F.CAMPAIGN_RETRY_MIN)) % 2 ^ 40 }).bump m F.CAMPAIGN_REFUSALS
      else s3
    | 3 =>
      if c.nstate = 6 then (s3.setCampOf m v { c3 with nstate := 7 }).bump m F.CAMPAIGN_SHEET_HOME
      else if c.nstate = 8 then (s3.bump m F.CAMPAIGN_LATE_HEALTH).irq m 0x041 2
      else s3
    | _ => if c.nstate = 6 then s3.nodeReverted m v else s3

/-- CAMPAIGN_REPORT (R523): station 0x10 takes an item given with USER = 0b0001; another item goes on to NEXT. -/
def execCampaignReport (m : Nat) (s : State) : Host.Outcome State Fault Refusal :=
  .next (match s.engineTake m 16 with
    | none => s.engineIdle m 16
    | some (d, t) =>
      if d.flags / 4 % 16 ≠ 1 then t.engineNext m 16 d
      else
        let b := ((t.mast m).sal.item d.cell).body.spell
        (t.report m d.node b).freeItem m d.cell)

/-! ## Frames (R519, R520, R525) -/

/-- The message of a campaign frame (R519). -/
def State.campMessage (s : State) (m typ arg : Nat) : List Nat :=
  let head := typ :: leBytes 2 (s.campId m)
  let g (f : Fld) : Nat := s.get m f
  match typ with
  | 1 => head ++ leBytes 2 arg ++ leBytes 2 (s.fragCount m) ++ (s.mast m).nv.bytes (0x03600000 + 256 * arg) (min 256 (s.imgLen m - 256 * arg))
  | 2 =>
    let slots := s.secSlots m (g F.CAMPAIGN_TIMES_OFFER_LEAD)
    let p := max 1 (g F.CAMPAIGN_MC_CFG_PERIOD)
    let from_ := (s.mast m).camp.startAsn + slots
    let start := from_ + (g F.CAMPAIGN_MC_CFG_PHASE % p + p - from_ % p) % p
    head ++ leBytes 4 (s.imgLen m) ++ s.regBytes m F.CAMPAIGN_IMG_HASH_HASH 8 32 ++ leBytes 2 (g F.CAMPAIGN_OFFER_CFG_BATT_MIN)
      ++ leBytes 4 arg ++ leBytes 5 start ++ leBytes 2 (g F.CAMPAIGN_MC_CFG_PERIOD) ++ leBytes 2 (g F.CAMPAIGN_MC_CFG_PHASE)
      ++ leBytes 1 (g F.CAMPAIGN_RADIO_PROF) ++ leBytes 4 (g F.CAMPAIGN_NODE_TRIAL_S)
  | 3 => head ++ [arg % 256]
  | 4 => head ++ leBytes 4 (g F.CAMPAIGN_NODE_TRIAL_S)
  | _ => head

/-- The 6LoWPAN payload of a campaign frame (R520): IPHC with elided source, NHC UDP with inline ports and checksum; its hop limit is 255 (DESIGN
CHOICE, log entry 171). -/
def campPayload (srcMac dstMac : Addr) (src dst : Ip6) (port : Nat) (msg : List Nat) : List Nat :=
  let p : Packet := { src := src, dst := dst, hopLimit := 255, rh := none, inner := [], icmpType := none, udpSrc := port, udpDst := some port,
                      data := msg }
  iphcBytes (fun _ => none) srcMac.iid dstMac.iid p.outer none ++ [0xF0] ++ beBytes 2 port ++ beBytes 2 port ++ beBytes 2 p.udpSum ++ msg

/-- A campaign frame before it is sealed (R520): `v` a node, or none for multicast. -/
def State.campaignFrame (s : State) (m : Nat) (v : Option Nat) (msg : List Nat) (u : Nat) : Frame :=
  let own := s.get64 m F.MAC_OWN_EUI_EUI
  let ll (e : Nat) : Ip6 := ⟨linkLocal, iidOf e⟩
  let dst : Ip6 := match v with
    | some n => ll ((s.mast m).node n).ident.eui
    | none => ⟨0xFF02000000000000, 1⟩
  let dstMac : Addr := match v with
    | some n => .ext ((s.mast m).node n).ident.eui
    | none => .short 0xFFFF
  let f : Frame :=
    { ftype := 1, version := 2, fcsOk := true, seqNo := u % 256,
      ackReq := match v with
        | some n => ((s.mast m).node n).link.ackReq
        | none => false,
      dstPan := some (s.get m F.MAC_OWN_ID_PAN_ID), dst := dstMac, src := .ext own, secLevel := 5, keyMode := if v.isSome then 0 else 1,
      keyIndex := if v.isSome then 0 else s.get m F.CAMPAIGN_RADIO_KEY_IDX, fc := 0, tsync := none, tcIe := none, vendor := [],
      payload := campPayload (.ext own) dstMac (ll own) dst (s.get m F.CAMPAIGN_OFFER_CFG_UDP_PORT) msg, len := 0, mic := 0 }
  f.sized

/-- Give a sealed campaign frame to LINK_QUEUE (R520): none while account 47 refuses its cells. -/
def State.campGive (s : State) (m : Nat) (v port : Nat) (f : Frame) : Option (Nat × State) :=
  match s.allocItem m 47 f.len (.down f) with
  | none => none
  | some (c, t) =>
    let d : Desc := { Desc.zero with station := 16, cell := c, len := f.len, node := v, port := port, flow := v % 1024, flags := 1,
                                     stamp := s.localNs m % 2 ^ 48 }
    some (c, ((t.setItemBody m c d (.down f)).engineAdmitted m 16).engineNext m 16 d)

/-- Take a campaign frame off the engine's work. -/
def State.campTake (s : State) (m : Nat) (f : CampFrame) (c : Nat) : State :=
  let C := (s.mast m).camp
  s.setCamp m { C with todo := C.todo.erase f, sent := C.sent ++ [{ f with cell := c }] }

/-- A campaign frame that cannot be built is dropped (R265, R425). -/
def State.campDrop (s : State) (m : Nat) (f : CampFrame) : State := (s.campTake m f (2 ^ 20)).campLeft m (2 ^ 20) false

/-- Build the next unicast campaign frame (R520). -/
def State.campUnicast (s : State) (m : Nat) (f : CampFrame) : State :=
  let v := f.node
  let key := s.nodeKey m v
  match key.1 with
  | none => key.2.campDrop m f
  | some k =>
    let l := ((s.mast m).node v).link
    match key.2.fcNext m l.dnFc with
    | .exhausted => (key.2.fcExhausted m v).campDrop m f
    | .wait => (s.fcReserve m).engineWaits m 16
    | .deferred => s.fcReserve m
    | .value n =>
      let t := key.2
      let freq := ((t.mast m).mac.chan (t.get m (F.CAMPAIGN_MC_CH_CHANNEL.at 4 f.sail))).freq
      let u := t.free
      let g := t.campaignFrame m (some v) (t.campMessage m f.typ (if f.typ = 2 then freq else f.arg)) u.1
      let g2 := t.sealFrame m k n g
      match ((u.2.setLink m v { l with dnFc := n }).fcTaken m n).campGive m v ((s.mast m).node v).ident.port g2 with
      | none => s.engineWaits m 16
      | some (c, t1) =>
        let t2 := t1.campTake m f c
        if f.typ = 1 then t2.bump m F.CAMPAIGN_FRAG_UNI else if f.typ = 2 then t2.bump m F.CAMPAIGN_OFFERS else t2

/-- The multicast work of sail `k` moves on; the round opens for its close when no work is left (R524). -/
def State.mcPop (s : State) (m k : Nat) : State :=
  let C := (s.mast m).camp
  let work := Tbl.set (fun _ => []) C.mcWork k (Tbl.get (fun _ => []) C.mcWork k).tail
  s.setCamp m { C with mcWork := work, roundOpen := C.roundOpen || work.isEmpty }

/-- Build a multicast frame of sail `k` (R520): sealed under the group key and its group counter. -/
def State.campMulticast (s : State) (m k typ arg : Nat) : State :=
  let g := max 1 (s.get m F.CAMPAIGN_RADIO_FC_GRP)
  let key := s.groupKey m (s.get m F.CAMPAIGN_RADIO_KEY_IDX) .enc
  match key.1 with
  | none => key.2.mcPop m k
  | some kk =>
    match key.2.fcNext m (s.get m (F.MAC_FC_GROUP.at 4 g)) with
    | .exhausted => (key.2.fcExhausted m g).mcPop m k
    | .wait => (s.fcReserve m).engineWaits m 16
    | .deferred => s.fcReserve m
    | .value n =>
      let t := key.2
      let u := t.free
      let f1 := t.sealFrame m kk n (t.campaignFrame m none (t.campMessage m typ arg) u.1)
      match ((u.2.put m (F.MAC_FC_GROUP.at 4 g) n).fcTaken m n).campGive m noNode k f1 with
      | none => s.engineWaits m 16
      | some (_, t1) => let t2 := if typ = 1 then t1.bump m F.CAMPAIGN_FRAG_MC else t1
                        t2.mcPop m k

/-- CAMPAIGN_FRAG (R520, R524, R525): station 0x10 builds its next frame: `work` 0 a frame to a node, 1 + k that of sail `k`'s multicast
slot. Nothing is built while the campaign is PAUSED. -/
def execCampaignFrag (m work : Nat) (s : State) : Host.Outcome State Fault Refusal :=
  .next (
    let C := (s.mast m).camp
    if s.fitted m = false ∨ 2 ≤ m ∨ s.campPhase m = 7 ∨ s.engineOf m 16 = false then s
    else if work = 0 then
      match C.todo with
      | [] => s
      | f :: _ => s.campUnicast m f
    else match Tbl.get (fun _ => []) C.mcWork (work - 1) with
      | [] => s
      | .gap :: _ => s.mcPop m (work - 1)
      | .frag f :: _ => s.campMulticast m (work - 1) 1 f
      | .roundEnd r :: _ => s.campMulticast m (work - 1) 3 r)

end Sys2Proof.Machine
end

