-- ==== Sys2Proof/Machine/Package.lean ====
section
/-! DEFINITION. The package: its balls and what lies on each (R635–R644), the state of balls while a die is in reset (R646), the boundary-scan
chains and the IDCODE (R653, R654), and the figures of supply and temperature that the spec computes from one another (R33, R34, R657, R661,
R663). -/

namespace Sys2Proof.Machine

/-! ## Balls (R635–R644) -/

/-- The letters of the rows, from row 1 on (R635). -/
def rowLetters : List String :=
  let one := ["A", "B", "C", "D", "E", "F", "G", "H", "J", "K", "L", "M", "N", "P", "T", "U", "V", "W", "Y"]
  one ++ one.map (fun x => "A" ++ x) ++ (one.take 11).map (fun x => "B" ++ x)

/-- The index of a row by its letters, 1–49; 0 when no row has them. -/
def rowIndex (letters : String) : Nat := match rowLetters.findIdx? (fun x => x == letters) with
  | some i => i + 1
  | none => 0

/-- What a ball carries: a signal of a sail, a mast or the shared functions by its name, a feed, ground, or nothing (a die that is not fitted). -/
inductive Ball where
  | sail (k : Nat) (name : String)
  | mast (m : Nat) (name : String)
  | shared (name : String)
  | feedA | feedB | vss | open_
deriving DecidableEq, Repr

/-- A signal's place: its row letters and its column. -/
abbrev BallPlace := String × String × Nat

/-- Names and places in order. -/
def placesIn (names rows : List String) (col : Nat) : List BallPlace := (names.zip rows).map (fun e => (e.1, e.2, col))

/-- Names `p` with numbers from 0 to `n - 1`. -/
def numbered (p : String) (n : Nat) : List String := (List.range n).map (fun i => p ++ toString i)

/-- Sail site 0 (R640). -/
def sitePlaces : List BallPlace :=
  [("RFIN_A_P", "A", 2), ("RFIN_A_N", "A", 3), ("RFIN_B_P", "A", 6), ("RFIN_B_N", "A", 7), ("RFOUT_P", "C", 4), ("RFOUT_N", "C", 5),
   ("PDET", "D", 1)]
    ++ (List.range 8).map (fun i => ("FE_CTL" ++ toString i, "F", i + 1))
    ++ [("FE_SCK", "H", 1), ("FE_CS_N", "H", 2), ("FE_MOSI", "H", 3), ("FE_MISO", "H", 4)]

/-- The pairs of lanes of Ethernet or PCI Express, P and N of each in order (R641). -/
def lanePairs (pre suf : String) : List String :=
  (List.range 4).flatMap (fun i => [pre ++ toString i ++ suf ++ "_P", pre ++ toString i ++ suf ++ "_N"])

/-- Mast A's signals (R641). -/
def mastPlaces : List BallPlace :=
  let eth := ["K", "L", "N", "P", "U", "V", "Y", "AA"]
  let pci := ["AC", "AD", "AF", "AG", "AJ", "AK", "AM", "AN"]
  placesIn (lanePairs "ETH" "_TX") eth 1 ++ placesIn (lanePairs "ETH" "_RX") eth 3
    ++ placesIn (lanePairs "PCIE_TX" "") pci 1 ++ placesIn (lanePairs "PCIE_RX" "") pci 3
    ++ placesIn ["PCIE_REFCLK_P", "PCIE_REFCLK_N"] ["AT", "AU"] 1 ++ [("PERST_N", "AT", 3)]
    ++ placesIn (["FL_CK", "FL_CS_N", "FL_DQS"] ++ numbered "FL_DQ" 8) ["K", "L", "M", "N", "P", "T", "U", "V", "W", "Y", "AA"] 5
    ++ [("FL_RESET_N", "AB", 5), ("FL_VCC", "AD", 5), ("FL_VCC", "AE", 5)]
    ++ placesIn ["MGMT_SCK", "MGMT_CS_N", "MGMT_MOSI", "MGMT_MISO", "MGMT_RXD", "MGMT_TXD", "MGMT_ATTN", "TCK", "TMS", "TDI", "TDO", "TRST_N"]
        ["K", "L", "M", "N", "P", "T", "U", "V", "W", "Y", "AA", "AB"] 7
    ++ [("PPS_IN", "AD", 7)]
    ++ placesIn (numbered "GPIO" 16) ["K", "L", "M", "N", "P", "T", "U", "V", "W", "Y", "AA", "AB", "AC", "AD", "AE", "AF"] 9
    ++ placesIn (numbered "TPO" 8) ["K", "L", "M", "N", "P", "T", "U", "V"] 11

/-- The shared balls (R642). -/
def sharedPlaces : List BallPlace :=
  placesIn (["REFCLK_A", "REFCLK_B", "XTAL32_IN", "XTAL32_OUT"] ++ numbered "TAMPER_N" 4 ++ ["LOWPWR", "RESET_N", "TEST_EN", "VIO18_OUT", "VIO18_OUT"])
    ["K", "M", "P", "T", "V", "W", "Y", "AA", "AC", "AD", "AF", "AH", "AJ"] 25

/-- The signal that a table of places has at a row and a column. -/
def signalIn (l : List BallPlace) (row col : Nat) : Option String := (l.find? (fun p => rowIndex p.2.1 == row && p.2.2 == col)).map Prod.fst

/-- What lies on the ball in row `row`, column `col` of a package with the dies of `s` (R636–R644). -/
def State.ballAt (s : State) (row col : Nat) : Ball :=
  let on (d : Nat) (b : Ball) : Ball := if s.fitted d then b else .open_
  if row ≤ 8 then
    let k := (col - 1) / 8
    match if col ≤ 48 then signalIn sitePlaces row ((col - 1) % 8 + 1) else none with
    | some x => on (k + 2) (.sail k x)
    | none => .vss
  else if 39 ≤ row then
    if col ≠ 25 ∧ (row + col) % 2 = 0 then (if col < 25 then .feedA else .feedB) else .vss
  else if col = 25 then
    match signalIn sharedPlaces row col with
    | some x => .shared x
    | none => .vss
  else
    let m := if col < 25 then 0 else 1
    match signalIn mastPlaces row (if m = 0 then col else 50 - col) with
    | some x => on m (.mast m x)
    | none => .vss

/-! ## Balls in reset (R646) -/

/-- What a ball does while its die is in reset and until software changes it. -/
inductive Rest where
  | pullUp | pullDown | noPull | highZ | supply
deriving DecidableEq, Repr

/-- The state of the signal named `x` in reset (R646); none for the balls that the rule does not name. -/
def restOf (x : String) : Option Rest :=
  if ["RESET_N", "TMS", "TDI"].contains x then some .pullUp
  else if (["LOWPWR", "TEST_EN", "TCK", "TRST_N"] ++ numbered "TAMPER_N" 4 ++ numbered "FE_CTL" 8 ++ ["FE_SCK", "FE_CS_N", "FE_MOSI"]).contains x
    then some .pullDown
  else if (numbered "GPIO" 16 ++ ["MGMT_SCK", "MGMT_CS_N", "MGMT_MOSI", "MGMT_RXD", "PPS_IN", "FE_MISO"]).contains x then some .noPull
  else if (numbered "TPO" 8 ++ ["MGMT_ATTN"]).contains x then some .highZ
  else if ["FL_VCC", "VIO18_OUT"].contains x then some .supply
  else none

/-! ## Boundary scan (R653, R654) -/

/-- The digital signals of a mast that its chain covers: neither CML nor HCSL nor a supply, nor the test access port's own (R653). -/
def mastDigital : List String :=
  (mastPlaces.map Prod.fst).filter (fun x => !((lanePairs "ETH" "_TX" ++ lanePairs "ETH" "_RX" ++ lanePairs "PCIE_TX" "" ++ lanePairs "PCIE_RX" ""
    ++ ["PCIE_REFCLK_P", "PCIE_REFCLK_N", "FL_VCC", "TCK", "TMS", "TDI", "TDO", "TRST_N"]).contains x))

/-- The boundary-scan chain of mast `m` (R653): its digital balls; on mast A also the shared CMOS18 balls, and the FE_CTL and FE_SPI balls of the
fitted sails in order. -/
def State.chain (s : State) (m : Nat) : List Ball :=
  let own := mastDigital.map (fun x => Ball.mast m x)
  if m = 0 then
    own ++ (numbered "TAMPER_N" 4 ++ ["LOWPWR", "RESET_N", "TEST_EN"]).map (fun x => Ball.shared x)
      ++ s.sailList.flatMap (fun k => (numbered "FE_CTL" 8 ++ ["FE_SCK", "FE_CS_N", "FE_MOSI", "FE_MISO"]).map (fun x => Ball.sail k x))
  else own

/-- Whether an instruction in a test access port holds mast `m`'s chain in reset (R654). -/
def tapHolds (op : Nat) : Bool := op == 3 || op == 4 || op == 6

/-- Whether an instruction is one of core debug, which acts only while WAIT_ACK is clear (R653, R654). -/
def tapDebug (op : Nat) : Bool := decide (0x80 ≤ op ∧ op ≤ 0x8F)

/-- IDCODE of mast `m` (R654). -/
def State.idcode (s : State) (m : Nat) : Nat :=
  s.get m F.SYS_CHIP_REV % 16 * 2 ^ 28 + 0x4E59 * 2 ^ 12 + Config.makerId % 2048 * 2 + 1

/-! ## Supply and temperature (R33, R34, R657, R661) -/

/-- The sum of the full-load figures of a package, in mW (R33, R34): 4.6 W a mast, 3.1 W a sail, 0.4 W the package. -/
def Variant.fullLoad : Variant → Nat
  | .s2 => 4600 + 3100 + 400
  | .s4 => 2 * 4600 + 2 * 3100 + 400
  | .s8 => 2 * 4600 + 6 * 3100 + 400

/-- The maximum feed power of a package, in mW (R34). -/
def Variant.maxPower : Variant → Nat
  | .s2 => 8500
  | .s4 => 16500
  | .s8 => 29000

/-- The maximum feed power in reefed mode, in mW (R34, R617). -/
def reefedPower : Nat := 1500

/-- The most that one feed at `mv` millivolts carries for a power in mW, in mA (R657). -/
def feedCurrent (mw mv : Nat) : Rat := (mw * 1000 : Nat) / (mv : Rat)

/-- The junction above the centre of the lid at a package power in mW, in °C (R661): 0.06 °C/W. -/
def junctionRise (mw : Nat) : Rat := 6 * (mw : Rat) / 100000

end Sys2Proof.Machine
end

