-- ==== Sys2Proof/Machine/Boot.lean ====
section
/-! DEFINITION. Power-up, resets, the boot ROM, restoring from the NV store, and the first role (R465, R507, R602–R615, R643, R649–R653). -/

namespace Sys2Proof.Machine

/-! ## The package (R602, R603, R613) -/

/-- Whether the word at `addr` of a mast is kept by what has no power: fuse counts, reset causes, the failure count, and what of the
NV store's bookkeeping the flash itself shows. -/
def keepColdWord (addr : Nat) : Bool :=
  let p := addr / 4096
  let o := addr % 4096
  (p == 0x000 && o == 0x404) || (p == 0x002 && o == 0x424) || (p == 0x03D && o == 0x410) || (p == 0x040 && o == 0x410)
    || (p == 0x042 && decide (0x410 ≤ o ∧ o < 0x434))

/-- A mast without power: what its flash and fuses hold stays (R613). -/
def State.offMast (s : State) (m : Nat) : State :=
  let s1 := s.tearNv m
  let M := s1.mast m
  let K := { M.keys.kept with root := none, helper := none, ownerKey := none }
  let fresh := { Mast.resetAt s.now with nv := M.nv, keys := K, dutyRec := M.dutyRec, rollback := M.rollback, bootStep := 1 }
  (({ s1.setMast m fresh with regs := regsWithout m keepColdWord s1.regs }).dropDie m).clearCopies m

/-- A sail without power. -/
def State.offSail (s : State) (k : Nat) : State :=
  let s1 := s.resetSail k 0
  let s2 := ([0, 1].filter (fun m => s.fitted m)).foldl (fun t m => t.setConn (connId m k) Conn.reset) s1
  s2.put (sailDie k) F.SSYS_STATE_STATE 0

/-- Every die without power, and nothing in step (R602, R613). -/
def State.offPackage (s : State) : State :=
  let s1 := ([0, 1].filter (fun m => s.fitted m)).foldl (fun t m => t.offMast m) s
  { (s1.sailList.foldl (fun t k => t.offSail k) s1).setConn 6 Conn.reset with shadow := none, reefed := false, tap := [] }

/-- The lock entries of sail `k` as its OTP votes them (R233): an entry in `fails` has no majority. -/
def State.loadLocks (s : State) (k fails : Nat) : State :=
  let d := sailDie k
  let x := s.sail k
  let s1 := (List.range 16).foldl (fun t e =>
    let w := Tbl.get (fun _ => 0) x.otp e
    (List.range 4).foldl (fun u i => u.put d ((F.REGLOCK_ENTRY_WORD.at 16 e).at 4 i) (w / 2 ^ (32 * i))) t) s
  let s2 := s1.put d F.REGLOCK_STATUS_VOTE_FAIL fails
  if fails % 65536 = 0 then s2.copyFuses k else (s2.copyFuses k).irq d 0x004 0

/-- SYS.CHIP of mast `m`, from OTP (R565). -/
def State.chipWords (s : State) (m : Nat) : State :=
  let n := match s.variant with
    | .s2 => 2
    | .s4 => 4
    | .s8 => 8
  let dies := (List.range 8).foldl (fun a d => if s.fitted d then a + 2 ^ d else a) 0
  ((s.put m F.SYS_CHIP_VARIANT n).put m F.SYS_CHIP_REV Config.chipRev).put m F.SYS_CHIP_DIES dies

/-- Steps 2 to 4 of R603 on mast `m`: its OTP is read, its references are seen, and it waits for its boot ROM from step `step` on. -/
def State.powerMast (s : State) (m step : Nat) : State :=
  let t := ((s.setMast m { s.mast m with booting := true, bootStep := step }).chipWords m).tamperShow m
  if t.refValid then (t.put m F.TIME_LOCAL_STATUS_REF_A_OK 1).put m F.TIME_LOCAL_STATUS_PLL_LOCK 1 else t

/-- Steps 2 to 4 of R603 after a reset of the package for cause `cause`: OTP is read and voted (`fails k`: the lock entries of sail `k`
without a majority), and each mast waits for its boot ROM. -/
def State.startPackage (s : State) (cause : Nat) (fails : List Nat) : State :=
  let s1 := ([0, 1].filter (fun m => s.fitted m)).foldl (fun t m => (t.powerMast m 2).setBit m F.SYS_RESET_CAUSE_CAUSE.addr cause) s
  let s2 := s1.sailList.foldl (fun t k => t.loadLocks k (fails.getD k 0)) s1
  { s2 with phase := if s.refValid then 2 else 1, browned := false }

/-- FEEDS_GOOD (R602, R603, R643): a feed has stayed at or above 2.95 V for 1 ms; `test`: TEST_EN is high, and no mast boots. -/
def execFeedsGood (test : Bool) (fails : List Nat) (s : State) : Host.Outcome State Fault Refusal :=
  .next (
    if s.phase ≠ 0 then s
    else
      let s1 := { s with testEn := test }
      s1.offPackage.startPackage (if s.browned then 1 else 0) fails)

/-- REFERENCE_VALID (R649): reference `ref` has been valid for 1 ms, and start-up goes past step 2. -/
def execReferenceValid (ref : Nat) (s : State) : Host.Outcome State Fault Refusal :=
  .next (
    if s.phase = 0 then { s with refValid := true }
    else
      let s1 := ([0, 1].filter (fun m => s.fitted m)).foldl (fun t m =>
        (t.put m (if ref = 0 then F.TIME_LOCAL_STATUS_REF_A_OK else F.TIME_LOCAL_STATUS_REF_B_OK) 1).put m F.TIME_LOCAL_STATUS_PLL_LOCK 1) s
      { s1 with refValid := true, phase := 2 })

/-- BROWN_OUT (R602): both feeds are below 2.80 V, and the package is held in reset; a write under way is torn. -/
def execBrownOut (s : State) : Host.Outcome State Fault Refusal :=
  .next { s.offPackage with phase := 0, browned := true }

/-- RESET_N (R613, R651): low for at least 1 µs, it resets the package. -/
def execResetN (fails : List Nat) (s : State) : Host.Outcome State Fault Refusal :=
  .next (if s.phase = 0 then s else s.offPackage.startPackage 2 fails)

/-! ## The boot ROM (R606–R609) -/

/-- Whether the header copy at `base` is valid. -/
def Nv.headerOk (N : Nv) (base : Nat) : Bool :=
  leNat (N.bytes base 4) == 0x53594C4E && crc32 (N.bytes base 60) == leNat (N.bytes (base + 60) 4)

/-- The helper data of the header copy at `base` (R413, R607). -/
def Nv.helperAt (N : Nv) (base : Nat) : Helper :=
  let a := base + 0x1000
  ⟨leNat (N.bytes a 4), leNat (N.bytes (a + 4) 8), leNat (N.bytes (a + 12) 4080), leNat (N.bytes (a + 4092) 4)⟩

/-- Whether helper data passes its CRC. -/
def Nv.helperOk (N : Nv) (base : Nat) : Bool := crc32 (N.bytes (base + 0x1000) 4092) == leNat (N.bytes (base + 0x1000 + 4092) 4)

/-- Whether image slot `k` of mast `m` boots (R606 step 4): its manifest passes checks 1–4 of R501 and its image the hash. -/
def State.bootable (s : State) (m k : Nat) : Bool :=
  let N := (s.mast m).nv
  let man := Tbl.get (fun _ => []) N.manifests k
  man != [] && s.checkManifest m man == 0 && leNat (sha256 (N.bytes (slotBase k) (manLen man))) == manHash man

/-- What the boot ROM makes of the update record (R507), with its pending fuses applied: the slot to boot, and the record. -/
def State.bootChoice (s : State) (m : Nat) (u : UpdRec) : Nat × UpdRec :=
  let back (last : Nat) (v : UpdRec) : Nat × UpdRec := (u.setSlot, { v with mode := 0, last := last })
  if u.mode = 1 then
    let v := { u with boots := u.boots + 1 }
    if 2 < v.boots then back 3 v
    else if v.trialTime ≤ v.elapsed then back 2 v
    else if s.bootable m (1 - u.setSlot) = false then back 4 v
    else (1 - u.setSlot, v)
  else (u.setSlot, u)

/-- The slot that boots and the record (R606): a set slot that fails gives way to a bootable furled slot. -/
def State.bootSlot (s : State) (m : Nat) (u : UpdRec) : Option Nat × UpdRec :=
  let c := s.bootChoice m u
  if c.1 ≠ c.2.setSlot then (some c.1, c.2)
  else if s.bootable m c.2.setSlot then (some c.2.setSlot, c.2)
  else if s.bootable m (1 - c.2.setSlot) then (some (1 - c.2.setSlot), { c.2 with setSlot := 1 - c.2.setSlot, last := 4 })
  else (none, c.2)

/-- Recovery (R609): FLASH.BOOT shows why, and the mast goes no further. -/
def State.recovery (s : State) (m result : Nat) : State := (s.put m F.FLASH_BOOT_RESULT result).put m F.FLASH_BOOT_RECOVERY 1

/-! ## NV restore (R612) -/

/-- Stores without a valid bank, and banks found torn (R612, R622). -/
def State.nvShow (s : State) (m : Nat) : State :=
  let M := s.mast m
  let N := M.nv
  let empty := (if N.cfg = none then 1 else 0) + (if M.keys.banks = [] then 2 else 0) + (if N.camp = none then 4 else 0)
    + (if N.ckpt = none then 8 else 0)
  let s0 := (List.range 4).foldl (fun t k => t.put m (nvf F.NVSTORE_BANK_TORN k) 0) s
  let s1 := N.torn.foldl (fun t k => ((t.put m (nvf F.NVSTORE_BANK_TORN k) 1).bump m F.NVSTORE_TORN).irq m 0x042 1) s0
  let s2 := s1.put m F.NVSTORE_STATUS_EMPTY empty
  if empty = 0 then s2 else s2.irq m 0x042 2

/-- The reservation ring at start (R265, R612 step 3, R625): FC_BASE is the newest P, and the next reservation is written, in a sector
erased first when it has not been since its last use. -/
def State.ringRestore (s : State) (m : Nat) : State :=
  let N := (s.mast m).nv
  let p := N.ringP.getD 0
  let n := s.ringNext m
  let s1 := if n % 256 = 0 then s.setNv m { N with ringUsed := N.ringUsed.erase (n / 256) } else s
  let M := (s1.mast m).mac
  if 2 ^ 32 ≤ p then s1.setMac m { M with fcBase := p, fcReserve := p }
  else
    let q := min (p + 65536) (2 ^ 32)
    ((s1.nvRequest m 0).setMac m { M with fcBase := p, fcReserve := p, fcPending := some q }).output m 49 (0xFC :: leBytes 8 q)

/-- One record of the checkpoint comes back (R627). -/
def State.ckptEntry (s : State) (m : Nat) (e : CkptEntry) : State :=
  let r := e.record
  let r1 := { NodeRec.zero with ident := r.ident, link := { r.link with syncValid := false, miss := 0, retry := 0 }, routing := r.routing,
                                key := r.key }
  let s1 := (s.setMast m ((s.mast m).setNode e.node r1)).bump m F.NVSTORE_RESTORED
  let T := (s1.mast m).nt
  let s2 := if r.ident.shortValid then s1.setNt m { T with short := Tbl.set (fun _ => none) T.short r.ident.short (some e.node) } else s1
  (s2.insert m ⟨r.ident.eui, e.node, r.ident.port, e.static⟩).2

/-- The node records of the newest checkpoint come back (R627). -/
def State.ckptRestore (s : State) (m : Nat) : State :=
  match (s.mast m).nv.ckpt with
  | none => s
  | some c => c.entries.foldl (fun t e => t.ckptEntry m e) (s.put64 m F.NODETAB_SEED_CUR_SEED c.seed)

/-- A configuration that comes from a record takes effect on mast `m`: active and pending values. -/
def State.loadWords (s : State) (m : Nat) (l : Tbl (BitVec 32)) : State :=
  l.foldl (fun t (e : Nat × BitVec 32) =>
    let t1 := t.setWord (key m e.1) e.2
    match rowOf m (e.1 / 4096) (e.1 % 4096) with
    | some (r, _) => if r.rwb = 0 then t1 else t1.setWord (key m (e.1 + 0x800)) e.2
    | none => t1) s

/-- States of a node that its wave still works on (R529). -/
def waveState (n : Nat) : Bool := n == 1 || n == 2 || n == 3 || n == 9 || n == 10

/-- The campaign comes back (R530): nodes in RECEIVING or STRAGGLER are OFFERED, trials keep their remaining time, and a running wave
continues from its OFFER phase. -/
def State.campRestore (s : State) (m : Nat) : State :=
  match (s.mast m).nv.camp with
  | none => s
  | some r =>
    let s1 := ((s.loadWords m r.cfg).put m F.CAMPAIGN_STATUS_WAVE r.wave).put m F.CAMPAIGN_STATUS_ROUND r.round
    let id := s1.campId m
    let members := (r.nodes.filter (fun w => waveState w.nstate)).map (fun w => w.node)
    let wave := members.zip (List.range members.length)
    let one (t : State) (w : CampWord) : State :=
      let st := if w.nstate = 2 ∨ w.nstate = 3 then 1 else w.nstate
      let slot := ((wave.find? (fun e => e.1 == w.node)).map Prod.snd).getD 0
      t.setCampOf m w.node { campId := id, nstate := st, reason := w.reason, missing := 0, tries := w.tries, wslot := slot,
                             deadline := if st = 6 then ((s.mast m).asn + w.left) % 2 ^ 40 else 0, lastReport := 0, batt := 0 }
    let s2 := r.nodes.foldl one s1
    let ran := decide (3 ≤ r.phase ∧ r.phase ≤ 5) || (r.phase == 7 && wave != [])
    let s3 := s2.setCamp m { (s2.mast m).camp with bits := r.bits, wave := wave, running := ran, startAsn := (s.mast m).asn, resume := 3 }
    let s4 := s3.put m F.CAMPAIGN_STATUS_PHASE (if ran ∧ r.phase ≠ 7 then 3 else r.phase)
    if ran then wave.foldl (fun t e => if (t.campOf m e.1).nstate = 1 then t.offer m e.1 else t) s4 else s4

/-- The duty history comes back (R231): the recorded minutes as those just before the restart, and in the minute of the restart what the
carriers could have used since the record, up to the entry's bound. -/
def State.dutyRestore (s : State) (m : Nat) : State :=
  match (s.mast m).dutyRec with
  | none => s
  | some l =>
    let now := s.dutyMinute m
    let put (T : Tbl Nat) (i us : Nat) : Tbl Nat := Tbl.set (fun _ => 0) T i (Tbl.get (fun _ => 0) T i + us)
    let one (T : Tbl Nat) (e : Nat × Nat) : Tbl Nat :=
      let i := e.1 / 2 ^ 40
      let age := e.1 % 2 ^ 40
      if age = 2 ^ 39 then
        match (s.lockEntry (sailDie (i / 16)) (i % 16)) with
        | some x => put T (i * 2 ^ 40 + now) (min (600000000 * e.2) x.bound)
        | none => T
      else put T (i * 2 ^ 40 + (now - 1 - age)) e.2
    s.setMast m { s.mast m with dutyCopy := l.foldl one [] }

/-! ## The first role (R465, R615) -/

/-- Mast `m` starts as the only mast in service: it takes the active role with an EPOCH and resets every fitted sail (R615). -/
def State.soleRole (s : State) (m epoch state cause : Nat) : State :=
  let s1 := ((s.put m F.PAIR_ROLE_ACTIVE 1).put m F.PAIR_ROLE_EPOCH epoch).put m F.PAIR_STATE_STATE state
  s1.resetSails m cause

/-- The role in which mast `m` starts (R465, R613, R615); `cold`: with the package. -/
def State.startRole (s : State) (m : Nat) (cold : Bool) : State :=
  let P := (s.mast m).pair
  let o := 1 - m
  let otherOn := s.bit o F.PAIR_ROLE_ACTIVE && !(s.mast o).booting
  if s.redundant = false then s.soleRole m 1 0 (if cold then 0 else 1)
  else if cold then
    if m = 0 ∧ P.peerActive = false ∧ otherOn = false then s.soleRole m 1 4 0 else s.put m F.PAIR_STATE_STATE 4
  else if otherOn then s.put m F.PAIR_STATE_STATE (if s.pairState o = 2 then 2 else 4)
  else if s.pairState o = 1 ∨ s.pairState o = 3 then s.put m F.PAIR_STATE_STATE 4
  else s.soleRole m (max (s.get m F.PAIR_ROLE_EPOCH) P.peerEpoch + 1) 4 1

/-- The connections of mast `m` that have not trained begin to (step 8 of R603). -/
def State.trainNew (s : State) (m : Nat) : State :=
  let go (t : State) (c : Nat) : State := if (t.conn c).state = 0 then t.setConn c { Conn.reset with state := 1 } else t
  let s1 := s.sailList.foldl (fun t k => go t (connId m k)) s
  if s.redundant then go s1 6 else s1

/-- NV restore, the start of the cores and of the role (steps 6 to 8 of R603, R612). -/
def State.bootRest (s : State) (m : Nat) (cold : Bool) : State :=
  let s1 := (s.nvShow m).ringRestore m
  let s2 := if (s1.mast m).keys.root.isSome then s1.rebuildKeys m else s1
  let s3 := (s2.setKeys m { (s2.mast m).keys with ownerKey := (s2.mast m).keys.ownerOtp }).drbgSeed m
  let s4 := (((s3.ckptRestore m).campRestore m).dutyRestore m).startRole m cold
  let s5 := s4.trainNew m
  s5.setMast m { s5.mast m with booting := false, bootStep := 9 }

/-- Step 5 of R603 on mast `m`, and what follows it. -/
def State.bootRom (s : State) (m : Nat) : State :=
  let M := s.mast m
  let N := M.nv
  let cold := decide (M.bootStep = 2)
  let a := N.headerOk 0
  if a = false ∧ N.headerOk 0x8000 = false then (s.put m F.FLASH_BOOT_HDR_COPY 0).recovery m 1
  else
    let base := if a then 0 else 0x8000
    let other := 0x8000 - base
    let useOther := !(N.helperOk base) && N.helperOk other
    let b (i : Nat) : Nat := N.byte (base + i)
    let s1 := (((s.put m F.FLASH_INFO_CLK (b 9)).put m F.FLASH_INFO_IO_MODE (b 8)).put m F.FLASH_INFO_SIZE_MIB (leNat (N.bytes (base + 12) 2))).put
      m F.FLASH_JEDEC_ID_ID Config.jedecId
    let s2 := (s1.put m F.FLASH_BOOT_HDR_COPY (if a then 0 else 1)).put m F.FLASH_BOOT_RESULT (if useOther then 3 else 0)
    let s3 := s2.setKeys m { (s2.mast m).keys with helper := some (N.helperAt (if useOther then other else base)) }
    let u0 := (N.cfg.getD ⟨UpdRec.fresh, []⟩).upd
    let s4 := s3.setUpd m { (s3.mast m).upd with urec := u0, bits := u0.bitmap }
    let s5 := if u0.secPend.isSome ∨ u0.revPend ≠ 0 then s4.blowPending m else s4
    let u1 := s5.urec m
    let c := s5.bootSlot m u1
    let s6 := if c.2 = u1 ∧ u1 = u0 then s5 else s5.updCommit m c.2
    let s7 := if u1.mode = 1 ∧ c.2.mode = 0 then (s6.bump m F.UPDATE_REVERTS).irq m 0x040 2 else s6
    match c.1 with
    | none => s7.recovery m 2
    | some k =>
      let man := Tbl.get (fun _ => []) N.manifests k
      let base := slotBase k
      let len := manExec man
      let exec := (N.flash.filter (fun e => decide (base ≤ e.1 ∧ e.1 < base + len))).map (fun e => (e.1 - base, e.2.toNat))
      let s8 := ((s7.setMast m { s7.mast m with imgHash := manHash man, core := exec, execLen := len, entry := manNum man 24 4 }).put m F.FLASH_BOOT_SLOT k).put m F.FLASH_BOOT_RECOVERY 0
      let s9 := s8.bootRest m cold
      s9.put m F.UPDATE_STATUS_PHASE (if c.2.mode = 1 ∧ m = s9.active then 6 else c.2.phase)

/-- BOOT_ROM (R507, R606, R612): the boot ROM of mast `m` runs, and a mast that boots restores its state and starts. -/
def execBootRom (m : Nat) (s : State) : Host.Outcome State Fault Refusal :=
  .next (
    if s.fitted m = false ∨ 2 ≤ m ∨ s.phase ≠ 2 ∨ s.testEn ∨ (s.mast m).booting = false ∨ tapHolds (Tbl.get (fun _ => 0xFF) s.tap m) then s
    else s.bootRom m)

/-- MAST_B_ROLE_TIMEOUT (R465, R615): 500 ms after feeds good without a heartbeat from mast A, mast B takes the active role with EPOCH 2. -/
def execMastBRoleTimeout (s : State) : Host.Outcome State Fault Refusal :=
  .next (
    if s.redundant = false ∨ s.phase ≠ 2 ∨ (s.mast 1).bootStep ≠ 9 ∨ s.bit 1 F.PAIR_ROLE_ACTIVE ∨ s.bit 1 F.PAIR_STATE_PEER_PRESENT
        ∨ s.pairState 1 ≠ 4 then s
    else s.soleRole 1 2 5 0)

/-! ## Resets of one die (R565, R566, R613, R633) -/

/-- A write of SYS.RESET (R565, R613): PAIR_PEER needs an OWNER context. -/
def State.accSysReset (s : State) (m r width value : Nat) : State :=
  s.action m 0x000 0x044 r true width 4 (fun t =>
    if value / 256 % 256 ≠ 0xE7 then t
    else
      let peer := value / 2 % 2 = 1
      if peer ∧ t.privOf m (t.ctxOf m r) < 3 then t.deny m 0x000 0x044 r true
      else
        let t1 := if peer ∧ t.redundant then t.resetMast (1 - m) 6 else t
        if value % 2 = 1 then t1.resetMast m 4 else t1)

/-- SYS_RESET_SELF (R613). -/
def execSysResetSelf (m r width value : Nat) (s : State) : Host.Outcome State Fault Refusal :=
  .next (s.hostOn m r 0x000 0x044 width value .empty (fun m t => t.accSysReset m r width value))

/-- SYS_RESET_PAIR_PEER (R613). -/
def execSysResetPairPeer (m r width value : Nat) (s : State) : Host.Outcome State Fault Refusal :=
  .next (s.hostOn m r 0x000 0x044 width value .empty (fun m t => t.accSysReset m r width value))

/-- A write of SYS.WDT_KICK (R565): 0x5A5A restarts the timeout. -/
def State.accWdtKick (s : State) (m r width value : Nat) : State :=
  s.action m 0x000 0x04C r true width 4 (fun t =>
    if value % 65536 = 0x5A5A then t.setMast m { t.mast m with wdtAt := t.localNs m } else t)

/-- WDT_KICK (R565). -/
def execWdtKick (m r width value : Nat) (s : State) : Host.Outcome State Fault Refusal :=
  .next (s.hostOn m r 0x000 0x04C width value .empty (fun m t => t.accWdtKick m r width value))

/-- WDT_WARN (R566): half the watchdog timeout has passed. -/
def execWdtWarn (m : Nat) (s : State) : Host.Outcome State Fault Refusal :=
  .next (if s.fitted m = false ∨ 2 ≤ m ∨ s.bit m F.SYS_WDT_EN = false then s else s.irq m 0x000 1)

/-- WATCHDOG_EXPIRY (R475, R613): the expiry resets the mast, and the fault it is stays latched in SELF_FAULT. -/
def execWatchdogExpiry (m : Nat) (s : State) : Host.Outcome State Fault Refusal :=
  .next (if s.fitted m = false ∨ 2 ≤ m ∨ s.bit m F.SYS_WDT_EN = false then s else (s.resetMast m 3).selfFaults m 16)

/-- The calibrated quantities of a sail (R243). -/
def scalCount : Nat := 45

/-- The slot whose attribute word (R453) stands at `addr`. -/
def attrSlot (addr : Nat) : Option Nat :=
  if 0x120400 ≤ addr ∧ addr < 0x120800 then some ((addr - 0x120400) / 4)
  else if 0x121400 ≤ addr ∧ addr < 0x121800 then some (256 + (addr - 0x121400) / 4)
  else none

/-- The slot whose generations (R451) have the number `addr`: KEYS.SLOT_GEN shows them by SLOT_SEL, so that they have no address of their own, and
`0x1000000 + k` names those of slot `k`. -/
def genSlot (addr : Nat) : Option Nat := if 0x1000000 ≤ addr ∧ addr < 0x1000200 then some (addr - 0x1000000) else none

/-- The registers that are stored triplicated (R6): PAIR.ROLE and the key slots' attributes and generations of a mast, SCAL.FACT and the lock
entries of a sail. -/
def tmrWord (d addr : Nat) : Bool :=
  if d < 2 then addr == 0x004400 || (attrSlot addr).isSome || (genSlot addr).isSome
  else decide (0x003400 ≤ addr ∧ addr < 0x003400 + 4 * scalCount) || decide (0x004040 ≤ addr ∧ addr < 0x004140)

/-- A triplicated word as it last read. -/
def State.tmrRead (s : State) (d addr : Nat) : Word :=
  match (if d < 2 then attrSlot addr else none), (if d < 2 then genSlot addr else none) with
  | some k, _ => Word.ofNat ((s.mast d).keys.slot k).word
  | none, some k => Word.ofNat ((s.mast d).keys.slot k).gens
  | none, none => s.word (key d addr)

/-- A triplicated word takes a value. -/
def State.tmrWrite (s : State) (d addr : Nat) (w : Word) : State :=
  let K := (s.mast d).keys
  match (if d < 2 then attrSlot addr else none), (if d < 2 then genSlot addr else none) with
  | some k, _ => s.setKeys d (K.setSlot k ((K.slot k).withWord w.toNat))
  | none, some k => s.setKeys d (K.setSlot k ((K.slot k).withGens w.toNat))
  | none, none => s.setWord (key d addr) w

/-- The bitwise majority of three copies. -/
def vote3 (a b c : Word) : Word := (a &&& b) ||| (a &&& c) ||| (b &&& c)

/-- The scrubber reads the three copies of one word, `u` giving the bits in which each differs from what the word last read as: the word takes the
majority, and each copy that disagrees with it is rewritten and counted (R548).  A lock entry keeps the word rule of R233: without two
equal copies it stays. -/
def State.scrubWord (s : State) (d : Nat) (u : Upset) : State :=
  let w := s.tmrRead d u.addr
  let a := w ^^^ Word.ofNat u.a
  let b := w ^^^ Word.ofNat u.b
  let c := w ^^^ Word.ofNat u.c
  let whole := 2 ≤ d ∧ u.addr / 4096 = 4
  let v := if whole ∧ a ≠ b ∧ a ≠ c ∧ b ≠ c then w else vote3 a b c
  let n := (if a = v then 0 else 1) + (if b = v then 0 else 1) + (if c = v then 0 else 1)
  if tmrWord d u.addr then (s.tmrWrite d u.addr v).count d (if d < 2 then F.SYS_TMR_FIX else F.SSYS_TMR_FIX_COUNT) n else s

/-- TMR_SCRUB (R548): the scrubber of die `d` reads every triplicated field; `us` are the words whose copies have changed since its last pass. -/
def execTmrScrub (d : Nat) (us : List Upset) (s : State) : Host.Outcome State Fault Refusal :=
  .next (if s.fitted d = false then s else us.foldl (fun t u => t.scrubWord d u) s)

/-- A write of SSYS.RESET (R485, R633): the sail restarts at step 7, and its master reloads the configuration of its copies. -/
def State.accSsysReset (s : State) (k r width value : Nat) : State :=
  s.sailAction k 0x000 0x040 r width (fun t =>
    if value / 256 % 256 = 0xE7 ∧ value % 2 = 1 then t.resetSail k 1 else t)

/-- SSYS_RESET (R633). -/
def execSsysReset (k r width value : Nat) (s : State) : Host.Outcome State Fault Refusal := .next (s.accSsysReset k r width value)

/-- TAP_INSTRUCTION (R653, R654): an instruction of mast `m`'s test access port takes effect; IDCODE is shifted out; CLAMP, HIGHZ and EXTEST hold every die of the
chain in reset, mast A's chain with the sails. -/
def execTapInstruction (m op : Nat) (s : State) : Host.Outcome State Fault Refusal :=
  .next (
    if s.fitted m = false ∨ 2 ≤ m then s
    else
      let s1 := { s with tap := Tbl.set (fun _ => 0xFF) s.tap m (op % 256) }
      if op % 256 = 2 then s1.emit (.scan m (s.idcode m))
      else if tapHolds (op % 256) = false then s1
      else
        let s2 := s1.offMast m
        if m = 0 then s2.sailList.foldl (fun t k => t.offSail k) s2 else s2)

/-! ## Reefed mode (R616–R619) -/

/-- Whether reefed mode is requested of the active mast (R616). -/
def State.reefWanted (s : State) : Bool := s.lowpwr || s.bit s.active F.SYS_MODE_REEFED

/-- LOWPWR_REQUEST (R616): LOWPWR has been high for 1 ms, or the request has ended. -/
def execLowpwrRequest (on : Bool) (s : State) : Host.Outcome State Fault Refusal := .next { s with lowpwr := on }

/-- The jury is powered down (R617). -/
def State.reefJury (s : State) (a : Nat) : State :=
  if s.redundant = false then s
  else
    let j := 1 - a
    let s1 := if s.pairState a = 2 then s.peerLost a else s
    let s2 := ((s1.offMast j).put j F.PAIR_STATE_STATE 4).put a F.PAIR_STATE_STATE 4
    (s2.sailList.foldl (fun t k => t.setConn (connId j k) Conn.reset) s2).setConn 6 Conn.reset

/-- Sail 0 at the entry tick (R112, R618): one window, one carrier, 64 lanes. -/
def State.reefSail0 (s : State) : State :=
  let d := sailDie 0
  let s1 := (s.setSail 0 { s.sail 0 with reefed := true }).put d F.SSYS_STATE_STATE 3
  let w := s1.winWord 0 0
  let s2 := if w.testBit 31 ∧ reefedSpan (centreOf w) = false then (s1.put d F.WIN_CFG_ERR_REEFED_RANGE 1).irq d 0x009 0 else s1
  (s2.dropWaits 0 (fun q => s2.winOn 0 q.win = false)).releaseAll 0 10 (fun l _ => decide (64 ≤ l)) (fun _ t => t)

/-- Sail `k`, from 1 on, at the entry tick (R106, R617): clock-gated, its timers stopped until TIMER_WAKE (R404), its lanes above 63 released. -/
def State.gateSail (s : State) (k : Nat) : State :=
  let s1 := (s.timersSync (sailDie k)).dropWaits k (fun _ => true)
  let s2 := s1.releaseAll k 10 (fun l _ => decide (64 ≤ l)) (fun _ t => t)
  (s2.setSail k { s2.sail k with gated := true, asleep := true }).put (sailDie k) F.SSYS_STATE_STATE 4

/-- What sail `k` does at the entry or the exit tick of reefed mode (action 6 of R41). -/
def State.sailReef (s : State) (k : Nat) (entry : Bool) : State :=
  let s1 := s.setSail k { s.sail k with reefDue := none }
  if entry then (if k = 0 then s1.reefSail0 else s1.gateSail k)
  else (s1.setSail k { s1.sail k with reefed := false }).put (sailDie k) F.SSYS_STATE_STATE 2

/-- Sail `k` takes part in the entry or exit of the slot that its master opens: now when its own tick of that slot is past, else at that tick
(R41). -/
def State.reefOwn (s : State) (a k : Nat) (entry : Bool) : State :=
  if (s.sail k).ticked ∧ (s.sail k).asn = (s.mast a).asn then s.sailReef k entry
  else s.setSail k { s.sail k with reefDue := some entry }

/-- Action 6 of R41 on a sail, when one is due. -/
def State.sailReefTick (s : State) (k : Nat) : State :=
  match (s.sail k).reefDue with
  | some e => s.sailReef k e
  | none => s

/-- The entry tick of reefed mode (R617, R618). -/
def State.reefEnter (s : State) : State :=
  let a := s.active
  let s1 := s.sailList.foldl (fun t k => t.reefOwn a k true) (s.reefJury a)
  let s3 : State := { ((s1.pcieDown a).bump a F.PCIE_LINK_DOWN).put a F.PCIE_LINK_UP 0 with reefed := true }
  let s4 := ((List.range 16).filter (fun c => decide (2 ≤ c) && (s3.mast a).hal.blocked.contains c)).foldl (fun t c => t.gateCore a c) s3
  if (s4.mast a).camp.running ∧ s4.campPhase a ≠ 7 then s4.campPause a else s4

/-- The exit tick (R618, R619): sail 0 and the cores resume, the gated sails run steps 7 to 9, and the jury restarts OUT_OF_STEP. -/
def State.reefExit (s : State) : State :=
  let a := s.active
  let s0 : State := { s with reefed := false }
  let s2 := s0.sailList.foldl (fun t k =>
    if (t.sail k).gated then t.put (sailDie k) F.SSYS_STATE_STATE 1
    else if (t.sail k).reefed then t.reefOwn a k false
    else t.setSail k { t.sail k with reefDue := none }) s0
  let s3 := (List.range 16).foldl (fun t c => if 2 ≤ c ∧ (t.mast a).hal.blocked.contains c then t.applyRole a c (t.roleReg a c) else t) s2
  let s4 := if s.redundant then s3.powerMast (1 - a) 5 else s3
  if (s4.mast a).camp.running ∧ s4.campPhase a = 7 then s4.campResume a else s4

/-- The action of a tick for reefed mode (action 6 of R41, R616). -/
def State.reefTick (s : State) (m : Nat) : State :=
  if m ≠ s.active then s
  else if s.reefWanted ∧ s.reefed = false then s.reefEnter
  else if s.reefWanted = false ∧ s.reefed then s.reefExit
  else s

/-- REEFED_SAIL_RESUME (R619): sail `k`, gated in reefed mode, has completed steps 7 to 9; it runs from the next tick. -/
def execReefedSailResume (k : Nat) (s : State) : Host.Outcome State Fault Refusal :=
  .next (
    if s.hasSail k = false ∨ s.reefed ∨ (s.sail k).gated = false then s
    else
      (s.setSail k { s.sail k with gated := false, clockLost := true, relocked := true }).put (sailDie k) F.SSYS_STATE_STATE 2)

end Sys2Proof.Machine
end

