-- ==== Sys2Proof/Machine/Views.lean ====
section
/-! DEFINITION. What a register reads (R539–R543, R553): the words that show running state, in the live region and where an active or
pending copy lies behind a selector, and every other word as stored. -/

namespace Sys2Proof.Machine

/-- A value at bit `lo`. -/
def at' (lo v : Nat) : Nat := v * 2 ^ lo
/-- A bit at `lo`. -/
def bit' (lo : Nat) (b : Bool) : Nat := if b then 2 ^ lo else 0
/-- Word `i` of a number. -/
def wordOf (v i : Nat) : Nat := v / 2 ^ (32 * i) % 2 ^ 32
/-- The bits `i` below `n` at which `p` holds. -/
def bitsWhere (n : Nat) (p : Nat → Bool) : Nat := (List.range n).foldl (fun a i => a + bit' i (p i)) 0

/-! ## Commits under way (R554–R561) -/

/-- Whether die `d` belongs to an armed tick commit of group `g` (R559): from the GO until the landing on that die. -/
def State.armedGroup (s : State) (d g : Nat) : Bool :=
  (s.mast (if d < 2 then d else s.active)).runs.any (fun r => r.tick && r.snap == none && r.mask.testBit g && !(r.landed.contains d))

/-- The commit group of a page (R541): its COMMIT_GROUP. -/
def State.groupOf (s : State) (d page : Nat) : Nat := s.get d (F.HDR_COMMIT_GROUP_GROUP.page page)

/-- Whether a page's group is in an armed tick commit (R559). -/
def State.pageArmed (s : State) (d page : Nat) : Bool := s.armedGroup d (s.groupOf d page)

/-- COMMIT.STATUS (R567). -/
def State.commitStatus (s : State) (m : Nat) : Nat :=
  let rs := (s.mast m).runs.filter (fun r => r.tick && !(r.landed.contains m))
  let c := rs.filter (fun r => r.snap == none)
  bit' 31 (c != []) + bit' 30 (rs.any (fun r => r.snap != none)) + (c.foldl (fun a r => a ||| r.mask) 0) % 2 ^ 16

/-! ## Sail registers -/

/-- The driven level of FE_CTL line `i` (R72, R93, R95). -/
def State.feLine (s : State) (k i : Nat) : Bool :=
  let d := sailDie k
  let x := s.sail k
  let bypass (aer : Nat) : Bool := s.bit d (F.FECTL_GAIN_TAB_BYPASS.at 8 (s.get d (gainState aer)))
  let f : Bool := match s.get d (F.FECTL_LINE_CFG_FUNC.at 4 i) with
    | 1 => true
    | 2 => s.paEn k
    | 3 => bypass 0
    | 4 => bypass 1
    | 5 => x.blankFrom != none
    | 6 => x.obs != none
    | _ => false
  s.bit d (F.FECTL_LINE_CFG_DRIVE_EN.at 4 i) && (f != s.bit d (F.FECTL_LINE_CFG_INVERT.at 4 i))

/-- A word of a sail that shows running state; none for a stored word. -/
def State.sailView (s : State) (k page off : Nat) : Option Nat :=
  let d := sailDie k
  let x := s.sail k
  let stored := (s.word (key d (page * 4096 + off))).toNat
  let i := (off - 0x400) / 4
  if 0x100 ≤ page ∧ page < 0x108 then
    if off < 0x400 ∨ 0x800 ≤ off then none
    else
      let y := s.lane k (64 * (page - 0x100) + (off - 0x400) / 16)
      some (match i % 4 with
        | 0 => at' 28 y.state + at' 24 y.lastRsn + at' 22 y.win + at' 15 y.bin + at' 13 y.hyp + at' 12 y.aerial + at' 8 (y.pers % 16)
                + bit' 7 y.forked
        | 1 => y.attachT % 2 ^ 32
        | 2 => at' 16 (unsigned 16 (roundRat y.cfo)) + y.metric % 256
        | _ => y.delivered)
  else match page, off with
    | 0x000, 0x408 => some (bitsWhere 32 (fun p => s.pagePending d p))
    | 0x000, 0x40C => some (bitsWhere 32 (fun p => s.pagePending d (32 + p)))
    | 0x002, 0x400 => some (bitsWhere 8 (s.feLine k))
    | 0x009, 0x400 => some (stored % 16 + at' 4 (bitsWhere 4 (fun w => s.winOn k w && !s.blanked k w && !(x.settling.contains w) && !x.clockLost)))
    | 0x00B, 0x400 => some (at' 20 x.waits.length + at' 10 (s.laneShared k).toNat + x.freeLanes.length)
    | 0x010, 0x400 => some x.adv.length
    | 0x120, 0x400 =>
      let p := s.get d F.PROF_SEL_INDEX
      some (at' 16 (profBits (s.profilePend d p)) + profBits (s.profile d p))
    | 0x018, 0x400 =>
      some (stored / 256 * 256 + at' 4 (bitsWhere 4 (fun c => x.tx.any (fun f => f.phase == 2 && f.carrier == c)))
        + bitsWhere 4 (fun c => x.onAir.any (fun f => f.carrier == c)))
    | 0x020, 0x400 => some (wordOf (s.sailLocal k) 0)
    | 0x020, 0x404 => some (wordOf (s.sailLocal k) 1)
    | 0x020, 0x408 => some (wordOf x.tickNow 0)
    | 0x020, 0x40C => some (wordOf x.tickNow 1)
    | 0x020, 0x410 => some (x.asn % 2 ^ 32)
    | _, _ =>
      if page = 0x00B ∧ 0x410 ≤ off ∧ off < 0x420 then some (stored / 2 ^ 16 * 2 ^ 16 + x.inUse (i - 4))
      else if page = 0x120 ∧ 0x044 ≤ off ∧ off < 0x058 then some (wordOf (s.profile d (s.get d F.PROF_SEL_INDEX)) ((off - 0x044) / 4))
      else if page = 0x120 ∧ 0x844 ≤ off ∧ off < 0x858 then some (wordOf (s.profilePend d (s.get d F.PROF_SEL_INDEX)) ((off - 0x844) / 4))
      else if page = 0x004 ∧ 0x410 ≤ off ∧ off < 0x450 then some (s.dutyUsed k (i - 4) % 2 ^ 32)
      else if page = 0x003 ∧ 0x500 ≤ off ∧ off < 0x500 + 4 * 64 then
        (match rowOf d page off with
          | some _ => some (unsigned 16 (s.eff d ((off - 0x500) / 4)))
          | none => none)
      else if page = 0x021 ∧ 0x400 ≤ off ∧ off < 0x480 ∧ off % 16 = 0 then some (s.timerCount d ((off - 0x400) / 16))
      else none

/-! ## Mast registers -/

/-- Bits of a channel entry (R249). -/
def Channel.bits (c : Channel) : Nat :=
  let sail (i : Nat) : Nat :=
    let (v, w, b, h) := c.sails.getD i (false, 0, 0, 0)
    bit' 11 v + at' 9 (w % 4) + at' 2 (b % 128) + h % 4
  bit' 127 c.valid + at' 123 (c.pers % 16) + at' 120 (c.dclass % 8)
    + (List.range 6).foldl (fun a i => a + at' (32 + 12 * i) (sail i)) 0 + c.freq % 2 ^ 32

/-- The channel entry that bits spell (R249). -/
def Channel.ofBits (v : Nat) : Channel :=
  { valid := v.testBit 127, pers := v / 2 ^ 123 % 16, dclass := v / 2 ^ 120 % 8, freq := v % 2 ^ 32,
    sails := (List.range 6).map (fun i =>
      let f := v / 2 ^ (32 + 12 * i)
      (f.testBit 11, f / 2 ^ 9 % 4, f / 4 % 128, f % 4)) }

/-- The pending copy of channel-list entry `i`. -/
def Mac.chanPending (M : Mac) (i : Nat) : Channel := (Tbl.find? M.chansPend i).getD (M.chan i)
/-- The active copy of map `i`. -/
def Mac.mapActive (M : Mac) (i : Nat) : ChanMap := Tbl.get (fun _ => ⟨0, []⟩) M.maps i
/-- The pending copy of map `i`. -/
def Mac.mapPending (M : Mac) (i : Nat) : ChanMap := (Tbl.find? M.mapsPend i).getD (M.mapActive i)
/-- Entry `p` of a map. -/
def ChanMap.entry (m : ChanMap) (p : Nat) : Nat := Tbl.get (fun _ => 0) m.entries p

/-- A MAC page word behind CHAN_SEL or MAP_SEL (R249, R251), active or pending. -/
def State.macView (s : State) (m off : Nat) : Option Nat :=
  let M := (s.mast m).mac
  let pend := decide (0x800 ≤ off)
  let o := if pend then off - 0x800 else off
  let mp (i : Nat) : ChanMap := if pend then M.mapPending i else M.mapActive i
  if 0x074 ≤ o ∧ o < 0x084 then
    let i := s.get m F.MAC_CHAN_SEL_INDEX
    some (wordOf (if pend then M.chanPending i else M.chan i).bits ((o - 0x074) / 4))
  else if o = 0x088 then some ((mp (s.get m F.MAC_MAP_SEL_MAP)).entry (s.get m F.MAC_MAP_SEL_POS))
  else if o = 0x08C then some (mp (s.get m F.MAC_MAP_SEL_MAP)).len
  else if pend then none
  else match off with
    | 0x400 => some (min (2 ^ 32 - 1) M.fcReserve)
    | 0x404 => some (min (2 ^ 32 - 1) M.fcBase)
    | 0x40C => some ((s.word (key m 0x02040C)).toNat % 64 + (List.range 6).foldl (fun a k => a + at' (8 + 2 * k) (Tbl.get (fun _ => 0) M.beaconRun k % 4)) 0)
    | 0x410 => some ((s.word (key m 0x020410)).toNat % 16 + (List.range 4).foldl (fun a p => a + at' (4 + 2 * p) (Tbl.get (fun _ => 0) M.peerRun p % 4)) 0)
    | _ => none

/-- A Saltern word (R333, R334), with its pending queue configuration. -/
def State.salView (s : State) (m off : Nat) : Option Nat :=
  let S := (s.mast m).sal
  let q := s.get m F.SALTERN_Q_SEL_QUEUE
  let x := S.queue q
  let cfg0 (mn cls pr : Nat) : Nat := bit' 31 (cls == 2) + at' 28 pr + mn
  match off with
  | 0x074 => some (cfg0 x.min x.cls x.aprio)
  | 0x078 => some x.max
  | 0x874 => some (match x.pendCfg with | some (c, a, mn, _) => cfg0 mn c a | none => cfg0 x.min x.cls x.aprio)
  | 0x878 => some (match x.pendCfg with | some (_, _, _, mx) => mx | none => x.max)
  | 0x400 => some S.brine
  | 0x408 => some S.brineLwm
  | 0x40C => some S.sharedFree.toNat
  | 0x410 => some x.cells
  | 0x414 => some (bit' 31 (x.heads == []) + bit' 30 x.underrun + bit' 29 x.broken + x.heads.length)
  | 0x418 => some (x.heads.headD 0)
  | 0x41C => some (match x.heads.getLast? with
    | some c => (S.item c).cells.getLastD 0
    | none => 0)
  | 0x420 => some x.depthHwm
  | 0x424 => some x.resHwm
  | 0x428 => some S.chainCells
  | 0x42C => some S.chainHwm
  | _ => none

/-- QARR.QLIVE of queue `q` (R336). -/
def State.qlive (s : State) (m q : Nat) : Nat :=
  let x := (s.mast m).sal.queue q
  bit' 31 (x.heads == []) + bit' 30 x.underrun + bit' 29 x.broken + bit' 28 (x.cells == x.max) + bit' 27 (decide (x.min < x.cells)) + x.cells

/-- A HALYARD page word (R355). -/
def State.halView (s : State) (m off : Nat) : Option Nat :=
  let H := (s.mast m).hal
  match off with
  | 0x400 => some (at' 16 (bitsWhere 16 (fun c => (Tbl.get (fun _ => none) H.service c).isSome)) + bitsWhere 16 (fun c => H.blocked.contains c))
  | 0x408 =>
    let os := H.orphans.filter (fun st => H.countAt st != 0)
    some (match os with
      | [] => 0
      | st :: rest => bit' 31 true + rest.foldl min st)
  | 0x40C =>
    let f := H.flow (s.get m F.HALYARD_FLOW_SEL_FLOW)
    some (bit' 31 f.busy + at' 24 (f.owner % 64) + bit' 23 f.affValid + at' 16 (f.affCore % 16) + s.flowPending m (s.get m F.HALYARD_FLOW_SEL_FLOW) % 2 ^ 14)
  | 0x4D0 => some H.entries.length
  | _ => none

/-- A NODETAB page word (R306). -/
def State.ntView (s : State) (m off : Nat) : Option Nat :=
  let T := (s.mast m).nt
  match off with
  | 0x400 => some ((s.word (key m 0x018400)).toNat &&& 0x0F000006 ||| (at' 8 T.pend.length + bit' 4 T.gen + bit' 0 T.rehash))
  | 0x40C => some T.count
  | 0x410 => some T.oldLeft
  | 0x414 => some T.bitternUse
  | 0x41C => some T.now
  | _ => none

/-- A DWELL page word (R276). -/
def State.dwellView (s : State) (m off : Nat) : Option Nat :=
  let t := s.dwellAge m
  let M := (t.mast m).mac
  match off with
  | 0x400 => some M.ledger.length
  | 0x404 =>
    let ch := s.get m F.DWELL_QUERY_SEL_CHANNEL
    let c := M.chan ch
    some (if c.valid then min (2 ^ 32 - 1) (M.used ch (bucketOf (s.nowPos m)) (s.dwellW m c.dclass)) else 0)
  | 0x40C => some (bitsWhere 8 (fun c => decide (4096 < s.dwellRaw m c)))
  | _ => none

/-- A rate in 1/16 ppb from one in 2^-16 ppb. -/
def ppb16 (v : Int) : Nat := sat32 (v / 4096)

/-- A TIME page word (R406). -/
def State.timeView (s : State) (m off : Nat) : Option Nat :=
  if off = 0x400 ∨ off = 0x404 then some (wordOf (s.localNs m) ((off - 0x400) / 4))
  else if 0x440 ≤ off ∧ off < 0x4A0 then
    let x := (off - 0x440) / 0x20 + 1
    match (off - 0x440) % 0x20 with
    | 0x00 => some (wordOf (s.domTime m x).1 0)
    | 0x04 => some (wordOf (s.domTime m x).1 1)
    | 0x10 => some (ppb16 (s.dom m x).freq)
    | 0x14 => some (ppb16 (s.dom m x).integ)
    | _ => none
  else none

/-- A TPO page word (R399, R408): NEXT_LO as a read of NEXT_HI latched it; DRIVEN on the active mast; LEVEL from the pulse that runs. -/
def State.tpoView (s : State) (m off : Nat) : Option Nat :=
  if 0x400 ≤ off ∧ off < 0x480 ∧ off % 16 = 8 then some (s.word (bankKey 31 m (0x031000 + off))).toNat
  else if 0x400 ≤ off ∧ off < 0x480 ∧ off % 16 = 12 then
    let o := (off - 0x400) / 16
    let pulse := (Tbl.find? (s.mast m).tpoEnd o).any (fun e => decide (s.localNs m < e))
    some ((s.word (key m (0x031000 + off))).toNat % 2 + bit' 2 (s.active == m) + bit' 1 (pulse != Tbl.get (fun _ => false) (s.mast m).tpoPol o))
  else none

/-- A KEYS page word (R451). -/
def State.keysView (s : State) (m off : Nat) : Option Nat :=
  let K := (s.mast m).keys
  match off with
  | 0x404 =>
    let x := K.slot (s.get m F.KEYS_SLOT_SEL_SLOT)
    some (at' 16 (x.parentGen % 2 ^ 16) + x.gen % 2 ^ 16)
  | 0x408 => some (K.slots.filter (fun (e : Nat × KeySlot) => e.2.valid)).length
  | _ => none

/-- A word of the RSA window (R456). -/
def State.rsaWindow (s : State) (m : Nat) : Nat :=
  let K := (s.mast m).keys
  let w := s.get m F.RSA_WIN_SEL_WORD
  if s.bit m F.RSA_WIN_SEL_AREA then Tbl.get (fun _ => 0) K.rsaOut w else Tbl.get (fun _ => 0) K.rsaIn w

/-- A SESSION page word for requester `r` (R449). -/
def State.sessionView (s : State) (m r off : Nat) : Option Nat :=
  match off with
  | 0x420 =>
    let x := s.session m (s.ctxOf m r)
    some ((s.word (bankKey r m F.SESSION_STATE_RESULT.addr)).toNat &&& 0x38000000 ||| (at' 30 (s.privOf m (s.ctxOf m r)) + (if x.isOpen then x.idle else 0)))
  | 0x424 =>
    let left := s.get m F.SESSION_DELAY_LEFT - (s.now - (s.mast m).keys.delayFrom) / 2000000000
    some (at' 16 (s.get m F.SESSION_DELAY_FAILS) + left)
  | 0x428 => some ((List.range 12).foldl (fun a c => a + at' (2 * c) (s.privOf m c)) 0)
  | _ => none

/-- The version of image slot `k`, 0 when it holds no image that could boot (R500). -/
def State.slotVersion (s : State) (m k : Nat) : Nat :=
  if s.bootable m k then manVersion (Tbl.get (fun _ => []) (s.mast m).nv.manifests k) else 0

/-- An UPDATE page word (R531). -/
def State.updView (s : State) (m off : Nat) : Option Nat :=
  let U := (s.mast m).upd
  let u := U.urec
  let stored := (s.word (key m (0x040000 + off))).toNat
  match off with
  | 0x400 => some (stored &&& 0xFF010000 ||| (at' 20 (u.last % 16) + bit' 15 (s.bootable m (1 - u.setSlot)) + at' 1 (u.mode % 2) + u.setSlot % 2))
  | 0x404 => some ((List.range (chunksOf (manLen u.manifest))).filter (fun i => !U.bits.testBit i)).length
  | 0x408 => some (wordOf U.bits (s.get m F.UPDATE_BMP_SEL_WORD))
  | 0x40C => some (if u.mode = 1 then u.trialTime - u.elapsed else 0)
  | 0x440 => some (wordOf (manVersion (Tbl.get (fun _ => []) (s.mast m).nv.manifests u.setSlot)) 0)
  | 0x444 => some (wordOf (manVersion (Tbl.get (fun _ => []) (s.mast m).nv.manifests u.setSlot)) 1)
  | 0x448 => some (wordOf (s.slotVersion m (1 - u.setSlot)) 0)
  | 0x44C => some (wordOf (s.slotVersion m (1 - u.setSlot)) 1)
  | _ => if 0x420 ≤ off ∧ off < 0x440 then some (wordOf (manHash u.manifest) ((off - 0x420) / 4)) else none

/-- A CAMPAIGN page word (R534). -/
def State.campView (s : State) (m off : Nat) : Option Nat :=
  let C := (s.mast m).camp
  match off with
  | 0x404 => some C.wave.length
  | 0x40C => some 0x43800000
  | 0x410 => some ((List.range ((s.imgLen m + 1023) / 1024)).filter (fun i => !C.bits.testBit i)).length
  | _ =>
    if 0x420 ≤ off ∧ off < 0x454 then
      let n := (off - 0x420) / 4
      some ((s.mast m).nodes.filter (fun (e : Nat × NodeRec) => e.2.ident.used && s.groupIn m e.1 F.CAMPAIGN_TARGET_GROUPS
        && (if s.inCamp m e.1 then e.2.camp.nstate else 0) == n)).length
    else none

/-- An NVSTORE page word (R629). -/
def State.nvView (s : State) (m off : Nat) : Option Nat :=
  let N := (s.mast m).nv
  match off with
  | 0x400 => some ((s.word (key m 0x042400)).toNat % 2 ^ 31 + bit' 31 (N.cfgJobs != [] || N.campJobs != [] || N.ckptJob != none
      || (s.mast m).keys.persisting != none || (s.mast m).mac.fcPending != none))
  | 0x434 => some (match N.ckptEnd with | some t => min 65535 ((s.localNs m - t) / 60000000000) | none => 65535)
  | _ => none

/-- A PCIE page word behind RING_SEL (R599), active or pending. -/
def State.pcieView (s : State) (m off : Nat) : Option Nat :=
  let x := s.ring m (s.get m F.PCIE_RING_SEL_RING)
  let pend := decide (0x800 ≤ off ∧ off < 0xC00)
  let c := if pend then x.pend.getD x.cfg else x.cfg
  match if pend then off - 0x800 else off with
  | 0x048 => some (wordOf c.base 0)
  | 0x04C => some (wordOf c.base 1)
  | 0x050 => some (bit' 31 c.en + bit' 30 c.dir + at' 16 (c.sizeLog2 % 16) + at' 12 (c.cls % 8) + at' 6 (c.vec % 64))
  | 0x054 => some (at' 16 (c.coalUs % 2 ^ 16) + c.coalCnt % 2 ^ 16)
  | 0x408 => some (bit' 31 x.err)
  | 0x40C => some x.head
  | 0x410 => some x.tail
  | _ => none

/-- A word of a mast that shows running state, for requester `r`; none for a stored word. -/
def State.mastView (s : State) (m r page off : Nat) : Option Nat :=
  if 0x100 ≤ page ∧ page < 0x110 then
    if 0x400 ≤ off ∧ off < 0x800 then some (s.qlive m (256 * (page - 0x100) + (off - 0x400) / 4)) else none
  else if 0x110 ≤ page ∧ page < 0x114 then
    if 0x400 ≤ off ∧ off < 0x800 ∧ off % 16 = 0 then
      let st := 64 * (page - 0x110) + (off - 0x400) / 16
      some (at' 16 (s.get m (stl F.STAB_SDEPTH_HWM st)) + (s.mast m).hal.countAt st)
    else none
  else if page = 0x120 ∨ page = 0x121 then
    if 0x400 ≤ off ∧ off < 0x800 then some ((s.mast m).keys.slot (256 * (page - 0x120) + (off - 0x400) / 4)).word else none
  else match page with
    | 0x001 => if off = 0x400 then some (s.commitStatus m) else none
    | 0x002 => s.sessionView m r off
    | 0x003 =>
      if 0x400 ≤ off ∧ off < 0x410 then some (bitsWhere 32 (fun b => s.pagePending m (32 * ((off - 0x400) / 4) + b)))
      else if off = 0x418 ∨ off = 0x41C then some (bitsWhere 32 (fun b => s.vecPending m (32 * ((off - 0x418) / 4) + b)))
      else none
    | 0x008 =>
      if off = 0x400 then
        some ((s.word (bankKey r m 0x008400)).toNat % 4 + at' 4 ((s.mast m).far.filter (fun q => q.req == r && q.write)).length)
      else if 0x410 ≤ off ∧ off < 0x42C then
        let k := (off - 0x410) / 4
        let x := s.conn (connId m k)
        some (at' 30 x.state + (x.dir (decide (k = 6 ∧ m = 1))).ackSeq % 4096)
      else none
    | 0x010 => s.halView m off
    | 0x011 => s.salView m off
    | 0x018 => s.ntView m off
    | 0x020 => s.macView m off
    | 0x021 => s.dwellView m off
    | 0x030 => s.timeView m off
    | 0x031 => s.tpoView m off
    | 0x032 => if 0x400 ≤ off ∧ off < 0x600 ∧ off % 16 = 0 then some (s.timerCount m ((off - 0x400) / 16)) else none
    | 0x038 => s.keysView m off
    | 0x03A => if off = 0x094 then some (s.rsaWindow m) else none
    | 0x040 => s.updView m off
    | 0x041 => s.campView m off
    | 0x042 => s.nvView m off
    | 0x048 => s.pcieView m off
    | 0x04D =>
      if off = 0x400 then some (bit' 1 ((List.range 64).any (fun v => s.bit m (F.IRQ_VEC_TARGET_MGMT.at 4 v) && s.vecPending m v))
        + bit' 0 (((s.mast m).far ++ (s.mast m).farHeld).any (fun q => q.req == 17 && !q.write))) else none
    | _ =>
      if 0x049 ≤ page ∧ page < 0x04D ∧ off = 0x400 then
        let p := page - 0x049
        some ((s.word (key m (page * 4096 + 0x400))).toNat - at' 28 (s.get m (eth F.ETH_LINK_XOFF p))
          + bit' 28 (Tbl.get (fun _ => false) (s.mast m).sal.xoff (if m = s.active then p else 4 + p)))
      else none

/-! ## Reading a word -/

/-- What the word at `page`, `off` of die `d` reads for requester `r` (R540–R543, R553): the header; active values; live words; pending
copies, which only RWB fields have; snapshot copies, which only snapshot counters have; 0 where no register lies. -/
def State.readWord (s : State) (d r page off : Nat) : Word :=
  let addr := page * 4096 + off
  let view (o : Nat) : Option Nat := if d < 2 then s.mastView d r page o else s.sailView (d - 2) page o
  let stored (bank : Bool) (o : Nat) : Word := s.word (if bank then bankKey r d (page * 4096 + o) else key d (page * 4096 + o))
  if off < 0x040 then
    match rowOf d page off with
    | none => 0
    | some _ =>
      if off = 0x024 then
        Word.ofNat ((s.word (key d addr)).toNat / 4 * 4 + (s.word (key d addr)).toNat % 2 + bit' 1 (s.pageArmed d page))
      else s.word (key d addr)
  else if 0xC00 ≤ off then
    match rowOf d page (off - 0x800) with
    | some (x, _) => if x.snap then s.word (key d addr) else 0
    | none => 0
  else if 0x800 ≤ off then
    match rowOf d page (off - 0x800) with
    | some (x, _) =>
      if x.rwb = 0 then 0
      else match view off with
        | some v => Word.ofNat v
        | none => s.word (key d addr) &&& Word.ofNat x.rwb
    | none => 0
  else
    match rowOf d page off with
    | none => 0
    | some (x, _) =>
      match view off with
      | some v => Word.ofNat v
      | none => stored x.bank off &&& ~~~(Word.ofNat x.wo)

end Sys2Proof.Machine
end

