-- ==== Sys2Proof/Machine/Commit.lean ====
section
/-! DEFINITION. Commit and snapshot (R553–R562): the pending copies of a page become active or are refused under the rules of its chapter
(R67, R68, R111, R129, R152, R166, R168, R204, R207, R273, R310, R323, R341, R365, R387, R399), COMMIT.GO and COMMIT.SNAP, the landing
of a commit on a die, COMMIT packets, and the copies of a snapshot. -/

namespace Sys2Proof.Machine

/-! ## Applying the pending copies of a page -/

/-- The configuration offsets of page `p` of die `d` whose active or pending word is not at its reset value. -/
def State.pageOffs (s : State) (d p : Nat) : List Nat :=
  (s.regs.filterMap (fun (e : Nat × Word) =>
    if e.1 / 2 ^ 24 = d ∧ keyPage e.1 = p then
      let o := keyOff e.1
      if 0x040 ≤ o ∧ o < 0x400 then some o else if 0x840 ≤ o ∧ o < 0xC00 then some (o - 0x800) else none
    else none)).eraseDups

/-- Every RWB field of a page takes its pending value. -/
def State.applyWords (s : State) (d p : Nat) : State :=
  (s.pageOffs d p).foldl (fun t o =>
    match rowOf d p o with
    | some (r, _) =>
      let a := key d (p * 4096 + o)
      let w := Word.ofNat r.rwb
      t.setWord a ((t.word a &&& ~~~w) ||| (t.word (key d (p * 4096 + o + 0x800)) &&& w))
    | none => t) s

/-- Queue `q` takes its pending configuration, with `reserved_idle` following its MIN (R324). -/
def Saltern.applyQueue (S : Saltern) (q : Nat) : Saltern :=
  let x := S.queue q
  match x.pendCfg with
  | none => S
  | some (c, a, mn, mx) =>
    { S.setQueue q { x with cls := c, aprio := a, min := mn, max := mx, pendCfg := none } with
      resIdle := S.resIdle - (x.min - x.cells) + (mn - x.cells) }

/-- The queues whose configuration has been written since the last commit. -/
def Saltern.queuesPending (S : Saltern) : List Nat :=
  (List.filter (fun (e : Nat × Queue) => e.2.pendCfg.isSome) S.queues).map Prod.fst

/-- The Saltern takes its queues' pending configuration; `old` and `new` are the chain pool's MIN. -/
def Saltern.applyConfig (S : Saltern) (old new : Nat) : Saltern :=
  let S1 := S.queuesPending.foldl Saltern.applyQueue S
  { S1 with resIdle := S1.resIdle - (old - S1.chainCells) + (new - S1.chainCells) }

/-- The MAC takes the channel entries and maps written since the last commit (R249, R251); after an immediate commit the changed maps stay
in use until the tick (R556). -/
def Mac.applyLists (M : Mac) (imm : Bool) : Mac :=
  let old : Tbl ChanMap := if imm then M.mapsPend.foldl (fun t (e : Nat × ChanMap) =>
      if (Tbl.find? t e.1).isSome then t else Tbl.put t e.1 (M.mapActive e.1)) M.mapsOld else M.mapsOld
  { M with chans := M.chansPend.foldl (fun t (e : Nat × Channel) => Tbl.set (fun _ => Channel.free) t e.1 e.2) M.chans, chansPend := [],
           maps := M.mapsPend.foldl (fun t (e : Nat × ChanMap) => Tbl.set (fun _ => ⟨0, []⟩) t e.1 e.2) M.maps, mapsPend := [],
           mapsOld := old }

/-- A ring takes its pending configuration; enabling it sets HEAD, TAIL, ACK and its completion count to 0 (R584). -/
def Ring.applied (x : Ring) : Ring :=
  match x.pend with
  | none => x
  | some c =>
    if c.en ∧ x.cfg.en = false then { x with cfg := c, pend := none, head := 0, tail := 0, ack := 0, count := 0, late := false }
    else { x with cfg := c, pend := none }

/-- The pending profile entries of die `d` become active (R151). -/
def State.applyProfiles (s : State) (d : Nat) : State :=
  let mine := List.filter (fun (e : Nat × Nat) => e.1 / 256 == d) s.profPend
  { s with profAct := mine.foldl (fun (t : Tbl Nat) (e : Nat × Nat) => Tbl.set (fun i => profReset (i % 256)) t e.1 e.2) s.profAct,
           profPend := List.filter (fun (e : Nat × Nat) => e.1 / 256 != d) s.profPend }

/-- Whether an immediate commit of sail page `p` leaves offset `o` in use until the tick (R556): NEST sets, thresholds and bin sets, and
user calibration values. -/
def waitsForTick (p o : Nat) : Bool := (p == 0x00A && decide (0x060 ≤ o)) || p == 0x003

/-- The words of sail `k` that stay in use until its next tick after an immediate commit of page `p`. -/
def State.keepInUse (s : State) (k p : Nat) : State :=
  let d := sailDie k
  let x := s.sail k
  s.setSail k { x with prev := (s.pageOffs d p).foldl (fun (t : Tbl Nat) o =>
    let a := p * 4096 + o
    if waitsForTick p o = false ∨ (Tbl.find? t a).isSome then t else Tbl.put t a (s.word (key d a)).toNat) x.prev }

/-- Page `p` of die `d` with its pending copies active (R553, R555); `imm` for an immediate commit. -/
def State.applyPage (s : State) (imm : Bool) (d p : Nat) : State :=
  let s0 := if imm ∧ 2 ≤ d then s.keepInUse (d - 2) p else s
  let t := s0.applyWords d p
  if 2 ≤ d then (if p = 0x120 then t.applyProfiles d else t)
  else
    let M := t.mast d
    match p with
    | 0x011 => t.setMast d { M with sal := M.sal.applyConfig (s.get d F.SALTERN_CHAIN_MIN_MIN) (t.get d F.SALTERN_CHAIN_MIN_MIN) }
    | 0x020 => t.setMast d { M with mac := M.mac.applyLists imm }
    | 0x048 => (M.rings.map Prod.fst).foldl (fun (u : State) r => u.setRing d r (u.ring d r).applied) t
    | _ => t

/-! ## What refuses a page -/

/-- The numbers of a list at which a test fails, as cause bits. -/
def causes (l : List (Nat × Bool)) : List Nat := (l.filter (fun e => e.2)).map Prod.fst

/-- CENTRE and ENABLE of receive window `w` of die `d`, active. -/
def State.winCtl (s : State) (d w : Nat) : Nat × Bool :=
  (s.get d (F.WIN_WIN_CTL_CENTRE.at 8 w), s.bit d (F.WIN_WIN_CTL_ENABLE.at 8 w))

/-- The enabled windows of die `d`. -/
def State.winsOn (s : State) (d : Nat) : List Nat := (List.range 4).filter (fun w => (s.winCtl d w).2)

/-- The sum of RESERVE over the enabled windows of die `d` (R68, R111). -/
def State.reserveSum (s : State) (d : Nat) : Nat := (s.winsOn d).foldl (fun a w => a + s.get d (F.LANE_RESERVE_RESERVE.at 4 w)) 0

/-- Whether a CENTRE leaves 400 MHz – 2 500 MHz (R67). -/
def centreBad (c : Nat) : Bool := c < 4516 || 24492 < c

/-- The causes of WIN.CFG_ERR (R67, R68). -/
def State.winErrors (s : State) (d : Nat) : List Nat :=
  let ws := s.winsOn d
  let c (w : Nat) : Nat := (s.winCtl d w).1
  let reef := (s.sail (dieSail d)).reefed
  causes [(0, ws.any (fun a => ws.any (fun b => decide (a < b) && decide ((c a : Int) - c b < 1024) && decide ((c b : Int) - c a < 1024)))),
          (1, ws.any (fun w => centreBad (c w))),
          (2, reef && ws.any (fun w => decide (9491 < c w))),
          (3, !reef && decide (448 < s.reserveSum d))]

/-- The causes of NEST.CFG_ERR (R97, R129). -/
def State.nestErrors (s : State) (d : Nat) : List Nat :=
  let on := (List.range 64).filter (fun i => s.bit d (F.NEST_HYPSET_VALID.at 4 i))
  causes [(0, on.any (fun i => let o := s.getS d (F.NEST_HYPSET_OFFSET.at 4 i); decide (o < -4000) || decide (3999 < o))),
          (1, on.any (fun i => decide (8 ≤ s.get d (F.NEST_HYPSET_PERS.at 4 i))))]

/-- The causes of CLEURA.CFG_ERR (R166, R168). -/
def State.cleuraErrors (s : State) (d : Nat) : List Nat :=
  causes [(0, (List.range 4).any (fun c => decide (s.get d (F.CLEURA_ADV_REQ_REQ.at 4 (c + 1)) ≤ s.get d (F.CLEURA_ADV_REQ_REQ.at 4 c)))),
          (1, s.bit d F.CLEURA_TX_CFG_SEED_FIX_EN && s.get d F.CLEURA_TX_CFG_SEED_FIX == 0)]

/-- The causes of SUNPHY.CFG_ERR (R191, R203). -/
def State.sunErrors (s : State) (d : Nat) : List Nat :=
  causes [(0, !(s.bit d (F.SUNPHY_FSK_CFG_MOD_IDX.at 4 2))),
          (1, (List.range 3).any (fun r => decide (s.get d (F.SUNPHY_FSK_CFG_PREAMBLE_TX.at 4 r) < 8))),
          (2, [1, 2, 3, 4].any (fun o => (List.range 7).any (fun i =>
            (s.get d (F.SUNPHY_OFDM_CFG_MCS_MASK.at 4 (o - 1))).testBit i && !(mcsSupported o i))))]

/-- The causes of TXP.CFG_ERR (R207, R209). -/
def State.txpErrors (s : State) (d : Nat) : List Nat :=
  let c := s.get d F.TXP_WIN_CTL_CENTRE
  let on := s.bit d F.TXP_WIN_CTL_ENABLE
  causes [(0, on && centreBad c), (1, on && (s.sail (dieSail d)).reefed && decide (9491 < c))]

/-- Whether a profile entry holds a reserved code (R152). -/
def profReserved (e : Nat) : Bool := (List.range 46).any (fun i => decide (6 ≤ profCode e i))

/-- The profile entries of die `d` that offend (R152), lowest first. -/
def State.profOffend (s : State) (d : Nat) : List Nat :=
  (List.range 256).filter (fun p => let e := s.profile d p; profValid e && (profReserved e || profBits e == 0))

/-- The causes of PROF.CFG_ERR (R152). -/
def State.profErrors (s : State) (d : Nat) : List Nat :=
  let bad := s.profOffend d
  causes [(0, bad.any (fun p => profReserved (s.profile d p))), (1, bad.any (fun p => profBits (s.profile d p) == 0))]

/-- The causes of MAC.CFG_ERR (R273): no valid primary beacon entry; a peer with PERIOD 0. -/
def State.macErrors (s : State) (m : Nat) : List Nat :=
  causes [(0, s.get m F.MAC_BEACON_CFG_SAIL_MASK != 0 && !((List.range 8).any (fun i => s.bit m (F.MAC_BEACON_CH_VALID.at 4 i)))),
          (1, (List.range 4).any (fun p => s.bit m (F.MAC_PEER_EN.at 16 p) && s.get m (F.MAC_PEER_PERIOD.at 16 p) == 0))]

/-- The cause of COMP.CFG_ERR (R310). -/
def State.compErrors (s : State) (m : Nat) : List Nat :=
  let on := (List.range 16).filter (fun c => s.bit m (F.COMP_CTX_VALID.at 16 c))
  causes [(0, on.any (fun a => on.any (fun b => decide (a < b)
    && s.get64 m (F.COMP_CTX_PREFIX.at 16 a) == s.get64 m (F.COMP_CTX_PREFIX.at 16 b))))]

/-- The causes of SALTERN.CFG_ERR (R323) and its QUEUE field. -/
def State.salErrors (s : State) (m : Nat) : List Nat × Nat :=
  let S := (s.mast m).sal
  let fl (p : Nat) : Nat := s.floorOf m p
  let c := s.chainCfg m
  let mins := (List.range 4096).filter (fun q => decide ((S.queue q).max < (S.queue q).min))
  let minMax := decide (mins ≠ []) || decide (c.2.1 < c.1)
  let walk := (List.range 4096).foldl (fun (a : Nat × Option Nat) q =>
    let n := a.1 + (S.queue q).min
    (n, if a.2.isNone ∧ 131072 < n then some q else a.2)) (fl 3, none)
  let sumBad := decide (131072 < walk.1 + c.1)
  (causes [(0, !(decide (fl 0 ≤ fl 1) && decide (fl 1 ≤ fl 2) && decide (fl 2 ≤ fl 3))), (1, minMax), (2, sumBad)],
   if minMax then mins.headD 0xFFF else if sumBad then walk.2.getD 0xFFF else 0)

/-- The edges of the station graph from station `st` (R341): its NEXT, and the fixed edge of DEDUP, CLASSIFY and ACK_BUILD. -/
def State.stationEdges (s : State) (m st : Nat) : List Nat :=
  let n := s.nextOf m st
  (if n = 0xFF then [] else [n]) ++ (if st = 1 then [2] else if st = 9 then [0xA] else if st = 0xF then [0xE] else [])

/-- The stations reached from those of `l` within `n` edges; only hardware stations have edges. -/
def State.stationReach (s : State) (m : Nat) : Nat → List Nat → List Nat
  | 0, l => l
  | n + 1, l => s.stationReach m n ((l ++ l.flatMap (fun st => if st < 0x12 then s.stationEdges m st else [])).eraseDups)

/-- The causes of HALYARD.CFG_ERR, each with the station it names (R341). -/
def State.stabErrors (s : State) (m : Nat) : List (Nat × Nat) :=
  let walk := (List.range 256).foldl (fun (a : Nat × Option Nat) st =>
    let n := a.1 + s.depthOf m st
    (n, if a.2.isNone ∧ 16384 < n then some st else a.2)) (0, none)
  let rsv := (List.range 0x12).find? (fun st => stationReserved (s.nextOf m st))
  let cyc := (List.range 0x12).find? (fun st => (s.stationReach m 0x12 (s.stationEdges m st)).contains st)
  (walk.2.toList.map (fun st => (0, st))) ++ (rsv.toList.map (fun st => (1, st))) ++ (cyc.toList.map (fun st => (2, st)))

/-- The cause bits of a page whose pending copies are active in `s`. -/
def State.pageErrors (s : State) (d p : Nat) : List Nat :=
  if 2 ≤ d then
    match p with
    | 0x009 => s.winErrors d
    | 0x00A => s.nestErrors d
    | 0x00B => causes [(0, decide (448 < s.reserveSum d))]
    | 0x010 => s.cleuraErrors d
    | 0x012 => s.sunErrors d
    | 0x018 => s.txpErrors d
    | 0x120 => s.profErrors d
    | _ => []
  else
    match p with
    | 0x011 => (s.salErrors d).1
    | 0x01A => s.compErrors d
    | 0x020 => s.macErrors d
    | 0x030 => causes [(0, s.timeBad d)]
    | 0x031 => causes ((List.range 8).map (fun o => (o, s.tpoBad d o)))
    | _ =>
      if 0x130 ≤ p ∧ p < 0x138 ∧ p % 2 = 0 then
        let e := s.gclErrors d ((p - 0x130) / 2)
        causes [(1, e.1), (0, e.2)]
      else []

/-- The CFG_ERR word of a page and the event bit of its refusal. -/
def refusalAt (d p : Nat) : Nat × Nat :=
  if 2 ≤ d then (if p = 0x018 then (0x01840C, 0) else (p * 4096 + 0x404, 0))
  else match p with
    | 0x020 => (0x020414, 0)
    | 0x030 => (0x03040C, 18)
    | 0x031 => (0x0314C0, 8)
    | _ => (p * 4096 + 0x404, 0)

/-! ## The landing of a commit on a die -/

/-- A page is refused (R555): REFUSED, the count and event of the COMMIT page of the mast, for a sail page those of the active mast. -/
def State.refusePage (s : State) (d p : Nat) : State :=
  let m := if d < 2 then d else s.active
  ((s.setBit d (p * 4096 + 0x024) 2).bump m F.COMMIT_REFUSED_PAGES).irq m 0x001 1

/-- A page has been applied (R555): PEND and REFUSED are cleared. -/
def State.passPage (s : State) (d p : Nat) : State :=
  let a := key d (p * 4096 + 0x024)
  s.setWord a (s.word a &&& ~~~(5 : Word))

/-- SAIL[s].VALID, WIN and BIN of every channel entry of mast `m` from the active WIN configurations (R250). -/
def State.placeChannels (s : State) (m : Nat) : State :=
  let M := (s.mast m).mac
  let place (c : Channel) : Channel :=
    let c1 := { c with sails := (List.range 6).map (fun k =>
      match s.locate k c.freq with
      | some (w, b) => (true, w, b, c.hyp k)
      | none => (false, 0, 0, c.hyp k)) }
    if c1.bits = 0 then Channel.free else c1
  s.setMac m { M with chans := M.chans.foldl (fun t (e : Nat × Channel) => Tbl.set (fun _ => Channel.free) t e.1 (place e.2)) [] }

/-- TIMING_CLAMP when TS_TX_OFFSET or ACK_DELAY lies outside its range (R46, R272).  A tick that changes both the MAC page and S judges the page
when it lands, against the S of the slot that closes, and again once S has changed (DESIGN CHOICE, log entry 155). -/
def State.timingClamp (s : State) (m : Nat) : State :=
  let t := s.get m F.MAC_TX_TIMING_TS_TX_OFFSET
  let a := s.get m F.MAC_ACK_CFG_ACK_DELAY
  if t < 500 ∨ 2 * slotUs (s.mast m).slotSel < 5 * t ∨ a < 1000 ∨ 4000 < a then s.setBit m 0x02000C 8 else s

/-- SPI_CLAMP when CLK_DIV makes an FE_SPI word longer than 1.5 µs (R94).  SPI_CFG is RW and takes effect at its write, while R95 speaks of a
committed CLK_DIV: the clamp is judged at the write and again at each commit of the page (DESIGN CHOICE, log entry 159). -/
def State.spiClamp (s : State) (d : Nat) : State :=
  let b := s.get d F.FECTL_SPI_CFG_WORD_BITS
  let bits := if 8 ≤ b ∧ b ≤ 24 then b else 24
  if 600 < bits * max 4 (s.get d F.FECTL_SPI_CFG_CLK_DIV) then s.setBit d 0x002404 0 else s

/-- A station whose ENGINE was cleared without a core that holds it is orphaned, and a station that an engine serves is not (R351). -/
def State.engineChanged (old s : State) (m : Nat) : State :=
  (List.range 0x12).foldl (fun t st =>
    let H := (t.mast m).hal
    if t.engineOf m st then (if H.orphans.contains st then t.setHal m { H with orphans := H.orphans.filter (fun x => x != st) } else t)
    else if old.engineOf m st = false ∨ (List.range 16).any (fun c => (H.role c).testBit st) ∨ H.orphans.contains st then t
    else
      let t1 := t.setHal m { H with orphans := H.orphans ++ [st] }
      (t1.count m F.HALYARD_ROLE_ORPHAN (H.countAt st)).irq m 0x010 2) s

/-- What follows when page `p` of die `d` has been applied; `old` is the state before. -/
def State.pageApplied (old s : State) (d p : Nat) : State :=
  if 2 ≤ d then
    match p with
    | 0x002 => s.spiClamp d
    | 0x009 => if s.redundant then (s.placeChannels 0).placeChannels 1 else s.placeChannels 0
    | 0x01A => if s.bit d F.TRIM_CFG_PD_EN = false ∨ old.bit d F.TRIM_CFG_PD_EN = false then s.staleCheck d else s
    | _ => s
  else
    match p with
    | 0x011 => s.brineCheck d
    | 0x020 => (s.placeChannels d).timingClamp d
    | 0x030 => s.timeCommitted d
    | 0x031 => State.tpoCommitted old s d
    | _ =>
      if 0x049 ≤ p ∧ p < 0x04D then State.ethCommitted old s d (p - 0x049)
      else if 0x130 ≤ p ∧ p < 0x138 ∧ p % 2 = 0 then s.gclCommitted d ((p - 0x130) / 2)
      else s

/-- A commit lands on page `p` of die `d` (R555): its pending copies become active, or it is refused with its causes and its event. -/
def State.landPage (s : State) (imm : Bool) (d p : Nat) : State :=
  let t := s.applyPage imm d p
  let es := t.pageErrors d p
  if es = [] then State.pageApplied s (t.passPage d p) d p
  else
    let r := refusalAt d p
    let s1 := es.foldl (fun u b => u.setBit d r.1 b) s
    let s2 := if d < 2 ∧ p = 0x011 then s1.put d F.SALTERN_CFG_ERR_QUEUE (t.salErrors d).2
      else if 2 ≤ d ∧ p = 0x120 then s1.put d F.PROF_CFG_ERR_INDEX ((t.profOffend d).headD 0) else s1
    (s2.irq d p r.2).refusePage d p

/-- A commit lands on pages `ps` of the station table of mast `m`, which pass or are refused together (R341). -/
def State.landStations (s : State) (imm : Bool) (m : Nat) (ps : List Nat) : State :=
  let t := ps.foldl (fun u p => u.applyPage imm m p) s
  match t.stabErrors m with
  | [] => (State.engineChanged s (ps.foldl (fun u p => u.passPage m p) t) m).settleFlows m
  | e :: rest =>
    let s1 := (e :: rest).foldl (fun u x => u.setBit m 0x010404 x.1) s
    let s2 := (s1.put m F.HALYARD_CFG_ERR_STATION (rest.foldl (fun a x => min a x.2) e.2)).irq m 0x010 0
    ps.foldl (fun u p => u.refusePage m p) s2

/-- The pages of die `d` that a commit of the groups in `mask` acts on (R554), lowest first. -/
def State.commitPages (s : State) (d mask : Nat) : List Nat :=
  (if d < 2 then mastPages else sailPages).filter (fun p => mask.testBit (s.groupOf d p) && s.bit d (F.HDR_PENDING_PEND.page p))

/-- A commit of the groups in `mask` lands on die `d` (R555). -/
def State.landCommit (s : State) (imm : Bool) (d mask : Nat) : State :=
  let ps := s.commitPages d mask
  let stab := if d < 2 then ps.filter (fun p => decide (0x110 ≤ p) && decide (p < 0x114)) else []
  let s1 := (ps.filter (fun p => !(stab.contains p))).foldl (fun t p => t.landPage imm d p) s
  if stab = [] then s1 else s1.landStations imm d stab

/-! ## The masts' copies of the sails' configuration (R154, R211) -/

/-- A page of mast `m`'s copy of sail `k` follows a commit: its pending copies become active unless the sail's checks refuse them. -/
def State.copyPageCommit (s : State) (m k p : Nat) : State :=
  let d := copyDie m k
  let t := s.applyPage false d p
  if t.pageErrors d p = [] then t.passPage d p else s

/-- Mast `m`'s copies follow its commit of the groups in `mask` (R154). -/
def State.copyCommit (s : State) (m mask : Nat) : State :=
  s.sailList.foldl (fun t k => (t.commitPages (copyDie m k) mask).foldl (fun u p => u.copyPageCommit m k p) t) s

/-! ## Snapshots (R561, R562) -/

/-- Copy the counters of page `p` of die `d` as snapshot `n`. -/
def State.copyPage (s : State) (d n p : Nat) : State :=
  let rows := (if d < 2 then mastPageRows p else sailPageRows p).filter (fun r => r.snap)
  let offs := rows.flatMap (fun r => (List.range r.count).map (fun i => r.off + r.stride * i))
  let s1 := offs.foldl (fun t o => t.setWord (key d (p * 4096 + o + 0x800)) (s.readWord d 16 p o)) s
  s1.put d (F.HDR_SNAP_SEQ_SEQ.page p) n

/-- Die `d` copies its counters as snapshot `n`, but for pages with SNAP_EXCL. -/
def State.copySnap (s : State) (d n : Nat) : State :=
  (if d < 2 then mastPages else sailPages).foldl (fun t p => if s.bit d (F.HDR_CTRL_SNAP_EXCL.page p) then t else t.copyPage d n p) s

/-- The item of a snapshot is placed in queue 136 of mast `m` (R561): one cell with SNAP_SEQ and the ASN; a full log keeps none. -/
def State.snapItem (s : State) (m n asn : Nat) : State :=
  let S := (s.mast m).sal
  if s.admitQ m 136 1 = false then s.bump m F.SALTERN_HOLD
  else
    let r := Saltern.takeCells 1 S
    match r.1 with
    | c :: _ =>
      let d : Desc := { Desc.zero with station := 0xFF, node := noNode, port := 15, len := 9, cell := c, stamp := s.localNs m % 2 ^ 48 }
      let s1 := s.setSal m (r.2.setItem c ⟨[c], d, .snap n asn, 0, .none, none, none, 0⟩)
      s1.enqueueAs m 136 c
    | [] => s.bump m F.SALTERN_HOLD

/-! ## Commits under way -/

/-- Replace mast `m`'s commits under way. -/
def State.setRuns (s : State) (m : Nat) (rs : List CommitRun) : State := s.setMast m { s.mast m with runs := rs }

/-- The dies on which a commit of mast `m` lands: every fitted die for the pair; an out-of-step mast's own die alone. -/
def State.runDies (s : State) (m : Nat) : List Nat :=
  if m = s.active then m :: (s.sailList.map sailDie ++ (if s.mirroring then [1 - m] else []))
  else if s.mirroring then [m, 1 - m] ++ s.sailList.map sailDie else [m]

/-- A landed run of mast `m` ends once it has landed on every die (R560, R561): COMMIT_DONE or SNAP_DONE. -/
def State.endRuns (s : State) (m : Nat) : State :=
  let dies := s.runDies m
  let whole (r : CommitRun) : Bool := dies.all (fun d => r.landed.contains d)
  let rs := (s.mast m).runs
  let s1 := s.setRuns m (rs.filter (fun r => !(whole r)))
  (rs.filter whole).foldl (fun t r => t.irq m 0x001 (if r.snap.isSome then 2 else 0)) s1

/-- The commit `seq` (`snap`: the snapshot `seq`) has landed on die `d`. -/
def State.noteLanded (s : State) (d seq : Nat) (snap : Bool) : State :=
  let mark (t : State) (m : Nat) : State :=
    let rs := (t.mast m).runs.map (fun r =>
      if r.seq = seq ∧ r.snap.isSome = snap then { r with landed := r.landed.insert d } else r)
    (t.setRuns m rs).endRuns m
  if s.redundant then mark (mark s 0) 1 else mark s 0

/-- COMMIT packets of a run to every fitted sail, and from the active mast to a jury that executes inputs (R557, R558). -/
def State.sendCommit (s : State) (m : Nat) (r : CommitRun) (asn : Nat) : State :=
  let bytes := leBytes 2 r.mask ++ leBytes 5 asn ++ [(if r.tick then 1 else 0) + (if r.snap.isSome then 2 else 0)]
  let s1 := s.sailList.foldl (fun t k => t.toSail m k 0x08 r.seq bytes) s
  if m = s.active ∧ s.mirroring ∧ r.tick then s1.sendOn 6 (decide (m = 1)) (message 0x08 r.seq bytes) else s1

/-- The landing ASN of a run is chosen and its packets leave. -/
def State.launchRun (s : State) (m : Nat) (r : CommitRun) (asn : Nat) : State :=
  let rs := (s.mast m).runs.map (fun x => if x.seq = r.seq ∧ x.snap = r.snap then { x with landAsn := some asn, sent := s.sailList } else x)
  let s1 := s.setRuns m rs
  (if r.snap.isSome then s1 else s1.put64 m F.COMMIT_LAND_ASN_ASN asn).sendCommit m r asn

/-- The far writes of mast `m` not yet acknowledged. -/
def State.farWrites (s : State) (m : Nat) : List Nat :=
  (((s.mast m).far ++ (s.mast m).farHeld).filter (fun q => q.write)).map (fun q => q.tag)

/-- Mast `m` sends the packets of each run whose far writes have been acknowledged (R557): LAND_ASN is that of the next tick, or of the tick
after once the first TICK packet of the next tick has been sent, and a run that misses the next tick of its GO counts as DEFERRED.  A jury that executes inputs takes LAND_ASN from the active
mast's COMMIT packet. -/
def State.sendRuns (s : State) (m : Nat) : State :=
  if m ≠ s.active ∧ s.mirroring then s
  else
    let open_ := s.farWrites m
    ((s.mast m).runs.filter (fun r => r.tick && r.landAsn.isNone && !(r.waitFar.any (fun t => open_.contains t)))).foldl (fun t r =>
      let n := (t.nextSlot m).1
      let asn := if (t.mast m).tickSent = some n then (n + 1) % 2 ^ 40 else n
      let u := t.launchRun m r asn
      if asn = r.next then u else u.bump m F.COMMIT_DEFERRED) s

/-- A jury's run takes the LAND_ASN of a COMMIT packet that has already come (R557). -/
def State.matchPrepared (s : State) (m : Nat) : State :=
  (s.mast m).prepared.foldl (fun t p =>
    match (t.mast m).runs.find? (fun r => r.seq == p.seq && r.snap.isSome == decide (p.snap ≠ 0) && r.landAsn.isNone) with
    | some r => (t.setMast m { t.mast m with prepared := (t.mast m).prepared.erase p }).launchRun m r p.landAsn
    | none => t) s

/-- Start a run on mast `m`: a tick commit or package snapshot waits for its tick. -/
def State.startRun (s : State) (m : Nat) (r : CommitRun) : State :=
  ((s.setRuns m ((s.mast m).runs ++ [r])).sendRuns m).matchPrepared m

/-- COMMIT.GO with MASK on mast `m` (R554): LOCKV while a tick commit is armed; else the next SEQ and, by WHEN, an immediate or a tick
commit. -/
def State.commitGo (s : State) (m r mask : Nat) : State :=
  if (s.mast m).runs.any (fun x => x.tick && x.snap.isNone && !(x.landed.contains m)) then s.lockv m 0x001 0x040 r
  else
    let seq := (s.get m F.COMMIT_SEQ_SEQ + 1) % 2 ^ 32
    let s1 := (s.put m F.COMMIT_SEQ_SEQ seq).bump m F.COMMIT_COMMITS
    if s1.bit m F.COMMIT_WHEN_TICK then
      (s1.bump m F.COMMIT_TICK_COMMITS).startRun m ⟨seq, mask, none, true, none, [], s1.farWrites m, [], (s1.nextSlot m).1⟩
    else
      let run : CommitRun := ⟨seq, mask, none, false, none, [], [], [], 0⟩
      let s2 := ((s1.landCommit true m mask).copyCommit m mask).setRuns m ((s1.mast m).runs ++ [run])
      (s2.sendCommit m run 0).noteLanded m seq false

/-- A write of COMMIT.GO. -/
def State.accGo (s : State) (m r width value : Nat) : State :=
  s.action m 0x001 0x040 r true width 4 (fun t => t.commitGo m r (value % 2 ^ 16))

/-- COMMIT_GO (R554). -/
def execCommitGo (m r width value : Nat) (s : State) : Host.Outcome State Fault Refusal :=
  .next (s.hostOn m r 0x001 0x040 width value .empty (fun m t => t.accGo m r width value))

/-- COMMIT.SNAP on mast `m` (R561, R562). -/
def State.snapGo (s : State) (m r value : Nat) : State :=
  if value % 2 = 0 then s
  else if (s.mast m).runs.any (fun x => x.snap.isSome && !(x.landed.contains m)) then s.lockv m 0x001 0x048 r
  else
    let n := (s.get m F.COMMIT_SNAP_SEQ_SEQ + 1) % 2 ^ 32
    let s1 := (s.put m F.COMMIT_SNAP_SEQ_SEQ n).bump m F.COMMIT_SNAPS
    if value / 2 % 2 = 0 then (((s1.copySnap m n).snapItem m n (s1.mast m).asn).irq m 0x001 2)
    else s1.startRun m ⟨n, 0, some n, true, none, [], s1.farWrites m, [], (s1.nextSlot m).1⟩

/-- A write of COMMIT.SNAP. -/
def State.accSnap (s : State) (m r width value : Nat) : State := s.action m 0x001 0x048 r true width 4 (fun t => t.snapGo m r value)

/-- SNAP_GO (R561). -/
def execSnapGo (m r width value : Nat) (s : State) : Host.Outcome State Fault Refusal :=
  .next (s.hostOn m r 0x001 0x048 width value .empty (fun m t => t.accSnap m r width value))

/-! ## COMMIT packets (R556–R558) -/

/-- A prepared COMMIT takes effect on sail `k`: a snapshot copies its counters, a commit lands. -/
def State.landSail (s : State) (imm : Bool) (k : Nat) (p : Prepared) : State :=
  let d := sailDie k
  if p.snap ≠ 0 then (s.copySnap d p.seq).noteLanded d p.seq true else (s.landCommit imm d p.groups).noteLanded d p.seq false

/-- COMMIT packet at sail `k` (R556, R558): an immediate commit lands at once; so does one whose LAND_ASN has passed, counted and reported;
another is held for its tick.  The active mast reports a late one when it happens (DESIGN CHOICE, log entry 172). -/
def State.commitAtSail (s : State) (k : Nat) (p : Prepared) (when_ : Bool) : State :=
  let d := sailDie k
  let x := s.sail k
  if when_ = false then s.landSail true k p
  else if x.ticked ∧ sdiff 40 p.landAsn x.asn ≤ 0 then
    let s1 := ((s.landSail true k p).bump d F.SSYS_COMMIT_LATE_COUNT).irq d 0x000 0
    (s1.bump s1.active F.COMMIT_SPLIT).irq s1.active 0x001 3
  else if x.prepared.length < 4 then s.setSail k { x with prepared := x.prepared ++ [p] } else s

/-- COMMIT_PACKET (R557, R558): mast `m`'s COMMIT packet for die `d`, a sail or the jury. -/
def execCommitPacket (d m tag mask landAsn : Nat) (when_ snap : Bool) (hdr : List LinkPkt) (s : State) : Host.Outcome State Fault Refusal :=
  let p : Prepared := ⟨tag, m, mask % 2 ^ 16, landAsn % 2 ^ 40, if snap then 1 else 0⟩
  .next (
    if 2 ≤ d then
      let r := s.accepts (d - 2) m 0x08 tag (.nums [mask, landAsn, if when_ then 1 else 0, if snap then 1 else 0]) hdr
      if r.1 then r.2.commitAtSail (d - 2) p when_ else r.2
    else if s.redundant = false ∨ m ≠ 1 - d then s
    else
      let r := s.receive 6 (decide (d = 0)) 0x08 hdr
      if r.1 then (r.2.setMast d { r.2.mast d with prepared := (r.2.mast d).prepared ++ [p] }).matchPrepared d else r.2)

/-- Snapshots armed for the tick that mast `m` makes now are copied (action 2 of R41). -/
def State.tickSnaps (s : State) (m : Nat) : State :=
  let asn := (s.mast m).asn
  ((s.mast m).runs.filter (fun r => r.landAsn == some asn && r.snap.isSome && !(r.landed.contains m))).foldl (fun t r =>
    ((t.copySnap m r.seq).snapItem m r.seq asn).noteLanded m r.seq true) s

/-- Tick commits that land on the tick that mast `m` makes now (action 3 of R41). -/
def State.tickCommits (s : State) (m : Nat) : State :=
  let asn := (s.mast m).asn
  ((s.mast m).runs.filter (fun r => r.landAsn == some asn && r.snap.isNone && !(r.landed.contains m))).foldl (fun t r =>
    ((t.landCommit false m r.mask).copyCommit m r.mask).noteLanded m r.seq false) s

/-- Prepared snapshots, then prepared commits, of the tick that sail `k` makes now (R41, R558). -/
def State.tickPrepared (s : State) (k : Nat) : State :=
  let x := s.sail k
  let due := x.prepared.filter (fun p => p.landAsn == x.asn)
  let s1 := s.setSail k { x with prepared := x.prepared.filter (fun p => p.landAsn != x.asn) }
  (due.filter (fun p => p.snap != 0) ++ due.filter (fun p => p.snap == 0)).foldl (fun t p => t.landSail false k p) s1

end Sys2Proof.Machine
end

