-- ==== Sys2Proof/Machine/FarBase.lean ====
section
/-! DEFINITION. The far-register pair at a mast (R549–R552): how an access of FAR_DATA is checked, issued, held behind an earlier one
of its requester, and sent. -/

namespace Sys2Proof.Machine

/-! ## Pending copies -/

/-- A number with its 32-bit word `i` replaced. -/
def withWord (n i v : Nat) : Nat := n - wordOf n i * 2 ^ (32 * i) + v % 2 ^ 32 * 2 ^ (32 * i)

/-- The RWB fields of a word take a written value in its pending copy (R553). -/
def State.pendWord (s : State) (d page off value : Nat) (x : RegRow) : State :=
  let k := key d (page * 4096 + off + 0x800)
  let w := Word.ofNat x.rwb
  s.setWord k ((s.word k &&& ~~~w) ||| (Word.ofNat value &&& w))

/-- Whether a write of RWB fields on page `page` of die `d` names a fixed profile entry, 0–7, which is locked (R149, R172). -/
def State.profFixed (s : State) (d page : Nat) : Bool := decide (2 ≤ d) && page == 0x120 && decide (s.get d F.PROF_SEL_INDEX < 8)

/-- A write of PROF.DATA (R151, R172): the pending copy of entry INDEX. -/
def State.writeProfile (s : State) (d off value : Nat) : State :=
  let p := s.get d F.PROF_SEL_INDEX
  let v := if off = 0x054 then value / 2 ^ 30 % 4 * 2 ^ 30 + value % 2 ^ 10 else value
  { s with profPend := Tbl.put s.profPend (256 * d + p) (withWord (s.profilePend d p) ((off - 0x044) / 4) v) }

/-- A write to RWB fields of a sail, or of a mast's copy of one, and its page's PEND (R553). -/
def State.pendSail (s : State) (d page off value : Nat) (x : RegRow) : State :=
  (if page = 0x120 then s.writeProfile d off value else s.pendWord d page off value x).put d (F.HDR_PENDING_PEND.page page) 1

/-! ## The copy of a sail's configuration (R154, R211) -/

/-- Mast `m` records a word that it writes to sail `k` in its copy (R154): configuration words and the page's commit group. -/
def State.recordWord (s : State) (m k page off value : Nat) : State :=
  let d := copyDie m k
  let o := if 0x800 ≤ off then off - 0x800 else off
  if off = 0x020 then s.setWord (key d (page * 4096 + 0x020)) (Word.ofNat (value % 16))
  else if o < 0x040 ∨ 0x400 ≤ o then s
  else match rowOf d page o with
    | none => s
    | some (x, _) =>
      let s1 := if x.rwb = 0 ∨ s.pageArmed (sailDie k) page ∨ s.profFixed d page then s else s.pendSail d page o value x
      let a := key d (page * 4096 + off)
      let w := Word.ofNat x.rw
      if x.rw = 0 ∨ 0x800 ≤ off then s1 else s1.setWord a ((s1.word a &&& ~~~w) ||| (Word.ofNat value &&& w))

/-- Mast `m` records a far write (R154, R211). -/
def State.recordFar (s : State) (m k page off : Nat) (wide : Bool) (value : Nat) : State :=
  if wide then (s.recordWord m k page off (value % 2 ^ 32)).recordWord m k page (off + 4) (value / 2 ^ 32 % 2 ^ 32)
  else s.recordWord m k page off (value % 2 ^ 32)

/-! ## Issue -/

/-- Whether an access that names sail page `page`, offset `off` reaches the fuse programming of REGLOCK, which needs OWNER (R443). -/
def fuseAccess (page off : Nat) : Bool := page == 0x004 && (decide (0x140 ≤ off) && decide (off < 0x158))

/-- Unacknowledged far accesses of requester `r`, writes or reads, that have left mast `m`. -/
def State.farCount (s : State) (m r : Nat) (write : Bool) : Nat :=
  ((s.mast m).far.filter (fun q => q.req == r && q.write == write)).length

/-- Whether a far access can leave: its requester holds none back, has fewer than 16 writes unacknowledged, and no read (R551). -/
def State.farReady (s : State) (m : Nat) (q : FarReq) : Bool :=
  !((s.mast m).farHeld.any (fun x => x.req == q.req))
    && (if q.write then decide (s.farCount m q.req true < 16) else decide (s.farCount m q.req false < 1))

/-- The payload of a far access: where it goes and how wide it is, and what it writes (log entry 152). -/
def FarReq.bytes (q : FarReq) : List Nat :=
  leBytes 4 (q.page * 4096 + q.off) ++ leBytes 4 (if q.wide then 8 else 4) ++ (if q.write then leBytes 8 q.value else [])

/-- Send the packet of a far access (R16, R549): FAR_WRITE, an output of the sail's point (R471), or FAR_READ. -/
def State.farSend (s : State) (m : Nat) (q : FarReq) : State :=
  if q.write then
    if m = s.active ∨ s.mirroring then s.toSail m q.sail 0x05 q.tag q.bytes
    else s.sendOn (connId m q.sail) false (message 0x05 q.tag q.bytes)
  else s.sendOn (connId m q.sail) false (message 0x04 q.tag q.bytes)

/-- A far access leaves, or waits its turn (R551). -/
def State.farIssue (s : State) (m : Nat) (q : FarReq) : State :=
  if s.farReady m q then (s.setMast m { s.mast m with far := (s.mast m).far ++ [q] }).farSend m q
  else s.setMast m { s.mast m with farHeld := (s.mast m).farHeld ++ [q] }

/-- Let the accesses that wait leave, each requester's in order, as far as they can (R551). -/
def State.farRelease (s : State) (m : Nat) : State :=
  (s.mast m).farHeld.foldl (fun t q => t.farIssue m q) (s.setMast m { s.mast m with farHeld := [] })

/-- The request number of the next far access; writes and reads count apart. -/
def State.farTag (s : State) (m : Nat) (write : Bool) : Nat × State :=
  let M := s.mast m
  if write then (M.farSeq % 2 ^ 31, s.setMast m { M with farSeq := M.farSeq + 1 })
  else
    let n := Tbl.get (fun _ => 0) M.cmdSeq 64
    (2 ^ 31 + n % 2 ^ 31, s.setMast m { M with cmdSeq := Tbl.set (fun _ => 0) M.cmdSeq 64 (n + 1) })

/-- With AUTO_INC, OFFSET advances by the width, within its page (R549). -/
def State.farAdvance (s : State) (m r width : Nat) : State :=
  if s.bget r m F.TATRUM_FAR_ADDR_AUTO_INC = 1 then
    s.bput r m F.TATRUM_FAR_ADDR_OFFSET ((s.bget r m F.TATRUM_FAR_ADDR_OFFSET + width) % 4096)
  else s

/-- Whether the die that requester `r` names is no fitted sail with a connection that has not failed (R550). -/
def State.farAbsent (s : State) (m r : Nat) : Bool :=
  let d := s.bget r m F.TATRUM_FAR_ADDR_DIE
  decide (d < 2) || !s.hasSail (d - 2) || decide ((s.conn (connId m (d - 2))).state = 3)

/-- A far access that names no reachable sail (R550). -/
def State.farRefused (s : State) (m r : Nat) : State := (s.capture m 0x008 0 6 r 0x048).bump m F.TATRUM_FAR_ERR

/-- An access of FAR_DATA by requester `r` once the mast's checks are passed (R443, R549, R550).  Of a write that needs OWNER and names no reachable
sail the mast checks the privilege first (DESIGN CHOICE, log entry 168): it denies it, with no ACCERR and no FAR_ERR. -/
def State.farStart (s : State) (m r width : Nat) (write : Bool) (value : Nat) : State :=
  let page := s.bget r m F.TATRUM_FAR_ADDR_PAGE
  let off := s.bget r m F.TATRUM_FAR_ADDR_OFFSET
  if write ∧ fuseAccess page off ∧ s.privOf m (s.ctxOf m r) < 3 then s.deny m 0x008 0x048 r true
  else if s.farAbsent m r then
    let t := s.farRefused m r
    if write then t
    else
      let words := if width = 8 then [2 ^ 32 - 1, 2 ^ 32 - 1] else [2 ^ 32 - 1]
      (t.bput64 r m F.TATRUM_FAR_DATA_DATA (2 ^ 64 - 1)).emit (if r = 17 then .mgmt 1 words else .read m r words)
  else
    let x := s.farTag m write
    let q : FarReq := { tag := x.1, req := r, sail := s.bget r m F.TATRUM_FAR_ADDR_DIE - 2, write := write, wide := decide (width = 8), page := page,
                        off := off, value := value }
    ((if write then x.2.recordFar m q.sail page off q.wide value else x.2).farIssue m q).farAdvance m r width

/-- The full width at which an access of FAR_DATA acts: 4 or 8 bytes (R544, R549). -/
def farWidth (width : Nat) : Nat := if width = 8 then 8 else 4

/-- A write of FAR_DATA (R549–R551). -/
def State.accFarWrite (s : State) (m r width value : Nat) : State :=
  s.action m 0x008 0x048 r true width (farWidth width) (fun t => t.farStart m r width true value)

/-- A read of FAR_DATA (R549–R552). -/
def State.accFarRead (s : State) (m r width : Nat) : State :=
  s.action m 0x008 0x048 r false width (farWidth width) (fun t => t.farStart m r width false 0)

end Sys2Proof.Machine
end

