-- ==== Sys2Proof/Machine/Records.lean ====
section
/-! DEFINITION. The 16 words of a node record (R278) and the fields that each holds (R252, R279, R280, R318, R374, R423, R521): how a record reads
as words, and what a store to a word makes of it. -/

namespace Sys2Proof.Machine

/-- Bits `hi`:`lo` of a 128-bit word. -/
def bitsOf (w hi lo : Nat) : Nat := w / 2 ^ lo % 2 ^ (hi + 1 - lo)

/-- A number placed at bits `hi`:`lo`. -/
def bitsAt (v hi lo : Nat) : Nat := v % 2 ^ (hi + 1 - lo) * 2 ^ lo

/-- A signed number placed at bits `hi`:`lo`. -/
def sbitsAt (v : Int) (hi lo : Nat) : Nat := (v % (2 ^ (hi + 1 - lo) : Nat)).toNat * 2 ^ lo

/-- Bits `hi`:`lo` of a word as a signed number. -/
def sbitsOf (w hi lo : Nat) : Int :=
  if bitsOf w hi lo < 2 ^ (hi - lo) then (bitsOf w hi lo : Nat) else (bitsOf w hi lo : Nat) - (2 ^ (hi + 1 - lo) : Nat)

/-- A flag placed at bit `b`. -/
def flagAt (v : Bool) (b : Nat) : Nat := if v then 2 ^ b else 0

/-- Word 0 (R279). -/
def Identity.word (x : Identity) : Nat :=
  bitsAt x.eui 127 64 + bitsAt x.short 63 48 + flagAt x.shortValid 47 + flagAt x.used 46 + flagAt x.aged 45 + bitsAt x.port 44 41
    + bitsAt x.cls 40 37 + bitsAt x.group 36 29 + bitsAt x.joinTs 28 5

/-- The identity that a word holds. -/
def Identity.ofWord (w : Nat) : Identity :=
  ⟨bitsOf w 127 64, bitsOf w 63 48, w.testBit 47, w.testBit 46, w.testBit 45, bitsOf w 44 41, bitsOf w 40 37, bitsOf w 36 29, bitsOf w 28 5⟩

/-- Word 0 of the link section (R252). -/
def Link.word0 (x : Link) : Nat :=
  bitsAt x.anchor 127 88 + bitsAt x.period 87 72 + bitsAt x.event 71 48 + bitsAt x.map 47 42 + bitsAt x.seed 41 32 + bitsAt x.step 31 22
    + bitsAt x.guard 21 10 + bitsAt x.nodePre 9 2

/-- Word 1 of the link section (R252). -/
def Link.word1 (x : Link) : Nat :=
  bitsAt x.supervision 127 104 + sbitsAt x.drift 103 84 + bitsAt x.lastHeard 83 44 + bitsAt x.lastSync 43 4 + flagAt x.syncValid 1
    + flagAt x.tcClamped 0

/-- Word 2 of the link section (R252). -/
def Link.word2 (x : Link) : Nat :=
  bitsAt x.upProf 127 120 + bitsAt x.dnProf 119 112 + bitsAt x.dnFec 111 110 + sbitsAt x.txPower 109 102 + sbitsAt x.cfo 101 86
    + bitsAt x.state 85 84 + bitsAt x.miss 83 82 + flagAt x.hint 81 + flagAt x.ackReq 80 + bitsAt x.retry 79 76 + sbitsAt x.lastTc 75 64
    + bitsAt x.dnFc 63 32 + bitsAt x.rxFc 31 0

/-- A link section with word `i` replaced. -/
def Link.setWord (x : Link) (i w : Nat) : Link :=
  if i = 0 then
    { x with anchor := bitsOf w 127 88, period := bitsOf w 87 72, event := bitsOf w 71 48, map := bitsOf w 47 42, seed := bitsOf w 41 32,
             step := bitsOf w 31 22, guard := bitsOf w 21 10, nodePre := bitsOf w 9 2 }
  else if i = 1 then
    { x with supervision := bitsOf w 127 104, drift := sbitsOf w 103 84, lastHeard := bitsOf w 83 44, lastSync := bitsOf w 43 4,
             syncValid := w.testBit 1, tcClamped := w.testBit 0 }
  else
    { x with upProf := bitsOf w 127 120, dnProf := bitsOf w 119 112, dnFec := bitsOf w 111 110, txPower := sbitsOf w 109 102,
             cfo := sbitsOf w 101 86, state := bitsOf w 85 84, miss := bitsOf w 83 82, hint := w.testBit 81, ackReq := w.testBit 80,
             retry := bitsOf w 79 76, lastTc := sbitsOf w 75 64, dnFc := bitsOf w 63 32, rxFc := bitsOf w 31 0 }

/-- Word 4 (R280). -/
def Routing.word (x : Routing) : Nat :=
  bitsAt x.parent 127 108 + flagAt x.parentValid 107 + flagAt x.rootAdj 106 + bitsAt x.rank 105 90 + bitsAt x.pathSeq 89 82
    + bitsAt x.daoTs 81 58 + bitsAt x.ctx 57 54

/-- The routing that a word holds. -/
def Routing.ofWord (w : Nat) : Routing :=
  ⟨bitsOf w 127 108, w.testBit 107, w.testBit 106, bitsOf w 105 90, bitsOf w 89 82, bitsOf w 81 58, bitsOf w 57 54⟩

/-- Word 5, 6 or 7: byte 0 of the key section in bits 7:0 of word 5 (R423). -/
def KeySec.word (x : KeySec) (i : Nat) : Nat :=
  (x.blob % 2 ^ 192 + x.kekGen % 2 ^ 16 * 2 ^ 320 + x.kek % 2 ^ 9 * 2 ^ 336 + x.ver % 2 ^ 8 * 2 ^ 352 + flagAt x.valid 360) / 2 ^ (128 * (i - 5)) % 2 ^ 128

/-- Word 8 (R318); `last` is the last cell of the newest item. -/
def Chain.word (x : Chain) (last : Nat) : Nat :=
  bitsAt (x.heads.headD 0) 127 111 + bitsAt (if x.heads = [] then 0 else last) 110 94 + bitsAt x.cells 93 76 + bitsAt x.heads.length 75 64
    + flagAt (x.heads != []) 63

/-- Word 9 (R374). -/
def NodeSluice.word (x : NodeSluice) : Nat :=
  bitsAt x.lastAsn 127 88 + bitsAt x.tokens 87 64 + bitsAt x.prof 63 60 + flagAt x.init 59 + bitsAt x.drops 58 43

/-- Word 10 or 11 (R521). -/
def CampSec.word (x : CampSec) (i : Nat) : Nat :=
  if i = 10 then
    bitsAt x.campId 127 112 + bitsAt x.nstate 111 108 + bitsAt x.reason 107 104 + bitsAt x.missing 103 91 + bitsAt x.tries 90 88
      + bitsAt x.wslot 87 75 + bitsAt x.deadline 74 35
  else bitsAt x.lastReport 127 88 + bitsAt x.batt 87 72

/-- Word `i` of a record (R278); `last` is the last cell of the newest item of its chain. -/
def NodeRec.word (x : NodeRec) (last i : Nat) : Nat :=
  match i with
  | 0 => x.ident.word
  | 1 => x.link.word0
  | 2 => x.link.word1
  | 3 => x.link.word2
  | 4 => x.routing.word
  | 5 | 6 | 7 => x.key.word i
  | 8 => x.chain.word last
  | 9 => x.sluice.word
  | 10 | 11 => x.camp.word i
  | _ => x.firmware.getD (i - 12) 0 % 2 ^ 128

/-- A record after software stores word `i`: identity, link section, routing, PROF of the uplink sluice (R374) and the words free for firmware;
the words that only the device's engines write stay (R318, R424, R521, log entry 153). -/
def NodeRec.setWord (x : NodeRec) (i w : Nat) : NodeRec :=
  match i with
  | 0 => { x with ident := Identity.ofWord w }
  | 1 | 2 | 3 => { x with link := x.link.setWord (i - 1) w }
  | 4 => { x with routing := Routing.ofWord w }
  | 9 => { x with sluice := { x.sluice with prof := bitsOf w 63 60 } }
  | 12 | 13 | 14 | 15 =>
    let f := (List.range 4).map (fun j => if j = i - 12 then w % 2 ^ 128 else x.firmware.getD j 0)
    { x with firmware := if f = [0, 0, 0, 0] then [] else f }
  | _ => x

/-- A record after a core's store of `width` bytes at byte `off` of it. -/
def NodeRec.store (x : NodeRec) (last off width v : Nat) : NodeRec :=
  let i := off / 16
  let b := 8 * (off % 16)
  let w := x.word last i
  x.setWord i (w / 2 ^ (b + 8 * width) * 2 ^ (b + 8 * width) + v % 2 ^ (8 * width) * 2 ^ b + w % 2 ^ b)

end Sys2Proof.Machine
end

