-- ==== Sys2Proof/Machine/Access.lean ====
section
/-! DEFINITION. Software's accesses to registers (R535–R548): the write of a word by the types of its fields, the registers behind a
selector or with a rule of their own, the registers that act through the access, and the side effects of reads; and the commands CNT_CLR, IRQ_FORCE,
PAGE_LOCK, REGISTER_WRITE, UNMAPPED_ACCESS and VEC_EOI. -/

namespace Sys2Proof.Machine

/-! ## The common header (R541, R542) -/

/-- The offsets of the words of page `p` of die `d` that `CNT_CLR` clears. -/
def counterOffs (d p : Nat) : List Nat :=
  ((if d < 2 then mastPageRows p else sailPageRows p).filter (fun r => r.cnt)).flatMap (fun r =>
    (List.range r.count).map (fun i => r.off + r.stride * i))

/-- CTRL.CNT_CLR clears every live counter of page `p` of die `d` (R541, R542); LARR.LCOUNT lies in the lanes. -/
def State.cntClr (s : State) (d p : Nat) : State :=
  let s1 := (counterOffs d p).foldl (fun t o => t.setWord (key d (p * 4096 + o)) 0) s
  if 2 ≤ d ∧ 0x100 ≤ p ∧ p < 0x108 then
    (List.range 64).foldl (fun t i =>
      let l := 64 * (p - 0x100) + i
      t.setLane (d - 2) l { t.lane (d - 2) l with delivered := 0 }) s1
  else s1

/-- Whether page `p` of die `d` has its LOCK set. -/
def State.pageLocked (s : State) (d p : Nat) : Bool := s.bit d (F.HDR_LOCK_LOCK.page p)

/-- The W1C bits of STATUS: the three of R541, and TIMING_CLAMP of the MAC page (R273). -/
def statusBits (d p : Nat) : Nat := if d < 2 ∧ p = 0x020 then 0x107 else 7

/-- A write to a word of the common header (R541). -/
def State.writeHeader (s : State) (d r page off value : Nat) : State :=
  let k := key d (page * 4096 + off)
  let w := s.word k
  let v := Word.ofNat value
  match off with
  | 0x008 =>
    let s1 := s.put d (F.HDR_CTRL_SNAP_EXCL.page page) (value / 2 % 2)
    if value % 2 = 1 then s1.cntClr d page else s1
  | 0x00C => s.setWord k (w &&& ~~~(v &&& Word.ofNat (statusBits d page)))
  | 0x010 => State.irqEdge s (s.setWord k (w &&& ~~~v)) d page
  | 0x014 => State.irqEdge s (s.setWord k v) d page
  | 0x018 =>
    let a := key d (page * 4096 + 0x010)
    State.irqEdge s (s.setWord a (s.word a ||| v)) d page
  | 0x01C => s.setWord k (w &&& ~~~(v &&& Word.ofNat (2 ^ 31)))
  | 0x020 => if s.pageLocked d page then s.lockv d page off r else s.setWord k (Word.ofNat (value % 16))
  | 0x024 => s.setWord k (w &&& ~~~(v &&& 4))
  | 0x02C => if value % 2 = 1 then s.setWord k (w ||| 1) else s
  | _ => s

/-! ## Pending copies behind a selector -/

/-- Whether queue `q` is reserved in the variant (R316). -/
def State.queueReserved (s : State) (q : Nat) : Bool :=
  (decide (53 ≤ q) && decide (q < 64)) || (decide (137 ≤ q) && decide (q < 160)) || (decide (192 ≤ q) && decide (q < 256))
    || (decide (130 ≤ q) && decide (q < 136) && decide (s.sailCount ≤ q - 130))
    || (!s.redundant && ((decide (49 ≤ q) && decide (q < 53)) || (decide (160 ≤ q) && decide (q < 192))))

/-- A write of Q_CFG0 or Q_CFG1 goes to the pending copy of queue Q_SEL (R317, R333): class and priority of queues 0–255, and MIN and
MAX of reserved queues, are locked. -/
def State.writeQueue (s : State) (m r off value : Nat) : State :=
  let q := s.get m F.SALTERN_Q_SEL_QUEUE
  let S := (s.mast m).sal
  let x := S.queue q
  let (c, a, mn, mx) := x.pendCfg.getD (x.cls, x.aprio, x.min, x.max)
  let fixed := decide (q < 256)
  let rsv := s.queueReserved q
  let new : Nat × Nat × Nat × Nat :=
    if off = 0x074 then
      (if fixed then c else 1 + value / 2 ^ 31 % 2, if fixed then a else value / 2 ^ 28 % 4, if rsv then mn else value % 2 ^ 17, mx)
    else (c, a, mn, if rsv then mx else value % 2 ^ 18)
  let s1 := s.setSal m (S.setQueue q { x with pendCfg := some new })
  if rsv ∨ (fixed ∧ off = 0x074) then s1.lockv m 0x011 off r else s1

/-- A write of word `i` of channel entry CHAN_SEL (R249, R250): VALID, WIN and BIN of the sails are the device's own. -/
def State.writeChannel (s : State) (m i value : Nat) : State :=
  let M := (s.mast m).mac
  let n := s.get m F.MAC_CHAN_SEL_INDEX
  let old := M.chanPending n
  let c := Channel.ofBits (withWord old.bits i value)
  let sails := (List.range 6).map (fun k =>
    let o := old.sails.getD k (false, 0, 0, 0)
    (o.1, o.2.1, o.2.2.1, c.hyp k))
  s.setMac m { M with chansPend := Tbl.put M.chansPend n { c with sails := sails } }

/-- MAP_SEL.POS advances after an access to MAP_DATA when AUTO_INC is set (R272). -/
def State.mapStep (s : State) (m : Nat) : State :=
  if s.bit m F.MAC_MAP_SEL_AUTO_INC then s.put m F.MAC_MAP_SEL_POS ((s.get m F.MAC_MAP_SEL_POS + 1) % 1024) else s

/-- A write of MAP_DATA or MAP_CTL (R251). -/
def State.writeMap (s : State) (m off value : Nat) : State :=
  let M := (s.mast m).mac
  let n := s.get m F.MAC_MAP_SEL_MAP
  let x := M.mapPending n
  let y : ChanMap := if off = 0x088 then { x with entries := Tbl.set (fun _ => 0) x.entries (s.get m F.MAC_MAP_SEL_POS) (value % 1024) }
    else { x with len := value % 2048 }
  let s1 := s.setMac m { M with mapsPend := Tbl.put M.mapsPend n y }
  if off = 0x088 then s1.mapStep m else s1

/-- A write of a RING_ register goes to the pending copy of ring RING_SEL (R599). -/
def State.writeRing (s : State) (m off value : Nat) : State :=
  let n := s.get m F.PCIE_RING_SEL_RING
  let x := s.ring m n
  let c := x.pend.getD x.cfg
  let c1 : RingCfg := match off with
    | 0x048 => { c with base := withWord c.base 0 (value / 16 * 16) }
    | 0x04C => { c with base := withWord c.base 1 value }
    | 0x050 => { c with en := value.testBit 31, dir := value.testBit 30, sizeLog2 := value / 2 ^ 16 % 16, cls := value / 2 ^ 12 % 8,
                        vec := value / 2 ^ 6 % 64 }
    | _ => { c with coalUs := value / 2 ^ 16 % 2 ^ 16, coalCnt := value % 2 ^ 16 }
  let M := s.mast m
  s.setMast m { M with rings := Tbl.set (fun _ => Ring.reset) M.rings n { x with pend := some c1 } }

/-- A write to the RWB fields of a register (R553, R559): dropped with LOCKV while the page is armed, and for profile entries 0–7 (R172), else to the
pending copy. -/
def State.writePending (s : State) (d r page off value : Nat) (x : RegRow) : State :=
  if s.pageArmed d page ∨ s.profFixed d page then s.lockv d page off r
  else if 2 ≤ d then s.pendSail d page off value x
  else
    let s1 :=
      if d < 2 ∧ page = 0x011 ∧ (off = 0x074 ∨ off = 0x078) then s.writeQueue d r off value
      else if d < 2 ∧ page = 0x020 ∧ 0x074 ≤ off ∧ off < 0x084 then s.writeChannel d ((off - 0x074) / 4) value
      else if d < 2 ∧ page = 0x020 ∧ (off = 0x088 ∨ off = 0x08C) then s.writeMap d off value
      else if d < 2 ∧ page = 0x048 ∧ 0x048 ≤ off ∧ off < 0x058 then s.writeRing d off value
      else s.pendWord d page off value x
    s1.put d (F.HDR_PENDING_PEND.page page) 1

/-! ## Other words -/

/-- The high-water and low-water marks that a write of 1 clears (R54): their words on a mast. -/
def markWords : List Nat :=
  [0x004428, 0x004430, 0x006404, 0x0104D4, 0x018418, 0x019400, 0x02045C, 0x021408, 0x03045C, 0x03047C, 0x03049C, 0x03C408]

/-- A mark of a level starts again at the present level when it is cleared (log entry 23): ENTRIES_HWM, BITTERN_HWM, LEDGER_HWM and
PAIR.BUF_HWM. -/
def State.markAgain (s : State) (m a : Nat) : State :=
  let M := s.mast m
  match a with
  | 0x0104D4 => s.raise m F.HALYARD_ENTRIES_HWM_HWM M.hal.entries.length
  | 0x018418 => s.raise m F.NODETAB_BITTERN_HWM_HWM M.nt.bitternUse
  | 0x021408 => s.raise m F.DWELL_LEDGER_HWM_HWM M.mac.ledger.length
  | 0x004430 => s.raise m F.PAIR_BUF_HWM_KIB (min 16383 ((M.pair.bufBytes + 1023) / 1024))
  | _ => s

/-- The word of a register after software writes `v`: RW and WO fields take it, RWL fields unless locked, W1C bits written 1 clear. -/
def RegRow.merge (x : RegRow) (locked : Bool) (w v : Word) : Word :=
  let m := Word.ofNat x.rw ||| Word.ofNat x.wo ||| (if locked then 0 else Word.ofNat x.rwl)
  ((w &&& ~~~m) ||| (v &&& m)) &&& ~~~(v &&& Word.ofNat x.w1c)

/-- A write to the fields of a register other than RWB ones (R541–R546). -/
def State.writeFields (s : State) (d r page off value : Nat) (x : RegRow) : State :=
  let a := page * 4096 + off
  let k := if x.bank then bankKey r d a else key d a
  let locked := s.pageLocked d page
  let s1 := s.setWord k (x.merge locked (s.word k) (Word.ofNat value))
  if locked ∧ x.rwl ≠ 0 then s1.lockv d page off r else s1

/-- Vectors that a change of routing or enabling makes pending send their messages (R564). -/
def State.vecsEdge (before s : State) (m : Nat) : State :=
  ((List.range 64).filter (fun v => s.vecPending m v && !(before.vecPending m v))).foldl (fun t v => t.vecSend m v) s

/-- A write to a register of a mast whose effect its own rule states, or to a plain one (R306, R333, R410, R438, R449, R456, R511, R526, R564, R565,
R599). -/
def State.writeMast (s : State) (m r page off value : Nat) (x : RegRow) : State :=
  let plain (t : State) : State := t.writeFields m r page off value x
  let owner (f : State → State) : State := if s.privOf m (s.ctxOf m r) < 3 then s.deny m page off r true else f s
  let a := page * 4096 + off
  if markWords.contains a then
    (if value % 2 ^ 32 = 0 then s else (s.setWord (key m a) (resetWord (key m a))).markAgain m a)
  else match page with
    | 0x000 =>
      if off = 0x048 then
        let t := plain s
        if t.bit m F.SYS_WDT_EN ∧ s.bit m F.SYS_WDT_EN = false then t.setMast m { t.mast m with wdtAt := t.localNs m } else t
      else plain s
    | 0x002 => if 0x0C0 ≤ off ∧ off < 0x100 then owner plain else plain s
    | 0x003 => State.vecsEdge s (plain s) m
    | 0x011 =>
      let S := (s.mast m).sal
      if off = 0x408 then (if value % 2 ^ 18 = 0 then s else s.setSal m { S with brineLwm := S.brine })
      else if off = 0x414 then
        let q := s.get m F.SALTERN_Q_SEL_QUEUE
        if value.testBit 30 then s.setSal m (S.setQueue q { S.queue q with underrun := false }) else s
      else plain s
    | 0x018 =>
      if off = 0x040 ∨ off = 0x044 then
        (if (s.mast m).nt.count ≠ 0 ∨ (s.mast m).nt.rehash then s.lockv m page off r else plain s)
      else plain s
    | 0x032 =>
      let t := s.timersSync m
      if 0x040 ≤ off ∧ off < 0x240 ∧ off % 16 = 0 ∧ (off - 0x040) / 16 % 2 = 0 then
        t.writeFields m r page off (value - (if value.testBit 29 then 2 ^ 29 else 0)) x
      else plain t
    | 0x03A =>
      if off = 0x094 then
        let K := (s.mast m).keys
        let w := s.get m F.RSA_WIN_SEL_WORD
        let t := if s.bit m F.RSA_WIN_SEL_AREA then s else s.setKeys m { K with rsaIn := Tbl.set (fun _ => 0) K.rsaIn w (value % 2 ^ 32) }
        t.put m F.RSA_WIN_SEL_WORD ((w + 1) % 512)
      else plain s
    | 0x03D => if off = 0x040 then owner plain else plain s
    | 0x040 => if off = 0x058 then owner plain else plain s
    | 0x041 => if 0x0A0 ≤ off ∧ off < 0x0C0 then owner (fun t => (plain t).groupLocked m) else plain s
    | 0x048 =>
      if off = 0x408 then
        let n := s.get m F.PCIE_RING_SEL_RING
        if value.testBit 31 then s.setRing m n { s.ring m n with err := false } else s
      else plain s
    | _ =>
      if 0x130 ≤ page ∧ page < 0x138 ∧ page % 2 = 1 ∧ off = 0x040 then
        let p := (page - 0x131) / 2
        let cs := if value.testBit 31 then List.range 8 else [value % 8]
        cs.foldl (fun t c => (t.put m (gstat F.GSTAT_GATE_WAIT_HWM_HWM p c) 0).put m (gstat F.GSTAT_LAT_HWM_HWM p c) 0) s
      else plain s

/-- A write to a register of a sail whose effect its own rule states, or to a plain one (R94, R405, R410). -/
def State.writeSail (s : State) (k r page off value : Nat) (x : RegRow) : State :=
  let d := sailDie k
  let plain (t : State) : State := t.writeFields d r page off value x
  match page with
  | 0x000 => if off = 0x044 then plain (s.timersSync d) else plain s
  | 0x002 => if off = 0x0A0 then (plain s).spiClamp d else plain s
  | 0x021 =>
    let t := s.timersSync d
    if 0x040 ≤ off ∧ off < 0x0C0 ∧ off % 16 = 0 ∧ (off - 0x040) / 16 % 2 = 0 then
      t.writeFields d r page off (value - (if value.testBit 29 then 2 ^ 29 else 0)) x
    else plain t
  | _ => plain s

/-- A full-width, aligned write to a word of a listed page, which passes the privilege check: by regions (R540, R543) and types. -/
def State.writeWord (s : State) (d r page off value : Nat) : State :=
  if off < 0x040 then s.writeHeader d r page off value
  else if 0xC00 ≤ off then s
  else if 0x800 ≤ off then
    match rowOf d page (off - 0x800) with
    | some (x, _) => if x.rwb = 0 then s else s.writePending d r page (off - 0x800) value x
    | none => s
  else match rowOf d page off with
    | none => s
    | some (x, _) =>
      let s1 := if x.rwb = 0 then s else s.writePending d r page off value x
      if d < 2 then s1.writeMast d r page off value x else s1.writeSail (d - 2) r page off value x

/-! ## Accesses to a mast -/

/-- Whether a mast page is listed in the page index (R537, R539). -/
def mastListed (page : Nat) : Bool := mastPages.contains page

/-- A 32-bit write to a mast: a register that acts through the write, else the word. -/
def State.softWrite4 (s : State) (m r page off value : Nat) (body : Body) : State :=
  let other : State := s.writeWord m r page off value
  match page with
  | 0x000 => if off = 0x044 then s.accSysReset m r 4 value else if off = 0x04C then s.accWdtKick m r 4 value else other
  | 0x001 => if off = 0x040 then s.accGo m r 4 value else if off = 0x048 then s.accSnap m r 4 value else other
  | 0x002 =>
    if off = 0x0A8 then
      let s1 := if value.testBit 1 then s.accClose m r 4 else s
      let s2 := if value.testBit 0 then (if value.testBit 2 then s1.accOpenPassword m r 4 value else s1.accOpenOwner m r 4) else s1
      if value.testBit 3 then s2.accSetpw m r 4 value else s2
    else other
  | 0x003 =>
    if off = 0x300 then (let v := value % 64
                         if s.vecPending m v then s.vecSend m v else s)
    else other
  | 0x004 => if off = 0x048 then s.accPairCmd m r 4 value else other
  | 0x006 => if off = 0x044 then s.accThermConv m r 4 value else other
  | 0x008 => if off = 0x050 then s.accRetrain m r 4 value else if off = 0x048 then s.accFarWrite m r 4 value else other
  | 0x010 =>
    if off = 0x044 then s.accRelease m r 4 value
    else if off = 0x050 then s.accHalyardHwmClr m r 4 value
    else if 0x080 ≤ off ∧ off < 0x280 then s.accRole m r 4 ((off - 0x080) / 32) ((off - 0x080) / 4 % 8) value
    else if off = 0x320 then s.accDone m r 4 value
    else if off = 0x318 ∨ off = 0x31C then s.capture m page 0 1 r off
    else other
  | 0x011 =>
    if off = 0x080 then s.accSalternHwmClr m r 4 value
    else if off = 0x0BC then s.accFree m r 4 value
    else if off = 0x0B0 ∨ off = 0x0B4 then s.capture m page 0 1 r off
    else other
  | 0x018 =>
    if off = 0x05C then s.accRehashCtl m r 4 value
    else if off = 0x090 then
      match value % 16 with
      | 1 => s.accNodetabLookup m r 4
      | 2 => s.accNodetabInsert m r 4
      | 3 => s.accNodetabDelete m r 4
      | 4 => s.accNodetabFree m r 4
      | 5 => s.accShortSet m r 4
      | 6 => s.accShortClr m r 4
      | 7 => s.accSetPort m r 4
      | 8 => s.accNodetabMove m r 4 []
      | _ => s.ntCommand m r 4 (fun t => (.badArg, t))
    else other
  | 0x030 =>
    if 0x080 ≤ off ∧ off < 0x140 then
      let x := (off - 0x080) / 0x40 + 1
      let o := (off - 0x080) % 0x40
      if o = 0x2C then s.accTimeCtl m r 4 x value
      else if o = 0x18 ∨ o = 0x1C then s.capture m page 0 1 r off
      else other
    else other
  | 0x032 => if off = 0x240 ∨ off = 0x244 then s.accGroup m r 4 off value else other
  | 0x038 =>
    if off = 0x104 then
      match value % 16 with
      | 1 => s.accDerive m r 4
      | 2 => s.accGenerate m r 4
      | 3 => s.accImport m r 4
      | 4 => s.accInvalidate m r 4
      | 5 => s.accKeyLock m r 4
      | 6 => s.accNodeSet m r 4
      | 7 => s.accNodeClear m r 4
      | 8 => s.accNodeRewrap m r 4
      | 9 => s.accPersist m r 4
      | _ => s.keyCommand m r 4 (fun t => (.badArg, t))
    else other
  | 0x039 => if off = 0x060 then s.accJobGo m r 4 value else other
  | 0x03A =>
    if off = 0x040 then
      match value % 16 with
      | 1 => s.accRsaLoad m r 4
      | 2 => s.accRsaSign m r 4
      | 3 => s.accRsaVerify m r 4
      | 4 => s.accRsaAttest m r 4
      | 5 => s.accRsaClear m r 4
      | _ => s.rsaCommand m r 4 (fun t => t.put m F.RSA_STATUS_RESULT 6)
    else other
  | 0x03B => if off = 0x044 then (let v := s.free
                                  v.2.accReseed m r 4 value (v.1 % 2 == 1)) else other
  | 0x03D => if off = 0x044 then s.accTamperAck m r 4 value else other
  | 0x040 =>
    if off = 0x040 then s.accUpdate m r 4 value
    else if off = 0x054 then s.accConfirm m r 4 value
    else if off = 0x05C then s.accReady m r 4 value
    else other
  | 0x041 => if off = 0x040 then s.accCampaign m r 4 value else other
  | 0x042 => if off = 0x044 then s.accNvCmd m r 4 value else other
  | 0x043 => if off = 0x044 then s.accFlash m r 4 value else other
  | _ => other

/-- A 64-bit, 8-aligned write to a mast (R544): a register of that width that acts through the write, else both words. -/
def State.softWrite8 (s : State) (m r page off value : Nat) (body : Body) : State :=
  if page = 0x011 ∧ off = 0x0B0 then s.accPush m r 8 value body
  else if page = 0x010 ∧ off = 0x318 then s.accGive m r 8 value body
  else if page = 0x030 ∧ 0x080 ≤ off ∧ off < 0x140 ∧ (off - 0x080) % 0x40 = 0x18 then s.accTimeSample m r 8 ((off - 0x080) / 0x40 + 1) value
  else if page = 0x032 ∧ off = 0x240 then s.accGroup m r 8 0x240 value
  else if page = 0x008 ∧ off = 0x048 then s.accFarWrite m r 8 value
  else (s.softWrite4 m r page off (value % 2 ^ 32) body).softWrite4 m r page (off + 4) (value / 2 ^ 32 % 2 ^ 32) body

/-- Bytes `lo` to `lo + n − 1` of a word replaced. -/
def withBytes (w : Word) (lo n v : Nat) : Word := withField w (8 * (lo + n) - 1) (8 * lo) v

/-- A write of requester `r` of `width` bytes to page `page`, offset `off` of mast `m` (R444, R537, R544, R545); BAR2 lies beyond the offsets
of the PCIE page (R585). -/
def State.softWrite (s : State) (m r page off width value : Nat) (body : Body) : State :=
  if s.fitted m = false ∨ 2 ≤ m then s.unmapped 0 (m % 4 * 2 ^ 22 + page % 1024 * 4096 + off % 4096)
  else if mastListed page = false ∨ s.hidden m page r then s.unmapped m (m * 2 ^ 22 + page % 1024 * 4096 + off % 4096)
  else if page = 0x048 ∧ 0x1000 ≤ off then
    let n := (off - 0x1000) / 16 % 64
    if off % 16 = 0 then s.accTail m r width n value else if off % 16 = 8 then s.accAck m r width n value else s
  else if s.allowed m page off r true = false then s.deny m page off r true
  else if off % max 1 width ≠ 0 then s.capture m page 0 2 r off
  else if width = 4 then s.softWrite4 m r page off value body
  else if width = 8 then s.softWrite8 m r page off value body
  else if page = 0x000 ∧ 0x050 ≤ off ∧ off < 0x060 then
    let k := key m (off / 4 * 4)
    s.setWord k (withBytes (s.word k) (off % 4) width value)
  else s.capture m page 0 1 r off

/-- The state that an outcome leaves. -/
def outcomeState (o : Host.Outcome State Fault Refusal) (s : State) : State :=
  match o with
  | .next t => t
  | _ => s

/-- The side effect of a 32-bit read of a mast register that acts or latches (R249, R331, R343, R388, R401, R403, R406, R408, R445, R456, R458, R668);
a narrow read of a 64-bit one has none, with ACCERR and CAUSE 1. -/
def State.readEffect (s : State) (m r page off : Nat) : State :=
  match page with
  | 0x002 => if off = 0x400 then outcomeState (execNonceDraw m r 4 s) s else s
  | 0x010 => if off = 0x300 ∨ off = 0x304 then s.capture m page 0 1 r off else s
  | 0x011 =>
    if off = 0x0B8 then outcomeState (execSalternAlloc m r 4 s) s
    else if off = 0x098 ∨ off = 0x09C then s.capture m page 0 1 r off else s
  | 0x020 => if off = 0x088 then s.mapStep m else s
  | 0x030 =>
    if off = 0x410 then s.put m F.TIME_PPS_STATUS_FRESH 0
    else if 0x440 ≤ off ∧ off < 0x4A0 ∧ (off - 0x440) % 0x20 = 0 then
      let x := (off - 0x440) / 0x20 + 1
      s.setWord (key m (0x030000 + off + 8)) (Word.ofNat (s.domTime m x).2)
    else s
  | 0x031 =>
    if 0x400 ≤ off ∧ off < 0x480 ∧ off % 16 = 0 then s.setWord (bankKey 31 m (0x031000 + off + 8)) (s.word (key m (0x031000 + off + 8)))
    else s
  | 0x032 =>
    if 0x400 ≤ off ∧ off < 0x600 then
      (if off % 16 = 0 then outcomeState (execTcountRead m r 4 ((off - 0x400) / 16) s) s
       else if off % 16 = 8 then outcomeState (execTcapRead m r 4 ((off - 0x400) / 16) s) s else s)
    else s
  | 0x03A => if off = 0x094 then s.put m F.RSA_WIN_SEL_WORD ((s.get m F.RSA_WIN_SEL_WORD + 1) % 512) else s
  | 0x03B => if off = 0x400 then outcomeState (execDrbgOutRead m r 4 s) s else s
  | _ => s

/-- A 32-bit read of a listed page: what acts through the access leaves its value in the register first; what only latches or clears
follows the read. -/
def State.softRead4 (s : State) (m r page off : Nat) : Nat × State :=
  let t := s.readEffect m r page off
  if (page = 0x011 ∧ (off = 0x098 ∨ off = 0x09C)) ∨ (page = 0x010 ∧ (off = 0x300 ∨ off = 0x304)) then (0, t)
  else if (page = 0x002 ∧ off = 0x400) ∨ (page = 0x011 ∧ off = 0x0B8) ∨ (page = 0x03B ∧ off = 0x400) then ((t.readWord m r page off).toNat, t)
  else ((s.readWord m r page off).toNat, t)

/-- A 64-bit read of a listed page. -/
def State.softRead8 (s : State) (m r page off : Nat) : Nat × State :=
  let both (t : State) : Nat := (t.readWord m r page off).toNat + 2 ^ 32 * (t.readWord m r page (off + 4)).toNat
  if page = 0x011 ∧ off = 0x098 then
    let t := outcomeState (execSalternPop m r 8 0 s) s
    (both t, t)
  else if page = 0x010 ∧ off = 0x300 then
    let t := outcomeState (execHalyardTake m r 8 s) s
    (both t, t)
  else if page = 0x032 ∧ 0x400 ≤ off ∧ off < 0x600 ∧ off % 16 = 0 then
    let t := outcomeState (execTcountRead m r 8 ((off - 0x400) / 16) s) s
    (both t, t)
  else
    let a := s.softRead4 m r page off
    let b := a.2.softRead4 m r page (off + 4)
    (a.1 + 2 ^ 32 * b.1, b.2)

/-- A read of requester `r` of 4 or 8 bytes at page `page`, offset `off` of mast `m`: the value and the state (R444, R537, R545). -/
def State.softRead (s : State) (m r page off width : Nat) : Nat × State :=
  let ones := 2 ^ (8 * width) - 1
  if s.fitted m = false ∨ 2 ≤ m then (ones, s.unmapped 0 (m % 4 * 2 ^ 22 + page % 1024 * 4096 + off % 4096))
  else if mastListed page = false ∨ s.hidden m page r then (ones, s.unmapped m (m * 2 ^ 22 + page % 1024 * 4096 + off % 4096))
  else if s.allowed m page off r false = false then (0, s.deny m page off r false)
  else if off % max 1 width ≠ 0 then (ones, s.capture m page 0 2 r off)
  else if width = 8 then s.softRead8 m r page off else s.softRead4 m r page off

/-! ## Accesses at a sail (R549, R551) -/

/-- A 32-bit write at sail `k` by the far pair. -/
def State.sailWrite4 (s : State) (k page off value : Nat) : State :=
  let other : State := s.writeWord (sailDie k) 18 page off value
  match page with
  | 0x000 => if off = 0x040 then s.accSsysReset k 18 4 value else other
  | 0x004 => if off = 0x154 then s.accFuseGo k 18 4 value else other
  | 0x00B => if off = 0x050 then s.accLaneHwmClr k 18 4 value else other
  | 0x018 => if off = 0x064 then s.accAbort k 18 4 value else other
  | 0x021 => if off = 0x240 ∨ off = 0x244 then s.accGroup (sailDie k) 18 4 off value else other
  | _ => other

/-- A far write at sail `k` (R544, R545, R549): `wide` for both words of an 8-aligned pair. -/
def State.sailWrite (s : State) (k page off : Nat) (wide : Bool) (value : Nat) : State :=
  if sailPages.contains page = false then s
  else if off % (if wide then 8 else 4) ≠ 0 then s.capture (sailDie k) page 0 2 18 off
  else if wide then (s.sailWrite4 k page off (value % 2 ^ 32)).sailWrite4 k page (off + 4) (value / 2 ^ 32 % 2 ^ 32)
  else s.sailWrite4 k page off (value % 2 ^ 32)

/-- A 32-bit far read at sail `k`; TCOUNT and TCAP act through the read (R401, R403). -/
def State.sailRead4 (s : State) (k page off : Nat) : Nat × State :=
  let d := sailDie k
  let t := if page = 0x021 ∧ 0x400 ≤ off ∧ off < 0x480 then
      (if off % 16 = 0 then outcomeState (execTcountRead d 18 4 ((off - 0x400) / 16) s) s
       else if off % 16 = 8 then outcomeState (execTcapRead d 18 4 ((off - 0x400) / 16) s) s else s)
    else s
  ((s.readWord d 18 page off).toNat, t)

/-- A far read at sail `k`. -/
def State.sailRead (s : State) (k page off : Nat) (wide : Bool) : Nat × State :=
  if sailPages.contains page = false then (0, s)
  else if off % (if wide then 8 else 4) ≠ 0 then ((if wide then 2 ^ 64 - 1 else 2 ^ 32 - 1), s.capture (sailDie k) page 0 2 18 off)
  else if wide then
    let a := s.sailRead4 k page off
    let t := if page = 0x021 ∧ 0x400 ≤ off ∧ off < 0x480 ∧ off % 16 = 0 then a.2 else s
    let b := a.2.sailRead4 k page (off + 4)
    (a.1 + 2 ^ 32 * (if page = 0x021 then (t.readWord (sailDie k) 18 page (off + 4)).toNat else b.1), b.2)
  else s.sailRead4 k page off

/-- The outcome of an access to a page (R551, R594), 0 OK, 1 ACCERR, 2 PRIVD, 3 LOCKV, from the STATUS bits that it sets; the bits set before
stay set, but for a reset of the die. -/
def State.withOutcome (s : State) (d page : Nat) (resets : Bool) (f : State → State) : Nat × State :=
  let k := key d (page * 4096 + 0x00C)
  let old := s.word k
  let t := f (s.setWord k (old &&& ~~~(7 : Word)))
  let b := (t.word k).toNat % 8
  (if b.testBit 0 then 1 else if b.testBit 2 then 2 else if b.testBit 1 then 3 else 0, if resets then t else t.setWord k (t.word k ||| old))

/-! ## The commands -/

/-- REGISTER_WRITE (R553): a write to a register by requester `r` on mast `m`, where 2 is the address of the active mast; or a core's store to a record of its
node store or to shared core memory, whose bytes are numbered from its start (R24, R610). -/
def execRegisterWrite (m r : Nat) (w : WriteTarget) (s : State) : Host.Outcome State Fault Refusal :=
  .next (match w with
    | .reg page off width value body => s.hostOn m r page off width value body (fun m t => t.softWrite m r page off width value body)
    | .record n off width v =>
      if s.fitted m = false ∨ 2 ≤ m ∨ 16 ≤ r ∨ 131072 ≤ n ∨ 256 ≤ off ∨ 8 < width ∨ 16 < off % 16 + width then s
      else if 80 ≤ off ∧ off < 128 then (s.bump m F.KEYS_DIRECT_WR).emit (.busError m r)
      else s.setMast m ((s.mast m).setNode n (((s.mast m).node n).store 0 off width v))
    | .core addr width v => if s.fitted m ∧ m < 2 ∧ r < 16 ∧ width ≤ 8 ∧ addr + width ≤ 0xA00000 then s.setMast m ((s.mast m).setCore addr width v) else s)

/-- CNT_CLR (R541): a write of CTRL with CNT_CLR = 1 (SNAP_EXCL as written) to a page of mast `m`. -/
def execCntClr (m r page : Nat) (excl : Bool) (s : State) : Host.Outcome State Fault Refusal :=
  let v := (if excl then 2 else 0) + 1
  .next (s.hostOn m r page 0x008 4 v .empty (fun m t => t.softWrite m r page 0x008 4 v .empty))

/-- IRQ_FORCE (R541): a write of IRQ_FORCE of a page of mast `m`. -/
def execIrqForce (m r page value : Nat) (s : State) : Host.Outcome State Fault Refusal :=
  .next (s.hostOn m r page 0x018 4 value .empty (fun m t => t.softWrite m r page 0x018 4 value .empty))

/-- PAGE_LOCK (R541, R546): a write of 1 to LOCK of a page of mast `m`. -/
def execPageLock (m r page : Nat) (s : State) : Host.Outcome State Fault Refusal :=
  .next (s.hostOn m r page 0x02C 4 1 .empty (fun m t => t.softWrite m r page 0x02C 4 1 .empty))

/-- UNMAPPED_ACCESS (R537): an access that reaches mast `m` and names SPACE 0b11, mast B on NLY-S2-E or a page that is not listed; a read returns
0xFFFF_FFFF. -/
def execUnmappedAccess (m r addr : Nat) (write : Bool) (s : State) : Host.Outcome State Fault Refusal :=
  let space := addr / 2 ^ 22 % 4
  let off := decide (space = 3) || (decide (space = 1) && !s.redundant) || !(mastListed (addr / 4096 % 1024))
  .next (
    if s.fitted m = false ∨ 2 ≤ m ∨ off = false then s
    else
      let t := s.unmapped m (addr % 2 ^ 24)
      if write then t else t.emit (.read m r [2 ^ 32 - 1]))

/-- VEC_EOI (R564): a write of IRQ.VEC_EOI. -/
def execVecEoi (m r width value : Nat) (s : State) : Host.Outcome State Fault Refusal :=
  .next (s.hostOn m r 0x003 0x300 width value .empty (fun m t => t.softWrite m r 0x003 0x300 width value .empty))

end Sys2Proof.Machine
end

