-- ==== Sys2Proof/Machine/Far.lean ====
section
/-! DEFINITION. The commands of the far-register pair (R549–R552): accesses of FAR_DATA, the packets at the sail and their answers. -/

namespace Sys2Proof.Machine

/-- FAR_DATA_READ (R549, R550): a read of TATRUM.FAR_DATA by requester `r` of mast `m`, 4 or 8 bytes wide. -/
def execFarDataRead (m r width : Nat) (s : State) : Host.Outcome State Fault Refusal := .next (s.accFarRead m r width)

/-- FAR_DATA_WRITE (R549–R551): a write of TATRUM.FAR_DATA. -/
def execFarDataWrite (m r width value : Nat) (s : State) : Host.Outcome State Fault Refusal :=
  .next (s.hostOn m r 0x008 0x048 width value .empty (fun m t => t.accFarWrite m r width value))

/-! ## At the sail -/

/-- FAR_RESP of sail `k` to the far access numbered `tag` of mast `m` (R16, R19, R551): its outcome and value (log entry 152). -/
def State.answerFar (s : State) (k m tag outcome value : Nat) : State :=
  (message 0x06 tag (leBytes 4 outcome ++ leBytes 8 value)).foldl (fun t p => t.answer k m p) s

/-- FAR_READ (R16, R549): the far read numbered `tag` of mast `m` reaches sail `k`; either mast's is answered (R486). -/
def execFarReadPacket (k m tag page off : Nat) (wide : Bool) (hdr : List LinkPkt) (s : State) : Host.Outcome State Fault Refusal :=
  let r := s.arrive k m 0x04 hdr
  .next (
    if r.1 = false then r.2
    else
      let old := r.2.word (key (sailDie k) (page * 4096 + 0x00C))
      let x := r.2.sailRead k page off wide
      let bad := sailPages.contains page && ((x.2.word (key (sailDie k) (page * 4096 + 0x00C)) &&& ~~~old) &&& 1 != 0 || off % (if wide then 8 else 4) != 0)
      x.2.answerFar k m tag (if bad then 1 else 0) x.1)

/-- FAR_WRITE (R16, R549, R551): the far write numbered `tag` of mast `m` reaches sail `k`, which answers with its outcome. -/
def execFarWritePacket (k m tag page off : Nat) (wide : Bool) (value : Nat) (hdr : List LinkPkt) (s : State) : Host.Outcome State Fault Refusal :=
  let a := s.accepts k m 0x05 tag (.nums [page, off, if wide then 1 else 0, value % 2 ^ 32, value / 2 ^ 32 % 2 ^ 32]) hdr
  .next (
    if a.1 = false then a.2
    else
      let x := a.2.withOutcome (sailDie k) page (page == 0x000 && off == 0x040) (fun t => t.sailWrite k page off wide value)
      x.2.answerFar k m tag x.1 0)

/-! ## Answers -/

/-- A far read of mast `m` is complete with `value`: FAR_DATA of its requester holds it, and it is returned, over the management port with
`status` (R549, R552, R594). -/
def State.farComplete (s : State) (m : Nat) (q : FarReq) (status value : Nat) : State :=
  let words := if q.wide then [value % 2 ^ 32, value / 2 ^ 32 % 2 ^ 32] else [value % 2 ^ 32]
  let t := s.bput64 q.req m F.TATRUM_FAR_DATA_DATA (if q.wide then value % 2 ^ 64 else value % 2 ^ 32)
  t.emit (if q.req = 17 then .mgmt status words else .read m q.req words)

/-- The far access numbered `tag` of mast `m`. -/
def State.farOf (s : State) (m tag : Nat) : Option FarReq := (s.mast m).far.find? (fun q => q.tag == tag)

/-- The far access numbered `tag` is over; those that wait leave, and so do the commits that waited for it (R551, R557). -/
def State.farEnd (s : State) (m tag : Nat) : State :=
  let s1 := s.setMast m { s.mast m with far := (s.mast m).far.filter (fun q => q.tag != tag) }
  (s1.farRelease m).sendRuns m

/-- FAR_RESP at mast `m` (R551, R552): the outcome and value of far access `tag` at sail `k`; a response that answers nothing is discarded. -/
def State.farResp (s : State) (m k tag outcome lo hi : Nat) : State :=
  match s.farOf m tag with
  | none => s
  | some q =>
    if q.sail ≠ k then s
    else if q.write then
      let s1 :=
        if outcome = 0 then s
        else
          let t := s.bput q.req m F.TATRUM_FAR_STATUS_ERR 1
          if t.get m (F.HDR_ERR_CAPTURE_VALID.page 0x008) = 1 then t
          else t.setWord (key m 0x00801C) (Word.ofNat (2 ^ 31 + 6 * 2 ^ 28 + q.req % 32 * 2 ^ 23 + 0x048))
      s1.farEnd m tag
    else (s.farComplete m q outcome (lo + 2 ^ 32 * hi)).farEnd m tag

/-- FAR_RESP (R16, R551): the answer of sail `k` to far access `tag` of mast `m`. -/
def execFarResp (m k tag outcome lo hi : Nat) (hdr : List LinkPkt) (s : State) : Host.Outcome State Fault Refusal :=
  .next (
    if s.fitted m = false ∨ 2 ≤ m ∨ s.hasSail k = false then s
    else
      let r := s.receive (connId m k) true 0x06 hdr
      if r.1 = false then r.2
      else match r.2.mirror m (.farResp k tag outcome lo hi) 0 with
        | some t => t.farResp m k tag outcome lo hi
        | none => s)

/-- FAR_TIMEOUT (R552): 50 µs without an answer to far access `tag` of mast `m`. -/
def execFarTimeout (m tag : Nat) (s : State) : Host.Outcome State Fault Refusal :=
  .next (match s.farOf m tag with
    | none => s
    | some q =>
      let s1 := ((s.bput q.req m F.TATRUM_FAR_STATUS_TIMEOUT 1).bump m F.TATRUM_FAR_TIMEOUT).irq m 0x008 8
      let s2 := if q.req = 17 ∧ q.write = false then s1.bump m F.MGMT_TIMEOUT else s1
      (if q.write then s2 else s2.farComplete m q 7 (if q.wide then 2 ^ 64 - 1 else 2 ^ 32 - 1)).farEnd m tag)

end Sys2Proof.Machine
end

