-- ==== Sys2Proof/Machine/Tick.lean ====
section
/-! DEFINITION. The slot tick (R36–R42): the tick-aligned actions of each die in their fixed order, and the TICK packets that announce a
tick. -/

namespace Sys2Proof.Machine

/-! ## The tick of a mast -/

/-- The SLOT_END message of the slot that the active mast's tick closes (R467, R468): the last input of the slot.  A retraining connection
holds it. -/
def State.sendSlotEnd (s : State) (m closed : Nat) : State :=
  if m ≠ s.active ∨ s.mirroring = false then s
  else
    let P := (s.mast m).pair
    let n := P.inseq + 1
    let s1 := (s.setPair m { P with inseq := n }).put64 m F.PAIR_INSEQ_SEQ n
    (s1.bump m F.PAIR_MIRRORED).sendOn 6 (decide (m = 1)) (s.mirrorMsg m n (.slotEnd closed) (s.localNs m))

/-- The output counts and the last input of the closed slot, as the active mast latches them at its tick (R472). -/
def State.latchCounts (s : State) (m : Nat) : State :=
  if m ≠ s.active then s
  else s.setPair m { (s.mast m).pair with latched := s.outCounts m, latchSeq := (s.mast m).pair.inseq }

/-- Action 1 of R41 on a mast: MESH opens its next slot, whose ASN a mast that is not active takes from the TICK packet it holds;
positions go on by the slot that closes. -/
def State.mastAsn (s : State) (m : Nat) : State :=
  let closed := (s.mast m).asn
  let told := if m = s.active then none else (s.mast m).nextTick
  let base := (s.mast m).posTick
  let s1 := s.meshTick m
  let M := s1.mast m
  let s2 := s1.setMast m
    { M with
        asn := (told.map Prod.fst).getD M.asn, nextTick := none, tickSent := none, posPrev := base, asnPrev := closed,
        posTick := base + s.slotUnits m }
  (s2.sendSlotEnd m closed).latchCounts m

/-- The slot length that a tick puts into effect (R36, R38); the clamps are judged again when it changes (R46). -/
def State.takeSlotLen (s : State) (m : Nat) : State :=
  let v := s.get m F.TIME_MESH_CFG_SLOT
  let M := s.mast m
  if v = 3 ∨ v = M.slotSel then s else (s.setMast m { M with slotSel := v }).timingClamp m

/-- A takeover at the tick (action 4 of R41): a mast whose role changes starts its digest ranges afresh, and a mast that becomes active sends
the commits that wait. -/
def State.roleTick (s : State) (m : Nat) : State :=
  let t := s.takeoverAt m
  if t.bit m F.PAIR_ROLE_ACTIVE = s.bit m F.PAIR_ROLE_ACTIVE then t
  else
    let M := t.mast m
    (t.setMast m { M with outLog := [], pair := { M.pair with latched := t.outCounts m, latchSeq := M.pair.inseq } }).sendRuns m

/-- The tick of mast `m`: actions 1 to 4, 6, 7, 8 and 9 of R41 in their order, and what else a tick makes of an update (R512–R516) and of
plans from before a takeover (R483). -/
def State.mastTick (s : State) (m : Nat) : State :=
  let s1 := ((s.mastAsn m).tickSnaps m).tickCommits m
  let s2 := (s1.setMac m { (s1.mast m).mac with mapsOld := [] }).takeSlotLen m
  let s3 := (s2.updTick m).roleTick m
  ((((s3.reefTick m).mastRevert m).withdrawTick m).oldLaunches m).grantSlot m

/-! ## The tick of a sail -/

/-- Action 1 of R41 on a sail: the slot of the TICK packet it holds, or of the tick it makes itself (R40). -/
def State.sailAsn (s : State) (k asn time : Nat) : State :=
  let x := s.sail k
  s.setSail k { x with asn := asn, tickPrev := x.tickNow, tickNow := time, ticked := true, nextTick := none }

/-- What a commit leaves for the tick takes effect (R69, R80, R129, R226, R244, R556): window controls, the transmit window unless a frame holds it,
and every other word. -/
def State.sailSettle (s : State) (k : Nat) : State :=
  let d := sailDie k
  let s1 := (s.setSail k { s.sail k with prev := [] }).retuneWindows k
  let x := s1.sail k
  if (s1.word (key d F.TXP_WIN_CTL_CENTRE.addr)).toNat = x.txRun then s1
  else if x.committed = [] then s1.applyRetune k
  else s1.put d F.TXP_ONAIR_RETUNE_PEND 1

/-- Action 5 of R41 for an aerial with AUTO = 0: the manual gain state, if its entry is valid (R74, R80). -/
def State.manualGain (s : State) (k aer : Nat) : State :=
  let d := sailDie k
  let g := s.get d (agc aer F.ADC_AGC_CFG_STATE_MAN)
  if s.bit d (agc aer F.ADC_AGC_CFG_AUTO) = false ∧ s.gainValid d g ∧ s.adcOn k aer ∧ s.get d (gainState aer) ≠ g then s.enterGain k aer g else s

/-- What a slot's end does to a sail's counts: clipped samples and peaks (R75, R78), the age of the predistortion set (R222), and
LANE_STARVED may be raised again. -/
def State.sailClose (s : State) (k : Nat) (a : AdcSlot) : State :=
  let d := sailDie k
  let s1 := (s.closeSlotGain k 0 a.clipA a.maskA a.peakA).closeSlotGain k 1 a.clipB a.maskB a.peakB
  (s1.setSail k { s1.sail k with clipped := 0, starved := false }).bump d F.TRIM_PD_AGE_AGE

/-- Detectors and carriers resume at the first tick after relock (R63). -/
def State.sailResume (s : State) (k : Nat) : State :=
  let x := s.sail k
  if x.relocked then s.setSail k { x with clockLost := false, relocked := false } else s

/-- The tick of sail `k` at LOCAL time `time` that opens slot `asn`: actions 1, 2, 3, 5, 6 and 7 of R41. -/
def State.sailTick (s : State) (k asn time : Nat) (a : AdcSlot) : State :=
  let s1 := (((s.sailClose k a).sailAsn k asn time).tickPrepared k).sailSettle k
  ((((s1.manualGain k 0).manualGain k 1).sailResume k).sailReefTick k).sailRevert k

/-- SLOT_TICK (R41): the tick of die `d`; for a sail, with what its ADCs saw in the slot that closes.  A sail's tick needs its TICK packet or
TICK_FREERUN (R40). -/
def execSlotTick (d : Nat) (a : AdcSlot) (s : State) : Host.Outcome State Fault Refusal :=
  .next (
    if s.fitted d = false then s
    else if d < 2 then s.mastTick d
    else match (s.sail (d - 2)).nextTick with
      | some (asn, time) => if (s.sail (d - 2)).gated then s else s.sailTick (d - 2) asn time a
      | none => s)

/-! ## TICK packets (R39) -/

/-- The instant, in half ns, of mast `m`'s next tick. -/
def State.tickInstant (s : State) (m : Nat) : Nat := s.now + 2 * (s.nextTickNs m - s.localNs m)

/-- TICK_PACKET_SEND (R39): the active mast `m` tells every fitted sail that runs, and the peer mast, the LOCAL time of each at the next tick and
the ASN of its slot.  TICK packets are no digested output (R471). -/
def execTickPacketSend (m : Nat) (s : State) : Host.Outcome State Fault Refusal :=
  .next (
    if s.fitted m = false ∨ m ≠ s.active then s
    else
      let n := (s.nextSlot m).1
      let T := s.tickInstant m
      let s1 := s.setMast m { s.mast m with tickSent := some n }
      let s2 := (s.sailList.filter (fun k => !(s.sail k).gated)).foldl (fun t k =>
        t.sendOn (connId m k) false (message 0x07 (n % 2 ^ 32) (leBytes 8 ((T - (s.sail k).clkBase) / 5)))) s1
      if s.redundant then s2.sendOn 6 (decide (m = 1)) (message 0x07 (n % 2 ^ 32) (leBytes 8 ((T - (s.mast (1 - m)).clk.base) / 2))) else s2)

end Sys2Proof.Machine
end

