-- ==== Sys2Proof/Machine/JuryMgmt.lean ====
section
/-! DEFINITION. The management port (R594, R595), and the jury's execution of the inputs that the active mast mirrors (R467–R470). -/

namespace Sys2Proof.Machine

/-! ## A frame of the management port -/

/-- A FRAME request's bytes are given to FROM_PARTNER on account 45 with PORT 12 and sluice 32 (R372, R594); refused by admission, nothing
happens.  Whether it was admitted, and the state. -/
def State.mgmtFrame (s : State) (m len stamp : Nat) (k : Packet) : Bool × State :=
  match s.allocItem m 45 len (.packet k none) with
  | none => (false, s)
  | some (c, s1) =>
    let d := { s1.hostDesc m c len 0 with stamp := stamp % 2 ^ 48 }
    let S := (s1.mast m).sal
    let s2 := ((s1.setSal m (S.setItem c { S.item c with desc := d, dest := some 32, frameLen := len })).bump m F.MGMT_FRAMES)
    (true, s2.giveHw m .mgmt d)

/-! ## The jury (R470) -/

/-- Whether a mirrored write is one that each mast acts on by itself: PAIR.CMD and SYS.RESET, and the port pages (R538). -/
def ownWrite (page off : Nat) : Bool := (page == 0x004 && off == 0x048) || (page == 0x000 && off == 0x044) || portPage page

/-- The flash read data that the active mast mirrors end the jury's read of that address (R467, R631). -/
def State.flashData (s : State) (j addr data : Nat) : State :=
  match (s.mast j).nv.flashOp with
  | some o => if o.op = 1 ∧ o.addr = addr then ((s.flashBuffer j (leBytes 256 data)).bump j F.FLASH_READS).flashEnd j 0 else s
  | none => s

/-- What an input does at the jury `j`; none while admission holds its frame. -/
def State.runInput (s : State) (j stamp : Nat) : Input → Option State
  | .frameUp k _ _ md f => s.frameUp j k md f stamp
  | .txDone k r => some (s.txDone j k r)
  | .advice k w => some (s.advice j k w)
  | .farResp k tag o lo hi => some (s.farResp j k tag o lo hi)
  | .sailIrq k p => some (s.sailIrq j k p)
  | .ethFrame p st raw e => some (s.acceptEth j (p % 4) (decide (4 ≤ p)) st raw e stamp)
  | .ringFrame r len user k => some (s.serveTx j r len user stamp k)
  | .mgmtFrame len k => some (s.mgmtFrame j len stamp k).2
  | .ptp w => some (s.event j .ptpTx 14 w)
  | .regWrite r page off width value body => some (if ownWrite page off then s else s.softWrite j r page off width value body)
  | .ext 0 t c => some (s.capTimer j t c)
  | .ext 2 x e => some (s.servo j x (signed 64 e))
  | .ext _ _ _ => some s
  | .drbg v => some (s.setPair j { (s.mast j).pair with drbgIn := (s.mast j).pair.drbgIn ++ [v] })
  | .data 0 f v => some (s.feedSample j f (v / 2 ^ 24) (v / 2 ^ 12 % 2 ^ 12) (v % 2 ^ 12))
  | .data 1 f st => some (s.feedEnter j f st)
  | .data 2 a v => some (s.flashData j a v)
  | .data 3 0 v => some (s.thermTemp j (signed 16 v))
  | .data 3 _ v => some (s.thermRails j ((List.range 4).map (fun i => signed 16 (v / 2 ^ (16 * i)))))
  | .data _ _ _ => some s
  | .slotEnd asn => some (s.setPair j { (s.mast j).pair with slotEnd := some asn })

/-- The DRBG values that follow input `n` at once, which it draws (R434, R467). -/
def drbgAfter (l : List Mirrored) (n : Nat) : Nat → List Nat
  | 0 => []
  | fuel + 1 =>
    match l.find? (fun x => x.inseq == n + 1) with
    | some ⟨_, _, .drbg v⟩ => v :: drbgAfter l (n + 1) fuel
    | _ => []

/-- JURY_INPUT_EXECUTE (R470): the jury `j` executes the input whose INSEQ is next.  SLOT_END is such an input, so that no input of a slot comes
before the SLOT_END of the slot before it. -/
def execJuryInputExecute (j : Nat) (s : State) : Host.Outcome State Fault Refusal :=
  .next (
    if s.jury j = false ∨ (s.pairState j = 2 ∧ s.xferPhase j ≠ 3) then s
    else
      let P := (s.mast j).pair
      match P.buffer.find? (fun x => x.inseq == P.inseq + 1) with
      | none => s
      | some x =>
        let vs := match x.input with
          | .drbg _ => []
          | _ => drbgAfter P.buffer x.inseq P.buffer.length
        let last := x.inseq + vs.length
        let s1 := s.setPair j { P with inseq := last, drbgIn := P.drbgIn ++ vs,
                                       buffer := P.buffer.filter (fun y => decide (last < y.inseq)) }
        match (s1.put64 j F.PAIR_INSEQ_SEQ last).runInput j x.stamp x.input with
        | some t => t
        | none => s)

/-! ## Requests of the management port (R594, R595) -/

/-- The mast that SPACE of an address names (R535, R536). -/
def State.spaceMast (s : State) (addr : Nat) : Nat := if addr / 2 ^ 22 % 4 = 2 then s.active else addr / 2 ^ 22 % 4

/-- Whether an address reaches a page for the management port (R537, R609). -/
def State.delivered (s : State) (addr : Nat) : Bool :=
  let t := s.spaceMast addr
  decide (t < 2) && s.fitted t && mastListed (addr / 4096 % 1024) && !s.hidden t (addr / 4096 % 1024) 17

/-- The words of a response. -/
def mgmtWords (wide : Bool) (v : Nat) : List Nat := if wide then [v % 2 ^ 32, v / 2 ^ 32 % 2 ^ 32] else [v % 2 ^ 32]

/-- A read request at mast `m`'s port.  A far read is answered when it completes (R552). -/
def State.mgmtRead (s : State) (m : Nat) (wide : Bool) (addr : Nat) : State :=
  let w := if wide then 8 else 4
  let t := s.spaceMast addr
  let page := addr / 4096 % 1024
  let off := addr % 4096
  if s.delivered addr = false then (s.unmapped m (addr % 2 ^ 24)).emit (.mgmt 1 (mgmtWords wide (2 ^ 64 - 1)))
  else if page = 0x008 ∧ off = 0x048 then
    let u := s.accFarRead t 17 w
    if s.allowed t page off 17 false then u else u.emit (.mgmt 2 (mgmtWords wide 0))
  else
    let v := (s.softRead t 17 page off w).1
    let x := s.withOutcome t page false (fun u => (u.softRead t 17 page off w).2)
    x.2.emit (.mgmt x.1 (mgmtWords wide v))

/-- Whether a write input of the management port is held, because the pair's connection takes none (R469). -/
def State.inputHeld (s : State) : Bool := s.mirroring && (s.conn 6).state != 2

/-- A write request at mast `m`'s port: the write, and the outcome that the page gives (R538, R551, R594). -/
def State.mgmtWrite (s : State) (m : Nat) (wide : Bool) (addr value : Nat) : State :=
  let w := if wide then 8 else 4
  let t := s.spaceMast addr
  let page := addr / 4096 % 1024
  let off := addr % 4096
  if s.delivered addr = false then (s.unmapped m (addr % 2 ^ 24)).emit (.mgmt 1 [])
  else if s.inputHeld then s
  else
    let resets := page == 0x000 && off == 0x044
    let at_ := if s.mirroring ∧ portPage page = false then s.active else t
    let code := (s.withOutcome at_ page resets (fun u => u.softWrite at_ 17 page off w value .empty)).1
    (s.hostOn t 17 page off w value .empty (fun d u => (u.withOutcome d page resets (fun x => x.softWrite d 17 page off w value .empty)).2)).emit
      (.mgmt code [])

/-- A FRAME request: an input of the active mast (R467). -/
def State.mgmtFrameReq (s : State) (len : Nat) (k : Packet) : State :=
  let a := s.active
  match s.mirror a (.mgmtFrame len k) (s.localNs a) with
  | none => s
  | some t =>
    let x := t.mgmtFrame a len (s.localNs a) k
    x.2.emit (.mgmt (if x.1 then 0 else 6) [])

/-- Whether a request path of mast `m`, SPI or UART, is enabled (R601). -/
def State.mgmtOn (s : State) (m : Nat) (uart : Bool) : Bool := s.bit m (if uart then F.MGMT_CFG_UART_EN else F.MGMT_CFG_SPI_EN)

/-- Whether a request of the management port is under way on mast `m`: a far read that has no answer yet (R594). -/
def State.mgmtBusy (s : State) (m : Nat) : Bool := ((s.mast m).far ++ (s.mast m).farHeld).any (fun q => q.req == 17 && !q.write)

/-- MGMT_REQUEST (R594): a request received whole over SPI or UART at mast `m`.  Requests execute one at a time. -/
def execMgmtRequest (m : Nat) (uart crcOk : Bool) (c : MgmtCmd) (s : State) : Host.Outcome State Fault Refusal :=
  .next (
    if s.fitted m = false ∨ 2 ≤ m ∨ s.mgmtOn m uart = false ∨ s.mgmtBusy 0 ∨ s.mgmtBusy 1 then s
    else
      let s1 := s.bump m F.MGMT_REQUESTS
      if crcOk = false then (s1.bump m F.MGMT_CRC_ERR).emit (.mgmt 4 [])
      else match c with
        | .read wide addr => s1.mgmtRead m wide addr
        | .write wide addr value => s1.mgmtWrite m wide addr value
        | .frame len k => if len = 0 ∨ 2047 < len then s1.emit (.mgmt 5 []) else s1.mgmtFrameReq len k
        | .unknown => s1.emit (.mgmt 5 []))

/-- MGMT_UART_GAP (R595): a gap of more than 20 bit times inside a request over UART discards it. -/
def execMgmtUartGap (m : Nat) (s : State) : Host.Outcome State Fault Refusal :=
  .next (if s.fitted m = false ∨ 2 ≤ m ∨ s.mgmtOn m true = false then s else s.bump m F.MGMT_FRAMING_ERR)

end Sys2Proof.Machine
end

