-- ==== Sys2Proof/Machine/Dispatch.lean ====
section
/-! DEFINITION. One arm per constructor of Instr, each a call of that command's meaning. -/

namespace Sys2Proof.Machine

/-- The effect of a command on everything but the queue of commands. -/
def exec (i : Instr) (s : State) : Host.Outcome State Fault Refusal :=
  match i with
  | .frameUp m k lane seq md f hdr => Sys2Proof.Machine.execFrameUp m k lane seq md f hdr s
  | .frameDown k m h frame hdr => Sys2Proof.Machine.execFrameDown k m h frame hdr s
  | .launch k m h desc hdr => Sys2Proof.Machine.execLaunch k m h desc hdr s
  | .farReadPacket k m tag page off wide hdr => Sys2Proof.Machine.execFarReadPacket k m tag page off wide hdr s
  | .farWritePacket k m tag page off wide value hdr => Sys2Proof.Machine.execFarWritePacket k m tag page off wide value hdr s
  | .farResp m k tag outcome lo hi hdr => Sys2Proof.Machine.execFarResp m k tag outcome lo hi hdr s
  | .tick d m time lo hdr => Sys2Proof.Machine.execTick d m time lo hdr s
  | .tickPacketSend m => Sys2Proof.Machine.execTickPacketSend m s
  | .commitPacket d m tag mask landAsn when_ snap hdr => Sys2Proof.Machine.execCommitPacket d m tag mask landAsn when_ snap hdr s
  | .cfoHint k m tag count len es hdr => Sys2Proof.Machine.execCfoHint k m tag count len es hdr s
  | .takeover k m epoch die hdr => Sys2Proof.Machine.execTakeover k m epoch die hdr s
  | .liveness k m tag hdr => Sys2Proof.Machine.execLiveness k m tag hdr s
  | .cmdUnknownKind k m tag payload hdr => Sys2Proof.Machine.execCmdUnknownKind k m tag payload hdr s
  | .txDone m k r hdr => Sys2Proof.Machine.execTxDone m k r hdr s
  | .adviceReceived m k bytes hdr => Sys2Proof.Machine.execAdviceReceived m k bytes hdr s
  | .sailIrqEvent m k pend hdr => Sys2Proof.Machine.execSailIrqEvent m k pend hdr s
  | .mirror j inseq stamp n hdr => Sys2Proof.Machine.execMirror j inseq stamp n hdr s
  | .juryInputExecute j => Sys2Proof.Machine.execJuryInputExecute j s
  | .digestMessage j asn digest inseq counts hdr => Sys2Proof.Machine.execDigestMessage j asn digest inseq counts hdr s
  | .heartbeat m role epoch state fault result asn hdr => Sys2Proof.Machine.execHeartbeat m role epoch state fault result asn hdr s
  | .statePacket j last hdr => Sys2Proof.Machine.execStatePacket j last hdr s
  | .portRelay m x hdr => Sys2Proof.Machine.execPortRelay m x hdr s
  | .linkctl c up l => Sys2Proof.Machine.execLinkctl c up l s
  | .linkReplayTimeout c up => Sys2Proof.Machine.execLinkReplayTimeout c up s
  | .linkctlKeepalive c up => Sys2Proof.Machine.execLinkctlKeepalive c up s
  | .retrainingComplete c => Sys2Proof.Machine.execRetrainingComplete c s
  | .retrainingTimeout c => Sys2Proof.Machine.execRetrainingTimeout c s
  | .tatrumRetrain m r width value => Sys2Proof.Machine.execTatrumRetrain m r width value s
  | .slotTick d a => Sys2Proof.Machine.execSlotTick d a s
  | .dedupGroupRetire m g => Sys2Proof.Machine.execDedupGroupRetire m g s
  | .nowAdvance m => Sys2Proof.Machine.execNowAdvance m s
  | .tickFreerun k => Sys2Proof.Machine.execTickFreerun k s
  | .stageSoftEnd d stage h => Sys2Proof.Machine.execStageSoftEnd d stage h s
  | .launchCutoff k asnLo start late => Sys2Proof.Machine.execLaunchCutoff k asnLo start late s
  | .frameLaunch k h => Sys2Proof.Machine.execFrameLaunch k h s
  | .txFrameEnd k h => Sys2Proof.Machine.execTxFrameEnd k h s
  | .ackCutoff m h => Sys2Proof.Machine.execAckCutoff m h s
  | .refclkLoss d ref => Sys2Proof.Machine.execRefclkLoss d ref s
  | .sampleClockLost k => Sys2Proof.Machine.execSampleClockLost k s
  | .refRelockStart d ref => Sys2Proof.Machine.execRefRelockStart d ref s
  | .relockComplete d => Sys2Proof.Machine.execRelockComplete d s
  | .localClockHold m => Sys2Proof.Machine.execLocalClockHold m s
  | .gainFastStep k aer => Sys2Proof.Machine.execGainFastStep k aer s
  | .gainTickRise k aer => Sys2Proof.Machine.execGainTickRise k aer s
  | .detectorResume k w => Sys2Proof.Machine.execDetectorResume k w s
  | .blankingStart k => Sys2Proof.Machine.execBlankingStart k s
  | .blankingEnd k => Sys2Proof.Machine.execBlankingEnd k s
  | .observationStart k h => Sys2Proof.Machine.execObservationStart k h s
  | .observationEnd k levels => Sys2Proof.Machine.execObservationEnd k levels s
  | .detectorFire k w bin aer metrics => Sys2Proof.Machine.execDetectorFire k w bin aer metrics s
  | .laneStarved k w bin hyp => Sys2Proof.Machine.execLaneStarved k w bin hyp s
  | .aerialSelect k l metricA metricB => Sys2Proof.Machine.execAerialSelect k l metricA metricB s
  | .acqTimeout k l => Sys2Proof.Machine.execAcqTimeout k l s
  | .preambleEndFound k l pre => Sys2Proof.Machine.execPreambleEndFound k l pre s
  | .ltfDecision k l ltf => Sys2Proof.Machine.execLtfDecision k l ltf s
  | .phrCheck k l phr => Sys2Proof.Machine.execPhrCheck k l phr s
  | .pilotTrackLost k l t => Sys2Proof.Machine.execPilotTrackLost k l t s
  | .sfdFound k l coded => Sys2Proof.Machine.execSfdFound k l coded s
  | .sfdTimeout k l => Sys2Proof.Machine.execSfdTimeout k l s
  | .frameDecodeEnd k l o => Sys2Proof.Machine.execFrameDecodeEnd k l o s
  | .laneDelivered k l => Sys2Proof.Machine.execLaneDelivered k l s
  | .advisorExamine k => Sys2Proof.Machine.execAdvisorExamine k s
  | .modulatorStart k h => Sys2Proof.Machine.execModulatorStart k h s
  | .txAbort k r width h => Sys2Proof.Machine.execTxAbort k r width h s
  | .txTimeoutCut k h => Sys2Proof.Machine.execTxTimeoutCut k h s
  | .dacCalStep k => Sys2Proof.Machine.execDacCalStep k s
  | .pdSolveDone k acr => Sys2Proof.Machine.execPdSolveDone k acr s
  | .pdetSample k mv => Sys2Proof.Machine.execPdetSample k mv s
  | .powerSense k temp vdac => Sys2Proof.Machine.execPowerSense k temp vdac s
  | .txRetuneApply k => Sys2Proof.Machine.execTxRetuneApply k s
  | .fuseGo k r width value => Sys2Proof.Machine.execFuseGo k r width value s
  | .fuseDone k => Sys2Proof.Machine.execFuseDone k s
  | .dutyRecordWrite m => Sys2Proof.Machine.execDutyRecordWrite m s
  | .laneIn m => Sys2Proof.Machine.execLaneIn m s
  | .dedup m => Sys2Proof.Machine.execDedup m s
  | .dedupGroupClose m g => Sys2Proof.Machine.execDedupGroupClose m g s
  | .ccmOpen m => Sys2Proof.Machine.execCcmOpen m s
  | .ackSenderChoice m g => Sys2Proof.Machine.execAckSenderChoice m g s
  | .replay m => Sys2Proof.Machine.execReplay m s
  | .ackBuild m => Sys2Proof.Machine.execAckBuild m s
  | .hcExpand m => Sys2Proof.Machine.execHcExpand m s
  | .nodeLearn m => Sys2Proof.Machine.execNodeLearn m s
  | .sluiceUp m => Sys2Proof.Machine.execSluiceUp m s
  | .classify m => Sys2Proof.Machine.execClassify m s
  | .toPartner m => Sys2Proof.Machine.execToPartner m s
  | .fromPartner m => Sys2Proof.Machine.execFromPartner m s
  | .routeWalk m => Sys2Proof.Machine.execRouteWalk m s
  | .hcCompress m => Sys2Proof.Machine.execHcCompress m s
  | .ccmSeal m => Sys2Proof.Machine.execCcmSeal m s
  | .linkQueue m => Sys2Proof.Machine.execLinkQueue m s
  | .macLaunch m work h => Sys2Proof.Machine.execMacLaunch m work h s
  | .ackJudgement m v => Sys2Proof.Machine.execAckJudgement m v s
  | .supervisionSweep m => Sys2Proof.Machine.execSupervisionSweep m s
  | .peerBeaconSlotEnd m p blanked => Sys2Proof.Machine.execPeerBeaconSlotEnd m p blanked s
  | .fcReserveDone m ok => Sys2Proof.Machine.execFcReserveDone m ok s
  | .campaignFrag m work => Sys2Proof.Machine.execCampaignFrag m work s
  | .digestStation m => Sys2Proof.Machine.execDigestStation m s
  | .nodetabLookup m r width => Sys2Proof.Machine.execNodetabLookup m r width s
  | .nodetabInsert m r width => Sys2Proof.Machine.execNodetabInsert m r width s
  | .nodetabDelete m r width => Sys2Proof.Machine.execNodetabDelete m r width s
  | .nodetabFree m r width => Sys2Proof.Machine.execNodetabFree m r width s
  | .shortSet m r width => Sys2Proof.Machine.execShortSet m r width s
  | .shortClr m r width => Sys2Proof.Machine.execShortClr m r width s
  | .setPort m r width => Sys2Proof.Machine.execSetPort m r width s
  | .nodetabMove m r width races => Sys2Proof.Machine.execNodetabMove m r width races s
  | .rehashStart m r width value => Sys2Proof.Machine.execRehashStart m r width value s
  | .rehashResume m r width value => Sys2Proof.Machine.execRehashResume m r width value s
  | .moverInterval m races => Sys2Proof.Machine.execMoverInterval m races s
  | .agerInterval m races => Sys2Proof.Machine.execAgerInterval m races s
  | .tableDirectWrite m r => Sys2Proof.Machine.execTableDirectWrite m r s
  | .salternPop m r width ecc => Sys2Proof.Machine.execSalternPop m r width ecc s
  | .salternPush m r width lo body => Sys2Proof.Machine.execSalternPush m r width lo body s
  | .salternAlloc m r width => Sys2Proof.Machine.execSalternAlloc m r width s
  | .salternFree m r width value => Sys2Proof.Machine.execSalternFree m r width value s
  | .salternHwmClr m r width value => Sys2Proof.Machine.execSalternHwmClr m r width value s
  | .pushTimeout m r => Sys2Proof.Machine.execPushTimeout m r s
  | .admissionHoldRelease m => Sys2Proof.Machine.execAdmissionHoldRelease m s
  | .pauseRefresh m p => Sys2Proof.Machine.execPauseRefresh m p s
  | .halyardGive m r width lo body => Sys2Proof.Machine.execHalyardGive m r width lo body s
  | .halyardTake m r width => Sys2Proof.Machine.execHalyardTake m r width s
  | .takeWake m => Sys2Proof.Machine.execTakeWake m s
  | .takeIrqRelease m c => Sys2Proof.Machine.execTakeIrqRelease m c s
  | .halyardRelease m r width cores => Sys2Proof.Machine.execHalyardRelease m r width cores s
  | .halyardDone m r width value => Sys2Proof.Machine.execHalyardDone m r width value s
  | .halyardRoleWrite m r width c n value => Sys2Proof.Machine.execHalyardRoleWrite m r width c n value s
  | .halyardHwmClr m r width value => Sys2Proof.Machine.execHalyardHwmClr m r width value s
  | .giveTimeout m c => Sys2Proof.Machine.execGiveTimeout m c s
  | .halyardHoldRelease m => Sys2Proof.Machine.execHalyardHoldRelease m s
  | .loadWindowClose m => Sys2Proof.Machine.execLoadWindowClose m s
  | .gclChange m p => Sys2Proof.Machine.execGclChange m p s
  | .gateEntryChange m p => Sys2Proof.Machine.execGateEntryChange m p s
  | .portFree m p => Sys2Proof.Machine.execPortFree m p s
  | .pauseEnd m p => Sys2Proof.Machine.execPauseEnd m p s
  | .timeSampleWrite m r width x value => Sys2Proof.Machine.execTimeSampleWrite m r width x value s
  | .ppsEdge m => Sys2Proof.Machine.execPpsEdge m s
  | .ppsMissed m => Sys2Proof.Machine.execPpsMissed m s
  | .sourceLossTimeout m x => Sys2Proof.Machine.execSourceLossTimeout m x s
  | .timeArm m r width x => Sys2Proof.Machine.execTimeArm m r width x s
  | .timeSetGo m r width x => Sys2Proof.Machine.execTimeSetGo m r width x s
  | .tpoEdge m o => Sys2Proof.Machine.execTpoEdge m o s
  | .timerMatch d t stall => Sys2Proof.Machine.execTimerMatch d t stall s
  | .timerWrap d t stall => Sys2Proof.Machine.execTimerWrap d t stall s
  | .timerCapture d t => Sys2Proof.Machine.execTimerCapture d t s
  | .tcapRead d r width t => Sys2Proof.Machine.execTcapRead d r width t s
  | .tcountRead d r width t => Sys2Proof.Machine.execTcountRead d r width t s
  | .groupStart d r width value => Sys2Proof.Machine.execGroupStart d r width value s
  | .groupStop d r width value => Sys2Proof.Machine.execGroupStop d r width value s
  | .timerWake d n => Sys2Proof.Machine.execTimerWake d n s
  | .debugHalt d => Sys2Proof.Machine.execDebugHalt d s
  | .derive m r width => Sys2Proof.Machine.execDerive m r width s
  | .generate m r width => Sys2Proof.Machine.execGenerate m r width s
  | .importKey m r width => Sys2Proof.Machine.execImport m r width s
  | .invalidate m r width => Sys2Proof.Machine.execInvalidate m r width s
  | .keyLock m r width => Sys2Proof.Machine.execKeyLock m r width s
  | .nodeSet m r width => Sys2Proof.Machine.execNodeSet m r width s
  | .nodeClear m r width => Sys2Proof.Machine.execNodeClear m r width s
  | .nodeRewrap m r width => Sys2Proof.Machine.execNodeRewrap m r width s
  | .persist m r width => Sys2Proof.Machine.execPersist m r width s
  | .persistComplete m ok => Sys2Proof.Machine.execPersistComplete m ok s
  | .keyWordDirectWrite m r => Sys2Proof.Machine.execKeyWordDirectWrite m r s
  | .cryptoJobGo m r width value => Sys2Proof.Machine.execCryptoJobGo m r width value s
  | .cryptoJobDone m r => Sys2Proof.Machine.execCryptoJobDone m r s
  | .rsaLoad m r width => Sys2Proof.Machine.execRsaLoad m r width s
  | .rsaSign m r width => Sys2Proof.Machine.execRsaSign m r width s
  | .rsaVerify m r width => Sys2Proof.Machine.execRsaVerify m r width s
  | .rsaAttest m r width => Sys2Proof.Machine.execRsaAttest m r width s
  | .rsaClear m r width => Sys2Proof.Machine.execRsaClear m r width s
  | .rsaDone m => Sys2Proof.Machine.execRsaDone m s
  | .drbgOutRead m r width => Sys2Proof.Machine.execDrbgOutRead m r width s
  | .drbgReseed m r width value ok => Sys2Proof.Machine.execDrbgReseed m r width value ok s
  | .entropyFail m rct => Sys2Proof.Machine.execEntropyFail m rct s
  | .crystRegeneration m pattern => Sys2Proof.Machine.execCrystRegeneration m pattern s
  | .tamperAssert m src => Sys2Proof.Machine.execTamperAssert m src s
  | .tamperRelease m src => Sys2Proof.Machine.execTamperRelease m src s
  | .letflyTrigger m src => Sys2Proof.Machine.execLetflyTrigger m src s
  | .tamperRecordFuse m => Sys2Proof.Machine.execTamperRecordFuse m s
  | .ownerKeyReload m => Sys2Proof.Machine.execOwnerKeyReload m s
  | .tamperAck m r width value => Sys2Proof.Machine.execTamperAck m r width value s
  | .nonceDraw m r width => Sys2Proof.Machine.execNonceDraw m r width s
  | .nonceExpiry m ctx => Sys2Proof.Machine.execNonceExpiry m ctx s
  | .sessionOpenOwner m r width => Sys2Proof.Machine.execSessionOpenOwner m r width s
  | .sessionOpenPassword m r width value => Sys2Proof.Machine.execSessionOpenPassword m r width value s
  | .passwordResult m r => Sys2Proof.Machine.execPasswordResult m r s
  | .setpw m r width value => Sys2Proof.Machine.execSetpw m r width value s
  | .sessionClose m r width => Sys2Proof.Machine.execSessionClose m r width s
  | .sessionIdleTimeout m ctx => Sys2Proof.Machine.execSessionIdleTimeout m ctx s
  | .failDelayExpiry m => Sys2Proof.Machine.execFailDelayExpiry m s
  | .digestCompare j => Sys2Proof.Machine.execDigestCompare j s
  | .digestWaitExpiry j => Sys2Proof.Machine.execDigestWaitExpiry j s
  | .heartbeatSend m => Sys2Proof.Machine.execHeartbeatSend m s
  | .heartbeatMiss m => Sys2Proof.Machine.execHeartbeatMiss m s
  | .livenessAnswer j k epoch s0 s1 hdr => Sys2Proof.Machine.execLivenessAnswer j k epoch s0 s1 hdr s
  | .dualWindowClose k => Sys2Proof.Machine.execDualWindowClose k s
  | .pairSwap m r width keyByte => Sys2Proof.Machine.execPairSwap m r width keyByte s
  | .pairResync m r width keyByte => Sys2Proof.Machine.execPairResync m r width keyByte s
  | .pairReleaseJury m r width keyByte => Sys2Proof.Machine.execPairReleaseJury m r width keyByte s
  | .transferPassEnd m dirty => Sys2Proof.Machine.execTransferPassEnd m dirty s
  | .selfFault m bit addr r => Sys2Proof.Machine.execSelfFault m bit addr r s
  | .feedSample m f v n bus => Sys2Proof.Machine.execFeedSample m f v n bus s
  | .feedRestored m f => Sys2Proof.Machine.execFeedRestored m f s
  | .feedLoss m f => Sys2Proof.Machine.execFeedLoss m f s
  | .feedOvp m f => Sys2Proof.Machine.execFeedOvp m f s
  | .updateBegin m r width => Sys2Proof.Machine.execUpdateBegin m r width s
  | .updateEraseDone m => Sys2Proof.Machine.execUpdateEraseDone m s
  | .updateChunk m r width => Sys2Proof.Machine.execUpdateChunk m r width s
  | .bitmapRecordWrite m => Sys2Proof.Machine.execBitmapRecordWrite m s
  | .updateVerify m r width => Sys2Proof.Machine.execUpdateVerify m r width s
  | .updateActivate m r width => Sys2Proof.Machine.execUpdateActivate m r width s
  | .updateCancel m r width => Sys2Proof.Machine.execUpdateCancel m r width s
  | .updateConfirm m r width value => Sys2Proof.Machine.execUpdateConfirm m r width value s
  | .updateReady m r width value => Sys2Proof.Machine.execUpdateReady m r width value s
  | .juryReadyTimeout m => Sys2Proof.Machine.execJuryReadyTimeout m s
  | .trialElapsedWrite m => Sys2Proof.Machine.execTrialElapsedWrite m s
  | .trialExpiry m => Sys2Proof.Machine.execTrialExpiry m s
  | .bootRom m => Sys2Proof.Machine.execBootRom m s
  | .imgBegin m r width => Sys2Proof.Machine.execImgBegin m r width s
  | .imgChunk m r width => Sys2Proof.Machine.execImgChunk m r width s
  | .imgVerify m r width => Sys2Proof.Machine.execImgVerify m r width s
  | .waveAdd m r width => Sys2Proof.Machine.execWaveAdd m r width s
  | .waveGo m r width => Sys2Proof.Machine.execWaveGo m r width s
  | .campaignPause m r width => Sys2Proof.Machine.execCampaignPause m r width s
  | .campaignResume m r width => Sys2Proof.Machine.execCampaignResume m r width s
  | .campaignAbort m r width => Sys2Proof.Machine.execCampaignAbort m r width s
  | .campaignReport m => Sys2Proof.Machine.execCampaignReport m s
  | .roundStart m => Sys2Proof.Machine.execRoundStart m s
  | .roundClose m => Sys2Proof.Machine.execRoundClose m s
  | .offerReportTimeout m v => Sys2Proof.Machine.execOfferReportTimeout m v s
  | .refusedRetryDeadline m v => Sys2Proof.Machine.execRefusedRetryDeadline m v s
  | .nodeTrialDeadline m v => Sys2Proof.Machine.execNodeTrialDeadline m v s
  | .waveEnd m => Sys2Proof.Machine.execWaveEnd m s
  | .campaignPersist m => Sys2Proof.Machine.execCampaignPersist m s
  | .completeScan m v => Sys2Proof.Machine.execCompleteScan m v s
  | .commitGo m r width value => Sys2Proof.Machine.execCommitGo m r width value s
  | .snapGo m r width value => Sys2Proof.Machine.execSnapGo m r width value s
  | .farDataRead m r width => Sys2Proof.Machine.execFarDataRead m r width s
  | .farDataWrite m r width value => Sys2Proof.Machine.execFarDataWrite m r width value s
  | .farTimeout m tag => Sys2Proof.Machine.execFarTimeout m tag s
  | .cntClr m r page excl => Sys2Proof.Machine.execCntClr m r page excl s
  | .irqForce m r page value => Sys2Proof.Machine.execIrqForce m r page value s
  | .pageLock m r page => Sys2Proof.Machine.execPageLock m r page s
  | .registerWrite m r w => Sys2Proof.Machine.execRegisterWrite m r w s
  | .unmappedAccess m r addr write => Sys2Proof.Machine.execUnmappedAccess m r addr write s
  | .vecEoi m r width value => Sys2Proof.Machine.execVecEoi m r width value s
  | .sysResetSelf m r width value => Sys2Proof.Machine.execSysResetSelf m r width value s
  | .sysResetPairPeer m r width value => Sys2Proof.Machine.execSysResetPairPeer m r width value s
  | .wdtKick m r width value => Sys2Proof.Machine.execWdtKick m r width value s
  | .wdtWarn m => Sys2Proof.Machine.execWdtWarn m s
  | .watchdogExpiry m => Sys2Proof.Machine.execWatchdogExpiry m s
  | .tmrScrub d us => Sys2Proof.Machine.execTmrScrub d us s
  | .thermConv m r width value => Sys2Proof.Machine.execThermConv m r width value s
  | .thermPeriodic m => Sys2Proof.Machine.execThermPeriodic m s
  | .conversionDone d kind vals => Sys2Proof.Machine.execConversionDone d kind vals s
  | .ethRxFrame m p e => Sys2Proof.Machine.execEthRxFrame m p e s
  | .ethLinkChange m p st dirs => Sys2Proof.Machine.execEthLinkChange m p st dirs s
  | .pcieTailWrite m width ring value => Sys2Proof.Machine.execPcieTailWrite m width ring value s
  | .pcieAckWrite m width ring value => Sys2Proof.Machine.execPcieAckWrite m width ring value s
  | .txRingServe m len user k => Sys2Proof.Machine.execTxRingServe m len user k s
  | .rxRingDeliver m r addr => Sys2Proof.Machine.execRxRingDeliver m r addr s
  | .ringCoalesceTimeout m r => Sys2Proof.Machine.execRingCoalesceTimeout m r s
  | .pcieLinkDown m ev => Sys2Proof.Machine.execPcieLinkDown m ev s
  | .msixUnmask m v => Sys2Proof.Machine.execMsixUnmask m v s
  | .mgmtRequest m uart crcOk c => Sys2Proof.Machine.execMgmtRequest m uart crcOk c s
  | .mgmtUartGap m => Sys2Proof.Machine.execMgmtUartGap m s
  | .feedsGood test fails => Sys2Proof.Machine.execFeedsGood test fails s
  | .referenceValid ref => Sys2Proof.Machine.execReferenceValid ref s
  | .brownOut => Sys2Proof.Machine.execBrownOut s
  | .resetN fails => Sys2Proof.Machine.execResetN fails s
  | .lowpwrRequest on => Sys2Proof.Machine.execLowpwrRequest on s
  | .reefedSailResume k => Sys2Proof.Machine.execReefedSailResume k s
  | .checkpointPeriodic m => Sys2Proof.Machine.execCheckpointPeriodic m s
  | .checkpoint m r width => Sys2Proof.Machine.execCheckpoint m r width s
  | .checkpointDone m ok => Sys2Proof.Machine.execCheckpointDone m ok s
  | .saveCal m r width => Sys2Proof.Machine.execSaveCal m r width s
  | .nvRecordWriteDone m k ok => Sys2Proof.Machine.execNvRecordWriteDone m k ok s
  | .ringSectorErase m k => Sys2Proof.Machine.execRingSectorErase m k s
  | .flashRead m r width => Sys2Proof.Machine.execFlashRead m r width s
  | .flashProgram m r width => Sys2Proof.Machine.execFlashProgram m r width s
  | .flashErase m r width => Sys2Proof.Machine.execFlashErase m r width s
  | .flashDone m fail => Sys2Proof.Machine.execFlashDone m fail s
  | .ssysReset k r width value => Sys2Proof.Machine.execSsysReset k r width value s
  | .mastBRoleTimeout => Sys2Proof.Machine.execMastBRoleTimeout s
  | .updateVerifyDone m => Sys2Proof.Machine.execUpdateVerifyDone m s
  | .imgVerifyDone m => Sys2Proof.Machine.execImgVerifyDone m s
  | .chunkProgrammed m node => Sys2Proof.Machine.execChunkProgrammed m node s
  | .updateConfirmed m => Sys2Proof.Machine.execUpdateConfirmed m s
  | .tapInstruction m op => Sys2Proof.Machine.execTapInstruction m op s
  | .debugHaltExit d => Sys2Proof.Machine.execDebugHaltExit d s

end Sys2Proof.Machine
end

