-- ==== Sys2Proof/Safety.lean ====
section
/-! DEFINITION. What counts as a safe step, in the terms the statements use. -/

namespace Sys2Proof.Machine

/-- A command completes: it answers a next state, not a fault and not a refusal. -/
def Completes (c : Instr) (s : State) : Prop := ∃ t, exec c s = .next t

/-- Every sparse table of the package is in its canonical form: its keys rise strictly, and none lists a value that an unlisted key has. -/
structure State.Canonical (s : State) : Prop where
  regs : Tbl.wf resetWord s.regs = true
  sails : Tbl.wf (fun _ => Sail.reset) s.sails = true
  conns : Tbl.wf (fun _ => Conn.reset) s.conns = true
  profAct : Tbl.wf (fun i => profReset (i % 256)) s.profAct = true
  profPend : Tbl.rising 0 s.profPend = true
  timerAt : Tbl.wf (fun _ => 0) s.timerAt = true
  timerRem : Tbl.wf (fun _ => 0) s.timerRem = true
  tap : Tbl.wf (fun _ => 0xFF) s.tap = true

/-- A canonical state of variant `v` with the commands `q` waiting, at the instant `n`. -/
structure Kept (v : Variant) (q : List Instr) (n : Nat) (s : State) : Prop where
  variant : s.variant = v
  pending : s.pending = q
  now : s.now = n
  canonical : s.Canonical

/-! ## Frames -/

/-- `t` is `s` but for mast `m`: its record, register words, what waits on the connections and what has left the package, and the count of
free values used. -/
def OnlyMast (m : Nat) (s t : State) : Prop :=
  t = { s with freeCtr := t.freeCtr, regs := t.regs, mastA := t.mastA, mastB := t.mastB, conns := t.conns, out := t.out }
    ∧ t.mast (1 - m) = s.mast (1 - m)

/-- `t` is `s` but for sail `k`: its record, register words, what waits on the connections and what has left the package, and the count of
free values used. -/
def OnlySail (k : Nat) (s t : State) : Prop :=
  t = { s with freeCtr := t.freeCtr, regs := t.regs, sails := t.sails, conns := t.conns, out := t.out } ∧ ∀ j, j ≠ k → t.sail j = s.sail j

/-- `t` is `s` but for the register words at the keys `ks`. -/
def OnlyWords (ks : List Nat) (s t : State) : Prop := t = { s with regs := t.regs } ∧ ∀ k, k ∉ ks → t.word k = s.word k

/-- A software access of requester `r` to offset `off` of page `page` of mast `m` passes every check of an access (R443, R444, R544, R609). -/
abbrev State.Reaches (s : State) (m page off : Nat) (r : Req) (write : Bool) (width full : Nat) : Prop :=
  s.fitted m = true ∧ m < 2 ∧ s.hidden m page r = false ∧ s.allowed m page off r write = true ∧ width = full

/-- A register write of requester `r` to mast `m` is no input of a pair (R467, R470): it takes place on mast `m` itself. -/
abbrev State.Direct (s : State) (m r : Nat) : Prop :=
  m < 2 ∧ ((r ≠ 16 ∧ r ≠ 17) ∨ s.redundant = false ∨ ¬ (s.pairState s.active = 1 ∨ s.pairState s.active = 2 ∨ s.pairState s.active = 3))

/-- Station `n` of mast `m` takes a give at once (R342, R348): it is open, not reserved, and below its DEPTH. -/
abbrev State.RoomAt (s : State) (m n : Nat) : Prop :=
  n < 0xFF ∧ stationReserved n = false ∧ (s.mast m).hal.countAt n < s.depthOf m n

/-- From `u` to `t` exactly one item joins the station queues of mast `m`, with the descriptor `d`. -/
def State.Gave (u t : State) (m : Nat) (d : Desc) : Prop :=
  ∃ q τ, (t.mast m).hal.entries = (u.mast m).hal.entries ++ [⟨q, d, τ⟩]

/-- A saturating count of a field of `n` bits: one more, up to its greatest value (R59). -/
abbrev satInc (n v : Nat) : Nat := min (v + 1) (2 ^ n - 1)

end Sys2Proof.Machine
end

