-- ==== Sys2Proof/Certificates/Slice0/Obligations.lean ====
section
/-! DEFINITION. The statements for the provers: what each command of the block does, and what every step keeps. -/

open Sys2Proof Sys2Proof.Machine

/-- FEED_SAMPLE of feed `f` on mast `m` completes: V, I and FEED.BUS.V show the sample; a feed below 2.80 V is LOST, a LOST feed at or above
2.80 V becomes LOW, a GOOD or LOW feed below LOW_V is LOW, and every other state stays.  FEED_LOSS and FEED_OVP put the feed
in LOST and OVP, and FEED_RESTORED, with the feed at or above LOW_V + 50 mV, in GOOD.  A change is counted in LOST or OVP; without a change nothing
changes but what carries the input to the jury.  The other feed's state stays, and nothing but that mast and its words changes.  Of a pair that
mirrors, the active mast's inputs count: a jury's own leave it alone (the model's choice, log entry 175). -/
def Obligations.feeds_classified : Prop :=
  ∀ (s u : State) (m f : Nat), m < 2 → f < 2 → s.fitted m = true →
    (s.mirroring = true → m ≠ s.active → ∀ v i bus, exec (.feedSample m f v i bus) s = .next s ∧ exec (.feedLoss m f) s = .next s
      ∧ exec (.feedOvp m f) s = .next s ∧ exec (.feedRestored m f) s = .next s)
    ∧ (s.mirroring = false ∨ m = s.active →
    (∀ v i bus, s.mirror m (.data 0 f (v * 2 ^ 24 + i * 2 ^ 12 + bus)) 0 = some u →
      ∃ t, exec (.feedSample m f v i bus) s = .next t
      ∧ t.get m (F.FEED_STAT_V.at 4 f) = v % 2 ^ 12 ∧ t.get m (F.FEED_STAT_I.at 4 f) = i % 2 ^ 12 ∧ t.get m F.FEED_BUS_V = bus % 2 ^ 12
      ∧ t.feedState m f = (if v < 2800 then 2 else if v < u.lowV m ∧ u.feedState m f ≠ 2 ∧ u.feedState m f ≠ 3 then 1
          else if u.feedState m f = 2 then 1 else u.feedState m f)
      ∧ OnlyMast m u t)
    ∧ (s.mirror m (.data 1 f 2) 0 = some u → ∃ t, exec (.feedLoss m f) s = .next t ∧ t.feedState m f = 2
      ∧ t.feedState m (1 - f) = u.feedState m (1 - f) ∧ OnlyMast m u t
      ∧ (u.feedState m f ≠ 2 → t.get m (F.FEED_LOST.at 12 f) = satInc 32 (u.get m (F.FEED_LOST.at 12 f))) ∧ (u.feedState m f = 2 → t = u))
    ∧ (s.mirror m (.data 1 f 3) 0 = some u → ∃ t, exec (.feedOvp m f) s = .next t ∧ t.feedState m f = 3
      ∧ t.feedState m (1 - f) = u.feedState m (1 - f) ∧ OnlyMast m u t
      ∧ (u.feedState m f ≠ 3 → t.get m (F.FEED_OVP.at 12 f) = satInc 32 (u.get m (F.FEED_OVP.at 12 f))) ∧ (u.feedState m f = 3 → t = u))
    ∧ (s.lowV m + 50 ≤ s.get m (F.FEED_STAT_V.at 4 f) → s.mirror m (.data 1 f 0) 0 = some u →
      ∃ t, exec (.feedRestored m f) s = .next t ∧ t.feedState m f = 0
      ∧ t.feedState m (1 - f) = u.feedState m (1 - f) ∧ OnlyMast m u t ∧ (u.feedState m f = 0 → t = u)))

/-- SALTERN_POP by requester `r` from the queue that its IO_SEL names completes.  The read of the head cell's link comes first (log entry 148): a
single-bit error is corrected and counted in SRAM_CORR, and a double-bit error of a cell of the queue leaves the queue BROKEN, which then gives
nothing.  A queue of class "—" gives nothing but NOPOP; a queue with a head item gives that item's descriptor, and the requester holds the item;
an empty IDLE queue gives the idle descriptor; an empty UNDERRUN queue gives the descriptor of the requester's last pop, and is marked and counted
as underrun.  Nothing but the mast and its words changes.
SALTERN_PUSH by requester `r` of an item that it does not hold is dropped with NOTHELD and counted in PUSH_REFUSED.  An item that it holds
joins the tail of the named queue, its descriptor stored and the requester no longer holding it, where the queue admits its cells; where it does
not, a core's push joins the held pushes, counted in HOLD, and a push of the host or the management port is dropped with REFUSED, the item
staying with the requester. -/
def Obligations.saltern_pop_and_push : Prop :=
  (∀ (s : State) (m r ecc : Nat), s.Reaches m 0x011 0x098 r false 8 8 →
     let u := s.popLink m r ecc
     let q := u.ioSel m r
     let y := (u.mast m).sal.queue q
     ∃ t, exec (.salternPop m r 8 ecc) s = .next t ∧ OnlyMast m s t
       ∧ (ecc = 0 → u = s)
       ∧ (((s.mast m).sal.queue (s.ioSel m r)).heads ≠ [] → ecc = 1 → u = s.bump m F.SYS_SRAM_CORR)
       ∧ (∀ c l, ((s.mast m).sal.queue (s.ioSel m r)).heads = c :: l → 2 ≤ ecc → (s.mast m).sal.placeOf c = .queue (s.ioSel m r) →
           ((u.mast m).sal.queue (s.ioSel m r)).broken = true ∧ u.dequeue m (s.ioSel m r) = none)
       ∧ (y.cls = 0 → t.bget r m F.SALTERN_IO_STATUS_NOPOP = 1 ∧ t.bget64 r m F.SALTERN_POP_DESC_LO = 0)
       ∧ (∀ c v, y.cls ≠ 0 → u.dequeue m q = some (c, v) →
           t.bget64 r m F.SALTERN_POP_DESC_LO = { ((v.mast m).sal.item c).desc with cell := c }.lo
           ∧ t.bget64 r m F.SALTERN_POP_HI_DESC_HI = { ((v.mast m).sal.item c).desc with cell := c }.hi
           ∧ ((t.mast m).sal.item c).held = some r)
       ∧ (y.cls = 1 → u.dequeue m q = none →
           t.bget64 r m F.SALTERN_POP_DESC_LO = Desc.idle.lo ∧ t.bget64 r m F.SALTERN_POP_HI_DESC_HI = Desc.idle.hi)
       ∧ (1 < y.cls → u.dequeue m q = none →
           t.bget64 r m F.SALTERN_POP_DESC_LO = (Tbl.get (fun _ => Desc.zero) (u.mast m).sal.lastPop r).lo
           ∧ ((t.mast m).sal.queue q).underrun = true
           ∧ t.get m F.SALTERN_UNDERRUN = satInc 32 (u.get m F.SALTERN_UNDERRUN)))
  ∧ (∀ (s : State) (m r lo : Nat) (body : Body), s.Direct m r → s.Reaches m 0x011 0x0B0 r true 8 8 →
        let d := Desc.ofBits (s.bget64 r m F.SALTERN_PUSH_HI_DESC_HI) lo
        let q := s.ioSel m r
        let x := (s.mast m).sal.item d.cell
        ∃ t, exec (.salternPush m r 8 lo body) s = .next t ∧ OnlyMast m s t
          ∧ (s.holds m r d.cell = false → t.bget r m F.SALTERN_IO_STATUS_NOTHELD = 1
              ∧ t.get m F.SALTERN_PUSH_REFUSED = satInc 32 (s.get m F.SALTERN_PUSH_REFUSED) ∧ t.mast m = s.mast m)
          ∧ (s.holds m r d.cell = true → s.admitQ m q x.cells.length = true →
              ((t.mast m).sal.queue q).heads = ((s.mast m).sal.queue q).heads ++ [d.cell]
              ∧ ((t.mast m).sal.item d.cell).place = .queue q ∧ ((t.mast m).sal.item d.cell).held = none
              ∧ ((t.mast m).sal.item d.cell).desc = d ∧ ((t.mast m).sal.item d.cell).body = body)
          ∧ (s.holds m r d.cell = true → s.admitQ m q x.cells.length = false → r < 16 →
              (t.mast m).sal.held = (s.mast m).sal.held ++ [⟨r, q, d, false⟩] ∧ (t.mast m).sal.queues = (s.mast m).sal.queues
              ∧ t.get m F.SALTERN_HOLD = satInc 32 (s.get m F.SALTERN_HOLD))
          ∧ (s.holds m r d.cell = true → s.admitQ m q x.cells.length = false → 16 ≤ r →
              (t.mast m).sal.held = (s.mast m).sal.held ∧ (t.mast m).sal.queues = (s.mast m).sal.queues ∧ t.holds m r d.cell = true
              ∧ t.bget r m F.SALTERN_IO_STATUS_REFUSED = 1 ∧ t.get m F.SALTERN_PUSH_REFUSED = satInc 32 (s.get m F.SALTERN_PUSH_REFUSED)))

/-- SALTERN_ALLOC answers a cell where account 46 and the brine list have one, and that cell opens an item of the requester or joins the open one;
else a core's allocation joins the held ones and any other requester reads FAIL.  SALTERN_FREE of an item that the requester holds, in no BROKEN
place, returns its cells to the tail of the brine list, and of any other item changes nothing (log entry 11).  SALTERN_HWM_CLR clears the marks of
the named queue alone, or with ALL of every queue and the chain pool.  PUSH_TIMEOUT ends a core's held push or allocation with a bus error and
counts it.  ADMISSION_HOLD_RELEASE tries the first held report and every held push or allocation again: one that its target now admits is held no
more, and one that is still refused holds no other back.  PAUSE_REFRESH, while XOFF holds on an UP port, sends the PAUSE frame again and counts
it. -/
def Obligations.saltern_cells_and_holds : Prop :=
  ∀ (s : State) (m r : Nat), m < 2 →
    (s.Reaches m 0x011 0x0B8 r false 4 4 → ∃ t, exec (.salternAlloc m r 4) s = .next t ∧ OnlyMast m s t
      ∧ (s.admitQ m 46 1 = true → (s.mast m).sal.brine ≠ 0 → ∃ c, t.word (bankKey r m F.SALTERN_ALLOC_CELL.addr) = Word.ofNat c
          ∧ (Tbl.get (fun _ => none) (s.mast m).sal.openItem r = none →
              ((t.mast m).sal.item c).cells = [c] ∧ ((t.mast m).sal.item c).held = some r ∧ ((t.mast m).sal.item c).place = .acct 46)
          ∧ ∀ h, Tbl.get (fun _ => none) (s.mast m).sal.openItem r = some h →
              ((t.mast m).sal.item h).cells = ((s.mast m).sal.item h).cells ++ [c])
      ∧ (s.admitQ m 46 1 = false ∨ (s.mast m).sal.brine = 0 → r < 16 →
          (t.mast m).sal.held = (s.mast m).sal.held ++ [⟨r, 46, Desc.zero, true⟩] ∧ t.get m F.SALTERN_HOLD = satInc 32 (s.get m F.SALTERN_HOLD))
      ∧ (s.admitQ m 46 1 = false ∨ (s.mast m).sal.brine = 0 → 16 ≤ r →
          t.word (bankKey r m F.SALTERN_ALLOC_CELL.addr) = Word.ofNat (2 ^ 31) ∧ t.mast m = s.mast m))
    ∧ (∀ v, s.Direct m r → s.Reaches m 0x011 0x0BC r true 4 4 → ∃ t, exec (.salternFree m r 4 v) s = .next t ∧ OnlyMast m s t
      ∧ (s.holds m r (v % 2 ^ 17) = true → (s.mast m).sal.broken ((s.mast m).sal.item (v % 2 ^ 17)).place = false →
          (t.mast m).sal.freed = (s.mast m).sal.freed ++ ((s.mast m).sal.item (v % 2 ^ 17)).cells
          ∧ (t.mast m).sal.item (v % 2 ^ 17) = Item.none)
      ∧ (s.holds m r (v % 2 ^ 17) = false → t = s))
    ∧ (∀ v, s.Direct m r → s.Reaches m 0x011 0x080 r true 4 4 → ∃ t, exec (.salternHwmClr m r 4 v) s = .next t ∧ t.regs = s.regs ∧ OnlyMast m s t
      ∧ (v / 2 ^ 31 % 2 = 0 → ((t.mast m).sal.queue (v % 4096)).depthHwm = 0 ∧ ((t.mast m).sal.queue (v % 4096)).resHwm = 0
          ∧ (t.mast m).sal.chainHwm = (s.mast m).sal.chainHwm
          ∧ ∀ q, q ≠ v % 4096 → (t.mast m).sal.queue q = (s.mast m).sal.queue q)
      ∧ (v / 2 ^ 31 % 2 = 1 → (t.mast m).sal.chainHwm = 0
          ∧ ∀ q, ((t.mast m).sal.queue q).depthHwm = 0 ∧ ((t.mast m).sal.queue q).resHwm = 0))
    ∧ (∀ h, (s.mast m).sal.held.find? (fun h => h.req == r) = some h → ∃ t, exec (.pushTimeout m r) s = .next t ∧ OnlyMast m s t
      ∧ (t.mast m).sal.held = (s.mast m).sal.held.erase h ∧ t.out = .busError m r :: s.out
      ∧ t.get m F.SALTERN_PUSH_TIMEOUT = satInc 32 (s.get m F.SALTERN_PUSH_TIMEOUT)
      ∧ (h.alloc = true → t.word (bankKey r m F.SALTERN_ALLOC_CELL.addr) = Word.ofNat (2 ^ 31)))
    ∧ (∃ t, exec (.admissionHoldRelease m) s = .next t ∧ OnlyMast m s t
      ∧ ((s.mast m).heldEvents = [] → (s.mast m).sal.held = [] → t = s)
      ∧ (∀ h v, (s.mast m).heldEvents = [] → (s.mast m).sal.held = [h] → h.req < 16 → h.alloc = false → s.pushDone m h.req h.queue h.desc = some v →
          (t.mast m).sal.held = [] ∧ ((t.mast m).sal.queue h.queue).heads = ((s.mast m).sal.queue h.queue).heads ++ [h.desc.cell])
      ∧ (∀ h g v, (s.mast m).heldEvents = [] → (s.mast m).sal.held = [h, g] → h.req < g.req → g.req < 16 → h.alloc = false → g.alloc = false →
          s.pushDone m h.req h.queue h.desc = none → s.pushDone m g.req g.queue g.desc = some v →
          (t.mast m).sal.held = [h] ∧ ((t.mast m).sal.queue g.queue).heads = ((s.mast m).sal.queue g.queue).heads ++ [g.desc.cell])
      ∧ (∀ e rest, (s.mast m).heldEvents = e :: rest → (s.mast m).sal.held = [] → s.admitQ m 128 1 = true → (s.mast m).sal.brine ≠ 0 →
          (t.mast m).heldEvents = rest ∧ ∃ c, ((t.mast m).sal.queue 128).heads = ((s.mast m).sal.queue 128).heads ++ [c]
            ∧ ((t.mast m).sal.item c).body = .event e))
    ∧ (∀ p, p < 4 → s.fitted m = true → Tbl.get (fun _ => false) (s.mast s.active).sal.xoff (if m = s.active then p else 4 + p) = true →
      s.get m (F.ETH_LINK_STATE.page p) = 2 → ∃ t, exec (.pauseRefresh m p) s = .next t ∧ t.out = .pause m p true :: s.out
      ∧ t.get m (F.ETH_PAUSE_TX.page p) = satInc 32 (s.get m (F.ETH_PAUSE_TX.page p))
      ∧ t = { s with regs := t.regs, out := t.out } ∧ ∀ k, k ≠ key m (F.ETH_PAUSE_TX.page p).addr → t.word k = s.word k)

/-- HALYARD_GIVE of an item by requester `r`: nothing for station 0xFF; NOTHELD, counted, for an item that it does not hold; for an open station
with room the item joins the station's queue with the next give sequence number and the requester no longer holds it; at DEPTH a core's give joins
the held gives and any other requester's is refused; at a reserved or closed station it is counted in GIVE_CLOSED. -/
def Obligations.halyard_give_goes : Prop :=
  ∀ (s : State) (m r lo : Nat) (body : Body), s.Direct m r → s.Reaches m 0x010 0x318 r true 8 8 →
    let d := Desc.ofBits (s.bget64 r m F.HALYARD_GIVE_HI_DESC_HI) lo
    let full := ¬ (s.mast m).hal.countAt d.station < s.depthOf m d.station
    let shut := stationReserved d.station = true ∨ s.depthOf m d.station = 0
    ∃ t, exec (.halyardGive m r 8 lo body) s = .next t ∧ OnlyMast m s t
      ∧ (d.station = 0xFF → t = s)
      ∧ (d.station ≠ 0xFF → s.holds m r d.cell = false →
          t.bget r m F.HALYARD_IO_STATUS_NOTHELD = 1 ∧ t.get m F.HALYARD_GIVE_REFUSED = satInc 32 (s.get m F.HALYARD_GIVE_REFUSED)
          ∧ t.mast m = s.mast m)
      ∧ (d.station ≠ 0xFF → s.holds m r d.cell = true → shut → t.bget r m F.HALYARD_IO_STATUS_CLOSED = 1
          ∧ t.get m F.HALYARD_GIVE_CLOSED = satInc 32 (s.get m F.HALYARD_GIVE_CLOSED) ∧ (t.mast m).hal = (s.mast m).hal)
      ∧ (d.station ≠ 0xFF → s.holds m r d.cell = true → ¬ shut → ¬ full →
          (t.mast m).hal.entries = (s.mast m).hal.entries ++ [⟨(s.mast m).hal.nextSeq, d, s.localNs m⟩]
          ∧ (t.mast m).hal.nextSeq = (s.mast m).hal.nextSeq + 1 ∧ ((t.mast m).sal.item d.cell).held = none)
      ∧ (d.station ≠ 0xFF → s.holds m r d.cell = true → ¬ shut → full → r < 16 →
          (t.mast m).hal.held = (s.mast m).hal.held ++ [⟨.core r, d⟩] ∧ (t.mast m).hal.entries = (s.mast m).hal.entries)
      ∧ (d.station ≠ 0xFF → s.holds m r d.cell = true → ¬ shut → full → 16 ≤ r →
          t.bget r m F.HALYARD_IO_STATUS_REFUSED = 1 ∧ (t.mast m).hal = (s.mast m).hal)

/-- HALYARD_TAKE by core `r`, not gated by reefed mode: its service ends and its written role applies; the item that selection finds then is put
in service and its descriptor returned in TAKE and TAKE_HI, and without one the core is blocked; a gated core is blocked with no station.  The host and the management port receive the
idle descriptor with NOTAKE. -/
def Obligations.halyard_take_serves : Prop :=
  ∀ (s : State) (m r : Nat), s.Reaches m 0x010 0x300 r false 8 8 →
    let s1 := (s.endService m r).applyRole m r (s.roleReg m r)
    ∃ t, exec (.halyardTake m r 8) s = .next t ∧ OnlyMast m s t
      ∧ (∀ e k, r < 16 → s.coreGated r = false → s1.selectCore m r = (some e, k) →
          Tbl.get (fun _ => none) (t.mast m).hal.service r = some e.desc
          ∧ t.bget64 r m F.HALYARD_TAKE_DESC_LO = e.desc.lo ∧ t.bget64 r m F.HALYARD_TAKE_HI_DESC_HI = e.desc.hi
          ∧ (t.mast m).hal.entries = (s1.mast m).hal.entries.erase e)
      ∧ (∀ k, r < 16 → s.coreGated r = false → s1.selectCore m r = (none, k) →
          r ∈ (t.mast m).hal.blocked ∧ (t.mast m).hal.entries = (s1.mast m).hal.entries
          ∧ Tbl.get (fun _ => none) (t.mast m).hal.service r = none)
      ∧ (r < 16 → s.coreGated r = true → r ∈ (t.mast m).hal.blocked ∧ (t.mast m).hal.role r = 0)
      ∧ (16 ≤ r → t.bget r m F.HALYARD_IO_STATUS_NOTAKE = 1 ∧ t.bget64 r m F.HALYARD_TAKE_DESC_LO = Desc.idle.lo
          ∧ t.bget64 r m F.HALYARD_TAKE_HI_DESC_HI = Desc.idle.hi ∧ t.mast m = s.mast m)

/-- HALYARD_DONE with bit 0 ends the requester's service, or with no item in service changes nothing but DONE_EMPTY; without bit 0 it changes
nothing.  HALYARD_RELEASE of a blocked core that it names alone, and TAKE_IRQ_RELEASE of a blocked core that IRQ_RELEASE names, end that core's
TAKE with the idle descriptor and are counted in RELEASED.  HALYARD_ROLE_WRITE stores the written word of core `c`'s mask: a core that is blocked in TAKE
(and not gated) has the mask that the register then holds at once; any other core's role stays as it was.
TAKE_WAKE puts the first eligible item in service at the lowest-numbered blocked core, not gated, that it is eligible for; with no such core
the queues and the cores stay as they are.  GIVE_TIMEOUT ends a core's held give with a bus error, TIMEOUT and a count.  HALYARD_HOLD_RELEASE queues
the first held give whose station has room, which is then held no more.
LOAD_WINDOW_CLOSE starts a new load window.  HALYARD_HWM_CLR of one station starts its marks again (the depth mark at the present count, which is
the model's choice, log entry 23) and leaves every other word alone. -/
def Obligations.halyard_cores_and_holds : Prop :=
  (∀ (s : State) (m r : Nat), m < 2 →
     (∀ v, s.Direct m r → s.Reaches m 0x010 0x320 r true 4 4 → ∃ t, exec (.halyardDone m r 4 v) s = .next t
       ∧ (v % 2 = 0 → t = s)
       ∧ (v % 2 = 1 → Tbl.get (fun _ => none) (s.mast m).hal.service r = none →
           OnlyWords [key m F.HALYARD_DONE_EMPTY.addr] s t ∧ t.get m F.HALYARD_DONE_EMPTY = satInc 32 (s.get m F.HALYARD_DONE_EMPTY))
       ∧ (v % 2 = 1 → Tbl.get (fun _ => none) (s.mast m).hal.service r ≠ none →
           t.regs = s.regs ∧ OnlyMast m s t ∧ Tbl.get (fun _ => none) (t.mast m).hal.service r = none
           ∧ (t.mast m).hal.entries = (s.mast m).hal.entries))
     ∧ (∀ c, c < 16 → (s.mast m).hal.blocked.contains c = true → s.coreGated c = false → s.Direct m r →
       s.Reaches m 0x010 0x044 r true 4 4 → ∃ t, exec (.halyardRelease m r 4 (2 ^ c)) s = .next t ∧ OnlyMast m s t
       ∧ (t.mast m).hal.blocked = (s.mast m).hal.blocked.erase c ∧ t.bget64 c m F.HALYARD_TAKE_DESC_LO = Desc.idle.lo
       ∧ t.get m F.HALYARD_RELEASED = satInc 32 (s.get m F.HALYARD_RELEASED))
     ∧ (∀ c, c < 16 → (s.mast m).hal.blocked.contains c = true → s.coreGated c = false → (s.get m F.HALYARD_IRQ_RELEASE_CORES).testBit c = true →
       ∃ t, exec (.takeIrqRelease m c) s = .next t ∧ OnlyMast m s t ∧ (t.mast m).hal.blocked = (s.mast m).hal.blocked.erase c
       ∧ t.bget64 c m F.HALYARD_TAKE_DESC_LO = Desc.idle.lo ∧ t.get m F.HALYARD_RELEASED = satInc 32 (s.get m F.HALYARD_RELEASED))
     ∧ ∀ c i v, c < 16 → i < 8 → s.Direct m r → s.Reaches m 0x010 (0x080 + 32 * c + 4 * i) r true 4 4 →
       ∃ t, exec (.halyardRoleWrite m r 4 c i v) s = .next t ∧ OnlyMast m s t
       ∧ t.word (key m (0x010080 + 32 * c + 4 * i)) = Word.ofNat v
       ∧ (t.mast m).hal.service = (s.mast m).hal.service
       ∧ ((s.mast m).hal.blocked.contains c = true → s.coreGated c = false →
           (t.mast m).hal.role c = (s.setWord (key m (0x010080 + 32 * c + 4 * i)) (Word.ofNat v)).roleReg m c)
       ∧ ((s.mast m).hal.blocked.contains c = false → (t.mast m).hal.role c = (s.mast m).hal.role c))
  ∧ (∀ (s : State) (m : Nat), m < 2 →
        (∃ t, exec (.takeWake m) s = .next t ∧ OnlyMast m s t
          ∧ (∀ c e k, c < 16 → (s.mast m).hal.blocked.contains c = true → s.coreGated c = false → s.selectCore m c = (some e, k) →
              (∀ j, j < c → (s.mast m).hal.blocked.contains j = true → s.coreGated j = false → (s.selectCore m j).1 = none) →
              Tbl.get (fun _ => none) (t.mast m).hal.service c = some e.desc ∧ t.bget64 c m F.HALYARD_TAKE_DESC_LO = e.desc.lo
              ∧ t.bget64 c m F.HALYARD_TAKE_HI_DESC_HI = e.desc.hi ∧ (t.mast m).hal.blocked = (s.mast m).hal.blocked.erase c
              ∧ (t.mast m).hal.entries = (s.mast m).hal.entries.erase e)
          ∧ ((∀ j, j < 16 → (s.mast m).hal.blocked.contains j = true → s.coreGated j = false → (s.selectCore m j).1 = none) → t.mast m = s.mast m))
        ∧ (∀ c h, (s.mast m).hal.held.find? (fun h => decide (h.giver = Giver.core c)) = some h → ∃ t, exec (.giveTimeout m c) s = .next t
          ∧ OnlyMast m s t ∧ (t.mast m).hal.held = (s.mast m).hal.held.erase h ∧ t.bget c m F.HALYARD_IO_STATUS_TIMEOUT = 1
          ∧ t.get m F.HALYARD_GIVE_TIMEOUT = satInc 32 (s.get m F.HALYARD_GIVE_TIMEOUT) ∧ t.out.head? = some (.busError m c))
        ∧ (∀ h, s.releasable m = some h → ∃ t, exec (.halyardHoldRelease m) s = .next t ∧ OnlyMast m s t
          ∧ ⟨(s.mast m).hal.nextSeq, h.desc, s.localNs m⟩ ∈ (t.mast m).hal.entries)
        ∧ (∃ t, exec (.loadWindowClose m) s = .next t ∧ OnlyMast m s t
          ∧ (t.mast m).hal = { (s.mast m).hal with busyAcc := [], loadFrom := s.localNs m })
        ∧ (∀ r v, s.Direct m r → s.Reaches m 0x010 0x050 r true 4 4 → v / 2 ^ 30 % 4 = 0 → ∃ t, exec (.halyardHwmClr m r 4 v) s = .next t
          ∧ t.get m (stl F.STAB_SDEPTH_HWM (v % 256)) = (s.mast m).hal.countAt (v % 256) % 2 ^ 16
          ∧ t.get m (stl F.STAB_SWAIT_HWM (v % 256)) = 0
          ∧ OnlyWords [key m (stl F.STAB_SDEPTH_HWM (v % 256)).addr, key m (stl F.STAB_SWAIT_HWM (v % 256)).addr] s t))

/-- NODETAB_LOOKUP of CMD_KEY shows a hit's node and port in CMD_RESULT with status 0, or with none an empty CMD_RESULT with status 1, counted;
it changes words alone.  NODETAB_INSERT of CMD_KEY for CMD_NODE ends with status 6 when the record is not in use under that key, 2 when the key is
in the table; else the entry is written at the free location that the placement rule names, with the record's PORT and JOIN_TS, status 0; without
one it is parked, status 3, or with 16 parked already dropped, status 4. -/
def Obligations.nodetab_lookup_insert : Prop :=
  ∀ (s : State) (m r : Nat), s.Direct m r → s.Reaches m 0x018 0x090 r true 4 4 →
    (∃ t, exec (.nodetabLookup m r 4) s = .next t ∧ t = { s with regs := t.regs }
      ∧ t.get m F.NODETAB_LOOKUPS = satInc 32 (s.get m F.NODETAB_LOOKUPS)
      ∧ (∀ p, s.pick m (s.hits m (s.cmdKey m)) = some p → t.get m F.NODETAB_NT_STATUS_CMD_STATUS = 0
          ∧ t.get m F.NODETAB_CMD_RESULT_FOUND = 1 ∧ t.get m F.NODETAB_CMD_RESULT_NODE = ((s.mast m).nt.ent p).node % 2 ^ 20
          ∧ t.get m F.NODETAB_CMD_RESULT_PORT = ((s.mast m).nt.ent p).port % 16)
      ∧ (s.pick m (s.hits m (s.cmdKey m)) = none → t.get m F.NODETAB_NT_STATUS_CMD_STATUS = 1
          ∧ t.get m F.NODETAB_CMD_RESULT_FOUND = 0 ∧ t.get m F.NODETAB_MISSES = satInc 32 (s.get m F.NODETAB_MISSES)))
    ∧ (let k := s.cmdKey m
       let n := s.cmdNode m
       let port := s.get m F.NODETAB_CMD_ARG_PORT
       let x : Parked := ⟨k, n, port, s.bit m F.NODETAB_CMD_ARG_STATIC⟩
       let T := (s.mast m).nt
       let known := ((s.mast m).node n).ident.used = true ∧ ((s.mast m).node n).ident.eui = k
       ∃ t, exec (.nodetabInsert m r 4) s = .next t ∧ OnlyMast m s t
      ∧ (¬ known → t.get m F.NODETAB_NT_STATUS_CMD_STATUS = 6 ∧ t = { s with regs := t.regs })
      ∧ (known → s.hits m k ≠ [] → t.get m F.NODETAB_NT_STATUS_CMD_STATUS = 2 ∧ t = { s with regs := t.regs })
      ∧ (∀ p, known → s.hits m k = [] → s.placeFor m k T.insGen = some p → t.get m F.NODETAB_NT_STATUS_CMD_STATUS = 0
          ∧ (t.mast m).nt.ent p = ⟨k, n, port, true, x.static, false, T.now, T.insGen⟩ ∧ (t.mast m).nt.count = T.count + 1
          ∧ ((t.mast m).node n).ident.port = port ∧ ((t.mast m).node n).ident.joinTs = T.now ∧ ((t.mast m).node n).ident.aged = false)
      ∧ (known → s.hits m k = [] → s.placeFor m k T.insGen = none → T.pend.length < 16 → t.get m F.NODETAB_NT_STATUS_CMD_STATUS = 3
          ∧ (t.mast m).nt = { T with pend := T.pend ++ [x] } ∧ t.get m F.NODETAB_PARKED = satInc 32 (s.get m F.NODETAB_PARKED))
      ∧ (known → s.hits m k = [] → s.placeFor m k T.insGen = none → 16 ≤ T.pend.length → t.get m F.NODETAB_NT_STATUS_CMD_STATUS = 4
          ∧ (t.mast m).nt = T ∧ t.get m F.NODETAB_PEND_FULL = satInc 32 (s.get m F.NODETAB_PEND_FULL)))

/-- NODETAB_DELETE of a key in the table leaves its record AGED, with nothing parked (a parked insertion would be retried then), status 0 (1
without a hit).  NODETAB_FREE leaves the record neither USED nor
SHORT_VALID, its key section cleared, status 0 (6 beyond 131 071).  SHORT_SET gives a used record a free short address below 0xFFFE, status 0;
SHORT_CLR clears SHORT_VALID; SET_PORT gives entry and record the port; NODETAB_MOVE outside a rehash ends with status 7 and changes nothing else. -/
def Obligations.nodetab_records_change : Prop :=
  ∀ (s : State) (m r : Nat), s.Direct m r → s.Reaches m 0x018 0x090 r true 4 4 →
    let n := s.cmdNode m
    let hit := s.pick m (s.hits m (s.cmdKey m))
    let T := (s.mast m).nt
    (∃ t, exec (.nodetabDelete m r 4) s = .next t ∧ OnlyMast m s t
      ∧ (∀ p, hit = some p → t.get m F.NODETAB_NT_STATUS_CMD_STATUS = 0
          ∧ (T.pend = [] → ((t.mast m).node (T.ent p).node).ident.aged = true))
      ∧ (hit = none → t.mast m = s.mast m ∧ t.get m F.NODETAB_NT_STATUS_CMD_STATUS = 1))
    ∧ (∃ t, exec (.nodetabFree m r 4) s = .next t ∧ OnlyMast m s t
      ∧ (n < 131072 → ((t.mast m).node n).ident.used = false ∧ ((t.mast m).node n).ident.shortValid = false
          ∧ ((t.mast m).node n).key = ⟨0, 0, 0, 0, false⟩ ∧ t.get m F.NODETAB_NT_STATUS_CMD_STATUS = 0)
      ∧ (131072 ≤ n → t.mast m = s.mast m ∧ t.get m F.NODETAB_NT_STATUS_CMD_STATUS = 6))
    ∧ (let a := s.get m F.NODETAB_CMD_ARG_SHORT
       a < 0xFFFE → n < 131072 → ((s.mast m).node n).ident.used = true → Tbl.get (fun _ => none) T.short a = none →
       ∃ t, exec (.shortSet m r 4) s = .next t ∧ OnlyMast m s t ∧ Tbl.get (fun _ => none) (t.mast m).nt.short a = some n
      ∧ ((t.mast m).node n).ident.short = a ∧ ((t.mast m).node n).ident.shortValid = true ∧ t.get m F.NODETAB_NT_STATUS_CMD_STATUS = 0
      ∧ ∀ k, k ≠ n → (t.mast m).node k = (s.mast m).node k)
    ∧ (n < 131072 → ∃ t, exec (.shortClr m r 4) s = .next t ∧ OnlyMast m s t ∧ ((t.mast m).node n).ident.shortValid = false
      ∧ t.get m F.NODETAB_NT_STATUS_CMD_STATUS = 0 ∧ ∀ k, k ≠ n → (t.mast m).node k = (s.mast m).node k)
    ∧ (∀ p, hit = some p → ∃ t, exec (.setPort m r 4) s = .next t ∧ OnlyMast m s t
      ∧ ((t.mast m).nt.ent p).port = s.get m F.NODETAB_CMD_ARG_PORT ∧ ((t.mast m).node (T.ent p).node).ident.port = s.get m F.NODETAB_CMD_ARG_PORT
      ∧ t.get m F.NODETAB_NT_STATUS_CMD_STATUS = 0)
    ∧ (∀ races, T.rehash = false → ∃ t, exec (.nodetabMove m r 4 races) s = .next t ∧ t = { s with regs := t.regs }
      ∧ t.get m F.NODETAB_NT_STATUS_CMD_STATUS = 7)

/-- REHASH_START with no rehash active, a new seed and a table that is not empty starts one over every entry; REHASH_RESUME in a rehash starts a
new pass and clears STALL; MOVER_INTERVAL, while the mover runs, moves the entries of its next units and stands after them, or retries the parked
insertions when they end the rehash, and at the end of a pass that moved nothing stalls; NODETAB_MOVE of an entry of the old generation that finds a
place is counted in MOVED, and a refresh that reaches the entry in its move is carried over and counted; AGER_INTERVAL that finds one dynamic entry
older than AGE_LIMIT, with nothing parked, leaves its record AGED, and one that a refresh reaches first stays, counted in AGE_RACE; NOW_ADVANCE adds
1 to NOW modulo 2^24 and changes nothing else; TABLE_DIRECT_WRITE changes nothing but its count and answers a bus error. -/
def Obligations.nodetab_engines_advance : Prop :=
  ∀ (s : State) (m : Nat), m < 2 →
    let T := (s.mast m).nt
    (∀ r v, s.Direct m r → s.Reaches m 0x018 0x05C r true 4 4 → T.rehash = false → T.count ≠ 0 →
      s.get64 m F.NODETAB_SEED_NEW_SEED ≠ s.get64 m F.NODETAB_SEED_CUR_SEED →
      ∃ t, exec (.rehashStart m r 4 v) s = .next t ∧ OnlyMast m s t ∧ (t.mast m).nt.rehash = true ∧ (t.mast m).nt.oldLeft = T.count
      ∧ (t.mast m).nt.moverRun = true ∧ (t.mast m).nt.moverAt = 0)
    ∧ (∀ r v, s.Direct m r → s.Reaches m 0x018 0x05C r true 4 4 → T.rehash = true →
      ∃ t, exec (.rehashResume m r 4 v) s = .next t ∧ OnlyMast m s t
      ∧ (t.mast m).nt = { T with moverAt := 0, moverMoved := 0, moverRun := true } ∧ t.get m F.NODETAB_NT_STATUS_STALL = 0)
    ∧ (∀ races, T.rehash = true → T.moverRun = true → s.get m F.NODETAB_REHASH_CTL_MOVER_EN = 1 →
       let u1 := min 66560 (T.moverAt + max 1 (s.get m F.NODETAB_RATE_CFG_MOVER_RATE))
       let s1 := s.moveAll m races (T.unitPos T.moverAt u1)
       ∃ t, exec (.moverInterval m races) s = .next t ∧ OnlyMast m s t
       ∧ ((s1.mast m).nt.rehash = true → u1 < 66560 → t = s1.setNt m { (s1.mast m).nt with moverAt := u1 })
       ∧ ((s1.mast m).nt.rehash = false → t = s1.pendRetry m)
       ∧ ((s1.mast m).nt.rehash = true → u1 = 66560 → (s1.mast m).nt.moverMoved = 0 →
           t.get m F.NODETAB_NT_STATUS_STALL = 1 ∧ (t.mast m).nt.moverRun = false ∧ (t.mast m).nt.moverAt = 0))
    ∧ (∀ r p q, s.Direct m r → s.Reaches m 0x018 0x090 r true 4 4 → T.rehash = true → 1 < T.oldLeft →
      s.pick m (s.hits m (s.cmdKey m)) = some p → (T.ent p).gen = T.gen → s.placeFor m (T.ent p).key (!T.gen) = some q →
      (∃ t, exec (.nodetabMove m r 4 []) s = .next t ∧ OnlyMast m s t ∧ t.get m F.NODETAB_NT_STATUS_CMD_STATUS = 0
        ∧ ((t.mast m).nt.ent q).valid = true ∧ ((t.mast m).nt.ent q).key = (T.ent p).key ∧ ((t.mast m).nt.ent q).node = (T.ent p).node
        ∧ ((t.mast m).nt.ent q).port = (T.ent p).port ∧ ((t.mast m).nt.ent q).gen = !T.gen
        ∧ ((t.mast m).nt.ent p).valid = false ∧ (t.mast m).nt.oldLeft = T.oldLeft - 1
        ∧ t.get m F.NODETAB_MOVED = satInc 32 (s.get m F.NODETAB_MOVED))
      ∧ ∀ h, (T.ent p).static = false → h ≠ (T.ent p).port → s.get m F.NODETAB_LEARN_CFG_PORT_LEARN ≠ 0 →
        ∃ t, exec (.nodetabMove m r 4 [(p, h)]) s = .next t ∧ OnlyMast m s t ∧ ((t.mast m).nt.ent q).valid = true
        ∧ ((t.mast m).nt.ent q).port = h ∧ ((t.mast m).nt.ent p).valid = false
        ∧ t.get m F.NODETAB_MOVE_RETRY = satInc 32 (s.get m F.NODETAB_MOVE_RETRY))
    ∧ (let e := T.agerAt + max 1 (s.get m F.NODETAB_RATE_CFG_AGER_RATE)
       let due (p : Nat) : Prop := T.entPos T.agerAt (min e 270336) = [p] ∧ T.entPos 0 (e - 270336) = [] ∧ (T.ent p).valid = true
          ∧ (T.ent p).static = false ∧ (T.ent p).pendingMove = false
          ∧ ((max 1 (s.get m F.NODETAB_AGE_CFG_AGE_LIMIT) : Nat) : Int) < sdiff 24 T.now (T.ent p).ageTs
       s.get m F.NODETAB_AGE_CFG_AGE_EN = 1 →
       (∃ t, exec (.agerInterval m []) s = .next t ∧ OnlyMast m s t ∧ (t.mast m).nt.agerAt = e % 270336
        ∧ ∀ p, due p → T.pend = [] → ((t.mast m).node (T.ent p).node).ident.aged = true)
       ∧ ∀ p h, due p →
        ∃ t, exec (.agerInterval m [(p, h)]) s = .next t ∧ OnlyMast m s t ∧ ((t.mast m).nt.ent p).valid = true
        ∧ (t.mast m).nt.agerAt = e % 270336 ∧ t.get m F.NODETAB_AGE_RACE = satInc 32 (s.get m F.NODETAB_AGE_RACE))
    ∧ exec (.nowAdvance m) s = .next (s.setNt m { T with now := (T.now + 1) % 2 ^ 24 })
    ∧ (∀ r, ∃ t, exec (.tableDirectWrite m r) s = .next t ∧ t = { s with regs := t.regs, out := .busError m r :: s.out }
      ∧ t.get m F.NODETAB_DIRECT_WR = satInc 32 (s.get m F.NODETAB_DIRECT_WR)
      ∧ ∀ k, k ≠ key m F.NODETAB_DIRECT_WR.addr → t.word k = s.word k)

/-- DERIVE, GENERATE and IMPORT are refused with LOCKV while the engine is BUSY.  DERIVE from the root fills an empty slot with the SP 800-108
derivation, origin 1; GENERATE fills it with DRBG output, origin 2, or ends with NO_ENTROPY while the DRBG gives none; IMPORT fills it with the
material of a blob whose integrity check passes, origin 3, and counts one that fails.  A slot in use is not replaced. -/
def Obligations.keys_load_slots : Prop :=
  ∀ (s : State) (m r : Nat), s.Direct m r → s.Reaches m 0x038 0x104 r true 4 4 →
    let k := s.keySlot m
    let p := s.keyParent m
    let bits := keyBits (s.get m F.KEYS_CMD_B_TYPE)
    (s.bit m F.KEYS_STATUS_BUSY = true → exec (.derive m r 4) s = .next (s.lockv m 0x038 0x104 r)
      ∧ exec (.generate m r 4) s = .next (s.lockv m 0x038 0x104 r) ∧ exec (.importKey m r 4) s = .next (s.lockv m 0x038 0x104 r))
    ∧ (s.bit m F.KEYS_STATUS_BUSY = false → s.get m F.KEYS_CMD_B_LABEL_LEN ≤ 32 → s.get m F.KEYS_CMD_B_CTX_LEN ≤ 32 → p = 0x200 →
      ∃ t, exec (.derive m r 4) s = .next t ∧ OnlyMast m s t
      ∧ (∀ root, s.loadCheck m = none → (s.mast m).keys.root = some root →
          ((t.mast m).keys.slot k).material = kdf root (s.regBytes m F.KEYS_LABEL_BYTES 8 (s.get m F.KEYS_CMD_B_LABEL_LEN))
              (s.regBytes m F.KEYS_CONTEXT_BYTES 8 (s.get m F.KEYS_CMD_B_CTX_LEN)) bits
          ∧ ((t.mast m).keys.slot k).valid = true ∧ ((t.mast m).keys.slot k).origin = 1 ∧ t.get m F.KEYS_STATUS_RESULT = 0
          ∧ ∀ j, j ≠ k → (t.mast m).keys.slot j = (s.mast m).keys.slot j)
      ∧ (∀ e, s.loadCheck m = some e → t.get m F.KEYS_STATUS_RESULT = e.code ∧ (t.mast m).keys = (s.mast m).keys))
    ∧ (s.bit m F.KEYS_STATUS_BUSY = false → ∃ t, exec (.generate m r 4) s = .next t
      ∧ (∀ v u, s.loadCheck m = none → s.drbgRequest m bits = some (v, u) → OnlyMast m u t
          ∧ ((t.mast m).keys.slot k).material = v ∧ ((t.mast m).keys.slot k).valid = true ∧ ((t.mast m).keys.slot k).origin = 2
          ∧ t.get m F.KEYS_STATUS_RESULT = 0)
      ∧ (s.loadCheck m = none → s.drbgRequest m bits = none → t.get m F.KEYS_STATUS_RESULT = 9 ∧ (t.mast m).keys = (s.mast m).keys))
    ∧ (∀ x u, s.bit m F.KEYS_STATUS_BUSY = false → p < 512 → s.loadCheck m = none → s.useSlot m p .unwrap = (.ok x, u) →
      ∃ t, exec (.importKey m r 4) s = .next t ∧ OnlyMast m s t
      ∧ match unwrapKey (keyOf x) (s.keyData m bits) bits with
        | some v => ((t.mast m).keys.slot k).material = v ∧ ((t.mast m).keys.slot k).valid = true
            ∧ ((t.mast m).keys.slot k).origin = 3 ∧ t.get m F.KEYS_STATUS_RESULT = 0
        | none => (t.mast m).keys = (u.mast m).keys ∧ t.get m F.KEYS_STATUS_RESULT = 4
            ∧ t.get m F.KEYS_UNWRAP_FAIL = satInc 32 (s.get m F.KEYS_UNWRAP_FAIL))

/-- INVALIDATE of an unlocked slot whose GEN is below 0xFFFF empties it and adds 1 to its GEN; at GEN 0xFFFF its GEN becomes 0 and every slot whose
parent it is goes with it; a locked slot keeps everything.  KEY_LOCK of a slot in
use sets its lock.  NODE_SET and NODE_REWRAP write the wrapped key into the node's record where the blob's check passes; NODE_CLEAR clears the key
section.  Each shows its RESULT. -/
def Obligations.keys_slots_and_nodes : Prop :=
  ∀ (s : State) (m r : Nat), s.Direct m r → s.Reaches m 0x038 0x104 r true 4 4 → s.bit m F.KEYS_STATUS_BUSY = false →
    let K := (s.mast m).keys
    let k := s.keySlot m
    let n := s.keyNode m
    let p := s.keyParent m
    let kk := s.get m F.KEYS_NODE_KEK_SLOT
    (∃ t, exec (.invalidate m r 4) s = .next t ∧ OnlyMast m s t
      ∧ (K.root ≠ none → (K.slot k).lock = false → (K.slot k).gen < 0xFFFF → t.get m F.KEYS_STATUS_RESULT = 0
          ∧ (t.mast m).keys.slot k = KeySlot.empty ((K.slot k).gen + 1) ∧ ∀ j, j ≠ k → (t.mast m).keys.slot j = K.slot j)
      ∧ (K.root ≠ none → (K.slot k).lock = false → (K.slot k).gen = 0xFFFF → t.get m F.KEYS_STATUS_RESULT = 0
          ∧ (t.mast m).keys.slot k = KeySlot.empty 0
          ∧ ∀ j, j < 512 → (K.slot j).valid = true → (K.slot j).parent = k → ((t.mast m).keys.slot j).valid = false)
      ∧ (K.root ≠ none → (K.slot k).lock = true → t.get m F.KEYS_STATUS_RESULT = 5 ∧ (t.mast m).keys = K)
      ∧ (K.root = none → t.get m F.KEYS_STATUS_RESULT = 6 ∧ (t.mast m).keys = K))
    ∧ (K.root ≠ none → (K.slot k).valid = true → ∃ t, exec (.keyLock m r 4) s = .next t ∧ OnlyMast m s t
      ∧ (t.mast m).keys.slot k = { K.slot k with lock := true } ∧ t.get m F.KEYS_STATUS_RESULT = 0
      ∧ ∀ j, j ≠ k → (t.mast m).keys.slot j = K.slot j)
    ∧ (∀ x y, n < 131072 → p < 512 → s.useSlot m p .unwrap = (.ok x, s) → s.useSlot m kk .wrap = (.ok y, s) →
      ∃ t, exec (.nodeSet m r 4) s = .next t ∧ OnlyMast m s t
      ∧ match unwrapKey (keyOf x) (s.keyData m 128) 128 with
        | some v => ((t.mast m).node n).key = ⟨wrapKey (keyOf y) v 128, (K.slot kk).gen, kk, (((s.mast m).node n).key.ver + 1) % 256, true⟩
            ∧ t.get m F.KEYS_STATUS_RESULT = 0
        | none => (t.mast m).keys = K ∧ ((t.mast m).node n).key = ((s.mast m).node n).key ∧ t.get m F.KEYS_STATUS_RESULT = 4)
    ∧ (n < 131072 → ∃ t, exec (.nodeClear m r 4) s = .next t ∧ OnlyMast m s t ∧ ((t.mast m).node n).key = ⟨0, 0, 0, 0, false⟩
      ∧ t.get m F.KEYS_STATUS_RESULT = 0 ∧ ∀ j, j ≠ n → (t.mast m).node j = (s.mast m).node j)
    ∧ (∀ x y, n < 131072 → ((s.mast m).node n).key.valid = true → s.useSlot m ((s.mast m).node n).key.kek .unwrap = (.ok x, s) →
      (K.slot ((s.mast m).node n).key.kek).gen = ((s.mast m).node n).key.kekGen → s.useSlot m kk .wrap = (.ok y, s) →
      ∃ t, exec (.nodeRewrap m r 4) s = .next t ∧ OnlyMast m s t
      ∧ match unwrapKey (keyOf x) ((s.mast m).node n).key.blob 128 with
        | some v => ((t.mast m).node n).key = ⟨wrapKey (keyOf y) v 128, (K.slot kk).gen, kk, ((s.mast m).node n).key.ver, true⟩
            ∧ t.get m F.KEYS_STATUS_RESULT = 0
        | none => ((t.mast m).node n).key = ((s.mast m).node n).key ∧ t.get m F.KEYS_STATUS_RESULT = 4)

/-- PERSIST with a valid root makes the engine BUSY with a record of its slots, and PERSIST_COMPLETE with success makes that record the newest,
counted, with its number in PERSIST_SEQ and PERSISTED 1 at each slot in use that it holds, or with failure keeps the previous sets' newest and
counts PERSIST_FAIL.  KEY_WORD_DIRECT_WRITE changes
nothing but its count and answers a bus error.  DRBG_OUT_READ gives the words of a request, or 0 while halted; DRBG_RESEED that passes its tests
clears the halt and SINCE; ENTROPY_FAIL halts the DRBG, marked and counted. -/
def Obligations.keys_persist_and_drbg : Prop :=
  ∀ (s : State) (m : Nat), m < 2 →
    (∀ r, s.Direct m r → s.Reaches m 0x038 0x104 r true 4 4 → s.bit m F.KEYS_STATUS_BUSY = false → (s.mast m).keys.root ≠ none →
      ∃ t, exec (.persist m r 4) s = .next t ∧ OnlyMast m s t ∧ t.bit m F.KEYS_STATUS_BUSY = true ∧ (t.mast m).keys.persisting = some (s.keyRecord m)
      ∧ (t.mast m).keys.slots = (s.mast m).keys.slots)
    ∧ (∀ x, (s.mast m).keys.persisting = some x → ∃ t, exec (.persistComplete m true) s = .next t ∧ OnlyMast m s t
      ∧ (t.mast m).keys.banks = (x :: (s.mast m).keys.banks).take 2 ∧ (t.mast m).keys.persisting = none
      ∧ t.get m F.KEYS_PERSIST_SEQ_SEQ = x.seq % 2 ^ 32 ∧ t.get m F.KEYS_PERSIST_OK = satInc 32 (s.get m F.KEYS_PERSIST_OK)
      ∧ t.bit m F.KEYS_STATUS_BUSY = false ∧ t.get m F.KEYS_STATUS_RESULT = 0
      ∧ ∀ k, k < 512 → ((s.mast m).keys.slot k).valid = true →
          (t.mast m).keys.slot k = { (s.mast m).keys.slot k with persisted := (x.slots.map (fun y => y.slot)).contains k })
    ∧ (∀ x, (s.mast m).keys.persisting = some x → ∃ t, exec (.persistComplete m false) s = .next t ∧ OnlyMast m s t
      ∧ (t.mast m).keys.persisting = none ∧ (t.mast m).keys.slots = (s.mast m).keys.slots ∧ (t.mast m).keys.banks.head? = (s.mast m).keys.banks.head?
      ∧ t.get m F.KEYS_PERSIST_FAIL = satInc 32 (s.get m F.KEYS_PERSIST_FAIL) ∧ t.get m F.KEYS_STATUS_RESULT = 8)
    ∧ (∀ r, ∃ t, exec (.keyWordDirectWrite m r) s = .next t ∧ t = { s with regs := t.regs, out := .busError m r :: s.out }
      ∧ t.get m F.KEYS_DIRECT_WR = satInc 32 (s.get m F.KEYS_DIRECT_WR) ∧ ∀ k, k ≠ key m F.KEYS_DIRECT_WR.addr → t.word k = s.word k)
    ∧ (∀ r, s.Reaches m 0x03B 0x400 r false 4 4 → ∃ t, exec (.drbgOutRead m r 4) s = .next t ∧ OnlyMast m s t
      ∧ (∀ v u, s.drbgRequest m 32 = some (v, u) → t.get m F.DRBG_OUT_RAND = v % 2 ^ 32 ∧ t.mast m = u.mast m)
      ∧ (s.drbgRequest m 32 = none → t.get m F.DRBG_OUT_RAND = 0 ∧ OnlyWords [key m F.DRBG_OUT_RAND.addr] s t))
    ∧ (∀ r v, s.Direct m r → s.Reaches m 0x03B 0x044 r true 4 4 → v % 2 = 1 → ∃ t, exec (.drbgReseed m r 4 v true) s = .next t
      ∧ t = { s with regs := t.regs } ∧ t.bit m F.DRBG_STATUS_READY = true ∧ t.bit m F.DRBG_STATUS_HALT = false
      ∧ t.get m F.DRBG_STATUS_SINCE = 0 ∧ t.get m F.DRBG_RESEEDS = satInc 32 (s.get m F.DRBG_RESEEDS))
    ∧ (∀ rct, ∃ t, exec (.entropyFail m rct) s = .next t ∧ OnlyMast m s t ∧ t.bit m F.DRBG_STATUS_HALT = true
      ∧ t.bit m (if rct then F.DRBG_STATUS_RCT_FAIL else F.DRBG_STATUS_APT_FAIL) = true
      ∧ t.get m F.DRBG_HEALTH_FAIL = satInc 32 (s.get m F.DRBG_HEALTH_FAIL))

/-- CRYPTO_JOB_GO of an idle engine starts the requester's job and sets its BUSY; CRYPTO_JOB_DONE ends it, BUSY clear and counted, a refused job with
the RESULT found at its start.  RSA_LOAD, RSA_SIGN, RSA_VERIFY and RSA_ATTEST start their operation and set BUSY; RSA_CLEAR empties the register at
once; RSA_DONE leaves the operation's result and key and clears BUSY. -/
def Obligations.crypto_jobs_and_rsa : Prop :=
  ∀ (s : State) (m r : Nat), m < 2 →
    (∀ v, s.Direct m r → s.Reaches m 0x039 0x060 r true 4 4 → v % 2 = 1 → s.bget r m F.CRYPTO_JOB_STATUS_BUSY = 0 →
      ∃ t, exec (.cryptoJobGo m r 4 v) s = .next t ∧ OnlyMast m s t ∧ t.bget r m F.CRYPTO_JOB_STATUS_BUSY = 1
      ∧ ∃ j, Tbl.get (fun _ => none) (t.mast m).keys.jobs r = some j ∧ j.mode = s.bget r m F.CRYPTO_JOB_CFG_MODE
        ∧ j.len = s.bget r m F.CRYPTO_JOB_LEN_LEN)
    ∧ (∀ j, Tbl.get (fun _ => none) (s.mast m).keys.jobs r = some j → (∀ e, j.early = some e → e < 8) → ∃ t, exec (.cryptoJobDone m r) s = .next t ∧ OnlyMast m s t
      ∧ Tbl.get (fun _ => none) (t.mast m).keys.jobs r = none ∧ t.bget r m F.CRYPTO_JOB_STATUS_BUSY = 0
      ∧ t.get m F.CRYPTO_JOBS = satInc 32 (s.get m F.CRYPTO_JOBS)
      ∧ (∀ e, j.early = some e → t.word (bankKey r m F.CRYPTO_JOB_STATUS_BUSY.addr) = Word.ofNat (e * 2 ^ 24)))
    ∧ (s.Direct m r → s.Reaches m 0x03A 0x040 r true 4 4 → s.bit m F.RSA_STATUS_BUSY = false →
      (∃ t x, exec (.rsaLoad m r 4) s = .next t ∧ OnlyMast m s t ∧ t.bit m F.RSA_STATUS_BUSY = true
        ∧ (t.mast m).keys.rsaOp = some x ∧ x.op = 1
        ∧ (s.waitAck m = true → x.result = 2 ∧ x.key = (s.mast m).keys.rsaKey))
      ∧ (∃ t x, exec (.rsaSign m r 4) s = .next t ∧ OnlyMast m s t ∧ t.bit m F.RSA_STATUS_BUSY = true
        ∧ (t.mast m).keys.rsaOp = some x ∧ x.op = 2 ∧ ((s.mast m).keys.rsaKey = none → x.result = 2 ∧ x.out = []))
      ∧ (∃ t x, exec (.rsaVerify m r 4) s = .next t ∧ OnlyMast m s t ∧ t.bit m F.RSA_STATUS_BUSY = true
        ∧ (t.mast m).keys.rsaOp = some x ∧ x.op = 3 ∧ x.key = (s.mast m).keys.rsaKey
        ∧ (s.get m F.RSA_E_E % 2 = 0 ∨ s.get m F.RSA_E_E < 3 → x.result = 6))
      ∧ (∃ t x, exec (.rsaAttest m r 4) s = .next t ∧ OnlyMast m s t ∧ t.bit m F.RSA_STATUS_BUSY = true
        ∧ (t.mast m).keys.rsaOp = some x ∧ x.op = 4 ∧ (s.waitAck m = true → x.result = 2 ∧ x.out = []))
      ∧ ∃ t, exec (.rsaClear m r 4) s = .next t ∧ OnlyMast m s t ∧ (t.mast m).keys.rsaKey = none ∧ t.bit m F.RSA_STATUS_KEY_VALID = false
        ∧ t.get m F.RSA_STATUS_RESULT = 0)
    ∧ (∀ x, (s.mast m).keys.rsaOp = some x → ∃ t, exec (.rsaDone m) s = .next t ∧ OnlyMast m s t ∧ (t.mast m).keys.rsaKey = x.key
      ∧ (t.mast m).keys.rsaOp = none ∧ t.bit m F.RSA_STATUS_BUSY = false ∧ t.get m F.RSA_STATUS_RESULT = x.result % 16
      ∧ t.bit m F.RSA_STATUS_KEY_VALID = x.key.isSome)

/-- CRYST_REGENERATION, unless WAIT_ACK or RETIRED holds, is counted and leaves ROOT_VALID 1 exactly when a root was formed.  TAMPER_ASSERT and
TAMPER_RELEASE follow a source in NOW; LETFLY_TRIGGER of an enabled source leaves no key, no root and LETFLY 1 on every mast of the package.
TAMPER_RECORD_FUSE counts one record, to 32; OWNER_KEY_RELOAD reloads the owner key with every enabled source clear; TAMPER_ACK of an OWNER
acknowledges one record while WAIT_ACK holds and resets slots, caches, the RSA register and the DRBG, bit 5 of RESET_CAUSE showing it. -/
def Obligations.tamper_and_root : Prop :=
  ∀ (s : State) (m : Nat), m < 2 →
    (∀ pat, (s.waitAck m = true ∨ s.bit m F.CRYST_STATUS_RETIRED = true → exec (.crystRegeneration m pat) s = .next s)
      ∧ (s.fitted m = true → s.waitAck m = false → s.bit m F.CRYST_STATUS_RETIRED = false → ∃ t, exec (.crystRegeneration m pat) s = .next t ∧ OnlyMast m s t
        ∧ t.get m F.CRYST_REGENS = satInc 32 (s.get m F.CRYST_REGENS) ∧ t.bit m F.CRYST_STATUS_ROOT_VALID = (t.mast m).keys.root.isSome
        ∧ t.bit m F.CRYST_STATUS_FAIL = !t.bit m F.CRYST_STATUS_ROOT_VALID))
    ∧ (∀ src, src < 8 → s.get m F.TAMPER_SRC_EN_EN = 0 → ∃ t, exec (.tamperAssert m src) s = .next t
      ∧ t.get m F.TAMPER_STATE_NOW = ((s.mast m).keys.asserted ||| 2 ^ src) % 256 ∧ OnlyMast m s t ∧ (t.mast m).keys.root = (s.mast m).keys.root)
    ∧ (∀ src, src < 8 → (s.tamperNow m).testBit src = false → ∃ t, exec (.tamperRelease m src) s = .next t
      ∧ t.get m F.TAMPER_STATE_NOW = ((s.mast m).keys.asserted &&& (255 - 2 ^ src)) % 256 ∧ OnlyMast m s t)
    ∧ (∀ src, (s.tamperNow m).testBit src = true → s.bit m F.TAMPER_STATE_LETFLY = false → ∃ t, exec (.letflyTrigger m src) s = .next t
      ∧ (∀ k, k < 2 → k = m ∨ s.redundant = true → (t.mast k).keys.root = none ∧ (t.mast k).keys.cache = [] ∧ (t.mast k).keys.rsaKey = none
          ∧ t.bit k F.TAMPER_STATE_LETFLY = true ∧ (∀ j, ((t.mast k).keys.slot j).valid = false) ∧ ∀ c, c < 12 → (t.session k c).isOpen = false)
      ∧ t.sails = s.sails ∧ t.conns = s.conns)
    ∧ (∀ d, (s.mast m).keys.recordDue = d + 1 → ∃ t, exec (.tamperRecordFuse m) s = .next t ∧ OnlyMast m s t
      ∧ t.get m F.TAMPER_RECORDS_COUNT = min 32 (s.tamperT m + 1) ∧ (t.mast m).keys = { (s.mast m).keys with recordDue := d })
    ∧ (s.tamperNow m = 0 → ∃ t, exec (.ownerKeyReload m) s = .next t ∧ OnlyMast m s t
      ∧ (t.mast m).keys = { (s.mast m).keys with ownerKey := (s.mast m).keys.ownerOtp } ∧ t.bit m F.DRBG_STATUS_READY = true)
    ∧ (∀ r v, s.Direct m r → s.Reaches m 0x03D 0x044 r true 4 4 → s.privOf m (s.ctxOf m r) = 3 → v % 256 = 0xA5 → s.tamperNow m = 0 →
      s.waitAck m = true → ∃ t, exec (.tamperAck m r 4 v) s = .next t ∧ OnlyMast m s t
      ∧ t.get m F.TAMPER_RECORDS_ACKS = (s.get m F.TAMPER_RECORDS_ACKS + 1) % 2 ^ 6
      ∧ (t.mast m).keys = { (s.mast m).keys with slots := [], cache := [], rsaKey := none } ∧ t.bit m F.DRBG_STATUS_READY = true
      ∧ (t.get m F.SYS_RESET_CAUSE_CAUSE).testBit 5 = true)

/-- NONCE_DRAW gives the requester's context the DRBG's nonce and shows its words, or no nonce and words of 0 while the DRBG gives none;
NONCE_EXPIRY ends a context's nonce and nothing else.  SESSION_OPEN_OWNER during the failure delay shows RESULT 3 and changes nothing else; else the
nonce is used up, a right response opens the context's session at the level asked for (context 6 at OPERATE at most, log entry 24), and a wrong one
counts F and starts its delay.  SESSION_OPEN_PASSWORD with a length of 1 to 64 starts the computation, and PASSWORD_RESULT ends it alike.
SETPW by an OWNER with a length of 1 to 64 sets the password record that PW_SLOT names, with a salt from the DRBG; below OWNER it is denied.
SESSION_CLOSE closes the session of the requester's context, and SESSION_IDLE_TIMEOUT an open session, counted; a context without one is left
alone.  FAIL_DELAY_EXPIRY clears DELAY.LEFT and nothing else. -/
def Obligations.sessions_open_and_end : Prop :=
  (∀ (s : State) (m r : Nat), m < 2 →
     let c := s.ctxOf m r
     let K := (s.mast m).keys
     let opened (t : State) (level idle : Nat) : Prop := t.session m c = ⟨true, if c = 6 then min level 2 else level, if idle = 0 then 600 else idle⟩
       ∧ t.get m F.SESSION_DELAY_FAILS = 0 ∧ t.get m F.SESSION_OPENED = satInc 32 (s.get m F.SESSION_OPENED) ∧ t.bget r m F.SESSION_STATE_RESULT = 1
     let failed (t : State) : Prop := t.session m c = s.session m c
       ∧ t.get m F.SESSION_DELAY_FAILS = min 4095 (s.get m F.SESSION_DELAY_FAILS + 1)
       ∧ t.get m F.SESSION_DELAY_LEFT = min 1024 (2 ^ s.get m F.SESSION_DELAY_FAILS)
       ∧ t.get m F.SESSION_FAILED = satInc 32 (s.get m F.SESSION_FAILED) ∧ t.bget r m F.SESSION_STATE_RESULT = 2
     (s.Reaches m 0x002 0x400 r false 4 4 → ∃ t, exec (.nonceDraw m r 4) s = .next t ∧ OnlyMast m s t
       ∧ (∀ v u, s.drbgRequest m 256 = some (v, u) → Tbl.get (fun _ => none) (t.mast m).keys.nonces c = some v
           ∧ ∀ i, i < 8 → t.word (bankKey r m (F.SESSION_NONCE_NONCE.addr + 4 * i)) = Word.ofNat (v / 2 ^ (32 * i)))
       ∧ (s.drbgRequest m 256 = none → Tbl.get (fun _ => none) (t.mast m).keys.nonces c = none
           ∧ ∀ i, i < 8 → t.word (bankKey r m (F.SESSION_NONCE_NONCE.addr + 4 * i)) = 0))
     ∧ (∀ x, ∃ t, exec (.nonceExpiry m x) s = .next t ∧ OnlyMast m s t ∧ t.regs = s.regs
       ∧ (t.mast m).keys = { K with nonces := (t.mast m).keys.nonces } ∧ Tbl.get (fun _ => none) (t.mast m).keys.nonces x = none
       ∧ ∀ y, y ≠ x → Tbl.get (fun _ => none) (t.mast m).keys.nonces y = Tbl.get (fun _ => none) K.nonces y)
     ∧ (s.Direct m r → s.Reaches m 0x002 0x0A8 r true 4 4 → ∃ t, exec (.sessionOpenOwner m r 4) s = .next t ∧ OnlyMast m s t
       ∧ (s.get m F.SESSION_DELAY_LEFT ≠ 0 → t.bget r m F.SESSION_STATE_RESULT = 3 ∧ OnlyWords [bankKey r m F.SESSION_STATE_RESULT.addr] s t)
       ∧ (s.get m F.SESSION_DELAY_LEFT = 0 → Tbl.get (fun _ => none) (t.mast m).keys.nonces c = none)
       ∧ (s.get m F.SESSION_DELAY_LEFT = 0 → s.ownerOk m r = true →
           opened t (s.bget r m F.SESSION_REQ_PRIV) (s.bget r m F.SESSION_REQ_IDLE_S))
       ∧ (s.get m F.SESSION_DELAY_LEFT = 0 → s.ownerOk m r = false → failed t))
     ∧ (∀ v, s.Direct m r → s.Reaches m 0x002 0x0A8 r true 4 4 → s.get m F.SESSION_DELAY_LEFT = 0 →
       let n := v / 2 ^ 8 % 2 ^ 7
       ∃ t, exec (.sessionOpenPassword m r 4 v) s = .next t ∧ OnlyMast m s t
       ∧ (1 ≤ n → n ≤ 64 → (∀ y ∈ K.pwTry, y.req ≠ r) → t.bget r m F.SESSION_STATE_BUSY = 1 ∧ (t.mast m).keys.pwTry = K.pwTry ++
           [⟨r, s.bget r m F.SESSION_REQ_PRIV, s.bget r m F.SESSION_REQ_IDLE_S, s.bankBytes r m F.SESSION_PW_BYTES 16 n⟩])
       ∧ (n = 0 ∨ 64 < n → failed t))
     ∧ (∀ x, K.pwTry.find? (fun x => x.req == r) = some x → ∃ t, exec (.passwordResult m r) s = .next t ∧ OnlyMast m s t
       ∧ (t.mast m).keys.pwTry = K.pwTry.erase x ∧ t.bget r m F.SESSION_STATE_BUSY = 0
       ∧ (K.pwOk x = true → opened t x.priv x.idle) ∧ (K.pwOk x = false → failed t)))
  ∧ (∀ (s : State) (m r : Nat), m < 2 →
        (s.Direct m r → s.Reaches m 0x002 0x0A8 r true 4 4 →
          (∀ v, let n := v / 2 ^ 8 % 2 ^ 7
           ∃ t, exec (.setpw m r 4 v) s = .next t
            ∧ (s.privOf m (s.ctxOf m r) < 3 → t.get m F.SESSION_DENIED_W = satInc 32 (s.get m F.SESSION_DENIED_W)
                ∧ (t.mast m).keys = (s.mast m).keys)
            ∧ (∀ salt u, 3 ≤ s.privOf m (s.ctxOf m r) → 1 ≤ n → n ≤ 64 → s.drbgRequest m 128 = some (salt, u) → OnlyMast m u t
                ∧ Tbl.get (fun _ => none) (t.mast m).keys.pwRecords (min 2 (s.bget r m F.SESSION_REQ_PW_SLOT)) =
                    some ⟨salt, leNat (pbkdf2 (s.bankBytes r m F.SESSION_PW_BYTES 16 n) (leBytes 16 salt) 10000), s.bget r m F.SESSION_REQ_PRIV⟩))
          ∧ ∃ t, exec (.sessionClose m r 4) s = .next t ∧ OnlyMast m s t ∧ (t.session m (s.ctxOf m r)).isOpen = false
            ∧ ∀ c, c ≠ s.ctxOf m r → t.session m c = s.session m c)
        ∧ (∀ c, (s.session m c).isOpen = true → ∃ t, exec (.sessionIdleTimeout m c) s = .next t ∧ OnlyMast m s t
          ∧ (t.session m c).isOpen = false ∧ t.get m F.SESSION_TIMEOUTS = satInc 32 (s.get m F.SESSION_TIMEOUTS)
          ∧ ∀ x, x ≠ c → t.session m x = s.session m x)
        ∧ (∀ c, (s.session m c).isOpen = false → exec (.sessionIdleTimeout m c) s = .next s)
        ∧ ∃ t, exec (.failDelayExpiry m) s = .next t ∧ t.get m F.SESSION_DELAY_LEFT = 0 ∧ t.get m F.SESSION_DELAY_FAILS = s.get m F.SESSION_DELAY_FAILS
          ∧ OnlyWords [key m F.SESSION_DELAY_LEFT.addr] s t)

/-- A full REGISTER_WRITE to a COMP register with pending copies writes the pending copy of its RWB fields and leaves every active value.  A
core's store to words 0–4 or 8–15 of a node record changes that record alone, one to words 5–7 is dropped with a bus error and counted, and one to shared
core memory changes the bytes it names.  An access below the page's minimum is counted in DENIED_W and leaves a register of the page as it
was; a narrow one leaves ACCERR; one to an unlisted page leaves its address in BUS_ERR_ADDR.  UNMAPPED_ACCESS does that and reads all ones. -/
def Obligations.register_writes : Prop :=
  ∀ (s : State) (m r : Nat), s.fitted m = true → s.Direct m r →
    (∀ off v x i, off % 4 = 0 → 0x040 ≤ off → off < 0x400 → rowOf m 0x01A off = some (x, i) → s.pageArmed m 0x01A = false → x.rw = 0 → x.wo = 0 →
      x.rwl = 0 → x.w1c = 0 → x.bank = false →
      s.hidden m 0x01A r = false → s.allowed m 0x01A off r true = true →
      ∃ t, exec (.registerWrite m r (.reg 0x01A off 4 v .empty)) s = .next t ∧ t = { s with regs := t.regs }
      ∧ (x.rwb ≠ 0 → t.word (key m (0x01A000 + off + 0x800)) =
          ((s.word (key m (0x01A000 + off + 0x800)) &&& ~~~(Word.ofNat x.rwb)) ||| (Word.ofNat v &&& Word.ofNat x.rwb)))
      ∧ ∀ k, k ≠ key m (0x01A000 + off + 0x800) → k ≠ key m (F.HDR_PENDING_PEND.page 0x01A).addr → t.word k = s.word k)
    ∧ (∀ n off w v, r < 16 → n < 131072 → off < 256 → w ≤ 8 → off % 16 + w ≤ 16 →
      (off < 80 ∨ 128 ≤ off → ∃ t, exec (.registerWrite m r (.record n off w v)) s = .next t ∧ OnlyMast m s t ∧ t.regs = s.regs
        ∧ (t.mast m).node n = ((s.mast m).node n).store 0 off w v ∧ ∀ j, j ≠ n → (t.mast m).node j = (s.mast m).node j)
      ∧ (80 ≤ off → off < 128 → ∃ t, exec (.registerWrite m r (.record n off w v)) s = .next t ∧ t = { s with regs := t.regs, out := .busError m r :: s.out }
        ∧ t.get m F.KEYS_DIRECT_WR = satInc 32 (s.get m F.KEYS_DIRECT_WR)))
    ∧ (∀ a w v, r < 16 → w ≤ 8 → a + w ≤ 0xA00000 → (s.mast m).camp.running = false →
      ∃ t, exec (.registerWrite m r (.core a w v)) s = .next t ∧ OnlyMast m s t ∧ t.regs = s.regs
      ∧ (∀ i, i < w → (t.mast m).coreByte (a + i) = v / 2 ^ (8 * i) % 256)
      ∧ ∀ b, b < a ∨ a + w ≤ b → (t.mast m).coreByte b = (s.mast m).coreByte b)
    ∧ (∀ page off v, mastListed page = true → page ≠ 0x048 → off < 0x1000 → s.hidden m page r = false → s.allowed m page off r true = false →
      ∃ t, exec (.registerWrite m r (.reg page off 4 v .empty)) s = .next t ∧ OnlyMast m s t
      ∧ t.get m F.SESSION_DENIED_W = satInc 32 (s.get m F.SESSION_DENIED_W)
      ∧ (t.word (key m (page * 4096 + 0x00C))).getLsbD 2 = true
      ∧ ∀ o, 0x040 ≤ o → o < 0x1000 → page ≠ 0x002 → page ≠ 0x003 → t.word (key m (page * 4096 + o)) = s.word (key m (page * 4096 + o)))
    ∧ (∀ off v, off < 0x1000 → off % 2 = 0 → s.hidden m 0x01A r = false → s.allowed m 0x01A off r true = true →
      ∃ t, exec (.registerWrite m r (.reg 0x01A off 2 v .empty)) s = .next t ∧ (t.word (key m 0x01A00C)).getLsbD 0 = true
      ∧ OnlyWords [key m 0x01A00C, key m 0x01A01C] s t)
    ∧ (∀ page off v, page < 1024 → off < 4096 → mastListed page = false → ∃ t, exec (.registerWrite m r (.reg page off 4 v .empty)) s = .next t
      ∧ t.get m F.SYS_BUS_ERR_ADDR = m * 2 ^ 22 + page * 4096 + off ∧ t.get m F.SYS_UNMAPPED = satInc 32 (s.get m F.SYS_UNMAPPED)
      ∧ OnlyWords [key m F.SYS_BUS_ERR_ADDR.addr, key m F.SYS_UNMAPPED.addr] s t)
    ∧ (∀ a, a / 2 ^ 22 % 4 = 3 ∨ mastListed (a / 4096 % 1024) = false → ∃ t, exec (.unmappedAccess m r a false) s = .next t
      ∧ t = { s with regs := t.regs, out := .read m r [2 ^ 32 - 1] :: s.out } ∧ t.get m F.SYS_BUS_ERR_ADDR = a % 2 ^ 24
      ∧ t.get m F.SYS_UNMAPPED = satInc 32 (s.get m F.SYS_UNMAPPED))

/-- On a listed page of a mast, CNT_CLR clears every live counter of the page and changes, beside them and SNAP_EXCL, no word; IRQ_FORCE adds the
written bits to IRQ_STATUS; PAGE_LOCK sets LOCK and changes no other word; VEC_EOI of a vector that is still pending, with HOST and unmasked on the
active mast, sends its message again, counted, and one that is not pending changes nothing. -/
def Obligations.page_header_commands : Prop :=
  ∀ (s : State) (m r page : Nat), s.fitted m = true → s.Direct m r → mastListed page = true → s.hidden m page r = false →
    (∀ excl, s.allowed m page 0x008 r true = true → ∃ t, exec (.cntClr m r page excl) s = .next t ∧ t = { s with regs := t.regs }
      ∧ (∀ o ∈ counterOffs m page, t.word (key m (page * 4096 + o)) = 0)
      ∧ (∀ k, (∀ o ∈ counterOffs m page, k ≠ key m (page * 4096 + o)) → k ≠ key m (page * 4096 + 0x008) → t.word k = s.word k))
    ∧ (∀ v, s.allowed m page 0x018 r true = true → ∃ t, exec (.irqForce m r page v) s = .next t ∧ OnlyMast m s t
      ∧ t.word (key m (page * 4096 + 0x010)) = (s.word (key m (page * 4096 + 0x010)) ||| Word.ofNat v))
    ∧ (s.allowed m page 0x02C r true = true → ∃ t, exec (.pageLock m r page) s = .next t
      ∧ t.word (key m (page * 4096 + 0x02C)) = (s.word (key m (page * 4096 + 0x02C)) ||| 1) ∧ OnlyWords [key m (page * 4096 + 0x02C)] s t)
    ∧ (∀ v, s.hidden m 0x003 r = false → s.allowed m 0x003 0x300 r true = true →
      (s.vecPending m (v % 64) = false → exec (.vecEoi m r 4 v) s = .next s)
      ∧ (s.vecPending m (v % 64) = true → s.active = m → s.get m (F.IRQ_VEC_TARGET_HOST.at 4 (v % 64)) = 1 →
          (s.mast m).msixMask.contains (v % 64) = false → ∃ t, exec (.vecEoi m r 4 v) s = .next t
          ∧ t = { s with regs := t.regs, out := .msix m (v % 64) :: s.out }
          ∧ t.get m F.IRQ_MSIX_SENT = satInc 32 (s.get m F.IRQ_MSIX_SENT)))

/-- COMMIT_GO with an armed tick commit is refused with LOCKV.  With WHEN.TICK, no run under way, no far write outstanding and no early packet, the
active mast's run has the next SEQ, the mask and a landing ASN, that of the next slot or, once its first TICK packet is out, of the one after; nothing
lands.  SNAP_GO of the mast alone has the next SNAP_SEQ in every page without SNAP_EXCL.  A COMMIT packet that a sail accepts for a
later tick joins its prepared ones, when it holds fewer than four. -/
def Obligations.commits_start : Prop :=
  ∀ (s : State) (m r : Nat), s.Direct m r →
    (∀ v, s.Reaches m 0x001 0x040 r true 4 4 →
      ((s.mast m).runs.any (fun x => x.tick && x.snap.isNone && !(x.landed.contains m)) = true →
        exec (.commitGo m r 4 v) s = .next (s.lockv m 0x001 0x040 r))
      ∧ ((s.mast m).runs = [] → s.farWrites m = [] → (s.mast m).prepared = [] → m = s.active → s.bit m F.COMMIT_WHEN_TICK = true →
        let n := (s.nextSlot m).1
        let asn := if (s.mast m).tickSent = some n then (n + 1) % 2 ^ 40 else n
        let seq := (s.get m F.COMMIT_SEQ_SEQ + 1) % 2 ^ 32
        ∃ t, exec (.commitGo m r 4 v) s = .next t ∧ t.get m F.COMMIT_SEQ_SEQ = seq
        ∧ t.get m F.COMMIT_COMMITS = satInc 32 (s.get m F.COMMIT_COMMITS)
        ∧ (t.mast m).runs = [⟨seq, v % 2 ^ 16, none, true, some asn, s.sailList, [], [], n⟩]
        ∧ (t.mast m).mac = (s.mast m).mac ∧ (t.mast m).sal = (s.mast m).sal ∧ t.sails = s.sails))
    ∧ (∀ v, s.Reaches m 0x001 0x048 r true 4 4 → (s.mast m).runs = [] → v % 4 = 1 →
      ∃ t, exec (.snapGo m r 4 v) s = .next t ∧ t.get m F.COMMIT_SNAP_SEQ_SEQ = (s.get m F.COMMIT_SNAP_SEQ_SEQ + 1) % 2 ^ 32
      ∧ t.get m F.COMMIT_SNAPS = satInc 32 (s.get m F.COMMIT_SNAPS) ∧ t.sails = s.sails
      ∧ ∀ p ∈ mastPages, s.bit m (F.HDR_CTRL_SNAP_EXCL.page p) = false →
          t.get m (F.HDR_SNAP_SEQ_SEQ.page p) = (s.get m F.COMMIT_SNAP_SEQ_SEQ + 1) % 2 ^ 32)
    ∧ (∀ k tag mask asn hdr u, s.accepts k m 0x08 tag (.nums [mask, asn, 1, 0]) hdr = (true, u) →
      ((u.sail k).ticked = false ∨ 0 < sdiff 40 (asn % 2 ^ 40) (u.sail k).asn) → (u.sail k).prepared.length < 4 →
      ∃ t, exec (.commitPacket (k + 2) m tag mask asn true false hdr) s = .next t ∧ OnlySail k u t ∧ t.regs = u.regs
      ∧ (t.sail k).prepared = (u.sail k).prepared ++ [⟨tag, m, mask % 2 ^ 16, asn % 2 ^ 40, 0⟩])

/-- An access of FAR_DATA of 4 or 8 bytes by requester `r` for a fitted sail with a live connection leaves when its requester holds none back and
its turn has come, and else waits; OFFSET advances with AUTO_INC.  For any other die it is refused, counted in FAR_ERR, and a read gives all ones.
A write of the fuse programming below OWNER is denied.  A write that goes is also kept in the mast's copy of the sail's configuration. -/
def Obligations.far_access_issues : Prop :=
  ∀ (s : State) (m r w : Nat), w = 4 ∨ w = 8 → s.Direct m r →
    let page := s.bget r m F.TATRUM_FAR_ADDR_PAGE
    let off := s.bget r m F.TATRUM_FAR_ADDR_OFFSET
    let sail := s.bget r m F.TATRUM_FAR_ADDR_DIE - 2
    let q (tag : Nat) (write : Bool) (v : Nat) : FarReq :=
      { tag := tag, req := r, sail := sail, write := write, wide := decide (w = 8), page := page, off := off, value := v }
    let goes (t : State) (x : FarReq) : Prop :=
      (s.farReady m x = true → (t.mast m).far = (s.mast m).far ++ [x] ∧ (t.mast m).farHeld = (s.mast m).farHeld)
      ∧ (s.farReady m x = false → (t.mast m).farHeld = (s.mast m).farHeld ++ [x] ∧ (t.mast m).far = (s.mast m).far)
      ∧ (s.bget r m F.TATRUM_FAR_ADDR_AUTO_INC = 1 → t.bget r m F.TATRUM_FAR_ADDR_OFFSET = (off + w) % 4096)
    (s.Reaches m 0x008 0x048 r false w w → ∃ t, exec (.farDataRead m r w) s = .next t ∧ OnlyMast m s t
      ∧ (s.farAbsent m r = false → goes t (q (2 ^ 31 + Tbl.get (fun _ => 0) (s.mast m).cmdSeq 64 % 2 ^ 31) false 0))
      ∧ (s.farAbsent m r = true → t.bget64 r m F.TATRUM_FAR_DATA_DATA = 2 ^ 64 - 1 ∧ t.mast m = s.mast m
          ∧ t.get m F.TATRUM_FAR_ERR = satInc 32 (s.get m F.TATRUM_FAR_ERR)))
    ∧ (∀ v, s.Reaches m 0x008 0x048 r true w w → ∃ t, exec (.farDataWrite m r w v) s = .next t ∧ OnlyMast m { s with profPend := t.profPend } t
      ∧ (fuseAccess page off = true → s.privOf m (s.ctxOf m r) < 3 → (t.mast m).far = (s.mast m).far
          ∧ t.get m F.SESSION_DENIED_W = satInc 32 (s.get m F.SESSION_DENIED_W))
      ∧ ((fuseAccess page off = false ∨ 3 ≤ s.privOf m (s.ctxOf m r)) → s.farAbsent m r = false → goes t (q ((s.mast m).farSeq % 2 ^ 31) true v))
      ∧ ((fuseAccess page off = false ∨ 3 ≤ s.privOf m (s.ctxOf m r)) → s.farAbsent m r = true → t.mast m = s.mast m
          ∧ t.get m F.TATRUM_FAR_ERR = satInc 32 (s.get m F.TATRUM_FAR_ERR)))

/-- A far read that a sail takes is answered with the register's value and outcome OK; a far write to a WIN register with pending copies writes the
pending copy alone and is answered OK.  FAR_RESP ends the access that it answers: a read's value is in its requester's FAR_DATA, and a write's
error in ERR.  FAR_TIMEOUT ends an access with TIMEOUT, counted, a read with all ones. -/
def Obligations.far_access_answered : Prop :=
  ∀ (s : State) (k m tag : Nat) (hdr : List LinkPkt),
    (∀ page off u, s.arrive k m 0x04 hdr = (true, u) → sailPages.contains page = true → page ≠ 0x021 → off % 4 = 0 →
      exec (.farReadPacket k m tag page off false hdr) s =
        .next (u.answerFar k m tag 0 (u.readWord (sailDie k) 18 page off).toNat))
    ∧ (∀ off v x i u, v < 2 ^ 32 → s.accepts k m 0x05 tag (.nums [0x009, off, 0, v, 0]) hdr = (true, u) → off % 4 = 0 → 0x040 ≤ off → off < 0x400 →
      rowOf (sailDie k) 0x009 off = some (x, i) → x.rwb ≠ 0 → x.rw = 0 → x.wo = 0 → x.rwl = 0 → x.w1c = 0 → x.bank = false →
      u.pageArmed (sailDie k) 0x009 = false →
      let p := key (sailDie k) (0x009000 + off + 0x800)
      ∃ w : State, exec (.farWritePacket k m tag 0x009 off false v hdr) s = .next (w.answerFar k m tag 0 0)
      ∧ w.word p = ((u.word p &&& ~~~(Word.ofNat x.rwb)) ||| (Word.ofNat v &&& Word.ofNat x.rwb))
      ∧ OnlyWords [p, key (sailDie k) (F.HDR_PENDING_PEND.page 0x009).addr] u w)
    ∧ (∀ q outcome lo hi u w, m < 2 → s.fitted m = true → s.hasSail k = true → lo < 2 ^ 32 → hi < 2 ^ 32 →
      s.receive (connId m k) true 0x06 hdr = (true, u) → u.mirror m (.farResp k tag outcome lo hi) 0 = some w → w.farOf m tag = some q → q.sail = k →
      ∃ t, exec (.farResp m k tag outcome lo hi hdr) s = .next t ∧ OnlyMast m w t
      ∧ (q.write = false → t.bget64 q.req m F.TATRUM_FAR_DATA_DATA = if q.wide then lo + 2 ^ 32 * hi else lo)
      ∧ (q.write = true → outcome ≠ 0 → t.bget q.req m F.TATRUM_FAR_STATUS_ERR = 1)
      ∧ ((w.mast m).farHeld = [] → (t.mast m).far = (w.mast m).far.filter (fun x => x.tag != tag)))
    ∧ (∀ q, m < 2 → s.farOf m tag = some q → ∃ t, exec (.farTimeout m tag) s = .next t ∧ OnlyMast m s t
      ∧ t.bget q.req m F.TATRUM_FAR_STATUS_TIMEOUT = 1 ∧ t.get m F.TATRUM_FAR_TIMEOUT = satInc 32 (s.get m F.TATRUM_FAR_TIMEOUT)
      ∧ (q.write = false → t.bget64 q.req m F.TATRUM_FAR_DATA_DATA = if q.wide then 2 ^ 64 - 1 else 2 ^ 32 - 1)
      ∧ ((s.mast m).farHeld = [] → (t.mast m).far = (s.mast m).far.filter (fun x => x.tag != tag)))

/-- NV_RECORD_WRITE_DONE of the config or campaign store with success makes the oldest write's record the newest, with the next SEQ, in the bank that
was its target; failed, the older record stays, the failure is counted, and the bank holds a torn record.  A write that waited behind it begins.  A checkpoint pass starts at its period, or at a CHECKPOINT 120
minutes after the last began (else RESULT 1), and CHECKPOINT_DONE keeps its record or counts a failure.  RING_SECTOR_ERASE frees the sector after
the one in use; SAVE_CAL starts a config write with the calibration of every sail. -/
def Obligations.nv_records_complete : Prop :=
  ∀ (s : State) (m : Nat), m < 2 → s.fitted m = true →
    let N := (s.mast m).nv
    let newest (t : State) (k : Nat) : Prop :=
      t.get m (nvf F.NVSTORE_SEQ_SEQ k) = (s.get m (nvf F.NVSTORE_SEQ_SEQ k) + 1) % 2 ^ 32
      ∧ t.get m (nvf F.NVSTORE_BANK_IN_USE k) = s.nvTarget m k ∧ t.bit m (nvf (validBit (s.nvTarget m k)) k) = true
      ∧ t.get m F.NVSTORE_WRITES = satInc 32 (s.get m F.NVSTORE_WRITES)
    let failed (t : State) : Prop := t.get m F.NVSTORE_WRITE_FAIL = satInc 32 (s.get m F.NVSTORE_WRITE_FAIL)
    (∀ c rest, N.cfgJobs = c :: rest → (∃ t, exec (.nvRecordWriteDone m 0 true) s = .next t ∧ OnlyMast m s t ∧ newest t 0
        ∧ (t.mast m).nv.cfg = some c ∧ (t.mast m).nv.cfgJobs = rest ∧ (rest = [] → (t.mast m).nv = { N with cfg := some c, cfgJobs := [] }))
      ∧ ∃ t, exec (.nvRecordWriteDone m 0 false) s = .next t ∧ OnlyMast m s t ∧ failed t
        ∧ (t.mast m).nv.cfg = N.cfg ∧ (t.mast m).nv.cfgJobs = rest ∧ (rest = [] → (t.mast m).nv = { N with cfgJobs := [], torn := N.torn.insert 0 }))
    ∧ (∀ c rest, N.campJobs = c :: rest → (∃ t, exec (.nvRecordWriteDone m 2 true) s = .next t ∧ OnlyMast m s t ∧ newest t 2
        ∧ (t.mast m).nv.camp = some c ∧ (t.mast m).nv.campJobs = rest ∧ (rest = [] → (t.mast m).nv = { N with camp := some c, campJobs := [] }))
      ∧ ∃ t, exec (.nvRecordWriteDone m 2 false) s = .next t ∧ OnlyMast m s t ∧ failed t
        ∧ (t.mast m).nv.camp = N.camp ∧ (t.mast m).nv.campJobs = rest ∧ (rest = [] → (t.mast m).nv = { N with campJobs := [], torn := N.torn.insert 2 }))
    ∧ (∀ k, s.ringNext m % 256 ≠ 0 → (s.ringNext m / 256 + 1) % 256 = k → ∃ t, exec (.ringSectorErase m k) s = .next t ∧ OnlyMast m s t
      ∧ t.regs = s.regs ∧ (t.mast m).nv = { N with ringUsed := N.ringUsed.erase k })
    ∧ (s.bit m F.NVSTORE_CKPT_CFG_EN = true → N.ckptJob = none → ∃ t, exec (.checkpointPeriodic m) s = .next t ∧ OnlyMast m s t
      ∧ (t.mast m).nv.ckptJob.isSome = true ∧ (t.mast m).nv.ckptStart = some (s.localNs m) ∧ t.bit m F.NVSTORE_STATUS_CKPT_BUSY = true)
    ∧ (∀ c, N.ckptJob = some c → (∃ t, exec (.checkpointDone m true) s = .next t ∧ OnlyMast m s t ∧ newest t 3
        ∧ (t.mast m).nv = { N with ckpt := some c, ckptJob := none, ckptEnd := some (s.localNs m) } ∧ t.bit m F.NVSTORE_STATUS_CKPT_BUSY = false
        ∧ t.get m F.NVSTORE_CKPT_DONE = satInc 32 (s.get m F.NVSTORE_CKPT_DONE))
      ∧ ∃ t, exec (.checkpointDone m false) s = .next t ∧ OnlyMast m s t ∧ failed t ∧ (t.mast m).nv = { N with ckptJob := none, torn := N.torn.insert 3 }
        ∧ t.get m F.NVSTORE_STATUS_RESULT = 2)
    ∧ (∀ r, s.Direct m r → s.Reaches m 0x042 0x044 r true 4 4 →
      (∃ t, exec (.checkpoint m r 4) s = .next t ∧ OnlyMast m s t
        ∧ (∀ a, N.ckptStart = some a → s.localNs m < a + 7200000000000 → t.get m F.NVSTORE_STATUS_RESULT = 1 ∧ t.mast m = s.mast m)
        ∧ ((∀ a, N.ckptStart = some a → a + 7200000000000 ≤ s.localNs m) → t.get m F.NVSTORE_STATUS_RESULT = 0
            ∧ (t.mast m).nv.ckptJob.isSome = true ∧ (t.mast m).nv.ckptStart = some (s.localNs m)))
      ∧ ∃ t, exec (.saveCal m r 4) s = .next t ∧ OnlyMast m s t ∧ t.get m F.NVSTORE_STATUS_RESULT = 0
        ∧ (t.mast m).nv.cfgJobs = N.cfgJobs ++ [{ s.cfgNow m with cal := s.calNow }])

/-- A FLASH operation is refused with LOCKV while BUSY; one whose check fails ends with that RESULT, counted; any other is under way with BUSY set.
FLASH_DONE of a read loads the buffer; of a program clears bits of the 256 bytes alone, with RESULT 2 where they do not then read as written; of an
erase leaves the 4 096 bytes 0xFF; and clears BUSY. -/
def Obligations.flash_page_works : Prop :=
  ∀ (s : State) (m : Nat), m < 2 → s.fitted m = true →
    let N := (s.mast m).nv
    let a := s.get m F.FLASH_ADDR_ADDR
    let busy := s.bit m F.FLASH_STATUS_BUSY
    let goes (r op : Nat) (c : Instr) : Prop :=
      (busy = true → exec c s = .next (s.lockv m 0x043 0x044 r))
      ∧ (busy = false → ∃ t, exec c s = .next t ∧ OnlyMast m s t
        ∧ (s.flashCheck m r op a = 0 → (t.mast m).nv.flashOp = some ⟨op, a, if op = 2 then s.regBytes m F.FLASH_DATA_DATA 64 256 else []⟩
            ∧ t.bit m F.FLASH_STATUS_BUSY = true)
        ∧ (s.flashCheck m r op a ≠ 0 → t.get m F.FLASH_STATUS_RESULT = s.flashCheck m r op a
            ∧ t.get m F.FLASH_ERRORS = satInc 32 (s.get m F.FLASH_ERRORS) ∧ (t.mast m).nv = { N with flashOp := none }))
    (∀ r, s.Direct m r → s.Reaches m 0x043 0x044 r true 4 4 →
      goes r 1 (.flashRead m r 4) ∧ goes r 2 (.flashProgram m r 4) ∧ goes r 3 (.flashErase m r 4))
    ∧ (∀ o u, N.flashOp = some o → o.op = 1 → m = s.active ∨ s.mirroring = false →
      s.mirror m (.data 2 o.addr (leNat (N.bytes o.addr 256))) 0 = some u → ∃ t, exec (.flashDone m 0) s = .next t ∧ OnlyMast m u t
      ∧ (∀ i, i < 64 → t.get m (F.FLASH_DATA_DATA.at 4 i) = leNat (((N.bytes o.addr 256).drop (4 * i)).take 4))
      ∧ t.bit m F.FLASH_STATUS_BUSY = false ∧ t.get m F.FLASH_STATUS_RESULT = 0
      ∧ t.get m F.FLASH_READS = satInc 32 (s.get m F.FLASH_READS))
    ∧ (∀ o, N.flashOp = some o → o.op = 2 → o.data.length = 256 → (∀ d ∈ o.data, d < 256) → ∃ t, exec (.flashDone m 0) s = .next t ∧ OnlyMast m s t
      ∧ (∀ i, i < 256 → (t.mast m).nv.byte (o.addr + i) = (N.byte (o.addr + i) &&& o.data.getD i 0))
      ∧ (∀ x, x < o.addr ∨ o.addr + 256 ≤ x → (t.mast m).nv.byte x = N.byte x)
      ∧ t.get m F.FLASH_STATUS_RESULT = (if (t.mast m).nv.bytes o.addr 256 = o.data then 0 else 2)
      ∧ (t.mast m).nv.flashOp = none ∧ t.get m F.FLASH_PROGRAMS = satInc 32 (s.get m F.FLASH_PROGRAMS))
    ∧ (∀ o, N.flashOp = some o → o.op = 3 → ∃ t, exec (.flashDone m 0) s = .next t ∧ OnlyMast m s t
      ∧ (∀ i, i < 4096 → (t.mast m).nv.byte (o.addr + i) = 0xFF) ∧ (∀ x, x < o.addr ∨ o.addr + 4096 ≤ x → (t.mast m).nv.byte x = N.byte x)
      ∧ t.get m F.FLASH_STATUS_RESULT = 0 ∧ (t.mast m).nv.flashOp = none ∧ t.get m F.FLASH_ERASES = satInc 32 (s.get m F.FLASH_ERASES))

/-- FEEDS_GOOD, held in reset, leaves every fitted mast waiting for its boot ROM without a root, with what its flash holds, a reset cause, and the
phase that the reference allows; it changes nothing outside phase 0.  RESET_N does the same of a running package.  BROWN_OUT holds the package in
reset.  REFERENCE_VALID marks its reference and the clock lock on every fitted mast and lets a package that waits go on.
THERM_CONV starts the conversions whose bits are set, and THERM_PERIODIC with a period both, one in progress merging; nothing else changes.
CONVERSION_DONE of a conversion in progress ends it and shows TEMP or the four rails on a mast, or SENSE_NOW on a sail; of any other it changes nothing. -/
def Obligations.package_power_and_heat : Prop :=
  (∀ s : State,
     let begun (t : State) (cause : Nat) : Prop := t.phase = (if s.refValid then 2 else 1) ∧ t.browned = false ∧ t.reefed = false ∧ t.shadow = none
       ∧ ∀ m, m < 2 → s.fitted m = true → (t.mast m).booting = true ∧ (t.mast m).bootStep = 2 ∧ (t.mast m).keys.root = none
         ∧ (t.mast m).nv.cfg = (s.mast m).nv.cfg ∧ (t.get m F.SYS_RESET_CAUSE_CAUSE).testBit cause = true
     (∀ test fails, (s.phase = 0 → ∃ t, exec (.feedsGood test fails) s = .next t ∧ begun t (if s.browned then 1 else 0) ∧ t.testEn = test)
       ∧ (s.phase ≠ 0 → exec (.feedsGood test fails) s = .next s))
     ∧ (∀ fails, (s.phase ≠ 0 → ∃ t, exec (.resetN fails) s = .next t ∧ begun t 2 ∧ t.testEn = s.testEn)
       ∧ (s.phase = 0 → exec (.resetN fails) s = .next s))
     ∧ (∃ t, exec .brownOut s = .next t ∧ t.phase = 0 ∧ t.browned = true
       ∧ ∀ m, m < 2 → s.fitted m = true → (t.mast m).keys.root = none ∧ (t.mast m).nv.cfg = (s.mast m).nv.cfg ∧ (t.mast m).booting = false)
     ∧ (∀ ref, ref < 2 → (s.phase = 0 → exec (.referenceValid ref) s = .next { s with refValid := true })
       ∧ (s.phase ≠ 0 → ∃ t, exec (.referenceValid ref) s = .next t ∧ t = { s with regs := t.regs, refValid := true, phase := 2 }
         ∧ ∀ m, m < 2 → s.fitted m = true → t.bit m F.TIME_LOCAL_STATUS_PLL_LOCK = true
           ∧ t.bit m (if ref = 0 then F.TIME_LOCAL_STATUS_REF_A_OK else F.TIME_LOCAL_STATUS_REF_B_OK) = true)))
  ∧ (∀ (s : State) (d : Nat), d < 8 → s.fitted d = true →
        (∀ r v, s.Direct d r → s.Reaches d 0x006 0x044 r true 4 4 → ∃ t, exec (.thermConv d r 4 v) s = .next t ∧ t = { s with convs := t.convs }
          ∧ ∀ x, x ∈ t.convs ↔ x ∈ s.convs ∨ (x = (d, 0) ∧ v % 2 = 1) ∨ (x = (d, 1) ∧ v / 2 % 2 = 1))
        ∧ (d < 2 → s.get d F.THERM_CFG_PERIOD ≠ 0 → ∃ t, exec (.thermPeriodic d) s = .next t ∧ t = { s with convs := t.convs }
          ∧ ∀ x, x ∈ t.convs ↔ x ∈ s.convs ∨ x = (d, 0) ∨ x = (d, 1))
        ∧ (d < 2 → s.get d F.THERM_CFG_PERIOD = 0 → exec (.thermPeriodic d) s = .next s)
        ∧ (∀ kind vals, s.convs.contains (d, kind) = false → exec (.conversionDone d kind vals) s = .next s)
        ∧ (∀ kind vals, kind < 2 → s.convs.contains (d, kind) = true → d < 2 → s.mirroring = false → ∃ t, exec (.conversionDone d kind vals) s = .next t
          ∧ t.convs = s.convs.erase (d, kind) ∧ (kind = 0 → t.get d F.THERM_TEMP_TEMP = unsigned 16 (vals.getD 0 0) % 2 ^ 16)
          ∧ (kind = 1 → ∀ i, i < 4 → t.get d (F.THERM_RAIL_MV.at 4 i) = unsigned 12 (vals.getD i 0) % 2 ^ 12))
        ∧ (∀ kind vals, kind < 2 → s.convs.contains (d, kind) = true → 2 ≤ d → ∃ t, exec (.conversionDone d kind vals) s = .next t
          ∧ t.convs = s.convs.erase (d, kind) ∧ t.get d (if kind = 0 then F.PWR_SENSE_NOW_TEMP else F.PWR_SENSE_NOW_VDAC) = unsigned 16 (vals.getD 0 0) % 2 ^ 16))

/-- BOOT_ROM without a valid header copy leaves the mast in recovery with RESULT 1.  With header copy A and no trial or fuses pending, the mast boots
its set slot, or else the other one, or else is in recovery with RESULT 2.  MAST_B_ROLE_TIMEOUT gives mast B the active role with EPOCH 2, OUT of
step, and resets every fitted sail.  REEFED_SAIL_RESUME ungates a gated sail; LOWPWR_REQUEST records the request alone; TAP_INSTRUCTION records the
instruction, IDCODE is shifted out, and one that holds the chain leaves the mast without power. -/
def Obligations.boot_and_first_role : Prop :=
  ∀ s : State,
    (∀ m, m < 2 → s.fitted m = true → s.phase = 2 → s.testEn = false → (s.mast m).booting = true → tapHolds (Tbl.get (fun _ => 0xFF) s.tap m) = false →
      let N := (s.mast m).nv
      let u := (N.cfg.getD ⟨UpdRec.fresh, []⟩).upd
      (N.headerOk 0 = false → N.headerOk 0x8000 = false → ∃ t, exec (.bootRom m) s = .next t ∧ OnlyWords [key m F.FLASH_BOOT_RESULT.addr] s t
        ∧ t.get m F.FLASH_BOOT_RESULT = 1 ∧ t.get m F.FLASH_BOOT_RECOVERY = 1)
      ∧ (N.headerOk 0 = true → u.mode = 0 → u.secPend = none → u.revPend = 0 → u.setSlot < 2 → ∃ t, exec (.bootRom m) s = .next t
        ∧ (s.bootable m u.setSlot = true ∨ s.bootable m (1 - u.setSlot) = true → (t.mast m).booting = false ∧ (t.mast m).bootStep = 9)
        ∧ (s.bootable m u.setSlot = false → s.bootable m (1 - u.setSlot) = false → (t.mast m).booting = true
            ∧ t.get m F.FLASH_BOOT_RESULT = 2 ∧ t.get m F.FLASH_BOOT_RECOVERY = 1)))
    ∧ (s.redundant = true → s.phase = 2 → (s.mast 1).bootStep = 9 → s.bit 1 F.PAIR_ROLE_ACTIVE = false → s.bit 1 F.PAIR_STATE_PEER_PRESENT = false →
      s.pairState 1 = 4 → ∃ t, exec .mastBRoleTimeout s = .next t ∧ t.bit 1 F.PAIR_ROLE_ACTIVE = true ∧ t.get 1 F.PAIR_ROLE_EPOCH = 2
      ∧ t.pairState 1 = 5 ∧ (∀ k, s.hasSail k = true → t.get (sailDie k) F.SSYS_STATE_STATE = 1) ∧ t.mast 0 = s.mast 0 ∧ t.mast 1 = s.mast 1)
    ∧ (∀ k, s.hasSail k = true → s.reefed = false → (s.sail k).gated = true → ∃ t, exec (.reefedSailResume k) s = .next t
      ∧ (t.sail k).gated = false ∧ t.get (sailDie k) F.SSYS_STATE_STATE = 2 ∧ (∀ j, j ≠ k → t.sail j = s.sail j))
    ∧ (∀ on, exec (.lowpwrRequest on) s = .next { s with lowpwr := on })
    ∧ ∀ m op, m < 2 → s.fitted m = true → ∃ t, exec (.tapInstruction m op) s = .next t ∧ Tbl.get (fun _ => 0xFF) t.tap m = op % 256
      ∧ Tbl.get (fun _ => 0xFF) t.tap (1 - m) = Tbl.get (fun _ => 0xFF) s.tap (1 - m)
      ∧ (op % 256 = 2 → t = { s with tap := t.tap, out := .scan m (s.idcode m) :: s.out })
      ∧ (op % 256 ≠ 2 → tapHolds (op % 256) = false → t = { s with tap := t.tap })
      ∧ (tapHolds (op % 256) = true → (t.mast m).bootStep = 1 ∧ (t.mast m).keys.root = none ∧ (t.mast m).nv.cfg = (s.mast m).nv.cfg)

/-- A SYS_RESET_SELF with its key, and a WATCHDOG_EXPIRY with the watchdog on, restart the mast at step 5: its words take their reset values but for
those kept and for the latched SELF_FAULT, its root and config record stay, the other mast and the sails stay, and the cause is shown.  SYS_RESET_PAIR_PEER from OWNER does so to
the peer.  WDT_KICK with 0x5A5A restarts the watchdog time, WDT_WARN raises event bit 1 of SYS, TMR_SCRUB votes each triplicated word, leaving one that a
single copy disturbed as it was and counting that copy, and SSYS_RESET with its key resets the sail, which keeps its OTP. -/
def Obligations.resets_of_one_die : Prop :=
  ∀ s : State,
    let restarted (t : State) (m cause : Nat) : Prop := (t.mast m).booting = true ∧ (t.mast m).bootStep = 5
      ∧ (t.mast m).keys.root = (s.mast m).keys.root ∧ (t.mast m).nv.cfg = (s.mast m).nv.cfg ∧ t.mast (1 - m) = s.mast (1 - m) ∧ t.sails = s.sails
      ∧ (t.get m F.SYS_RESET_CAUSE_CAUSE).testBit cause = true
      ∧ ∀ a, a < 2 ^ 24 → keepWord a = false → a ≠ F.PAIR_STATE_SELF_FAULT.addr → a ≠ 0x004010 → t.word (key m a) = resetWord (key m a)
    (∀ m r v, s.Direct m r → s.Reaches m 0x000 0x044 r true 4 4 → v / 256 % 256 = 0xE7 →
      (v % 4 = 1 → ∃ t, exec (.sysResetSelf m r 4 v) s = .next t ∧ restarted t m 4)
      ∧ (v % 4 = 2 → s.redundant = true → 3 ≤ s.privOf m (s.ctxOf m r) → ∃ t, exec (.sysResetPairPeer m r 4 v) s = .next t ∧ restarted t (1 - m) 6))
    ∧ (∀ m r v, s.Direct m r → s.Reaches m 0x000 0x044 r true 4 4 → v / 256 % 256 ≠ 0xE7 →
      exec (.sysResetSelf m r 4 v) s = .next s ∧ exec (.sysResetPairPeer m r 4 v) s = .next s)
    ∧ (∀ m r v, s.Direct m r → s.Reaches m 0x000 0x04C r true 4 4 →
      (v % 65536 = 0x5A5A → exec (.wdtKick m r 4 v) s = .next (s.setMast m { s.mast m with wdtAt := s.localNs m }))
      ∧ (v % 65536 ≠ 0x5A5A → exec (.wdtKick m r 4 v) s = .next s))
    ∧ (∀ m, m < 2 → s.fitted m = true → s.bit m F.SYS_WDT_EN = true →
      (∃ t, exec (.wdtWarn m) s = .next t ∧ OnlyMast m s t ∧ t.word (key m 0x10) = (s.word (key m 0x10) ||| Word.ofNat 2))
      ∧ ∃ t, exec (.watchdogExpiry m) s = .next t ∧ restarted t m 3)
    ∧ (∀ d u, d < 8 → s.fitted d = true → tmrWord d u.addr = true →
      let f := if d < 2 then F.SYS_TMR_FIX else F.SSYS_TMR_FIX_COUNT
      exec (.tmrScrub d []) s = .next s ∧ ∃ t, exec (.tmrScrub d [u]) s = .next t
      ∧ (u.a % 2 ^ 32 = 0 → u.b % 2 ^ 32 = 0 → t.tmrRead d u.addr = s.tmrRead d u.addr
          ∧ t.get d f = min (s.get d f + if u.c % 2 ^ 32 = 0 then 0 else 1) (2 ^ 32 - 1))
      ∧ (2 ≤ d ∨ attrSlot u.addr = none ∧ genSlot u.addr = none → Word.ofNat u.a = Word.ofNat u.b →
          t.word (key d u.addr) = s.word (key d u.addr) ^^^ Word.ofNat u.a ∧ OnlyWords [key d u.addr, key d f.addr] s t))
    ∧ ∀ k r v, s.hasSail k = true →
      (v / 256 % 256 = 0xE7 ∧ v % 2 = 1 → ∃ t, exec (.ssysReset k r 4 v) s = .next t
        ∧ t.sail k = { Sail.reset with clkBase := s.now, otp := (s.sail k).otp } ∧ (t.get (sailDie k) F.SSYS_RESET_CAUSE_CAUSE).testBit 1 = true
        ∧ (∀ j, j ≠ k → t.sail j = s.sail j) ∧ t.get (sailDie k) F.SSYS_STATE_STATE = 1 ∧ t.mastA = s.mastA ∧ t.mastB = s.mastB)
      ∧ (¬ (v / 256 % 256 = 0xE7 ∧ v % 2 = 1) → exec (.ssysReset k r 4 v) s = .next s)

/-- TIMER_MATCH of a timer without an action on match sets COUNT to MATCH and MATCH in TSTAT; TIMER_WRAP without an action on wrap sets COUNT to 0 and
WRAP, and a chained odd timer above it advances by one.  TIMER_CAPTURE of a source that is not reserved puts COUNT in TCAP and sets FRESH, with OVR when it
was set.  TCAP_READ clears FRESH; TCOUNT_READ of an even timer puts the odd timer's COUNT in THOLD.
GROUP_START sets EN of exactly the timers of its mask and GROUP_STOP clears it, and no COUNT of a mast timer changes at that instant.  DEBUG_HALT
and DEBUG_HALT_EXIT enter and leave debug halt, every COUNT standing as it was; a mast does not enter it while WAIT_ACK is set.  TIMER_WAKE, but of a
sail that reefed mode gates, sets SLEPT of every timer and, with no chain and no action set, carries each enabled timer from its COUNT at the gating by
the ticks that the slow clock counted, none while that clock is absent. -/
def Obligations.timers_count_and_obey : Prop :=
  (∀ (s : State) (d i : Nat), s.hasTimer d i = true →
     let count (t : State) (n : Nat) : Nat := t.get d (tf F.TIMERS_TCOUNT_COUNT F.STIMERS_TCOUNT_COUNT d n)
     let stat (t : State) (f g : Fld) : Bool := t.bit d (tf f g d i)
     (∀ stall, stat s F.TIMERS_TTRIG_ON_MATCH F.STIMERS_TTRIG_ON_MATCH = false → ∃ t, exec (.timerMatch d i stall) s = .next t
       ∧ count t i = s.get d (tf F.TIMERS_MATCH_MATCH F.STIMERS_MATCH_MATCH d i) ∧ stat t F.TIMERS_TSTAT_MATCH F.STIMERS_TSTAT_MATCH = true
       ∧ ∀ j, j ≠ i → j < 32 → count t j = count s j)
     ∧ (∀ stall, stat s F.TIMERS_TTRIG_ON_WRAP F.STIMERS_TTRIG_ON_WRAP = false → ∃ t, exec (.timerWrap d i stall) s = .next t
       ∧ count t i = 0 ∧ stat t F.TIMERS_TSTAT_WRAP F.STIMERS_TSTAT_WRAP = true
       ∧ (i % 2 = 0 → s.bit d (tf F.TIMERS_TCTL_CHAIN F.STIMERS_TCTL_CHAIN d (i + 1)) = true →
           s.bit d (tf F.TIMERS_TCTL_EN F.STIMERS_TCTL_EN d (i + 1)) = true →
           count t (i + 1) = countAfter (s.get d (tf F.TIMERS_RELOAD_RELOAD F.STIMERS_RELOAD_RELOAD d (i + 1))) (count s (i + 1)) 1))
     ∧ (∀ u, capSource d (s.get d (tf F.TIMERS_TCTL_CAP_SRC F.STIMERS_TCTL_CAP_SRC d i)) = true →
       (d < 2 → s.mirroring = false ∨ d = s.active) → (if d < 2 then s.mirror d (.ext 0 i (s.timerCount d i)) 0 else some s) = some u → ∃ t, exec (.timerCapture d i) s = .next t
       ∧ t.get d (tf F.TIMERS_TCAP_CAP F.STIMERS_TCAP_CAP d i) = s.timerCount d i % 2 ^ 32 ∧ stat t F.TIMERS_TSTAT_FRESH F.STIMERS_TSTAT_FRESH = true
       ∧ (stat s F.TIMERS_TSTAT_FRESH F.STIMERS_TSTAT_FRESH = true → stat t F.TIMERS_TSTAT_OVR F.STIMERS_TSTAT_OVR = true))
     ∧ (∀ r, (d < 2 → s.Reaches d 0x032 (0x408 + 16 * i) r false 4 4) → ∃ t, exec (.tcapRead d r 4 i) s = .next t
       ∧ stat t F.TIMERS_TSTAT_FRESH F.STIMERS_TSTAT_FRESH = false ∧ stat t F.TIMERS_TSTAT_OVR F.STIMERS_TSTAT_OVR = stat s F.TIMERS_TSTAT_OVR F.STIMERS_TSTAT_OVR
       ∧ OnlyWords [key d (tf F.TIMERS_TSTAT_FRESH F.STIMERS_TSTAT_FRESH d i).addr] s t)
     ∧ (∀ r, (d < 2 → s.Reaches d 0x032 (0x400 + 16 * i) r false 4 4) → ∃ t, exec (.tcountRead d r 4 i) s = .next t
       ∧ (i % 2 = 1 → t = s)
       ∧ (i % 2 = 0 → t.get d (tf F.TIMERS_THOLD_HOLD F.STIMERS_THOLD_HOLD d i) = s.timerCount d (i + 1) % 2 ^ 32
           ∧ OnlyWords [key d (tf F.TIMERS_THOLD_HOLD F.STIMERS_THOLD_HOLD d i).addr] s t)))
  ∧ (∀ (s : State) (d : Nat), d < 8 → s.fitted d = true →
        let en (t : State) (i : Nat) : Bool := t.bit d (tf F.TIMERS_TCTL_EN F.STIMERS_TCTL_EN d i)
        (∀ r v, s.Direct d r → s.Reaches d 0x032 0x240 r true 4 4 → ∃ t, exec (.groupStart d r 4 v) s = .next t
          ∧ t = { s with regs := t.regs, timerAt := t.timerAt } ∧ ∀ i, i < 32 → en t i = (en s i || v.testBit i) ∧ t.timerCount d i = s.timerCount d i)
        ∧ (∀ r v, s.Direct d r → s.Reaches d 0x032 0x244 r true 4 4 → ∃ t, exec (.groupStop d r 4 v) s = .next t
          ∧ t = { s with regs := t.regs, timerAt := t.timerAt } ∧ ∀ i, i < 32 → en t i = (en s i && !(v.testBit i)) ∧ t.timerCount d i = s.timerCount d i)
        ∧ (d < 2 → s.waitAck d = true → exec (.debugHalt d) s = .next s)
        ∧ ((2 ≤ d ∨ s.waitAck d = false) → ∃ t, exec (.debugHalt d) s = .next t ∧ t.inHalt d = true ∧ t.mastA = s.mastA ∧ t.mastB = s.mastB
          ∧ ∀ i, i < timersOf d → t.timerCount d i = s.timerCount d i)
        ∧ (∃ t, exec (.debugHaltExit d) s = .next t ∧ (2 ≤ d → t.inHalt d = false) ∧ (d < 2 → t.halted = s.halted.erase d)
          ∧ ∀ i, i < timersOf d → t.timerCount d i = s.timerCount d i)
        ∧ ∀ n, ¬ (2 ≤ d ∧ s.reefed = true ∧ (s.sail (d - 2)).gated = true) → (∀ i, i < 32 → s.bit d (tf F.TIMERS_TCTL_CHAIN F.STIMERS_TCTL_CHAIN d i) = false
            ∧ s.bit d (tf F.TIMERS_TTRIG_ON_MATCH F.STIMERS_TTRIG_ON_MATCH d i) = false
            ∧ s.bit d (tf F.TIMERS_TTRIG_ON_WRAP F.STIMERS_TTRIG_ON_WRAP d i) = false) →
          let periods := if s.bit (if d < 2 then d else s.active) F.TIME_LOCAL_STATUS_SLOW_OK then n else 0
          ∃ t, exec (.timerWake d n) s = .next t ∧ ∀ i, i < timersOf d → t.bit d (tf F.TIMERS_TSTAT_SLEPT F.STIMERS_TSTAT_SLEPT d i) = true
            ∧ (en s i = true → t.get d (tf F.TIMERS_TCOUNT_COUNT F.STIMERS_TCOUNT_COUNT d i) =
                countAfter (s.get d (tf F.TIMERS_RELOAD_RELOAD F.STIMERS_RELOAD_RELOAD d i)) (s.gatedCount d i n)
                  ((Tbl.get (fun _ => 0) s.timerRem (64 * d + i) + periods * (if d < 2 then 1953125 else 1562500))
                    / (128 * 2 ^ s.get d (tf F.TIMERS_TCTL_PRESC F.STIMERS_TCTL_PRESC d i)))))

/-- REFCLK_LOSS of a mast's reference clears its valid bit and, when it was in use and the other is valid, selects the other; of a sail's it does so
too, and with no other one left the sample clock holds.  LOCAL_CLOCK_HOLD with no valid reference sets HOLD, and with one changes nothing.
REF_RELOCK_START marks the reference valid and, in a hold, picks it for the relock; RELOCK_COMPLETE selects it and clears the hold. -/
def Obligations.clock_references : Prop :=
  ∀ s : State,
    (∀ m ref, m < 2 → ref < 2 → s.fitted m = true →
      (∃ t, exec (.refclkLoss m ref) s = .next t ∧ OnlyMast m s t ∧ t.bit m (mastRefOk ref) = false
        ∧ t.bit m (mastRefOk (1 - ref)) = s.bit m (mastRefOk (1 - ref))
        ∧ (s.get m F.TIME_LOCAL_STATUS_REF_SEL = ref → s.bit m (mastRefOk (1 - ref)) = true → t.get m F.TIME_LOCAL_STATUS_REF_SEL = 1 - ref)
        ∧ (s.get m F.TIME_LOCAL_STATUS_REF_SEL ≠ ref ∨ s.bit m (mastRefOk (1 - ref)) = false →
            t.get m F.TIME_LOCAL_STATUS_REF_SEL = s.get m F.TIME_LOCAL_STATUS_REF_SEL))
      ∧ (∃ t, exec (.refRelockStart m ref) s = .next t ∧ OnlyMast m s t ∧ t.bit m (mastRefOk ref) = true
        ∧ (s.bit m F.TIME_LOCAL_STATUS_HOLD = true → (s.mast m).relockRef = none → (t.mast m).relockRef = some ref)))
    ∧ (∀ m, m < 2 → s.fitted m = true →
      (s.bit m (mastRefOk 0) = false → s.bit m (mastRefOk 1) = false → s.bit m F.TIME_LOCAL_STATUS_HOLD = false →
        ∃ t, exec (.localClockHold m) s = .next t ∧ OnlyMast m s t ∧ t.bit m F.TIME_LOCAL_STATUS_HOLD = true)
      ∧ (s.bit m (mastRefOk 0) = true ∨ s.bit m (mastRefOk 1) = true → exec (.localClockHold m) s = .next s)
      ∧ (∀ ref, ref < 2 → (s.mast m).relockRef = some ref → ∃ t, exec (.relockComplete m) s = .next t ∧ OnlyMast m s t
        ∧ t.get m F.TIME_LOCAL_STATUS_REF_SEL = ref ∧ t.bit m F.TIME_LOCAL_STATUS_HOLD = false ∧ t.bit m F.TIME_LOCAL_STATUS_PLL_LOCK = true
        ∧ (t.mast m).relockRef = none))
    ∧ ∀ k ref, s.hasSail k = true → ref < 2 → let d := sailDie k
      (∃ t, exec (.refclkLoss d ref) s = .next t ∧ OnlySail k s t ∧ t.bit d (refOk ref) = false
        ∧ (s.get d F.ADC_CLK_STATUS_REF_SEL = ref → s.bit d F.ADC_CLK_STATUS_HOLDOVER = false → s.bit d (refOk (1 - ref)) = false →
            t.bit d F.ADC_CLK_STATUS_HOLDOVER = true)
        ∧ (s.get d F.ADC_CLK_STATUS_REF_SEL = ref → s.bit d F.ADC_CLK_STATUS_HOLDOVER = false → s.bit d (refOk (1 - ref)) = true →
            t.get d F.ADC_CLK_STATUS_REF_SEL = 1 - ref))
      ∧ (∃ t, exec (.refRelockStart d ref) s = .next t ∧ OnlySail k s t ∧ t.bit d (refOk ref) = true
        ∧ (s.bit d F.ADC_CLK_STATUS_HOLDOVER = true → (s.sail k).relockRef = none → (t.sail k).relockRef = some ref))
      ∧ ((s.sail k).relockRef = some ref → (s.sail k).cutAtLoss = [] → ∃ t, exec (.relockComplete d) s = .next t ∧ OnlySail k s t
        ∧ t.get d F.ADC_CLK_STATUS_REF_SEL = ref ∧ t.bit d F.ADC_CLK_STATUS_HOLDOVER = false ∧ t.bit d F.ADC_CLK_STATUS_PLL_LOCK = true
        ∧ (t.sail k).relockRef = none ∧ (t.sail k).relocked = true)

/-- A sample written while SRC is not 1 is counted in IGNORED and changes nothing else.  One beyond JUMP is refused: counted, the domain in HOLD at
its integral rate.  One within JUMP is accepted: counted, LAST_E shown, the domain in TRACK or LOCKED, and its rate and integral within FREQ_MAX.  A
PPS_EDGE captures LOCAL and the domains and sets FRESH, with OVR when it was set; with no domain on PPS it changes nothing else.  The third PPS_MISSED,
and SOURCE_LOSS_TIMEOUT, put a domain that tracks in HOLD, counted. -/
def Obligations.time_samples : Prop :=
  ∀ (s : State) (m x : Nat), m < 2 → 1 ≤ x → x ≤ 3 → s.fitted m = true →
    let src := s.get m (dc F.TIME_D_SRC_SRC x)
    let jump := s.get m (dc F.TIME_D_JUMP_NS x)
    let lost (t : State) (y : Nat) : Prop := (s.domState m y = 2 ∨ s.domState m y = 3 → t.domState m y = 1
        ∧ t.get m (dk F.TIME_D_LOSSES y) = satInc 32 (s.get m (dk F.TIME_D_LOSSES y)) ∧ (t.dom m y).freq = (s.dom m y).integ)
      ∧ (s.domState m y ≠ 2 → s.domState m y ≠ 3 → t.domState m y = s.domState m y ∧ t.dom m y = s.dom m y)
    (∀ r v, s.Direct m r → s.Reaches m 0x030 (0x098 + 0x40 * (x - 1)) r true 8 8 → s.bit m (dl F.TIME_D_STATE_ARMED x) = false →
      let e := signed 48 v
      ∃ t, exec (.timeSampleWrite m r 8 x v) s = .next t
      ∧ (src ≠ 1 → OnlyWords [key m (F.TIME_D_IGNORED.at 4 (x - 1)).addr] s t
          ∧ t.get m (F.TIME_D_IGNORED.at 4 (x - 1)) = satInc 32 (s.get m (F.TIME_D_IGNORED.at 4 (x - 1))))
      ∧ (src = 1 → jump < e.natAbs ∨ jump = 0 → OnlyMast m s t ∧ t.get m (dk F.TIME_D_REFUSED x) = satInc 32 (s.get m (dk F.TIME_D_REFUSED x))
          ∧ t.domState m x = 1 ∧ (t.dom m x).freq = (s.dom m x).integ ∧ (t.dom m x).integ = (s.dom m x).integ)
      ∧ (src = 1 → ¬ jump < e.natAbs → jump ≠ 0 → OnlyMast m s t ∧ t.get m (dk F.TIME_D_SAMPLES x) = satInc 32 (s.get m (dk F.TIME_D_SAMPLES x))
          ∧ t.get m (dl F.TIME_D_LAST_E_NS x) = sat32 e ∧ (t.domState m x = 2 ∨ t.domState m x = 3) ∧ (t.dom m x).last = some (s.localNs m)
          ∧ (t.dom m x).freq.natAbs ≤ (s.freqMax m x).natAbs ∧ (t.dom m x).integ.natAbs ≤ (s.freqMax m x).natAbs))
    ∧ ((∀ y, 1 ≤ y → y ≤ 3 → s.get m (dc F.TIME_D_SRC_SRC y) ≠ 2) → ∃ t, exec (.ppsEdge m) s = .next t ∧ t = { s with regs := t.regs }
      ∧ t.get64 m F.TIME_PPS_CAP_LOCAL_NS = s.localNs m % 2 ^ 64 ∧ t.bit m F.TIME_PPS_STATUS_FRESH = true ∧ t.get m F.TIME_PPS_STATUS_MISS = 0
      ∧ t.get m (F.TIME_PPS_CAP_NS_NS.at 4 (x - 1)) = s.capNs m x % 2 ^ 32
      ∧ (s.bit m F.TIME_PPS_STATUS_FRESH = true → t.bit m F.TIME_PPS_STATUS_OVR = true))
    ∧ (let n := s.get m F.TIME_PPS_STATUS_MISS + 1
       ∃ t, exec (.ppsMissed m) s = .next t ∧ OnlyMast m s t ∧ t.get m F.TIME_PPS_STATUS_MISS = min 3 n
      ∧ (n < 3 → OnlyWords [key m F.TIME_PPS_STATUS_MISS.addr] s t) ∧ (3 ≤ n → src = 2 → lost t x)
      ∧ (3 ≤ n → src ≠ 2 → t.domState m x = s.domState m x ∧ t.dom m x = s.dom m x))
    ∧ (src = 1 → ∃ t, exec (.sourceLossTimeout m x) s = .next t ∧ OnlyMast m s t ∧ lost t x)
    ∧ (src ≠ 1 → exec (.sourceLossTimeout m x) s = .next s)

/-- TIME_ARM sets ARMED and nothing else.  TIME_SET_GO is counted in JUMPS: MESH takes the ASN of SET_HI at its next tick, and NET (with no frame waiting at a
port) and AUX take the time of SET_HI and SET_LO at once.  TPO_EDGE of an active output is counted, lasts WIDTH from now, and is driven by the active
mast; a periodic output's next edge lies PERIOD later, and any other output is then no longer active. -/
def Obligations.time_sets_and_outputs : Prop :=
  ∀ (s : State) (m x : Nat), m < 2 → 1 ≤ x → x ≤ 3 → s.fitted m = true →
    (∀ r, s.Direct m r → s.Reaches m 0x030 (0x0AC + 0x40 * (x - 1)) r true 4 4 →
      let hi := s.get64 m (dc F.TIME_D_SET_HI_HI x) % 2 ^ 48
      (∃ t, exec (.timeArm m r 4 x) s = .next t ∧ t.bit m (dl F.TIME_D_STATE_ARMED x) = true ∧ t.domState m x = s.domState m x
        ∧ OnlyWords [key m (dl F.TIME_D_STATE_ARMED x).addr] s t)
      ∧ ((∀ p c, p < 4 → c < 8 → s.egressHead m p c = none) → ∃ t, exec (.timeSetGo m r 4 x) s = .next t ∧ OnlyMast m s t
        ∧ t.get m (dk F.TIME_D_JUMPS x) = satInc 32 (s.get m (dk F.TIME_D_JUMPS x))
        ∧ (x = 1 → (t.mast m).meshSet = some (hi % 2 ^ 40) ∧ (t.mast m).doms = (s.mast m).doms)
        ∧ (x ≠ 1 → (t.dom m x).val = ((hi * 1000000000 + s.get m (dc F.TIME_D_SET_LO_NS x) : Nat) : Int) * domUnit
            ∧ (t.dom m x).at_ = s.localNs m ∧ (t.dom m x).freq = (s.dom m x).freq)))
    ∧ ∀ o, o < 8 → s.bit m (tl F.TPO_STATUS_ACTIVE o) = true → ∃ t, exec (.tpoEdge m o) s = .next t ∧ OnlyMast m s t
      ∧ t.get m (F.TPO_PULSES.at 8 o) = satInc 32 (s.get m (F.TPO_PULSES.at 8 o))
      ∧ Tbl.get (fun _ => 0) (t.mast m).tpoEnd o = s.localNs m + s.get m (tc F.TPO_WIDTH_NS o)
      ∧ (s.active = m → t.out = .tpo m o :: s.out) ∧ (s.active ≠ m → t.out = s.out)
      ∧ (s.get m (tc F.TPO_CTL_MODE o) = 2 → t.bit m (tl F.TPO_STATUS_ACTIVE o) = true
          ∧ t.tpoEdge m o = s.domAdd m (s.tpoDomain m o) (s.tpoEdge m o).1 (s.tpoEdge m o).2 (s.get m (tc F.TPO_PERIOD_NS o)))
      ∧ (s.get m (tc F.TPO_CTL_MODE o) ≠ 2 → t.bit m (tl F.TPO_STATUS_ACTIVE o) = false)

/-- At a port with link UP, ETH_RX_FRAME of a bad frame is counted in RX_ERR, of another address in ADDR_DROP, and from another source than the partner
in PARTNER_REFUSED.  From the partner, or as the first frame, whose source then becomes the partner: a frame for station 0xFF is counted in OTHER_DROP; one for a
station on the active mast whose account admits nothing is counted in ETH_DROP, and where the account admits it, the port holds nothing and the station has
room, it joins that station with the port's number.  A jury's egress frame that crosses by PORT_RELAY leaves its port, counted.
With no frame waiting at port `p`: GCL_CHANGE puts the pending list in force; GATE_ENTRY_CHANGE shows the gate bits that NET time gives;
PAUSE_END ends the pause; PORT_FREE frees the wire.  On the active mast's port with link UP, PORT_FREE with a head frame that may start in the highest class that has
one starts it: the wire is busy for wire(L), and the frame leaves, counted. -/
def Obligations.ports_and_gates : Prop :=
  (∀ (s : State) (m p : Nat) (e : EthFrame), s.hasPort m p = true → s.portGated m p = false →
     let up := s.get m (eth F.ETH_LINK_STATE p) = 2
     let good := e.fcsOk = true ∧ 64 ≤ e.len ∧ e.len ≤ max 64 (s.get m (eth F.ETH_MAX_RX_BYTES p))
     let ours := s.ethAddr m p e = true ∧ e.src < 2 ^ 48 ∧ (s.partnerOf m p = some e.src ∨ s.partnerOf m p = none)
     let counted (f : Fld) : Prop := ∃ t, exec (.ethRxFrame m p e) s = .next t ∧ t.get m (eth f p) = satInc 32 (s.get m (eth f p))
     (up → ¬ good → counted F.ETH_RX_ERR)
     ∧ (up → good → s.ethAddr m p e = false → counted F.ETH_ADDR_DROP)
     ∧ (∀ a, up → good → s.ethAddr m p e = true → s.partnerOf m p = some a → a ≠ e.src → counted F.ETH_PARTNER_REFUSED)
     ∧ (up → good → ours → s.ethFate m p e = .noStation → counted F.ETH_OTHER_DROP
       ∧ ∃ t, exec (.ethRxFrame m p e) s = .next t ∧ t.partnerOf m p = some e.src)
     ∧ (∀ st, up → good → ours → m = s.active → s.mirroring = false → s.ethFate m p e = .station st false →
       ∃ t, exec (.ethRxFrame m p e) s = .next t
       ∧ ((∀ b, s.allocItem m (41 + p) e.ipLen b = none) → t.get m (F.SALTERN_ETH_DROP.at 4 p) = satInc 32 (s.get m (F.SALTERN_ETH_DROP.at 4 p)))
       ∧ ((∀ b, (s.allocItem m (41 + p) e.ipLen b).isSome = true) → Tbl.get (fun _ => []) (s.mast m).sal.ethHold p = [] →
           (∀ h ∈ (s.mast m).hal.held, h.giver ≠ Giver.eth p) → st ≠ 0xFF → stationReserved st = false → (s.mast m).hal.countAt st < s.depthOf m st →
           ∃ d, (t.mast m).hal.entries = (s.mast m).hal.entries ++ [⟨(s.mast m).hal.nextSeq, d, s.localNs m⟩] ∧ d.station = st ∧ d.port = 8 + p
             ∧ d.len = e.ipLen))
     ∧ ∀ c len n b hdr u, m ≠ s.active → s.redundant = true → s.receive 6 (decide (m = 0)) 0x0F hdr = (true, u) → ptpOf b = none →
       exec (.portRelay m (.egress p c len n b) hdr) s = .next ((u.bump m (eth F.ETH_TX_FRAMES p)).emit (.ethTx m p (u.ethFrame m p c len n b))))
  ∧ (∀ (s : State) (m p : Nat), s.hasPort m p = true →
        let g := s.eport m p
        ((∀ c, c < 8 → s.egressHead m p c = none) →
          (∀ l, g.pending = some l → ∃ t, exec (.gclChange m p) s = .next t ∧ OnlyMast m s t ∧ t.eport m p = { g with running := some l, pending := none, shifted := (t.eport m p).shifted }
            ∧ t.bit m (gcl F.GCL_OPER_OPER_EN p) = true ∧ t.bit m (gcl F.GCL_OPER_PENDING p) = false)
          ∧ (∃ t, exec (.gateEntryChange m p) s = .next t ∧ OnlyMast m s t ∧ (g.shifted = false → OnlyWords [key m (gcl F.GCL_OPER_GATES p).addr] s t)
            ∧ ∀ l, g.running = some l → t.get m (gcl F.GCL_OPER_GATES p) = (l.atTime (s.netNs m)).2.1 % 2 ^ 8)
          ∧ (∃ t, exec (.portFree m p) s = .next t ∧ OnlyMast m s t ∧ t.regs = s.regs ∧ t.eport m p = { g with wire := none })
          ∧ (∃ t, exec (.pauseEnd m p) s = .next t ∧ OnlyMast m s t ∧ t.eport m p = { g with paused := false } ∧ t.bit m (eth F.ETH_LINK_PAUSED p) = false))
        ∧ ∀ c cell x, m = s.active → g.paused = false → s.get m (eth F.ETH_LINK_STATE p) = 2 → byteTime (s.get m (eth F.ETH_CFG_MODE p)) ≠ 0 →
          s.portGated m p = false → s.bit m (eth F.ETH_PARTNER_VALID p) = true → c < 8 → (∀ e, c < e → e < 8 → s.egressHead m p e = none) →
          s.egressHead m p c = some (cell, x) → s.fit m p c (s.ethLen m p x) = .start → ptpOf x.body = none →
          ∃ t, exec (.portFree m p) s = .next t ∧ (t.eport m p).wire = some (c, s.localNs m + (s.wire m p (s.ethLen m p x) + 9) / 10)
          ∧ t.get m (eth F.ETH_TX_FRAMES p) = satInc 32 (s.get m (eth F.ETH_TX_FRAMES p)))

/-- ETH_LINK_CHANGE shows the new link state; to DOWN it frees the wire, ends a pause and is counted, and a learned partner without a session is
forgotten; without a change it changes nothing.  PCIE_LINK_DOWN disables every ring and bus mastering, counted, and a function reset masks every
vector.  MSIX_UNMASK unmasks its vector; a pending one then sends its message.  MGMT_REQUEST on an enabled path with no request under way is
counted and answered: BAD_CRC, a bad length or an unknown command, an unmapped address, or what the access or the frame came to.  MGMT_UART_GAP
counts a framing error. -/
def Obligations.links_and_interrupt_masks : Prop :=
  ∀ (s : State) (m : Nat), m < 2 → s.fitted m = true →
    (∀ p st dirs, p < 4 → st < 3 →
      (s.get m (eth F.ETH_LINK_STATE p) = st → exec (.ethLinkChange m p st dirs) s = .next s)
      ∧ (s.get m (eth F.ETH_LINK_STATE p) ≠ st → (∀ c, c < 8 → s.egressHead m p c = none) → ∃ t, exec (.ethLinkChange m p st dirs) s = .next t
        ∧ t.get m (eth F.ETH_LINK_STATE p) = st
        ∧ (st < 2 → (t.eport m p).wire = none ∧ (t.eport m p).paused = false ∧ t.bit m (eth F.ETH_LINK_PAUSED p) = false)
        ∧ (st = 0 → t.get m (eth F.ETH_LINK_DOWN p) = satInc 32 (s.get m (eth F.ETH_LINK_DOWN p)))
        ∧ (st = 0 → s.bit m (eth F.ETH_PARTNER_LEARNED p) = true → s.bit m (eth F.ETH_PEER_STATIC p) = false →
            (s.session s.active (s.portCtx m p)).isOpen = false → t.partnerOf m p = none)))
    ∧ (∀ ev, ev < 5 → ∃ t, exec (.pcieLinkDown m ev) s = .next t ∧ OnlyMast m s t ∧ (∀ r, (t.ring m r).cfg.en = false)
      ∧ t.bit m F.PCIE_LINK_BME = false ∧ t.get m F.PCIE_LINK_DOWN = satInc 32 (s.get m F.PCIE_LINK_DOWN)
      ∧ (1 ≤ ev → ev ≤ 3 → (t.mast m).msixMask = List.range 64 ∧ (t.mast m).pba = []))
    ∧ (∀ v, v < 64 → (s.mast m).msixMask.contains v = true → ∃ t, exec (.msixUnmask m v) s = .next t ∧ OnlyMast m s t
      ∧ (t.mast m).msixMask = (s.mast m).msixMask.erase v
      ∧ (((s.mast m).msixMask.erase v).contains v = false → (s.mast m).pba.contains v = true → s.vecPending m v = true → s.active = m → s.get m (F.IRQ_VEC_TARGET_HOST.at 4 v) = 1 →
          t.out = .msix m v :: s.out ∧ t.get m F.IRQ_MSIX_SENT = satInc 32 (s.get m F.IRQ_MSIX_SENT))
      ∧ ((s.mast m).pba.contains v = false → t.out = s.out ∧ t.regs = s.regs))
    ∧ (∀ uart, s.mgmtOn m uart = false → ∀ ok c, exec (.mgmtRequest m uart ok c) s = .next s)
    ∧ (∀ uart, s.mgmtOn m uart = true → s.mgmtBusy 0 = false → s.mgmtBusy 1 = false →
      let u := s.bump m F.MGMT_REQUESTS
      let answered (c : MgmtCmd) (code : Nat) (ws : List Nat) : Prop := ∃ t, exec (.mgmtRequest m uart true c) s = .next t
        ∧ t.out.head? = some (.mgmt code ws)
      (∀ c, ∃ t, exec (.mgmtRequest m uart false c) s = .next t ∧ t.out = .mgmt 4 [] :: s.out
        ∧ t.get m F.MGMT_REQUESTS = satInc 32 (s.get m F.MGMT_REQUESTS) ∧ t.get m F.MGMT_CRC_ERR = satInc 32 (s.get m F.MGMT_CRC_ERR))
      ∧ answered .unknown 5 []
      ∧ (∀ wide addr, s.delivered addr = false → answered (.read wide addr) 1 (mgmtWords wide (2 ^ 64 - 1))
          ∧ ∀ v, answered (.write wide addr v) 1 [])
      ∧ (∀ wide addr, s.delivered addr = true → ¬ (addr / 4096 % 1024 = 0x008 ∧ addr % 4096 = 0x048) → ∃ code, answered (.read wide addr) code
          (mgmtWords wide (u.softRead (s.spaceMast addr) 17 (addr / 4096 % 1024) (addr % 4096) (if wide then 8 else 4)).1))
      ∧ (∀ wide addr v, s.delivered addr = true → s.inputHeld = false → ∃ code, answered (.write wide addr v) code [])
      ∧ (∀ len x, len = 0 ∨ 2047 < len → answered (.frame len x) 5 [])
      ∧ ∀ len x w, len ≠ 0 → len ≤ 2047 → u.mirror s.active (.mgmtFrame len x) (s.localNs s.active) = some w →
          answered (.frame len x) (if (w.allocItem s.active 45 len (.packet x none)).isSome then 0 else 6) [])
    ∧ ∃ t, exec (.mgmtUartGap m) s = .next t ∧ OnlyWords [key m F.MGMT_FRAMING_ERR.addr] s t
      ∧ t.get m F.MGMT_FRAMING_ERR = if s.mgmtOn m true then satInc 32 (s.get m F.MGMT_FRAMING_ERR) else s.get m F.MGMT_FRAMING_ERR

/-- PCIE_TAIL_WRITE within the ring moves TAIL, and beyond it marks and counts an error; PCIE_ACK_WRITE moves ACK, no further than the count;
RING_COALESCE_TIMEOUT of a ring with completions unacknowledged marks it late.  TX_RING_SERVE takes one frame of the ring whose turn it is: a bad length is counted, a
refused allocation leaves the ring waiting, and else HEAD moves on and FROM_PARTNER has the frame.  RX_RING_DELIVER gives the ring one item,
whose cells are then free. -/
def Obligations.host_rings_work : Prop :=
  ∀ (s : State) (m r : Nat), r < 64 → m < 2 →
    let x := s.ring m r
    (∀ v, s.Direct m 16 → s.Reaches m 0x048 (0x1000 + 16 * r) 16 true 4 4 → let d := sdiff 32 v x.head
      ∃ t, exec (.pcieTailWrite m 4 r v) s = .next t ∧ OnlyMast m s t
      ∧ (0 ≤ d → d ≤ (x.cfg.size : Int) → t.ring m r = { x with tail := v % 2 ^ 32 })
      ∧ (d < 0 ∨ (x.cfg.size : Int) < d → t.ring m r = { x with err := true } ∧ t.get m F.PCIE_RING_ERR = satInc 32 (s.get m F.PCIE_RING_ERR)))
    ∧ (∀ v, s.Direct m 16 → s.Reaches m 0x048 (0x1008 + 16 * r) 16 true 4 4 → ∃ t, exec (.pcieAckWrite m 4 r v) s = .next t ∧ OnlyMast m s t
      ∧ t.ring m r = { x with ack := if sdiff 32 x.count v < 0 then x.count else v % 2 ^ 32, late := false })
    ∧ (s.fitted m = true → x.count ≠ x.ack → ∃ t, exec (.ringCoalesceTimeout m r) s = .next t ∧ OnlyMast m s t ∧ t.ring m r = { x with late := true })
    ∧ (s.fitted m = true → x.count = x.ack → exec (.ringCoalesceTimeout m r) s = .next s)
    ∧ (∀ len user k, s.txTurn m = some r → m = s.active → s.mirroring = false → (∀ h ∈ (s.mast m).hal.held, h.giver ≠ Giver.ring r) →
      ∃ t, exec (.txRingServe m len user k) s = .next t
      ∧ (len = 0 ∨ 2047 < len → t.get m F.PCIE_TX_BAD = satInc 32 (s.get m F.PCIE_TX_BAD) ∧ (t.ring m r).head = (x.head + 1) % 2 ^ 32)
      ∧ (1 ≤ len → len ≤ 2047 → s.allocItem m 45 len (.packet k none) = none → (t.ring m r).waiting = true ∧ (t.ring m r).head = x.head
          ∧ (t.mast m).sal = (s.mast m).sal)
      ∧ (1 ≤ len → len ≤ 2047 → (s.allocItem m 45 len (.packet k none)).isSome = true → (s.mast m).hal.countAt 8 < s.depthOf m 8 →
          (t.ring m r).head = (x.head + 1) % 2 ^ 32
          ∧ ∃ d, (t.mast m).hal.entries = (s.mast m).hal.entries ++ [⟨(s.mast m).hal.nextSeq, d, s.localNs m⟩] ∧ d.station = 8 ∧ d.port = 12 ∧ d.len = len))
    ∧ ∀ q c u addr, s.fitted m = true → x.cfg.en = true → x.cfg.dir = true → x.head ≠ x.tail → s.rxQueue m r = some q → s.dequeue m q = some (c, u) →
      ∃ t, exec (.rxRingDeliver m r addr) s = .next t ∧ (t.ring m r).head = (x.head + 1) % 2 ^ 32 ∧ (t.ring m r).count = (x.count + 1) % 2 ^ 32
      ∧ ((t.mast m).sal.item c).cells = [] ∧ t.get m F.PCIE_RX_FRAMES = satInc 32 (s.get m F.PCIE_RX_FRAMES)

/-- UPDATE.CMD: BEGIN is refused in reefed mode; else a manifest that fails a check ends with that check's RESULT, the manifest under reception
goes on, and another starts the erase of the furled slot.  ERASE_DONE records the manifest and starts reception.  CHUNK ends with its RESULT or
starts programming; CHUNK_PROGRAMMED sets the chunk's bit and counts it, of the own image or of the node image.  VERIFY, with every chunk
present, starts the hash; VERIFY_DONE gives STAGED on a match, and else BAD and counts it.  BITMAP_RECORD_WRITE records the bitmap. -/
def Obligations.update_receives : Prop :=
  ∀ (s : State) (m r : Nat), m < 2 → s.fitted m = true →
    let U := (s.mast m).upd
    let u := s.urec m
    let man := s.updItem m
    let i := s.get m F.UPDATE_INDEX_INDEX
    let result (t : State) (x : Nat) : Prop := t.get m F.UPDATE_STATUS_RESULT = x
    let phase (t : State) (x : Nat) : Prop := t.updPhase m = x
    (s.Direct m r → s.Reaches m 0x040 0x040 r true 4 4 → s.bit m F.UPDATE_STATUS_BUSY = false →
      (s.reefed = true → ∃ t, exec (.updateBegin m r 4) s = .next t ∧ OnlyMast m s t ∧ result t 10
        ∧ t.get m F.UPDATE_REFUSED = satInc 32 (s.get m F.UPDATE_REFUSED) ∧ (t.mast m).upd = U)
      ∧ (s.reefed = false → s.bit m F.UPDATE_LOCK_LOCK = false → u.mode ≠ 1 → s.updPhase m < 4 →
        ∃ t, exec (.updateBegin m r 4) s = .next t ∧ OnlyMast m s t
        ∧ if s.checkManifest m man ≠ 0 then result t (s.checkManifest m man) ∧ (t.mast m).upd = U
          else if man = u.manifest ∧ u.rxState ≠ 3 ∧ u.rxState ≠ 0 then result t 0 ∧ phase t 2 ∧ (t.mast m).upd = U
          else phase t 1 ∧ t.bit m F.UPDATE_STATUS_BUSY = true ∧ (t.mast m).upd.erasing = true ∧ (t.mast m).upd.prog = some (0, man))
      ∧ (s.reefed = false → s.updPhase m = 2 → ∃ t, exec (.updateChunk m r 4) s = .next t ∧ OnlyMast m s t
        ∧ if chunksOf (manLen u.manifest) ≤ i ∨ man.length ≠ 1024 then result t 6 ∧ (t.mast m).upd = U
          else if crc32 man ≠ s.get m F.UPDATE_CHUNK_CRC_CRC then
            result t 7 ∧ t.get m F.UPDATE_CHUNK_CRC_ERR = satInc 32 (s.get m F.UPDATE_CHUNK_CRC_ERR) ∧ (t.mast m).upd = U
          else if U.bits.testBit i = true then result t 0 ∧ t.get m F.UPDATE_CHUNK_DUP = satInc 32 (s.get m F.UPDATE_CHUNK_DUP) ∧ (t.mast m).upd = U
          else (t.mast m).upd.prog = some (i, man.take (min 1024 (manLen u.manifest - 1024 * i))) ∧ t.bit m F.UPDATE_STATUS_BUSY = true)
      ∧ (s.reefed = false → ∃ t, exec (.updateVerify m r 4) s = .next t ∧ OnlyMast m s t
        ∧ (s.updPhase m = 2 → allChunks (manLen u.manifest) U.bits = true → (t.mast m).upd.verifying = true ∧ t.bit m F.UPDATE_STATUS_BUSY = true)
        ∧ (s.updPhase m ≠ 2 → result t 13 ∧ (t.mast m).upd = U)))
    ∧ (∀ x, U.erasing = true → U.prog = some x → ∃ t, exec (.updateEraseDone m) s = .next t ∧ OnlyMast m s t
      ∧ t.urec m = { u with manifest := x.2, bitmap := 0, rxState := 1 } ∧ phase t 2 ∧ result t 0 ∧ t.bit m F.UPDATE_STATUS_BUSY = false
      ∧ (t.mast m).upd.bits = 0 ∧ (t.mast m).nv.flash = ((s.mast m).nv.erase (slotBase (1 - u.setSlot)) 0x00800000).flash)
    ∧ (∀ j data, U.erasing = false → U.prog = some (j, data) → ∃ t, exec (.chunkProgrammed m false) s = .next t ∧ OnlyMast m s t
      ∧ (t.mast m).upd.bits = U.bits ||| 2 ^ j ∧ (t.mast m).upd.prog = none ∧ result t 0
      ∧ (t.mast m).nv = (s.mast m).nv.program (slotBase (1 - u.setSlot) + 1024 * j) data
      ∧ t.get m F.UPDATE_CHUNKS = satInc 32 (s.get m F.UPDATE_CHUNKS))
    ∧ (∀ j data, (s.mast m).camp.prog = some (j, data) → ∃ t, exec (.chunkProgrammed m true) s = .next t ∧ OnlyMast m s t
      ∧ (t.mast m).camp.bits = (s.mast m).camp.bits ||| 2 ^ j ∧ (t.mast m).camp.prog = none ∧ (t.mast m).upd = U
      ∧ (t.mast m).nv.flash = ((s.mast m).nv.program (0x03600000 + 1024 * j) data).flash)
    ∧ (U.verifying = true → ∃ t, exec (.updateVerifyDone m) s = .next t ∧ OnlyMast m s t
      ∧ (t.mast m).upd.verifying = false ∧ t.bit m F.UPDATE_STATUS_BUSY = false
      ∧ if leNat (sha256 ((s.mast m).nv.bytes (slotBase (1 - u.setSlot)) (manLen u.manifest))) = manHash u.manifest then
          t.urec m = { u with rxState := 2, bitmap := U.bits } ∧ phase t 3 ∧ result t 0
          ∧ Tbl.get (fun _ => []) (t.mast m).nv.manifests (1 - u.setSlot) = u.manifest
        else t.urec m = { u with rxState := 3, bitmap := U.bits } ∧ result t 8
          ∧ t.get m F.UPDATE_VERIFY_FAIL = satInc 32 (s.get m F.UPDATE_VERIFY_FAIL))
    ∧ (U.unrec ≠ 0 → ∃ t, exec (.bitmapRecordWrite m) s = .next t ∧ OnlyMast m s t ∧ (t.mast m).upd.unrec = 0
      ∧ t.urec m = { u with bitmap := U.bits } ∧ (t.mast m).nv.cfgJobs = (s.mast m).nv.cfgJobs ++ [{ s.cfgNow m with upd := t.urec m }])

/-- ACTIVATE below OWNER is denied; refused, it ends with its RESULT, counted; with the image STAGED it is accepted, counted, and on the active mast
starts at the next tick.
CANCEL withdraws it.  CONFIRM with its key, of a trial that runs, sheets the trial slot home; of none it is late, counted; another key is
ignored.  CONFIRMED blows the pending fuses.  READY starts the update transfer.  The jury's timeout abandons the update and restarts it.
TRIAL_ELAPSED_WRITE adds a minute.  TRIAL_EXPIRY records the reversion, and the mast restarts, or in a pair both masts take over at the tick. -/
def Obligations.update_activates : Prop :=
  ∀ (s : State) (m r : Nat), m < 2 → s.fitted m = true →
    let u := s.urec m
    let result (t : State) (x : Nat) : Prop := t.get m F.UPDATE_STATUS_RESULT = x
    let acts := s.Direct m r ∧ s.Reaches m 0x040 0x040 r true 4 4
    let owner := s.bit m F.UPDATE_STATUS_BUSY = false ∧ 3 ≤ s.privOf m (s.ctxOf m r) ∧ (s.redundant = true → m = s.active)
    (acts → s.privOf m (s.ctxOf m r) < 3 → exec (.updateActivate m r 4) s = .next (s.deny m 0x040 0x040 r true)
      ∧ exec (.updateCancel m r 4) s = .next (s.deny m 0x040 0x040 r true))
    ∧ (acts → owner → ∃ t, exec (.updateActivate m r 4) s = .next t ∧ OnlyMast m s t
      ∧ (s.actRefused m ≠ 0 → result t (s.actRefused m) ∧ t.get m F.UPDATE_REFUSED = satInc 32 (s.get m F.UPDATE_REFUSED))
      ∧ (s.actRefused m = 0 → s.updPhase m ≠ 3 → result t 13)
      ∧ (s.actRefused m = 0 → s.updPhase m = 3 → result t 0 ∧ (t.mast m).upd = { (s.mast m).upd with actPend := decide (m = s.active) }
          ∧ t.get m F.UPDATE_ACTIVATIONS = satInc 32 (s.get m F.UPDATE_ACTIVATIONS)))
    ∧ (acts → owner → s.updPhase m ≠ 4 → s.updPhase m ≠ 5 → ∃ t, exec (.updateCancel m r 4) s = .next t ∧ OnlyMast m s t
      ∧ ((s.mast m).upd.actPend = true → result t 0 ∧ (t.mast m).upd.actPend = false ∧ t.urec m = { u with last := 6 })
      ∧ ((s.mast m).upd.actPend = false → result t 13 ∧ t.urec m = u))
    ∧ (∀ v, s.Direct m r → s.Reaches m 0x040 0x054 r true 4 4 →
      (v % 256 ≠ 0xC3 → exec (.updateConfirm m r 4 v) s = .next s)
      ∧ (v % 256 = 0xC3 → (s.redundant = true → m = s.active) →
        (u.mode ≠ 1 ∨ s.updPhase m ≠ 6 → ∃ t, exec (.updateConfirm m r 4 v) s = .next t ∧ OnlyMast m s t ∧ result t 15
          ∧ t.get m F.UPDATE_LATE_CONFIRM = satInc 32 (s.get m F.UPDATE_LATE_CONFIRM) ∧ t.urec m = u)
        ∧ (u.mode = 1 → s.updPhase m = 6 → ∃ t, exec (.updateConfirm m r 4 v) s = .next t ∧ result t 0
          ∧ t.urec m = { u with setSlot := 1 - u.setSlot, mode := 0, boots := 0, last := 1, secPend := some (manNum u.manifest 12 1),
                                revPend := manNum u.manifest 14 1 % 16, manifest := [], bitmap := 0, rxState := 0 }
          ∧ (s.redundant = false ∨ s.pairState m = 5 → t.updPhase m = 0)
          ∧ (s.redundant = true → s.pairState m ≠ 5 → t.updPhase m = 7 ∧ (t.mast (1 - m)).booting = true ∧ t.pairState m = 2))))
    ∧ (∀ x, u.secPend = some x → ∃ t, exec (.updateConfirmed m) s = .next t ∧ OnlyMast m s t
      ∧ t.get m F.UPDATE_FUSES_SEC = max (s.get m F.UPDATE_FUSES_SEC) (min 64 x)
      ∧ t.get m F.UPDATE_FUSES_REVOKED = (s.get m F.UPDATE_FUSES_REVOKED ||| u.revPend) % 16
      ∧ t.urec m = { u with secPend := none, revPend := 0 } ∧ t.get m F.UPDATE_CONFIRMS = satInc 32 (s.get m F.UPDATE_CONFIRMS))
    ∧ (∀ v, s.Reaches m 0x040 0x05C r true 4 4 → s.redundant = true → m = 1 - s.active → s.active < 2 → s.updPhase s.active = 4 →
        (s.mast m).booting = false → v % 256 = 0x3C → ∃ t, exec (.updateReady m r 4 v) s = .next t
        ∧ t.updPhase s.active = 5 ∧ t.pairState s.active = 2 ∧ t.pairState m = 2 ∧ t.xferPhase m = 1)
    ∧ (s.redundant = true → m = s.active → s.updPhase m = 4 → ∃ t, exec (.juryReadyTimeout m) s = .next t
      ∧ t.urec m = { u with last := 6 } ∧ t.updPhase m = u.phase ∧ (t.mast (1 - m)).booting = true ∧ (t.mast (1 - m)).bootStep = 5)
    ∧ (u.mode = 1 → (s.mast m).booting = false → (∃ t, exec (.trialElapsedWrite m) s = .next t ∧ OnlyMast m s t
        ∧ t.urec m = { u with elapsed := u.elapsed + 60 })
      ∧ ∃ t, exec (.trialExpiry m) s = .next t
        ∧ (∃ c, (t.mast m).nv.cfg = some c ∧ c.upd = { u with mode := 0, last := 2 })
        ∧ (s.redundant = true → m = s.active → s.updPhase m = 6 → s.pairState (1 - m) = 3 →
            (t.mast m).pair.takeover = some 5 ∧ (t.mast (1 - m)).pair.takeover = some 5)
        ∧ (s.redundant = false → (t.mast m).booting = true ∧ (t.mast m).bootStep = 5))

/-- While a chunk is programmed or the hash runs, every campaign command is ignored with LOCKV.  IMG_BEGIN goes on with the load under way, or
erases the image area and starts a load; while a wave runs its RESULT is 6.  IMG_CHUNK ends with its RESULT or starts programming.
IMG_VERIFY with every chunk present starts the hash, whose end gives READY on a match, and on a mismatch RESULT 3 and IDLE.
CAMPAIGN_PERSIST of a campaign writes its record. -/
def Obligations.campaign_image_loads : Prop :=
  ∀ (s : State) (m r : Nat), m < 2 → s.fitted m = true →
    let C := (s.mast m).camp
    let i := s.get m F.CAMPAIGN_CHUNK_INDEX
    let x := (s.mast m).sal.item (s.get m F.CAMPAIGN_CELL_CELL)
    let data := if x.cells = [] then [] else x.body.spell
    let result (t : State) (x : Nat) : Prop := t.get m F.CAMPAIGN_STATUS_RESULT = x
    (s.Direct m r → s.Reaches m 0x041 0x040 r true 4 4 →
      (C.prog.isSome = true ∨ C.verifying = true → ∀ c ∈ [Instr.imgBegin m r 4, .imgChunk m r 4, .imgVerify m r 4, .waveAdd m r 4, .waveGo m r 4,
        .campaignPause m r 4, .campaignResume m r 4, .campaignAbort m r 4], exec c s = .next (s.lockv m 0x041 0x040 r))
      ∧ (C.prog = none → C.verifying = false →
        (∃ t, exec (.imgBegin m r 4) s = .next t ∧ OnlyMast m s t
          ∧ (C.running = true ∨ s.campPhase m = 7 → result t 6 ∧ (t.mast m).camp = C ∧ t.campPhase m = s.campPhase m)
          ∧ (C.running = false → s.campPhase m = 1 → s.sameLoad m = true → result t 0 ∧ (t.mast m).camp = C)
          ∧ (C.running = false → s.campPhase m ≠ 7 → s.sameLoad m = false → result t 0 ∧ t.campPhase m = 1 ∧ (t.mast m).camp.bits = 0
              ∧ (t.mast m).nv.flash = ((s.mast m).nv.erase 0x03600000 0x00100000).flash))
        ∧ (∃ t, exec (.imgChunk m r 4) s = .next t ∧ OnlyMast m s t
          ∧ if s.campPhase m ≠ 1 then result t 6 ∧ (t.mast m).camp = C
            else if chunksOf (s.imgLen m) ≤ i ∨ data.length ≠ 1024 then result t 2 ∧ (t.mast m).camp = C
            else if C.bits.testBit i = true then result t 0 ∧ (t.mast m).camp = C
            else (t.mast m).camp.prog = some (i, data.take (min 1024 (s.imgLen m - 1024 * i))) ∧ (t.mast m).camp.bits = C.bits)
        ∧ ∃ t, exec (.imgVerify m r 4) s = .next t ∧ OnlyMast m s t
          ∧ (s.campPhase m = 1 → allChunks (s.imgLen m) C.bits = true → (t.mast m).camp = { C with verifying := true })
          ∧ (s.campPhase m ≠ 1 ∨ allChunks (s.imgLen m) C.bits = false → result t 6 ∧ (t.mast m).camp = C)))
    ∧ (C.verifying = true → ∃ t, exec (.imgVerifyDone m) s = .next t ∧ OnlyMast m s t ∧ (t.mast m).camp.verifying = false
      ∧ if sha256 ((s.mast m).nv.bytes 0x03600000 (s.imgLen m)) = s.regBytes m F.CAMPAIGN_IMG_HASH_HASH 8 32 then
          result t 0 ∧ t.campPhase m = 2 else result t 3 ∧ t.campPhase m = 0 ∧ (t.mast m).camp.bits = 0)
    ∧ (s.campPhase m ≠ 0 → ∃ t, exec (.campaignPersist m) s = .next t ∧ OnlyMast m s t
      ∧ (t.mast m).nv.campJobs = (s.mast m).nv.campJobs ++ [s.campRec m] ∧ (t.mast m).camp = C)

/-- WAVE_ADD gives an eligible node the lowest free slot, state OFFERED and every fragment missing.  WAVE_GO starts the wave and offers the image to its
OFFERED nodes.  WAVE_END closes the wave: its open nodes are DEFERRED.  PAUSE, RESUME and ABORT change the phase, RESULT 6 where they do not apply.
ROUND_START gives each sail the fragments that its nodes miss, or ends multicast; ROUND_CLOSE moves a node that reported and misses few,
or any in the last round, to the stragglers, and one silent for the third time to NO_ANSWER. -/
def Obligations.campaign_waves_run : Prop :=
  ∀ (s : State) (m r : Nat), m < 2 → s.fitted m = true →
    let C := (s.mast m).camp
    let v := s.get m F.CAMPAIGN_NODE_NODE
    let n := s.fragCount m
    let ph := s.campPhase m
    let result (t : State) (x : Nat) : Prop := t.get m F.CAMPAIGN_STATUS_RESULT = x
    let closed (t : State) : Prop := (t.mast m).camp.wave = [] ∧ (t.mast m).camp.running = false
      ∧ (∀ e ∈ C.wave, ((s.campOf m e.1).nstate ∈ [1, 2, 3, 9, 10] → (t.campOf m e.1).nstate = 11))
      ∧ ∀ k, k ∉ C.wave.map Prod.fst → t.campOf m k = s.campOf m k
    (s.Direct m r → s.Reaches m 0x041 0x040 r true 4 4 → C.prog = none → C.verifying = false →
      (∃ t, exec (.waveAdd m r 4) s = .next t ∧ OnlyMast m s t
        ∧ (ph ≠ 2 → ph ≠ 6 → result t 6 ∧ (t.mast m).camp = C)
        ∧ (∀ w, (ph = 2 ∨ ph = 6) → v < 131072 → ((s.mast m).node v).ident.used = true → s.groupIn m v F.CAMPAIGN_TARGET_GROUPS = true →
            C.wave.any (fun e => e.1 == v) = false → s.inCamp m v = false → C.freeSlot = some w → s.groupIn m v F.CAMPAIGN_GROUP_LOCK_GROUPS = false →
            result t 0 ∧ (t.mast m).camp.wave = C.wave ++ [(v, w)] ∧ (t.campOf m v).nstate = 1 ∧ (t.campOf m v).campId = s.campId m
            ∧ (t.campOf m v).wslot = w ∧ (t.campOf m v).missing = n ∧ t.missingOf m v = 2 ^ n - 1))
      ∧ (∃ t, exec (.waveGo m r 4) s = .next t ∧ OnlyMast m s t
        ∧ ((ph ≠ 2 ∧ ph ≠ 6) ∨ C.wave = [] → result t 6 ∧ (t.mast m).camp = C)
        ∧ (ph = 2 ∨ ph = 6 → C.wave ≠ [] → result t 0 ∧ t.campPhase m = 3 ∧ (t.mast m).camp.running = true
            ∧ t.get m F.CAMPAIGN_STATUS_WAVE = satInc 16 (s.get m F.CAMPAIGN_STATUS_WAVE) ∧ t.get m F.CAMPAIGN_STATUS_ROUND = 0
            ∧ ∀ e ∈ C.wave, (s.campOf m e.1).nstate = 1 → s.groupIn m e.1 F.CAMPAIGN_GROUP_LOCK_GROUPS = false →
                ∃ f ∈ (t.mast m).camp.todo, f.node = e.1 ∧ f.typ = 2))
      ∧ (∃ t, exec (.campaignPause m r 4) s = .next t ∧ OnlyMast m s t
        ∧ (C.running = true → ph ≠ 7 → result t 0 ∧ t.campPhase m = 7 ∧ (t.mast m).camp = { C with resume := ph })
        ∧ (C.running = false → result t 6 ∧ (t.mast m).camp = C))
      ∧ (∃ t, exec (.campaignResume m r 4) s = .next t ∧ OnlyMast m s t ∧ (t.mast m).camp = C
        ∧ (ph = 7 → s.reefed = false → C.resume < 16 → result t 0 ∧ t.campPhase m = C.resume)
        ∧ (ph ≠ 7 ∨ s.reefed = true → result t 6 ∧ t.campPhase m = ph))
      ∧ ∃ t, exec (.campaignAbort m r 4) s = .next t ∧ OnlyMast m s t ∧ result t 0 ∧ t.campPhase m = 0 ∧ closed t)
    ∧ (C.running = true → ph ≠ 7 → ∃ t, exec (.waveEnd m) s = .next t ∧ OnlyMast m s t ∧ t.campPhase m = 6 ∧ closed t)
    ∧ (C.running = true → ph = 3 ∨ ph = 4 → C.roundOpen = false → C.mcWork = [] → ∃ t, exec (.roundStart m) s = .next t ∧ OnlyMast m s t
      ∧ let frags (k : Nat) : List Nat := (List.range n).filter (fun f => (s.union m k).testBit f)
        ((∀ k ∈ s.sailList, frags k = []) → t.campPhase m = 5 ∧ (t.mast m).camp = C)
        ∧ ((∃ k ∈ s.sailList, frags k ≠ []) → t.campPhase m = 4 ∧ t.get m F.CAMPAIGN_STATUS_ROUND = satInc 8 (s.get m F.CAMPAIGN_STATUS_ROUND)
          ∧ ∀ k ∈ s.sailList, frags k ≠ [] → ∃ gaps, Tbl.get (fun _ => []) (t.mast m).camp.mcWork k
              = (frags k).map McWork.frag ++ List.replicate gaps McWork.gap ++ [McWork.roundEnd (t.get m F.CAMPAIGN_STATUS_ROUND)]))
    ∧ (C.running = true → ph = 4 → C.roundOpen = true → ∃ t, exec (.roundClose m) s = .next t ∧ OnlyMast m s t
      ∧ (t.mast m).camp.roundOpen = false ∧ (t.mast m).camp.reported = []
      ∧ ∀ e ∈ C.wave, (s.campOf m e.1).nstate = 2 →
          (C.reported.contains e.1 = true → (s.campOf m e.1).missing ≤ s.get m F.CAMPAIGN_ROUND_CFG_STRAGGLE_MAX
              ∨ max 1 (s.get m F.CAMPAIGN_ROUND_CFG_MC_ROUNDS) ≤ s.get m F.CAMPAIGN_STATUS_ROUND → (t.campOf m e.1).nstate = 3)
          ∧ (C.reported.contains e.1 = false → 2 ≤ (s.campOf m e.1).tries → (t.campOf m e.1).nstate = 12))

/-- OFFER_REPORT_TIMEOUT offers an OFFERED node again, and the third time records NO_ANSWER.  REFUSED_RETRY_DEADLINE, once due, offers a refused node again.
NODE_TRIAL_DEADLINE, once due, records a node in TRIAL as REVERTED.  COMPLETE_SCAN activates a complete node.  CAMPAIGN_REPORT takes the next report of its
station: a bad one is counted, and a good one moves an OFFERED node to RECEIVING, or to COMPLETE.  CAMPAIGN_FRAG passes a gap of a sail's
multicast, and builds a fragment under the group key and the next group counter. -/
def Obligations.campaign_nodes_answer : Prop :=
  ∀ (s : State) (m v : Nat), m < 2 → s.fitted m = true →
    let C := (s.mast m).camp
    let c := s.campOf m v
    let locked := s.groupIn m v F.CAMPAIGN_GROUP_LOCK_GROUPS
    let offer : CampFrame := ⟨2, v, ((s.mast m).node v).ident.port, 0, 0⟩
    (s.inWave m v = true → c.nstate = 1 → C.todo.any (fun f => f.node == v) = false → C.sent.any (fun f => f.node == v) = false →
      ∃ t, exec (.offerReportTimeout m v) s = .next t ∧ OnlyMast m s t
      ∧ (2 ≤ c.tries → (t.campOf m v).nstate = 12 ∧ (t.campOf m v).reason = 6 ∧ t.get m F.CAMPAIGN_NO_ANSWER = satInc 32 (s.get m F.CAMPAIGN_NO_ANSWER))
      ∧ (c.tries < 2 → locked = false → t.campOf m v = { c with tries := c.tries + 1 } ∧ (t.mast m).camp.todo = C.todo ++ [offer]))
    ∧ (s.inWave m v = true → c.nstate = 9 → s.duePast m v = true → ∃ t, exec (.refusedRetryDeadline m v) s = .next t ∧ OnlyMast m s t
      ∧ t.campOf m v = { c with nstate := 1, tries := 0 } ∧ (locked = false → (t.mast m).camp.todo = C.todo ++ [offer]))
    ∧ (s.inCamp m v = true → c.nstate = 6 → s.duePast m v = true → ∃ t, exec (.nodeTrialDeadline m v) s = .next t ∧ OnlyMast m s t
      ∧ t.campOf m v = { c with nstate := 8 } ∧ t.get m F.CAMPAIGN_REVERTED = satInc 32 (s.get m F.CAMPAIGN_REVERTED))
    ∧ (s.inCamp m v = true → c.nstate = 4 → s.bit m F.CAMPAIGN_CFG_AUTO_ACT = true → s.groupIn m v F.CAMPAIGN_LIT_GROUPS = false →
        s.campPhase m ≠ 7 → ∃ t, exec (.completeScan m v) s = .next t ∧ OnlyMast m s t
        ∧ t.campOf m v = { c with nstate := 5 } ∧ (locked = false → (t.mast m).camp.todo = C.todo ++ [{ offer with typ := 4 }]))
    ∧ (∀ d u, s.engineTake m 16 = some (d, u) → d.flags / 4 % 16 = 1 → ∃ t, exec (.campaignReport m) s = .next t ∧ OnlyMast m u t
      ∧ let b := ((u.mast m).sal.item d.cell).body.spell
        let base := b.getD 7 0 + 256 * b.getD 8 0
        let nb := b.getD 9 0 + 256 * b.getD 10 0
        let ok := 11 ≤ b.length ∧ b.getD 0 0 = 0x11 ∧ b.getD 1 0 + 256 * b.getD 2 0 = u.campId m ∧ u.inCamp m d.node = true ∧ b.getD 3 0 ≤ 4
          ∧ base + nb ≤ 512 ∧ 11 + nb ≤ b.length
        (¬ ok → t.get m F.CAMPAIGN_REPORT_BAD = satInc 32 (u.get m F.CAMPAIGN_REPORT_BAD) ∧ t.campOf m d.node = u.campOf m d.node)
        ∧ (ok → t.get m F.CAMPAIGN_REPORTS = satInc 32 (u.get m F.CAMPAIGN_REPORTS)
          ∧ (b.getD 3 0 = 0 → (u.campOf m d.node).nstate = 1 → (t.campOf m d.node).nstate = 2)
          ∧ (b.getD 3 0 = 1 → 1 ≤ (u.campOf m d.node).nstate → (u.campOf m d.node).nstate ≤ 3 → (t.campOf m d.node).nstate = 4)
          ∧ (b.getD 3 0 = 2 → 1 ≤ (u.campOf m d.node).nstate → (u.campOf m d.node).nstate ≤ 4 → (t.campOf m d.node).nstate = 9)
          ∧ (b.getD 3 0 = 3 → (u.campOf m d.node).nstate = 6 → (t.campOf m d.node).nstate = 7)))
    ∧ ∀ k x ws, Tbl.get (fun _ => []) C.mcWork k = x :: ws → s.campPhase m ≠ 7 → s.engineOf m 16 = true →
      let g := max 1 (s.get m F.CAMPAIGN_RADIO_FC_GRP)
      (x = .gap → ∃ t, exec (.campaignFrag m (k + 1)) s = .next t ∧ OnlyMast m s t ∧ Tbl.get (fun _ => []) (t.mast m).camp.mcWork k = ws)
      ∧ (∀ f kk n, x = .frag f → s.groupKey m (s.get m F.CAMPAIGN_RADIO_KEY_IDX) .enc = (some kk, s) → s.fcNext m (s.get m (F.MAC_FC_GROUP.at 4 g)) = .value n →
          let fr := s.sealFrame m kk n (s.campaignFrame m none (s.campMessage m 1 f) s.free.1)
          (s.allocItem m 47 fr.len (.down fr)).isSome = true → ∃ t, exec (.campaignFrag m (k + 1)) s = .next t ∧ OnlyMast m s t
          ∧ Tbl.get (fun _ => []) (t.mast m).camp.mcWork k = ws ∧ t.get m (F.MAC_FC_GROUP.at 4 g) = n
          ∧ t.get m F.CAMPAIGN_FRAG_MC = satInc 32 (s.get m F.CAMPAIGN_FRAG_MC))

/-- A mirrored input that is taken joins the jury's buffer; one that overruns 8 MiB during a transfer ends it.  JURY_INPUT_EXECUTE runs the input
whose INSEQ is next, and no other: a SLOT_END is noted, a register write takes effect on the jury.  DIGEST_STATION closes the active mast's digest
and clears its outputs from the log; DIGEST_MESSAGE joins the jury's digests.  DIGEST_COMPARE of equal digests is the result 1, and of
others a mismatch of CAUSE 1, which DIVERGES or, when only the peer is at fault, takes over; DIGEST_WAIT_EXPIRY finds CAUSE 2. -/
def Obligations.pair_mirrors_and_compares : Prop :=
  ∀ (s : State) (j : Nat), j < 2 → s.active < 2 → s.redundant = true →
    let P := (s.mast j).pair
    let log := (s.mast j).outLog
    let decided (t : State) (cause asn : Nat) (rest : List SlotDigest) : Prop :=
      t.get j F.PAIR_MISMATCH_CAUSE = cause ∧ t.get j F.PAIR_MISMATCH_ASN = asn % 2 ^ 32
      ∧ t.get j F.PAIR_MISMATCH_CNT = satInc 32 (s.get j F.PAIR_MISMATCH_CNT)
      ∧ (t.mast j).pair.result = cause + 1 ∧ (t.mast j).pair.resultAsn = asn ∧ (t.mast j).pair.peerDigest = rest
      ∧ if s.get j F.PAIR_STATE_PEER_FAULT ≠ 0 ∧ s.get j F.PAIR_STATE_SELF_FAULT = 0 then (t.mast j).pair.takeover = some 1
        else t.pairState j = 3 ∧ t.get j F.PAIR_DIVERGE = satInc 32 (s.get j F.PAIR_DIVERGE)
    (∀ inseq stamp i hdr u, s.receive 6 (decide (j = 0)) 0x0B hdr = (true, u) →
      let Q := (u.mast j).pair
      (u.jury j = false → exec (.mirror j inseq stamp i hdr) s = .next u)
      ∧ (u.jury j = true → u.pairState j ≠ 2 ∨ Q.bufBytes + i.bytes ≤ 8388608 → ∃ t, exec (.mirror j inseq stamp i hdr) s = .next t ∧ OnlyMast j u t
        ∧ (t.mast j).pair = { Q with buffer := Q.buffer ++ [⟨inseq, stamp, i⟩] })
      ∧ (u.jury j = true → u.pairState j = 2 → 8388608 < Q.bufBytes + i.bytes → u.updPhase u.active ≠ 5 → u.updPhase u.active ≠ 7 →
        ∃ t, exec (.mirror j inseq stamp i hdr) s = .next t ∧ (t.mast j).pair.buffer = [] ∧ t.pairState j = 4 ∧ t.pairState u.active = 4
        ∧ t.get j F.PAIR_XFER_STATUS_RESULT = 3))
    ∧ (s.jury j = true → s.pairState j ≠ 2 ∨ s.xferPhase j = 3 →
      (P.buffer.find? (fun x => x.inseq == P.inseq + 1) = none → exec (.juryInputExecute j) s = .next s)
      ∧ ∀ st i, P.buffer.find? (fun x => x.inseq == P.inseq + 1) = some ⟨P.inseq + 1, st, i⟩ →
          P.buffer.find? (fun x => x.inseq == P.inseq + 2) = none →
          let p := { P with inseq := P.inseq + 1, buffer := P.buffer.filter (fun y => decide (P.inseq + 1 < y.inseq)) }
          (∀ asn, i = .slotEnd asn → ∃ t, exec (.juryInputExecute j) s = .next t ∧ OnlyMast j s t ∧ (t.mast j).pair = { p with slotEnd := some asn }
            ∧ t.get64 j F.PAIR_INSEQ_SEQ = (P.inseq + 1) % 2 ^ 64)
          ∧ ∀ r page off w v b, i = .regWrite r page off w v b → ownWrite page off = false → exec (.juryInputExecute j) s =
              .next (((s.setPair j p).put64 j F.PAIR_INSEQ_SEQ (P.inseq + 1)).softWrite j r page off w v b))
    ∧ (j = s.active → ∃ t, exec (.digestStation j) s = .next t ∧ OnlyMast j s t
      ∧ let closed (e : Nat × Nat × Nat) : Bool := decide (0 ≤ sdiff 32 (P.latched.getD e.1 0) e.2.1)
        (t.mast j).outLog = log.filter (fun e => !closed e)
        ∧ (s.mirroring = true → t.get64 j F.PAIR_DIGEST_OWN = digestOf (log.filter closed)))
    ∧ (∀ asn dg inseq cs hdr u, s.receive 6 (decide (j = 0)) 0x0C hdr = (true, u) → u.jury j = true → u.pairState j ≠ 3 →
      ∃ t, exec (.digestMessage j asn dg inseq cs hdr) s = .next t ∧ OnlyMast j u t
      ∧ (t.mast j).pair = { (u.mast j).pair with peerDigest := (u.mast j).pair.peerDigest ++ [⟨asn, dg, inseq, cs⟩] })
    ∧ ∀ d rest, P.peerDigest = d :: rest → s.jury j = true → s.bit j F.PAIR_CFG_DIGEST_EN = true → s.updPhase s.active ≠ 5 →
      (s.pairState j ≠ 3 → s.digestReached j d = true → ∃ t, exec (.digestCompare j) s = .next t ∧ OnlyMast j s t
        ∧ t.get j F.PAIR_COMPARED = satInc 32 (s.get j F.PAIR_COMPARED)
        ∧ if digestOf (log.filter (inRange P.latched d)) = d.digest then
            (t.mast j).pair = { P with peerDigest := rest, latched := d.counts, result := 1, resultAsn := d.asn }
            ∧ (s.pairState j = 1 → t.pairState j = 1)
            ∧ (s.pairState j = 2 → s.xferPhase j = 3 → P.buffer = [] → t.pairState j = 1 ∧ t.get j F.PAIR_XFER_STATUS_RESULT = 1)
          else decided t 1 d.asn rest)
      ∧ (s.pairState j = 1 → s.digestReached j d = false → ∃ t, exec (.digestWaitExpiry j) s = .next t ∧ OnlyMast j s t ∧ decided t 2 d.asn rest)

/-- SELF_FAULT latches a fault of bits 0 to 6, a link's with its SRAM word's; an error of an SRAM word is counted, and the core that reads it
receives a bus error.  HEARTBEAT_SEND counts on and forgets the comparison sent.  HEARTBEAT notes the peer and, on an
active mast, gives up the role to a higher EPOCH.  HEARTBEAT_MISS counts; the third leaves an active mast ALONE, and splits the link of a jury
IN_STEP when a sail has heard the peer, and else makes it take over where AUTO_FAILOVER allows it.  LIVENESS_ANSWER is noted.  TRANSFER_PASS_END leads to the final pass, to the
next, or ends the transfer; with the last STATE_PACKET the jury has the active mast's memory, stations and MAC. -/
def Obligations.pair_hears_its_peer : Prop :=
  ∀ (s : State) (m : Nat), m < 2 → s.redundant = true → s.fitted m = true →
    let P := (s.mast m).pair
    (∀ b x r, (7 ≤ b → exec (.selfFault m b x r) s = .next s)
      ∧ (b < 7 → ∃ t, exec (.selfFault m b x r) s = .next t ∧ OnlyMast m s t
          ∧ t.get m F.PAIR_STATE_SELF_FAULT = s.get m F.PAIR_STATE_SELF_FAULT ||| (if b = 1 then 3 else 2 ^ b)
          ∧ (b ≤ 1 → t.get m F.SYS_SRAM_UNCORR = satInc 32 (s.get m F.SYS_SRAM_UNCORR))
          ∧ (b = 0 → r < 16 → Out.busError m r ∈ t.out)))
    ∧ (∃ t, exec (.heartbeatSend m) s = .next t ∧ OnlyMast m s t ∧ (t.mast m).pair = { P with hbCount := P.hbCount + 1, result := 0 })
    ∧ (∀ role epoch st fault x asn hdr u, s.receive 6 (decide (m = 0)) 0x0D hdr = (true, u) →
      let Q := (u.mast m).pair
      ∃ t, exec (.heartbeat m role epoch st fault x asn hdr) s = .next t
      ∧ (t.mast m).pair = { Q with peerEpoch := epoch, peerActive := role, misses := 0, answers := [] }
      ∧ t.bit m F.PAIR_STATE_PEER_PRESENT = true ∧ t.get m F.PAIR_STATE_PEER_FAULT = fault % 256
      ∧ (u.bit m F.PAIR_ROLE_ACTIVE = true → Q.takeover ≠ some 3 → u.get m F.PAIR_ROLE_EPOCH < epoch →
          t.bit m F.PAIR_ROLE_ACTIVE = false ∧ t.pairState m = 4)
      ∧ (u.bit m F.PAIR_ROLE_ACTIVE = false → t.bit m F.PAIR_ROLE_ACTIVE = false ∧ t.pairState m = u.pairState m))
    ∧ (∃ t, exec (.heartbeatMiss m) s = .next t
      ∧ (P.misses ≠ 2 → OnlyMast m s t ∧ (t.mast m).pair.misses = P.misses + 1 ∧ t.get m F.PAIR_HB_MISS = satInc 32 (s.get m F.PAIR_HB_MISS))
      ∧ (P.misses = 2 → m = s.active → s.updPhase m ≠ 4 → t.bit m F.PAIR_STATE_PEER_PRESENT = false ∧ t.pairState m = 5)
      ∧ (P.misses = 2 → m ≠ s.active → s.updPhase (1 - m) ≠ 4 → s.updPhase (1 - m) ≠ 5 → s.pairState m = 1 →
          if P.answers.any (fun e => decide (e.2 ≤ 100)) then
            t.pairState m = 4 ∧ t.get m F.PAIR_LINK_SPLIT = satInc 32 (s.get m F.PAIR_LINK_SPLIT) ∧ (t.mast m).pair.takeover = P.takeover
          else t.pairState m = 1
            ∧ (t.mast m).pair.takeover = (if s.bit m F.PAIR_CFG_AUTO_FAILOVER = true then some 2 else P.takeover)))
    ∧ (∀ k epoch a b hdr u, s.hasSail k = true → s.receive (connId m k) true 0x06 hdr = (true, u) → 2 ≤ (u.mast m).pair.misses → m ≠ s.active →
      ∃ t, exec (.livenessAnswer m k epoch a b hdr) s = .next t ∧ OnlyMast m u t
      ∧ (t.mast m).pair = { (u.mast m).pair with answers := (u.mast m).pair.answers ++ [(k, if m = 1 then a else b)] })
    ∧ (∀ dirty, m = s.active → s.pairState m = 2 → (s.conn 6).state = 2 → ∃ t, exec (.transferPassEnd m dirty) s = .next t
      ∧ t.get m F.PAIR_XFER_STATUS_DIRTY = min 65535 dirty
      ∧ (s.xferPhase m = 1 → dirty ≤ min 512 (s.get m F.PAIR_XFER_CFG_FINAL_MAX) → t.xferPhase m = 2 ∧ t.xferPhase (1 - m) = 2 ∧ t.shadow.isSome = true)
      ∧ (s.xferPhase m = 1 → min 512 (s.get m F.PAIR_XFER_CFG_FINAL_MAX) < dirty →
          if max 1 (s.get m F.PAIR_XFER_CFG_PASSES) ≤ s.get m F.PAIR_XFER_STATUS_PASS then
            s.updPhase m ≠ 5 → s.updPhase m ≠ 7 → t.pairState m = 4 ∧ t.get m F.PAIR_XFER_STATUS_RESULT = 2 ∧ t.xferPhase m = 0
          else t.get m F.PAIR_XFER_STATUS_PASS = s.get m F.PAIR_XFER_STATUS_PASS + 1 ∧ t.xferPhase m = 1)
      ∧ (s.xferPhase m = 2 → t.xferPhase m = 3))
    ∧ ∀ last hdr u, s.receive 6 (decide (m = 0)) 0x0E hdr = (true, u) →
      (last = false → exec (.statePacket m last hdr) s = .next u)
      ∧ (∀ M regs, last = true → m ≠ u.active → u.pairState m = 2 → u.shadow = some (M, regs) → ∃ t, exec (.statePacket m last hdr) s = .next t
        ∧ t.xferPhase m = 3 ∧ t.shadow = none ∧ (t.mast m).sal = M.sal ∧ (t.mast m).hal = M.hal ∧ (t.mast m).mac = M.mac ∧ (t.mast m).nodes = M.nodes)

/-- A PAIR.CMD write below OWNER is denied, and one with another KEY ignored.  SWAP, RESYNC and RELEASE_JURY show their CMD_STATUS.  On the active mast,
an accepted SWAP sets both masts' takeover for the next tick; an accepted RESYNC restarts the peer and starts a transfer; RELEASE_JURY
during a transfer ends it, both masts OUT_OF_STEP. -/
def Obligations.pair_commands : Prop :=
  ∀ (s : State) (m r key : Nat), s.Direct m r → s.Reaches m 0x004 0x048 r true 4 4 →
    (s.privOf m (s.ctxOf m r) < 3 → ∀ c ∈ [Instr.pairSwap m r 4 key, .pairResync m r 4 key, .pairReleaseJury m r 4 key],
      exec c s = .next (s.deny m 0x004 0x048 r true))
    ∧ (3 ≤ s.privOf m (s.ctxOf m r) → key % 256 ≠ 0x5A → ∀ c ∈ [Instr.pairSwap m r 4 key, .pairResync m r 4 key, .pairReleaseJury m r 4 key],
      exec c s = .next s)
    ∧ (3 ≤ s.privOf m (s.ctxOf m r) → key % 256 = 0x5A →
      (∃ t, exec (.pairSwap m r 4 key) s = .next t ∧ t.get m F.PAIR_STATE_CMD_STATUS = s.swapStatus m ∧ t.pairState m = s.pairState m
        ∧ (s.swapStatus m = 0 → m = s.active → (t.mast m).pair.takeover = some 3 ∧ (t.mast (1 - m)).pair.takeover = some 3)
        ∧ (s.swapStatus m ≠ 0 → (t.mast m).pair = (s.mast m).pair))
      ∧ (∃ t, exec (.pairResync m r 4 key) s = .next t ∧ t.get m F.PAIR_STATE_CMD_STATUS = s.resyncStatus m
        ∧ (s.resyncStatus m = 0 → m = s.active → t.pairState m = 2 ∧ t.pairState (1 - m) = 2 ∧ t.xferPhase m = 1
            ∧ (t.mast (1 - m)).booting = true ∧ (t.mast (1 - m)).bootStep = 5)
        ∧ (s.resyncStatus m ≠ 0 → t.pairState m = s.pairState m ∧ t.mast (1 - m) = s.mast (1 - m)))
      ∧ ∃ t, exec (.pairReleaseJury m r 4 key) s = .next t ∧ (s.updPhase m ≠ 5 → s.updPhase m ≠ 7 →
          t.get m F.PAIR_STATE_CMD_STATUS = (if s.redundant then 0 else 5)
          ∧ (s.redundant = true → m = s.active → s.pairState m = 2 → t.pairState m = 4 ∧ t.pairState (1 - m) = 4
              ∧ t.get m F.PAIR_XFER_STATUS_RESULT = 5)
          ∧ (s.pairState m ≠ 2 → t.mast m = s.mast m ∧ t.pairState m = s.pairState m)))

/-- On a connection that is UP, a good LINKCTL without NAK frees the packets that its ACKSEQ covers and returns the credits; a bad one is discarded.
A replay timeout counts a replay and sends what is outstanding again; after eight in a row without an advance the connection retrains.
LINKCTL_KEEPALIVE sends a LINKCTL with ACKSEQ, NAK, the flits freed, and its CRC.  RETRAINING_COMPLETE brings the connection UP; RETRAINING_TIMEOUT trains it again, and the third time declares it
FAILED.  TATRUM.RETRAIN with its key retrains it, and with another key does nothing. -/
def Obligations.link_connections : Prop :=
  ∀ (s : State) (c : Nat) (up : Bool), s.hasConn c = true →
    let x := s.conn c
    let d := x.dir up
    let counted (t : State) (f : Fld) : Prop := ∀ e ∈ connMasts c, t.get e.1 (f.at 16 e.2) = satInc 32 (s.get e.1 (f.at 16 e.2))
    (∀ l : LinkCtl, l.crc ≠ l.check → exec (.linkctl c up l) s = .next s)
    ∧ (∀ l : LinkCtl, l.crc = l.check → l.nak = false → x.state = 2 → d.waiting = [] → x.answers = [] → ∃ t, exec (.linkctl c up l) s = .next t
      ∧ (let n := if l.ack % 4096 = d.ackSeq then d.replays else 0
         t.conn c = x.setDir up (Dir.credited c { d with out := d.out.filter (fun y => !ackCovers l.ack y.seq), ackSeq := l.ack % 4096, replays := n }
           l.credits))
      ∧ t.out = s.out ∧ (c = 6 → t = { s with conns := t.conns, regs := t.regs }) ∧ (c ≠ 6 → up = true → OnlySail (c % 8) s t)
      ∧ (c ≠ 6 → up = false → OnlyMast (c / 8) s t))
    ∧ (x.state = 2 → d.out ≠ [] → ∃ t, exec (.linkReplayTimeout c up) s = .next t ∧ t = { s with conns := t.conns, regs := t.regs, out := t.out }
      ∧ if d.replays < 8 then (t.conn c).state = 2 ∧ ((t.conn c).dir up).replays = d.replays + 1 ∧ counted t F.TATRUM_REPLAY
          ∧ t.out = (d.out.map (fun y => Out.packet (y.pkt.onLink (sendDie c up) (recvDie c up) y.seq))).reverse ++ s.out
        else (t.conn c).state = 1 ∧ counted t F.TATRUM_RETRAINS ∧ t.out = s.out)
    ∧ (x.state = 2 → ∃ t fr, exec (.linkctlKeepalive c up) s = .next t ∧ t = { s with conns := t.conns, out := t.out }
      ∧ t.conn c = x.setDir up { d with nak := false, freed := fr }
      ∧ let told := (List.range 4).map (fun v => min 255 (Tbl.get (fun _ => 0) d.freed v))
        t.out = Out.linkctl (recvDie c up) (sendDie c up) (LinkCtl.make ((d.rxSeq + 4095) % 4096) d.nak told) :: s.out
        ∧ ∀ v, v < 4 → Tbl.get (fun _ => 0) fr v = Tbl.get (fun _ => 0) d.freed v - told.getD v 0)
    ∧ (x.state = 1 → ∃ t, exec (.retrainingComplete c) s = .next t ∧ (t.conn c).state = 2 ∧ (t.conn c).fails = 0
      ∧ (c = 6 → t = { s with conns := t.conns, out := t.out }) ∧ (c ≠ 6 → OnlyMast (c / 8) s t))
    ∧ (x.state = 1 → ∃ t, exec (.retrainingTimeout c) s = .next t
      ∧ (x.fails < 2 → t.conn c = { x with state := 1, fails := x.fails + 1 } ∧ counted t F.TATRUM_RETRAINS)
      ∧ (2 ≤ x.fails → (t.conn c).state = 3
          ∧ (c ≠ 6 → s.active = c / 8 → t.get s.active F.PAIR_SAIL_LOST = satInc 32 (s.get s.active F.PAIR_SAIL_LOST))
          ∧ (c = 6 → s.active < 2 → t.pairState s.active = 5)))
    ∧ ∀ m r v, s.Direct m r → s.Reaches m 0x008 0x050 r true 4 4 → c = connId m (v % 8) → v % 8 ≤ 6 →
      (v / 256 % 256 ≠ 0x7A → exec (.tatrumRetrain m r 4 v) s = .next s)
      ∧ (v / 256 % 256 = 0x7A → x.state = 2 → ∃ t, exec (.tatrumRetrain m r 4 v) s = .next t ∧ t = { s with conns := t.conns, regs := t.regs }
        ∧ t.conn c = { x with state := 1 } ∧ counted t F.TATRUM_RETRAINS)

/-- An accepted FRAME_DOWN and LAUNCH give the handle its frame and its descriptor; one not accepted has no further effect, and a LAUNCH stays on
the link while 16 frames of its carrier wait.  TICK tells a sail its next
tick and ends FREERUN; TICK_FREERUN counts a missed tick, and the sail makes it itself.  CFO_HINT sets or clears a bin's hint, and a malformed or
unknown CMD is counted.  TAKEOVER of no higher EPOCH is counted as stale, and of a higher one makes its mast the master and opens the window, which
DUAL_WINDOW_CLOSE closes.  LIVENESS is answered, or the answer dropped and counted.  SAIL_IRQ_EVENT shows the sail's pending state at its mast. -/
def Obligations.sails_take_commands : Prop :=
  ∀ (s : State) (k m : Nat) (hdr : List LinkPkt) (u : State),
    let d := sailDie k
    (∀ h f, s.accepts k m 0x02 h (.frame f) hdr = (true, u) → ∃ t g, exec (.frameDown k m h f hdr) s = .next t ∧ OnlySail k u t
      ∧ t.regs = u.regs ∧ (t.sail k).txOf h = some g ∧ g.frame = some f ∧ ∀ y, (u.sail k).txOf h = some y → g = { y with frame := some f })
    ∧ (∀ h f, s.accepts k m 0x02 h (.frame f) hdr = (false, u) → exec (.frameDown k m h f hdr) s = .next u)
    ∧ (∀ h (x : LaunchDesc), let waits := (s.sail k).tx.filter (fun f => f.phase == 0 && decide (f.desc.map (fun e => e.carrier) = some x.carrier))
      (16 ≤ waits.length → exec (.launch k m h x hdr) s = .next s)
      ∧ (waits.length < 16 → s.accepts k m 0x03 h (.nums x.bytes) hdr = (true, u) → ∃ t g, exec (.launch k m h x hdr) s = .next t ∧ OnlySail k u t
      ∧ t.regs = u.regs ∧ (t.sail k).txOf h = some g ∧ g.desc = some x ∧ ∀ y, (u.sail k).txOf h = some y → g = { y with desc := some x }))
    ∧ (∀ time lo, s.arrive k m 0x07 hdr = (true, u) → ∃ t, exec (.tick (k + 2) m time lo hdr) s = .next t ∧ OnlySail k u t
      ∧ (t.sail k).nextTick = some (asnFrom32 (u.sail k).asn lo, time) ∧ t.bit d F.STIME_STATUS_FREERUN = false ∧ t.get d F.STIME_STATUS_RUN = 0)
    ∧ (s.hasSail k = true → (s.sail k).ticked = true → (s.sail k).nextTick = none → ∃ t, exec (.tickFreerun k) s = .next t ∧ OnlySail k s t
      ∧ (t.sail k).nextTick = some (((s.sail k).asn + 1) % 2 ^ 40, (s.sail k).tickNow + 400 * s.slotLen)
      ∧ t.get d F.SSTAT_TICK_MISS = satInc 32 (s.get d F.SSTAT_TICK_MISS) ∧ t.bit d F.STIME_STATUS_FREERUN = true
      ∧ t.get d F.STIME_STATUS_RUN = satInc 8 (s.get d F.STIME_STATUS_RUN))
    ∧ (∀ tag e len, s.accepts k m 0x09 tag (.nums [0xC1, 1, len, e.word]) hdr = (true, u) → ∃ t, exec (.cfoHint k m tag 1 len [e] hdr) s = .next t
      ∧ OnlySail k u t
      ∧ if len < 8 then t.get d F.SSTAT_CMD_BAD_COUNT = satInc 32 (u.get d F.SSTAT_CMD_BAD_COUNT) ∧ (t.sail k).hints = (u.sail k).hints
        else t.regs = u.regs ∧ Tbl.find? (t.sail k).hints (128 * e.hint.win + e.hint.bin) = (if e.valid then some e.hint else none)
          ∧ ∀ i, i ≠ 128 * e.hint.win + e.hint.bin → Tbl.find? (t.sail k).hints i = Tbl.find? (u.sail k).hints i)
    ∧ (∀ tag ws, s.accepts k m 0x09 tag (.nums ws) hdr = (true, u) → ∃ t, exec (.cmdUnknownKind k m tag ws hdr) s = .next t
      ∧ t.get d F.SSTAT_CMD_BAD_COUNT = satInc 32 (u.get d F.SSTAT_CMD_BAD_COUNT) ∧ OnlyWords [key d F.SSTAT_CMD_BAD_COUNT.addr] u t)
    ∧ (∀ epoch die, s.arrive k m 0x09 hdr = (true, u) → u.bit d F.SSTAT_MASTER_VALID = true →
      (epoch ≤ u.get d F.SSTAT_MASTER_EPOCH → ∃ t, exec (.takeover k m epoch die hdr) s = .next t
        ∧ t.get d F.SSTAT_STALE_MASTER_COUNT = satInc 32 (u.get d F.SSTAT_STALE_MASTER_COUNT) ∧ OnlyWords [key d F.SSTAT_STALE_MASTER_COUNT.addr] u t)
      ∧ (u.get d F.SSTAT_MASTER_EPOCH < epoch → ∃ t, exec (.takeover k m epoch die hdr) s = .next t ∧ OnlySail k u t
        ∧ t.bit d F.SSTAT_MASTER_VALID = true ∧ t.get d F.SSTAT_MASTER_DIE = die % 8 ∧ t.get d F.SSTAT_MASTER_EPOCH = epoch % 65536
        ∧ t.bit d F.SSTAT_MASTER_WINDOW = true ∧ t.sail k = { u.sail k with window := some (u.sailLocal k) }))
    ∧ (s.hasSail k = true → (s.sail k).window ≠ none → ∃ t, exec (.dualWindowClose k) s = .next t ∧ OnlySail k s t
      ∧ t.sail k = { s.sail k with window := none } ∧ t.bit d F.SSTAT_MASTER_WINDOW = false)
    ∧ (∀ tag, s.arrive k m 0x09 hdr = (true, u) → ∃ t, exec (.liveness k m tag hdr) s = .next t ∧ OnlySail k u t
      ∧ (16 ≤ (u.conn (connId m k)).answers.length → t.get d F.SSTAT_ANSWER_DROP_COUNT = satInc 32 (u.get d F.SSTAT_ANSWER_DROP_COUNT)
          ∧ t.conns = u.conns)
      ∧ ((u.conn (connId m k)).answers.length < 16 → (u.conn (connId m k)).up.credit (connId m k) 1 < 4 → t.regs = u.regs
          ∧ (t.conn (connId m k)).answers = (u.conn (connId m k)).answers ++ message 0x06 tag ([0xD2, d]
              ++ leBytes 2 (if u.bit d F.SSTAT_MASTER_VALID then u.get d F.SSTAT_MASTER_EPOCH else 0)
              ++ leBytes 2 (u.silence k 0) ++ leBytes 2 (u.silence k 1))))
    ∧ ∀ pend, m < 2 → s.hasSail k = true → s.receive (connId m k) true 0x0A hdr = (true, u) →
      (u.mirror m (.sailIrq k pend) 0 = none → exec (.sailIrqEvent m k pend hdr) s = .next s)
      ∧ ∀ w, u.mirror m (.sailIrq k pend) 0 = some w → ∃ t, exec (.sailIrqEvent m k pend hdr) s = .next t ∧ OnlyMast m w t
        ∧ (t.get m F.IRQ_SAIL_PEND_SAILS).testBit k = pend
        ∧ ∀ j, j ≠ k → (t.get m F.IRQ_SAIL_PEND_SAILS).testBit j = (s.get m F.IRQ_SAIL_PEND_SAILS).testBit j

/-- FRAME_UP that finds cells and room gives its item to LANE_IN with its sail's port; refused, it stays on the link.  LANE_IN counts and frees a
copy that fails a check, and passes any other on with its node, flow and port.  DEDUP opens a group for a frame of a new source and joins a
matching copy to its group; of a decided group it is freed, counted as late.  DEDUP_GROUP_CLOSE passes on a copy of the greatest quality;
DEDUP_GROUP_RETIRE, once due, forgets the group. -/
def Obligations.uplinks_arrive : Prop :=
  ∀ (s : State) (m : Nat), m < 2 →
    let groups := (s.mast m).mac.groups
    let freed (a t : State) (c : Nat) : Prop := (a.mast m).sal.broken ((a.mast m).sal.item c).place = false → ((t.mast m).sal.item c).cells = []
    (∀ k lane sq md f hdr u w, s.hasSail k = true → s.fitted m = true → m = s.active →
      s.receive (connId m k) true 0x01 hdr = (true, u) → u.mirror m (.frameUp k lane sq md f) (s.rxStamp m md) = some w →
      (∀ c v, w.RoomAt m 0 → w.allocItem m 40 (f.len + 16) (.up md k f) = some (c, v) → ∃ t d, exec (.frameUp m k lane sq md f hdr) s = .next t
        ∧ OnlyMast m w t ∧ w.Gave t m d ∧ d.station = 0 ∧ d.cell = c ∧ d.port = k ∧ d.node = noNode ∧ d.len = f.len % 2048
        ∧ t.bodyOf m d = .up md k f)
      ∧ (w.allocItem m 40 (f.len + 16) (.up md k f) = none → ∃ t, exec (.frameUp m k lane sq md f hdr) s = .next t ∧ t.conns = s.conns
        ∧ OnlyMast m s t ∧ ((s.mast m).sal.waitSt.contains (256 + k) = false → t.get m F.SALTERN_HOLD = satInc 32 (s.get m F.SALTERN_HOLD))))
    ∧ (∀ d u md k f, s.engineTake m 0 = some (d, u) → u.bodyOf m d = .up md k f → ∃ t, exec (.laneIn m) s = .next t ∧ OnlyMast m u t
      ∧ (∀ c, u.laneInCheck m f = some c → t.get m c = satInc 32 (u.get m c) ∧ freed u t d.cell
          ∧ (t.mast m).hal.entries = (u.mast m).hal.entries)
      ∧ (u.laneInCheck m f = none → u.RoomAt m (u.nextOf m 0) →
          let n := (u.lookupAddr m f.src).1.getD noNode
          ∃ x, u.Gave t m x ∧ x.station = u.nextOf m 0 ∧ x.cell = d.cell ∧ x.node = n ∧ x.flow = n % 1024 ∧ x.port = k))
    ∧ (∀ d u md k f, s.engineTake m 1 = some (d, u) → u.bodyOf m d = .up md k f → ∃ t, exec (.dedup m) s = .next t ∧ OnlyMast m u t
      ∧ ((∀ g ∈ groups, g.src ≠ f.src) → groups.length < 65536 → ∃ g, (t.mast m).mac.groups = groups ++ [g] ∧ g.src = f.src
          ∧ g.copies = [⟨d.cell, k, md, f, false⟩] ∧ g.closed = false ∧ g.decided = false ∧ g.kept = none ∧ g.heard = k)
      ∧ (∀ gs g, groups = gs ++ [g] → sdiff 40 (s.mast m).asn g.due < 0 → g.src = f.src → g.ctr = dedupCtr f → g.secured = (f.secLevel != 0) →
          (u.pos m (nearAsn (s.mast m).asn md.asnLo) md.tsOff - g.at_).natAbs ≤ 8000 →
          if g.decided ∨ g.failedAll then (t.mast m).mac.groups = groups ∧ freed u t d.cell
            ∧ (g.closed = true → t.get m F.MAC_DEDUP_LATE = satInc 32 (u.get m F.MAC_DEDUP_LATE))
          else { g with copies := g.copies ++ [⟨d.cell, k, md, f, false⟩] } ∈ (t.mast m).mac.groups))
    ∧ (∀ g G, (s.mast m).mac.group g = some G →
      (G.closed = false → G.copies ≠ [] → ∃ t X c, exec (.dedupGroupClose m g) s = .next t ∧ OnlyMast m s t ∧ (t.mast m).mac.group g = some X
        ∧ X.closed = true ∧ c ∈ G.copies ∧ X.kept = some c.cell ∧ (∀ y ∈ G.copies, y.lq ≤ c.lq)
        ∧ (s.RoomAt m (s.nextOf m 1) → ∃ x, s.Gave t m x ∧ x.station = s.nextOf m 1))
      ∧ (0 ≤ sdiff 40 (s.mast m).asn G.due → ∃ t, exec (.dedupGroupRetire m g) s = .next t ∧ OnlyMast m s t
          ∧ (t.mast m).mac.groups = groups.filter (fun x => x.id != G.id))
      ∧ (sdiff 40 (s.mast m).asn G.due < 0 → exec (.dedupGroupRetire m g) s = .next s))

/-- ACK_SENDER_CHOICE decides a closed group: the sender is the sail of a valid copy, or none.  CCM_OPEN passes an unsecured data frame and a
secured one whose MIC its node's key gives; the last copy of its group that fails fails the group.  REPLAY drops an older counter and a repeated
one that is owed no ACK, each counted, and accepts a newer one.  ACK_BUILD waits for the decision, passes what is owed no ACK, counts a late one that was not counted at the decision, and else
plans the ACK from the chosen sail.  ACK_CUTOFF ends an ACK not yet handed over. -/
def Obligations.uplinks_answered : Prop :=
  ∀ (s : State) (m : Nat), m < 2 →
    let freed (a t : State) (c : Nat) : Prop := (a.mast m).sal.broken ((a.mast m).sal.item c).place = false → ((t.mast m).sal.item c).cells = []
    (∀ g G, (s.mast m).mac.group g = some G → G.closed = true → G.decided = false → G.failedAll = false →
      ∃ t X, exec (.ackSenderChoice m g) s = .next t ∧ OnlyMast m s t ∧ (t.mast m).mac.group g = some X ∧ X.decided = true
      ∧ (G.copies.filter G.valid = [] → X.ackSail = none)
      ∧ (G.copies.filter G.valid ≠ [] → ∃ c ∈ G.copies, G.valid c = true ∧ X.ackSail = some c.sail)
      ∧ t.get m F.MAC_DEDUP_COPIES = min (2 ^ 32 - 1) (s.get m F.MAC_DEDUP_COPIES
          + (G.copies.filter (fun c => G.kept != some c.cell)).length)
      ∧ ∀ c, G.copies.find? (fun x => G.kept == some x.cell) = some c → G.secured = true → G.verified = none → s.asksAck m c.frame = true →
          t.get m F.MAC_ACK_LATE = satInc 32 (s.get m F.MAC_ACK_LATE))
    ∧ (∀ d u md k f, s.engineTake m 2 = some (d, u) → u.bodyOf m d = .up md k f → ∃ t, exec (.ccmOpen m) s = .next t ∧ OnlyMast m u t
      ∧ (f.ftype ≠ 0 → u.RoomAt m (u.nextOf m 2) →
          let passed := ∃ x, u.Gave t m x ∧ x.station = u.nextOf m 2 ∧ x.cell = d.cell
          (f.secLevel = 0 → passed)
          ∧ (∀ kk, f.secLevel ≠ 0 → f.keyMode = 0 → d.node ≠ noNode → u.nodeKey m d.node = (some kk, u) →
              match f.openWith kk ((u.mast m).node d.node).ident.eui with
              | some g => g.ftype ≠ 0 → passed
              | none => (u.mast m).mac.groupOf d.cell = none → freed u t d.cell))
      ∧ (f.secLevel ≠ 0 → d.node = noNode →
          ((u.mast m).mac.groupOf d.cell = none → freed u t d.cell ∧ (t.mast m).hal.entries = (u.mast m).hal.entries)
          ∧ ∀ G, (u.mast m).mac.groupOf d.cell = some G → (∀ c ∈ G.copies, c.cell = d.cell ∨ c.failed = true) →
              { G with copies := [], kept := none, failedAll := true } ∈ (t.mast m).mac.groups))
    ∧ (∀ d u md k f, s.engineTake m 3 = some (d, u) → u.bodyOf m d = .up md k f → d.node ≠ noNode → f.secLevel ≠ 0 →
      let l := ((u.mast m).node d.node).link
      ∃ t, exec (.replay m) s = .next t ∧ OnlyMast m u t
      ∧ (f.fc < l.rxFc → t.get m F.MAC_REPLAY_OLD = satInc 32 (u.get m F.MAC_REPLAY_OLD) ∧ freed u t d.cell
          ∧ ((t.mast m).node d.node).link = l)
      ∧ (f.fc = l.rxFc → t.get m F.MAC_REPLAY_DUP = satInc 32 (u.get m F.MAC_REPLAY_DUP) ∧ ((t.mast m).node d.node).link = { l with syncValid := false }
          ∧ (u.ackIsOwed m f = false → freed u t d.cell ∧ (t.mast m).hal.entries = (u.mast m).hal.entries))
      ∧ (l.rxFc < f.fc → ((t.mast m).node d.node).link.rxFc = f.fc
          ∧ (f.ftype ≠ 2 → u.RoomAt m (u.nextOf m 3) → ∃ x, u.Gave t m x ∧ x.station = u.nextOf m 3 ∧ x.cell = d.cell)))
    ∧ (∀ d u md k f, s.engineTake m 15 = some (d, u) → u.bodyOf m d = .up md k f →
      let owed := (s.mast m).mac.ackOwed.contains d.cell
      let dup := (s.mast m).mac.dups.contains d.cell
      (∀ G, (s.mast m).mac.groupOf d.cell = some G → G.decided = false → exec (.ackBuild m) s = .next s)
      ∧ ((s.mast m).mac.groupOf d.cell = none → dup = false → u.RoomAt m (u.nextOf m 15) → ∃ t x, exec (.ackBuild m) s = .next t ∧ OnlyMast m u t
          ∧ u.Gave t m x ∧ x.station = u.nextOf m 15 ∧ x.cell = d.cell
          ∧ (owed = true → t.get m F.MAC_ACK_LATE
              = (if (u.passedOf m d.cell).late = true then u.get m F.MAC_ACK_LATE else satInc 32 (u.get m F.MAC_ACK_LATE)))
          ∧ (t.mast m).mac.launches = (u.mast m).mac.launches)
      ∧ (∀ G j, (s.mast m).mac.groupOf d.cell = some G → G.decided = true → G.ackSail = some j → owed = true → f.secLevel = 0 →
          let pre := if d.node = noNode then 0 else ((u.mast m).node d.node).link.nodePre
          let ack := u.ackFrame m f (u.timing m k pre md).tc 0 none
          (u.allocItem m 48 ack.len (.down ack)).isSome = true → ∃ t x, exec (.ackBuild m) s = .next t ∧ OnlyMast m u t
          ∧ (t.mast m).mac.launches = (u.mast m).mac.launches ++ [x] ∧ x.kind = .ack ∧ x.sail = j ∧ x.node = d.node ∧ x.frame.ftype = 2
          ∧ x.frame.seqNo = f.seqNo))
    ∧ ∀ h l, (s.mast m).mac.launch h = some l → l.kind = .ack → l.stage < 2 → ∃ t, exec (.ackCutoff m h) s = .next t ∧ OnlyMast m s t
      ∧ (t.mast m).mac.launches = (s.mast m).mac.launches.filter (fun x => x.handle != l.handle)
      ∧ t.get m F.MAC_ACK_LATE = satInc 32 (s.get m F.MAC_ACK_LATE)
      ∧ (l.stage = 1 → ((s.mast m).sal.queue (130 + l.sail)).broken = false → freed s t l.cell)

/-- ADVICE_RECEIVED places its report in event queue 128, or holds it behind those that wait.  HC_EXPAND passes a MAC command or an empty
frame, expands 6LoWPAN and counts it, and drops what names an invalid context or has a wrong checksum.  NODE_LEARN refreshes an entry that may age and passes the item on.  SLUICE_UP passes
or frees it as its sluice says.  CLASSIFY sends MAC commands, join frames, local packets and classed uplinks to the stations and queues of its
fields, and counts an item without one.  TO_PARTNER puts it on its queue, or keeps it while the queue refuses it. -/
def Obligations.stations_upwards : Prop :=
  ∀ (s : State) (m : Nat), m < 2 →
    let gave (u t : State) (n : Nat) (d : Desc) : Prop := u.RoomAt m n → ∃ x, u.Gave t m x ∧ x.station = n ∧ x.cell = d.cell
    let freed (u t : State) (d : Desc) : Prop :=
      (u.mast m).sal.broken ((u.mast m).sal.item d.cell).place = false → ((t.mast m).sal.item d.cell).cells = []
    let runs (c : Instr) (u t : State) : Prop := exec c s = .next t ∧ OnlyMast m u t
    (∀ k ws hdr u w, s.hasSail k = true → s.fitted m = true → m = s.active → s.receive (connId m k) true 0x0A hdr = (true, u) →
      u.mirror m (.advice k ws) 0 = some w → ∃ t, runs (.adviceReceived m k ws hdr) w t
      ∧ ((w.mast m).heldEvents = [] → w.admitQ m 128 1 = true → (w.mast m).sal.brine ≠ 0 → ∃ c, ((t.mast m).sal.item c).body = .event ⟨.advice, k, ws⟩
          ∧ ((t.mast m).sal.queue 128).heads = ((w.mast m).sal.queue 128).heads ++ [c])
      ∧ ((w.mast m).heldEvents ≠ [] → (t.mast m).heldEvents = (w.mast m).heldEvents ++ [⟨.advice, k, ws⟩]))
    ∧ (∀ d u md k f, s.engineTake m 4 = some (d, u) → u.bodyOf m d = .up md k f → ∃ t, runs (.hcExpand m) u t
      ∧ (f.ftype = 3 ∨ f.payload = [] → gave u t (u.nextOf m 4) d)
      ∧ (f.ftype ≠ 3 → f.payload ≠ [] →
          match expandLowpan (u.contexts m) (u.bit m F.COMP_CFG_CSUM_ELIDE_RX) f.src f.dst f.payload with
          | .unsupported => t.get m F.COMP_UNSUP_DISPATCH = satInc 32 (u.get m F.COMP_UNSUP_DISPATCH)
          | .badCtx => freed u t d ∧ t.get m F.COMP_BAD_CTX = satInc 32 (u.get m F.COMP_BAD_CTX)
          | .csumFail => freed u t d ∧ t.get m F.COMP_CSUM_FAIL = satInc 32 (u.get m F.COMP_CSUM_FAIL)
          | .packet p => (u.resizeItem m d.cell (packetLen p % 2048)).isSome = true →
              t.get m F.COMP_EXPANDED = satInc 32 (u.get m F.COMP_EXPANDED) ∧ gave u t (u.nextOf m 4) d
                ∧ (u.RoomAt m (u.nextOf m 4) → t.bodyOf m d = .packet p (some (md, k, f)))))
    ∧ (∀ d u md k f, s.engineTake m 5 = some (d, u) → (u.bodyOf m d).reception = some (md, k, f) → ∃ t, runs (.nodeLearn m) u t
      ∧ gave u t (u.nextOf m 5) d
      ∧ (∀ p w, d.node ≠ noNode → u.lookupKey m ((u.mast m).node d.node).ident.eui = (some p, w) → ((u.mast m).nt.ent p).static = false →
          ((t.mast m).nt.ent p).ageTs = (u.mast m).nt.now))
    ∧ (∀ d u md k f ok w, s.engineTake m 6 = some (d, u) → (u.bodyOf m d).reception = some (md, k, f) →
      (if d.node = noNode then u.sluice m 40 f.len d.stamp else u.nodeSluice m d.node (nearAsn (u.mast m).asn md.asnLo) f.len) = (ok, w) →
      ∃ t, runs (.sluiceUp m) u t ∧ (ok = true → gave u t (u.nextOf m 6) d) ∧ (ok = false → freed u t d ∧ (t.mast m).hal.entries = (u.mast m).hal.entries))
    ∧ (∀ d u, s.engineTake m 9 = some (d, u) → ∃ t, runs (.classify m) u t
      ∧ let sent (st : Nat) : Prop := if st = 0xFF then freed u t d else gave u t st d
        (∀ md k f, d.down = false → u.bodyOf m d = .up md k f →
          (f.ftype = 3 → sent (u.get m F.ROUTE_STATIONS2_MACCMD_STATION))
          ∧ (f.ftype ≠ 3 → d.node = noNode → f.secLevel = 0 → sent (u.get m F.MAC_SEC_CFG_JOIN_STATION))
          ∧ (f.ftype ≠ 3 → d.node ≠ noNode →
              let c := ((u.mast m).node d.node).ident.cls
              let port := u.get m (F.ROUTE_UPMAP_PORT.at 4 c)
              let q := if port = 12 then 64 + u.get m (F.ROUTE_UPMAP_RING.at 4 c)
                else (if u.redundant && u.bit m (F.ROUTE_UPMAP_PEER.at 4 c) then 160 else 0) + 8 * (port - 8) + u.get m (F.ROUTE_UPMAP_TC.at 4 c)
              (8 ≤ port → port ≤ 12 → gave u t 7 d ∧ (u.RoomAt m 7 → ((t.mast m).sal.item d.cell).dest = some q))
              ∧ (port < 8 ∨ 13 < port → freed u t d ∧ t.get m F.ROUTE_NO_UPMAP = satInc 32 (u.get m F.ROUTE_NO_UPMAP))))
        ∧ ∀ p up, d.down = true → u.bodyOf m d = .packet p up → u.ownAddr m p.dst = true → sent (u.get m F.ROUTE_STATIONS_LOCAL_STATION))
    ∧ ∀ d u q, s.engineTake m 7 = some (d, u) → ((u.mast m).sal.item d.cell).dest = some q → ((u.mast m).sal.item d.cell).cells ≠ [] →
      (u.admitQ m q ((u.mast m).sal.item d.cell).cells.length = true → ∃ t, runs (.toPartner m) u t
        ∧ ((t.mast m).sal.queue q).heads = ((u.mast m).sal.queue q).heads ++ [d.cell])
      ∧ (u.admitQ m q ((u.mast m).sal.item d.cell).cells.length = false → ∃ t, runs (.toPartner m) u t
        ∧ Tbl.get (fun _ => none) (t.mast m).hal.taken 7 = some d ∧ ((t.mast m).sal.queue q).heads = ((u.mast m).sal.queue q).heads)

/-- FROM_PARTNER passes an item or frees it as its sluice says.  ROUTE_WALK counts its walk; a destination without a parent fails, counted, and one next to
the device is passed on unchanged in node.  HC_COMPRESS counts and passes a frame, or counts one too big.  CCM_SEAL passes an unsecured frame, drops
one without a key, and gives a secured one the node's next counter.  LINK_QUEUE appends the item to its node's chain, or drops and counts
it when the chain would pass NODE_MAX. -/
def Obligations.stations_downwards : Prop :=
  ∀ (s : State) (m : Nat), m < 2 →
    let gave (u t : State) (n : Nat) (d : Desc) : Prop := u.RoomAt m n → ∃ x, u.Gave t m x ∧ x.station = n ∧ x.cell = d.cell
    let freed (u t : State) (d : Desc) : Prop :=
      (u.mast m).sal.broken ((u.mast m).sal.item d.cell).place = false → ((t.mast m).sal.item d.cell).cells = []
    let runs (c : Instr) (u t : State) : Prop := exec c s = .next t ∧ OnlyMast m u t
    (∀ d u, s.engineTake m 8 = some (d, u) → ∃ t, runs (.fromPartner m) u t
      ∧ (((u.mast m).sal.item d.cell).dest = none → gave u t (u.nextOf m 8) d)
      ∧ ∀ i ok w, ((u.mast m).sal.item d.cell).dest = some i → u.sluice m i ((u.mast m).sal.item d.cell).frameLen d.stamp = (ok, w) →
          (ok = true → gave u t (u.nextOf m 8) d) ∧ (ok = false → freed u t d ∧ (t.mast m).hal.entries = (u.mast m).hal.entries))
    ∧ (∀ d u p up, s.engineTake m 10 = some (d, u) → u.bodyOf m d = .packet p up →
      (u.walk m 17 d.node [d.node] = .error .noParent → ∃ t, runs (.routeWalk m) u t ∧ t.get m F.ROUTE_WALKS = satInc 32 (u.get m F.ROUTE_WALKS)
        ∧ t.get m F.ROUTE_NO_PARENT = satInc 32 (u.get m F.ROUTE_NO_PARENT))
      ∧ (((u.mast m).node d.node).routing.rootAdj = true → u.ownAddr m p.src = true → (u.resizeItem m d.cell (packetLen p % 2048)).isSome = true →
        ∃ t, runs (.routeWalk m) u t
        ∧ t.get m F.ROUTE_WALKS = satInc 32 (u.get m F.ROUTE_WALKS)
        ∧ (u.RoomAt m (u.nextOf m 10) → ∃ x, u.Gave t m x ∧ x.station = u.nextOf m 10 ∧ x.cell = d.cell ∧ x.node = d.node ∧ x.flow = d.node % 1024
            ∧ x.len = packetLen p % 2048)))
    ∧ (∀ d u p up, s.engineTake m 11 = some (d, u) → u.bodyOf m d = .packet p up →
      let fr := u.dataFrame m d.node p u.free.1
      (u.resizeItem m d.cell fr.len).isSome = true → ∃ t, runs (.hcCompress m) u t
      ∧ if 2047 < fr.len then t.get m F.COMP_TOO_BIG = satInc 32 (u.get m F.COMP_TOO_BIG)
        else t.get m F.COMP_COMPRESSED = satInc 32 (u.get m F.COMP_COMPRESSED) ∧ gave u t (u.nextOf m 11) d
          ∧ (u.RoomAt m (u.nextOf m 11) → t.bodyOf m d = .down fr))
    ∧ (∀ d u f, s.engineTake m 12 = some (d, u) → u.bodyOf m d = .down f →
      (f.secLevel = 0 → ∃ t, runs (.ccmSeal m) u t ∧ gave u t (u.nextOf m 12) d)
      ∧ (f.secLevel ≠ 0 → (u.nodeKey m d.node).1 = none → ∃ t, runs (.ccmSeal m) u t ∧ freed u t d)
      ∧ (∀ kk v, f.secLevel ≠ 0 → u.chainWaits m d.node = false → u.nodeKey m d.node = (some kk, u) → u.fcNext m ((u.mast m).node d.node).link.dnFc = .value v →
          ∃ t, runs (.ccmSeal m) u t ∧ gave u t (u.nextOf m 12) d ∧ ((t.mast m).node d.node).link = { ((u.mast m).node d.node).link with dnFc := v }))
    ∧ ∀ d u, s.engineTake m 13 = some (d, u) → d.node ≠ noNode →
      let k := ((u.mast m).sal.item d.cell).cells.length
      let ch := ((u.mast m).node d.node).chain
      (max 1 (u.get m F.SALTERN_CHAIN_CFG_NODE_MAX) < ch.cells + k → ∃ t, runs (.linkQueue m) u t
        ∧ t.get m F.SALTERN_CHAIN_FULL = satInc 32 (u.get m F.SALTERN_CHAIN_FULL) ∧ ((t.mast m).node d.node).chain = ch)
      ∧ (ch.cells + k ≤ max 1 (u.get m F.SALTERN_CHAIN_CFG_NODE_MAX) → k ≠ 0 → u.admitChain m k = true → (u.mast m).sal.broken (.chain d.node) = false → ∃ t, runs (.linkQueue m) u t
        ∧ ((t.mast m).node d.node).chain = ⟨ch.heads ++ [d.cell], ch.cells + k⟩
        ∧ (((u.mast m).node d.node).link.period ≠ 0 → ((t.mast m).sal.item d.cell).place = .chain d.node))

/-- MAC_LAUNCH 0 keeps an ACK whose launch queue is full, drops and counts one without a carrier, and queues one that passes its checks
and the dwell.  1 plans the next candidate once, while its sail has fewer than 64 unbuilt: a node whose head frame passes every check gets a launch on the channel of its event, and its link's
anchor follows.  2 builds a data launch within its grant.  3 hands a built launch to its sail once the link takes it, counted when it leaves late.  4 writes
at most seven CFO hints of a sail. -/
def Obligations.launches_are_planned : Prop :=
  ∀ (s : State) (m h : Nat), s.fitted m = true → m < 2 →
    let M := (s.mast m).mac
    (∀ d u, s.engineTake m 14 = some (d, u) →
      let U := (u.mast m).mac
      let it := (u.mast m).sal.item d.cell
      let isAck (l : Launch) : Bool := decide (l.kind = .ack) && l.cell == d.cell && l.stage == 0
      (U.launches.find? isAck = none → ∃ t, exec (.macLaunch m 0 h) s = .next t ∧ OnlyMast m u t
        ∧ ((u.mast m).sal.broken it.place = false → ((t.mast m).sal.item d.cell).cells = []))
      ∧ ∀ l, U.launches.find? isAck = some l →
        let rest := U.launches.filter (fun x => x.handle != l.handle)
        let free := (u.freeCarriers m l.sail l.at_ (l.at_ + 400 * l.airUs)).head?
        let samples := u.samplesOn m l.sail l.pers l.rate l.fec l.frame.len (u.preamble (copyDie m l.sail) l.pers)
        ∃ t, exec (.macLaunch m 0 h) s = .next t ∧ OnlyMast m u t
        ∧ (u.launchRoom m l.sail = false → Tbl.get (fun _ => none) (t.mast m).hal.taken 14 = some d ∧ (t.mast m).mac = U)
        ∧ (u.launchRoom m l.sail = true → 262144 < samples →
            (t.mast m).mac.launches = rest ∧ t.get m F.MAC_FIFO_OVER = satInc 32 (u.get m F.MAC_FIFO_OVER))
        ∧ (u.launchRoom m l.sail = true → samples ≤ 262144 → free = none →
            (t.mast m).mac.launches = rest ∧ t.get m F.MAC_ACK_NOCARRIER = satInc 32 (u.get m F.MAC_ACK_NOCARRIER))
        ∧ ∀ c, u.launchRoom m l.sail = true → samples ≤ 262144 → free = some c →
          match u.planCheck m l.sail c l.freq l.pers l.rate l.fec l.airUs l.power l.at_ with
          | .error _ => (t.mast m).mac.launches = rest
          | .ok p =>
            ((u.dwell m l.channel l.at_ l.airUs).1 = false → (t.mast m).mac.launches = rest
              ∧ t.get m F.DWELL_ACK_DROP = satInc 32 (u.get m F.DWELL_ACK_DROP))
            ∧ ((u.dwell m l.channel l.at_ l.airUs).1 = true → it.cells ≠ [] → u.admitQ m (130 + l.sail) it.cells.length = true →
              ((t.mast m).sal.queue (130 + l.sail)).heads = ((u.mast m).sal.queue (130 + l.sail)).heads ++ [d.cell]
              ∧ ∃ x, (t.mast m).mac.launch l.handle = some x ∧ x.stage = 1 ∧ x.carrier = c ∧ x.pout = p))
    ∧ (∀ n, M.grant = some n →
      (firstCand (s.cands m n) = none → exec (.macLaunch m 1 h) s = .next s)
      ∧ ∀ e, firstCand (s.cands m n) = some e →
        (64 ≤ M.unbuilt (s.candSail m e.id) → exec (.macLaunch m 1 h) s = .next s)
        ∧ (M.unbuilt (s.candSail m e.id) < 64 → ∃ t, exec (.macLaunch m 1 h) s = .next t ∧ OnlyMast m s t
        ∧ (t.mast m).mac.planned = M.planned ++ [e.id]
        ∧ (e.id < 2 ^ 20 → s.supervised m e.id n = true → ((t.mast m).node e.id).link.state = 3)
        ∧ let R := (s.mast m).node e.id
          let k := R.ident.port
          let ch := M.hop R.link (R.link.eventAt n).1
          let C := M.chan ch
          let u := s.setMac m { M with planned := M.planned ++ [e.id], linkBad := M.linkBad.erase e.id }
          ∀ c cs shift cr pout w1 w2, e.id < 2 ^ 20 → s.supervised m e.id n = false → s.nodeHeads m e.id = c :: cs → R.link.state = 1 →
            R.link.hint = false →
            let f := ((s.mast m).sal.item c).body.txFrame
            let pre := u.preamble (copyDie m k) C.pers
            let air := u.airOn m k C.pers R.link.dnProf R.link.dnFec f.len pre
            let start := u.pos m n ((400 * u.tsTx m : Nat) - shift)
            M.waits.any (fun w => w.node == e.id && !w.judged) = false → M.launches.any (fun x => x.node == e.id && decide (x.kind = .data)) = false →
            s.hasSail k = true → M.linkOk R.link = true → C.valid = true → f.unsealed = false →
            u.samplesOn m k C.pers R.link.dnProf R.link.dnFec f.len pre ≤ 262144 →
            (if f.dst = .short 0xFFFF then some 0 else u.preshift m n R.link) = some shift → u.carriers m k ≠ [] →
            u.planCarrier m k n (start + 400 * air) = some cr →
            u.planCheck m k cr C.freq C.pers R.link.dnProf R.link.dnFec air R.link.txPower start = .ok pout →
            u.shape m k (((s.mast m).sal.item c).desc.prio / 2) f.len = (true, w1) → w1.dwell m ch start air = (true, w2) →
            ((t.mast m).node e.id).link = { R.link with anchor := n, event := (R.link.eventAt n).1 }
            ∧ ∃ x, (t.mast m).mac.launches = M.launches ++ [x] ∧ x.kind = .data ∧ x.node = e.id ∧ x.sail = k ∧ x.carrier = cr ∧ x.asn = n
              ∧ x.start = ((400 * u.tsTx m : Nat) - shift : Int).toNat ∧ x.channel = ch ∧ x.freq = C.freq ∧ x.cell = c ∧ x.frame = f ∧ x.stage = 0))
    ∧ (∀ l, M.launch h = some l →
      (l.stage = 0 → l.kind = .data → M.grant = some l.asn → s.launchRoom m l.sail = true → ∃ t, exec (.macLaunch m 2 h) s = .next t
          ∧ OnlyMast m s t ∧ (t.mast m).mac.launch h = some { l with stage := 1 }
          ∧ t.get m F.MAC_BUILD_OVERRUN = (if M.buildLate = true ∨ s.localNs m ≤ (s.mast m).tickNow + 3 * s.slotNs m / 5 then
              s.get m F.MAC_BUILD_OVERRUN else satInc 32 (s.get m F.MAC_BUILD_OVERRUN)))
      ∧ (l.stage = 0 → M.grant ≠ some l.asn ∨ s.launchRoom m l.sail = false → exec (.macLaunch m 2 h) s = .next s)
      ∧ (l.stage = 1 → s.linkTakes m l.sail = true → l.kind = .ack ∨ M.grant = some l.asn →
          l.kind = .data ∨ ((s.mast m).sal.queue (130 + l.sail)).broken = false → ∃ t b, exec (.macLaunch m 3 h) s = .next t ∧ OnlyMast m s t
          ∧ (t.mast m).mac.launch h = some { l with stage := 2, left := b }
          ∧ (l.left = false → M.launches.filter (fun x => x.sail == l.sail && x.stage == 2) = [] →
              M.launches.filter (fun x => x.handle == l.handle) = [l] →
              t.get m F.MAC_DELIVER_OVERRUN = (if b = true ∧ l.kind ≠ .ack ∧ l.softNs < s.localNs m then
                satInc 32 (s.get m F.MAC_DELIVER_OVERRUN) else s.get m F.MAC_DELIVER_OVERRUN)))
      ∧ (l.stage = 1 → s.linkTakes m l.sail = false → exec (.macLaunch m 3 h) s = .next s))
    ∧ ∀ k x hs, M.hints = (k, x) :: hs → ∃ t, exec (.macLaunch m 4 h) s = .next t ∧ OnlyMast m s t
      ∧ let mine := (M.hints.filter (fun y => y.1 == k)).take 7
        (t.mast m).mac = { M with hints := M.hints.filter (fun y => !mine.contains y) }
        ∧ t.get m F.MAC_HINT_WRITTEN = min (2 ^ 32 - 1) (s.get m F.MAC_HINT_WRITTEN + mine.length)

/-- TX_DONE of a launch that was handed over ends it: a beacon and an ACK are counted as their STATUS says, a transmitted ACK synchronises its node, and a
data frame awaits its answer or leaves its chain.  ACK_JUDGEMENT clears or counts a node's misses.  SUPERVISION_SWEEP loses the expired nodes of its
256 records.  PEER_BEACON_SLOT_END counts a miss; the third drops the peer.  FC_RESERVE_DONE moves the reservation or fails.  STAGE_SOFT_END
counts Plan, and once a slot Build, that still has work.  DUTY_RECORD_WRITE writes a record while some air time is in it. -/
def Obligations.launches_are_reported : Prop :=
  ∀ (s : State) (m : Nat), s.fitted m = true → m < 2 →
    let M := (s.mast m).mac
    (∀ k r hdr u w, s.hasSail k = true → m = s.active → s.receive (connId m k) true 0x0A hdr = (true, u) → u.mirror m (.txDone k r) 0 = some w →
      let W := (w.mast m).mac
      (W.launches.find? (fun l => l.handle == r.handle && l.sail == k && l.stage == 2) = none → exec (.txDone m k r hdr) s = .next w)
      ∧ ∀ l, W.launches.find? (fun l => l.handle == r.handle && l.sail == k && l.stage == 2) = some l → ∃ t, exec (.txDone m k r hdr) s = .next t
        ∧ OnlyMast m w t ∧ (t.mast m).mac.launches = W.launches.filter (fun x => x.handle != l.handle)
        ∧ (l.kind = .beacon → r.status = 0 ∨ r.status = 3 → t.get m F.MAC_BEACON_SENT = satInc 32 (w.get m F.MAC_BEACON_SENT))
        ∧ (l.kind = .beacon → r.status ≠ 0 → r.status ≠ 3 → t.get m F.MAC_BEACON_MISS = satInc 32 (w.get m F.MAC_BEACON_MISS))
        ∧ (l.kind = .ack → r.status = 0 ∨ r.status = 3 → t.get m F.MAC_ACK_SENT = satInc 32 (w.get m F.MAC_ACK_SENT))
        ∧ (l.kind = .ack → r.status = 0 → l.node ≠ noNode → ((t.mast m).node l.node).link = { ((w.mast m).node l.node).link with
            lastSync := l.aInt, syncValid := true, lastTc := l.tc, tcClamped := l.tcClamped })
        ∧ (l.kind = .data → l.node ≠ noNode → r.status = 0 ∨ r.status = 3 → ((w.mast m).node l.node).link.ackReq = true →
            (t.mast m).mac.waits = W.waits.filter (fun y => y.node != l.node)
              ++ [⟨l.node, l.cell, l.frame.seqNo, w.pos m (nearAsn (w.mast m).asn r.asnLo) r.start + 400 * r.air, 0, false, false, false⟩])
        ∧ (l.kind = .data → l.node ≠ noNode → r.status = 0 → ((w.mast m).node l.node).link.ackReq = false →
            (w.mast m).camp.sent.find? (fun f => f.cell == l.cell) = none → (w.mast m).sal.broken (.chain l.node) = false →
            ((t.mast m).node l.node).chain.heads = ((w.mast m).node l.node).chain.heads.erase l.cell)
        ∧ (l.kind = .data → r.status = 1 ∨ (r.status = 2 ∧ notDeferred r.reason = false) →
            ((t.mast m).node l.node).chain = ((w.mast m).node l.node).chain))
    ∧ (∀ v, let l := ((s.mast m).node v).link
      (M.waits.find? (fun w => w.node == v && !w.judged) = none → exec (.ackJudgement m v) s = .next s)
      ∧ ∀ w, M.waits.find? (fun w => w.node == v && !w.judged) = some w → ∃ t, exec (.ackJudgement m v) s = .next t ∧ OnlyMast m s t
        ∧ (t.mast m).mac.waits = M.waits.map (fun x => if x = w then { x with judged := true } else x)
        ∧ if w.answered then ((t.mast m).node v).link = { l with retry := 0, miss := 0, lastHeard := w.heard % 2 ^ 40 }
          else
            let hold := min 2 (l.miss + 1) = 2 ∧ l.state = 1
            let drop := s.retryLimit m ≤ min 15 (l.retry + 1)
            ((t.mast m).node v).link = { l with retry := if drop then 0 else min 15 (l.retry + 1), miss := min 2 (l.miss + 1),
                                                state := if hold then 2 else l.state }
            ∧ t.get m F.MAC_DL_UNANSWERED = satInc 32 (s.get m F.MAC_DL_UNANSWERED)
            ∧ t.get m F.MAC_DL_DROPPED = if drop then satInc 32 (s.get m F.MAC_DL_DROPPED) else s.get m F.MAC_DL_DROPPED)
    ∧ (s.bit m F.MAC_SUPV_CFG_SWEEP_EN = false → exec (.supervisionSweep m) s = .next s)
    ∧ (s.bit m F.MAC_SUPV_CFG_SWEEP_EN = true → ∃ t, exec (.supervisionSweep m) s = .next t ∧ OnlyMast m s t
      ∧ (t.mast m).mac.sweepAt = (M.sweepAt + 256) % 131072
      ∧ ∀ v, M.sweepAt ≤ v → v < M.sweepAt + 256 →
        ((t.mast m).node v).link.state = if s.supervised m v (s.mast m).asn then 3 else ((s.mast m).node v).link.state)
    ∧ (∀ p b, p < 4 → s.bit m (F.MAC_PEER_EN.at 16 p) = true → s.get m (F.MAC_PEER_PERIOD.at 16 p) ≠ 0 →
      ((s.mast m).asn + 2 ^ 40 - 1) % 2 ^ 40 % s.get m (F.MAC_PEER_PERIOD.at 16 p) = s.get m (F.MAC_PEER_PHASE.at 16 p) →
      (s.get m F.MAC_PEER_STATE_DROPPED).testBit p = false →
      let run := Tbl.get (fun _ => 0) M.peerRun p + 1
      if Tbl.get (fun _ => false) M.peerSeen p then exec (.peerBeaconSlotEnd m p b) s
        = .next (s.setMac m { M with peerSeen := Tbl.set (fun _ => false) M.peerSeen p false })
      else if b then exec (.peerBeaconSlotEnd m p b) s = .next s
      else ∃ t, exec (.peerBeaconSlotEnd m p b) s = .next t ∧ OnlyMast m s t ∧ t.get m F.MAC_PEER_MISS = satInc 32 (s.get m F.MAC_PEER_MISS)
        ∧ Tbl.get (fun _ => 0) (t.mast m).mac.peerRun p = run % 3 ∧ (t.get m F.MAC_PEER_STATE_DROPPED).testBit p = decide (3 ≤ run))
    ∧ (∀ p, M.fcPending = some p → (∃ t, exec (.fcReserveDone m true) s = .next t ∧ OnlyMast m s t
        ∧ (t.mast m).mac = { M with fcReserve := p, fcPending := none, fcFailed := false }
        ∧ t.get m F.MAC_FC_RESERVE = satInc 32 (s.get m F.MAC_FC_RESERVE))
      ∧ ∃ t, exec (.fcReserveDone m false) s = .next t ∧ OnlyMast m s t ∧ (t.mast m).mac = { M with fcPending := none, fcFailed := true })
    ∧ (∀ n h, M.grant = some n →
      (s.cands m n = [] → exec (.stageSoftEnd m 0 h) s = .next s)
      ∧ (s.cands m n ≠ [] → ∃ t, exec (.stageSoftEnd m 0 h) s = .next t ∧ OnlyWords [key m F.MAC_PLAN_OVERRUN.addr] s t
          ∧ t.get m F.MAC_PLAN_OVERRUN = satInc 32 (s.get m F.MAC_PLAN_OVERRUN))
      ∧ (M.buildLate = true → exec (.stageSoftEnd m 1 h) s = .next s)
      ∧ ∀ l ∈ M.launches, M.buildLate = false → l.asn = n → l.stage = 0 → l.kind ≠ .ack → ∃ t, exec (.stageSoftEnd m 1 h) s = .next t
          ∧ OnlyMast m s t ∧ (t.mast m).mac = { M with buildLate := true } ∧ t.get m F.MAC_BUILD_OVERRUN = satInc 32 (s.get m F.MAC_BUILD_OVERRUN))
    ∧ ∃ t, exec (.dutyRecordWrite m) s = .next t ∧ OnlyMast m s t
      ∧ let live := List.filter (fun (e : Nat × Nat) => decide (s.dutyMinute m < e.1 % 2 ^ 40 + 61)) (s.mast m).dutyCopy
        (t.mast m).dutyCopy = live ∧ (live = [] → (t.mast m).dutyRec = (s.mast m).dutyRec)
        ∧ (live ≠ [] → (t.mast m).dutyRec.isSome = true)

/-- A detector whose best qualifying hypothesis fires on a quiet bin gets a free lane when its window is eligible, and else waits; over one open weaker lane without FORK_EN it
restarts that lane.  LANE_STARVED drops a waiting request.  AERIAL_SELECT moves to the other aerial when that is 1 dB better.  A lane ends with
its reason on ACQ_TIMEOUT, a missing SFD, no accepted LTF hypothesis, or pilots or an offset that its tracking test finds lost.  PREAMBLE_END_FOUND, LTF_DECISION (the best hypothesis, or the one that a
CFO hint decides) and SFD_FOUND take it on. -/
def Obligations.lanes_acquire : Prop :=
  ∀ (s : State) (k l : Nat), s.hasSail k = true → (∀ q ∈ (s.sail k).waits, q.win < 4) →
    let d := sailDie k
    let S := s.sail k
    let x := s.lane k l
    let released (t : State) (rsn : Nat) : Prop := OnlySail k s t
      ∧ t.get d (F.LANE_REL.at 4 rsn) = satInc 32 (s.get d (F.LANE_REL.at 4 rsn))
      ∧ (S.waits = [] → t.lane k l = { x with state := 0, lastRsn := rsn, overtaken := false })
    (∀ w bin aer ms hyp metric, w < 4 → s.detectorUp k w bin aer = true →
      bestHyp ((hypMetrics ms).filter (fun y => s.qualifies k w bin y.1 y.2)) = some (hyp, metric) →
      S.waits.filter (fun r => r.win == w && r.bin == bin) = [] →
      let here := S.attached.filter (fun e => e.2.win == w && e.2.bin == bin)
      let f := if aer = 0 then F.NEST_DETECT_A else F.NEST_DETECT_B
      ∃ t, exec (.detectorFire k w bin aer ms) s = .next t ∧ OnlySail k s t ∧ t.get d f = satInc 32 (s.get d f)
      ∧ (here = [] → s.eligible k w = true → S.freeLanes ≠ [] → t.get d F.LANE_ATTACH = satInc 32 (s.get d F.LANE_ATTACH)
          ∧ ∃ n ∈ S.freeLanes, let y := t.lane k n
            y.state = 1 ∧ y.win = w ∧ y.bin = bin ∧ y.hyp = hyp ∧ y.aerial = aer ∧ y.metric = metric ∧ y.attachT = s.sailLocal k ∧ y.forked = false
            ∧ (bin < 128 → y.pers = s.hypField k w bin hyp F.NEST_HYPSET_PERS))
      ∧ (here = [] → s.eligible k w = false → S.waits.length < 64 → (t.sail k).waits = S.waits ++ [⟨w, bin, hyp, aer, metric, s.sailLocal k⟩])
      ∧ ∀ e, here = [e] → s.bit d F.NEST_CFG_RELOOK_EN = true → e.2.metric + s.get d F.NEST_CFG_RELOOK_MARGIN ≤ metric → s.openLane k e.2 = true →
          s.bit d F.NEST_CFG_FORK_EN = false → t.get d F.NEST_RELOOK_RESTART = satInc 32 (s.get d F.NEST_RELOOK_RESTART)
          ∧ (t.lane k e.1).state = 1 ∧ (t.lane k e.1).restarted = true ∧ (t.lane k e.1).metric = metric)
    ∧ (∀ w bin aer ms, s.detectorUp k w bin aer = false ∨ (hypMetrics ms).filter (fun y => s.qualifies k w bin y.1 y.2) = [] →
      exec (.detectorFire k w bin aer ms) s = .next s)
    ∧ (∀ w bin hyp r, w < 4 → S.waits.find? (fun r => r.win == w && r.bin == bin && r.hyp == hyp) = some r →
      ∃ t, exec (.laneStarved k w bin hyp) s = .next t ∧ OnlySail k s t ∧ (t.sail k).waits = S.waits.erase r
      ∧ t.get d F.LANE_STARVED = satInc 32 (s.get d F.LANE_STARVED)
      ∧ t.get d (F.LANE_STARVED_W.at 4 w) = satInc 32 (s.get d (F.LANE_STARVED_W.at 4 w)))
    ∧ (∀ a b, x.state = 1 → x.selected = false → ∃ t, exec (.aerialSelect k l a b) s = .next t ∧ OnlySail k s t
      ∧ let other := 1 - x.aerial
        let mine := if x.aerial = 0 then a else b
        let his := if other = 0 then a else b
        let c := if S.obs ≠ none then 0
          else if s.aerialUp k x.win other = false then x.aerial
          else if s.aerialUp k x.win x.aerial = false then other
          else if mine + 4 ≤ his then other else x.aerial
        t.lane k l = { x with aerial := c, selected := true }
        ∧ t.get d F.NEST_SEL_OTHER = if c ≠ x.aerial then satInc 32 (s.get d F.NEST_SEL_OTHER) else s.get d F.NEST_SEL_OTHER)
    ∧ (x.state = 1 → ∃ t, exec (.acqTimeout k l) s = .next t ∧ released t 9)
    ∧ (x.state ≠ 1 → exec (.acqTimeout k l) s = .next s)
    ∧ (∀ pre, x.state = 1 → x.selected = true → ∃ t, exec (.preambleEndFound k l pre) s = .next t ∧ OnlySail k s t ∧ t.regs = s.regs
      ∧ let coarse := coarseOffset x.pers pre
        let y := { x with state := 2, coarse := coarse, cfo := coarse }
        let z := s.stampNow k x.aerial
        t.lane k l = if isFsk x.pers then y else { y with tsOff := z.1, asnLo := z.2 })
    ∧ (x.state = 2 →
      let accepts (t : State) (cfo : Rat) : Prop := if x.ncoOver cfo then
          released t 3 ∧ (x.pers = 0 → t.get d F.CLEURA_TRACK_LOST = satInc 32 (s.get d F.CLEURA_TRACK_LOST))
        else OnlySail k s t ∧ ∃ tr, t.lane k l = { x with state := 3, cfo := cfo, track := tr }
      (∀ ms, isOfdm x.pers = true → ∃ t, exec (.ltfDecision k l (.ofdm ms)) s = .next t
        ∧ match bestCand (([-4167, 0, 4167] : List Int).zip ms) with
          | none => released t 9
          | some c => accepts t (x.coarse + mkRat (c.1.sign * 12500) 3))
      ∧ (∀ b, x.pers = 0 → ∃ t, exec (.ltfDecision k l (.cleura b)) s = .next t
        ∧ let cands := s.ltfCands k b
          let takes (c : Cand) : Prop := accepts t (x.coarse + c.1 + (ltfAccept b (c.1 / 5000) (s.get d F.CLEURA_ACQ_CFG_FFT_BACKOFF)).1)
          (bestCand cands = none → released t 9 ∧ t.get d F.CLEURA_LTF_FAIL = satInc 32 (s.get d F.CLEURA_LTF_FAIL))
          ∧ ∀ best, bestCand cands = some best →
            (s.bit d F.CLEURA_ACQ_CFG_HINT_EN = false → takes best)
            ∧ ∀ h n, s.bit d F.CLEURA_ACQ_CFG_HINT_EN = true → Tbl.find? S.hints (128 * x.win + x.bin) = some h → h.hyp = x.hyp → h.asnLo = x.asnLo →
              nearCand (h.cfo : Rat) x.coarse cands = some n →
              (2500 < absRat (x.coarse + n.1 - (h.cfo : Rat)) → takes best)
              ∧ (absRat (x.coarse + n.1 - (h.cfo : Rat)) ≤ 2500 → t.get d F.CLEURA_HINT_USED = satInc 32 (s.get d F.CLEURA_HINT_USED)
                ∧ if n.2 + (s.get d F.CLEURA_ACQ_CFG_HINT_MARGIN : Int) ≤ best.2 ∧ best ≠ n then
                    takes best ∧ t.get d F.CLEURA_HINT_OVERRULED = satInc 32 (s.get d F.CLEURA_HINT_OVERRULED)
                  else takes n))
      ∧ (isFsk x.pers = true → (∀ c, ∃ t, exec (.sfdFound k l c) s = .next t ∧ OnlySail k s t ∧ t.regs = s.regs
          ∧ t.lane k l = { x with state := 3, coded := c, tsOff := (s.stampNow k x.aerial).1, asnLo := (s.stampNow k x.aerial).2 })
        ∧ ∃ t, exec (.sfdTimeout k l) s = .next t ∧ released t 9 ∧ t.get d F.SUNPHY_SFD_TIMEOUT = satInc 32 (s.get d F.SUNPHY_SFD_TIMEOUT)))
    ∧ (∀ b, x.pers = 0 → x.state = 3 ∨ x.state = 4 →
      let r := s.trackSymbols k l b (if x.state = 3 then 0 else 4) (b.length / symLen)
      (r.lost = true → ∃ t, exec (.pilotTrackLost k l (.cleura b)) s = .next t ∧ released t 3
        ∧ t.get d F.CLEURA_TRACK_LOST = satInc 32 (s.get d F.CLEURA_TRACK_LOST)
        ∧ t.get d F.CLEURA_WIN_SLIP = min (2 ^ 32 - 1) (s.get d F.CLEURA_WIN_SLIP + r.track.slips))
      ∧ (r.lost = false → exec (.pilotTrackLost k l (.cleura b)) s = .next s))
    ∧ ∀ c : Int, isOfdm x.pers = true → 2 ≤ x.state → x.state ≤ 4 →
      (x.ncoOver (c : Rat) = true → ∃ t, exec (.pilotTrackLost k l (.ofdm c)) s = .next t ∧ released t 3)
      ∧ (x.ncoOver (c : Rat) = false → exec (.pilotTrackLost k l (.ofdm c)) s = .next s)

/-- PHR_CHECK, which tracks the four symbols of a Cleura OFDM PHR, counts the first check that fails and releases the lane, or counts a pass and takes the lane to DATA with the length, the profile and the FEC
that the PHR names.  FRAME_DECODE_END takes a SUN frame to DELIVER, and a Cleura OFDM frame whose symbols it tracks and whose codewords decode; another is counted and
released.  LANE_DELIVERED counts the frame, queues it for the advisor and frees its lane.  ADVISOR_EXAMINE takes the oldest and sends its report to a master. -/
def Obligations.lanes_deliver : Prop :=
  ∀ (s : State) (k l : Nat), s.hasSail k = true → (∀ q ∈ (s.sail k).waits, q.win < 4) →
    let d := sailDie k
    let S := s.sail k
    let x := s.lane k l
    let counted (t : State) (f : Fld) : Prop := t.get d f = satInc 32 (s.get d f)
    let released (y : Lane) (t : State) (rsn : Nat) : Prop := OnlySail k s t ∧ counted t (F.LANE_REL.at 4 rsn)
      ∧ (S.waits = [] → t.lane k l = { y with state := 0, lastRsn := rsn, overtaken := false })
    let failed (y : Lane) (t : State) (f : Fld) : Prop := released y t 1 ∧ counted t f
    let after (r : Tracked) : Lane := { x with track := { r.track with slips := 0 }, cfo := r.cfo }
    let passed (t : State) (len prof fec seed : Nat) : Prop := OnlySail k s t ∧ let y := t.lane k l
      y.state = 4 ∧ y.len = len ∧ y.prof = prof ∧ y.fec = fec ∧ y.seed = seed ∧ y.entry = s.profile d prof
    (x.state = 3 →
      (∀ b, x.pers = 0 → ∃ t, exec (.phrCheck k l (.cleura b)) s = .next t
        ∧ let tr := s.trackSymbols k l b 0 4
          let y := after tr
          let bytes := bytesOfBits 10 (phrDecide tr.syms)
          t.get d F.CLEURA_WIN_SLIP = min (2 ^ 32 - 1) (s.get d F.CLEURA_WIN_SLIP + tr.track.slips)
          ∧ (tr.lost = true → released y t 3 ∧ counted t F.CLEURA_TRACK_LOST)
          ∧ (tr.lost = false → match rsDecode 2 bytes [] with
            | none => failed y t F.CLEURA_PHR_RS_FAIL
            | some w =>
              let p := Phr.ofBytes (w.take 4)
              if leBytes 2 (crc16 (w.take 4)) ≠ (w.drop 4).take 2 then failed y t F.CLEURA_PHR_CRC_FAIL
              else if p.version ≠ 0 ∨ p.fec = 3 ∨ p.length = 0 then failed y t F.CLEURA_PHR_FIELD_FAIL
              else if profValid (s.profile d p.profile) = false then failed y t F.CLEURA_PHR_PROF_FAIL
              else passed t p.length p.profile p.fec p.seed ∧ counted t F.CLEURA_PHR_PASS ∧ (w ≠ bytes → counted t F.CLEURA_PHR_CORRECTED)))
      ∧ (∀ ok rate len, isOfdm x.pers = true → ∃ t, exec (.phrCheck k l (.ofdm ok rate len)) s = .next t
        ∧ if ok = false then failed x t F.SUNPHY_HCS_FAIL
          else if mcsSupported x.pers rate = false ∨ (s.get d (F.SUNPHY_OFDM_CFG_MCS_MASK.at 4 (x.pers - 1))).testBit rate = false then failed x t F.SUNPHY_RATE_REJECT
          else if len = 0 ∨ 2047 < len then failed x t F.SUNPHY_LEN_REJECT
          else passed t len (rate % 8) 0 0 ∧ counted t F.SUNPHY_PHR_PASS)
      ∧ ∀ ms fcs4 dw half len, isFsk x.pers = true → ∃ t, exec (.phrCheck k l (.fsk ms fcs4 dw half len)) s = .next t
        ∧ if len = 0 ∨ 2047 < len then failed x t F.SUNPHY_LEN_REJECT
          else if ms then failed x t F.SUNPHY_MS_REJECT
          else OnlySail k s t ∧ counted t F.SUNPHY_PHR_PASS ∧ (t.lane k l).state = 4 ∧ (t.lane k l).len = len
            ∧ (t.lane k l).prof.testBit 0 = x.coded ∧ (t.lane k l).prof.testBit 3 = dw ∧ (t.lane k l).prof.testBit 4 = half ∧ (t.lane k l).prof.testBit 5 = fcs4)
    ∧ (∀ o, x.state = 4 → s.masterFailed k = false →
      let sent (y : Lane) (t : State) (cfo : Rat) (errOnly : Bool) : Prop := OnlySail k s t ∧ t.lane k l = { y with
        state := 5, cfo := cfo, handle := l * 2 ^ 23 + S.recvSeq, errOnly := errOnly }
      (∀ b snr (cfo : Int), o.body = .sun b snr cfo → x.pers ≠ 0 → b.length = x.len → ∃ t, exec (.frameDecodeEnd k l o) s = .next t
        ∧ if x.ncoOver (cfo : Rat) then released x t 3 else sent x t (cfo : Rat) false)
      ∧ (∀ b, o.body = .cleura b → x.pers = 0 → ∃ t, exec (.frameDecodeEnd k l o) s = .next t
        ∧ let tr := s.trackSymbols k l b 4 (dataSymbols x.entry x.len (fecT x.fec))
          let y := after tr
          let bySnr := tr.syms.map (snrMarks (fun c => x.eraseSnr.getD c 0) x.entry)
          let only := (bySnr.zip (tr.syms.map (sliceMarks x.sliceEn x.sliceLim x.entry))).map (fun z => z.2.filter (fun c => !z.1.contains c))
          let r := decodeFrame x.entry x.len (fecT x.fec) x.seed x.eraseEn (tr.syms.flatMap (symbolBits x.entry)) ((bySnr.zip only).map (fun z => z.1 ++ z.2))
          (tr.lost = true → released y t 3 ∧ counted t F.CLEURA_TRACK_LOST)
          ∧ (tr.lost = false → t.get d F.FEC_CW_CLEAN = min (2 ^ 32 - 1) (s.get d F.FEC_CW_CLEAN + r.clean)
            ∧ match r.failCw with
              | some _ => counted t F.FEC_CW_FAIL ∧ released y t 2
              | none => sent { y with means := toneMeans tr.syms } t tr.cfo r.errOnly)))
    ∧ (x.state = 5 → s.handleWaits k x.handle = true → exec (.laneDelivered k l) s = .next s)
    ∧ (x.state = 5 → s.handleWaits k x.handle = false → x.prof < 256 → ∃ t, exec (.laneDelivered k l) s = .next t ∧ OnlySail k s t
      ∧ counted t F.LANE_DELIVERED ∧ counted t (F.LANE_REL.at 4 0) ∧ (x.pers = 0 → counted t (F.PROF_RX_FRAMES.at 4 x.prof))
      ∧ (S.waits = [] → (t.lane k l).state = 0 ∧ (t.lane k l).delivered = min (x.delivered + 1) (2 ^ 32 - 1))
      ∧ (x.pers = 0 → s.get d F.CLEURA_ADV_CFG_MODE = 1 → if S.adv.length < 32 then (t.sail k).adv = S.adv ++ [⟨x.handle, x.prof, x.errOnly, x.means⟩]
          else (t.sail k).adv = S.adv ∧ counted t F.CLEURA_ADV_DROP))
    ∧ ∀ a rest, S.adv = a :: rest → ∃ t, exec (.advisorExamine k) s = .next t ∧ OnlySail k s t ∧ (t.sail k).adv = rest
      ∧ (s.bit d F.SSTAT_MASTER_VALID = true → counted t F.CLEURA_ADV_SENT)
      ∧ (s.bit d F.SSTAT_MASTER_VALID = false → t.get d F.CLEURA_ADV_SENT = s.get d F.CLEURA_ADV_SENT)

/-- SAMPLE_CLOCK_LOST ends every reception and every frame on air and waits for a relock.  GAIN_FAST_STEP lowers an automatic aerial's gain by one usable
state, 20 µs after its last, and marks its receptions; GAIN_TICK_RISE raises it after enough quiet slots and sends the FE_SPI word.  DETECTOR_RESUME ends a window's settling.
BLANKING_START blanks the windows that meet the transmit band, whose requests go; BLANKING_END counts the time and ends it. -/
def Obligations.receiver_events : Prop :=
  ∀ (s : State) (k : Nat), s.hasSail k = true → (∀ q ∈ (s.sail k).waits, q.win < 4) → (∀ e ∈ (s.sail k).lanes, e.2.win < 4) →
    let d := sailDie k
    let S := s.sail k
    (s.bit d F.ADC_CLK_STATUS_HOLDOVER = true → S.clockLost = false → s.bit d F.ADC_CLK_STATUS_REF_A_OK = false →
      s.bit d F.ADC_CLK_STATUS_REF_B_OK = false → ∃ t, exec (.sampleClockLost k) s = .next t ∧ OnlySail k s t
      ∧ (t.sail k).clockLost = true ∧ (t.sail k).obs = none ∧ (t.sail k).waits = [] ∧ (∀ l, (t.lane k l).receiving = false)
      ∧ (t.sail k).onAir = [] ∧ (t.sail k).cutAtLoss.length = S.cutAtLoss.length + S.onAir.length
      ∧ t.bit d F.ADC_CLK_STATUS_PLL_LOCK = false ∧ t.get d F.ADC_CLOCK_LOST = satInc 32 (s.get d F.ADC_CLOCK_LOST))
    ∧ (∀ a, a < 2 →
      let masked := S.blankFrom ≠ none ∧ s.bit d (agc a F.ADC_AGC_CFG_CLIP_MASK_TX) = true
      let steps := s.adcOn k a = true ∧ s.bit d (agc a F.ADC_AGC_CFG_AUTO) = true ∧ s.stepFree k a = true ∧ ¬ masked
      (¬ steps ∨ s.stateDown d a (s.get d (gainState a)) = none → exec (.gainFastStep k a) s = .next s)
      ∧ (∀ g, steps → s.stateDown d a (s.get d (gainState a)) = some g → ∃ t, exec (.gainFastStep k a) s = .next t ∧ OnlySail k s t
        ∧ t.get d (gainState a) = g ∧ (t.sail k).clipped.testBit a = true ∧ Tbl.find? (t.sail k).stepAt a = some (s.sailLocal k)
        ∧ (∀ l, (s.lane k l).receiving = true → (s.lane k l).aerial = a → t.lane k l = { s.lane k l with gainStep := true })
        ∧ (∀ l, (s.lane k l).aerial ≠ a → t.lane k l = s.lane k l)
        ∧ let f := if a = 0 then F.ADC_FAST_STEP_A else F.ADC_FAST_STEP_B
          t.get d f = satInc 32 (s.get d f))
      ∧ (s.riseTo k a = none → exec (.gainTickRise k a) s = .next s)
      ∧ ∀ g, s.riseTo k a = some g → g < 8 → ∃ t w b, exec (.gainTickRise k a) s = .next t ∧ OnlySail k s t ∧ t.get d (gainState a) = g
        ∧ (t.sail k).clipped.testBit (2 + a) = true ∧ t.out = Out.feSpi k w b :: s.out
        ∧ let f := if a = 0 then F.ADC_TICK_RISE_A else F.ADC_TICK_RISE_B
          t.get d f = satInc 32 (s.get d f))
    ∧ (∀ w, ∃ t, exec (.detectorResume k w) s = .next t ∧ OnlySail k s t ∧ t.regs = s.regs
      ∧ t.sail k = { S with settling := S.settling.filter (fun v => v != w) })
    ∧ (S.committed ≠ [] → S.blankFrom = none → ∃ t, exec (.blankingStart k) s = .next t ∧ OnlySail k s t
      ∧ (t.sail k).blankFrom = some (s.sailLocal k)
      ∧ ∀ w, w < 4 → (t.get d F.WIN_STATUS_W_BLANKED).testBit w = (s.winOn k w && s.winBlanks k w)
        ∧ (s.winOn k w = true → s.winBlanks k w = true → (∀ q ∈ (t.sail k).waits, q.win ≠ w)))
    ∧ (S.committed = [] → exec (.blankingStart k) s = .next s)
    ∧ ∀ from_, S.blankFrom = some from_ → S.onAir = [] → ∃ t, exec (.blankingEnd k) s = .next t ∧ OnlySail k s t
      ∧ t.sail k = { S with blankFrom := none, blankAt := (t.sail k).blankAt } ∧ t.get d F.WIN_STATUS_W_BLANKED = 0
      ∧ ∀ w, w < 4 → Tbl.find? (t.sail k).blankAt w = none ∧ t.get d (F.WIN_BLANK_TIME.at 4 w) = (match Tbl.find? S.blankAt w with
          | some t0 => min (2 ^ 32 - 1) (s.get d (F.WIN_BLANK_TIME.at 4 w) + (s.sailLocal k - t0) / 400)
          | none => s.get d (F.WIN_BLANK_TIME.at 4 w))

/-- MODULATOR_START stalls while its carrier's FIFO is full; else it takes a frame that its profile or rate allows, with the settings and the samples of
the frame, or refuses it.  LAUNCH_CUTOFF refuses a launch with the reason of the first check that
fails; one that passes all is past its cut-off with its power fixed and its air time charged.  FRAME_LAUNCH puts it on air; TX_FRAME_END and
TX_TIMEOUT_CUT end it, counted.  TX_ABORT shows its outcome.  TX_RETUNE_APPLY applies a held window once nothing is on air or past its cut-off.
STAGE_SOFT_END on a sail counts a frame whose modulation ends after its slot opened, once.  A FRAME_LAUNCH during a loss of the sample clock is
refused as late (log entry 158). -/
def Obligations.frames_are_sent : Prop :=
  ∀ (s : State) (k h : Nat), s.hasSail k = true →
    let d := sailDie k
    let S := s.sail k
    let gone (t : State) : Prop := (t.sail k).txOf h = none
    let ended (t : State) (f : TxFrame) : Prop := (t.sail k).lastEnd = some (s.sailLocal k)
      ∧ (t.sail k).obsEnded = if S.obs = none then S.obsEnded else S.obsEnded ++ [f]
    let refused (t : State) (r : Nat) : Prop := OnlySail k s t ∧ gone t ∧ t.get d (F.TXP_REFUSE.at 4 r) = satInc 32 (s.get d (F.TXP_REFUSE.at 4 r))
    (∀ f fr ld, S.txOf h = some f → f.frame = some fr → f.desc = some ld → f.phase = 0 →
      (262144 ≤ s.fifoUsed k ld.carrier → exec (.modulatorStart k h) s = .next s)
      ∧ (s.fifoUsed k ld.carrier < 262144 → ∃ t, exec (.modulatorStart k h) s = .next t
      ∧ if ld.pers = 0 then
          if profValid (s.profile d ld.rate) = false ∨ ld.fec = 3 then refused t 9 ∧ t.get d F.CLEURA_TX_BADPROF = satInc 32 (s.get d F.CLEURA_TX_BADPROF)
          else OnlySail k s t ∧ t.regs = s.regs ∧ Tbl.get (fun _ => 1) (t.sail k).seeds ld.carrier = Tbl.get (fun _ => 1) S.seeds ld.carrier % 15 + 1
            ∧ (t.sail k).txOf h = some { f with
                phase := 1, entry := s.profile d ld.rate, seed := s.seedFor k ld.carrier,
                air := airTime 0 (s.profile d ld.rate) ld.rate ld.fec fr.len 0, samples := airSamples 0 (s.profile d ld.rate) ld.rate ld.fec fr.len 0,
                wave := cleuraSamples (s.profile d ld.rate) ld.rate ld.fec (s.seedFor k ld.carrier) (s.get d F.CLEURA_TX_CFG_WIN_LEN) (psduBytes fr) }
        else if s.rateOk d ld.pers ld.rate = false then refused t 9 ∧ t.get d F.SUNPHY_TX_BADRATE = satInc 32 (s.get d F.SUNPHY_TX_BADRATE)
        else OnlySail k s t ∧ t.regs = s.regs
          ∧ let x := s.sunLatch d ld.pers ld.rate
            (t.sail k).txOf h = some { f with
              phase := 1, sun := some x, air := airTime ld.pers 0 x.code 0 fr.len x.preamble,
              samples := airSamples ld.pers 0 x.code 0 fr.len x.preamble, wave := (Config.sunSamples x (psduBytes fr)).map (fun i => ⟨i.1, i.2⟩) }))
    ∧ (∀ asnLo start late f ld, S.txOf h = some f → f.desc = some ld → ld.carrier < 4 →
      S.tx.filterMap (fun f => match f.desc with
        | some d => if d.asnLo = asnLo ∧ d.start = start ∧ f.phase < 2 then some (f.handle, d) else none
        | none => none) = [(h, ld)] →
      ∃ t, exec (.launchCutoff k asnLo start late) s = .next t ∧ OnlySail k s t
      ∧ let at_ := s.slotTick k ld.asnLo + ld.start
        let meets := S.committed.any (fun g => g.during at_ f.air && (match g.desc with
          | some e => bandsMeet (ld.freq - halfWidth ld.pers) (ld.freq + halfWidth ld.pers) (e.freq - halfWidth e.pers) (e.freq + halfWidth e.pers)
              || e.carrier == ld.carrier
          | none => false))
        if late.contains h = true ∨ 262144 < s.fifoUsed k ld.carrier ∨ f.phase ≠ 1 ∨ S.clockLost = true then
          refused t 1 ∧ t.get d (F.SSTAT_LAUNCH_LATE.at 4 ld.carrier) = satInc 32 (s.get d (F.SSTAT_LAUNCH_LATE.at 4 ld.carrier))
        else if S.txRun.testBit 31 = false ∨ s.carrierOn d ld.carrier S.reefed = false then refused t 10
        else if s.bit d F.TXP_ONAIR_RETUNE_PEND = true then refused t 8
        else match s.launchCheck d (centreOf S.txRun) (s.dutyUsed k) ld.freq ld.pers ld.carrier f.air meets with
          | some r => refused t r
          | none =>
            let others := sumMilliwatt (S.committed.filter (fun g => decide (g.at_ ≤ at_) && decide (at_ < g.at_ + 400 * g.air)))
            match compositeFit (s.fixPower d ld.freq ld.pers ld.power).1 (s.compMax d) (s.get d F.TXP_COMP_CFG_MAX_TRIM) others with
            | none => refused t 5
            | some (p, trimmed) =>
              let g := max (-176) (min 32 ((p * unitQ - s.corr d ld.freq) / unitQ))
              let flags := f.flags + (s.fixPower d ld.freq ld.pers ld.power).2 + (if trimmed then 16 else 0)
                + (if s.bit d F.TRIM_STATE_PD_STALE then 64 else 0)
              (t.sail k).txOf h = some { f with phase := 2, at_ := at_, minute := s.minute k, power := p, gain := g,
                                                pout := s.corr d ld.freq + g * unitQ, flags := flags }
              ∧ (S.committed = [] → s.bit d F.TXP_PA_CFG_SPI_EN = true → ∃ w n, Out.feSpi k w n ∈ t.out)
              ∧ t.get d (F.PWR_LAST_G.at 4 ld.carrier) = unsigned 10 g
              ∧ ∀ e ∈ s.locksOver d ld.freq ld.pers, (t.sail k).dutyAt e.index (s.minute k) = S.dutyAt e.index (s.minute k) + f.air)
    ∧ (∀ f, S.txOf h = some f →
      (f.phase ≠ 2 → exec (.frameLaunch k h) s = .next s)
      ∧ (f.phase = 2 → S.clockLost = false → ∃ t, exec (.frameLaunch k h) s = .next t ∧ OnlySail k s t
          ∧ (t.sail k).txOf h = some { f with phase := 3 } ∧ (S.onAir = [] → S.pdNew = true → s.get d F.TRIM_STATE_STATE = 4 → t.get d F.TRIM_STATE_STATE = 0))
      ∧ (f.phase = 2 → S.clockLost = true → f.carrier < 4 → ∃ t, exec (.frameLaunch k h) s = .next t ∧ refused t 1
          ∧ t.get d (F.SSTAT_LAUNCH_LATE.at 4 f.carrier) = satInc 32 (s.get d (F.SSTAT_LAUNCH_LATE.at 4 f.carrier)))
      ∧ (f.phase = 3 → f.carrier < 4 → (∃ t, exec (.txFrameEnd k h) s = .next t ∧ OnlySail k s t ∧ gone t ∧ ended t f
          ∧ t.get d (F.TXP_FRAMES.at 4 f.carrier) = satInc 32 (s.get d (F.TXP_FRAMES.at 4 f.carrier)))
        ∧ ∃ t, exec (.txTimeoutCut k h) s = .next t ∧ OnlySail k s t ∧ gone t ∧ ended t f
          ∧ t.get d (F.TXP_CUT.at 4 f.carrier) = satInc 32 (s.get d (F.TXP_CUT.at 4 f.carrier))))
    ∧ (∀ r, ∃ t, exec (.txAbort k r 4 h) s = .next t ∧ OnlySail k s t ∧ t.get d F.TXP_ABORT_HANDLE_HANDLE = h % 2 ^ 32
      ∧ match S.txOf h with
        | none => t.get d F.TXP_ABORT_RESULT_OUTCOME = 3 ∧ t.sail k = S
        | some f => if f.phase = 3 then t.get d F.TXP_ABORT_RESULT_OUTCOME = 1 ∧ t.bit d F.TXP_ABORT_RESULT_ABORT_LATE = true
              ∧ (t.sail k).txOf h = some { f with flags := f.flags ||| 1 } ∧ t.get d F.TXP_ABORT_LATE = satInc 32 (s.get d F.TXP_ABORT_LATE)
            else t.get d F.TXP_ABORT_RESULT_OUTCOME = 2 ∧ gone t ∧ t.get d F.TXP_ABORTED = satInc 32 (s.get d F.TXP_ABORTED))
    ∧ (s.bit d F.TXP_ONAIR_RETUNE_PEND = false ∨ S.committed ≠ [] → exec (.txRetuneApply k) s = .next s)
    ∧ (s.bit d F.TXP_ONAIR_RETUNE_PEND = true → S.committed = [] → ∃ t, exec (.txRetuneApply k) s = .next t ∧ OnlySail k s t
      ∧ (t.sail k).txRun = (s.word (key d F.TXP_WIN_CTL_CENTRE.addr)).toNat ∧ t.bit d F.TXP_ONAIR_RETUNE_PEND = false
      ∧ t.bit d F.TRIM_STATE_PD_VALID = false ∧ t.get d F.TRIM_RETUNE = satInc 32 (s.get d F.TRIM_RETUNE)
      ∧ (s.bit d F.TRIM_CFG_PD_EN = true → t.bit d F.TRIM_STATE_PD_STALE = true))
    ∧ ∀ f ld, S.txOf h = some f → f.desc = some ld → f.phase = 1 → f.counted = false →
      if (S.asn + 256 - ld.asnLo % 256) % 256 < 128 then ∃ t, exec (.stageSoftEnd (k + 2) 3 h) s = .next t ∧ OnlySail k s t
        ∧ (t.sail k).txOf h = some { f with counted := true } ∧ t.get d F.SSTAT_MOD_OVERRUN = satInc 32 (s.get d F.SSTAT_MOD_OVERRUN)
      else exec (.stageSoftEnd (k + 2) 3 h) s = .next s

/-- OBSERVATION_START observes a frame that may be observed, unless MODE 0 finds a reception on aerial B.  OBSERVATION_END starts the solver and corrects the
power trim by the measured error of the frames on air in it, ended or not.  PD_SOLVE_DONE keeps a better set, which waits for a burst, and rejects a worse one.  DAC_CAL_STEP counts
a step when the transmitter is quiet.  POWER_SENSE shows its readings and may find the set stale; PDET_SAMPLE counts a deviation.  FUSE_GO with its key
starts programming an entry that is not valid yet, and FUSE_DONE ends it in the fuses. -/
def Obligations.trim_and_fuses_work : Prop :=
  ∀ (s : State) (k : Nat), s.hasSail k = true →
    let d := sailDie k
    let S := s.sail k
    let counted (t : State) (f : Fld) : Prop := t.get d f = satInc 32 (s.get d f)
    (∀ h f, S.txOf h = some f →
      let hold (y : Lane) : Bool := (y.selected || decide (2 ≤ y.state)) && y.aerial == 1 && !(s.blanked k y.win)
      (s.observable k f = false → exec (.observationStart k h) s = .next s)
      ∧ (s.observable k f = true → S.obs = none →
        if s.get d F.FECTL_OBS_CTL_MODE = 0 ∧ S.attached.any (fun e => e.2.receiving && hold e.2) = true then
          ∃ t, exec (.observationStart k h) s = .next t ∧ OnlyWords [key d F.FECTL_OBS_DEFER.addr] s t ∧ counted t F.FECTL_OBS_DEFER
        else ∃ t, exec (.observationStart k h) s = .next t ∧ OnlySail k s t ∧ (t.sail k).obs = some h ∧ (t.sail k).obsEnded = [] ∧ t.get d F.TRIM_STATE_STATE = 2
          ∧ (t.sail k).txOf h = some { f with flags := f.flags ||| 32 }))
    ∧ (∀ levels, S.obs ≠ none → ∃ t, exec (.observationEnd k levels) s = .next t ∧ OnlySail k s t ∧ t.sail k = { S with obs := none, obsEnded := [], evSeq := (t.sail k).evSeq }
      ∧ counted t F.TRIM_OBS_DONE ∧ t.get d F.TRIM_STATE_STATE = 3
      ∧ let diffs := levels.filterMap (fun e => ((S.onAir ++ S.obsEnded).find? (fun f => f.handle == e.1)).map (fun f =>
          (e.2 - s.eff d 44) * unit16 - f.pout))
        let v := s.getS d F.PWR_TRIM_OFS_OFS + max (-4) (min 4 (roundHalfAway (diffs.foldl (· + ·) 0) (diffs.length * unit16.toNat)))
        t.getS d F.PWR_TRIM_OFS_OFS = (if s.bit d F.TRIM_CFG_PWR_LOOP = false ∨ diffs = [] then s.getS d F.PWR_TRIM_OFS_OFS else max (-24) (min 24 v))
        ∧ (s.bit d F.TRIM_CFG_PWR_LOOP = true → diffs ≠ [] → v < -24 ∨ 24 < v → counted t F.PWR_TRIM_LIMIT))
    ∧ (∀ acr, s.get d F.TRIM_STATE_STATE = 3 → ∃ t, exec (.pdSolveDone k acr) s = .next t ∧ OnlySail k s t
      ∧ if s.bit d F.TRIM_STATE_PD_VALID = true ∧ acr < s.get d F.TRIM_PD_ERR_ACR then
          counted t F.TRIM_PD_REJECT ∧ t.get d F.TRIM_STATE_STATE = 0 ∧ t.sail k = S
        else counted t F.TRIM_PD_UPDATE ∧ t.get d F.TRIM_STATE_STATE = 4 ∧ t.bit d F.TRIM_STATE_PD_VALID = true
          ∧ t.bit d F.TRIM_STATE_PD_STALE = false ∧ t.get d F.TRIM_PD_AGE_AGE = 0 ∧ t.get d F.TRIM_PD_ERR_ACR = acr % 256
          ∧ t.sail k = { S with pdNew := true })
    ∧ (s.bit d F.TRIM_CFG_DAC_EN = true → S.committed = [] → s.get d F.WIN_STATUS_W_BLANKED = 0 → ∃ t, exec (.dacCalStep k) s = .next t
      ∧ OnlyWords [key d F.TRIM_DAC_STEPS.addr] s t ∧ counted t F.TRIM_DAC_STEPS)
    ∧ (s.bit d F.TRIM_CFG_DAC_EN = false ∨ S.committed ≠ [] → exec (.dacCalStep k) s = .next s)
    ∧ (∀ temp vdac, -32768 ≤ temp → temp < 32768 → ∃ t, exec (.powerSense k temp vdac) s = .next t ∧ OnlySail k s t
      ∧ t.getS d F.PWR_SENSE_NOW_TEMP = temp ∧ t.get d F.PWR_SENSE_NOW_VDAC = vdac % 65536
      ∧ (s.bit d F.TRIM_CFG_PD_EN = false → t.bit d F.TRIM_STATE_PD_STALE = false)
      ∧ (s.bit d F.TRIM_CFG_PD_EN = true → s.bit d F.TRIM_STATE_PD_STALE = false →
          s.bit d F.TRIM_STATE_PD_VALID = false
            ∨ 8 * max 1 (s.get d F.TRIM_PD_CFG_TEMP_STEP) ≤ (temp - s.getS d F.TRIM_PD_TEMP_TEMP).natAbs →
          t.bit d F.TRIM_STATE_PD_STALE = true ∧ counted t F.TRIM_PD_STALE))
    ∧ (∀ mv, s.bit d F.PWR_PDET_CFG_EN = true → S.onAir ≠ [] → ∃ t, exec (.pdetSample k mv) s = .next t ∧ OnlySail k s t
      ∧ let measured := (16 * s.eff d 42 * mv + 1000 * s.eff d 43) / 4000
        let expected := dbFloor (sumMilliwatt S.onAir) + s.getS d F.PWR_PDET_CFG_PA_GAIN
        t.get d F.PWR_PDET_LAST_MEASURED = unsigned 16 measured ∧ t.get d F.PWR_PDET_LAST_EXPECTED = unsigned 16 expected
        ∧ t.get d F.PWR_PDET_DEV = if s.get d F.PWR_PDET_CFG_TOL < (measured - expected).natAbs then satInc 32 (s.get d F.PWR_PDET_DEV)
            else s.get d F.PWR_PDET_DEV)
    ∧ (∀ mv, s.bit d F.PWR_PDET_CFG_EN = false → exec (.pdetSample k mv) s = .next s)
    ∧ (∀ r v, let e := s.get d F.REGLOCK_FUSE_SEL_ENTRY
      (v % 256 ≠ 0xA5 → exec (.fuseGo k r 4 v) s = .next s)
      ∧ (v % 256 = 0xA5 → S.fusing = none → ∃ t, exec (.fuseGo k r 4 v) s = .next t ∧ OnlySail k s t
        ∧ if (Tbl.get (fun _ => 0) S.otp e).testBit 127 = true then t.bit d F.REGLOCK_STATUS_FUSE_ERR = true ∧ t.sail k = S
          else t.bit d F.REGLOCK_STATUS_FUSE_BUSY = true ∧ t.sail k = { S with fusing := some (e,
            (List.range 4).foldl (fun a i => a + (s.get d (F.REGLOCK_FUSE_DATA_DATA.at 4 i)) * 2 ^ (32 * i)) 0) }))
    ∧ ∀ e v, S.fusing = some (e, v) → ∃ t, exec (.fuseDone k) s = .next t ∧ OnlySail k s t ∧ (t.sail k).fusing = none
      ∧ Tbl.get (fun _ => 0) (t.sail k).otp e = Tbl.get (fun _ => 0) S.otp e ||| v ∧ t.bit d F.REGLOCK_STATUS_FUSE_BUSY = false

/-- TICK_PACKET_SEND on the active mast notes the slot that it told; on the other mast it does nothing.  A sail makes its tick only with a TICK
packet or in FREERUN: it opens the slot that it was told, at the time that it was told.  A tick of the active mast opens the next
slot, and grants the one after it to the stages with nothing planned yet. -/
def Obligations.ticks_are_told : Prop :=
  ∀ (s : State),
    (∀ m, s.fitted m = true → (m ≠ s.active → exec (.tickPacketSend m) s = .next s)
      ∧ (m = s.active → m < 2 → ∃ t, exec (.tickPacketSend m) s = .next t ∧ t = { s with mastA := t.mastA, mastB := t.mastB, conns := t.conns, out := t.out }
        ∧ t.mast m = { s.mast m with tickSent := some (s.nextSlot m).1 } ∧ t.mast (1 - m) = s.mast (1 - m)))
    ∧ (∀ k a, s.hasSail k = true →
      ((s.sail k).nextTick = none ∨ (s.sail k).gated = true → exec (.slotTick (k + 2) a) s = .next s)
      ∧ ∀ asn time, (s.sail k).nextTick = some (asn, time) → (s.sail k).gated = false → ∃ t, exec (.slotTick (k + 2) a) s = .next t
        ∧ let x := t.sail k
          x.asn = asn ∧ x.tickNow = time ∧ x.tickPrev = (s.sail k).tickNow ∧ x.ticked = true ∧ x.nextTick = none ∧ x.clipped = 0)
    ∧ ∀ m a, s.fitted m = true → m < 2 → m = s.active → (s.mast m).runs = [] → (s.mast m).pair.takeover = none → (s.mast m).upd.actPend = false →
      s.updPhase m < 4 → s.reefWanted = s.reefed → s.mirroring = false → ∃ t, exec (.slotTick m a) s = .next t
      ∧ (t.mast m).asn = (s.nextSlot m).1 ∧ (t.mast m).tickNow = s.localNs m ∧ (t.mast m).ticked = true
      ∧ (t.mast m).mac.grant = some (((s.nextSlot m).1 + 1) % 2 ^ 40) ∧ (t.mast m).mac.planned = [] ∧ (t.mast m).mac.hints = []

/-- SLOT selects the slot length: 0 is 5 ms, 1 is 10 ms, 2 is 20 ms; 3 is reserved and leaves the length unchanged; after reset it is 1.  The length
follows SLOT at the tick of the mast (with no takeover, activation or trial reset due on that tick, and no commit that lands on it). -/
def Obligations.slot_length_selected : Prop :=
  slotUs 0 = 5000 ∧ slotUs 1 = 10000 ∧ slotUs 2 = 20000
  ∧ (∀ m, m < 2 → State.reset.get m F.TIME_MESH_CFG_SLOT = 1 ∧ (State.reset.mast m).slotSel = 1)
  ∧ ∀ (s : State) (m : Nat) (a : AdcSlot), m < 2 → s.fitted m = true → (s.mast m).runs = [] → (s.mast m).pair.takeover = none →
    (s.mast m).upd.actPend = false → s.updPhase m < 4 → s.reefWanted = s.reefed →
    ∃ t, exec (.slotTick m a) s = .next t
    ∧ (t.mast m).slotSel = if s.get m F.TIME_MESH_CFG_SLOT = 3 then (s.mast m).slotSel else s.get m F.TIME_MESH_CFG_SLOT

/-- A regeneration leaves in CRYST.ERR the largest number of corrections of any of its 16 BCH blocks (in the eight bits of its field), and raises CRYST_MARGIN
exactly when that number exceeds 12.  Every result of the BCH decoder is covered. -/
def Obligations.regeneration_reports_margin : Prop :=
  ∀ (s : State) (m pattern : Nat), m < 2 → s.fitted m = true → s.waitAck m = false → s.bit m F.CRYST_STATUS_RETIRED = false →
    let h := (s.mast m).keys.helper.getD ⟨0, 0, 0, 0⟩
    let blocks := (List.range 16).map (fun i => bchDecode ((majority 4080 (pattern ^^^ h.offset)).1 / 2 ^ (255 * i) % 2 ^ 255))
    let largest := (blocks.map (fun b => (b.map Prod.snd).getD 0)).foldl max 0
    let margin (u : State) : Bool := (u.word (key m 0x03C010)).getLsbD 1
    ∃ t, exec (.crystRegeneration m pattern) s = .next t ∧ t.get m F.CRYST_ERR_MAX_BLOCK = largest % 2 ^ 8
    ∧ margin t = (margin s || decide (12 < largest))

/-- With a command at the front of its queue, the block runs that command on the state with the rest of the queue. -/
def Obligations.step_runs_front : Prop :=
  ∀ (s : State) (c : Instr) (rest : List Instr), s.pending = c :: rest → step s = exec c { s with pending := rest }

/-- No step of the block ends in a fault or a refusal.  With an empty queue a step lets one nanosecond pass and changes nothing else, which is the model's
choice (log entry 3). -/
def Obligations.step_completes_and_idles : Prop :=
  ∀ (s : State), (∃ t, step s = .next t) ∧ (s.pending = [] → step s = .next { s with now := s.now + 2 })

/-- Every sparse table of the state after reset is in its canonical form, and nothing waits. -/
def Obligations.reset_canonical : Prop :=
 State.reset.Canonical ∧ State.reset.pending = []

/-- From every state whose sparse tables are in canonical form, a step leads to a state whose tables are too, so that equal register files are equal
data.  The variant never changes; a step takes one command from the front of the queue and puts none in; and time passes only when the queue is
empty (log entry 3). -/
def Obligations.step_keeps_canonical : Prop :=
  ∀ (s t : State), s.Canonical → step s = .next t → t.Canonical ∧ t.variant = s.variant ∧ t.pending = s.pending.tail
    ∧ t.now = if s.pending = [] then s.now + 2 else s.now
end

