-- ==== Sys2Proof/Laws/Tbl.lean ====
section
/-! SUPPORT. Sparse tables: reading after writing, and the canonical form that every write keeps. -/

namespace Sys2Proof.Machine

variable {α : Type}

theorem Tbl.find?_put_self (t : Tbl α) (k : Nat) (v : α) : Tbl.find? (Tbl.put t k v) k = some v := by
  induction t with
  | nil => simp [Tbl.put, Tbl.find?]
  | cons e t ih =>
    obtain ⟨j, u⟩ := e
    simp only [Tbl.put]
    split
    · simp [Tbl.find?]
    · split
      · simp [Tbl.find?]
      · have : j ≠ k := by omega
        simp [Tbl.find?, this, ih]

theorem Tbl.find?_put_other (t : Tbl α) {k n : Nat} (v : α) (h : n ≠ k) : Tbl.find? (Tbl.put t k v) n = Tbl.find? t n := by
  induction t with
  | nil => simp [Tbl.put, Tbl.find?, h.symm]
  | cons e t ih =>
    obtain ⟨j, u⟩ := e
    simp only [Tbl.put]
    split
    · simp [Tbl.find?, h.symm]
    · split
      · rename_i hk; subst hk; simp [Tbl.find?, h.symm]
      · simp [Tbl.find?, ih]

theorem Tbl.find?_del_self (t : Tbl α) (k : Nat) : Tbl.find? (Tbl.del t k) k = none := by
  induction t with
  | nil => rfl
  | cons e t ih =>
    obtain ⟨j, u⟩ := e
    by_cases hj : j = k <;> simp [Tbl.del, Tbl.find?, hj, ih]

theorem Tbl.find?_del_other (t : Tbl α) {k n : Nat} (h : n ≠ k) : Tbl.find? (Tbl.del t k) n = Tbl.find? t n := by
  induction t with
  | nil => rfl
  | cons e t ih =>
    obtain ⟨j, u⟩ := e
    by_cases hj : j = k
    · subst hj; simp [Tbl.del, Tbl.find?, h.symm, ih]
    · simp [Tbl.del, Tbl.find?, hj, ih]

theorem Tbl.rising_weaken {t : Tbl α} {a b : Nat} (h : b ≤ a) (w : Tbl.rising a t = true) : Tbl.rising b t = true := by
  cases t with
  | nil => rfl
  | cons e t => obtain ⟨j, u⟩ := e; simp [Tbl.rising] at w ⊢; exact ⟨by omega, w.2⟩

theorem Tbl.rising_del (t : Tbl α) (k lo : Nat) (w : Tbl.rising lo t = true) : Tbl.rising lo (Tbl.del t k) = true := by
  induction t generalizing lo with
  | nil => rfl
  | cons e t ih =>
    obtain ⟨j, u⟩ := e
    simp [Tbl.rising] at w
    have w2 := ih (j + 1) w.2
    by_cases hj : j = k
    · simp only [Tbl.del, hj, if_true]; exact Tbl.rising_weaken (by omega) (hj ▸ w2)
    · simp [Tbl.del, hj, Tbl.rising, w.1, w2]

theorem Tbl.rising_put (t : Tbl α) (k lo : Nat) (v : α) (h : lo ≤ k) (w : Tbl.rising lo t = true) :
    Tbl.rising lo (Tbl.put t k v) = true := by
  induction t generalizing lo with
  | nil => simp [Tbl.put, Tbl.rising, h]
  | cons e t ih =>
    obtain ⟨j, u⟩ := e
    simp [Tbl.rising] at w
    simp only [Tbl.put]
    split
    · rename_i hk; simp only [Tbl.rising, Bool.and_eq_true, decide_eq_true_eq]; exact ⟨h, by omega, w.2⟩
    · split
      · rename_i hk; subst hk; simp [Tbl.rising, h, w.2]
      · simp only [Tbl.rising, Bool.and_eq_true, decide_eq_true_eq]; exact ⟨w.1, ih (j + 1) (by omega) w.2⟩

variable [DecidableEq α] (d : Nat → α)

/-- A write removes the key or puts the value. -/
theorem Tbl.set_eq (t : Tbl α) (k : Nat) (v : α) : Tbl.set d t k v = if v = d k then Tbl.del t k else Tbl.put t k v := by
  induction t with
  | nil => rfl
  | cons e t ih =>
    obtain ⟨j, u⟩ := e
    simp only [Tbl.set, Tbl.put, ih]
    by_cases hv : v = d k
    · by_cases h1 : k < j
      · simp [hv, h1]
      · by_cases h2 : k = j
        · simp [hv, h1, h2, Tbl.del]
        · have h3 : ¬ j = k := fun h => h2 h.symm
          simp [hv, h1, h2, h3, Tbl.del]
    · simp [hv]

/-- A key reads as it was written. -/
@[simp] theorem Tbl.get_set_self (t : Tbl α) (k : Nat) (v : α) : Tbl.get d (Tbl.set d t k v) k = v := by
  rw [Tbl.set_eq]
  split
  · rename_i h; simp [Tbl.get, Tbl.find?_del_self, h]
  · simp [Tbl.get, Tbl.find?_put_self]

/-- A write leaves every other key alone. -/
theorem Tbl.get_set_other (t : Tbl α) {k n : Nat} (v : α) (h : n ≠ k) : Tbl.get d (Tbl.set d t k v) n = Tbl.get d t n := by
  rw [Tbl.set_eq]
  split
  · simp [Tbl.get, Tbl.find?_del_other t h]
  · simp [Tbl.get, Tbl.find?_put_other t v h]

/-- Reading after a write, either way. -/
theorem Tbl.get_set (t : Tbl α) (k n : Nat) (v : α) : Tbl.get d (Tbl.set d t k v) n = if n = k then v else Tbl.get d t n := by
  split
  · rename_i h; subst h; simp
  · rename_i h; exact Tbl.get_set_other d t v h

@[simp] theorem Tbl.get_nil (k : Nat) : Tbl.get d ([] : Tbl α) k = d k := rfl

theorem Tbl.lean_del (t : Tbl α) (k : Nat) (w : Tbl.lean d t = true) : Tbl.lean d (Tbl.del t k) = true := by
  induction t with
  | nil => rfl
  | cons e t ih =>
    obtain ⟨j, u⟩ := e
    simp [Tbl.lean] at w
    by_cases hj : j = k
    · simp [Tbl.del, hj, ih w.2]
    · simp [Tbl.del, hj, Tbl.lean, w.1, ih w.2]

theorem Tbl.lean_put (t : Tbl α) (k : Nat) (v : α) (h : v ≠ d k) (w : Tbl.lean d t = true) : Tbl.lean d (Tbl.put t k v) = true := by
  induction t with
  | nil => simp [Tbl.put, Tbl.lean, h]
  | cons e t ih =>
    obtain ⟨j, u⟩ := e
    simp [Tbl.lean] at w
    simp only [Tbl.put]
    split
    · simp [Tbl.lean, h, w.1, w.2]
    · split
      · rename_i hk; subst hk; simp [Tbl.lean, h, w.2]
      · simp [Tbl.lean, w.1, ih w.2]

/-- Every write keeps the canonical form. -/
theorem Tbl.wf_set (t : Tbl α) (k : Nat) (v : α) (w : Tbl.wf d t = true) : Tbl.wf d (Tbl.set d t k v) = true := by
  simp [Tbl.wf] at *
  rw [Tbl.set_eq]
  split
  · exact ⟨Tbl.rising_del t k 0 w.1, Tbl.lean_del d t k w.2⟩
  · rename_i h; exact ⟨Tbl.rising_put t k 0 v (Nat.zero_le k) w.1, Tbl.lean_put d t k v h w.2⟩

end Sys2Proof.Machine
end

