-- ==== Sys2Proof/Laws/Keeps.lean ====
section
/-! SUPPORT. What every operation keeps: the variant, the waiting commands, the instant, and the canonical form of the package's tables.
This file holds the updates of single fields of State; the files KeepsN hold one lemma for each operation, in the model's order. -/

namespace Sys2Proof.Machine

variable {α : Type}

/-- A filter keeps the keys rising. -/
theorem Tbl.rising_filter (p : Nat × α → Bool) (l : Tbl α) {lo : Nat} (w : Tbl.rising lo l = true) :
    Tbl.rising lo (List.filter p l) = true := by
  induction l generalizing lo with
  | nil => rfl
  | cons e l ih =>
    obtain ⟨j, u⟩ := e
    simp [Tbl.rising] at w
    have w2 := ih w.2
    by_cases hp : p (j, u) = true
    · simp [List.filter, hp, Tbl.rising, w.1, w2]
    · simp only [List.filter, hp]; exact Tbl.rising_weaken (by omega) w2

/-- A filter lists no value that an unlisted key has. -/
theorem Tbl.lean_filter [DecidableEq α] (d : Nat → α) (p : Nat × α → Bool) (l : Tbl α) (w : Tbl.lean d l = true) :
    Tbl.lean d (List.filter p l) = true := by
  induction l with
  | nil => rfl
  | cons e l ih =>
    obtain ⟨j, u⟩ := e
    simp [Tbl.lean] at w
    have w2 := ih w.2
    by_cases hp : p (j, u) = true
    · simp [List.filter, hp, Tbl.lean, w.1, w2]
    · simp only [List.filter, hp]; exact w2

/-- A filter keeps the canonical form. -/
theorem Tbl.wf_filter [DecidableEq α] (d : Nat → α) (p : Nat × α → Bool) (l : Tbl α) (w : Tbl.wf d l = true) :
    Tbl.wf d (List.filter p l) = true := by
  simp only [Tbl.wf, Bool.and_eq_true] at *
  exact ⟨Tbl.rising_filter p l w.1, Tbl.lean_filter d p l w.2⟩

/-- A fold keeps what each of its steps keeps. -/
theorem foldl_keeps {β σ : Type} (P : σ → Prop) (f : σ → β → σ) (l : List β) (hf : ∀ t b, P t → P (f t b)) {t : σ} (h : P t) :
    P (l.foldl f t) := by
  induction l generalizing t with
  | nil => exact h
  | cons b l ih => exact ih (hf t b h)

variable {v : Variant} {q : List Instr} {n : Nat} {s t : State}

/-- An update of a field that the invariant does not speak of. -/
theorem Kept.mk_other {fc : Nat} {a b : Mast} {h2 : List Nat} {cv : List (Nat × Nat)} {sh : Option (Mast × Tbl Word)} {ph : Nat}
    {rv br te lp rf : Bool} {o : List Out} :
    Kept v q n (State.mk s.variant s.now fc s.regs a b s.sails s.conns s.profAct s.profPend s.timerAt s.timerRem h2 cv sh ph rv br te lp rf
      s.tap o s.pending) ↔ Kept v q n s :=
  ⟨fun h => ⟨h.variant, h.pending, h.now, h.canonical.regs, h.canonical.sails, h.canonical.conns, h.canonical.profAct, h.canonical.profPend,
      h.canonical.timerAt, h.canonical.timerRem, h.canonical.tap⟩,
    fun h => ⟨h.variant, h.pending, h.now, h.canonical.regs, h.canonical.sails, h.canonical.conns, h.canonical.profAct, h.canonical.profPend,
      h.canonical.timerAt, h.canonical.timerRem, h.canonical.tap⟩⟩

/-- An update of any tables by canonical ones. -/
theorem Kept.mk_tables (h : Kept v q n s) (hv : t.variant = s.variant) (hn : t.now = s.now) (hp : t.pending = s.pending)
    (c : t.Canonical) : Kept v q n t :=
  ⟨hv.trans h.variant, hp.trans h.pending, hn.trans h.now, c⟩

/-- A state of two: whichever is taken, if both keep. -/
theorem Kept.of_ite {c : Prop} [Decidable c] (h1 : c → Kept v q n s) (h2 : ¬ c → Kept v q n t) : Kept v q n (if c then s else t) := by
  split
  · exact h1 ‹_›
  · exact h2 ‹_›

/-- An outcome whose next state, if it is one, is kept. -/
def KeptOut (v : Variant) (q : List Instr) (n : Nat) : Host.Outcome State Fault Refusal → Prop
  | .next t => Kept v q n t
  | _ => True

theorem KeptOut.next (h : Kept v q n s) : KeptOut v q n (.next s) := h

theorem KeptOut.of_next {o : Host.Outcome State Fault Refusal} (h : KeptOut v q n o) (e : o = .next t) : Kept v q n t := by
  rw [e] at h; exact h

theorem KeptOut.of_ite {c : Prop} [Decidable c] {o p : Host.Outcome State Fault Refusal} (h1 : c → KeptOut v q n o)
    (h2 : ¬ c → KeptOut v q n p) : KeptOut v q n (if c then o else p) := by
  split
  · exact h1 ‹_›
  · exact h2 ‹_›

/-- A state that may be absent, with another in its place. -/
theorem Kept.of_getD {o : Option State} (h1 : ∀ t, o = some t → Kept v q n t) (h2 : Kept v q n s) : Kept v q n (o.getD s) := by
  cases o with
  | none => exact h2
  | some t => exact h1 t rfl

/-- The state of a pair that a match takes apart. -/
theorem Kept.of_snd {β : Type} {p : β × State} {y : β} (e : p = (y, t)) (h : Kept v q n p.2) : Kept v q n t := by
  rw [e] at h; exact h

theorem State.setWord_keeps {k : Nat} {w : Word} (h : Kept v q n s) : Kept v q n (s.setWord k w) :=
  ⟨h.variant, h.pending, h.now, Tbl.wf_set _ _ _ _ h.canonical.regs, h.canonical.sails, h.canonical.conns, h.canonical.profAct,
    h.canonical.profPend, h.canonical.timerAt, h.canonical.timerRem, h.canonical.tap⟩

theorem State.setSail_keeps {k : Nat} {x : Sail} (h : Kept v q n s) : Kept v q n (s.setSail k x) :=
  ⟨h.variant, h.pending, h.now, h.canonical.regs, Tbl.wf_set _ _ _ _ h.canonical.sails, h.canonical.conns, h.canonical.profAct,
    h.canonical.profPend, h.canonical.timerAt, h.canonical.timerRem, h.canonical.tap⟩

theorem State.setConn_keeps {k : Nat} {x : Conn} (h : Kept v q n s) : Kept v q n (s.setConn k x) :=
  ⟨h.variant, h.pending, h.now, h.canonical.regs, h.canonical.sails, Tbl.wf_set _ _ _ _ h.canonical.conns, h.canonical.profAct,
    h.canonical.profPend, h.canonical.timerAt, h.canonical.timerRem, h.canonical.tap⟩

/-- The sails set at one sail. -/
theorem Kept.sails_set {k : Nat} {x : Sail} (h : Kept v q n s) :
    Kept v q n { s with sails := Tbl.set (fun _ => Sail.reset) s.sails k x } := State.setSail_keeps h

/-- Profile words become active, and the pending ones of a die are dropped. -/
theorem Kept.profs_fold {l : Tbl Nat} {g : Nat × Nat → Nat} {p : Nat × Nat → Bool} (h : Kept v q n s) :
    Kept v q n { s with profAct := List.foldl (fun (t : Tbl Nat) (e : Nat × Nat) => Tbl.set (fun i => profReset (i % 256)) t (g e) e.2) s.profAct l,
                        profPend := List.filter p s.profPend } :=
  ⟨h.variant, h.pending, h.now, h.canonical.regs, h.canonical.sails, h.canonical.conns,
    foldl_keeps (fun t => Tbl.wf (fun i => profReset (i % 256)) t = true) _ l (fun _ _ w => Tbl.wf_set _ _ _ _ w) h.canonical.profAct,
    Tbl.rising_filter p _ h.canonical.profPend, h.canonical.timerAt, h.canonical.timerRem, h.canonical.tap⟩

/-- A die's timers, halts and conversions are dropped. -/
theorem Kept.timers_filter {p p' : Nat × Nat → Bool} {hl : List Nat} {cv : List (Nat × Nat)} (h : Kept v q n s) :
    Kept v q n { s with timerAt := List.filter p s.timerAt, timerRem := List.filter p' s.timerRem, halted := hl, convs := cv } :=
  ⟨h.variant, h.pending, h.now, h.canonical.regs, h.canonical.sails, h.canonical.conns, h.canonical.profAct, h.canonical.profPend,
    Tbl.wf_filter _ _ _ h.canonical.timerAt, Tbl.wf_filter _ _ _ h.canonical.timerRem, h.canonical.tap⟩

/-- Some registers return to their reset values. -/
theorem Kept.regs_filter {p : Nat × Word → Bool} (h : Kept v q n s) : Kept v q n { s with regs := List.filter p s.regs } :=
  ⟨h.variant, h.pending, h.now, Tbl.wf_filter _ _ _ h.canonical.regs, h.canonical.sails, h.canonical.conns, h.canonical.profAct,
    h.canonical.profPend, h.canonical.timerAt, h.canonical.timerRem, h.canonical.tap⟩

/-- Some registers and profile words return to their reset values. -/
theorem Kept.regs_profs_filter {p : Nat × Word → Bool} {p1 p2 : Nat × Nat → Bool} (h : Kept v q n s) :
    Kept v q n { s with regs := List.filter p s.regs, profAct := List.filter p1 s.profAct, profPend := List.filter p2 s.profPend } :=
  ⟨h.variant, h.pending, h.now, Tbl.wf_filter _ _ _ h.canonical.regs, h.canonical.sails, h.canonical.conns,
    Tbl.wf_filter _ _ _ h.canonical.profAct, Tbl.rising_filter _ _ h.canonical.profPend, h.canonical.timerAt, h.canonical.timerRem,
    h.canonical.tap⟩

/-- The words of a die that are not kept return to their reset values. -/
theorem Kept.regs_without {d : Nat} {keep : Nat → Bool} (h : Kept v q n s) (h1 : Kept v q n t) :
    Kept v q n { s with regs := regsWithout d keep t.regs } :=
  ⟨h.variant, h.pending, h.now, Tbl.wf_filter _ _ _ h1.canonical.regs, h.canonical.sails, h.canonical.conns, h.canonical.profAct,
    h.canonical.profPend, h.canonical.timerAt, h.canonical.timerRem, h.canonical.tap⟩

/-- A die's words and profiles return to their reset values. -/
theorem Kept.regs_profs_without {d : Nat} {keep : Nat → Bool} {p p' : Nat × Nat → Bool} (h : Kept v q n s) :
    Kept v q n { s with regs := regsWithout d keep s.regs, profAct := List.filter p s.profAct, profPend := List.filter p' s.profPend } :=
  ⟨h.variant, h.pending, h.now, Tbl.wf_filter _ _ _ h.canonical.regs, h.canonical.sails, h.canonical.conns,
    Tbl.wf_filter _ _ _ h.canonical.profAct, Tbl.rising_filter _ _ h.canonical.profPend, h.canonical.timerAt, h.canonical.timerRem,
    h.canonical.tap⟩

/-- A pending profile word. -/
theorem Kept.profPend_put {k x : Nat} (h : Kept v q n s) : Kept v q n { s with profPend := Tbl.put s.profPend k x } :=
  ⟨h.variant, h.pending, h.now, h.canonical.regs, h.canonical.sails, h.canonical.conns, h.canonical.profAct,
    Tbl.rising_put _ _ _ _ (Nat.zero_le k) h.canonical.profPend, h.canonical.timerAt, h.canonical.timerRem, h.canonical.tap⟩

/-- A test access port's instruction. -/
theorem Kept.tap_set {k x : Nat} (h : Kept v q n s) : Kept v q n { s with tap := Tbl.set (fun _ => 0xFF) s.tap k x } :=
  ⟨h.variant, h.pending, h.now, h.canonical.regs, h.canonical.sails, h.canonical.conns, h.canonical.profAct, h.canonical.profPend,
    h.canonical.timerAt, h.canonical.timerRem, Tbl.wf_set _ _ _ _ h.canonical.tap⟩

/-- The test access ports are reset with the package. -/
theorem Kept.tap_nil {sh : Option (Mast × Tbl Word)} {rf : Bool} (h : Kept v q n s) :
    Kept v q n { s with shadow := sh, reefed := rf, tap := [] } :=
  ⟨h.variant, h.pending, h.now, h.canonical.regs, h.canonical.sails, h.canonical.conns, h.canonical.profAct, h.canonical.profPend,
    h.canonical.timerAt, h.canonical.timerRem, rfl⟩

/-- The timers' instants set at one timer. -/
theorem Kept.timerAt_set {k x : Nat} (h : Kept v q n s) (h1 : Kept v q n t) :
    Kept v q n { s with timerAt := Tbl.set (fun _ => 0) t.timerAt k x } :=
  ⟨h.variant, h.pending, h.now, h.canonical.regs, h.canonical.sails, h.canonical.conns, h.canonical.profAct, h.canonical.profPend,
    Tbl.wf_set _ _ _ _ h1.canonical.timerAt, h.canonical.timerRem, h.canonical.tap⟩

/-- The timers' remainders set at one timer. -/
theorem Kept.timerRem_set {k x : Nat} (h : Kept v q n s) (h1 : Kept v q n t) :
    Kept v q n { s with timerRem := Tbl.set (fun _ => 0) t.timerRem k x } :=
  ⟨h.variant, h.pending, h.now, h.canonical.regs, h.canonical.sails, h.canonical.conns, h.canonical.profAct, h.canonical.profPend,
    h.canonical.timerAt, Tbl.wf_set _ _ _ _ h1.canonical.timerRem, h.canonical.tap⟩

end Sys2Proof.Machine
end

