-- ==== Sys2Proof/Laws/KeepsCore.lean ====
section
/-! SUPPORT. What every operation keeps (see Keeps): one lemma for each operation of Ops, Mirror, Saltern, NvBase, Halyard, NodeTab. -/

namespace Sys2Proof.Machine

variable {v : Variant} {q : List Instr} {n : Nat} {s t : State}

/-! ## Ops -/

theorem State.put_keeps {x1 : Nat} {x2 : Fld} {x3 : Nat} (h : Kept v q n s) : Kept v q n (State.put s x1 x2 x3) := by
  unfold State.put
  repeat' with_reducible first | assumption | apply State.setWord_keeps

theorem State.bput_keeps {x1 : Nat} {x2 : Nat} {x3 : Fld} {x4 : Nat} (h : Kept v q n s) : Kept v q n (State.bput s x1 x2 x3 x4) := by
  unfold State.bput
  repeat' with_reducible first | assumption | apply State.setWord_keeps

theorem State.put64_keeps {x1 : Nat} {x2 : Fld} {x3 : Nat} (h : Kept v q n s) : Kept v q n (State.put64 s x1 x2 x3) := by
  unfold State.put64
  repeat' with_reducible first | assumption | apply State.setWord_keeps

theorem State.bput64_keeps {x1 : Nat} {x2 : Nat} {x3 : Fld} {x4 : Nat} (h : Kept v q n s) : Kept v q n (State.bput64 s x1 x2 x3 x4) := by
  unfold State.bput64
  repeat' with_reducible first | assumption | apply State.setWord_keeps

theorem State.count_keeps {x1 : Nat} {x2 : Fld} {x3 : Nat} (h : Kept v q n s) : Kept v q n (State.count s x1 x2 x3) := by
  unfold State.count
  repeat' with_reducible first | assumption | apply State.put_keeps

theorem State.bump_keeps {x1 : Nat} {x2 : Fld} (h : Kept v q n s) : Kept v q n (State.bump s x1 x2) := by
  unfold State.bump
  repeat' with_reducible first | assumption | apply State.count_keeps

theorem State.raise_keeps {x1 : Nat} {x2 : Fld} {x3 : Nat} (h : Kept v q n s) : Kept v q n (State.raise s x1 x2 x3) := by
  unfold State.raise
  repeat' with_reducible first | assumption | apply State.put_keeps | apply Kept.of_ite | intro _ | split

theorem State.free_keeps  (h : Kept v q n s) : Kept v q n (State.free s).2 := by
  unfold State.free
  repeat' with_reducible first | assumption | simp only [↓Kept.mk_other]

theorem State.setMast_keeps {x1 : Nat} {x2 : Mast} (h : Kept v q n s) : Kept v q n (State.setMast s x1 x2) := by
  unfold State.setMast
  repeat' with_reducible first | assumption | apply Kept.of_ite | intro _ | simp only [↓Kept.mk_other] | split

theorem State.emit_keeps {x1 : Out} (h : Kept v q n s) : Kept v q n (State.emit s x1) := by
  unfold State.emit
  repeat' with_reducible first | assumption | simp only [↓Kept.mk_other]

theorem State.emitAll_keeps {x1 : List Out} (h : Kept v q n s) : Kept v q n (State.emitAll s x1) := by
  unfold State.emitAll
  repeat' with_reducible first | assumption | simp only [↓Kept.mk_other]

theorem State.pump_keeps {x1 : Nat} {x2 : Bool} (h : Kept v q n s) : Kept v q n (State.pump s x1 x2) := by
  unfold State.pump
  repeat' with_reducible
    first
    | assumption | apply State.emitAll_keeps | apply State.setConn_keeps | apply Kept.of_ite | intro _ | simp only [↓Kept.mk_other] | split

theorem State.sendOn_keeps {x1 : Nat} {x2 : Bool} {x3 : List Pkt} (h : Kept v q n s) : Kept v q n (State.sendOn s x1 x2 x3) := by
  unfold State.sendOn
  repeat' with_reducible
    first
    | assumption | apply State.pump_keeps | apply State.setConn_keeps | apply Kept.of_ite | intro _ | simp only [↓Kept.mk_other] | split

theorem State.sendLinkctl_keeps {x1 : Nat} {x2 : Bool} (h : Kept v q n s) : Kept v q n (State.sendLinkctl s x1 x2) := by
  unfold State.sendLinkctl
  repeat' with_reducible
    first
    | assumption | apply State.emit_keeps | apply State.setConn_keeps | intro _ | apply Kept.of_getD | apply foldl_keeps (Kept v q n)
    | simp only [↓Kept.mk_other]

theorem State.takePkt_keeps {x1 : Nat} {x2 : Bool} {x3 : LinkPkt} (h : Kept v q n s) : Kept v q n (State.takePkt s x1 x2 x3).2 := by
  unfold State.takePkt
  repeat' with_reducible
    first
    | assumption | apply State.setConn_keeps | apply State.bump_keeps | apply State.sendLinkctl_keeps | apply Kept.of_ite | intro _
    | simp only [↓Kept.mk_other] | split

theorem State.takePkts_keeps {x1 : Nat} {x2 : Bool} {x3 : Nat} {x4 : List LinkPkt} (h : Kept v q n s) : Kept v q n (State.takePkts s x1 x2 x3 x4).2 := by
  induction x4 generalizing s with
  | nil => exact h
  | cons _ _ ih =>
  unfold State.takePkts
  repeat' with_reducible
    first
    | assumption | apply ih | apply State.takePkt_keeps | apply Kept.of_ite | intro _ | (apply Kept.of_snd; assumption) | simp only [↓Kept.mk_other]
    | split

theorem State.receive_keeps {x1 : Nat} {x2 : Bool} {x3 : Nat} {x4 : List LinkPkt} (h : Kept v q n s) : Kept v q n (State.receive s x1 x2 x3 x4).2 := by
  unfold State.receive
  repeat' with_reducible first | assumption | apply State.takePkts_keeps | apply Kept.of_ite | intro _ | split

theorem State.sailSend_keeps {x1 : Nat} {x2 : List Pkt} (h : Kept v q n s) : Kept v q n (State.sailSend s x1 x2) := by
  unfold State.sailSend
  repeat' with_reducible first | assumption | apply State.sendOn_keeps | apply Kept.of_ite | intro _ | simp only [↓Kept.mk_other] | split

theorem State.sailEvent_keeps {x1 : Nat} {x2 : List Nat} (h : Kept v q n s) : Kept v q n (State.sailEvent s x1 x2) := by
  unfold State.sailEvent
  repeat' with_reducible
    first
    | assumption | apply Kept.sails_set | apply State.sailSend_keeps | apply Kept.of_ite | intro _ | simp only [↓Kept.mk_other] | split

theorem State.vecSend_keeps {x1 : Nat} {x2 : Nat} (h : Kept v q n s) : Kept v q n (State.vecSend s x1 x2) := by
  unfold State.vecSend
  repeat' with_reducible
    first
    | assumption | apply State.setMast_keeps | apply State.emit_keeps | apply State.bump_keeps | apply Kept.of_ite | intro _
    | simp only [↓Kept.mk_other] | split

theorem State.irqEdge_keeps {x0 : State} {x2 : Nat} {x3 : Nat} (h : Kept v q n s) : Kept v q n (State.irqEdge x0 s x2 x3) := by
  unfold State.irqEdge
  repeat' with_reducible
    first
    | assumption | apply State.vecSend_keeps | apply State.sailEvent_keeps | apply Kept.of_ite | intro _ | simp only [↓Kept.mk_other] | split

theorem State.irq_keeps {x1 : Nat} {x2 : Nat} {x3 : Nat} (h : Kept v q n s) : Kept v q n (State.irq s x1 x2 x3) := by
  unfold State.irq
  repeat' with_reducible first | assumption | apply State.irqEdge_keeps | apply State.setWord_keeps | simp only [↓Kept.mk_other]

theorem State.setBit_keeps {x1 : Nat} {x2 : Nat} {x3 : Nat} (h : Kept v q n s) : Kept v q n (State.setBit s x1 x2 x3) := by
  unfold State.setBit
  repeat' with_reducible first | assumption | apply State.setWord_keeps

theorem State.capture_keeps {x1 : Nat} {x2 : Nat} {x3 : Nat} {x4 : Nat} {x5 : Nat} {x6 : Nat} (h : Kept v q n s) : Kept v q n (State.capture s x1 x2 x3 x4 x5 x6) := by
  unfold State.capture
  repeat' with_reducible
    first
    | assumption | apply State.setBit_keeps | apply State.setWord_keeps | apply Kept.of_ite | intro _ | simp only [↓Kept.mk_other] | split

theorem State.deny_keeps {x1 : Nat} {x2 : Nat} {x3 : Nat} {x4 : Req} {x5 : Bool} (h : Kept v q n s) : Kept v q n (State.deny s x1 x2 x3 x4 x5) := by
  unfold State.deny
  repeat' with_reducible
    first
    | assumption | apply State.irq_keeps | apply State.bump_keeps | apply State.capture_keeps | apply Kept.of_ite | intro _ | split

theorem State.unmapped_keeps {x1 : Nat} {x2 : Nat} (h : Kept v q n s) : Kept v q n (State.unmapped s x1 x2) := by
  unfold State.unmapped
  repeat' with_reducible first | assumption | apply State.bump_keeps | apply State.put_keeps

theorem State.action_keeps {x1 : Nat} {x2 : Nat} {x3 : Nat} {x4 : Req} {x5 : Bool} {x6 : Nat} {x7 : Nat} {x8 : State → State} (hf8 : ∀ y0, Kept v q n y0 → Kept v q n (x8 y0)) (h : Kept v q n s) : Kept v q n (State.action s x1 x2 x3 x4 x5 x6 x7 x8) := by
  unfold State.action
  repeat' with_reducible
    first
    | assumption | apply State.unmapped_keeps | apply State.deny_keeps | apply State.capture_keeps | apply hf8 | apply Kept.of_ite | intro _ | split

theorem State.lockv_keeps {x1 : Nat} {x2 : Nat} {x3 : Nat} {x4 : Req} (h : Kept v q n s) : Kept v q n (State.lockv s x1 x2 x3 x4) := by
  unfold State.lockv
  repeat' with_reducible first | assumption | apply State.capture_keeps

/-! ## Mirror -/

theorem State.mirror_keeps {x1 : Nat} {x2 : Input} {x3 : Nat} (e : State.mirror s x1 x2 x3 = some t) (h : Kept v q n s) : Kept v q n t := by
  unfold State.mirror at e
  try dsimp only at e
  repeat' split at e
  all_goals first | cases e | skip
  all_goals try simp only [Option.some.injEq, Prod.mk.injEq] at e
  all_goals try obtain ⟨rfl, rfl⟩ := e
  all_goals try simp only [Option.map_eq_some_iff] at e
  all_goals try obtain ⟨_, e, rfl⟩ := e
  all_goals repeat' with_reducible
    first
    | assumption | apply State.put64_keeps | apply State.setMast_keeps | apply State.sendOn_keeps | apply State.bump_keeps | apply Kept.of_ite
    | intro _ | simp only [↓Kept.mk_other] | split

theorem State.input_keeps {x1 : Nat} {x2 : Input} {x3 : State → State} (hf3 : ∀ y0, Kept v q n y0 → Kept v q n (x3 y0)) (h : Kept v q n s) : Kept v q n (State.input s x1 x2 x3) := by
  unfold State.input
  repeat' with_reducible
    first
    | assumption | (apply State.mirror_keeps; assumption) | apply hf3 | apply Kept.of_ite | intro _ | (apply Kept.of_snd; assumption)
    | simp only [↓Kept.mk_other] | split

theorem State.recordPort_keeps {x1 : Nat} {x2 : Nat} {x3 : Nat} {x4 : Nat} (h : Kept v q n s) : Kept v q n (State.recordPort s x1 x2 x3 x4) := by
  unfold State.recordPort
  repeat' with_reducible first | assumption | apply State.setMast_keeps | intro _ | simp only [↓Kept.mk_other]

theorem State.hostOn_keeps {x1 : Nat} {x2 : Nat} {x3 : Nat} {x4 : Nat} {x5 : Nat} {x6 : Nat} {x7 : Body} {x8 : Nat → State → State} (hf8 : ∀ y0 y1, Kept v q n y1 → Kept v q n (x8 y0 y1)) (h : Kept v q n s) : Kept v q n (State.hostOn s x1 x2 x3 x4 x5 x6 x7 x8) := by
  unfold State.hostOn
  repeat' with_reducible
    first
    | assumption | (apply State.mirror_keeps; assumption) | apply State.recordPort_keeps | apply hf8 | apply Kept.of_ite | intro _
    | (apply Kept.of_snd; assumption) | simp only [↓Kept.mk_other] | split

theorem State.draw_keeps {x1 : Nat} {x2 : Nat} (h : Kept v q n s) : Kept v q n (State.draw s x1 x2).2 := by
  unfold State.draw
  repeat' with_reducible
    first
    | assumption | apply State.free_keeps | (apply State.mirror_keeps; assumption) | apply State.setMast_keeps | apply Kept.of_ite | intro _
    | apply Kept.of_getD | (apply Kept.of_snd; assumption) | simp only [↓Kept.mk_other] | split

theorem State.selfFaults_keeps {x1 : Nat} {x2 : Nat} (h : Kept v q n s) : Kept v q n (State.selfFaults s x1 x2) := by
  unfold State.selfFaults
  repeat' with_reducible
    first
    | assumption | apply State.irq_keeps | apply State.put_keeps | apply Kept.of_ite | intro _ | simp only [↓Kept.mk_other] | split

/-! ## Saltern -/

theorem State.setSal_keeps {x1 : Nat} {x2 : Saltern} (h : Kept v q n s) : Kept v q n (State.setSal s x1 x2) := by
  unfold State.setSal
  repeat' with_reducible first | assumption | apply State.setMast_keeps | simp only [↓Kept.mk_other]

theorem State.pauseSend_keeps {x1 : Nat} {x2 : Nat} {x3 : Bool} (h : Kept v q n s) : Kept v q n (State.pauseSend s x1 x2 x3) := by
  unfold State.pauseSend
  repeat' with_reducible
    first
    | assumption | apply State.setSal_keeps | apply State.emit_keeps | apply State.bump_keeps | apply Kept.of_ite | intro _
    | simp only [↓Kept.mk_other] | split

theorem State.pauseCheck_keeps {x1 : Nat} {x2 : Nat} (h : Kept v q n s) : Kept v q n (State.pauseCheck s x1 x2) := by
  unfold State.pauseCheck
  repeat' with_reducible first | assumption | apply State.pauseSend_keeps | apply Kept.of_ite | intro _ | simp only [↓Kept.mk_other] | split

theorem State.pauseAll_keeps {x1 : Nat} (h : Kept v q n s) : Kept v q n (State.pauseAll s x1) := by
  unfold State.pauseAll
  repeat' with_reducible first | assumption | apply State.pauseCheck_keeps | intro _ | apply foldl_keeps (Kept v q n)

theorem State.brineCheck_keeps {x1 : Nat} (h : Kept v q n s) : Kept v q n (State.brineCheck s x1) := by
  unfold State.brineCheck
  repeat' with_reducible
    first
    | assumption | apply State.pauseAll_keeps | apply State.irq_keeps | apply State.setSal_keeps | apply Kept.of_ite | intro _
    | simp only [↓Kept.mk_other] | split

theorem State.placeAdd_keeps {x1 : Nat} {x2 : Place} {x3 : Nat} (h : Kept v q n s) : Kept v q n (State.placeAdd s x1 x2 x3) := by
  unfold State.placeAdd
  repeat' with_reducible first | assumption | apply State.setSal_keeps | (apply Kept.of_snd; assumption) | simp only [↓Kept.mk_other] | split

theorem State.placeSub_keeps {x1 : Nat} {x2 : Place} {x3 : Nat} (h : Kept v q n s) : Kept v q n (State.placeSub s x1 x2 x3) := by
  unfold State.placeSub
  repeat' with_reducible first | assumption | apply State.setSal_keeps | (apply Kept.of_snd; assumption) | simp only [↓Kept.mk_other] | split

theorem State.allocItem_keeps {x1 : Nat} {x2 : Nat} {x3 : Nat} {x4 : Body} {y} (e : State.allocItem s x1 x2 x3 x4 = some (y, t)) (h : Kept v q n s) : Kept v q n t := by
  unfold State.allocItem at e
  try dsimp only at e
  repeat' split at e
  all_goals first | cases e | skip
  all_goals try simp only [Option.some.injEq, Prod.mk.injEq] at e
  all_goals try obtain ⟨rfl, rfl⟩ := e
  all_goals try simp only [Option.map_eq_some_iff] at e
  all_goals try obtain ⟨_, e, rfl⟩ := e
  all_goals repeat' with_reducible
    first
    | assumption | apply State.placeAdd_keeps | apply State.setSal_keeps | apply State.brineCheck_keeps | apply Kept.of_ite | intro _
    | (apply Kept.of_snd; assumption) | simp only [↓Kept.mk_other] | split

theorem State.freeItem_keeps {x1 : Nat} {x2 : Nat} (h : Kept v q n s) : Kept v q n (State.freeItem s x1 x2) := by
  unfold State.freeItem
  repeat' with_reducible
    first
    | assumption | apply State.placeSub_keeps | apply State.brineCheck_keeps | apply State.setSal_keeps | apply Kept.of_ite | intro _
    | simp only [↓Kept.mk_other] | split

theorem State.resizeItem_keeps {x1 : Nat} {x2 : Nat} {x3 : Nat} (e : State.resizeItem s x1 x2 x3 = some t) (h : Kept v q n s) : Kept v q n t := by
  unfold State.resizeItem at e
  try dsimp only at e
  repeat' split at e
  all_goals first | cases e | skip
  all_goals try simp only [Option.some.injEq, Prod.mk.injEq] at e
  all_goals try obtain ⟨rfl, rfl⟩ := e
  all_goals try simp only [Option.map_eq_some_iff] at e
  all_goals try obtain ⟨_, e, rfl⟩ := e
  all_goals repeat' with_reducible
    first
    | assumption | apply State.placeSub_keeps | apply State.brineCheck_keeps | apply State.setSal_keeps | apply State.placeAdd_keeps
    | apply Kept.of_ite | intro _ | (apply Kept.of_snd; assumption) | simp only [↓Kept.mk_other] | split

theorem State.setItemBody_keeps {x1 : Nat} {x2 : Nat} {x3 : Desc} {x4 : Body} (h : Kept v q n s) : Kept v q n (State.setItemBody s x1 x2 x3 x4) := by
  unfold State.setItemBody
  repeat' with_reducible first | assumption | apply State.setSal_keeps | simp only [↓Kept.mk_other]

theorem State.enqueueAs_keeps {x1 : Nat} {x2 : Nat} {x3 : Nat} (h : Kept v q n s) : Kept v q n (State.enqueueAs s x1 x2 x3) := by
  unfold State.enqueueAs
  repeat' with_reducible
    first
    | assumption | apply State.placeAdd_keeps | apply State.placeSub_keeps | apply State.brineCheck_keeps | apply State.setSal_keeps
    | simp only [↓Kept.mk_other]

theorem State.enqueue_keeps {x1 : Nat} {x2 : Nat} {x3 : Nat} (e : State.enqueue s x1 x2 x3 = some t) (h : Kept v q n s) : Kept v q n t := by
  unfold State.enqueue at e
  try dsimp only at e
  repeat' split at e
  all_goals first | cases e | skip
  all_goals try simp only [Option.some.injEq, Prod.mk.injEq] at e
  all_goals try obtain ⟨rfl, rfl⟩ := e
  all_goals try simp only [Option.map_eq_some_iff] at e
  all_goals try obtain ⟨_, e, rfl⟩ := e
  all_goals repeat' with_reducible first | assumption | apply State.enqueueAs_keeps | apply Kept.of_ite | intro _ | simp only [↓Kept.mk_other] | split

theorem State.dequeue_keeps {x1 : Nat} {x2 : Nat} {y} (e : State.dequeue s x1 x2 = some (y, t)) (h : Kept v q n s) : Kept v q n t := by
  unfold State.dequeue at e
  try dsimp only at e
  repeat' split at e
  all_goals first | cases e | skip
  all_goals try simp only [Option.some.injEq, Prod.mk.injEq] at e
  all_goals try obtain ⟨rfl, rfl⟩ := e
  all_goals try simp only [Option.map_eq_some_iff] at e
  all_goals try obtain ⟨_, e, rfl⟩ := e
  all_goals repeat' with_reducible
    first
    | assumption | apply State.setSal_keeps | apply State.placeSub_keeps | apply State.brineCheck_keeps | apply Kept.of_ite | intro _
    | (apply Kept.of_snd; assumption) | simp only [↓Kept.mk_other] | split

theorem State.output_keeps {x1 : Nat} {x2 : Nat} {x3 : List Nat} (h : Kept v q n s) : Kept v q n (State.output s x1 x2 x3) := by
  unfold State.output
  repeat' with_reducible first | assumption | apply State.setMast_keeps | apply Kept.of_ite | intro _ | simp only [↓Kept.mk_other] | split

theorem State.enqueueOut_keeps {x1 : Nat} {x2 : Nat} {x3 : Nat} (e : State.enqueueOut s x1 x2 x3 = some t) (h : Kept v q n s) : Kept v q n t := by
  unfold State.enqueueOut at e
  try dsimp only at e
  repeat' split at e
  all_goals first | cases e | skip
  all_goals try simp only [Option.some.injEq, Prod.mk.injEq] at e
  all_goals try obtain ⟨rfl, rfl⟩ := e
  all_goals try simp only [Option.map_eq_some_iff] at e
  all_goals try obtain ⟨_, e, rfl⟩ := e
  all_goals repeat' with_reducible
    first
    | assumption | (apply State.enqueue_keeps; assumption) | apply State.output_keeps | (apply Kept.of_snd; assumption) | simp only [↓Kept.mk_other]
    | split

theorem State.event_keeps {x1 : Nat} {x2 : EventKind} {x3 : Nat} {x4 : List Nat} (h : Kept v q n s) : Kept v q n (State.event s x1 x2 x3 x4) := by
  unfold State.event
  repeat' with_reducible
    first
    | assumption | apply State.bump_keeps | apply State.setMast_keeps | apply State.setSal_keeps | apply State.output_keeps
    | apply State.enqueueAs_keeps | apply Kept.of_ite | intro _ | (apply Kept.of_snd; assumption) | simp only [↓Kept.mk_other] | split

theorem State.chainAppend_keeps {x1 : Nat} {x2 : Nat} {x3 : Nat} (e : State.chainAppend s x1 x2 x3 = some t) (h : Kept v q n s) : Kept v q n t := by
  unfold State.chainAppend at e
  try dsimp only at e
  repeat' split at e
  all_goals first | cases e | skip
  all_goals try simp only [Option.some.injEq, Prod.mk.injEq] at e
  all_goals try obtain ⟨rfl, rfl⟩ := e
  all_goals try simp only [Option.map_eq_some_iff] at e
  all_goals try obtain ⟨_, e, rfl⟩ := e
  all_goals repeat' with_reducible
    first
    | assumption | apply State.placeAdd_keeps | apply State.placeSub_keeps | apply State.brineCheck_keeps | apply State.setMast_keeps
    | apply Kept.of_ite | intro _ | simp only [↓Kept.mk_other] | split

theorem State.chainRemove_keeps {x1 : Nat} {x2 : Nat} {x3 : Nat} (h : Kept v q n s) : Kept v q n (State.chainRemove s x1 x2 x3) := by
  unfold State.chainRemove
  repeat' with_reducible
    first
    | assumption | apply State.freeItem_keeps | apply State.setMast_keeps | apply Kept.of_ite | intro _ | simp only [↓Kept.mk_other] | split

theorem State.spliceLost_keeps {x1 : Nat} {x2 : Nat} (h : Kept v q n s) : Kept v q n (State.spliceLost s x1 x2) := by
  unfold State.spliceLost
  repeat' with_reducible
    first
    | assumption | apply State.placeAdd_keeps | apply State.placeSub_keeps | apply State.setMast_keeps | apply State.brineCheck_keeps
    | apply State.output_keeps | apply State.bump_keeps | apply Kept.of_ite | intro _ | apply foldl_keeps (Kept v q n) | simp only [↓Kept.mk_other]
    | split

theorem State.pop_keeps {x1 : Nat} {x2 : Nat} (h : Kept v q n s) : Kept v q n (State.pop s x1 x2) := by
  unfold State.pop
  repeat' with_reducible
    first
    | assumption | apply State.bput64_keeps | apply State.setWord_keeps | (apply State.dequeue_keeps; assumption) | apply State.setSal_keeps
    | apply State.bump_keeps | apply Kept.of_ite | intro _ | (apply Kept.of_snd; assumption) | simp only [↓Kept.mk_other] | split

theorem State.ioFlag_keeps {x1 : Nat} {x2 : Nat} {x3 : Fld} (h : Kept v q n s) : Kept v q n (State.ioFlag s x1 x2 x3) := by
  unfold State.ioFlag
  repeat' with_reducible first | assumption | apply State.bput_keeps

theorem State.closeOpen_keeps {x1 : Nat} {x2 : Nat} {x3 : Nat} (h : Kept v q n s) : Kept v q n (State.closeOpen s x1 x2 x3) := by
  unfold State.closeOpen
  repeat' with_reducible first | assumption | apply State.setSal_keeps | apply Kept.of_ite | intro _ | simp only [↓Kept.mk_other] | split

theorem State.pushDone_keeps {x1 : Nat} {x2 : Nat} {x3 : Nat} {x4 : Desc} (e : State.pushDone s x1 x2 x3 x4 = some t) (h : Kept v q n s) : Kept v q n t := by
  unfold State.pushDone at e
  try dsimp only at e
  repeat' split at e
  all_goals first | cases e | skip
  all_goals try simp only [Option.some.injEq, Prod.mk.injEq] at e
  all_goals try obtain ⟨rfl, rfl⟩ := e
  all_goals try simp only [Option.map_eq_some_iff] at e
  all_goals try obtain ⟨_, e, rfl⟩ := e
  all_goals repeat' with_reducible first | assumption | (apply State.enqueueOut_keeps; assumption) | apply State.closeOpen_keeps

theorem State.push_keeps {x1 : Nat} {x2 : Nat} {x3 : Desc} {x4 : Body} (h : Kept v q n s) : Kept v q n (State.push s x1 x2 x3 x4) := by
  unfold State.push
  repeat' with_reducible
    first
    | assumption | apply State.bump_keeps | apply State.ioFlag_keeps | apply State.setItemBody_keeps | (apply State.pushDone_keeps; assumption)
    | apply State.setSal_keeps | apply Kept.of_ite | intro _ | (apply Kept.of_snd; assumption) | simp only [↓Kept.mk_other] | split

theorem State.allocCell_keeps {x1 : Nat} {x2 : Nat} {y} (e : State.allocCell s x1 x2 = some (y, t)) (h : Kept v q n s) : Kept v q n t := by
  unfold State.allocCell at e
  try dsimp only at e
  repeat' split at e
  all_goals first | cases e | skip
  all_goals try simp only [Option.some.injEq, Prod.mk.injEq] at e
  all_goals try obtain ⟨rfl, rfl⟩ := e
  all_goals try simp only [Option.map_eq_some_iff] at e
  all_goals try obtain ⟨_, e, rfl⟩ := e
  all_goals repeat' with_reducible
    first
    | assumption | apply State.brineCheck_keeps | apply State.placeAdd_keeps | apply State.setSal_keeps | apply Kept.of_ite | intro _
    | (apply Kept.of_snd; assumption) | simp only [↓Kept.mk_other] | split

theorem State.allocWord_keeps {x1 : Nat} {x2 : Nat} {x3 : Option Nat} (h : Kept v q n s) : Kept v q n (State.allocWord s x1 x2 x3) := by
  unfold State.allocWord
  repeat' with_reducible first | assumption | apply State.setWord_keeps | (apply Kept.of_snd; assumption) | simp only [↓Kept.mk_other] | split

theorem State.alloc_keeps {x1 : Nat} {x2 : Nat} (h : Kept v q n s) : Kept v q n (State.alloc s x1 x2) := by
  unfold State.alloc
  repeat' with_reducible
    first
    | assumption | (apply State.allocCell_keeps; assumption) | apply State.allocWord_keeps | apply State.bump_keeps | apply State.setSal_keeps
    | apply Kept.of_ite | intro _ | (apply Kept.of_snd; assumption) | simp only [↓Kept.mk_other] | split

theorem State.linkErr_keeps {x1 : Nat} {x2 : Nat} (h : Kept v q n s) : Kept v q n (State.linkErr s x1 x2) := by
  unfold State.linkErr
  repeat' with_reducible
    first
    | assumption | apply State.selfFaults_keeps | apply State.irq_keeps | apply State.bump_keeps | apply State.setSal_keeps | apply Kept.of_ite
    | intro _ | (apply Kept.of_snd; assumption) | simp only [↓Kept.mk_other] | split

theorem State.popLink_keeps {x1 : Nat} {x2 : Nat} {x3 : Nat} (h : Kept v q n s) : Kept v q n (State.popLink s x1 x2 x3) := by
  unfold State.popLink
  repeat' with_reducible
    first
    | assumption | apply State.bump_keeps | apply State.linkErr_keeps | apply Kept.of_ite | intro _ | (apply Kept.of_snd; assumption)
    | simp only [↓Kept.mk_other] | split

theorem execSalternPop_keeps {x0 : Nat} {x1 : Nat} {x2 : Nat} {x3 : Nat} (h : Kept v q n s) : KeptOut v q n (execSalternPop x0 x1 x2 x3 s) := by
  unfold execSalternPop
  repeat' with_reducible
    first
    | assumption | apply KeptOut.next | apply State.action_keeps | apply State.pop_keeps | apply State.popLink_keeps | intro _

theorem State.accPush_keeps {x1 : Nat} {x2 : Nat} {x3 : Nat} {x4 : Nat} {x5 : Body} (h : Kept v q n s) : Kept v q n (State.accPush s x1 x2 x3 x4 x5) := by
  unfold State.accPush
  repeat' with_reducible first | assumption | apply State.action_keeps | apply State.push_keeps | intro _

theorem execSalternPush_keeps {x0 : Nat} {x1 : Nat} {x2 : Nat} {x3 : Nat} {x4 : Body} (h : Kept v q n s) : KeptOut v q n (execSalternPush x0 x1 x2 x3 x4 s) := by
  unfold execSalternPush
  repeat' with_reducible first | assumption | apply KeptOut.next | apply State.hostOn_keeps | apply State.accPush_keeps | intro _

theorem execSalternAlloc_keeps {x0 : Nat} {x1 : Nat} {x2 : Nat} (h : Kept v q n s) : KeptOut v q n (execSalternAlloc x0 x1 x2 s) := by
  unfold execSalternAlloc
  repeat' with_reducible first | assumption | apply KeptOut.next | apply State.action_keeps | apply State.alloc_keeps | intro _

theorem State.accFree_keeps {x1 : Nat} {x2 : Nat} {x3 : Nat} {x4 : Nat} (h : Kept v q n s) : Kept v q n (State.accFree s x1 x2 x3 x4) := by
  unfold State.accFree
  repeat' with_reducible
    first
    | assumption | apply State.action_keeps | apply State.freeItem_keeps | apply State.closeOpen_keeps | apply Kept.of_ite | intro _
    | simp only [↓Kept.mk_other] | split

theorem execSalternFree_keeps {x0 : Nat} {x1 : Nat} {x2 : Nat} {x3 : Nat} (h : Kept v q n s) : KeptOut v q n (execSalternFree x0 x1 x2 x3 s) := by
  unfold execSalternFree
  repeat' with_reducible first | assumption | apply KeptOut.next | apply State.hostOn_keeps | apply State.accFree_keeps | intro _

theorem State.accSalternHwmClr_keeps {x1 : Nat} {x2 : Nat} {x3 : Nat} {x4 : Nat} (h : Kept v q n s) : Kept v q n (State.accSalternHwmClr s x1 x2 x3 x4) := by
  unfold State.accSalternHwmClr
  repeat' with_reducible
    first
    | assumption | apply State.action_keeps | apply State.setSal_keeps | apply Kept.of_ite | intro _ | apply foldl_keeps (Kept v q n)
    | simp only [↓Kept.mk_other] | split

theorem execSalternHwmClr_keeps {x0 : Nat} {x1 : Nat} {x2 : Nat} {x3 : Nat} (h : Kept v q n s) : KeptOut v q n (execSalternHwmClr x0 x1 x2 x3 s) := by
  unfold execSalternHwmClr
  repeat' with_reducible first | assumption | apply KeptOut.next | apply State.hostOn_keeps | apply State.accSalternHwmClr_keeps | intro _

theorem execPushTimeout_keeps {x0 : Nat} {x1 : Nat} (h : Kept v q n s) : KeptOut v q n (execPushTimeout x0 x1 s) := by
  unfold execPushTimeout
  repeat' with_reducible
    first
    | assumption | apply KeptOut.next | apply KeptOut.of_ite | apply State.bump_keeps | apply State.setSal_keeps | apply State.emit_keeps
    | apply State.allocWord_keeps | apply Kept.of_ite | intro _ | (apply Kept.of_snd; assumption) | simp only [↓Kept.mk_other] | split

theorem State.retryOne_keeps {x1 : Nat} {x2 : HeldPush} (h : Kept v q n s) : Kept v q n (State.retryOne s x1 x2) := by
  unfold State.retryOne
  repeat' with_reducible
    first
    | assumption | apply State.setSal_keeps | (apply State.allocCell_keeps; assumption) | apply State.allocWord_keeps
    | (apply State.pushDone_keeps; assumption) | apply Kept.of_ite | intro _ | (apply Kept.of_snd; assumption) | simp only [↓Kept.mk_other] | split

theorem State.retryPush_keeps {x1 : Nat} (h : Kept v q n s) : Kept v q n (State.retryPush s x1) := by
  unfold State.retryPush
  repeat' with_reducible first | assumption | apply State.retryOne_keeps | intro _ | apply foldl_keeps (Kept v q n)

theorem State.retryEvent_keeps {x1 : Nat} (h : Kept v q n s) : Kept v q n (State.retryEvent s x1) := by
  unfold State.retryEvent
  repeat' with_reducible
    first
    | assumption | apply State.event_keeps | apply State.setMast_keeps | apply Kept.of_ite | intro _ | (apply Kept.of_snd; assumption)
    | simp only [↓Kept.mk_other] | split

theorem execAdmissionHoldRelease_keeps {x0 : Nat} (h : Kept v q n s) : KeptOut v q n (execAdmissionHoldRelease x0 s) := by
  unfold execAdmissionHoldRelease
  repeat' with_reducible first | assumption | apply KeptOut.next | apply State.retryPush_keeps | apply State.retryEvent_keeps

theorem execPauseRefresh_keeps {x0 : Nat} {x1 : Nat} (h : Kept v q n s) : KeptOut v q n (execPauseRefresh x0 x1 s) := by
  unfold execPauseRefresh
  repeat' with_reducible
    first
    | assumption | apply KeptOut.next | apply KeptOut.of_ite | apply State.emit_keeps | apply State.bump_keeps | apply Kept.of_ite | intro _ | split

/-! ## NvBase -/

theorem State.setNv_keeps {x1 : Nat} {x2 : Nv} (h : Kept v q n s) : Kept v q n (State.setNv s x1 x2) := by
  unfold State.setNv
  repeat' with_reducible first | assumption | apply State.setMast_keeps | simp only [↓Kept.mk_other]

theorem State.nvRequest_keeps {x1 : Nat} {x2 : Nat} (h : Kept v q n s) : Kept v q n (State.nvRequest s x1 x2) := by
  unfold State.nvRequest
  repeat' with_reducible
    first
    | assumption | apply State.bump_keeps | apply Kept.of_ite | intro _ | (apply Kept.of_snd; assumption) | simp only [↓Kept.mk_other] | split

theorem State.nvErase_keeps {x1 : Nat} {x2 : Nat} (h : Kept v q n s) : Kept v q n (State.nvErase s x1 x2) := by
  unfold State.nvErase
  repeat' with_reducible
    first
    | assumption | apply State.setNv_keeps | apply State.put_keeps | apply Kept.of_ite | intro _ | simp only [↓Kept.mk_other] | split

theorem State.nvStart_keeps {x1 : Nat} {x2 : Nat} (h : Kept v q n s) : Kept v q n (State.nvStart s x1 x2) := by
  unfold State.nvStart
  repeat' with_reducible
    first
    | assumption | apply State.nvRequest_keeps | apply State.nvErase_keeps | apply Kept.of_ite | intro _ | simp only [↓Kept.mk_other] | split

theorem State.nvDone_keeps {x1 : Nat} {x2 : Nat} {x3 : Bool} (h : Kept v q n s) : Kept v q n (State.nvDone s x1 x2 x3) := by
  unfold State.nvDone
  repeat' with_reducible
    first
    | assumption | apply State.bump_keeps | apply State.put_keeps | apply State.irq_keeps | apply State.setNv_keeps | apply Kept.of_ite | intro _
    | simp only [↓Kept.mk_other] | split

theorem State.ringWrite_keeps {x1 : Nat} {x2 : Nat} {x3 : Bool} (h : Kept v q n s) : Kept v q n (State.ringWrite s x1 x2 x3) := by
  unfold State.ringWrite
  repeat' with_reducible
    first
    | assumption | apply State.put_keeps | apply State.setNv_keeps | apply State.bump_keeps | apply Kept.of_ite | intro _
    | simp only [↓Kept.mk_other] | split

theorem State.cfgWrite_keeps {x1 : Nat} {x2 : CfgRec} (h : Kept v q n s) : Kept v q n (State.cfgWrite s x1 x2) := by
  unfold State.cfgWrite
  repeat' with_reducible
    first
    | assumption | apply State.nvStart_keeps | apply State.output_keeps | apply State.setNv_keeps | intro _ | simp only [↓Kept.mk_other]

theorem State.updWrite_keeps {x1 : Nat} {x2 : UpdRec} (h : Kept v q n s) : Kept v q n (State.updWrite s x1 x2) := by
  unfold State.updWrite
  repeat' with_reducible first | assumption | apply State.setMast_keeps | apply State.cfgWrite_keeps | simp only [↓Kept.mk_other]

/-! ## Halyard -/

theorem State.setHal_keeps {x1 : Nat} {x2 : Halyard} (h : Kept v q n s) : Kept v q n (State.setHal s x1 x2) := by
  unfold State.setHal
  repeat' with_reducible first | assumption | apply State.setMast_keeps | simp only [↓Kept.mk_other]

theorem State.settleFlow_keeps {x1 : Nat} {x2 : Nat} (h : Kept v q n s) : Kept v q n (State.settleFlow s x1 x2) := by
  unfold State.settleFlow
  repeat' with_reducible
    first
    | assumption | apply State.setHal_keeps | apply Kept.of_ite | intro _ | (apply Kept.of_snd; assumption) | simp only [↓Kept.mk_other] | split

theorem State.settleFlows_keeps {x1 : Nat} (h : Kept v q n s) : Kept v q n (State.settleFlows s x1) := by
  unfold State.settleFlows
  repeat' with_reducible first | assumption | apply State.settleFlow_keeps | intro _ | apply foldl_keeps (Kept v q n)

theorem State.queueAt_keeps {x1 : Nat} {x2 : Desc} (h : Kept v q n s) : Kept v q n (State.queueAt s x1 x2) := by
  unfold State.queueAt
  repeat' with_reducible
    first
    | assumption | apply State.bump_keeps | apply State.setHal_keeps | apply State.raise_keeps | apply Kept.of_ite | intro _
    | simp only [↓Kept.mk_other] | split

theorem State.holdGive_keeps {x1 : Nat} {x2 : Giver} {x3 : Desc} (h : Kept v q n s) : Kept v q n (State.holdGive s x1 x2 x3) := by
  unfold State.holdGive
  repeat' with_reducible
    first
    | assumption | apply State.bump_keeps | apply State.setHal_keeps | intro _ | (apply Kept.of_snd; assumption) | simp only [↓Kept.mk_other] | split

theorem State.giveHw_keeps {x1 : Nat} {x2 : Giver} {x3 : Desc} (h : Kept v q n s) : Kept v q n (State.giveHw s x1 x2 x3) := by
  unfold State.giveHw
  repeat' with_reducible
    first
    | assumption | apply State.bump_keeps | apply State.freeItem_keeps | apply State.queueAt_keeps | apply State.holdGive_keeps | apply Kept.of_ite
    | intro _ | split

theorem State.ethGive_keeps {x1 : Nat} {x2 : Nat} {x3 : Desc} (h : Kept v q n s) : Kept v q n (State.ethGive s x1 x2 x3) := by
  unfold State.ethGive
  repeat' with_reducible
    first
    | assumption | apply State.giveHw_keeps | apply State.bump_keeps | apply Kept.of_ite | intro _ | simp only [↓Kept.mk_other] | split

theorem State.ethDrain_keeps {x1 : Nat} {x2 : Nat} {x3 : List Nat} (h : Kept v q n s) : Kept v q n (State.ethDrain s x1 x2 x3) := by
  induction x3 generalizing s with
  | nil => exact h
  | cons _ _ ih =>
  unfold State.ethDrain
  repeat' with_reducible
    first
    | assumption | apply ih | apply State.ethGive_keeps | apply State.setSal_keeps | apply Kept.of_ite | intro _ | simp only [↓Kept.mk_other] | split

theorem State.engineTo_keeps {x1 : Nat} {x2 : Nat} {x3 : Nat} {x4 : Desc} (h : Kept v q n s) : Kept v q n (State.engineTo s x1 x2 x3 x4) := by
  unfold State.engineTo
  repeat' with_reducible first | assumption | apply State.giveHw_keeps | simp only [↓Kept.mk_other]

theorem State.engineNext_keeps {x1 : Nat} {x2 : Nat} {x3 : Desc} (h : Kept v q n s) : Kept v q n (State.engineNext s x1 x2 x3) := by
  unfold State.engineNext
  repeat' with_reducible first | assumption | apply State.engineTo_keeps

theorem State.giveSw_keeps {x1 : Nat} {x2 : Nat} {x3 : Desc} {x4 : Body} (h : Kept v q n s) : Kept v q n (State.giveSw s x1 x2 x3 x4) := by
  unfold State.giveSw
  repeat' with_reducible
    first
    | assumption | apply State.bump_keeps | apply State.bput_keeps | apply State.setItemBody_keeps | apply State.closeOpen_keeps
    | apply State.setSal_keeps | apply State.freeItem_keeps | apply State.queueAt_keeps | apply State.holdGive_keeps | apply Kept.of_ite | intro _
    | simp only [↓Kept.mk_other] | split

theorem State.unqueue_keeps {x1 : Nat} {x2 : QEntry} (h : Kept v q n s) : Kept v q n (State.unqueue s x1 x2) := by
  unfold State.unqueue
  repeat' with_reducible first | assumption | apply State.raise_keeps | apply State.bump_keeps | apply State.setHal_keeps | simp only [↓Kept.mk_other]

theorem State.engineHolds_keeps {x1 : Nat} {x2 : Nat} {x3 : Desc} (h : Kept v q n s) : Kept v q n (State.engineHolds s x1 x2 x3) := by
  unfold State.engineHolds
  repeat' with_reducible first | assumption | apply State.setHal_keeps | apply Kept.of_ite | intro _ | simp only [↓Kept.mk_other] | split

theorem State.flowLeft_keeps {x1 : Nat} {x2 : Nat} {x3 : Nat} (h : Kept v q n s) : Kept v q n (State.flowLeft s x1 x2 x3) := by
  unfold State.flowLeft
  repeat' with_reducible first | assumption | apply State.setHal_keeps | simp only [↓Kept.mk_other]

theorem State.engineTake_keeps {x1 : Nat} {x2 : Nat} {y} (e : State.engineTake s x1 x2 = some (y, t)) (h : Kept v q n s) : Kept v q n t := by
  unfold State.engineTake at e
  try dsimp only at e
  repeat' split at e
  all_goals first | cases e | skip
  all_goals try simp only [Option.some.injEq, Prod.mk.injEq] at e
  all_goals try obtain ⟨rfl, rfl⟩ := e
  all_goals try simp only [Option.map_eq_some_iff] at e
  all_goals try obtain ⟨_, e, rfl⟩ := e
  all_goals repeat' with_reducible
    first
    | assumption | apply State.flowLeft_keeps | apply State.setHal_keeps | apply State.settleFlow_keeps | apply State.unqueue_keeps
    | apply State.count_keeps | apply Kept.of_ite | intro _ | (apply Kept.of_snd; assumption) | simp only [↓Kept.mk_other] | split

theorem State.engineIdle_keeps {x1 : Nat} {x2 : Nat} (h : Kept v q n s) : Kept v q n (State.engineIdle s x1 x2) := by
  unfold State.engineIdle
  repeat' with_reducible first | assumption | apply State.count_keeps | apply Kept.of_ite | intro _ | split

theorem State.engineWaits_keeps {x1 : Nat} {x2 : Nat} (h : Kept v q n s) : Kept v q n (State.engineWaits s x1 x2) := by
  unfold State.engineWaits
  repeat' with_reducible
    first
    | assumption | apply State.bump_keeps | apply State.setSal_keeps | apply State.setHal_keeps | apply Kept.of_ite | intro _
    | simp only [↓Kept.mk_other] | split

theorem State.engineRefused_keeps {x1 : Nat} {x2 : Nat} (h : Kept v q n s) : Kept v q n (State.engineRefused s x1 x2) := by
  unfold State.engineRefused
  repeat' with_reducible
    first
    | assumption | (apply State.engineTake_keeps; assumption) | apply State.engineWaits_keeps | apply State.engineHolds_keeps
    | apply State.setHal_keeps | intro _ | (apply Kept.of_snd; assumption) | simp only [↓Kept.mk_other] | split

theorem State.engineAdmitted_keeps {x1 : Nat} {x2 : Nat} (h : Kept v q n s) : Kept v q n (State.engineAdmitted s x1 x2) := by
  unfold State.engineAdmitted
  repeat' with_reducible
    first
    | assumption | apply State.setSal_keeps | apply State.setHal_keeps | apply Kept.of_ite | intro _ | (apply Kept.of_snd; assumption)
    | simp only [↓Kept.mk_other] | split

theorem State.endService_keeps {x1 : Nat} {x2 : Nat} (h : Kept v q n s) : Kept v q n (State.endService s x1 x2) := by
  unfold State.endService
  repeat' with_reducible
    first
    | assumption | apply State.settleFlow_keeps | apply State.setHal_keeps | apply Kept.of_ite | intro _ | (apply Kept.of_snd; assumption)
    | simp only [↓Kept.mk_other] | split

theorem State.startService_keeps {x1 : Nat} {x2 : Nat} {x3 : QEntry} (h : Kept v q n s) : Kept v q n (State.startService s x1 x2 x3) := by
  unfold State.startService
  repeat' with_reducible
    first
    | assumption | apply State.unqueue_keeps | apply State.setHal_keeps | apply State.setSal_keeps | apply State.bput64_keeps | apply Kept.of_ite
    | intro _ | simp only [↓Kept.mk_other] | split

theorem State.idleTake_keeps {x1 : Nat} {x2 : Nat} (h : Kept v q n s) : Kept v q n (State.idleTake s x1 x2) := by
  unfold State.idleTake
  repeat' with_reducible
    first
    | assumption | apply State.bump_keeps | apply State.setHal_keeps | apply State.bput64_keeps | simp only [↓Kept.mk_other]

theorem State.applyRole_keeps {x1 : Nat} {x2 : Nat} {x3 : Nat} (h : Kept v q n s) : Kept v q n (State.applyRole s x1 x2 x3) := by
  unfold State.applyRole
  repeat' with_reducible
    first
    | assumption | apply State.count_keeps | apply State.setHal_keeps | apply State.irq_keeps | apply Kept.of_ite | intro _
    | apply foldl_keeps (Kept v q n) | simp only [↓Kept.mk_other] | split

theorem State.gateCore_keeps {x1 : Nat} {x2 : Nat} (h : Kept v q n s) : Kept v q n (State.gateCore s x1 x2) := by
  unfold State.gateCore
  repeat' with_reducible
    first
    | assumption | apply State.applyRole_keeps | apply State.setHal_keeps | apply Kept.of_ite | intro _ | simp only [↓Kept.mk_other] | split

theorem State.take_keeps {x1 : Nat} {x2 : Nat} (h : Kept v q n s) : Kept v q n (State.take s x1 x2) := by
  unfold State.take
  repeat' with_reducible
    first
    | assumption | apply State.gateCore_keeps | apply State.endService_keeps | apply State.applyRole_keeps | apply State.startService_keeps
    | apply State.count_keeps | apply State.setHal_keeps | apply State.bput64_keeps | apply State.bput_keeps | apply Kept.of_ite | intro _
    | (apply Kept.of_snd; assumption) | simp only [↓Kept.mk_other] | split

theorem State.wakeFirst_keeps {x1 : Nat} {x2 : List Nat} (h : Kept v q n s) : Kept v q n (State.wakeFirst s x1 x2) := by
  induction x2 generalizing s with
  | nil => exact h
  | cons _ _ ih =>
  unfold State.wakeFirst
  repeat' with_reducible
    first
    | assumption | apply ih | apply State.startService_keeps | apply State.count_keeps | apply Kept.of_ite | intro _
    | (apply Kept.of_snd; assumption) | simp only [↓Kept.mk_other] | split

theorem State.accGive_keeps {x1 : Nat} {x2 : Nat} {x3 : Nat} {x4 : Nat} {x5 : Body} (h : Kept v q n s) : Kept v q n (State.accGive s x1 x2 x3 x4 x5) := by
  unfold State.accGive
  repeat' with_reducible first | assumption | apply State.action_keeps | apply State.giveSw_keeps | intro _

theorem execHalyardGive_keeps {x0 : Nat} {x1 : Nat} {x2 : Nat} {x3 : Nat} {x4 : Body} (h : Kept v q n s) : KeptOut v q n (execHalyardGive x0 x1 x2 x3 x4 s) := by
  unfold execHalyardGive
  repeat' with_reducible first | assumption | apply KeptOut.next | apply State.hostOn_keeps | apply State.accGive_keeps | intro _

theorem execHalyardTake_keeps {x0 : Nat} {x1 : Nat} {x2 : Nat} (h : Kept v q n s) : KeptOut v q n (execHalyardTake x0 x1 x2 s) := by
  unfold execHalyardTake
  repeat' with_reducible first | assumption | apply KeptOut.next | apply State.action_keeps | apply State.take_keeps | intro _

theorem execTakeWake_keeps {x0 : Nat} (h : Kept v q n s) : KeptOut v q n (execTakeWake x0 s) := by
  unfold execTakeWake
  repeat' with_reducible first | assumption | apply KeptOut.next | apply State.wakeFirst_keeps

theorem execTakeIrqRelease_keeps {x0 : Nat} {x1 : Nat} (h : Kept v q n s) : KeptOut v q n (execTakeIrqRelease x0 x1 s) := by
  unfold execTakeIrqRelease
  repeat' with_reducible
    first
    | assumption | apply KeptOut.next | apply KeptOut.of_ite | apply State.bump_keeps | apply State.idleTake_keeps | apply Kept.of_ite | intro _
    | split

theorem State.accRelease_keeps {x1 : Nat} {x2 : Nat} {x3 : Nat} {x4 : Nat} (h : Kept v q n s) : Kept v q n (State.accRelease s x1 x2 x3 x4) := by
  unfold State.accRelease
  repeat' with_reducible
    first
    | assumption | apply State.action_keeps | apply State.bump_keeps | apply State.idleTake_keeps | apply Kept.of_ite | intro _
    | apply foldl_keeps (Kept v q n) | split

theorem execHalyardRelease_keeps {x0 : Nat} {x1 : Nat} {x2 : Nat} {x3 : Nat} (h : Kept v q n s) : KeptOut v q n (execHalyardRelease x0 x1 x2 x3 s) := by
  unfold execHalyardRelease
  repeat' with_reducible first | assumption | apply KeptOut.next | apply State.hostOn_keeps | apply State.accRelease_keeps | intro _

theorem State.accDone_keeps {x1 : Nat} {x2 : Nat} {x3 : Nat} {x4 : Nat} (h : Kept v q n s) : Kept v q n (State.accDone s x1 x2 x3 x4) := by
  unfold State.accDone
  repeat' with_reducible
    first
    | assumption | apply State.action_keeps | apply State.bump_keeps | apply State.endService_keeps | apply Kept.of_ite | intro _ | split

theorem execHalyardDone_keeps {x0 : Nat} {x1 : Nat} {x2 : Nat} {x3 : Nat} (h : Kept v q n s) : KeptOut v q n (execHalyardDone x0 x1 x2 x3 s) := by
  unfold execHalyardDone
  repeat' with_reducible first | assumption | apply KeptOut.next | apply State.hostOn_keeps | apply State.accDone_keeps | intro _

theorem State.accRole_keeps {x1 : Nat} {x2 : Nat} {x3 : Nat} {x4 : Nat} {x5 : Nat} {x6 : Nat} (h : Kept v q n s) : Kept v q n (State.accRole s x1 x2 x3 x4 x5 x6) := by
  unfold State.accRole
  repeat' with_reducible
    first
    | assumption | apply State.action_keeps | apply State.setWord_keeps | apply State.applyRole_keeps | apply Kept.of_ite | intro _
    | simp only [↓Kept.mk_other] | split

theorem execHalyardRoleWrite_keeps {x0 : Nat} {x1 : Nat} {x2 : Nat} {x3 : Nat} {x4 : Nat} {x5 : Nat} (h : Kept v q n s) : KeptOut v q n (execHalyardRoleWrite x0 x1 x2 x3 x4 x5 s) := by
  unfold execHalyardRoleWrite
  repeat' with_reducible first | assumption | apply KeptOut.next | apply State.hostOn_keeps | apply State.accRole_keeps | intro _

theorem State.accHalyardHwmClr_keeps {x1 : Nat} {x2 : Nat} {x3 : Nat} {x4 : Nat} (h : Kept v q n s) : Kept v q n (State.accHalyardHwmClr s x1 x2 x3 x4) := by
  unfold State.accHalyardHwmClr
  repeat' with_reducible
    first
    | assumption | apply State.action_keeps | apply State.put_keeps | apply Kept.of_ite | intro _ | apply foldl_keeps (Kept v q n)
    | simp only [↓Kept.mk_other] | split

theorem execHalyardHwmClr_keeps {x0 : Nat} {x1 : Nat} {x2 : Nat} {x3 : Nat} (h : Kept v q n s) : KeptOut v q n (execHalyardHwmClr x0 x1 x2 x3 s) := by
  unfold execHalyardHwmClr
  repeat' with_reducible first | assumption | apply KeptOut.next | apply State.hostOn_keeps | apply State.accHalyardHwmClr_keeps | intro _

theorem execGiveTimeout_keeps {x0 : Nat} {x1 : Nat} (h : Kept v q n s) : KeptOut v q n (execGiveTimeout x0 x1 s) := by
  unfold execGiveTimeout
  repeat' with_reducible
    first
    | assumption | apply KeptOut.next | apply State.emit_keeps | apply State.irq_keeps | apply State.bump_keeps | apply State.bput_keeps
    | apply State.setHal_keeps | intro _ | (apply Kept.of_snd; assumption) | simp only [↓Kept.mk_other] | split

theorem State.releaseHeld_keeps {x1 : Nat} {x2 : HeldGive} (h : Kept v q n s) : Kept v q n (State.releaseHeld s x1 x2) := by
  unfold State.releaseHeld
  repeat' with_reducible
    first
    | assumption | apply State.queueAt_keeps | apply State.setHal_keeps | apply State.setSal_keeps | apply State.setMast_keeps
    | apply State.ethDrain_keeps | apply Kept.of_ite | intro _ | (apply Kept.of_snd; assumption) | simp only [↓Kept.mk_other] | split

theorem execHalyardHoldRelease_keeps {x0 : Nat} (h : Kept v q n s) : KeptOut v q n (execHalyardHoldRelease x0 s) := by
  unfold execHalyardHoldRelease
  repeat' with_reducible
    first
    | assumption | apply KeptOut.next | apply State.releaseHeld_keeps | (apply Kept.of_snd; assumption) | simp only [↓Kept.mk_other] | split

theorem execLoadWindowClose_keeps {x0 : Nat} (h : Kept v q n s) : KeptOut v q n (execLoadWindowClose x0 s) := by
  unfold execLoadWindowClose
  repeat' with_reducible
    first
    | assumption | apply KeptOut.next | apply KeptOut.of_ite | apply State.raise_keeps | apply State.put_keeps | apply State.setHal_keeps
    | apply Kept.of_ite | intro _ | apply foldl_keeps (Kept v q n) | simp only [↓Kept.mk_other] | split

/-! ## NodeTab -/

theorem State.setNt_keeps {x1 : Nat} {x2 : NodeTab} (h : Kept v q n s) : Kept v q n (State.setNt s x1 x2) := by
  unfold State.setNt
  repeat' with_reducible first | assumption | apply State.setMast_keeps | simp only [↓Kept.mk_other]

theorem State.lookupKey_keeps {x1 : Nat} {x2 : Nat} (h : Kept v q n s) : Kept v q n (State.lookupKey s x1 x2).2 := by
  unfold State.lookupKey
  repeat' with_reducible first | assumption | apply State.bump_keeps | (apply Kept.of_snd; assumption) | simp only [↓Kept.mk_other] | split

theorem State.lookupShort_keeps {x1 : Nat} {x2 : Nat} (h : Kept v q n s) : Kept v q n (State.lookupShort s x1 x2).2 := by
  unfold State.lookupShort
  repeat' with_reducible
    first
    | assumption | apply State.bump_keeps | apply Kept.of_ite | intro _ | (apply Kept.of_snd; assumption) | simp only [↓Kept.mk_other] | split

theorem State.lookupAddr_keeps {x1 : Nat} {x2 : Addr} (h : Kept v q n s) : Kept v q n (State.lookupAddr s x1 x2).2 := by
  unfold State.lookupAddr
  repeat' with_reducible
    first
    | assumption | apply State.lookupKey_keeps | apply State.lookupShort_keeps | intro _ | (apply Kept.of_snd; assumption)
    | simp only [↓Kept.mk_other] | split

theorem State.putEntry_keeps {x1 : Nat} {x2 : Nat} {x3 : Entry} (h : Kept v q n s) : Kept v q n (State.putEntry s x1 x2 x3) := by
  unfold State.putEntry
  repeat' with_reducible
    first
    | assumption | apply State.raise_keeps | apply State.setNt_keeps | apply Kept.of_ite | intro _ | simp only [↓Kept.mk_other] | split

theorem State.dropEntry_keeps {x1 : Nat} {x2 : Nat} (h : Kept v q n s) : Kept v q n (State.dropEntry s x1 x2) := by
  unfold State.dropEntry
  repeat' with_reducible first | assumption | apply State.setNt_keeps | apply Kept.of_ite | intro _ | simp only [↓Kept.mk_other] | split

theorem State.tryInsert_keeps {x1 : Nat} {x2 : Parked} (h : Kept v q n s) : Kept v q n (State.tryInsert s x1 x2).2 := by
  unfold State.tryInsert
  repeat' with_reducible
    first
    | assumption | apply State.putEntry_keeps | apply State.setMast_keeps | apply Kept.of_ite | intro _ | (apply Kept.of_snd; assumption)
    | simp only [↓Kept.mk_other, ↓id_eq] | split

theorem State.park_keeps {x1 : Nat} {x2 : Parked} (h : Kept v q n s) : Kept v q n (State.park s x1 x2).2 := by
  unfold State.park
  repeat' with_reducible
    first
    | assumption | apply State.irq_keeps | apply State.bump_keeps | apply State.setNt_keeps | apply State.put_keeps | apply Kept.of_ite | intro _
    | simp only [↓Kept.mk_other] | split

theorem State.insert_keeps {x1 : Nat} {x2 : Parked} (h : Kept v q n s) : Kept v q n (State.insert s x1 x2).2 := by
  unfold State.insert
  repeat' with_reducible
    first
    | assumption | apply State.tryInsert_keeps | apply State.park_keeps | (apply Kept.of_snd; assumption) | simp only [↓Kept.mk_other] | split

theorem State.retryList_keeps {x1 : Nat} {x2 : List Parked} (h : Kept v q n s) : Kept v q n (State.retryList s x1 x2).2 := by
  induction x2 generalizing s with
  | nil => exact h
  | cons _ _ ih =>
  unfold State.retryList
  repeat' with_reducible
    first
    | assumption | apply ih | apply State.tryInsert_keeps | apply State.bump_keeps | apply Kept.of_ite | intro _ | (apply Kept.of_snd; assumption)
    | simp only [↓Kept.mk_other] | split

theorem State.pendRetry_keeps {x1 : Nat} (h : Kept v q n s) : Kept v q n (State.pendRetry s x1) := by
  unfold State.pendRetry
  repeat' with_reducible first | assumption | apply State.retryList_keeps | apply State.setNt_keeps | simp only [↓Kept.mk_other]

theorem State.rehashDone_keeps {x1 : Nat} (h : Kept v q n s) : Kept v q n (State.rehashDone s x1) := by
  unfold State.rehashDone
  repeat' with_reducible
    first
    | assumption | apply State.irq_keeps | apply State.put_keeps | apply State.put64_keeps | apply State.setNt_keeps | apply Kept.of_ite | intro _
    | simp only [↓Kept.mk_other] | split

theorem State.oldDec_keeps {x1 : Nat} (h : Kept v q n s) : Kept v q n (State.oldDec s x1) := by
  unfold State.oldDec
  repeat' with_reducible
    first
    | assumption | apply State.setNt_keeps | apply State.rehashDone_keeps | apply Kept.of_ite | intro _ | simp only [↓Kept.mk_other] | split

theorem State.promote_keeps {x1 : Nat} {x2 : Nat} {x3 : Nat} (h : Kept v q n s) : Kept v q n (State.promote s x1 x2 x3) := by
  unfold State.promote
  repeat' with_reducible
    first
    | assumption | apply State.bump_keeps | apply State.dropEntry_keeps | apply State.putEntry_keeps | intro _ | (apply Kept.of_snd; assumption)
    | simp only [↓Kept.mk_other] | split

theorem State.removeEntry_keeps {x1 : Nat} {x2 : Nat} (h : Kept v q n s) : Kept v q n (State.removeEntry s x1 x2) := by
  unfold State.removeEntry
  repeat' with_reducible
    first
    | assumption | apply State.dropEntry_keeps | apply State.oldDec_keeps | apply State.promote_keeps | apply Kept.of_ite | intro _
    | simp only [↓Kept.mk_other] | split

theorem State.refresh_keeps {x1 : Nat} {x2 : Nat} {x3 : Nat} (h : Kept v q n s) : Kept v q n (State.refresh s x1 x2 x3) := by
  unfold State.refresh
  repeat' with_reducible
    first
    | assumption | apply State.bump_keeps | apply State.setNt_keeps | apply State.setMast_keeps | apply Kept.of_ite | intro _
    | simp only [↓Kept.mk_other, ↓id_eq] | split

theorem State.meets_keeps {x1 : Nat} {x2 : Nat} {x3 : List (Nat × Nat)} (h : Kept v q n s) : Kept v q n (State.meets s x1 x2 x3) := by
  unfold State.meets
  repeat' with_reducible first | assumption | apply State.refresh_keeps | intro _ | apply foldl_keeps (Kept v q n)

theorem State.carryRefresh_keeps {x1 : Nat} {x2 : Nat} {x3 : Nat} {x4 : Entry} (h : Kept v q n s) : Kept v q n (State.carryRefresh s x1 x2 x3 x4) := by
  unfold State.carryRefresh
  repeat' with_reducible
    first
    | assumption | apply State.bump_keeps | apply State.setNt_keeps | apply Kept.of_ite | intro _ | simp only [↓Kept.mk_other] | split

theorem State.moveEntry_keeps {x1 : Nat} {x2 : Nat} {x3 : List (Nat × Nat)} (h : Kept v q n s) : Kept v q n (State.moveEntry s x1 x2 x3).2 := by
  unfold State.moveEntry
  repeat' with_reducible
    first
    | assumption | apply State.setNt_keeps | apply State.meets_keeps | apply State.bump_keeps | apply State.putEntry_keeps | apply State.oldDec_keeps
    | apply State.dropEntry_keeps | apply State.carryRefresh_keeps | (apply Kept.of_snd; assumption) | simp only [↓Kept.mk_other] | split

theorem State.moveAll_keeps {x1 : Nat} {x2 : List (Nat × Nat)} {x3 : List Nat} (h : Kept v q n s) : Kept v q n (State.moveAll s x1 x2 x3) := by
  induction x3 generalizing s with
  | nil => exact h
  | cons _ _ ih =>
  unfold State.moveAll
  repeat' with_reducible
    first
    | assumption | apply ih | apply State.moveEntry_keeps | apply State.setNt_keeps | apply Kept.of_ite | intro _ | simp only [↓Kept.mk_other]
    | split

theorem execMoverInterval_keeps {x0 : Nat} {x1 : List (Nat × Nat)} (h : Kept v q n s) : KeptOut v q n (execMoverInterval x0 x1 s) := by
  unfold execMoverInterval
  repeat' with_reducible
    first
    | assumption | apply KeptOut.next | apply KeptOut.of_ite | apply State.moveAll_keeps | apply State.pendRetry_keeps | apply State.setNt_keeps
    | apply State.irq_keeps | apply State.put_keeps | apply Kept.of_ite | intro _ | simp only [↓Kept.mk_other] | split

theorem State.rehashStart_keeps {x1 : Nat} (h : Kept v q n s) : Kept v q n (State.rehashStart s x1) := by
  unfold State.rehashStart
  repeat' with_reducible
    first
    | assumption | apply State.setNt_keeps | apply State.pendRetry_keeps | apply State.rehashDone_keeps | apply Kept.of_ite | intro _
    | simp only [↓Kept.mk_other] | split

theorem State.rehashResume_keeps {x1 : Nat} (h : Kept v q n s) : Kept v q n (State.rehashResume s x1) := by
  unfold State.rehashResume
  repeat' with_reducible
    first
    | assumption | apply State.put_keeps | apply State.setNt_keeps | apply Kept.of_ite | intro _ | simp only [↓Kept.mk_other] | split

theorem State.accRehashCtl_keeps {x1 : Nat} {x2 : Nat} {x3 : Nat} {x4 : Nat} (h : Kept v q n s) : Kept v q n (State.accRehashCtl s x1 x2 x3 x4) := by
  unfold State.accRehashCtl
  repeat' with_reducible
    first
    | assumption | apply State.action_keeps | apply State.put_keeps | apply State.rehashStart_keeps | apply State.rehashResume_keeps
    | apply Kept.of_ite | intro _ | simp only [↓Kept.mk_other] | split

theorem execRehashStart_keeps {x0 : Nat} {x1 : Nat} {x2 : Nat} {x3 : Nat} (h : Kept v q n s) : KeptOut v q n (execRehashStart x0 x1 x2 x3 s) := by
  unfold execRehashStart
  repeat' with_reducible first | assumption | apply KeptOut.next | apply State.hostOn_keeps | apply State.accRehashCtl_keeps | intro _

theorem execRehashResume_keeps {x0 : Nat} {x1 : Nat} {x2 : Nat} {x3 : Nat} (h : Kept v q n s) : KeptOut v q n (execRehashResume x0 x1 x2 x3 s) := by
  unfold execRehashResume
  repeat' with_reducible first | assumption | apply KeptOut.next | apply State.hostOn_keeps | apply State.accRehashCtl_keeps | intro _

theorem State.setAged_keeps {x1 : Nat} {x2 : Nat} (h : Kept v q n s) : Kept v q n (State.setAged s x1 x2) := by
  unfold State.setAged
  repeat' with_reducible first | assumption | apply State.setMast_keeps | intro _ | simp only [↓Kept.mk_other, ↓id_eq]

theorem State.agePos_keeps {x1 : Nat} {x2 : Nat} {x3 : List (Nat × Nat)} (h : Kept v q n s) : Kept v q n (State.agePos s x1 x2 x3) := by
  unfold State.agePos
  repeat' with_reducible
    first
    | assumption | apply State.meets_keeps | apply State.bump_keeps | apply State.pendRetry_keeps | apply State.event_keeps
    | apply State.setAged_keeps | apply State.removeEntry_keeps | apply Kept.of_ite | intro _ | simp only [↓Kept.mk_other] | split

theorem execAgerInterval_keeps {x0 : Nat} {x1 : List (Nat × Nat)} (h : Kept v q n s) : KeptOut v q n (execAgerInterval x0 x1 s) := by
  unfold execAgerInterval
  repeat' with_reducible
    first
    | assumption | apply KeptOut.next | apply KeptOut.of_ite | apply State.agePos_keeps | apply State.setNt_keeps | apply Kept.of_ite | intro _
    | apply foldl_keeps (Kept v q n) | simp only [↓Kept.mk_other] | split

theorem execNowAdvance_keeps {x0 : Nat} (h : Kept v q n s) : KeptOut v q n (execNowAdvance x0 s) := by
  unfold execNowAdvance
  repeat' with_reducible first | assumption | apply KeptOut.next | apply State.setNt_keeps | simp only [↓Kept.mk_other]

theorem State.learn_keeps {x1 : Nat} {x2 : Nat} {x3 : Nat} {x4 : Addr} (h : Kept v q n s) : Kept v q n (State.learn s x1 x2 x3 x4) := by
  unfold State.learn
  repeat' with_reducible
    first
    | assumption | apply State.lookupKey_keeps | apply State.refresh_keeps | apply State.bump_keeps | apply State.insert_keeps | apply Kept.of_ite
    | intro _ | (apply Kept.of_snd; assumption) | simp only [↓Kept.mk_other] | split

theorem State.ntDone_keeps {x1 : Nat} {x2 : CmdStatus} (h : Kept v q n s) : Kept v q n (State.ntDone s x1 x2) := by
  unfold State.ntDone
  repeat' with_reducible first | assumption | apply State.put_keeps

theorem State.ntCommand_keeps {x1 : Nat} {x2 : Nat} {x3 : Nat} {x4 : State → CmdStatus × State} (hf4 : ∀ y0, Kept v q n y0 → Kept v q n (x4 y0).2) (h : Kept v q n s) : Kept v q n (State.ntCommand s x1 x2 x3 x4) := by
  unfold State.ntCommand
  repeat' with_reducible first | assumption | apply State.action_keeps | apply State.ntDone_keeps | apply hf4 | intro _ | simp only [↓Kept.mk_other]

theorem State.showHit_keeps {x1 : Nat} {x2 : Nat} {x3 : Nat} (h : Kept v q n s) : Kept v q n (State.showHit s x1 x2 x3) := by
  unfold State.showHit
  repeat' with_reducible first | assumption | apply State.setWord_keeps | apply Kept.of_ite | intro _ | simp only [↓Kept.mk_other] | split

theorem State.accNodetabLookup_keeps {x1 : Nat} {x2 : Nat} {x3 : Nat} (h : Kept v q n s) : Kept v q n (State.accNodetabLookup s x1 x2 x3) := by
  unfold State.accNodetabLookup
  repeat' with_reducible
    first
    | assumption | apply State.ntCommand_keeps | apply State.lookupKey_keeps | apply State.showHit_keeps | apply State.setWord_keeps | intro _
    | (apply Kept.of_snd; assumption) | simp only [↓Kept.mk_other] | split

theorem execNodetabLookup_keeps {x0 : Nat} {x1 : Nat} {x2 : Nat} (h : Kept v q n s) : KeptOut v q n (execNodetabLookup x0 x1 x2 s) := by
  unfold execNodetabLookup
  repeat' with_reducible first | assumption | apply KeptOut.next | apply State.hostOn_keeps | apply State.accNodetabLookup_keeps | intro _

theorem State.accNodetabInsert_keeps {x1 : Nat} {x2 : Nat} {x3 : Nat} (h : Kept v q n s) : Kept v q n (State.accNodetabInsert s x1 x2 x3) := by
  unfold State.accNodetabInsert
  repeat' with_reducible first | assumption | apply State.ntCommand_keeps | apply State.insert_keeps | intro _

theorem execNodetabInsert_keeps {x0 : Nat} {x1 : Nat} {x2 : Nat} (h : Kept v q n s) : KeptOut v q n (execNodetabInsert x0 x1 x2 s) := by
  unfold execNodetabInsert
  repeat' with_reducible first | assumption | apply KeptOut.next | apply State.hostOn_keeps | apply State.accNodetabInsert_keeps | intro _

theorem State.accNodetabDelete_keeps {x1 : Nat} {x2 : Nat} {x3 : Nat} (h : Kept v q n s) : Kept v q n (State.accNodetabDelete s x1 x2 x3) := by
  unfold State.accNodetabDelete
  repeat' with_reducible
    first
    | assumption | apply State.ntCommand_keeps | apply State.lookupKey_keeps | apply State.pendRetry_keeps | apply State.setAged_keeps
    | apply State.removeEntry_keeps | intro _ | (apply Kept.of_snd; assumption) | simp only [↓Kept.mk_other] | split

theorem execNodetabDelete_keeps {x0 : Nat} {x1 : Nat} {x2 : Nat} (h : Kept v q n s) : KeptOut v q n (execNodetabDelete x0 x1 x2 s) := by
  unfold execNodetabDelete
  repeat' with_reducible first | assumption | apply KeptOut.next | apply State.hostOn_keeps | apply State.accNodetabDelete_keeps | intro _

theorem State.unshort_keeps {x1 : Nat} {x2 : Nat} (h : Kept v q n s) : Kept v q n (State.unshort s x1 x2) := by
  unfold State.unshort
  repeat' with_reducible first | assumption | apply State.setNt_keeps | apply Kept.of_ite | intro _ | simp only [↓Kept.mk_other] | split

theorem State.freeNode_keeps {x1 : Nat} {x2 : Nat} (h : Kept v q n s) : Kept v q n (State.freeNode s x1 x2) := by
  unfold State.freeNode
  repeat' with_reducible
    first
    | assumption | apply State.removeEntry_keeps | apply State.chainRemove_keeps | apply State.unshort_keeps | apply State.pendRetry_keeps
    | apply State.setMast_keeps | intro _ | (apply Kept.of_snd; assumption) | apply foldl_keeps (Kept v q n) | simp only [↓Kept.mk_other, ↓id_eq]
    | split

theorem State.accNodetabFree_keeps {x1 : Nat} {x2 : Nat} {x3 : Nat} (h : Kept v q n s) : Kept v q n (State.accNodetabFree s x1 x2 x3) := by
  unfold State.accNodetabFree
  repeat' with_reducible first | assumption | apply State.ntCommand_keeps | apply State.freeNode_keeps | apply Kept.of_ite | intro _ | split

theorem execNodetabFree_keeps {x0 : Nat} {x1 : Nat} {x2 : Nat} (h : Kept v q n s) : KeptOut v q n (execNodetabFree x0 x1 x2 s) := by
  unfold execNodetabFree
  repeat' with_reducible first | assumption | apply KeptOut.next | apply State.hostOn_keeps | apply State.accNodetabFree_keeps | intro _

theorem State.accShortSet_keeps {x1 : Nat} {x2 : Nat} {x3 : Nat} (h : Kept v q n s) : Kept v q n (State.accShortSet s x1 x2 x3) := by
  unfold State.accShortSet
  repeat' with_reducible
    first
    | assumption | apply State.ntCommand_keeps | apply State.unshort_keeps | apply State.setNt_keeps | apply State.setMast_keeps | apply Kept.of_ite
    | intro _ | (apply Kept.of_snd; assumption) | simp only [↓Kept.mk_other, ↓id_eq] | split

theorem execShortSet_keeps {x0 : Nat} {x1 : Nat} {x2 : Nat} (h : Kept v q n s) : KeptOut v q n (execShortSet x0 x1 x2 s) := by
  unfold execShortSet
  repeat' with_reducible first | assumption | apply KeptOut.next | apply State.hostOn_keeps | apply State.accShortSet_keeps | intro _

theorem State.accShortClr_keeps {x1 : Nat} {x2 : Nat} {x3 : Nat} (h : Kept v q n s) : Kept v q n (State.accShortClr s x1 x2 x3) := by
  unfold State.accShortClr
  repeat' with_reducible
    first
    | assumption | apply State.ntCommand_keeps | apply State.unshort_keeps | apply State.setMast_keeps | apply Kept.of_ite | intro _
    | simp only [↓Kept.mk_other, ↓id_eq] | split

theorem execShortClr_keeps {x0 : Nat} {x1 : Nat} {x2 : Nat} (h : Kept v q n s) : KeptOut v q n (execShortClr x0 x1 x2 s) := by
  unfold execShortClr
  repeat' with_reducible first | assumption | apply KeptOut.next | apply State.hostOn_keeps | apply State.accShortClr_keeps | intro _

theorem State.accSetPort_keeps {x1 : Nat} {x2 : Nat} {x3 : Nat} (h : Kept v q n s) : Kept v q n (State.accSetPort s x1 x2 x3) := by
  unfold State.accSetPort
  repeat' with_reducible
    first
    | assumption | apply State.ntCommand_keeps | apply State.lookupKey_keeps | apply State.setNt_keeps | apply State.setMast_keeps | intro _
    | (apply Kept.of_snd; assumption) | simp only [↓Kept.mk_other, ↓id_eq] | split

theorem execSetPort_keeps {x0 : Nat} {x1 : Nat} {x2 : Nat} (h : Kept v q n s) : KeptOut v q n (execSetPort x0 x1 x2 s) := by
  unfold execSetPort
  repeat' with_reducible first | assumption | apply KeptOut.next | apply State.hostOn_keeps | apply State.accSetPort_keeps | intro _

theorem State.accNodetabMove_keeps {x1 : Nat} {x2 : Nat} {x3 : Nat} {x4 : List (Nat × Nat)} (h : Kept v q n s) : Kept v q n (State.accNodetabMove s x1 x2 x3 x4) := by
  unfold State.accNodetabMove
  repeat' with_reducible
    first
    | assumption | apply State.ntCommand_keeps | apply State.lookupKey_keeps | apply State.moveEntry_keeps | apply Kept.of_ite | intro _
    | (apply Kept.of_snd; assumption) | simp only [↓Kept.mk_other] | split

theorem execNodetabMove_keeps {x0 : Nat} {x1 : Nat} {x2 : Nat} {x3 : List (Nat × Nat)} (h : Kept v q n s) : KeptOut v q n (execNodetabMove x0 x1 x2 x3 s) := by
  unfold execNodetabMove
  repeat' with_reducible first | assumption | apply KeptOut.next | apply State.hostOn_keeps | apply State.accNodetabMove_keeps | intro _

theorem execTableDirectWrite_keeps {x0 : Nat} {x1 : Nat} (h : Kept v q n s) : KeptOut v q n (execTableDirectWrite x0 x1 s) := by
  unfold execTableDirectWrite
  repeat' with_reducible first | assumption | apply KeptOut.next | apply State.emit_keeps | apply State.bump_keeps

end Sys2Proof.Machine
end

