-- ==== Sys2Proof/Laws/KeepsKeys.lean ====
section
/-! SUPPORT. What every operation keeps (see Keeps): one lemma for each operation of Keys, Sessions, SailOps, Power, Transmit, Domains, Gates, Lanes, Receive, Time. -/

namespace Sys2Proof.Machine

variable {v : Variant} {q : List Instr} {n : Nat} {s t : State}

/-! ## Keys -/

theorem State.setKeys_keeps {x1 : Nat} {x2 : KeyEng} (h : Kept v q n s) : Kept v q n (State.setKeys s x1 x2) := by
  unfold State.setKeys
  repeat' with_reducible first | assumption | apply State.setMast_keeps | simp only [↓Kept.mk_other]

theorem State.useSlot_keeps {x1 : Nat} {x2 : Nat} {x3 : Usage} (h : Kept v q n s) : Kept v q n (State.useSlot s x1 x2 x3).2 := by
  unfold State.useSlot
  repeat' with_reducible
    first
    | assumption | apply State.bump_keeps | apply State.setKeys_keeps | apply Kept.of_ite | intro _ | simp only [↓Kept.mk_other] | split

theorem State.drbgRequest_keeps {x1 : Nat} {x2 : Nat} {y} (e : State.drbgRequest s x1 x2 = some (y, t)) (h : Kept v q n s) : Kept v q n t := by
  unfold State.drbgRequest at e
  try dsimp only at e
  repeat' split at e
  all_goals first | cases e | skip
  all_goals try simp only [Option.some.injEq, Prod.mk.injEq] at e
  all_goals try obtain ⟨rfl, rfl⟩ := e
  all_goals try simp only [Option.map_eq_some_iff] at e
  all_goals try obtain ⟨_, e, rfl⟩ := e
  all_goals repeat' with_reducible
    first
    | assumption | apply State.bump_keeps | apply State.put_keeps | apply State.draw_keeps | apply Kept.of_ite | intro _ | simp only [↓Kept.mk_other]
    | split

theorem State.loadSlot_keeps {x1 : Nat} {x2 : Nat} {x3 : Nat} {x4 : Nat} {x5 : List Nat} {x6 : List Nat} (h : Kept v q n s) : Kept v q n (State.loadSlot s x1 x2 x3 x4 x5 x6) := by
  unfold State.loadSlot
  repeat' with_reducible first | assumption | apply State.setKeys_keeps | simp only [↓Kept.mk_other]

theorem State.keyDerive_keeps {x1 : Nat} (h : Kept v q n s) : Kept v q n (State.keyDerive s x1).2 := by
  unfold State.keyDerive
  repeat' with_reducible
    first
    | assumption | apply State.loadSlot_keeps | apply State.useSlot_keeps | apply Kept.of_ite | intro _ | apply Kept.of_getD
    | (apply Kept.of_snd; assumption) | simp only [↓Kept.mk_other] | split

theorem State.keyGenerate_keeps {x1 : Nat} (h : Kept v q n s) : Kept v q n (State.keyGenerate s x1).2 := by
  unfold State.keyGenerate
  repeat' with_reducible
    first
    | assumption | (apply State.drbgRequest_keeps; assumption) | apply State.loadSlot_keeps | (apply Kept.of_snd; assumption)
    | simp only [↓Kept.mk_other] | split

theorem State.keyImport_keeps {x1 : Nat} (h : Kept v q n s) : Kept v q n (State.keyImport s x1).2 := by
  unfold State.keyImport
  repeat' with_reducible
    first
    | assumption | apply State.useSlot_keeps | apply State.loadSlot_keeps | apply State.bump_keeps | apply Kept.of_ite | intro _
    | (apply Kept.of_snd; assumption) | simp only [↓Kept.mk_other] | split

theorem State.keyInvalidate_keeps {x1 : Nat} (h : Kept v q n s) : Kept v q n (State.keyInvalidate s x1).2 := by
  unfold State.keyInvalidate
  repeat' with_reducible first | assumption | apply State.setKeys_keeps | apply Kept.of_ite | intro _ | simp only [↓Kept.mk_other] | split

theorem State.keyLock_keeps {x1 : Nat} (h : Kept v q n s) : Kept v q n (State.keyLock s x1).2 := by
  unfold State.keyLock
  repeat' with_reducible first | assumption | apply State.setKeys_keeps | apply Kept.of_ite | intro _ | simp only [↓Kept.mk_other] | split

theorem State.uncache_keeps {x1 : Nat} {x2 : Nat} (h : Kept v q n s) : Kept v q n (State.uncache s x1 x2) := by
  unfold State.uncache
  repeat' with_reducible first | assumption | apply State.setKeys_keeps | intro _ | simp only [↓Kept.mk_other]

theorem State.setKeySec_keeps {x1 : Nat} {x2 : Nat} {x3 : KeySec} (h : Kept v q n s) : Kept v q n (State.setKeySec s x1 x2 x3) := by
  unfold State.setKeySec
  repeat' with_reducible first | assumption | apply State.uncache_keeps | apply State.setMast_keeps | simp only [↓Kept.mk_other]

theorem State.nodeWrap_keeps {x1 : Nat} {x2 : Nat} {x3 : Nat} {x4 : Nat} (h : Kept v q n s) : Kept v q n (State.nodeWrap s x1 x2 x3 x4).2 := by
  unfold State.nodeWrap
  repeat' with_reducible
    first
    | assumption | apply State.useSlot_keeps | apply State.setKeySec_keeps | (apply Kept.of_snd; assumption) | simp only [↓Kept.mk_other] | split

theorem State.nodeSet_keeps {x1 : Nat} (h : Kept v q n s) : Kept v q n (State.nodeSet s x1).2 := by
  unfold State.nodeSet
  repeat' with_reducible
    first
    | assumption | apply State.useSlot_keeps | apply State.bump_keeps | apply State.nodeWrap_keeps | apply Kept.of_ite | intro _
    | (apply Kept.of_snd; assumption) | simp only [↓Kept.mk_other] | split

theorem State.nodeClear_keeps {x1 : Nat} (h : Kept v q n s) : Kept v q n (State.nodeClear s x1).2 := by
  unfold State.nodeClear
  repeat' with_reducible first | assumption | apply State.setKeySec_keeps | apply Kept.of_ite | intro _ | split

theorem State.nodeRewrap_keeps {x1 : Nat} (h : Kept v q n s) : Kept v q n (State.nodeRewrap s x1).2 := by
  unfold State.nodeRewrap
  repeat' with_reducible
    first
    | assumption | apply State.useSlot_keeps | apply State.bump_keeps | apply State.nodeWrap_keeps | apply Kept.of_ite | intro _
    | (apply Kept.of_snd; assumption) | simp only [↓Kept.mk_other] | split

theorem State.keyDone_keeps {x1 : Nat} {x2 : KeyResult} (h : Kept v q n s) : Kept v q n (State.keyDone s x1 x2) := by
  unfold State.keyDone
  repeat' with_reducible first | assumption | apply State.irq_keeps | apply State.put_keeps

theorem State.keyCommand_keeps {x1 : Nat} {x2 : Nat} {x3 : Nat} {x4 : State → KeyResult × State} (hf4 : ∀ y0, Kept v q n y0 → Kept v q n (x4 y0).2) (h : Kept v q n s) : Kept v q n (State.keyCommand s x1 x2 x3 x4) := by
  unfold State.keyCommand
  repeat' with_reducible
    first
    | assumption | apply State.action_keeps | apply State.lockv_keeps | apply State.keyDone_keeps | apply hf4 | apply Kept.of_ite | intro _
    | simp only [↓Kept.mk_other] | split

theorem State.accDerive_keeps {x1 : Nat} {x2 : Nat} {x3 : Nat} (h : Kept v q n s) : Kept v q n (State.accDerive s x1 x2 x3) := by
  unfold State.accDerive
  repeat' with_reducible first | assumption | apply State.keyCommand_keeps | apply State.keyDerive_keeps | intro _

theorem State.accGenerate_keeps {x1 : Nat} {x2 : Nat} {x3 : Nat} (h : Kept v q n s) : Kept v q n (State.accGenerate s x1 x2 x3) := by
  unfold State.accGenerate
  repeat' with_reducible first | assumption | apply State.keyCommand_keeps | apply State.keyGenerate_keeps | intro _

theorem State.accImport_keeps {x1 : Nat} {x2 : Nat} {x3 : Nat} (h : Kept v q n s) : Kept v q n (State.accImport s x1 x2 x3) := by
  unfold State.accImport
  repeat' with_reducible first | assumption | apply State.keyCommand_keeps | apply State.keyImport_keeps | intro _

theorem State.accInvalidate_keeps {x1 : Nat} {x2 : Nat} {x3 : Nat} (h : Kept v q n s) : Kept v q n (State.accInvalidate s x1 x2 x3) := by
  unfold State.accInvalidate
  repeat' with_reducible first | assumption | apply State.keyCommand_keeps | apply State.keyInvalidate_keeps | intro _

theorem State.accKeyLock_keeps {x1 : Nat} {x2 : Nat} {x3 : Nat} (h : Kept v q n s) : Kept v q n (State.accKeyLock s x1 x2 x3) := by
  unfold State.accKeyLock
  repeat' with_reducible first | assumption | apply State.keyCommand_keeps | apply State.keyLock_keeps | intro _

theorem State.accNodeSet_keeps {x1 : Nat} {x2 : Nat} {x3 : Nat} (h : Kept v q n s) : Kept v q n (State.accNodeSet s x1 x2 x3) := by
  unfold State.accNodeSet
  repeat' with_reducible first | assumption | apply State.keyCommand_keeps | apply State.nodeSet_keeps | intro _

theorem State.accNodeClear_keeps {x1 : Nat} {x2 : Nat} {x3 : Nat} (h : Kept v q n s) : Kept v q n (State.accNodeClear s x1 x2 x3) := by
  unfold State.accNodeClear
  repeat' with_reducible first | assumption | apply State.keyCommand_keeps | apply State.nodeClear_keeps | intro _

theorem State.accNodeRewrap_keeps {x1 : Nat} {x2 : Nat} {x3 : Nat} (h : Kept v q n s) : Kept v q n (State.accNodeRewrap s x1 x2 x3) := by
  unfold State.accNodeRewrap
  repeat' with_reducible first | assumption | apply State.keyCommand_keeps | apply State.nodeRewrap_keeps | intro _

theorem State.accPersist_keeps {x1 : Nat} {x2 : Nat} {x3 : Nat} (h : Kept v q n s) : Kept v q n (State.accPersist s x1 x2 x3) := by
  unfold State.accPersist
  repeat' with_reducible
    first
    | assumption | apply State.action_keeps | apply State.lockv_keeps | apply State.keyDone_keeps | apply State.nvStart_keeps | apply State.put_keeps
    | apply State.setKeys_keeps | apply Kept.of_ite | intro _ | simp only [↓Kept.mk_other] | split

theorem execDerive_keeps {x0 : Nat} {x1 : Nat} {x2 : Nat} (h : Kept v q n s) : KeptOut v q n (execDerive x0 x1 x2 s) := by
  unfold execDerive
  repeat' with_reducible first | assumption | apply KeptOut.next | apply State.hostOn_keeps | apply State.accDerive_keeps | intro _

theorem execGenerate_keeps {x0 : Nat} {x1 : Nat} {x2 : Nat} (h : Kept v q n s) : KeptOut v q n (execGenerate x0 x1 x2 s) := by
  unfold execGenerate
  repeat' with_reducible first | assumption | apply KeptOut.next | apply State.hostOn_keeps | apply State.accGenerate_keeps | intro _

theorem execImport_keeps {x0 : Nat} {x1 : Nat} {x2 : Nat} (h : Kept v q n s) : KeptOut v q n (execImport x0 x1 x2 s) := by
  unfold execImport
  repeat' with_reducible first | assumption | apply KeptOut.next | apply State.hostOn_keeps | apply State.accImport_keeps | intro _

theorem execInvalidate_keeps {x0 : Nat} {x1 : Nat} {x2 : Nat} (h : Kept v q n s) : KeptOut v q n (execInvalidate x0 x1 x2 s) := by
  unfold execInvalidate
  repeat' with_reducible first | assumption | apply KeptOut.next | apply State.hostOn_keeps | apply State.accInvalidate_keeps | intro _

theorem execKeyLock_keeps {x0 : Nat} {x1 : Nat} {x2 : Nat} (h : Kept v q n s) : KeptOut v q n (execKeyLock x0 x1 x2 s) := by
  unfold execKeyLock
  repeat' with_reducible first | assumption | apply KeptOut.next | apply State.hostOn_keeps | apply State.accKeyLock_keeps | intro _

theorem execNodeSet_keeps {x0 : Nat} {x1 : Nat} {x2 : Nat} (h : Kept v q n s) : KeptOut v q n (execNodeSet x0 x1 x2 s) := by
  unfold execNodeSet
  repeat' with_reducible first | assumption | apply KeptOut.next | apply State.hostOn_keeps | apply State.accNodeSet_keeps | intro _

theorem execNodeClear_keeps {x0 : Nat} {x1 : Nat} {x2 : Nat} (h : Kept v q n s) : KeptOut v q n (execNodeClear x0 x1 x2 s) := by
  unfold execNodeClear
  repeat' with_reducible first | assumption | apply KeptOut.next | apply State.hostOn_keeps | apply State.accNodeClear_keeps | intro _

theorem execNodeRewrap_keeps {x0 : Nat} {x1 : Nat} {x2 : Nat} (h : Kept v q n s) : KeptOut v q n (execNodeRewrap x0 x1 x2 s) := by
  unfold execNodeRewrap
  repeat' with_reducible first | assumption | apply KeptOut.next | apply State.hostOn_keeps | apply State.accNodeRewrap_keeps | intro _

theorem execPersist_keeps {x0 : Nat} {x1 : Nat} {x2 : Nat} (h : Kept v q n s) : KeptOut v q n (execPersist x0 x1 x2 s) := by
  unfold execPersist
  repeat' with_reducible first | assumption | apply KeptOut.next | apply State.hostOn_keeps | apply State.accPersist_keeps | intro _

theorem State.persistDone_keeps {x1 : Nat} {x2 : Bool} (h : Kept v q n s) : Kept v q n (State.persistDone s x1 x2) := by
  unfold State.persistDone
  repeat' with_reducible
    first
    | assumption | apply State.setKeys_keeps | apply State.keyDone_keeps | apply State.bump_keeps | apply State.put_keeps | apply State.nvDone_keeps
    | apply State.irq_keeps | apply Kept.of_ite | intro _ | (apply Kept.of_snd; assumption) | apply foldl_keeps (Kept v q n)
    | simp only [↓Kept.mk_other] | split

theorem execPersistComplete_keeps {x0 : Nat} {x1 : Bool} (h : Kept v q n s) : KeptOut v q n (execPersistComplete x0 x1 s) := by
  unfold execPersistComplete
  repeat' with_reducible first | assumption | apply KeptOut.next | apply State.persistDone_keeps

theorem State.rebuildKeys_keeps {x1 : Nat} (h : Kept v q n s) : Kept v q n (State.rebuildKeys s x1) := by
  unfold State.rebuildKeys
  repeat' with_reducible
    first
    | assumption | apply State.setKeys_keeps | apply State.event_keeps | apply State.irq_keeps | apply State.setWord_keeps | apply State.put_keeps
    | apply Kept.of_ite | intro _ | apply Kept.of_getD | (apply Kept.of_snd; assumption) | apply foldl_keeps (Kept v q n)
    | simp only [↓Kept.mk_other] | split

theorem execKeyWordDirectWrite_keeps {x0 : Nat} {x1 : Nat} (h : Kept v q n s) : KeptOut v q n (execKeyWordDirectWrite x0 x1 s) := by
  unfold execKeyWordDirectWrite
  repeat' with_reducible first | assumption | apply KeptOut.next | apply State.emit_keeps | apply State.bump_keeps

theorem State.noKey_keeps {x1 : Nat} (h : Kept v q n s) : Kept v q n (State.noKey s x1) := by
  unfold State.noKey
  repeat' with_reducible first | assumption | apply State.bump_keeps

theorem State.nodeKey_keeps {x1 : Nat} {x2 : Nat} (h : Kept v q n s) : Kept v q n (State.nodeKey s x1 x2).2 := by
  unfold State.nodeKey
  repeat' with_reducible
    first
    | assumption | apply State.event_keeps | apply State.noKey_keeps | apply State.bump_keeps | apply State.irq_keeps | apply State.useSlot_keeps
    | apply State.setKeys_keeps | apply Kept.of_ite | intro _ | (apply Kept.of_snd; assumption) | simp only [↓Kept.mk_other] | split

theorem State.groupKey_keeps {x1 : Nat} {x2 : Nat} {x3 : Usage} (h : Kept v q n s) : Kept v q n (State.groupKey s x1 x2 x3).2 := by
  unfold State.groupKey
  repeat' with_reducible
    first
    | assumption | apply State.noKey_keeps | apply State.useSlot_keeps | apply Kept.of_ite | intro _ | (apply Kept.of_snd; assumption)
    | simp only [↓Kept.mk_other] | split

theorem State.jobCheck_keeps {x1 : Nat} {x2 : Job} (h : Kept v q n s) : Kept v q n (State.jobCheck s x1 x2).2.2 := by
  unfold State.jobCheck
  repeat' with_reducible
    first
    | assumption | apply State.useSlot_keeps | apply Kept.of_ite | intro _ | (apply Kept.of_snd; assumption) | simp only [↓Kept.mk_other] | split

theorem State.accJobGo_keeps {x1 : Nat} {x2 : Nat} {x3 : Nat} {x4 : Nat} (h : Kept v q n s) : Kept v q n (State.accJobGo s x1 x2 x3 x4) := by
  unfold State.accJobGo
  repeat' with_reducible
    first
    | assumption | apply State.action_keeps | apply State.jobCheck_keeps | apply State.bput_keeps | apply State.setKeys_keeps | apply Kept.of_ite
    | intro _ | simp only [↓Kept.mk_other] | split

theorem execCryptoJobGo_keeps {x0 : Nat} {x1 : Nat} {x2 : Nat} {x3 : Nat} (h : Kept v q n s) : KeptOut v q n (execCryptoJobGo x0 x1 x2 x3 s) := by
  unfold execCryptoJobGo
  repeat' with_reducible first | assumption | apply KeptOut.next | apply State.hostOn_keeps | apply State.accJobGo_keeps | intro _

theorem State.jobEnd_keeps {x1 : Nat} {x2 : Nat} {x3 : Nat} {x4 : Nat} (h : Kept v q n s) : Kept v q n (State.jobEnd s x1 x2 x3 x4) := by
  unfold State.jobEnd
  repeat' with_reducible
    first
    | assumption | apply State.bump_keeps | apply State.setWord_keeps | apply State.setKeys_keeps | intro _ | simp only [↓Kept.mk_other]

theorem State.setTag_keeps {x1 : Nat} {x2 : Nat} {x3 : List Nat} (h : Kept v q n s) : Kept v q n (State.setTag s x1 x2 x3) := by
  unfold State.setTag
  repeat' with_reducible first | assumption | apply State.setWord_keeps | intro _ | apply foldl_keeps (Kept v q n)

theorem execCryptoJobDone_keeps {x0 : Nat} {x1 : Nat} (h : Kept v q n s) : KeptOut v q n (execCryptoJobDone x0 x1 s) := by
  unfold execCryptoJobDone
  repeat' with_reducible
    first
    | assumption | apply KeptOut.next | apply State.jobEnd_keeps | apply State.setTag_keeps | apply State.bump_keeps
    | (apply State.allocItem_keeps; assumption) | apply State.setSal_keeps | intro _ | (apply Kept.of_snd; assumption) | simp only [↓Kept.mk_other]
    | split

theorem State.rsaHold_keeps {x1 : Nat} {x2 : Option RsaKey} (h : Kept v q n s) : Kept v q n (State.rsaHold s x1 x2) := by
  unfold State.rsaHold
  repeat' with_reducible
    first
    | assumption | apply State.put_keeps | apply State.setKeys_keeps | apply Kept.of_ite | intro _ | apply Kept.of_getD
    | apply foldl_keeps (Kept v q n) | simp only [↓Kept.mk_other] | split

theorem State.rsaStart_keeps {x1 : Nat} {x2 : RsaOp} (h : Kept v q n s) : Kept v q n (State.rsaStart s x1 x2) := by
  unfold State.rsaStart
  repeat' with_reducible first | assumption | apply State.put_keeps | apply State.setKeys_keeps | simp only [↓Kept.mk_other]

theorem State.rsaLoad_keeps {x1 : Nat} (h : Kept v q n s) : Kept v q n (State.rsaLoad s x1) := by
  unfold State.rsaLoad
  repeat' with_reducible
    first
    | assumption | apply State.rsaStart_keeps | apply State.useSlot_keeps | apply Kept.of_ite | intro _ | (apply Kept.of_snd; assumption)
    | simp only [↓Kept.mk_other] | split

theorem State.rsaSignWith_keeps {x1 : Nat} {x2 : Nat} {x3 : List Nat} {x4 : List Nat} (h : Kept v q n s) : Kept v q n (State.rsaSignWith s x1 x2 x3 x4) := by
  unfold State.rsaSignWith
  repeat' with_reducible
    first
    | assumption | apply State.rsaStart_keeps | (apply State.drbgRequest_keeps; assumption) | (apply Kept.of_snd; assumption)
    | simp only [↓Kept.mk_other] | split

theorem State.rsaVerify_keeps {x1 : Nat} (h : Kept v q n s) : Kept v q n (State.rsaVerify s x1) := by
  unfold State.rsaVerify
  repeat' with_reducible first | assumption | apply State.rsaStart_keeps | apply Kept.of_ite | intro _ | simp only [↓Kept.mk_other] | split

theorem State.rsaCommand_keeps {x1 : Nat} {x2 : Nat} {x3 : Nat} {x4 : State → State} (hf4 : ∀ y0, Kept v q n y0 → Kept v q n (x4 y0)) (h : Kept v q n s) : Kept v q n (State.rsaCommand s x1 x2 x3 x4) := by
  unfold State.rsaCommand
  repeat' with_reducible first | assumption | apply State.action_keeps | apply State.lockv_keeps | apply hf4 | apply Kept.of_ite | intro _ | split

theorem State.accRsaLoad_keeps {x1 : Nat} {x2 : Nat} {x3 : Nat} (h : Kept v q n s) : Kept v q n (State.accRsaLoad s x1 x2 x3) := by
  unfold State.accRsaLoad
  repeat' with_reducible first | assumption | apply State.rsaCommand_keeps | apply State.rsaLoad_keeps | intro _

theorem State.accRsaSign_keeps {x1 : Nat} {x2 : Nat} {x3 : Nat} (h : Kept v q n s) : Kept v q n (State.accRsaSign s x1 x2 x3) := by
  unfold State.accRsaSign
  repeat' with_reducible first | assumption | apply State.rsaCommand_keeps | apply State.rsaSignWith_keeps | intro _

theorem State.accRsaVerify_keeps {x1 : Nat} {x2 : Nat} {x3 : Nat} (h : Kept v q n s) : Kept v q n (State.accRsaVerify s x1 x2 x3) := by
  unfold State.accRsaVerify
  repeat' with_reducible first | assumption | apply State.rsaCommand_keeps | apply State.rsaVerify_keeps | intro _

theorem State.accRsaAttest_keeps {x1 : Nat} {x2 : Nat} {x3 : Nat} (h : Kept v q n s) : Kept v q n (State.accRsaAttest s x1 x2 x3) := by
  unfold State.accRsaAttest
  repeat' with_reducible
    first
    | assumption | apply State.rsaCommand_keeps | apply State.rsaStart_keeps | apply State.rsaSignWith_keeps | apply Kept.of_ite | intro _ | split

theorem State.accRsaClear_keeps {x1 : Nat} {x2 : Nat} {x3 : Nat} (h : Kept v q n s) : Kept v q n (State.accRsaClear s x1 x2 x3) := by
  unfold State.accRsaClear
  repeat' with_reducible
    first
    | assumption | apply State.rsaCommand_keeps | apply State.irq_keeps | apply State.put_keeps | apply State.rsaHold_keeps | intro _

theorem execRsaLoad_keeps {x0 : Nat} {x1 : Nat} {x2 : Nat} (h : Kept v q n s) : KeptOut v q n (execRsaLoad x0 x1 x2 s) := by
  unfold execRsaLoad
  repeat' with_reducible first | assumption | apply KeptOut.next | apply State.hostOn_keeps | apply State.accRsaLoad_keeps | intro _

theorem execRsaSign_keeps {x0 : Nat} {x1 : Nat} {x2 : Nat} (h : Kept v q n s) : KeptOut v q n (execRsaSign x0 x1 x2 s) := by
  unfold execRsaSign
  repeat' with_reducible first | assumption | apply KeptOut.next | apply State.hostOn_keeps | apply State.accRsaSign_keeps | intro _

theorem execRsaVerify_keeps {x0 : Nat} {x1 : Nat} {x2 : Nat} (h : Kept v q n s) : KeptOut v q n (execRsaVerify x0 x1 x2 s) := by
  unfold execRsaVerify
  repeat' with_reducible first | assumption | apply KeptOut.next | apply State.hostOn_keeps | apply State.accRsaVerify_keeps | intro _

theorem execRsaAttest_keeps {x0 : Nat} {x1 : Nat} {x2 : Nat} (h : Kept v q n s) : KeptOut v q n (execRsaAttest x0 x1 x2 s) := by
  unfold execRsaAttest
  repeat' with_reducible first | assumption | apply KeptOut.next | apply State.hostOn_keeps | apply State.accRsaAttest_keeps | intro _

theorem execRsaClear_keeps {x0 : Nat} {x1 : Nat} {x2 : Nat} (h : Kept v q n s) : KeptOut v q n (execRsaClear x0 x1 x2 s) := by
  unfold execRsaClear
  repeat' with_reducible first | assumption | apply KeptOut.next | apply State.hostOn_keeps | apply State.accRsaClear_keeps | intro _

theorem execRsaDone_keeps {x0 : Nat} (h : Kept v q n s) : KeptOut v q n (execRsaDone x0 s) := by
  unfold execRsaDone
  repeat' with_reducible
    first
    | assumption | apply KeptOut.next | apply KeptOut.of_ite | apply State.put_keeps | apply State.setKeys_keeps | apply State.rsaHold_keeps
    | apply State.bump_keeps | apply State.irq_keeps | apply Kept.of_ite | intro _ | (apply Kept.of_snd; assumption) | apply foldl_keeps (Kept v q n)
    | simp only [↓Kept.mk_other] | split

theorem execDrbgOutRead_keeps {x0 : Nat} {x1 : Nat} {x2 : Nat} (h : Kept v q n s) : KeptOut v q n (execDrbgOutRead x0 x1 x2 s) := by
  unfold execDrbgOutRead
  repeat' with_reducible
    first
    | assumption | apply KeptOut.next | apply State.action_keeps | (apply State.drbgRequest_keeps; assumption) | apply State.bump_keeps
    | apply State.put_keeps | intro _ | (apply Kept.of_snd; assumption) | simp only [↓Kept.mk_other] | split

theorem State.drbgSeed_keeps {x1 : Nat} (h : Kept v q n s) : Kept v q n (State.drbgSeed s x1) := by
  unfold State.drbgSeed
  repeat' with_reducible first | assumption | apply State.bump_keeps | apply State.put_keeps

theorem State.accReseed_keeps {x1 : Nat} {x2 : Nat} {x3 : Nat} {x4 : Nat} {x5 : Bool} (h : Kept v q n s) : Kept v q n (State.accReseed s x1 x2 x3 x4 x5) := by
  unfold State.accReseed
  repeat' with_reducible first | assumption | apply State.action_keeps | apply State.drbgSeed_keeps | apply Kept.of_ite | intro _ | split

theorem execDrbgReseed_keeps {x0 : Nat} {x1 : Nat} {x2 : Nat} {x3 : Nat} {x4 : Bool} (h : Kept v q n s) : KeptOut v q n (execDrbgReseed x0 x1 x2 x3 x4 s) := by
  unfold execDrbgReseed
  repeat' with_reducible first | assumption | apply KeptOut.next | apply State.hostOn_keeps | apply State.accReseed_keeps | intro _

theorem execEntropyFail_keeps {x0 : Nat} {x1 : Bool} (h : Kept v q n s) : KeptOut v q n (execEntropyFail x0 x1 s) := by
  unfold execEntropyFail
  repeat' with_reducible
    first
    | assumption | apply KeptOut.next | apply KeptOut.of_ite | apply State.put_keeps | apply State.irq_keeps | apply State.bump_keeps
    | apply Kept.of_ite | intro _ | simp only [↓Kept.mk_other] | split

theorem execCrystRegeneration_keeps {x0 : Nat} {x1 : Nat} (h : Kept v q n s) : KeptOut v q n (execCrystRegeneration x0 x1 s) := by
  unfold execCrystRegeneration
  repeat' with_reducible
    first
    | assumption | apply KeptOut.next | apply KeptOut.of_ite | apply State.raise_keeps | apply State.put_keeps | apply State.bump_keeps
    | apply State.irq_keeps | apply State.rebuildKeys_keeps | apply State.setKeys_keeps | apply Kept.of_ite | intro _ | apply Kept.of_getD
    | apply foldl_keeps (Kept v q n) | simp only [↓Kept.mk_other] | split

theorem State.closeSession_keeps {x1 : Nat} {x2 : Nat} (h : Kept v q n s) : Kept v q n (State.closeSession s x1 x2) := by
  unfold State.closeSession
  repeat' with_reducible
    first
    | assumption | apply State.setKeys_keeps | apply State.bput_keeps | apply Kept.of_ite | intro _ | apply foldl_keeps (Kept v q n)
    | simp only [↓Kept.mk_other] | split

theorem State.zeroise_keeps {x1 : Nat} (h : Kept v q n s) : Kept v q n (State.zeroise s x1) := by
  unfold State.zeroise
  repeat' with_reducible
    first
    | assumption | apply State.setKeys_keeps | apply State.closeSession_keeps | apply State.put_keeps | apply State.rsaHold_keeps
    | apply State.bput_keeps | intro _ | apply foldl_keeps (Kept v q n) | simp only [↓Kept.mk_other]

theorem State.letfly_keeps {x1 : Nat} (h : Kept v q n s) : Kept v q n (State.letfly s x1) := by
  unfold State.letfly
  repeat' with_reducible
    first
    | assumption | apply State.put_keeps | apply State.zeroise_keeps | apply State.bump_keeps | apply State.put64_keeps | apply State.setKeys_keeps
    | apply Kept.of_ite | intro _ | simp only [↓Kept.mk_other] | split

theorem execTamperAssert_keeps {x0 : Nat} {x1 : Nat} (h : Kept v q n s) : KeptOut v q n (execTamperAssert x0 x1 s) := by
  unfold execTamperAssert
  repeat' with_reducible
    first
    | assumption | apply KeptOut.next | apply KeptOut.of_ite | apply State.setKeys_keeps | apply State.put_keeps | apply State.letfly_keeps
    | apply Kept.of_ite | intro _ | simp only [↓Kept.mk_other] | split

theorem State.letflyRelease_keeps {x1 : Nat} (h : Kept v q n s) : Kept v q n (State.letflyRelease s x1) := by
  unfold State.letflyRelease
  repeat' with_reducible
    first
    | assumption | apply State.irq_keeps | apply State.put_keeps | apply Kept.of_ite | intro _ | apply foldl_keeps (Kept v q n) | split

theorem execTamperRelease_keeps {x0 : Nat} {x1 : Nat} (h : Kept v q n s) : KeptOut v q n (execTamperRelease x0 x1 s) := by
  unfold execTamperRelease
  repeat' with_reducible
    first
    | assumption | apply KeptOut.next | apply KeptOut.of_ite | apply State.put_keeps | apply State.setKeys_keeps | apply State.letflyRelease_keeps
    | apply State.irq_keeps | apply State.bump_keeps | apply Kept.of_ite | intro _ | simp only [↓Kept.mk_other] | split

theorem execLetflyTrigger_keeps {x0 : Nat} {x1 : Nat} (h : Kept v q n s) : KeptOut v q n (execLetflyTrigger x0 x1 s) := by
  unfold execLetflyTrigger
  repeat' with_reducible
    first
    | assumption | apply KeptOut.next | apply KeptOut.of_ite | apply State.letfly_keeps | apply Kept.of_ite | intro _ | split

theorem State.tamperShow_keeps {x1 : Nat} (h : Kept v q n s) : Kept v q n (State.tamperShow s x1) := by
  unfold State.tamperShow
  repeat' with_reducible first | assumption | apply State.put_keeps | apply Kept.of_ite | intro _ | simp only [↓Kept.mk_other] | split

theorem execTamperRecordFuse_keeps {x0 : Nat} (h : Kept v q n s) : KeptOut v q n (execTamperRecordFuse x0 s) := by
  unfold execTamperRecordFuse
  repeat' with_reducible
    first
    | assumption | apply KeptOut.next | apply KeptOut.of_ite | apply State.tamperShow_keeps | apply State.put_keeps | apply State.setKeys_keeps
    | apply Kept.of_ite | intro _ | simp only [↓Kept.mk_other] | split

theorem execOwnerKeyReload_keeps {x0 : Nat} (h : Kept v q n s) : KeptOut v q n (execOwnerKeyReload x0 s) := by
  unfold execOwnerKeyReload
  repeat' with_reducible
    first
    | assumption | apply KeptOut.next | apply KeptOut.of_ite | apply State.drbgSeed_keeps | apply State.setKeys_keeps | apply Kept.of_ite | intro _
    | simp only [↓Kept.mk_other] | split

theorem State.tamperReset_keeps {x1 : Nat} (h : Kept v q n s) : Kept v q n (State.tamperReset s x1) := by
  unfold State.tamperReset
  repeat' with_reducible
    first
    | assumption | apply State.setKeys_keeps | apply State.setBit_keeps | apply State.drbgSeed_keeps | apply State.rsaHold_keeps
    | simp only [↓Kept.mk_other]

theorem State.accTamperAck_keeps {x1 : Nat} {x2 : Nat} {x3 : Nat} {x4 : Nat} (h : Kept v q n s) : Kept v q n (State.accTamperAck s x1 x2 x3 x4) := by
  unfold State.accTamperAck
  repeat' with_reducible
    first
    | assumption | apply State.action_keeps | apply State.deny_keeps | apply State.lockv_keeps | apply State.tamperReset_keeps
    | apply State.tamperShow_keeps | apply State.put_keeps | apply Kept.of_ite | intro _ | split

theorem execTamperAck_keeps {x0 : Nat} {x1 : Nat} {x2 : Nat} {x3 : Nat} (h : Kept v q n s) : KeptOut v q n (execTamperAck x0 x1 x2 x3 s) := by
  unfold execTamperAck
  repeat' with_reducible first | assumption | apply KeptOut.next | apply State.hostOn_keeps | apply State.accTamperAck_keeps | intro _

/-! ## Sessions -/

theorem State.setSession_keeps {x1 : Nat} {x2 : Nat} {x3 : Session} (h : Kept v q n s) : Kept v q n (State.setSession s x1 x2 x3) := by
  unfold State.setSession
  repeat' with_reducible first | assumption | apply State.setKeys_keeps | intro _ | simp only [↓Kept.mk_other]

theorem State.sessionResult_keeps {x1 : Nat} {x2 : Nat} {x3 : Nat} (h : Kept v q n s) : Kept v q n (State.sessionResult s x1 x2 x3) := by
  unfold State.sessionResult
  repeat' with_reducible first | assumption | apply State.bput_keeps

theorem State.openSession_keeps {x1 : Nat} {x2 : Nat} {x3 : Nat} {x4 : Nat} (h : Kept v q n s) : Kept v q n (State.openSession s x1 x2 x3 x4) := by
  unfold State.openSession
  repeat' with_reducible
    first
    | assumption | apply State.setSession_keeps | apply State.sessionResult_keeps | apply State.bump_keeps | apply State.put_keeps
    | apply Kept.of_ite | intro _ | simp only [↓Kept.mk_other, ↓id_eq] | split

theorem State.delayRuns_keeps {x1 : Nat} (h : Kept v q n s) : Kept v q n (State.delayRuns s x1) := by
  unfold State.delayRuns
  repeat' with_reducible
    first
    | assumption | apply State.put_keeps | apply State.setKeys_keeps | apply Kept.of_ite | intro _ | simp only [↓Kept.mk_other] | split

theorem State.failSession_keeps {x1 : Nat} {x2 : Nat} (h : Kept v q n s) : Kept v q n (State.failSession s x1 x2) := by
  unfold State.failSession
  repeat' with_reducible
    first
    | assumption | apply State.output_keeps | apply State.delayRuns_keeps | apply State.put_keeps | apply State.irq_keeps
    | apply State.sessionResult_keeps | apply State.bump_keeps | simp only [↓Kept.mk_other]

theorem State.showNonce_keeps {x1 : Nat} {x2 : Nat} {x3 : Nat} (h : Kept v q n s) : Kept v q n (State.showNonce s x1 x2 x3) := by
  unfold State.showNonce
  repeat' with_reducible first | assumption | apply State.setWord_keeps | intro _ | apply foldl_keeps (Kept v q n)

theorem execNonceDraw_keeps {x0 : Nat} {x1 : Nat} {x2 : Nat} (h : Kept v q n s) : KeptOut v q n (execNonceDraw x0 x1 x2 s) := by
  unfold execNonceDraw
  repeat' with_reducible
    first
    | assumption | apply KeptOut.next | apply State.action_keeps | (apply State.drbgRequest_keeps; assumption) | apply State.showNonce_keeps
    | apply State.setKeys_keeps | intro _ | (apply Kept.of_snd; assumption) | simp only [↓Kept.mk_other] | split

theorem execNonceExpiry_keeps {x0 : Nat} {x1 : Nat} (h : Kept v q n s) : KeptOut v q n (execNonceExpiry x0 x1 s) := by
  unfold execNonceExpiry
  repeat' with_reducible first | assumption | apply KeptOut.next | apply State.setKeys_keeps | intro _ | simp only [↓Kept.mk_other]

theorem State.accOpenOwner_keeps {x1 : Nat} {x2 : Nat} {x3 : Nat} (h : Kept v q n s) : Kept v q n (State.accOpenOwner s x1 x2 x3) := by
  unfold State.accOpenOwner
  repeat' with_reducible
    first
    | assumption | apply State.action_keeps | apply State.sessionResult_keeps | apply State.setKeys_keeps | apply State.openSession_keeps
    | apply State.failSession_keeps | apply Kept.of_ite | intro _ | simp only [↓Kept.mk_other] | split

theorem execSessionOpenOwner_keeps {x0 : Nat} {x1 : Nat} {x2 : Nat} (h : Kept v q n s) : KeptOut v q n (execSessionOpenOwner x0 x1 x2 s) := by
  unfold execSessionOpenOwner
  repeat' with_reducible first | assumption | apply KeptOut.next | apply State.hostOn_keeps | apply State.accOpenOwner_keeps | intro _

theorem State.accOpenPassword_keeps {x1 : Nat} {x2 : Nat} {x3 : Nat} {x4 : Nat} (h : Kept v q n s) : Kept v q n (State.accOpenPassword s x1 x2 x3 x4) := by
  unfold State.accOpenPassword
  repeat' with_reducible
    first
    | assumption | apply State.action_keeps | apply State.sessionResult_keeps | apply State.failSession_keeps | apply State.bput_keeps
    | apply State.setKeys_keeps | apply Kept.of_ite | intro _ | simp only [↓Kept.mk_other] | split

theorem execSessionOpenPassword_keeps {x0 : Nat} {x1 : Nat} {x2 : Nat} {x3 : Nat} (h : Kept v q n s) : KeptOut v q n (execSessionOpenPassword x0 x1 x2 x3 s) := by
  unfold execSessionOpenPassword
  repeat' with_reducible first | assumption | apply KeptOut.next | apply State.hostOn_keeps | apply State.accOpenPassword_keeps | intro _

theorem execPasswordResult_keeps {x0 : Nat} {x1 : Nat} (h : Kept v q n s) : KeptOut v q n (execPasswordResult x0 x1 s) := by
  unfold execPasswordResult
  repeat' with_reducible
    first
    | assumption | apply KeptOut.next | apply KeptOut.of_ite | apply State.setKeys_keeps | apply State.openSession_keeps
    | apply State.failSession_keeps | apply Kept.of_ite | intro _ | (apply Kept.of_snd; assumption) | simp only [↓Kept.mk_other] | split

theorem State.accSetpw_keeps {x1 : Nat} {x2 : Nat} {x3 : Nat} {x4 : Nat} (h : Kept v q n s) : Kept v q n (State.accSetpw s x1 x2 x3 x4) := by
  unfold State.accSetpw
  repeat' with_reducible
    first
    | assumption | apply State.action_keeps | apply State.deny_keeps | apply State.sessionResult_keeps | (apply State.drbgRequest_keeps; assumption)
    | apply State.output_keeps | apply State.setKeys_keeps | apply Kept.of_ite | intro _ | (apply Kept.of_snd; assumption)
    | simp only [↓Kept.mk_other] | split

theorem execSetpw_keeps {x0 : Nat} {x1 : Nat} {x2 : Nat} {x3 : Nat} (h : Kept v q n s) : KeptOut v q n (execSetpw x0 x1 x2 x3 s) := by
  unfold execSetpw
  repeat' with_reducible first | assumption | apply KeptOut.next | apply State.hostOn_keeps | apply State.accSetpw_keeps | intro _

theorem State.accClose_keeps {x1 : Nat} {x2 : Nat} {x3 : Nat} (h : Kept v q n s) : Kept v q n (State.accClose s x1 x2 x3) := by
  unfold State.accClose
  repeat' with_reducible first | assumption | apply State.action_keeps | apply State.closeSession_keeps | intro _

theorem execSessionClose_keeps {x0 : Nat} {x1 : Nat} {x2 : Nat} (h : Kept v q n s) : KeptOut v q n (execSessionClose x0 x1 x2 s) := by
  unfold execSessionClose
  repeat' with_reducible first | assumption | apply KeptOut.next | apply State.hostOn_keeps | apply State.accClose_keeps | intro _

theorem execSessionIdleTimeout_keeps {x0 : Nat} {x1 : Nat} (h : Kept v q n s) : KeptOut v q n (execSessionIdleTimeout x0 x1 s) := by
  unfold execSessionIdleTimeout
  repeat' with_reducible
    first
    | assumption | apply KeptOut.next | apply KeptOut.of_ite | apply State.bump_keeps | apply State.closeSession_keeps | apply Kept.of_ite | intro _
    | split

theorem execFailDelayExpiry_keeps {x0 : Nat} (h : Kept v q n s) : KeptOut v q n (execFailDelayExpiry x0 s) := by
  unfold execFailDelayExpiry
  repeat' with_reducible first | assumption | apply KeptOut.next | apply State.put_keeps

/-! ## SailOps -/

theorem State.setLane_keeps {x1 : Nat} {x2 : Nat} {x3 : Lane} (h : Kept v q n s) : Kept v q n (State.setLane s x1 x2 x3) := by
  unfold State.setLane
  repeat' with_reducible first | assumption | apply State.setSail_keeps | intro _ | simp only [↓Kept.mk_other]

theorem State.attachLane_keeps {x1 : Nat} {x2 : Nat} {x3 : LaneReq} {x4 : Bool} {x5 : Bool} (h : Kept v q n s) : Kept v q n (State.attachLane s x1 x2 x3 x4 x5) := by
  unfold State.attachLane
  repeat' with_reducible
    first
    | assumption | apply State.setLane_keeps | apply State.bump_keeps | apply Kept.of_ite | intro _ | simp only [↓Kept.mk_other] | split

theorem State.attachNew_keeps {x1 : Nat} {x2 : LaneReq} {x3 : Bool} (h : Kept v q n s) : Kept v q n (State.attachNew s x1 x2 x3) := by
  unfold State.attachNew
  repeat' with_reducible
    first
    | assumption | apply State.free_keeps | apply State.bump_keeps | apply State.attachLane_keeps | apply State.raise_keeps | intro _
    | apply Kept.of_getD | simp only [↓Kept.mk_other]

theorem State.serveOne_keeps {x1 : Nat} (h : Kept v q n s) : Kept v q n (State.serveOne s x1) := by
  unfold State.serveOne
  repeat' with_reducible
    first
    | assumption | apply State.attachNew_keeps | apply State.setSail_keeps | apply State.raise_keeps | intro _ | (apply Kept.of_snd; assumption)
    | simp only [↓Kept.mk_other] | split

theorem State.serve_keeps {x1 : Nat} {x2 : Nat} (h : Kept v q n s) : Kept v q n (State.serve s x1 x2) := by
  induction x2 generalizing s with
  | zero => exact h
  | succ _ ih =>
  unfold State.serve
  repeat' with_reducible first | assumption | apply ih | apply State.serveOne_keeps

theorem State.releaseLane_keeps {x1 : Nat} {x2 : Nat} {x3 : Nat} (h : Kept v q n s) : Kept v q n (State.releaseLane s x1 x2 x3) := by
  unfold State.releaseLane
  repeat' with_reducible
    first
    | assumption | apply State.bump_keeps | apply State.setLane_keeps | apply Kept.of_ite | intro _ | simp only [↓Kept.mk_other] | split

theorem State.releaseServe_keeps {x1 : Nat} {x2 : Nat} {x3 : Nat} (h : Kept v q n s) : Kept v q n (State.releaseServe s x1 x2 x3) := by
  unfold State.releaseServe
  repeat' with_reducible first | assumption | apply State.serveOne_keeps | apply State.releaseLane_keeps

theorem State.releaseAll_keeps {x1 : Nat} {x2 : Nat} {x3 : Nat → Lane → Bool} {x4 : Lane → State → State} (hf4 : ∀ y0 y1, Kept v q n y1 → Kept v q n (x4 y0 y1)) (h : Kept v q n s) : Kept v q n (State.releaseAll s x1 x2 x3 x4) := by
  unfold State.releaseAll
  repeat' with_reducible
    first
    | assumption | apply State.serve_keeps | apply State.releaseLane_keeps | apply hf4 | intro _ | apply foldl_keeps (Kept v q n)
    | simp only [↓Kept.mk_other]

theorem State.dropWaits_keeps {x1 : Nat} {x2 : LaneReq → Bool} (h : Kept v q n s) : Kept v q n (State.dropWaits s x1 x2) := by
  unfold State.dropWaits
  repeat' with_reducible first | assumption | apply State.count_keeps | apply State.setSail_keeps | intro _ | simp only [↓Kept.mk_other]

theorem State.starve_keeps {x1 : Nat} {x2 : Nat} (h : Kept v q n s) : Kept v q n (State.starve s x1 x2) := by
  unfold State.starve
  repeat' with_reducible
    first
    | assumption | apply State.bump_keeps | apply State.irq_keeps | apply State.setSail_keeps | apply Kept.of_ite | intro _
    | simp only [↓Kept.mk_other] | split

theorem State.request_keeps {x1 : Nat} {x2 : LaneReq} (h : Kept v q n s) : Kept v q n (State.request s x1 x2) := by
  unfold State.request
  repeat' with_reducible
    first
    | assumption | apply State.attachNew_keeps | apply State.setSail_keeps | apply State.starve_keeps | apply State.bump_keeps | apply Kept.of_ite
    | intro _ | (apply Kept.of_snd; assumption) | simp only [↓Kept.mk_other] | split

theorem State.sailAction_keeps {x1 : Nat} {x2 : Nat} {x3 : Nat} {x4 : Nat} {x5 : Nat} {x6 : State → State} (hf6 : ∀ y0, Kept v q n y0 → Kept v q n (x6 y0)) (h : Kept v q n s) : Kept v q n (State.sailAction s x1 x2 x3 x4 x5 x6) := by
  unfold State.sailAction
  repeat' with_reducible first | assumption | apply State.capture_keeps | apply hf6 | apply Kept.of_ite | intro _ | split

theorem State.loadConfig_keeps {x1 : Nat} {x2 : Nat} (h : Kept v q n s) : Kept v q n (State.loadConfig s x1 x2) := by
  unfold State.loadConfig
  repeat' with_reducible
    first
    | assumption | apply Kept.profs_fold | apply State.setWord_keeps | apply Kept.of_ite | intro _ | (apply Kept.of_snd; assumption)
    | apply foldl_keeps (Kept v q n) | simp only [↓Kept.mk_other] | split

/-! ## Power -/

theorem State.chargeDuty_keeps {x1 : Nat} {x2 : Nat} {x3 : Nat} {x4 : Nat} (h : Kept v q n s) : Kept v q n (State.chargeDuty s x1 x2 x3 x4) := by
  unfold State.chargeDuty
  repeat' with_reducible first | assumption | apply State.setSail_keeps | intro _ | simp only [↓Kept.mk_other]

theorem State.unchargeDuty_keeps {x1 : Nat} {x2 : Nat} {x3 : Nat} {x4 : Nat} (h : Kept v q n s) : Kept v q n (State.unchargeDuty s x1 x2 x3 x4) := by
  unfold State.unchargeDuty
  repeat' with_reducible first | assumption | apply State.setSail_keeps | intro _ | simp only [↓Kept.mk_other]

/-! ## Transmit -/

theorem State.setTx_keeps {x1 : Nat} {x2 : TxFrame} (h : Kept v q n s) : Kept v q n (State.setTx s x1 x2) := by
  unfold State.setTx
  repeat' with_reducible first | assumption | apply State.setSail_keeps | apply Kept.of_ite | intro _ | simp only [↓Kept.mk_other] | split

theorem State.dropTx_keeps {x1 : Nat} {x2 : Nat} (h : Kept v q n s) : Kept v q n (State.dropTx s x1 x2) := by
  unfold State.dropTx
  repeat' with_reducible first | assumption | apply State.setSail_keeps | intro _ | simp only [↓Kept.mk_other]

theorem State.feSend_keeps {x1 : Nat} {x2 : Nat} (h : Kept v q n s) : Kept v q n (State.feSend s x1 x2) := by
  unfold State.feSend
  repeat' with_reducible first | assumption | apply State.emit_keeps | apply Kept.of_ite | intro _ | simp only [↓Kept.mk_other] | split

theorem State.endAir_keeps {x1 : Nat} {x2 : Nat} (h : Kept v q n s) : Kept v q n (State.endAir s x1 x2) := by
  unfold State.endAir
  repeat' with_reducible
    first
    | assumption | apply State.dropTx_keeps | apply State.setSail_keeps | apply Kept.of_ite | intro _ | simp only [↓Kept.mk_other] | split

theorem State.sendReport_keeps {x1 : Nat} {x2 : TxReport} (h : Kept v q n s) : Kept v q n (State.sendReport s x1 x2) := by
  unfold State.sendReport
  repeat' with_reducible first | assumption | apply State.sailEvent_keeps

theorem State.refuseTx_keeps {x1 : Nat} {x2 : TxFrame} {x3 : Nat} (h : Kept v q n s) : Kept v q n (State.refuseTx s x1 x2 x3) := by
  unfold State.refuseTx
  repeat' with_reducible first | assumption | apply State.sendReport_keeps | apply State.bump_keeps | apply State.dropTx_keeps

theorem State.refundDuty_keeps {x1 : Nat} {x2 : TxFrame} {x3 : Nat} (h : Kept v q n s) : Kept v q n (State.refundDuty s x1 x2 x3) := by
  unfold State.refundDuty
  repeat' with_reducible
    first
    | assumption | apply State.unchargeDuty_keeps | intro _ | (apply Kept.of_snd; assumption) | apply foldl_keeps (Kept v q n)
    | simp only [↓Kept.mk_other] | split

theorem State.stepSeed_keeps {x1 : Nat} {x2 : Nat} (h : Kept v q n s) : Kept v q n (State.stepSeed s x1 x2) := by
  unfold State.stepSeed
  repeat' with_reducible first | assumption | apply State.setSail_keeps | intro _ | simp only [↓Kept.mk_other]

theorem execModulatorStart_keeps {x0 : Nat} {x1 : Nat} (h : Kept v q n s) : KeptOut v q n (execModulatorStart x0 x1 s) := by
  unfold execModulatorStart
  repeat' with_reducible
    first
    | assumption | apply KeptOut.next | apply KeptOut.of_ite | apply State.refuseTx_keeps | apply State.bump_keeps | apply State.setTx_keeps
    | apply State.stepSeed_keeps | apply Kept.of_ite | intro _ | (apply Kept.of_snd; assumption) | simp only [↓Kept.mk_other] | split

theorem State.modulatedLate_keeps {x1 : Nat} {x2 : Nat} (h : Kept v q n s) : Kept v q n (State.modulatedLate s x1 x2) := by
  unfold State.modulatedLate
  repeat' with_reducible
    first
    | assumption | apply State.bump_keeps | apply State.setTx_keeps | apply Kept.of_ite | intro _ | apply Kept.of_getD
    | (apply Kept.of_snd; assumption) | simp only [↓Kept.mk_other] | split

theorem State.countFlags_keeps {x1 : Nat} {x2 : Nat} (h : Kept v q n s) : Kept v q n (State.countFlags s x1 x2) := by
  unfold State.countFlags
  repeat' with_reducible first | assumption | apply State.bump_keeps | apply Kept.of_ite | intro _ | simp only [↓Kept.mk_other] | split

theorem State.cutoffOne_keeps {x1 : Nat} {x2 : Nat} {x3 : Bool} (h : Kept v q n s) : Kept v q n (State.cutoffOne s x1 x2 x3) := by
  unfold State.cutoffOne
  repeat' with_reducible
    first
    | assumption | apply State.refuseTx_keeps | apply State.bump_keeps | apply State.feSend_keeps | apply State.setTx_keeps
    | apply State.chargeDuty_keeps | apply State.countFlags_keeps | apply State.put_keeps | apply Kept.of_ite | intro _
    | (apply Kept.of_snd; assumption) | apply foldl_keeps (Kept v q n) | simp only [↓Kept.mk_other] | split

theorem execLaunchCutoff_keeps {x0 : Nat} {x1 : Nat} {x2 : Nat} {x3 : List Nat} (h : Kept v q n s) : KeptOut v q n (execLaunchCutoff x0 x1 x2 x3 s) := by
  unfold execLaunchCutoff
  repeat' with_reducible
    first
    | assumption | apply KeptOut.next | apply KeptOut.of_ite | apply State.cutoffOne_keeps | apply Kept.of_ite | intro _
    | (apply Kept.of_snd; assumption) | apply foldl_keeps (Kept v q n) | simp only [↓Kept.mk_other] | split

theorem execFrameLaunch_keeps {x0 : Nat} {x1 : Nat} (h : Kept v q n s) : KeptOut v q n (execFrameLaunch x0 x1 s) := by
  unfold execFrameLaunch
  repeat' with_reducible
    first
    | assumption | apply KeptOut.next | apply KeptOut.of_ite | apply State.refuseTx_keeps | apply State.bump_keeps | apply State.refundDuty_keeps
    | apply State.setSail_keeps | apply State.put_keeps | apply State.setTx_keeps | apply Kept.of_ite | intro _ | (apply Kept.of_snd; assumption)
    | simp only [↓Kept.mk_other] | split

theorem State.countSent_keeps {x1 : Nat} {x2 : TxFrame} (h : Kept v q n s) : Kept v q n (State.countSent s x1 x2) := by
  unfold State.countSent
  repeat' with_reducible
    first
    | assumption | apply State.bump_keeps | apply Kept.of_ite | intro _ | (apply Kept.of_snd; assumption) | simp only [↓Kept.mk_other] | split

theorem execTxFrameEnd_keeps {x0 : Nat} {x1 : Nat} (h : Kept v q n s) : KeptOut v q n (execTxFrameEnd x0 x1 s) := by
  unfold execTxFrameEnd
  repeat' with_reducible
    first
    | assumption | apply KeptOut.next | apply KeptOut.of_ite | apply State.sendReport_keeps | apply State.countSent_keeps | apply State.bump_keeps
    | apply State.endAir_keeps | apply Kept.of_ite | intro _ | (apply Kept.of_snd; assumption) | simp only [↓Kept.mk_other] | split

theorem execTxTimeoutCut_keeps {x0 : Nat} {x1 : Nat} (h : Kept v q n s) : KeptOut v q n (execTxTimeoutCut x0 x1 s) := by
  unfold execTxTimeoutCut
  repeat' with_reducible
    first
    | assumption | apply KeptOut.next | apply KeptOut.of_ite | apply State.sendReport_keeps | apply State.irq_keeps | apply State.bump_keeps
    | apply State.endAir_keeps | apply State.refundDuty_keeps | apply Kept.of_ite | intro _ | (apply Kept.of_snd; assumption)
    | simp only [↓Kept.mk_other] | split

theorem State.accAbort_keeps {x1 : Nat} {x2 : Nat} {x3 : Nat} {x4 : Nat} (h : Kept v q n s) : Kept v q n (State.accAbort s x1 x2 x3 x4) := by
  unfold State.accAbort
  repeat' with_reducible
    first
    | assumption | apply State.sailAction_keeps | apply State.put_keeps | apply State.bump_keeps | apply State.setTx_keeps
    | apply State.refundDuty_keeps | apply State.sendReport_keeps | apply State.dropTx_keeps | apply Kept.of_ite | intro _
    | (apply Kept.of_snd; assumption) | simp only [↓Kept.mk_other] | split

theorem execTxAbort_keeps {x0 : Nat} {x1 : Nat} {x2 : Nat} {x3 : Nat} (h : Kept v q n s) : KeptOut v q n (execTxAbort x0 x1 x2 x3 s) := by
  unfold execTxAbort
  repeat' with_reducible first | assumption | apply KeptOut.next | apply State.accAbort_keeps

theorem State.applyRetune_keeps {x1 : Nat} (h : Kept v q n s) : Kept v q n (State.applyRetune s x1) := by
  unfold State.applyRetune
  repeat' with_reducible
    first
    | assumption | apply State.put_keeps | apply State.bump_keeps | apply State.setSail_keeps | apply State.irq_keeps | apply Kept.of_ite | intro _
    | simp only [↓Kept.mk_other] | split

theorem execTxRetuneApply_keeps {x0 : Nat} (h : Kept v q n s) : KeptOut v q n (execTxRetuneApply x0 s) := by
  unfold execTxRetuneApply
  repeat' with_reducible
    first
    | assumption | apply KeptOut.next | apply KeptOut.of_ite | apply State.applyRetune_keeps | apply Kept.of_ite | intro _ | split

theorem State.selectA_keeps {x1 : Nat} (h : Kept v q n s) : Kept v q n (State.selectA s x1) := by
  unfold State.selectA
  repeat' with_reducible
    first
    | assumption | apply State.setLane_keeps | apply State.bump_keeps | apply Kept.of_ite | intro _ | apply foldl_keeps (Kept v q n)
    | simp only [↓Kept.mk_other] | split

theorem execObservationStart_keeps {x0 : Nat} {x1 : Nat} (h : Kept v q n s) : KeptOut v q n (execObservationStart x0 x1 s) := by
  unfold execObservationStart
  repeat' with_reducible
    first
    | assumption | apply KeptOut.next | apply KeptOut.of_ite | apply State.bump_keeps | apply State.releaseAll_keeps | apply State.setTx_keeps
    | apply State.put_keeps | apply State.selectA_keeps | apply State.setSail_keeps | apply Kept.of_ite | intro _ | (apply Kept.of_snd; assumption)
    | simp only [↓Kept.mk_other] | split

theorem State.powerLoop_keeps {x1 : Nat} {x2 : List (Nat × Int)} (h : Kept v q n s) : Kept v q n (State.powerLoop s x1 x2) := by
  unfold State.powerLoop
  repeat' with_reducible
    first
    | assumption | apply State.put_keeps | apply State.irq_keeps | apply State.bump_keeps | apply Kept.of_ite | intro _
    | apply foldl_keeps (Kept v q n) | simp only [↓Kept.mk_other] | split

theorem execObservationEnd_keeps {x0 : Nat} {x1 : List (Nat × Int)} (h : Kept v q n s) : KeptOut v q n (execObservationEnd x0 x1 s) := by
  unfold execObservationEnd
  repeat' with_reducible
    first
    | assumption | apply KeptOut.next | apply KeptOut.of_ite | apply State.powerLoop_keeps | apply State.put_keeps | apply State.bump_keeps
    | apply State.setSail_keeps | apply Kept.of_ite | intro _ | simp only [↓Kept.mk_other] | split

theorem execPdSolveDone_keeps {x0 : Nat} {x1 : Nat} (h : Kept v q n s) : KeptOut v q n (execPdSolveDone x0 x1 s) := by
  unfold execPdSolveDone
  repeat' with_reducible
    first
    | assumption | apply KeptOut.next | apply KeptOut.of_ite | apply State.put_keeps | apply State.bump_keeps | apply State.setSail_keeps
    | apply Kept.of_ite | intro _ | simp only [↓Kept.mk_other] | split

theorem execDacCalStep_keeps {x0 : Nat} (h : Kept v q n s) : KeptOut v q n (execDacCalStep x0 s) := by
  unfold execDacCalStep
  repeat' with_reducible
    first
    | assumption | apply KeptOut.next | apply KeptOut.of_ite | apply State.bump_keeps | apply Kept.of_ite | intro _ | simp only [↓Kept.mk_other]
    | split

theorem State.staleCheck_keeps {x1 : Nat} (h : Kept v q n s) : Kept v q n (State.staleCheck s x1) := by
  unfold State.staleCheck
  repeat' with_reducible
    first
    | assumption | apply State.put_keeps | apply State.irq_keeps | apply State.bump_keeps | apply Kept.of_ite | intro _ | split

theorem execPowerSense_keeps {x0 : Nat} {x1 : Int} {x2 : Nat} (h : Kept v q n s) : KeptOut v q n (execPowerSense x0 x1 x2 s) := by
  unfold execPowerSense
  repeat' with_reducible
    first
    | assumption | apply KeptOut.next | apply KeptOut.of_ite | apply State.staleCheck_keeps | apply State.put_keeps | apply Kept.of_ite | intro _
    | simp only [↓Kept.mk_other] | split

theorem execPdetSample_keeps {x0 : Nat} {x1 : Nat} (h : Kept v q n s) : KeptOut v q n (execPdetSample x0 x1 s) := by
  unfold execPdetSample
  repeat' with_reducible
    first
    | assumption | apply KeptOut.next | apply KeptOut.of_ite | apply State.put_keeps | apply State.irq_keeps | apply State.bump_keeps
    | apply Kept.of_ite | intro _ | simp only [↓Kept.mk_other] | split

theorem State.accFuseGo_keeps {x1 : Nat} {x2 : Nat} {x3 : Nat} {x4 : Nat} (h : Kept v q n s) : Kept v q n (State.accFuseGo s x1 x2 x3 x4) := by
  unfold State.accFuseGo
  repeat' with_reducible
    first
    | assumption | apply State.sailAction_keeps | apply State.put_keeps | apply State.setSail_keeps | apply Kept.of_ite | intro _
    | apply foldl_keeps (Kept v q n) | simp only [↓Kept.mk_other] | split

theorem execFuseGo_keeps {x0 : Nat} {x1 : Nat} {x2 : Nat} {x3 : Nat} (h : Kept v q n s) : KeptOut v q n (execFuseGo x0 x1 x2 x3 s) := by
  unfold execFuseGo
  repeat' with_reducible first | assumption | apply KeptOut.next | apply State.accFuseGo_keeps

theorem execFuseDone_keeps {x0 : Nat} (h : Kept v q n s) : KeptOut v q n (execFuseDone x0 s) := by
  unfold execFuseDone
  repeat' with_reducible
    first
    | assumption | apply KeptOut.next | apply KeptOut.of_ite | apply State.irq_keeps | apply State.put_keeps | apply State.setSail_keeps
    | apply Kept.of_ite | intro _ | (apply Kept.of_snd; assumption) | simp only [↓Kept.mk_other] | split

/-! ## Domains -/

theorem State.setDom_keeps {x1 : Nat} {x2 : Nat} {x3 : Dom} (h : Kept v q n s) : Kept v q n (State.setDom s x1 x2 x3) := by
  unfold State.setDom
  repeat' with_reducible first | assumption | apply State.setMast_keeps | intro _ | simp only [↓Kept.mk_other]

/-! ## Gates -/

theorem State.setEport_keeps {x1 : Nat} {x2 : Nat} {x3 : Gate} (h : Kept v q n s) : Kept v q n (State.setEport s x1 x2 x3) := by
  unfold State.setEport
  repeat' with_reducible first | assumption | apply State.setMast_keeps | intro _ | simp only [↓Kept.mk_other]

theorem State.ethSend_keeps {x1 : Nat} {x2 : Nat} {x3 : Nat} {x4 : Nat} {x5 : Nat} {x6 : Body} (h : Kept v q n s) : Kept v q n (State.ethSend s x1 x2 x3 x4 x5 x6) := by
  unfold State.ethSend
  repeat' with_reducible
    first
    | assumption | apply State.emit_keeps | apply State.bump_keeps | apply State.event_keeps | apply State.sendOn_keeps | apply Kept.of_ite | intro _
    | (apply Kept.of_snd; assumption) | simp only [↓Kept.mk_other] | split

theorem State.holdHead_keeps {x1 : Nat} {x2 : Nat} {x3 : Nat} {x4 : Nat} (h : Kept v q n s) : Kept v q n (State.holdHead s x1 x2 x3 x4) := by
  unfold State.holdHead
  repeat' with_reducible
    first
    | assumption | apply State.bump_keeps | apply State.setEport_keeps | apply Kept.of_ite | intro _ | (apply Kept.of_snd; assumption)
    | simp only [↓Kept.mk_other] | split

theorem State.startFrame_keeps {x1 : Nat} {x2 : Nat} {x3 : Nat} {x4 : Nat} (h : Kept v q n s) : Kept v q n (State.startFrame s x1 x2 x3 x4) := by
  unfold State.startFrame
  repeat' with_reducible
    first
    | assumption | (apply State.dequeue_keeps; assumption) | apply State.setEport_keeps | apply State.freeItem_keeps | apply State.bump_keeps
    | apply State.raise_keeps | apply State.ethSend_keeps | apply State.sendOn_keeps | apply Kept.of_ite | intro _ | (apply Kept.of_snd; assumption)
    | simp only [↓Kept.mk_other] | split

theorem State.dropHead_keeps {x1 : Nat} {x2 : Nat} {x3 : Nat} {x4 : Fld} (h : Kept v q n s) : Kept v q n (State.dropHead s x1 x2 x3 x4) := by
  unfold State.dropHead
  repeat' with_reducible
    first
    | assumption | (apply State.dequeue_keeps; assumption) | apply State.bump_keeps | apply State.freeItem_keeps | apply State.setEport_keeps
    | (apply Kept.of_snd; assumption) | simp only [↓Kept.mk_other] | split

theorem State.serveClass_keeps {x1 : Nat} {x2 : Nat} {x3 : Nat} {x4 : Nat} (h : Kept v q n s) : Kept v q n (State.serveClass s x1 x2 x3 x4).2 := by
  induction x4 generalizing s with
  | zero => exact h
  | succ _ ih =>
  unfold State.serveClass
  repeat' with_reducible
    first
    | assumption | apply ih | apply State.dropHead_keeps | apply State.holdHead_keeps | apply State.startFrame_keeps | apply Kept.of_ite | intro _
    | (apply Kept.of_snd; assumption) | simp only [↓Kept.mk_other] | split

theorem State.serveClasses_keeps {x1 : Nat} {x2 : Nat} {x3 : List Nat} (h : Kept v q n s) : Kept v q n (State.serveClasses s x1 x2 x3) := by
  induction x3 generalizing s with
  | nil => exact h
  | cons _ _ ih =>
  unfold State.serveClasses
  repeat' with_reducible
    first
    | assumption | apply ih | apply State.serveClass_keeps | apply Kept.of_ite | intro _ | simp only [↓Kept.mk_other] | split

theorem State.portLook_keeps {x1 : Nat} {x2 : Nat} (h : Kept v q n s) : Kept v q n (State.portLook s x1 x2) := by
  unfold State.portLook
  repeat' with_reducible first | assumption | apply State.serveClasses_keeps | apply Kept.of_ite | intro _ | simp only [↓Kept.mk_other] | split

theorem State.showGate_keeps {x1 : Nat} {x2 : Nat} (h : Kept v q n s) : Kept v q n (State.showGate s x1 x2) := by
  unfold State.showGate
  repeat' with_reducible
    first
    | assumption | apply State.put_keeps | apply Kept.of_ite | intro _ | (apply Kept.of_snd; assumption) | simp only [↓Kept.mk_other] | split

theorem State.showMaxOpen_keeps {x1 : Nat} {x2 : Nat} (h : Kept v q n s) : Kept v q n (State.showMaxOpen s x1 x2) := by
  unfold State.showMaxOpen
  repeat' with_reducible
    first
    | assumption | apply State.put_keeps | intro _ | (apply Kept.of_snd; assumption) | apply foldl_keeps (Kept v q n) | simp only [↓Kept.mk_other]
    | split

theorem State.overrun_keeps {x1 : Nat} {x2 : Nat} (h : Kept v q n s) : Kept v q n (State.overrun s x1 x2) := by
  unfold State.overrun
  repeat' with_reducible
    first
    | assumption | apply State.bump_keeps | apply State.setEport_keeps | apply Kept.of_ite | intro _ | (apply Kept.of_snd; assumption)
    | simp only [↓Kept.mk_other] | split

theorem State.shiftGates_keeps {x1 : Nat} {x2 : Nat} (h : Kept v q n s) : Kept v q n (State.shiftGates s x1 x2) := by
  unfold State.shiftGates
  repeat' with_reducible first | assumption | apply State.overrun_keeps | apply State.setEport_keeps | simp only [↓Kept.mk_other]

theorem State.gatesStepped_keeps {x1 : Nat} (h : Kept v q n s) : Kept v q n (State.gatesStepped s x1) := by
  unfold State.gatesStepped
  repeat' with_reducible
    first
    | assumption | apply State.portLook_keeps | apply State.shiftGates_keeps | apply State.showGate_keeps | intro _ | apply foldl_keeps (Kept v q n)

theorem State.gclCommitted_keeps {x1 : Nat} {x2 : Nat} (h : Kept v q n s) : Kept v q n (State.gclCommitted s x1 x2) := by
  unfold State.gclCommitted
  repeat' with_reducible
    first
    | assumption | apply State.portLook_keeps | apply State.showMaxOpen_keeps | apply State.showGate_keeps | apply State.setEport_keeps
    | apply State.put_keeps | apply State.put64_keeps | apply Kept.of_ite | intro _ | simp only [↓Kept.mk_other] | split

theorem execGclChange_keeps {x0 : Nat} {x1 : Nat} (h : Kept v q n s) : KeptOut v q n (execGclChange x0 x1 s) := by
  unfold execGclChange
  repeat' with_reducible
    first
    | assumption | apply KeptOut.next | apply KeptOut.of_ite | apply State.showMaxOpen_keeps | apply State.showGate_keeps
    | apply State.setEport_keeps | apply State.portLook_keeps | apply State.irq_keeps | apply State.shiftGates_keeps | apply Kept.of_ite | intro _
    | (apply Kept.of_snd; assumption) | simp only [↓Kept.mk_other] | split

theorem execGateEntryChange_keeps {x0 : Nat} {x1 : Nat} (h : Kept v q n s) : KeptOut v q n (execGateEntryChange x0 x1 s) := by
  unfold execGateEntryChange
  repeat' with_reducible
    first
    | assumption | apply KeptOut.next | apply KeptOut.of_ite | apply State.portLook_keeps | apply State.overrun_keeps | apply State.showGate_keeps
    | apply Kept.of_ite | intro _ | split

theorem execPortFree_keeps {x0 : Nat} {x1 : Nat} (h : Kept v q n s) : KeptOut v q n (execPortFree x0 x1 s) := by
  unfold execPortFree
  repeat' with_reducible
    first
    | assumption | apply KeptOut.next | apply KeptOut.of_ite | apply State.portLook_keeps | apply State.setEport_keeps | apply Kept.of_ite | intro _
    | simp only [↓Kept.mk_other] | split

theorem execPauseEnd_keeps {x0 : Nat} {x1 : Nat} (h : Kept v q n s) : KeptOut v q n (execPauseEnd x0 x1 s) := by
  unfold execPauseEnd
  repeat' with_reducible
    first
    | assumption | apply KeptOut.next | apply KeptOut.of_ite | apply State.portLook_keeps | apply State.put_keeps | apply State.setEport_keeps
    | apply Kept.of_ite | intro _ | simp only [↓Kept.mk_other] | split

theorem State.shapeGrant_keeps {x1 : Nat} (h : Kept v q n s) : Kept v q n (State.shapeGrant s x1) := by
  unfold State.shapeGrant
  repeat' with_reducible
    first
    | assumption | apply State.put_keeps | apply State.setMast_keeps | apply Kept.of_ite | intro _ | apply foldl_keeps (Kept v q n)
    | simp only [↓Kept.mk_other] | split

theorem State.shape_keeps {x1 : Nat} {x2 : Nat} {x3 : Nat} {x4 : Nat} (h : Kept v q n s) : Kept v q n (State.shape s x1 x2 x3 x4).2 := by
  unfold State.shape
  repeat' with_reducible
    first
    | assumption | apply State.put_keeps | apply State.bump_keeps | apply Kept.of_ite | intro _ | simp only [↓Kept.mk_other] | split

theorem State.unshape_keeps {x1 : Nat} {x2 : Nat} {x3 : Nat} {x4 : Nat} (h : Kept v q n s) : Kept v q n (State.unshape s x1 x2 x3 x4) := by
  unfold State.unshape
  repeat' with_reducible first | assumption | apply State.put_keeps | apply Kept.of_ite | intro _ | simp only [↓Kept.mk_other] | split

theorem State.sluice_keeps {x1 : Nat} {x2 : Nat} {x3 : Nat} {x4 : Nat} (h : Kept v q n s) : Kept v q n (State.sluice s x1 x2 x3 x4).2 := by
  unfold State.sluice
  repeat' with_reducible
    first
    | assumption | apply State.setMast_keeps | apply State.put_keeps | apply State.bump_keeps | apply Kept.of_ite | intro _
    | simp only [↓Kept.mk_other] | split

theorem State.nodeSluice_keeps {x1 : Nat} {x2 : Nat} {x3 : Nat} {x4 : Nat} (h : Kept v q n s) : Kept v q n (State.nodeSluice s x1 x2 x3 x4).2 := by
  unfold State.nodeSluice
  repeat' with_reducible
    first
    | assumption | apply State.bump_keeps | apply State.setMast_keeps | apply Kept.of_ite | intro _ | simp only [↓Kept.mk_other] | split

/-! ## Lanes -/

theorem State.restartLane_keeps {x1 : Nat} {x2 : Nat} {x3 : LaneReq} (h : Kept v q n s) : Kept v q n (State.restartLane s x1 x2 x3) := by
  unfold State.restartLane
  repeat' with_reducible first | assumption | apply State.bump_keeps | apply State.attachLane_keeps | simp only [↓Kept.mk_other]

theorem State.detect_keeps {x1 : Nat} {x2 : LaneReq} (h : Kept v q n s) : Kept v q n (State.detect s x1 x2) := by
  unfold State.detect
  repeat' with_reducible
    first
    | assumption | apply State.bump_keeps | apply State.attachNew_keeps | apply State.setLane_keeps | apply State.restartLane_keeps
    | apply State.setSail_keeps | apply State.request_keeps | apply Kept.of_ite | intro _ | (apply Kept.of_snd; assumption)
    | simp only [↓Kept.mk_other] | split

theorem execDetectorFire_keeps {x0 : Nat} {x1 : Nat} {x2 : Nat} {x3 : Nat} {x4 : List Nat} (h : Kept v q n s) : KeptOut v q n (execDetectorFire x0 x1 x2 x3 x4 s) := by
  unfold execDetectorFire
  repeat' with_reducible
    first
    | assumption | apply KeptOut.next | apply KeptOut.of_ite | apply State.detect_keeps | apply State.bump_keeps | apply Kept.of_ite | intro _
    | (apply Kept.of_snd; assumption) | simp only [↓Kept.mk_other] | split

theorem execLaneStarved_keeps {x0 : Nat} {x1 : Nat} {x2 : Nat} {x3 : Nat} (h : Kept v q n s) : KeptOut v q n (execLaneStarved x0 x1 x2 x3 s) := by
  unfold execLaneStarved
  repeat' with_reducible
    first
    | assumption | apply KeptOut.next | apply KeptOut.of_ite | apply State.starve_keeps | apply State.setSail_keeps | apply Kept.of_ite | intro _
    | (apply Kept.of_snd; assumption) | simp only [↓Kept.mk_other] | split

theorem execAerialSelect_keeps {x0 : Nat} {x1 : Nat} {x2 : Nat} {x3 : Nat} (h : Kept v q n s) : KeptOut v q n (execAerialSelect x0 x1 x2 x3 s) := by
  unfold execAerialSelect
  repeat' with_reducible
    first
    | assumption | apply KeptOut.next | apply KeptOut.of_ite | apply State.setLane_keeps | apply State.bump_keeps | apply Kept.of_ite | intro _
    | simp only [↓Kept.mk_other] | split

theorem execAcqTimeout_keeps {x0 : Nat} {x1 : Nat} (h : Kept v q n s) : KeptOut v q n (execAcqTimeout x0 x1 s) := by
  unfold execAcqTimeout
  repeat' with_reducible
    first
    | assumption | apply KeptOut.next | apply KeptOut.of_ite | apply State.releaseServe_keeps | apply Kept.of_ite | intro _ | split

theorem execPreambleEndFound_keeps {x0 : Nat} {x1 : Nat} {x2 : PreIn} (h : Kept v q n s) : KeptOut v q n (execPreambleEndFound x0 x1 x2 s) := by
  unfold execPreambleEndFound
  repeat' with_reducible
    first
    | assumption | apply KeptOut.next | apply KeptOut.of_ite | apply State.setLane_keeps | apply Kept.of_ite | intro _ | simp only [↓Kept.mk_other]
    | split

theorem State.lostSync_keeps {x1 : Nat} {x2 : Nat} (h : Kept v q n s) : Kept v q n (State.lostSync s x1 x2) := by
  unfold State.lostSync
  repeat' with_reducible first | assumption | apply State.releaseServe_keeps | apply State.bump_keeps | apply Kept.of_ite | intro _ | split

theorem State.acceptLtf_keeps {x1 : Nat} {x2 : Nat} {x3 : Rat} {x4 : Track} (h : Kept v q n s) : Kept v q n (State.acceptLtf s x1 x2 x3 x4) := by
  unfold State.acceptLtf
  repeat' with_reducible
    first
    | assumption | apply State.lostSync_keeps | apply State.setLane_keeps | apply Kept.of_ite | intro _ | simp only [↓Kept.mk_other] | split

theorem State.chooseLtf_keeps {x1 : Nat} {x2 : Lane} {x3 : List Cand} (h : Kept v q n s) : Kept v q n (State.chooseLtf s x1 x2 x3).1 := by
  unfold State.chooseLtf
  repeat' with_reducible
    first
    | assumption | apply State.bump_keeps | apply Kept.of_ite | intro _ | (apply Kept.of_snd; assumption) | simp only [↓Kept.mk_other] | split

theorem execLtfDecision_keeps {x0 : Nat} {x1 : Nat} {x2 : LtfIn} (h : Kept v q n s) : KeptOut v q n (execLtfDecision x0 x1 x2 s) := by
  unfold execLtfDecision
  repeat' with_reducible
    first
    | assumption | apply KeptOut.next | apply KeptOut.of_ite | apply State.releaseServe_keeps | apply State.acceptLtf_keeps
    | apply State.chooseLtf_keeps | apply State.bump_keeps | apply Kept.of_ite | intro _ | (apply Kept.of_snd; assumption)
    | simp only [↓Kept.mk_other] | split

theorem State.tracked_keeps {x1 : Nat} {x2 : Nat} {x3 : Tracked} (h : Kept v q n s) : Kept v q n (State.tracked s x1 x2 x3) := by
  unfold State.tracked
  repeat' with_reducible first | assumption | apply State.count_keeps | apply State.setLane_keeps | simp only [↓Kept.mk_other]

theorem State.phrFail_keeps {x1 : Nat} {x2 : Nat} {x3 : Fld} (h : Kept v q n s) : Kept v q n (State.phrFail s x1 x2 x3) := by
  unfold State.phrFail
  repeat' with_reducible first | assumption | apply State.releaseServe_keeps | apply State.bump_keeps

theorem State.phrPass_keeps {x1 : Nat} {x2 : Nat} {x3 : Nat} {x4 : Nat} {x5 : Nat} {x6 : Nat} (h : Kept v q n s) : Kept v q n (State.phrPass s x1 x2 x3 x4 x5 x6) := by
  unfold State.phrPass
  repeat' with_reducible first | assumption | apply State.setLane_keeps | intro _ | simp only [↓Kept.mk_other]

theorem State.phrBytes_keeps {x1 : Nat} {x2 : Nat} {x3 : List Nat} (h : Kept v q n s) : Kept v q n (State.phrBytes s x1 x2 x3) := by
  unfold State.phrBytes
  repeat' with_reducible
    first
    | assumption | apply State.phrFail_keeps | apply State.bump_keeps | apply State.phrPass_keeps | apply Kept.of_ite | intro _
    | (apply Kept.of_snd; assumption) | simp only [↓Kept.mk_other] | split

theorem State.phrCleura_keeps {x1 : Nat} {x2 : Nat} {x3 : List Iq} (h : Kept v q n s) : Kept v q n (State.phrCleura s x1 x2 x3) := by
  unfold State.phrCleura
  repeat' with_reducible
    first
    | assumption | apply State.tracked_keeps | apply State.lostSync_keeps | apply State.phrBytes_keeps | apply Kept.of_ite | intro _
    | simp only [↓Kept.mk_other] | split

theorem State.phrOfdm_keeps {x1 : Nat} {x2 : Nat} {x3 : Bool} {x4 : Nat} {x5 : Nat} (h : Kept v q n s) : Kept v q n (State.phrOfdm s x1 x2 x3 x4 x5) := by
  unfold State.phrOfdm
  repeat' with_reducible
    first
    | assumption | apply State.phrFail_keeps | apply State.bump_keeps | apply State.phrPass_keeps | apply Kept.of_ite | intro _
    | simp only [↓Kept.mk_other] | split

theorem State.phrFsk_keeps {x1 : Nat} {x2 : Nat} {x3 : Bool} {x4 : Bool} {x5 : Bool} {x6 : Bool} {x7 : Nat} (h : Kept v q n s) : Kept v q n (State.phrFsk s x1 x2 x3 x4 x5 x6 x7) := by
  unfold State.phrFsk
  repeat' with_reducible
    first
    | assumption | apply State.phrFail_keeps | apply State.bump_keeps | apply State.phrPass_keeps | apply Kept.of_ite | intro _
    | simp only [↓Kept.mk_other] | split

theorem execPhrCheck_keeps {x0 : Nat} {x1 : Nat} {x2 : PhrIn} (h : Kept v q n s) : KeptOut v q n (execPhrCheck x0 x1 x2 s) := by
  unfold execPhrCheck
  repeat' with_reducible
    first
    | assumption | apply KeptOut.next | apply KeptOut.of_ite | apply State.phrCleura_keeps | apply State.phrOfdm_keeps | apply State.phrFsk_keeps
    | apply Kept.of_ite | intro _ | (apply Kept.of_snd; assumption) | simp only [↓Kept.mk_other] | split

theorem execPilotTrackLost_keeps {x0 : Nat} {x1 : Nat} {x2 : TrackIn} (h : Kept v q n s) : KeptOut v q n (execPilotTrackLost x0 x1 x2 s) := by
  unfold execPilotTrackLost
  repeat' with_reducible
    first
    | assumption | apply KeptOut.next | apply KeptOut.of_ite | apply State.lostSync_keeps | apply State.count_keeps | apply Kept.of_ite | intro _
    | (apply Kept.of_snd; assumption) | simp only [↓Kept.mk_other] | split

theorem execSfdFound_keeps {x0 : Nat} {x1 : Nat} {x2 : Bool} (h : Kept v q n s) : KeptOut v q n (execSfdFound x0 x1 x2 s) := by
  unfold execSfdFound
  repeat' with_reducible
    first
    | assumption | apply KeptOut.next | apply KeptOut.of_ite | apply State.setLane_keeps | apply Kept.of_ite | intro _ | simp only [↓Kept.mk_other]
    | split

theorem execSfdTimeout_keeps {x0 : Nat} {x1 : Nat} (h : Kept v q n s) : KeptOut v q n (execSfdTimeout x0 x1 s) := by
  unfold execSfdTimeout
  repeat' with_reducible
    first
    | assumption | apply KeptOut.next | apply KeptOut.of_ite | apply State.releaseServe_keeps | apply State.bump_keeps | apply Kept.of_ite | intro _
    | simp only [↓Kept.mk_other] | split

theorem State.deliver_keeps {x1 : Nat} {x2 : Nat} {x3 : Nat} {x4 : Bool} {x5 : List Nat} {x6 : Nat} {x7 : Rat} {x8 : RxObs} (h : Kept v q n s) : Kept v q n (State.deliver s x1 x2 x3 x4 x5 x6 x7 x8) := by
  unfold State.deliver
  repeat' with_reducible
    first
    | assumption | apply State.setLane_keeps | apply State.setSail_keeps | apply State.releaseServe_keeps | apply State.sailSend_keeps
    | apply Kept.of_ite | intro _ | simp only [↓Kept.mk_other] | split

theorem State.putLast_keeps {x1 : Nat} {x2 : Nat} {x3 : FecResult} {x4 : Nat} {x5 : Nat} (h : Kept v q n s) : Kept v q n (State.putLast s x1 x2 x3 x4 x5) := by
  unfold State.putLast
  repeat' with_reducible
    first
    | assumption | apply State.setWord_keeps | apply State.setSail_keeps | apply Kept.of_ite | intro _ | apply Kept.of_getD
    | simp only [↓Kept.mk_other] | split

theorem State.countFec_keeps {x1 : Nat} {x2 : FecResult} {x3 : Nat} {x4 : Nat} (h : Kept v q n s) : Kept v q n (State.countFec s x1 x2 x3 x4) := by
  unfold State.countFec
  repeat' with_reducible
    first
    | assumption | apply State.count_keeps | apply State.bump_keeps | apply Kept.of_ite | intro _ | simp only [↓Kept.mk_other] | split

theorem State.decodeCleura_keeps {x1 : Nat} {x2 : Nat} {x3 : List Iq} {x4 : RxObs} (h : Kept v q n s) : Kept v q n (State.decodeCleura s x1 x2 x3 x4) := by
  unfold State.decodeCleura
  repeat' with_reducible
    first
    | assumption | apply State.tracked_keeps | apply State.lostSync_keeps | apply State.putLast_keeps | apply State.countFec_keeps
    | apply State.releaseServe_keeps | apply State.deliver_keeps | apply State.setLane_keeps | apply Kept.of_ite | intro _ | apply Kept.of_getD
    | (apply Kept.of_snd; assumption) | apply foldl_keeps (Kept v q n) | simp only [↓Kept.mk_other] | split

theorem execFrameDecodeEnd_keeps {x0 : Nat} {x1 : Nat} {x2 : RxObs} (h : Kept v q n s) : KeptOut v q n (execFrameDecodeEnd x0 x1 x2 s) := by
  unfold execFrameDecodeEnd
  repeat' with_reducible
    first
    | assumption | apply KeptOut.next | apply KeptOut.of_ite | apply State.decodeCleura_keeps | apply State.lostSync_keeps
    | apply State.deliver_keeps | apply Kept.of_ite | intro _ | (apply Kept.of_snd; assumption) | simp only [↓Kept.mk_other] | split

theorem State.advise_keeps {x1 : Nat} {x2 : Lane} (h : Kept v q n s) : Kept v q n (State.advise s x1 x2) := by
  unfold State.advise
  repeat' with_reducible
    first
    | assumption | apply State.setSail_keeps | apply State.bump_keeps | apply Kept.of_ite | intro _ | simp only [↓Kept.mk_other] | split

theorem execLaneDelivered_keeps {x0 : Nat} {x1 : Nat} (h : Kept v q n s) : KeptOut v q n (execLaneDelivered x0 x1 s) := by
  unfold execLaneDelivered
  repeat' with_reducible
    first
    | assumption | apply KeptOut.next | apply KeptOut.of_ite | apply State.bump_keeps | apply State.setLane_keeps | apply State.releaseServe_keeps
    | apply State.advise_keeps | apply Kept.of_ite | intro _ | simp only [↓Kept.mk_other] | split

theorem execAdvisorExamine_keeps {x0 : Nat} (h : Kept v q n s) : KeptOut v q n (execAdvisorExamine x0 s) := by
  unfold execAdvisorExamine
  repeat' with_reducible
    first
    | assumption | apply KeptOut.next | apply KeptOut.of_ite | apply State.sailEvent_keeps | apply State.setSail_keeps | apply State.bump_keeps
    | apply Kept.of_ite | intro _ | apply Kept.of_getD | (apply Kept.of_snd; assumption) | apply foldl_keeps (Kept v q n)
    | simp only [↓Kept.mk_other] | split

/-! ## Receive -/

theorem State.refSwitch_keeps {x1 : Nat} {x2 : Nat} (h : Kept v q n s) : Kept v q n (State.refSwitch s x1 x2) := by
  unfold State.refSwitch
  repeat' with_reducible
    first
    | assumption | apply State.irq_keeps | apply State.bump_keeps | apply State.put_keeps | apply State.setSail_keeps | apply Kept.of_ite | intro _
    | simp only [↓Kept.mk_other] | split

theorem State.sailRefLoss_keeps {x1 : Nat} {x2 : Nat} (h : Kept v q n s) : Kept v q n (State.sailRefLoss s x1 x2) := by
  unfold State.sailRefLoss
  repeat' with_reducible
    first
    | assumption | apply State.put_keeps | apply State.setSail_keeps | apply State.refSwitch_keeps | apply Kept.of_ite | intro _
    | simp only [↓Kept.mk_other] | split

theorem execSampleClockLost_keeps {x0 : Nat} (h : Kept v q n s) : KeptOut v q n (execSampleClockLost x0 s) := by
  unfold execSampleClockLost
  repeat' with_reducible
    first
    | assumption | apply KeptOut.next | apply KeptOut.of_ite | apply State.put_keeps | apply State.setSail_keeps | apply State.releaseAll_keeps
    | apply State.dropWaits_keeps | apply State.endAir_keeps | apply State.refundDuty_keeps | apply State.irq_keeps | apply State.bump_keeps
    | apply Kept.of_ite | intro _ | apply foldl_keeps (Kept v q n) | simp only [↓Kept.mk_other] | split

theorem State.sailRefValid_keeps {x1 : Nat} {x2 : Nat} (h : Kept v q n s) : Kept v q n (State.sailRefValid s x1 x2) := by
  unfold State.sailRefValid
  repeat' with_reducible
    first
    | assumption | apply State.put_keeps | apply State.setSail_keeps | apply Kept.of_ite | intro _ | simp only [↓Kept.mk_other] | split

theorem State.sailRelocked_keeps {x1 : Nat} (h : Kept v q n s) : Kept v q n (State.sailRelocked s x1) := by
  unfold State.sailRelocked
  repeat' with_reducible
    first
    | assumption | apply State.put_keeps | apply State.setSail_keeps | apply State.bump_keeps | apply State.sendReport_keeps | apply Kept.of_ite
    | intro _ | (apply Kept.of_snd; assumption) | apply foldl_keeps (Kept v q n) | simp only [↓Kept.mk_other] | split

theorem State.sailRevert_keeps {x1 : Nat} (h : Kept v q n s) : Kept v q n (State.sailRevert s x1) := by
  unfold State.sailRevert
  repeat' with_reducible
    first
    | assumption | apply State.refSwitch_keeps | apply Kept.of_ite | intro _ | (apply Kept.of_snd; assumption) | simp only [↓Kept.mk_other] | split

theorem State.enterGain_keeps {x1 : Nat} {x2 : Nat} {x3 : Nat} (h : Kept v q n s) : Kept v q n (State.enterGain s x1 x2 x3) := by
  unfold State.enterGain
  repeat' with_reducible
    first
    | assumption | apply State.feSend_keeps | apply State.put_keeps | apply State.setSail_keeps | apply Kept.of_ite | intro _
    | simp only [↓Kept.mk_other] | split

theorem execGainFastStep_keeps {x0 : Nat} {x1 : Nat} (h : Kept v q n s) : KeptOut v q n (execGainFastStep x0 x1 s) := by
  unfold execGainFastStep
  repeat' with_reducible
    first
    | assumption | apply KeptOut.next | apply KeptOut.of_ite | apply State.irq_keeps | apply State.bump_keeps | apply State.enterGain_keeps
    | apply State.setSail_keeps | apply Kept.of_ite | intro _ | (apply Kept.of_snd; assumption) | simp only [↓Kept.mk_other] | split

theorem execGainTickRise_keeps {x0 : Nat} {x1 : Nat} (h : Kept v q n s) : KeptOut v q n (execGainTickRise x0 x1 s) := by
  unfold execGainTickRise
  repeat' with_reducible
    first
    | assumption | apply KeptOut.next | apply KeptOut.of_ite | apply State.bump_keeps | apply State.enterGain_keeps | apply State.setSail_keeps
    | apply Kept.of_ite | intro _ | (apply Kept.of_snd; assumption) | simp only [↓Kept.mk_other] | split

theorem State.closeSlotGain_keeps {x1 : Nat} {x2 : Nat} {x3 : Nat} {x4 : Nat} {x5 : Int} (h : Kept v q n s) : Kept v q n (State.closeSlotGain s x1 x2 x3 x4 x5) := by
  unfold State.closeSlotGain
  repeat' with_reducible
    first
    | assumption | apply State.setSail_keeps | apply State.put_keeps | apply State.count_keeps | apply Kept.of_ite | intro _
    | simp only [↓Kept.mk_other] | split

theorem execDetectorResume_keeps {x0 : Nat} {x1 : Nat} (h : Kept v q n s) : KeptOut v q n (execDetectorResume x0 x1 s) := by
  unfold execDetectorResume
  repeat' with_reducible
    first
    | assumption | apply KeptOut.next | apply KeptOut.of_ite | apply State.setSail_keeps | apply Kept.of_ite | intro _ | simp only [↓Kept.mk_other]
    | split

theorem State.unblank_keeps {x1 : Nat} {x2 : Nat} (h : Kept v q n s) : Kept v q n (State.unblank s x1 x2) := by
  unfold State.unblank
  repeat' with_reducible
    first
    | assumption | apply State.count_keeps | apply State.setSail_keeps | (apply Kept.of_snd; assumption) | simp only [↓Kept.mk_other] | split

theorem State.reblank_keeps {x1 : Nat} {x2 : Nat} (h : Kept v q n s) : Kept v q n (State.reblank s x1 x2) := by
  unfold State.reblank
  repeat' with_reducible
    first
    | assumption | apply State.unblank_keeps | apply State.setSail_keeps | apply State.put_keeps | apply Kept.of_ite | intro _
    | simp only [↓Kept.mk_other] | split

theorem State.retuneWindows_keeps {x1 : Nat} (h : Kept v q n s) : Kept v q n (State.retuneWindows s x1) := by
  unfold State.retuneWindows
  repeat' with_reducible
    first
    | assumption | apply State.reblank_keeps | apply State.setSail_keeps | apply State.releaseAll_keeps | apply State.dropWaits_keeps
    | apply State.bump_keeps | apply Kept.of_ite | intro _ | apply foldl_keeps (Kept v q n) | simp only [↓Kept.mk_other] | split

theorem execBlankingStart_keeps {x0 : Nat} (h : Kept v q n s) : KeptOut v q n (execBlankingStart x0 s) := by
  unfold execBlankingStart
  repeat' with_reducible
    first
    | assumption | apply KeptOut.next | apply KeptOut.of_ite | apply State.put_keeps | apply State.setSail_keeps | apply State.releaseAll_keeps
    | apply State.dropWaits_keeps | apply State.bump_keeps | apply Kept.of_ite | intro _ | apply foldl_keeps (Kept v q n)
    | simp only [↓Kept.mk_other] | split

theorem execBlankingEnd_keeps {x0 : Nat} (h : Kept v q n s) : KeptOut v q n (execBlankingEnd x0 s) := by
  unfold execBlankingEnd
  repeat' with_reducible
    first
    | assumption | apply KeptOut.next | apply KeptOut.of_ite | apply State.unblank_keeps | apply State.put_keeps | apply State.setSail_keeps
    | apply Kept.of_ite | intro _ | apply foldl_keeps (Kept v q n) | simp only [↓Kept.mk_other] | split

theorem State.accLaneHwmClr_keeps {x1 : Nat} {x2 : Nat} {x3 : Nat} {x4 : Nat} (h : Kept v q n s) : Kept v q n (State.accLaneHwmClr s x1 x2 x3 x4) := by
  unfold State.accLaneHwmClr
  repeat' with_reducible
    first
    | assumption | apply State.sailAction_keeps | apply State.put_keeps | apply Kept.of_ite | intro _ | apply foldl_keeps (Kept v q n) | split

/-! ## Time -/

theorem State.mastRefSwitch_keeps {x1 : Nat} {x2 : Nat} (h : Kept v q n s) : Kept v q n (State.mastRefSwitch s x1 x2) := by
  unfold State.mastRefSwitch
  repeat' with_reducible first | assumption | apply State.irq_keeps | apply State.put_keeps

theorem State.mastRefLoss_keeps {x1 : Nat} {x2 : Nat} (h : Kept v q n s) : Kept v q n (State.mastRefLoss s x1 x2) := by
  unfold State.mastRefLoss
  repeat' with_reducible
    first
    | assumption | apply State.put_keeps | apply State.setMast_keeps | apply State.mastRefSwitch_keeps | apply Kept.of_ite | intro _
    | simp only [↓Kept.mk_other] | split

theorem execRefclkLoss_keeps {x0 : Nat} {x1 : Nat} (h : Kept v q n s) : KeptOut v q n (execRefclkLoss x0 x1 s) := by
  unfold execRefclkLoss
  repeat' with_reducible
    first
    | assumption | apply KeptOut.next | apply KeptOut.of_ite | apply State.mastRefLoss_keeps | apply State.sailRefLoss_keeps | apply Kept.of_ite
    | intro _ | split

theorem execLocalClockHold_keeps {x0 : Nat} (h : Kept v q n s) : KeptOut v q n (execLocalClockHold x0 s) := by
  unfold execLocalClockHold
  repeat' with_reducible
    first
    | assumption | apply KeptOut.next | apply KeptOut.of_ite | apply State.selfFaults_keeps | apply State.irq_keeps | apply State.put_keeps
    | apply Kept.of_ite | intro _ | split

theorem execRefRelockStart_keeps {x0 : Nat} {x1 : Nat} (h : Kept v q n s) : KeptOut v q n (execRefRelockStart x0 x1 s) := by
  unfold execRefRelockStart
  repeat' with_reducible
    first
    | assumption | apply KeptOut.next | apply KeptOut.of_ite | apply State.sailRefValid_keeps | apply State.put_keeps | apply State.setMast_keeps
    | apply Kept.of_ite | intro _ | simp only [↓Kept.mk_other] | split

theorem execRelockComplete_keeps {x0 : Nat} (h : Kept v q n s) : KeptOut v q n (execRelockComplete x0 s) := by
  unfold execRelockComplete
  repeat' with_reducible
    first
    | assumption | apply KeptOut.next | apply KeptOut.of_ite | apply State.sailRelocked_keeps | apply State.put_keeps | apply State.setMast_keeps
    | apply Kept.of_ite | intro _ | (apply Kept.of_snd; assumption) | simp only [↓Kept.mk_other] | split

theorem State.mastRevert_keeps {x1 : Nat} (h : Kept v q n s) : Kept v q n (State.mastRevert s x1) := by
  unfold State.mastRevert
  repeat' with_reducible
    first
    | assumption | apply State.mastRefSwitch_keeps | apply Kept.of_ite | intro _ | (apply Kept.of_snd; assumption) | simp only [↓Kept.mk_other]
    | split

theorem State.tpoNext_keeps {x1 : Nat} {x2 : Nat} {x3 : Nat × Nat} (h : Kept v q n s) : Kept v q n (State.tpoNext s x1 x2 x3) := by
  unfold State.tpoNext
  repeat' with_reducible first | assumption | apply State.put_keeps | apply State.put64_keeps

theorem State.tpoPolarity_keeps {x1 : Nat} {x2 : Nat} (h : Kept v q n s) : Kept v q n (State.tpoPolarity s x1 x2) := by
  unfold State.tpoPolarity
  repeat' with_reducible first | assumption | apply State.setMast_keeps | intro _ | simp only [↓Kept.mk_other]

theorem State.tpoArm_keeps {x1 : Nat} {x2 : Nat} (h : Kept v q n s) : Kept v q n (State.tpoArm s x1 x2) := by
  unfold State.tpoArm
  repeat' with_reducible
    first
    | assumption | apply State.tpoPolarity_keeps | apply State.tpoNext_keeps | apply State.irq_keeps | apply State.put_keeps | apply Kept.of_ite
    | intro _ | (apply Kept.of_snd; assumption) | simp only [↓Kept.mk_other] | split

theorem State.tpoSkip_keeps {x1 : Nat} {x2 : Nat} {x3 : Nat} (h : Kept v q n s) : Kept v q n (State.tpoSkip s x1 x2 x3) := by
  unfold State.tpoSkip
  repeat' with_reducible
    first
    | assumption | apply State.count_keeps | apply State.tpoNext_keeps | apply State.bump_keeps | apply State.put_keeps | apply Kept.of_ite | intro _
    | simp only [↓Kept.mk_other] | split

theorem execTpoEdge_keeps {x0 : Nat} {x1 : Nat} (h : Kept v q n s) : KeptOut v q n (execTpoEdge x0 x1 s) := by
  unfold execTpoEdge
  repeat' with_reducible
    first
    | assumption | apply KeptOut.next | apply KeptOut.of_ite | apply State.output_keeps | apply State.bump_keeps | apply State.tpoPolarity_keeps
    | apply State.setMast_keeps | apply State.emit_keeps | apply State.tpoNext_keeps | apply State.put_keeps | apply Kept.of_ite | intro _
    | simp only [↓Kept.mk_other] | split

theorem State.tpoCommitted_keeps {x0 : State} {x2 : Nat} (g0 : Kept v q n x0) (h : Kept v q n s) : Kept v q n (State.tpoCommitted x0 s x2) := by
  unfold State.tpoCommitted
  repeat' with_reducible first | assumption | apply State.tpoArm_keeps | apply Kept.of_ite | intro _ | apply foldl_keeps (Kept v q n) | split

theorem State.domStepped_keeps {x1 : Nat} {x2 : Nat} (h : Kept v q n s) : Kept v q n (State.domStepped s x1 x2) := by
  unfold State.domStepped
  repeat' with_reducible
    first
    | assumption | apply State.gatesStepped_keeps | apply State.tpoSkip_keeps | apply Kept.of_ite | intro _ | apply foldl_keeps (Kept v q n)
    | simp only [↓Kept.mk_other] | split

theorem State.step'_keeps {x1 : Nat} {x2 : Nat} {x3 : Int} (h : Kept v q n s) : Kept v q n (State.step' s x1 x2 x3) := by
  unfold State.step'
  repeat' with_reducible
    first
    | assumption | apply State.setMast_keeps | apply State.domStepped_keeps | apply State.setDom_keeps | apply Kept.of_ite | intro _
    | apply Kept.of_getD | simp only [↓Kept.mk_other] | split

theorem State.quotient_keeps {x1 : Int} {x2 : Int} (h : Kept v q n s) : Kept v q n (State.quotient s x1 x2).2 := by
  unfold State.quotient
  repeat' with_reducible first | assumption | apply State.free_keeps | apply Kept.of_ite | intro _ | simp only [↓Kept.mk_other] | split

theorem State.setFreq_keeps {x1 : Nat} {x2 : Nat} {x3 : Int} (h : Kept v q n s) : Kept v q n (State.setFreq s x1 x2 x3) := by
  unfold State.setFreq
  repeat' with_reducible first | assumption | apply State.setDom_keeps | simp only [↓Kept.mk_other]

theorem State.tau_keeps {x1 : Nat} {x2 : Nat} (h : Kept v q n s) : Kept v q n (State.tau s x1 x2).2 := by
  unfold State.tau
  repeat' with_reducible first | assumption | apply State.free_keeps | (apply Kept.of_snd; assumption) | simp only [↓Kept.mk_other] | split

theorem State.servo_keeps {x1 : Nat} {x2 : Nat} {x3 : Int} (h : Kept v q n s) : Kept v q n (State.servo s x1 x2 x3) := by
  unfold State.servo
  repeat' with_reducible
    first
    | assumption | apply State.step'_keeps | apply State.setDom_keeps | apply State.irq_keeps | apply State.put_keeps | apply State.bump_keeps
    | apply State.tau_keeps | apply State.quotient_keeps | apply State.raise_keeps | apply Kept.of_ite | intro _ | simp only [↓Kept.mk_other] | split

theorem State.sourceLost_keeps {x1 : Nat} {x2 : Nat} (h : Kept v q n s) : Kept v q n (State.sourceLost s x1 x2) := by
  unfold State.sourceLost
  repeat' with_reducible
    first
    | assumption | apply State.bump_keeps | apply State.put_keeps | apply State.setDom_keeps | apply State.irq_keeps | apply Kept.of_ite | intro _
    | simp only [↓Kept.mk_other] | split

theorem State.timeCommitted_keeps {x1 : Nat} (h : Kept v q n s) : Kept v q n (State.timeCommitted s x1) := by
  unfold State.timeCommitted
  repeat' with_reducible
    first
    | assumption | apply State.put_keeps | apply State.setDom_keeps | apply Kept.of_ite | intro _ | apply foldl_keeps (Kept v q n)
    | simp only [↓Kept.mk_other] | split

theorem State.accTimeSample_keeps {x1 : Nat} {x2 : Nat} {x3 : Nat} {x4 : Nat} {x5 : Nat} (h : Kept v q n s) : Kept v q n (State.accTimeSample s x1 x2 x3 x4 x5) := by
  unfold State.accTimeSample
  repeat' with_reducible
    first
    | assumption | apply State.action_keeps | apply State.servo_keeps | apply State.bump_keeps | apply Kept.of_ite | intro _ | split

theorem execTimeSampleWrite_keeps {x0 : Nat} {x1 : Nat} {x2 : Nat} {x3 : Nat} {x4 : Nat} (h : Kept v q n s) : KeptOut v q n (execTimeSampleWrite x0 x1 x2 x3 x4 s) := by
  unfold execTimeSampleWrite
  repeat' with_reducible
    first
    | assumption | apply KeptOut.next | apply KeptOut.of_ite | apply State.hostOn_keeps | apply State.accTimeSample_keeps | apply Kept.of_ite
    | intro _ | split

theorem State.ppsSample_keeps {x1 : Nat} {x2 : Nat} {x3 : Int} (h : Kept v q n s) : Kept v q n (State.ppsSample s x1 x2 x3) := by
  unfold State.ppsSample
  repeat' with_reducible
    first
    | assumption | (apply State.mirror_keeps; assumption) | apply State.servo_keeps | (apply Kept.of_snd; assumption) | simp only [↓Kept.mk_other]
    | split

theorem execPpsEdge_keeps {x0 : Nat} (h : Kept v q n s) : KeptOut v q n (execPpsEdge x0 s) := by
  unfold execPpsEdge
  repeat' with_reducible
    first
    | assumption | apply KeptOut.next | apply KeptOut.of_ite | apply State.put_keeps | apply State.put64_keeps | apply State.ppsSample_keeps
    | apply Kept.of_ite | intro _ | apply foldl_keeps (Kept v q n) | simp only [↓Kept.mk_other] | split

theorem execPpsMissed_keeps {x0 : Nat} (h : Kept v q n s) : KeptOut v q n (execPpsMissed x0 s) := by
  unfold execPpsMissed
  repeat' with_reducible
    first
    | assumption | apply KeptOut.next | apply KeptOut.of_ite | apply State.put_keeps | apply State.sourceLost_keeps | apply Kept.of_ite | intro _
    | apply foldl_keeps (Kept v q n) | simp only [↓Kept.mk_other] | split

theorem execSourceLossTimeout_keeps {x0 : Nat} {x1 : Nat} (h : Kept v q n s) : KeptOut v q n (execSourceLossTimeout x0 x1 s) := by
  unfold execSourceLossTimeout
  repeat' with_reducible
    first
    | assumption | apply KeptOut.next | apply KeptOut.of_ite | apply State.sourceLost_keeps | apply Kept.of_ite | intro _ | split

theorem State.setGo_keeps {x1 : Nat} {x2 : Nat} (h : Kept v q n s) : Kept v q n (State.setGo s x1 x2) := by
  unfold State.setGo
  repeat' with_reducible
    first
    | assumption | apply State.bump_keeps | apply State.setMast_keeps | apply State.domStepped_keeps | apply State.setDom_keeps | apply Kept.of_ite
    | intro _ | simp only [↓Kept.mk_other] | split

theorem State.accTimeCtl_keeps {x1 : Nat} {x2 : Nat} {x3 : Nat} {x4 : Nat} {x5 : Nat} (h : Kept v q n s) : Kept v q n (State.accTimeCtl s x1 x2 x3 x4 x5) := by
  unfold State.accTimeCtl
  repeat' with_reducible
    first
    | assumption | apply State.action_keeps | apply State.put_keeps | apply State.setGo_keeps | apply Kept.of_ite | intro _
    | simp only [↓Kept.mk_other] | split

theorem execTimeArm_keeps {x0 : Nat} {x1 : Nat} {x2 : Nat} {x3 : Nat} (h : Kept v q n s) : KeptOut v q n (execTimeArm x0 x1 x2 x3 s) := by
  unfold execTimeArm
  repeat' with_reducible
    first
    | assumption | apply KeptOut.next | apply KeptOut.of_ite | apply State.hostOn_keeps | apply State.accTimeCtl_keeps | apply Kept.of_ite | intro _
    | split

theorem execTimeSetGo_keeps {x0 : Nat} {x1 : Nat} {x2 : Nat} {x3 : Nat} (h : Kept v q n s) : KeptOut v q n (execTimeSetGo x0 x1 x2 x3 s) := by
  unfold execTimeSetGo
  repeat' with_reducible
    first
    | assumption | apply KeptOut.next | apply KeptOut.of_ite | apply State.hostOn_keeps | apply State.accTimeCtl_keeps | apply Kept.of_ite | intro _
    | split

theorem State.meshTick_keeps {x1 : Nat} (h : Kept v q n s) : Kept v q n (State.meshTick s x1) := by
  unfold State.meshTick
  repeat' with_reducible
    first
    | assumption | apply State.setDom_keeps | apply State.setMast_keeps | apply State.domStepped_keeps | apply Kept.of_ite | intro _
    | simp only [↓Kept.mk_other] | split

end Sys2Proof.Machine
end

