-- ==== Sys2Proof/Laws/KeepsMac.lean ====
section
/-! SUPPORT. What every operation keeps (see Keeps): one lemma for each operation of MacBase, Packets, MacRx, MacPath, CampBase, MacTx. -/

namespace Sys2Proof.Machine

variable {v : Variant} {q : List Instr} {n : Nat} {s t : State}

/-! ## MacBase -/

theorem State.setLink_keeps {x1 : Nat} {x2 : Nat} {x3 : Link} (h : Kept v q n s) : Kept v q n (State.setLink s x1 x2 x3) := by
  unfold State.setLink
  repeat' with_reducible first | assumption | apply State.setMast_keeps | simp only [↓Kept.mk_other]

theorem State.setMac_keeps {x1 : Nat} {x2 : Mac} (h : Kept v q n s) : Kept v q n (State.setMac s x1 x2) := by
  unfold State.setMac
  repeat' with_reducible first | assumption | apply State.setMast_keeps | simp only [↓Kept.mk_other]

theorem State.fcReserve_keeps {x1 : Nat} (h : Kept v q n s) : Kept v q n (State.fcReserve s x1) := by
  unfold State.fcReserve
  repeat' with_reducible
    first
    | assumption | apply State.output_keeps | apply State.setMac_keeps | apply State.nvRequest_keeps | apply Kept.of_ite | intro _
    | simp only [↓Kept.mk_other] | split

theorem State.fcTaken_keeps {x1 : Nat} {x2 : Nat} (h : Kept v q n s) : Kept v q n (State.fcTaken s x1 x2) := by
  unfold State.fcTaken
  repeat' with_reducible first | assumption | apply State.fcReserve_keeps | apply State.raise_keeps

theorem State.fcExhausted_keeps {x1 : Nat} {x2 : Nat} (h : Kept v q n s) : Kept v q n (State.fcExhausted s x1 x2) := by
  unfold State.fcExhausted
  repeat' with_reducible first | assumption | apply State.event_keeps | apply State.irq_keeps | apply State.bump_keeps

theorem State.dwellAge_keeps {x1 : Nat} (h : Kept v q n s) : Kept v q n (State.dwellAge s x1) := by
  unfold State.dwellAge
  repeat' with_reducible first | assumption | apply State.setMac_keeps | intro _ | simp only [↓Kept.mk_other]

theorem State.dwell_keeps {x1 : Nat} {x2 : Nat} {x3 : Int} {x4 : Nat} (h : Kept v q n s) : Kept v q n (State.dwell s x1 x2 x3 x4).2 := by
  unfold State.dwell
  repeat' with_reducible
    first
    | assumption | apply State.dwellAge_keeps | apply State.bump_keeps | apply State.raise_keeps | apply State.setMac_keeps | apply Kept.of_ite
    | intro _ | simp only [↓Kept.mk_other] | split

theorem State.toSail_keeps {x1 : Nat} {x2 : Nat} {x3 : Nat} {x4 : Nat} {x5 : List Nat} (h : Kept v q n s) : Kept v q n (State.toSail s x1 x2 x3 x4 x5) := by
  unfold State.toSail
  repeat' with_reducible
    first
    | assumption | apply State.output_keeps | apply State.sendOn_keeps | apply Kept.of_ite | intro _ | apply foldl_keeps (Kept v q n)
    | simp only [↓Kept.mk_other] | split

theorem State.resolve_keeps {x1 : Nat} {x2 : Launch} {x3 : Nat} (h : Kept v q n s) : Kept v q n (State.resolve s x1 x2 x3) := by
  unfold State.resolve
  repeat' with_reducible first | assumption | apply State.setMac_keeps | apply Kept.of_ite | intro _ | simp only [↓Kept.mk_other] | split

theorem State.unqueueItem_keeps {x1 : Nat} {x2 : Nat} {x3 : Nat} (h : Kept v q n s) : Kept v q n (State.unqueueItem s x1 x2 x3) := by
  unfold State.unqueueItem
  repeat' with_reducible first | assumption | apply State.setSal_keeps | simp only [↓Kept.mk_other]

theorem State.dropQueued_keeps {x1 : Nat} {x2 : Launch} (h : Kept v q n s) : Kept v q n (State.dropQueued s x1 x2) := by
  unfold State.dropQueued
  repeat' with_reducible first | assumption | apply State.freeItem_keeps | apply State.unqueueItem_keeps | apply Kept.of_ite | intro _ | split

theorem State.addLaunch_keeps {x1 : Nat} {x2 : Launch} (h : Kept v q n s) : Kept v q n (State.addLaunch s x1 x2) := by
  unfold State.addLaunch
  repeat' with_reducible first | assumption | apply State.setMac_keeps | simp only [↓Kept.mk_other]

theorem State.noteLeft_keeps {x1 : Nat} {x2 : Nat} (h : Kept v q n s) : Kept v q n (State.noteLeft s x1 x2) := by
  unfold State.noteLeft
  repeat' with_reducible
    first
    | assumption | apply State.setMac_keeps | apply State.raise_keeps | apply State.bump_keeps | apply Kept.of_ite | intro _
    | apply foldl_keeps (Kept v q n) | simp only [↓Kept.mk_other] | split

theorem State.handLaunch_keeps {x1 : Nat} {x2 : Launch} (h : Kept v q n s) : Kept v q n (State.handLaunch s x1 x2) := by
  unfold State.handLaunch
  repeat' with_reducible
    first
    | assumption | apply State.setMac_keeps | apply State.noteLeft_keeps | apply State.toSail_keeps | simp only [↓Kept.mk_other]

/-! ## Packets -/

theorem State.countConn_keeps {x1 : Nat} {x2 : Fld} (h : Kept v q n s) : Kept v q n (State.countConn s x1 x2) := by
  unfold State.countConn
  repeat' with_reducible first | assumption | apply State.bump_keeps | intro _ | apply foldl_keeps (Kept v q n)

theorem State.retrain_keeps {x1 : Nat} (h : Kept v q n s) : Kept v q n (State.retrain s x1) := by
  unfold State.retrain
  repeat' with_reducible first | assumption | apply State.countConn_keeps | apply State.setConn_keeps | simp only [↓Kept.mk_other]

theorem State.resend_keeps {x1 : Nat} {x2 : Bool} (h : Kept v q n s) : Kept v q n (State.resend s x1 x2) := by
  unfold State.resend
  repeat' with_reducible first | assumption | apply State.emitAll_keeps | intro _

theorem State.replay_keeps {x1 : Nat} {x2 : Bool} (h : Kept v q n s) : Kept v q n (State.replay s x1 x2) := by
  unfold State.replay
  repeat' with_reducible
    first
    | assumption | apply State.retrain_keeps | apply State.setConn_keeps | apply State.resend_keeps | apply State.countConn_keeps | apply Kept.of_ite
    | intro _ | simp only [↓Kept.mk_other] | split

theorem State.flushAnswers_keeps {x1 : Nat} {x2 : Nat} (h : Kept v q n s) : Kept v q n (State.flushAnswers s x1 x2) := by
  induction x2 generalizing s with
  | zero => exact h
  | succ _ ih =>
  unfold State.flushAnswers
  repeat' with_reducible
    first
    | assumption | apply ih | apply State.sendOn_keeps | apply State.setConn_keeps | apply Kept.of_ite | intro _ | (apply Kept.of_snd; assumption)
    | simp only [↓Kept.mk_other] | split

theorem State.hear_keeps {x1 : Nat} {x2 : Nat} (h : Kept v q n s) : Kept v q n (State.hear s x1 x2) := by
  unfold State.hear
  repeat' with_reducible first | assumption | apply State.setSail_keeps | simp only [↓Kept.mk_other]

theorem execLinkctl_keeps {x0 : Nat} {x1 : Bool} {x2 : LinkCtl} (h : Kept v q n s) : KeptOut v q n (execLinkctl x0 x1 x2 s) := by
  unfold execLinkctl
  repeat' with_reducible
    first
    | assumption | apply KeptOut.next | apply KeptOut.of_ite | apply State.hear_keeps | apply State.put_keeps | apply State.setConn_keeps
    | apply State.replay_keeps | apply State.flushAnswers_keeps | apply State.pump_keeps | apply State.noteLeft_keeps | apply Kept.of_ite | intro _
    | apply foldl_keeps (Kept v q n) | simp only [↓Kept.mk_other] | split

theorem execLinkReplayTimeout_keeps {x0 : Nat} {x1 : Bool} (h : Kept v q n s) : KeptOut v q n (execLinkReplayTimeout x0 x1 s) := by
  unfold execLinkReplayTimeout
  repeat' with_reducible
    first
    | assumption | apply KeptOut.next | apply KeptOut.of_ite | apply State.replay_keeps | apply Kept.of_ite | intro _ | split

theorem execLinkctlKeepalive_keeps {x0 : Nat} {x1 : Bool} (h : Kept v q n s) : KeptOut v q n (execLinkctlKeepalive x0 x1 s) := by
  unfold execLinkctlKeepalive
  repeat' with_reducible
    first
    | assumption | apply KeptOut.next | apply KeptOut.of_ite | apply State.sendLinkctl_keeps | apply Kept.of_ite | intro _ | split

theorem State.takeoverTo_keeps {x1 : Nat} {x2 : Nat} (h : Kept v q n s) : Kept v q n (State.takeoverTo s x1 x2) := by
  unfold State.takeoverTo
  repeat' with_reducible first | assumption | apply State.sendOn_keeps | intro _

theorem State.sailLocked_keeps {x1 : Nat} (h : Kept v q n s) : Kept v q n (State.sailLocked s x1) := by
  unfold State.sailLocked
  repeat' with_reducible first | assumption | apply State.put_keeps | apply Kept.of_ite | intro _ | simp only [↓Kept.mk_other] | split

theorem State.trained_keeps {x1 : Nat} (h : Kept v q n s) : Kept v q n (State.trained s x1) := by
  unfold State.trained
  repeat' with_reducible
    first
    | assumption | apply State.put_keeps | apply State.sailLocked_keeps | apply State.takeoverTo_keeps | apply Kept.of_ite | intro _
    | simp only [↓Kept.mk_other] | split

theorem execRetrainingComplete_keeps {x0 : Nat} (h : Kept v q n s) : KeptOut v q n (execRetrainingComplete x0 s) := by
  unfold execRetrainingComplete
  repeat' with_reducible
    first
    | assumption | apply KeptOut.next | apply KeptOut.of_ite | apply State.flushAnswers_keeps | apply State.pump_keeps | apply State.resend_keeps
    | apply State.setConn_keeps | apply State.trained_keeps | apply State.noteLeft_keeps | apply Kept.of_ite | intro _ | simp only [↓Kept.mk_other]
    | split

theorem State.peerLost_keeps {x1 : Nat} (h : Kept v q n s) : Kept v q n (State.peerLost s x1) := by
  unfold State.peerLost
  repeat' with_reducible
    first
    | assumption | apply State.irq_keeps | apply State.bump_keeps | apply State.put_keeps | apply Kept.of_ite | intro _ | simp only [↓Kept.mk_other]
    | split

theorem State.linkFailed_keeps {x1 : Nat} (h : Kept v q n s) : Kept v q n (State.linkFailed s x1) := by
  unfold State.linkFailed
  repeat' with_reducible
    first
    | assumption | apply State.irq_keeps | apply State.setConn_keeps | apply State.put_keeps | apply State.peerLost_keeps | apply State.serve_keeps
    | apply State.releaseLane_keeps | apply State.bump_keeps | apply State.setMast_keeps | apply Kept.of_ite | intro _
    | apply foldl_keeps (Kept v q n) | simp only [↓Kept.mk_other] | split

theorem execRetrainingTimeout_keeps {x0 : Nat} (h : Kept v q n s) : KeptOut v q n (execRetrainingTimeout x0 s) := by
  unfold execRetrainingTimeout
  repeat' with_reducible
    first
    | assumption | apply KeptOut.next | apply KeptOut.of_ite | apply State.linkFailed_keeps | apply State.retrain_keeps | apply State.setConn_keeps
    | apply Kept.of_ite | intro _ | simp only [↓Kept.mk_other] | split

theorem State.accRetrain_keeps {x1 : Nat} {x2 : Nat} {x3 : Nat} {x4 : Nat} (h : Kept v q n s) : Kept v q n (State.accRetrain s x1 x2 x3 x4) := by
  unfold State.accRetrain
  repeat' with_reducible
    first
    | assumption | apply State.action_keeps | apply State.retrain_keeps | apply State.setConn_keeps | apply Kept.of_ite | intro _
    | (apply Kept.of_snd; assumption) | simp only [↓Kept.mk_other] | split

theorem execTatrumRetrain_keeps {x0 : Nat} {x1 : Nat} {x2 : Nat} {x3 : Nat} (h : Kept v q n s) : KeptOut v q n (execTatrumRetrain x0 x1 x2 x3 s) := by
  unfold execTatrumRetrain
  repeat' with_reducible first | assumption | apply KeptOut.next | apply State.hostOn_keeps | apply State.accRetrain_keeps | intro _

theorem State.arrive_keeps {x1 : Nat} {x2 : Nat} {x3 : Nat} {x4 : List LinkPkt} (h : Kept v q n s) : Kept v q n (State.arrive s x1 x2 x3 x4).2 := by
  unfold State.arrive
  repeat' with_reducible
    first
    | assumption | apply State.receive_keeps | apply State.hear_keeps | apply Kept.of_ite | intro _ | simp only [↓Kept.mk_other] | split

theorem State.recordCmd_keeps {x1 : Nat} {x2 : Nat} {x3 : Nat} {x4 : Content} (h : Kept v q n s) : Kept v q n (State.recordCmd s x1 x2 x3 x4) := by
  unfold State.recordCmd
  repeat' with_reducible first | assumption | apply State.setSail_keeps | intro _ | simp only [↓Kept.mk_other]

theorem State.gate_keeps {x1 : Nat} {x2 : Nat} {x3 : Nat} {x4 : Nat} {x5 : Content} (h : Kept v q n s) : Kept v q n (State.gate s x1 x2 x3 x4 x5).2 := by
  unfold State.gate
  repeat' with_reducible
    first
    | assumption | apply State.bump_keeps | apply State.irq_keeps | apply State.recordCmd_keeps | apply Kept.of_ite | intro _
    | (apply Kept.of_snd; assumption) | simp only [↓Kept.mk_other] | split

theorem State.accepts_keeps {x1 : Nat} {x2 : Nat} {x3 : Nat} {x4 : Nat} {x5 : Content} {x6 : List LinkPkt} (h : Kept v q n s) : Kept v q n (State.accepts s x1 x2 x3 x4 x5 x6).2 := by
  unfold State.accepts
  repeat' with_reducible
    first
    | assumption | apply State.arrive_keeps | apply State.gate_keeps | apply Kept.of_ite | intro _ | simp only [↓Kept.mk_other] | split

theorem State.joinTx_keeps {x1 : Nat} {x2 : Nat} {x3 : TxFrame → TxFrame} (h : Kept v q n s) : Kept v q n (State.joinTx s x1 x2 x3) := by
  unfold State.joinTx
  repeat' with_reducible
    first
    | assumption | apply State.setTx_keeps | apply State.setSail_keeps | (apply Kept.of_snd; assumption) | simp only [↓Kept.mk_other] | split

theorem execFrameDown_keeps {x0 : Nat} {x1 : Nat} {x2 : Nat} {x3 : Frame} {x4 : List LinkPkt} (h : Kept v q n s) : KeptOut v q n (execFrameDown x0 x1 x2 x3 x4 s) := by
  unfold execFrameDown
  repeat' with_reducible
    first
    | assumption | apply KeptOut.next | apply KeptOut.of_ite | apply State.accepts_keeps | apply State.joinTx_keeps | apply Kept.of_ite | intro _
    | simp only [↓Kept.mk_other] | split

theorem execLaunch_keeps {x0 : Nat} {x1 : Nat} {x2 : Nat} {x3 : LaunchDesc} {x4 : List LinkPkt} (h : Kept v q n s) : KeptOut v q n (execLaunch x0 x1 x2 x3 x4 s) := by
  unfold execLaunch
  repeat' with_reducible
    first
    | assumption | apply KeptOut.next | apply KeptOut.of_ite | apply State.accepts_keeps | apply State.joinTx_keeps | apply Kept.of_ite | intro _
    | simp only [↓Kept.mk_other] | split

theorem execTick_keeps {x0 : Nat} {x1 : Nat} {x2 : Nat} {x3 : Nat} {x4 : List LinkPkt} (h : Kept v q n s) : KeptOut v q n (execTick x0 x1 x2 x3 x4 s) := by
  unfold execTick
  repeat' with_reducible
    first
    | assumption | apply KeptOut.next | apply KeptOut.of_ite | apply State.arrive_keeps | apply State.put_keeps | apply State.setSail_keeps
    | apply State.receive_keeps | apply State.setMast_keeps | apply Kept.of_ite | intro _ | simp only [↓Kept.mk_other] | split

theorem execTickFreerun_keeps {x0 : Nat} (h : Kept v q n s) : KeptOut v q n (execTickFreerun x0 s) := by
  unfold execTickFreerun
  repeat' with_reducible
    first
    | assumption | apply KeptOut.next | apply KeptOut.of_ite | apply State.setSail_keeps | apply State.irq_keeps | apply State.put_keeps
    | apply State.bump_keeps | apply Kept.of_ite | intro _ | simp only [↓Kept.mk_other] | split

theorem State.takeHints_keeps {x1 : Nat} {x2 : List HintEntry} (h : Kept v q n s) : Kept v q n (State.takeHints s x1 x2) := by
  unfold State.takeHints
  repeat' with_reducible
    first
    | assumption | apply State.setSail_keeps | apply Kept.of_ite | intro _ | apply foldl_keeps (Kept v q n) | simp only [↓Kept.mk_other] | split

theorem execCfoHint_keeps {x0 : Nat} {x1 : Nat} {x2 : Nat} {x3 : Nat} {x4 : Nat} {x5 : List HintEntry} {x6 : List LinkPkt} (h : Kept v q n s) : KeptOut v q n (execCfoHint x0 x1 x2 x3 x4 x5 x6 s) := by
  unfold execCfoHint
  repeat' with_reducible
    first
    | assumption | apply KeptOut.next | apply KeptOut.of_ite | apply State.accepts_keeps | apply State.bump_keeps | apply State.takeHints_keeps
    | apply Kept.of_ite | intro _ | simp only [↓Kept.mk_other] | split

theorem execCmdUnknownKind_keeps {x0 : Nat} {x1 : Nat} {x2 : Nat} {x3 : List Nat} {x4 : List LinkPkt} (h : Kept v q n s) : KeptOut v q n (execCmdUnknownKind x0 x1 x2 x3 x4 s) := by
  unfold execCmdUnknownKind
  repeat' with_reducible
    first
    | assumption | apply KeptOut.next | apply KeptOut.of_ite | apply State.accepts_keeps | apply State.bump_keeps | apply Kept.of_ite | intro _
    | simp only [↓Kept.mk_other] | split

theorem State.loadDuty_keeps {x1 : Nat} {x2 : Nat} (h : Kept v q n s) : Kept v q n (State.loadDuty s x1 x2) := by
  unfold State.loadDuty
  repeat' with_reducible
    first
    | assumption | apply State.chargeDuty_keeps | apply Kept.of_ite | intro _ | apply foldl_keeps (Kept v q n) | simp only [↓Kept.mk_other] | split

theorem execTakeover_keeps {x0 : Nat} {x1 : Nat} {x2 : Nat} {x3 : Nat} {x4 : List LinkPkt} (h : Kept v q n s) : KeptOut v q n (execTakeover x0 x1 x2 x3 x4 s) := by
  unfold execTakeover
  repeat' with_reducible
    first
    | assumption | apply KeptOut.next | apply KeptOut.of_ite | apply State.arrive_keeps | apply State.bump_keeps | apply State.setSail_keeps
    | apply State.put_keeps | apply State.loadDuty_keeps | apply State.loadConfig_keeps | apply Kept.of_ite | intro _ | simp only [↓Kept.mk_other]
    | split

theorem execDualWindowClose_keeps {x0 : Nat} (h : Kept v q n s) : KeptOut v q n (execDualWindowClose x0 s) := by
  unfold execDualWindowClose
  repeat' with_reducible
    first
    | assumption | apply KeptOut.next | apply KeptOut.of_ite | apply State.put_keeps | apply State.setSail_keeps | apply Kept.of_ite | intro _
    | simp only [↓Kept.mk_other] | split

theorem State.answer_keeps {x1 : Nat} {x2 : Nat} {x3 : Pkt} (h : Kept v q n s) : Kept v q n (State.answer s x1 x2 x3) := by
  unfold State.answer
  repeat' with_reducible
    first
    | assumption | apply State.bump_keeps | apply State.flushAnswers_keeps | apply State.setConn_keeps | apply Kept.of_ite | intro _
    | simp only [↓Kept.mk_other] | split

theorem execLiveness_keeps {x0 : Nat} {x1 : Nat} {x2 : Nat} {x3 : List LinkPkt} (h : Kept v q n s) : KeptOut v q n (execLiveness x0 x1 x2 x3 s) := by
  unfold execLiveness
  repeat' with_reducible
    first
    | assumption | apply KeptOut.next | apply KeptOut.of_ite | apply State.arrive_keeps | apply State.answer_keeps | apply Kept.of_ite | intro _
    | apply foldl_keeps (Kept v q n) | simp only [↓Kept.mk_other] | split

theorem State.sailIrq_keeps {x1 : Nat} {x2 : Nat} {x3 : Bool} (h : Kept v q n s) : Kept v q n (State.sailIrq s x1 x2 x3) := by
  unfold State.sailIrq
  repeat' with_reducible
    first
    | assumption | apply State.put_keeps | apply State.vecSend_keeps | apply Kept.of_ite | intro _ | simp only [↓Kept.mk_other] | split

theorem execSailIrqEvent_keeps {x0 : Nat} {x1 : Nat} {x2 : Bool} {x3 : List LinkPkt} (h : Kept v q n s) : KeptOut v q n (execSailIrqEvent x0 x1 x2 x3 s) := by
  unfold execSailIrqEvent
  repeat' with_reducible
    first
    | assumption | apply KeptOut.next | apply KeptOut.of_ite | apply State.receive_keeps | (apply State.mirror_keeps; assumption)
    | apply State.sailIrq_keeps | apply Kept.of_ite | intro _ | (apply Kept.of_snd; assumption) | simp only [↓Kept.mk_other] | split

theorem State.advice_keeps {x1 : Nat} {x2 : Nat} {x3 : List Nat} (h : Kept v q n s) : Kept v q n (State.advice s x1 x2 x3) := by
  unfold State.advice
  repeat' with_reducible first | assumption | apply State.event_keeps

/-! ## MacRx -/

theorem State.toField_keeps {x1 : Nat} {x2 : Nat} {x3 : Nat} {x4 : Desc} {x5 : State → State} (hf5 : ∀ y0, Kept v q n y0 → Kept v q n (x5 y0)) (h : Kept v q n s) : Kept v q n (State.toField s x1 x2 x3 x4 x5) := by
  unfold State.toField
  repeat' with_reducible
    first
    | assumption | apply State.freeItem_keeps | apply State.engineTo_keeps | apply hf5 | apply Kept.of_ite | intro _ | split

theorem State.frameUp_keeps {x1 : Nat} {x2 : Nat} {x3 : Meta} {x4 : Frame} {x5 : Nat} (e : State.frameUp s x1 x2 x3 x4 x5 = some t) (h : Kept v q n s) : Kept v q n t := by
  unfold State.frameUp at e
  try dsimp only at e
  repeat' split at e
  all_goals first | cases e | skip
  all_goals try simp only [Option.some.injEq, Prod.mk.injEq] at e
  all_goals try obtain ⟨rfl, rfl⟩ := e
  all_goals try simp only [Option.map_eq_some_iff] at e
  all_goals try obtain ⟨_, e, rfl⟩ := e
  all_goals repeat' with_reducible
    first
    | assumption | (apply State.allocItem_keeps; assumption) | apply State.engineAdmitted_keeps | apply State.giveHw_keeps
    | apply State.setItemBody_keeps | apply Kept.of_ite | intro _ | (apply Kept.of_snd; assumption) | simp only [↓Kept.mk_other] | split

theorem execFrameUp_keeps {x0 : Nat} {x1 : Nat} {x2 : Nat} {x3 : Nat} {x4 : Meta} {x5 : Frame} {x6 : List LinkPkt} (h : Kept v q n s) : KeptOut v q n (execFrameUp x0 x1 x2 x3 x4 x5 x6 s) := by
  unfold execFrameUp
  repeat' with_reducible
    first
    | assumption | apply KeptOut.next | apply KeptOut.of_ite | apply State.receive_keeps | (apply State.mirror_keeps; assumption)
    | (apply State.frameUp_keeps; assumption) | apply State.engineWaits_keeps | apply Kept.of_ite | intro _ | (apply Kept.of_snd; assumption)
    | simp only [↓Kept.mk_other] | split

theorem execLaneIn_keeps {x0 : Nat} (h : Kept v q n s) : KeptOut v q n (execLaneIn x0 s) := by
  unfold execLaneIn
  repeat' with_reducible
    first
    | assumption | apply KeptOut.next | apply KeptOut.of_ite | (apply State.engineTake_keeps; assumption) | apply State.engineIdle_keeps
    | apply State.bump_keeps | apply State.freeItem_keeps | apply State.lookupAddr_keeps | apply State.engineNext_keeps
    | apply State.setItemBody_keeps | apply Kept.of_ite | intro _ | apply Kept.of_getD | (apply Kept.of_snd; assumption) | simp only [↓Kept.mk_other]
    | split

theorem State.freeCopies_keeps {x1 : Nat} {x2 : Group} (h : Kept v q n s) : Kept v q n (State.freeCopies s x1 x2).2 := by
  unfold State.freeCopies
  repeat' with_reducible first | assumption | apply State.freeItem_keeps | intro _ | apply foldl_keeps (Kept v q n) | simp only [↓Kept.mk_other]

theorem State.notePassed_keeps {x1 : Nat} {x2 : Nat} {x3 : Passed} (h : Kept v q n s) : Kept v q n (State.notePassed s x1 x2 x3) := by
  unfold State.notePassed
  repeat' with_reducible first | assumption | apply State.setMac_keeps | intro _ | simp only [↓Kept.mk_other]

theorem State.retireGroup_keeps {x1 : Nat} {x2 : Group} (h : Kept v q n s) : Kept v q n (State.retireGroup s x1 x2) := by
  unfold State.retireGroup
  repeat' with_reducible
    first
    | assumption | apply State.freeCopies_keeps | apply State.setMac_keeps | apply Kept.of_ite | intro _ | simp only [↓Kept.mk_other, ↓id_eq] | split

theorem State.dedup_keeps {x1 : Nat} {x2 : Desc} {x3 : Meta} {x4 : Nat} {x5 : Frame} (h : Kept v q n s) : Kept v q n (State.dedup s x1 x2 x3 x4 x5) := by
  unfold State.dedup
  repeat' with_reducible
    first
    | assumption | apply State.bump_keeps | apply State.freeItem_keeps | apply State.setMac_keeps | apply State.retireGroup_keeps | apply Kept.of_ite
    | intro _ | (apply Kept.of_snd; assumption) | simp only [↓Kept.mk_other, ↓id_eq] | split

theorem execDedup_keeps {x0 : Nat} (h : Kept v q n s) : KeptOut v q n (execDedup x0 s) := by
  unfold execDedup
  repeat' with_reducible
    first
    | assumption | apply KeptOut.next | (apply State.engineTake_keeps; assumption) | apply State.engineIdle_keeps | apply State.dedup_keeps
    | apply State.setItemBody_keeps | apply State.engineNext_keeps | (apply Kept.of_snd; assumption) | simp only [↓Kept.mk_other] | split

theorem State.sendCopy_keeps {x1 : Nat} {x2 : Group} {x3 : Copy} {x4 : Bool} (h : Kept v q n s) : Kept v q n (State.sendCopy s x1 x2 x3 x4) := by
  unfold State.sendCopy
  repeat' with_reducible
    first
    | assumption | apply State.notePassed_keeps | apply State.setMac_keeps | apply State.engineTo_keeps | apply State.engineNext_keeps
    | apply Kept.of_ite | intro _ | simp only [↓Kept.mk_other] | split

theorem execDedupGroupClose_keeps {x0 : Nat} {x1 : Nat} (h : Kept v q n s) : KeptOut v q n (execDedupGroupClose x0 x1 s) := by
  unfold execDedupGroupClose
  repeat' with_reducible
    first
    | assumption | apply KeptOut.next | apply KeptOut.of_ite | apply State.sendCopy_keeps | apply Kept.of_ite | intro _ | apply Kept.of_getD
    | (apply Kept.of_snd; assumption) | apply foldl_keeps (Kept v q n) | simp only [↓Kept.mk_other] | split

theorem execDedupGroupRetire_keeps {x0 : Nat} {x1 : Nat} (h : Kept v q n s) : KeptOut v q n (execDedupGroupRetire x0 x1 s) := by
  unfold execDedupGroupRetire
  repeat' with_reducible
    first
    | assumption | apply KeptOut.next | apply KeptOut.of_ite | apply State.retireGroup_keeps | apply Kept.of_ite | intro _
    | (apply Kept.of_snd; assumption) | simp only [↓Kept.mk_other] | split

theorem execAckSenderChoice_keeps {x0 : Nat} {x1 : Nat} (h : Kept v q n s) : KeptOut v q n (execAckSenderChoice x0 x1 s) := by
  unfold execAckSenderChoice
  repeat' with_reducible
    first
    | assumption | apply KeptOut.next | apply KeptOut.of_ite | apply State.freeCopies_keeps | apply State.count_keeps | apply State.setMac_keeps
    | apply State.bump_keeps | apply State.notePassed_keeps | apply Kept.of_ite | intro _ | apply Kept.of_getD | (apply Kept.of_snd; assumption)
    | simp only [↓Kept.mk_other] | split

theorem State.ccmOpen_keeps {x1 : Nat} {x2 : Nat} {x3 : Frame} (h : Kept v q n s) : Kept v q n (State.ccmOpen s x1 x2 x3).2 := by
  unfold State.ccmOpen
  repeat' with_reducible
    first
    | assumption | apply State.nodeKey_keeps | apply State.groupKey_keeps | apply Kept.of_ite | intro _ | (apply Kept.of_snd; assumption)
    | simp only [↓Kept.mk_other] | split

theorem State.copyFailed_keeps {x1 : Nat} {x2 : Desc} (h : Kept v q n s) : Kept v q n (State.copyFailed s x1 x2) := by
  unfold State.copyFailed
  repeat' with_reducible
    first
    | assumption | apply State.freeItem_keeps | apply State.sendCopy_keeps | apply State.bump_keeps | apply State.freeCopies_keeps
    | apply State.setMac_keeps | apply Kept.of_ite | intro _ | (apply Kept.of_snd; assumption) | simp only [↓Kept.mk_other] | split

theorem State.peerBeacon_keeps {x1 : Nat} {x2 : Meta} {x3 : Nat} {x4 : Frame} (h : Kept v q n s) : Kept v q n (State.peerBeacon s x1 x2 x3 x4) := by
  unfold State.peerBeacon
  repeat' with_reducible
    first
    | assumption | apply State.setMac_keeps | apply State.servo_keeps | apply Kept.of_ite | intro _ | (apply Kept.of_snd; assumption)
    | simp only [↓Kept.mk_other] | split

theorem execCcmOpen_keeps {x0 : Nat} (h : Kept v q n s) : KeptOut v q n (execCcmOpen x0 s) := by
  unfold execCcmOpen
  repeat' with_reducible
    first
    | assumption | apply KeptOut.next | apply KeptOut.of_ite | (apply State.engineTake_keeps; assumption) | apply State.engineIdle_keeps
    | apply State.ccmOpen_keeps | apply State.copyFailed_keeps | apply State.setMac_keeps | apply State.freeItem_keeps | apply State.peerBeacon_keeps
    | apply State.engineNext_keeps | apply State.setItemBody_keeps | apply Kept.of_ite | intro _ | (apply Kept.of_snd; assumption)
    | simp only [↓Kept.mk_other] | split

theorem State.channelTest_keeps {x1 : Nat} {x2 : Nat} {x3 : Link} {x4 : Nat} {x5 : Meta} (h : Kept v q n s) : Kept v q n (State.channelTest s x1 x2 x3 x4 x5) := by
  unfold State.channelTest
  repeat' with_reducible
    first
    | assumption | apply State.bump_keeps | apply Kept.of_ite | intro _ | (apply Kept.of_snd; assumption) | simp only [↓Kept.mk_other] | split

theorem State.nodeFound_keeps {x1 : Nat} {x2 : Nat} (h : Kept v q n s) : Kept v q n (State.nodeFound s x1 x2) := by
  unfold State.nodeFound
  repeat' with_reducible first | assumption | apply State.event_keeps | apply State.irq_keeps | apply State.bump_keeps

theorem State.uplinkAccepted_keeps {x1 : Nat} {x2 : Nat} {x3 : Nat} {x4 : Meta} (h : Kept v q n s) : Kept v q n (State.uplinkAccepted s x1 x2 x3 x4) := by
  unfold State.uplinkAccepted
  repeat' with_reducible
    first
    | assumption | apply State.channelTest_keeps | apply State.setLink_keeps | apply State.nodeFound_keeps | apply Kept.of_ite | intro _
    | simp only [↓Kept.mk_other] | split

theorem State.downlinkAnswer_keeps {x1 : Nat} {x2 : Nat} {x3 : Nat} {x4 : Int} (h : Kept v q n s) : Kept v q n (State.downlinkAnswer s x1 x2 x3 x4) := by
  unfold State.downlinkAnswer
  repeat' with_reducible
    first
    | assumption | apply State.bump_keeps | apply State.setMac_keeps | apply Kept.of_ite | intro _ | (apply Kept.of_snd; assumption)
    | simp only [↓Kept.mk_other] | split

theorem State.replayItem_keeps {x1 : Nat} {x2 : Desc} {x3 : Meta} {x4 : Nat} {x5 : Frame} (h : Kept v q n s) : Kept v q n (State.replayItem s x1 x2 x3 x4 x5) := by
  unfold State.replayItem
  repeat' with_reducible
    first
    | assumption | apply State.setMac_keeps | apply State.engineNext_keeps | apply State.freeItem_keeps | apply State.bump_keeps
    | apply State.setLink_keeps | apply State.downlinkAnswer_keeps | apply State.uplinkAccepted_keeps | apply Kept.of_ite | intro _
    | simp only [↓Kept.mk_other] | split

theorem execReplay_keeps {x0 : Nat} (h : Kept v q n s) : KeptOut v q n (execReplay x0 s) := by
  unfold execReplay
  repeat' with_reducible
    first
    | assumption | apply KeptOut.next | (apply State.engineTake_keeps; assumption) | apply State.engineIdle_keeps | apply State.replayItem_keeps
    | apply State.engineNext_keeps | (apply Kept.of_snd; assumption) | simp only [↓Kept.mk_other] | split

theorem State.ackLaunch_keeps {x1 : Nat} {x2 : Nat} {x3 : Group} {x4 : Desc} {x5 : Nat} {x6 : Meta} {x7 : Timing} {x8 : Frame} {x9 : Nat} (h : Kept v q n s) : Kept v q n (State.ackLaunch s x1 x2 x3 x4 x5 x6 x7 x8 x9).2 := by
  unfold State.ackLaunch
  repeat' with_reducible
    first
    | assumption | apply State.free_keeps | apply Kept.of_ite | intro _ | apply Kept.of_getD | simp only [↓Kept.mk_other] | split

theorem State.ackPassed_keeps {x1 : Nat} {x2 : Desc} (h : Kept v q n s) : Kept v q n (State.ackPassed s x1 x2) := by
  unfold State.ackPassed
  repeat' with_reducible
    first
    | assumption | apply State.setMac_keeps | apply State.freeItem_keeps | apply State.engineNext_keeps | apply Kept.of_ite | intro _
    | simp only [↓Kept.mk_other] | split

theorem State.buildAck_keeps {x1 : Nat} {x2 : Nat} {x3 : Group} {x4 : Desc} {x5 : Nat} {x6 : Meta} {x7 : Frame} {x8 : Timing} (e : State.buildAck s x1 x2 x3 x4 x5 x6 x7 x8 = some t) (h : Kept v q n s) : Kept v q n t := by
  unfold State.buildAck at e
  try dsimp only at e
  repeat' split at e
  all_goals first | cases e | skip
  all_goals try simp only [Option.some.injEq, Prod.mk.injEq] at e
  all_goals try obtain ⟨rfl, rfl⟩ := e
  all_goals try simp only [Option.map_eq_some_iff] at e
  all_goals try obtain ⟨_, e, rfl⟩ := e
  all_goals repeat' with_reducible
    first
    | assumption | (apply State.allocItem_keeps; assumption) | apply State.ackLaunch_keeps | apply State.addLaunch_keeps | apply State.engineTo_keeps
    | apply State.setItemBody_keeps | apply State.nodeKey_keeps | apply State.fcExhausted_keeps | apply State.bump_keeps
    | apply State.fcReserve_keeps | apply State.fcTaken_keeps | apply State.setLink_keeps | apply Kept.of_ite | intro _
    | (apply Kept.of_snd; assumption) | simp only [↓Kept.mk_other] | split

theorem State.ackItem_keeps {x1 : Nat} {x2 : Option Group} {x3 : Desc} {x4 : Meta} {x5 : Nat} {x6 : Frame} (e : State.ackItem s x1 x2 x3 x4 x5 x6 = some t) (h : Kept v q n s) : Kept v q n t := by
  unfold State.ackItem at e
  try dsimp only at e
  repeat' split at e
  all_goals first | cases e | skip
  all_goals try simp only [Option.some.injEq, Prod.mk.injEq] at e
  all_goals try obtain ⟨rfl, rfl⟩ := e
  all_goals try simp only [Option.map_eq_some_iff] at e
  all_goals try obtain ⟨_, e, rfl⟩ := e
  all_goals repeat' with_reducible
    first
    | assumption | apply State.bump_keeps | apply State.ackPassed_keeps | (apply State.buildAck_keeps; assumption) | apply Kept.of_ite | intro _
    | (apply Kept.of_snd; assumption) | simp only [↓Kept.mk_other] | split

theorem execAckBuild_keeps {x0 : Nat} (h : Kept v q n s) : KeptOut v q n (execAckBuild x0 s) := by
  unfold execAckBuild
  repeat' with_reducible
    first
    | assumption | apply KeptOut.next | apply KeptOut.of_ite | (apply State.engineTake_keeps; assumption) | apply State.engineIdle_keeps
    | (apply State.ackItem_keeps; assumption) | apply State.engineAdmitted_keeps | apply State.engineRefused_keeps | apply State.engineNext_keeps
    | apply Kept.of_ite | intro _ | apply Kept.of_getD | (apply Kept.of_snd; assumption) | simp only [↓Kept.mk_other] | split

theorem execAckCutoff_keeps {x0 : Nat} {x1 : Nat} (h : Kept v q n s) : KeptOut v q n (execAckCutoff x0 x1 s) := by
  unfold execAckCutoff
  repeat' with_reducible
    first
    | assumption | apply KeptOut.next | apply KeptOut.of_ite | apply State.bump_keeps | apply State.resolve_keeps | apply State.dropQueued_keeps
    | apply Kept.of_ite | intro _ | (apply Kept.of_snd; assumption) | simp only [↓Kept.mk_other] | split

/-! ## MacPath -/

theorem execAdviceReceived_keeps {x0 : Nat} {x1 : Nat} {x2 : List Nat} {x3 : List LinkPkt} (h : Kept v q n s) : KeptOut v q n (execAdviceReceived x0 x1 x2 x3 s) := by
  unfold execAdviceReceived
  repeat' with_reducible
    first
    | assumption | apply KeptOut.next | apply KeptOut.of_ite | apply State.receive_keeps | (apply State.mirror_keeps; assumption)
    | apply State.advice_keeps | apply Kept.of_ite | intro _ | (apply Kept.of_snd; assumption) | simp only [↓Kept.mk_other] | split

theorem State.expand_keeps {x0 : State} {x2 : Nat} {x3 : Desc} {x4 : Meta} {x5 : Nat} {x6 : Frame} (g0 : Kept v q n x0) (h : Kept v q n s) : Kept v q n (State.expand x0 s x2 x3 x4 x5 x6) := by
  unfold State.expand
  repeat' with_reducible
    first
    | assumption | apply State.engineNext_keeps | apply State.bump_keeps | apply State.toField_keeps | apply State.freeItem_keeps
    | (apply State.resizeItem_keeps; assumption) | apply State.engineRefused_keeps | apply State.engineAdmitted_keeps | apply State.setItemBody_keeps
    | apply Kept.of_ite | intro _ | (apply Kept.of_snd; assumption) | simp only [↓Kept.mk_other, ↓id_eq] | split

theorem execHcExpand_keeps {x0 : Nat} (h : Kept v q n s) : KeptOut v q n (execHcExpand x0 s) := by
  unfold execHcExpand
  repeat' with_reducible
    first
    | assumption | apply KeptOut.next | (apply State.engineTake_keeps; assumption) | apply State.engineIdle_keeps | apply State.expand_keeps
    | apply State.engineNext_keeps | (apply Kept.of_snd; assumption) | simp only [↓Kept.mk_other] | split

theorem execNodeLearn_keeps {x0 : Nat} (h : Kept v q n s) : KeptOut v q n (execNodeLearn x0 s) := by
  unfold execNodeLearn
  repeat' with_reducible
    first
    | assumption | apply KeptOut.next | (apply State.engineTake_keeps; assumption) | apply State.engineIdle_keeps | apply State.engineNext_keeps
    | apply State.notePassed_keeps | apply State.learn_keeps | intro _ | apply Kept.of_getD | (apply Kept.of_snd; assumption)
    | simp only [↓Kept.mk_other] | split

theorem execSluiceUp_keeps {x0 : Nat} (h : Kept v q n s) : KeptOut v q n (execSluiceUp x0 s) := by
  unfold execSluiceUp
  repeat' with_reducible
    first
    | assumption | apply KeptOut.next | apply KeptOut.of_ite | (apply State.engineTake_keeps; assumption) | apply State.engineIdle_keeps
    | apply State.sluice_keeps | apply State.nodeSluice_keeps | apply State.engineNext_keeps | apply State.freeItem_keeps | apply Kept.of_ite
    | intro _ | (apply Kept.of_snd; assumption) | simp only [↓Kept.mk_other] | split

theorem State.lookupIid_keeps {x1 : Nat} {x2 : Nat} (h : Kept v q n s) : Kept v q n (State.lookupIid s x1 x2).2 := by
  unfold State.lookupIid
  repeat' with_reducible first | assumption | apply State.lookupShort_keeps | apply State.lookupAddr_keeps | apply Kept.of_ite | intro _ | split

theorem State.routeFail_keeps {x1 : Nat} {x2 : Nat} {x3 : Nat} {x4 : Desc} {x5 : Reason} {x6 : Fld} (h : Kept v q n s) : Kept v q n (State.routeFail s x1 x2 x3 x4 x5 x6) := by
  unfold State.routeFail
  repeat' with_reducible
    first
    | assumption | apply State.event_keeps | apply State.irq_keeps | apply State.bump_keeps | apply State.toField_keeps | intro _
    | simp only [↓Kept.mk_other, ↓id_eq]

theorem State.classifyDown_keeps {x1 : Nat} {x2 : Desc} {x3 : Packet} (h : Kept v q n s) : Kept v q n (State.classifyDown s x1 x2 x3) := by
  unfold State.classifyDown
  repeat' with_reducible
    first
    | assumption | apply State.routeFail_keeps | apply State.lookupIid_keeps | apply State.engineTo_keeps | apply Kept.of_ite | intro _
    | (apply Kept.of_snd; assumption) | simp only [↓Kept.mk_other] | split

theorem State.upmap_keeps {x1 : Nat} {x2 : Desc} {x3 : Nat} (h : Kept v q n s) : Kept v q n (State.upmap s x1 x2 x3) := by
  unfold State.upmap
  repeat' with_reducible
    first
    | assumption | apply State.engineTo_keeps | apply State.setSal_keeps | apply State.toField_keeps | apply State.bump_keeps
    | apply State.freeItem_keeps | apply Kept.of_ite | intro _ | simp only [↓Kept.mk_other, ↓id_eq] | split

theorem State.classify_keeps {x1 : Nat} {x2 : Desc} (h : Kept v q n s) : Kept v q n (State.classify s x1 x2) := by
  unfold State.classify
  repeat' with_reducible
    first
    | assumption | apply State.toField_keeps | apply State.bump_keeps | apply State.classifyDown_keeps | apply State.routeFail_keeps
    | apply State.upmap_keeps | apply Kept.of_ite | intro _ | (apply Kept.of_snd; assumption) | simp only [↓Kept.mk_other, ↓id_eq] | split

theorem execClassify_keeps {x0 : Nat} (h : Kept v q n s) : KeptOut v q n (execClassify x0 s) := by
  unfold execClassify
  repeat' with_reducible
    first
    | assumption | apply KeptOut.next | (apply State.engineTake_keeps; assumption) | apply State.engineIdle_keeps | apply State.classify_keeps
    | (apply Kept.of_snd; assumption) | simp only [↓Kept.mk_other] | split

theorem execToPartner_keeps {x0 : Nat} (h : Kept v q n s) : KeptOut v q n (execToPartner x0 s) := by
  unfold execToPartner
  repeat' with_reducible
    first
    | assumption | apply KeptOut.next | (apply State.engineTake_keeps; assumption) | apply State.engineIdle_keeps | apply State.free_keeps
    | (apply State.enqueueOut_keeps; assumption) | apply State.setItemBody_keeps | apply State.engineAdmitted_keeps | apply State.engineRefused_keeps
    | (apply Kept.of_snd; assumption) | simp only [↓Kept.mk_other] | split

theorem execFromPartner_keeps {x0 : Nat} (h : Kept v q n s) : KeptOut v q n (execFromPartner x0 s) := by
  unfold execFromPartner
  repeat' with_reducible
    first
    | assumption | apply KeptOut.next | apply KeptOut.of_ite | (apply State.engineTake_keeps; assumption) | apply State.engineIdle_keeps
    | apply State.sluice_keeps | apply State.engineNext_keeps | apply State.setItemBody_keeps | apply State.freeItem_keeps | apply Kept.of_ite
    | intro _ | (apply Kept.of_snd; assumption) | simp only [↓Kept.mk_other] | split

theorem State.routeWalk_keeps {x0 : State} {x2 : Nat} {x3 : Desc} {x4 : Packet} {x5 : Option (Meta × Nat × Frame)} (g0 : Kept v q n x0) (h : Kept v q n s) : Kept v q n (State.routeWalk x0 s x2 x3 x4 x5) := by
  unfold State.routeWalk
  repeat' with_reducible
    first
    | assumption | apply State.bump_keeps | apply State.routeFail_keeps | apply State.raise_keeps | (apply State.resizeItem_keeps; assumption)
    | apply State.engineRefused_keeps | apply State.engineNext_keeps | apply State.engineAdmitted_keeps | apply State.setItemBody_keeps
    | apply Kept.of_ite | intro _ | (apply Kept.of_snd; assumption) | simp only [↓Kept.mk_other] | split

theorem execRouteWalk_keeps {x0 : Nat} (h : Kept v q n s) : KeptOut v q n (execRouteWalk x0 s) := by
  unfold execRouteWalk
  repeat' with_reducible
    first
    | assumption | apply KeptOut.next | (apply State.engineTake_keeps; assumption) | apply State.engineIdle_keeps | apply State.routeWalk_keeps
    | apply State.engineNext_keeps | (apply Kept.of_snd; assumption) | simp only [↓Kept.mk_other] | split

theorem execHcCompress_keeps {x0 : Nat} (h : Kept v q n s) : KeptOut v q n (execHcCompress x0 s) := by
  unfold execHcCompress
  repeat' with_reducible
    first
    | assumption | apply KeptOut.next | apply KeptOut.of_ite | (apply State.engineTake_keeps; assumption) | apply State.engineIdle_keeps
    | apply State.free_keeps | apply State.bump_keeps | apply State.toField_keeps | (apply State.resizeItem_keeps; assumption)
    | apply State.engineRefused_keeps | apply State.engineNext_keeps | apply State.engineAdmitted_keeps | apply State.setItemBody_keeps
    | apply Kept.of_ite | intro _ | (apply Kept.of_snd; assumption) | simp only [↓Kept.mk_other, ↓id_eq] | split

theorem State.seal_keeps {x1 : Nat} {x2 : Desc} {x3 : Frame} (e : State.seal s x1 x2 x3 = some t) (h : Kept v q n s) : Kept v q n t := by
  unfold State.seal at e
  try dsimp only at e
  repeat' split at e
  all_goals first | cases e | skip
  all_goals try simp only [Option.some.injEq, Prod.mk.injEq] at e
  all_goals try obtain ⟨rfl, rfl⟩ := e
  all_goals try simp only [Option.map_eq_some_iff] at e
  all_goals try obtain ⟨_, e, rfl⟩ := e
  all_goals repeat' with_reducible
    first
    | assumption | apply State.engineNext_keeps | apply State.setItemBody_keeps | apply State.nodeKey_keeps | apply State.freeItem_keeps
    | apply State.fcExhausted_keeps | apply State.fcReserve_keeps | apply State.fcTaken_keeps | apply State.setLink_keeps | apply Kept.of_ite
    | intro _ | (apply Kept.of_snd; assumption) | simp only [↓Kept.mk_other] | split

theorem execCcmSeal_keeps {x0 : Nat} (h : Kept v q n s) : KeptOut v q n (execCcmSeal x0 s) := by
  unfold execCcmSeal
  repeat' with_reducible
    first
    | assumption | apply KeptOut.next | (apply State.engineTake_keeps; assumption) | apply State.engineIdle_keeps
    | (apply State.seal_keeps; assumption) | apply State.engineAdmitted_keeps | apply State.engineRefused_keeps | apply State.fcReserve_keeps
    | apply State.engineNext_keeps | (apply Kept.of_snd; assumption) | simp only [↓Kept.mk_other] | split

theorem State.linkInvalid_keeps {x1 : Nat} {x2 : Nat} (h : Kept v q n s) : Kept v q n (State.linkInvalid s x1 x2) := by
  unfold State.linkInvalid
  repeat' with_reducible
    first
    | assumption | apply State.event_keeps | apply State.irq_keeps | apply State.setMac_keeps | apply Kept.of_ite | intro _
    | simp only [↓Kept.mk_other] | split

theorem State.dlDropped_keeps {x1 : Nat} {x2 : Nat} {x3 : Reason} (h : Kept v q n s) : Kept v q n (State.dlDropped s x1 x2 x3) := by
  unfold State.dlDropped
  repeat' with_reducible first | assumption | apply State.event_keeps | apply State.irq_keeps

theorem State.mcAppend_keeps {x1 : Nat} {x2 : Nat} {x3 : Nat} (e : State.mcAppend s x1 x2 x3 = some t) (h : Kept v q n s) : Kept v q n t := by
  unfold State.mcAppend at e
  try dsimp only at e
  repeat' split at e
  all_goals first | cases e | skip
  all_goals try simp only [Option.some.injEq, Prod.mk.injEq] at e
  all_goals try obtain ⟨rfl, rfl⟩ := e
  all_goals try simp only [Option.map_eq_some_iff] at e
  all_goals try obtain ⟨_, e, rfl⟩ := e
  all_goals repeat' with_reducible
    first
    | assumption | apply State.placeAdd_keeps | apply State.placeSub_keeps | apply State.brineCheck_keeps | apply State.setMast_keeps
    | apply Kept.of_ite | intro _ | simp only [↓Kept.mk_other] | split

theorem State.mcRemove_keeps {x1 : Nat} {x2 : Nat} {x3 : Nat} (h : Kept v q n s) : Kept v q n (State.mcRemove s x1 x2 x3) := by
  unfold State.mcRemove
  repeat' with_reducible
    first
    | assumption | apply State.freeItem_keeps | apply State.setMast_keeps | apply Kept.of_ite | intro _ | simp only [↓Kept.mk_other] | split

theorem State.linkQueue_keeps {x1 : Nat} {x2 : Desc} (e : State.linkQueue s x1 x2 = some t) (h : Kept v q n s) : Kept v q n t := by
  unfold State.linkQueue at e
  try dsimp only at e
  repeat' split at e
  all_goals first | cases e | skip
  all_goals try simp only [Option.some.injEq, Prod.mk.injEq] at e
  all_goals try obtain ⟨rfl, rfl⟩ := e
  all_goals try simp only [Option.map_eq_some_iff] at e
  all_goals try obtain ⟨_, e, rfl⟩ := e
  all_goals repeat' with_reducible
    first
    | assumption | (apply State.mcAppend_keeps; assumption) | apply State.setItemBody_keeps | apply State.dlDropped_keeps | apply State.bump_keeps
    | apply State.freeItem_keeps | (apply State.chainAppend_keeps; assumption) | apply State.linkInvalid_keeps | apply Kept.of_ite | intro _
    | (apply Kept.of_snd; assumption) | simp only [↓Kept.mk_other] | split

theorem execLinkQueue_keeps {x0 : Nat} (h : Kept v q n s) : KeptOut v q n (execLinkQueue x0 s) := by
  unfold execLinkQueue
  repeat' with_reducible
    first
    | assumption | apply KeptOut.next | (apply State.engineTake_keeps; assumption) | apply State.engineIdle_keeps
    | (apply State.linkQueue_keeps; assumption) | apply State.engineAdmitted_keeps | apply State.engineRefused_keeps
    | (apply Kept.of_snd; assumption) | simp only [↓Kept.mk_other] | split

/-! ## CampBase -/

theorem State.setCamp_keeps {x1 : Nat} {x2 : Camp} (h : Kept v q n s) : Kept v q n (State.setCamp s x1 x2) := by
  unfold State.setCamp
  repeat' with_reducible first | assumption | apply State.setMast_keeps | simp only [↓Kept.mk_other]

theorem State.setCampOf_keeps {x1 : Nat} {x2 : Nat} {x3 : CampSec} (h : Kept v q n s) : Kept v q n (State.setCampOf s x1 x2 x3) := by
  unfold State.setCampOf
  repeat' with_reducible first | assumption | apply State.setMast_keeps | simp only [↓Kept.mk_other]

theorem State.campFrame_keeps {x1 : Nat} {x2 : Nat} {x3 : Nat} {x4 : Nat} (h : Kept v q n s) : Kept v q n (State.campFrame s x1 x2 x3 x4) := by
  unfold State.campFrame
  repeat' with_reducible first | assumption | apply State.setCamp_keeps | apply Kept.of_ite | intro _ | simp only [↓Kept.mk_other] | split

theorem State.setMissing_keeps {x1 : Nat} {x2 : Nat} {x3 : Nat} (h : Kept v q n s) : Kept v q n (State.setMissing s x1 x2 x3) := by
  unfold State.setMissing
  repeat' with_reducible first | assumption | apply State.setCampOf_keeps | apply State.setCamp_keeps | intro _ | simp only [↓Kept.mk_other]

theorem State.campTry_keeps {x1 : Nat} {x2 : Nat} {x3 : State → State} (hf3 : ∀ y0, Kept v q n y0 → Kept v q n (x3 y0)) (h : Kept v q n s) : Kept v q n (State.campTry s x1 x2 x3) := by
  unfold State.campTry
  repeat' with_reducible
    first
    | assumption | apply State.bump_keeps | apply State.setCampOf_keeps | apply hf3 | apply Kept.of_ite | intro _ | simp only [↓Kept.mk_other]
    | split

theorem State.straggle_keeps {x1 : Nat} {x2 : Nat} (h : Kept v q n s) : Kept v q n (State.straggle s x1 x2) := by
  unfold State.straggle
  repeat' with_reducible
    first
    | assumption | apply State.campFrame_keeps | apply Kept.of_ite | intro _ | (apply Kept.of_snd; assumption) | simp only [↓Kept.mk_other] | split

theorem State.campLeft_keeps {x1 : Nat} {x2 : Nat} {x3 : Bool} (h : Kept v q n s) : Kept v q n (State.campLeft s x1 x2 x3) := by
  unfold State.campLeft
  repeat' with_reducible
    first
    | assumption | apply State.setCamp_keeps | apply State.setMissing_keeps | apply State.straggle_keeps | apply State.setCampOf_keeps
    | apply State.campTry_keeps | apply State.campFrame_keeps | apply Kept.of_ite | intro _ | (apply Kept.of_snd; assumption)
    | simp only [↓Kept.mk_other] | split

theorem State.campLost_keeps {x1 : Nat} {x2 : Nat} (h : Kept v q n s) : Kept v q n (State.campLost s x1 x2) := by
  unfold State.campLost
  repeat' with_reducible first | assumption | apply State.campLeft_keeps | intro _ | apply foldl_keeps (Kept v q n)

/-! ## MacTx -/

theorem State.beaconMiss_keeps {x1 : Nat} {x2 : Nat} (h : Kept v q n s) : Kept v q n (State.beaconMiss s x1 x2) := by
  unfold State.beaconMiss
  repeat' with_reducible
    first
    | assumption | apply State.bump_keeps | apply State.setMac_keeps | apply State.event_keeps | apply State.irq_keeps | apply State.setBit_keeps
    | apply Kept.of_ite | intro _ | simp only [↓Kept.mk_other] | split

theorem State.txEvent_keeps {x1 : Nat} {x2 : Nat} {x3 : TxReport} (h : Kept v q n s) : Kept v q n (State.txEvent s x1 x2 x3) := by
  unfold State.txEvent
  repeat' with_reducible first | assumption | apply State.event_keeps

theorem State.fifoOver_keeps {x1 : Nat} {x2 : Nat} (h : Kept v q n s) : Kept v q n (State.fifoOver s x1 x2) := by
  unfold State.fifoOver
  repeat' with_reducible first | assumption | apply State.event_keeps | apply State.irq_keeps | apply State.bump_keeps

theorem State.planOn_keeps {x1 : Nat} {x2 : Nat} {x3 : Nat} {x4 : LaunchKind} {x5 : Nat} {x6 : Nat} {x7 : Frame} {x8 : Nat} {x9 : Nat} {x10 : Nat} {x11 : Int} {x12 : Nat} {x13 : Int} (h : Kept v q n s) : Kept v q n (State.planOn s x1 x2 x3 x4 x5 x6 x7 x8 x9 x10 x11 x12 x13).2 := by
  unfold State.planOn
  repeat' with_reducible
    first
    | assumption | apply State.shape_keeps | apply State.dwell_keeps | apply State.unshape_keeps | apply State.addLaunch_keeps | apply Kept.of_ite
    | intro _ | (apply Kept.of_snd; assumption) | simp only [↓Kept.mk_other] | split

theorem State.planBeacon_keeps {x1 : Nat} {x2 : Nat} {x3 : Nat} (h : Kept v q n s) : Kept v q n (State.planBeacon s x1 x2 x3) := by
  unfold State.planBeacon
  repeat' with_reducible
    first
    | assumption | apply State.free_keeps | apply State.beaconMiss_keeps | apply State.planOn_keeps | apply State.fifoOver_keeps
    | apply State.bump_keeps | apply State.txEvent_keeps | apply Kept.of_ite | intro _ | apply Kept.of_getD | (apply Kept.of_snd; assumption)
    | simp only [↓Kept.mk_other] | split

theorem State.frameGone_keeps {x1 : Nat} {x2 : Nat} {x3 : Nat} {x4 : Nat} {x5 : Bool} (h : Kept v q n s) : Kept v q n (State.frameGone s x1 x2 x3 x4 x5) := by
  unfold State.frameGone
  repeat' with_reducible
    first
    | assumption | apply State.mcRemove_keeps | apply State.campLeft_keeps | apply State.chainRemove_keeps | apply Kept.of_ite | intro _ | split

theorem State.nodeLost_keeps {x1 : Nat} {x2 : Nat} (h : Kept v q n s) : Kept v q n (State.nodeLost s x1 x2) := by
  unfold State.nodeLost
  repeat' with_reducible
    first
    | assumption | apply State.setLink_keeps | apply State.setMac_keeps | apply State.event_keeps | apply State.irq_keeps | apply State.bump_keeps
    | apply State.campLost_keeps | apply State.spliceLost_keeps | intro _ | simp only [↓Kept.mk_other]

theorem State.planHint_keeps {x1 : Nat} {x2 : Nat} {x3 : Nat} {x4 : Nat} (h : Kept v q n s) : Kept v q n (State.planHint s x1 x2 x3 x4) := by
  unfold State.planHint
  repeat' with_reducible
    first
    | assumption | apply State.setMac_keeps | apply State.bump_keeps | apply Kept.of_ite | intro _ | (apply Kept.of_snd; assumption)
    | simp only [↓Kept.mk_other] | split

theorem State.planFrame_keeps {x1 : Nat} {x2 : Nat} {x3 : Nat} {x4 : Nat} {x5 : Nat} {x6 : Nat} {x7 : Nat} (h : Kept v q n s) : Kept v q n (State.planFrame s x1 x2 x3 x4 x5 x6 x7) := by
  unfold State.planFrame
  repeat' with_reducible
    first
    | assumption | apply State.fifoOver_keeps | apply State.frameGone_keeps | apply State.bump_keeps | apply State.setLink_keeps
    | apply State.planOn_keeps | apply State.txEvent_keeps | apply State.planHint_keeps | apply Kept.of_ite | intro _
    | (apply Kept.of_snd; assumption) | simp only [↓Kept.mk_other] | split

theorem State.sealHead_keeps {x1 : Nat} {x2 : Nat} {x3 : Nat} {x4 : Nat} {x5 : Frame} (h : Kept v q n s) : Kept v q n (State.sealHead s x1 x2 x3 x4 x5).2 := by
  unfold State.sealHead
  repeat' with_reducible
    first
    | assumption | apply State.nodeKey_keeps | apply State.frameGone_keeps | apply State.fcExhausted_keeps | apply State.fcReserve_keeps
    | apply State.setItemBody_keeps | apply State.fcTaken_keeps | apply State.setLink_keeps | (apply Kept.of_snd; assumption)
    | simp only [↓Kept.mk_other] | split

theorem State.planNode_keeps {x1 : Nat} {x2 : Nat} {x3 : Nat} (h : Kept v q n s) : Kept v q n (State.planNode s x1 x2 x3) := by
  unfold State.planNode
  repeat' with_reducible
    first
    | assumption | apply State.nodeLost_keeps | apply State.planHint_keeps | apply State.bump_keeps | apply State.linkInvalid_keeps
    | apply State.setMac_keeps | apply State.sealHead_keeps | apply State.planFrame_keeps | apply Kept.of_ite | intro _
    | (apply Kept.of_snd; assumption) | simp only [↓Kept.mk_other] | split

theorem State.planMulticast_keeps {x1 : Nat} {x2 : Nat} {x3 : Nat} (h : Kept v q n s) : Kept v q n (State.planMulticast s x1 x2 x3) := by
  unfold State.planMulticast
  repeat' with_reducible
    first
    | assumption | apply State.planOn_keeps | apply State.fifoOver_keeps | apply State.bump_keeps | apply State.txEvent_keeps | apply Kept.of_ite
    | intro _ | (apply Kept.of_snd; assumption) | simp only [↓Kept.mk_other] | split

theorem State.planNext_keeps {x1 : Nat} (h : Kept v q n s) : Kept v q n (State.planNext s x1) := by
  unfold State.planNext
  repeat' with_reducible
    first
    | assumption | apply State.setMac_keeps | apply State.planMulticast_keeps | apply State.planBeacon_keeps | apply State.planNode_keeps
    | apply Kept.of_ite | intro _ | (apply Kept.of_snd; assumption) | simp only [↓Kept.mk_other, ↓id_eq] | split

theorem State.dropAck_keeps {x1 : Nat} {x2 : Launch} (h : Kept v q n s) : Kept v q n (State.dropAck s x1 x2) := by
  unfold State.dropAck
  repeat' with_reducible first | assumption | apply State.freeItem_keeps | apply State.resolve_keeps

theorem State.placeAck_keeps {x1 : Nat} {x2 : Desc} {x3 : Launch} (e : State.placeAck s x1 x2 x3 = some t) (h : Kept v q n s) : Kept v q n t := by
  unfold State.placeAck at e
  try dsimp only at e
  repeat' split at e
  all_goals first | cases e | skip
  all_goals try simp only [Option.some.injEq, Prod.mk.injEq] at e
  all_goals try obtain ⟨rfl, rfl⟩ := e
  all_goals try simp only [Option.map_eq_some_iff] at e
  all_goals try obtain ⟨_, e, rfl⟩ := e
  all_goals repeat' with_reducible
    first
    | assumption | apply State.fifoOver_keeps | apply State.dropAck_keeps | apply State.bump_keeps | apply State.txEvent_keeps
    | apply State.dwell_keeps | (apply State.enqueue_keeps; assumption) | apply State.setMac_keeps | apply Kept.of_ite | intro _
    | (apply Kept.of_snd; assumption) | simp only [↓Kept.mk_other] | split

theorem State.buildLateCheck_keeps {x1 : Nat} (h : Kept v q n s) : Kept v q n (State.buildLateCheck s x1) := by
  unfold State.buildLateCheck
  repeat' with_reducible
    first
    | assumption | apply State.bump_keeps | apply State.setMac_keeps | apply Kept.of_ite | intro _ | simp only [↓Kept.mk_other] | split

theorem State.buildBeacon_keeps {x1 : Nat} {x2 : Launch} (h : Kept v q n s) : Kept v q n (State.buildBeacon s x1 x2) := by
  unfold State.buildBeacon
  repeat' with_reducible
    first
    | assumption | apply State.beaconMiss_keeps | apply State.resolve_keeps | apply State.useSlot_keeps | apply State.noKey_keeps
    | apply State.fcExhausted_keeps | apply State.fcReserve_keeps | (apply State.allocItem_keeps; assumption) | apply State.engineWaits_keeps
    | apply State.setItemBody_keeps | apply State.fcTaken_keeps | apply State.put_keeps | (apply State.enqueue_keeps; assumption)
    | apply State.setMac_keeps | apply State.engineAdmitted_keeps | (apply Kept.of_snd; assumption) | simp only [↓Kept.mk_other] | split

theorem State.buildLaunch_keeps {x1 : Nat} {x2 : Nat} (h : Kept v q n s) : Kept v q n (State.buildLaunch s x1 x2) := by
  unfold State.buildLaunch
  repeat' with_reducible
    first
    | assumption | apply State.buildLateCheck_keeps | apply State.setMac_keeps | apply State.buildBeacon_keeps | apply Kept.of_ite | intro _
    | (apply Kept.of_snd; assumption) | simp only [↓Kept.mk_other] | split

theorem State.deliverLaunch_keeps {x1 : Nat} {x2 : Nat} (h : Kept v q n s) : Kept v q n (State.deliverLaunch s x1 x2) := by
  unfold State.deliverLaunch
  repeat' with_reducible
    first
    | assumption | apply State.handLaunch_keeps | apply State.dropQueued_keeps | apply Kept.of_ite | intro _ | (apply Kept.of_snd; assumption)
    | simp only [↓Kept.mk_other] | split

theorem State.sendHints_keeps {x1 : Nat} (h : Kept v q n s) : Kept v q n (State.sendHints s x1) := by
  unfold State.sendHints
  repeat' with_reducible
    first
    | assumption | apply State.setMast_keeps | apply State.count_keeps | apply State.toSail_keeps | intro _ | (apply Kept.of_snd; assumption)
    | simp only [↓Kept.mk_other] | split

theorem execMacLaunch_keeps {x0 : Nat} {x1 : Nat} {x2 : Nat} (h : Kept v q n s) : KeptOut v q n (execMacLaunch x0 x1 x2 s) := by
  unfold execMacLaunch
  repeat' with_reducible
    first
    | assumption | apply KeptOut.next | apply KeptOut.of_ite | (apply State.engineTake_keeps; assumption) | apply State.engineIdle_keeps
    | apply State.freeItem_keeps | (apply State.placeAck_keeps; assumption) | apply State.engineAdmitted_keeps | apply State.engineRefused_keeps
    | apply State.planNext_keeps | apply State.buildLaunch_keeps | apply State.deliverLaunch_keeps | apply State.sendHints_keeps | apply Kept.of_ite
    | intro _ | (apply Kept.of_snd; assumption) | simp only [↓Kept.mk_other] | split

theorem State.copyCharge_keeps {x1 : Nat} {x2 : Launch} {x3 : Nat} (h : Kept v q n s) : Kept v q n (State.copyCharge s x1 x2 x3) := by
  unfold State.copyCharge
  repeat' with_reducible first | assumption | apply State.setMast_keeps | intro _ | apply foldl_keeps (Kept v q n) | simp only [↓Kept.mk_other]

theorem State.beaconDone_keeps {x1 : Nat} {x2 : Launch} {x3 : Nat} (h : Kept v q n s) : Kept v q n (State.beaconDone s x1 x2 x3) := by
  unfold State.beaconDone
  repeat' with_reducible
    first
    | assumption | apply State.bump_keeps | apply State.setMac_keeps | apply State.beaconMiss_keeps | apply Kept.of_ite | intro _
    | simp only [↓Kept.mk_other] | split

theorem State.ackDone_keeps {x1 : Nat} {x2 : Launch} {x3 : Nat} {x4 : Nat} (h : Kept v q n s) : Kept v q n (State.ackDone s x1 x2 x3 x4) := by
  unfold State.ackDone
  repeat' with_reducible
    first
    | assumption | apply State.bump_keeps | apply State.setLink_keeps | apply Kept.of_ite | intro _ | simp only [↓Kept.mk_other] | split

theorem State.dataDone_keeps {x1 : Nat} {x2 : Launch} {x3 : TxReport} (h : Kept v q n s) : Kept v q n (State.dataDone s x1 x2 x3) := by
  unfold State.dataDone
  repeat' with_reducible
    first
    | assumption | apply State.frameGone_keeps | apply State.setMac_keeps | apply Kept.of_ite | intro _ | simp only [↓Kept.mk_other] | split

theorem State.txDone_keeps {x1 : Nat} {x2 : Nat} {x3 : TxReport} (h : Kept v q n s) : Kept v q n (State.txDone s x1 x2 x3) := by
  unfold State.txDone
  repeat' with_reducible
    first
    | assumption | apply State.resolve_keeps | apply State.unshape_keeps | apply State.copyCharge_keeps | apply State.txEvent_keeps
    | apply State.beaconDone_keeps | apply State.ackDone_keeps | apply State.dataDone_keeps | apply Kept.of_ite | intro _
    | (apply Kept.of_snd; assumption) | simp only [↓Kept.mk_other] | split

theorem execTxDone_keeps {x0 : Nat} {x1 : Nat} {x2 : TxReport} {x3 : List LinkPkt} (h : Kept v q n s) : KeptOut v q n (execTxDone x0 x1 x2 x3 s) := by
  unfold execTxDone
  repeat' with_reducible
    first
    | assumption | apply KeptOut.next | apply KeptOut.of_ite | apply State.receive_keeps | (apply State.mirror_keeps; assumption)
    | apply State.txDone_keeps | apply Kept.of_ite | intro _ | (apply Kept.of_snd; assumption) | simp only [↓Kept.mk_other] | split

theorem State.unanswered_keeps {x1 : Nat} {x2 : Nat} {x3 : Nat} (h : Kept v q n s) : Kept v q n (State.unanswered s x1 x2 x3) := by
  unfold State.unanswered
  repeat' with_reducible
    first
    | assumption | apply State.bump_keeps | apply State.setLink_keeps | apply State.dlDropped_keeps | apply State.campLeft_keeps
    | apply State.chainRemove_keeps | apply Kept.of_ite | intro _ | simp only [↓Kept.mk_other] | split

theorem execAckJudgement_keeps {x0 : Nat} {x1 : Nat} (h : Kept v q n s) : KeptOut v q n (execAckJudgement x0 x1 s) := by
  unfold execAckJudgement
  repeat' with_reducible
    first
    | assumption | apply KeptOut.next | apply KeptOut.of_ite | apply State.setMac_keeps | apply State.frameGone_keeps | apply State.setLink_keeps
    | apply State.unanswered_keeps | apply Kept.of_ite | intro _ | (apply Kept.of_snd; assumption) | simp only [↓Kept.mk_other] | split

theorem execSupervisionSweep_keeps {x0 : Nat} (h : Kept v q n s) : KeptOut v q n (execSupervisionSweep x0 s) := by
  unfold execSupervisionSweep
  repeat' with_reducible
    first
    | assumption | apply KeptOut.next | apply KeptOut.of_ite | apply State.nodeLost_keeps | apply State.setMac_keeps | apply Kept.of_ite | intro _
    | apply foldl_keeps (Kept v q n) | simp only [↓Kept.mk_other] | split

theorem execPeerBeaconSlotEnd_keeps {x0 : Nat} {x1 : Nat} {x2 : Bool} (h : Kept v q n s) : KeptOut v q n (execPeerBeaconSlotEnd x0 x1 x2 s) := by
  unfold execPeerBeaconSlotEnd
  repeat' with_reducible
    first
    | assumption | apply KeptOut.next | apply KeptOut.of_ite | apply State.setMac_keeps | apply State.bump_keeps | apply State.irq_keeps
    | apply State.setBit_keeps | apply State.sourceLost_keeps | apply Kept.of_ite | intro _ | simp only [↓Kept.mk_other] | split

theorem execFcReserveDone_keeps {x0 : Nat} {x1 : Bool} (h : Kept v q n s) : KeptOut v q n (execFcReserveDone x0 x1 s) := by
  unfold execFcReserveDone
  repeat' with_reducible
    first
    | assumption | apply KeptOut.next | apply KeptOut.of_ite | apply State.bump_keeps | apply State.setMac_keeps | apply State.ringWrite_keeps
    | apply State.irq_keeps | apply Kept.of_ite | intro _ | (apply Kept.of_snd; assumption) | simp only [↓Kept.mk_other] | split

theorem execStageSoftEnd_keeps {x0 : Nat} {x1 : Nat} {x2 : Nat} (h : Kept v q n s) : KeptOut v q n (execStageSoftEnd x0 x1 x2 s) := by
  unfold execStageSoftEnd
  repeat' with_reducible
    first
    | assumption | apply KeptOut.next | apply KeptOut.of_ite | apply State.modulatedLate_keeps | apply State.bump_keeps | apply State.setMac_keeps
    | apply Kept.of_ite | intro _ | (apply Kept.of_snd; assumption) | simp only [↓Kept.mk_other] | split

theorem execDutyRecordWrite_keeps {x0 : Nat} (h : Kept v q n s) : KeptOut v q n (execDutyRecordWrite x0 s) := by
  unfold execDutyRecordWrite
  repeat' with_reducible
    first
    | assumption | apply KeptOut.next | apply KeptOut.of_ite | apply State.setMast_keeps | apply State.output_keeps | apply Kept.of_ite | intro _
    | apply foldl_keeps (Kept v q n) | simp only [↓Kept.mk_other] | split

theorem State.withdrawTick_keeps {x1 : Nat} (h : Kept v q n s) : Kept v q n (State.withdrawTick s x1) := by
  unfold State.withdrawTick
  repeat' with_reducible
    first
    | assumption | apply State.bump_keeps | apply State.resolve_keeps | apply State.unshape_keeps | apply State.beaconMiss_keeps
    | apply State.dropQueued_keeps | apply Kept.of_ite | intro _ | apply foldl_keeps (Kept v q n) | simp only [↓Kept.mk_other] | split

theorem State.oldLaunches_keeps {x1 : Nat} (h : Kept v q n s) : Kept v q n (State.oldLaunches s x1) := by
  unfold State.oldLaunches
  repeat' with_reducible
    first
    | assumption | apply State.txDone_keeps | apply State.setMac_keeps | intro _ | apply foldl_keeps (Kept v q n) | simp only [↓Kept.mk_other]

theorem State.grantSlot_keeps {x1 : Nat} (h : Kept v q n s) : Kept v q n (State.grantSlot s x1) := by
  unfold State.grantSlot
  repeat' with_reducible first | assumption | apply State.shapeGrant_keeps | apply State.setMac_keeps | simp only [↓Kept.mk_other]

end Sys2Proof.Machine
end

