-- ==== Sys2Proof/Laws/KeepsPack.lean ====
section
/-! SUPPORT. What every operation keeps (see Keeps): one lemma for each operation of Nv, PairBase, Reset, UpdBase, Feeds, Timers, Ports, Pair, Update, Campaign, Boot. -/

namespace Sys2Proof.Machine

variable {v : Variant} {q : List Instr} {n : Nat} {s t : State}

/-! ## Nv -/

theorem State.cfgDone_keeps {x1 : Nat} {x2 : Bool} (h : Kept v q n s) : Kept v q n (State.cfgDone s x1 x2) := by
  unfold State.cfgDone
  repeat' with_reducible
    first
    | assumption | apply State.nvDone_keeps | apply State.setNv_keeps | apply State.nvErase_keeps | apply State.put_keeps | apply State.setMast_keeps
    | apply Kept.of_ite | intro _ | apply Kept.of_getD | (apply Kept.of_snd; assumption) | simp only [↓Kept.mk_other] | split

theorem State.campDone_keeps {x1 : Nat} {x2 : Bool} (h : Kept v q n s) : Kept v q n (State.campDone s x1 x2) := by
  unfold State.campDone
  repeat' with_reducible
    first
    | assumption | apply State.nvDone_keeps | apply State.setNv_keeps | apply State.nvErase_keeps | apply State.bump_keeps | apply State.irq_keeps
    | apply State.put_keeps | apply Kept.of_ite | intro _ | (apply Kept.of_snd; assumption) | simp only [↓Kept.mk_other] | split

theorem State.ckptDone_keeps {x1 : Nat} {x2 : Bool} (h : Kept v q n s) : Kept v q n (State.ckptDone s x1 x2) := by
  unfold State.ckptDone
  repeat' with_reducible
    first
    | assumption | apply State.put_keeps | apply State.nvDone_keeps | apply State.irq_keeps | apply State.bump_keeps | apply State.setNv_keeps
    | apply Kept.of_ite | intro _ | (apply Kept.of_snd; assumption) | simp only [↓Kept.mk_other] | split

theorem execNvRecordWriteDone_keeps {x0 : Nat} {x1 : Nat} {x2 : Bool} (h : Kept v q n s) : KeptOut v q n (execNvRecordWriteDone x0 x1 x2 s) := by
  unfold execNvRecordWriteDone
  repeat' with_reducible
    first
    | assumption | apply KeptOut.next | apply KeptOut.of_ite | apply State.cfgDone_keeps | apply State.persistDone_keeps | apply State.campDone_keeps
    | apply State.ckptDone_keeps | apply Kept.of_ite | intro _ | (apply Kept.of_snd; assumption) | simp only [↓Kept.mk_other] | split

theorem execRingSectorErase_keeps {x0 : Nat} {x1 : Nat} (h : Kept v q n s) : KeptOut v q n (execRingSectorErase x0 x1 s) := by
  unfold execRingSectorErase
  repeat' with_reducible
    first
    | assumption | apply KeptOut.next | apply KeptOut.of_ite | apply State.setNv_keeps | apply Kept.of_ite | intro _ | simp only [↓Kept.mk_other]
    | split

theorem State.ckptStart_keeps {x1 : Nat} (h : Kept v q n s) : Kept v q n (State.ckptStart s x1) := by
  unfold State.ckptStart
  repeat' with_reducible
    first
    | assumption | apply State.put_keeps | apply State.nvStart_keeps | apply State.output_keeps | apply State.setNv_keeps | intro _
    | simp only [↓Kept.mk_other]

theorem execCheckpointPeriodic_keeps {x0 : Nat} (h : Kept v q n s) : KeptOut v q n (execCheckpointPeriodic x0 s) := by
  unfold execCheckpointPeriodic
  repeat' with_reducible
    first
    | assumption | apply KeptOut.next | apply KeptOut.of_ite | apply State.ckptStart_keeps | apply Kept.of_ite | intro _ | split

theorem execCheckpointDone_keeps {x0 : Nat} {x1 : Bool} (h : Kept v q n s) : KeptOut v q n (execCheckpointDone x0 x1 s) := by
  unfold execCheckpointDone
  repeat' with_reducible
    first
    | assumption | apply KeptOut.next | apply KeptOut.of_ite | apply State.ckptDone_keeps | apply Kept.of_ite | intro _ | split

theorem State.accNvCmd_keeps {x1 : Nat} {x2 : Nat} {x3 : Nat} {x4 : Nat} (h : Kept v q n s) : Kept v q n (State.accNvCmd s x1 x2 x3 x4) := by
  unfold State.accNvCmd
  repeat' with_reducible
    first
    | assumption | apply State.action_keeps | apply State.put_keeps | apply State.ckptStart_keeps | apply State.cfgWrite_keeps | apply Kept.of_ite
    | intro _ | (apply Kept.of_snd; assumption) | simp only [↓Kept.mk_other] | split

theorem execCheckpoint_keeps {x0 : Nat} {x1 : Nat} {x2 : Nat} (h : Kept v q n s) : KeptOut v q n (execCheckpoint x0 x1 x2 s) := by
  unfold execCheckpoint
  repeat' with_reducible first | assumption | apply KeptOut.next | apply State.hostOn_keeps | apply State.accNvCmd_keeps | intro _

theorem execSaveCal_keeps {x0 : Nat} {x1 : Nat} {x2 : Nat} (h : Kept v q n s) : KeptOut v q n (execSaveCal x0 x1 x2 s) := by
  unfold execSaveCal
  repeat' with_reducible first | assumption | apply KeptOut.next | apply State.hostOn_keeps | apply State.accNvCmd_keeps | intro _

theorem State.flashEnd_keeps {x1 : Nat} {x2 : Nat} (h : Kept v q n s) : Kept v q n (State.flashEnd s x1 x2) := by
  unfold State.flashEnd
  repeat' with_reducible
    first
    | assumption | apply State.put_keeps | apply State.setNv_keeps | apply State.irq_keeps | apply State.bump_keeps | apply Kept.of_ite | intro _
    | simp only [↓Kept.mk_other] | split

theorem State.accFlash_keeps {x1 : Nat} {x2 : Nat} {x3 : Nat} {x4 : Nat} (h : Kept v q n s) : Kept v q n (State.accFlash s x1 x2 x3 x4) := by
  unfold State.accFlash
  repeat' with_reducible
    first
    | assumption | apply State.action_keeps | apply State.lockv_keeps | apply State.flashEnd_keeps | apply State.put_keeps
    | apply State.nvRequest_keeps | apply State.setNv_keeps | apply Kept.of_ite | intro _ | simp only [↓Kept.mk_other] | split

theorem execFlashRead_keeps {x0 : Nat} {x1 : Nat} {x2 : Nat} (h : Kept v q n s) : KeptOut v q n (execFlashRead x0 x1 x2 s) := by
  unfold execFlashRead
  repeat' with_reducible first | assumption | apply KeptOut.next | apply State.hostOn_keeps | apply State.accFlash_keeps | intro _

theorem execFlashProgram_keeps {x0 : Nat} {x1 : Nat} {x2 : Nat} (h : Kept v q n s) : KeptOut v q n (execFlashProgram x0 x1 x2 s) := by
  unfold execFlashProgram
  repeat' with_reducible first | assumption | apply KeptOut.next | apply State.hostOn_keeps | apply State.accFlash_keeps | intro _

theorem execFlashErase_keeps {x0 : Nat} {x1 : Nat} {x2 : Nat} (h : Kept v q n s) : KeptOut v q n (execFlashErase x0 x1 x2 s) := by
  unfold execFlashErase
  repeat' with_reducible first | assumption | apply KeptOut.next | apply State.hostOn_keeps | apply State.accFlash_keeps | intro _

theorem State.freeBytes_keeps {x1 : Nat} (h : Kept v q n s) : Kept v q n (State.freeBytes s x1).2 := by
  induction x1 generalizing s with
  | zero => exact h
  | succ _ ih =>
  unfold State.freeBytes
  repeat' with_reducible first | assumption | apply ih | apply State.free_keeps | simp only [↓Kept.mk_other]

theorem State.flashBuffer_keeps {x1 : Nat} {x2 : List Nat} (h : Kept v q n s) : Kept v q n (State.flashBuffer s x1 x2) := by
  unfold State.flashBuffer
  repeat' with_reducible first | assumption | apply State.put_keeps | intro _ | apply foldl_keeps (Kept v q n)

theorem execFlashDone_keeps {x0 : Nat} {x1 : Nat} (h : Kept v q n s) : KeptOut v q n (execFlashDone x0 x1 s) := by
  unfold execFlashDone
  repeat' with_reducible
    first
    | assumption | apply KeptOut.next | apply KeptOut.of_ite | (apply State.mirror_keeps; assumption) | apply State.flashEnd_keeps
    | apply State.bump_keeps | apply State.flashBuffer_keeps | apply State.freeBytes_keeps | apply State.setNv_keeps | apply Kept.of_ite | intro _
    | (apply Kept.of_snd; assumption) | simp only [↓Kept.mk_other] | split

/-! ## PairBase -/

theorem State.setPair_keeps {x1 : Nat} {x2 : Pair} (h : Kept v q n s) : Kept v q n (State.setPair s x1 x2) := by
  unfold State.setPair
  repeat' with_reducible first | assumption | apply State.setMast_keeps | simp only [↓Kept.mk_other]

theorem State.xferStop_keeps {x1 : Nat} (h : Kept v q n s) : Kept v q n (State.xferStop s x1) := by
  unfold State.xferStop
  repeat' with_reducible
    first
    | assumption | apply State.irq_keeps | apply State.bump_keeps | apply State.put_keeps | apply State.setPair_keeps | simp only [↓Kept.mk_other]

theorem State.xferDone_keeps {x1 : Nat} (h : Kept v q n s) : Kept v q n (State.xferDone s x1) := by
  unfold State.xferDone
  repeat' with_reducible first | assumption | apply State.irq_keeps | apply State.bump_keeps | apply State.put_keeps

theorem State.xferStart_keeps  (h : Kept v q n s) : Kept v q n (State.xferStart s) := by
  unfold State.xferStart
  repeat' with_reducible first | assumption | apply State.put_keeps | apply State.setPair_keeps | simp only [↓Kept.mk_other]

/-! ## Reset -/

theorem State.copyFuses_keeps {x1 : Nat} (h : Kept v q n s) : Kept v q n (State.copyFuses s x1) := by
  unfold State.copyFuses
  repeat' with_reducible
    first
    | assumption | apply Kept.regs_filter | apply State.setWord_keeps | intro _ | apply foldl_keeps (Kept v q n) | simp only [↓Kept.mk_other]

theorem State.clearCopies_keeps {x1 : Nat} (h : Kept v q n s) : Kept v q n (State.clearCopies s x1) := by
  unfold State.clearCopies
  repeat' with_reducible
    first
    | assumption | apply Kept.regs_profs_filter | apply State.copyFuses_keeps | intro _ | apply foldl_keeps (Kept v q n) | simp only [↓Kept.mk_other]

theorem State.dropDie_keeps {x1 : Nat} (h : Kept v q n s) : Kept v q n (State.dropDie s x1) := by
  unfold State.dropDie
  repeat' with_reducible first | assumption | apply Kept.timers_filter | intro _ | simp only [↓Kept.mk_other]

theorem State.tearNv_keeps {x1 : Nat} (h : Kept v q n s) : Kept v q n (State.tearNv s x1) := by
  unfold State.tearNv
  repeat' with_reducible
    first
    | assumption | apply State.ringWrite_keeps | apply State.freeBytes_keeps | apply State.setNv_keeps | apply Kept.of_ite | intro _
    | (apply Kept.of_snd; assumption) | apply foldl_keeps (Kept v q n) | simp only [↓Kept.mk_other] | split

theorem State.trainMast_keeps {x1 : Nat} (h : Kept v q n s) : Kept v q n (State.trainMast s x1) := by
  unfold State.trainMast
  repeat' with_reducible
    first
    | assumption | apply State.setConn_keeps | apply Kept.of_ite | intro _ | apply foldl_keeps (Kept v q n) | simp only [↓Kept.mk_other] | split

theorem State.resetMast_keeps {x1 : Nat} {x2 : Nat} (h : Kept v q n s) : Kept v q n (State.resetMast s x1 x2) := by
  unfold State.resetMast
  repeat' with_reducible
    first
    | assumption | apply Kept.regs_without | apply State.tearNv_keeps | apply State.dropDie_keeps | apply State.setMast_keeps | apply State.put_keeps
    | apply State.setBit_keeps | apply State.delayRuns_keeps | apply State.trainMast_keeps | apply State.clearCopies_keeps
    | simp only [↓Kept.mk_other]

theorem State.resetSail_keeps {x1 : Nat} {x2 : Nat} (h : Kept v q n s) : Kept v q n (State.resetSail s x1 x2) := by
  unfold State.resetSail
  repeat' with_reducible
    first
    | assumption | apply Kept.regs_profs_without | apply State.setSail_keeps | apply State.dropDie_keeps | apply State.setConn_keeps
    | apply State.setBit_keeps | apply State.put_keeps | intro _ | apply foldl_keeps (Kept v q n) | simp only [↓Kept.mk_other]

theorem State.resetSails_keeps {x1 : Nat} {x2 : Nat} (h : Kept v q n s) : Kept v q n (State.resetSails s x1 x2) := by
  unfold State.resetSails
  repeat' with_reducible first | assumption | apply State.setWord_keeps | apply State.resetSail_keeps | intro _ | apply foldl_keeps (Kept v q n)

/-! ## UpdBase -/

theorem State.setUpd_keeps {x1 : Nat} {x2 : Upd} (h : Kept v q n s) : Kept v q n (State.setUpd s x1 x2) := by
  unfold State.setUpd
  repeat' with_reducible first | assumption | apply State.setMast_keeps | simp only [↓Kept.mk_other]

theorem State.updCommit_keeps {x1 : Nat} {x2 : UpdRec} (h : Kept v q n s) : Kept v q n (State.updCommit s x1 x2) := by
  unfold State.updCommit
  repeat' with_reducible
    first
    | assumption | apply State.updWrite_keeps | apply State.setNv_keeps | apply State.nvDone_keeps | (apply Kept.of_snd; assumption)
    | simp only [↓Kept.mk_other] | split

theorem State.sheetHome_keeps {x1 : Nat} {x2 : Nat} (h : Kept v q n s) : Kept v q n (State.sheetHome s x1 x2) := by
  unfold State.sheetHome
  repeat' with_reducible first | assumption | apply State.updWrite_keeps | simp only [↓Kept.mk_other]

theorem State.trialEnds_keeps {x1 : Nat} {x2 : Nat} (h : Kept v q n s) : Kept v q n (State.trialEnds s x1 x2) := by
  unfold State.trialEnds
  repeat' with_reducible
    first
    | assumption | apply State.bump_keeps | apply State.updCommit_keeps | apply State.irq_keeps | apply State.put_keeps | simp only [↓Kept.mk_other]

theorem State.resyncPeer_keeps {x1 : Nat} (h : Kept v q n s) : Kept v q n (State.resyncPeer s x1) := by
  unfold State.resyncPeer
  repeat' with_reducible first | assumption | apply State.xferStart_keeps | apply State.resetMast_keeps

theorem State.updAbandon_keeps  (h : Kept v q n s) : Kept v q n (State.updAbandon s) := by
  unfold State.updAbandon
  repeat' with_reducible
    first
    | assumption | apply State.updWrite_keeps | apply State.updCommit_keeps | apply State.resyncPeer_keeps | apply State.irq_keeps
    | apply State.put_keeps | simp only [↓Kept.mk_other]

theorem State.xferFail_keeps {x1 : Nat} (h : Kept v q n s) : Kept v q n (State.xferFail s x1) := by
  unfold State.xferFail
  repeat' with_reducible
    first
    | assumption | apply State.xferStop_keeps | apply State.updAbandon_keeps | apply State.irq_keeps | (apply Kept.of_snd; assumption)
    | simp only [↓Kept.mk_other] | split

theorem State.xferHeard_keeps {x1 : Nat} (h : Kept v q n s) : Kept v q n (State.xferHeard s x1) := by
  unfold State.xferHeard
  repeat' with_reducible
    first
    | assumption | apply State.xferDone_keeps | apply State.sheetHome_keeps | apply State.put_keeps | apply State.updWrite_keeps
    | apply State.irq_keeps | apply Kept.of_ite | intro _ | simp only [↓Kept.mk_other] | split

theorem State.soleStart_keeps {x1 : Nat} (h : Kept v q n s) : Kept v q n (State.soleStart s x1) := by
  unfold State.soleStart
  repeat' with_reducible first | assumption | apply State.put_keeps | apply State.resetMast_keeps | simp only [↓Kept.mk_other]

theorem State.updTakenOver_keeps {x1 : Nat} (h : Kept v q n s) : Kept v q n (State.updTakenOver s x1) := by
  unfold State.updTakenOver
  repeat' with_reducible
    first
    | assumption | apply State.trialEnds_keeps | apply State.put_keeps | apply State.resyncPeer_keeps | apply Kept.of_ite | intro _
    | simp only [↓Kept.mk_other] | split

/-! ## Feeds -/

theorem State.feedSingle_keeps {x1 : Nat} (h : Kept v q n s) : Kept v q n (State.feedSingle s x1) := by
  unfold State.feedSingle
  repeat' with_reducible
    first
    | assumption | apply State.put_keeps | apply State.bump_keeps | apply Kept.of_ite | intro _ | simp only [↓Kept.mk_other] | split

theorem State.feedEnter_keeps {x1 : Nat} {x2 : Nat} {x3 : Nat} (h : Kept v q n s) : Kept v q n (State.feedEnter s x1 x2 x3) := by
  unfold State.feedEnter
  repeat' with_reducible
    first
    | assumption | apply State.feedSingle_keeps | apply State.put_keeps | apply State.irq_keeps | apply State.bump_keeps | apply Kept.of_ite
    | intro _ | (apply Kept.of_snd; assumption) | simp only [↓Kept.mk_other] | split

theorem State.feedSample_keeps {x1 : Nat} {x2 : Nat} {x3 : Nat} {x4 : Nat} {x5 : Nat} (h : Kept v q n s) : Kept v q n (State.feedSample s x1 x2 x3 x4 x5) := by
  unfold State.feedSample
  repeat' with_reducible
    first
    | assumption | apply State.put_keeps | apply State.feedEnter_keeps | apply Kept.of_ite | intro _ | simp only [↓Kept.mk_other] | split

theorem execFeedSample_keeps {x0 : Nat} {x1 : Nat} {x2 : Nat} {x3 : Nat} {x4 : Nat} (h : Kept v q n s) : KeptOut v q n (execFeedSample x0 x1 x2 x3 x4 s) := by
  unfold execFeedSample
  repeat' with_reducible
    first
    | assumption | apply KeptOut.next | apply KeptOut.of_ite | apply State.input_keeps | apply State.feedSample_keeps | apply Kept.of_ite | intro _
    | split

theorem execFeedRestored_keeps {x0 : Nat} {x1 : Nat} (h : Kept v q n s) : KeptOut v q n (execFeedRestored x0 x1 s) := by
  unfold execFeedRestored
  repeat' with_reducible
    first
    | assumption | apply KeptOut.next | apply KeptOut.of_ite | apply State.input_keeps | apply State.feedEnter_keeps | apply Kept.of_ite | intro _
    | split

theorem execFeedLoss_keeps {x0 : Nat} {x1 : Nat} (h : Kept v q n s) : KeptOut v q n (execFeedLoss x0 x1 s) := by
  unfold execFeedLoss
  repeat' with_reducible
    first
    | assumption | apply KeptOut.next | apply KeptOut.of_ite | apply State.input_keeps | apply State.feedEnter_keeps | apply Kept.of_ite | intro _
    | split

theorem execFeedOvp_keeps {x0 : Nat} {x1 : Nat} (h : Kept v q n s) : KeptOut v q n (execFeedOvp x0 x1 s) := by
  unfold execFeedOvp
  repeat' with_reducible
    first
    | assumption | apply KeptOut.next | apply KeptOut.of_ite | apply State.input_keeps | apply State.feedEnter_keeps | apply Kept.of_ite | intro _
    | split

/-! ## Timers -/

theorem State.timerSync_keeps {x1 : Nat} {x2 : Nat} {x3 : Bool} (h : Kept v q n s) : Kept v q n (State.timerSync s x1 x2 x3) := by
  unfold State.timerSync
  repeat' with_reducible
    first
    | assumption | apply Kept.timerAt_set | apply State.put_keeps | apply Kept.of_ite | intro _ | simp only [↓Kept.mk_other] | split

theorem State.timersSync_keeps {x1 : Nat} (h : Kept v q n s) : Kept v q n (State.timersSync s x1) := by
  unfold State.timersSync
  repeat' with_reducible first | assumption | apply State.timerSync_keeps | intro _ | apply foldl_keeps (Kept v q n)

theorem State.setCount_keeps {x1 : Nat} {x2 : Nat} {x3 : Nat} (h : Kept v q n s) : Kept v q n (State.setCount s x1 x2 x3) := by
  unfold State.setCount
  repeat' with_reducible first | assumption | apply Kept.timerAt_set | apply State.put_keeps | intro _ | simp only [↓Kept.mk_other]

theorem State.timerEn_keeps {x1 : Nat} {x2 : Nat} {x3 : Bool} (h : Kept v q n s) : Kept v q n (State.timerEn s x1 x2 x3) := by
  unfold State.timerEn
  repeat' with_reducible first | assumption | apply State.put_keeps | apply State.timerSync_keeps | apply Kept.of_ite | intro _ | split

theorem State.timerAdvance_keeps {x1 : Nat} {x2 : Nat} {x3 : Nat} (h : Kept v q n s) : Kept v q n (State.timerAdvance s x1 x2 x3) := by
  unfold State.timerAdvance
  repeat' with_reducible first | assumption | apply State.timerSync_keeps | apply State.put_keeps | simp only [↓Kept.mk_other]

theorem State.convStart_keeps {x1 : Nat} {x2 : Nat} (h : Kept v q n s) : Kept v q n (State.convStart s x1 x2) := by
  unfold State.convStart
  repeat' with_reducible first | assumption | apply Kept.of_ite | intro _ | simp only [↓Kept.mk_other] | split

theorem State.dmaRequest_keeps {x1 : Nat} {x2 : Nat} {x3 : Bool} (h : Kept v q n s) : Kept v q n (State.dmaRequest s x1 x2 x3) := by
  unfold State.dmaRequest
  repeat' with_reducible
    first
    | assumption | apply State.setMast_keeps | apply State.bump_keeps | apply State.emit_keeps | apply Kept.of_ite | intro _
    | simp only [↓Kept.mk_other] | split

theorem State.timerAct_keeps {x1 : Nat} {x2 : Nat} {x3 : Bool} (h : Kept v q n s) : Kept v q n (State.timerAct s x1 x2 x3) := by
  unfold State.timerAct
  repeat' with_reducible
    first
    | assumption | apply State.convStart_keeps | apply State.dmaRequest_keeps | apply State.timerEn_keeps | apply State.timerAdvance_keeps
    | apply Kept.of_ite | intro _ | (apply Kept.of_snd; assumption) | simp only [↓Kept.mk_other] | split

theorem State.timerMatched_keeps {x1 : Nat} {x2 : Nat} {x3 : Bool} (h : Kept v q n s) : Kept v q n (State.timerMatched s x1 x2 x3) := by
  unfold State.timerMatched
  repeat' with_reducible
    first
    | assumption | apply State.irq_keeps | apply State.put_keeps | apply State.timerAct_keeps | apply Kept.of_ite | intro _
    | simp only [↓Kept.mk_other] | split

theorem State.timerWrapped_keeps {x1 : Nat} {x2 : Nat} {x3 : Bool} (h : Kept v q n s) : Kept v q n (State.timerWrapped s x1 x2 x3) := by
  unfold State.timerWrapped
  repeat' with_reducible
    first
    | assumption | apply State.irq_keeps | apply State.put_keeps | apply State.timerAct_keeps | apply Kept.of_ite | intro _
    | simp only [↓Kept.mk_other] | split

theorem State.timerChain_keeps {x1 : Nat} {x2 : Nat} {x3 : Nat} (h : Kept v q n s) : Kept v q n (State.timerChain s x1 x2 x3) := by
  unfold State.timerChain
  repeat' with_reducible first | assumption | apply State.put_keeps | apply Kept.of_ite | intro _ | split

theorem execTimerMatch_keeps {x0 : Nat} {x1 : Nat} {x2 : Bool} (h : Kept v q n s) : KeptOut v q n (execTimerMatch x0 x1 x2 s) := by
  unfold execTimerMatch
  repeat' with_reducible
    first
    | assumption | apply KeptOut.next | apply KeptOut.of_ite | apply State.timerMatched_keeps | apply State.setCount_keeps | apply Kept.of_ite
    | intro _ | split

theorem execTimerWrap_keeps {x0 : Nat} {x1 : Nat} {x2 : Bool} (h : Kept v q n s) : KeptOut v q n (execTimerWrap x0 x1 x2 s) := by
  unfold execTimerWrap
  repeat' with_reducible
    first
    | assumption | apply KeptOut.next | apply KeptOut.of_ite | apply State.timerWrapped_keeps | apply State.timerChain_keeps
    | apply State.setCount_keeps | apply Kept.of_ite | intro _ | split

theorem State.capTimer_keeps {x1 : Nat} {x2 : Nat} {x3 : Nat} (h : Kept v q n s) : Kept v q n (State.capTimer s x1 x2 x3) := by
  unfold State.capTimer
  repeat' with_reducible
    first
    | assumption | apply State.put_keeps | apply State.irq_keeps | apply Kept.of_ite | intro _ | simp only [↓Kept.mk_other] | split

theorem execTimerCapture_keeps {x0 : Nat} {x1 : Nat} (h : Kept v q n s) : KeptOut v q n (execTimerCapture x0 x1 s) := by
  unfold execTimerCapture
  repeat' with_reducible
    first
    | assumption | apply KeptOut.next | apply KeptOut.of_ite | apply State.capTimer_keeps | apply State.input_keeps | apply Kept.of_ite | intro _
    | simp only [↓Kept.mk_other] | split

theorem State.timerRead_keeps {x1 : Nat} {x2 : Nat} {x3 : Nat} {x4 : Nat} {x5 : Bool} {x6 : State → State} (hf6 : ∀ y0, Kept v q n y0 → Kept v q n (x6 y0)) (h : Kept v q n s) : Kept v q n (State.timerRead s x1 x2 x3 x4 x5 x6) := by
  unfold State.timerRead
  repeat' with_reducible
    first
    | assumption | apply State.action_keeps | apply State.sailAction_keeps | apply hf6 | apply Kept.of_ite | intro _ | split

theorem execTcapRead_keeps {x0 : Nat} {x1 : Nat} {x2 : Nat} {x3 : Nat} (h : Kept v q n s) : KeptOut v q n (execTcapRead x0 x1 x2 x3 s) := by
  unfold execTcapRead
  repeat' with_reducible
    first
    | assumption | apply KeptOut.next | apply KeptOut.of_ite | apply State.timerRead_keeps | apply State.put_keeps | apply Kept.of_ite | intro _
    | split

theorem execTcountRead_keeps {x0 : Nat} {x1 : Nat} {x2 : Nat} {x3 : Nat} (h : Kept v q n s) : KeptOut v q n (execTcountRead x0 x1 x2 x3 s) := by
  unfold execTcountRead
  repeat' with_reducible
    first
    | assumption | apply KeptOut.next | apply KeptOut.of_ite | apply State.timerRead_keeps | apply State.put_keeps | apply Kept.of_ite | intro _
    | split

theorem State.group_keeps {x1 : Nat} {x2 : Nat} {x3 : Nat} (h : Kept v q n s) : Kept v q n (State.group s x1 x2 x3) := by
  unfold State.group
  repeat' with_reducible first | assumption | apply State.timerEn_keeps | apply Kept.of_ite | intro _ | apply foldl_keeps (Kept v q n) | split

theorem State.accGroup_keeps {x1 : Nat} {x2 : Nat} {x3 : Nat} {x4 : Nat} {x5 : Nat} (h : Kept v q n s) : Kept v q n (State.accGroup s x1 x2 x3 x4 x5) := by
  unfold State.accGroup
  repeat' with_reducible
    first
    | assumption | apply State.action_keeps | apply State.group_keeps | apply State.sailAction_keeps | apply Kept.of_ite | intro _
    | simp only [↓Kept.mk_other] | split

theorem execGroupStart_keeps {x0 : Nat} {x1 : Nat} {x2 : Nat} {x3 : Nat} (h : Kept v q n s) : KeptOut v q n (execGroupStart x0 x1 x2 x3 s) := by
  unfold execGroupStart
  repeat' with_reducible
    first
    | assumption | apply KeptOut.next | apply KeptOut.of_ite | apply State.hostOn_keeps | apply State.accGroup_keeps | apply Kept.of_ite | intro _
    | split

theorem execGroupStop_keeps {x0 : Nat} {x1 : Nat} {x2 : Nat} {x3 : Nat} (h : Kept v q n s) : KeptOut v q n (execGroupStop x0 x1 x2 x3 s) := by
  unfold execGroupStop
  repeat' with_reducible
    first
    | assumption | apply KeptOut.next | apply KeptOut.of_ite | apply State.hostOn_keeps | apply State.accGroup_keeps | apply Kept.of_ite | intro _
    | split

theorem State.wakeTimers_keeps {x1 : Nat} {x2 : Nat} {x3 : Nat} (h : Kept v q n s) : Kept v q n (State.wakeTimers s x1 x2 x3) := by
  unfold State.wakeTimers
  repeat' with_reducible
    first
    | assumption | apply Kept.timerRem_set | apply State.setCount_keeps | apply State.put_keeps | apply State.timerMatched_keeps
    | apply State.timerWrapped_keeps | apply Kept.of_ite | intro _ | apply foldl_keeps (Kept v q n) | simp only [↓Kept.mk_other] | split

theorem execTimerWake_keeps {x0 : Nat} {x1 : Nat} (h : Kept v q n s) : KeptOut v q n (execTimerWake x0 x1 s) := by
  unfold execTimerWake
  repeat' with_reducible
    first
    | assumption | apply KeptOut.next | apply KeptOut.of_ite | apply State.wakeTimers_keeps | apply State.setSail_keeps | apply Kept.of_ite | intro _
    | simp only [↓Kept.mk_other] | split

theorem execDebugHalt_keeps {x0 : Nat} (h : Kept v q n s) : KeptOut v q n (execDebugHalt x0 s) := by
  unfold execDebugHalt
  repeat' with_reducible
    first
    | assumption | apply KeptOut.next | apply KeptOut.of_ite | apply State.timersSync_keeps | apply State.put_keeps | apply Kept.of_ite | intro _
    | simp only [↓Kept.mk_other] | split

theorem execDebugHaltExit_keeps {x0 : Nat} (h : Kept v q n s) : KeptOut v q n (execDebugHaltExit x0 s) := by
  unfold execDebugHaltExit
  repeat' with_reducible
    first
    | assumption | apply KeptOut.next | apply KeptOut.of_ite | apply State.timersSync_keeps | apply State.put_keeps | apply Kept.of_ite | intro _
    | simp only [↓Kept.mk_other] | split

theorem State.accThermConv_keeps {x1 : Nat} {x2 : Nat} {x3 : Nat} {x4 : Nat} (h : Kept v q n s) : Kept v q n (State.accThermConv s x1 x2 x3 x4) := by
  unfold State.accThermConv
  repeat' with_reducible
    first
    | assumption | apply State.action_keeps | apply State.convStart_keeps | apply Kept.of_ite | intro _ | simp only [↓Kept.mk_other] | split

theorem execThermConv_keeps {x0 : Nat} {x1 : Nat} {x2 : Nat} {x3 : Nat} (h : Kept v q n s) : KeptOut v q n (execThermConv x0 x1 x2 x3 s) := by
  unfold execThermConv
  repeat' with_reducible first | assumption | apply KeptOut.next | apply State.hostOn_keeps | apply State.accThermConv_keeps | intro _

theorem execThermPeriodic_keeps {x0 : Nat} (h : Kept v q n s) : KeptOut v q n (execThermPeriodic x0 s) := by
  unfold execThermPeriodic
  repeat' with_reducible
    first
    | assumption | apply KeptOut.next | apply KeptOut.of_ite | apply State.convStart_keeps | apply Kept.of_ite | intro _ | split

theorem State.thermTemp_keeps {x1 : Nat} {x2 : Int} (h : Kept v q n s) : Kept v q n (State.thermTemp s x1 x2) := by
  unfold State.thermTemp
  repeat' with_reducible
    first
    | assumption | apply State.put_keeps | apply State.irq_keeps | apply State.setMast_keeps | apply Kept.of_ite | intro _
    | simp only [↓Kept.mk_other] | split

theorem State.thermRails_keeps {x1 : Nat} {x2 : List Int} (h : Kept v q n s) : Kept v q n (State.thermRails s x1 x2) := by
  unfold State.thermRails
  repeat' with_reducible first | assumption | apply State.put_keeps | intro _ | apply Kept.of_getD | apply foldl_keeps (Kept v q n)

theorem execConversionDone_keeps {x0 : Nat} {x1 : Nat} {x2 : List Int} (h : Kept v q n s) : KeptOut v q n (execConversionDone x0 x1 x2 s) := by
  unfold execConversionDone
  repeat' with_reducible
    first
    | assumption | apply KeptOut.next | apply KeptOut.of_ite | apply State.staleCheck_keeps | apply State.put_keeps
    | (apply State.mirror_keeps; assumption) | apply State.thermTemp_keeps | apply State.thermRails_keeps | apply Kept.of_ite | intro _
    | apply Kept.of_getD | (apply Kept.of_snd; assumption) | apply foldl_keeps (Kept v q n) | simp only [↓Kept.mk_other] | split

/-! ## Ports -/

theorem State.setPartner_keeps {x1 : Nat} {x2 : Nat} {x3 : Option Nat} {x4 : Bool} (h : Kept v q n s) : Kept v q n (State.setPartner s x1 x2 x3 x4) := by
  unfold State.setPartner
  repeat' with_reducible
    first
    | assumption | apply State.setEport_keeps | apply State.put64_keeps | apply Kept.of_ite | intro _ | (apply Kept.of_snd; assumption)
    | simp only [↓Kept.mk_other] | split

theorem State.ethCommitted_keeps {x0 : State} {x2 : Nat} {x3 : Nat} (g0 : Kept v q n x0) (h : Kept v q n s) : Kept v q n (State.ethCommitted x0 s x2 x3) := by
  unfold State.ethCommitted
  repeat' with_reducible first | assumption | apply State.setPartner_keeps | apply Kept.of_ite | intro _ | split

theorem State.acceptEth_keeps {x1 : Nat} {x2 : Nat} {x3 : Bool} {x4 : Nat} {x5 : Bool} {x6 : EthFrame} {x7 : Nat} (h : Kept v q n s) : Kept v q n (State.acceptEth s x1 x2 x3 x4 x5 x6 x7) := by
  unfold State.acceptEth
  repeat' with_reducible
    first
    | assumption | (apply State.allocItem_keeps; assumption) | apply State.bump_keeps | apply State.setSal_keeps | apply State.ethGive_keeps
    | apply Kept.of_ite | intro _ | (apply Kept.of_snd; assumption) | simp only [↓Kept.mk_other] | split

theorem State.ethIn_keeps {x1 : Nat} {x2 : Nat} {x3 : Nat} {x4 : Bool} {x5 : EthFrame} {x6 : Nat} (h : Kept v q n s) : Kept v q n (State.ethIn s x1 x2 x3 x4 x5 x6) := by
  unfold State.ethIn
  repeat' with_reducible
    first
    | assumption | (apply State.mirror_keeps; assumption) | apply State.acceptEth_keeps | apply State.bump_keeps | apply State.sendOn_keeps
    | apply Kept.of_ite | intro _ | (apply Kept.of_snd; assumption) | simp only [↓Kept.mk_other] | split

theorem execEthRxFrame_keeps {x0 : Nat} {x1 : Nat} {x2 : EthFrame} (h : Kept v q n s) : KeptOut v q n (execEthRxFrame x0 x1 x2 s) := by
  unfold execEthRxFrame
  repeat' with_reducible
    first
    | assumption | apply KeptOut.next | apply KeptOut.of_ite | apply State.bump_keeps | apply State.setPartner_keeps | apply State.irq_keeps
    | apply State.setEport_keeps | apply State.portLook_keeps | apply State.put_keeps | apply State.ethIn_keeps | apply Kept.of_ite | intro _
    | apply Kept.of_getD | (apply Kept.of_snd; assumption) | simp only [↓Kept.mk_other] | split

theorem execPortRelay_keeps {x0 : Nat} {x1 : Relay} {x2 : List LinkPkt} (h : Kept v q n s) : KeptOut v q n (execPortRelay x0 x1 x2 s) := by
  unfold execPortRelay
  repeat' with_reducible
    first
    | assumption | apply KeptOut.next | apply KeptOut.of_ite | apply State.receive_keeps | (apply State.mirror_keeps; assumption)
    | apply State.acceptEth_keeps | apply State.ethSend_keeps | apply State.event_keeps | apply Kept.of_ite | intro _
    | (apply Kept.of_snd; assumption) | simp only [↓Kept.mk_other] | split

theorem execEthLinkChange_keeps {x0 : Nat} {x1 : Nat} {x2 : Nat} {x3 : Option (Bool × Bool)} (h : Kept v q n s) : KeptOut v q n (execEthLinkChange x0 x1 x2 x3 s) := by
  unfold execEthLinkChange
  repeat' with_reducible
    first
    | assumption | apply KeptOut.next | apply KeptOut.of_ite | apply State.irq_keeps | apply State.put_keeps | apply State.portLook_keeps
    | apply State.pauseAll_keeps | apply State.setEport_keeps | apply State.bump_keeps | apply State.setPartner_keeps | apply Kept.of_ite | intro _
    | simp only [↓Kept.mk_other] | split

theorem State.setRing_keeps {x1 : Nat} {x2 : Nat} {x3 : Ring} (h : Kept v q n s) : Kept v q n (State.setRing s x1 x2 x3) := by
  unfold State.setRing
  repeat' with_reducible
    first
    | assumption | apply State.setMast_keeps | apply State.vecSend_keeps | apply Kept.of_ite | intro _ | simp only [↓Kept.mk_other] | split

theorem State.accTail_keeps {x1 : Nat} {x2 : Nat} {x3 : Nat} {x4 : Nat} {x5 : Nat} (h : Kept v q n s) : Kept v q n (State.accTail s x1 x2 x3 x4 x5) := by
  unfold State.accTail
  repeat' with_reducible
    first
    | assumption | apply State.action_keeps | apply State.bump_keeps | apply State.irq_keeps | apply State.setRing_keeps | apply Kept.of_ite
    | intro _ | simp only [↓Kept.mk_other] | split

theorem execPcieTailWrite_keeps {x0 : Nat} {x1 : Nat} {x2 : Nat} {x3 : Nat} (h : Kept v q n s) : KeptOut v q n (execPcieTailWrite x0 x1 x2 x3 s) := by
  unfold execPcieTailWrite
  repeat' with_reducible
    first
    | assumption | apply KeptOut.next | apply KeptOut.of_ite | apply State.hostOn_keeps | apply State.accTail_keeps | apply Kept.of_ite | intro _
    | split

theorem State.accAck_keeps {x1 : Nat} {x2 : Nat} {x3 : Nat} {x4 : Nat} {x5 : Nat} (h : Kept v q n s) : Kept v q n (State.accAck s x1 x2 x3 x4 x5) := by
  unfold State.accAck
  repeat' with_reducible
    first
    | assumption | apply State.action_keeps | apply State.setRing_keeps | apply Kept.of_ite | intro _ | simp only [↓Kept.mk_other] | split

theorem execPcieAckWrite_keeps {x0 : Nat} {x1 : Nat} {x2 : Nat} {x3 : Nat} (h : Kept v q n s) : KeptOut v q n (execPcieAckWrite x0 x1 x2 x3 s) := by
  unfold execPcieAckWrite
  repeat' with_reducible
    first
    | assumption | apply KeptOut.next | apply KeptOut.of_ite | apply State.hostOn_keeps | apply State.accAck_keeps | apply Kept.of_ite | intro _
    | split

theorem State.serveTx_keeps {x1 : Nat} {x2 : Nat} {x3 : Nat} {x4 : Nat} {x5 : Nat} {x6 : Packet} (h : Kept v q n s) : Kept v q n (State.serveTx s x1 x2 x3 x4 x5 x6) := by
  unfold State.serveTx
  repeat' with_reducible
    first
    | assumption | apply State.setMast_keeps | apply State.setRing_keeps | apply State.bump_keeps | (apply State.allocItem_keeps; assumption)
    | apply State.setSal_keeps | apply State.giveHw_keeps | apply Kept.of_ite | intro _ | (apply Kept.of_snd; assumption)
    | simp only [↓Kept.mk_other] | split

theorem execTxRingServe_keeps {x0 : Nat} {x1 : Nat} {x2 : Nat} {x3 : Packet} (h : Kept v q n s) : KeptOut v q n (execTxRingServe x0 x1 x2 x3 s) := by
  unfold execTxRingServe
  repeat' with_reducible
    first
    | assumption | apply KeptOut.next | apply KeptOut.of_ite | (apply State.mirror_keeps; assumption) | apply State.serveTx_keeps | apply Kept.of_ite
    | intro _ | (apply Kept.of_snd; assumption) | simp only [↓Kept.mk_other] | split

theorem execRxRingDeliver_keeps {x0 : Nat} {x1 : Nat} {x2 : Nat} (h : Kept v q n s) : KeptOut v q n (execRxRingDeliver x0 x1 x2 s) := by
  unfold execRxRingDeliver
  repeat' with_reducible
    first
    | assumption | apply KeptOut.next | apply KeptOut.of_ite | (apply State.dequeue_keeps; assumption) | apply State.emit_keeps
    | apply State.setRing_keeps | apply State.output_keeps | apply State.bump_keeps | apply State.freeItem_keeps | apply Kept.of_ite | intro _
    | (apply Kept.of_snd; assumption) | simp only [↓Kept.mk_other] | split

theorem execRingCoalesceTimeout_keeps {x0 : Nat} {x1 : Nat} (h : Kept v q n s) : KeptOut v q n (execRingCoalesceTimeout x0 x1 s) := by
  unfold execRingCoalesceTimeout
  repeat' with_reducible
    first
    | assumption | apply KeptOut.next | apply KeptOut.of_ite | apply State.setRing_keeps | apply Kept.of_ite | intro _ | simp only [↓Kept.mk_other]
    | split

theorem State.pcieDown_keeps {x1 : Nat} (h : Kept v q n s) : Kept v q n (State.pcieDown s x1) := by
  unfold State.pcieDown
  repeat' with_reducible
    first
    | assumption | apply State.irq_keeps | apply State.setMast_keeps | intro _ | apply foldl_keeps (Kept v q n) | simp only [↓Kept.mk_other]

theorem execPcieLinkDown_keeps {x0 : Nat} {x1 : Nat} (h : Kept v q n s) : KeptOut v q n (execPcieLinkDown x0 x1 s) := by
  unfold execPcieLinkDown
  repeat' with_reducible
    first
    | assumption | apply KeptOut.next | apply KeptOut.of_ite | apply State.bump_keeps | apply State.pcieDown_keeps | apply State.put_keeps
    | apply State.setMast_keeps | apply Kept.of_ite | intro _ | simp only [↓Kept.mk_other] | split

theorem execMsixUnmask_keeps {x0 : Nat} {x1 : Nat} (h : Kept v q n s) : KeptOut v q n (execMsixUnmask x0 x1 s) := by
  unfold execMsixUnmask
  repeat' with_reducible
    first
    | assumption | apply KeptOut.next | apply KeptOut.of_ite | apply State.setMast_keeps | apply State.vecSend_keeps | apply Kept.of_ite | intro _
    | simp only [↓Kept.mk_other] | split

/-! ## Pair -/

theorem State.takeInput_keeps {x1 : Nat} {x2 : Mirrored} (h : Kept v q n s) : Kept v q n (State.takeInput s x1 x2) := by
  unfold State.takeInput
  repeat' with_reducible
    first
    | assumption | apply State.xferFail_keeps | apply State.raise_keeps | apply State.setPair_keeps | apply Kept.of_ite | intro _
    | simp only [↓Kept.mk_other] | split

theorem execMirror_keeps {x0 : Nat} {x1 : Nat} {x2 : Nat} {x3 : Input} {x4 : List LinkPkt} (h : Kept v q n s) : KeptOut v q n (execMirror x0 x1 x2 x3 x4 s) := by
  unfold execMirror
  repeat' with_reducible
    first
    | assumption | apply KeptOut.next | apply KeptOut.of_ite | apply State.receive_keeps | apply State.takeInput_keeps | apply Kept.of_ite | intro _
    | simp only [↓Kept.mk_other] | split

theorem execDigestStation_keeps {x0 : Nat} (h : Kept v q n s) : KeptOut v q n (execDigestStation x0 s) := by
  unfold execDigestStation
  repeat' with_reducible
    first
    | assumption | apply KeptOut.next | apply KeptOut.of_ite | apply State.setMast_keeps | apply State.sendOn_keeps | apply State.put64_keeps
    | apply Kept.of_ite | intro _ | apply Kept.of_getD | simp only [↓Kept.mk_other] | split

theorem execDigestMessage_keeps {x0 : Nat} {x1 : Nat} {x2 : Nat} {x3 : Nat} {x4 : List Nat} {x5 : List LinkPkt} (h : Kept v q n s) : KeptOut v q n (execDigestMessage x0 x1 x2 x3 x4 x5 s) := by
  unfold execDigestMessage
  repeat' with_reducible
    first
    | assumption | apply KeptOut.next | apply KeptOut.of_ite | apply State.receive_keeps | apply State.setPair_keeps | apply Kept.of_ite | intro _
    | simp only [↓Kept.mk_other] | split

theorem State.mismatch_keeps {x1 : Nat} {x2 : Nat} {x3 : Nat} (h : Kept v q n s) : Kept v q n (State.mismatch s x1 x2 x3) := by
  unfold State.mismatch
  repeat' with_reducible first | assumption | apply State.bump_keeps | apply State.put_keeps | (apply Kept.of_snd; assumption) | split

theorem State.diverge_keeps {x1 : Nat} (h : Kept v q n s) : Kept v q n (State.diverge s x1) := by
  unfold State.diverge
  repeat' with_reducible first | assumption | apply State.irq_keeps | apply State.bump_keeps | apply State.put_keeps

theorem State.juryMismatch_keeps {x1 : Nat} {x2 : Nat} {x3 : Nat} (h : Kept v q n s) : Kept v q n (State.juryMismatch s x1 x2 x3) := by
  unfold State.juryMismatch
  repeat' with_reducible
    first
    | assumption | apply State.mismatch_keeps | apply State.setPair_keeps | apply State.diverge_keeps | apply Kept.of_ite | intro _
    | (apply Kept.of_snd; assumption) | simp only [↓Kept.mk_other] | split

theorem State.digestNext_keeps {x1 : Nat} {x2 : SlotDigest} {x3 : List SlotDigest} (h : Kept v q n s) : Kept v q n (State.digestNext s x1 x2 x3) := by
  unfold State.digestNext
  repeat' with_reducible first | assumption | apply State.setMast_keeps | intro _ | apply Kept.of_getD | simp only [↓Kept.mk_other]

theorem execDigestCompare_keeps {x0 : Nat} (h : Kept v q n s) : KeptOut v q n (execDigestCompare x0 s) := by
  unfold execDigestCompare
  repeat' with_reducible
    first
    | assumption | apply KeptOut.next | apply KeptOut.of_ite | apply State.digestNext_keeps | apply State.bump_keeps | apply State.put64_keeps
    | apply State.raise_keeps | apply State.setPair_keeps | apply State.xferDone_keeps | apply State.juryMismatch_keeps | apply Kept.of_ite | intro _
    | (apply Kept.of_snd; assumption) | simp only [↓Kept.mk_other] | split

theorem execDigestWaitExpiry_keeps {x0 : Nat} (h : Kept v q n s) : KeptOut v q n (execDigestWaitExpiry x0 s) := by
  unfold execDigestWaitExpiry
  repeat' with_reducible
    first
    | assumption | apply KeptOut.next | apply KeptOut.of_ite | apply State.juryMismatch_keeps | apply State.digestNext_keeps | apply Kept.of_ite
    | intro _ | (apply Kept.of_snd; assumption) | simp only [↓Kept.mk_other] | split

theorem State.sramFault_keeps {x1 : Nat} {x2 : Nat} {x3 : Nat} (h : Kept v q n s) : Kept v q n (State.sramFault s x1 x2 x3) := by
  unfold State.sramFault
  repeat' with_reducible
    first
    | assumption | apply State.selfFaults_keeps | apply State.irq_keeps | apply State.bump_keeps | apply State.put_keeps | apply State.emit_keeps
    | apply Kept.of_ite | intro _ | simp only [↓Kept.mk_other] | split

theorem execSelfFault_keeps {x0 : Nat} {x1 : Nat} {x2 : Nat} {x3 : Nat} (h : Kept v q n s) : KeptOut v q n (execSelfFault x0 x1 x2 x3 s) := by
  unfold execSelfFault
  repeat' with_reducible
    first
    | assumption | apply KeptOut.next | apply KeptOut.of_ite | apply State.sramFault_keeps | apply State.linkErr_keeps | apply State.selfFaults_keeps
    | apply Kept.of_ite | intro _ | split

theorem execHeartbeatSend_keeps {x0 : Nat} (h : Kept v q n s) : KeptOut v q n (execHeartbeatSend x0 s) := by
  unfold execHeartbeatSend
  repeat' with_reducible
    first
    | assumption | apply KeptOut.next | apply KeptOut.of_ite | apply State.sendOn_keeps | apply State.setPair_keeps | apply Kept.of_ite | intro _
    | simp only [↓Kept.mk_other] | split

theorem State.heardResult_keeps {x1 : Nat} {x2 : Nat} {x3 : Nat} (h : Kept v q n s) : Kept v q n (State.heardResult s x1 x2 x3) := by
  unfold State.heardResult
  repeat' with_reducible
    first
    | assumption | apply State.mismatch_keeps | apply State.diverge_keeps | apply Kept.of_ite | intro _ | (apply Kept.of_snd; assumption)
    | simp only [↓Kept.mk_other] | split

theorem execHeartbeat_keeps {x0 : Nat} {x1 : Bool} {x2 : Nat} {x3 : Nat} {x4 : Nat} {x5 : Nat} {x6 : Nat} {x7 : List LinkPkt} (h : Kept v q n s) : KeptOut v q n (execHeartbeat x0 x1 x2 x3 x4 x5 x6 x7 s) := by
  unfold execHeartbeat
  repeat' with_reducible
    first
    | assumption | apply KeptOut.next | apply KeptOut.of_ite | apply State.receive_keeps | apply State.put_keeps | apply State.setPair_keeps
    | apply State.xferHeard_keeps | apply State.heardResult_keeps | apply Kept.of_ite | intro _ | simp only [↓Kept.mk_other] | split

theorem State.sendLiveness_keeps {x1 : Nat} (h : Kept v q n s) : Kept v q n (State.sendLiveness s x1) := by
  unfold State.sendLiveness
  repeat' with_reducible
    first
    | assumption | apply State.setPair_keeps | apply State.sendOn_keeps | intro _ | apply foldl_keeps (Kept v q n) | simp only [↓Kept.mk_other]

theorem State.decideFailover_keeps {x1 : Nat} (h : Kept v q n s) : Kept v q n (State.decideFailover s x1) := by
  unfold State.decideFailover
  repeat' with_reducible
    first
    | assumption | apply State.put_keeps | apply State.irq_keeps | apply State.bump_keeps | apply State.setPair_keeps | apply Kept.of_ite | intro _
    | simp only [↓Kept.mk_other] | split

theorem execHeartbeatMiss_keeps {x0 : Nat} (h : Kept v q n s) : KeptOut v q n (execHeartbeatMiss x0 s) := by
  unfold execHeartbeatMiss
  repeat' with_reducible
    first
    | assumption | apply KeptOut.next | apply KeptOut.of_ite | apply State.bump_keeps | apply State.setPair_keeps | apply State.sendLiveness_keeps
    | apply State.put_keeps | apply State.peerLost_keeps | apply State.soleStart_keeps | apply State.decideFailover_keeps | apply Kept.of_ite
    | intro _ | simp only [↓Kept.mk_other] | split

theorem execLivenessAnswer_keeps {x0 : Nat} {x1 : Nat} {x2 : Nat} {x3 : Nat} {x4 : Nat} {x5 : List LinkPkt} (h : Kept v q n s) : KeptOut v q n (execLivenessAnswer x0 x1 x2 x3 x4 x5 s) := by
  unfold execLivenessAnswer
  repeat' with_reducible
    first
    | assumption | apply KeptOut.next | apply KeptOut.of_ite | apply State.receive_keeps | apply State.setPair_keeps | apply Kept.of_ite | intro _
    | simp only [↓Kept.mk_other] | split

theorem State.swapWord_keeps {x1 : Nat} {x2 : Nat} {x3 : Nat} (h : Kept v q n s) : Kept v q n (State.swapWord s x1 x2 x3) := by
  unfold State.swapWord
  repeat' with_reducible first | assumption | apply State.setWord_keeps

theorem State.exchange_keeps {x1 : Nat} (h : Kept v q n s) : Kept v q n (State.exchange s x1) := by
  unfold State.exchange
  repeat' with_reducible
    first
    | assumption | apply State.setMast_keeps | apply State.swapWord_keeps | intro _ | (apply Kept.of_snd; assumption)
    | apply foldl_keeps (Kept v q n) | simp only [↓Kept.mk_other] | split

theorem State.afterTakeover_keeps {x1 : Nat} (h : Kept v q n s) : Kept v q n (State.afterTakeover s x1) := by
  unfold State.afterTakeover
  repeat' with_reducible first | assumption | apply State.setMast_keeps | intro _ | apply foldl_keeps (Kept v q n) | simp only [↓Kept.mk_other]

theorem State.sendTakeover_keeps {x1 : Nat} (h : Kept v q n s) : Kept v q n (State.sendTakeover s x1) := by
  unfold State.sendTakeover
  repeat' with_reducible first | assumption | apply State.takeoverTo_keeps | intro _ | apply foldl_keeps (Kept v q n)

theorem State.takeoverAt_keeps {x1 : Nat} (h : Kept v q n s) : Kept v q n (State.takeoverAt s x1) := by
  unfold State.takeoverAt
  repeat' with_reducible
    first
    | assumption | apply State.setPair_keeps | apply State.put_keeps | apply State.exchange_keeps | apply State.bump_keeps
    | apply State.sendTakeover_keeps | apply State.afterTakeover_keeps | apply State.irq_keeps | apply State.updTakenOver_keeps | apply Kept.of_ite
    | intro _ | (apply Kept.of_snd; assumption) | simp only [↓Kept.mk_other] | split

theorem State.accPairCmd_keeps {x1 : Nat} {x2 : Nat} {x3 : Nat} {x4 : Nat} (h : Kept v q n s) : Kept v q n (State.accPairCmd s x1 x2 x3 x4) := by
  unfold State.accPairCmd
  repeat' with_reducible
    first
    | assumption | apply State.action_keeps | apply State.deny_keeps | apply State.put_keeps | apply State.setPair_keeps
    | apply State.resyncPeer_keeps | apply State.xferFail_keeps | apply Kept.of_ite | intro _ | (apply Kept.of_snd; assumption)
    | simp only [↓Kept.mk_other] | split

theorem execPairSwap_keeps {x0 : Nat} {x1 : Nat} {x2 : Nat} {x3 : Nat} (h : Kept v q n s) : KeptOut v q n (execPairSwap x0 x1 x2 x3 s) := by
  unfold execPairSwap
  repeat' with_reducible first | assumption | apply KeptOut.next | apply State.hostOn_keeps | apply State.accPairCmd_keeps | intro _

theorem execPairResync_keeps {x0 : Nat} {x1 : Nat} {x2 : Nat} {x3 : Nat} (h : Kept v q n s) : KeptOut v q n (execPairResync x0 x1 x2 x3 s) := by
  unfold execPairResync
  repeat' with_reducible first | assumption | apply KeptOut.next | apply State.hostOn_keeps | apply State.accPairCmd_keeps | intro _

theorem execPairReleaseJury_keeps {x0 : Nat} {x1 : Nat} {x2 : Nat} {x3 : Nat} (h : Kept v q n s) : KeptOut v q n (execPairReleaseJury x0 x1 x2 x3 s) := by
  unfold execPairReleaseJury
  repeat' with_reducible first | assumption | apply KeptOut.next | apply State.hostOn_keeps | apply State.accPairCmd_keeps | intro _

theorem State.takeCopies_keeps {x1 x2 : Nat} (h : Kept v q n s) : Kept v q n (State.takeCopies s x1 x2) := by
  have c := State.clearCopies_keeps (x1 := x2) h
  exact ⟨c.variant, c.pending, c.now,
    foldl_keeps (fun t => Tbl.wf resetWord t = true) _ _ (fun _ _ w => Tbl.wf_set _ _ _ _ w) c.canonical.regs,
    c.canonical.sails, c.canonical.conns,
    foldl_keeps (fun t => Tbl.wf (fun i => profReset (i % 256)) t = true) _ _ (fun _ _ w => Tbl.wf_set _ _ _ _ w) c.canonical.profAct,
    foldl_keeps (fun t => Tbl.rising 0 t = true) _ _ (fun _ _ w => Tbl.rising_put _ _ _ _ (Nat.zero_le _) w) c.canonical.profPend,
    c.canonical.timerAt, c.canonical.timerRem, c.canonical.tap⟩

theorem execTransferPassEnd_keeps {x0 : Nat} {x1 : Nat} (h : Kept v q n s) : KeptOut v q n (execTransferPassEnd x0 x1 s) := by
  unfold execTransferPassEnd
  repeat' with_reducible
    first
    | assumption | apply KeptOut.next | apply KeptOut.of_ite | apply State.put_keeps | apply State.setMast_keeps | apply State.xferFail_keeps
    | apply Kept.of_ite | intro _ | simp only [↓Kept.mk_other] | split

/-- The words of the sender take the place of the die's own. -/
theorem Kept.regs_xfer {m j : Nat} {src : Tbl Word} {sh : Option (Mast × Tbl Word)} (h : Kept v q n s) (h1 : Kept v q n t) :
    Kept v q n { s with regs := xferRegs m j src t.regs, shadow := sh } :=
  ⟨h.variant, h.pending, h.now,
    foldl_keeps (fun t => Tbl.wf resetWord t = true) _ _ (fun _ _ w => Tbl.wf_set _ _ _ _ w) (Tbl.wf_filter _ _ _ h1.canonical.regs),
    h.canonical.sails, h.canonical.conns, h.canonical.profAct, h.canonical.profPend, h.canonical.timerAt, h.canonical.timerRem,
    h.canonical.tap⟩

theorem execStatePacket_keeps {x0 : Nat} {x1 : Bool} {x2 : List LinkPkt} (h : Kept v q n s) : KeptOut v q n (execStatePacket x0 x1 x2 s) := by
  unfold execStatePacket
  repeat' with_reducible
    first
    | assumption | apply Kept.regs_xfer | apply KeptOut.next | apply KeptOut.of_ite | apply State.receive_keeps | apply State.setMast_keeps
    | apply State.put64_keeps | apply State.put_keeps | apply State.ringWrite_keeps | apply State.takeCopies_keeps | apply Kept.of_ite | intro _
    | (apply Kept.of_snd; assumption) | simp only [↓Kept.mk_other] | split

/-! ## Update -/

theorem State.updEnd_keeps {x1 : Nat} {x2 : Nat} {x3 : Nat} (h : Kept v q n s) : Kept v q n (State.updEnd s x1 x2 x3) := by
  unfold State.updEnd
  repeat' with_reducible first | assumption | apply State.freeItem_keeps | apply State.put_keeps

theorem State.updRefuse_keeps {x1 : Nat} {x2 : Nat} (h : Kept v q n s) : Kept v q n (State.updRefuse s x1 x2) := by
  unfold State.updRefuse
  repeat' with_reducible first | assumption | apply State.irq_keeps | apply State.bump_keeps | apply State.put_keeps

theorem State.updBegin_keeps {x1 : Nat} (h : Kept v q n s) : Kept v q n (State.updBegin s x1) := by
  unfold State.updBegin
  repeat' with_reducible
    first
    | assumption | apply State.freeItem_keeps | apply State.updRefuse_keeps | apply State.updEnd_keeps | apply State.put_keeps
    | apply State.nvRequest_keeps | apply State.setNv_keeps | apply State.setUpd_keeps | apply Kept.of_ite | intro _ | simp only [↓Kept.mk_other]
    | split

theorem execUpdateEraseDone_keeps {x0 : Nat} (h : Kept v q n s) : KeptOut v q n (execUpdateEraseDone x0 s) := by
  unfold execUpdateEraseDone
  repeat' with_reducible
    first
    | assumption | apply KeptOut.next | apply KeptOut.of_ite | apply State.setNv_keeps | apply State.setUpd_keeps | apply State.updEnd_keeps
    | apply State.put_keeps | apply State.updWrite_keeps | apply Kept.of_ite | intro _ | apply Kept.of_getD | simp only [↓Kept.mk_other] | split

theorem State.updChunk_keeps {x1 : Nat} (h : Kept v q n s) : Kept v q n (State.updChunk s x1) := by
  unfold State.updChunk
  repeat' with_reducible
    first
    | assumption | apply State.freeItem_keeps | apply State.updRefuse_keeps | apply State.updEnd_keeps | apply State.bump_keeps
    | apply State.put_keeps | apply State.setUpd_keeps | apply State.nvRequest_keeps | apply Kept.of_ite | intro _ | simp only [↓Kept.mk_other]
    | split

theorem State.updProgrammed_keeps {x1 : Nat} (h : Kept v q n s) : Kept v q n (State.updProgrammed s x1) := by
  unfold State.updProgrammed
  repeat' with_reducible
    first
    | assumption | apply State.setNv_keeps | apply State.updEnd_keeps | apply State.bump_keeps | apply State.setUpd_keeps | apply Kept.of_ite
    | intro _ | (apply Kept.of_snd; assumption) | simp only [↓Kept.mk_other] | split

theorem State.updVerify_keeps {x1 : Nat} (h : Kept v q n s) : Kept v q n (State.updVerify s x1) := by
  unfold State.updVerify
  repeat' with_reducible
    first
    | assumption | apply State.updRefuse_keeps | apply State.put_keeps | apply State.setUpd_keeps | apply Kept.of_ite | intro _
    | simp only [↓Kept.mk_other] | split

theorem execUpdateVerifyDone_keeps {x0 : Nat} (h : Kept v q n s) : KeptOut v q n (execUpdateVerifyDone x0 s) := by
  unfold execUpdateVerifyDone
  repeat' with_reducible
    first
    | assumption | apply KeptOut.next | apply KeptOut.of_ite | apply State.put_keeps | apply State.setUpd_keeps | apply State.setNv_keeps
    | apply State.updWrite_keeps | apply State.irq_keeps | apply State.bump_keeps | apply Kept.of_ite | intro _ | simp only [↓Kept.mk_other] | split

theorem State.updActivate_keeps {x1 : Nat} (h : Kept v q n s) : Kept v q n (State.updActivate s x1) := by
  unfold State.updActivate
  repeat' with_reducible
    first
    | assumption | apply State.updRefuse_keeps | apply State.put_keeps | apply State.bump_keeps | apply State.setUpd_keeps | apply Kept.of_ite
    | intro _ | simp only [↓Kept.mk_other] | split

theorem State.updDrop_keeps {x1 : Nat} (h : Kept v q n s) : Kept v q n (State.updDrop s x1) := by
  unfold State.updDrop
  repeat' with_reducible
    first
    | assumption | apply State.irq_keeps | apply State.updWrite_keeps | apply State.setUpd_keeps | simp only [↓Kept.mk_other]

theorem State.updCancel_keeps {x1 : Nat} (h : Kept v q n s) : Kept v q n (State.updCancel s x1) := by
  unfold State.updCancel
  repeat' with_reducible
    first
    | assumption | apply State.put_keeps | apply State.updAbandon_keeps | apply State.updDrop_keeps | apply Kept.of_ite | intro _ | split

theorem State.accUpdate_keeps {x1 : Nat} {x2 : Nat} {x3 : Nat} {x4 : Nat} (h : Kept v q n s) : Kept v q n (State.accUpdate s x1 x2 x3 x4) := by
  unfold State.accUpdate
  repeat' with_reducible
    first
    | assumption | apply State.action_keeps | apply State.deny_keeps | apply State.lockv_keeps | apply State.updBegin_keeps
    | apply State.updChunk_keeps | apply State.updVerify_keeps | apply State.updActivate_keeps | apply State.updCancel_keeps | apply State.put_keeps
    | apply Kept.of_ite | intro _ | (apply Kept.of_snd; assumption) | simp only [↓Kept.mk_other] | split

theorem execUpdateBegin_keeps {x0 : Nat} {x1 : Nat} {x2 : Nat} (h : Kept v q n s) : KeptOut v q n (execUpdateBegin x0 x1 x2 s) := by
  unfold execUpdateBegin
  repeat' with_reducible first | assumption | apply KeptOut.next | apply State.hostOn_keeps | apply State.accUpdate_keeps | intro _

theorem execUpdateChunk_keeps {x0 : Nat} {x1 : Nat} {x2 : Nat} (h : Kept v q n s) : KeptOut v q n (execUpdateChunk x0 x1 x2 s) := by
  unfold execUpdateChunk
  repeat' with_reducible first | assumption | apply KeptOut.next | apply State.hostOn_keeps | apply State.accUpdate_keeps | intro _

theorem execUpdateVerify_keeps {x0 : Nat} {x1 : Nat} {x2 : Nat} (h : Kept v q n s) : KeptOut v q n (execUpdateVerify x0 x1 x2 s) := by
  unfold execUpdateVerify
  repeat' with_reducible first | assumption | apply KeptOut.next | apply State.hostOn_keeps | apply State.accUpdate_keeps | intro _

theorem execUpdateActivate_keeps {x0 : Nat} {x1 : Nat} {x2 : Nat} (h : Kept v q n s) : KeptOut v q n (execUpdateActivate x0 x1 x2 s) := by
  unfold execUpdateActivate
  repeat' with_reducible first | assumption | apply KeptOut.next | apply State.hostOn_keeps | apply State.accUpdate_keeps | intro _

theorem execUpdateCancel_keeps {x0 : Nat} {x1 : Nat} {x2 : Nat} (h : Kept v q n s) : KeptOut v q n (execUpdateCancel x0 x1 x2 s) := by
  unfold execUpdateCancel
  repeat' with_reducible first | assumption | apply KeptOut.next | apply State.hostOn_keeps | apply State.accUpdate_keeps | intro _

theorem execBitmapRecordWrite_keeps {x0 : Nat} (h : Kept v q n s) : KeptOut v q n (execBitmapRecordWrite x0 s) := by
  unfold execBitmapRecordWrite
  repeat' with_reducible
    first
    | assumption | apply KeptOut.next | apply KeptOut.of_ite | apply State.updWrite_keeps | apply State.setUpd_keeps | apply Kept.of_ite | intro _
    | simp only [↓Kept.mk_other] | split

theorem State.accConfirm_keeps {x1 : Nat} {x2 : Nat} {x3 : Nat} {x4 : Nat} (h : Kept v q n s) : Kept v q n (State.accConfirm s x1 x2 x3 x4) := by
  unfold State.accConfirm
  repeat' with_reducible
    first
    | assumption | apply State.action_keeps | apply State.bump_keeps | apply State.put_keeps | apply State.sheetHome_keeps
    | apply State.updCommit_keeps | apply State.resyncPeer_keeps | apply Kept.of_ite | intro _ | simp only [↓Kept.mk_other] | split

theorem execUpdateConfirm_keeps {x0 : Nat} {x1 : Nat} {x2 : Nat} {x3 : Nat} (h : Kept v q n s) : KeptOut v q n (execUpdateConfirm x0 x1 x2 x3 s) := by
  unfold execUpdateConfirm
  repeat' with_reducible first | assumption | apply KeptOut.next | apply State.hostOn_keeps | apply State.accConfirm_keeps | intro _

theorem State.blowPending_keeps {x1 : Nat} (h : Kept v q n s) : Kept v q n (State.blowPending s x1) := by
  unfold State.blowPending
  repeat' with_reducible
    first
    | assumption | apply State.put_keeps | apply State.updWrite_keeps | apply State.setMast_keeps | intro _ | apply Kept.of_getD
    | simp only [↓Kept.mk_other]

theorem execUpdateConfirmed_keeps {x0 : Nat} (h : Kept v q n s) : KeptOut v q n (execUpdateConfirmed x0 s) := by
  unfold execUpdateConfirmed
  repeat' with_reducible
    first
    | assumption | apply KeptOut.next | apply KeptOut.of_ite | apply State.bump_keeps | apply State.irq_keeps | apply State.blowPending_keeps
    | apply Kept.of_ite | intro _ | split

theorem State.accReady_keeps {x1 : Nat} {x2 : Nat} {x3 : Nat} {x4 : Nat} (h : Kept v q n s) : Kept v q n (State.accReady s x1 x2 x3 x4) := by
  unfold State.accReady
  repeat' with_reducible
    first
    | assumption | apply State.action_keeps | apply State.put_keeps | apply State.xferStart_keeps | apply Kept.of_ite | intro _
    | simp only [↓Kept.mk_other] | split

theorem execUpdateReady_keeps {x0 : Nat} {x1 : Nat} {x2 : Nat} {x3 : Nat} (h : Kept v q n s) : KeptOut v q n (execUpdateReady x0 x1 x2 x3 s) := by
  unfold execUpdateReady
  repeat' with_reducible first | assumption | apply KeptOut.next | apply State.accReady_keeps

theorem execJuryReadyTimeout_keeps {x0 : Nat} (h : Kept v q n s) : KeptOut v q n (execJuryReadyTimeout x0 s) := by
  unfold execJuryReadyTimeout
  repeat' with_reducible
    first
    | assumption | apply KeptOut.next | apply KeptOut.of_ite | apply State.updAbandon_keeps | apply Kept.of_ite | intro _ | split

theorem execTrialElapsedWrite_keeps {x0 : Nat} (h : Kept v q n s) : KeptOut v q n (execTrialElapsedWrite x0 s) := by
  unfold execTrialElapsedWrite
  repeat' with_reducible
    first
    | assumption | apply KeptOut.next | apply KeptOut.of_ite | apply State.updWrite_keeps | apply Kept.of_ite | intro _ | simp only [↓Kept.mk_other]
    | split

theorem execTrialExpiry_keeps {x0 : Nat} (h : Kept v q n s) : KeptOut v q n (execTrialExpiry x0 s) := by
  unfold execTrialExpiry
  repeat' with_reducible
    first
    | assumption | apply KeptOut.next | apply KeptOut.of_ite | apply State.trialEnds_keeps | apply State.resetMast_keeps | apply State.setPair_keeps
    | apply State.put_keeps | apply State.xferStop_keeps | apply Kept.of_ite | intro _ | simp only [↓Kept.mk_other] | split

theorem State.updTick_keeps {x1 : Nat} (h : Kept v q n s) : Kept v q n (State.updTick s x1) := by
  unfold State.updTick
  repeat' with_reducible
    first
    | assumption | apply State.updDrop_keeps | apply State.setUpd_keeps | apply State.resetMast_keeps | apply State.updCommit_keeps
    | apply State.put_keeps | apply State.updAbandon_keeps | apply State.setPair_keeps | apply Kept.of_ite | intro _ | simp only [↓Kept.mk_other]
    | split

/-! ## Campaign -/

theorem State.campWrite_keeps {x1 : Nat} (h : Kept v q n s) : Kept v q n (State.campWrite s x1) := by
  unfold State.campWrite
  repeat' with_reducible
    first
    | assumption | apply State.nvStart_keeps | apply State.output_keeps | apply State.setNv_keeps | intro _ | simp only [↓Kept.mk_other]

theorem State.campEnter_keeps {x1 : Nat} {x2 : Nat} (h : Kept v q n s) : Kept v q n (State.campEnter s x1 x2) := by
  unfold State.campEnter
  repeat' with_reducible first | assumption | apply State.campWrite_keeps | apply State.put_keeps | apply Kept.of_ite | intro _ | split

theorem execCampaignPersist_keeps {x0 : Nat} (h : Kept v q n s) : KeptOut v q n (execCampaignPersist x0 s) := by
  unfold execCampaignPersist
  repeat' with_reducible
    first
    | assumption | apply KeptOut.next | apply KeptOut.of_ite | apply State.campWrite_keeps | apply Kept.of_ite | intro _ | split

theorem State.campEnd_keeps {x1 : Nat} {x2 : Nat} (h : Kept v q n s) : Kept v q n (State.campEnd s x1 x2) := by
  unfold State.campEnd
  repeat' with_reducible first | assumption | apply State.put_keeps

theorem State.imgBegin_keeps {x1 : Nat} (h : Kept v q n s) : Kept v q n (State.imgBegin s x1) := by
  unfold State.imgBegin
  repeat' with_reducible
    first
    | assumption | apply State.campEnd_keeps | apply State.setNv_keeps | apply State.nvRequest_keeps | apply State.setCamp_keeps
    | apply State.campWrite_keeps | apply State.put_keeps | apply Kept.of_ite | intro _ | simp only [↓Kept.mk_other] | split

theorem State.imgChunk_keeps {x1 : Nat} (h : Kept v q n s) : Kept v q n (State.imgChunk s x1) := by
  unfold State.imgChunk
  repeat' with_reducible
    first
    | assumption | apply State.freeItem_keeps | apply State.campEnd_keeps | apply State.setCamp_keeps | apply State.nvRequest_keeps
    | apply Kept.of_ite | intro _ | simp only [↓Kept.mk_other] | split

theorem State.imgProgrammed_keeps {x1 : Nat} (h : Kept v q n s) : Kept v q n (State.imgProgrammed s x1) := by
  unfold State.imgProgrammed
  repeat' with_reducible
    first
    | assumption | apply State.setNv_keeps | apply State.setCamp_keeps | apply State.campWrite_keeps | apply State.freeItem_keeps
    | apply State.campEnd_keeps | apply Kept.of_ite | intro _ | (apply Kept.of_snd; assumption) | simp only [↓Kept.mk_other] | split

theorem execChunkProgrammed_keeps {x0 : Nat} {x1 : Bool} (h : Kept v q n s) : KeptOut v q n (execChunkProgrammed x0 x1 s) := by
  unfold execChunkProgrammed
  repeat' with_reducible
    first
    | assumption | apply KeptOut.next | apply KeptOut.of_ite | apply State.imgProgrammed_keeps | apply State.updProgrammed_keeps | apply Kept.of_ite
    | intro _ | split

theorem State.imgVerify_keeps {x1 : Nat} (h : Kept v q n s) : Kept v q n (State.imgVerify s x1) := by
  unfold State.imgVerify
  repeat' with_reducible
    first
    | assumption | apply State.campEnd_keeps | apply State.setCamp_keeps | apply Kept.of_ite | intro _ | simp only [↓Kept.mk_other] | split

theorem execImgVerifyDone_keeps {x0 : Nat} (h : Kept v q n s) : KeptOut v q n (execImgVerifyDone x0 s) := by
  unfold execImgVerifyDone
  repeat' with_reducible
    first
    | assumption | apply KeptOut.next | apply KeptOut.of_ite | apply State.setCamp_keeps | apply State.campEnd_keeps | apply State.campEnter_keeps
    | apply Kept.of_ite | intro _ | simp only [↓Kept.mk_other] | split

theorem State.waveAdd_keeps {x1 : Nat} (h : Kept v q n s) : Kept v q n (State.waveAdd s x1) := by
  unfold State.waveAdd
  repeat' with_reducible
    first
    | assumption | apply State.campEnd_keeps | apply State.setCampOf_keeps | apply State.setCamp_keeps | apply Kept.of_ite | intro _
    | (apply Kept.of_snd; assumption) | simp only [↓Kept.mk_other] | split

theorem State.offer_keeps {x1 : Nat} {x2 : Nat} (h : Kept v q n s) : Kept v q n (State.offer s x1 x2) := by
  unfold State.offer
  repeat' with_reducible first | assumption | apply State.campFrame_keeps

theorem State.waveGo_keeps {x1 : Nat} (h : Kept v q n s) : Kept v q n (State.waveGo s x1) := by
  unfold State.waveGo
  repeat' with_reducible
    first
    | assumption | apply State.campEnd_keeps | apply State.put_keeps | apply State.setCamp_keeps | apply State.offer_keeps
    | apply State.campEnter_keeps | apply Kept.of_ite | intro _ | apply foldl_keeps (Kept v q n) | simp only [↓Kept.mk_other] | split

theorem State.waveClose_keeps {x1 : Nat} (h : Kept v q n s) : Kept v q n (State.waveClose s x1) := by
  unfold State.waveClose
  repeat' with_reducible
    first
    | assumption | apply State.setCampOf_keeps | apply State.setCamp_keeps | apply Kept.of_ite | intro _ | apply foldl_keeps (Kept v q n)
    | simp only [↓Kept.mk_other] | split

theorem execWaveEnd_keeps {x0 : Nat} (h : Kept v q n s) : KeptOut v q n (execWaveEnd x0 s) := by
  unfold execWaveEnd
  repeat' with_reducible
    first
    | assumption | apply KeptOut.next | apply KeptOut.of_ite | apply State.irq_keeps | apply State.campEnter_keeps | apply State.waveClose_keeps
    | apply Kept.of_ite | intro _ | split

theorem State.campPause_keeps {x1 : Nat} (h : Kept v q n s) : Kept v q n (State.campPause s x1) := by
  unfold State.campPause
  repeat' with_reducible
    first
    | assumption | apply State.campEnd_keeps | apply State.campEnter_keeps | apply State.setCamp_keeps | apply Kept.of_ite | intro _
    | simp only [↓Kept.mk_other] | split

theorem State.campResume_keeps {x1 : Nat} (h : Kept v q n s) : Kept v q n (State.campResume s x1) := by
  unfold State.campResume
  repeat' with_reducible
    first
    | assumption | apply State.campEnd_keeps | apply State.campEnter_keeps | apply Kept.of_ite | intro _ | simp only [↓Kept.mk_other] | split

theorem State.campAbort_keeps {x1 : Nat} (h : Kept v q n s) : Kept v q n (State.campAbort s x1) := by
  unfold State.campAbort
  repeat' with_reducible first | assumption | apply State.campEnd_keeps | apply State.campEnter_keeps | apply State.waveClose_keeps

theorem State.accCampaign_keeps {x1 : Nat} {x2 : Nat} {x3 : Nat} {x4 : Nat} (h : Kept v q n s) : Kept v q n (State.accCampaign s x1 x2 x3 x4) := by
  unfold State.accCampaign
  repeat' with_reducible
    first
    | assumption | apply State.action_keeps | apply State.lockv_keeps | apply State.imgBegin_keeps | apply State.imgChunk_keeps
    | apply State.imgVerify_keeps | apply State.waveAdd_keeps | apply State.waveGo_keeps | apply State.campPause_keeps | apply State.campResume_keeps
    | apply State.campAbort_keeps | apply Kept.of_ite | intro _ | (apply Kept.of_snd; assumption) | simp only [↓Kept.mk_other] | split

theorem execImgBegin_keeps {x0 : Nat} {x1 : Nat} {x2 : Nat} (h : Kept v q n s) : KeptOut v q n (execImgBegin x0 x1 x2 s) := by
  unfold execImgBegin
  repeat' with_reducible first | assumption | apply KeptOut.next | apply State.hostOn_keeps | apply State.accCampaign_keeps | intro _

theorem execImgChunk_keeps {x0 : Nat} {x1 : Nat} {x2 : Nat} (h : Kept v q n s) : KeptOut v q n (execImgChunk x0 x1 x2 s) := by
  unfold execImgChunk
  repeat' with_reducible first | assumption | apply KeptOut.next | apply State.hostOn_keeps | apply State.accCampaign_keeps | intro _

theorem execImgVerify_keeps {x0 : Nat} {x1 : Nat} {x2 : Nat} (h : Kept v q n s) : KeptOut v q n (execImgVerify x0 x1 x2 s) := by
  unfold execImgVerify
  repeat' with_reducible first | assumption | apply KeptOut.next | apply State.hostOn_keeps | apply State.accCampaign_keeps | intro _

theorem execWaveAdd_keeps {x0 : Nat} {x1 : Nat} {x2 : Nat} (h : Kept v q n s) : KeptOut v q n (execWaveAdd x0 x1 x2 s) := by
  unfold execWaveAdd
  repeat' with_reducible first | assumption | apply KeptOut.next | apply State.hostOn_keeps | apply State.accCampaign_keeps | intro _

theorem execWaveGo_keeps {x0 : Nat} {x1 : Nat} {x2 : Nat} (h : Kept v q n s) : KeptOut v q n (execWaveGo x0 x1 x2 s) := by
  unfold execWaveGo
  repeat' with_reducible first | assumption | apply KeptOut.next | apply State.hostOn_keeps | apply State.accCampaign_keeps | intro _

theorem execCampaignPause_keeps {x0 : Nat} {x1 : Nat} {x2 : Nat} (h : Kept v q n s) : KeptOut v q n (execCampaignPause x0 x1 x2 s) := by
  unfold execCampaignPause
  repeat' with_reducible first | assumption | apply KeptOut.next | apply State.hostOn_keeps | apply State.accCampaign_keeps | intro _

theorem execCampaignResume_keeps {x0 : Nat} {x1 : Nat} {x2 : Nat} (h : Kept v q n s) : KeptOut v q n (execCampaignResume x0 x1 x2 s) := by
  unfold execCampaignResume
  repeat' with_reducible first | assumption | apply KeptOut.next | apply State.hostOn_keeps | apply State.accCampaign_keeps | intro _

theorem execCampaignAbort_keeps {x0 : Nat} {x1 : Nat} {x2 : Nat} (h : Kept v q n s) : KeptOut v q n (execCampaignAbort x0 x1 x2 s) := by
  unfold execCampaignAbort
  repeat' with_reducible first | assumption | apply KeptOut.next | apply State.hostOn_keeps | apply State.accCampaign_keeps | intro _

theorem State.groupLocked_keeps {x1 : Nat} (h : Kept v q n s) : Kept v q n (State.groupLocked s x1) := by
  unfold State.groupLocked
  repeat' with_reducible
    first
    | assumption | apply State.setCampOf_keeps | apply State.setCamp_keeps | apply State.offer_keeps | apply Kept.of_ite | intro _
    | apply foldl_keeps (Kept v q n) | simp only [↓Kept.mk_other] | split

theorem execRoundStart_keeps {x0 : Nat} (h : Kept v q n s) : KeptOut v q n (execRoundStart x0 s) := by
  unfold execRoundStart
  repeat' with_reducible
    first
    | assumption | apply KeptOut.next | apply KeptOut.of_ite | apply State.campEnter_keeps | apply State.put_keeps | apply State.setCamp_keeps
    | apply Kept.of_ite | intro _ | apply foldl_keeps (Kept v q n) | simp only [↓Kept.mk_other] | split

theorem execRoundClose_keeps {x0 : Nat} (h : Kept v q n s) : KeptOut v q n (execRoundClose x0 s) := by
  unfold execRoundClose
  repeat' with_reducible
    first
    | assumption | apply KeptOut.next | apply KeptOut.of_ite | apply State.setCamp_keeps | apply State.campTry_keeps | apply State.straggle_keeps
    | apply State.setCampOf_keeps | apply Kept.of_ite | intro _ | apply foldl_keeps (Kept v q n) | simp only [↓Kept.mk_other, ↓id_eq] | split

theorem execOfferReportTimeout_keeps {x0 : Nat} {x1 : Nat} (h : Kept v q n s) : KeptOut v q n (execOfferReportTimeout x0 x1 s) := by
  unfold execOfferReportTimeout
  repeat' with_reducible
    first
    | assumption | apply KeptOut.next | apply KeptOut.of_ite | apply State.campTry_keeps | apply State.offer_keeps | apply Kept.of_ite | intro _
    | simp only [↓Kept.mk_other] | split

theorem execRefusedRetryDeadline_keeps {x0 : Nat} {x1 : Nat} (h : Kept v q n s) : KeptOut v q n (execRefusedRetryDeadline x0 x1 s) := by
  unfold execRefusedRetryDeadline
  repeat' with_reducible
    first
    | assumption | apply KeptOut.next | apply KeptOut.of_ite | apply State.offer_keeps | apply State.setCampOf_keeps | apply Kept.of_ite | intro _
    | simp only [↓Kept.mk_other] | split

theorem State.nodeReverted_keeps {x1 : Nat} {x2 : Nat} (h : Kept v q n s) : Kept v q n (State.nodeReverted s x1 x2) := by
  unfold State.nodeReverted
  repeat' with_reducible
    first
    | assumption | apply State.event_keeps | apply State.irq_keeps | apply State.bump_keeps | apply State.setCampOf_keeps
    | simp only [↓Kept.mk_other]

theorem execNodeTrialDeadline_keeps {x0 : Nat} {x1 : Nat} (h : Kept v q n s) : KeptOut v q n (execNodeTrialDeadline x0 x1 s) := by
  unfold execNodeTrialDeadline
  repeat' with_reducible
    first
    | assumption | apply KeptOut.next | apply KeptOut.of_ite | apply State.nodeReverted_keeps | apply Kept.of_ite | intro _ | split

theorem execCompleteScan_keeps {x0 : Nat} {x1 : Nat} (h : Kept v q n s) : KeptOut v q n (execCompleteScan x0 x1 s) := by
  unfold execCompleteScan
  repeat' with_reducible
    first
    | assumption | apply KeptOut.next | apply KeptOut.of_ite | apply State.campFrame_keeps | apply State.setCampOf_keeps | apply Kept.of_ite
    | intro _ | simp only [↓Kept.mk_other] | split

theorem State.report_keeps {x1 : Nat} {x2 : Nat} {x3 : List Nat} (h : Kept v q n s) : Kept v q n (State.report s x1 x2 x3) := by
  unfold State.report
  repeat' with_reducible
    first
    | assumption | apply State.bump_keeps | apply State.setCampOf_keeps | apply State.setCamp_keeps | apply State.setMissing_keeps
    | apply State.straggle_keeps | apply State.irq_keeps | apply State.nodeReverted_keeps | apply Kept.of_ite | intro _ | apply Kept.of_getD
    | (apply Kept.of_snd; assumption) | simp only [↓Kept.mk_other] | split

theorem execCampaignReport_keeps {x0 : Nat} (h : Kept v q n s) : KeptOut v q n (execCampaignReport x0 s) := by
  unfold execCampaignReport
  repeat' with_reducible
    first
    | assumption | apply KeptOut.next | apply KeptOut.of_ite | (apply State.engineTake_keeps; assumption) | apply State.engineIdle_keeps
    | apply State.engineNext_keeps | apply State.freeItem_keeps | apply State.report_keeps | apply Kept.of_ite | intro _
    | (apply Kept.of_snd; assumption) | simp only [↓Kept.mk_other] | split

theorem State.campGive_keeps {x1 : Nat} {x2 : Nat} {x3 : Nat} {x4 : Frame} {y} (e : State.campGive s x1 x2 x3 x4 = some (y, t)) (h : Kept v q n s) : Kept v q n t := by
  unfold State.campGive at e
  try dsimp only at e
  repeat' split at e
  all_goals first | cases e | skip
  all_goals try simp only [Option.some.injEq, Prod.mk.injEq] at e
  all_goals try obtain ⟨rfl, rfl⟩ := e
  all_goals try simp only [Option.map_eq_some_iff] at e
  all_goals try obtain ⟨_, e, rfl⟩ := e
  all_goals repeat' with_reducible
    first
    | assumption | (apply State.allocItem_keeps; assumption) | apply State.engineNext_keeps | apply State.engineAdmitted_keeps
    | apply State.setItemBody_keeps | (apply Kept.of_snd; assumption) | simp only [↓Kept.mk_other] | split

theorem State.campTake_keeps {x1 : Nat} {x2 : CampFrame} {x3 : Nat} (h : Kept v q n s) : Kept v q n (State.campTake s x1 x2 x3) := by
  unfold State.campTake
  repeat' with_reducible first | assumption | apply State.setCamp_keeps | simp only [↓Kept.mk_other]

theorem State.campDrop_keeps {x1 : Nat} {x2 : CampFrame} (h : Kept v q n s) : Kept v q n (State.campDrop s x1 x2) := by
  unfold State.campDrop
  repeat' with_reducible first | assumption | apply State.campLeft_keeps | apply State.campTake_keeps

theorem State.campUnicast_keeps {x1 : Nat} {x2 : CampFrame} (h : Kept v q n s) : Kept v q n (State.campUnicast s x1 x2) := by
  unfold State.campUnicast
  repeat' with_reducible
    first
    | assumption | apply State.nodeKey_keeps | apply State.campDrop_keeps | apply State.fcExhausted_keeps | apply State.engineWaits_keeps
    | apply State.fcReserve_keeps | apply State.free_keeps | (apply State.campGive_keeps; assumption) | apply State.fcTaken_keeps
    | apply State.setLink_keeps | apply State.campTake_keeps | apply State.bump_keeps | apply Kept.of_ite | intro _ | (apply Kept.of_snd; assumption)
    | simp only [↓Kept.mk_other] | split

theorem State.mcPop_keeps {x1 : Nat} {x2 : Nat} (h : Kept v q n s) : Kept v q n (State.mcPop s x1 x2) := by
  unfold State.mcPop
  repeat' with_reducible first | assumption | apply State.setCamp_keeps | intro _ | simp only [↓Kept.mk_other]

theorem State.campMulticast_keeps {x1 : Nat} {x2 : Nat} {x3 : Nat} {x4 : Nat} (h : Kept v q n s) : Kept v q n (State.campMulticast s x1 x2 x3 x4) := by
  unfold State.campMulticast
  repeat' with_reducible
    first
    | assumption | apply State.groupKey_keeps | apply State.mcPop_keeps | apply State.fcExhausted_keeps | apply State.engineWaits_keeps
    | apply State.fcReserve_keeps | apply State.free_keeps | (apply State.campGive_keeps; assumption) | apply State.fcTaken_keeps
    | apply State.put_keeps | apply State.bump_keeps | apply Kept.of_ite | intro _ | (apply Kept.of_snd; assumption) | simp only [↓Kept.mk_other]
    | split

theorem execCampaignFrag_keeps {x0 : Nat} {x1 : Nat} (h : Kept v q n s) : KeptOut v q n (execCampaignFrag x0 x1 s) := by
  unfold execCampaignFrag
  repeat' with_reducible
    first
    | assumption | apply KeptOut.next | apply KeptOut.of_ite | apply State.campUnicast_keeps | apply State.mcPop_keeps
    | apply State.campMulticast_keeps | apply Kept.of_ite | intro _ | (apply Kept.of_snd; assumption) | simp only [↓Kept.mk_other] | split

/-! ## Boot -/

theorem State.offMast_keeps {x1 : Nat} (h : Kept v q n s) : Kept v q n (State.offMast s x1) := by
  unfold State.offMast
  repeat' with_reducible
    first
    | assumption | apply Kept.regs_without | apply State.tearNv_keeps | apply State.clearCopies_keeps | apply State.dropDie_keeps
    | apply State.setMast_keeps | simp only [↓Kept.mk_other]

theorem State.offSail_keeps {x1 : Nat} (h : Kept v q n s) : Kept v q n (State.offSail s x1) := by
  unfold State.offSail
  repeat' with_reducible
    first
    | assumption | apply State.resetSail_keeps | apply State.setConn_keeps | apply State.put_keeps | intro _ | apply foldl_keeps (Kept v q n)
    | simp only [↓Kept.mk_other]

theorem State.offPackage_keeps  (h : Kept v q n s) : Kept v q n (State.offPackage s) := by
  unfold State.offPackage
  repeat' with_reducible
    first
    | assumption | apply Kept.tap_nil | apply State.offMast_keeps | apply State.setConn_keeps | apply State.offSail_keeps | intro _
    | apply foldl_keeps (Kept v q n) | simp only [↓Kept.mk_other]

theorem State.loadLocks_keeps {x1 : Nat} {x2 : Nat} (h : Kept v q n s) : Kept v q n (State.loadLocks s x1 x2) := by
  unfold State.loadLocks
  repeat' with_reducible
    first
    | assumption | apply State.put_keeps | apply State.copyFuses_keeps | apply State.irq_keeps | apply Kept.of_ite | intro _
    | apply foldl_keeps (Kept v q n) | simp only [↓Kept.mk_other] | split

theorem State.chipWords_keeps {x1 : Nat} (h : Kept v q n s) : Kept v q n (State.chipWords s x1) := by
  unfold State.chipWords
  repeat' with_reducible
    first
    | assumption | apply State.put_keeps | apply Kept.of_ite | intro _ | (apply Kept.of_snd; assumption) | apply foldl_keeps (Kept v q n)
    | simp only [↓Kept.mk_other] | split

theorem State.powerMast_keeps {x1 : Nat} {x2 : Nat} (h : Kept v q n s) : Kept v q n (State.powerMast s x1 x2) := by
  unfold State.powerMast
  repeat' with_reducible
    first
    | assumption | apply State.tamperShow_keeps | apply State.chipWords_keeps | apply State.setMast_keeps | apply State.put_keeps | apply Kept.of_ite
    | intro _ | simp only [↓Kept.mk_other] | split

theorem State.startPackage_keeps {x1 : Nat} {x2 : List Nat} (h : Kept v q n s) : Kept v q n (State.startPackage s x1 x2) := by
  unfold State.startPackage
  repeat' with_reducible
    first
    | assumption | apply State.setBit_keeps | apply State.powerMast_keeps | apply State.loadLocks_keeps | apply Kept.of_ite | intro _
    | apply Kept.of_getD | apply foldl_keeps (Kept v q n) | simp only [↓Kept.mk_other] | split

theorem execFeedsGood_keeps {x0 : Bool} {x1 : List Nat} (h : Kept v q n s) : KeptOut v q n (execFeedsGood x0 x1 s) := by
  unfold execFeedsGood
  repeat' with_reducible
    first
    | assumption | apply KeptOut.next | apply KeptOut.of_ite | apply State.startPackage_keeps | apply State.offPackage_keeps | apply Kept.of_ite
    | intro _ | simp only [↓Kept.mk_other] | split

theorem execReferenceValid_keeps {x0 : Nat} (h : Kept v q n s) : KeptOut v q n (execReferenceValid x0 s) := by
  unfold execReferenceValid
  repeat' with_reducible
    first
    | assumption | apply KeptOut.next | apply KeptOut.of_ite | apply State.put_keeps | apply Kept.of_ite | intro _ | apply foldl_keeps (Kept v q n)
    | simp only [↓Kept.mk_other] | split

theorem execBrownOut_keeps  (h : Kept v q n s) : KeptOut v q n (execBrownOut s) := by
  unfold execBrownOut
  repeat' with_reducible first | assumption | apply KeptOut.next | apply State.offPackage_keeps | simp only [↓Kept.mk_other]

theorem execResetN_keeps {x0 : List Nat} (h : Kept v q n s) : KeptOut v q n (execResetN x0 s) := by
  unfold execResetN
  repeat' with_reducible
    first
    | assumption | apply KeptOut.next | apply KeptOut.of_ite | apply State.startPackage_keeps | apply State.offPackage_keeps | apply Kept.of_ite
    | intro _ | split

theorem State.recovery_keeps {x1 : Nat} {x2 : Nat} (h : Kept v q n s) : Kept v q n (State.recovery s x1 x2) := by
  unfold State.recovery
  repeat' with_reducible first | assumption | apply State.put_keeps

theorem State.nvShow_keeps {x1 : Nat} (h : Kept v q n s) : Kept v q n (State.nvShow s x1) := by
  unfold State.nvShow
  repeat' with_reducible
    first
    | assumption | apply State.put_keeps | apply State.irq_keeps | apply State.bump_keeps | apply Kept.of_ite | intro _
    | apply foldl_keeps (Kept v q n) | simp only [↓Kept.mk_other] | split

theorem State.ringRestore_keeps {x1 : Nat} (h : Kept v q n s) : Kept v q n (State.ringRestore s x1) := by
  unfold State.ringRestore
  repeat' with_reducible
    first
    | assumption | apply State.setNv_keeps | apply State.setMac_keeps | apply State.output_keeps | apply State.nvRequest_keeps | apply Kept.of_ite
    | intro _ | apply Kept.of_getD | simp only [↓Kept.mk_other] | split

theorem State.ckptEntry_keeps {x1 : Nat} {x2 : CkptEntry} (h : Kept v q n s) : Kept v q n (State.ckptEntry s x1 x2) := by
  unfold State.ckptEntry
  repeat' with_reducible
    first
    | assumption | apply State.bump_keeps | apply State.setMast_keeps | apply State.setNt_keeps | apply State.insert_keeps | apply Kept.of_ite
    | intro _ | simp only [↓Kept.mk_other, ↓id_eq] | split

theorem State.ckptRestore_keeps {x1 : Nat} (h : Kept v q n s) : Kept v q n (State.ckptRestore s x1) := by
  unfold State.ckptRestore
  repeat' with_reducible
    first
    | assumption | apply State.ckptEntry_keeps | apply State.put64_keeps | intro _ | (apply Kept.of_snd; assumption) | apply foldl_keeps (Kept v q n)
    | simp only [↓Kept.mk_other] | split

theorem State.loadWords_keeps {x1 : Nat} {x2 : Tbl (BitVec 32)} (h : Kept v q n s) : Kept v q n (State.loadWords s x1 x2) := by
  unfold State.loadWords
  repeat' with_reducible
    first
    | assumption | apply State.setWord_keeps | apply Kept.of_ite | intro _ | (apply Kept.of_snd; assumption) | apply foldl_keeps (Kept v q n)
    | simp only [↓Kept.mk_other] | split

theorem State.campRestore_keeps {x1 : Nat} (h : Kept v q n s) : Kept v q n (State.campRestore s x1) := by
  unfold State.campRestore
  repeat' with_reducible
    first
    | assumption | apply State.put_keeps | apply State.loadWords_keeps | apply State.setCampOf_keeps | apply State.setCamp_keeps
    | apply State.offer_keeps | apply Kept.of_ite | intro _ | apply Kept.of_getD | (apply Kept.of_snd; assumption) | apply foldl_keeps (Kept v q n)
    | simp only [↓Kept.mk_other, ↓id_eq] | split

theorem State.dutyRestore_keeps {x1 : Nat} (h : Kept v q n s) : Kept v q n (State.dutyRestore s x1) := by
  unfold State.dutyRestore
  split
  · exact h
  · exact State.setMast_keeps h

theorem State.soleRole_keeps {x1 : Nat} {x2 : Nat} {x3 : Nat} {x4 : Nat} (h : Kept v q n s) : Kept v q n (State.soleRole s x1 x2 x3 x4) := by
  unfold State.soleRole
  repeat' with_reducible first | assumption | apply State.put_keeps | apply State.resetSails_keeps | simp only [↓Kept.mk_other]

theorem State.startRole_keeps {x1 : Nat} {x2 : Bool} (h : Kept v q n s) : Kept v q n (State.startRole s x1 x2) := by
  unfold State.startRole
  repeat' with_reducible
    first
    | assumption | apply State.soleRole_keeps | apply State.put_keeps | apply Kept.of_ite | intro _ | simp only [↓Kept.mk_other] | split

theorem State.trainNew_keeps {x1 : Nat} (h : Kept v q n s) : Kept v q n (State.trainNew s x1) := by
  unfold State.trainNew
  repeat' with_reducible
    first
    | assumption | apply State.setConn_keeps | apply Kept.of_ite | intro _ | apply foldl_keeps (Kept v q n) | simp only [↓Kept.mk_other] | split

theorem State.bootRest_keeps {x1 : Nat} {x2 : Bool} (h : Kept v q n s) : Kept v q n (State.bootRest s x1 x2) := by
  unfold State.bootRest
  repeat' with_reducible
    first
    | assumption | apply State.ringRestore_keeps | apply State.nvShow_keeps | apply State.rebuildKeys_keeps | apply State.drbgSeed_keeps
    | apply State.setKeys_keeps | apply State.startRole_keeps | apply State.dutyRestore_keeps | apply State.campRestore_keeps
    | apply State.ckptRestore_keeps | apply State.trainNew_keeps | apply State.setMast_keeps | apply Kept.of_ite | intro _
    | simp only [↓Kept.mk_other] | split

theorem State.bootRom_keeps {x1 : Nat} (h : Kept v q n s) : Kept v q n (State.bootRom s x1) := by
  unfold State.bootRom
  repeat' with_reducible
    first
    | assumption | apply State.recovery_keeps | apply State.put_keeps | apply State.setKeys_keeps | apply State.setUpd_keeps
    | apply State.blowPending_keeps | apply State.updCommit_keeps | apply State.irq_keeps | apply State.bump_keeps | apply State.setMast_keeps
    | apply State.bootRest_keeps | apply Kept.of_ite | intro _ | apply Kept.of_getD | (apply Kept.of_snd; assumption) | simp only [↓Kept.mk_other]
    | split

theorem execBootRom_keeps {x0 : Nat} (h : Kept v q n s) : KeptOut v q n (execBootRom x0 s) := by
  unfold execBootRom
  repeat' with_reducible
    first
    | assumption | apply KeptOut.next | apply KeptOut.of_ite | apply State.bootRom_keeps | apply Kept.of_ite | intro _ | split

theorem execMastBRoleTimeout_keeps  (h : Kept v q n s) : KeptOut v q n (execMastBRoleTimeout s) := by
  unfold execMastBRoleTimeout
  repeat' with_reducible
    first
    | assumption | apply KeptOut.next | apply KeptOut.of_ite | apply State.soleRole_keeps | apply Kept.of_ite | intro _ | split

theorem State.accSysReset_keeps {x1 : Nat} {x2 : Nat} {x3 : Nat} {x4 : Nat} (h : Kept v q n s) : Kept v q n (State.accSysReset s x1 x2 x3 x4) := by
  unfold State.accSysReset
  repeat' with_reducible
    first
    | assumption | apply State.action_keeps | apply State.deny_keeps | apply State.resetMast_keeps | apply Kept.of_ite | intro _
    | simp only [↓Kept.mk_other] | split

theorem execSysResetSelf_keeps {x0 : Nat} {x1 : Nat} {x2 : Nat} {x3 : Nat} (h : Kept v q n s) : KeptOut v q n (execSysResetSelf x0 x1 x2 x3 s) := by
  unfold execSysResetSelf
  repeat' with_reducible first | assumption | apply KeptOut.next | apply State.hostOn_keeps | apply State.accSysReset_keeps | intro _

theorem execSysResetPairPeer_keeps {x0 : Nat} {x1 : Nat} {x2 : Nat} {x3 : Nat} (h : Kept v q n s) : KeptOut v q n (execSysResetPairPeer x0 x1 x2 x3 s) := by
  unfold execSysResetPairPeer
  repeat' with_reducible first | assumption | apply KeptOut.next | apply State.hostOn_keeps | apply State.accSysReset_keeps | intro _

theorem State.accWdtKick_keeps {x1 : Nat} {x2 : Nat} {x3 : Nat} {x4 : Nat} (h : Kept v q n s) : Kept v q n (State.accWdtKick s x1 x2 x3 x4) := by
  unfold State.accWdtKick
  repeat' with_reducible
    first
    | assumption | apply State.action_keeps | apply State.setMast_keeps | apply Kept.of_ite | intro _ | simp only [↓Kept.mk_other] | split

theorem execWdtKick_keeps {x0 : Nat} {x1 : Nat} {x2 : Nat} {x3 : Nat} (h : Kept v q n s) : KeptOut v q n (execWdtKick x0 x1 x2 x3 s) := by
  unfold execWdtKick
  repeat' with_reducible first | assumption | apply KeptOut.next | apply State.hostOn_keeps | apply State.accWdtKick_keeps | intro _

theorem execWdtWarn_keeps {x0 : Nat} (h : Kept v q n s) : KeptOut v q n (execWdtWarn x0 s) := by
  unfold execWdtWarn
  repeat' with_reducible first | assumption | apply KeptOut.next | apply KeptOut.of_ite | apply State.irq_keeps | apply Kept.of_ite | intro _ | split

theorem execWatchdogExpiry_keeps {x0 : Nat} (h : Kept v q n s) : KeptOut v q n (execWatchdogExpiry x0 s) := by
  unfold execWatchdogExpiry
  repeat' with_reducible
    first
    | assumption | apply KeptOut.next | apply KeptOut.of_ite | apply State.selfFaults_keeps | apply State.resetMast_keeps | apply Kept.of_ite
    | intro _ | split

theorem State.tmrWrite_keeps {x1 : Nat} {x2 : Nat} {x3 : Word} (h : Kept v q n s) : Kept v q n (State.tmrWrite s x1 x2 x3) := by
  unfold State.tmrWrite
  repeat' with_reducible
    first
    | assumption | apply State.setKeys_keeps | apply State.setWord_keeps | apply Kept.of_ite | intro _ | (apply Kept.of_snd; assumption)
    | simp only [↓Kept.mk_other] | split

theorem State.scrubWord_keeps {x1 : Nat} {x2 : Upset} (h : Kept v q n s) : Kept v q n (State.scrubWord s x1 x2) := by
  unfold State.scrubWord
  repeat' with_reducible
    first
    | assumption | apply State.count_keeps | apply State.tmrWrite_keeps | apply Kept.of_ite | intro _ | simp only [↓Kept.mk_other] | split

theorem execTmrScrub_keeps {x0 : Nat} {x1 : List Upset} (h : Kept v q n s) : KeptOut v q n (execTmrScrub x0 x1 s) := by
  unfold execTmrScrub
  repeat' with_reducible
    first
    | assumption | apply KeptOut.next | apply KeptOut.of_ite | apply State.scrubWord_keeps | apply Kept.of_ite | intro _
    | apply foldl_keeps (Kept v q n) | split

theorem State.accSsysReset_keeps {x1 : Nat} {x2 : Nat} {x3 : Nat} {x4 : Nat} (h : Kept v q n s) : Kept v q n (State.accSsysReset s x1 x2 x3 x4) := by
  unfold State.accSsysReset
  repeat' with_reducible first | assumption | apply State.sailAction_keeps | apply State.resetSail_keeps | apply Kept.of_ite | intro _ | split

theorem execSsysReset_keeps {x0 : Nat} {x1 : Nat} {x2 : Nat} {x3 : Nat} (h : Kept v q n s) : KeptOut v q n (execSsysReset x0 x1 x2 x3 s) := by
  unfold execSsysReset
  repeat' with_reducible first | assumption | apply KeptOut.next | apply State.accSsysReset_keeps

theorem execTapInstruction_keeps {x0 : Nat} {x1 : Nat} (h : Kept v q n s) : KeptOut v q n (execTapInstruction x0 x1 s) := by
  unfold execTapInstruction
  repeat' with_reducible
    first
    | assumption | apply Kept.tap_set | apply KeptOut.next | apply KeptOut.of_ite | apply State.emit_keeps | apply State.offMast_keeps
    | apply State.offSail_keeps | apply Kept.of_ite | intro _ | apply foldl_keeps (Kept v q n) | simp only [↓Kept.mk_other] | split

theorem execLowpwrRequest_keeps {x0 : Bool} (h : Kept v q n s) : KeptOut v q n (execLowpwrRequest x0 s) := by
  unfold execLowpwrRequest
  repeat' with_reducible first | assumption | apply KeptOut.next | simp only [↓Kept.mk_other]

theorem State.reefJury_keeps {x1 : Nat} (h : Kept v q n s) : Kept v q n (State.reefJury s x1) := by
  unfold State.reefJury
  repeat' with_reducible
    first
    | assumption | apply State.peerLost_keeps | apply State.put_keeps | apply State.offMast_keeps | apply State.setConn_keeps | apply Kept.of_ite
    | intro _ | apply foldl_keeps (Kept v q n) | simp only [↓Kept.mk_other] | split

theorem State.reefSail0_keeps  (h : Kept v q n s) : Kept v q n (State.reefSail0 s) := by
  unfold State.reefSail0
  repeat' with_reducible
    first
    | assumption | apply State.put_keeps | apply State.setSail_keeps | apply State.irq_keeps | apply State.releaseAll_keeps
    | apply State.dropWaits_keeps | apply Kept.of_ite | intro _ | simp only [↓Kept.mk_other] | split

theorem State.gateSail_keeps {x1 : Nat} (h : Kept v q n s) : Kept v q n (State.gateSail s x1) := by
  unfold State.gateSail
  repeat' with_reducible
    first
    | assumption | apply State.dropWaits_keeps | apply State.timersSync_keeps | apply State.releaseAll_keeps | apply State.put_keeps
    | apply State.setSail_keeps | intro _ | simp only [↓Kept.mk_other]

theorem State.sailReef_keeps {x1 : Nat} {x2 : Bool} (h : Kept v q n s) : Kept v q n (State.sailReef s x1 x2) := by
  unfold State.sailReef
  repeat' with_reducible
    first
    | assumption | apply State.setSail_keeps | apply State.reefSail0_keeps | apply State.gateSail_keeps | apply State.put_keeps | apply Kept.of_ite
    | intro _ | simp only [↓Kept.mk_other] | split

theorem State.reefOwn_keeps {x1 : Nat} {x2 : Nat} {x3 : Bool} (h : Kept v q n s) : Kept v q n (State.reefOwn s x1 x2 x3) := by
  unfold State.reefOwn
  repeat' with_reducible
    first
    | assumption | apply State.sailReef_keeps | apply State.setSail_keeps | apply Kept.of_ite | intro _ | simp only [↓Kept.mk_other] | split

theorem State.sailReefTick_keeps {x1 : Nat} (h : Kept v q n s) : Kept v q n (State.sailReefTick s x1) := by
  unfold State.sailReefTick
  repeat' with_reducible first | assumption | apply State.sailReef_keeps | (apply Kept.of_snd; assumption) | simp only [↓Kept.mk_other] | split

theorem State.reefEnter_keeps  (h : Kept v q n s) : Kept v q n (State.reefEnter s) := by
  unfold State.reefEnter
  repeat' with_reducible
    first
    | assumption | apply State.reefOwn_keeps | apply State.reefJury_keeps | apply State.put_keeps | apply State.bump_keeps
    | apply State.pcieDown_keeps | apply State.gateCore_keeps | apply State.campPause_keeps | apply Kept.of_ite | intro _
    | apply foldl_keeps (Kept v q n) | simp only [↓Kept.mk_other] | split

theorem State.reefExit_keeps  (h : Kept v q n s) : Kept v q n (State.reefExit s) := by
  unfold State.reefExit
  repeat' with_reducible
    first
    | assumption | apply State.put_keeps | apply State.reefOwn_keeps | apply State.setSail_keeps | apply State.applyRole_keeps
    | apply State.powerMast_keeps | apply State.campResume_keeps | apply Kept.of_ite | intro _ | apply foldl_keeps (Kept v q n)
    | simp only [↓Kept.mk_other] | split

theorem State.reefTick_keeps {x1 : Nat} (h : Kept v q n s) : Kept v q n (State.reefTick s x1) := by
  unfold State.reefTick
  repeat' with_reducible first | assumption | apply State.reefEnter_keeps | apply State.reefExit_keeps | apply Kept.of_ite | intro _ | split

theorem execReefedSailResume_keeps {x0 : Nat} (h : Kept v q n s) : KeptOut v q n (execReefedSailResume x0 s) := by
  unfold execReefedSailResume
  repeat' with_reducible
    first
    | assumption | apply KeptOut.next | apply KeptOut.of_ite | apply State.put_keeps | apply State.setSail_keeps | apply Kept.of_ite | intro _
    | simp only [↓Kept.mk_other] | split

end Sys2Proof.Machine
end

