-- ==== Sys2Proof/Laws/KeepsAccess.lean ====
section
/-! SUPPORT. What every operation keeps (see Keeps): one lemma for each operation of Commit, FarBase, Access, Far, Tick, JuryMgmt. -/

namespace Sys2Proof.Machine

variable {v : Variant} {q : List Instr} {n : Nat} {s t : State}

/-! ## Commit -/

theorem State.applyWords_keeps {x1 : Nat} {x2 : Nat} (h : Kept v q n s) : Kept v q n (State.applyWords s x1 x2) := by
  unfold State.applyWords
  repeat' with_reducible
    first
    | assumption | apply State.setWord_keeps | intro _ | (apply Kept.of_snd; assumption) | apply foldl_keeps (Kept v q n)
    | simp only [↓Kept.mk_other] | split

theorem State.applyProfiles_keeps {x1 : Nat} (h : Kept v q n s) : Kept v q n (State.applyProfiles s x1) := by
  unfold State.applyProfiles
  repeat' with_reducible first | assumption | apply Kept.profs_fold | intro _ | apply foldl_keeps (Kept v q n) | simp only [↓Kept.mk_other]

theorem State.keepInUse_keeps {x1 : Nat} {x2 : Nat} (h : Kept v q n s) : Kept v q n (State.keepInUse s x1 x2) := by
  unfold State.keepInUse
  repeat' with_reducible
    first
    | assumption | apply State.setSail_keeps | apply Kept.of_ite | intro _ | apply foldl_keeps (Kept v q n) | simp only [↓Kept.mk_other] | split

theorem State.applyPage_keeps {x1 : Bool} {x2 : Nat} {x3 : Nat} (h : Kept v q n s) : Kept v q n (State.applyPage s x1 x2 x3) := by
  unfold State.applyPage
  repeat' with_reducible
    first
    | assumption | apply State.keepInUse_keeps | apply State.applyWords_keeps | apply State.applyProfiles_keeps | apply State.setMast_keeps
    | apply State.setRing_keeps | apply Kept.of_ite | intro _ | (apply Kept.of_snd; assumption) | apply foldl_keeps (Kept v q n)
    | simp only [↓Kept.mk_other] | split

theorem State.refusePage_keeps {x1 : Nat} {x2 : Nat} (h : Kept v q n s) : Kept v q n (State.refusePage s x1 x2) := by
  unfold State.refusePage
  repeat' with_reducible
    first
    | assumption | apply State.irq_keeps | apply State.bump_keeps | apply State.setBit_keeps | apply Kept.of_ite | intro _
    | simp only [↓Kept.mk_other] | split

theorem State.passPage_keeps {x1 : Nat} {x2 : Nat} (h : Kept v q n s) : Kept v q n (State.passPage s x1 x2) := by
  unfold State.passPage
  repeat' with_reducible first | assumption | apply State.setWord_keeps | simp only [↓Kept.mk_other]

theorem State.placeChannels_keeps {x1 : Nat} (h : Kept v q n s) : Kept v q n (State.placeChannels s x1) := by
  unfold State.placeChannels
  repeat' with_reducible
    first
    | assumption | apply State.setMac_keeps | apply Kept.of_ite | intro _ | (apply Kept.of_snd; assumption) | apply foldl_keeps (Kept v q n)
    | simp only [↓Kept.mk_other] | split

theorem State.timingClamp_keeps {x1 : Nat} (h : Kept v q n s) : Kept v q n (State.timingClamp s x1) := by
  unfold State.timingClamp
  repeat' with_reducible first | assumption | apply State.setBit_keeps | apply Kept.of_ite | intro _ | simp only [↓Kept.mk_other] | split

theorem State.spiClamp_keeps {x1 : Nat} (h : Kept v q n s) : Kept v q n (State.spiClamp s x1) := by
  unfold State.spiClamp
  repeat' with_reducible first | assumption | apply State.setBit_keeps | apply Kept.of_ite | intro _ | simp only [↓Kept.mk_other] | split

theorem State.engineChanged_keeps {x0 : State} {x2 : Nat} (g0 : Kept v q n x0) (h : Kept v q n s) : Kept v q n (State.engineChanged x0 s x2) := by
  unfold State.engineChanged
  repeat' with_reducible
    first
    | assumption | apply State.setHal_keeps | apply State.irq_keeps | apply State.count_keeps | apply Kept.of_ite | intro _
    | apply foldl_keeps (Kept v q n) | simp only [↓Kept.mk_other] | split

theorem State.pageApplied_keeps {x0 : State} {x2 : Nat} {x3 : Nat} (g0 : Kept v q n x0) (h : Kept v q n s) : Kept v q n (State.pageApplied x0 s x2 x3) := by
  unfold State.pageApplied
  repeat' with_reducible
    first
    | assumption | apply State.spiClamp_keeps | apply State.placeChannels_keeps | apply State.staleCheck_keeps | apply State.brineCheck_keeps
    | apply State.timingClamp_keeps | apply State.timeCommitted_keeps | apply State.tpoCommitted_keeps | apply State.ethCommitted_keeps
    | apply State.gclCommitted_keeps | apply Kept.of_ite | intro _ | (apply Kept.of_snd; assumption) | simp only [↓Kept.mk_other] | split

theorem State.landPage_keeps {x1 : Bool} {x2 : Nat} {x3 : Nat} (h : Kept v q n s) : Kept v q n (State.landPage s x1 x2 x3) := by
  unfold State.landPage
  repeat' with_reducible
    first
    | assumption | apply State.applyPage_keeps | apply State.pageApplied_keeps | apply State.passPage_keeps | apply State.setBit_keeps
    | apply State.put_keeps | apply State.refusePage_keeps | apply State.irq_keeps | apply Kept.of_ite | intro _ | apply foldl_keeps (Kept v q n)
    | simp only [↓Kept.mk_other] | split

theorem State.landStations_keeps {x1 : Bool} {x2 : Nat} {x3 : List Nat} (h : Kept v q n s) : Kept v q n (State.landStations s x1 x2 x3) := by
  unfold State.landStations
  repeat' with_reducible
    first
    | assumption | apply State.applyPage_keeps | apply State.settleFlows_keeps | apply State.engineChanged_keeps | apply State.passPage_keeps
    | apply State.setBit_keeps | apply State.irq_keeps | apply State.put_keeps | apply State.refusePage_keeps | intro _
    | (apply Kept.of_snd; assumption) | apply foldl_keeps (Kept v q n) | simp only [↓Kept.mk_other] | split

theorem State.landCommit_keeps {x1 : Bool} {x2 : Nat} {x3 : Nat} (h : Kept v q n s) : Kept v q n (State.landCommit s x1 x2 x3) := by
  unfold State.landCommit
  repeat' with_reducible
    first
    | assumption | apply State.landPage_keeps | apply State.landStations_keeps | apply Kept.of_ite | intro _ | apply foldl_keeps (Kept v q n)
    | simp only [↓Kept.mk_other] | split

theorem State.copyPageCommit_keeps {x1 : Nat} {x2 : Nat} {x3 : Nat} (h : Kept v q n s) : Kept v q n (State.copyPageCommit s x1 x2 x3) := by
  unfold State.copyPageCommit
  repeat' with_reducible
    first
    | assumption | apply State.applyPage_keeps | apply State.passPage_keeps | apply Kept.of_ite | intro _ | simp only [↓Kept.mk_other] | split

theorem State.copyCommit_keeps {x1 : Nat} {x2 : Nat} (h : Kept v q n s) : Kept v q n (State.copyCommit s x1 x2) := by
  unfold State.copyCommit
  repeat' with_reducible first | assumption | apply State.copyPageCommit_keeps | intro _ | apply foldl_keeps (Kept v q n)

theorem State.copyPage_keeps {x1 : Nat} {x2 : Nat} {x3 : Nat} (h : Kept v q n s) : Kept v q n (State.copyPage s x1 x2 x3) := by
  unfold State.copyPage
  repeat' with_reducible
    first
    | assumption | apply State.setWord_keeps | apply State.put_keeps | apply Kept.of_ite | intro _ | apply foldl_keeps (Kept v q n)
    | simp only [↓Kept.mk_other] | split

theorem State.copySnap_keeps {x1 : Nat} {x2 : Nat} (h : Kept v q n s) : Kept v q n (State.copySnap s x1 x2) := by
  unfold State.copySnap
  repeat' with_reducible first | assumption | apply State.copyPage_keeps | apply Kept.of_ite | intro _ | apply foldl_keeps (Kept v q n) | split

theorem State.snapItem_keeps {x1 : Nat} {x2 : Nat} {x3 : Nat} (h : Kept v q n s) : Kept v q n (State.snapItem s x1 x2 x3) := by
  unfold State.snapItem
  repeat' with_reducible
    first
    | assumption | apply State.bump_keeps | apply State.setSal_keeps | apply State.enqueueAs_keeps | apply Kept.of_ite | intro _
    | (apply Kept.of_snd; assumption) | simp only [↓Kept.mk_other] | split

theorem State.setRuns_keeps {x1 : Nat} {x2 : List CommitRun} (h : Kept v q n s) : Kept v q n (State.setRuns s x1 x2) := by
  unfold State.setRuns
  repeat' with_reducible first | assumption | apply State.setMast_keeps | simp only [↓Kept.mk_other]

theorem State.endRuns_keeps {x1 : Nat} (h : Kept v q n s) : Kept v q n (State.endRuns s x1) := by
  unfold State.endRuns
  repeat' with_reducible
    first
    | assumption | apply State.setRuns_keeps | apply State.irq_keeps | apply Kept.of_ite | intro _ | apply foldl_keeps (Kept v q n)
    | simp only [↓Kept.mk_other] | split

theorem State.noteLanded_keeps {x1 : Nat} {x2 : Nat} {x3 : Bool} (h : Kept v q n s) : Kept v q n (State.noteLanded s x1 x2 x3) := by
  unfold State.noteLanded
  repeat' with_reducible
    first
    | assumption | apply State.endRuns_keeps | apply State.setRuns_keeps | apply Kept.of_ite | intro _ | simp only [↓Kept.mk_other] | split

theorem State.sendCommit_keeps {x1 : Nat} {x2 : CommitRun} {x3 : Nat} (h : Kept v q n s) : Kept v q n (State.sendCommit s x1 x2 x3) := by
  unfold State.sendCommit
  repeat' with_reducible
    first
    | assumption | apply State.toSail_keeps | apply State.sendOn_keeps | apply Kept.of_ite | intro _ | apply foldl_keeps (Kept v q n)
    | simp only [↓Kept.mk_other] | split

theorem State.launchRun_keeps {x1 : Nat} {x2 : CommitRun} {x3 : Nat} (h : Kept v q n s) : Kept v q n (State.launchRun s x1 x2 x3) := by
  unfold State.launchRun
  repeat' with_reducible
    first
    | assumption | apply State.setRuns_keeps | apply State.sendCommit_keeps | apply State.put64_keeps | apply Kept.of_ite | intro _
    | simp only [↓Kept.mk_other] | split

theorem State.sendRuns_keeps {x1 : Nat} (h : Kept v q n s) : Kept v q n (State.sendRuns s x1) := by
  unfold State.sendRuns
  repeat' with_reducible
    first
    | assumption | apply State.launchRun_keeps | apply State.bump_keeps | apply Kept.of_ite | intro _ | apply foldl_keeps (Kept v q n)
    | simp only [↓Kept.mk_other] | split

theorem State.matchPrepared_keeps {x1 : Nat} (h : Kept v q n s) : Kept v q n (State.matchPrepared s x1) := by
  unfold State.matchPrepared
  repeat' with_reducible
    first
    | assumption | apply State.launchRun_keeps | apply State.setMast_keeps | intro _ | (apply Kept.of_snd; assumption)
    | apply foldl_keeps (Kept v q n) | simp only [↓Kept.mk_other] | split

theorem State.startRun_keeps {x1 : Nat} {x2 : CommitRun} (h : Kept v q n s) : Kept v q n (State.startRun s x1 x2) := by
  unfold State.startRun
  repeat' with_reducible
    first
    | assumption | apply State.matchPrepared_keeps | apply State.sendRuns_keeps | apply State.setRuns_keeps | (apply Kept.of_snd; assumption) | split

theorem State.commitGo_keeps {x1 : Nat} {x2 : Nat} {x3 : Nat} (h : Kept v q n s) : Kept v q n (State.commitGo s x1 x2 x3) := by
  unfold State.commitGo
  repeat' with_reducible
    first
    | assumption | apply State.lockv_keeps | apply State.bump_keeps | apply State.put_keeps | apply State.startRun_keeps | apply State.setRuns_keeps
    | apply State.copyCommit_keeps | apply State.landCommit_keeps | apply State.noteLanded_keeps | apply State.sendCommit_keeps | apply Kept.of_ite
    | intro _ | simp only [↓Kept.mk_other] | split

theorem State.accGo_keeps {x1 : Nat} {x2 : Nat} {x3 : Nat} {x4 : Nat} (h : Kept v q n s) : Kept v q n (State.accGo s x1 x2 x3 x4) := by
  unfold State.accGo
  repeat' with_reducible first | assumption | apply State.action_keeps | apply State.commitGo_keeps | intro _

theorem execCommitGo_keeps {x0 : Nat} {x1 : Nat} {x2 : Nat} {x3 : Nat} (h : Kept v q n s) : KeptOut v q n (execCommitGo x0 x1 x2 x3 s) := by
  unfold execCommitGo
  repeat' with_reducible first | assumption | apply KeptOut.next | apply State.hostOn_keeps | apply State.accGo_keeps | intro _

theorem State.snapGo_keeps {x1 : Nat} {x2 : Nat} {x3 : Nat} (h : Kept v q n s) : Kept v q n (State.snapGo s x1 x2 x3) := by
  unfold State.snapGo
  repeat' with_reducible
    first
    | assumption | apply State.lockv_keeps | apply State.bump_keeps | apply State.put_keeps | apply State.irq_keeps | apply State.snapItem_keeps
    | apply State.copySnap_keeps | apply State.startRun_keeps | apply Kept.of_ite | intro _ | simp only [↓Kept.mk_other] | split

theorem State.accSnap_keeps {x1 : Nat} {x2 : Nat} {x3 : Nat} {x4 : Nat} (h : Kept v q n s) : Kept v q n (State.accSnap s x1 x2 x3 x4) := by
  unfold State.accSnap
  repeat' with_reducible first | assumption | apply State.action_keeps | apply State.snapGo_keeps | intro _

theorem execSnapGo_keeps {x0 : Nat} {x1 : Nat} {x2 : Nat} {x3 : Nat} (h : Kept v q n s) : KeptOut v q n (execSnapGo x0 x1 x2 x3 s) := by
  unfold execSnapGo
  repeat' with_reducible first | assumption | apply KeptOut.next | apply State.hostOn_keeps | apply State.accSnap_keeps | intro _

theorem State.landSail_keeps {x1 : Bool} {x2 : Nat} {x3 : Prepared} (h : Kept v q n s) : Kept v q n (State.landSail s x1 x2 x3) := by
  unfold State.landSail
  repeat' with_reducible
    first
    | assumption | apply State.noteLanded_keeps | apply State.copySnap_keeps | apply State.landCommit_keeps | apply Kept.of_ite | intro _
    | simp only [↓Kept.mk_other] | split

theorem State.commitAtSail_keeps {x1 : Nat} {x2 : Prepared} {x3 : Bool} (h : Kept v q n s) : Kept v q n (State.commitAtSail s x1 x2 x3) := by
  unfold State.commitAtSail
  repeat' with_reducible
    first
    | assumption | apply State.landSail_keeps | apply State.irq_keeps | apply State.bump_keeps | apply State.setSail_keeps | apply Kept.of_ite
    | intro _ | simp only [↓Kept.mk_other] | split

theorem execCommitPacket_keeps {x0 : Nat} {x1 : Nat} {x2 : Nat} {x3 : Nat} {x4 : Nat} {x5 : Bool} {x6 : Bool} {x7 : List LinkPkt} (h : Kept v q n s) : KeptOut v q n (execCommitPacket x0 x1 x2 x3 x4 x5 x6 x7 s) := by
  unfold execCommitPacket
  repeat' with_reducible
    first
    | assumption | apply KeptOut.next | apply KeptOut.of_ite | apply State.accepts_keeps | apply State.commitAtSail_keeps | apply State.receive_keeps
    | apply State.matchPrepared_keeps | apply State.setMast_keeps | apply Kept.of_ite | intro _ | (apply Kept.of_snd; assumption)
    | simp only [↓Kept.mk_other] | split

theorem State.tickSnaps_keeps {x1 : Nat} (h : Kept v q n s) : Kept v q n (State.tickSnaps s x1) := by
  unfold State.tickSnaps
  repeat' with_reducible
    first
    | assumption | apply State.noteLanded_keeps | apply State.snapItem_keeps | apply State.copySnap_keeps | intro _ | apply foldl_keeps (Kept v q n)
    | simp only [↓Kept.mk_other]

theorem State.tickCommits_keeps {x1 : Nat} (h : Kept v q n s) : Kept v q n (State.tickCommits s x1) := by
  unfold State.tickCommits
  repeat' with_reducible
    first
    | assumption | apply State.noteLanded_keeps | apply State.copyCommit_keeps | apply State.landCommit_keeps | intro _
    | apply foldl_keeps (Kept v q n) | simp only [↓Kept.mk_other]

theorem State.tickPrepared_keeps {x1 : Nat} (h : Kept v q n s) : Kept v q n (State.tickPrepared s x1) := by
  unfold State.tickPrepared
  repeat' with_reducible
    first
    | assumption | apply State.setSail_keeps | apply State.landSail_keeps | intro _ | apply foldl_keeps (Kept v q n) | simp only [↓Kept.mk_other]

/-! ## FarBase -/

theorem State.pendWord_keeps {x1 : Nat} {x2 : Nat} {x3 : Nat} {x4 : Nat} {x5 : RegRow} (h : Kept v q n s) : Kept v q n (State.pendWord s x1 x2 x3 x4 x5) := by
  unfold State.pendWord
  repeat' with_reducible first | assumption | apply State.setWord_keeps | simp only [↓Kept.mk_other]

theorem State.writeProfile_keeps {x1 : Nat} {x2 : Nat} {x3 : Nat} (h : Kept v q n s) : Kept v q n (State.writeProfile s x1 x2 x3) := by
  unfold State.writeProfile
  repeat' with_reducible first | assumption | apply Kept.profPend_put | apply Kept.of_ite | intro _ | simp only [↓Kept.mk_other] | split

theorem State.pendSail_keeps {x1 : Nat} {x2 : Nat} {x3 : Nat} {x4 : Nat} {x5 : RegRow} (h : Kept v q n s) : Kept v q n (State.pendSail s x1 x2 x3 x4 x5) := by
  unfold State.pendSail
  repeat' with_reducible
    first
    | assumption | apply State.put_keeps | apply State.writeProfile_keeps | apply State.pendWord_keeps | apply Kept.of_ite | intro _ | split

theorem State.recordWord_keeps {x1 : Nat} {x2 : Nat} {x3 : Nat} {x4 : Nat} {x5 : Nat} (h : Kept v q n s) : Kept v q n (State.recordWord s x1 x2 x3 x4 x5) := by
  unfold State.recordWord
  repeat' with_reducible
    first
    | assumption | apply State.setWord_keeps | apply State.pendSail_keeps | apply Kept.of_ite | intro _ | (apply Kept.of_snd; assumption)
    | simp only [↓Kept.mk_other] | split

theorem State.recordFar_keeps {x1 : Nat} {x2 : Nat} {x3 : Nat} {x4 : Nat} {x5 : Bool} {x6 : Nat} (h : Kept v q n s) : Kept v q n (State.recordFar s x1 x2 x3 x4 x5 x6) := by
  unfold State.recordFar
  repeat' with_reducible first | assumption | apply State.recordWord_keeps | apply Kept.of_ite | intro _ | split

theorem State.farSend_keeps {x1 : Nat} {x2 : FarReq} (h : Kept v q n s) : Kept v q n (State.farSend s x1 x2) := by
  unfold State.farSend
  repeat' with_reducible first | assumption | apply State.toSail_keeps | apply State.sendOn_keeps | apply Kept.of_ite | intro _ | split

theorem State.farIssue_keeps {x1 : Nat} {x2 : FarReq} (h : Kept v q n s) : Kept v q n (State.farIssue s x1 x2) := by
  unfold State.farIssue
  repeat' with_reducible
    first
    | assumption | apply State.farSend_keeps | apply State.setMast_keeps | apply Kept.of_ite | intro _ | simp only [↓Kept.mk_other] | split

theorem State.farRelease_keeps {x1 : Nat} (h : Kept v q n s) : Kept v q n (State.farRelease s x1) := by
  unfold State.farRelease
  repeat' with_reducible
    first
    | assumption | apply State.farIssue_keeps | apply State.setMast_keeps | intro _ | apply foldl_keeps (Kept v q n) | simp only [↓Kept.mk_other]

theorem State.farTag_keeps {x1 : Nat} {x2 : Bool} (h : Kept v q n s) : Kept v q n (State.farTag s x1 x2).2 := by
  unfold State.farTag
  repeat' with_reducible first | assumption | apply State.setMast_keeps | apply Kept.of_ite | intro _ | simp only [↓Kept.mk_other] | split

theorem State.farAdvance_keeps {x1 : Nat} {x2 : Nat} {x3 : Nat} (h : Kept v q n s) : Kept v q n (State.farAdvance s x1 x2 x3) := by
  unfold State.farAdvance
  repeat' with_reducible first | assumption | apply State.bput_keeps | apply Kept.of_ite | intro _ | split

theorem State.farRefused_keeps {x1 : Nat} {x2 : Nat} (h : Kept v q n s) : Kept v q n (State.farRefused s x1 x2) := by
  unfold State.farRefused
  repeat' with_reducible first | assumption | apply State.bump_keeps | apply State.capture_keeps

theorem State.farStart_keeps {x1 : Nat} {x2 : Nat} {x3 : Nat} {x4 : Bool} {x5 : Nat} (h : Kept v q n s) : Kept v q n (State.farStart s x1 x2 x3 x4 x5) := by
  unfold State.farStart
  repeat' with_reducible
    first
    | assumption | apply State.deny_keeps | apply State.farRefused_keeps | apply State.emit_keeps | apply State.bput64_keeps
    | apply State.farTag_keeps | apply State.farAdvance_keeps | apply State.farIssue_keeps | apply State.recordFar_keeps | apply Kept.of_ite
    | intro _ | simp only [↓Kept.mk_other] | split

theorem State.accFarWrite_keeps {x1 : Nat} {x2 : Nat} {x3 : Nat} {x4 : Nat} (h : Kept v q n s) : Kept v q n (State.accFarWrite s x1 x2 x3 x4) := by
  unfold State.accFarWrite
  repeat' with_reducible first | assumption | apply State.action_keeps | apply State.farStart_keeps | intro _

theorem State.accFarRead_keeps {x1 : Nat} {x2 : Nat} {x3 : Nat} (h : Kept v q n s) : Kept v q n (State.accFarRead s x1 x2 x3) := by
  unfold State.accFarRead
  repeat' with_reducible first | assumption | apply State.action_keeps | apply State.farStart_keeps | intro _

/-! ## Access -/

theorem State.cntClr_keeps {x1 : Nat} {x2 : Nat} (h : Kept v q n s) : Kept v q n (State.cntClr s x1 x2) := by
  unfold State.cntClr
  repeat' with_reducible
    first
    | assumption | apply State.setWord_keeps | apply State.setLane_keeps | apply Kept.of_ite | intro _ | apply foldl_keeps (Kept v q n)
    | simp only [↓Kept.mk_other] | split

theorem State.writeHeader_keeps {x1 : Nat} {x2 : Nat} {x3 : Nat} {x4 : Nat} {x5 : Nat} (h : Kept v q n s) : Kept v q n (State.writeHeader s x1 x2 x3 x4 x5) := by
  unfold State.writeHeader
  repeat' with_reducible
    first
    | assumption | apply State.put_keeps | apply State.cntClr_keeps | apply State.setWord_keeps | apply State.irqEdge_keeps | apply State.lockv_keeps
    | apply Kept.of_ite | intro _ | (apply Kept.of_snd; assumption) | simp only [↓Kept.mk_other] | split

theorem State.writeQueue_keeps {x1 : Nat} {x2 : Nat} {x3 : Nat} {x4 : Nat} (h : Kept v q n s) : Kept v q n (State.writeQueue s x1 x2 x3 x4) := by
  unfold State.writeQueue
  repeat' with_reducible
    first
    | assumption | apply State.setSal_keeps | apply State.lockv_keeps | apply Kept.of_ite | intro _ | apply Kept.of_getD | simp only [↓Kept.mk_other]
    | split

theorem State.writeChannel_keeps {x1 : Nat} {x2 : Nat} {x3 : Nat} (h : Kept v q n s) : Kept v q n (State.writeChannel s x1 x2 x3) := by
  unfold State.writeChannel
  repeat' with_reducible first | assumption | apply State.setMac_keeps | intro _ | apply Kept.of_getD | simp only [↓Kept.mk_other]

theorem State.mapStep_keeps {x1 : Nat} (h : Kept v q n s) : Kept v q n (State.mapStep s x1) := by
  unfold State.mapStep
  repeat' with_reducible first | assumption | apply State.put_keeps | apply Kept.of_ite | intro _ | split

theorem State.writeMap_keeps {x1 : Nat} {x2 : Nat} {x3 : Nat} (h : Kept v q n s) : Kept v q n (State.writeMap s x1 x2 x3) := by
  unfold State.writeMap
  repeat' with_reducible
    first
    | assumption | apply State.setMac_keeps | apply State.mapStep_keeps | apply Kept.of_ite | intro _ | simp only [↓Kept.mk_other] | split

theorem State.writeRing_keeps {x1 : Nat} {x2 : Nat} {x3 : Nat} (h : Kept v q n s) : Kept v q n (State.writeRing s x1 x2 x3) := by
  unfold State.writeRing
  repeat' with_reducible
    first
    | assumption | apply State.setMast_keeps | intro _ | apply Kept.of_getD | (apply Kept.of_snd; assumption) | simp only [↓Kept.mk_other] | split

theorem State.writePending_keeps {x1 : Nat} {x2 : Nat} {x3 : Nat} {x4 : Nat} {x5 : Nat} {x6 : RegRow} (h : Kept v q n s) : Kept v q n (State.writePending s x1 x2 x3 x4 x5 x6) := by
  unfold State.writePending
  repeat' with_reducible
    first
    | assumption | apply State.lockv_keeps | apply State.pendSail_keeps | apply State.writeQueue_keeps | apply State.writeChannel_keeps
    | apply State.writeMap_keeps | apply State.writeRing_keeps | apply State.pendWord_keeps | apply State.put_keeps | apply Kept.of_ite | intro _
    | simp only [↓Kept.mk_other] | split

theorem State.markAgain_keeps {x1 : Nat} {x2 : Nat} (h : Kept v q n s) : Kept v q n (State.markAgain s x1 x2) := by
  unfold State.markAgain
  repeat' with_reducible first | assumption | apply State.raise_keeps | (apply Kept.of_snd; assumption) | simp only [↓Kept.mk_other] | split

theorem State.writeFields_keeps {x1 : Nat} {x2 : Nat} {x3 : Nat} {x4 : Nat} {x5 : Nat} {x6 : RegRow} (h : Kept v q n s) : Kept v q n (State.writeFields s x1 x2 x3 x4 x5 x6) := by
  unfold State.writeFields
  repeat' with_reducible
    first
    | assumption | apply State.setWord_keeps | apply State.lockv_keeps | apply Kept.of_ite | intro _ | simp only [↓Kept.mk_other] | split

theorem State.vecsEdge_keeps {x0 : State} {x2 : Nat} (h : Kept v q n s) : Kept v q n (State.vecsEdge x0 s x2) := by
  unfold State.vecsEdge
  repeat' with_reducible first | assumption | apply State.vecSend_keeps | intro _ | apply foldl_keeps (Kept v q n)

theorem State.writeMast_keeps {x1 : Nat} {x2 : Nat} {x3 : Nat} {x4 : Nat} {x5 : Nat} {x6 : RegRow} (h : Kept v q n s) : Kept v q n (State.writeMast s x1 x2 x3 x4 x5 x6) := by
  unfold State.writeMast
  repeat' with_reducible
    first
    | assumption | apply State.writeFields_keeps | apply State.deny_keeps | apply State.markAgain_keeps | apply State.setWord_keeps
    | apply State.setMast_keeps | apply State.vecsEdge_keeps | apply State.setSal_keeps | apply State.lockv_keeps | apply State.timersSync_keeps
    | apply State.setKeys_keeps | apply State.put_keeps | apply State.groupLocked_keeps | apply State.setRing_keeps | apply Kept.of_ite | intro _
    | (apply Kept.of_snd; assumption) | apply foldl_keeps (Kept v q n) | simp only [↓Kept.mk_other] | split

theorem State.writeSail_keeps {x1 : Nat} {x2 : Nat} {x3 : Nat} {x4 : Nat} {x5 : Nat} {x6 : RegRow} (h : Kept v q n s) : Kept v q n (State.writeSail s x1 x2 x3 x4 x5 x6) := by
  unfold State.writeSail
  repeat' with_reducible
    first
    | assumption | apply State.writeFields_keeps | apply State.timersSync_keeps | apply State.spiClamp_keeps | apply Kept.of_ite | intro _
    | (apply Kept.of_snd; assumption) | simp only [↓Kept.mk_other] | split

theorem State.writeWord_keeps {x1 : Nat} {x2 : Nat} {x3 : Nat} {x4 : Nat} {x5 : Nat} (h : Kept v q n s) : Kept v q n (State.writeWord s x1 x2 x3 x4 x5) := by
  unfold State.writeWord
  repeat' with_reducible
    first
    | assumption | apply State.writeHeader_keeps | apply State.writePending_keeps | apply State.writeMast_keeps | apply State.writeSail_keeps
    | apply Kept.of_ite | intro _ | (apply Kept.of_snd; assumption) | simp only [↓Kept.mk_other] | split

theorem State.softWrite4_keeps {x1 : Nat} {x2 : Nat} {x3 : Nat} {x4 : Nat} {x5 : Nat} {x6 : Body} (h : Kept v q n s) : Kept v q n (State.softWrite4 s x1 x2 x3 x4 x5 x6) := by
  unfold State.softWrite4
  repeat' with_reducible
    first
    | assumption | apply State.writeWord_keeps | apply State.accSysReset_keeps | apply State.accWdtKick_keeps | apply State.accGo_keeps
    | apply State.accSnap_keeps | apply State.accClose_keeps | apply State.accOpenPassword_keeps | apply State.accOpenOwner_keeps
    | apply State.accSetpw_keeps | apply State.vecSend_keeps | apply State.accPairCmd_keeps | apply State.accThermConv_keeps
    | apply State.accRetrain_keeps | apply State.accFarWrite_keeps | apply State.accRelease_keeps | apply State.accHalyardHwmClr_keeps
    | apply State.accRole_keeps | apply State.accDone_keeps | apply State.capture_keeps | apply State.accSalternHwmClr_keeps
    | apply State.accFree_keeps | apply State.accRehashCtl_keeps | apply State.accNodetabLookup_keeps | apply State.accNodetabInsert_keeps
    | apply State.accNodetabDelete_keeps | apply State.accNodetabFree_keeps | apply State.accShortSet_keeps | apply State.accShortClr_keeps
    | apply State.accSetPort_keeps | apply State.accNodetabMove_keeps | apply State.ntCommand_keeps | apply State.accTimeCtl_keeps
    | apply State.accGroup_keeps | apply State.accDerive_keeps | apply State.accGenerate_keeps | apply State.accImport_keeps
    | apply State.accInvalidate_keeps | apply State.accKeyLock_keeps | apply State.accNodeSet_keeps | apply State.accNodeClear_keeps
    | apply State.accNodeRewrap_keeps | apply State.accPersist_keeps | apply State.keyCommand_keeps | apply State.accJobGo_keeps
    | apply State.accRsaLoad_keeps | apply State.accRsaSign_keeps | apply State.accRsaVerify_keeps | apply State.accRsaAttest_keeps
    | apply State.accRsaClear_keeps | apply State.rsaCommand_keeps | apply State.put_keeps | apply State.free_keeps | apply State.accReseed_keeps
    | apply State.accTamperAck_keeps | apply State.accUpdate_keeps | apply State.accConfirm_keeps | apply State.accReady_keeps
    | apply State.accCampaign_keeps | apply State.accNvCmd_keeps | apply State.accFlash_keeps | apply Kept.of_ite | intro _
    | (apply Kept.of_snd; assumption) | simp only [↓Kept.mk_other] | split

theorem State.softWrite8_keeps {x1 : Nat} {x2 : Nat} {x3 : Nat} {x4 : Nat} {x5 : Nat} {x6 : Body} (h : Kept v q n s) : Kept v q n (State.softWrite8 s x1 x2 x3 x4 x5 x6) := by
  unfold State.softWrite8
  repeat' with_reducible
    first
    | assumption | apply State.accPush_keeps | apply State.accGive_keeps | apply State.accTimeSample_keeps | apply State.accGroup_keeps
    | apply State.accFarWrite_keeps | apply State.softWrite4_keeps | apply Kept.of_ite | intro _ | split

theorem State.softWrite_keeps {x1 : Nat} {x2 : Nat} {x3 : Nat} {x4 : Nat} {x5 : Nat} {x6 : Nat} {x7 : Body} (h : Kept v q n s) : Kept v q n (State.softWrite s x1 x2 x3 x4 x5 x6 x7) := by
  unfold State.softWrite
  repeat' with_reducible
    first
    | assumption | apply State.unmapped_keeps | apply State.accTail_keeps | apply State.accAck_keeps | apply State.deny_keeps
    | apply State.capture_keeps | apply State.softWrite4_keeps | apply State.softWrite8_keeps | apply State.setWord_keeps | apply Kept.of_ite
    | intro _ | simp only [↓Kept.mk_other] | split

theorem outcomeState_keeps {o : Host.Outcome State Fault Refusal} (ho : KeptOut v q n o) (h : Kept v q n s) :
    Kept v q n (outcomeState o s) := by
  cases o with
  | next t => exact ho
  | fault _ => exact h
  | refused _ => exact h

theorem State.readEffect_keeps {x1 : Nat} {x2 : Nat} {x3 : Nat} {x4 : Nat} (h : Kept v q n s) : Kept v q n (State.readEffect s x1 x2 x3 x4) := by
  unfold State.readEffect
  repeat' with_reducible
    first
    | assumption | apply outcomeState_keeps | apply execNonceDraw_keeps | apply State.capture_keeps | apply execSalternAlloc_keeps
    | apply State.mapStep_keeps | apply State.put_keeps | apply State.setWord_keeps | apply execTcountRead_keeps | apply execTcapRead_keeps
    | apply execDrbgOutRead_keeps | apply Kept.of_ite | intro _ | (apply Kept.of_snd; assumption) | simp only [↓Kept.mk_other] | split

theorem State.softRead4_keeps {x1 : Nat} {x2 : Nat} {x3 : Nat} {x4 : Nat} (h : Kept v q n s) : Kept v q n (State.softRead4 s x1 x2 x3 x4).2 := by
  unfold State.softRead4
  repeat' with_reducible first | assumption | apply State.readEffect_keeps | apply Kept.of_ite | intro _ | simp only [↓Kept.mk_other] | split

theorem State.softRead8_keeps {x1 : Nat} {x2 : Nat} {x3 : Nat} {x4 : Nat} (h : Kept v q n s) : Kept v q n (State.softRead8 s x1 x2 x3 x4).2 := by
  unfold State.softRead8
  repeat' with_reducible
    first
    | assumption | apply outcomeState_keeps | apply execSalternPop_keeps | apply execHalyardTake_keeps | apply execTcountRead_keeps
    | apply State.softRead4_keeps | apply Kept.of_ite | intro _ | simp only [↓Kept.mk_other] | split

theorem State.softRead_keeps {x1 : Nat} {x2 : Nat} {x3 : Nat} {x4 : Nat} {x5 : Nat} (h : Kept v q n s) : Kept v q n (State.softRead s x1 x2 x3 x4 x5).2 := by
  unfold State.softRead
  repeat' with_reducible
    first
    | assumption | apply State.unmapped_keeps | apply State.deny_keeps | apply State.capture_keeps | apply State.softRead8_keeps
    | apply State.softRead4_keeps | apply Kept.of_ite | intro _ | simp only [↓Kept.mk_other] | split

theorem State.sailWrite4_keeps {x1 : Nat} {x2 : Nat} {x3 : Nat} {x4 : Nat} (h : Kept v q n s) : Kept v q n (State.sailWrite4 s x1 x2 x3 x4) := by
  unfold State.sailWrite4
  repeat' with_reducible
    first
    | assumption | apply State.writeWord_keeps | apply State.accSsysReset_keeps | apply State.accFuseGo_keeps | apply State.accLaneHwmClr_keeps
    | apply State.accAbort_keeps | apply State.accGroup_keeps | apply Kept.of_ite | intro _ | (apply Kept.of_snd; assumption)
    | simp only [↓Kept.mk_other] | split

theorem State.sailWrite_keeps {x1 : Nat} {x2 : Nat} {x3 : Nat} {x4 : Bool} {x5 : Nat} (h : Kept v q n s) : Kept v q n (State.sailWrite s x1 x2 x3 x4 x5) := by
  unfold State.sailWrite
  repeat' with_reducible first | assumption | apply State.capture_keeps | apply State.sailWrite4_keeps | apply Kept.of_ite | intro _ | split

theorem State.sailRead4_keeps {x1 : Nat} {x2 : Nat} {x3 : Nat} (h : Kept v q n s) : Kept v q n (State.sailRead4 s x1 x2 x3).2 := by
  unfold State.sailRead4
  repeat' with_reducible
    first
    | assumption | apply outcomeState_keeps | apply execTcountRead_keeps | apply execTcapRead_keeps | apply Kept.of_ite | intro _
    | simp only [↓Kept.mk_other] | split

theorem State.sailRead_keeps {x1 : Nat} {x2 : Nat} {x3 : Nat} {x4 : Bool} (h : Kept v q n s) : Kept v q n (State.sailRead s x1 x2 x3 x4).2 := by
  unfold State.sailRead
  repeat' with_reducible
    first
    | assumption | apply State.capture_keeps | apply State.sailRead4_keeps | apply Kept.of_ite | intro _ | simp only [↓Kept.mk_other] | split

theorem State.withOutcome_keeps {x1 : Nat} {x2 : Nat} {x3 : Bool} {x4 : State → State} (hf4 : ∀ y0, Kept v q n y0 → Kept v q n (x4 y0)) (h : Kept v q n s) : Kept v q n (State.withOutcome s x1 x2 x3 x4).2 := by
  unfold State.withOutcome
  repeat' with_reducible first | assumption | apply State.setWord_keeps | apply hf4 | apply Kept.of_ite | intro _ | simp only [↓Kept.mk_other] | split

theorem execRegisterWrite_keeps {x0 : Nat} {x1 : Nat} {x2 : WriteTarget} (h : Kept v q n s) : KeptOut v q n (execRegisterWrite x0 x1 x2 s) := by
  unfold execRegisterWrite
  repeat' with_reducible
    first
    | assumption | apply KeptOut.next | apply KeptOut.of_ite | apply State.hostOn_keeps | apply State.softWrite_keeps | apply State.emit_keeps
    | apply State.bump_keeps | apply State.setMast_keeps | apply Kept.of_ite | intro _ | (apply Kept.of_snd; assumption) | simp only [↓Kept.mk_other]
    | split

theorem execCntClr_keeps {x0 : Nat} {x1 : Nat} {x2 : Nat} {x3 : Bool} (h : Kept v q n s) : KeptOut v q n (execCntClr x0 x1 x2 x3 s) := by
  unfold execCntClr
  repeat' with_reducible
    first
    | assumption | apply KeptOut.next | apply KeptOut.of_ite | apply State.hostOn_keeps | apply State.softWrite_keeps | apply Kept.of_ite | intro _
    | simp only [↓Kept.mk_other] | split

theorem execIrqForce_keeps {x0 : Nat} {x1 : Nat} {x2 : Nat} {x3 : Nat} (h : Kept v q n s) : KeptOut v q n (execIrqForce x0 x1 x2 x3 s) := by
  unfold execIrqForce
  repeat' with_reducible first | assumption | apply KeptOut.next | apply State.hostOn_keeps | apply State.softWrite_keeps | intro _

theorem execPageLock_keeps {x0 : Nat} {x1 : Nat} {x2 : Nat} (h : Kept v q n s) : KeptOut v q n (execPageLock x0 x1 x2 s) := by
  unfold execPageLock
  repeat' with_reducible first | assumption | apply KeptOut.next | apply State.hostOn_keeps | apply State.softWrite_keeps | intro _

theorem execUnmappedAccess_keeps {x0 : Nat} {x1 : Nat} {x2 : Nat} {x3 : Bool} (h : Kept v q n s) : KeptOut v q n (execUnmappedAccess x0 x1 x2 x3 s) := by
  unfold execUnmappedAccess
  repeat' with_reducible
    first
    | assumption | apply KeptOut.next | apply KeptOut.of_ite | apply State.unmapped_keeps | apply State.emit_keeps | apply Kept.of_ite | intro _
    | simp only [↓Kept.mk_other] | split

theorem execVecEoi_keeps {x0 : Nat} {x1 : Nat} {x2 : Nat} {x3 : Nat} (h : Kept v q n s) : KeptOut v q n (execVecEoi x0 x1 x2 x3 s) := by
  unfold execVecEoi
  repeat' with_reducible first | assumption | apply KeptOut.next | apply State.hostOn_keeps | apply State.softWrite_keeps | intro _

/-! ## Far -/

theorem execFarDataRead_keeps {x0 : Nat} {x1 : Nat} {x2 : Nat} (h : Kept v q n s) : KeptOut v q n (execFarDataRead x0 x1 x2 s) := by
  unfold execFarDataRead
  repeat' with_reducible first | assumption | apply KeptOut.next | apply State.accFarRead_keeps

theorem execFarDataWrite_keeps {x0 : Nat} {x1 : Nat} {x2 : Nat} {x3 : Nat} (h : Kept v q n s) : KeptOut v q n (execFarDataWrite x0 x1 x2 x3 s) := by
  unfold execFarDataWrite
  repeat' with_reducible first | assumption | apply KeptOut.next | apply State.hostOn_keeps | apply State.accFarWrite_keeps | intro _

theorem State.answerFar_keeps {x1 : Nat} {x2 : Nat} {x3 : Nat} {x4 : Nat} {x5 : Nat} (h : Kept v q n s) : Kept v q n (State.answerFar s x1 x2 x3 x4 x5) := by
  unfold State.answerFar
  repeat' with_reducible first | assumption | apply State.answer_keeps | intro _ | apply foldl_keeps (Kept v q n)

theorem execFarReadPacket_keeps {x0 : Nat} {x1 : Nat} {x2 : Nat} {x3 : Nat} {x4 : Nat} {x5 : Bool} {x6 : List LinkPkt} (h : Kept v q n s) : KeptOut v q n (execFarReadPacket x0 x1 x2 x3 x4 x5 x6 s) := by
  unfold execFarReadPacket
  repeat' with_reducible
    first
    | assumption | apply KeptOut.next | apply KeptOut.of_ite | apply State.arrive_keeps | apply State.sailRead_keeps | apply State.answerFar_keeps
    | apply Kept.of_ite | intro _ | simp only [↓Kept.mk_other] | split

theorem execFarWritePacket_keeps {x0 : Nat} {x1 : Nat} {x2 : Nat} {x3 : Nat} {x4 : Nat} {x5 : Bool} {x6 : Nat} {x7 : List LinkPkt} (h : Kept v q n s) : KeptOut v q n (execFarWritePacket x0 x1 x2 x3 x4 x5 x6 x7 s) := by
  unfold execFarWritePacket
  repeat' with_reducible
    first
    | assumption | apply KeptOut.next | apply KeptOut.of_ite | apply State.accepts_keeps | apply State.withOutcome_keeps
    | apply State.sailWrite_keeps | apply State.answerFar_keeps | apply Kept.of_ite | intro _ | simp only [↓Kept.mk_other] | split

theorem State.farComplete_keeps {x1 : Nat} {x2 : FarReq} {x3 : Nat} {x4 : Nat} (h : Kept v q n s) : Kept v q n (State.farComplete s x1 x2 x3 x4) := by
  unfold State.farComplete
  repeat' with_reducible
    first
    | assumption | apply State.bput64_keeps | apply State.emit_keeps | apply Kept.of_ite | intro _ | simp only [↓Kept.mk_other] | split

theorem State.farEnd_keeps {x1 : Nat} {x2 : Nat} (h : Kept v q n s) : Kept v q n (State.farEnd s x1 x2) := by
  unfold State.farEnd
  repeat' with_reducible
    first
    | assumption | apply State.setMast_keeps | apply State.sendRuns_keeps | apply State.farRelease_keeps | intro _ | simp only [↓Kept.mk_other]

theorem State.farResp_keeps {x1 : Nat} {x2 : Nat} {x3 : Nat} {x4 : Nat} {x5 : Nat} {x6 : Nat} (h : Kept v q n s) : Kept v q n (State.farResp s x1 x2 x3 x4 x5 x6) := by
  unfold State.farResp
  repeat' with_reducible
    first
    | assumption | apply State.bput_keeps | apply State.setWord_keeps | apply State.farEnd_keeps | apply State.farComplete_keeps | apply Kept.of_ite
    | intro _ | (apply Kept.of_snd; assumption) | simp only [↓Kept.mk_other] | split

theorem execFarResp_keeps {x0 : Nat} {x1 : Nat} {x2 : Nat} {x3 : Nat} {x4 : Nat} {x5 : Nat} {x6 : List LinkPkt} (h : Kept v q n s) : KeptOut v q n (execFarResp x0 x1 x2 x3 x4 x5 x6 s) := by
  unfold execFarResp
  repeat' with_reducible
    first
    | assumption | apply KeptOut.next | apply KeptOut.of_ite | apply State.receive_keeps | (apply State.mirror_keeps; assumption)
    | apply State.farResp_keeps | apply Kept.of_ite | intro _ | (apply Kept.of_snd; assumption) | simp only [↓Kept.mk_other] | split

theorem execFarTimeout_keeps {x0 : Nat} {x1 : Nat} (h : Kept v q n s) : KeptOut v q n (execFarTimeout x0 x1 s) := by
  unfold execFarTimeout
  repeat' with_reducible
    first
    | assumption | apply KeptOut.next | apply KeptOut.of_ite | apply State.irq_keeps | apply State.bump_keeps | apply State.bput_keeps
    | apply State.farEnd_keeps | apply State.farComplete_keeps | apply Kept.of_ite | intro _ | (apply Kept.of_snd; assumption)
    | simp only [↓Kept.mk_other] | split

/-! ## Tick -/

theorem State.sendSlotEnd_keeps {x1 : Nat} {x2 : Nat} (h : Kept v q n s) : Kept v q n (State.sendSlotEnd s x1 x2) := by
  unfold State.sendSlotEnd
  repeat' with_reducible
    first
    | assumption | apply State.put64_keeps | apply State.setPair_keeps | apply State.sendOn_keeps | apply State.bump_keeps | apply Kept.of_ite
    | intro _ | simp only [↓Kept.mk_other] | split

theorem State.latchCounts_keeps {x1 : Nat} (h : Kept v q n s) : Kept v q n (State.latchCounts s x1) := by
  unfold State.latchCounts
  repeat' with_reducible first | assumption | apply State.setPair_keeps | apply Kept.of_ite | intro _ | simp only [↓Kept.mk_other] | split

theorem State.mastAsn_keeps {x1 : Nat} (h : Kept v q n s) : Kept v q n (State.mastAsn s x1) := by
  unfold State.mastAsn
  repeat' with_reducible
    first
    | assumption | apply State.meshTick_keeps | apply State.setMast_keeps | apply State.latchCounts_keeps | apply State.sendSlotEnd_keeps
    | apply Kept.of_ite | intro _ | apply Kept.of_getD | simp only [↓Kept.mk_other] | split

theorem State.takeSlotLen_keeps {x1 : Nat} (h : Kept v q n s) : Kept v q n (State.takeSlotLen s x1) := by
  unfold State.takeSlotLen
  repeat' with_reducible
    first
    | assumption | apply State.timingClamp_keeps | apply State.setMast_keeps | apply Kept.of_ite | intro _ | simp only [↓Kept.mk_other] | split

theorem State.roleTick_keeps {x1 : Nat} (h : Kept v q n s) : Kept v q n (State.roleTick s x1) := by
  unfold State.roleTick
  repeat' with_reducible
    first
    | assumption | apply State.takeoverAt_keeps | apply State.sendRuns_keeps | apply State.setMast_keeps | apply Kept.of_ite | intro _
    | simp only [↓Kept.mk_other] | split

theorem State.mastTick_keeps {x1 : Nat} (h : Kept v q n s) : Kept v q n (State.mastTick s x1) := by
  unfold State.mastTick
  repeat' with_reducible
    first
    | assumption | apply State.tickCommits_keeps | apply State.tickSnaps_keeps | apply State.mastAsn_keeps | apply State.takeSlotLen_keeps
    | apply State.setMac_keeps | apply State.roleTick_keeps | apply State.updTick_keeps | apply State.grantSlot_keeps | apply State.oldLaunches_keeps
    | apply State.withdrawTick_keeps | apply State.mastRevert_keeps | apply State.reefTick_keeps | simp only [↓Kept.mk_other]

theorem State.sailAsn_keeps {x1 : Nat} {x2 : Nat} {x3 : Nat} (h : Kept v q n s) : Kept v q n (State.sailAsn s x1 x2 x3) := by
  unfold State.sailAsn
  repeat' with_reducible first | assumption | apply State.setSail_keeps | simp only [↓Kept.mk_other]

theorem State.sailSettle_keeps {x1 : Nat} (h : Kept v q n s) : Kept v q n (State.sailSettle s x1) := by
  unfold State.sailSettle
  repeat' with_reducible
    first
    | assumption | apply State.retuneWindows_keeps | apply State.setSail_keeps | apply State.applyRetune_keeps | apply State.put_keeps
    | apply Kept.of_ite | intro _ | simp only [↓Kept.mk_other] | split

theorem State.manualGain_keeps {x1 : Nat} {x2 : Nat} (h : Kept v q n s) : Kept v q n (State.manualGain s x1 x2) := by
  unfold State.manualGain
  repeat' with_reducible first | assumption | apply State.enterGain_keeps | apply Kept.of_ite | intro _ | simp only [↓Kept.mk_other] | split

theorem State.sailClose_keeps {x1 : Nat} {x2 : AdcSlot} (h : Kept v q n s) : Kept v q n (State.sailClose s x1 x2) := by
  unfold State.sailClose
  repeat' with_reducible
    first
    | assumption | apply State.closeSlotGain_keeps | apply State.bump_keeps | apply State.setSail_keeps | simp only [↓Kept.mk_other]

theorem State.sailResume_keeps {x1 : Nat} (h : Kept v q n s) : Kept v q n (State.sailResume s x1) := by
  unfold State.sailResume
  repeat' with_reducible first | assumption | apply State.setSail_keeps | apply Kept.of_ite | intro _ | simp only [↓Kept.mk_other] | split

theorem State.sailTick_keeps {x1 : Nat} {x2 : Nat} {x3 : Nat} {x4 : AdcSlot} (h : Kept v q n s) : Kept v q n (State.sailTick s x1 x2 x3 x4) := by
  unfold State.sailTick
  repeat' with_reducible
    first
    | assumption | apply State.sailSettle_keeps | apply State.tickPrepared_keeps | apply State.sailAsn_keeps | apply State.sailClose_keeps
    | apply State.sailRevert_keeps | apply State.sailReefTick_keeps | apply State.sailResume_keeps | apply State.manualGain_keeps
    | simp only [↓Kept.mk_other]

theorem execSlotTick_keeps {x0 : Nat} {x1 : AdcSlot} (h : Kept v q n s) : KeptOut v q n (execSlotTick x0 x1 s) := by
  unfold execSlotTick
  repeat' with_reducible
    first
    | assumption | apply KeptOut.next | apply KeptOut.of_ite | apply State.mastTick_keeps | apply State.sailTick_keeps | apply Kept.of_ite | intro _
    | (apply Kept.of_snd; assumption) | simp only [↓Kept.mk_other] | split

theorem execTickPacketSend_keeps {x0 : Nat} (h : Kept v q n s) : KeptOut v q n (execTickPacketSend x0 s) := by
  unfold execTickPacketSend
  repeat' with_reducible
    first
    | assumption | apply KeptOut.next | apply KeptOut.of_ite | apply State.setMast_keeps | apply State.sendOn_keeps | apply Kept.of_ite | intro _
    | apply foldl_keeps (Kept v q n) | simp only [↓Kept.mk_other] | split

/-! ## JuryMgmt -/

theorem State.mgmtFrame_keeps {x1 : Nat} {x2 : Nat} {x3 : Nat} {x4 : Packet} (h : Kept v q n s) : Kept v q n (State.mgmtFrame s x1 x2 x3 x4).2 := by
  unfold State.mgmtFrame
  repeat' with_reducible
    first
    | assumption | (apply State.allocItem_keeps; assumption) | apply State.bump_keeps | apply State.setSal_keeps | apply State.giveHw_keeps
    | (apply Kept.of_snd; assumption) | simp only [↓Kept.mk_other] | split

theorem State.flashData_keeps {x1 : Nat} {x2 : Nat} {x3 : Nat} (h : Kept v q n s) : Kept v q n (State.flashData s x1 x2 x3) := by
  unfold State.flashData
  repeat' with_reducible
    first
    | assumption | apply State.flashEnd_keeps | apply State.bump_keeps | apply State.flashBuffer_keeps | apply Kept.of_ite | intro _
    | (apply Kept.of_snd; assumption) | simp only [↓Kept.mk_other] | split

theorem State.runInput_keeps {x1 : Nat} {x2 : Nat} {x3 : Input} (e : State.runInput s x1 x2 x3 = some t) (h : Kept v q n s) : Kept v q n t := by
  unfold State.runInput at e
  try dsimp only at e
  repeat' split at e
  all_goals first | cases e | skip
  all_goals try simp only [Option.some.injEq, Prod.mk.injEq] at e
  all_goals try obtain ⟨rfl, rfl⟩ := e
  all_goals try simp only [Option.map_eq_some_iff] at e
  all_goals try obtain ⟨_, e, rfl⟩ := e
  all_goals repeat' with_reducible
    first
    | assumption | (apply State.frameUp_keeps; assumption) | apply State.txDone_keeps | apply State.advice_keeps | apply State.farResp_keeps
    | apply State.sailIrq_keeps | apply State.acceptEth_keeps | apply State.serveTx_keeps | apply State.mgmtFrame_keeps | apply State.event_keeps
    | apply State.softWrite_keeps | apply State.capTimer_keeps | apply State.servo_keeps | apply State.setPair_keeps | apply State.feedSample_keeps
    | apply State.feedEnter_keeps | apply State.flashData_keeps | apply State.thermTemp_keeps | apply State.thermRails_keeps | apply Kept.of_ite
    | intro _ | simp only [↓Kept.mk_other] | split

theorem execJuryInputExecute_keeps {x0 : Nat} (h : Kept v q n s) : KeptOut v q n (execJuryInputExecute x0 s) := by
  unfold execJuryInputExecute
  repeat' with_reducible
    first
    | assumption | apply KeptOut.next | apply KeptOut.of_ite | apply State.setPair_keeps | (apply State.runInput_keeps; assumption)
    | apply State.put64_keeps | apply Kept.of_ite | intro _ | (apply Kept.of_snd; assumption) | simp only [↓Kept.mk_other] | split

theorem State.mgmtRead_keeps {x1 : Nat} {x2 : Bool} {x3 : Nat} (h : Kept v q n s) : Kept v q n (State.mgmtRead s x1 x2 x3) := by
  unfold State.mgmtRead
  repeat' with_reducible
    first
    | assumption | apply State.emit_keeps | apply State.unmapped_keeps | apply State.accFarRead_keeps | apply State.softRead_keeps
    | apply State.withOutcome_keeps | apply Kept.of_ite | intro _ | simp only [↓Kept.mk_other] | split

theorem State.mgmtWrite_keeps {x1 : Nat} {x2 : Bool} {x3 : Nat} {x4 : Nat} (h : Kept v q n s) : Kept v q n (State.mgmtWrite s x1 x2 x3 x4) := by
  unfold State.mgmtWrite
  repeat' with_reducible
    first
    | assumption | apply State.emit_keeps | apply State.unmapped_keeps | apply State.withOutcome_keeps | apply State.softWrite_keeps
    | apply State.hostOn_keeps | apply Kept.of_ite | intro _ | simp only [↓Kept.mk_other] | split

theorem State.mgmtFrameReq_keeps {x1 : Nat} {x2 : Packet} (h : Kept v q n s) : Kept v q n (State.mgmtFrameReq s x1 x2) := by
  unfold State.mgmtFrameReq
  repeat' with_reducible
    first
    | assumption | (apply State.mirror_keeps; assumption) | apply State.mgmtFrame_keeps | apply State.emit_keeps | apply Kept.of_ite | intro _
    | (apply Kept.of_snd; assumption) | simp only [↓Kept.mk_other] | split

theorem execMgmtRequest_keeps {x0 : Nat} {x1 : Bool} {x2 : Bool} {x3 : MgmtCmd} (h : Kept v q n s) : KeptOut v q n (execMgmtRequest x0 x1 x2 x3 s) := by
  unfold execMgmtRequest
  repeat' with_reducible
    first
    | assumption | apply KeptOut.next | apply KeptOut.of_ite | apply State.bump_keeps | apply State.emit_keeps | apply State.mgmtRead_keeps
    | apply State.mgmtWrite_keeps | apply State.mgmtFrameReq_keeps | apply Kept.of_ite | intro _ | (apply Kept.of_snd; assumption)
    | simp only [↓Kept.mk_other] | split

theorem execMgmtUartGap_keeps {x0 : Nat} (h : Kept v q n s) : KeptOut v q n (execMgmtUartGap x0 s) := by
  unfold execMgmtUartGap
  repeat' with_reducible first | assumption | apply KeptOut.next | apply KeptOut.of_ite | apply State.bump_keeps | apply Kept.of_ite | intro _ | split

end Sys2Proof.Machine
end

