-- ==== Sys2Proof/Laws/State.lean ====
section
/-! SUPPORT. The state's updates: one lemma per field that an update leaves alone, and what a word, a field and a mast read after one. -/

namespace Sys2Proof.Machine

variable (s : State)

@[simp] theorem State.setWord_variant (k : Nat) (w : Word) : (s.setWord k w).variant = s.variant := rfl
@[simp] theorem State.setWord_now (k : Nat) (w : Word) : (s.setWord k w).now = s.now := rfl
@[simp] theorem State.setWord_freeCtr (k : Nat) (w : Word) : (s.setWord k w).freeCtr = s.freeCtr := rfl
@[simp] theorem State.setWord_mastA (k : Nat) (w : Word) : (s.setWord k w).mastA = s.mastA := rfl
@[simp] theorem State.setWord_mastB (k : Nat) (w : Word) : (s.setWord k w).mastB = s.mastB := rfl
@[simp] theorem State.setWord_sails (k : Nat) (w : Word) : (s.setWord k w).sails = s.sails := rfl
@[simp] theorem State.setWord_conns (k : Nat) (w : Word) : (s.setWord k w).conns = s.conns := rfl
@[simp] theorem State.setWord_profAct (k : Nat) (w : Word) : (s.setWord k w).profAct = s.profAct := rfl
@[simp] theorem State.setWord_profPend (k : Nat) (w : Word) : (s.setWord k w).profPend = s.profPend := rfl
@[simp] theorem State.setWord_timerAt (k : Nat) (w : Word) : (s.setWord k w).timerAt = s.timerAt := rfl
@[simp] theorem State.setWord_timerRem (k : Nat) (w : Word) : (s.setWord k w).timerRem = s.timerRem := rfl
@[simp] theorem State.setWord_halted (k : Nat) (w : Word) : (s.setWord k w).halted = s.halted := rfl
@[simp] theorem State.setWord_convs (k : Nat) (w : Word) : (s.setWord k w).convs = s.convs := rfl
@[simp] theorem State.setWord_shadow (k : Nat) (w : Word) : (s.setWord k w).shadow = s.shadow := rfl
@[simp] theorem State.setWord_phase (k : Nat) (w : Word) : (s.setWord k w).phase = s.phase := rfl
@[simp] theorem State.setWord_refValid (k : Nat) (w : Word) : (s.setWord k w).refValid = s.refValid := rfl
@[simp] theorem State.setWord_browned (k : Nat) (w : Word) : (s.setWord k w).browned = s.browned := rfl
@[simp] theorem State.setWord_testEn (k : Nat) (w : Word) : (s.setWord k w).testEn = s.testEn := rfl
@[simp] theorem State.setWord_lowpwr (k : Nat) (w : Word) : (s.setWord k w).lowpwr = s.lowpwr := rfl
@[simp] theorem State.setWord_reefed (k : Nat) (w : Word) : (s.setWord k w).reefed = s.reefed := rfl
@[simp] theorem State.setWord_tap (k : Nat) (w : Word) : (s.setWord k w).tap = s.tap := rfl
@[simp] theorem State.setWord_out (k : Nat) (w : Word) : (s.setWord k w).out = s.out := rfl
@[simp] theorem State.setWord_pending (k : Nat) (w : Word) : (s.setWord k w).pending = s.pending := rfl

@[simp] theorem State.put_variant (d : Nat) (f : Fld) (v : Nat) : (s.put d f v).variant = s.variant := rfl
@[simp] theorem State.put_now (d : Nat) (f : Fld) (v : Nat) : (s.put d f v).now = s.now := rfl
@[simp] theorem State.put_freeCtr (d : Nat) (f : Fld) (v : Nat) : (s.put d f v).freeCtr = s.freeCtr := rfl
@[simp] theorem State.put_mastA (d : Nat) (f : Fld) (v : Nat) : (s.put d f v).mastA = s.mastA := rfl
@[simp] theorem State.put_mastB (d : Nat) (f : Fld) (v : Nat) : (s.put d f v).mastB = s.mastB := rfl
@[simp] theorem State.put_sails (d : Nat) (f : Fld) (v : Nat) : (s.put d f v).sails = s.sails := rfl
@[simp] theorem State.put_conns (d : Nat) (f : Fld) (v : Nat) : (s.put d f v).conns = s.conns := rfl
@[simp] theorem State.put_profAct (d : Nat) (f : Fld) (v : Nat) : (s.put d f v).profAct = s.profAct := rfl
@[simp] theorem State.put_profPend (d : Nat) (f : Fld) (v : Nat) : (s.put d f v).profPend = s.profPend := rfl
@[simp] theorem State.put_timerAt (d : Nat) (f : Fld) (v : Nat) : (s.put d f v).timerAt = s.timerAt := rfl
@[simp] theorem State.put_timerRem (d : Nat) (f : Fld) (v : Nat) : (s.put d f v).timerRem = s.timerRem := rfl
@[simp] theorem State.put_halted (d : Nat) (f : Fld) (v : Nat) : (s.put d f v).halted = s.halted := rfl
@[simp] theorem State.put_convs (d : Nat) (f : Fld) (v : Nat) : (s.put d f v).convs = s.convs := rfl
@[simp] theorem State.put_shadow (d : Nat) (f : Fld) (v : Nat) : (s.put d f v).shadow = s.shadow := rfl
@[simp] theorem State.put_phase (d : Nat) (f : Fld) (v : Nat) : (s.put d f v).phase = s.phase := rfl
@[simp] theorem State.put_refValid (d : Nat) (f : Fld) (v : Nat) : (s.put d f v).refValid = s.refValid := rfl
@[simp] theorem State.put_browned (d : Nat) (f : Fld) (v : Nat) : (s.put d f v).browned = s.browned := rfl
@[simp] theorem State.put_testEn (d : Nat) (f : Fld) (v : Nat) : (s.put d f v).testEn = s.testEn := rfl
@[simp] theorem State.put_lowpwr (d : Nat) (f : Fld) (v : Nat) : (s.put d f v).lowpwr = s.lowpwr := rfl
@[simp] theorem State.put_reefed (d : Nat) (f : Fld) (v : Nat) : (s.put d f v).reefed = s.reefed := rfl
@[simp] theorem State.put_tap (d : Nat) (f : Fld) (v : Nat) : (s.put d f v).tap = s.tap := rfl
@[simp] theorem State.put_out (d : Nat) (f : Fld) (v : Nat) : (s.put d f v).out = s.out := rfl
@[simp] theorem State.put_pending (d : Nat) (f : Fld) (v : Nat) : (s.put d f v).pending = s.pending := rfl

@[simp] theorem State.bput_variant (r d : Nat) (f : Fld) (v : Nat) : (s.bput r d f v).variant = s.variant := rfl
@[simp] theorem State.bput_now (r d : Nat) (f : Fld) (v : Nat) : (s.bput r d f v).now = s.now := rfl
@[simp] theorem State.bput_freeCtr (r d : Nat) (f : Fld) (v : Nat) : (s.bput r d f v).freeCtr = s.freeCtr := rfl
@[simp] theorem State.bput_mastA (r d : Nat) (f : Fld) (v : Nat) : (s.bput r d f v).mastA = s.mastA := rfl
@[simp] theorem State.bput_mastB (r d : Nat) (f : Fld) (v : Nat) : (s.bput r d f v).mastB = s.mastB := rfl
@[simp] theorem State.bput_sails (r d : Nat) (f : Fld) (v : Nat) : (s.bput r d f v).sails = s.sails := rfl
@[simp] theorem State.bput_conns (r d : Nat) (f : Fld) (v : Nat) : (s.bput r d f v).conns = s.conns := rfl
@[simp] theorem State.bput_profAct (r d : Nat) (f : Fld) (v : Nat) : (s.bput r d f v).profAct = s.profAct := rfl
@[simp] theorem State.bput_profPend (r d : Nat) (f : Fld) (v : Nat) : (s.bput r d f v).profPend = s.profPend := rfl
@[simp] theorem State.bput_timerAt (r d : Nat) (f : Fld) (v : Nat) : (s.bput r d f v).timerAt = s.timerAt := rfl
@[simp] theorem State.bput_timerRem (r d : Nat) (f : Fld) (v : Nat) : (s.bput r d f v).timerRem = s.timerRem := rfl
@[simp] theorem State.bput_halted (r d : Nat) (f : Fld) (v : Nat) : (s.bput r d f v).halted = s.halted := rfl
@[simp] theorem State.bput_convs (r d : Nat) (f : Fld) (v : Nat) : (s.bput r d f v).convs = s.convs := rfl
@[simp] theorem State.bput_shadow (r d : Nat) (f : Fld) (v : Nat) : (s.bput r d f v).shadow = s.shadow := rfl
@[simp] theorem State.bput_phase (r d : Nat) (f : Fld) (v : Nat) : (s.bput r d f v).phase = s.phase := rfl
@[simp] theorem State.bput_refValid (r d : Nat) (f : Fld) (v : Nat) : (s.bput r d f v).refValid = s.refValid := rfl
@[simp] theorem State.bput_browned (r d : Nat) (f : Fld) (v : Nat) : (s.bput r d f v).browned = s.browned := rfl
@[simp] theorem State.bput_testEn (r d : Nat) (f : Fld) (v : Nat) : (s.bput r d f v).testEn = s.testEn := rfl
@[simp] theorem State.bput_lowpwr (r d : Nat) (f : Fld) (v : Nat) : (s.bput r d f v).lowpwr = s.lowpwr := rfl
@[simp] theorem State.bput_reefed (r d : Nat) (f : Fld) (v : Nat) : (s.bput r d f v).reefed = s.reefed := rfl
@[simp] theorem State.bput_tap (r d : Nat) (f : Fld) (v : Nat) : (s.bput r d f v).tap = s.tap := rfl
@[simp] theorem State.bput_out (r d : Nat) (f : Fld) (v : Nat) : (s.bput r d f v).out = s.out := rfl
@[simp] theorem State.bput_pending (r d : Nat) (f : Fld) (v : Nat) : (s.bput r d f v).pending = s.pending := rfl

@[simp] theorem State.put64_variant (d : Nat) (f : Fld) (v : Nat) : (s.put64 d f v).variant = s.variant := rfl
@[simp] theorem State.put64_now (d : Nat) (f : Fld) (v : Nat) : (s.put64 d f v).now = s.now := rfl
@[simp] theorem State.put64_freeCtr (d : Nat) (f : Fld) (v : Nat) : (s.put64 d f v).freeCtr = s.freeCtr := rfl
@[simp] theorem State.put64_mastA (d : Nat) (f : Fld) (v : Nat) : (s.put64 d f v).mastA = s.mastA := rfl
@[simp] theorem State.put64_mastB (d : Nat) (f : Fld) (v : Nat) : (s.put64 d f v).mastB = s.mastB := rfl
@[simp] theorem State.put64_sails (d : Nat) (f : Fld) (v : Nat) : (s.put64 d f v).sails = s.sails := rfl
@[simp] theorem State.put64_conns (d : Nat) (f : Fld) (v : Nat) : (s.put64 d f v).conns = s.conns := rfl
@[simp] theorem State.put64_profAct (d : Nat) (f : Fld) (v : Nat) : (s.put64 d f v).profAct = s.profAct := rfl
@[simp] theorem State.put64_profPend (d : Nat) (f : Fld) (v : Nat) : (s.put64 d f v).profPend = s.profPend := rfl
@[simp] theorem State.put64_timerAt (d : Nat) (f : Fld) (v : Nat) : (s.put64 d f v).timerAt = s.timerAt := rfl
@[simp] theorem State.put64_timerRem (d : Nat) (f : Fld) (v : Nat) : (s.put64 d f v).timerRem = s.timerRem := rfl
@[simp] theorem State.put64_halted (d : Nat) (f : Fld) (v : Nat) : (s.put64 d f v).halted = s.halted := rfl
@[simp] theorem State.put64_convs (d : Nat) (f : Fld) (v : Nat) : (s.put64 d f v).convs = s.convs := rfl
@[simp] theorem State.put64_shadow (d : Nat) (f : Fld) (v : Nat) : (s.put64 d f v).shadow = s.shadow := rfl
@[simp] theorem State.put64_phase (d : Nat) (f : Fld) (v : Nat) : (s.put64 d f v).phase = s.phase := rfl
@[simp] theorem State.put64_refValid (d : Nat) (f : Fld) (v : Nat) : (s.put64 d f v).refValid = s.refValid := rfl
@[simp] theorem State.put64_browned (d : Nat) (f : Fld) (v : Nat) : (s.put64 d f v).browned = s.browned := rfl
@[simp] theorem State.put64_testEn (d : Nat) (f : Fld) (v : Nat) : (s.put64 d f v).testEn = s.testEn := rfl
@[simp] theorem State.put64_lowpwr (d : Nat) (f : Fld) (v : Nat) : (s.put64 d f v).lowpwr = s.lowpwr := rfl
@[simp] theorem State.put64_reefed (d : Nat) (f : Fld) (v : Nat) : (s.put64 d f v).reefed = s.reefed := rfl
@[simp] theorem State.put64_tap (d : Nat) (f : Fld) (v : Nat) : (s.put64 d f v).tap = s.tap := rfl
@[simp] theorem State.put64_out (d : Nat) (f : Fld) (v : Nat) : (s.put64 d f v).out = s.out := rfl
@[simp] theorem State.put64_pending (d : Nat) (f : Fld) (v : Nat) : (s.put64 d f v).pending = s.pending := rfl

@[simp] theorem State.bput64_variant (r d : Nat) (f : Fld) (v : Nat) : (s.bput64 r d f v).variant = s.variant := rfl
@[simp] theorem State.bput64_now (r d : Nat) (f : Fld) (v : Nat) : (s.bput64 r d f v).now = s.now := rfl
@[simp] theorem State.bput64_freeCtr (r d : Nat) (f : Fld) (v : Nat) : (s.bput64 r d f v).freeCtr = s.freeCtr := rfl
@[simp] theorem State.bput64_mastA (r d : Nat) (f : Fld) (v : Nat) : (s.bput64 r d f v).mastA = s.mastA := rfl
@[simp] theorem State.bput64_mastB (r d : Nat) (f : Fld) (v : Nat) : (s.bput64 r d f v).mastB = s.mastB := rfl
@[simp] theorem State.bput64_sails (r d : Nat) (f : Fld) (v : Nat) : (s.bput64 r d f v).sails = s.sails := rfl
@[simp] theorem State.bput64_conns (r d : Nat) (f : Fld) (v : Nat) : (s.bput64 r d f v).conns = s.conns := rfl
@[simp] theorem State.bput64_profAct (r d : Nat) (f : Fld) (v : Nat) : (s.bput64 r d f v).profAct = s.profAct := rfl
@[simp] theorem State.bput64_profPend (r d : Nat) (f : Fld) (v : Nat) : (s.bput64 r d f v).profPend = s.profPend := rfl
@[simp] theorem State.bput64_timerAt (r d : Nat) (f : Fld) (v : Nat) : (s.bput64 r d f v).timerAt = s.timerAt := rfl
@[simp] theorem State.bput64_timerRem (r d : Nat) (f : Fld) (v : Nat) : (s.bput64 r d f v).timerRem = s.timerRem := rfl
@[simp] theorem State.bput64_halted (r d : Nat) (f : Fld) (v : Nat) : (s.bput64 r d f v).halted = s.halted := rfl
@[simp] theorem State.bput64_convs (r d : Nat) (f : Fld) (v : Nat) : (s.bput64 r d f v).convs = s.convs := rfl
@[simp] theorem State.bput64_shadow (r d : Nat) (f : Fld) (v : Nat) : (s.bput64 r d f v).shadow = s.shadow := rfl
@[simp] theorem State.bput64_phase (r d : Nat) (f : Fld) (v : Nat) : (s.bput64 r d f v).phase = s.phase := rfl
@[simp] theorem State.bput64_refValid (r d : Nat) (f : Fld) (v : Nat) : (s.bput64 r d f v).refValid = s.refValid := rfl
@[simp] theorem State.bput64_browned (r d : Nat) (f : Fld) (v : Nat) : (s.bput64 r d f v).browned = s.browned := rfl
@[simp] theorem State.bput64_testEn (r d : Nat) (f : Fld) (v : Nat) : (s.bput64 r d f v).testEn = s.testEn := rfl
@[simp] theorem State.bput64_lowpwr (r d : Nat) (f : Fld) (v : Nat) : (s.bput64 r d f v).lowpwr = s.lowpwr := rfl
@[simp] theorem State.bput64_reefed (r d : Nat) (f : Fld) (v : Nat) : (s.bput64 r d f v).reefed = s.reefed := rfl
@[simp] theorem State.bput64_tap (r d : Nat) (f : Fld) (v : Nat) : (s.bput64 r d f v).tap = s.tap := rfl
@[simp] theorem State.bput64_out (r d : Nat) (f : Fld) (v : Nat) : (s.bput64 r d f v).out = s.out := rfl
@[simp] theorem State.bput64_pending (r d : Nat) (f : Fld) (v : Nat) : (s.bput64 r d f v).pending = s.pending := rfl

@[simp] theorem State.count_variant (d : Nat) (f : Fld) (n : Nat) : (s.count d f n).variant = s.variant := rfl
@[simp] theorem State.count_now (d : Nat) (f : Fld) (n : Nat) : (s.count d f n).now = s.now := rfl
@[simp] theorem State.count_freeCtr (d : Nat) (f : Fld) (n : Nat) : (s.count d f n).freeCtr = s.freeCtr := rfl
@[simp] theorem State.count_mastA (d : Nat) (f : Fld) (n : Nat) : (s.count d f n).mastA = s.mastA := rfl
@[simp] theorem State.count_mastB (d : Nat) (f : Fld) (n : Nat) : (s.count d f n).mastB = s.mastB := rfl
@[simp] theorem State.count_sails (d : Nat) (f : Fld) (n : Nat) : (s.count d f n).sails = s.sails := rfl
@[simp] theorem State.count_conns (d : Nat) (f : Fld) (n : Nat) : (s.count d f n).conns = s.conns := rfl
@[simp] theorem State.count_profAct (d : Nat) (f : Fld) (n : Nat) : (s.count d f n).profAct = s.profAct := rfl
@[simp] theorem State.count_profPend (d : Nat) (f : Fld) (n : Nat) : (s.count d f n).profPend = s.profPend := rfl
@[simp] theorem State.count_timerAt (d : Nat) (f : Fld) (n : Nat) : (s.count d f n).timerAt = s.timerAt := rfl
@[simp] theorem State.count_timerRem (d : Nat) (f : Fld) (n : Nat) : (s.count d f n).timerRem = s.timerRem := rfl
@[simp] theorem State.count_halted (d : Nat) (f : Fld) (n : Nat) : (s.count d f n).halted = s.halted := rfl
@[simp] theorem State.count_convs (d : Nat) (f : Fld) (n : Nat) : (s.count d f n).convs = s.convs := rfl
@[simp] theorem State.count_shadow (d : Nat) (f : Fld) (n : Nat) : (s.count d f n).shadow = s.shadow := rfl
@[simp] theorem State.count_phase (d : Nat) (f : Fld) (n : Nat) : (s.count d f n).phase = s.phase := rfl
@[simp] theorem State.count_refValid (d : Nat) (f : Fld) (n : Nat) : (s.count d f n).refValid = s.refValid := rfl
@[simp] theorem State.count_browned (d : Nat) (f : Fld) (n : Nat) : (s.count d f n).browned = s.browned := rfl
@[simp] theorem State.count_testEn (d : Nat) (f : Fld) (n : Nat) : (s.count d f n).testEn = s.testEn := rfl
@[simp] theorem State.count_lowpwr (d : Nat) (f : Fld) (n : Nat) : (s.count d f n).lowpwr = s.lowpwr := rfl
@[simp] theorem State.count_reefed (d : Nat) (f : Fld) (n : Nat) : (s.count d f n).reefed = s.reefed := rfl
@[simp] theorem State.count_tap (d : Nat) (f : Fld) (n : Nat) : (s.count d f n).tap = s.tap := rfl
@[simp] theorem State.count_out (d : Nat) (f : Fld) (n : Nat) : (s.count d f n).out = s.out := rfl
@[simp] theorem State.count_pending (d : Nat) (f : Fld) (n : Nat) : (s.count d f n).pending = s.pending := rfl

@[simp] theorem State.bump_variant (d : Nat) (f : Fld) : (s.bump d f).variant = s.variant := rfl
@[simp] theorem State.bump_now (d : Nat) (f : Fld) : (s.bump d f).now = s.now := rfl
@[simp] theorem State.bump_freeCtr (d : Nat) (f : Fld) : (s.bump d f).freeCtr = s.freeCtr := rfl
@[simp] theorem State.bump_mastA (d : Nat) (f : Fld) : (s.bump d f).mastA = s.mastA := rfl
@[simp] theorem State.bump_mastB (d : Nat) (f : Fld) : (s.bump d f).mastB = s.mastB := rfl
@[simp] theorem State.bump_sails (d : Nat) (f : Fld) : (s.bump d f).sails = s.sails := rfl
@[simp] theorem State.bump_conns (d : Nat) (f : Fld) : (s.bump d f).conns = s.conns := rfl
@[simp] theorem State.bump_profAct (d : Nat) (f : Fld) : (s.bump d f).profAct = s.profAct := rfl
@[simp] theorem State.bump_profPend (d : Nat) (f : Fld) : (s.bump d f).profPend = s.profPend := rfl
@[simp] theorem State.bump_timerAt (d : Nat) (f : Fld) : (s.bump d f).timerAt = s.timerAt := rfl
@[simp] theorem State.bump_timerRem (d : Nat) (f : Fld) : (s.bump d f).timerRem = s.timerRem := rfl
@[simp] theorem State.bump_halted (d : Nat) (f : Fld) : (s.bump d f).halted = s.halted := rfl
@[simp] theorem State.bump_convs (d : Nat) (f : Fld) : (s.bump d f).convs = s.convs := rfl
@[simp] theorem State.bump_shadow (d : Nat) (f : Fld) : (s.bump d f).shadow = s.shadow := rfl
@[simp] theorem State.bump_phase (d : Nat) (f : Fld) : (s.bump d f).phase = s.phase := rfl
@[simp] theorem State.bump_refValid (d : Nat) (f : Fld) : (s.bump d f).refValid = s.refValid := rfl
@[simp] theorem State.bump_browned (d : Nat) (f : Fld) : (s.bump d f).browned = s.browned := rfl
@[simp] theorem State.bump_testEn (d : Nat) (f : Fld) : (s.bump d f).testEn = s.testEn := rfl
@[simp] theorem State.bump_lowpwr (d : Nat) (f : Fld) : (s.bump d f).lowpwr = s.lowpwr := rfl
@[simp] theorem State.bump_reefed (d : Nat) (f : Fld) : (s.bump d f).reefed = s.reefed := rfl
@[simp] theorem State.bump_tap (d : Nat) (f : Fld) : (s.bump d f).tap = s.tap := rfl
@[simp] theorem State.bump_out (d : Nat) (f : Fld) : (s.bump d f).out = s.out := rfl
@[simp] theorem State.bump_pending (d : Nat) (f : Fld) : (s.bump d f).pending = s.pending := rfl

@[simp] theorem State.setBit_variant (d a b : Nat) : (s.setBit d a b).variant = s.variant := rfl
@[simp] theorem State.setBit_now (d a b : Nat) : (s.setBit d a b).now = s.now := rfl
@[simp] theorem State.setBit_freeCtr (d a b : Nat) : (s.setBit d a b).freeCtr = s.freeCtr := rfl
@[simp] theorem State.setBit_mastA (d a b : Nat) : (s.setBit d a b).mastA = s.mastA := rfl
@[simp] theorem State.setBit_mastB (d a b : Nat) : (s.setBit d a b).mastB = s.mastB := rfl
@[simp] theorem State.setBit_sails (d a b : Nat) : (s.setBit d a b).sails = s.sails := rfl
@[simp] theorem State.setBit_conns (d a b : Nat) : (s.setBit d a b).conns = s.conns := rfl
@[simp] theorem State.setBit_profAct (d a b : Nat) : (s.setBit d a b).profAct = s.profAct := rfl
@[simp] theorem State.setBit_profPend (d a b : Nat) : (s.setBit d a b).profPend = s.profPend := rfl
@[simp] theorem State.setBit_timerAt (d a b : Nat) : (s.setBit d a b).timerAt = s.timerAt := rfl
@[simp] theorem State.setBit_timerRem (d a b : Nat) : (s.setBit d a b).timerRem = s.timerRem := rfl
@[simp] theorem State.setBit_halted (d a b : Nat) : (s.setBit d a b).halted = s.halted := rfl
@[simp] theorem State.setBit_convs (d a b : Nat) : (s.setBit d a b).convs = s.convs := rfl
@[simp] theorem State.setBit_shadow (d a b : Nat) : (s.setBit d a b).shadow = s.shadow := rfl
@[simp] theorem State.setBit_phase (d a b : Nat) : (s.setBit d a b).phase = s.phase := rfl
@[simp] theorem State.setBit_refValid (d a b : Nat) : (s.setBit d a b).refValid = s.refValid := rfl
@[simp] theorem State.setBit_browned (d a b : Nat) : (s.setBit d a b).browned = s.browned := rfl
@[simp] theorem State.setBit_testEn (d a b : Nat) : (s.setBit d a b).testEn = s.testEn := rfl
@[simp] theorem State.setBit_lowpwr (d a b : Nat) : (s.setBit d a b).lowpwr = s.lowpwr := rfl
@[simp] theorem State.setBit_reefed (d a b : Nat) : (s.setBit d a b).reefed = s.reefed := rfl
@[simp] theorem State.setBit_tap (d a b : Nat) : (s.setBit d a b).tap = s.tap := rfl
@[simp] theorem State.setBit_out (d a b : Nat) : (s.setBit d a b).out = s.out := rfl
@[simp] theorem State.setBit_pending (d a b : Nat) : (s.setBit d a b).pending = s.pending := rfl

@[simp] theorem State.raise_variant (d : Nat) (f : Fld) (v : Nat) : (s.raise d f v).variant = s.variant := by unfold State.raise; split <;> rfl
@[simp] theorem State.raise_now (d : Nat) (f : Fld) (v : Nat) : (s.raise d f v).now = s.now := by unfold State.raise; split <;> rfl
@[simp] theorem State.raise_freeCtr (d : Nat) (f : Fld) (v : Nat) : (s.raise d f v).freeCtr = s.freeCtr := by unfold State.raise; split <;> rfl
@[simp] theorem State.raise_mastA (d : Nat) (f : Fld) (v : Nat) : (s.raise d f v).mastA = s.mastA := by unfold State.raise; split <;> rfl
@[simp] theorem State.raise_mastB (d : Nat) (f : Fld) (v : Nat) : (s.raise d f v).mastB = s.mastB := by unfold State.raise; split <;> rfl
@[simp] theorem State.raise_sails (d : Nat) (f : Fld) (v : Nat) : (s.raise d f v).sails = s.sails := by unfold State.raise; split <;> rfl
@[simp] theorem State.raise_conns (d : Nat) (f : Fld) (v : Nat) : (s.raise d f v).conns = s.conns := by unfold State.raise; split <;> rfl
@[simp] theorem State.raise_profAct (d : Nat) (f : Fld) (v : Nat) : (s.raise d f v).profAct = s.profAct := by unfold State.raise; split <;> rfl
@[simp] theorem State.raise_profPend (d : Nat) (f : Fld) (v : Nat) : (s.raise d f v).profPend = s.profPend := by unfold State.raise; split <;> rfl
@[simp] theorem State.raise_timerAt (d : Nat) (f : Fld) (v : Nat) : (s.raise d f v).timerAt = s.timerAt := by unfold State.raise; split <;> rfl
@[simp] theorem State.raise_timerRem (d : Nat) (f : Fld) (v : Nat) : (s.raise d f v).timerRem = s.timerRem := by unfold State.raise; split <;> rfl
@[simp] theorem State.raise_halted (d : Nat) (f : Fld) (v : Nat) : (s.raise d f v).halted = s.halted := by unfold State.raise; split <;> rfl
@[simp] theorem State.raise_convs (d : Nat) (f : Fld) (v : Nat) : (s.raise d f v).convs = s.convs := by unfold State.raise; split <;> rfl
@[simp] theorem State.raise_shadow (d : Nat) (f : Fld) (v : Nat) : (s.raise d f v).shadow = s.shadow := by unfold State.raise; split <;> rfl
@[simp] theorem State.raise_phase (d : Nat) (f : Fld) (v : Nat) : (s.raise d f v).phase = s.phase := by unfold State.raise; split <;> rfl
@[simp] theorem State.raise_refValid (d : Nat) (f : Fld) (v : Nat) : (s.raise d f v).refValid = s.refValid := by unfold State.raise; split <;> rfl
@[simp] theorem State.raise_browned (d : Nat) (f : Fld) (v : Nat) : (s.raise d f v).browned = s.browned := by unfold State.raise; split <;> rfl
@[simp] theorem State.raise_testEn (d : Nat) (f : Fld) (v : Nat) : (s.raise d f v).testEn = s.testEn := by unfold State.raise; split <;> rfl
@[simp] theorem State.raise_lowpwr (d : Nat) (f : Fld) (v : Nat) : (s.raise d f v).lowpwr = s.lowpwr := by unfold State.raise; split <;> rfl
@[simp] theorem State.raise_reefed (d : Nat) (f : Fld) (v : Nat) : (s.raise d f v).reefed = s.reefed := by unfold State.raise; split <;> rfl
@[simp] theorem State.raise_tap (d : Nat) (f : Fld) (v : Nat) : (s.raise d f v).tap = s.tap := by unfold State.raise; split <;> rfl
@[simp] theorem State.raise_out (d : Nat) (f : Fld) (v : Nat) : (s.raise d f v).out = s.out := by unfold State.raise; split <;> rfl
@[simp] theorem State.raise_pending (d : Nat) (f : Fld) (v : Nat) : (s.raise d f v).pending = s.pending := by unfold State.raise; split <;> rfl

@[simp] theorem State.setMast_variant (m : Nat) (x : Mast) : (s.setMast m x).variant = s.variant := by unfold State.setMast; split <;> rfl
@[simp] theorem State.setMast_now (m : Nat) (x : Mast) : (s.setMast m x).now = s.now := by unfold State.setMast; split <;> rfl
@[simp] theorem State.setMast_freeCtr (m : Nat) (x : Mast) : (s.setMast m x).freeCtr = s.freeCtr := by unfold State.setMast; split <;> rfl
@[simp] theorem State.setMast_sails (m : Nat) (x : Mast) : (s.setMast m x).sails = s.sails := by unfold State.setMast; split <;> rfl
@[simp] theorem State.setMast_conns (m : Nat) (x : Mast) : (s.setMast m x).conns = s.conns := by unfold State.setMast; split <;> rfl
@[simp] theorem State.setMast_profAct (m : Nat) (x : Mast) : (s.setMast m x).profAct = s.profAct := by unfold State.setMast; split <;> rfl
@[simp] theorem State.setMast_profPend (m : Nat) (x : Mast) : (s.setMast m x).profPend = s.profPend := by unfold State.setMast; split <;> rfl
@[simp] theorem State.setMast_timerAt (m : Nat) (x : Mast) : (s.setMast m x).timerAt = s.timerAt := by unfold State.setMast; split <;> rfl
@[simp] theorem State.setMast_timerRem (m : Nat) (x : Mast) : (s.setMast m x).timerRem = s.timerRem := by unfold State.setMast; split <;> rfl
@[simp] theorem State.setMast_halted (m : Nat) (x : Mast) : (s.setMast m x).halted = s.halted := by unfold State.setMast; split <;> rfl
@[simp] theorem State.setMast_convs (m : Nat) (x : Mast) : (s.setMast m x).convs = s.convs := by unfold State.setMast; split <;> rfl
@[simp] theorem State.setMast_shadow (m : Nat) (x : Mast) : (s.setMast m x).shadow = s.shadow := by unfold State.setMast; split <;> rfl
@[simp] theorem State.setMast_phase (m : Nat) (x : Mast) : (s.setMast m x).phase = s.phase := by unfold State.setMast; split <;> rfl
@[simp] theorem State.setMast_refValid (m : Nat) (x : Mast) : (s.setMast m x).refValid = s.refValid := by unfold State.setMast; split <;> rfl
@[simp] theorem State.setMast_browned (m : Nat) (x : Mast) : (s.setMast m x).browned = s.browned := by unfold State.setMast; split <;> rfl
@[simp] theorem State.setMast_testEn (m : Nat) (x : Mast) : (s.setMast m x).testEn = s.testEn := by unfold State.setMast; split <;> rfl
@[simp] theorem State.setMast_lowpwr (m : Nat) (x : Mast) : (s.setMast m x).lowpwr = s.lowpwr := by unfold State.setMast; split <;> rfl
@[simp] theorem State.setMast_reefed (m : Nat) (x : Mast) : (s.setMast m x).reefed = s.reefed := by unfold State.setMast; split <;> rfl
@[simp] theorem State.setMast_tap (m : Nat) (x : Mast) : (s.setMast m x).tap = s.tap := by unfold State.setMast; split <;> rfl
@[simp] theorem State.setMast_out (m : Nat) (x : Mast) : (s.setMast m x).out = s.out := by unfold State.setMast; split <;> rfl
@[simp] theorem State.setMast_pending (m : Nat) (x : Mast) : (s.setMast m x).pending = s.pending := by unfold State.setMast; split <;> rfl
@[simp] theorem State.setMast_regs (m : Nat) (x : Mast) : (s.setMast m x).regs = s.regs := by unfold State.setMast; split <;> rfl

@[simp] theorem State.setConn_variant (c : Nat) (x : Conn) : (s.setConn c x).variant = s.variant := rfl
@[simp] theorem State.setConn_now (c : Nat) (x : Conn) : (s.setConn c x).now = s.now := rfl
@[simp] theorem State.setConn_freeCtr (c : Nat) (x : Conn) : (s.setConn c x).freeCtr = s.freeCtr := rfl
@[simp] theorem State.setConn_mastA (c : Nat) (x : Conn) : (s.setConn c x).mastA = s.mastA := rfl
@[simp] theorem State.setConn_mastB (c : Nat) (x : Conn) : (s.setConn c x).mastB = s.mastB := rfl
@[simp] theorem State.setConn_sails (c : Nat) (x : Conn) : (s.setConn c x).sails = s.sails := rfl
@[simp] theorem State.setConn_profAct (c : Nat) (x : Conn) : (s.setConn c x).profAct = s.profAct := rfl
@[simp] theorem State.setConn_profPend (c : Nat) (x : Conn) : (s.setConn c x).profPend = s.profPend := rfl
@[simp] theorem State.setConn_timerAt (c : Nat) (x : Conn) : (s.setConn c x).timerAt = s.timerAt := rfl
@[simp] theorem State.setConn_timerRem (c : Nat) (x : Conn) : (s.setConn c x).timerRem = s.timerRem := rfl
@[simp] theorem State.setConn_halted (c : Nat) (x : Conn) : (s.setConn c x).halted = s.halted := rfl
@[simp] theorem State.setConn_convs (c : Nat) (x : Conn) : (s.setConn c x).convs = s.convs := rfl
@[simp] theorem State.setConn_shadow (c : Nat) (x : Conn) : (s.setConn c x).shadow = s.shadow := rfl
@[simp] theorem State.setConn_phase (c : Nat) (x : Conn) : (s.setConn c x).phase = s.phase := rfl
@[simp] theorem State.setConn_refValid (c : Nat) (x : Conn) : (s.setConn c x).refValid = s.refValid := rfl
@[simp] theorem State.setConn_browned (c : Nat) (x : Conn) : (s.setConn c x).browned = s.browned := rfl
@[simp] theorem State.setConn_testEn (c : Nat) (x : Conn) : (s.setConn c x).testEn = s.testEn := rfl
@[simp] theorem State.setConn_lowpwr (c : Nat) (x : Conn) : (s.setConn c x).lowpwr = s.lowpwr := rfl
@[simp] theorem State.setConn_reefed (c : Nat) (x : Conn) : (s.setConn c x).reefed = s.reefed := rfl
@[simp] theorem State.setConn_tap (c : Nat) (x : Conn) : (s.setConn c x).tap = s.tap := rfl
@[simp] theorem State.setConn_out (c : Nat) (x : Conn) : (s.setConn c x).out = s.out := rfl
@[simp] theorem State.setConn_pending (c : Nat) (x : Conn) : (s.setConn c x).pending = s.pending := rfl
@[simp] theorem State.setConn_regs (c : Nat) (x : Conn) : (s.setConn c x).regs = s.regs := rfl

@[simp] theorem State.emit_variant (o : Out) : (s.emit o).variant = s.variant := rfl
@[simp] theorem State.emit_now (o : Out) : (s.emit o).now = s.now := rfl
@[simp] theorem State.emit_freeCtr (o : Out) : (s.emit o).freeCtr = s.freeCtr := rfl
@[simp] theorem State.emit_mastA (o : Out) : (s.emit o).mastA = s.mastA := rfl
@[simp] theorem State.emit_mastB (o : Out) : (s.emit o).mastB = s.mastB := rfl
@[simp] theorem State.emit_sails (o : Out) : (s.emit o).sails = s.sails := rfl
@[simp] theorem State.emit_conns (o : Out) : (s.emit o).conns = s.conns := rfl
@[simp] theorem State.emit_profAct (o : Out) : (s.emit o).profAct = s.profAct := rfl
@[simp] theorem State.emit_profPend (o : Out) : (s.emit o).profPend = s.profPend := rfl
@[simp] theorem State.emit_timerAt (o : Out) : (s.emit o).timerAt = s.timerAt := rfl
@[simp] theorem State.emit_timerRem (o : Out) : (s.emit o).timerRem = s.timerRem := rfl
@[simp] theorem State.emit_halted (o : Out) : (s.emit o).halted = s.halted := rfl
@[simp] theorem State.emit_convs (o : Out) : (s.emit o).convs = s.convs := rfl
@[simp] theorem State.emit_shadow (o : Out) : (s.emit o).shadow = s.shadow := rfl
@[simp] theorem State.emit_phase (o : Out) : (s.emit o).phase = s.phase := rfl
@[simp] theorem State.emit_refValid (o : Out) : (s.emit o).refValid = s.refValid := rfl
@[simp] theorem State.emit_browned (o : Out) : (s.emit o).browned = s.browned := rfl
@[simp] theorem State.emit_testEn (o : Out) : (s.emit o).testEn = s.testEn := rfl
@[simp] theorem State.emit_lowpwr (o : Out) : (s.emit o).lowpwr = s.lowpwr := rfl
@[simp] theorem State.emit_reefed (o : Out) : (s.emit o).reefed = s.reefed := rfl
@[simp] theorem State.emit_tap (o : Out) : (s.emit o).tap = s.tap := rfl
@[simp] theorem State.emit_pending (o : Out) : (s.emit o).pending = s.pending := rfl
@[simp] theorem State.emit_regs (o : Out) : (s.emit o).regs = s.regs := rfl

/-! ## Words -/

@[simp] theorem State.word_setWord_self (k : Nat) (w : Word) : (s.setWord k w).word k = w := Tbl.get_set_self _ _ _ _

theorem State.word_setWord_other {k n : Nat} (w : Word) (h : n ≠ k) : (s.setWord k w).word n = s.word n := Tbl.get_set_other _ _ _ h

theorem State.word_setWord (k n : Nat) (w : Word) : (s.setWord k w).word n = if n = k then w else s.word n := Tbl.get_set _ _ _ _ _

/-- A write of a field reads back in its word. -/
@[simp] theorem State.word_put_self (d : Nat) (f : Fld) (v : Nat) :
    (s.put d f v).word (key d f.addr) = withField (s.word (key d f.addr)) f.hi f.lo v := State.word_setWord_self _ _ _

theorem State.word_put_other (d : Nat) (f : Fld) (v : Nat) {n : Nat} (h : n ≠ key d f.addr) : (s.put d f v).word n = s.word n :=
  State.word_setWord_other _ _ h

@[simp] theorem State.word_setMast (m : Nat) (x : Mast) (n : Nat) : (s.setMast m x).word n = s.word n := by
  unfold State.setMast; split <;> rfl

@[simp] theorem State.word_setConn (c : Nat) (x : Conn) (n : Nat) : (s.setConn c x).word n = s.word n := rfl

@[simp] theorem State.word_emit (o : Out) (n : Nat) : (s.emit o).word n = s.word n := rfl

/-! ## Fields of a word -/

/-- A field of a word reads as it was written, cut to its width. -/
theorem fieldOf_withField (w : Word) (hi lo v : Nat) (h : lo ≤ hi) (b : hi < 32) : fieldOf (withField w hi lo v) hi lo = v % 2 ^ (hi + 1 - lo) := by
  unfold fieldOf withField
  have hw := w.isLt
  generalize w.toNat = x at *
  obtain ⟨n, e⟩ : ∃ n, hi + 1 = lo + n := ⟨hi + 1 - lo, by omega⟩
  have e2 : lo + n - lo = n := by omega
  have e3 : lo + n ≤ 32 := by omega
  rw [e, e2]
  have hlt : x / 2 ^ (lo + n) * 2 ^ (lo + n) + v % 2 ^ n * 2 ^ lo + x % 2 ^ lo < 2 ^ 32 := by
    have h1 : v % 2 ^ n ≤ 2 ^ n - 1 := by have := Nat.mod_lt v (Nat.two_pow_pos n); omega
    have h2 : x % 2 ^ lo < 2 ^ lo := Nat.mod_lt _ (Nat.two_pow_pos lo)
    have h3 : v % 2 ^ n * 2 ^ lo ≤ (2 ^ n - 1) * 2 ^ lo := Nat.mul_le_mul_right _ h1
    have h4 : (2 ^ n - 1) * 2 ^ lo + 2 ^ lo = 2 ^ (lo + n) := by
      have := Nat.two_pow_pos n
      rw [← Nat.succ_mul, Nat.succ_eq_add_one, Nat.sub_add_cancel this, Nat.pow_add, Nat.mul_comm]
    have h5 : x / 2 ^ (lo + n) < 2 ^ (32 - (lo + n)) := by
      rw [Nat.div_lt_iff_lt_mul (Nat.two_pow_pos _), ← Nat.pow_add]
      rwa [show 32 - (lo + n) + (lo + n) = 32 by omega]
    have h6 : (x / 2 ^ (lo + n) + 1) * 2 ^ (lo + n) ≤ 2 ^ (32 - (lo + n)) * 2 ^ (lo + n) := Nat.mul_le_mul_right _ h5
    rw [← Nat.pow_add, show 32 - (lo + n) + (lo + n) = 32 by omega, Nat.add_mul] at h6
    omega
  rw [Word.ofNat, BitVec.toNat_ofNat, Nat.mod_eq_of_lt hlt]
  have h2 : x % 2 ^ lo < 2 ^ lo := Nat.mod_lt _ (Nat.two_pow_pos lo)
  have h7 : x / 2 ^ (lo + n) * 2 ^ (lo + n) + v % 2 ^ n * 2 ^ lo + x % 2 ^ lo
      = x % 2 ^ lo + 2 ^ lo * (x / 2 ^ (lo + n) * 2 ^ n + v % 2 ^ n) := by
    simp only [Nat.pow_add, Nat.mul_add, Nat.mul_assoc, Nat.mul_comm, Nat.mul_left_comm, Nat.add_comm, Nat.add_left_comm]
  rw [h7, Nat.add_mul_div_left _ _ (Nat.two_pow_pos lo), Nat.div_eq_of_lt h2, Nat.zero_add, Nat.add_comm, Nat.add_mul_mod_self_right, Nat.mod_mod]

/-- A field reads as hardware wrote it. -/
theorem State.get_put_self (d : Nat) (f : Fld) (v : Nat) (h : f.lo ≤ f.hi) (b : f.hi < 32) : (s.put d f v).get d f = v % 2 ^ (f.hi + 1 - f.lo) := by
  unfold State.get; rw [State.word_put_self, fieldOf_withField _ _ _ _ h b]

/-- A write of a field leaves the fields of every other word alone. -/
theorem State.get_put_other (d e : Nat) (f g : Fld) (v : Nat) (h : key e g.addr ≠ key d f.addr) : (s.put d f v).get e g = s.get e g := by
  unfold State.get; rw [State.word_put_other s d f v h]

/-! ## Masts -/

@[simp] theorem State.mast_setMast_self (m : Nat) (x : Mast) : (s.setMast m x).mast m = x := by
  unfold State.setMast State.mast; split <;> simp_all

@[simp] theorem State.mast_setWord (k : Nat) (w : Word) (m : Nat) : (s.setWord k w).mast m = s.mast m := rfl

@[simp] theorem State.mast_put (d : Nat) (f : Fld) (v m : Nat) : (s.put d f v).mast m = s.mast m := rfl

@[simp] theorem State.mast_bput (r d : Nat) (f : Fld) (v m : Nat) : (s.bput r d f v).mast m = s.mast m := rfl

@[simp] theorem State.mast_count (d : Nat) (f : Fld) (n m : Nat) : (s.count d f n).mast m = s.mast m := rfl

@[simp] theorem State.mast_bump (d : Nat) (f : Fld) (m : Nat) : (s.bump d f).mast m = s.mast m := rfl

@[simp] theorem State.mast_setConn (c : Nat) (x : Conn) (m : Nat) : (s.setConn c x).mast m = s.mast m := rfl

@[simp] theorem State.mast_emit (o : Out) (m : Nat) : (s.emit o).mast m = s.mast m := rfl

end Sys2Proof.Machine
end

