-- ==== Sys2Proof/Laws/Ops.lean ====
section
/-! SUPPORT. What the shared operations do: an access that passes its checks, a write that is no input of a pair, a counter, an event bit of a
mast, and fields that share a word. -/

namespace Sys2Proof.Machine


/-- A direct register write takes place on the mast it names. -/
theorem State.hostOn_direct {s : State} {m r page off width value : Nat} {body : Body} {f : Nat → State → State} (h : s.Direct m r) :
    s.hostOn m r page off width value body f = f m s := by
  obtain ⟨h1, h2⟩ := h
  have h3 : m ≠ 2 := by omega
  unfold State.hostOn
  simp only [h3, if_false]
  rw [if_neg]
  rintro ⟨a, b, c, d⟩
  rcases h2 with h2 | h2 | h2
  · omega
  · simp [h2] at c
  · exact h2 d

/-- An access that passes every check acts. -/
theorem State.action_reaches {s : State} {m page off r width full : Nat} {w : Bool} {act : State → State}
    (h : s.Reaches m page off r w width full) : s.action m page off r w width full act = act s := by
  obtain ⟨h1, h2, h3, h4, h5⟩ := h
  unfold State.action
  rw [if_neg (by simp [h1]; omega), if_neg (by simp [h3]), if_neg (by simp [h4]), if_neg (by omega), if_neg (by omega)]

/-- Sending a vector changes no word but MSIX_SENT. -/
theorem State.word_irqEdge {b s : State} {m p k : Nat} (hm : m < 2) (hx : k ≠ key m F.IRQ_MSIX_SENT.addr) :
    (State.irqEdge b s m p).word k = s.word k := by
  unfold State.irqEdge
  rw [if_pos hm]
  dsimp only
  split
  · unfold State.vecSend
    split
    · split
      · simp
      · show ((s.bump m F.IRQ_MSIX_SENT).word k) = _
        unfold State.bump State.count; rw [State.word_put_other _ _ _ _ hx]
    · rfl
  · rfl

/-- An event bit of a mast: its IRQ_STATUS gains the bit, and no other word but MSIX_SENT changes. -/
theorem State.word_irq {s : State} {m p b k : Nat} (hm : m < 2) (hx : k ≠ key m F.IRQ_MSIX_SENT.addr) :
    (s.irq m p b).word k = if k = key m (p * 4096 + 0x010) then s.word k ||| Word.ofNat (2 ^ b) else s.word k := by
  unfold State.irq
  rw [State.word_irqEdge hm hx, State.word_setWord]
  split
  · rename_i h; rw [h]
  · rfl

/-- An event bit of a mast leaves every other field alone. -/
theorem State.get_irq {s : State} {m p b d : Nat} {f : Fld} (hm : m < 2) (hx : key d f.addr ≠ key m F.IRQ_MSIX_SENT.addr)
    (hk : key d f.addr ≠ key m (p * 4096 + 0x010)) : (s.irq m p b).get d f = s.get d f := by
  unfold State.get; rw [State.word_irq hm hx, if_neg hk]

/-- A counter leaves every other word alone. -/
theorem State.word_bump {s : State} {d k : Nat} {f : Fld} (h : k ≠ key d f.addr) : (s.bump d f).word k = s.word k :=
  State.word_put_other _ _ _ _ h

/-- A counter leaves the fields of every other word alone. -/
theorem State.get_bump_other {s : State} {d e : Nat} {f g : Fld} (h : key e g.addr ≠ key d f.addr) : (s.bump d f).get e g = s.get e g :=
  State.get_put_other _ _ _ _ _ _ h

/-- A counter counts once, saturating. -/
theorem State.get_bump {s : State} {d : Nat} {f : Fld} (h : f.lo ≤ f.hi) (b : f.hi < 32) :
    (s.bump d f).get d f = satInc (f.hi + 1 - f.lo) (s.get d f) := by
  unfold State.bump State.count satInc
  rw [State.get_put_self _ _ _ _ h b]
  apply Nat.mod_eq_of_lt
  have := Nat.two_pow_pos (f.hi + 1 - f.lo)
  omega

/-- The bits of a word with a field replaced. -/
theorem withField_testBit (w : Word) (hi lo v i : Nat) (h : lo ≤ hi) (b : hi < 32) :
    (withField w hi lo v).toNat.testBit i = if i < lo ∨ hi < i then w.toNat.testBit i else v.testBit (i - lo) := by
  have hw := w.isLt
  unfold withField
  have e : (Word.ofNat (w.toNat / 2 ^ (hi + 1) * 2 ^ (hi + 1) + v % 2 ^ (hi + 1 - lo) * 2 ^ lo + w.toNat % 2 ^ lo)).toNat
     = w.toNat / 2 ^ (hi + 1) * 2 ^ (hi + 1) + v % 2 ^ (hi + 1 - lo) * 2 ^ lo + w.toNat % 2 ^ lo := by
    rw [BitVec.toNat_ofNat]; apply Nat.mod_eq_of_lt
    have a1 : v % 2 ^ (hi + 1 - lo) < 2 ^ (hi + 1 - lo) := Nat.mod_lt _ (Nat.two_pow_pos _)
    have a2 : w.toNat % 2 ^ lo < 2 ^ lo := Nat.mod_lt _ (Nat.two_pow_pos _)
    have a3 : (2:Nat) ^ (hi + 1) = 2 ^ (hi + 1 - lo) * 2 ^ lo := by rw [← Nat.pow_add]; congr 1; omega
    have a4 : (2:Nat) ^ 32 = 2 ^ (31 - hi) * 2 ^ (hi + 1) := by rw [← Nat.pow_add]; congr 1; omega
    have a5 : w.toNat / 2 ^ (hi + 1) < 2 ^ (31 - hi) := by
      rw [Nat.div_lt_iff_lt_mul (Nat.two_pow_pos _), ← a4]; exact hw
    have a6 : v % 2 ^ (hi + 1 - lo) * 2 ^ lo + w.toNat % 2 ^ lo < 2 ^ (hi + 1) := by
      rw [a3]
      calc _ < v % 2 ^ (hi + 1 - lo) * 2 ^ lo + 2 ^ lo := by omega
        _ = (v % 2 ^ (hi + 1 - lo) + 1) * 2 ^ lo := by rw [Nat.succ_mul]
        _ ≤ _ := Nat.mul_le_mul_right _ a1
    calc _ = w.toNat / 2 ^ (hi + 1) * 2 ^ (hi + 1) + (v % 2 ^ (hi + 1 - lo) * 2 ^ lo + w.toNat % 2 ^ lo) := by omega
      _ < w.toNat / 2 ^ (hi + 1) * 2 ^ (hi + 1) + 2 ^ (hi + 1) := by omega
      _ = (w.toNat / 2 ^ (hi + 1) + 1) * 2 ^ (hi + 1) := by rw [Nat.succ_mul]
      _ ≤ 2 ^ (31 - hi) * 2 ^ (hi + 1) := Nat.mul_le_mul_right _ a5
      _ = 2 ^ 32 := a4.symm
  rw [e]
  have a2 : w.toNat % 2 ^ lo < 2 ^ lo := Nat.mod_lt _ (Nat.two_pow_pos _)
  have a3 : (2:Nat) ^ (hi + 1) = 2 ^ (hi + 1 - lo) * 2 ^ lo := by rw [← Nat.pow_add]; congr 1; omega
  have e2 : w.toNat / 2 ^ (hi + 1) * 2 ^ (hi + 1) + v % 2 ^ (hi + 1 - lo) * 2 ^ lo + w.toNat % 2 ^ lo
     = 2 ^ lo * (2 ^ (hi + 1 - lo) * (w.toNat / 2 ^ (hi + 1)) + v % 2 ^ (hi + 1 - lo)) + w.toNat % 2 ^ lo := by
    rw [a3]; simp only [Nat.mul_add, Nat.mul_comm, Nat.mul_left_comm, Nat.mul_assoc, Nat.add_assoc]
  rw [e2, Nat.testBit_two_pow_mul_add _ a2, Nat.testBit_two_pow_mul_add _ (Nat.mod_lt _ (Nat.two_pow_pos _))]
  split
  · rename_i h1; rw [if_pos (Or.inl h1), Nat.testBit_mod_two_pow]; simp [h1]
  · rename_i h1
    split
    · rename_i h2; rw [if_neg (by omega), Nat.testBit_mod_two_pow]; simp [h2]
    · rename_i h2; rw [if_pos (by omega), Nat.testBit_div_two_pow]; congr 1; omega

/-- A field replaced leaves a disjoint field of the word alone. -/
theorem fieldOf_withField_other (w : Word) (hi lo v h l : Nat) (a : lo ≤ hi) (b : hi < 32) (c : h < lo ∨ hi < l) :
    fieldOf (withField w hi lo v) h l = fieldOf w h l := by
  unfold fieldOf
  apply Nat.eq_of_testBit_eq
  intro i
  rw [Nat.testBit_mod_two_pow, Nat.testBit_mod_two_pow, Nat.testBit_div_two_pow, Nat.testBit_div_two_pow, withField_testBit _ _ _ _ _ a b]
  by_cases hi' : i < h + 1 - l
  · rw [if_pos (by omega)]
  · simp [hi']

/-- A write of a field leaves a disjoint field of its word alone. -/
theorem State.get_put_disjoint (s : State) (d : Nat) (f g : Fld) (v : Nat) (e : g.addr = f.addr) (a : f.lo ≤ f.hi) (b : f.hi < 32)
    (c : g.hi < f.lo ∨ f.hi < g.lo) : (s.put d f v).get d g = s.get d g := by
  unfold State.get State.put
  rw [e, State.word_setWord_self, fieldOf_withField_other _ _ _ _ _ _ a b c]

end Sys2Proof.Machine
end

