-- ==== Sys2Proof/Laws/SailedBase.lean ====
section
/-! SUPPORT. What an operation on one die leaves alone: the base of the frame lemmas. -/

namespace Sys2Proof.Machine
variable {k : Nat} {s0 s t : State}

theorem OnlySail.refl : OnlySail k s s := ⟨rfl, fun _ _ => rfl⟩

theorem OnlySail.trans {a b c : State} (h : OnlySail k a b) (h2 : OnlySail k b c) : OnlySail k a c := by
  refine ⟨?_, fun j hj => (h2.2 j hj).trans (h.2 j hj)⟩
  have e1 := h.1; have e2 := h2.1
  rw [e1] at e2
  simpa using e2

theorem OnlySail.mk_other {fc : Nat} {o : List Out} {r : Tbl Word} {cn : Tbl Conn} :
    OnlySail k s0 (State.mk s.variant s.now fc r s.mastA s.mastB s.sails cn s.profAct s.profPend s.timerAt s.timerRem s.halted s.convs s.shadow s.phase
      s.refValid s.browned s.testEn s.lowpwr s.reefed s.tap o s.pending) ↔ OnlySail k s0 s := by
  constructor <;> intro h <;> refine ⟨?_, h.2⟩ <;> have e := h.1 <;> cases s <;> simp_all

theorem OnlySail.of_ite {c : Prop} [Decidable c] (h1 : c → OnlySail k s0 s) (h2 : ¬ c → OnlySail k s0 t) : OnlySail k s0 (if c then s else t) := by
  split
  · exact h1 ‹_›
  · exact h2 ‹_›

theorem OnlySail.of_getD {o : Option State} (h1 : ∀ t, o = some t → OnlySail k s0 t) (h2 : OnlySail k s0 s) : OnlySail k s0 (o.getD s) := by
  cases o with
  | none => exact h2
  | some t => exact h1 t rfl

theorem OnlySail.of_snd {β : Type} {p : β × State} {y : β} (e : p = (y, t)) (h : OnlySail k s0 p.2) : OnlySail k s0 t := by
  rw [e] at h; exact h

theorem State.setConn_sailed {c : Nat} {x : Conn} (h : OnlySail k s0 s) : OnlySail k s0 (s.setConn c x) := by
  obtain ⟨h1, h2⟩ := h
  refine ⟨?_, h2⟩
  unfold State.setConn; rw [h1]

theorem OnlySail.sails_set {x : Sail} (h : OnlySail k s0 s) :
    OnlySail k s0 { s with sails := Tbl.set (fun _ => Sail.reset) s.sails k x } := by
  obtain ⟨h1, h2⟩ := h
  refine ⟨?_, fun j hj => ?_⟩
  · rw [h1]
  · have e := h2 j hj
    unfold State.sail at *
    rw [← e]; exact Tbl.get_set_other _ _ _ hj

theorem State.setSail_sailed {x : Sail} (h : OnlySail k s0 s) : OnlySail k s0 (s.setSail k x) := OnlySail.sails_set h

end Sys2Proof.Machine
end

