-- ==== Sys2Proof/Laws/SailedCore.lean ====
section
/-! SUPPORT. What stays on sail `k`: one lemma for each operation that acts on one sail alone (OnlySail), of Ops, Saltern, NvBase, Halyard, NodeTab. -/

namespace Sys2Proof.Machine

variable {k : Nat} {s0 s t : State}

/-! ## Ops -/

theorem State.setWord_sailed {x1 : Nat} {x2 : Word} (h : OnlySail k s0 s) : OnlySail k s0 (State.setWord s x1 x2) := by
  unfold State.setWord
  repeat' with_reducible
    first
    | assumption | apply OnlySail.of_ite | intro _ | apply OnlySail.of_getD | (apply OnlySail.of_snd; assumption) | apply foldl_keeps (OnlySail k s0)
    | simp only [↓OnlySail.mk_other, ↓id_eq] | split

theorem State.put_sailed {x1 : Nat} {x2 : Fld} {x3 : Nat} (h : OnlySail k s0 s) : OnlySail k s0 (State.put s x1 x2 x3) := by
  unfold State.put
  repeat' with_reducible
    first
    | assumption | apply State.setWord_sailed | apply OnlySail.of_ite | intro _ | apply OnlySail.of_getD | (apply OnlySail.of_snd; assumption)
    | apply foldl_keeps (OnlySail k s0) | simp only [↓OnlySail.mk_other, ↓id_eq] | split

theorem State.bput_sailed {x1 : Nat} {x2 : Nat} {x3 : Fld} {x4 : Nat} (h : OnlySail k s0 s) : OnlySail k s0 (State.bput s x1 x2 x3 x4) := by
  unfold State.bput
  repeat' with_reducible
    first
    | assumption | apply State.setWord_sailed | apply OnlySail.of_ite | intro _ | apply OnlySail.of_getD | (apply OnlySail.of_snd; assumption)
    | apply foldl_keeps (OnlySail k s0) | simp only [↓OnlySail.mk_other, ↓id_eq] | split

theorem State.put64_sailed {x1 : Nat} {x2 : Fld} {x3 : Nat} (h : OnlySail k s0 s) : OnlySail k s0 (State.put64 s x1 x2 x3) := by
  unfold State.put64
  repeat' with_reducible
    first
    | assumption | apply State.setWord_sailed | apply OnlySail.of_ite | intro _ | apply OnlySail.of_getD | (apply OnlySail.of_snd; assumption)
    | apply foldl_keeps (OnlySail k s0) | simp only [↓OnlySail.mk_other, ↓id_eq] | split

theorem State.bput64_sailed {x1 : Nat} {x2 : Nat} {x3 : Fld} {x4 : Nat} (h : OnlySail k s0 s) : OnlySail k s0 (State.bput64 s x1 x2 x3 x4) := by
  unfold State.bput64
  repeat' with_reducible
    first
    | assumption | apply State.setWord_sailed | apply OnlySail.of_ite | intro _ | apply OnlySail.of_getD | (apply OnlySail.of_snd; assumption)
    | apply foldl_keeps (OnlySail k s0) | simp only [↓OnlySail.mk_other, ↓id_eq] | split

theorem State.count_sailed {x1 : Nat} {x2 : Fld} {x3 : Nat} (h : OnlySail k s0 s) : OnlySail k s0 (State.count s x1 x2 x3) := by
  unfold State.count
  repeat' with_reducible
    first
    | assumption | apply State.put_sailed | apply OnlySail.of_ite | intro _ | apply OnlySail.of_getD | (apply OnlySail.of_snd; assumption)
    | apply foldl_keeps (OnlySail k s0) | simp only [↓OnlySail.mk_other, ↓id_eq] | split

theorem State.bump_sailed {x1 : Nat} {x2 : Fld} (h : OnlySail k s0 s) : OnlySail k s0 (State.bump s x1 x2) := by
  unfold State.bump
  repeat' with_reducible
    first
    | assumption | apply State.count_sailed | apply OnlySail.of_ite | intro _ | apply OnlySail.of_getD | (apply OnlySail.of_snd; assumption)
    | apply foldl_keeps (OnlySail k s0) | simp only [↓OnlySail.mk_other, ↓id_eq] | split

theorem State.raise_sailed {x1 : Nat} {x2 : Fld} {x3 : Nat} (h : OnlySail k s0 s) : OnlySail k s0 (State.raise s x1 x2 x3) := by
  unfold State.raise
  repeat' with_reducible
    first
    | assumption | apply State.put_sailed | apply OnlySail.of_ite | intro _ | apply OnlySail.of_getD | (apply OnlySail.of_snd; assumption)
    | apply foldl_keeps (OnlySail k s0) | simp only [↓OnlySail.mk_other, ↓id_eq] | split

theorem State.free_sailed  (h : OnlySail k s0 s) : OnlySail k s0 (State.free s).2 := by
  unfold State.free
  repeat' with_reducible
    first
    | assumption | apply OnlySail.of_ite | intro _ | apply OnlySail.of_getD | (apply OnlySail.of_snd; assumption) | apply foldl_keeps (OnlySail k s0)
    | simp only [↓OnlySail.mk_other, ↓id_eq] | split

theorem State.emit_sailed {x1 : Out} (h : OnlySail k s0 s) : OnlySail k s0 (State.emit s x1) := by
  unfold State.emit
  repeat' with_reducible
    first
    | assumption | apply OnlySail.of_ite | intro _ | apply OnlySail.of_getD | (apply OnlySail.of_snd; assumption) | apply foldl_keeps (OnlySail k s0)
    | simp only [↓OnlySail.mk_other, ↓id_eq] | split

theorem State.emitAll_sailed {x1 : List Out} (h : OnlySail k s0 s) : OnlySail k s0 (State.emitAll s x1) := by
  unfold State.emitAll
  repeat' with_reducible
    first
    | assumption | apply OnlySail.of_ite | intro _ | apply OnlySail.of_getD | (apply OnlySail.of_snd; assumption) | apply foldl_keeps (OnlySail k s0)
    | simp only [↓OnlySail.mk_other, ↓id_eq] | split

theorem State.pump_sailed {x1 : Nat} {x2 : Bool} (h : OnlySail k s0 s) : OnlySail k s0 (State.pump s x1 x2) := by
  unfold State.pump
  repeat' with_reducible
    first
    | assumption | apply State.emitAll_sailed | apply State.setConn_sailed | apply OnlySail.of_ite | intro _ | apply OnlySail.of_getD
    | (apply OnlySail.of_snd; assumption) | apply foldl_keeps (OnlySail k s0) | simp only [↓OnlySail.mk_other, ↓id_eq] | split

theorem State.sendOn_sailed {x1 : Nat} {x2 : Bool} {x3 : List Pkt} (h : OnlySail k s0 s) : OnlySail k s0 (State.sendOn s x1 x2 x3) := by
  unfold State.sendOn
  repeat' with_reducible
    first
    | assumption | apply State.pump_sailed | apply State.setConn_sailed | apply OnlySail.of_ite | intro _ | apply OnlySail.of_getD
    | (apply OnlySail.of_snd; assumption) | apply foldl_keeps (OnlySail k s0) | simp only [↓OnlySail.mk_other, ↓id_eq] | split

theorem State.sendLinkctl_sailed {x1 : Nat} {x2 : Bool} (h : OnlySail k s0 s) : OnlySail k s0 (State.sendLinkctl s x1 x2) := by
  unfold State.sendLinkctl
  repeat' with_reducible
    first
    | assumption | apply State.emit_sailed | apply State.setConn_sailed | apply OnlySail.of_ite | intro _ | apply OnlySail.of_getD
    | (apply OnlySail.of_snd; assumption) | apply foldl_keeps (OnlySail k s0) | simp only [↓OnlySail.mk_other, ↓id_eq] | split

theorem State.takePkt_sailed {x1 : Nat} {x2 : Bool} {x3 : LinkPkt} (h : OnlySail k s0 s) : OnlySail k s0 (State.takePkt s x1 x2 x3).2 := by
  unfold State.takePkt
  repeat' with_reducible
    first
    | assumption | apply State.setConn_sailed | apply State.bump_sailed | apply State.sendLinkctl_sailed | apply OnlySail.of_ite | intro _
    | apply OnlySail.of_getD | (apply OnlySail.of_snd; assumption) | apply foldl_keeps (OnlySail k s0) | simp only [↓OnlySail.mk_other, ↓id_eq]
    | split

theorem State.takePkts_sailed {x1 : Nat} {x2 : Bool} {x3 : Nat} {x4 : List LinkPkt} (h : OnlySail k s0 s) : OnlySail k s0 (State.takePkts s x1 x2 x3 x4).2 := by
  induction x4 generalizing s with
  | nil => exact h
  | cons _ _ ih =>
  unfold State.takePkts
  repeat' with_reducible
    first
    | assumption | apply ih | apply State.takePkt_sailed | apply OnlySail.of_ite | intro _ | apply OnlySail.of_getD
    | (apply OnlySail.of_snd; assumption) | apply foldl_keeps (OnlySail k s0) | simp only [↓OnlySail.mk_other, ↓id_eq] | split

theorem State.receive_sailed {x1 : Nat} {x2 : Bool} {x3 : Nat} {x4 : List LinkPkt} (h : OnlySail k s0 s) : OnlySail k s0 (State.receive s x1 x2 x3 x4).2 := by
  unfold State.receive
  repeat' with_reducible
    first
    | assumption | apply State.takePkts_sailed | apply OnlySail.of_ite | intro _ | apply OnlySail.of_getD | (apply OnlySail.of_snd; assumption)
    | apply foldl_keeps (OnlySail k s0) | simp only [↓OnlySail.mk_other, ↓id_eq] | split

theorem State.sailSend_sailed {x1 : Nat} {x2 : List Pkt} (h : OnlySail k s0 s) : OnlySail k s0 (State.sailSend s x1 x2) := by
  unfold State.sailSend
  repeat' with_reducible
    first
    | assumption | apply State.sendOn_sailed | apply OnlySail.of_ite | intro _ | apply OnlySail.of_getD | (apply OnlySail.of_snd; assumption)
    | apply foldl_keeps (OnlySail k s0) | simp only [↓OnlySail.mk_other, ↓id_eq] | split

theorem State.sailEvent_sailed {x2 : List Nat} (h : OnlySail k s0 s) : OnlySail k s0 (State.sailEvent s k x2) := by
  unfold State.sailEvent
  repeat' with_reducible
    first
    | assumption | apply State.sailSend_sailed | apply OnlySail.sails_set | apply OnlySail.of_ite | intro _ | simp only [↓OnlySail.mk_other]

theorem State.irqEdge_sailed {x0 : State} {x3 : Nat} (h : OnlySail k s0 s) : OnlySail k s0 (State.irqEdge x0 s (sailDie k) x3) := by
  unfold State.irqEdge
  rw [if_neg (by unfold sailDie; omega)]
  split
  · exact h
  · exact State.sailEvent_sailed h

theorem State.irq_sailed {x2 : Nat} {x3 : Nat} (h : OnlySail k s0 s) : OnlySail k s0 (State.irq s (sailDie k) x2 x3) := by
  unfold State.irq
  repeat' with_reducible
    first
    | assumption | apply State.irqEdge_sailed | apply State.setWord_sailed | apply OnlySail.of_ite | intro _ | apply OnlySail.of_getD
    | (apply OnlySail.of_snd; assumption) | apply foldl_keeps (OnlySail k s0) | simp only [↓OnlySail.mk_other, ↓id_eq] | split

theorem State.setBit_sailed {x1 : Nat} {x2 : Nat} {x3 : Nat} (h : OnlySail k s0 s) : OnlySail k s0 (State.setBit s x1 x2 x3) := by
  unfold State.setBit
  repeat' with_reducible
    first
    | assumption | apply State.setWord_sailed | apply OnlySail.of_ite | intro _ | apply OnlySail.of_getD | (apply OnlySail.of_snd; assumption)
    | apply foldl_keeps (OnlySail k s0) | simp only [↓OnlySail.mk_other, ↓id_eq] | split

theorem State.capture_sailed {x1 : Nat} {x2 : Nat} {x3 : Nat} {x4 : Nat} {x5 : Nat} {x6 : Nat} (h : OnlySail k s0 s) : OnlySail k s0 (State.capture s x1 x2 x3 x4 x5 x6) := by
  unfold State.capture
  repeat' with_reducible
    first
    | assumption | apply State.setBit_sailed | apply State.setWord_sailed | apply OnlySail.of_ite | intro _ | apply OnlySail.of_getD
    | (apply OnlySail.of_snd; assumption) | apply foldl_keeps (OnlySail k s0) | simp only [↓OnlySail.mk_other, ↓id_eq] | split

theorem State.unmapped_sailed {x1 : Nat} {x2 : Nat} (h : OnlySail k s0 s) : OnlySail k s0 (State.unmapped s x1 x2) := by
  unfold State.unmapped
  repeat' with_reducible
    first
    | assumption | apply State.bump_sailed | apply State.put_sailed | apply OnlySail.of_ite | intro _ | apply OnlySail.of_getD
    | (apply OnlySail.of_snd; assumption) | apply foldl_keeps (OnlySail k s0) | simp only [↓OnlySail.mk_other, ↓id_eq] | split

theorem State.lockv_sailed {x1 : Nat} {x2 : Nat} {x3 : Nat} {x4 : Req} (h : OnlySail k s0 s) : OnlySail k s0 (State.lockv s x1 x2 x3 x4) := by
  unfold State.lockv
  repeat' with_reducible
    first
    | assumption | apply State.capture_sailed | apply OnlySail.of_ite | intro _ | apply OnlySail.of_getD | (apply OnlySail.of_snd; assumption)
    | apply foldl_keeps (OnlySail k s0) | simp only [↓OnlySail.mk_other, ↓id_eq] | split

/-! ## Saltern -/

theorem State.ioFlag_sailed {x1 : Nat} {x2 : Nat} {x3 : Fld} (h : OnlySail k s0 s) : OnlySail k s0 (State.ioFlag s x1 x2 x3) := by
  unfold State.ioFlag
  repeat' with_reducible
    first
    | assumption | apply State.bput_sailed | apply OnlySail.of_ite | intro _ | apply OnlySail.of_getD | (apply OnlySail.of_snd; assumption)
    | apply foldl_keeps (OnlySail k s0) | simp only [↓OnlySail.mk_other, ↓id_eq] | split

theorem State.allocWord_sailed {x1 : Nat} {x2 : Nat} {x3 : Option Nat} (h : OnlySail k s0 s) : OnlySail k s0 (State.allocWord s x1 x2 x3) := by
  unfold State.allocWord
  repeat' with_reducible
    first
    | assumption | apply State.setWord_sailed | apply OnlySail.of_ite | intro _ | apply OnlySail.of_getD | (apply OnlySail.of_snd; assumption)
    | apply foldl_keeps (OnlySail k s0) | simp only [↓OnlySail.mk_other, ↓id_eq] | split

/-! ## NvBase -/

theorem State.nvRequest_sailed {x1 : Nat} {x2 : Nat} (h : OnlySail k s0 s) : OnlySail k s0 (State.nvRequest s x1 x2) := by
  unfold State.nvRequest
  repeat' with_reducible
    first
    | assumption | apply State.bump_sailed | apply OnlySail.of_ite | intro _ | apply OnlySail.of_getD | (apply OnlySail.of_snd; assumption)
    | apply foldl_keeps (OnlySail k s0) | simp only [↓OnlySail.mk_other, ↓id_eq] | split

/-! ## Halyard -/

theorem State.engineIdle_sailed {x1 : Nat} {x2 : Nat} (h : OnlySail k s0 s) : OnlySail k s0 (State.engineIdle s x1 x2) := by
  unfold State.engineIdle
  repeat' with_reducible
    first
    | assumption | apply State.count_sailed | apply OnlySail.of_ite | intro _ | apply OnlySail.of_getD | (apply OnlySail.of_snd; assumption)
    | apply foldl_keeps (OnlySail k s0) | simp only [↓OnlySail.mk_other, ↓id_eq] | split

/-! ## NodeTab -/

theorem State.lookupKey_sailed {x1 : Nat} {x2 : Nat} (h : OnlySail k s0 s) : OnlySail k s0 (State.lookupKey s x1 x2).2 := by
  unfold State.lookupKey
  repeat' with_reducible
    first
    | assumption | apply State.bump_sailed | apply OnlySail.of_ite | intro _ | apply OnlySail.of_getD | (apply OnlySail.of_snd; assumption)
    | apply foldl_keeps (OnlySail k s0) | simp only [↓OnlySail.mk_other, ↓id_eq] | split

theorem State.lookupShort_sailed {x1 : Nat} {x2 : Nat} (h : OnlySail k s0 s) : OnlySail k s0 (State.lookupShort s x1 x2).2 := by
  unfold State.lookupShort
  repeat' with_reducible
    first
    | assumption | apply State.bump_sailed | apply OnlySail.of_ite | intro _ | apply OnlySail.of_getD | (apply OnlySail.of_snd; assumption)
    | apply foldl_keeps (OnlySail k s0) | simp only [↓OnlySail.mk_other, ↓id_eq] | split

theorem State.lookupAddr_sailed {x1 : Nat} {x2 : Addr} (h : OnlySail k s0 s) : OnlySail k s0 (State.lookupAddr s x1 x2).2 := by
  unfold State.lookupAddr
  repeat' with_reducible
    first
    | assumption | apply State.lookupKey_sailed | apply State.lookupShort_sailed | apply OnlySail.of_ite | intro _ | apply OnlySail.of_getD
    | (apply OnlySail.of_snd; assumption) | apply foldl_keeps (OnlySail k s0) | simp only [↓OnlySail.mk_other, ↓id_eq] | split

theorem State.ntDone_sailed {x1 : Nat} {x2 : CmdStatus} (h : OnlySail k s0 s) : OnlySail k s0 (State.ntDone s x1 x2) := by
  unfold State.ntDone
  repeat' with_reducible
    first
    | assumption | apply State.put_sailed | apply OnlySail.of_ite | intro _ | apply OnlySail.of_getD | (apply OnlySail.of_snd; assumption)
    | apply foldl_keeps (OnlySail k s0) | simp only [↓OnlySail.mk_other, ↓id_eq] | split

theorem State.showHit_sailed {x1 : Nat} {x2 : Nat} {x3 : Nat} (h : OnlySail k s0 s) : OnlySail k s0 (State.showHit s x1 x2 x3) := by
  unfold State.showHit
  repeat' with_reducible
    first
    | assumption | apply State.setWord_sailed | apply OnlySail.of_ite | intro _ | apply OnlySail.of_getD | (apply OnlySail.of_snd; assumption)
    | apply foldl_keeps (OnlySail k s0) | simp only [↓OnlySail.mk_other, ↓id_eq] | split

end Sys2Proof.Machine
end

