-- ==== Sys2Proof/Laws/SailedKeys.lean ====
section
/-! SUPPORT. What stays on sail `k`: one lemma for each operation that acts on one sail alone (OnlySail), of Keys, Sessions, SailOps, Power, Transmit, Gates, Lanes, Receive, Time. -/

namespace Sys2Proof.Machine

variable {k : Nat} {s0 s t : State}

/-! ## Keys -/

theorem State.noKey_sailed {x1 : Nat} (h : OnlySail k s0 s) : OnlySail k s0 (State.noKey s x1) := by
  unfold State.noKey
  repeat' with_reducible
    first
    | assumption | apply State.bump_sailed | apply OnlySail.of_ite | intro _ | apply OnlySail.of_getD | (apply OnlySail.of_snd; assumption)
    | apply foldl_keeps (OnlySail k s0) | simp only [↓OnlySail.mk_other, ↓id_eq] | split

theorem State.setTag_sailed {x1 : Nat} {x2 : Nat} {x3 : List Nat} (h : OnlySail k s0 s) : OnlySail k s0 (State.setTag s x1 x2 x3) := by
  unfold State.setTag
  repeat' with_reducible
    first
    | assumption | apply State.setWord_sailed | apply OnlySail.of_ite | intro _ | apply OnlySail.of_getD | (apply OnlySail.of_snd; assumption)
    | apply foldl_keeps (OnlySail k s0) | simp only [↓OnlySail.mk_other, ↓id_eq] | split

theorem State.drbgSeed_sailed {x1 : Nat} (h : OnlySail k s0 s) : OnlySail k s0 (State.drbgSeed s x1) := by
  unfold State.drbgSeed
  repeat' with_reducible
    first
    | assumption | apply State.bump_sailed | apply State.put_sailed | apply OnlySail.of_ite | intro _ | apply OnlySail.of_getD
    | (apply OnlySail.of_snd; assumption) | apply foldl_keeps (OnlySail k s0) | simp only [↓OnlySail.mk_other, ↓id_eq] | split

theorem State.tamperShow_sailed {x1 : Nat} (h : OnlySail k s0 s) : OnlySail k s0 (State.tamperShow s x1) := by
  unfold State.tamperShow
  repeat' with_reducible
    first
    | assumption | apply State.put_sailed | apply OnlySail.of_ite | intro _ | apply OnlySail.of_getD | (apply OnlySail.of_snd; assumption)
    | apply foldl_keeps (OnlySail k s0) | simp only [↓OnlySail.mk_other, ↓id_eq] | split

/-! ## Sessions -/

theorem State.sessionResult_sailed {x1 : Nat} {x2 : Nat} {x3 : Nat} (h : OnlySail k s0 s) : OnlySail k s0 (State.sessionResult s x1 x2 x3) := by
  unfold State.sessionResult
  repeat' with_reducible
    first
    | assumption | apply State.bput_sailed | apply OnlySail.of_ite | intro _ | apply OnlySail.of_getD | (apply OnlySail.of_snd; assumption)
    | apply foldl_keeps (OnlySail k s0) | simp only [↓OnlySail.mk_other, ↓id_eq] | split

theorem State.showNonce_sailed {x1 : Nat} {x2 : Nat} {x3 : Nat} (h : OnlySail k s0 s) : OnlySail k s0 (State.showNonce s x1 x2 x3) := by
  unfold State.showNonce
  repeat' with_reducible
    first
    | assumption | apply State.setWord_sailed | apply OnlySail.of_ite | intro _ | apply OnlySail.of_getD | (apply OnlySail.of_snd; assumption)
    | apply foldl_keeps (OnlySail k s0) | simp only [↓OnlySail.mk_other, ↓id_eq] | split

/-! ## SailOps -/

theorem State.setLane_sailed {x2 : Nat} {x3 : Lane} (h : OnlySail k s0 s) : OnlySail k s0 (State.setLane s k x2 x3) := by
  unfold State.setLane
  repeat' with_reducible
    first
    | assumption | apply State.setSail_sailed | apply OnlySail.of_ite | intro _ | apply OnlySail.of_getD | (apply OnlySail.of_snd; assumption)
    | apply foldl_keeps (OnlySail k s0) | simp only [↓OnlySail.mk_other, ↓id_eq] | split

theorem State.attachLane_sailed {x2 : Nat} {x3 : LaneReq} {x4 : Bool} {x5 : Bool} (h : OnlySail k s0 s) : OnlySail k s0 (State.attachLane s k x2 x3 x4 x5) := by
  unfold State.attachLane
  repeat' with_reducible
    first
    | assumption | apply State.setLane_sailed | apply State.bump_sailed | apply OnlySail.of_ite | intro _ | apply OnlySail.of_getD
    | (apply OnlySail.of_snd; assumption) | apply foldl_keeps (OnlySail k s0) | simp only [↓OnlySail.mk_other, ↓id_eq] | split

theorem State.attachNew_sailed {x2 : LaneReq} {x3 : Bool} (h : OnlySail k s0 s) : OnlySail k s0 (State.attachNew s k x2 x3) := by
  unfold State.attachNew
  repeat' with_reducible
    first
    | assumption | apply State.free_sailed | apply State.bump_sailed | apply State.attachLane_sailed | apply State.raise_sailed
    | apply OnlySail.of_ite | intro _ | apply OnlySail.of_getD | (apply OnlySail.of_snd; assumption) | apply foldl_keeps (OnlySail k s0)
    | simp only [↓OnlySail.mk_other, ↓id_eq] | split

theorem State.serveOne_sailed  (h : OnlySail k s0 s) : OnlySail k s0 (State.serveOne s k) := by
  unfold State.serveOne
  repeat' with_reducible
    first
    | assumption | apply State.attachNew_sailed | apply State.setSail_sailed | apply State.raise_sailed | apply OnlySail.of_ite | intro _
    | apply OnlySail.of_getD | (apply OnlySail.of_snd; assumption) | apply foldl_keeps (OnlySail k s0) | simp only [↓OnlySail.mk_other, ↓id_eq]
    | split

theorem State.serve_sailed {x2 : Nat} (h : OnlySail k s0 s) : OnlySail k s0 (State.serve s k x2) := by
  induction x2 generalizing s with
  | zero => exact h
  | succ _ ih =>
  unfold State.serve
  repeat' with_reducible
    first
    | assumption | apply ih | apply State.serveOne_sailed | apply OnlySail.of_ite | intro _ | apply OnlySail.of_getD
    | (apply OnlySail.of_snd; assumption) | apply foldl_keeps (OnlySail k s0) | simp only [↓OnlySail.mk_other, ↓id_eq] | split

theorem State.releaseLane_sailed {x2 : Nat} {x3 : Nat} (h : OnlySail k s0 s) : OnlySail k s0 (State.releaseLane s k x2 x3) := by
  unfold State.releaseLane
  repeat' with_reducible
    first
    | assumption | apply State.bump_sailed | apply State.setLane_sailed | apply OnlySail.of_ite | intro _ | apply OnlySail.of_getD
    | (apply OnlySail.of_snd; assumption) | apply foldl_keeps (OnlySail k s0) | simp only [↓OnlySail.mk_other, ↓id_eq] | split

theorem State.releaseServe_sailed {x2 : Nat} {x3 : Nat} (h : OnlySail k s0 s) : OnlySail k s0 (State.releaseServe s k x2 x3) := by
  unfold State.releaseServe
  repeat' with_reducible
    first
    | assumption | apply State.serveOne_sailed | apply State.releaseLane_sailed | apply OnlySail.of_ite | intro _ | apply OnlySail.of_getD
    | (apply OnlySail.of_snd; assumption) | apply foldl_keeps (OnlySail k s0) | simp only [↓OnlySail.mk_other, ↓id_eq] | split

theorem State.releaseAll_sailed {x2 : Nat} {x3 : Nat → Lane → Bool} {x4 : Lane → State → State} (hf4 : ∀ y0 y1, OnlySail k s0 y1 → OnlySail k s0 (x4 y0 y1)) (h : OnlySail k s0 s) : OnlySail k s0 (State.releaseAll s k x2 x3 x4) := by
  unfold State.releaseAll
  repeat' with_reducible
    first
    | assumption | apply State.serve_sailed | apply State.releaseLane_sailed | apply hf4 | apply OnlySail.of_ite | intro _ | apply OnlySail.of_getD
    | (apply OnlySail.of_snd; assumption) | apply foldl_keeps (OnlySail k s0) | simp only [↓OnlySail.mk_other, ↓id_eq] | split

theorem State.dropWaits_sailed {x2 : LaneReq → Bool} (h : OnlySail k s0 s) : OnlySail k s0 (State.dropWaits s k x2) := by
  unfold State.dropWaits
  repeat' with_reducible
    first
    | assumption | apply State.count_sailed | apply State.setSail_sailed | apply OnlySail.of_ite | intro _ | apply OnlySail.of_getD
    | (apply OnlySail.of_snd; assumption) | apply foldl_keeps (OnlySail k s0) | simp only [↓OnlySail.mk_other, ↓id_eq] | split

theorem State.starve_sailed {x2 : Nat} (h : OnlySail k s0 s) : OnlySail k s0 (State.starve s k x2) := by
  unfold State.starve
  repeat' with_reducible
    first
    | assumption | apply State.bump_sailed | apply State.irq_sailed | apply State.setSail_sailed | apply OnlySail.of_ite | intro _
    | apply OnlySail.of_getD | (apply OnlySail.of_snd; assumption) | apply foldl_keeps (OnlySail k s0) | simp only [↓OnlySail.mk_other, ↓id_eq]
    | split

theorem State.request_sailed {x2 : LaneReq} (h : OnlySail k s0 s) : OnlySail k s0 (State.request s k x2) := by
  unfold State.request
  repeat' with_reducible
    first
    | assumption | apply State.attachNew_sailed | apply State.setSail_sailed | apply State.starve_sailed | apply State.bump_sailed
    | apply OnlySail.of_ite | intro _ | apply OnlySail.of_getD | (apply OnlySail.of_snd; assumption) | apply foldl_keeps (OnlySail k s0)
    | simp only [↓OnlySail.mk_other, ↓id_eq] | split

theorem State.sailAction_sailed {x1 : Nat} {x2 : Nat} {x3 : Nat} {x4 : Nat} {x5 : Nat} {x6 : State → State} (hf6 : ∀ y0, OnlySail k s0 y0 → OnlySail k s0 (x6 y0)) (h : OnlySail k s0 s) : OnlySail k s0 (State.sailAction s x1 x2 x3 x4 x5 x6) := by
  unfold State.sailAction
  repeat' with_reducible
    first
    | assumption | apply State.capture_sailed | apply hf6 | apply OnlySail.of_ite | intro _ | apply OnlySail.of_getD
    | (apply OnlySail.of_snd; assumption) | apply foldl_keeps (OnlySail k s0) | simp only [↓OnlySail.mk_other, ↓id_eq] | split

/-! ## Power -/

theorem State.chargeDuty_sailed {x2 : Nat} {x3 : Nat} {x4 : Nat} (h : OnlySail k s0 s) : OnlySail k s0 (State.chargeDuty s k x2 x3 x4) := by
  unfold State.chargeDuty
  repeat' with_reducible
    first
    | assumption | apply State.setSail_sailed | apply OnlySail.of_ite | intro _ | apply OnlySail.of_getD | (apply OnlySail.of_snd; assumption)
    | apply foldl_keeps (OnlySail k s0) | simp only [↓OnlySail.mk_other, ↓id_eq] | split

theorem State.unchargeDuty_sailed {x2 : Nat} {x3 : Nat} {x4 : Nat} (h : OnlySail k s0 s) : OnlySail k s0 (State.unchargeDuty s k x2 x3 x4) := by
  unfold State.unchargeDuty
  repeat' with_reducible
    first
    | assumption | apply State.setSail_sailed | apply OnlySail.of_ite | intro _ | apply OnlySail.of_getD | (apply OnlySail.of_snd; assumption)
    | apply foldl_keeps (OnlySail k s0) | simp only [↓OnlySail.mk_other, ↓id_eq] | split

/-! ## Transmit -/

theorem State.setTx_sailed {x2 : TxFrame} (h : OnlySail k s0 s) : OnlySail k s0 (State.setTx s k x2) := by
  unfold State.setTx
  repeat' with_reducible
    first
    | assumption | apply State.setSail_sailed | apply OnlySail.of_ite | intro _ | apply OnlySail.of_getD | (apply OnlySail.of_snd; assumption)
    | apply foldl_keeps (OnlySail k s0) | simp only [↓OnlySail.mk_other, ↓id_eq] | split

theorem State.dropTx_sailed {x2 : Nat} (h : OnlySail k s0 s) : OnlySail k s0 (State.dropTx s k x2) := by
  unfold State.dropTx
  repeat' with_reducible
    first
    | assumption | apply State.setSail_sailed | apply OnlySail.of_ite | intro _ | apply OnlySail.of_getD | (apply OnlySail.of_snd; assumption)
    | apply foldl_keeps (OnlySail k s0) | simp only [↓OnlySail.mk_other, ↓id_eq] | split

theorem State.feSend_sailed {x1 : Nat} {x2 : Nat} (h : OnlySail k s0 s) : OnlySail k s0 (State.feSend s x1 x2) := by
  unfold State.feSend
  repeat' with_reducible
    first
    | assumption | apply State.emit_sailed | apply OnlySail.of_ite | intro _ | apply OnlySail.of_getD | (apply OnlySail.of_snd; assumption)
    | apply foldl_keeps (OnlySail k s0) | simp only [↓OnlySail.mk_other, ↓id_eq] | split

theorem State.endAir_sailed {x2 : Nat} (h : OnlySail k s0 s) : OnlySail k s0 (State.endAir s k x2) := by
  unfold State.endAir
  repeat' with_reducible
    first
    | assumption | apply State.dropTx_sailed | apply State.setSail_sailed | apply OnlySail.of_ite | intro _ | apply OnlySail.of_getD
    | (apply OnlySail.of_snd; assumption) | apply foldl_keeps (OnlySail k s0) | simp only [↓OnlySail.mk_other, ↓id_eq] | split

theorem State.sendReport_sailed {x2 : TxReport} (h : OnlySail k s0 s) : OnlySail k s0 (State.sendReport s k x2) := by
  unfold State.sendReport
  repeat' with_reducible
    first
    | assumption | apply State.sailEvent_sailed | apply OnlySail.of_ite | intro _ | apply OnlySail.of_getD | (apply OnlySail.of_snd; assumption)
    | apply foldl_keeps (OnlySail k s0) | simp only [↓OnlySail.mk_other, ↓id_eq] | split

theorem State.refuseTx_sailed {x2 : TxFrame} {x3 : Nat} (h : OnlySail k s0 s) : OnlySail k s0 (State.refuseTx s k x2 x3) := by
  unfold State.refuseTx
  repeat' with_reducible
    first
    | assumption | apply State.sendReport_sailed | apply State.bump_sailed | apply State.dropTx_sailed | apply OnlySail.of_ite | intro _
    | apply OnlySail.of_getD | (apply OnlySail.of_snd; assumption) | apply foldl_keeps (OnlySail k s0) | simp only [↓OnlySail.mk_other, ↓id_eq]
    | split

theorem State.refundDuty_sailed {x2 : TxFrame} {x3 : Nat} (h : OnlySail k s0 s) : OnlySail k s0 (State.refundDuty s k x2 x3) := by
  unfold State.refundDuty
  repeat' with_reducible
    first
    | assumption | apply State.unchargeDuty_sailed | apply OnlySail.of_ite | intro _ | apply OnlySail.of_getD | (apply OnlySail.of_snd; assumption)
    | apply foldl_keeps (OnlySail k s0) | simp only [↓OnlySail.mk_other, ↓id_eq] | split

theorem State.stepSeed_sailed {x2 : Nat} (h : OnlySail k s0 s) : OnlySail k s0 (State.stepSeed s k x2) := by
  unfold State.stepSeed
  repeat' with_reducible
    first
    | assumption | apply State.setSail_sailed | apply OnlySail.of_ite | intro _ | apply OnlySail.of_getD | (apply OnlySail.of_snd; assumption)
    | apply foldl_keeps (OnlySail k s0) | simp only [↓OnlySail.mk_other, ↓id_eq] | split

theorem State.modulatedLate_sailed {x2 : Nat} (h : OnlySail k s0 s) : OnlySail k s0 (State.modulatedLate s k x2) := by
  unfold State.modulatedLate
  repeat' with_reducible
    first
    | assumption | apply State.bump_sailed | apply State.setTx_sailed | apply OnlySail.of_ite | intro _ | apply OnlySail.of_getD
    | (apply OnlySail.of_snd; assumption) | apply foldl_keeps (OnlySail k s0) | simp only [↓OnlySail.mk_other, ↓id_eq] | split

theorem State.countFlags_sailed {x1 : Nat} {x2 : Nat} (h : OnlySail k s0 s) : OnlySail k s0 (State.countFlags s x1 x2) := by
  unfold State.countFlags
  repeat' with_reducible
    first
    | assumption | apply State.bump_sailed | apply OnlySail.of_ite | intro _ | apply OnlySail.of_getD | (apply OnlySail.of_snd; assumption)
    | apply foldl_keeps (OnlySail k s0) | simp only [↓OnlySail.mk_other, ↓id_eq] | split

theorem State.cutoffOne_sailed {x2 : Nat} {x3 : Bool} (h : OnlySail k s0 s) : OnlySail k s0 (State.cutoffOne s k x2 x3) := by
  unfold State.cutoffOne
  repeat' with_reducible
    first
    | assumption | apply State.refuseTx_sailed | apply State.bump_sailed | apply State.feSend_sailed | apply State.setTx_sailed
    | apply State.chargeDuty_sailed | apply State.countFlags_sailed | apply State.put_sailed | apply OnlySail.of_ite | intro _
    | apply OnlySail.of_getD | (apply OnlySail.of_snd; assumption) | apply foldl_keeps (OnlySail k s0) | simp only [↓OnlySail.mk_other, ↓id_eq]
    | split

theorem State.countSent_sailed {x1 : Nat} {x2 : TxFrame} (h : OnlySail k s0 s) : OnlySail k s0 (State.countSent s x1 x2) := by
  unfold State.countSent
  repeat' with_reducible
    first
    | assumption | apply State.bump_sailed | apply OnlySail.of_ite | intro _ | apply OnlySail.of_getD | (apply OnlySail.of_snd; assumption)
    | apply foldl_keeps (OnlySail k s0) | simp only [↓OnlySail.mk_other, ↓id_eq] | split

theorem State.accAbort_sailed {x2 : Nat} {x3 : Nat} {x4 : Nat} (h : OnlySail k s0 s) : OnlySail k s0 (State.accAbort s k x2 x3 x4) := by
  unfold State.accAbort
  repeat' with_reducible
    first
    | assumption | apply State.sailAction_sailed | apply State.put_sailed | apply State.bump_sailed | apply State.setTx_sailed
    | apply State.refundDuty_sailed | apply State.sendReport_sailed | apply State.dropTx_sailed | apply OnlySail.of_ite | intro _
    | apply OnlySail.of_getD | (apply OnlySail.of_snd; assumption) | apply foldl_keeps (OnlySail k s0) | simp only [↓OnlySail.mk_other, ↓id_eq]
    | split

theorem State.applyRetune_sailed  (h : OnlySail k s0 s) : OnlySail k s0 (State.applyRetune s k) := by
  unfold State.applyRetune
  repeat' with_reducible
    first
    | assumption | apply State.put_sailed | apply State.bump_sailed | apply State.setSail_sailed | apply State.irq_sailed | apply OnlySail.of_ite
    | intro _ | apply OnlySail.of_getD | (apply OnlySail.of_snd; assumption) | apply foldl_keeps (OnlySail k s0)
    | simp only [↓OnlySail.mk_other, ↓id_eq] | split

theorem State.selectA_sailed  (h : OnlySail k s0 s) : OnlySail k s0 (State.selectA s k) := by
  unfold State.selectA
  repeat' with_reducible
    first
    | assumption | apply State.setLane_sailed | apply State.bump_sailed | apply OnlySail.of_ite | intro _ | apply OnlySail.of_getD
    | (apply OnlySail.of_snd; assumption) | apply foldl_keeps (OnlySail k s0) | simp only [↓OnlySail.mk_other, ↓id_eq] | split

theorem State.powerLoop_sailed {x2 : List (Nat × Int)} (h : OnlySail k s0 s) : OnlySail k s0 (State.powerLoop s k x2) := by
  unfold State.powerLoop
  repeat' with_reducible
    first
    | assumption | apply State.put_sailed | apply State.irq_sailed | apply State.bump_sailed | apply OnlySail.of_ite | intro _
    | apply OnlySail.of_getD | (apply OnlySail.of_snd; assumption) | apply foldl_keeps (OnlySail k s0) | simp only [↓OnlySail.mk_other, ↓id_eq]
    | split

theorem State.staleCheck_sailed  (h : OnlySail k s0 s) : OnlySail k s0 (State.staleCheck s (sailDie k)) := by
  unfold State.staleCheck
  repeat' with_reducible
    first
    | assumption | apply State.put_sailed | apply State.irq_sailed | apply State.bump_sailed | apply OnlySail.of_ite | intro _
    | apply OnlySail.of_getD | (apply OnlySail.of_snd; assumption) | apply foldl_keeps (OnlySail k s0) | simp only [↓OnlySail.mk_other, ↓id_eq]
    | split

theorem State.accFuseGo_sailed {x2 : Nat} {x3 : Nat} {x4 : Nat} (h : OnlySail k s0 s) : OnlySail k s0 (State.accFuseGo s k x2 x3 x4) := by
  unfold State.accFuseGo
  repeat' with_reducible
    first
    | assumption | apply State.sailAction_sailed | apply State.put_sailed | apply State.setSail_sailed | apply OnlySail.of_ite | intro _
    | apply OnlySail.of_getD | (apply OnlySail.of_snd; assumption) | apply foldl_keeps (OnlySail k s0) | simp only [↓OnlySail.mk_other, ↓id_eq]
    | split

/-! ## Gates -/

theorem State.showGate_sailed {x1 : Nat} {x2 : Nat} (h : OnlySail k s0 s) : OnlySail k s0 (State.showGate s x1 x2) := by
  unfold State.showGate
  repeat' with_reducible
    first
    | assumption | apply State.put_sailed | apply OnlySail.of_ite | intro _ | apply OnlySail.of_getD | (apply OnlySail.of_snd; assumption)
    | apply foldl_keeps (OnlySail k s0) | simp only [↓OnlySail.mk_other, ↓id_eq] | split

theorem State.showMaxOpen_sailed {x1 : Nat} {x2 : Nat} (h : OnlySail k s0 s) : OnlySail k s0 (State.showMaxOpen s x1 x2) := by
  unfold State.showMaxOpen
  repeat' with_reducible
    first
    | assumption | apply State.put_sailed | apply OnlySail.of_ite | intro _ | apply OnlySail.of_getD | (apply OnlySail.of_snd; assumption)
    | apply foldl_keeps (OnlySail k s0) | simp only [↓OnlySail.mk_other, ↓id_eq] | split

theorem State.shape_sailed {x1 : Nat} {x2 : Nat} {x3 : Nat} {x4 : Nat} (h : OnlySail k s0 s) : OnlySail k s0 (State.shape s x1 x2 x3 x4).2 := by
  unfold State.shape
  repeat' with_reducible
    first
    | assumption | apply State.put_sailed | apply State.bump_sailed | apply OnlySail.of_ite | intro _ | apply OnlySail.of_getD
    | (apply OnlySail.of_snd; assumption) | apply foldl_keeps (OnlySail k s0) | simp only [↓OnlySail.mk_other, ↓id_eq] | split

theorem State.unshape_sailed {x1 : Nat} {x2 : Nat} {x3 : Nat} {x4 : Nat} (h : OnlySail k s0 s) : OnlySail k s0 (State.unshape s x1 x2 x3 x4) := by
  unfold State.unshape
  repeat' with_reducible
    first
    | assumption | apply State.put_sailed | apply OnlySail.of_ite | intro _ | apply OnlySail.of_getD | (apply OnlySail.of_snd; assumption)
    | apply foldl_keeps (OnlySail k s0) | simp only [↓OnlySail.mk_other, ↓id_eq] | split

/-! ## Lanes -/

theorem State.restartLane_sailed {x2 : Nat} {x3 : LaneReq} (h : OnlySail k s0 s) : OnlySail k s0 (State.restartLane s k x2 x3) := by
  unfold State.restartLane
  repeat' with_reducible
    first
    | assumption | apply State.bump_sailed | apply State.attachLane_sailed | apply OnlySail.of_ite | intro _ | apply OnlySail.of_getD
    | (apply OnlySail.of_snd; assumption) | apply foldl_keeps (OnlySail k s0) | simp only [↓OnlySail.mk_other, ↓id_eq] | split

theorem State.detect_sailed {x2 : LaneReq} (h : OnlySail k s0 s) : OnlySail k s0 (State.detect s k x2) := by
  unfold State.detect
  repeat' with_reducible
    first
    | assumption | apply State.bump_sailed | apply State.attachNew_sailed | apply State.setLane_sailed | apply State.restartLane_sailed
    | apply State.setSail_sailed | apply State.request_sailed | apply OnlySail.of_ite | intro _ | apply OnlySail.of_getD
    | (apply OnlySail.of_snd; assumption) | apply foldl_keeps (OnlySail k s0) | simp only [↓OnlySail.mk_other, ↓id_eq] | split

theorem State.lostSync_sailed {x2 : Nat} (h : OnlySail k s0 s) : OnlySail k s0 (State.lostSync s k x2) := by
  unfold State.lostSync
  repeat' with_reducible
    first
    | assumption | apply State.releaseServe_sailed | apply State.bump_sailed | apply OnlySail.of_ite | intro _ | apply OnlySail.of_getD
    | (apply OnlySail.of_snd; assumption) | apply foldl_keeps (OnlySail k s0) | simp only [↓OnlySail.mk_other, ↓id_eq] | split

theorem State.acceptLtf_sailed {x2 : Nat} {x3 : Rat} {x4 : Track} (h : OnlySail k s0 s) : OnlySail k s0 (State.acceptLtf s k x2 x3 x4) := by
  unfold State.acceptLtf
  repeat' with_reducible
    first
    | assumption | apply State.lostSync_sailed | apply State.setLane_sailed | apply OnlySail.of_ite | intro _ | apply OnlySail.of_getD
    | (apply OnlySail.of_snd; assumption) | apply foldl_keeps (OnlySail k s0) | simp only [↓OnlySail.mk_other, ↓id_eq] | split

theorem State.tracked_sailed {x2 : Nat} {x3 : Tracked} (h : OnlySail k s0 s) : OnlySail k s0 (State.tracked s k x2 x3) := by
  unfold State.tracked
  repeat' with_reducible
    first
    | assumption | apply State.count_sailed | apply State.setLane_sailed | apply OnlySail.of_ite | intro _ | apply OnlySail.of_getD
    | (apply OnlySail.of_snd; assumption) | apply foldl_keeps (OnlySail k s0) | simp only [↓OnlySail.mk_other, ↓id_eq] | split

theorem State.phrFail_sailed {x2 : Nat} {x3 : Fld} (h : OnlySail k s0 s) : OnlySail k s0 (State.phrFail s k x2 x3) := by
  unfold State.phrFail
  repeat' with_reducible
    first
    | assumption | apply State.releaseServe_sailed | apply State.bump_sailed | apply OnlySail.of_ite | intro _ | apply OnlySail.of_getD
    | (apply OnlySail.of_snd; assumption) | apply foldl_keeps (OnlySail k s0) | simp only [↓OnlySail.mk_other, ↓id_eq] | split

theorem State.phrPass_sailed {x2 : Nat} {x3 : Nat} {x4 : Nat} {x5 : Nat} {x6 : Nat} (h : OnlySail k s0 s) : OnlySail k s0 (State.phrPass s k x2 x3 x4 x5 x6) := by
  unfold State.phrPass
  repeat' with_reducible
    first
    | assumption | apply State.setLane_sailed | apply OnlySail.of_ite | intro _ | apply OnlySail.of_getD | (apply OnlySail.of_snd; assumption)
    | apply foldl_keeps (OnlySail k s0) | simp only [↓OnlySail.mk_other, ↓id_eq] | split

theorem State.phrBytes_sailed {x2 : Nat} {x3 : List Nat} (h : OnlySail k s0 s) : OnlySail k s0 (State.phrBytes s k x2 x3) := by
  unfold State.phrBytes
  repeat' with_reducible
    first
    | assumption | apply State.phrFail_sailed | apply State.bump_sailed | apply State.phrPass_sailed | apply OnlySail.of_ite | intro _
    | apply OnlySail.of_getD | (apply OnlySail.of_snd; assumption) | apply foldl_keeps (OnlySail k s0) | simp only [↓OnlySail.mk_other, ↓id_eq]
    | split

theorem State.phrCleura_sailed {x2 : Nat} {x3 : List Iq} (h : OnlySail k s0 s) : OnlySail k s0 (State.phrCleura s k x2 x3) := by
  unfold State.phrCleura
  repeat' with_reducible
    first
    | assumption | apply State.tracked_sailed | apply State.lostSync_sailed | apply State.phrBytes_sailed | apply OnlySail.of_ite | intro _
    | apply OnlySail.of_getD | (apply OnlySail.of_snd; assumption) | apply foldl_keeps (OnlySail k s0) | simp only [↓OnlySail.mk_other, ↓id_eq]
    | split

theorem State.phrOfdm_sailed {x2 : Nat} {x3 : Bool} {x4 : Nat} {x5 : Nat} (h : OnlySail k s0 s) : OnlySail k s0 (State.phrOfdm s k x2 x3 x4 x5) := by
  unfold State.phrOfdm
  repeat' with_reducible
    first
    | assumption | apply State.phrFail_sailed | apply State.bump_sailed | apply State.phrPass_sailed | apply OnlySail.of_ite | intro _
    | apply OnlySail.of_getD | (apply OnlySail.of_snd; assumption) | apply foldl_keeps (OnlySail k s0) | simp only [↓OnlySail.mk_other, ↓id_eq]
    | split

theorem State.phrFsk_sailed {x2 : Nat} {x3 : Bool} {x4 : Bool} {x5 : Bool} {x6 : Bool} {x7 : Nat} (h : OnlySail k s0 s) : OnlySail k s0 (State.phrFsk s k x2 x3 x4 x5 x6 x7) := by
  unfold State.phrFsk
  repeat' with_reducible
    first
    | assumption | apply State.phrFail_sailed | apply State.bump_sailed | apply State.phrPass_sailed | apply OnlySail.of_ite | intro _
    | apply OnlySail.of_getD | (apply OnlySail.of_snd; assumption) | apply foldl_keeps (OnlySail k s0) | simp only [↓OnlySail.mk_other, ↓id_eq]
    | split

theorem State.deliver_sailed {x2 : Nat} {x3 : Nat} {x4 : Bool} {x5 : List Nat} {x6 : Nat} {x7 : Rat} {x8 : RxObs} (h : OnlySail k s0 s) : OnlySail k s0 (State.deliver s k x2 x3 x4 x5 x6 x7 x8) := by
  unfold State.deliver
  repeat' with_reducible
    first
    | assumption | apply State.setLane_sailed | apply State.setSail_sailed | apply State.releaseServe_sailed | apply State.sailSend_sailed
    | apply OnlySail.of_ite | intro _ | apply OnlySail.of_getD | (apply OnlySail.of_snd; assumption) | apply foldl_keeps (OnlySail k s0)
    | simp only [↓OnlySail.mk_other, ↓id_eq] | split

theorem State.putLast_sailed {x2 : Nat} {x3 : FecResult} {x4 : Nat} {x5 : Nat} (h : OnlySail k s0 s) : OnlySail k s0 (State.putLast s k x2 x3 x4 x5) := by
  unfold State.putLast
  repeat' with_reducible
    first
    | assumption | apply State.setWord_sailed | apply State.setSail_sailed | apply OnlySail.of_ite | intro _ | apply OnlySail.of_getD
    | (apply OnlySail.of_snd; assumption) | apply foldl_keeps (OnlySail k s0) | simp only [↓OnlySail.mk_other, ↓id_eq] | split

theorem State.countFec_sailed {x1 : Nat} {x2 : FecResult} {x3 : Nat} {x4 : Nat} (h : OnlySail k s0 s) : OnlySail k s0 (State.countFec s x1 x2 x3 x4) := by
  unfold State.countFec
  repeat' with_reducible
    first
    | assumption | apply State.count_sailed | apply State.bump_sailed | apply OnlySail.of_ite | intro _ | apply OnlySail.of_getD
    | (apply OnlySail.of_snd; assumption) | apply foldl_keeps (OnlySail k s0) | simp only [↓OnlySail.mk_other, ↓id_eq] | split

theorem State.decodeCleura_sailed {x2 : Nat} {x3 : List Iq} {x4 : RxObs} (h : OnlySail k s0 s) : OnlySail k s0 (State.decodeCleura s k x2 x3 x4) := by
  unfold State.decodeCleura
  repeat' with_reducible
    first
    | assumption | apply State.tracked_sailed | apply State.lostSync_sailed | apply State.putLast_sailed | apply State.countFec_sailed
    | apply State.releaseServe_sailed | apply State.deliver_sailed | apply State.setLane_sailed | apply OnlySail.of_ite | intro _
    | apply OnlySail.of_getD | (apply OnlySail.of_snd; assumption) | apply foldl_keeps (OnlySail k s0) | simp only [↓OnlySail.mk_other, ↓id_eq]
    | split

theorem State.advise_sailed {x2 : Lane} (h : OnlySail k s0 s) : OnlySail k s0 (State.advise s k x2) := by
  unfold State.advise
  repeat' with_reducible
    first
    | assumption | apply State.setSail_sailed | apply State.bump_sailed | apply OnlySail.of_ite | intro _ | apply OnlySail.of_getD
    | (apply OnlySail.of_snd; assumption) | apply foldl_keeps (OnlySail k s0) | simp only [↓OnlySail.mk_other, ↓id_eq] | split

/-! ## Receive -/

theorem State.refSwitch_sailed {x2 : Nat} (h : OnlySail k s0 s) : OnlySail k s0 (State.refSwitch s k x2) := by
  unfold State.refSwitch
  repeat' with_reducible
    first
    | assumption | apply State.irq_sailed | apply State.bump_sailed | apply State.put_sailed | apply State.setSail_sailed | apply OnlySail.of_ite
    | intro _ | apply OnlySail.of_getD | (apply OnlySail.of_snd; assumption) | apply foldl_keeps (OnlySail k s0)
    | simp only [↓OnlySail.mk_other, ↓id_eq] | split

theorem State.sailRefLoss_sailed {x2 : Nat} (h : OnlySail k s0 s) : OnlySail k s0 (State.sailRefLoss s k x2) := by
  unfold State.sailRefLoss
  repeat' with_reducible
    first
    | assumption | apply State.put_sailed | apply State.setSail_sailed | apply State.refSwitch_sailed | apply OnlySail.of_ite | intro _
    | apply OnlySail.of_getD | (apply OnlySail.of_snd; assumption) | apply foldl_keeps (OnlySail k s0) | simp only [↓OnlySail.mk_other, ↓id_eq]
    | split

theorem State.sailRefValid_sailed {x2 : Nat} (h : OnlySail k s0 s) : OnlySail k s0 (State.sailRefValid s k x2) := by
  unfold State.sailRefValid
  repeat' with_reducible
    first
    | assumption | apply State.put_sailed | apply State.setSail_sailed | apply OnlySail.of_ite | intro _ | apply OnlySail.of_getD
    | (apply OnlySail.of_snd; assumption) | apply foldl_keeps (OnlySail k s0) | simp only [↓OnlySail.mk_other, ↓id_eq] | split

theorem State.sailRelocked_sailed  (h : OnlySail k s0 s) : OnlySail k s0 (State.sailRelocked s k) := by
  unfold State.sailRelocked
  repeat' with_reducible
    first
    | assumption | apply State.put_sailed | apply State.setSail_sailed | apply State.bump_sailed | apply State.sendReport_sailed
    | apply OnlySail.of_ite | intro _ | apply OnlySail.of_getD | (apply OnlySail.of_snd; assumption) | apply foldl_keeps (OnlySail k s0)
    | simp only [↓OnlySail.mk_other, ↓id_eq] | split

theorem State.sailRevert_sailed  (h : OnlySail k s0 s) : OnlySail k s0 (State.sailRevert s k) := by
  unfold State.sailRevert
  repeat' with_reducible
    first
    | assumption | apply State.refSwitch_sailed | apply OnlySail.of_ite | intro _ | apply OnlySail.of_getD | (apply OnlySail.of_snd; assumption)
    | apply foldl_keeps (OnlySail k s0) | simp only [↓OnlySail.mk_other, ↓id_eq] | split

theorem State.enterGain_sailed {x2 : Nat} {x3 : Nat} (h : OnlySail k s0 s) : OnlySail k s0 (State.enterGain s k x2 x3) := by
  unfold State.enterGain
  repeat' with_reducible
    first
    | assumption | apply State.feSend_sailed | apply State.put_sailed | apply State.setSail_sailed | apply OnlySail.of_ite | intro _
    | apply OnlySail.of_getD | (apply OnlySail.of_snd; assumption) | apply foldl_keeps (OnlySail k s0) | simp only [↓OnlySail.mk_other, ↓id_eq]
    | split

theorem State.closeSlotGain_sailed {x2 : Nat} {x3 : Nat} {x4 : Nat} {x5 : Int} (h : OnlySail k s0 s) : OnlySail k s0 (State.closeSlotGain s k x2 x3 x4 x5) := by
  unfold State.closeSlotGain
  repeat' with_reducible
    first
    | assumption | apply State.setSail_sailed | apply State.put_sailed | apply State.count_sailed | apply OnlySail.of_ite | intro _
    | apply OnlySail.of_getD | (apply OnlySail.of_snd; assumption) | apply foldl_keeps (OnlySail k s0) | simp only [↓OnlySail.mk_other, ↓id_eq]
    | split

theorem State.unblank_sailed {x2 : Nat} (h : OnlySail k s0 s) : OnlySail k s0 (State.unblank s k x2) := by
  unfold State.unblank
  repeat' with_reducible
    first
    | assumption | apply State.count_sailed | apply State.setSail_sailed | apply OnlySail.of_ite | intro _ | apply OnlySail.of_getD
    | (apply OnlySail.of_snd; assumption) | apply foldl_keeps (OnlySail k s0) | simp only [↓OnlySail.mk_other, ↓id_eq] | split

theorem State.reblank_sailed {x2 : Nat} (h : OnlySail k s0 s) : OnlySail k s0 (State.reblank s k x2) := by
  unfold State.reblank
  repeat' with_reducible
    first
    | assumption | apply State.unblank_sailed | apply State.setSail_sailed | apply State.put_sailed | apply OnlySail.of_ite | intro _
    | apply OnlySail.of_getD | (apply OnlySail.of_snd; assumption) | apply foldl_keeps (OnlySail k s0) | simp only [↓OnlySail.mk_other, ↓id_eq]
    | split

theorem State.retuneWindows_sailed  (h : OnlySail k s0 s) : OnlySail k s0 (State.retuneWindows s k) := by
  unfold State.retuneWindows
  repeat' with_reducible
    first
    | assumption | apply State.reblank_sailed | apply State.setSail_sailed | apply State.releaseAll_sailed | apply State.dropWaits_sailed
    | apply State.bump_sailed | apply OnlySail.of_ite | intro _ | apply OnlySail.of_getD | (apply OnlySail.of_snd; assumption)
    | apply foldl_keeps (OnlySail k s0) | simp only [↓OnlySail.mk_other, ↓id_eq] | split

theorem State.accLaneHwmClr_sailed {x1 : Nat} {x2 : Nat} {x3 : Nat} {x4 : Nat} (h : OnlySail k s0 s) : OnlySail k s0 (State.accLaneHwmClr s x1 x2 x3 x4) := by
  unfold State.accLaneHwmClr
  repeat' with_reducible
    first
    | assumption | apply State.sailAction_sailed | apply State.put_sailed | apply OnlySail.of_ite | intro _ | apply OnlySail.of_getD
    | (apply OnlySail.of_snd; assumption) | apply foldl_keeps (OnlySail k s0) | simp only [↓OnlySail.mk_other, ↓id_eq] | split

/-! ## Time -/

theorem State.tpoNext_sailed {x1 : Nat} {x2 : Nat} {x3 : Nat × Nat} (h : OnlySail k s0 s) : OnlySail k s0 (State.tpoNext s x1 x2 x3) := by
  unfold State.tpoNext
  repeat' with_reducible
    first
    | assumption | apply State.put_sailed | apply State.put64_sailed | apply OnlySail.of_ite | intro _ | apply OnlySail.of_getD
    | (apply OnlySail.of_snd; assumption) | apply foldl_keeps (OnlySail k s0) | simp only [↓OnlySail.mk_other, ↓id_eq] | split

theorem State.tpoSkip_sailed {x1 : Nat} {x2 : Nat} {x3 : Nat} (h : OnlySail k s0 s) : OnlySail k s0 (State.tpoSkip s x1 x2 x3) := by
  unfold State.tpoSkip
  repeat' with_reducible
    first
    | assumption | apply State.count_sailed | apply State.tpoNext_sailed | apply State.bump_sailed | apply State.put_sailed | apply OnlySail.of_ite
    | intro _ | apply OnlySail.of_getD | (apply OnlySail.of_snd; assumption) | apply foldl_keeps (OnlySail k s0)
    | simp only [↓OnlySail.mk_other, ↓id_eq] | split

theorem State.quotient_sailed {x1 : Int} {x2 : Int} (h : OnlySail k s0 s) : OnlySail k s0 (State.quotient s x1 x2).2 := by
  unfold State.quotient
  repeat' with_reducible
    first
    | assumption | apply State.free_sailed | apply OnlySail.of_ite | intro _ | apply OnlySail.of_getD | (apply OnlySail.of_snd; assumption)
    | apply foldl_keeps (OnlySail k s0) | simp only [↓OnlySail.mk_other, ↓id_eq] | split

theorem State.tau_sailed {x1 : Nat} {x2 : Nat} (h : OnlySail k s0 s) : OnlySail k s0 (State.tau s x1 x2).2 := by
  unfold State.tau
  repeat' with_reducible
    first
    | assumption | apply State.free_sailed | apply OnlySail.of_ite | intro _ | apply OnlySail.of_getD | (apply OnlySail.of_snd; assumption)
    | apply foldl_keeps (OnlySail k s0) | simp only [↓OnlySail.mk_other, ↓id_eq] | split

end Sys2Proof.Machine
end

