-- ==== Sys2Proof/Laws/SailedMac.lean ====
section
/-! SUPPORT. What stays on sail `k`: one lemma for each operation that acts on one sail alone (OnlySail), of Packets, MacRx, MacPath. -/

namespace Sys2Proof.Machine

variable {k : Nat} {s0 s t : State}

/-! ## Packets -/

theorem State.countConn_sailed {x1 : Nat} {x2 : Fld} (h : OnlySail k s0 s) : OnlySail k s0 (State.countConn s x1 x2) := by
  unfold State.countConn
  repeat' with_reducible
    first
    | assumption | apply State.bump_sailed | apply OnlySail.of_ite | intro _ | apply OnlySail.of_getD | (apply OnlySail.of_snd; assumption)
    | apply foldl_keeps (OnlySail k s0) | simp only [↓OnlySail.mk_other, ↓id_eq] | split

theorem State.retrain_sailed {x1 : Nat} (h : OnlySail k s0 s) : OnlySail k s0 (State.retrain s x1) := by
  unfold State.retrain
  repeat' with_reducible
    first
    | assumption | apply State.countConn_sailed | apply State.setConn_sailed | apply OnlySail.of_ite | intro _ | apply OnlySail.of_getD
    | (apply OnlySail.of_snd; assumption) | apply foldl_keeps (OnlySail k s0) | simp only [↓OnlySail.mk_other, ↓id_eq] | split

theorem State.resend_sailed {x1 : Nat} {x2 : Bool} (h : OnlySail k s0 s) : OnlySail k s0 (State.resend s x1 x2) := by
  unfold State.resend
  repeat' with_reducible
    first
    | assumption | apply State.emitAll_sailed | apply OnlySail.of_ite | intro _ | apply OnlySail.of_getD | (apply OnlySail.of_snd; assumption)
    | apply foldl_keeps (OnlySail k s0) | simp only [↓OnlySail.mk_other, ↓id_eq] | split

theorem State.replay_sailed {x1 : Nat} {x2 : Bool} (h : OnlySail k s0 s) : OnlySail k s0 (State.replay s x1 x2) := by
  unfold State.replay
  repeat' with_reducible
    first
    | assumption | apply State.retrain_sailed | apply State.setConn_sailed | apply State.resend_sailed | apply State.countConn_sailed
    | apply OnlySail.of_ite | intro _ | apply OnlySail.of_getD | (apply OnlySail.of_snd; assumption) | apply foldl_keeps (OnlySail k s0)
    | simp only [↓OnlySail.mk_other, ↓id_eq] | split

theorem State.flushAnswers_sailed {x1 : Nat} {x2 : Nat} (h : OnlySail k s0 s) : OnlySail k s0 (State.flushAnswers s x1 x2) := by
  induction x2 generalizing s with
  | zero => exact h
  | succ _ ih =>
  unfold State.flushAnswers
  repeat' with_reducible
    first
    | assumption | apply ih | apply State.sendOn_sailed | apply State.setConn_sailed | apply OnlySail.of_ite | intro _ | apply OnlySail.of_getD
    | (apply OnlySail.of_snd; assumption) | apply foldl_keeps (OnlySail k s0) | simp only [↓OnlySail.mk_other, ↓id_eq] | split

theorem State.hear_sailed {x2 : Nat} (h : OnlySail k s0 s) : OnlySail k s0 (State.hear s k x2) := by
  unfold State.hear
  repeat' with_reducible
    first
    | assumption | apply State.setSail_sailed | apply OnlySail.of_ite | intro _ | apply OnlySail.of_getD | (apply OnlySail.of_snd; assumption)
    | apply foldl_keeps (OnlySail k s0) | simp only [↓OnlySail.mk_other, ↓id_eq] | split

theorem State.takeoverTo_sailed {x1 : Nat} {x2 : Nat} (h : OnlySail k s0 s) : OnlySail k s0 (State.takeoverTo s x1 x2) := by
  unfold State.takeoverTo
  repeat' with_reducible
    first
    | assumption | apply State.sendOn_sailed | apply OnlySail.of_ite | intro _ | apply OnlySail.of_getD | (apply OnlySail.of_snd; assumption)
    | apply foldl_keeps (OnlySail k s0) | simp only [↓OnlySail.mk_other, ↓id_eq] | split

theorem State.sailLocked_sailed {x1 : Nat} (h : OnlySail k s0 s) : OnlySail k s0 (State.sailLocked s x1) := by
  unfold State.sailLocked
  repeat' with_reducible
    first
    | assumption | apply State.put_sailed | apply OnlySail.of_ite | intro _ | apply OnlySail.of_getD | (apply OnlySail.of_snd; assumption)
    | apply foldl_keeps (OnlySail k s0) | simp only [↓OnlySail.mk_other, ↓id_eq] | split

theorem State.trained_sailed {x1 : Nat} (h : OnlySail k s0 s) : OnlySail k s0 (State.trained s x1) := by
  unfold State.trained
  repeat' with_reducible
    first
    | assumption | apply State.put_sailed | apply State.sailLocked_sailed | apply State.takeoverTo_sailed | apply OnlySail.of_ite | intro _
    | apply OnlySail.of_getD | (apply OnlySail.of_snd; assumption) | apply foldl_keeps (OnlySail k s0) | simp only [↓OnlySail.mk_other, ↓id_eq]
    | split

theorem State.arrive_sailed {x2 : Nat} {x3 : Nat} {x4 : List LinkPkt} (h : OnlySail k s0 s) : OnlySail k s0 (State.arrive s k x2 x3 x4).2 := by
  unfold State.arrive
  repeat' with_reducible
    first
    | assumption | apply State.receive_sailed | apply State.hear_sailed | apply OnlySail.of_ite | intro _ | apply OnlySail.of_getD
    | (apply OnlySail.of_snd; assumption) | apply foldl_keeps (OnlySail k s0) | simp only [↓OnlySail.mk_other, ↓id_eq] | split

theorem State.recordCmd_sailed {x2 : Nat} {x3 : Nat} {x4 : Content} (h : OnlySail k s0 s) : OnlySail k s0 (State.recordCmd s k x2 x3 x4) := by
  unfold State.recordCmd
  repeat' with_reducible
    first
    | assumption | apply State.setSail_sailed | apply OnlySail.of_ite | intro _ | apply OnlySail.of_getD | (apply OnlySail.of_snd; assumption)
    | apply foldl_keeps (OnlySail k s0) | simp only [↓OnlySail.mk_other, ↓id_eq] | split

theorem State.gate_sailed {x2 : Nat} {x3 : Nat} {x4 : Nat} {x5 : Content} (h : OnlySail k s0 s) : OnlySail k s0 (State.gate s k x2 x3 x4 x5).2 := by
  unfold State.gate
  repeat' with_reducible
    first
    | assumption | apply State.bump_sailed | apply State.irq_sailed | apply State.recordCmd_sailed | apply OnlySail.of_ite | intro _
    | apply OnlySail.of_getD | (apply OnlySail.of_snd; assumption) | apply foldl_keeps (OnlySail k s0) | simp only [↓OnlySail.mk_other, ↓id_eq]
    | split

theorem State.accepts_sailed {x2 : Nat} {x3 : Nat} {x4 : Nat} {x5 : Content} {x6 : List LinkPkt} (h : OnlySail k s0 s) : OnlySail k s0 (State.accepts s k x2 x3 x4 x5 x6).2 := by
  unfold State.accepts
  repeat' with_reducible
    first
    | assumption | apply State.arrive_sailed | apply State.gate_sailed | apply OnlySail.of_ite | intro _ | apply OnlySail.of_getD
    | (apply OnlySail.of_snd; assumption) | apply foldl_keeps (OnlySail k s0) | simp only [↓OnlySail.mk_other, ↓id_eq] | split

theorem State.joinTx_sailed {x2 : Nat} {x3 : TxFrame → TxFrame} (h : OnlySail k s0 s) : OnlySail k s0 (State.joinTx s k x2 x3) := by
  unfold State.joinTx
  repeat' with_reducible
    first
    | assumption | apply State.setTx_sailed | apply State.setSail_sailed | apply OnlySail.of_ite | intro _ | apply OnlySail.of_getD
    | (apply OnlySail.of_snd; assumption) | apply foldl_keeps (OnlySail k s0) | simp only [↓OnlySail.mk_other, ↓id_eq] | split

theorem State.takeHints_sailed {x2 : List HintEntry} (h : OnlySail k s0 s) : OnlySail k s0 (State.takeHints s k x2) := by
  unfold State.takeHints
  repeat' with_reducible
    first
    | assumption | apply State.setSail_sailed | apply OnlySail.of_ite | intro _ | apply OnlySail.of_getD | (apply OnlySail.of_snd; assumption)
    | apply foldl_keeps (OnlySail k s0) | simp only [↓OnlySail.mk_other, ↓id_eq] | split

theorem State.loadDuty_sailed {x1 : Nat} (h : OnlySail k s0 s) : OnlySail k s0 (State.loadDuty s x1 k) := by
  unfold State.loadDuty
  repeat' with_reducible
    first
    | assumption | apply State.chargeDuty_sailed | apply OnlySail.of_ite | intro _ | apply OnlySail.of_getD | (apply OnlySail.of_snd; assumption)
    | apply foldl_keeps (OnlySail k s0) | simp only [↓OnlySail.mk_other, ↓id_eq] | split

theorem State.answer_sailed {x1 : Nat} {x2 : Nat} {x3 : Pkt} (h : OnlySail k s0 s) : OnlySail k s0 (State.answer s x1 x2 x3) := by
  unfold State.answer
  repeat' with_reducible
    first
    | assumption | apply State.bump_sailed | apply State.flushAnswers_sailed | apply State.setConn_sailed | apply OnlySail.of_ite | intro _
    | apply OnlySail.of_getD | (apply OnlySail.of_snd; assumption) | apply foldl_keeps (OnlySail k s0) | simp only [↓OnlySail.mk_other, ↓id_eq]
    | split

/-! ## MacRx -/

theorem State.channelTest_sailed {x1 : Nat} {x2 : Nat} {x3 : Link} {x4 : Nat} {x5 : Meta} (h : OnlySail k s0 s) : OnlySail k s0 (State.channelTest s x1 x2 x3 x4 x5) := by
  unfold State.channelTest
  repeat' with_reducible
    first
    | assumption | apply State.bump_sailed | apply OnlySail.of_ite | intro _ | apply OnlySail.of_getD | (apply OnlySail.of_snd; assumption)
    | apply foldl_keeps (OnlySail k s0) | simp only [↓OnlySail.mk_other, ↓id_eq] | split

theorem State.ackLaunch_sailed {x1 : Nat} {x2 : Nat} {x3 : Group} {x4 : Desc} {x5 : Nat} {x6 : Meta} {x7 : Timing} {x8 : Frame} {x9 : Nat} (h : OnlySail k s0 s) : OnlySail k s0 (State.ackLaunch s x1 x2 x3 x4 x5 x6 x7 x8 x9).2 := by
  unfold State.ackLaunch
  repeat' with_reducible
    first
    | assumption | apply State.free_sailed | apply OnlySail.of_ite | intro _ | apply OnlySail.of_getD | (apply OnlySail.of_snd; assumption)
    | apply foldl_keeps (OnlySail k s0) | simp only [↓OnlySail.mk_other, ↓id_eq] | split

/-! ## MacPath -/

theorem State.lookupIid_sailed {x1 : Nat} {x2 : Nat} (h : OnlySail k s0 s) : OnlySail k s0 (State.lookupIid s x1 x2).2 := by
  unfold State.lookupIid
  repeat' with_reducible
    first
    | assumption | apply State.lookupShort_sailed | apply State.lookupAddr_sailed | apply OnlySail.of_ite | intro _ | apply OnlySail.of_getD
    | (apply OnlySail.of_snd; assumption) | apply foldl_keeps (OnlySail k s0) | simp only [↓OnlySail.mk_other, ↓id_eq] | split

end Sys2Proof.Machine
end

