-- ==== Sys2Proof/Laws/SailedPack.lean ====
section
/-! SUPPORT. What stays on sail `k`: one lemma for each operation that acts on one sail alone (OnlySail), of Nv, Reset, Feeds, Timers, Pair, Campaign, Boot. -/

namespace Sys2Proof.Machine

variable {k : Nat} {s0 s t : State}

/-! ## Nv -/

theorem State.freeBytes_sailed {x1 : Nat} (h : OnlySail k s0 s) : OnlySail k s0 (State.freeBytes s x1).2 := by
  induction x1 generalizing s with
  | zero => exact h
  | succ _ ih =>
  unfold State.freeBytes
  repeat' with_reducible
    first
    | assumption | apply ih | apply State.free_sailed | apply OnlySail.of_ite | intro _ | apply OnlySail.of_getD
    | (apply OnlySail.of_snd; assumption) | apply foldl_keeps (OnlySail k s0) | simp only [↓OnlySail.mk_other, ↓id_eq] | split

theorem State.flashBuffer_sailed {x1 : Nat} {x2 : List Nat} (h : OnlySail k s0 s) : OnlySail k s0 (State.flashBuffer s x1 x2) := by
  unfold State.flashBuffer
  repeat' with_reducible
    first
    | assumption | apply State.put_sailed | apply OnlySail.of_ite | intro _ | apply OnlySail.of_getD | (apply OnlySail.of_snd; assumption)
    | apply foldl_keeps (OnlySail k s0) | simp only [↓OnlySail.mk_other, ↓id_eq] | split

/-! ## Reset -/

theorem State.copyFuses_sailed {x1 : Nat} (h : OnlySail k s0 s) : OnlySail k s0 (State.copyFuses s x1) := by
  unfold State.copyFuses
  repeat' with_reducible
    first
    | assumption | apply State.setWord_sailed | apply OnlySail.of_ite | intro _ | apply OnlySail.of_getD | (apply OnlySail.of_snd; assumption)
    | apply foldl_keeps (OnlySail k s0) | simp only [↓OnlySail.mk_other, ↓id_eq] | split

theorem State.trainMast_sailed {x1 : Nat} (h : OnlySail k s0 s) : OnlySail k s0 (State.trainMast s x1) := by
  unfold State.trainMast
  repeat' with_reducible
    first
    | assumption | apply State.setConn_sailed | apply OnlySail.of_ite | intro _ | apply OnlySail.of_getD | (apply OnlySail.of_snd; assumption)
    | apply foldl_keeps (OnlySail k s0) | simp only [↓OnlySail.mk_other, ↓id_eq] | split

/-! ## Feeds -/

theorem State.feedSingle_sailed {x1 : Nat} (h : OnlySail k s0 s) : OnlySail k s0 (State.feedSingle s x1) := by
  unfold State.feedSingle
  repeat' with_reducible
    first
    | assumption | apply State.put_sailed | apply State.bump_sailed | apply OnlySail.of_ite | intro _ | apply OnlySail.of_getD
    | (apply OnlySail.of_snd; assumption) | apply foldl_keeps (OnlySail k s0) | simp only [↓OnlySail.mk_other, ↓id_eq] | split

/-! ## Timers -/

theorem State.timerChain_sailed {x1 : Nat} {x2 : Nat} {x3 : Nat} (h : OnlySail k s0 s) : OnlySail k s0 (State.timerChain s x1 x2 x3) := by
  unfold State.timerChain
  repeat' with_reducible
    first
    | assumption | apply State.put_sailed | apply OnlySail.of_ite | intro _ | apply OnlySail.of_getD | (apply OnlySail.of_snd; assumption)
    | apply foldl_keeps (OnlySail k s0) | simp only [↓OnlySail.mk_other, ↓id_eq] | split

theorem State.capTimer_sailed {x2 : Nat} {x3 : Nat} (h : OnlySail k s0 s) : OnlySail k s0 (State.capTimer s (sailDie k) x2 x3) := by
  unfold State.capTimer
  repeat' with_reducible
    first
    | assumption | apply State.put_sailed | apply State.irq_sailed | apply OnlySail.of_ite | intro _ | apply OnlySail.of_getD
    | (apply OnlySail.of_snd; assumption) | apply foldl_keeps (OnlySail k s0) | simp only [↓OnlySail.mk_other, ↓id_eq] | split

theorem State.thermRails_sailed {x1 : Nat} {x2 : List Int} (h : OnlySail k s0 s) : OnlySail k s0 (State.thermRails s x1 x2) := by
  unfold State.thermRails
  repeat' with_reducible
    first
    | assumption | apply State.put_sailed | apply OnlySail.of_ite | intro _ | apply OnlySail.of_getD | (apply OnlySail.of_snd; assumption)
    | apply foldl_keeps (OnlySail k s0) | simp only [↓OnlySail.mk_other, ↓id_eq] | split

/-! ## Pair -/

theorem State.mismatch_sailed {x1 : Nat} {x2 : Nat} {x3 : Nat} (h : OnlySail k s0 s) : OnlySail k s0 (State.mismatch s x1 x2 x3) := by
  unfold State.mismatch
  repeat' with_reducible
    first
    | assumption | apply State.bump_sailed | apply State.put_sailed | apply OnlySail.of_ite | intro _ | apply OnlySail.of_getD
    | (apply OnlySail.of_snd; assumption) | apply foldl_keeps (OnlySail k s0) | simp only [↓OnlySail.mk_other, ↓id_eq] | split

theorem State.swapWord_sailed {x1 : Nat} {x2 : Nat} {x3 : Nat} (h : OnlySail k s0 s) : OnlySail k s0 (State.swapWord s x1 x2 x3) := by
  unfold State.swapWord
  repeat' with_reducible
    first
    | assumption | apply State.setWord_sailed | apply OnlySail.of_ite | intro _ | apply OnlySail.of_getD | (apply OnlySail.of_snd; assumption)
    | apply foldl_keeps (OnlySail k s0) | simp only [↓OnlySail.mk_other, ↓id_eq] | split

theorem State.sendTakeover_sailed {x1 : Nat} (h : OnlySail k s0 s) : OnlySail k s0 (State.sendTakeover s x1) := by
  unfold State.sendTakeover
  repeat' with_reducible
    first
    | assumption | apply State.takeoverTo_sailed | apply OnlySail.of_ite | intro _ | apply OnlySail.of_getD | (apply OnlySail.of_snd; assumption)
    | apply foldl_keeps (OnlySail k s0) | simp only [↓OnlySail.mk_other, ↓id_eq] | split

/-! ## Campaign -/

theorem State.campEnd_sailed {x1 : Nat} {x2 : Nat} (h : OnlySail k s0 s) : OnlySail k s0 (State.campEnd s x1 x2) := by
  unfold State.campEnd
  repeat' with_reducible
    first
    | assumption | apply State.put_sailed | apply OnlySail.of_ite | intro _ | apply OnlySail.of_getD | (apply OnlySail.of_snd; assumption)
    | apply foldl_keeps (OnlySail k s0) | simp only [↓OnlySail.mk_other, ↓id_eq] | split

/-! ## Boot -/

theorem State.loadLocks_sailed {x2 : Nat} (h : OnlySail k s0 s) : OnlySail k s0 (State.loadLocks s k x2) := by
  unfold State.loadLocks
  repeat' with_reducible
    first
    | assumption | apply State.put_sailed | apply State.copyFuses_sailed | apply State.irq_sailed | apply OnlySail.of_ite | intro _
    | apply OnlySail.of_getD | (apply OnlySail.of_snd; assumption) | apply foldl_keeps (OnlySail k s0) | simp only [↓OnlySail.mk_other, ↓id_eq]
    | split

theorem State.chipWords_sailed {x1 : Nat} (h : OnlySail k s0 s) : OnlySail k s0 (State.chipWords s x1) := by
  unfold State.chipWords
  repeat' with_reducible
    first
    | assumption | apply State.put_sailed | apply OnlySail.of_ite | intro _ | apply OnlySail.of_getD | (apply OnlySail.of_snd; assumption)
    | apply foldl_keeps (OnlySail k s0) | simp only [↓OnlySail.mk_other, ↓id_eq] | split

theorem State.recovery_sailed {x1 : Nat} {x2 : Nat} (h : OnlySail k s0 s) : OnlySail k s0 (State.recovery s x1 x2) := by
  unfold State.recovery
  repeat' with_reducible
    first
    | assumption | apply State.put_sailed | apply OnlySail.of_ite | intro _ | apply OnlySail.of_getD | (apply OnlySail.of_snd; assumption)
    | apply foldl_keeps (OnlySail k s0) | simp only [↓OnlySail.mk_other, ↓id_eq] | split

theorem State.loadWords_sailed {x1 : Nat} {x2 : Tbl (BitVec 32)} (h : OnlySail k s0 s) : OnlySail k s0 (State.loadWords s x1 x2) := by
  unfold State.loadWords
  repeat' with_reducible
    first
    | assumption | apply State.setWord_sailed | apply OnlySail.of_ite | intro _ | apply OnlySail.of_getD | (apply OnlySail.of_snd; assumption)
    | apply foldl_keeps (OnlySail k s0) | simp only [↓OnlySail.mk_other, ↓id_eq] | split

theorem State.trainNew_sailed {x1 : Nat} (h : OnlySail k s0 s) : OnlySail k s0 (State.trainNew s x1) := by
  unfold State.trainNew
  repeat' with_reducible
    first
    | assumption | apply State.setConn_sailed | apply OnlySail.of_ite | intro _ | apply OnlySail.of_getD | (apply OnlySail.of_snd; assumption)
    | apply foldl_keeps (OnlySail k s0) | simp only [↓OnlySail.mk_other, ↓id_eq] | split

end Sys2Proof.Machine
end

