-- ==== Sys2Proof/Laws/SailedAccess.lean ====
section
/-! SUPPORT. What stays on sail `k`: one lemma for each operation that acts on one sail alone (OnlySail), of Commit, FarBase, Access, Far, Tick. -/

namespace Sys2Proof.Machine

variable {k : Nat} {s0 s t : State}

/-! ## Commit -/

theorem State.applyWords_sailed {x1 : Nat} {x2 : Nat} (h : OnlySail k s0 s) : OnlySail k s0 (State.applyWords s x1 x2) := by
  unfold State.applyWords
  repeat' with_reducible
    first
    | assumption | apply State.setWord_sailed | apply OnlySail.of_ite | intro _ | apply OnlySail.of_getD | (apply OnlySail.of_snd; assumption)
    | apply foldl_keeps (OnlySail k s0) | simp only [↓OnlySail.mk_other, ↓id_eq] | split

theorem State.keepInUse_sailed {x2 : Nat} (h : OnlySail k s0 s) : OnlySail k s0 (State.keepInUse s k x2) := by
  unfold State.keepInUse
  repeat' with_reducible
    first
    | assumption | apply State.setSail_sailed | apply OnlySail.of_ite | intro _ | apply OnlySail.of_getD | (apply OnlySail.of_snd; assumption)
    | apply foldl_keeps (OnlySail k s0) | simp only [↓OnlySail.mk_other, ↓id_eq] | split

theorem State.passPage_sailed {x1 : Nat} {x2 : Nat} (h : OnlySail k s0 s) : OnlySail k s0 (State.passPage s x1 x2) := by
  unfold State.passPage
  repeat' with_reducible
    first
    | assumption | apply State.setWord_sailed | apply OnlySail.of_ite | intro _ | apply OnlySail.of_getD | (apply OnlySail.of_snd; assumption)
    | apply foldl_keeps (OnlySail k s0) | simp only [↓OnlySail.mk_other, ↓id_eq] | split

theorem State.timingClamp_sailed {x1 : Nat} (h : OnlySail k s0 s) : OnlySail k s0 (State.timingClamp s x1) := by
  unfold State.timingClamp
  repeat' with_reducible
    first
    | assumption | apply State.setBit_sailed | apply OnlySail.of_ite | intro _ | apply OnlySail.of_getD | (apply OnlySail.of_snd; assumption)
    | apply foldl_keeps (OnlySail k s0) | simp only [↓OnlySail.mk_other, ↓id_eq] | split

theorem State.spiClamp_sailed {x1 : Nat} (h : OnlySail k s0 s) : OnlySail k s0 (State.spiClamp s x1) := by
  unfold State.spiClamp
  repeat' with_reducible
    first
    | assumption | apply State.setBit_sailed | apply OnlySail.of_ite | intro _ | apply OnlySail.of_getD | (apply OnlySail.of_snd; assumption)
    | apply foldl_keeps (OnlySail k s0) | simp only [↓OnlySail.mk_other, ↓id_eq] | split

theorem State.copyPage_sailed {x1 : Nat} {x2 : Nat} {x3 : Nat} (h : OnlySail k s0 s) : OnlySail k s0 (State.copyPage s x1 x2 x3) := by
  unfold State.copyPage
  repeat' with_reducible
    first
    | assumption | apply State.setWord_sailed | apply State.put_sailed | apply OnlySail.of_ite | intro _ | apply OnlySail.of_getD
    | (apply OnlySail.of_snd; assumption) | apply foldl_keeps (OnlySail k s0) | simp only [↓OnlySail.mk_other, ↓id_eq] | split

theorem State.copySnap_sailed {x1 : Nat} {x2 : Nat} (h : OnlySail k s0 s) : OnlySail k s0 (State.copySnap s x1 x2) := by
  unfold State.copySnap
  repeat' with_reducible
    first
    | assumption | apply State.copyPage_sailed | apply OnlySail.of_ite | intro _ | apply OnlySail.of_getD | (apply OnlySail.of_snd; assumption)
    | apply foldl_keeps (OnlySail k s0) | simp only [↓OnlySail.mk_other, ↓id_eq] | split

/-! ## FarBase -/

theorem State.pendWord_sailed {x1 : Nat} {x2 : Nat} {x3 : Nat} {x4 : Nat} {x5 : RegRow} (h : OnlySail k s0 s) : OnlySail k s0 (State.pendWord s x1 x2 x3 x4 x5) := by
  unfold State.pendWord
  repeat' with_reducible
    first
    | assumption | apply State.setWord_sailed | apply OnlySail.of_ite | intro _ | apply OnlySail.of_getD | (apply OnlySail.of_snd; assumption)
    | apply foldl_keeps (OnlySail k s0) | simp only [↓OnlySail.mk_other, ↓id_eq] | split

theorem State.farAdvance_sailed {x1 : Nat} {x2 : Nat} {x3 : Nat} (h : OnlySail k s0 s) : OnlySail k s0 (State.farAdvance s x1 x2 x3) := by
  unfold State.farAdvance
  repeat' with_reducible
    first
    | assumption | apply State.bput_sailed | apply OnlySail.of_ite | intro _ | apply OnlySail.of_getD | (apply OnlySail.of_snd; assumption)
    | apply foldl_keeps (OnlySail k s0) | simp only [↓OnlySail.mk_other, ↓id_eq] | split

theorem State.farRefused_sailed {x1 : Nat} {x2 : Nat} (h : OnlySail k s0 s) : OnlySail k s0 (State.farRefused s x1 x2) := by
  unfold State.farRefused
  repeat' with_reducible
    first
    | assumption | apply State.bump_sailed | apply State.capture_sailed | apply OnlySail.of_ite | intro _ | apply OnlySail.of_getD
    | (apply OnlySail.of_snd; assumption) | apply foldl_keeps (OnlySail k s0) | simp only [↓OnlySail.mk_other, ↓id_eq] | split

/-! ## Access -/

theorem State.mapStep_sailed {x1 : Nat} (h : OnlySail k s0 s) : OnlySail k s0 (State.mapStep s x1) := by
  unfold State.mapStep
  repeat' with_reducible
    first
    | assumption | apply State.put_sailed | apply OnlySail.of_ite | intro _ | apply OnlySail.of_getD | (apply OnlySail.of_snd; assumption)
    | apply foldl_keeps (OnlySail k s0) | simp only [↓OnlySail.mk_other, ↓id_eq] | split

theorem State.markAgain_sailed {x1 : Nat} {x2 : Nat} (h : OnlySail k s0 s) : OnlySail k s0 (State.markAgain s x1 x2) := by
  unfold State.markAgain
  repeat' with_reducible
    first
    | assumption | apply State.raise_sailed | apply OnlySail.of_ite | intro _ | apply OnlySail.of_getD | (apply OnlySail.of_snd; assumption)
    | apply foldl_keeps (OnlySail k s0) | simp only [↓OnlySail.mk_other, ↓id_eq] | split

theorem State.writeFields_sailed {x1 : Nat} {x2 : Nat} {x3 : Nat} {x4 : Nat} {x5 : Nat} {x6 : RegRow} (h : OnlySail k s0 s) : OnlySail k s0 (State.writeFields s x1 x2 x3 x4 x5 x6) := by
  unfold State.writeFields
  repeat' with_reducible
    first
    | assumption | apply State.setWord_sailed | apply State.lockv_sailed | apply OnlySail.of_ite | intro _ | apply OnlySail.of_getD
    | (apply OnlySail.of_snd; assumption) | apply foldl_keeps (OnlySail k s0) | simp only [↓OnlySail.mk_other, ↓id_eq] | split

theorem State.withOutcome_sailed {x1 : Nat} {x2 : Nat} {x3 : Bool} {x4 : State → State} (hf4 : ∀ y0, OnlySail k s0 y0 → OnlySail k s0 (x4 y0)) (h : OnlySail k s0 s) : OnlySail k s0 (State.withOutcome s x1 x2 x3 x4).2 := by
  unfold State.withOutcome
  repeat' with_reducible
    first
    | assumption | apply State.setWord_sailed | apply hf4 | apply OnlySail.of_ite | intro _ | apply OnlySail.of_getD
    | (apply OnlySail.of_snd; assumption) | apply foldl_keeps (OnlySail k s0) | simp only [↓OnlySail.mk_other, ↓id_eq] | split

/-! ## Far -/

theorem State.answerFar_sailed {x1 : Nat} {x2 : Nat} {x3 : Nat} {x4 : Nat} {x5 : Nat} (h : OnlySail k s0 s) : OnlySail k s0 (State.answerFar s x1 x2 x3 x4 x5) := by
  unfold State.answerFar
  repeat' with_reducible
    first
    | assumption | apply State.answer_sailed | apply OnlySail.of_ite | intro _ | apply OnlySail.of_getD | (apply OnlySail.of_snd; assumption)
    | apply foldl_keeps (OnlySail k s0) | simp only [↓OnlySail.mk_other, ↓id_eq] | split

theorem State.farComplete_sailed {x1 : Nat} {x2 : FarReq} {x3 : Nat} {x4 : Nat} (h : OnlySail k s0 s) : OnlySail k s0 (State.farComplete s x1 x2 x3 x4) := by
  unfold State.farComplete
  repeat' with_reducible
    first
    | assumption | apply State.bput64_sailed | apply State.emit_sailed | apply OnlySail.of_ite | intro _ | apply OnlySail.of_getD
    | (apply OnlySail.of_snd; assumption) | apply foldl_keeps (OnlySail k s0) | simp only [↓OnlySail.mk_other, ↓id_eq] | split

/-! ## Tick -/

theorem State.sailAsn_sailed {x2 : Nat} {x3 : Nat} (h : OnlySail k s0 s) : OnlySail k s0 (State.sailAsn s k x2 x3) := by
  unfold State.sailAsn
  repeat' with_reducible
    first
    | assumption | apply State.setSail_sailed | apply OnlySail.of_ite | intro _ | apply OnlySail.of_getD | (apply OnlySail.of_snd; assumption)
    | apply foldl_keeps (OnlySail k s0) | simp only [↓OnlySail.mk_other, ↓id_eq] | split

theorem State.sailSettle_sailed  (h : OnlySail k s0 s) : OnlySail k s0 (State.sailSettle s k) := by
  unfold State.sailSettle
  repeat' with_reducible
    first
    | assumption | apply State.retuneWindows_sailed | apply State.setSail_sailed | apply State.applyRetune_sailed | apply State.put_sailed
    | apply OnlySail.of_ite | intro _ | apply OnlySail.of_getD | (apply OnlySail.of_snd; assumption) | apply foldl_keeps (OnlySail k s0)
    | simp only [↓OnlySail.mk_other, ↓id_eq] | split

theorem State.manualGain_sailed {x2 : Nat} (h : OnlySail k s0 s) : OnlySail k s0 (State.manualGain s k x2) := by
  unfold State.manualGain
  repeat' with_reducible
    first
    | assumption | apply State.enterGain_sailed | apply OnlySail.of_ite | intro _ | apply OnlySail.of_getD | (apply OnlySail.of_snd; assumption)
    | apply foldl_keeps (OnlySail k s0) | simp only [↓OnlySail.mk_other, ↓id_eq] | split

theorem State.sailClose_sailed {x2 : AdcSlot} (h : OnlySail k s0 s) : OnlySail k s0 (State.sailClose s k x2) := by
  unfold State.sailClose
  repeat' with_reducible
    first
    | assumption | apply State.closeSlotGain_sailed | apply State.bump_sailed | apply State.setSail_sailed | apply OnlySail.of_ite | intro _
    | apply OnlySail.of_getD | (apply OnlySail.of_snd; assumption) | apply foldl_keeps (OnlySail k s0) | simp only [↓OnlySail.mk_other, ↓id_eq]
    | split

theorem State.sailResume_sailed  (h : OnlySail k s0 s) : OnlySail k s0 (State.sailResume s k) := by
  unfold State.sailResume
  repeat' with_reducible
    first
    | assumption | apply State.setSail_sailed | apply OnlySail.of_ite | intro _ | apply OnlySail.of_getD | (apply OnlySail.of_snd; assumption)
    | apply foldl_keeps (OnlySail k s0) | simp only [↓OnlySail.mk_other, ↓id_eq] | split

end Sys2Proof.Machine
end

