-- ==== Sys2Proof/Laws/WithinBase.lean ====
section
/-! SUPPORT. What an operation on one die leaves alone: the base of the frame lemmas. -/

namespace Sys2Proof.Machine
variable {m : Nat} {s0 s t : State}

theorem OnlyMast.refl : OnlyMast m s s := ⟨rfl, rfl⟩

theorem OnlyMast.trans {a b c : State} (h : OnlyMast m a b) (h2 : OnlyMast m b c) : OnlyMast m a c := by
  refine ⟨?_, h2.2.trans h.2⟩
  have e1 := h.1; have e2 := h2.1
  rw [e1] at e2
  simpa using e2

theorem OnlyMast.mk_other {fc : Nat} {o : List Out} {r : Tbl Word} {cn : Tbl Conn} :
    OnlyMast m s0 (State.mk s.variant s.now fc r s.mastA s.mastB s.sails cn s.profAct s.profPend s.timerAt s.timerRem s.halted s.convs s.shadow s.phase
      s.refValid s.browned s.testEn s.lowpwr s.reefed s.tap o s.pending) ↔ OnlyMast m s0 s := by
  constructor <;> intro h <;> refine ⟨?_, h.2⟩ <;> have e := h.1 <;> cases s <;> simp_all

theorem OnlyMast.of_ite {c : Prop} [Decidable c] (h1 : c → OnlyMast m s0 s) (h2 : ¬ c → OnlyMast m s0 t) : OnlyMast m s0 (if c then s else t) := by
  split
  · exact h1 ‹_›
  · exact h2 ‹_›

theorem OnlyMast.of_getD {o : Option State} (h1 : ∀ t, o = some t → OnlyMast m s0 t) (h2 : OnlyMast m s0 s) : OnlyMast m s0 (o.getD s) := by
  cases o with
  | none => exact h2
  | some t => exact h1 t rfl

theorem OnlyMast.of_snd {β : Type} {p : β × State} {y : β} (e : p = (y, t)) (h : OnlyMast m s0 p.2) : OnlyMast m s0 t := by
  rw [e] at h; exact h

theorem State.setConn_within {c : Nat} {x : Conn} (h : OnlyMast m s0 s) : OnlyMast m s0 (s.setConn c x) := OnlyMast.mk_other.mpr h

theorem State.setMast_within {x : Mast} (hm : m < 2) (h : OnlyMast m s0 s) : OnlyMast m s0 (s.setMast m x) := by
  obtain ⟨h1, h2⟩ := h
  unfold State.setMast
  rcases (by omega : m = 0 ∨ m = 1) with rfl | rfl
  · refine ⟨?_, h2⟩; rw [h1]; simp
  · refine ⟨?_, h2⟩; rw [h1]; simp

end Sys2Proof.Machine
end

