-- ==== Sys2Proof/Laws/WithinCore.lean ====
section
/-! SUPPORT. What stays within mast `m`: one lemma for each operation that acts on one mast alone (OnlyMast), of Ops, Mirror, Saltern, NvBase, Halyard, NodeTab. -/

namespace Sys2Proof.Machine

variable {m : Nat} {s0 s t : State}

/-! ## Ops -/

theorem State.setWord_within {x1 : Nat} {x2 : Word} (hm : m < 2) (h : OnlyMast m s0 s) : OnlyMast m s0 (State.setWord s x1 x2) := by
  unfold State.setWord
  repeat' with_reducible
    first
    | assumption | apply OnlyMast.of_ite | intro _ | apply OnlyMast.of_getD | (apply OnlyMast.of_snd; assumption) | apply foldl_keeps (OnlyMast m s0)
    | simp only [↓OnlyMast.mk_other, ↓id_eq] | split

theorem State.put_within {x1 : Nat} {x2 : Fld} {x3 : Nat} (hm : m < 2) (h : OnlyMast m s0 s) : OnlyMast m s0 (State.put s x1 x2 x3) := by
  unfold State.put
  repeat' with_reducible
    first
    | assumption | apply State.setWord_within | apply OnlyMast.of_ite | intro _ | apply OnlyMast.of_getD | (apply OnlyMast.of_snd; assumption)
    | apply foldl_keeps (OnlyMast m s0) | simp only [↓OnlyMast.mk_other, ↓id_eq] | split

theorem State.bput_within {x1 : Nat} {x2 : Nat} {x3 : Fld} {x4 : Nat} (hm : m < 2) (h : OnlyMast m s0 s) : OnlyMast m s0 (State.bput s x1 x2 x3 x4) := by
  unfold State.bput
  repeat' with_reducible
    first
    | assumption | apply State.setWord_within | apply OnlyMast.of_ite | intro _ | apply OnlyMast.of_getD | (apply OnlyMast.of_snd; assumption)
    | apply foldl_keeps (OnlyMast m s0) | simp only [↓OnlyMast.mk_other, ↓id_eq] | split

theorem State.put64_within {x1 : Nat} {x2 : Fld} {x3 : Nat} (hm : m < 2) (h : OnlyMast m s0 s) : OnlyMast m s0 (State.put64 s x1 x2 x3) := by
  unfold State.put64
  repeat' with_reducible
    first
    | assumption | apply State.setWord_within | apply OnlyMast.of_ite | intro _ | apply OnlyMast.of_getD | (apply OnlyMast.of_snd; assumption)
    | apply foldl_keeps (OnlyMast m s0) | simp only [↓OnlyMast.mk_other, ↓id_eq] | split

theorem State.bput64_within {x1 : Nat} {x2 : Nat} {x3 : Fld} {x4 : Nat} (hm : m < 2) (h : OnlyMast m s0 s) : OnlyMast m s0 (State.bput64 s x1 x2 x3 x4) := by
  unfold State.bput64
  repeat' with_reducible
    first
    | assumption | apply State.setWord_within | apply OnlyMast.of_ite | intro _ | apply OnlyMast.of_getD | (apply OnlyMast.of_snd; assumption)
    | apply foldl_keeps (OnlyMast m s0) | simp only [↓OnlyMast.mk_other, ↓id_eq] | split

theorem State.count_within {x1 : Nat} {x2 : Fld} {x3 : Nat} (hm : m < 2) (h : OnlyMast m s0 s) : OnlyMast m s0 (State.count s x1 x2 x3) := by
  unfold State.count
  repeat' with_reducible
    first
    | assumption | apply State.put_within | apply OnlyMast.of_ite | intro _ | apply OnlyMast.of_getD | (apply OnlyMast.of_snd; assumption)
    | apply foldl_keeps (OnlyMast m s0) | simp only [↓OnlyMast.mk_other, ↓id_eq] | split

theorem State.bump_within {x1 : Nat} {x2 : Fld} (hm : m < 2) (h : OnlyMast m s0 s) : OnlyMast m s0 (State.bump s x1 x2) := by
  unfold State.bump
  repeat' with_reducible
    first
    | assumption | apply State.count_within | apply OnlyMast.of_ite | intro _ | apply OnlyMast.of_getD | (apply OnlyMast.of_snd; assumption)
    | apply foldl_keeps (OnlyMast m s0) | simp only [↓OnlyMast.mk_other, ↓id_eq] | split

theorem State.raise_within {x1 : Nat} {x2 : Fld} {x3 : Nat} (hm : m < 2) (h : OnlyMast m s0 s) : OnlyMast m s0 (State.raise s x1 x2 x3) := by
  unfold State.raise
  repeat' with_reducible
    first
    | assumption | apply State.put_within | apply OnlyMast.of_ite | intro _ | apply OnlyMast.of_getD | (apply OnlyMast.of_snd; assumption)
    | apply foldl_keeps (OnlyMast m s0) | simp only [↓OnlyMast.mk_other, ↓id_eq] | split

theorem State.free_within  (hm : m < 2) (h : OnlyMast m s0 s) : OnlyMast m s0 (State.free s).2 := by
  unfold State.free
  repeat' with_reducible
    first
    | assumption | apply OnlyMast.of_ite | intro _ | apply OnlyMast.of_getD | (apply OnlyMast.of_snd; assumption) | apply foldl_keeps (OnlyMast m s0)
    | simp only [↓OnlyMast.mk_other, ↓id_eq] | split

theorem State.emit_within {x1 : Out} (hm : m < 2) (h : OnlyMast m s0 s) : OnlyMast m s0 (State.emit s x1) := by
  unfold State.emit
  repeat' with_reducible
    first
    | assumption | apply OnlyMast.of_ite | intro _ | apply OnlyMast.of_getD | (apply OnlyMast.of_snd; assumption) | apply foldl_keeps (OnlyMast m s0)
    | simp only [↓OnlyMast.mk_other, ↓id_eq] | split

theorem State.emitAll_within {x1 : List Out} (hm : m < 2) (h : OnlyMast m s0 s) : OnlyMast m s0 (State.emitAll s x1) := by
  unfold State.emitAll
  repeat' with_reducible
    first
    | assumption | apply OnlyMast.of_ite | intro _ | apply OnlyMast.of_getD | (apply OnlyMast.of_snd; assumption) | apply foldl_keeps (OnlyMast m s0)
    | simp only [↓OnlyMast.mk_other, ↓id_eq] | split

theorem State.pump_within {x1 : Nat} {x2 : Bool} (hm : m < 2) (h : OnlyMast m s0 s) : OnlyMast m s0 (State.pump s x1 x2) := by
  unfold State.pump
  repeat' with_reducible
    first
    | assumption | apply State.emitAll_within | apply State.setConn_within | apply OnlyMast.of_ite | intro _ | apply OnlyMast.of_getD
    | (apply OnlyMast.of_snd; assumption) | apply foldl_keeps (OnlyMast m s0) | simp only [↓OnlyMast.mk_other, ↓id_eq] | split

theorem State.sendOn_within {x1 : Nat} {x2 : Bool} {x3 : List Pkt} (hm : m < 2) (h : OnlyMast m s0 s) : OnlyMast m s0 (State.sendOn s x1 x2 x3) := by
  unfold State.sendOn
  repeat' with_reducible
    first
    | assumption | apply State.pump_within | apply State.setConn_within | apply OnlyMast.of_ite | intro _ | apply OnlyMast.of_getD
    | (apply OnlyMast.of_snd; assumption) | apply foldl_keeps (OnlyMast m s0) | simp only [↓OnlyMast.mk_other, ↓id_eq] | split

theorem State.sendLinkctl_within {x1 : Nat} {x2 : Bool} (hm : m < 2) (h : OnlyMast m s0 s) : OnlyMast m s0 (State.sendLinkctl s x1 x2) := by
  unfold State.sendLinkctl
  repeat' with_reducible
    first
    | assumption | apply State.emit_within | apply State.setConn_within | apply OnlyMast.of_ite | intro _ | apply OnlyMast.of_getD
    | (apply OnlyMast.of_snd; assumption) | apply foldl_keeps (OnlyMast m s0) | simp only [↓OnlyMast.mk_other, ↓id_eq] | split

theorem State.takePkt_within {x1 : Nat} {x2 : Bool} {x3 : LinkPkt} (hm : m < 2) (h : OnlyMast m s0 s) : OnlyMast m s0 (State.takePkt s x1 x2 x3).2 := by
  unfold State.takePkt
  repeat' with_reducible
    first
    | assumption | apply State.setConn_within | apply State.bump_within | apply State.sendLinkctl_within | apply OnlyMast.of_ite | intro _
    | apply OnlyMast.of_getD | (apply OnlyMast.of_snd; assumption) | apply foldl_keeps (OnlyMast m s0) | simp only [↓OnlyMast.mk_other, ↓id_eq]
    | split

theorem State.takePkts_within {x1 : Nat} {x2 : Bool} {x3 : Nat} {x4 : List LinkPkt} (hm : m < 2) (h : OnlyMast m s0 s) : OnlyMast m s0 (State.takePkts s x1 x2 x3 x4).2 := by
  induction x4 generalizing s with
  | nil => exact h
  | cons _ _ ih =>
  unfold State.takePkts
  repeat' with_reducible
    first
    | assumption | apply ih | apply State.takePkt_within | apply OnlyMast.of_ite | intro _ | apply OnlyMast.of_getD
    | (apply OnlyMast.of_snd; assumption) | apply foldl_keeps (OnlyMast m s0) | simp only [↓OnlyMast.mk_other, ↓id_eq] | split

theorem State.receive_within {x1 : Nat} {x2 : Bool} {x3 : Nat} {x4 : List LinkPkt} (hm : m < 2) (h : OnlyMast m s0 s) : OnlyMast m s0 (State.receive s x1 x2 x3 x4).2 := by
  unfold State.receive
  repeat' with_reducible
    first
    | assumption | apply State.takePkts_within | apply OnlyMast.of_ite | intro _ | apply OnlyMast.of_getD | (apply OnlyMast.of_snd; assumption)
    | apply foldl_keeps (OnlyMast m s0) | simp only [↓OnlyMast.mk_other, ↓id_eq] | split

theorem State.sailSend_within {x1 : Nat} {x2 : List Pkt} (hm : m < 2) (h : OnlyMast m s0 s) : OnlyMast m s0 (State.sailSend s x1 x2) := by
  unfold State.sailSend
  repeat' with_reducible
    first
    | assumption | apply State.sendOn_within | apply OnlyMast.of_ite | intro _ | apply OnlyMast.of_getD | (apply OnlyMast.of_snd; assumption)
    | apply foldl_keeps (OnlyMast m s0) | simp only [↓OnlyMast.mk_other, ↓id_eq] | split

theorem State.vecSend_within {x2 : Nat} (hm : m < 2) (h : OnlyMast m s0 s) : OnlyMast m s0 (State.vecSend s m x2) := by
  unfold State.vecSend
  repeat' with_reducible
    first
    | assumption | apply State.setMast_within | apply State.emit_within | apply State.bump_within | apply OnlyMast.of_ite | intro _
    | apply OnlyMast.of_getD | (apply OnlyMast.of_snd; assumption) | apply foldl_keeps (OnlyMast m s0) | simp only [↓OnlyMast.mk_other, ↓id_eq]
    | split

theorem State.irqEdge_within {x0 : State} {x3 : Nat} (hm : m < 2) (h : OnlyMast m s0 s) : OnlyMast m s0 (State.irqEdge x0 s m x3) := by
  unfold State.irqEdge
  rw [if_pos hm]
  repeat' with_reducible first | assumption | apply State.vecSend_within | apply OnlyMast.of_ite | intro _ | simp only [↓OnlyMast.mk_other]

theorem State.irq_within {x2 : Nat} {x3 : Nat} (hm : m < 2) (h : OnlyMast m s0 s) : OnlyMast m s0 (State.irq s m x2 x3) := by
  unfold State.irq
  repeat' with_reducible
    first
    | assumption | apply State.irqEdge_within | apply State.setWord_within | apply OnlyMast.of_ite | intro _ | apply OnlyMast.of_getD
    | (apply OnlyMast.of_snd; assumption) | apply foldl_keeps (OnlyMast m s0) | simp only [↓OnlyMast.mk_other, ↓id_eq] | split

theorem State.setBit_within {x1 : Nat} {x2 : Nat} {x3 : Nat} (hm : m < 2) (h : OnlyMast m s0 s) : OnlyMast m s0 (State.setBit s x1 x2 x3) := by
  unfold State.setBit
  repeat' with_reducible
    first
    | assumption | apply State.setWord_within | apply OnlyMast.of_ite | intro _ | apply OnlyMast.of_getD | (apply OnlyMast.of_snd; assumption)
    | apply foldl_keeps (OnlyMast m s0) | simp only [↓OnlyMast.mk_other, ↓id_eq] | split

theorem State.capture_within {x1 : Nat} {x2 : Nat} {x3 : Nat} {x4 : Nat} {x5 : Nat} {x6 : Nat} (hm : m < 2) (h : OnlyMast m s0 s) : OnlyMast m s0 (State.capture s x1 x2 x3 x4 x5 x6) := by
  unfold State.capture
  repeat' with_reducible
    first
    | assumption | apply State.setBit_within | apply State.setWord_within | apply OnlyMast.of_ite | intro _ | apply OnlyMast.of_getD
    | (apply OnlyMast.of_snd; assumption) | apply foldl_keeps (OnlyMast m s0) | simp only [↓OnlyMast.mk_other, ↓id_eq] | split

theorem State.deny_within {x2 : Nat} {x3 : Nat} {x4 : Req} {x5 : Bool} (hm : m < 2) (h : OnlyMast m s0 s) : OnlyMast m s0 (State.deny s m x2 x3 x4 x5) := by
  unfold State.deny
  repeat' with_reducible
    first
    | assumption | apply State.irq_within | apply State.bump_within | apply State.capture_within | apply OnlyMast.of_ite | intro _
    | apply OnlyMast.of_getD | (apply OnlyMast.of_snd; assumption) | apply foldl_keeps (OnlyMast m s0) | simp only [↓OnlyMast.mk_other, ↓id_eq]
    | split

theorem State.unmapped_within {x1 : Nat} {x2 : Nat} (hm : m < 2) (h : OnlyMast m s0 s) : OnlyMast m s0 (State.unmapped s x1 x2) := by
  unfold State.unmapped
  repeat' with_reducible
    first
    | assumption | apply State.bump_within | apply State.put_within | apply OnlyMast.of_ite | intro _ | apply OnlyMast.of_getD
    | (apply OnlyMast.of_snd; assumption) | apply foldl_keeps (OnlyMast m s0) | simp only [↓OnlyMast.mk_other, ↓id_eq] | split

theorem State.action_within {x2 : Nat} {x3 : Nat} {x4 : Req} {x5 : Bool} {x6 : Nat} {x7 : Nat} {x8 : State → State} (hf8 : ∀ y0, OnlyMast m s0 y0 → OnlyMast m s0 (x8 y0)) (hm : m < 2) (h : OnlyMast m s0 s) : OnlyMast m s0 (State.action s m x2 x3 x4 x5 x6 x7 x8) := by
  unfold State.action
  repeat' with_reducible
    first
    | assumption | apply State.unmapped_within | apply State.deny_within | apply State.capture_within | apply hf8 | apply OnlyMast.of_ite | intro _
    | apply OnlyMast.of_getD | (apply OnlyMast.of_snd; assumption) | apply foldl_keeps (OnlyMast m s0) | simp only [↓OnlyMast.mk_other, ↓id_eq]
    | split

theorem State.lockv_within {x1 : Nat} {x2 : Nat} {x3 : Nat} {x4 : Req} (hm : m < 2) (h : OnlyMast m s0 s) : OnlyMast m s0 (State.lockv s x1 x2 x3 x4) := by
  unfold State.lockv
  repeat' with_reducible
    first
    | assumption | apply State.capture_within | apply OnlyMast.of_ite | intro _ | apply OnlyMast.of_getD | (apply OnlyMast.of_snd; assumption)
    | apply foldl_keeps (OnlyMast m s0) | simp only [↓OnlyMast.mk_other, ↓id_eq] | split

/-! ## Mirror -/

theorem State.mirror_within {x2 : Input} {x3 : Nat} (e : State.mirror s m x2 x3 = some t) (hm : m < 2) (h : OnlyMast m s0 s) : OnlyMast m s0 t := by
  unfold State.mirror at e
  try dsimp only at e
  repeat' split at e
  all_goals first | cases e | skip
  all_goals try simp only [Option.some.injEq, Prod.mk.injEq] at e
  all_goals try obtain ⟨rfl, rfl⟩ := e
  all_goals try simp only [Option.map_eq_some_iff] at e
  all_goals try obtain ⟨_, e, rfl⟩ := e
  all_goals repeat' with_reducible
    first
    | assumption | apply State.put64_within | apply State.setMast_within | apply State.sendOn_within | apply State.bump_within
    | apply OnlyMast.of_ite | intro _ | apply OnlyMast.of_getD | (apply OnlyMast.of_snd; assumption) | apply foldl_keeps (OnlyMast m s0)
    | simp only [↓OnlyMast.mk_other, ↓id_eq] | split

theorem State.input_within {x2 : Input} {x3 : State → State} (hf3 : ∀ y0, OnlyMast m s0 y0 → OnlyMast m s0 (x3 y0)) (hm : m < 2) (h : OnlyMast m s0 s) : OnlyMast m s0 (State.input s m x2 x3) := by
  unfold State.input
  repeat' with_reducible
    first
    | assumption | (apply State.mirror_within; assumption) | apply hf3 | apply OnlyMast.of_ite | intro _ | apply OnlyMast.of_getD
    | (apply OnlyMast.of_snd; assumption) | apply foldl_keeps (OnlyMast m s0) | simp only [↓OnlyMast.mk_other, ↓id_eq] | split

theorem State.draw_within {x2 : Nat} (hm : m < 2) (h : OnlyMast m s0 s) : OnlyMast m s0 (State.draw s m x2).2 := by
  unfold State.draw
  repeat' with_reducible
    first
    | assumption | apply State.free_within | (apply State.mirror_within; assumption) | apply State.setMast_within | apply OnlyMast.of_ite | intro _
    | apply OnlyMast.of_getD | (apply OnlyMast.of_snd; assumption) | apply foldl_keeps (OnlyMast m s0) | simp only [↓OnlyMast.mk_other, ↓id_eq]
    | split

theorem State.selfFaults_within {x2 : Nat} (hm : m < 2) (h : OnlyMast m s0 s) : OnlyMast m s0 (State.selfFaults s m x2) := by
  unfold State.selfFaults
  repeat' with_reducible
    first
    | assumption | apply State.irq_within | apply State.put_within | apply OnlyMast.of_ite | intro _ | apply OnlyMast.of_getD
    | (apply OnlyMast.of_snd; assumption) | apply foldl_keeps (OnlyMast m s0) | simp only [↓OnlyMast.mk_other, ↓id_eq] | split

/-! ## Saltern -/

theorem State.setSal_within {x2 : Saltern} (hm : m < 2) (h : OnlyMast m s0 s) : OnlyMast m s0 (State.setSal s m x2) := by
  unfold State.setSal
  repeat' with_reducible
    first
    | assumption | apply State.setMast_within | apply OnlyMast.of_ite | intro _ | apply OnlyMast.of_getD | (apply OnlyMast.of_snd; assumption)
    | apply foldl_keeps (OnlyMast m s0) | simp only [↓OnlyMast.mk_other, ↓id_eq] | split

theorem State.pauseSend_within {x2 : Nat} {x3 : Bool} (hm : m < 2) (h : OnlyMast m s0 s) : OnlyMast m s0 (State.pauseSend s m x2 x3) := by
  unfold State.pauseSend
  repeat' with_reducible
    first
    | assumption | apply State.setSal_within | apply State.emit_within | apply State.bump_within | apply OnlyMast.of_ite | intro _
    | apply OnlyMast.of_getD | (apply OnlyMast.of_snd; assumption) | apply foldl_keeps (OnlyMast m s0) | simp only [↓OnlyMast.mk_other, ↓id_eq]
    | split

theorem State.pauseCheck_within {x2 : Nat} (hm : m < 2) (h : OnlyMast m s0 s) : OnlyMast m s0 (State.pauseCheck s m x2) := by
  unfold State.pauseCheck
  repeat' with_reducible
    first
    | assumption | apply State.pauseSend_within | apply OnlyMast.of_ite | intro _ | apply OnlyMast.of_getD | (apply OnlyMast.of_snd; assumption)
    | apply foldl_keeps (OnlyMast m s0) | simp only [↓OnlyMast.mk_other, ↓id_eq] | split

theorem State.pauseAll_within  (hm : m < 2) (h : OnlyMast m s0 s) : OnlyMast m s0 (State.pauseAll s m) := by
  unfold State.pauseAll
  repeat' with_reducible
    first
    | assumption | apply State.pauseCheck_within | apply OnlyMast.of_ite | intro _ | apply OnlyMast.of_getD | (apply OnlyMast.of_snd; assumption)
    | apply foldl_keeps (OnlyMast m s0) | simp only [↓OnlyMast.mk_other, ↓id_eq] | split

theorem State.brineCheck_within  (hm : m < 2) (h : OnlyMast m s0 s) : OnlyMast m s0 (State.brineCheck s m) := by
  unfold State.brineCheck
  repeat' with_reducible
    first
    | assumption | apply State.pauseAll_within | apply State.irq_within | apply State.setSal_within | apply OnlyMast.of_ite | intro _
    | apply OnlyMast.of_getD | (apply OnlyMast.of_snd; assumption) | apply foldl_keeps (OnlyMast m s0) | simp only [↓OnlyMast.mk_other, ↓id_eq]
    | split

theorem State.placeAdd_within {x2 : Place} {x3 : Nat} (hm : m < 2) (h : OnlyMast m s0 s) : OnlyMast m s0 (State.placeAdd s m x2 x3) := by
  unfold State.placeAdd
  repeat' with_reducible
    first
    | assumption | apply State.setSal_within | apply OnlyMast.of_ite | intro _ | apply OnlyMast.of_getD | (apply OnlyMast.of_snd; assumption)
    | apply foldl_keeps (OnlyMast m s0) | simp only [↓OnlyMast.mk_other, ↓id_eq] | split

theorem State.placeSub_within {x2 : Place} {x3 : Nat} (hm : m < 2) (h : OnlyMast m s0 s) : OnlyMast m s0 (State.placeSub s m x2 x3) := by
  unfold State.placeSub
  repeat' with_reducible
    first
    | assumption | apply State.setSal_within | apply OnlyMast.of_ite | intro _ | apply OnlyMast.of_getD | (apply OnlyMast.of_snd; assumption)
    | apply foldl_keeps (OnlyMast m s0) | simp only [↓OnlyMast.mk_other, ↓id_eq] | split

theorem State.allocItem_within {x2 : Nat} {x3 : Nat} {x4 : Body} {y} (e : State.allocItem s m x2 x3 x4 = some (y, t)) (hm : m < 2) (h : OnlyMast m s0 s) : OnlyMast m s0 t := by
  unfold State.allocItem at e
  try dsimp only at e
  repeat' split at e
  all_goals first | cases e | skip
  all_goals try simp only [Option.some.injEq, Prod.mk.injEq] at e
  all_goals try obtain ⟨rfl, rfl⟩ := e
  all_goals try simp only [Option.map_eq_some_iff] at e
  all_goals try obtain ⟨_, e, rfl⟩ := e
  all_goals repeat' with_reducible
    first
    | assumption | apply State.placeAdd_within | apply State.setSal_within | apply State.brineCheck_within | apply OnlyMast.of_ite | intro _
    | apply OnlyMast.of_getD | (apply OnlyMast.of_snd; assumption) | apply foldl_keeps (OnlyMast m s0) | simp only [↓OnlyMast.mk_other, ↓id_eq]
    | split

theorem State.freeItem_within {x2 : Nat} (hm : m < 2) (h : OnlyMast m s0 s) : OnlyMast m s0 (State.freeItem s m x2) := by
  unfold State.freeItem
  repeat' with_reducible
    first
    | assumption | apply State.placeSub_within | apply State.brineCheck_within | apply State.setSal_within | apply OnlyMast.of_ite | intro _
    | apply OnlyMast.of_getD | (apply OnlyMast.of_snd; assumption) | apply foldl_keeps (OnlyMast m s0) | simp only [↓OnlyMast.mk_other, ↓id_eq]
    | split

theorem State.resizeItem_within {x2 : Nat} {x3 : Nat} (e : State.resizeItem s m x2 x3 = some t) (hm : m < 2) (h : OnlyMast m s0 s) : OnlyMast m s0 t := by
  unfold State.resizeItem at e
  try dsimp only at e
  repeat' split at e
  all_goals first | cases e | skip
  all_goals try simp only [Option.some.injEq, Prod.mk.injEq] at e
  all_goals try obtain ⟨rfl, rfl⟩ := e
  all_goals try simp only [Option.map_eq_some_iff] at e
  all_goals try obtain ⟨_, e, rfl⟩ := e
  all_goals repeat' with_reducible
    first
    | assumption | apply State.placeSub_within | apply State.brineCheck_within | apply State.setSal_within | apply State.placeAdd_within
    | apply OnlyMast.of_ite | intro _ | apply OnlyMast.of_getD | (apply OnlyMast.of_snd; assumption) | apply foldl_keeps (OnlyMast m s0)
    | simp only [↓OnlyMast.mk_other, ↓id_eq] | split

theorem State.setItemBody_within {x2 : Nat} {x3 : Desc} {x4 : Body} (hm : m < 2) (h : OnlyMast m s0 s) : OnlyMast m s0 (State.setItemBody s m x2 x3 x4) := by
  unfold State.setItemBody
  repeat' with_reducible
    first
    | assumption | apply State.setSal_within | apply OnlyMast.of_ite | intro _ | apply OnlyMast.of_getD | (apply OnlyMast.of_snd; assumption)
    | apply foldl_keeps (OnlyMast m s0) | simp only [↓OnlyMast.mk_other, ↓id_eq] | split

theorem State.enqueueAs_within {x2 : Nat} {x3 : Nat} (hm : m < 2) (h : OnlyMast m s0 s) : OnlyMast m s0 (State.enqueueAs s m x2 x3) := by
  unfold State.enqueueAs
  repeat' with_reducible
    first
    | assumption | apply State.placeAdd_within | apply State.placeSub_within | apply State.brineCheck_within | apply State.setSal_within
    | apply OnlyMast.of_ite | intro _ | apply OnlyMast.of_getD | (apply OnlyMast.of_snd; assumption) | apply foldl_keeps (OnlyMast m s0)
    | simp only [↓OnlyMast.mk_other, ↓id_eq] | split

theorem State.enqueue_within {x2 : Nat} {x3 : Nat} (e : State.enqueue s m x2 x3 = some t) (hm : m < 2) (h : OnlyMast m s0 s) : OnlyMast m s0 t := by
  unfold State.enqueue at e
  try dsimp only at e
  repeat' split at e
  all_goals first | cases e | skip
  all_goals try simp only [Option.some.injEq, Prod.mk.injEq] at e
  all_goals try obtain ⟨rfl, rfl⟩ := e
  all_goals try simp only [Option.map_eq_some_iff] at e
  all_goals try obtain ⟨_, e, rfl⟩ := e
  all_goals repeat' with_reducible
    first
    | assumption | apply State.enqueueAs_within | apply OnlyMast.of_ite | intro _ | apply OnlyMast.of_getD | (apply OnlyMast.of_snd; assumption)
    | apply foldl_keeps (OnlyMast m s0) | simp only [↓OnlyMast.mk_other, ↓id_eq] | split

theorem State.dequeue_within {x2 : Nat} {y} (e : State.dequeue s m x2 = some (y, t)) (hm : m < 2) (h : OnlyMast m s0 s) : OnlyMast m s0 t := by
  unfold State.dequeue at e
  try dsimp only at e
  repeat' split at e
  all_goals first | cases e | skip
  all_goals try simp only [Option.some.injEq, Prod.mk.injEq] at e
  all_goals try obtain ⟨rfl, rfl⟩ := e
  all_goals try simp only [Option.map_eq_some_iff] at e
  all_goals try obtain ⟨_, e, rfl⟩ := e
  all_goals repeat' with_reducible
    first
    | assumption | apply State.setSal_within | apply State.placeSub_within | apply State.brineCheck_within | apply OnlyMast.of_ite | intro _
    | apply OnlyMast.of_getD | (apply OnlyMast.of_snd; assumption) | apply foldl_keeps (OnlyMast m s0) | simp only [↓OnlyMast.mk_other, ↓id_eq]
    | split

theorem State.output_within {x2 : Nat} {x3 : List Nat} (hm : m < 2) (h : OnlyMast m s0 s) : OnlyMast m s0 (State.output s m x2 x3) := by
  unfold State.output
  repeat' with_reducible
    first
    | assumption | apply State.setMast_within | apply OnlyMast.of_ite | intro _ | apply OnlyMast.of_getD | (apply OnlyMast.of_snd; assumption)
    | apply foldl_keeps (OnlyMast m s0) | simp only [↓OnlyMast.mk_other, ↓id_eq] | split

theorem State.enqueueOut_within {x2 : Nat} {x3 : Nat} (e : State.enqueueOut s m x2 x3 = some t) (hm : m < 2) (h : OnlyMast m s0 s) : OnlyMast m s0 t := by
  unfold State.enqueueOut at e
  try dsimp only at e
  repeat' split at e
  all_goals first | cases e | skip
  all_goals try simp only [Option.some.injEq, Prod.mk.injEq] at e
  all_goals try obtain ⟨rfl, rfl⟩ := e
  all_goals try simp only [Option.map_eq_some_iff] at e
  all_goals try obtain ⟨_, e, rfl⟩ := e
  all_goals repeat' with_reducible
    first
    | assumption | (apply State.enqueue_within; assumption) | apply State.output_within | apply OnlyMast.of_ite | intro _ | apply OnlyMast.of_getD
    | (apply OnlyMast.of_snd; assumption) | apply foldl_keeps (OnlyMast m s0) | simp only [↓OnlyMast.mk_other, ↓id_eq] | split

theorem State.event_within {x2 : EventKind} {x3 : Nat} {x4 : List Nat} (hm : m < 2) (h : OnlyMast m s0 s) : OnlyMast m s0 (State.event s m x2 x3 x4) := by
  unfold State.event
  repeat' with_reducible
    first
    | assumption | apply State.bump_within | apply State.setMast_within | apply State.setSal_within | apply State.output_within
    | apply State.enqueueAs_within | apply OnlyMast.of_ite | intro _ | apply OnlyMast.of_getD | (apply OnlyMast.of_snd; assumption)
    | apply foldl_keeps (OnlyMast m s0) | simp only [↓OnlyMast.mk_other, ↓id_eq] | split

theorem State.chainAppend_within {x2 : Nat} {x3 : Nat} (e : State.chainAppend s m x2 x3 = some t) (hm : m < 2) (h : OnlyMast m s0 s) : OnlyMast m s0 t := by
  unfold State.chainAppend at e
  try dsimp only at e
  repeat' split at e
  all_goals first | cases e | skip
  all_goals try simp only [Option.some.injEq, Prod.mk.injEq] at e
  all_goals try obtain ⟨rfl, rfl⟩ := e
  all_goals try simp only [Option.map_eq_some_iff] at e
  all_goals try obtain ⟨_, e, rfl⟩ := e
  all_goals repeat' with_reducible
    first
    | assumption | apply State.placeAdd_within | apply State.placeSub_within | apply State.brineCheck_within | apply State.setMast_within
    | apply OnlyMast.of_ite | intro _ | apply OnlyMast.of_getD | (apply OnlyMast.of_snd; assumption) | apply foldl_keeps (OnlyMast m s0)
    | simp only [↓OnlyMast.mk_other, ↓id_eq] | split

theorem State.chainRemove_within {x2 : Nat} {x3 : Nat} (hm : m < 2) (h : OnlyMast m s0 s) : OnlyMast m s0 (State.chainRemove s m x2 x3) := by
  unfold State.chainRemove
  repeat' with_reducible
    first
    | assumption | apply State.freeItem_within | apply State.setMast_within | apply OnlyMast.of_ite | intro _ | apply OnlyMast.of_getD
    | (apply OnlyMast.of_snd; assumption) | apply foldl_keeps (OnlyMast m s0) | simp only [↓OnlyMast.mk_other, ↓id_eq] | split

theorem State.spliceLost_within {x2 : Nat} (hm : m < 2) (h : OnlyMast m s0 s) : OnlyMast m s0 (State.spliceLost s m x2) := by
  unfold State.spliceLost
  repeat' with_reducible
    first
    | assumption | apply State.placeAdd_within | apply State.placeSub_within | apply State.setMast_within | apply State.brineCheck_within
    | apply State.output_within | apply State.bump_within | apply OnlyMast.of_ite | intro _ | apply OnlyMast.of_getD
    | (apply OnlyMast.of_snd; assumption) | apply foldl_keeps (OnlyMast m s0) | simp only [↓OnlyMast.mk_other, ↓id_eq] | split

theorem State.pop_within {x2 : Nat} (hm : m < 2) (h : OnlyMast m s0 s) : OnlyMast m s0 (State.pop s m x2) := by
  unfold State.pop
  repeat' with_reducible
    first
    | assumption | apply State.bput64_within | apply State.setWord_within | (apply State.dequeue_within; assumption) | apply State.setSal_within
    | apply State.bump_within | apply OnlyMast.of_ite | intro _ | apply OnlyMast.of_getD | (apply OnlyMast.of_snd; assumption)
    | apply foldl_keeps (OnlyMast m s0) | simp only [↓OnlyMast.mk_other, ↓id_eq] | split

theorem State.ioFlag_within {x1 : Nat} {x2 : Nat} {x3 : Fld} (hm : m < 2) (h : OnlyMast m s0 s) : OnlyMast m s0 (State.ioFlag s x1 x2 x3) := by
  unfold State.ioFlag
  repeat' with_reducible
    first
    | assumption | apply State.bput_within | apply OnlyMast.of_ite | intro _ | apply OnlyMast.of_getD | (apply OnlyMast.of_snd; assumption)
    | apply foldl_keeps (OnlyMast m s0) | simp only [↓OnlyMast.mk_other, ↓id_eq] | split

theorem State.closeOpen_within {x2 : Nat} {x3 : Nat} (hm : m < 2) (h : OnlyMast m s0 s) : OnlyMast m s0 (State.closeOpen s m x2 x3) := by
  unfold State.closeOpen
  repeat' with_reducible
    first
    | assumption | apply State.setSal_within | apply OnlyMast.of_ite | intro _ | apply OnlyMast.of_getD | (apply OnlyMast.of_snd; assumption)
    | apply foldl_keeps (OnlyMast m s0) | simp only [↓OnlyMast.mk_other, ↓id_eq] | split

theorem State.pushDone_within {x2 : Nat} {x3 : Nat} {x4 : Desc} (e : State.pushDone s m x2 x3 x4 = some t) (hm : m < 2) (h : OnlyMast m s0 s) : OnlyMast m s0 t := by
  unfold State.pushDone at e
  try dsimp only at e
  repeat' split at e
  all_goals first | cases e | skip
  all_goals try simp only [Option.some.injEq, Prod.mk.injEq] at e
  all_goals try obtain ⟨rfl, rfl⟩ := e
  all_goals try simp only [Option.map_eq_some_iff] at e
  all_goals try obtain ⟨_, e, rfl⟩ := e
  all_goals repeat' with_reducible
    first
    | assumption | (apply State.enqueueOut_within; assumption) | apply State.closeOpen_within | apply OnlyMast.of_ite | intro _
    | apply OnlyMast.of_getD | (apply OnlyMast.of_snd; assumption) | apply foldl_keeps (OnlyMast m s0) | simp only [↓OnlyMast.mk_other, ↓id_eq]
    | split

theorem State.push_within {x2 : Nat} {x3 : Desc} {x4 : Body} (hm : m < 2) (h : OnlyMast m s0 s) : OnlyMast m s0 (State.push s m x2 x3 x4) := by
  unfold State.push
  repeat' with_reducible
    first
    | assumption | apply State.bump_within | apply State.ioFlag_within | apply State.setItemBody_within | (apply State.pushDone_within; assumption)
    | apply State.setSal_within | apply OnlyMast.of_ite | intro _ | apply OnlyMast.of_getD | (apply OnlyMast.of_snd; assumption)
    | apply foldl_keeps (OnlyMast m s0) | simp only [↓OnlyMast.mk_other, ↓id_eq] | split

theorem State.allocCell_within {x2 : Nat} {y} (e : State.allocCell s m x2 = some (y, t)) (hm : m < 2) (h : OnlyMast m s0 s) : OnlyMast m s0 t := by
  unfold State.allocCell at e
  try dsimp only at e
  repeat' split at e
  all_goals first | cases e | skip
  all_goals try simp only [Option.some.injEq, Prod.mk.injEq] at e
  all_goals try obtain ⟨rfl, rfl⟩ := e
  all_goals try simp only [Option.map_eq_some_iff] at e
  all_goals try obtain ⟨_, e, rfl⟩ := e
  all_goals repeat' with_reducible
    first
    | assumption | apply State.brineCheck_within | apply State.placeAdd_within | apply State.setSal_within | apply OnlyMast.of_ite | intro _
    | apply OnlyMast.of_getD | (apply OnlyMast.of_snd; assumption) | apply foldl_keeps (OnlyMast m s0) | simp only [↓OnlyMast.mk_other, ↓id_eq]
    | split

theorem State.allocWord_within {x1 : Nat} {x2 : Nat} {x3 : Option Nat} (hm : m < 2) (h : OnlyMast m s0 s) : OnlyMast m s0 (State.allocWord s x1 x2 x3) := by
  unfold State.allocWord
  repeat' with_reducible
    first
    | assumption | apply State.setWord_within | apply OnlyMast.of_ite | intro _ | apply OnlyMast.of_getD | (apply OnlyMast.of_snd; assumption)
    | apply foldl_keeps (OnlyMast m s0) | simp only [↓OnlyMast.mk_other, ↓id_eq] | split

theorem State.alloc_within {x2 : Nat} (hm : m < 2) (h : OnlyMast m s0 s) : OnlyMast m s0 (State.alloc s m x2) := by
  unfold State.alloc
  repeat' with_reducible
    first
    | assumption | (apply State.allocCell_within; assumption) | apply State.allocWord_within | apply State.bump_within | apply State.setSal_within
    | apply OnlyMast.of_ite | intro _ | apply OnlyMast.of_getD | (apply OnlyMast.of_snd; assumption) | apply foldl_keeps (OnlyMast m s0)
    | simp only [↓OnlyMast.mk_other, ↓id_eq] | split

theorem State.linkErr_within {x2 : Nat} (hm : m < 2) (h : OnlyMast m s0 s) : OnlyMast m s0 (State.linkErr s m x2) := by
  unfold State.linkErr
  repeat' with_reducible
    first
    | assumption | apply State.selfFaults_within | apply State.irq_within | apply State.bump_within | apply State.setSal_within
    | apply OnlyMast.of_ite | intro _ | apply OnlyMast.of_getD | (apply OnlyMast.of_snd; assumption) | apply foldl_keeps (OnlyMast m s0)
    | simp only [↓OnlyMast.mk_other, ↓id_eq] | split

theorem State.popLink_within {x2 : Nat} {x3 : Nat} (hm : m < 2) (h : OnlyMast m s0 s) : OnlyMast m s0 (State.popLink s m x2 x3) := by
  unfold State.popLink
  repeat' with_reducible
    first
    | assumption | apply State.bump_within | apply State.linkErr_within | apply OnlyMast.of_ite | intro _ | apply OnlyMast.of_getD
    | (apply OnlyMast.of_snd; assumption) | apply foldl_keeps (OnlyMast m s0) | simp only [↓OnlyMast.mk_other, ↓id_eq] | split

theorem State.accPush_within {x2 : Nat} {x3 : Nat} {x4 : Nat} {x5 : Body} (hm : m < 2) (h : OnlyMast m s0 s) : OnlyMast m s0 (State.accPush s m x2 x3 x4 x5) := by
  unfold State.accPush
  repeat' with_reducible
    first
    | assumption | apply State.action_within | apply State.push_within | apply OnlyMast.of_ite | intro _ | apply OnlyMast.of_getD
    | (apply OnlyMast.of_snd; assumption) | apply foldl_keeps (OnlyMast m s0) | simp only [↓OnlyMast.mk_other, ↓id_eq] | split

theorem State.accFree_within {x2 : Nat} {x3 : Nat} {x4 : Nat} (hm : m < 2) (h : OnlyMast m s0 s) : OnlyMast m s0 (State.accFree s m x2 x3 x4) := by
  unfold State.accFree
  repeat' with_reducible
    first
    | assumption | apply State.action_within | apply State.freeItem_within | apply State.closeOpen_within | apply OnlyMast.of_ite | intro _
    | apply OnlyMast.of_getD | (apply OnlyMast.of_snd; assumption) | apply foldl_keeps (OnlyMast m s0) | simp only [↓OnlyMast.mk_other, ↓id_eq]
    | split

theorem State.accSalternHwmClr_within {x2 : Nat} {x3 : Nat} {x4 : Nat} (hm : m < 2) (h : OnlyMast m s0 s) : OnlyMast m s0 (State.accSalternHwmClr s m x2 x3 x4) := by
  unfold State.accSalternHwmClr
  repeat' with_reducible
    first
    | assumption | apply State.action_within | apply State.setSal_within | apply OnlyMast.of_ite | intro _ | apply OnlyMast.of_getD
    | (apply OnlyMast.of_snd; assumption) | apply foldl_keeps (OnlyMast m s0) | simp only [↓OnlyMast.mk_other, ↓id_eq] | split

theorem State.retryOne_within {x2 : HeldPush} (hm : m < 2) (h : OnlyMast m s0 s) : OnlyMast m s0 (State.retryOne s m x2) := by
  unfold State.retryOne
  repeat' with_reducible
    first
    | assumption | apply State.setSal_within | (apply State.allocCell_within; assumption) | apply State.allocWord_within
    | (apply State.pushDone_within; assumption) | apply OnlyMast.of_ite | intro _ | apply OnlyMast.of_getD | (apply OnlyMast.of_snd; assumption)
    | apply foldl_keeps (OnlyMast m s0) | simp only [↓OnlyMast.mk_other, ↓id_eq] | split

theorem State.retryPush_within  (hm : m < 2) (h : OnlyMast m s0 s) : OnlyMast m s0 (State.retryPush s m) := by
  unfold State.retryPush
  repeat' with_reducible
    first
    | assumption | apply State.retryOne_within | apply OnlyMast.of_ite | intro _ | apply OnlyMast.of_getD | (apply OnlyMast.of_snd; assumption)
    | apply foldl_keeps (OnlyMast m s0) | simp only [↓OnlyMast.mk_other, ↓id_eq] | split

theorem State.retryEvent_within  (hm : m < 2) (h : OnlyMast m s0 s) : OnlyMast m s0 (State.retryEvent s m) := by
  unfold State.retryEvent
  repeat' with_reducible
    first
    | assumption | apply State.event_within | apply State.setMast_within | apply OnlyMast.of_ite | intro _ | apply OnlyMast.of_getD
    | (apply OnlyMast.of_snd; assumption) | apply foldl_keeps (OnlyMast m s0) | simp only [↓OnlyMast.mk_other, ↓id_eq] | split

/-! ## NvBase -/

theorem State.setNv_within {x2 : Nv} (hm : m < 2) (h : OnlyMast m s0 s) : OnlyMast m s0 (State.setNv s m x2) := by
  unfold State.setNv
  repeat' with_reducible
    first
    | assumption | apply State.setMast_within | apply OnlyMast.of_ite | intro _ | apply OnlyMast.of_getD | (apply OnlyMast.of_snd; assumption)
    | apply foldl_keeps (OnlyMast m s0) | simp only [↓OnlyMast.mk_other, ↓id_eq] | split

theorem State.nvRequest_within {x1 : Nat} {x2 : Nat} (hm : m < 2) (h : OnlyMast m s0 s) : OnlyMast m s0 (State.nvRequest s x1 x2) := by
  unfold State.nvRequest
  repeat' with_reducible
    first
    | assumption | apply State.bump_within | apply OnlyMast.of_ite | intro _ | apply OnlyMast.of_getD | (apply OnlyMast.of_snd; assumption)
    | apply foldl_keeps (OnlyMast m s0) | simp only [↓OnlyMast.mk_other, ↓id_eq] | split

theorem State.nvErase_within {x2 : Nat} (hm : m < 2) (h : OnlyMast m s0 s) : OnlyMast m s0 (State.nvErase s m x2) := by
  unfold State.nvErase
  repeat' with_reducible
    first
    | assumption | apply State.setNv_within | apply State.put_within | apply OnlyMast.of_ite | intro _ | apply OnlyMast.of_getD
    | (apply OnlyMast.of_snd; assumption) | apply foldl_keeps (OnlyMast m s0) | simp only [↓OnlyMast.mk_other, ↓id_eq] | split

theorem State.nvStart_within {x2 : Nat} (hm : m < 2) (h : OnlyMast m s0 s) : OnlyMast m s0 (State.nvStart s m x2) := by
  unfold State.nvStart
  repeat' with_reducible
    first
    | assumption | apply State.nvRequest_within | apply State.nvErase_within | apply OnlyMast.of_ite | intro _ | apply OnlyMast.of_getD
    | (apply OnlyMast.of_snd; assumption) | apply foldl_keeps (OnlyMast m s0) | simp only [↓OnlyMast.mk_other, ↓id_eq] | split

theorem State.nvDone_within {x2 : Nat} {x3 : Bool} (hm : m < 2) (h : OnlyMast m s0 s) : OnlyMast m s0 (State.nvDone s m x2 x3) := by
  unfold State.nvDone
  repeat' with_reducible
    first
    | assumption | apply State.bump_within | apply State.put_within | apply State.irq_within | apply State.setNv_within | apply OnlyMast.of_ite
    | intro _ | apply OnlyMast.of_getD | (apply OnlyMast.of_snd; assumption) | apply foldl_keeps (OnlyMast m s0)
    | simp only [↓OnlyMast.mk_other, ↓id_eq] | split

theorem State.ringWrite_within {x2 : Nat} {x3 : Bool} (hm : m < 2) (h : OnlyMast m s0 s) : OnlyMast m s0 (State.ringWrite s m x2 x3) := by
  unfold State.ringWrite
  repeat' with_reducible
    first
    | assumption | apply State.put_within | apply State.setNv_within | apply State.bump_within | apply OnlyMast.of_ite | intro _
    | apply OnlyMast.of_getD | (apply OnlyMast.of_snd; assumption) | apply foldl_keeps (OnlyMast m s0) | simp only [↓OnlyMast.mk_other, ↓id_eq]
    | split

theorem State.cfgWrite_within {x2 : CfgRec} (hm : m < 2) (h : OnlyMast m s0 s) : OnlyMast m s0 (State.cfgWrite s m x2) := by
  unfold State.cfgWrite
  repeat' with_reducible
    first
    | assumption | apply State.nvStart_within | apply State.output_within | apply State.setNv_within | apply OnlyMast.of_ite | intro _
    | apply OnlyMast.of_getD | (apply OnlyMast.of_snd; assumption) | apply foldl_keeps (OnlyMast m s0) | simp only [↓OnlyMast.mk_other, ↓id_eq]
    | split

theorem State.updWrite_within {x2 : UpdRec} (hm : m < 2) (h : OnlyMast m s0 s) : OnlyMast m s0 (State.updWrite s m x2) := by
  unfold State.updWrite
  repeat' with_reducible
    first
    | assumption | apply State.setMast_within | apply State.cfgWrite_within | apply OnlyMast.of_ite | intro _ | apply OnlyMast.of_getD
    | (apply OnlyMast.of_snd; assumption) | apply foldl_keeps (OnlyMast m s0) | simp only [↓OnlyMast.mk_other, ↓id_eq] | split

/-! ## Halyard -/

theorem State.setHal_within {x2 : Halyard} (hm : m < 2) (h : OnlyMast m s0 s) : OnlyMast m s0 (State.setHal s m x2) := by
  unfold State.setHal
  repeat' with_reducible
    first
    | assumption | apply State.setMast_within | apply OnlyMast.of_ite | intro _ | apply OnlyMast.of_getD | (apply OnlyMast.of_snd; assumption)
    | apply foldl_keeps (OnlyMast m s0) | simp only [↓OnlyMast.mk_other, ↓id_eq] | split

theorem State.settleFlow_within {x2 : Nat} (hm : m < 2) (h : OnlyMast m s0 s) : OnlyMast m s0 (State.settleFlow s m x2) := by
  unfold State.settleFlow
  repeat' with_reducible
    first
    | assumption | apply State.setHal_within | apply OnlyMast.of_ite | intro _ | apply OnlyMast.of_getD | (apply OnlyMast.of_snd; assumption)
    | apply foldl_keeps (OnlyMast m s0) | simp only [↓OnlyMast.mk_other, ↓id_eq] | split

theorem State.settleFlows_within  (hm : m < 2) (h : OnlyMast m s0 s) : OnlyMast m s0 (State.settleFlows s m) := by
  unfold State.settleFlows
  repeat' with_reducible
    first
    | assumption | apply State.settleFlow_within | apply OnlyMast.of_ite | intro _ | apply OnlyMast.of_getD | (apply OnlyMast.of_snd; assumption)
    | apply foldl_keeps (OnlyMast m s0) | simp only [↓OnlyMast.mk_other, ↓id_eq] | split

theorem State.queueAt_within {x2 : Desc} (hm : m < 2) (h : OnlyMast m s0 s) : OnlyMast m s0 (State.queueAt s m x2) := by
  unfold State.queueAt
  repeat' with_reducible
    first
    | assumption | apply State.bump_within | apply State.setHal_within | apply State.raise_within | apply OnlyMast.of_ite | intro _
    | apply OnlyMast.of_getD | (apply OnlyMast.of_snd; assumption) | apply foldl_keeps (OnlyMast m s0) | simp only [↓OnlyMast.mk_other, ↓id_eq]
    | split

theorem State.holdGive_within {x2 : Giver} {x3 : Desc} (hm : m < 2) (h : OnlyMast m s0 s) : OnlyMast m s0 (State.holdGive s m x2 x3) := by
  unfold State.holdGive
  repeat' with_reducible
    first
    | assumption | apply State.bump_within | apply State.setHal_within | apply OnlyMast.of_ite | intro _ | apply OnlyMast.of_getD
    | (apply OnlyMast.of_snd; assumption) | apply foldl_keeps (OnlyMast m s0) | simp only [↓OnlyMast.mk_other, ↓id_eq] | split

theorem State.giveHw_within {x2 : Giver} {x3 : Desc} (hm : m < 2) (h : OnlyMast m s0 s) : OnlyMast m s0 (State.giveHw s m x2 x3) := by
  unfold State.giveHw
  repeat' with_reducible
    first
    | assumption | apply State.bump_within | apply State.freeItem_within | apply State.queueAt_within | apply State.holdGive_within
    | apply OnlyMast.of_ite | intro _ | apply OnlyMast.of_getD | (apply OnlyMast.of_snd; assumption) | apply foldl_keeps (OnlyMast m s0)
    | simp only [↓OnlyMast.mk_other, ↓id_eq] | split

theorem State.ethGive_within {x2 : Nat} {x3 : Desc} (hm : m < 2) (h : OnlyMast m s0 s) : OnlyMast m s0 (State.ethGive s m x2 x3) := by
  unfold State.ethGive
  repeat' with_reducible
    first
    | assumption | apply State.giveHw_within | apply State.bump_within | apply OnlyMast.of_ite | intro _ | apply OnlyMast.of_getD
    | (apply OnlyMast.of_snd; assumption) | apply foldl_keeps (OnlyMast m s0) | simp only [↓OnlyMast.mk_other, ↓id_eq] | split

theorem State.ethDrain_within {x2 : Nat} {x3 : List Nat} (hm : m < 2) (h : OnlyMast m s0 s) : OnlyMast m s0 (State.ethDrain s m x2 x3) := by
  induction x3 generalizing s with
  | nil => exact h
  | cons _ _ ih =>
  unfold State.ethDrain
  repeat' with_reducible
    first
    | assumption | apply ih | apply State.ethGive_within | apply State.setSal_within | apply OnlyMast.of_ite | intro _ | apply OnlyMast.of_getD
    | (apply OnlyMast.of_snd; assumption) | apply foldl_keeps (OnlyMast m s0) | simp only [↓OnlyMast.mk_other, ↓id_eq] | split

theorem State.engineTo_within {x2 : Nat} {x3 : Nat} {x4 : Desc} (hm : m < 2) (h : OnlyMast m s0 s) : OnlyMast m s0 (State.engineTo s m x2 x3 x4) := by
  unfold State.engineTo
  repeat' with_reducible
    first
    | assumption | apply State.giveHw_within | apply OnlyMast.of_ite | intro _ | apply OnlyMast.of_getD | (apply OnlyMast.of_snd; assumption)
    | apply foldl_keeps (OnlyMast m s0) | simp only [↓OnlyMast.mk_other, ↓id_eq] | split

theorem State.engineNext_within {x2 : Nat} {x3 : Desc} (hm : m < 2) (h : OnlyMast m s0 s) : OnlyMast m s0 (State.engineNext s m x2 x3) := by
  unfold State.engineNext
  repeat' with_reducible
    first
    | assumption | apply State.engineTo_within | apply OnlyMast.of_ite | intro _ | apply OnlyMast.of_getD | (apply OnlyMast.of_snd; assumption)
    | apply foldl_keeps (OnlyMast m s0) | simp only [↓OnlyMast.mk_other, ↓id_eq] | split

theorem State.giveSw_within {x2 : Nat} {x3 : Desc} {x4 : Body} (hm : m < 2) (h : OnlyMast m s0 s) : OnlyMast m s0 (State.giveSw s m x2 x3 x4) := by
  unfold State.giveSw
  repeat' with_reducible
    first
    | assumption | apply State.bump_within | apply State.bput_within | apply State.setItemBody_within | apply State.closeOpen_within
    | apply State.setSal_within | apply State.freeItem_within | apply State.queueAt_within | apply State.holdGive_within | apply OnlyMast.of_ite
    | intro _ | apply OnlyMast.of_getD | (apply OnlyMast.of_snd; assumption) | apply foldl_keeps (OnlyMast m s0)
    | simp only [↓OnlyMast.mk_other, ↓id_eq] | split

theorem State.unqueue_within {x2 : QEntry} (hm : m < 2) (h : OnlyMast m s0 s) : OnlyMast m s0 (State.unqueue s m x2) := by
  unfold State.unqueue
  repeat' with_reducible
    first
    | assumption | apply State.raise_within | apply State.bump_within | apply State.setHal_within | apply OnlyMast.of_ite | intro _
    | apply OnlyMast.of_getD | (apply OnlyMast.of_snd; assumption) | apply foldl_keeps (OnlyMast m s0) | simp only [↓OnlyMast.mk_other, ↓id_eq]
    | split

theorem State.engineHolds_within {x2 : Nat} {x3 : Desc} (hm : m < 2) (h : OnlyMast m s0 s) : OnlyMast m s0 (State.engineHolds s m x2 x3) := by
  unfold State.engineHolds
  repeat' with_reducible
    first
    | assumption | apply State.setHal_within | apply OnlyMast.of_ite | intro _ | apply OnlyMast.of_getD | (apply OnlyMast.of_snd; assumption)
    | apply foldl_keeps (OnlyMast m s0) | simp only [↓OnlyMast.mk_other, ↓id_eq] | split

theorem State.flowLeft_within {x2 : Nat} {x3 : Nat} (hm : m < 2) (h : OnlyMast m s0 s) : OnlyMast m s0 (State.flowLeft s m x2 x3) := by
  unfold State.flowLeft
  repeat' with_reducible
    first
    | assumption | apply State.setHal_within | apply OnlyMast.of_ite | intro _ | apply OnlyMast.of_getD | (apply OnlyMast.of_snd; assumption)
    | apply foldl_keeps (OnlyMast m s0) | simp only [↓OnlyMast.mk_other, ↓id_eq] | split

theorem State.engineTake_within {x2 : Nat} {y} (e : State.engineTake s m x2 = some (y, t)) (hm : m < 2) (h : OnlyMast m s0 s) : OnlyMast m s0 t := by
  unfold State.engineTake at e
  try dsimp only at e
  repeat' split at e
  all_goals first | cases e | skip
  all_goals try simp only [Option.some.injEq, Prod.mk.injEq] at e
  all_goals try obtain ⟨rfl, rfl⟩ := e
  all_goals try simp only [Option.map_eq_some_iff] at e
  all_goals try obtain ⟨_, e, rfl⟩ := e
  all_goals repeat' with_reducible
    first
    | assumption | apply State.flowLeft_within | apply State.setHal_within | apply State.settleFlow_within | apply State.unqueue_within
    | apply State.count_within | apply OnlyMast.of_ite | intro _ | apply OnlyMast.of_getD | (apply OnlyMast.of_snd; assumption)
    | apply foldl_keeps (OnlyMast m s0) | simp only [↓OnlyMast.mk_other, ↓id_eq] | split

theorem State.engineIdle_within {x1 : Nat} {x2 : Nat} (hm : m < 2) (h : OnlyMast m s0 s) : OnlyMast m s0 (State.engineIdle s x1 x2) := by
  unfold State.engineIdle
  repeat' with_reducible
    first
    | assumption | apply State.count_within | apply OnlyMast.of_ite | intro _ | apply OnlyMast.of_getD | (apply OnlyMast.of_snd; assumption)
    | apply foldl_keeps (OnlyMast m s0) | simp only [↓OnlyMast.mk_other, ↓id_eq] | split

theorem State.engineWaits_within {x2 : Nat} (hm : m < 2) (h : OnlyMast m s0 s) : OnlyMast m s0 (State.engineWaits s m x2) := by
  unfold State.engineWaits
  repeat' with_reducible
    first
    | assumption | apply State.bump_within | apply State.setSal_within | apply State.setHal_within | apply OnlyMast.of_ite | intro _
    | apply OnlyMast.of_getD | (apply OnlyMast.of_snd; assumption) | apply foldl_keeps (OnlyMast m s0) | simp only [↓OnlyMast.mk_other, ↓id_eq]
    | split

theorem State.engineRefused_within {x2 : Nat} (hm : m < 2) (h : OnlyMast m s0 s) : OnlyMast m s0 (State.engineRefused s m x2) := by
  unfold State.engineRefused
  repeat' with_reducible
    first
    | assumption | (apply State.engineTake_within; assumption) | apply State.engineWaits_within | apply State.engineHolds_within
    | apply State.setHal_within | apply OnlyMast.of_ite | intro _ | apply OnlyMast.of_getD | (apply OnlyMast.of_snd; assumption)
    | apply foldl_keeps (OnlyMast m s0) | simp only [↓OnlyMast.mk_other, ↓id_eq] | split

theorem State.engineAdmitted_within {x2 : Nat} (hm : m < 2) (h : OnlyMast m s0 s) : OnlyMast m s0 (State.engineAdmitted s m x2) := by
  unfold State.engineAdmitted
  repeat' with_reducible
    first
    | assumption | apply State.setSal_within | apply State.setHal_within | apply OnlyMast.of_ite | intro _ | apply OnlyMast.of_getD
    | (apply OnlyMast.of_snd; assumption) | apply foldl_keeps (OnlyMast m s0) | simp only [↓OnlyMast.mk_other, ↓id_eq] | split

theorem State.endService_within {x2 : Nat} (hm : m < 2) (h : OnlyMast m s0 s) : OnlyMast m s0 (State.endService s m x2) := by
  unfold State.endService
  repeat' with_reducible
    first
    | assumption | apply State.settleFlow_within | apply State.setHal_within | apply OnlyMast.of_ite | intro _ | apply OnlyMast.of_getD
    | (apply OnlyMast.of_snd; assumption) | apply foldl_keeps (OnlyMast m s0) | simp only [↓OnlyMast.mk_other, ↓id_eq] | split

theorem State.startService_within {x2 : Nat} {x3 : QEntry} (hm : m < 2) (h : OnlyMast m s0 s) : OnlyMast m s0 (State.startService s m x2 x3) := by
  unfold State.startService
  repeat' with_reducible
    first
    | assumption | apply State.unqueue_within | apply State.setHal_within | apply State.setSal_within | apply State.bput64_within
    | apply OnlyMast.of_ite | intro _ | apply OnlyMast.of_getD | (apply OnlyMast.of_snd; assumption) | apply foldl_keeps (OnlyMast m s0)
    | simp only [↓OnlyMast.mk_other, ↓id_eq] | split

theorem State.idleTake_within {x2 : Nat} (hm : m < 2) (h : OnlyMast m s0 s) : OnlyMast m s0 (State.idleTake s m x2) := by
  unfold State.idleTake
  repeat' with_reducible
    first
    | assumption | apply State.bump_within | apply State.setHal_within | apply State.bput64_within | apply OnlyMast.of_ite | intro _
    | apply OnlyMast.of_getD | (apply OnlyMast.of_snd; assumption) | apply foldl_keeps (OnlyMast m s0) | simp only [↓OnlyMast.mk_other, ↓id_eq]
    | split

theorem State.applyRole_within {x2 : Nat} {x3 : Nat} (hm : m < 2) (h : OnlyMast m s0 s) : OnlyMast m s0 (State.applyRole s m x2 x3) := by
  unfold State.applyRole
  repeat' with_reducible
    first
    | assumption | apply State.count_within | apply State.setHal_within | apply State.irq_within | apply OnlyMast.of_ite | intro _
    | apply OnlyMast.of_getD | (apply OnlyMast.of_snd; assumption) | apply foldl_keeps (OnlyMast m s0) | simp only [↓OnlyMast.mk_other, ↓id_eq]
    | split

theorem State.gateCore_within {x2 : Nat} (hm : m < 2) (h : OnlyMast m s0 s) : OnlyMast m s0 (State.gateCore s m x2) := by
  unfold State.gateCore
  repeat' with_reducible
    first
    | assumption | apply State.applyRole_within | apply State.setHal_within | apply OnlyMast.of_ite | intro _ | apply OnlyMast.of_getD
    | (apply OnlyMast.of_snd; assumption) | apply foldl_keeps (OnlyMast m s0) | simp only [↓OnlyMast.mk_other, ↓id_eq] | split

theorem State.take_within {x2 : Nat} (hm : m < 2) (h : OnlyMast m s0 s) : OnlyMast m s0 (State.take s m x2) := by
  unfold State.take
  repeat' with_reducible
    first
    | assumption | apply State.gateCore_within | apply State.endService_within | apply State.applyRole_within | apply State.startService_within
    | apply State.count_within | apply State.setHal_within | apply State.bput64_within | apply State.bput_within | apply OnlyMast.of_ite | intro _
    | apply OnlyMast.of_getD | (apply OnlyMast.of_snd; assumption) | apply foldl_keeps (OnlyMast m s0) | simp only [↓OnlyMast.mk_other, ↓id_eq]
    | split

theorem State.wakeFirst_within {x2 : List Nat} (hm : m < 2) (h : OnlyMast m s0 s) : OnlyMast m s0 (State.wakeFirst s m x2) := by
  induction x2 generalizing s with
  | nil => exact h
  | cons _ _ ih =>
  unfold State.wakeFirst
  repeat' with_reducible
    first
    | assumption | apply ih | apply State.startService_within | apply State.count_within | apply OnlyMast.of_ite | intro _ | apply OnlyMast.of_getD
    | (apply OnlyMast.of_snd; assumption) | apply foldl_keeps (OnlyMast m s0) | simp only [↓OnlyMast.mk_other, ↓id_eq] | split

theorem State.accGive_within {x2 : Nat} {x3 : Nat} {x4 : Nat} {x5 : Body} (hm : m < 2) (h : OnlyMast m s0 s) : OnlyMast m s0 (State.accGive s m x2 x3 x4 x5) := by
  unfold State.accGive
  repeat' with_reducible
    first
    | assumption | apply State.action_within | apply State.giveSw_within | apply OnlyMast.of_ite | intro _ | apply OnlyMast.of_getD
    | (apply OnlyMast.of_snd; assumption) | apply foldl_keeps (OnlyMast m s0) | simp only [↓OnlyMast.mk_other, ↓id_eq] | split

theorem State.accRelease_within {x2 : Nat} {x3 : Nat} {x4 : Nat} (hm : m < 2) (h : OnlyMast m s0 s) : OnlyMast m s0 (State.accRelease s m x2 x3 x4) := by
  unfold State.accRelease
  repeat' with_reducible
    first
    | assumption | apply State.action_within | apply State.bump_within | apply State.idleTake_within | apply OnlyMast.of_ite | intro _
    | apply OnlyMast.of_getD | (apply OnlyMast.of_snd; assumption) | apply foldl_keeps (OnlyMast m s0) | simp only [↓OnlyMast.mk_other, ↓id_eq]
    | split

theorem State.accDone_within {x2 : Nat} {x3 : Nat} {x4 : Nat} (hm : m < 2) (h : OnlyMast m s0 s) : OnlyMast m s0 (State.accDone s m x2 x3 x4) := by
  unfold State.accDone
  repeat' with_reducible
    first
    | assumption | apply State.action_within | apply State.bump_within | apply State.endService_within | apply OnlyMast.of_ite | intro _
    | apply OnlyMast.of_getD | (apply OnlyMast.of_snd; assumption) | apply foldl_keeps (OnlyMast m s0) | simp only [↓OnlyMast.mk_other, ↓id_eq]
    | split

theorem State.accRole_within {x2 : Nat} {x3 : Nat} {x4 : Nat} {x5 : Nat} {x6 : Nat} (hm : m < 2) (h : OnlyMast m s0 s) : OnlyMast m s0 (State.accRole s m x2 x3 x4 x5 x6) := by
  unfold State.accRole
  repeat' with_reducible
    first
    | assumption | apply State.action_within | apply State.setWord_within | apply State.applyRole_within | apply OnlyMast.of_ite | intro _
    | apply OnlyMast.of_getD | (apply OnlyMast.of_snd; assumption) | apply foldl_keeps (OnlyMast m s0) | simp only [↓OnlyMast.mk_other, ↓id_eq]
    | split

theorem State.accHalyardHwmClr_within {x2 : Nat} {x3 : Nat} {x4 : Nat} (hm : m < 2) (h : OnlyMast m s0 s) : OnlyMast m s0 (State.accHalyardHwmClr s m x2 x3 x4) := by
  unfold State.accHalyardHwmClr
  repeat' with_reducible
    first
    | assumption | apply State.action_within | apply State.put_within | apply OnlyMast.of_ite | intro _ | apply OnlyMast.of_getD
    | (apply OnlyMast.of_snd; assumption) | apply foldl_keeps (OnlyMast m s0) | simp only [↓OnlyMast.mk_other, ↓id_eq] | split

theorem State.releaseHeld_within {x2 : HeldGive} (hm : m < 2) (h : OnlyMast m s0 s) : OnlyMast m s0 (State.releaseHeld s m x2) := by
  unfold State.releaseHeld
  repeat' with_reducible
    first
    | assumption | apply State.queueAt_within | apply State.setHal_within | apply State.setSal_within | apply State.setMast_within
    | apply State.ethDrain_within | apply OnlyMast.of_ite | intro _ | apply OnlyMast.of_getD | (apply OnlyMast.of_snd; assumption)
    | apply foldl_keeps (OnlyMast m s0) | simp only [↓OnlyMast.mk_other, ↓id_eq] | split

/-! ## NodeTab -/

theorem State.setNt_within {x2 : NodeTab} (hm : m < 2) (h : OnlyMast m s0 s) : OnlyMast m s0 (State.setNt s m x2) := by
  unfold State.setNt
  repeat' with_reducible
    first
    | assumption | apply State.setMast_within | apply OnlyMast.of_ite | intro _ | apply OnlyMast.of_getD | (apply OnlyMast.of_snd; assumption)
    | apply foldl_keeps (OnlyMast m s0) | simp only [↓OnlyMast.mk_other, ↓id_eq] | split

theorem State.lookupKey_within {x1 : Nat} {x2 : Nat} (hm : m < 2) (h : OnlyMast m s0 s) : OnlyMast m s0 (State.lookupKey s x1 x2).2 := by
  unfold State.lookupKey
  repeat' with_reducible
    first
    | assumption | apply State.bump_within | apply OnlyMast.of_ite | intro _ | apply OnlyMast.of_getD | (apply OnlyMast.of_snd; assumption)
    | apply foldl_keeps (OnlyMast m s0) | simp only [↓OnlyMast.mk_other, ↓id_eq] | split

theorem State.lookupShort_within {x1 : Nat} {x2 : Nat} (hm : m < 2) (h : OnlyMast m s0 s) : OnlyMast m s0 (State.lookupShort s x1 x2).2 := by
  unfold State.lookupShort
  repeat' with_reducible
    first
    | assumption | apply State.bump_within | apply OnlyMast.of_ite | intro _ | apply OnlyMast.of_getD | (apply OnlyMast.of_snd; assumption)
    | apply foldl_keeps (OnlyMast m s0) | simp only [↓OnlyMast.mk_other, ↓id_eq] | split

theorem State.lookupAddr_within {x1 : Nat} {x2 : Addr} (hm : m < 2) (h : OnlyMast m s0 s) : OnlyMast m s0 (State.lookupAddr s x1 x2).2 := by
  unfold State.lookupAddr
  repeat' with_reducible
    first
    | assumption | apply State.lookupKey_within | apply State.lookupShort_within | apply OnlyMast.of_ite | intro _ | apply OnlyMast.of_getD
    | (apply OnlyMast.of_snd; assumption) | apply foldl_keeps (OnlyMast m s0) | simp only [↓OnlyMast.mk_other, ↓id_eq] | split

theorem State.putEntry_within {x2 : Nat} {x3 : Entry} (hm : m < 2) (h : OnlyMast m s0 s) : OnlyMast m s0 (State.putEntry s m x2 x3) := by
  unfold State.putEntry
  repeat' with_reducible
    first
    | assumption | apply State.raise_within | apply State.setNt_within | apply OnlyMast.of_ite | intro _ | apply OnlyMast.of_getD
    | (apply OnlyMast.of_snd; assumption) | apply foldl_keeps (OnlyMast m s0) | simp only [↓OnlyMast.mk_other, ↓id_eq] | split

theorem State.dropEntry_within {x2 : Nat} (hm : m < 2) (h : OnlyMast m s0 s) : OnlyMast m s0 (State.dropEntry s m x2) := by
  unfold State.dropEntry
  repeat' with_reducible
    first
    | assumption | apply State.setNt_within | apply OnlyMast.of_ite | intro _ | apply OnlyMast.of_getD | (apply OnlyMast.of_snd; assumption)
    | apply foldl_keeps (OnlyMast m s0) | simp only [↓OnlyMast.mk_other, ↓id_eq] | split

theorem State.tryInsert_within {x2 : Parked} (hm : m < 2) (h : OnlyMast m s0 s) : OnlyMast m s0 (State.tryInsert s m x2).2 := by
  unfold State.tryInsert
  repeat' with_reducible
    first
    | assumption | apply State.putEntry_within | apply State.setMast_within | apply OnlyMast.of_ite | intro _ | apply OnlyMast.of_getD
    | (apply OnlyMast.of_snd; assumption) | apply foldl_keeps (OnlyMast m s0) | simp only [↓OnlyMast.mk_other, ↓id_eq] | split

theorem State.park_within {x2 : Parked} (hm : m < 2) (h : OnlyMast m s0 s) : OnlyMast m s0 (State.park s m x2).2 := by
  unfold State.park
  repeat' with_reducible
    first
    | assumption | apply State.irq_within | apply State.bump_within | apply State.setNt_within | apply State.put_within | apply OnlyMast.of_ite
    | intro _ | apply OnlyMast.of_getD | (apply OnlyMast.of_snd; assumption) | apply foldl_keeps (OnlyMast m s0)
    | simp only [↓OnlyMast.mk_other, ↓id_eq] | split

theorem State.insert_within {x2 : Parked} (hm : m < 2) (h : OnlyMast m s0 s) : OnlyMast m s0 (State.insert s m x2).2 := by
  unfold State.insert
  repeat' with_reducible
    first
    | assumption | apply State.tryInsert_within | apply State.park_within | apply OnlyMast.of_ite | intro _ | apply OnlyMast.of_getD
    | (apply OnlyMast.of_snd; assumption) | apply foldl_keeps (OnlyMast m s0) | simp only [↓OnlyMast.mk_other, ↓id_eq] | split

theorem State.retryList_within {x2 : List Parked} (hm : m < 2) (h : OnlyMast m s0 s) : OnlyMast m s0 (State.retryList s m x2).2 := by
  induction x2 generalizing s with
  | nil => exact h
  | cons _ _ ih =>
  unfold State.retryList
  repeat' with_reducible
    first
    | assumption | apply ih | apply State.tryInsert_within | apply State.bump_within | apply OnlyMast.of_ite | intro _ | apply OnlyMast.of_getD
    | (apply OnlyMast.of_snd; assumption) | apply foldl_keeps (OnlyMast m s0) | simp only [↓OnlyMast.mk_other, ↓id_eq] | split

theorem State.pendRetry_within  (hm : m < 2) (h : OnlyMast m s0 s) : OnlyMast m s0 (State.pendRetry s m) := by
  unfold State.pendRetry
  repeat' with_reducible
    first
    | assumption | apply State.retryList_within | apply State.setNt_within | apply OnlyMast.of_ite | intro _ | apply OnlyMast.of_getD
    | (apply OnlyMast.of_snd; assumption) | apply foldl_keeps (OnlyMast m s0) | simp only [↓OnlyMast.mk_other, ↓id_eq] | split

theorem State.rehashDone_within  (hm : m < 2) (h : OnlyMast m s0 s) : OnlyMast m s0 (State.rehashDone s m) := by
  unfold State.rehashDone
  repeat' with_reducible
    first
    | assumption | apply State.irq_within | apply State.put_within | apply State.put64_within | apply State.setNt_within | apply OnlyMast.of_ite
    | intro _ | apply OnlyMast.of_getD | (apply OnlyMast.of_snd; assumption) | apply foldl_keeps (OnlyMast m s0)
    | simp only [↓OnlyMast.mk_other, ↓id_eq] | split

theorem State.oldDec_within  (hm : m < 2) (h : OnlyMast m s0 s) : OnlyMast m s0 (State.oldDec s m) := by
  unfold State.oldDec
  repeat' with_reducible
    first
    | assumption | apply State.setNt_within | apply State.rehashDone_within | apply OnlyMast.of_ite | intro _ | apply OnlyMast.of_getD
    | (apply OnlyMast.of_snd; assumption) | apply foldl_keeps (OnlyMast m s0) | simp only [↓OnlyMast.mk_other, ↓id_eq] | split

theorem State.promote_within {x2 : Nat} {x3 : Nat} (hm : m < 2) (h : OnlyMast m s0 s) : OnlyMast m s0 (State.promote s m x2 x3) := by
  unfold State.promote
  repeat' with_reducible
    first
    | assumption | apply State.bump_within | apply State.dropEntry_within | apply State.putEntry_within | apply OnlyMast.of_ite | intro _
    | apply OnlyMast.of_getD | (apply OnlyMast.of_snd; assumption) | apply foldl_keeps (OnlyMast m s0) | simp only [↓OnlyMast.mk_other, ↓id_eq]
    | split

theorem State.removeEntry_within {x2 : Nat} (hm : m < 2) (h : OnlyMast m s0 s) : OnlyMast m s0 (State.removeEntry s m x2) := by
  unfold State.removeEntry
  repeat' with_reducible
    first
    | assumption | apply State.dropEntry_within | apply State.oldDec_within | apply State.promote_within | apply OnlyMast.of_ite | intro _
    | apply OnlyMast.of_getD | (apply OnlyMast.of_snd; assumption) | apply foldl_keeps (OnlyMast m s0) | simp only [↓OnlyMast.mk_other, ↓id_eq]
    | split

theorem State.refresh_within {x2 : Nat} {x3 : Nat} (hm : m < 2) (h : OnlyMast m s0 s) : OnlyMast m s0 (State.refresh s m x2 x3) := by
  unfold State.refresh
  repeat' with_reducible
    first
    | assumption | apply State.bump_within | apply State.setNt_within | apply State.setMast_within | apply OnlyMast.of_ite | intro _
    | apply OnlyMast.of_getD | (apply OnlyMast.of_snd; assumption) | apply foldl_keeps (OnlyMast m s0) | simp only [↓OnlyMast.mk_other, ↓id_eq]
    | split

theorem State.meets_within {x2 : Nat} {x3 : List (Nat × Nat)} (hm : m < 2) (h : OnlyMast m s0 s) : OnlyMast m s0 (State.meets s m x2 x3) := by
  unfold State.meets
  repeat' with_reducible
    first
    | assumption | apply State.refresh_within | apply OnlyMast.of_ite | intro _ | apply OnlyMast.of_getD | (apply OnlyMast.of_snd; assumption)
    | apply foldl_keeps (OnlyMast m s0) | simp only [↓OnlyMast.mk_other, ↓id_eq] | split

theorem State.carryRefresh_within {x2 : Nat} {x3 : Nat} {x4 : Entry} (hm : m < 2) (h : OnlyMast m s0 s) : OnlyMast m s0 (State.carryRefresh s m x2 x3 x4) := by
  unfold State.carryRefresh
  repeat' with_reducible
    first
    | assumption | apply State.bump_within | apply State.setNt_within | apply OnlyMast.of_ite | intro _ | apply OnlyMast.of_getD
    | (apply OnlyMast.of_snd; assumption) | apply foldl_keeps (OnlyMast m s0) | simp only [↓OnlyMast.mk_other, ↓id_eq] | split

theorem State.moveEntry_within {x2 : Nat} {x3 : List (Nat × Nat)} (hm : m < 2) (h : OnlyMast m s0 s) : OnlyMast m s0 (State.moveEntry s m x2 x3).2 := by
  unfold State.moveEntry
  repeat' with_reducible
    first
    | assumption | apply State.setNt_within | apply State.meets_within | apply State.bump_within | apply State.putEntry_within
    | apply State.oldDec_within | apply State.dropEntry_within | apply State.carryRefresh_within | apply OnlyMast.of_ite | intro _
    | apply OnlyMast.of_getD | (apply OnlyMast.of_snd; assumption) | apply foldl_keeps (OnlyMast m s0) | simp only [↓OnlyMast.mk_other, ↓id_eq]
    | split

theorem State.moveAll_within {x2 : List (Nat × Nat)} {x3 : List Nat} (hm : m < 2) (h : OnlyMast m s0 s) : OnlyMast m s0 (State.moveAll s m x2 x3) := by
  induction x3 generalizing s with
  | nil => exact h
  | cons _ _ ih =>
  unfold State.moveAll
  repeat' with_reducible
    first
    | assumption | apply ih | apply State.moveEntry_within | apply State.setNt_within | apply OnlyMast.of_ite | intro _ | apply OnlyMast.of_getD
    | (apply OnlyMast.of_snd; assumption) | apply foldl_keeps (OnlyMast m s0) | simp only [↓OnlyMast.mk_other, ↓id_eq] | split

theorem State.rehashStart_within  (hm : m < 2) (h : OnlyMast m s0 s) : OnlyMast m s0 (State.rehashStart s m) := by
  unfold State.rehashStart
  repeat' with_reducible
    first
    | assumption | apply State.setNt_within | apply State.pendRetry_within | apply State.rehashDone_within | apply OnlyMast.of_ite | intro _
    | apply OnlyMast.of_getD | (apply OnlyMast.of_snd; assumption) | apply foldl_keeps (OnlyMast m s0) | simp only [↓OnlyMast.mk_other, ↓id_eq]
    | split

theorem State.rehashResume_within  (hm : m < 2) (h : OnlyMast m s0 s) : OnlyMast m s0 (State.rehashResume s m) := by
  unfold State.rehashResume
  repeat' with_reducible
    first
    | assumption | apply State.put_within | apply State.setNt_within | apply OnlyMast.of_ite | intro _ | apply OnlyMast.of_getD
    | (apply OnlyMast.of_snd; assumption) | apply foldl_keeps (OnlyMast m s0) | simp only [↓OnlyMast.mk_other, ↓id_eq] | split

theorem State.accRehashCtl_within {x2 : Nat} {x3 : Nat} {x4 : Nat} (hm : m < 2) (h : OnlyMast m s0 s) : OnlyMast m s0 (State.accRehashCtl s m x2 x3 x4) := by
  unfold State.accRehashCtl
  repeat' with_reducible
    first
    | assumption | apply State.action_within | apply State.put_within | apply State.rehashStart_within | apply State.rehashResume_within
    | apply OnlyMast.of_ite | intro _ | apply OnlyMast.of_getD | (apply OnlyMast.of_snd; assumption) | apply foldl_keeps (OnlyMast m s0)
    | simp only [↓OnlyMast.mk_other, ↓id_eq] | split

theorem State.setAged_within {x2 : Nat} (hm : m < 2) (h : OnlyMast m s0 s) : OnlyMast m s0 (State.setAged s m x2) := by
  unfold State.setAged
  repeat' with_reducible
    first
    | assumption | apply State.setMast_within | apply OnlyMast.of_ite | intro _ | apply OnlyMast.of_getD | (apply OnlyMast.of_snd; assumption)
    | apply foldl_keeps (OnlyMast m s0) | simp only [↓OnlyMast.mk_other, ↓id_eq] | split

theorem State.agePos_within {x2 : Nat} {x3 : List (Nat × Nat)} (hm : m < 2) (h : OnlyMast m s0 s) : OnlyMast m s0 (State.agePos s m x2 x3) := by
  unfold State.agePos
  repeat' with_reducible
    first
    | assumption | apply State.meets_within | apply State.bump_within | apply State.pendRetry_within | apply State.event_within
    | apply State.setAged_within | apply State.removeEntry_within | apply OnlyMast.of_ite | intro _ | apply OnlyMast.of_getD
    | (apply OnlyMast.of_snd; assumption) | apply foldl_keeps (OnlyMast m s0) | simp only [↓OnlyMast.mk_other, ↓id_eq] | split

theorem State.learn_within {x2 : Nat} {x3 : Nat} {x4 : Addr} (hm : m < 2) (h : OnlyMast m s0 s) : OnlyMast m s0 (State.learn s m x2 x3 x4) := by
  unfold State.learn
  repeat' with_reducible
    first
    | assumption | apply State.lookupKey_within | apply State.refresh_within | apply State.bump_within | apply State.insert_within
    | apply OnlyMast.of_ite | intro _ | apply OnlyMast.of_getD | (apply OnlyMast.of_snd; assumption) | apply foldl_keeps (OnlyMast m s0)
    | simp only [↓OnlyMast.mk_other, ↓id_eq] | split

theorem State.ntDone_within {x1 : Nat} {x2 : CmdStatus} (hm : m < 2) (h : OnlyMast m s0 s) : OnlyMast m s0 (State.ntDone s x1 x2) := by
  unfold State.ntDone
  repeat' with_reducible
    first
    | assumption | apply State.put_within | apply OnlyMast.of_ite | intro _ | apply OnlyMast.of_getD | (apply OnlyMast.of_snd; assumption)
    | apply foldl_keeps (OnlyMast m s0) | simp only [↓OnlyMast.mk_other, ↓id_eq] | split

theorem State.ntCommand_within {x2 : Nat} {x3 : Nat} {x4 : State → CmdStatus × State} (hf4 : ∀ y0, OnlyMast m s0 y0 → OnlyMast m s0 (x4 y0).2) (hm : m < 2) (h : OnlyMast m s0 s) : OnlyMast m s0 (State.ntCommand s m x2 x3 x4) := by
  unfold State.ntCommand
  repeat' with_reducible
    first
    | assumption | apply State.action_within | apply State.ntDone_within | apply hf4 | apply OnlyMast.of_ite | intro _ | apply OnlyMast.of_getD
    | (apply OnlyMast.of_snd; assumption) | apply foldl_keeps (OnlyMast m s0) | simp only [↓OnlyMast.mk_other, ↓id_eq] | split

theorem State.showHit_within {x1 : Nat} {x2 : Nat} {x3 : Nat} (hm : m < 2) (h : OnlyMast m s0 s) : OnlyMast m s0 (State.showHit s x1 x2 x3) := by
  unfold State.showHit
  repeat' with_reducible
    first
    | assumption | apply State.setWord_within | apply OnlyMast.of_ite | intro _ | apply OnlyMast.of_getD | (apply OnlyMast.of_snd; assumption)
    | apply foldl_keeps (OnlyMast m s0) | simp only [↓OnlyMast.mk_other, ↓id_eq] | split

theorem State.accNodetabLookup_within {x2 : Nat} {x3 : Nat} (hm : m < 2) (h : OnlyMast m s0 s) : OnlyMast m s0 (State.accNodetabLookup s m x2 x3) := by
  unfold State.accNodetabLookup
  repeat' with_reducible
    first
    | assumption | apply State.ntCommand_within | apply State.lookupKey_within | apply State.showHit_within | apply State.setWord_within
    | apply OnlyMast.of_ite | intro _ | apply OnlyMast.of_getD | (apply OnlyMast.of_snd; assumption) | apply foldl_keeps (OnlyMast m s0)
    | simp only [↓OnlyMast.mk_other, ↓id_eq] | split

theorem State.accNodetabInsert_within {x2 : Nat} {x3 : Nat} (hm : m < 2) (h : OnlyMast m s0 s) : OnlyMast m s0 (State.accNodetabInsert s m x2 x3) := by
  unfold State.accNodetabInsert
  repeat' with_reducible
    first
    | assumption | apply State.ntCommand_within | apply State.insert_within | apply OnlyMast.of_ite | intro _ | apply OnlyMast.of_getD
    | (apply OnlyMast.of_snd; assumption) | apply foldl_keeps (OnlyMast m s0) | simp only [↓OnlyMast.mk_other, ↓id_eq] | split

theorem State.accNodetabDelete_within {x2 : Nat} {x3 : Nat} (hm : m < 2) (h : OnlyMast m s0 s) : OnlyMast m s0 (State.accNodetabDelete s m x2 x3) := by
  unfold State.accNodetabDelete
  repeat' with_reducible
    first
    | assumption | apply State.ntCommand_within | apply State.lookupKey_within | apply State.pendRetry_within | apply State.setAged_within
    | apply State.removeEntry_within | apply OnlyMast.of_ite | intro _ | apply OnlyMast.of_getD | (apply OnlyMast.of_snd; assumption)
    | apply foldl_keeps (OnlyMast m s0) | simp only [↓OnlyMast.mk_other, ↓id_eq] | split

theorem State.unshort_within {x2 : Nat} (hm : m < 2) (h : OnlyMast m s0 s) : OnlyMast m s0 (State.unshort s m x2) := by
  unfold State.unshort
  repeat' with_reducible
    first
    | assumption | apply State.setNt_within | apply OnlyMast.of_ite | intro _ | apply OnlyMast.of_getD | (apply OnlyMast.of_snd; assumption)
    | apply foldl_keeps (OnlyMast m s0) | simp only [↓OnlyMast.mk_other, ↓id_eq] | split

theorem State.freeNode_within {x2 : Nat} (hm : m < 2) (h : OnlyMast m s0 s) : OnlyMast m s0 (State.freeNode s m x2) := by
  unfold State.freeNode
  repeat' with_reducible
    first
    | assumption | apply State.removeEntry_within | apply State.chainRemove_within | apply State.unshort_within | apply State.pendRetry_within
    | apply State.setMast_within | apply OnlyMast.of_ite | intro _ | apply OnlyMast.of_getD | (apply OnlyMast.of_snd; assumption)
    | apply foldl_keeps (OnlyMast m s0) | simp only [↓OnlyMast.mk_other, ↓id_eq] | split

theorem State.accNodetabFree_within {x2 : Nat} {x3 : Nat} (hm : m < 2) (h : OnlyMast m s0 s) : OnlyMast m s0 (State.accNodetabFree s m x2 x3) := by
  unfold State.accNodetabFree
  repeat' with_reducible
    first
    | assumption | apply State.ntCommand_within | apply State.freeNode_within | apply OnlyMast.of_ite | intro _ | apply OnlyMast.of_getD
    | (apply OnlyMast.of_snd; assumption) | apply foldl_keeps (OnlyMast m s0) | simp only [↓OnlyMast.mk_other, ↓id_eq] | split

theorem State.accShortSet_within {x2 : Nat} {x3 : Nat} (hm : m < 2) (h : OnlyMast m s0 s) : OnlyMast m s0 (State.accShortSet s m x2 x3) := by
  unfold State.accShortSet
  repeat' with_reducible
    first
    | assumption | apply State.ntCommand_within | apply State.unshort_within | apply State.setNt_within | apply State.setMast_within
    | apply OnlyMast.of_ite | intro _ | apply OnlyMast.of_getD | (apply OnlyMast.of_snd; assumption) | apply foldl_keeps (OnlyMast m s0)
    | simp only [↓OnlyMast.mk_other, ↓id_eq] | split

theorem State.accShortClr_within {x2 : Nat} {x3 : Nat} (hm : m < 2) (h : OnlyMast m s0 s) : OnlyMast m s0 (State.accShortClr s m x2 x3) := by
  unfold State.accShortClr
  repeat' with_reducible
    first
    | assumption | apply State.ntCommand_within | apply State.unshort_within | apply State.setMast_within | apply OnlyMast.of_ite | intro _
    | apply OnlyMast.of_getD | (apply OnlyMast.of_snd; assumption) | apply foldl_keeps (OnlyMast m s0) | simp only [↓OnlyMast.mk_other, ↓id_eq]
    | split

theorem State.accSetPort_within {x2 : Nat} {x3 : Nat} (hm : m < 2) (h : OnlyMast m s0 s) : OnlyMast m s0 (State.accSetPort s m x2 x3) := by
  unfold State.accSetPort
  repeat' with_reducible
    first
    | assumption | apply State.ntCommand_within | apply State.lookupKey_within | apply State.setNt_within | apply State.setMast_within
    | apply OnlyMast.of_ite | intro _ | apply OnlyMast.of_getD | (apply OnlyMast.of_snd; assumption) | apply foldl_keeps (OnlyMast m s0)
    | simp only [↓OnlyMast.mk_other, ↓id_eq] | split

theorem State.accNodetabMove_within {x2 : Nat} {x3 : Nat} {x4 : List (Nat × Nat)} (hm : m < 2) (h : OnlyMast m s0 s) : OnlyMast m s0 (State.accNodetabMove s m x2 x3 x4) := by
  unfold State.accNodetabMove
  repeat' with_reducible
    first
    | assumption | apply State.ntCommand_within | apply State.lookupKey_within | apply State.moveEntry_within | apply OnlyMast.of_ite | intro _
    | apply OnlyMast.of_getD | (apply OnlyMast.of_snd; assumption) | apply foldl_keeps (OnlyMast m s0) | simp only [↓OnlyMast.mk_other, ↓id_eq]
    | split

end Sys2Proof.Machine
end

