-- ==== Sys2Proof/Laws/WithinKeys.lean ====
section
/-! SUPPORT. What stays within mast `m`: one lemma for each operation that acts on one mast alone (OnlyMast), of Keys, Sessions, SailOps, Transmit, Domains, Gates, Lanes, Receive, Time. -/

namespace Sys2Proof.Machine

variable {m : Nat} {s0 s t : State}

/-! ## Keys -/

theorem State.setKeys_within {x2 : KeyEng} (hm : m < 2) (h : OnlyMast m s0 s) : OnlyMast m s0 (State.setKeys s m x2) := by
  unfold State.setKeys
  repeat' with_reducible
    first
    | assumption | apply State.setMast_within | apply OnlyMast.of_ite | intro _ | apply OnlyMast.of_getD | (apply OnlyMast.of_snd; assumption)
    | apply foldl_keeps (OnlyMast m s0) | simp only [↓OnlyMast.mk_other, ↓id_eq] | split

theorem State.useSlot_within {x2 : Nat} {x3 : Usage} (hm : m < 2) (h : OnlyMast m s0 s) : OnlyMast m s0 (State.useSlot s m x2 x3).2 := by
  unfold State.useSlot
  repeat' with_reducible
    first
    | assumption | apply State.bump_within | apply State.setKeys_within | apply OnlyMast.of_ite | intro _ | apply OnlyMast.of_getD
    | (apply OnlyMast.of_snd; assumption) | apply foldl_keeps (OnlyMast m s0) | simp only [↓OnlyMast.mk_other, ↓id_eq] | split

theorem State.drbgRequest_within {x2 : Nat} {y} (e : State.drbgRequest s m x2 = some (y, t)) (hm : m < 2) (h : OnlyMast m s0 s) : OnlyMast m s0 t := by
  unfold State.drbgRequest at e
  try dsimp only at e
  repeat' split at e
  all_goals first | cases e | skip
  all_goals try simp only [Option.some.injEq, Prod.mk.injEq] at e
  all_goals try obtain ⟨rfl, rfl⟩ := e
  all_goals try simp only [Option.map_eq_some_iff] at e
  all_goals try obtain ⟨_, e, rfl⟩ := e
  all_goals repeat' with_reducible
    first
    | assumption | apply State.bump_within | apply State.put_within | apply State.draw_within | apply OnlyMast.of_ite | intro _
    | apply OnlyMast.of_getD | (apply OnlyMast.of_snd; assumption) | apply foldl_keeps (OnlyMast m s0) | simp only [↓OnlyMast.mk_other, ↓id_eq]
    | split

theorem State.loadSlot_within {x2 : Nat} {x3 : Nat} {x4 : Nat} {x5 : List Nat} {x6 : List Nat} (hm : m < 2) (h : OnlyMast m s0 s) : OnlyMast m s0 (State.loadSlot s m x2 x3 x4 x5 x6) := by
  unfold State.loadSlot
  repeat' with_reducible
    first
    | assumption | apply State.setKeys_within | apply OnlyMast.of_ite | intro _ | apply OnlyMast.of_getD | (apply OnlyMast.of_snd; assumption)
    | apply foldl_keeps (OnlyMast m s0) | simp only [↓OnlyMast.mk_other, ↓id_eq] | split

theorem State.keyDerive_within  (hm : m < 2) (h : OnlyMast m s0 s) : OnlyMast m s0 (State.keyDerive s m).2 := by
  unfold State.keyDerive
  repeat' with_reducible
    first
    | assumption | apply State.loadSlot_within | apply State.useSlot_within | apply OnlyMast.of_ite | intro _ | apply OnlyMast.of_getD
    | (apply OnlyMast.of_snd; assumption) | apply foldl_keeps (OnlyMast m s0) | simp only [↓OnlyMast.mk_other, ↓id_eq] | split

theorem State.keyGenerate_within  (hm : m < 2) (h : OnlyMast m s0 s) : OnlyMast m s0 (State.keyGenerate s m).2 := by
  unfold State.keyGenerate
  repeat' with_reducible
    first
    | assumption | (apply State.drbgRequest_within; assumption) | apply State.loadSlot_within | apply OnlyMast.of_ite | intro _
    | apply OnlyMast.of_getD | (apply OnlyMast.of_snd; assumption) | apply foldl_keeps (OnlyMast m s0) | simp only [↓OnlyMast.mk_other, ↓id_eq]
    | split

theorem State.keyImport_within  (hm : m < 2) (h : OnlyMast m s0 s) : OnlyMast m s0 (State.keyImport s m).2 := by
  unfold State.keyImport
  repeat' with_reducible
    first
    | assumption | apply State.useSlot_within | apply State.loadSlot_within | apply State.bump_within | apply OnlyMast.of_ite | intro _
    | apply OnlyMast.of_getD | (apply OnlyMast.of_snd; assumption) | apply foldl_keeps (OnlyMast m s0) | simp only [↓OnlyMast.mk_other, ↓id_eq]
    | split

theorem State.keyInvalidate_within  (hm : m < 2) (h : OnlyMast m s0 s) : OnlyMast m s0 (State.keyInvalidate s m).2 := by
  unfold State.keyInvalidate
  repeat' with_reducible
    first
    | assumption | apply State.setKeys_within | apply OnlyMast.of_ite | intro _ | apply OnlyMast.of_getD | (apply OnlyMast.of_snd; assumption)
    | apply foldl_keeps (OnlyMast m s0) | simp only [↓OnlyMast.mk_other, ↓id_eq] | split

theorem State.keyLock_within  (hm : m < 2) (h : OnlyMast m s0 s) : OnlyMast m s0 (State.keyLock s m).2 := by
  unfold State.keyLock
  repeat' with_reducible
    first
    | assumption | apply State.setKeys_within | apply OnlyMast.of_ite | intro _ | apply OnlyMast.of_getD | (apply OnlyMast.of_snd; assumption)
    | apply foldl_keeps (OnlyMast m s0) | simp only [↓OnlyMast.mk_other, ↓id_eq] | split

theorem State.uncache_within {x2 : Nat} (hm : m < 2) (h : OnlyMast m s0 s) : OnlyMast m s0 (State.uncache s m x2) := by
  unfold State.uncache
  repeat' with_reducible
    first
    | assumption | apply State.setKeys_within | apply OnlyMast.of_ite | intro _ | apply OnlyMast.of_getD | (apply OnlyMast.of_snd; assumption)
    | apply foldl_keeps (OnlyMast m s0) | simp only [↓OnlyMast.mk_other, ↓id_eq] | split

theorem State.setKeySec_within {x2 : Nat} {x3 : KeySec} (hm : m < 2) (h : OnlyMast m s0 s) : OnlyMast m s0 (State.setKeySec s m x2 x3) := by
  unfold State.setKeySec
  repeat' with_reducible
    first
    | assumption | apply State.uncache_within | apply State.setMast_within | apply OnlyMast.of_ite | intro _ | apply OnlyMast.of_getD
    | (apply OnlyMast.of_snd; assumption) | apply foldl_keeps (OnlyMast m s0) | simp only [↓OnlyMast.mk_other, ↓id_eq] | split

theorem State.nodeWrap_within {x2 : Nat} {x3 : Nat} {x4 : Nat} (hm : m < 2) (h : OnlyMast m s0 s) : OnlyMast m s0 (State.nodeWrap s m x2 x3 x4).2 := by
  unfold State.nodeWrap
  repeat' with_reducible
    first
    | assumption | apply State.useSlot_within | apply State.setKeySec_within | apply OnlyMast.of_ite | intro _ | apply OnlyMast.of_getD
    | (apply OnlyMast.of_snd; assumption) | apply foldl_keeps (OnlyMast m s0) | simp only [↓OnlyMast.mk_other, ↓id_eq] | split

theorem State.nodeSet_within  (hm : m < 2) (h : OnlyMast m s0 s) : OnlyMast m s0 (State.nodeSet s m).2 := by
  unfold State.nodeSet
  repeat' with_reducible
    first
    | assumption | apply State.useSlot_within | apply State.bump_within | apply State.nodeWrap_within | apply OnlyMast.of_ite | intro _
    | apply OnlyMast.of_getD | (apply OnlyMast.of_snd; assumption) | apply foldl_keeps (OnlyMast m s0) | simp only [↓OnlyMast.mk_other, ↓id_eq]
    | split

theorem State.nodeClear_within  (hm : m < 2) (h : OnlyMast m s0 s) : OnlyMast m s0 (State.nodeClear s m).2 := by
  unfold State.nodeClear
  repeat' with_reducible
    first
    | assumption | apply State.setKeySec_within | apply OnlyMast.of_ite | intro _ | apply OnlyMast.of_getD | (apply OnlyMast.of_snd; assumption)
    | apply foldl_keeps (OnlyMast m s0) | simp only [↓OnlyMast.mk_other, ↓id_eq] | split

theorem State.nodeRewrap_within  (hm : m < 2) (h : OnlyMast m s0 s) : OnlyMast m s0 (State.nodeRewrap s m).2 := by
  unfold State.nodeRewrap
  repeat' with_reducible
    first
    | assumption | apply State.useSlot_within | apply State.bump_within | apply State.nodeWrap_within | apply OnlyMast.of_ite | intro _
    | apply OnlyMast.of_getD | (apply OnlyMast.of_snd; assumption) | apply foldl_keeps (OnlyMast m s0) | simp only [↓OnlyMast.mk_other, ↓id_eq]
    | split

theorem State.keyDone_within {x2 : KeyResult} (hm : m < 2) (h : OnlyMast m s0 s) : OnlyMast m s0 (State.keyDone s m x2) := by
  unfold State.keyDone
  repeat' with_reducible
    first
    | assumption | apply State.irq_within | apply State.put_within | apply OnlyMast.of_ite | intro _ | apply OnlyMast.of_getD
    | (apply OnlyMast.of_snd; assumption) | apply foldl_keeps (OnlyMast m s0) | simp only [↓OnlyMast.mk_other, ↓id_eq] | split

theorem State.keyCommand_within {x2 : Nat} {x3 : Nat} {x4 : State → KeyResult × State} (hf4 : ∀ y0, OnlyMast m s0 y0 → OnlyMast m s0 (x4 y0).2) (hm : m < 2) (h : OnlyMast m s0 s) : OnlyMast m s0 (State.keyCommand s m x2 x3 x4) := by
  unfold State.keyCommand
  repeat' with_reducible
    first
    | assumption | apply State.action_within | apply State.lockv_within | apply State.keyDone_within | apply hf4 | apply OnlyMast.of_ite | intro _
    | apply OnlyMast.of_getD | (apply OnlyMast.of_snd; assumption) | apply foldl_keeps (OnlyMast m s0) | simp only [↓OnlyMast.mk_other, ↓id_eq]
    | split

theorem State.accDerive_within {x2 : Nat} {x3 : Nat} (hm : m < 2) (h : OnlyMast m s0 s) : OnlyMast m s0 (State.accDerive s m x2 x3) := by
  unfold State.accDerive
  repeat' with_reducible
    first
    | assumption | apply State.keyCommand_within | apply State.keyDerive_within | apply OnlyMast.of_ite | intro _ | apply OnlyMast.of_getD
    | (apply OnlyMast.of_snd; assumption) | apply foldl_keeps (OnlyMast m s0) | simp only [↓OnlyMast.mk_other, ↓id_eq] | split

theorem State.accGenerate_within {x2 : Nat} {x3 : Nat} (hm : m < 2) (h : OnlyMast m s0 s) : OnlyMast m s0 (State.accGenerate s m x2 x3) := by
  unfold State.accGenerate
  repeat' with_reducible
    first
    | assumption | apply State.keyCommand_within | apply State.keyGenerate_within | apply OnlyMast.of_ite | intro _ | apply OnlyMast.of_getD
    | (apply OnlyMast.of_snd; assumption) | apply foldl_keeps (OnlyMast m s0) | simp only [↓OnlyMast.mk_other, ↓id_eq] | split

theorem State.accImport_within {x2 : Nat} {x3 : Nat} (hm : m < 2) (h : OnlyMast m s0 s) : OnlyMast m s0 (State.accImport s m x2 x3) := by
  unfold State.accImport
  repeat' with_reducible
    first
    | assumption | apply State.keyCommand_within | apply State.keyImport_within | apply OnlyMast.of_ite | intro _ | apply OnlyMast.of_getD
    | (apply OnlyMast.of_snd; assumption) | apply foldl_keeps (OnlyMast m s0) | simp only [↓OnlyMast.mk_other, ↓id_eq] | split

theorem State.accInvalidate_within {x2 : Nat} {x3 : Nat} (hm : m < 2) (h : OnlyMast m s0 s) : OnlyMast m s0 (State.accInvalidate s m x2 x3) := by
  unfold State.accInvalidate
  repeat' with_reducible
    first
    | assumption | apply State.keyCommand_within | apply State.keyInvalidate_within | apply OnlyMast.of_ite | intro _ | apply OnlyMast.of_getD
    | (apply OnlyMast.of_snd; assumption) | apply foldl_keeps (OnlyMast m s0) | simp only [↓OnlyMast.mk_other, ↓id_eq] | split

theorem State.accKeyLock_within {x2 : Nat} {x3 : Nat} (hm : m < 2) (h : OnlyMast m s0 s) : OnlyMast m s0 (State.accKeyLock s m x2 x3) := by
  unfold State.accKeyLock
  repeat' with_reducible
    first
    | assumption | apply State.keyCommand_within | apply State.keyLock_within | apply OnlyMast.of_ite | intro _ | apply OnlyMast.of_getD
    | (apply OnlyMast.of_snd; assumption) | apply foldl_keeps (OnlyMast m s0) | simp only [↓OnlyMast.mk_other, ↓id_eq] | split

theorem State.accNodeSet_within {x2 : Nat} {x3 : Nat} (hm : m < 2) (h : OnlyMast m s0 s) : OnlyMast m s0 (State.accNodeSet s m x2 x3) := by
  unfold State.accNodeSet
  repeat' with_reducible
    first
    | assumption | apply State.keyCommand_within | apply State.nodeSet_within | apply OnlyMast.of_ite | intro _ | apply OnlyMast.of_getD
    | (apply OnlyMast.of_snd; assumption) | apply foldl_keeps (OnlyMast m s0) | simp only [↓OnlyMast.mk_other, ↓id_eq] | split

theorem State.accNodeClear_within {x2 : Nat} {x3 : Nat} (hm : m < 2) (h : OnlyMast m s0 s) : OnlyMast m s0 (State.accNodeClear s m x2 x3) := by
  unfold State.accNodeClear
  repeat' with_reducible
    first
    | assumption | apply State.keyCommand_within | apply State.nodeClear_within | apply OnlyMast.of_ite | intro _ | apply OnlyMast.of_getD
    | (apply OnlyMast.of_snd; assumption) | apply foldl_keeps (OnlyMast m s0) | simp only [↓OnlyMast.mk_other, ↓id_eq] | split

theorem State.accNodeRewrap_within {x2 : Nat} {x3 : Nat} (hm : m < 2) (h : OnlyMast m s0 s) : OnlyMast m s0 (State.accNodeRewrap s m x2 x3) := by
  unfold State.accNodeRewrap
  repeat' with_reducible
    first
    | assumption | apply State.keyCommand_within | apply State.nodeRewrap_within | apply OnlyMast.of_ite | intro _ | apply OnlyMast.of_getD
    | (apply OnlyMast.of_snd; assumption) | apply foldl_keeps (OnlyMast m s0) | simp only [↓OnlyMast.mk_other, ↓id_eq] | split

theorem State.accPersist_within {x2 : Nat} {x3 : Nat} (hm : m < 2) (h : OnlyMast m s0 s) : OnlyMast m s0 (State.accPersist s m x2 x3) := by
  unfold State.accPersist
  repeat' with_reducible
    first
    | assumption | apply State.action_within | apply State.lockv_within | apply State.keyDone_within | apply State.nvStart_within
    | apply State.put_within | apply State.setKeys_within | apply OnlyMast.of_ite | intro _ | apply OnlyMast.of_getD
    | (apply OnlyMast.of_snd; assumption) | apply foldl_keeps (OnlyMast m s0) | simp only [↓OnlyMast.mk_other, ↓id_eq] | split

theorem State.persistDone_within {x2 : Bool} (hm : m < 2) (h : OnlyMast m s0 s) : OnlyMast m s0 (State.persistDone s m x2) := by
  unfold State.persistDone
  repeat' with_reducible
    first
    | assumption | apply State.setKeys_within | apply State.keyDone_within | apply State.bump_within | apply State.put_within
    | apply State.nvDone_within | apply State.irq_within | apply OnlyMast.of_ite | intro _ | apply OnlyMast.of_getD
    | (apply OnlyMast.of_snd; assumption) | apply foldl_keeps (OnlyMast m s0) | simp only [↓OnlyMast.mk_other, ↓id_eq] | split

theorem State.rebuildKeys_within  (hm : m < 2) (h : OnlyMast m s0 s) : OnlyMast m s0 (State.rebuildKeys s m) := by
  unfold State.rebuildKeys
  repeat' with_reducible
    first
    | assumption | apply State.setKeys_within | apply State.event_within | apply State.irq_within | apply State.setWord_within
    | apply State.put_within | apply OnlyMast.of_ite | intro _ | apply OnlyMast.of_getD | (apply OnlyMast.of_snd; assumption)
    | apply foldl_keeps (OnlyMast m s0) | simp only [↓OnlyMast.mk_other, ↓id_eq] | split

theorem State.noKey_within {x1 : Nat} (hm : m < 2) (h : OnlyMast m s0 s) : OnlyMast m s0 (State.noKey s x1) := by
  unfold State.noKey
  repeat' with_reducible
    first
    | assumption | apply State.bump_within | apply OnlyMast.of_ite | intro _ | apply OnlyMast.of_getD | (apply OnlyMast.of_snd; assumption)
    | apply foldl_keeps (OnlyMast m s0) | simp only [↓OnlyMast.mk_other, ↓id_eq] | split

theorem State.nodeKey_within {x2 : Nat} (hm : m < 2) (h : OnlyMast m s0 s) : OnlyMast m s0 (State.nodeKey s m x2).2 := by
  unfold State.nodeKey
  repeat' with_reducible
    first
    | assumption | apply State.event_within | apply State.noKey_within | apply State.bump_within | apply State.irq_within
    | apply State.useSlot_within | apply State.setKeys_within | apply OnlyMast.of_ite | intro _ | apply OnlyMast.of_getD
    | (apply OnlyMast.of_snd; assumption) | apply foldl_keeps (OnlyMast m s0) | simp only [↓OnlyMast.mk_other, ↓id_eq] | split

theorem State.groupKey_within {x2 : Nat} {x3 : Usage} (hm : m < 2) (h : OnlyMast m s0 s) : OnlyMast m s0 (State.groupKey s m x2 x3).2 := by
  unfold State.groupKey
  repeat' with_reducible
    first
    | assumption | apply State.noKey_within | apply State.useSlot_within | apply OnlyMast.of_ite | intro _ | apply OnlyMast.of_getD
    | (apply OnlyMast.of_snd; assumption) | apply foldl_keeps (OnlyMast m s0) | simp only [↓OnlyMast.mk_other, ↓id_eq] | split

theorem State.jobCheck_within {x2 : Job} (hm : m < 2) (h : OnlyMast m s0 s) : OnlyMast m s0 (State.jobCheck s m x2).2.2 := by
  unfold State.jobCheck
  repeat' with_reducible
    first
    | assumption | apply State.useSlot_within | apply OnlyMast.of_ite | intro _ | apply OnlyMast.of_getD | (apply OnlyMast.of_snd; assumption)
    | apply foldl_keeps (OnlyMast m s0) | simp only [↓OnlyMast.mk_other, ↓id_eq] | split

theorem State.accJobGo_within {x2 : Nat} {x3 : Nat} {x4 : Nat} (hm : m < 2) (h : OnlyMast m s0 s) : OnlyMast m s0 (State.accJobGo s m x2 x3 x4) := by
  unfold State.accJobGo
  repeat' with_reducible
    first
    | assumption | apply State.action_within | apply State.jobCheck_within | apply State.bput_within | apply State.setKeys_within
    | apply OnlyMast.of_ite | intro _ | apply OnlyMast.of_getD | (apply OnlyMast.of_snd; assumption) | apply foldl_keeps (OnlyMast m s0)
    | simp only [↓OnlyMast.mk_other, ↓id_eq] | split

theorem State.jobEnd_within {x2 : Nat} {x3 : Nat} {x4 : Nat} (hm : m < 2) (h : OnlyMast m s0 s) : OnlyMast m s0 (State.jobEnd s m x2 x3 x4) := by
  unfold State.jobEnd
  repeat' with_reducible
    first
    | assumption | apply State.bump_within | apply State.setWord_within | apply State.setKeys_within | apply OnlyMast.of_ite | intro _
    | apply OnlyMast.of_getD | (apply OnlyMast.of_snd; assumption) | apply foldl_keeps (OnlyMast m s0) | simp only [↓OnlyMast.mk_other, ↓id_eq]
    | split

theorem State.setTag_within {x1 : Nat} {x2 : Nat} {x3 : List Nat} (hm : m < 2) (h : OnlyMast m s0 s) : OnlyMast m s0 (State.setTag s x1 x2 x3) := by
  unfold State.setTag
  repeat' with_reducible
    first
    | assumption | apply State.setWord_within | apply OnlyMast.of_ite | intro _ | apply OnlyMast.of_getD | (apply OnlyMast.of_snd; assumption)
    | apply foldl_keeps (OnlyMast m s0) | simp only [↓OnlyMast.mk_other, ↓id_eq] | split

theorem State.rsaHold_within {x2 : Option RsaKey} (hm : m < 2) (h : OnlyMast m s0 s) : OnlyMast m s0 (State.rsaHold s m x2) := by
  unfold State.rsaHold
  repeat' with_reducible
    first
    | assumption | apply State.put_within | apply State.setKeys_within | apply OnlyMast.of_ite | intro _ | apply OnlyMast.of_getD
    | (apply OnlyMast.of_snd; assumption) | apply foldl_keeps (OnlyMast m s0) | simp only [↓OnlyMast.mk_other, ↓id_eq] | split

theorem State.rsaStart_within {x2 : RsaOp} (hm : m < 2) (h : OnlyMast m s0 s) : OnlyMast m s0 (State.rsaStart s m x2) := by
  unfold State.rsaStart
  repeat' with_reducible
    first
    | assumption | apply State.put_within | apply State.setKeys_within | apply OnlyMast.of_ite | intro _ | apply OnlyMast.of_getD
    | (apply OnlyMast.of_snd; assumption) | apply foldl_keeps (OnlyMast m s0) | simp only [↓OnlyMast.mk_other, ↓id_eq] | split

theorem State.rsaLoad_within  (hm : m < 2) (h : OnlyMast m s0 s) : OnlyMast m s0 (State.rsaLoad s m) := by
  unfold State.rsaLoad
  repeat' with_reducible
    first
    | assumption | apply State.rsaStart_within | apply State.useSlot_within | apply OnlyMast.of_ite | intro _ | apply OnlyMast.of_getD
    | (apply OnlyMast.of_snd; assumption) | apply foldl_keeps (OnlyMast m s0) | simp only [↓OnlyMast.mk_other, ↓id_eq] | split

theorem State.rsaSignWith_within {x2 : Nat} {x3 : List Nat} {x4 : List Nat} (hm : m < 2) (h : OnlyMast m s0 s) : OnlyMast m s0 (State.rsaSignWith s m x2 x3 x4) := by
  unfold State.rsaSignWith
  repeat' with_reducible
    first
    | assumption | apply State.rsaStart_within | (apply State.drbgRequest_within; assumption) | apply OnlyMast.of_ite | intro _
    | apply OnlyMast.of_getD | (apply OnlyMast.of_snd; assumption) | apply foldl_keeps (OnlyMast m s0) | simp only [↓OnlyMast.mk_other, ↓id_eq]
    | split

theorem State.rsaVerify_within  (hm : m < 2) (h : OnlyMast m s0 s) : OnlyMast m s0 (State.rsaVerify s m) := by
  unfold State.rsaVerify
  repeat' with_reducible
    first
    | assumption | apply State.rsaStart_within | apply OnlyMast.of_ite | intro _ | apply OnlyMast.of_getD | (apply OnlyMast.of_snd; assumption)
    | apply foldl_keeps (OnlyMast m s0) | simp only [↓OnlyMast.mk_other, ↓id_eq] | split

theorem State.rsaCommand_within {x2 : Nat} {x3 : Nat} {x4 : State → State} (hf4 : ∀ y0, OnlyMast m s0 y0 → OnlyMast m s0 (x4 y0)) (hm : m < 2) (h : OnlyMast m s0 s) : OnlyMast m s0 (State.rsaCommand s m x2 x3 x4) := by
  unfold State.rsaCommand
  repeat' with_reducible
    first
    | assumption | apply State.action_within | apply State.lockv_within | apply hf4 | apply OnlyMast.of_ite | intro _ | apply OnlyMast.of_getD
    | (apply OnlyMast.of_snd; assumption) | apply foldl_keeps (OnlyMast m s0) | simp only [↓OnlyMast.mk_other, ↓id_eq] | split

theorem State.accRsaLoad_within {x2 : Nat} {x3 : Nat} (hm : m < 2) (h : OnlyMast m s0 s) : OnlyMast m s0 (State.accRsaLoad s m x2 x3) := by
  unfold State.accRsaLoad
  repeat' with_reducible
    first
    | assumption | apply State.rsaCommand_within | apply State.rsaLoad_within | apply OnlyMast.of_ite | intro _ | apply OnlyMast.of_getD
    | (apply OnlyMast.of_snd; assumption) | apply foldl_keeps (OnlyMast m s0) | simp only [↓OnlyMast.mk_other, ↓id_eq] | split

theorem State.accRsaSign_within {x2 : Nat} {x3 : Nat} (hm : m < 2) (h : OnlyMast m s0 s) : OnlyMast m s0 (State.accRsaSign s m x2 x3) := by
  unfold State.accRsaSign
  repeat' with_reducible
    first
    | assumption | apply State.rsaCommand_within | apply State.rsaSignWith_within | apply OnlyMast.of_ite | intro _ | apply OnlyMast.of_getD
    | (apply OnlyMast.of_snd; assumption) | apply foldl_keeps (OnlyMast m s0) | simp only [↓OnlyMast.mk_other, ↓id_eq] | split

theorem State.accRsaVerify_within {x2 : Nat} {x3 : Nat} (hm : m < 2) (h : OnlyMast m s0 s) : OnlyMast m s0 (State.accRsaVerify s m x2 x3) := by
  unfold State.accRsaVerify
  repeat' with_reducible
    first
    | assumption | apply State.rsaCommand_within | apply State.rsaVerify_within | apply OnlyMast.of_ite | intro _ | apply OnlyMast.of_getD
    | (apply OnlyMast.of_snd; assumption) | apply foldl_keeps (OnlyMast m s0) | simp only [↓OnlyMast.mk_other, ↓id_eq] | split

theorem State.accRsaAttest_within {x2 : Nat} {x3 : Nat} (hm : m < 2) (h : OnlyMast m s0 s) : OnlyMast m s0 (State.accRsaAttest s m x2 x3) := by
  unfold State.accRsaAttest
  repeat' with_reducible
    first
    | assumption | apply State.rsaCommand_within | apply State.rsaStart_within | apply State.rsaSignWith_within | apply OnlyMast.of_ite | intro _
    | apply OnlyMast.of_getD | (apply OnlyMast.of_snd; assumption) | apply foldl_keeps (OnlyMast m s0) | simp only [↓OnlyMast.mk_other, ↓id_eq]
    | split

theorem State.accRsaClear_within {x2 : Nat} {x3 : Nat} (hm : m < 2) (h : OnlyMast m s0 s) : OnlyMast m s0 (State.accRsaClear s m x2 x3) := by
  unfold State.accRsaClear
  repeat' with_reducible
    first
    | assumption | apply State.rsaCommand_within | apply State.irq_within | apply State.put_within | apply State.rsaHold_within
    | apply OnlyMast.of_ite | intro _ | apply OnlyMast.of_getD | (apply OnlyMast.of_snd; assumption) | apply foldl_keeps (OnlyMast m s0)
    | simp only [↓OnlyMast.mk_other, ↓id_eq] | split

theorem State.drbgSeed_within {x1 : Nat} (hm : m < 2) (h : OnlyMast m s0 s) : OnlyMast m s0 (State.drbgSeed s x1) := by
  unfold State.drbgSeed
  repeat' with_reducible
    first
    | assumption | apply State.bump_within | apply State.put_within | apply OnlyMast.of_ite | intro _ | apply OnlyMast.of_getD
    | (apply OnlyMast.of_snd; assumption) | apply foldl_keeps (OnlyMast m s0) | simp only [↓OnlyMast.mk_other, ↓id_eq] | split

theorem State.accReseed_within {x2 : Nat} {x3 : Nat} {x4 : Nat} {x5 : Bool} (hm : m < 2) (h : OnlyMast m s0 s) : OnlyMast m s0 (State.accReseed s m x2 x3 x4 x5) := by
  unfold State.accReseed
  repeat' with_reducible
    first
    | assumption | apply State.action_within | apply State.drbgSeed_within | apply OnlyMast.of_ite | intro _ | apply OnlyMast.of_getD
    | (apply OnlyMast.of_snd; assumption) | apply foldl_keeps (OnlyMast m s0) | simp only [↓OnlyMast.mk_other, ↓id_eq] | split

theorem State.closeSession_within {x2 : Nat} (hm : m < 2) (h : OnlyMast m s0 s) : OnlyMast m s0 (State.closeSession s m x2) := by
  unfold State.closeSession
  repeat' with_reducible
    first
    | assumption | apply State.setKeys_within | apply State.bput_within | apply OnlyMast.of_ite | intro _ | apply OnlyMast.of_getD
    | (apply OnlyMast.of_snd; assumption) | apply foldl_keeps (OnlyMast m s0) | simp only [↓OnlyMast.mk_other, ↓id_eq] | split

theorem State.zeroise_within  (hm : m < 2) (h : OnlyMast m s0 s) : OnlyMast m s0 (State.zeroise s m) := by
  unfold State.zeroise
  repeat' with_reducible
    first
    | assumption | apply State.setKeys_within | apply State.closeSession_within | apply State.put_within | apply State.rsaHold_within
    | apply State.bput_within | apply OnlyMast.of_ite | intro _ | apply OnlyMast.of_getD | (apply OnlyMast.of_snd; assumption)
    | apply foldl_keeps (OnlyMast m s0) | simp only [↓OnlyMast.mk_other, ↓id_eq] | split

theorem State.tamperShow_within {x1 : Nat} (hm : m < 2) (h : OnlyMast m s0 s) : OnlyMast m s0 (State.tamperShow s x1) := by
  unfold State.tamperShow
  repeat' with_reducible
    first
    | assumption | apply State.put_within | apply OnlyMast.of_ite | intro _ | apply OnlyMast.of_getD | (apply OnlyMast.of_snd; assumption)
    | apply foldl_keeps (OnlyMast m s0) | simp only [↓OnlyMast.mk_other, ↓id_eq] | split

theorem State.tamperReset_within  (hm : m < 2) (h : OnlyMast m s0 s) : OnlyMast m s0 (State.tamperReset s m) := by
  unfold State.tamperReset
  repeat' with_reducible
    first
    | assumption | apply State.setKeys_within | apply State.setBit_within | apply State.drbgSeed_within | apply State.rsaHold_within
    | apply OnlyMast.of_ite | intro _ | apply OnlyMast.of_getD | (apply OnlyMast.of_snd; assumption) | apply foldl_keeps (OnlyMast m s0)
    | simp only [↓OnlyMast.mk_other, ↓id_eq] | split

theorem State.accTamperAck_within {x2 : Nat} {x3 : Nat} {x4 : Nat} (hm : m < 2) (h : OnlyMast m s0 s) : OnlyMast m s0 (State.accTamperAck s m x2 x3 x4) := by
  unfold State.accTamperAck
  repeat' with_reducible
    first
    | assumption | apply State.action_within | apply State.deny_within | apply State.lockv_within | apply State.tamperReset_within
    | apply State.tamperShow_within | apply State.put_within | apply OnlyMast.of_ite | intro _ | apply OnlyMast.of_getD
    | (apply OnlyMast.of_snd; assumption) | apply foldl_keeps (OnlyMast m s0) | simp only [↓OnlyMast.mk_other, ↓id_eq] | split

/-! ## Sessions -/

theorem State.setSession_within {x2 : Nat} {x3 : Session} (hm : m < 2) (h : OnlyMast m s0 s) : OnlyMast m s0 (State.setSession s m x2 x3) := by
  unfold State.setSession
  repeat' with_reducible
    first
    | assumption | apply State.setKeys_within | apply OnlyMast.of_ite | intro _ | apply OnlyMast.of_getD | (apply OnlyMast.of_snd; assumption)
    | apply foldl_keeps (OnlyMast m s0) | simp only [↓OnlyMast.mk_other, ↓id_eq] | split

theorem State.sessionResult_within {x1 : Nat} {x2 : Nat} {x3 : Nat} (hm : m < 2) (h : OnlyMast m s0 s) : OnlyMast m s0 (State.sessionResult s x1 x2 x3) := by
  unfold State.sessionResult
  repeat' with_reducible
    first
    | assumption | apply State.bput_within | apply OnlyMast.of_ite | intro _ | apply OnlyMast.of_getD | (apply OnlyMast.of_snd; assumption)
    | apply foldl_keeps (OnlyMast m s0) | simp only [↓OnlyMast.mk_other, ↓id_eq] | split

theorem State.openSession_within {x2 : Nat} {x3 : Nat} {x4 : Nat} (hm : m < 2) (h : OnlyMast m s0 s) : OnlyMast m s0 (State.openSession s m x2 x3 x4) := by
  unfold State.openSession
  repeat' with_reducible
    first
    | assumption | apply State.setSession_within | apply State.sessionResult_within | apply State.bump_within | apply State.put_within
    | apply OnlyMast.of_ite | intro _ | apply OnlyMast.of_getD | (apply OnlyMast.of_snd; assumption) | apply foldl_keeps (OnlyMast m s0)
    | simp only [↓OnlyMast.mk_other, ↓id_eq] | split

theorem State.delayRuns_within  (hm : m < 2) (h : OnlyMast m s0 s) : OnlyMast m s0 (State.delayRuns s m) := by
  unfold State.delayRuns
  repeat' with_reducible
    first
    | assumption | apply State.put_within | apply State.setKeys_within | apply OnlyMast.of_ite | intro _ | apply OnlyMast.of_getD
    | (apply OnlyMast.of_snd; assumption) | apply foldl_keeps (OnlyMast m s0) | simp only [↓OnlyMast.mk_other, ↓id_eq] | split

theorem State.failSession_within {x2 : Nat} (hm : m < 2) (h : OnlyMast m s0 s) : OnlyMast m s0 (State.failSession s m x2) := by
  unfold State.failSession
  repeat' with_reducible
    first
    | assumption | apply State.output_within | apply State.delayRuns_within | apply State.put_within | apply State.irq_within
    | apply State.sessionResult_within | apply State.bump_within | apply OnlyMast.of_ite | intro _ | apply OnlyMast.of_getD
    | (apply OnlyMast.of_snd; assumption) | apply foldl_keeps (OnlyMast m s0) | simp only [↓OnlyMast.mk_other, ↓id_eq] | split

theorem State.showNonce_within {x1 : Nat} {x2 : Nat} {x3 : Nat} (hm : m < 2) (h : OnlyMast m s0 s) : OnlyMast m s0 (State.showNonce s x1 x2 x3) := by
  unfold State.showNonce
  repeat' with_reducible
    first
    | assumption | apply State.setWord_within | apply OnlyMast.of_ite | intro _ | apply OnlyMast.of_getD | (apply OnlyMast.of_snd; assumption)
    | apply foldl_keeps (OnlyMast m s0) | simp only [↓OnlyMast.mk_other, ↓id_eq] | split

theorem State.accOpenOwner_within {x2 : Nat} {x3 : Nat} (hm : m < 2) (h : OnlyMast m s0 s) : OnlyMast m s0 (State.accOpenOwner s m x2 x3) := by
  unfold State.accOpenOwner
  repeat' with_reducible
    first
    | assumption | apply State.action_within | apply State.sessionResult_within | apply State.setKeys_within | apply State.openSession_within
    | apply State.failSession_within | apply OnlyMast.of_ite | intro _ | apply OnlyMast.of_getD | (apply OnlyMast.of_snd; assumption)
    | apply foldl_keeps (OnlyMast m s0) | simp only [↓OnlyMast.mk_other, ↓id_eq] | split

theorem State.accOpenPassword_within {x2 : Nat} {x3 : Nat} {x4 : Nat} (hm : m < 2) (h : OnlyMast m s0 s) : OnlyMast m s0 (State.accOpenPassword s m x2 x3 x4) := by
  unfold State.accOpenPassword
  repeat' with_reducible
    first
    | assumption | apply State.action_within | apply State.sessionResult_within | apply State.failSession_within | apply State.bput_within
    | apply State.setKeys_within | apply OnlyMast.of_ite | intro _ | apply OnlyMast.of_getD | (apply OnlyMast.of_snd; assumption)
    | apply foldl_keeps (OnlyMast m s0) | simp only [↓OnlyMast.mk_other, ↓id_eq] | split

theorem State.accSetpw_within {x2 : Nat} {x3 : Nat} {x4 : Nat} (hm : m < 2) (h : OnlyMast m s0 s) : OnlyMast m s0 (State.accSetpw s m x2 x3 x4) := by
  unfold State.accSetpw
  repeat' with_reducible
    first
    | assumption | apply State.action_within | apply State.deny_within | apply State.sessionResult_within
    | (apply State.drbgRequest_within; assumption) | apply State.output_within | apply State.setKeys_within | apply OnlyMast.of_ite | intro _
    | apply OnlyMast.of_getD | (apply OnlyMast.of_snd; assumption) | apply foldl_keeps (OnlyMast m s0) | simp only [↓OnlyMast.mk_other, ↓id_eq]
    | split

theorem State.accClose_within {x2 : Nat} {x3 : Nat} (hm : m < 2) (h : OnlyMast m s0 s) : OnlyMast m s0 (State.accClose s m x2 x3) := by
  unfold State.accClose
  repeat' with_reducible
    first
    | assumption | apply State.action_within | apply State.closeSession_within | apply OnlyMast.of_ite | intro _ | apply OnlyMast.of_getD
    | (apply OnlyMast.of_snd; assumption) | apply foldl_keeps (OnlyMast m s0) | simp only [↓OnlyMast.mk_other, ↓id_eq] | split

/-! ## SailOps -/

theorem State.sailAction_within {x1 : Nat} {x2 : Nat} {x3 : Nat} {x4 : Nat} {x5 : Nat} {x6 : State → State} (hf6 : ∀ y0, OnlyMast m s0 y0 → OnlyMast m s0 (x6 y0)) (hm : m < 2) (h : OnlyMast m s0 s) : OnlyMast m s0 (State.sailAction s x1 x2 x3 x4 x5 x6) := by
  unfold State.sailAction
  repeat' with_reducible
    first
    | assumption | apply State.capture_within | apply hf6 | apply OnlyMast.of_ite | intro _ | apply OnlyMast.of_getD
    | (apply OnlyMast.of_snd; assumption) | apply foldl_keeps (OnlyMast m s0) | simp only [↓OnlyMast.mk_other, ↓id_eq] | split

/-! ## Transmit -/

theorem State.feSend_within {x1 : Nat} {x2 : Nat} (hm : m < 2) (h : OnlyMast m s0 s) : OnlyMast m s0 (State.feSend s x1 x2) := by
  unfold State.feSend
  repeat' with_reducible
    first
    | assumption | apply State.emit_within | apply OnlyMast.of_ite | intro _ | apply OnlyMast.of_getD | (apply OnlyMast.of_snd; assumption)
    | apply foldl_keeps (OnlyMast m s0) | simp only [↓OnlyMast.mk_other, ↓id_eq] | split

theorem State.countFlags_within {x1 : Nat} {x2 : Nat} (hm : m < 2) (h : OnlyMast m s0 s) : OnlyMast m s0 (State.countFlags s x1 x2) := by
  unfold State.countFlags
  repeat' with_reducible
    first
    | assumption | apply State.bump_within | apply OnlyMast.of_ite | intro _ | apply OnlyMast.of_getD | (apply OnlyMast.of_snd; assumption)
    | apply foldl_keeps (OnlyMast m s0) | simp only [↓OnlyMast.mk_other, ↓id_eq] | split

theorem State.countSent_within {x1 : Nat} {x2 : TxFrame} (hm : m < 2) (h : OnlyMast m s0 s) : OnlyMast m s0 (State.countSent s x1 x2) := by
  unfold State.countSent
  repeat' with_reducible
    first
    | assumption | apply State.bump_within | apply OnlyMast.of_ite | intro _ | apply OnlyMast.of_getD | (apply OnlyMast.of_snd; assumption)
    | apply foldl_keeps (OnlyMast m s0) | simp only [↓OnlyMast.mk_other, ↓id_eq] | split

theorem State.staleCheck_within  (hm : m < 2) (h : OnlyMast m s0 s) : OnlyMast m s0 (State.staleCheck s m) := by
  unfold State.staleCheck
  repeat' with_reducible
    first
    | assumption | apply State.put_within | apply State.irq_within | apply State.bump_within | apply OnlyMast.of_ite | intro _
    | apply OnlyMast.of_getD | (apply OnlyMast.of_snd; assumption) | apply foldl_keeps (OnlyMast m s0) | simp only [↓OnlyMast.mk_other, ↓id_eq]
    | split

/-! ## Domains -/

theorem State.setDom_within {x2 : Nat} {x3 : Dom} (hm : m < 2) (h : OnlyMast m s0 s) : OnlyMast m s0 (State.setDom s m x2 x3) := by
  unfold State.setDom
  repeat' with_reducible
    first
    | assumption | apply State.setMast_within | apply OnlyMast.of_ite | intro _ | apply OnlyMast.of_getD | (apply OnlyMast.of_snd; assumption)
    | apply foldl_keeps (OnlyMast m s0) | simp only [↓OnlyMast.mk_other, ↓id_eq] | split

/-! ## Gates -/

theorem State.setEport_within {x2 : Nat} {x3 : Gate} (hm : m < 2) (h : OnlyMast m s0 s) : OnlyMast m s0 (State.setEport s m x2 x3) := by
  unfold State.setEport
  repeat' with_reducible
    first
    | assumption | apply State.setMast_within | apply OnlyMast.of_ite | intro _ | apply OnlyMast.of_getD | (apply OnlyMast.of_snd; assumption)
    | apply foldl_keeps (OnlyMast m s0) | simp only [↓OnlyMast.mk_other, ↓id_eq] | split

theorem State.ethSend_within {x2 : Nat} {x3 : Nat} {x4 : Nat} {x5 : Nat} {x6 : Body} (hm : m < 2) (h : OnlyMast m s0 s) : OnlyMast m s0 (State.ethSend s m x2 x3 x4 x5 x6) := by
  unfold State.ethSend
  repeat' with_reducible
    first
    | assumption | apply State.emit_within | apply State.bump_within | apply State.event_within | apply State.sendOn_within | apply OnlyMast.of_ite
    | intro _ | apply OnlyMast.of_getD | (apply OnlyMast.of_snd; assumption) | apply foldl_keeps (OnlyMast m s0)
    | simp only [↓OnlyMast.mk_other, ↓id_eq] | split

theorem State.holdHead_within {x2 : Nat} {x3 : Nat} {x4 : Nat} (hm : m < 2) (h : OnlyMast m s0 s) : OnlyMast m s0 (State.holdHead s m x2 x3 x4) := by
  unfold State.holdHead
  repeat' with_reducible
    first
    | assumption | apply State.bump_within | apply State.setEport_within | apply OnlyMast.of_ite | intro _ | apply OnlyMast.of_getD
    | (apply OnlyMast.of_snd; assumption) | apply foldl_keeps (OnlyMast m s0) | simp only [↓OnlyMast.mk_other, ↓id_eq] | split

theorem State.showGate_within {x1 : Nat} {x2 : Nat} (hm : m < 2) (h : OnlyMast m s0 s) : OnlyMast m s0 (State.showGate s x1 x2) := by
  unfold State.showGate
  repeat' with_reducible
    first
    | assumption | apply State.put_within | apply OnlyMast.of_ite | intro _ | apply OnlyMast.of_getD | (apply OnlyMast.of_snd; assumption)
    | apply foldl_keeps (OnlyMast m s0) | simp only [↓OnlyMast.mk_other, ↓id_eq] | split

theorem State.showMaxOpen_within {x1 : Nat} {x2 : Nat} (hm : m < 2) (h : OnlyMast m s0 s) : OnlyMast m s0 (State.showMaxOpen s x1 x2) := by
  unfold State.showMaxOpen
  repeat' with_reducible
    first
    | assumption | apply State.put_within | apply OnlyMast.of_ite | intro _ | apply OnlyMast.of_getD | (apply OnlyMast.of_snd; assumption)
    | apply foldl_keeps (OnlyMast m s0) | simp only [↓OnlyMast.mk_other, ↓id_eq] | split

theorem State.overrun_within {x2 : Nat} (hm : m < 2) (h : OnlyMast m s0 s) : OnlyMast m s0 (State.overrun s m x2) := by
  unfold State.overrun
  repeat' with_reducible
    first
    | assumption | apply State.bump_within | apply State.setEport_within | apply OnlyMast.of_ite | intro _ | apply OnlyMast.of_getD
    | (apply OnlyMast.of_snd; assumption) | apply foldl_keeps (OnlyMast m s0) | simp only [↓OnlyMast.mk_other, ↓id_eq] | split

theorem State.shiftGates_within {x2 : Nat} (hm : m < 2) (h : OnlyMast m s0 s) : OnlyMast m s0 (State.shiftGates s m x2) := by
  unfold State.shiftGates
  repeat' with_reducible
    first
    | assumption | apply State.overrun_within | apply State.setEport_within | apply OnlyMast.of_ite | intro _ | apply OnlyMast.of_getD
    | (apply OnlyMast.of_snd; assumption) | apply foldl_keeps (OnlyMast m s0) | simp only [↓OnlyMast.mk_other, ↓id_eq] | split

theorem State.shapeGrant_within  (hm : m < 2) (h : OnlyMast m s0 s) : OnlyMast m s0 (State.shapeGrant s m) := by
  unfold State.shapeGrant
  repeat' with_reducible
    first
    | assumption | apply State.put_within | apply State.setMast_within | apply OnlyMast.of_ite | intro _ | apply OnlyMast.of_getD
    | (apply OnlyMast.of_snd; assumption) | apply foldl_keeps (OnlyMast m s0) | simp only [↓OnlyMast.mk_other, ↓id_eq] | split

theorem State.shape_within {x1 : Nat} {x2 : Nat} {x3 : Nat} {x4 : Nat} (hm : m < 2) (h : OnlyMast m s0 s) : OnlyMast m s0 (State.shape s x1 x2 x3 x4).2 := by
  unfold State.shape
  repeat' with_reducible
    first
    | assumption | apply State.put_within | apply State.bump_within | apply OnlyMast.of_ite | intro _ | apply OnlyMast.of_getD
    | (apply OnlyMast.of_snd; assumption) | apply foldl_keeps (OnlyMast m s0) | simp only [↓OnlyMast.mk_other, ↓id_eq] | split

theorem State.unshape_within {x1 : Nat} {x2 : Nat} {x3 : Nat} {x4 : Nat} (hm : m < 2) (h : OnlyMast m s0 s) : OnlyMast m s0 (State.unshape s x1 x2 x3 x4) := by
  unfold State.unshape
  repeat' with_reducible
    first
    | assumption | apply State.put_within | apply OnlyMast.of_ite | intro _ | apply OnlyMast.of_getD | (apply OnlyMast.of_snd; assumption)
    | apply foldl_keeps (OnlyMast m s0) | simp only [↓OnlyMast.mk_other, ↓id_eq] | split

theorem State.sluice_within {x2 : Nat} {x3 : Nat} {x4 : Nat} (hm : m < 2) (h : OnlyMast m s0 s) : OnlyMast m s0 (State.sluice s m x2 x3 x4).2 := by
  unfold State.sluice
  repeat' with_reducible
    first
    | assumption | apply State.setMast_within | apply State.put_within | apply State.bump_within | apply OnlyMast.of_ite | intro _
    | apply OnlyMast.of_getD | (apply OnlyMast.of_snd; assumption) | apply foldl_keeps (OnlyMast m s0) | simp only [↓OnlyMast.mk_other, ↓id_eq]
    | split

theorem State.nodeSluice_within {x2 : Nat} {x3 : Nat} {x4 : Nat} (hm : m < 2) (h : OnlyMast m s0 s) : OnlyMast m s0 (State.nodeSluice s m x2 x3 x4).2 := by
  unfold State.nodeSluice
  repeat' with_reducible
    first
    | assumption | apply State.bump_within | apply State.setMast_within | apply OnlyMast.of_ite | intro _ | apply OnlyMast.of_getD
    | (apply OnlyMast.of_snd; assumption) | apply foldl_keeps (OnlyMast m s0) | simp only [↓OnlyMast.mk_other, ↓id_eq] | split

/-! ## Lanes -/

theorem State.countFec_within {x1 : Nat} {x2 : FecResult} {x3 : Nat} {x4 : Nat} (hm : m < 2) (h : OnlyMast m s0 s) : OnlyMast m s0 (State.countFec s x1 x2 x3 x4) := by
  unfold State.countFec
  repeat' with_reducible
    first
    | assumption | apply State.count_within | apply State.bump_within | apply OnlyMast.of_ite | intro _ | apply OnlyMast.of_getD
    | (apply OnlyMast.of_snd; assumption) | apply foldl_keeps (OnlyMast m s0) | simp only [↓OnlyMast.mk_other, ↓id_eq] | split

/-! ## Receive -/

theorem State.accLaneHwmClr_within {x1 : Nat} {x2 : Nat} {x3 : Nat} {x4 : Nat} (hm : m < 2) (h : OnlyMast m s0 s) : OnlyMast m s0 (State.accLaneHwmClr s x1 x2 x3 x4) := by
  unfold State.accLaneHwmClr
  repeat' with_reducible
    first
    | assumption | apply State.sailAction_within | apply State.put_within | apply OnlyMast.of_ite | intro _ | apply OnlyMast.of_getD
    | (apply OnlyMast.of_snd; assumption) | apply foldl_keeps (OnlyMast m s0) | simp only [↓OnlyMast.mk_other, ↓id_eq] | split

/-! ## Time -/

theorem State.mastRefSwitch_within {x2 : Nat} (hm : m < 2) (h : OnlyMast m s0 s) : OnlyMast m s0 (State.mastRefSwitch s m x2) := by
  unfold State.mastRefSwitch
  repeat' with_reducible
    first
    | assumption | apply State.irq_within | apply State.put_within | apply OnlyMast.of_ite | intro _ | apply OnlyMast.of_getD
    | (apply OnlyMast.of_snd; assumption) | apply foldl_keeps (OnlyMast m s0) | simp only [↓OnlyMast.mk_other, ↓id_eq] | split

theorem State.mastRefLoss_within {x2 : Nat} (hm : m < 2) (h : OnlyMast m s0 s) : OnlyMast m s0 (State.mastRefLoss s m x2) := by
  unfold State.mastRefLoss
  repeat' with_reducible
    first
    | assumption | apply State.put_within | apply State.setMast_within | apply State.mastRefSwitch_within | apply OnlyMast.of_ite | intro _
    | apply OnlyMast.of_getD | (apply OnlyMast.of_snd; assumption) | apply foldl_keeps (OnlyMast m s0) | simp only [↓OnlyMast.mk_other, ↓id_eq]
    | split

theorem State.mastRevert_within  (hm : m < 2) (h : OnlyMast m s0 s) : OnlyMast m s0 (State.mastRevert s m) := by
  unfold State.mastRevert
  repeat' with_reducible
    first
    | assumption | apply State.mastRefSwitch_within | apply OnlyMast.of_ite | intro _ | apply OnlyMast.of_getD | (apply OnlyMast.of_snd; assumption)
    | apply foldl_keeps (OnlyMast m s0) | simp only [↓OnlyMast.mk_other, ↓id_eq] | split

theorem State.tpoNext_within {x1 : Nat} {x2 : Nat} {x3 : Nat × Nat} (hm : m < 2) (h : OnlyMast m s0 s) : OnlyMast m s0 (State.tpoNext s x1 x2 x3) := by
  unfold State.tpoNext
  repeat' with_reducible
    first
    | assumption | apply State.put_within | apply State.put64_within | apply OnlyMast.of_ite | intro _ | apply OnlyMast.of_getD
    | (apply OnlyMast.of_snd; assumption) | apply foldl_keeps (OnlyMast m s0) | simp only [↓OnlyMast.mk_other, ↓id_eq] | split

theorem State.tpoPolarity_within {x2 : Nat} (hm : m < 2) (h : OnlyMast m s0 s) : OnlyMast m s0 (State.tpoPolarity s m x2) := by
  unfold State.tpoPolarity
  repeat' with_reducible
    first
    | assumption | apply State.setMast_within | apply OnlyMast.of_ite | intro _ | apply OnlyMast.of_getD | (apply OnlyMast.of_snd; assumption)
    | apply foldl_keeps (OnlyMast m s0) | simp only [↓OnlyMast.mk_other, ↓id_eq] | split

theorem State.tpoArm_within {x2 : Nat} (hm : m < 2) (h : OnlyMast m s0 s) : OnlyMast m s0 (State.tpoArm s m x2) := by
  unfold State.tpoArm
  repeat' with_reducible
    first
    | assumption | apply State.tpoPolarity_within | apply State.tpoNext_within | apply State.irq_within | apply State.put_within
    | apply OnlyMast.of_ite | intro _ | apply OnlyMast.of_getD | (apply OnlyMast.of_snd; assumption) | apply foldl_keeps (OnlyMast m s0)
    | simp only [↓OnlyMast.mk_other, ↓id_eq] | split

theorem State.tpoSkip_within {x1 : Nat} {x2 : Nat} {x3 : Nat} (hm : m < 2) (h : OnlyMast m s0 s) : OnlyMast m s0 (State.tpoSkip s x1 x2 x3) := by
  unfold State.tpoSkip
  repeat' with_reducible
    first
    | assumption | apply State.count_within | apply State.tpoNext_within | apply State.bump_within | apply State.put_within | apply OnlyMast.of_ite
    | intro _ | apply OnlyMast.of_getD | (apply OnlyMast.of_snd; assumption) | apply foldl_keeps (OnlyMast m s0)
    | simp only [↓OnlyMast.mk_other, ↓id_eq] | split

theorem State.tpoCommitted_within {x0 : State} (g0 : OnlyMast m s0 x0) (hm : m < 2) (h : OnlyMast m s0 s) : OnlyMast m s0 (State.tpoCommitted x0 s m) := by
  unfold State.tpoCommitted
  repeat' with_reducible
    first
    | assumption | apply State.tpoArm_within | apply OnlyMast.of_ite | intro _ | apply OnlyMast.of_getD | (apply OnlyMast.of_snd; assumption)
    | apply foldl_keeps (OnlyMast m s0) | simp only [↓OnlyMast.mk_other, ↓id_eq] | split

theorem State.quotient_within {x1 : Int} {x2 : Int} (hm : m < 2) (h : OnlyMast m s0 s) : OnlyMast m s0 (State.quotient s x1 x2).2 := by
  unfold State.quotient
  repeat' with_reducible
    first
    | assumption | apply State.free_within | apply OnlyMast.of_ite | intro _ | apply OnlyMast.of_getD | (apply OnlyMast.of_snd; assumption)
    | apply foldl_keeps (OnlyMast m s0) | simp only [↓OnlyMast.mk_other, ↓id_eq] | split

theorem State.setFreq_within {x2 : Nat} {x3 : Int} (hm : m < 2) (h : OnlyMast m s0 s) : OnlyMast m s0 (State.setFreq s m x2 x3) := by
  unfold State.setFreq
  repeat' with_reducible
    first
    | assumption | apply State.setDom_within | apply OnlyMast.of_ite | intro _ | apply OnlyMast.of_getD | (apply OnlyMast.of_snd; assumption)
    | apply foldl_keeps (OnlyMast m s0) | simp only [↓OnlyMast.mk_other, ↓id_eq] | split

theorem State.tau_within {x1 : Nat} {x2 : Nat} (hm : m < 2) (h : OnlyMast m s0 s) : OnlyMast m s0 (State.tau s x1 x2).2 := by
  unfold State.tau
  repeat' with_reducible
    first
    | assumption | apply State.free_within | apply OnlyMast.of_ite | intro _ | apply OnlyMast.of_getD | (apply OnlyMast.of_snd; assumption)
    | apply foldl_keeps (OnlyMast m s0) | simp only [↓OnlyMast.mk_other, ↓id_eq] | split

theorem State.sourceLost_within {x2 : Nat} (hm : m < 2) (h : OnlyMast m s0 s) : OnlyMast m s0 (State.sourceLost s m x2) := by
  unfold State.sourceLost
  repeat' with_reducible
    first
    | assumption | apply State.bump_within | apply State.put_within | apply State.setDom_within | apply State.irq_within | apply OnlyMast.of_ite
    | intro _ | apply OnlyMast.of_getD | (apply OnlyMast.of_snd; assumption) | apply foldl_keeps (OnlyMast m s0)
    | simp only [↓OnlyMast.mk_other, ↓id_eq] | split

theorem State.timeCommitted_within  (hm : m < 2) (h : OnlyMast m s0 s) : OnlyMast m s0 (State.timeCommitted s m) := by
  unfold State.timeCommitted
  repeat' with_reducible
    first
    | assumption | apply State.put_within | apply State.setDom_within | apply OnlyMast.of_ite | intro _ | apply OnlyMast.of_getD
    | (apply OnlyMast.of_snd; assumption) | apply foldl_keeps (OnlyMast m s0) | simp only [↓OnlyMast.mk_other, ↓id_eq] | split

end Sys2Proof.Machine
end

