-- ==== Sys2Proof/Laws/WithinMac.lean ====
section
/-! SUPPORT. What stays within mast `m`: one lemma for each operation that acts on one mast alone (OnlyMast), of MacBase, Packets, MacRx, MacPath, CampBase, MacTx. -/

namespace Sys2Proof.Machine

variable {m : Nat} {s0 s t : State}

/-! ## MacBase -/

theorem State.setLink_within {x2 : Nat} {x3 : Link} (hm : m < 2) (h : OnlyMast m s0 s) : OnlyMast m s0 (State.setLink s m x2 x3) := by
  unfold State.setLink
  repeat' with_reducible
    first
    | assumption | apply State.setMast_within | apply OnlyMast.of_ite | intro _ | apply OnlyMast.of_getD | (apply OnlyMast.of_snd; assumption)
    | apply foldl_keeps (OnlyMast m s0) | simp only [↓OnlyMast.mk_other, ↓id_eq] | split

theorem State.setMac_within {x2 : Mac} (hm : m < 2) (h : OnlyMast m s0 s) : OnlyMast m s0 (State.setMac s m x2) := by
  unfold State.setMac
  repeat' with_reducible
    first
    | assumption | apply State.setMast_within | apply OnlyMast.of_ite | intro _ | apply OnlyMast.of_getD | (apply OnlyMast.of_snd; assumption)
    | apply foldl_keeps (OnlyMast m s0) | simp only [↓OnlyMast.mk_other, ↓id_eq] | split

theorem State.fcReserve_within  (hm : m < 2) (h : OnlyMast m s0 s) : OnlyMast m s0 (State.fcReserve s m) := by
  unfold State.fcReserve
  repeat' with_reducible
    first
    | assumption | apply State.output_within | apply State.setMac_within | apply State.nvRequest_within | apply OnlyMast.of_ite | intro _
    | apply OnlyMast.of_getD | (apply OnlyMast.of_snd; assumption) | apply foldl_keeps (OnlyMast m s0) | simp only [↓OnlyMast.mk_other, ↓id_eq]
    | split

theorem State.fcTaken_within {x2 : Nat} (hm : m < 2) (h : OnlyMast m s0 s) : OnlyMast m s0 (State.fcTaken s m x2) := by
  unfold State.fcTaken
  repeat' with_reducible
    first
    | assumption | apply State.fcReserve_within | apply State.raise_within | apply OnlyMast.of_ite | intro _ | apply OnlyMast.of_getD
    | (apply OnlyMast.of_snd; assumption) | apply foldl_keeps (OnlyMast m s0) | simp only [↓OnlyMast.mk_other, ↓id_eq] | split

theorem State.fcExhausted_within {x2 : Nat} (hm : m < 2) (h : OnlyMast m s0 s) : OnlyMast m s0 (State.fcExhausted s m x2) := by
  unfold State.fcExhausted
  repeat' with_reducible
    first
    | assumption | apply State.event_within | apply State.irq_within | apply State.bump_within | apply OnlyMast.of_ite | intro _
    | apply OnlyMast.of_getD | (apply OnlyMast.of_snd; assumption) | apply foldl_keeps (OnlyMast m s0) | simp only [↓OnlyMast.mk_other, ↓id_eq]
    | split

theorem State.dwellAge_within  (hm : m < 2) (h : OnlyMast m s0 s) : OnlyMast m s0 (State.dwellAge s m) := by
  unfold State.dwellAge
  repeat' with_reducible
    first
    | assumption | apply State.setMac_within | apply OnlyMast.of_ite | intro _ | apply OnlyMast.of_getD | (apply OnlyMast.of_snd; assumption)
    | apply foldl_keeps (OnlyMast m s0) | simp only [↓OnlyMast.mk_other, ↓id_eq] | split

theorem State.dwell_within {x2 : Nat} {x3 : Int} {x4 : Nat} (hm : m < 2) (h : OnlyMast m s0 s) : OnlyMast m s0 (State.dwell s m x2 x3 x4).2 := by
  unfold State.dwell
  repeat' with_reducible
    first
    | assumption | apply State.dwellAge_within | apply State.bump_within | apply State.raise_within | apply State.setMac_within
    | apply OnlyMast.of_ite | intro _ | apply OnlyMast.of_getD | (apply OnlyMast.of_snd; assumption) | apply foldl_keeps (OnlyMast m s0)
    | simp only [↓OnlyMast.mk_other, ↓id_eq] | split

theorem State.toSail_within {x2 : Nat} {x3 : Nat} {x4 : Nat} {x5 : List Nat} (hm : m < 2) (h : OnlyMast m s0 s) : OnlyMast m s0 (State.toSail s m x2 x3 x4 x5) := by
  unfold State.toSail
  repeat' with_reducible
    first
    | assumption | apply State.output_within | apply State.sendOn_within | apply OnlyMast.of_ite | intro _ | apply OnlyMast.of_getD
    | (apply OnlyMast.of_snd; assumption) | apply foldl_keeps (OnlyMast m s0) | simp only [↓OnlyMast.mk_other, ↓id_eq] | split

theorem State.resolve_within {x2 : Launch} {x3 : Nat} (hm : m < 2) (h : OnlyMast m s0 s) : OnlyMast m s0 (State.resolve s m x2 x3) := by
  unfold State.resolve
  repeat' with_reducible
    first
    | assumption | apply State.setMac_within | apply OnlyMast.of_ite | intro _ | apply OnlyMast.of_getD | (apply OnlyMast.of_snd; assumption)
    | apply foldl_keeps (OnlyMast m s0) | simp only [↓OnlyMast.mk_other, ↓id_eq] | split

theorem State.unqueueItem_within {x2 : Nat} {x3 : Nat} (hm : m < 2) (h : OnlyMast m s0 s) : OnlyMast m s0 (State.unqueueItem s m x2 x3) := by
  unfold State.unqueueItem
  repeat' with_reducible
    first
    | assumption | apply State.setSal_within | apply OnlyMast.of_ite | intro _ | apply OnlyMast.of_getD | (apply OnlyMast.of_snd; assumption)
    | apply foldl_keeps (OnlyMast m s0) | simp only [↓OnlyMast.mk_other, ↓id_eq] | split

theorem State.dropQueued_within {x2 : Launch} (hm : m < 2) (h : OnlyMast m s0 s) : OnlyMast m s0 (State.dropQueued s m x2) := by
  unfold State.dropQueued
  repeat' with_reducible
    first
    | assumption | apply State.freeItem_within | apply State.unqueueItem_within | apply OnlyMast.of_ite | intro _ | apply OnlyMast.of_getD
    | (apply OnlyMast.of_snd; assumption) | apply foldl_keeps (OnlyMast m s0) | simp only [↓OnlyMast.mk_other, ↓id_eq] | split

theorem State.addLaunch_within {x2 : Launch} (hm : m < 2) (h : OnlyMast m s0 s) : OnlyMast m s0 (State.addLaunch s m x2) := by
  unfold State.addLaunch
  repeat' with_reducible
    first
    | assumption | apply State.setMac_within | apply OnlyMast.of_ite | intro _ | apply OnlyMast.of_getD | (apply OnlyMast.of_snd; assumption)
    | apply foldl_keeps (OnlyMast m s0) | simp only [↓OnlyMast.mk_other, ↓id_eq] | split

theorem State.noteLeft_within {x2 : Nat} (hm : m < 2) (h : OnlyMast m s0 s) : OnlyMast m s0 (State.noteLeft s m x2) := by
  unfold State.noteLeft
  repeat' with_reducible
    first
    | assumption | apply State.setMac_within | apply State.raise_within | apply State.bump_within | apply OnlyMast.of_ite | intro _
    | apply OnlyMast.of_getD | (apply OnlyMast.of_snd; assumption) | apply foldl_keeps (OnlyMast m s0) | simp only [↓OnlyMast.mk_other, ↓id_eq]
    | split

theorem State.handLaunch_within {x2 : Launch} (hm : m < 2) (h : OnlyMast m s0 s) : OnlyMast m s0 (State.handLaunch s m x2) := by
  unfold State.handLaunch
  repeat' with_reducible
    first
    | assumption | apply State.setMac_within | apply State.noteLeft_within | apply State.toSail_within | apply OnlyMast.of_ite | intro _
    | apply OnlyMast.of_getD | (apply OnlyMast.of_snd; assumption) | apply foldl_keeps (OnlyMast m s0) | simp only [↓OnlyMast.mk_other, ↓id_eq]
    | split

/-! ## Packets -/

theorem State.countConn_within {x1 : Nat} {x2 : Fld} (hm : m < 2) (h : OnlyMast m s0 s) : OnlyMast m s0 (State.countConn s x1 x2) := by
  unfold State.countConn
  repeat' with_reducible
    first
    | assumption | apply State.bump_within | apply OnlyMast.of_ite | intro _ | apply OnlyMast.of_getD | (apply OnlyMast.of_snd; assumption)
    | apply foldl_keeps (OnlyMast m s0) | simp only [↓OnlyMast.mk_other, ↓id_eq] | split

theorem State.retrain_within {x1 : Nat} (hm : m < 2) (h : OnlyMast m s0 s) : OnlyMast m s0 (State.retrain s x1) := by
  unfold State.retrain
  repeat' with_reducible
    first
    | assumption | apply State.countConn_within | apply State.setConn_within | apply OnlyMast.of_ite | intro _ | apply OnlyMast.of_getD
    | (apply OnlyMast.of_snd; assumption) | apply foldl_keeps (OnlyMast m s0) | simp only [↓OnlyMast.mk_other, ↓id_eq] | split

theorem State.resend_within {x1 : Nat} {x2 : Bool} (hm : m < 2) (h : OnlyMast m s0 s) : OnlyMast m s0 (State.resend s x1 x2) := by
  unfold State.resend
  repeat' with_reducible
    first
    | assumption | apply State.emitAll_within | apply OnlyMast.of_ite | intro _ | apply OnlyMast.of_getD | (apply OnlyMast.of_snd; assumption)
    | apply foldl_keeps (OnlyMast m s0) | simp only [↓OnlyMast.mk_other, ↓id_eq] | split

theorem State.replay_within {x1 : Nat} {x2 : Bool} (hm : m < 2) (h : OnlyMast m s0 s) : OnlyMast m s0 (State.replay s x1 x2) := by
  unfold State.replay
  repeat' with_reducible
    first
    | assumption | apply State.retrain_within | apply State.setConn_within | apply State.resend_within | apply State.countConn_within
    | apply OnlyMast.of_ite | intro _ | apply OnlyMast.of_getD | (apply OnlyMast.of_snd; assumption) | apply foldl_keeps (OnlyMast m s0)
    | simp only [↓OnlyMast.mk_other, ↓id_eq] | split

theorem State.flushAnswers_within {x1 : Nat} {x2 : Nat} (hm : m < 2) (h : OnlyMast m s0 s) : OnlyMast m s0 (State.flushAnswers s x1 x2) := by
  induction x2 generalizing s with
  | zero => exact h
  | succ _ ih =>
  unfold State.flushAnswers
  repeat' with_reducible
    first
    | assumption | apply ih | apply State.sendOn_within | apply State.setConn_within | apply OnlyMast.of_ite | intro _ | apply OnlyMast.of_getD
    | (apply OnlyMast.of_snd; assumption) | apply foldl_keeps (OnlyMast m s0) | simp only [↓OnlyMast.mk_other, ↓id_eq] | split

theorem State.takeoverTo_within {x1 : Nat} {x2 : Nat} (hm : m < 2) (h : OnlyMast m s0 s) : OnlyMast m s0 (State.takeoverTo s x1 x2) := by
  unfold State.takeoverTo
  repeat' with_reducible
    first
    | assumption | apply State.sendOn_within | apply OnlyMast.of_ite | intro _ | apply OnlyMast.of_getD | (apply OnlyMast.of_snd; assumption)
    | apply foldl_keeps (OnlyMast m s0) | simp only [↓OnlyMast.mk_other, ↓id_eq] | split

theorem State.sailLocked_within {x1 : Nat} (hm : m < 2) (h : OnlyMast m s0 s) : OnlyMast m s0 (State.sailLocked s x1) := by
  unfold State.sailLocked
  repeat' with_reducible
    first
    | assumption | apply State.put_within | apply OnlyMast.of_ite | intro _ | apply OnlyMast.of_getD | (apply OnlyMast.of_snd; assumption)
    | apply foldl_keeps (OnlyMast m s0) | simp only [↓OnlyMast.mk_other, ↓id_eq] | split

theorem State.trained_within {x1 : Nat} (hm : m < 2) (h : OnlyMast m s0 s) : OnlyMast m s0 (State.trained s x1) := by
  unfold State.trained
  repeat' with_reducible
    first
    | assumption | apply State.put_within | apply State.sailLocked_within | apply State.takeoverTo_within | apply OnlyMast.of_ite | intro _
    | apply OnlyMast.of_getD | (apply OnlyMast.of_snd; assumption) | apply foldl_keeps (OnlyMast m s0) | simp only [↓OnlyMast.mk_other, ↓id_eq]
    | split

theorem State.peerLost_within  (hm : m < 2) (h : OnlyMast m s0 s) : OnlyMast m s0 (State.peerLost s m) := by
  unfold State.peerLost
  repeat' with_reducible
    first
    | assumption | apply State.irq_within | apply State.bump_within | apply State.put_within | apply OnlyMast.of_ite | intro _
    | apply OnlyMast.of_getD | (apply OnlyMast.of_snd; assumption) | apply foldl_keeps (OnlyMast m s0) | simp only [↓OnlyMast.mk_other, ↓id_eq]
    | split

theorem State.accRetrain_within {x2 : Nat} {x3 : Nat} {x4 : Nat} (hm : m < 2) (h : OnlyMast m s0 s) : OnlyMast m s0 (State.accRetrain s m x2 x3 x4) := by
  unfold State.accRetrain
  repeat' with_reducible
    first
    | assumption | apply State.action_within | apply State.retrain_within | apply State.setConn_within | apply OnlyMast.of_ite | intro _
    | apply OnlyMast.of_getD | (apply OnlyMast.of_snd; assumption) | apply foldl_keeps (OnlyMast m s0) | simp only [↓OnlyMast.mk_other, ↓id_eq]
    | split

theorem State.answer_within {x1 : Nat} {x2 : Nat} {x3 : Pkt} (hm : m < 2) (h : OnlyMast m s0 s) : OnlyMast m s0 (State.answer s x1 x2 x3) := by
  unfold State.answer
  repeat' with_reducible
    first
    | assumption | apply State.bump_within | apply State.flushAnswers_within | apply State.setConn_within | apply OnlyMast.of_ite | intro _
    | apply OnlyMast.of_getD | (apply OnlyMast.of_snd; assumption) | apply foldl_keeps (OnlyMast m s0) | simp only [↓OnlyMast.mk_other, ↓id_eq]
    | split

theorem State.sailIrq_within {x2 : Nat} {x3 : Bool} (hm : m < 2) (h : OnlyMast m s0 s) : OnlyMast m s0 (State.sailIrq s m x2 x3) := by
  unfold State.sailIrq
  repeat' with_reducible
    first
    | assumption | apply State.put_within | apply State.vecSend_within | apply OnlyMast.of_ite | intro _ | apply OnlyMast.of_getD
    | (apply OnlyMast.of_snd; assumption) | apply foldl_keeps (OnlyMast m s0) | simp only [↓OnlyMast.mk_other, ↓id_eq] | split

theorem State.advice_within {x2 : Nat} {x3 : List Nat} (hm : m < 2) (h : OnlyMast m s0 s) : OnlyMast m s0 (State.advice s m x2 x3) := by
  unfold State.advice
  repeat' with_reducible
    first
    | assumption | apply State.event_within | apply OnlyMast.of_ite | intro _ | apply OnlyMast.of_getD | (apply OnlyMast.of_snd; assumption)
    | apply foldl_keeps (OnlyMast m s0) | simp only [↓OnlyMast.mk_other, ↓id_eq] | split

/-! ## MacRx -/

theorem State.toField_within {x2 : Nat} {x3 : Nat} {x4 : Desc} {x5 : State → State} (hf5 : ∀ y0, OnlyMast m s0 y0 → OnlyMast m s0 (x5 y0)) (hm : m < 2) (h : OnlyMast m s0 s) : OnlyMast m s0 (State.toField s m x2 x3 x4 x5) := by
  unfold State.toField
  repeat' with_reducible
    first
    | assumption | apply State.freeItem_within | apply State.engineTo_within | apply hf5 | apply OnlyMast.of_ite | intro _ | apply OnlyMast.of_getD
    | (apply OnlyMast.of_snd; assumption) | apply foldl_keeps (OnlyMast m s0) | simp only [↓OnlyMast.mk_other, ↓id_eq] | split

theorem State.frameUp_within {x2 : Nat} {x3 : Meta} {x4 : Frame} {x5 : Nat} (e : State.frameUp s m x2 x3 x4 x5 = some t) (hm : m < 2) (h : OnlyMast m s0 s) : OnlyMast m s0 t := by
  unfold State.frameUp at e
  try dsimp only at e
  repeat' split at e
  all_goals first | cases e | skip
  all_goals try simp only [Option.some.injEq, Prod.mk.injEq] at e
  all_goals try obtain ⟨rfl, rfl⟩ := e
  all_goals try simp only [Option.map_eq_some_iff] at e
  all_goals try obtain ⟨_, e, rfl⟩ := e
  all_goals repeat' with_reducible
    first
    | assumption | (apply State.allocItem_within; assumption) | apply State.engineAdmitted_within | apply State.giveHw_within
    | apply State.setItemBody_within | apply OnlyMast.of_ite | intro _ | apply OnlyMast.of_getD | (apply OnlyMast.of_snd; assumption)
    | apply foldl_keeps (OnlyMast m s0) | simp only [↓OnlyMast.mk_other, ↓id_eq] | split

theorem State.freeCopies_within {x2 : Group} (hm : m < 2) (h : OnlyMast m s0 s) : OnlyMast m s0 (State.freeCopies s m x2).2 := by
  unfold State.freeCopies
  repeat' with_reducible
    first
    | assumption | apply State.freeItem_within | apply OnlyMast.of_ite | intro _ | apply OnlyMast.of_getD | (apply OnlyMast.of_snd; assumption)
    | apply foldl_keeps (OnlyMast m s0) | simp only [↓OnlyMast.mk_other, ↓id_eq] | split

theorem State.notePassed_within {x2 : Nat} {x3 : Passed} (hm : m < 2) (h : OnlyMast m s0 s) : OnlyMast m s0 (State.notePassed s m x2 x3) := by
  unfold State.notePassed
  repeat' with_reducible
    first
    | assumption | apply State.setMac_within | apply OnlyMast.of_ite | intro _ | apply OnlyMast.of_getD | (apply OnlyMast.of_snd; assumption)
    | apply foldl_keeps (OnlyMast m s0) | simp only [↓OnlyMast.mk_other, ↓id_eq] | split

theorem State.retireGroup_within {x2 : Group} (hm : m < 2) (h : OnlyMast m s0 s) : OnlyMast m s0 (State.retireGroup s m x2) := by
  unfold State.retireGroup
  repeat' with_reducible
    first
    | assumption | apply State.freeCopies_within | apply State.setMac_within | apply OnlyMast.of_ite | intro _ | apply OnlyMast.of_getD
    | (apply OnlyMast.of_snd; assumption) | apply foldl_keeps (OnlyMast m s0) | simp only [↓OnlyMast.mk_other, ↓id_eq] | split

theorem State.dedup_within {x2 : Desc} {x3 : Meta} {x4 : Nat} {x5 : Frame} (hm : m < 2) (h : OnlyMast m s0 s) : OnlyMast m s0 (State.dedup s m x2 x3 x4 x5) := by
  unfold State.dedup
  repeat' with_reducible
    first
    | assumption | apply State.bump_within | apply State.freeItem_within | apply State.setMac_within | apply State.retireGroup_within
    | apply OnlyMast.of_ite | intro _ | apply OnlyMast.of_getD | (apply OnlyMast.of_snd; assumption) | apply foldl_keeps (OnlyMast m s0)
    | simp only [↓OnlyMast.mk_other, ↓id_eq] | split

theorem State.sendCopy_within {x2 : Group} {x3 : Copy} {x4 : Bool} (hm : m < 2) (h : OnlyMast m s0 s) : OnlyMast m s0 (State.sendCopy s m x2 x3 x4) := by
  unfold State.sendCopy
  repeat' with_reducible
    first
    | assumption | apply State.notePassed_within | apply State.setMac_within | apply State.engineTo_within | apply State.engineNext_within
    | apply OnlyMast.of_ite | intro _ | apply OnlyMast.of_getD | (apply OnlyMast.of_snd; assumption) | apply foldl_keeps (OnlyMast m s0)
    | simp only [↓OnlyMast.mk_other, ↓id_eq] | split

theorem State.ccmOpen_within {x2 : Nat} {x3 : Frame} (hm : m < 2) (h : OnlyMast m s0 s) : OnlyMast m s0 (State.ccmOpen s m x2 x3).2 := by
  unfold State.ccmOpen
  repeat' with_reducible
    first
    | assumption | apply State.nodeKey_within | apply State.groupKey_within | apply OnlyMast.of_ite | intro _ | apply OnlyMast.of_getD
    | (apply OnlyMast.of_snd; assumption) | apply foldl_keeps (OnlyMast m s0) | simp only [↓OnlyMast.mk_other, ↓id_eq] | split

theorem State.copyFailed_within {x2 : Desc} (hm : m < 2) (h : OnlyMast m s0 s) : OnlyMast m s0 (State.copyFailed s m x2) := by
  unfold State.copyFailed
  repeat' with_reducible
    first
    | assumption | apply State.freeItem_within | apply State.sendCopy_within | apply State.bump_within | apply State.freeCopies_within
    | apply State.setMac_within | apply OnlyMast.of_ite | intro _ | apply OnlyMast.of_getD | (apply OnlyMast.of_snd; assumption)
    | apply foldl_keeps (OnlyMast m s0) | simp only [↓OnlyMast.mk_other, ↓id_eq] | split

theorem State.channelTest_within {x1 : Nat} {x2 : Nat} {x3 : Link} {x4 : Nat} {x5 : Meta} (hm : m < 2) (h : OnlyMast m s0 s) : OnlyMast m s0 (State.channelTest s x1 x2 x3 x4 x5) := by
  unfold State.channelTest
  repeat' with_reducible
    first
    | assumption | apply State.bump_within | apply OnlyMast.of_ite | intro _ | apply OnlyMast.of_getD | (apply OnlyMast.of_snd; assumption)
    | apply foldl_keeps (OnlyMast m s0) | simp only [↓OnlyMast.mk_other, ↓id_eq] | split

theorem State.nodeFound_within {x2 : Nat} (hm : m < 2) (h : OnlyMast m s0 s) : OnlyMast m s0 (State.nodeFound s m x2) := by
  unfold State.nodeFound
  repeat' with_reducible
    first
    | assumption | apply State.event_within | apply State.irq_within | apply State.bump_within | apply OnlyMast.of_ite | intro _
    | apply OnlyMast.of_getD | (apply OnlyMast.of_snd; assumption) | apply foldl_keeps (OnlyMast m s0) | simp only [↓OnlyMast.mk_other, ↓id_eq]
    | split

theorem State.uplinkAccepted_within {x2 : Nat} {x3 : Nat} {x4 : Meta} (hm : m < 2) (h : OnlyMast m s0 s) : OnlyMast m s0 (State.uplinkAccepted s m x2 x3 x4) := by
  unfold State.uplinkAccepted
  repeat' with_reducible
    first
    | assumption | apply State.channelTest_within | apply State.setLink_within | apply State.nodeFound_within | apply OnlyMast.of_ite | intro _
    | apply OnlyMast.of_getD | (apply OnlyMast.of_snd; assumption) | apply foldl_keeps (OnlyMast m s0) | simp only [↓OnlyMast.mk_other, ↓id_eq]
    | split

theorem State.downlinkAnswer_within {x2 : Nat} {x3 : Nat} {x4 : Int} (hm : m < 2) (h : OnlyMast m s0 s) : OnlyMast m s0 (State.downlinkAnswer s m x2 x3 x4) := by
  unfold State.downlinkAnswer
  repeat' with_reducible
    first
    | assumption | apply State.bump_within | apply State.setMac_within | apply OnlyMast.of_ite | intro _ | apply OnlyMast.of_getD
    | (apply OnlyMast.of_snd; assumption) | apply foldl_keeps (OnlyMast m s0) | simp only [↓OnlyMast.mk_other, ↓id_eq] | split

theorem State.replayItem_within {x2 : Desc} {x3 : Meta} {x4 : Nat} {x5 : Frame} (hm : m < 2) (h : OnlyMast m s0 s) : OnlyMast m s0 (State.replayItem s m x2 x3 x4 x5) := by
  unfold State.replayItem
  repeat' with_reducible
    first
    | assumption | apply State.setMac_within | apply State.engineNext_within | apply State.freeItem_within | apply State.bump_within
    | apply State.setLink_within | apply State.downlinkAnswer_within | apply State.uplinkAccepted_within | apply OnlyMast.of_ite | intro _
    | apply OnlyMast.of_getD | (apply OnlyMast.of_snd; assumption) | apply foldl_keeps (OnlyMast m s0) | simp only [↓OnlyMast.mk_other, ↓id_eq]
    | split

theorem State.ackLaunch_within {x1 : Nat} {x2 : Nat} {x3 : Group} {x4 : Desc} {x5 : Nat} {x6 : Meta} {x7 : Timing} {x8 : Frame} {x9 : Nat} (hm : m < 2) (h : OnlyMast m s0 s) : OnlyMast m s0 (State.ackLaunch s x1 x2 x3 x4 x5 x6 x7 x8 x9).2 := by
  unfold State.ackLaunch
  repeat' with_reducible
    first
    | assumption | apply State.free_within | apply OnlyMast.of_ite | intro _ | apply OnlyMast.of_getD | (apply OnlyMast.of_snd; assumption)
    | apply foldl_keeps (OnlyMast m s0) | simp only [↓OnlyMast.mk_other, ↓id_eq] | split

theorem State.ackPassed_within {x2 : Desc} (hm : m < 2) (h : OnlyMast m s0 s) : OnlyMast m s0 (State.ackPassed s m x2) := by
  unfold State.ackPassed
  repeat' with_reducible
    first
    | assumption | apply State.setMac_within | apply State.freeItem_within | apply State.engineNext_within | apply OnlyMast.of_ite | intro _
    | apply OnlyMast.of_getD | (apply OnlyMast.of_snd; assumption) | apply foldl_keeps (OnlyMast m s0) | simp only [↓OnlyMast.mk_other, ↓id_eq]
    | split

theorem State.buildAck_within {x2 : Nat} {x3 : Group} {x4 : Desc} {x5 : Nat} {x6 : Meta} {x7 : Frame} {x8 : Timing} (e : State.buildAck s m x2 x3 x4 x5 x6 x7 x8 = some t) (hm : m < 2) (h : OnlyMast m s0 s) : OnlyMast m s0 t := by
  unfold State.buildAck at e
  try dsimp only at e
  repeat' split at e
  all_goals first | cases e | skip
  all_goals try simp only [Option.some.injEq, Prod.mk.injEq] at e
  all_goals try obtain ⟨rfl, rfl⟩ := e
  all_goals try simp only [Option.map_eq_some_iff] at e
  all_goals try obtain ⟨_, e, rfl⟩ := e
  all_goals repeat' with_reducible
    first
    | assumption | (apply State.allocItem_within; assumption) | apply State.ackLaunch_within | apply State.addLaunch_within
    | apply State.engineTo_within | apply State.setItemBody_within | apply State.nodeKey_within | apply State.fcExhausted_within
    | apply State.bump_within | apply State.fcReserve_within | apply State.fcTaken_within | apply State.setLink_within | apply OnlyMast.of_ite
    | intro _ | apply OnlyMast.of_getD | (apply OnlyMast.of_snd; assumption) | apply foldl_keeps (OnlyMast m s0)
    | simp only [↓OnlyMast.mk_other, ↓id_eq] | split

theorem State.ackItem_within {x2 : Option Group} {x3 : Desc} {x4 : Meta} {x5 : Nat} {x6 : Frame} (e : State.ackItem s m x2 x3 x4 x5 x6 = some t) (hm : m < 2) (h : OnlyMast m s0 s) : OnlyMast m s0 t := by
  unfold State.ackItem at e
  try dsimp only at e
  repeat' split at e
  all_goals first | cases e | skip
  all_goals try simp only [Option.some.injEq, Prod.mk.injEq] at e
  all_goals try obtain ⟨rfl, rfl⟩ := e
  all_goals try simp only [Option.map_eq_some_iff] at e
  all_goals try obtain ⟨_, e, rfl⟩ := e
  all_goals repeat' with_reducible
    first
    | assumption | apply State.bump_within | apply State.ackPassed_within | (apply State.buildAck_within; assumption) | apply OnlyMast.of_ite
    | intro _ | apply OnlyMast.of_getD | (apply OnlyMast.of_snd; assumption) | apply foldl_keeps (OnlyMast m s0)
    | simp only [↓OnlyMast.mk_other, ↓id_eq] | split

/-! ## MacPath -/

theorem State.expand_within {x0 : State} {x3 : Desc} {x4 : Meta} {x5 : Nat} {x6 : Frame} (g0 : OnlyMast m s0 x0) (hm : m < 2) (h : OnlyMast m s0 s) : OnlyMast m s0 (State.expand x0 s m x3 x4 x5 x6) := by
  unfold State.expand
  repeat' with_reducible
    first
    | assumption | apply State.engineNext_within | apply State.bump_within | apply State.toField_within | apply State.freeItem_within
    | (apply State.resizeItem_within; assumption) | apply State.engineRefused_within | apply State.engineAdmitted_within
    | apply State.setItemBody_within | apply OnlyMast.of_ite | intro _ | apply OnlyMast.of_getD | (apply OnlyMast.of_snd; assumption)
    | apply foldl_keeps (OnlyMast m s0) | simp only [↓OnlyMast.mk_other, ↓id_eq] | split

theorem State.lookupIid_within {x1 : Nat} {x2 : Nat} (hm : m < 2) (h : OnlyMast m s0 s) : OnlyMast m s0 (State.lookupIid s x1 x2).2 := by
  unfold State.lookupIid
  repeat' with_reducible
    first
    | assumption | apply State.lookupShort_within | apply State.lookupAddr_within | apply OnlyMast.of_ite | intro _ | apply OnlyMast.of_getD
    | (apply OnlyMast.of_snd; assumption) | apply foldl_keeps (OnlyMast m s0) | simp only [↓OnlyMast.mk_other, ↓id_eq] | split

theorem State.routeFail_within {x2 : Nat} {x3 : Nat} {x4 : Desc} {x5 : Reason} {x6 : Fld} (hm : m < 2) (h : OnlyMast m s0 s) : OnlyMast m s0 (State.routeFail s m x2 x3 x4 x5 x6) := by
  unfold State.routeFail
  repeat' with_reducible
    first
    | assumption | apply State.event_within | apply State.irq_within | apply State.bump_within | apply State.toField_within | apply OnlyMast.of_ite
    | intro _ | apply OnlyMast.of_getD | (apply OnlyMast.of_snd; assumption) | apply foldl_keeps (OnlyMast m s0)
    | simp only [↓OnlyMast.mk_other, ↓id_eq] | split

theorem State.classifyDown_within {x2 : Desc} {x3 : Packet} (hm : m < 2) (h : OnlyMast m s0 s) : OnlyMast m s0 (State.classifyDown s m x2 x3) := by
  unfold State.classifyDown
  repeat' with_reducible
    first
    | assumption | apply State.routeFail_within | apply State.lookupIid_within | apply State.engineTo_within | apply OnlyMast.of_ite | intro _
    | apply OnlyMast.of_getD | (apply OnlyMast.of_snd; assumption) | apply foldl_keeps (OnlyMast m s0) | simp only [↓OnlyMast.mk_other, ↓id_eq]
    | split

theorem State.upmap_within {x2 : Desc} {x3 : Nat} (hm : m < 2) (h : OnlyMast m s0 s) : OnlyMast m s0 (State.upmap s m x2 x3) := by
  unfold State.upmap
  repeat' with_reducible
    first
    | assumption | apply State.engineTo_within | apply State.setSal_within | apply State.toField_within | apply State.bump_within
    | apply State.freeItem_within | apply OnlyMast.of_ite | intro _ | apply OnlyMast.of_getD | (apply OnlyMast.of_snd; assumption)
    | apply foldl_keeps (OnlyMast m s0) | simp only [↓OnlyMast.mk_other, ↓id_eq] | split

theorem State.classify_within {x2 : Desc} (hm : m < 2) (h : OnlyMast m s0 s) : OnlyMast m s0 (State.classify s m x2) := by
  unfold State.classify
  repeat' with_reducible
    first
    | assumption | apply State.toField_within | apply State.bump_within | apply State.classifyDown_within | apply State.routeFail_within
    | apply State.upmap_within | apply OnlyMast.of_ite | intro _ | apply OnlyMast.of_getD | (apply OnlyMast.of_snd; assumption)
    | apply foldl_keeps (OnlyMast m s0) | simp only [↓OnlyMast.mk_other, ↓id_eq] | split

theorem State.routeWalk_within {x0 : State} {x3 : Desc} {x4 : Packet} {x5 : Option (Meta × Nat × Frame)} (g0 : OnlyMast m s0 x0) (hm : m < 2) (h : OnlyMast m s0 s) : OnlyMast m s0 (State.routeWalk x0 s m x3 x4 x5) := by
  unfold State.routeWalk
  repeat' with_reducible
    first
    | assumption | apply State.bump_within | apply State.routeFail_within | apply State.raise_within | (apply State.resizeItem_within; assumption)
    | apply State.engineRefused_within | apply State.engineNext_within | apply State.engineAdmitted_within | apply State.setItemBody_within
    | apply OnlyMast.of_ite | intro _ | apply OnlyMast.of_getD | (apply OnlyMast.of_snd; assumption) | apply foldl_keeps (OnlyMast m s0)
    | simp only [↓OnlyMast.mk_other, ↓id_eq] | split

theorem State.seal_within {x2 : Desc} {x3 : Frame} (e : State.seal s m x2 x3 = some t) (hm : m < 2) (h : OnlyMast m s0 s) : OnlyMast m s0 t := by
  unfold State.seal at e
  try dsimp only at e
  repeat' split at e
  all_goals first | cases e | skip
  all_goals try simp only [Option.some.injEq, Prod.mk.injEq] at e
  all_goals try obtain ⟨rfl, rfl⟩ := e
  all_goals try simp only [Option.map_eq_some_iff] at e
  all_goals try obtain ⟨_, e, rfl⟩ := e
  all_goals repeat' with_reducible
    first
    | assumption | apply State.engineNext_within | apply State.setItemBody_within | apply State.nodeKey_within | apply State.freeItem_within
    | apply State.fcExhausted_within | apply State.fcReserve_within | apply State.fcTaken_within | apply State.setLink_within | apply OnlyMast.of_ite
    | intro _ | apply OnlyMast.of_getD | (apply OnlyMast.of_snd; assumption) | apply foldl_keeps (OnlyMast m s0)
    | simp only [↓OnlyMast.mk_other, ↓id_eq] | split

theorem State.linkInvalid_within {x2 : Nat} (hm : m < 2) (h : OnlyMast m s0 s) : OnlyMast m s0 (State.linkInvalid s m x2) := by
  unfold State.linkInvalid
  repeat' with_reducible
    first
    | assumption | apply State.event_within | apply State.irq_within | apply State.setMac_within | apply OnlyMast.of_ite | intro _
    | apply OnlyMast.of_getD | (apply OnlyMast.of_snd; assumption) | apply foldl_keeps (OnlyMast m s0) | simp only [↓OnlyMast.mk_other, ↓id_eq]
    | split

theorem State.dlDropped_within {x2 : Nat} {x3 : Reason} (hm : m < 2) (h : OnlyMast m s0 s) : OnlyMast m s0 (State.dlDropped s m x2 x3) := by
  unfold State.dlDropped
  repeat' with_reducible
    first
    | assumption | apply State.event_within | apply State.irq_within | apply OnlyMast.of_ite | intro _ | apply OnlyMast.of_getD
    | (apply OnlyMast.of_snd; assumption) | apply foldl_keeps (OnlyMast m s0) | simp only [↓OnlyMast.mk_other, ↓id_eq] | split

theorem State.mcAppend_within {x2 : Nat} {x3 : Nat} (e : State.mcAppend s m x2 x3 = some t) (hm : m < 2) (h : OnlyMast m s0 s) : OnlyMast m s0 t := by
  unfold State.mcAppend at e
  try dsimp only at e
  repeat' split at e
  all_goals first | cases e | skip
  all_goals try simp only [Option.some.injEq, Prod.mk.injEq] at e
  all_goals try obtain ⟨rfl, rfl⟩ := e
  all_goals try simp only [Option.map_eq_some_iff] at e
  all_goals try obtain ⟨_, e, rfl⟩ := e
  all_goals repeat' with_reducible
    first
    | assumption | apply State.placeAdd_within | apply State.placeSub_within | apply State.brineCheck_within | apply State.setMast_within
    | apply OnlyMast.of_ite | intro _ | apply OnlyMast.of_getD | (apply OnlyMast.of_snd; assumption) | apply foldl_keeps (OnlyMast m s0)
    | simp only [↓OnlyMast.mk_other, ↓id_eq] | split

theorem State.mcRemove_within {x2 : Nat} {x3 : Nat} (hm : m < 2) (h : OnlyMast m s0 s) : OnlyMast m s0 (State.mcRemove s m x2 x3) := by
  unfold State.mcRemove
  repeat' with_reducible
    first
    | assumption | apply State.freeItem_within | apply State.setMast_within | apply OnlyMast.of_ite | intro _ | apply OnlyMast.of_getD
    | (apply OnlyMast.of_snd; assumption) | apply foldl_keeps (OnlyMast m s0) | simp only [↓OnlyMast.mk_other, ↓id_eq] | split

theorem State.linkQueue_within {x2 : Desc} (e : State.linkQueue s m x2 = some t) (hm : m < 2) (h : OnlyMast m s0 s) : OnlyMast m s0 t := by
  unfold State.linkQueue at e
  try dsimp only at e
  repeat' split at e
  all_goals first | cases e | skip
  all_goals try simp only [Option.some.injEq, Prod.mk.injEq] at e
  all_goals try obtain ⟨rfl, rfl⟩ := e
  all_goals try simp only [Option.map_eq_some_iff] at e
  all_goals try obtain ⟨_, e, rfl⟩ := e
  all_goals repeat' with_reducible
    first
    | assumption | (apply State.mcAppend_within; assumption) | apply State.setItemBody_within | apply State.dlDropped_within
    | apply State.bump_within | apply State.freeItem_within | (apply State.chainAppend_within; assumption) | apply State.linkInvalid_within
    | apply OnlyMast.of_ite | intro _ | apply OnlyMast.of_getD | (apply OnlyMast.of_snd; assumption) | apply foldl_keeps (OnlyMast m s0)
    | simp only [↓OnlyMast.mk_other, ↓id_eq] | split

/-! ## CampBase -/

theorem State.setCamp_within {x2 : Camp} (hm : m < 2) (h : OnlyMast m s0 s) : OnlyMast m s0 (State.setCamp s m x2) := by
  unfold State.setCamp
  repeat' with_reducible
    first
    | assumption | apply State.setMast_within | apply OnlyMast.of_ite | intro _ | apply OnlyMast.of_getD | (apply OnlyMast.of_snd; assumption)
    | apply foldl_keeps (OnlyMast m s0) | simp only [↓OnlyMast.mk_other, ↓id_eq] | split

theorem State.setCampOf_within {x2 : Nat} {x3 : CampSec} (hm : m < 2) (h : OnlyMast m s0 s) : OnlyMast m s0 (State.setCampOf s m x2 x3) := by
  unfold State.setCampOf
  repeat' with_reducible
    first
    | assumption | apply State.setMast_within | apply OnlyMast.of_ite | intro _ | apply OnlyMast.of_getD | (apply OnlyMast.of_snd; assumption)
    | apply foldl_keeps (OnlyMast m s0) | simp only [↓OnlyMast.mk_other, ↓id_eq] | split

theorem State.campFrame_within {x2 : Nat} {x3 : Nat} {x4 : Nat} (hm : m < 2) (h : OnlyMast m s0 s) : OnlyMast m s0 (State.campFrame s m x2 x3 x4) := by
  unfold State.campFrame
  repeat' with_reducible
    first
    | assumption | apply State.setCamp_within | apply OnlyMast.of_ite | intro _ | apply OnlyMast.of_getD | (apply OnlyMast.of_snd; assumption)
    | apply foldl_keeps (OnlyMast m s0) | simp only [↓OnlyMast.mk_other, ↓id_eq] | split

theorem State.setMissing_within {x2 : Nat} {x3 : Nat} (hm : m < 2) (h : OnlyMast m s0 s) : OnlyMast m s0 (State.setMissing s m x2 x3) := by
  unfold State.setMissing
  repeat' with_reducible
    first
    | assumption | apply State.setCampOf_within | apply State.setCamp_within | apply OnlyMast.of_ite | intro _ | apply OnlyMast.of_getD
    | (apply OnlyMast.of_snd; assumption) | apply foldl_keeps (OnlyMast m s0) | simp only [↓OnlyMast.mk_other, ↓id_eq] | split

theorem State.campTry_within {x2 : Nat} {x3 : State → State} (hf3 : ∀ y0, OnlyMast m s0 y0 → OnlyMast m s0 (x3 y0)) (hm : m < 2) (h : OnlyMast m s0 s) : OnlyMast m s0 (State.campTry s m x2 x3) := by
  unfold State.campTry
  repeat' with_reducible
    first
    | assumption | apply State.bump_within | apply State.setCampOf_within | apply hf3 | apply OnlyMast.of_ite | intro _ | apply OnlyMast.of_getD
    | (apply OnlyMast.of_snd; assumption) | apply foldl_keeps (OnlyMast m s0) | simp only [↓OnlyMast.mk_other, ↓id_eq] | split

theorem State.straggle_within {x2 : Nat} (hm : m < 2) (h : OnlyMast m s0 s) : OnlyMast m s0 (State.straggle s m x2) := by
  unfold State.straggle
  repeat' with_reducible
    first
    | assumption | apply State.campFrame_within | apply OnlyMast.of_ite | intro _ | apply OnlyMast.of_getD | (apply OnlyMast.of_snd; assumption)
    | apply foldl_keeps (OnlyMast m s0) | simp only [↓OnlyMast.mk_other, ↓id_eq] | split

theorem State.campLeft_within {x2 : Nat} {x3 : Bool} (hm : m < 2) (h : OnlyMast m s0 s) : OnlyMast m s0 (State.campLeft s m x2 x3) := by
  unfold State.campLeft
  repeat' with_reducible
    first
    | assumption | apply State.setCamp_within | apply State.setMissing_within | apply State.straggle_within | apply State.setCampOf_within
    | apply State.campTry_within | apply State.campFrame_within | apply OnlyMast.of_ite | intro _ | apply OnlyMast.of_getD
    | (apply OnlyMast.of_snd; assumption) | apply foldl_keeps (OnlyMast m s0) | simp only [↓OnlyMast.mk_other, ↓id_eq] | split

theorem State.campLost_within {x2 : Nat} (hm : m < 2) (h : OnlyMast m s0 s) : OnlyMast m s0 (State.campLost s m x2) := by
  unfold State.campLost
  repeat' with_reducible
    first
    | assumption | apply State.campLeft_within | apply OnlyMast.of_ite | intro _ | apply OnlyMast.of_getD | (apply OnlyMast.of_snd; assumption)
    | apply foldl_keeps (OnlyMast m s0) | simp only [↓OnlyMast.mk_other, ↓id_eq] | split

/-! ## MacTx -/

theorem State.beaconMiss_within {x2 : Nat} (hm : m < 2) (h : OnlyMast m s0 s) : OnlyMast m s0 (State.beaconMiss s m x2) := by
  unfold State.beaconMiss
  repeat' with_reducible
    first
    | assumption | apply State.bump_within | apply State.setMac_within | apply State.event_within | apply State.irq_within
    | apply State.setBit_within | apply OnlyMast.of_ite | intro _ | apply OnlyMast.of_getD | (apply OnlyMast.of_snd; assumption)
    | apply foldl_keeps (OnlyMast m s0) | simp only [↓OnlyMast.mk_other, ↓id_eq] | split

theorem State.txEvent_within {x2 : Nat} {x3 : TxReport} (hm : m < 2) (h : OnlyMast m s0 s) : OnlyMast m s0 (State.txEvent s m x2 x3) := by
  unfold State.txEvent
  repeat' with_reducible
    first
    | assumption | apply State.event_within | apply OnlyMast.of_ite | intro _ | apply OnlyMast.of_getD | (apply OnlyMast.of_snd; assumption)
    | apply foldl_keeps (OnlyMast m s0) | simp only [↓OnlyMast.mk_other, ↓id_eq] | split

theorem State.fifoOver_within {x2 : Nat} (hm : m < 2) (h : OnlyMast m s0 s) : OnlyMast m s0 (State.fifoOver s m x2) := by
  unfold State.fifoOver
  repeat' with_reducible
    first
    | assumption | apply State.event_within | apply State.irq_within | apply State.bump_within | apply OnlyMast.of_ite | intro _
    | apply OnlyMast.of_getD | (apply OnlyMast.of_snd; assumption) | apply foldl_keeps (OnlyMast m s0) | simp only [↓OnlyMast.mk_other, ↓id_eq]
    | split

theorem State.planOn_within {x2 : Nat} {x3 : Nat} {x4 : LaunchKind} {x5 : Nat} {x6 : Nat} {x7 : Frame} {x8 : Nat} {x9 : Nat} {x10 : Nat} {x11 : Int} {x12 : Nat} {x13 : Int} (hm : m < 2) (h : OnlyMast m s0 s) : OnlyMast m s0 (State.planOn s m x2 x3 x4 x5 x6 x7 x8 x9 x10 x11 x12 x13).2 := by
  unfold State.planOn
  repeat' with_reducible
    first
    | assumption | apply State.shape_within | apply State.dwell_within | apply State.unshape_within | apply State.addLaunch_within
    | apply OnlyMast.of_ite | intro _ | apply OnlyMast.of_getD | (apply OnlyMast.of_snd; assumption) | apply foldl_keeps (OnlyMast m s0)
    | simp only [↓OnlyMast.mk_other, ↓id_eq] | split

theorem State.planBeacon_within {x2 : Nat} {x3 : Nat} (hm : m < 2) (h : OnlyMast m s0 s) : OnlyMast m s0 (State.planBeacon s m x2 x3) := by
  unfold State.planBeacon
  repeat' with_reducible
    first
    | assumption | apply State.free_within | apply State.beaconMiss_within | apply State.planOn_within | apply State.fifoOver_within
    | apply State.bump_within | apply State.txEvent_within | apply OnlyMast.of_ite | intro _ | apply OnlyMast.of_getD
    | (apply OnlyMast.of_snd; assumption) | apply foldl_keeps (OnlyMast m s0) | simp only [↓OnlyMast.mk_other, ↓id_eq] | split

theorem State.frameGone_within {x2 : Nat} {x3 : Nat} {x4 : Nat} {x5 : Bool} (hm : m < 2) (h : OnlyMast m s0 s) : OnlyMast m s0 (State.frameGone s m x2 x3 x4 x5) := by
  unfold State.frameGone
  repeat' with_reducible
    first
    | assumption | apply State.mcRemove_within | apply State.campLeft_within | apply State.chainRemove_within | apply OnlyMast.of_ite | intro _
    | apply OnlyMast.of_getD | (apply OnlyMast.of_snd; assumption) | apply foldl_keeps (OnlyMast m s0) | simp only [↓OnlyMast.mk_other, ↓id_eq]
    | split

theorem State.nodeLost_within {x2 : Nat} (hm : m < 2) (h : OnlyMast m s0 s) : OnlyMast m s0 (State.nodeLost s m x2) := by
  unfold State.nodeLost
  repeat' with_reducible
    first
    | assumption | apply State.setLink_within | apply State.setMac_within | apply State.event_within | apply State.irq_within
    | apply State.bump_within | apply State.campLost_within | apply State.spliceLost_within | apply OnlyMast.of_ite | intro _
    | apply OnlyMast.of_getD | (apply OnlyMast.of_snd; assumption) | apply foldl_keeps (OnlyMast m s0) | simp only [↓OnlyMast.mk_other, ↓id_eq]
    | split

theorem State.planHint_within {x2 : Nat} {x3 : Nat} {x4 : Nat} (hm : m < 2) (h : OnlyMast m s0 s) : OnlyMast m s0 (State.planHint s m x2 x3 x4) := by
  unfold State.planHint
  repeat' with_reducible
    first
    | assumption | apply State.setMac_within | apply State.bump_within | apply OnlyMast.of_ite | intro _ | apply OnlyMast.of_getD
    | (apply OnlyMast.of_snd; assumption) | apply foldl_keeps (OnlyMast m s0) | simp only [↓OnlyMast.mk_other, ↓id_eq] | split

theorem State.planFrame_within {x2 : Nat} {x3 : Nat} {x4 : Nat} {x5 : Nat} {x6 : Nat} {x7 : Nat} (hm : m < 2) (h : OnlyMast m s0 s) : OnlyMast m s0 (State.planFrame s m x2 x3 x4 x5 x6 x7) := by
  unfold State.planFrame
  repeat' with_reducible
    first
    | assumption | apply State.fifoOver_within | apply State.frameGone_within | apply State.bump_within | apply State.setLink_within
    | apply State.planOn_within | apply State.txEvent_within | apply State.planHint_within | apply OnlyMast.of_ite | intro _ | apply OnlyMast.of_getD
    | (apply OnlyMast.of_snd; assumption) | apply foldl_keeps (OnlyMast m s0) | simp only [↓OnlyMast.mk_other, ↓id_eq] | split

theorem State.sealHead_within {x2 : Nat} {x3 : Nat} {x4 : Nat} {x5 : Frame} (hm : m < 2) (h : OnlyMast m s0 s) : OnlyMast m s0 (State.sealHead s m x2 x3 x4 x5).2 := by
  unfold State.sealHead
  repeat' with_reducible
    first
    | assumption | apply State.nodeKey_within | apply State.frameGone_within | apply State.fcExhausted_within | apply State.fcReserve_within
    | apply State.setItemBody_within | apply State.fcTaken_within | apply State.setLink_within | apply OnlyMast.of_ite | intro _
    | apply OnlyMast.of_getD | (apply OnlyMast.of_snd; assumption) | apply foldl_keeps (OnlyMast m s0) | simp only [↓OnlyMast.mk_other, ↓id_eq]
    | split

theorem State.planNode_within {x2 : Nat} {x3 : Nat} (hm : m < 2) (h : OnlyMast m s0 s) : OnlyMast m s0 (State.planNode s m x2 x3) := by
  unfold State.planNode
  repeat' with_reducible
    first
    | assumption | apply State.nodeLost_within | apply State.planHint_within | apply State.bump_within | apply State.linkInvalid_within
    | apply State.setMac_within | apply State.sealHead_within | apply State.planFrame_within | apply OnlyMast.of_ite | intro _
    | apply OnlyMast.of_getD | (apply OnlyMast.of_snd; assumption) | apply foldl_keeps (OnlyMast m s0) | simp only [↓OnlyMast.mk_other, ↓id_eq]
    | split

theorem State.planMulticast_within {x2 : Nat} {x3 : Nat} (hm : m < 2) (h : OnlyMast m s0 s) : OnlyMast m s0 (State.planMulticast s m x2 x3) := by
  unfold State.planMulticast
  repeat' with_reducible
    first
    | assumption | apply State.planOn_within | apply State.fifoOver_within | apply State.bump_within | apply State.txEvent_within
    | apply OnlyMast.of_ite | intro _ | apply OnlyMast.of_getD | (apply OnlyMast.of_snd; assumption) | apply foldl_keeps (OnlyMast m s0)
    | simp only [↓OnlyMast.mk_other, ↓id_eq] | split

theorem State.planNext_within  (hm : m < 2) (h : OnlyMast m s0 s) : OnlyMast m s0 (State.planNext s m) := by
  unfold State.planNext
  repeat' with_reducible
    first
    | assumption | apply State.setMac_within | apply State.planMulticast_within | apply State.planBeacon_within | apply State.planNode_within
    | apply OnlyMast.of_ite | intro _ | apply OnlyMast.of_getD | (apply OnlyMast.of_snd; assumption) | apply foldl_keeps (OnlyMast m s0)
    | simp only [↓OnlyMast.mk_other, ↓id_eq] | split

theorem State.dropAck_within {x2 : Launch} (hm : m < 2) (h : OnlyMast m s0 s) : OnlyMast m s0 (State.dropAck s m x2) := by
  unfold State.dropAck
  repeat' with_reducible
    first
    | assumption | apply State.freeItem_within | apply State.resolve_within | apply OnlyMast.of_ite | intro _ | apply OnlyMast.of_getD
    | (apply OnlyMast.of_snd; assumption) | apply foldl_keeps (OnlyMast m s0) | simp only [↓OnlyMast.mk_other, ↓id_eq] | split

theorem State.placeAck_within {x2 : Desc} {x3 : Launch} (e : State.placeAck s m x2 x3 = some t) (hm : m < 2) (h : OnlyMast m s0 s) : OnlyMast m s0 t := by
  unfold State.placeAck at e
  try dsimp only at e
  repeat' split at e
  all_goals first | cases e | skip
  all_goals try simp only [Option.some.injEq, Prod.mk.injEq] at e
  all_goals try obtain ⟨rfl, rfl⟩ := e
  all_goals try simp only [Option.map_eq_some_iff] at e
  all_goals try obtain ⟨_, e, rfl⟩ := e
  all_goals repeat' with_reducible
    first
    | assumption | apply State.fifoOver_within | apply State.dropAck_within | apply State.bump_within | apply State.txEvent_within
    | apply State.dwell_within | (apply State.enqueue_within; assumption) | apply State.setMac_within | apply OnlyMast.of_ite | intro _
    | apply OnlyMast.of_getD | (apply OnlyMast.of_snd; assumption) | apply foldl_keeps (OnlyMast m s0) | simp only [↓OnlyMast.mk_other, ↓id_eq]
    | split

theorem State.buildLateCheck_within  (hm : m < 2) (h : OnlyMast m s0 s) : OnlyMast m s0 (State.buildLateCheck s m) := by
  unfold State.buildLateCheck
  repeat' with_reducible
    first
    | assumption | apply State.bump_within | apply State.setMac_within | apply OnlyMast.of_ite | intro _ | apply OnlyMast.of_getD
    | (apply OnlyMast.of_snd; assumption) | apply foldl_keeps (OnlyMast m s0) | simp only [↓OnlyMast.mk_other, ↓id_eq] | split

theorem State.buildBeacon_within {x2 : Launch} (hm : m < 2) (h : OnlyMast m s0 s) : OnlyMast m s0 (State.buildBeacon s m x2) := by
  unfold State.buildBeacon
  repeat' with_reducible
    first
    | assumption | apply State.beaconMiss_within | apply State.resolve_within | apply State.useSlot_within | apply State.noKey_within
    | apply State.fcExhausted_within | apply State.fcReserve_within | (apply State.allocItem_within; assumption) | apply State.engineWaits_within
    | apply State.setItemBody_within | apply State.fcTaken_within | apply State.put_within | (apply State.enqueue_within; assumption)
    | apply State.setMac_within | apply State.engineAdmitted_within | apply OnlyMast.of_ite | intro _ | apply OnlyMast.of_getD
    | (apply OnlyMast.of_snd; assumption) | apply foldl_keeps (OnlyMast m s0) | simp only [↓OnlyMast.mk_other, ↓id_eq] | split

theorem State.buildLaunch_within {x2 : Nat} (hm : m < 2) (h : OnlyMast m s0 s) : OnlyMast m s0 (State.buildLaunch s m x2) := by
  unfold State.buildLaunch
  repeat' with_reducible
    first
    | assumption | apply State.buildLateCheck_within | apply State.setMac_within | apply State.buildBeacon_within | apply OnlyMast.of_ite | intro _
    | apply OnlyMast.of_getD | (apply OnlyMast.of_snd; assumption) | apply foldl_keeps (OnlyMast m s0) | simp only [↓OnlyMast.mk_other, ↓id_eq]
    | split

theorem State.deliverLaunch_within {x2 : Nat} (hm : m < 2) (h : OnlyMast m s0 s) : OnlyMast m s0 (State.deliverLaunch s m x2) := by
  unfold State.deliverLaunch
  repeat' with_reducible
    first
    | assumption | apply State.handLaunch_within | apply State.dropQueued_within | apply OnlyMast.of_ite | intro _ | apply OnlyMast.of_getD
    | (apply OnlyMast.of_snd; assumption) | apply foldl_keeps (OnlyMast m s0) | simp only [↓OnlyMast.mk_other, ↓id_eq] | split

theorem State.sendHints_within  (hm : m < 2) (h : OnlyMast m s0 s) : OnlyMast m s0 (State.sendHints s m) := by
  unfold State.sendHints
  repeat' with_reducible
    first
    | assumption | apply State.setMast_within | apply State.count_within | apply State.toSail_within | apply OnlyMast.of_ite | intro _
    | apply OnlyMast.of_getD | (apply OnlyMast.of_snd; assumption) | apply foldl_keeps (OnlyMast m s0) | simp only [↓OnlyMast.mk_other, ↓id_eq]
    | split

theorem State.copyCharge_within {x2 : Launch} {x3 : Nat} (hm : m < 2) (h : OnlyMast m s0 s) : OnlyMast m s0 (State.copyCharge s m x2 x3) := by
  unfold State.copyCharge
  repeat' with_reducible
    first
    | assumption | apply State.setMast_within | apply OnlyMast.of_ite | intro _ | apply OnlyMast.of_getD | (apply OnlyMast.of_snd; assumption)
    | apply foldl_keeps (OnlyMast m s0) | simp only [↓OnlyMast.mk_other, ↓id_eq] | split

theorem State.beaconDone_within {x2 : Launch} {x3 : Nat} (hm : m < 2) (h : OnlyMast m s0 s) : OnlyMast m s0 (State.beaconDone s m x2 x3) := by
  unfold State.beaconDone
  repeat' with_reducible
    first
    | assumption | apply State.bump_within | apply State.setMac_within | apply State.beaconMiss_within | apply OnlyMast.of_ite | intro _
    | apply OnlyMast.of_getD | (apply OnlyMast.of_snd; assumption) | apply foldl_keeps (OnlyMast m s0) | simp only [↓OnlyMast.mk_other, ↓id_eq]
    | split

theorem State.ackDone_within {x2 : Launch} {x3 : Nat} {x4 : Nat} (hm : m < 2) (h : OnlyMast m s0 s) : OnlyMast m s0 (State.ackDone s m x2 x3 x4) := by
  unfold State.ackDone
  repeat' with_reducible
    first
    | assumption | apply State.bump_within | apply State.setLink_within | apply OnlyMast.of_ite | intro _ | apply OnlyMast.of_getD
    | (apply OnlyMast.of_snd; assumption) | apply foldl_keeps (OnlyMast m s0) | simp only [↓OnlyMast.mk_other, ↓id_eq] | split

theorem State.dataDone_within {x2 : Launch} {x3 : TxReport} (hm : m < 2) (h : OnlyMast m s0 s) : OnlyMast m s0 (State.dataDone s m x2 x3) := by
  unfold State.dataDone
  repeat' with_reducible
    first
    | assumption | apply State.frameGone_within | apply State.setMac_within | apply OnlyMast.of_ite | intro _ | apply OnlyMast.of_getD
    | (apply OnlyMast.of_snd; assumption) | apply foldl_keeps (OnlyMast m s0) | simp only [↓OnlyMast.mk_other, ↓id_eq] | split

theorem State.txDone_within {x2 : Nat} {x3 : TxReport} (hm : m < 2) (h : OnlyMast m s0 s) : OnlyMast m s0 (State.txDone s m x2 x3) := by
  unfold State.txDone
  repeat' with_reducible
    first
    | assumption | apply State.resolve_within | apply State.unshape_within | apply State.copyCharge_within | apply State.txEvent_within
    | apply State.beaconDone_within | apply State.ackDone_within | apply State.dataDone_within | apply OnlyMast.of_ite | intro _
    | apply OnlyMast.of_getD | (apply OnlyMast.of_snd; assumption) | apply foldl_keeps (OnlyMast m s0) | simp only [↓OnlyMast.mk_other, ↓id_eq]
    | split

theorem State.unanswered_within {x2 : Nat} {x3 : Nat} (hm : m < 2) (h : OnlyMast m s0 s) : OnlyMast m s0 (State.unanswered s m x2 x3) := by
  unfold State.unanswered
  repeat' with_reducible
    first
    | assumption | apply State.bump_within | apply State.setLink_within | apply State.dlDropped_within | apply State.campLeft_within
    | apply State.chainRemove_within | apply OnlyMast.of_ite | intro _ | apply OnlyMast.of_getD | (apply OnlyMast.of_snd; assumption)
    | apply foldl_keeps (OnlyMast m s0) | simp only [↓OnlyMast.mk_other, ↓id_eq] | split

theorem State.withdrawTick_within  (hm : m < 2) (h : OnlyMast m s0 s) : OnlyMast m s0 (State.withdrawTick s m) := by
  unfold State.withdrawTick
  repeat' with_reducible
    first
    | assumption | apply State.bump_within | apply State.resolve_within | apply State.unshape_within | apply State.beaconMiss_within
    | apply State.dropQueued_within | apply OnlyMast.of_ite | intro _ | apply OnlyMast.of_getD | (apply OnlyMast.of_snd; assumption)
    | apply foldl_keeps (OnlyMast m s0) | simp only [↓OnlyMast.mk_other, ↓id_eq] | split

theorem State.oldLaunches_within  (hm : m < 2) (h : OnlyMast m s0 s) : OnlyMast m s0 (State.oldLaunches s m) := by
  unfold State.oldLaunches
  repeat' with_reducible
    first
    | assumption | apply State.txDone_within | apply State.setMac_within | apply OnlyMast.of_ite | intro _ | apply OnlyMast.of_getD
    | (apply OnlyMast.of_snd; assumption) | apply foldl_keeps (OnlyMast m s0) | simp only [↓OnlyMast.mk_other, ↓id_eq] | split

theorem State.grantSlot_within  (hm : m < 2) (h : OnlyMast m s0 s) : OnlyMast m s0 (State.grantSlot s m) := by
  unfold State.grantSlot
  repeat' with_reducible
    first
    | assumption | apply State.shapeGrant_within | apply State.setMac_within | apply OnlyMast.of_ite | intro _ | apply OnlyMast.of_getD
    | (apply OnlyMast.of_snd; assumption) | apply foldl_keeps (OnlyMast m s0) | simp only [↓OnlyMast.mk_other, ↓id_eq] | split

end Sys2Proof.Machine
end

