-- ==== Sys2Proof/Laws/WithinPack.lean ====
section
/-! SUPPORT. What stays within mast `m`: one lemma for each operation that acts on one mast alone (OnlyMast), of Nv, PairBase, Reset, UpdBase, Feeds, Timers, Ports, Pair, Update, Campaign, Boot. -/

namespace Sys2Proof.Machine

variable {m : Nat} {s0 s t : State}

/-! ## Nv -/

theorem State.cfgDone_within {x2 : Bool} (hm : m < 2) (h : OnlyMast m s0 s) : OnlyMast m s0 (State.cfgDone s m x2) := by
  unfold State.cfgDone
  repeat' with_reducible
    first
    | assumption | apply State.nvDone_within | apply State.setNv_within | apply State.nvErase_within | apply State.put_within
    | apply State.setMast_within | apply OnlyMast.of_ite | intro _ | apply OnlyMast.of_getD | (apply OnlyMast.of_snd; assumption)
    | apply foldl_keeps (OnlyMast m s0) | simp only [↓OnlyMast.mk_other, ↓id_eq] | split

theorem State.campDone_within {x2 : Bool} (hm : m < 2) (h : OnlyMast m s0 s) : OnlyMast m s0 (State.campDone s m x2) := by
  unfold State.campDone
  repeat' with_reducible
    first
    | assumption | apply State.nvDone_within | apply State.setNv_within | apply State.nvErase_within | apply State.bump_within
    | apply State.irq_within | apply State.put_within | apply OnlyMast.of_ite | intro _ | apply OnlyMast.of_getD
    | (apply OnlyMast.of_snd; assumption) | apply foldl_keeps (OnlyMast m s0) | simp only [↓OnlyMast.mk_other, ↓id_eq] | split

theorem State.ckptDone_within {x2 : Bool} (hm : m < 2) (h : OnlyMast m s0 s) : OnlyMast m s0 (State.ckptDone s m x2) := by
  unfold State.ckptDone
  repeat' with_reducible
    first
    | assumption | apply State.put_within | apply State.nvDone_within | apply State.irq_within | apply State.bump_within | apply State.setNv_within
    | apply OnlyMast.of_ite | intro _ | apply OnlyMast.of_getD | (apply OnlyMast.of_snd; assumption) | apply foldl_keeps (OnlyMast m s0)
    | simp only [↓OnlyMast.mk_other, ↓id_eq] | split

theorem State.ckptStart_within  (hm : m < 2) (h : OnlyMast m s0 s) : OnlyMast m s0 (State.ckptStart s m) := by
  unfold State.ckptStart
  repeat' with_reducible
    first
    | assumption | apply State.put_within | apply State.nvStart_within | apply State.output_within | apply State.setNv_within | apply OnlyMast.of_ite
    | intro _ | apply OnlyMast.of_getD | (apply OnlyMast.of_snd; assumption) | apply foldl_keeps (OnlyMast m s0)
    | simp only [↓OnlyMast.mk_other, ↓id_eq] | split

theorem State.accNvCmd_within {x2 : Nat} {x3 : Nat} {x4 : Nat} (hm : m < 2) (h : OnlyMast m s0 s) : OnlyMast m s0 (State.accNvCmd s m x2 x3 x4) := by
  unfold State.accNvCmd
  repeat' with_reducible
    first
    | assumption | apply State.action_within | apply State.put_within | apply State.ckptStart_within | apply State.cfgWrite_within
    | apply OnlyMast.of_ite | intro _ | apply OnlyMast.of_getD | (apply OnlyMast.of_snd; assumption) | apply foldl_keeps (OnlyMast m s0)
    | simp only [↓OnlyMast.mk_other, ↓id_eq] | split

theorem State.flashEnd_within {x2 : Nat} (hm : m < 2) (h : OnlyMast m s0 s) : OnlyMast m s0 (State.flashEnd s m x2) := by
  unfold State.flashEnd
  repeat' with_reducible
    first
    | assumption | apply State.put_within | apply State.setNv_within | apply State.irq_within | apply State.bump_within | apply OnlyMast.of_ite
    | intro _ | apply OnlyMast.of_getD | (apply OnlyMast.of_snd; assumption) | apply foldl_keeps (OnlyMast m s0)
    | simp only [↓OnlyMast.mk_other, ↓id_eq] | split

theorem State.accFlash_within {x2 : Nat} {x3 : Nat} {x4 : Nat} (hm : m < 2) (h : OnlyMast m s0 s) : OnlyMast m s0 (State.accFlash s m x2 x3 x4) := by
  unfold State.accFlash
  repeat' with_reducible
    first
    | assumption | apply State.action_within | apply State.lockv_within | apply State.flashEnd_within | apply State.put_within
    | apply State.nvRequest_within | apply State.setNv_within | apply OnlyMast.of_ite | intro _ | apply OnlyMast.of_getD
    | (apply OnlyMast.of_snd; assumption) | apply foldl_keeps (OnlyMast m s0) | simp only [↓OnlyMast.mk_other, ↓id_eq] | split

theorem State.freeBytes_within {x1 : Nat} (hm : m < 2) (h : OnlyMast m s0 s) : OnlyMast m s0 (State.freeBytes s x1).2 := by
  induction x1 generalizing s with
  | zero => exact h
  | succ _ ih =>
  unfold State.freeBytes
  repeat' with_reducible
    first
    | assumption | apply ih | apply State.free_within | apply OnlyMast.of_ite | intro _ | apply OnlyMast.of_getD
    | (apply OnlyMast.of_snd; assumption) | apply foldl_keeps (OnlyMast m s0) | simp only [↓OnlyMast.mk_other, ↓id_eq] | split

theorem State.flashBuffer_within {x1 : Nat} {x2 : List Nat} (hm : m < 2) (h : OnlyMast m s0 s) : OnlyMast m s0 (State.flashBuffer s x1 x2) := by
  unfold State.flashBuffer
  repeat' with_reducible
    first
    | assumption | apply State.put_within | apply OnlyMast.of_ite | intro _ | apply OnlyMast.of_getD | (apply OnlyMast.of_snd; assumption)
    | apply foldl_keeps (OnlyMast m s0) | simp only [↓OnlyMast.mk_other, ↓id_eq] | split

/-! ## PairBase -/

theorem State.setPair_within {x2 : Pair} (hm : m < 2) (h : OnlyMast m s0 s) : OnlyMast m s0 (State.setPair s m x2) := by
  unfold State.setPair
  repeat' with_reducible
    first
    | assumption | apply State.setMast_within | apply OnlyMast.of_ite | intro _ | apply OnlyMast.of_getD | (apply OnlyMast.of_snd; assumption)
    | apply foldl_keeps (OnlyMast m s0) | simp only [↓OnlyMast.mk_other, ↓id_eq] | split

theorem State.xferDone_within  (hm : m < 2) (h : OnlyMast m s0 s) : OnlyMast m s0 (State.xferDone s m) := by
  unfold State.xferDone
  repeat' with_reducible
    first
    | assumption | apply State.irq_within | apply State.bump_within | apply State.put_within | apply OnlyMast.of_ite | intro _
    | apply OnlyMast.of_getD | (apply OnlyMast.of_snd; assumption) | apply foldl_keeps (OnlyMast m s0) | simp only [↓OnlyMast.mk_other, ↓id_eq]
    | split

/-! ## Reset -/

theorem State.copyFuses_within {x1 : Nat} (hm : m < 2) (h : OnlyMast m s0 s) : OnlyMast m s0 (State.copyFuses s x1) := by
  unfold State.copyFuses
  repeat' with_reducible
    first
    | assumption | apply State.setWord_within | apply OnlyMast.of_ite | intro _ | apply OnlyMast.of_getD | (apply OnlyMast.of_snd; assumption)
    | apply foldl_keeps (OnlyMast m s0) | simp only [↓OnlyMast.mk_other, ↓id_eq] | split

theorem State.tearNv_within  (hm : m < 2) (h : OnlyMast m s0 s) : OnlyMast m s0 (State.tearNv s m) := by
  unfold State.tearNv
  repeat' with_reducible
    first
    | assumption | apply State.ringWrite_within | apply State.freeBytes_within | apply State.setNv_within | apply OnlyMast.of_ite | intro _
    | apply OnlyMast.of_getD | (apply OnlyMast.of_snd; assumption) | apply foldl_keeps (OnlyMast m s0) | simp only [↓OnlyMast.mk_other, ↓id_eq]
    | split

theorem State.trainMast_within {x1 : Nat} (hm : m < 2) (h : OnlyMast m s0 s) : OnlyMast m s0 (State.trainMast s x1) := by
  unfold State.trainMast
  repeat' with_reducible
    first
    | assumption | apply State.setConn_within | apply OnlyMast.of_ite | intro _ | apply OnlyMast.of_getD | (apply OnlyMast.of_snd; assumption)
    | apply foldl_keeps (OnlyMast m s0) | simp only [↓OnlyMast.mk_other, ↓id_eq] | split

/-! ## UpdBase -/

theorem State.setUpd_within {x2 : Upd} (hm : m < 2) (h : OnlyMast m s0 s) : OnlyMast m s0 (State.setUpd s m x2) := by
  unfold State.setUpd
  repeat' with_reducible
    first
    | assumption | apply State.setMast_within | apply OnlyMast.of_ite | intro _ | apply OnlyMast.of_getD | (apply OnlyMast.of_snd; assumption)
    | apply foldl_keeps (OnlyMast m s0) | simp only [↓OnlyMast.mk_other, ↓id_eq] | split

theorem State.updCommit_within {x2 : UpdRec} (hm : m < 2) (h : OnlyMast m s0 s) : OnlyMast m s0 (State.updCommit s m x2) := by
  unfold State.updCommit
  repeat' with_reducible
    first
    | assumption | apply State.updWrite_within | apply State.setNv_within | apply State.nvDone_within | apply OnlyMast.of_ite | intro _
    | apply OnlyMast.of_getD | (apply OnlyMast.of_snd; assumption) | apply foldl_keeps (OnlyMast m s0) | simp only [↓OnlyMast.mk_other, ↓id_eq]
    | split

theorem State.sheetHome_within {x2 : Nat} (hm : m < 2) (h : OnlyMast m s0 s) : OnlyMast m s0 (State.sheetHome s m x2) := by
  unfold State.sheetHome
  repeat' with_reducible
    first
    | assumption | apply State.updWrite_within | apply OnlyMast.of_ite | intro _ | apply OnlyMast.of_getD | (apply OnlyMast.of_snd; assumption)
    | apply foldl_keeps (OnlyMast m s0) | simp only [↓OnlyMast.mk_other, ↓id_eq] | split

theorem State.trialEnds_within {x2 : Nat} (hm : m < 2) (h : OnlyMast m s0 s) : OnlyMast m s0 (State.trialEnds s m x2) := by
  unfold State.trialEnds
  repeat' with_reducible
    first
    | assumption | apply State.bump_within | apply State.updCommit_within | apply State.irq_within | apply State.put_within | apply OnlyMast.of_ite
    | intro _ | apply OnlyMast.of_getD | (apply OnlyMast.of_snd; assumption) | apply foldl_keeps (OnlyMast m s0)
    | simp only [↓OnlyMast.mk_other, ↓id_eq] | split

/-! ## Feeds -/

theorem State.feedSingle_within {x1 : Nat} (hm : m < 2) (h : OnlyMast m s0 s) : OnlyMast m s0 (State.feedSingle s x1) := by
  unfold State.feedSingle
  repeat' with_reducible
    first
    | assumption | apply State.put_within | apply State.bump_within | apply OnlyMast.of_ite | intro _ | apply OnlyMast.of_getD
    | (apply OnlyMast.of_snd; assumption) | apply foldl_keeps (OnlyMast m s0) | simp only [↓OnlyMast.mk_other, ↓id_eq] | split

theorem State.feedEnter_within {x2 : Nat} {x3 : Nat} (hm : m < 2) (h : OnlyMast m s0 s) : OnlyMast m s0 (State.feedEnter s m x2 x3) := by
  unfold State.feedEnter
  repeat' with_reducible
    first
    | assumption | apply State.feedSingle_within | apply State.put_within | apply State.irq_within | apply State.bump_within | apply OnlyMast.of_ite
    | intro _ | apply OnlyMast.of_getD | (apply OnlyMast.of_snd; assumption) | apply foldl_keeps (OnlyMast m s0)
    | simp only [↓OnlyMast.mk_other, ↓id_eq] | split

theorem State.feedSample_within {x2 : Nat} {x3 : Nat} {x4 : Nat} {x5 : Nat} (hm : m < 2) (h : OnlyMast m s0 s) : OnlyMast m s0 (State.feedSample s m x2 x3 x4 x5) := by
  unfold State.feedSample
  repeat' with_reducible
    first
    | assumption | apply State.put_within | apply State.feedEnter_within | apply OnlyMast.of_ite | intro _ | apply OnlyMast.of_getD
    | (apply OnlyMast.of_snd; assumption) | apply foldl_keeps (OnlyMast m s0) | simp only [↓OnlyMast.mk_other, ↓id_eq] | split

/-! ## Timers -/

theorem State.dmaRequest_within {x2 : Nat} {x3 : Bool} (hm : m < 2) (h : OnlyMast m s0 s) : OnlyMast m s0 (State.dmaRequest s m x2 x3) := by
  unfold State.dmaRequest
  repeat' with_reducible
    first
    | assumption | apply State.setMast_within | apply State.bump_within | apply State.emit_within | apply OnlyMast.of_ite | intro _
    | apply OnlyMast.of_getD | (apply OnlyMast.of_snd; assumption) | apply foldl_keeps (OnlyMast m s0) | simp only [↓OnlyMast.mk_other, ↓id_eq]
    | split

theorem State.timerChain_within {x1 : Nat} {x2 : Nat} {x3 : Nat} (hm : m < 2) (h : OnlyMast m s0 s) : OnlyMast m s0 (State.timerChain s x1 x2 x3) := by
  unfold State.timerChain
  repeat' with_reducible
    first
    | assumption | apply State.put_within | apply OnlyMast.of_ite | intro _ | apply OnlyMast.of_getD | (apply OnlyMast.of_snd; assumption)
    | apply foldl_keeps (OnlyMast m s0) | simp only [↓OnlyMast.mk_other, ↓id_eq] | split

theorem State.capTimer_within {x2 : Nat} {x3 : Nat} (hm : m < 2) (h : OnlyMast m s0 s) : OnlyMast m s0 (State.capTimer s m x2 x3) := by
  unfold State.capTimer
  repeat' with_reducible
    first
    | assumption | apply State.put_within | apply State.irq_within | apply OnlyMast.of_ite | intro _ | apply OnlyMast.of_getD
    | (apply OnlyMast.of_snd; assumption) | apply foldl_keeps (OnlyMast m s0) | simp only [↓OnlyMast.mk_other, ↓id_eq] | split

theorem State.timerRead_within {x2 : Nat} {x3 : Nat} {x4 : Nat} {x5 : Bool} {x6 : State → State} (hf6 : ∀ y0, OnlyMast m s0 y0 → OnlyMast m s0 (x6 y0)) (hm : m < 2) (h : OnlyMast m s0 s) : OnlyMast m s0 (State.timerRead s m x2 x3 x4 x5 x6) := by
  unfold State.timerRead
  repeat' with_reducible
    first
    | assumption | apply State.action_within | apply State.sailAction_within | apply hf6 | apply OnlyMast.of_ite | intro _ | apply OnlyMast.of_getD
    | (apply OnlyMast.of_snd; assumption) | apply foldl_keeps (OnlyMast m s0) | simp only [↓OnlyMast.mk_other, ↓id_eq] | split

theorem State.thermTemp_within {x2 : Int} (hm : m < 2) (h : OnlyMast m s0 s) : OnlyMast m s0 (State.thermTemp s m x2) := by
  unfold State.thermTemp
  repeat' with_reducible
    first
    | assumption | apply State.put_within | apply State.irq_within | apply State.setMast_within | apply OnlyMast.of_ite | intro _
    | apply OnlyMast.of_getD | (apply OnlyMast.of_snd; assumption) | apply foldl_keeps (OnlyMast m s0) | simp only [↓OnlyMast.mk_other, ↓id_eq]
    | split

theorem State.thermRails_within {x1 : Nat} {x2 : List Int} (hm : m < 2) (h : OnlyMast m s0 s) : OnlyMast m s0 (State.thermRails s x1 x2) := by
  unfold State.thermRails
  repeat' with_reducible
    first
    | assumption | apply State.put_within | apply OnlyMast.of_ite | intro _ | apply OnlyMast.of_getD | (apply OnlyMast.of_snd; assumption)
    | apply foldl_keeps (OnlyMast m s0) | simp only [↓OnlyMast.mk_other, ↓id_eq] | split

/-! ## Ports -/

theorem State.setPartner_within {x2 : Nat} {x3 : Option Nat} {x4 : Bool} (hm : m < 2) (h : OnlyMast m s0 s) : OnlyMast m s0 (State.setPartner s m x2 x3 x4) := by
  unfold State.setPartner
  repeat' with_reducible
    first
    | assumption | apply State.setEport_within | apply State.put64_within | apply OnlyMast.of_ite | intro _ | apply OnlyMast.of_getD
    | (apply OnlyMast.of_snd; assumption) | apply foldl_keeps (OnlyMast m s0) | simp only [↓OnlyMast.mk_other, ↓id_eq] | split

theorem State.ethCommitted_within {x0 : State} {x3 : Nat} (g0 : OnlyMast m s0 x0) (hm : m < 2) (h : OnlyMast m s0 s) : OnlyMast m s0 (State.ethCommitted x0 s m x3) := by
  unfold State.ethCommitted
  repeat' with_reducible
    first
    | assumption | apply State.setPartner_within | apply OnlyMast.of_ite | intro _ | apply OnlyMast.of_getD | (apply OnlyMast.of_snd; assumption)
    | apply foldl_keeps (OnlyMast m s0) | simp only [↓OnlyMast.mk_other, ↓id_eq] | split

theorem State.setRing_within {x2 : Nat} {x3 : Ring} (hm : m < 2) (h : OnlyMast m s0 s) : OnlyMast m s0 (State.setRing s m x2 x3) := by
  unfold State.setRing
  repeat' with_reducible
    first
    | assumption | apply State.setMast_within | apply State.vecSend_within | apply OnlyMast.of_ite | intro _ | apply OnlyMast.of_getD
    | (apply OnlyMast.of_snd; assumption) | apply foldl_keeps (OnlyMast m s0) | simp only [↓OnlyMast.mk_other, ↓id_eq] | split

theorem State.accTail_within {x2 : Nat} {x3 : Nat} {x4 : Nat} {x5 : Nat} (hm : m < 2) (h : OnlyMast m s0 s) : OnlyMast m s0 (State.accTail s m x2 x3 x4 x5) := by
  unfold State.accTail
  repeat' with_reducible
    first
    | assumption | apply State.action_within | apply State.bump_within | apply State.irq_within | apply State.setRing_within | apply OnlyMast.of_ite
    | intro _ | apply OnlyMast.of_getD | (apply OnlyMast.of_snd; assumption) | apply foldl_keeps (OnlyMast m s0)
    | simp only [↓OnlyMast.mk_other, ↓id_eq] | split

theorem State.accAck_within {x2 : Nat} {x3 : Nat} {x4 : Nat} {x5 : Nat} (hm : m < 2) (h : OnlyMast m s0 s) : OnlyMast m s0 (State.accAck s m x2 x3 x4 x5) := by
  unfold State.accAck
  repeat' with_reducible
    first
    | assumption | apply State.action_within | apply State.setRing_within | apply OnlyMast.of_ite | intro _ | apply OnlyMast.of_getD
    | (apply OnlyMast.of_snd; assumption) | apply foldl_keeps (OnlyMast m s0) | simp only [↓OnlyMast.mk_other, ↓id_eq] | split

theorem State.serveTx_within {x2 : Nat} {x3 : Nat} {x4 : Nat} {x5 : Nat} {x6 : Packet} (hm : m < 2) (h : OnlyMast m s0 s) : OnlyMast m s0 (State.serveTx s m x2 x3 x4 x5 x6) := by
  unfold State.serveTx
  repeat' with_reducible
    first
    | assumption | apply State.setMast_within | apply State.setRing_within | apply State.bump_within | (apply State.allocItem_within; assumption)
    | apply State.setSal_within | apply State.giveHw_within | apply OnlyMast.of_ite | intro _ | apply OnlyMast.of_getD
    | (apply OnlyMast.of_snd; assumption) | apply foldl_keeps (OnlyMast m s0) | simp only [↓OnlyMast.mk_other, ↓id_eq] | split

theorem State.pcieDown_within  (hm : m < 2) (h : OnlyMast m s0 s) : OnlyMast m s0 (State.pcieDown s m) := by
  unfold State.pcieDown
  repeat' with_reducible
    first
    | assumption | apply State.irq_within | apply State.setMast_within | apply OnlyMast.of_ite | intro _ | apply OnlyMast.of_getD
    | (apply OnlyMast.of_snd; assumption) | apply foldl_keeps (OnlyMast m s0) | simp only [↓OnlyMast.mk_other, ↓id_eq] | split

/-! ## Pair -/

theorem State.mismatch_within {x1 : Nat} {x2 : Nat} {x3 : Nat} (hm : m < 2) (h : OnlyMast m s0 s) : OnlyMast m s0 (State.mismatch s x1 x2 x3) := by
  unfold State.mismatch
  repeat' with_reducible
    first
    | assumption | apply State.bump_within | apply State.put_within | apply OnlyMast.of_ite | intro _ | apply OnlyMast.of_getD
    | (apply OnlyMast.of_snd; assumption) | apply foldl_keeps (OnlyMast m s0) | simp only [↓OnlyMast.mk_other, ↓id_eq] | split

theorem State.diverge_within  (hm : m < 2) (h : OnlyMast m s0 s) : OnlyMast m s0 (State.diverge s m) := by
  unfold State.diverge
  repeat' with_reducible
    first
    | assumption | apply State.irq_within | apply State.bump_within | apply State.put_within | apply OnlyMast.of_ite | intro _
    | apply OnlyMast.of_getD | (apply OnlyMast.of_snd; assumption) | apply foldl_keeps (OnlyMast m s0) | simp only [↓OnlyMast.mk_other, ↓id_eq]
    | split

theorem State.juryMismatch_within {x2 : Nat} {x3 : Nat} (hm : m < 2) (h : OnlyMast m s0 s) : OnlyMast m s0 (State.juryMismatch s m x2 x3) := by
  unfold State.juryMismatch
  repeat' with_reducible
    first
    | assumption | apply State.mismatch_within | apply State.setPair_within | apply State.diverge_within | apply OnlyMast.of_ite | intro _
    | apply OnlyMast.of_getD | (apply OnlyMast.of_snd; assumption) | apply foldl_keeps (OnlyMast m s0) | simp only [↓OnlyMast.mk_other, ↓id_eq]
    | split

theorem State.digestNext_within {x2 : SlotDigest} {x3 : List SlotDigest} (hm : m < 2) (h : OnlyMast m s0 s) : OnlyMast m s0 (State.digestNext s m x2 x3) := by
  unfold State.digestNext
  repeat' with_reducible
    first
    | assumption | apply State.setMast_within | apply OnlyMast.of_ite | intro _ | apply OnlyMast.of_getD | (apply OnlyMast.of_snd; assumption)
    | apply foldl_keeps (OnlyMast m s0) | simp only [↓OnlyMast.mk_other, ↓id_eq] | split

theorem State.sramFault_within {x2 : Nat} {x3 : Nat} (hm : m < 2) (h : OnlyMast m s0 s) : OnlyMast m s0 (State.sramFault s m x2 x3) := by
  unfold State.sramFault
  repeat' with_reducible
    first
    | assumption | apply State.selfFaults_within | apply State.irq_within | apply State.bump_within | apply State.put_within
    | apply State.emit_within | apply OnlyMast.of_ite | intro _ | apply OnlyMast.of_getD | (apply OnlyMast.of_snd; assumption)
    | apply foldl_keeps (OnlyMast m s0) | simp only [↓OnlyMast.mk_other, ↓id_eq] | split

theorem State.heardResult_within {x2 : Nat} {x3 : Nat} (hm : m < 2) (h : OnlyMast m s0 s) : OnlyMast m s0 (State.heardResult s m x2 x3) := by
  unfold State.heardResult
  repeat' with_reducible
    first
    | assumption | apply State.mismatch_within | apply State.diverge_within | apply OnlyMast.of_ite | intro _ | apply OnlyMast.of_getD
    | (apply OnlyMast.of_snd; assumption) | apply foldl_keeps (OnlyMast m s0) | simp only [↓OnlyMast.mk_other, ↓id_eq] | split

theorem State.sendLiveness_within  (hm : m < 2) (h : OnlyMast m s0 s) : OnlyMast m s0 (State.sendLiveness s m) := by
  unfold State.sendLiveness
  repeat' with_reducible
    first
    | assumption | apply State.setPair_within | apply State.sendOn_within | apply OnlyMast.of_ite | intro _ | apply OnlyMast.of_getD
    | (apply OnlyMast.of_snd; assumption) | apply foldl_keeps (OnlyMast m s0) | simp only [↓OnlyMast.mk_other, ↓id_eq] | split

theorem State.decideFailover_within  (hm : m < 2) (h : OnlyMast m s0 s) : OnlyMast m s0 (State.decideFailover s m) := by
  unfold State.decideFailover
  repeat' with_reducible
    first
    | assumption | apply State.put_within | apply State.irq_within | apply State.bump_within | apply State.setPair_within | apply OnlyMast.of_ite
    | intro _ | apply OnlyMast.of_getD | (apply OnlyMast.of_snd; assumption) | apply foldl_keeps (OnlyMast m s0)
    | simp only [↓OnlyMast.mk_other, ↓id_eq] | split

theorem State.swapWord_within {x1 : Nat} {x2 : Nat} {x3 : Nat} (hm : m < 2) (h : OnlyMast m s0 s) : OnlyMast m s0 (State.swapWord s x1 x2 x3) := by
  unfold State.swapWord
  repeat' with_reducible
    first
    | assumption | apply State.setWord_within | apply OnlyMast.of_ite | intro _ | apply OnlyMast.of_getD | (apply OnlyMast.of_snd; assumption)
    | apply foldl_keeps (OnlyMast m s0) | simp only [↓OnlyMast.mk_other, ↓id_eq] | split

theorem State.exchange_within  (hm : m < 2) (h : OnlyMast m s0 s) : OnlyMast m s0 (State.exchange s m) := by
  unfold State.exchange
  repeat' with_reducible
    first
    | assumption | apply State.setMast_within | apply State.swapWord_within | apply OnlyMast.of_ite | intro _ | apply OnlyMast.of_getD
    | (apply OnlyMast.of_snd; assumption) | apply foldl_keeps (OnlyMast m s0) | simp only [↓OnlyMast.mk_other, ↓id_eq] | split

theorem State.afterTakeover_within  (hm : m < 2) (h : OnlyMast m s0 s) : OnlyMast m s0 (State.afterTakeover s m) := by
  unfold State.afterTakeover
  repeat' with_reducible
    first
    | assumption | apply State.setMast_within | apply OnlyMast.of_ite | intro _ | apply OnlyMast.of_getD | (apply OnlyMast.of_snd; assumption)
    | apply foldl_keeps (OnlyMast m s0) | simp only [↓OnlyMast.mk_other, ↓id_eq] | split

theorem State.sendTakeover_within {x1 : Nat} (hm : m < 2) (h : OnlyMast m s0 s) : OnlyMast m s0 (State.sendTakeover s x1) := by
  unfold State.sendTakeover
  repeat' with_reducible
    first
    | assumption | apply State.takeoverTo_within | apply OnlyMast.of_ite | intro _ | apply OnlyMast.of_getD | (apply OnlyMast.of_snd; assumption)
    | apply foldl_keeps (OnlyMast m s0) | simp only [↓OnlyMast.mk_other, ↓id_eq] | split

/-! ## Update -/

theorem State.updEnd_within {x2 : Nat} {x3 : Nat} (hm : m < 2) (h : OnlyMast m s0 s) : OnlyMast m s0 (State.updEnd s m x2 x3) := by
  unfold State.updEnd
  repeat' with_reducible
    first
    | assumption | apply State.freeItem_within | apply State.put_within | apply OnlyMast.of_ite | intro _ | apply OnlyMast.of_getD
    | (apply OnlyMast.of_snd; assumption) | apply foldl_keeps (OnlyMast m s0) | simp only [↓OnlyMast.mk_other, ↓id_eq] | split

theorem State.updRefuse_within {x2 : Nat} (hm : m < 2) (h : OnlyMast m s0 s) : OnlyMast m s0 (State.updRefuse s m x2) := by
  unfold State.updRefuse
  repeat' with_reducible
    first
    | assumption | apply State.irq_within | apply State.bump_within | apply State.put_within | apply OnlyMast.of_ite | intro _
    | apply OnlyMast.of_getD | (apply OnlyMast.of_snd; assumption) | apply foldl_keeps (OnlyMast m s0) | simp only [↓OnlyMast.mk_other, ↓id_eq]
    | split

theorem State.updBegin_within  (hm : m < 2) (h : OnlyMast m s0 s) : OnlyMast m s0 (State.updBegin s m) := by
  unfold State.updBegin
  repeat' with_reducible
    first
    | assumption | apply State.freeItem_within | apply State.updRefuse_within | apply State.updEnd_within | apply State.put_within
    | apply State.nvRequest_within | apply State.setNv_within | apply State.setUpd_within | apply OnlyMast.of_ite | intro _ | apply OnlyMast.of_getD
    | (apply OnlyMast.of_snd; assumption) | apply foldl_keeps (OnlyMast m s0) | simp only [↓OnlyMast.mk_other, ↓id_eq] | split

theorem State.updChunk_within  (hm : m < 2) (h : OnlyMast m s0 s) : OnlyMast m s0 (State.updChunk s m) := by
  unfold State.updChunk
  repeat' with_reducible
    first
    | assumption | apply State.freeItem_within | apply State.updRefuse_within | apply State.updEnd_within | apply State.bump_within
    | apply State.put_within | apply State.setUpd_within | apply State.nvRequest_within | apply OnlyMast.of_ite | intro _ | apply OnlyMast.of_getD
    | (apply OnlyMast.of_snd; assumption) | apply foldl_keeps (OnlyMast m s0) | simp only [↓OnlyMast.mk_other, ↓id_eq] | split

theorem State.updProgrammed_within  (hm : m < 2) (h : OnlyMast m s0 s) : OnlyMast m s0 (State.updProgrammed s m) := by
  unfold State.updProgrammed
  repeat' with_reducible
    first
    | assumption | apply State.setNv_within | apply State.updEnd_within | apply State.bump_within | apply State.setUpd_within | apply OnlyMast.of_ite
    | intro _ | apply OnlyMast.of_getD | (apply OnlyMast.of_snd; assumption) | apply foldl_keeps (OnlyMast m s0)
    | simp only [↓OnlyMast.mk_other, ↓id_eq] | split

theorem State.updVerify_within  (hm : m < 2) (h : OnlyMast m s0 s) : OnlyMast m s0 (State.updVerify s m) := by
  unfold State.updVerify
  repeat' with_reducible
    first
    | assumption | apply State.updRefuse_within | apply State.put_within | apply State.setUpd_within | apply OnlyMast.of_ite | intro _
    | apply OnlyMast.of_getD | (apply OnlyMast.of_snd; assumption) | apply foldl_keeps (OnlyMast m s0) | simp only [↓OnlyMast.mk_other, ↓id_eq]
    | split

theorem State.updActivate_within  (hm : m < 2) (h : OnlyMast m s0 s) : OnlyMast m s0 (State.updActivate s m) := by
  unfold State.updActivate
  repeat' with_reducible
    first
    | assumption | apply State.updRefuse_within | apply State.put_within | apply State.bump_within | apply State.setUpd_within
    | apply OnlyMast.of_ite | intro _ | apply OnlyMast.of_getD | (apply OnlyMast.of_snd; assumption) | apply foldl_keeps (OnlyMast m s0)
    | simp only [↓OnlyMast.mk_other, ↓id_eq] | split

theorem State.updDrop_within  (hm : m < 2) (h : OnlyMast m s0 s) : OnlyMast m s0 (State.updDrop s m) := by
  unfold State.updDrop
  repeat' with_reducible
    first
    | assumption | apply State.irq_within | apply State.updWrite_within | apply State.setUpd_within | apply OnlyMast.of_ite | intro _
    | apply OnlyMast.of_getD | (apply OnlyMast.of_snd; assumption) | apply foldl_keeps (OnlyMast m s0) | simp only [↓OnlyMast.mk_other, ↓id_eq]
    | split

theorem State.blowPending_within  (hm : m < 2) (h : OnlyMast m s0 s) : OnlyMast m s0 (State.blowPending s m) := by
  unfold State.blowPending
  repeat' with_reducible
    first
    | assumption | apply State.put_within | apply State.updWrite_within | apply State.setMast_within | apply OnlyMast.of_ite | intro _
    | apply OnlyMast.of_getD | (apply OnlyMast.of_snd; assumption) | apply foldl_keeps (OnlyMast m s0) | simp only [↓OnlyMast.mk_other, ↓id_eq]
    | split

/-! ## Campaign -/

theorem State.campWrite_within  (hm : m < 2) (h : OnlyMast m s0 s) : OnlyMast m s0 (State.campWrite s m) := by
  unfold State.campWrite
  repeat' with_reducible
    first
    | assumption | apply State.nvStart_within | apply State.output_within | apply State.setNv_within | apply OnlyMast.of_ite | intro _
    | apply OnlyMast.of_getD | (apply OnlyMast.of_snd; assumption) | apply foldl_keeps (OnlyMast m s0) | simp only [↓OnlyMast.mk_other, ↓id_eq]
    | split

theorem State.campEnter_within {x2 : Nat} (hm : m < 2) (h : OnlyMast m s0 s) : OnlyMast m s0 (State.campEnter s m x2) := by
  unfold State.campEnter
  repeat' with_reducible
    first
    | assumption | apply State.campWrite_within | apply State.put_within | apply OnlyMast.of_ite | intro _ | apply OnlyMast.of_getD
    | (apply OnlyMast.of_snd; assumption) | apply foldl_keeps (OnlyMast m s0) | simp only [↓OnlyMast.mk_other, ↓id_eq] | split

theorem State.campEnd_within {x1 : Nat} {x2 : Nat} (hm : m < 2) (h : OnlyMast m s0 s) : OnlyMast m s0 (State.campEnd s x1 x2) := by
  unfold State.campEnd
  repeat' with_reducible
    first
    | assumption | apply State.put_within | apply OnlyMast.of_ite | intro _ | apply OnlyMast.of_getD | (apply OnlyMast.of_snd; assumption)
    | apply foldl_keeps (OnlyMast m s0) | simp only [↓OnlyMast.mk_other, ↓id_eq] | split

theorem State.imgBegin_within  (hm : m < 2) (h : OnlyMast m s0 s) : OnlyMast m s0 (State.imgBegin s m) := by
  unfold State.imgBegin
  repeat' with_reducible
    first
    | assumption | apply State.campEnd_within | apply State.setNv_within | apply State.nvRequest_within | apply State.setCamp_within
    | apply State.campWrite_within | apply State.put_within | apply OnlyMast.of_ite | intro _ | apply OnlyMast.of_getD
    | (apply OnlyMast.of_snd; assumption) | apply foldl_keeps (OnlyMast m s0) | simp only [↓OnlyMast.mk_other, ↓id_eq] | split

theorem State.imgChunk_within  (hm : m < 2) (h : OnlyMast m s0 s) : OnlyMast m s0 (State.imgChunk s m) := by
  unfold State.imgChunk
  repeat' with_reducible
    first
    | assumption | apply State.freeItem_within | apply State.campEnd_within | apply State.setCamp_within | apply State.nvRequest_within
    | apply OnlyMast.of_ite | intro _ | apply OnlyMast.of_getD | (apply OnlyMast.of_snd; assumption) | apply foldl_keeps (OnlyMast m s0)
    | simp only [↓OnlyMast.mk_other, ↓id_eq] | split

theorem State.imgProgrammed_within  (hm : m < 2) (h : OnlyMast m s0 s) : OnlyMast m s0 (State.imgProgrammed s m) := by
  unfold State.imgProgrammed
  repeat' with_reducible
    first
    | assumption | apply State.setNv_within | apply State.setCamp_within | apply State.campWrite_within | apply State.freeItem_within
    | apply State.campEnd_within | apply OnlyMast.of_ite | intro _ | apply OnlyMast.of_getD | (apply OnlyMast.of_snd; assumption)
    | apply foldl_keeps (OnlyMast m s0) | simp only [↓OnlyMast.mk_other, ↓id_eq] | split

theorem State.imgVerify_within  (hm : m < 2) (h : OnlyMast m s0 s) : OnlyMast m s0 (State.imgVerify s m) := by
  unfold State.imgVerify
  repeat' with_reducible
    first
    | assumption | apply State.campEnd_within | apply State.setCamp_within | apply OnlyMast.of_ite | intro _ | apply OnlyMast.of_getD
    | (apply OnlyMast.of_snd; assumption) | apply foldl_keeps (OnlyMast m s0) | simp only [↓OnlyMast.mk_other, ↓id_eq] | split

theorem State.waveAdd_within  (hm : m < 2) (h : OnlyMast m s0 s) : OnlyMast m s0 (State.waveAdd s m) := by
  unfold State.waveAdd
  repeat' with_reducible
    first
    | assumption | apply State.campEnd_within | apply State.setCampOf_within | apply State.setCamp_within | apply OnlyMast.of_ite | intro _
    | apply OnlyMast.of_getD | (apply OnlyMast.of_snd; assumption) | apply foldl_keeps (OnlyMast m s0) | simp only [↓OnlyMast.mk_other, ↓id_eq]
    | split

theorem State.offer_within {x2 : Nat} (hm : m < 2) (h : OnlyMast m s0 s) : OnlyMast m s0 (State.offer s m x2) := by
  unfold State.offer
  repeat' with_reducible
    first
    | assumption | apply State.campFrame_within | apply OnlyMast.of_ite | intro _ | apply OnlyMast.of_getD | (apply OnlyMast.of_snd; assumption)
    | apply foldl_keeps (OnlyMast m s0) | simp only [↓OnlyMast.mk_other, ↓id_eq] | split

theorem State.waveGo_within  (hm : m < 2) (h : OnlyMast m s0 s) : OnlyMast m s0 (State.waveGo s m) := by
  unfold State.waveGo
  repeat' with_reducible
    first
    | assumption | apply State.campEnd_within | apply State.put_within | apply State.setCamp_within | apply State.offer_within
    | apply State.campEnter_within | apply OnlyMast.of_ite | intro _ | apply OnlyMast.of_getD | (apply OnlyMast.of_snd; assumption)
    | apply foldl_keeps (OnlyMast m s0) | simp only [↓OnlyMast.mk_other, ↓id_eq] | split

theorem State.waveClose_within  (hm : m < 2) (h : OnlyMast m s0 s) : OnlyMast m s0 (State.waveClose s m) := by
  unfold State.waveClose
  repeat' with_reducible
    first
    | assumption | apply State.setCampOf_within | apply State.setCamp_within | apply OnlyMast.of_ite | intro _ | apply OnlyMast.of_getD
    | (apply OnlyMast.of_snd; assumption) | apply foldl_keeps (OnlyMast m s0) | simp only [↓OnlyMast.mk_other, ↓id_eq] | split

theorem State.campPause_within  (hm : m < 2) (h : OnlyMast m s0 s) : OnlyMast m s0 (State.campPause s m) := by
  unfold State.campPause
  repeat' with_reducible
    first
    | assumption | apply State.campEnd_within | apply State.campEnter_within | apply State.setCamp_within | apply OnlyMast.of_ite | intro _
    | apply OnlyMast.of_getD | (apply OnlyMast.of_snd; assumption) | apply foldl_keeps (OnlyMast m s0) | simp only [↓OnlyMast.mk_other, ↓id_eq]
    | split

theorem State.campResume_within  (hm : m < 2) (h : OnlyMast m s0 s) : OnlyMast m s0 (State.campResume s m) := by
  unfold State.campResume
  repeat' with_reducible
    first
    | assumption | apply State.campEnd_within | apply State.campEnter_within | apply OnlyMast.of_ite | intro _ | apply OnlyMast.of_getD
    | (apply OnlyMast.of_snd; assumption) | apply foldl_keeps (OnlyMast m s0) | simp only [↓OnlyMast.mk_other, ↓id_eq] | split

theorem State.campAbort_within  (hm : m < 2) (h : OnlyMast m s0 s) : OnlyMast m s0 (State.campAbort s m) := by
  unfold State.campAbort
  repeat' with_reducible
    first
    | assumption | apply State.campEnd_within | apply State.campEnter_within | apply State.waveClose_within | apply OnlyMast.of_ite | intro _
    | apply OnlyMast.of_getD | (apply OnlyMast.of_snd; assumption) | apply foldl_keeps (OnlyMast m s0) | simp only [↓OnlyMast.mk_other, ↓id_eq]
    | split

theorem State.accCampaign_within {x2 : Nat} {x3 : Nat} {x4 : Nat} (hm : m < 2) (h : OnlyMast m s0 s) : OnlyMast m s0 (State.accCampaign s m x2 x3 x4) := by
  unfold State.accCampaign
  repeat' with_reducible
    first
    | assumption | apply State.action_within | apply State.lockv_within | apply State.imgBegin_within | apply State.imgChunk_within
    | apply State.imgVerify_within | apply State.waveAdd_within | apply State.waveGo_within | apply State.campPause_within
    | apply State.campResume_within | apply State.campAbort_within | apply OnlyMast.of_ite | intro _ | apply OnlyMast.of_getD
    | (apply OnlyMast.of_snd; assumption) | apply foldl_keeps (OnlyMast m s0) | simp only [↓OnlyMast.mk_other, ↓id_eq] | split

theorem State.groupLocked_within  (hm : m < 2) (h : OnlyMast m s0 s) : OnlyMast m s0 (State.groupLocked s m) := by
  unfold State.groupLocked
  repeat' with_reducible
    first
    | assumption | apply State.setCampOf_within | apply State.setCamp_within | apply State.offer_within | apply OnlyMast.of_ite | intro _
    | apply OnlyMast.of_getD | (apply OnlyMast.of_snd; assumption) | apply foldl_keeps (OnlyMast m s0) | simp only [↓OnlyMast.mk_other, ↓id_eq]
    | split

theorem State.nodeReverted_within {x2 : Nat} (hm : m < 2) (h : OnlyMast m s0 s) : OnlyMast m s0 (State.nodeReverted s m x2) := by
  unfold State.nodeReverted
  repeat' with_reducible
    first
    | assumption | apply State.event_within | apply State.irq_within | apply State.bump_within | apply State.setCampOf_within | apply OnlyMast.of_ite
    | intro _ | apply OnlyMast.of_getD | (apply OnlyMast.of_snd; assumption) | apply foldl_keeps (OnlyMast m s0)
    | simp only [↓OnlyMast.mk_other, ↓id_eq] | split

theorem State.report_within {x2 : Nat} {x3 : List Nat} (hm : m < 2) (h : OnlyMast m s0 s) : OnlyMast m s0 (State.report s m x2 x3) := by
  unfold State.report
  repeat' with_reducible
    first
    | assumption | apply State.bump_within | apply State.setCampOf_within | apply State.setCamp_within | apply State.setMissing_within
    | apply State.straggle_within | apply State.irq_within | apply State.nodeReverted_within | apply OnlyMast.of_ite | intro _
    | apply OnlyMast.of_getD | (apply OnlyMast.of_snd; assumption) | apply foldl_keeps (OnlyMast m s0) | simp only [↓OnlyMast.mk_other, ↓id_eq]
    | split

theorem State.campGive_within {x2 : Nat} {x3 : Nat} {x4 : Frame} {y} (e : State.campGive s m x2 x3 x4 = some (y, t)) (hm : m < 2) (h : OnlyMast m s0 s) : OnlyMast m s0 t := by
  unfold State.campGive at e
  try dsimp only at e
  repeat' split at e
  all_goals first | cases e | skip
  all_goals try simp only [Option.some.injEq, Prod.mk.injEq] at e
  all_goals try obtain ⟨rfl, rfl⟩ := e
  all_goals try simp only [Option.map_eq_some_iff] at e
  all_goals try obtain ⟨_, e, rfl⟩ := e
  all_goals repeat' with_reducible
    first
    | assumption | (apply State.allocItem_within; assumption) | apply State.engineNext_within | apply State.engineAdmitted_within
    | apply State.setItemBody_within | apply OnlyMast.of_ite | intro _ | apply OnlyMast.of_getD | (apply OnlyMast.of_snd; assumption)
    | apply foldl_keeps (OnlyMast m s0) | simp only [↓OnlyMast.mk_other, ↓id_eq] | split

theorem State.campTake_within {x2 : CampFrame} {x3 : Nat} (hm : m < 2) (h : OnlyMast m s0 s) : OnlyMast m s0 (State.campTake s m x2 x3) := by
  unfold State.campTake
  repeat' with_reducible
    first
    | assumption | apply State.setCamp_within | apply OnlyMast.of_ite | intro _ | apply OnlyMast.of_getD | (apply OnlyMast.of_snd; assumption)
    | apply foldl_keeps (OnlyMast m s0) | simp only [↓OnlyMast.mk_other, ↓id_eq] | split

theorem State.campDrop_within {x2 : CampFrame} (hm : m < 2) (h : OnlyMast m s0 s) : OnlyMast m s0 (State.campDrop s m x2) := by
  unfold State.campDrop
  repeat' with_reducible
    first
    | assumption | apply State.campLeft_within | apply State.campTake_within | apply OnlyMast.of_ite | intro _ | apply OnlyMast.of_getD
    | (apply OnlyMast.of_snd; assumption) | apply foldl_keeps (OnlyMast m s0) | simp only [↓OnlyMast.mk_other, ↓id_eq] | split

theorem State.campUnicast_within {x2 : CampFrame} (hm : m < 2) (h : OnlyMast m s0 s) : OnlyMast m s0 (State.campUnicast s m x2) := by
  unfold State.campUnicast
  repeat' with_reducible
    first
    | assumption | apply State.nodeKey_within | apply State.campDrop_within | apply State.fcExhausted_within | apply State.engineWaits_within
    | apply State.fcReserve_within | apply State.free_within | (apply State.campGive_within; assumption) | apply State.fcTaken_within
    | apply State.setLink_within | apply State.campTake_within | apply State.bump_within | apply OnlyMast.of_ite | intro _ | apply OnlyMast.of_getD
    | (apply OnlyMast.of_snd; assumption) | apply foldl_keeps (OnlyMast m s0) | simp only [↓OnlyMast.mk_other, ↓id_eq] | split

theorem State.mcPop_within {x2 : Nat} (hm : m < 2) (h : OnlyMast m s0 s) : OnlyMast m s0 (State.mcPop s m x2) := by
  unfold State.mcPop
  repeat' with_reducible
    first
    | assumption | apply State.setCamp_within | apply OnlyMast.of_ite | intro _ | apply OnlyMast.of_getD | (apply OnlyMast.of_snd; assumption)
    | apply foldl_keeps (OnlyMast m s0) | simp only [↓OnlyMast.mk_other, ↓id_eq] | split

theorem State.campMulticast_within {x2 : Nat} {x3 : Nat} {x4 : Nat} (hm : m < 2) (h : OnlyMast m s0 s) : OnlyMast m s0 (State.campMulticast s m x2 x3 x4) := by
  unfold State.campMulticast
  repeat' with_reducible
    first
    | assumption | apply State.groupKey_within | apply State.mcPop_within | apply State.fcExhausted_within | apply State.engineWaits_within
    | apply State.fcReserve_within | apply State.free_within | (apply State.campGive_within; assumption) | apply State.fcTaken_within
    | apply State.put_within | apply State.bump_within | apply OnlyMast.of_ite | intro _ | apply OnlyMast.of_getD
    | (apply OnlyMast.of_snd; assumption) | apply foldl_keeps (OnlyMast m s0) | simp only [↓OnlyMast.mk_other, ↓id_eq] | split

/-! ## Boot -/

theorem State.chipWords_within {x1 : Nat} (hm : m < 2) (h : OnlyMast m s0 s) : OnlyMast m s0 (State.chipWords s x1) := by
  unfold State.chipWords
  repeat' with_reducible
    first
    | assumption | apply State.put_within | apply OnlyMast.of_ite | intro _ | apply OnlyMast.of_getD | (apply OnlyMast.of_snd; assumption)
    | apply foldl_keeps (OnlyMast m s0) | simp only [↓OnlyMast.mk_other, ↓id_eq] | split

theorem State.powerMast_within {x2 : Nat} (hm : m < 2) (h : OnlyMast m s0 s) : OnlyMast m s0 (State.powerMast s m x2) := by
  unfold State.powerMast
  repeat' with_reducible
    first
    | assumption | apply State.tamperShow_within | apply State.chipWords_within | apply State.setMast_within | apply State.put_within
    | apply OnlyMast.of_ite | intro _ | apply OnlyMast.of_getD | (apply OnlyMast.of_snd; assumption) | apply foldl_keeps (OnlyMast m s0)
    | simp only [↓OnlyMast.mk_other, ↓id_eq] | split

theorem State.recovery_within {x1 : Nat} {x2 : Nat} (hm : m < 2) (h : OnlyMast m s0 s) : OnlyMast m s0 (State.recovery s x1 x2) := by
  unfold State.recovery
  repeat' with_reducible
    first
    | assumption | apply State.put_within | apply OnlyMast.of_ite | intro _ | apply OnlyMast.of_getD | (apply OnlyMast.of_snd; assumption)
    | apply foldl_keeps (OnlyMast m s0) | simp only [↓OnlyMast.mk_other, ↓id_eq] | split

theorem State.nvShow_within  (hm : m < 2) (h : OnlyMast m s0 s) : OnlyMast m s0 (State.nvShow s m) := by
  unfold State.nvShow
  repeat' with_reducible
    first
    | assumption | apply State.put_within | apply State.irq_within | apply State.bump_within | apply OnlyMast.of_ite | intro _
    | apply OnlyMast.of_getD | (apply OnlyMast.of_snd; assumption) | apply foldl_keeps (OnlyMast m s0) | simp only [↓OnlyMast.mk_other, ↓id_eq]
    | split

theorem State.ringRestore_within  (hm : m < 2) (h : OnlyMast m s0 s) : OnlyMast m s0 (State.ringRestore s m) := by
  unfold State.ringRestore
  repeat' with_reducible
    first
    | assumption | apply State.setNv_within | apply State.setMac_within | apply State.output_within | apply State.nvRequest_within
    | apply OnlyMast.of_ite | intro _ | apply OnlyMast.of_getD | (apply OnlyMast.of_snd; assumption) | apply foldl_keeps (OnlyMast m s0)
    | simp only [↓OnlyMast.mk_other, ↓id_eq] | split

theorem State.ckptEntry_within {x2 : CkptEntry} (hm : m < 2) (h : OnlyMast m s0 s) : OnlyMast m s0 (State.ckptEntry s m x2) := by
  unfold State.ckptEntry
  repeat' with_reducible
    first
    | assumption | apply State.bump_within | apply State.setMast_within | apply State.setNt_within | apply State.insert_within
    | apply OnlyMast.of_ite | intro _ | apply OnlyMast.of_getD | (apply OnlyMast.of_snd; assumption) | apply foldl_keeps (OnlyMast m s0)
    | simp only [↓OnlyMast.mk_other, ↓id_eq] | split

theorem State.ckptRestore_within  (hm : m < 2) (h : OnlyMast m s0 s) : OnlyMast m s0 (State.ckptRestore s m) := by
  unfold State.ckptRestore
  repeat' with_reducible
    first
    | assumption | apply State.ckptEntry_within | apply State.put64_within | apply OnlyMast.of_ite | intro _ | apply OnlyMast.of_getD
    | (apply OnlyMast.of_snd; assumption) | apply foldl_keeps (OnlyMast m s0) | simp only [↓OnlyMast.mk_other, ↓id_eq] | split

theorem State.loadWords_within {x1 : Nat} {x2 : Tbl (BitVec 32)} (hm : m < 2) (h : OnlyMast m s0 s) : OnlyMast m s0 (State.loadWords s x1 x2) := by
  unfold State.loadWords
  repeat' with_reducible
    first
    | assumption | apply State.setWord_within | apply OnlyMast.of_ite | intro _ | apply OnlyMast.of_getD | (apply OnlyMast.of_snd; assumption)
    | apply foldl_keeps (OnlyMast m s0) | simp only [↓OnlyMast.mk_other, ↓id_eq] | split

theorem State.campRestore_within  (hm : m < 2) (h : OnlyMast m s0 s) : OnlyMast m s0 (State.campRestore s m) := by
  unfold State.campRestore
  repeat' with_reducible
    first
    | assumption | apply State.put_within | apply State.loadWords_within | apply State.setCampOf_within | apply State.setCamp_within
    | apply State.offer_within | apply OnlyMast.of_ite | intro _ | apply OnlyMast.of_getD | (apply OnlyMast.of_snd; assumption)
    | apply foldl_keeps (OnlyMast m s0) | simp only [↓OnlyMast.mk_other, ↓id_eq] | split

theorem State.trainNew_within {x1 : Nat} (hm : m < 2) (h : OnlyMast m s0 s) : OnlyMast m s0 (State.trainNew s x1) := by
  unfold State.trainNew
  repeat' with_reducible
    first
    | assumption | apply State.setConn_within | apply OnlyMast.of_ite | intro _ | apply OnlyMast.of_getD | (apply OnlyMast.of_snd; assumption)
    | apply foldl_keeps (OnlyMast m s0) | simp only [↓OnlyMast.mk_other, ↓id_eq] | split

theorem State.accWdtKick_within {x2 : Nat} {x3 : Nat} {x4 : Nat} (hm : m < 2) (h : OnlyMast m s0 s) : OnlyMast m s0 (State.accWdtKick s m x2 x3 x4) := by
  unfold State.accWdtKick
  repeat' with_reducible
    first
    | assumption | apply State.action_within | apply State.setMast_within | apply OnlyMast.of_ite | intro _ | apply OnlyMast.of_getD
    | (apply OnlyMast.of_snd; assumption) | apply foldl_keeps (OnlyMast m s0) | simp only [↓OnlyMast.mk_other, ↓id_eq] | split

theorem State.tmrWrite_within {x2 : Nat} {x3 : Word} (hm : m < 2) (h : OnlyMast m s0 s) : OnlyMast m s0 (State.tmrWrite s m x2 x3) := by
  unfold State.tmrWrite
  repeat' with_reducible
    first
    | assumption | apply State.setKeys_within | apply State.setWord_within | apply OnlyMast.of_ite | intro _ | apply OnlyMast.of_getD
    | (apply OnlyMast.of_snd; assumption) | apply foldl_keeps (OnlyMast m s0) | simp only [↓OnlyMast.mk_other, ↓id_eq] | split

theorem State.scrubWord_within {x2 : Upset} (hm : m < 2) (h : OnlyMast m s0 s) : OnlyMast m s0 (State.scrubWord s m x2) := by
  unfold State.scrubWord
  repeat' with_reducible
    first
    | assumption | apply State.count_within | apply State.tmrWrite_within | apply OnlyMast.of_ite | intro _ | apply OnlyMast.of_getD
    | (apply OnlyMast.of_snd; assumption) | apply foldl_keeps (OnlyMast m s0) | simp only [↓OnlyMast.mk_other, ↓id_eq] | split

end Sys2Proof.Machine
end

