-- ==== Sys2Proof/Laws/WithinAccess.lean ====
section
/-! SUPPORT. What stays within mast `m`: one lemma for each operation that acts on one mast alone (OnlyMast), of Commit, FarBase, Access, Far, Tick, JuryMgmt. -/

namespace Sys2Proof.Machine

variable {m : Nat} {s0 s t : State}

/-! ## Commit -/

theorem State.applyWords_within {x1 : Nat} {x2 : Nat} (hm : m < 2) (h : OnlyMast m s0 s) : OnlyMast m s0 (State.applyWords s x1 x2) := by
  unfold State.applyWords
  repeat' with_reducible
    first
    | assumption | apply State.setWord_within | apply OnlyMast.of_ite | intro _ | apply OnlyMast.of_getD | (apply OnlyMast.of_snd; assumption)
    | apply foldl_keeps (OnlyMast m s0) | simp only [↓OnlyMast.mk_other, ↓id_eq] | split

theorem State.refusePage_within {x2 : Nat} (hm : m < 2) (h : OnlyMast m s0 s) : OnlyMast m s0 (State.refusePage s m x2) := by
  unfold State.refusePage
  repeat' with_reducible
    first
    | assumption | apply State.irq_within | apply State.bump_within | apply State.setBit_within | apply OnlyMast.of_ite | intro _
    | apply OnlyMast.of_getD | (apply OnlyMast.of_snd; assumption) | apply foldl_keeps (OnlyMast m s0) | simp only [↓OnlyMast.mk_other, ↓id_eq]
    | split

theorem State.passPage_within {x1 : Nat} {x2 : Nat} (hm : m < 2) (h : OnlyMast m s0 s) : OnlyMast m s0 (State.passPage s x1 x2) := by
  unfold State.passPage
  repeat' with_reducible
    first
    | assumption | apply State.setWord_within | apply OnlyMast.of_ite | intro _ | apply OnlyMast.of_getD | (apply OnlyMast.of_snd; assumption)
    | apply foldl_keeps (OnlyMast m s0) | simp only [↓OnlyMast.mk_other, ↓id_eq] | split

theorem State.placeChannels_within  (hm : m < 2) (h : OnlyMast m s0 s) : OnlyMast m s0 (State.placeChannels s m) := by
  unfold State.placeChannels
  repeat' with_reducible
    first
    | assumption | apply State.setMac_within | apply OnlyMast.of_ite | intro _ | apply OnlyMast.of_getD | (apply OnlyMast.of_snd; assumption)
    | apply foldl_keeps (OnlyMast m s0) | simp only [↓OnlyMast.mk_other, ↓id_eq] | split

theorem State.timingClamp_within {x1 : Nat} (hm : m < 2) (h : OnlyMast m s0 s) : OnlyMast m s0 (State.timingClamp s x1) := by
  unfold State.timingClamp
  repeat' with_reducible
    first
    | assumption | apply State.setBit_within | apply OnlyMast.of_ite | intro _ | apply OnlyMast.of_getD | (apply OnlyMast.of_snd; assumption)
    | apply foldl_keeps (OnlyMast m s0) | simp only [↓OnlyMast.mk_other, ↓id_eq] | split

theorem State.spiClamp_within {x1 : Nat} (hm : m < 2) (h : OnlyMast m s0 s) : OnlyMast m s0 (State.spiClamp s x1) := by
  unfold State.spiClamp
  repeat' with_reducible
    first
    | assumption | apply State.setBit_within | apply OnlyMast.of_ite | intro _ | apply OnlyMast.of_getD | (apply OnlyMast.of_snd; assumption)
    | apply foldl_keeps (OnlyMast m s0) | simp only [↓OnlyMast.mk_other, ↓id_eq] | split

theorem State.engineChanged_within {x0 : State} (g0 : OnlyMast m s0 x0) (hm : m < 2) (h : OnlyMast m s0 s) : OnlyMast m s0 (State.engineChanged x0 s m) := by
  unfold State.engineChanged
  repeat' with_reducible
    first
    | assumption | apply State.setHal_within | apply State.irq_within | apply State.count_within | apply OnlyMast.of_ite | intro _
    | apply OnlyMast.of_getD | (apply OnlyMast.of_snd; assumption) | apply foldl_keeps (OnlyMast m s0) | simp only [↓OnlyMast.mk_other, ↓id_eq]
    | split

theorem State.copyPage_within {x1 : Nat} {x2 : Nat} {x3 : Nat} (hm : m < 2) (h : OnlyMast m s0 s) : OnlyMast m s0 (State.copyPage s x1 x2 x3) := by
  unfold State.copyPage
  repeat' with_reducible
    first
    | assumption | apply State.setWord_within | apply State.put_within | apply OnlyMast.of_ite | intro _ | apply OnlyMast.of_getD
    | (apply OnlyMast.of_snd; assumption) | apply foldl_keeps (OnlyMast m s0) | simp only [↓OnlyMast.mk_other, ↓id_eq] | split

theorem State.copySnap_within {x1 : Nat} {x2 : Nat} (hm : m < 2) (h : OnlyMast m s0 s) : OnlyMast m s0 (State.copySnap s x1 x2) := by
  unfold State.copySnap
  repeat' with_reducible
    first
    | assumption | apply State.copyPage_within | apply OnlyMast.of_ite | intro _ | apply OnlyMast.of_getD | (apply OnlyMast.of_snd; assumption)
    | apply foldl_keeps (OnlyMast m s0) | simp only [↓OnlyMast.mk_other, ↓id_eq] | split

theorem State.snapItem_within {x2 : Nat} {x3 : Nat} (hm : m < 2) (h : OnlyMast m s0 s) : OnlyMast m s0 (State.snapItem s m x2 x3) := by
  unfold State.snapItem
  repeat' with_reducible
    first
    | assumption | apply State.bump_within | apply State.setSal_within | apply State.enqueueAs_within | apply OnlyMast.of_ite | intro _
    | apply OnlyMast.of_getD | (apply OnlyMast.of_snd; assumption) | apply foldl_keeps (OnlyMast m s0) | simp only [↓OnlyMast.mk_other, ↓id_eq]
    | split

theorem State.setRuns_within {x2 : List CommitRun} (hm : m < 2) (h : OnlyMast m s0 s) : OnlyMast m s0 (State.setRuns s m x2) := by
  unfold State.setRuns
  repeat' with_reducible
    first
    | assumption | apply State.setMast_within | apply OnlyMast.of_ite | intro _ | apply OnlyMast.of_getD | (apply OnlyMast.of_snd; assumption)
    | apply foldl_keeps (OnlyMast m s0) | simp only [↓OnlyMast.mk_other, ↓id_eq] | split

theorem State.endRuns_within  (hm : m < 2) (h : OnlyMast m s0 s) : OnlyMast m s0 (State.endRuns s m) := by
  unfold State.endRuns
  repeat' with_reducible
    first
    | assumption | apply State.setRuns_within | apply State.irq_within | apply OnlyMast.of_ite | intro _ | apply OnlyMast.of_getD
    | (apply OnlyMast.of_snd; assumption) | apply foldl_keeps (OnlyMast m s0) | simp only [↓OnlyMast.mk_other, ↓id_eq] | split

theorem State.sendCommit_within {x2 : CommitRun} {x3 : Nat} (hm : m < 2) (h : OnlyMast m s0 s) : OnlyMast m s0 (State.sendCommit s m x2 x3) := by
  unfold State.sendCommit
  repeat' with_reducible
    first
    | assumption | apply State.toSail_within | apply State.sendOn_within | apply OnlyMast.of_ite | intro _ | apply OnlyMast.of_getD
    | (apply OnlyMast.of_snd; assumption) | apply foldl_keeps (OnlyMast m s0) | simp only [↓OnlyMast.mk_other, ↓id_eq] | split

theorem State.launchRun_within {x2 : CommitRun} {x3 : Nat} (hm : m < 2) (h : OnlyMast m s0 s) : OnlyMast m s0 (State.launchRun s m x2 x3) := by
  unfold State.launchRun
  repeat' with_reducible
    first
    | assumption | apply State.setRuns_within | apply State.sendCommit_within | apply State.put64_within | apply OnlyMast.of_ite | intro _
    | apply OnlyMast.of_getD | (apply OnlyMast.of_snd; assumption) | apply foldl_keeps (OnlyMast m s0) | simp only [↓OnlyMast.mk_other, ↓id_eq]
    | split

theorem State.sendRuns_within  (hm : m < 2) (h : OnlyMast m s0 s) : OnlyMast m s0 (State.sendRuns s m) := by
  unfold State.sendRuns
  repeat' with_reducible
    first
    | assumption | apply State.launchRun_within | apply State.bump_within | apply OnlyMast.of_ite | intro _ | apply OnlyMast.of_getD
    | (apply OnlyMast.of_snd; assumption) | apply foldl_keeps (OnlyMast m s0) | simp only [↓OnlyMast.mk_other, ↓id_eq] | split

theorem State.matchPrepared_within  (hm : m < 2) (h : OnlyMast m s0 s) : OnlyMast m s0 (State.matchPrepared s m) := by
  unfold State.matchPrepared
  repeat' with_reducible
    first
    | assumption | apply State.launchRun_within | apply State.setMast_within | apply OnlyMast.of_ite | intro _ | apply OnlyMast.of_getD
    | (apply OnlyMast.of_snd; assumption) | apply foldl_keeps (OnlyMast m s0) | simp only [↓OnlyMast.mk_other, ↓id_eq] | split

theorem State.startRun_within {x2 : CommitRun} (hm : m < 2) (h : OnlyMast m s0 s) : OnlyMast m s0 (State.startRun s m x2) := by
  unfold State.startRun
  repeat' with_reducible
    first
    | assumption | apply State.matchPrepared_within | apply State.sendRuns_within | apply State.setRuns_within | apply OnlyMast.of_ite | intro _
    | apply OnlyMast.of_getD | (apply OnlyMast.of_snd; assumption) | apply foldl_keeps (OnlyMast m s0) | simp only [↓OnlyMast.mk_other, ↓id_eq]
    | split

theorem State.snapGo_within {x2 : Nat} {x3 : Nat} (hm : m < 2) (h : OnlyMast m s0 s) : OnlyMast m s0 (State.snapGo s m x2 x3) := by
  unfold State.snapGo
  repeat' with_reducible
    first
    | assumption | apply State.lockv_within | apply State.bump_within | apply State.put_within | apply State.irq_within | apply State.snapItem_within
    | apply State.copySnap_within | apply State.startRun_within | apply OnlyMast.of_ite | intro _ | apply OnlyMast.of_getD
    | (apply OnlyMast.of_snd; assumption) | apply foldl_keeps (OnlyMast m s0) | simp only [↓OnlyMast.mk_other, ↓id_eq] | split

theorem State.accSnap_within {x2 : Nat} {x3 : Nat} {x4 : Nat} (hm : m < 2) (h : OnlyMast m s0 s) : OnlyMast m s0 (State.accSnap s m x2 x3 x4) := by
  unfold State.accSnap
  repeat' with_reducible
    first
    | assumption | apply State.action_within | apply State.snapGo_within | apply OnlyMast.of_ite | intro _ | apply OnlyMast.of_getD
    | (apply OnlyMast.of_snd; assumption) | apply foldl_keeps (OnlyMast m s0) | simp only [↓OnlyMast.mk_other, ↓id_eq] | split

/-! ## FarBase -/

theorem State.pendWord_within {x1 : Nat} {x2 : Nat} {x3 : Nat} {x4 : Nat} {x5 : RegRow} (hm : m < 2) (h : OnlyMast m s0 s) : OnlyMast m s0 (State.pendWord s x1 x2 x3 x4 x5) := by
  unfold State.pendWord
  repeat' with_reducible
    first
    | assumption | apply State.setWord_within | apply OnlyMast.of_ite | intro _ | apply OnlyMast.of_getD | (apply OnlyMast.of_snd; assumption)
    | apply foldl_keeps (OnlyMast m s0) | simp only [↓OnlyMast.mk_other, ↓id_eq] | split

theorem State.farSend_within {x2 : FarReq} (hm : m < 2) (h : OnlyMast m s0 s) : OnlyMast m s0 (State.farSend s m x2) := by
  unfold State.farSend
  repeat' with_reducible
    first
    | assumption | apply State.toSail_within | apply State.sendOn_within | apply OnlyMast.of_ite | intro _ | apply OnlyMast.of_getD
    | (apply OnlyMast.of_snd; assumption) | apply foldl_keeps (OnlyMast m s0) | simp only [↓OnlyMast.mk_other, ↓id_eq] | split

theorem State.farIssue_within {x2 : FarReq} (hm : m < 2) (h : OnlyMast m s0 s) : OnlyMast m s0 (State.farIssue s m x2) := by
  unfold State.farIssue
  repeat' with_reducible
    first
    | assumption | apply State.farSend_within | apply State.setMast_within | apply OnlyMast.of_ite | intro _ | apply OnlyMast.of_getD
    | (apply OnlyMast.of_snd; assumption) | apply foldl_keeps (OnlyMast m s0) | simp only [↓OnlyMast.mk_other, ↓id_eq] | split

theorem State.farRelease_within  (hm : m < 2) (h : OnlyMast m s0 s) : OnlyMast m s0 (State.farRelease s m) := by
  unfold State.farRelease
  repeat' with_reducible
    first
    | assumption | apply State.farIssue_within | apply State.setMast_within | apply OnlyMast.of_ite | intro _ | apply OnlyMast.of_getD
    | (apply OnlyMast.of_snd; assumption) | apply foldl_keeps (OnlyMast m s0) | simp only [↓OnlyMast.mk_other, ↓id_eq] | split

theorem State.farTag_within {x2 : Bool} (hm : m < 2) (h : OnlyMast m s0 s) : OnlyMast m s0 (State.farTag s m x2).2 := by
  unfold State.farTag
  repeat' with_reducible
    first
    | assumption | apply State.setMast_within | apply OnlyMast.of_ite | intro _ | apply OnlyMast.of_getD | (apply OnlyMast.of_snd; assumption)
    | apply foldl_keeps (OnlyMast m s0) | simp only [↓OnlyMast.mk_other, ↓id_eq] | split

theorem State.farAdvance_within {x1 : Nat} {x2 : Nat} {x3 : Nat} (hm : m < 2) (h : OnlyMast m s0 s) : OnlyMast m s0 (State.farAdvance s x1 x2 x3) := by
  unfold State.farAdvance
  repeat' with_reducible
    first
    | assumption | apply State.bput_within | apply OnlyMast.of_ite | intro _ | apply OnlyMast.of_getD | (apply OnlyMast.of_snd; assumption)
    | apply foldl_keeps (OnlyMast m s0) | simp only [↓OnlyMast.mk_other, ↓id_eq] | split

theorem State.farRefused_within {x1 : Nat} {x2 : Nat} (hm : m < 2) (h : OnlyMast m s0 s) : OnlyMast m s0 (State.farRefused s x1 x2) := by
  unfold State.farRefused
  repeat' with_reducible
    first
    | assumption | apply State.bump_within | apply State.capture_within | apply OnlyMast.of_ite | intro _ | apply OnlyMast.of_getD
    | (apply OnlyMast.of_snd; assumption) | apply foldl_keeps (OnlyMast m s0) | simp only [↓OnlyMast.mk_other, ↓id_eq] | split

/-! ## Access -/

theorem State.writeQueue_within {x2 : Nat} {x3 : Nat} {x4 : Nat} (hm : m < 2) (h : OnlyMast m s0 s) : OnlyMast m s0 (State.writeQueue s m x2 x3 x4) := by
  unfold State.writeQueue
  repeat' with_reducible
    first
    | assumption | apply State.setSal_within | apply State.lockv_within | apply OnlyMast.of_ite | intro _ | apply OnlyMast.of_getD
    | (apply OnlyMast.of_snd; assumption) | apply foldl_keeps (OnlyMast m s0) | simp only [↓OnlyMast.mk_other, ↓id_eq] | split

theorem State.writeChannel_within {x2 : Nat} {x3 : Nat} (hm : m < 2) (h : OnlyMast m s0 s) : OnlyMast m s0 (State.writeChannel s m x2 x3) := by
  unfold State.writeChannel
  repeat' with_reducible
    first
    | assumption | apply State.setMac_within | apply OnlyMast.of_ite | intro _ | apply OnlyMast.of_getD | (apply OnlyMast.of_snd; assumption)
    | apply foldl_keeps (OnlyMast m s0) | simp only [↓OnlyMast.mk_other, ↓id_eq] | split

theorem State.mapStep_within {x1 : Nat} (hm : m < 2) (h : OnlyMast m s0 s) : OnlyMast m s0 (State.mapStep s x1) := by
  unfold State.mapStep
  repeat' with_reducible
    first
    | assumption | apply State.put_within | apply OnlyMast.of_ite | intro _ | apply OnlyMast.of_getD | (apply OnlyMast.of_snd; assumption)
    | apply foldl_keeps (OnlyMast m s0) | simp only [↓OnlyMast.mk_other, ↓id_eq] | split

theorem State.writeMap_within {x2 : Nat} {x3 : Nat} (hm : m < 2) (h : OnlyMast m s0 s) : OnlyMast m s0 (State.writeMap s m x2 x3) := by
  unfold State.writeMap
  repeat' with_reducible
    first
    | assumption | apply State.setMac_within | apply State.mapStep_within | apply OnlyMast.of_ite | intro _ | apply OnlyMast.of_getD
    | (apply OnlyMast.of_snd; assumption) | apply foldl_keeps (OnlyMast m s0) | simp only [↓OnlyMast.mk_other, ↓id_eq] | split

theorem State.writeRing_within {x2 : Nat} {x3 : Nat} (hm : m < 2) (h : OnlyMast m s0 s) : OnlyMast m s0 (State.writeRing s m x2 x3) := by
  unfold State.writeRing
  repeat' with_reducible
    first
    | assumption | apply State.setMast_within | apply OnlyMast.of_ite | intro _ | apply OnlyMast.of_getD | (apply OnlyMast.of_snd; assumption)
    | apply foldl_keeps (OnlyMast m s0) | simp only [↓OnlyMast.mk_other, ↓id_eq] | split

theorem State.markAgain_within {x1 : Nat} {x2 : Nat} (hm : m < 2) (h : OnlyMast m s0 s) : OnlyMast m s0 (State.markAgain s x1 x2) := by
  unfold State.markAgain
  repeat' with_reducible
    first
    | assumption | apply State.raise_within | apply OnlyMast.of_ite | intro _ | apply OnlyMast.of_getD | (apply OnlyMast.of_snd; assumption)
    | apply foldl_keeps (OnlyMast m s0) | simp only [↓OnlyMast.mk_other, ↓id_eq] | split

theorem State.writeFields_within {x1 : Nat} {x2 : Nat} {x3 : Nat} {x4 : Nat} {x5 : Nat} {x6 : RegRow} (hm : m < 2) (h : OnlyMast m s0 s) : OnlyMast m s0 (State.writeFields s x1 x2 x3 x4 x5 x6) := by
  unfold State.writeFields
  repeat' with_reducible
    first
    | assumption | apply State.setWord_within | apply State.lockv_within | apply OnlyMast.of_ite | intro _ | apply OnlyMast.of_getD
    | (apply OnlyMast.of_snd; assumption) | apply foldl_keeps (OnlyMast m s0) | simp only [↓OnlyMast.mk_other, ↓id_eq] | split

theorem State.vecsEdge_within {x0 : State} (hm : m < 2) (h : OnlyMast m s0 s) : OnlyMast m s0 (State.vecsEdge x0 s m) := by
  unfold State.vecsEdge
  repeat' with_reducible
    first
    | assumption | apply State.vecSend_within | apply OnlyMast.of_ite | intro _ | apply OnlyMast.of_getD | (apply OnlyMast.of_snd; assumption)
    | apply foldl_keeps (OnlyMast m s0) | simp only [↓OnlyMast.mk_other, ↓id_eq] | split

theorem State.withOutcome_within {x1 : Nat} {x2 : Nat} {x3 : Bool} {x4 : State → State} (hf4 : ∀ y0, OnlyMast m s0 y0 → OnlyMast m s0 (x4 y0)) (hm : m < 2) (h : OnlyMast m s0 s) : OnlyMast m s0 (State.withOutcome s x1 x2 x3 x4).2 := by
  unfold State.withOutcome
  repeat' with_reducible
    first
    | assumption | apply State.setWord_within | apply hf4 | apply OnlyMast.of_ite | intro _ | apply OnlyMast.of_getD
    | (apply OnlyMast.of_snd; assumption) | apply foldl_keeps (OnlyMast m s0) | simp only [↓OnlyMast.mk_other, ↓id_eq] | split

/-! ## Far -/

theorem State.answerFar_within {x1 : Nat} {x2 : Nat} {x3 : Nat} {x4 : Nat} {x5 : Nat} (hm : m < 2) (h : OnlyMast m s0 s) : OnlyMast m s0 (State.answerFar s x1 x2 x3 x4 x5) := by
  unfold State.answerFar
  repeat' with_reducible
    first
    | assumption | apply State.answer_within | apply OnlyMast.of_ite | intro _ | apply OnlyMast.of_getD | (apply OnlyMast.of_snd; assumption)
    | apply foldl_keeps (OnlyMast m s0) | simp only [↓OnlyMast.mk_other, ↓id_eq] | split

theorem State.farComplete_within {x1 : Nat} {x2 : FarReq} {x3 : Nat} {x4 : Nat} (hm : m < 2) (h : OnlyMast m s0 s) : OnlyMast m s0 (State.farComplete s x1 x2 x3 x4) := by
  unfold State.farComplete
  repeat' with_reducible
    first
    | assumption | apply State.bput64_within | apply State.emit_within | apply OnlyMast.of_ite | intro _ | apply OnlyMast.of_getD
    | (apply OnlyMast.of_snd; assumption) | apply foldl_keeps (OnlyMast m s0) | simp only [↓OnlyMast.mk_other, ↓id_eq] | split

theorem State.farEnd_within {x2 : Nat} (hm : m < 2) (h : OnlyMast m s0 s) : OnlyMast m s0 (State.farEnd s m x2) := by
  unfold State.farEnd
  repeat' with_reducible
    first
    | assumption | apply State.setMast_within | apply State.sendRuns_within | apply State.farRelease_within | apply OnlyMast.of_ite | intro _
    | apply OnlyMast.of_getD | (apply OnlyMast.of_snd; assumption) | apply foldl_keeps (OnlyMast m s0) | simp only [↓OnlyMast.mk_other, ↓id_eq]
    | split

theorem State.farResp_within {x2 : Nat} {x3 : Nat} {x4 : Nat} {x5 : Nat} {x6 : Nat} (hm : m < 2) (h : OnlyMast m s0 s) : OnlyMast m s0 (State.farResp s m x2 x3 x4 x5 x6) := by
  unfold State.farResp
  repeat' with_reducible
    first
    | assumption | apply State.bput_within | apply State.setWord_within | apply State.farEnd_within | apply State.farComplete_within
    | apply OnlyMast.of_ite | intro _ | apply OnlyMast.of_getD | (apply OnlyMast.of_snd; assumption) | apply foldl_keeps (OnlyMast m s0)
    | simp only [↓OnlyMast.mk_other, ↓id_eq] | split

/-! ## Tick -/

theorem State.sendSlotEnd_within {x2 : Nat} (hm : m < 2) (h : OnlyMast m s0 s) : OnlyMast m s0 (State.sendSlotEnd s m x2) := by
  unfold State.sendSlotEnd
  repeat' with_reducible
    first
    | assumption | apply State.put64_within | apply State.setPair_within | apply State.sendOn_within | apply State.bump_within
    | apply OnlyMast.of_ite | intro _ | apply OnlyMast.of_getD | (apply OnlyMast.of_snd; assumption) | apply foldl_keeps (OnlyMast m s0)
    | simp only [↓OnlyMast.mk_other, ↓id_eq] | split

theorem State.latchCounts_within  (hm : m < 2) (h : OnlyMast m s0 s) : OnlyMast m s0 (State.latchCounts s m) := by
  unfold State.latchCounts
  repeat' with_reducible
    first
    | assumption | apply State.setPair_within | apply OnlyMast.of_ite | intro _ | apply OnlyMast.of_getD | (apply OnlyMast.of_snd; assumption)
    | apply foldl_keeps (OnlyMast m s0) | simp only [↓OnlyMast.mk_other, ↓id_eq] | split

theorem State.takeSlotLen_within  (hm : m < 2) (h : OnlyMast m s0 s) : OnlyMast m s0 (State.takeSlotLen s m) := by
  unfold State.takeSlotLen
  repeat' with_reducible
    first
    | assumption | apply State.timingClamp_within | apply State.setMast_within | apply OnlyMast.of_ite | intro _ | apply OnlyMast.of_getD
    | (apply OnlyMast.of_snd; assumption) | apply foldl_keeps (OnlyMast m s0) | simp only [↓OnlyMast.mk_other, ↓id_eq] | split

/-! ## JuryMgmt -/

theorem State.mgmtFrame_within {x2 : Nat} {x3 : Nat} {x4 : Packet} (hm : m < 2) (h : OnlyMast m s0 s) : OnlyMast m s0 (State.mgmtFrame s m x2 x3 x4).2 := by
  unfold State.mgmtFrame
  repeat' with_reducible
    first
    | assumption | (apply State.allocItem_within; assumption) | apply State.bump_within | apply State.setSal_within | apply State.giveHw_within
    | apply OnlyMast.of_ite | intro _ | apply OnlyMast.of_getD | (apply OnlyMast.of_snd; assumption) | apply foldl_keeps (OnlyMast m s0)
    | simp only [↓OnlyMast.mk_other, ↓id_eq] | split

theorem State.flashData_within {x2 : Nat} {x3 : Nat} (hm : m < 2) (h : OnlyMast m s0 s) : OnlyMast m s0 (State.flashData s m x2 x3) := by
  unfold State.flashData
  repeat' with_reducible
    first
    | assumption | apply State.flashEnd_within | apply State.bump_within | apply State.flashBuffer_within | apply OnlyMast.of_ite | intro _
    | apply OnlyMast.of_getD | (apply OnlyMast.of_snd; assumption) | apply foldl_keeps (OnlyMast m s0) | simp only [↓OnlyMast.mk_other, ↓id_eq]
    | split

end Sys2Proof.Machine
end

