-- ==== Sys2Proof/WellFormed.lean ====
section
/-! DEFINITION. What a command's operands may be: the ranges of the dies, registers and fields that they name.  The meanings are total and do not
depend on it. -/

namespace Sys2Proof

open Sys2Proof.Machine

/-- A number that names one of two: an aerial, a feed, a reference, a kind of conversion. -/
def okAerial (m : Nat) : Bool := decide (m < 2)

/-- A number that names an ASN (R37). -/
def okAsn (m : Nat) : Bool := decide (m < 2 ^ 40)

/-- A number that names a bin of a window. -/
def okBin (m : Nat) : Bool := decide (m < 128)

/-- A number that names one of eight: a TPO output, a fault bit, a slot of a core. -/
def okBit (m : Nat) : Bool := decide (m < 8)

/-- A number of 8 bits. -/
def okByte (m : Nat) : Bool := decide (m < 256)

/-- A number that names one of 16: a core, a session context, a connection. -/
def okCore (m : Nat) : Bool := decide (m < 16)

/-- A number that names a die (R2). -/
def okDie (m : Nat) : Bool := decide (m < 8)

/-- A number of 16 bits. -/
def okHalf (m : Nat) : Bool := decide (m < 2 ^ 16)

/-- A number that names a lane (R105). -/
def okLane (m : Nat) : Bool := decide (m < 512)

/-- A number of 64 bits. -/
def okLong (m : Nat) : Bool := decide (m < 2 ^ 64)

/-- A number that names a mast: 0 for A, 1 for B. -/
def okMast (m : Nat) : Bool := decide (m < 2)

/-- A number that names a node record. -/
def okNode (m : Nat) : Bool := decide (m < 131072)

/-- A number that names an offset in a page (R535). -/
def okOff (m : Nat) : Bool := decide (m < 4096)

/-- A number that names a page number (R535). -/
def okPage (m : Nat) : Bool := decide (m < 1024)

/-- A number that names a kind of NV record. -/
def okRecord (m : Nat) : Bool := decide (m < 8)

/-- A number that names a requester (R541). -/
def okReq (m : Nat) : Bool := decide (m < 19)

/-- A number that names a ring or a vector. -/
def okRing (m : Nat) : Bool := decide (m < 64)

/-- A number that names a sail (R2). -/
def okSail (m : Nat) : Bool := decide (m < 6)

/-- A number that names a mast as an address names it: A, B or the active mast (R535). -/
def okSpace (m : Nat) : Bool := decide (m < 3)

/-- A number that names one of 32: a timer, a tamper source. -/
def okTimer (m : Nat) : Bool := decide (m < 32)

/-- A number that names one of four: a window, a hypothesis, a port, a domain, or an outcome. -/
def okWindow (m : Nat) : Bool := decide (m < 4)

/-- A number of 32 bits. -/
def okWord (m : Nat) : Bool := decide (m < 2 ^ 32)

/-- A width of an access, in bytes (R544). -/
def okWidth (w : Nat) : Bool := w == 1 || w == 2 || w == 4 || w == 8

/-- A value of `w` bytes. -/
def okValue (w v : Nat) : Bool := decide (v < 2 ^ (8 * w))

/-- The packets of an arriving message (R15): each with a SEQ of 12 bits, a VC and at most 48 payload bytes, LEN of them. -/
def okHdr (h : List LinkPkt) : Bool :=
  h.all (fun x => decide (x.seq < 4096) && decide (x.p.vc < 4) && decide (x.len ≤ 48) && x.p.data.length == x.len && x.p.data.all okByte)

/-- Whether a command's operands lie in their ranges. -/
def Instr.wf (i : Instr) : Bool :=
  match i with
  | .frameUp m k lane _ _ _ hdr => okMast m && okSail k && okLane lane && okHdr hdr
  | .frameDown k m h _ hdr => okSail k && okMast m && okWord h && okHdr hdr
  | .launch k m h _ hdr => okSail k && okMast m && okWord h && okHdr hdr
  | .farReadPacket k m tag page off _ hdr => okSail k && okMast m && okWord tag && okPage page && okOff off && okHdr hdr
  | .farWritePacket k m tag page off _ value hdr => okSail k && okMast m && okWord tag && okPage page && okOff off && okLong value && okHdr hdr
  | .farResp m k tag outcome lo hi hdr => okMast m && okSail k && okWord tag && okWindow outcome && okWord lo && okWord hi && okHdr hdr
  | .tick d m _ lo hdr => okDie d && okMast m && okWord lo && okHdr hdr
  | .tickPacketSend m => okMast m
  | .commitPacket d m tag mask landAsn _ _ hdr => okDie d && okMast m && okWord tag && okHalf mask && okAsn landAsn && okHdr hdr
  | .cfoHint k m tag _ _ _ hdr => okSail k && okMast m && okWord tag && okHdr hdr
  | .takeover k m epoch die hdr => okSail k && okMast m && okHalf epoch && okDie die && okHdr hdr
  | .liveness k m tag hdr => okSail k && okMast m && okWord tag && okHdr hdr
  | .cmdUnknownKind k m tag _ hdr => okSail k && okMast m && okWord tag && okHdr hdr
  | .txDone m k _ hdr => okMast m && okSail k && okHdr hdr
  | .adviceReceived m k _ hdr => okMast m && okSail k && okHdr hdr
  | .sailIrqEvent m k _ hdr => okMast m && okSail k && okHdr hdr
  | .mirror j _ _ _ hdr => okMast j && okHdr hdr
  | .juryInputExecute j => okMast j
  | .digestMessage j asn _ _ _ hdr => okMast j && okAsn asn && okHdr hdr
  | .heartbeat m _ epoch _ _ _ asn hdr => okMast m && okHalf epoch && okAsn asn && okHdr hdr
  | .statePacket j _ hdr => okMast j && okHdr hdr
  | .portRelay m _ hdr => okMast m && okHdr hdr
  | .linkctl c _ _ => okCore c
  | .linkReplayTimeout c _ => okCore c
  | .linkctlKeepalive c _ => okCore c
  | .retrainingComplete c => okCore c
  | .retrainingTimeout c => okCore c
  | .tatrumRetrain m r width value => okSpace m && okReq r && okWidth width && okValue width value
  | .slotTick d _ => okDie d
  | .dedupGroupRetire m g => okMast m && okWord g
  | .nowAdvance m => okMast m
  | .tickFreerun k => okSail k
  | .stageSoftEnd d stage h => okDie d && okBit stage && okWord h
  | .launchCutoff k asnLo _ _ => okSail k && okByte asnLo
  | .frameLaunch k h => okSail k && okWord h
  | .txFrameEnd k h => okSail k && okWord h
  | .ackCutoff m h => okMast m && okWord h
  | .refclkLoss d ref => okDie d && okAerial ref
  | .sampleClockLost k => okSail k
  | .refRelockStart d ref => okDie d && okAerial ref
  | .relockComplete d => okDie d
  | .localClockHold m => okMast m
  | .gainFastStep k aer => okSail k && okAerial aer
  | .gainTickRise k aer => okSail k && okAerial aer
  | .detectorResume k w => okSail k && okWindow w
  | .blankingStart k => okSail k
  | .blankingEnd k => okSail k
  | .observationStart k h => okSail k && okWord h
  | .observationEnd k _ => okSail k
  | .detectorFire k w bin aer _ => okSail k && okWindow w && okBin bin && okAerial aer
  | .laneStarved k w bin hyp => okSail k && okWindow w && okBin bin && okWindow hyp
  | .aerialSelect k l _ _ => okSail k && okLane l
  | .acqTimeout k l => okSail k && okLane l
  | .preambleEndFound k l _ => okSail k && okLane l
  | .ltfDecision k l _ => okSail k && okLane l
  | .phrCheck k l _ => okSail k && okLane l
  | .pilotTrackLost k l _ => okSail k && okLane l
  | .sfdFound k l _ => okSail k && okLane l
  | .sfdTimeout k l => okSail k && okLane l
  | .frameDecodeEnd k l _ => okSail k && okLane l
  | .laneDelivered k l => okSail k && okLane l
  | .advisorExamine k => okSail k
  | .modulatorStart k h => okSail k && okWord h
  | .txAbort k r width h => okSail k && okReq r && okWidth width && okWord h
  | .txTimeoutCut k h => okSail k && okWord h
  | .dacCalStep k => okSail k
  | .pdSolveDone k _ => okSail k
  | .pdetSample k _ => okSail k
  | .powerSense k _ _ => okSail k
  | .txRetuneApply k => okSail k
  | .fuseGo k r width value => okSail k && okReq r && okWidth width && okValue width value
  | .fuseDone k => okSail k
  | .dutyRecordWrite m => okMast m
  | .laneIn m => okMast m
  | .dedup m => okMast m
  | .dedupGroupClose m g => okMast m && okWord g
  | .ccmOpen m => okMast m
  | .ackSenderChoice m g => okMast m && okWord g
  | .replay m => okMast m
  | .ackBuild m => okMast m
  | .hcExpand m => okMast m
  | .nodeLearn m => okMast m
  | .sluiceUp m => okMast m
  | .classify m => okMast m
  | .toPartner m => okMast m
  | .fromPartner m => okMast m
  | .routeWalk m => okMast m
  | .hcCompress m => okMast m
  | .ccmSeal m => okMast m
  | .linkQueue m => okMast m
  | .macLaunch m work h => okMast m && okBit work && okWord h
  | .ackJudgement m v => okMast m && okNode v
  | .supervisionSweep m => okMast m
  | .peerBeaconSlotEnd m p _ => okMast m && okWindow p
  | .fcReserveDone m _ => okMast m
  | .campaignFrag m _ => okMast m
  | .digestStation m => okMast m
  | .nodetabLookup m r width => okSpace m && okReq r && okWidth width
  | .nodetabInsert m r width => okSpace m && okReq r && okWidth width
  | .nodetabDelete m r width => okSpace m && okReq r && okWidth width
  | .nodetabFree m r width => okSpace m && okReq r && okWidth width
  | .shortSet m r width => okSpace m && okReq r && okWidth width
  | .shortClr m r width => okSpace m && okReq r && okWidth width
  | .setPort m r width => okSpace m && okReq r && okWidth width
  | .nodetabMove m r width _ => okSpace m && okReq r && okWidth width
  | .rehashStart m r width value => okSpace m && okReq r && okWidth width && okValue width value
  | .rehashResume m r width value => okSpace m && okReq r && okWidth width && okValue width value
  | .moverInterval m _ => okMast m
  | .agerInterval m _ => okMast m
  | .tableDirectWrite m r => okSpace m && okReq r
  | .salternPop m r width _ => okSpace m && okReq r && okWidth width
  | .salternPush m r width lo _ => okSpace m && okReq r && okWidth width && okLong lo
  | .salternAlloc m r width => okSpace m && okReq r && okWidth width
  | .salternFree m r width value => okSpace m && okReq r && okWidth width && okValue width value
  | .salternHwmClr m r width value => okSpace m && okReq r && okWidth width && okValue width value
  | .pushTimeout m r => okMast m && okReq r
  | .admissionHoldRelease m => okMast m
  | .pauseRefresh m p => okMast m && okWindow p
  | .halyardGive m r width lo _ => okSpace m && okReq r && okWidth width && okLong lo
  | .halyardTake m r width => okSpace m && okReq r && okWidth width
  | .takeWake m => okMast m
  | .takeIrqRelease m c => okMast m && okCore c
  | .halyardRelease m r width cores => okSpace m && okReq r && okWidth width && okHalf cores
  | .halyardDone m r width value => okSpace m && okReq r && okWidth width && okValue width value
  | .halyardRoleWrite m r width c i value => okSpace m && okReq r && okWidth width && okCore c && okBit i && okValue width value
  | .halyardHwmClr m r width value => okSpace m && okReq r && okWidth width && okValue width value
  | .giveTimeout m c => okMast m && okCore c
  | .halyardHoldRelease m => okMast m
  | .loadWindowClose m => okMast m
  | .gclChange m p => okMast m && okWindow p
  | .gateEntryChange m p => okMast m && okWindow p
  | .portFree m p => okMast m && okWindow p
  | .pauseEnd m p => okMast m && okWindow p
  | .timeSampleWrite m r width x value => okSpace m && okReq r && okWidth width && okWindow x && okValue width value
  | .ppsEdge m => okMast m
  | .ppsMissed m => okMast m
  | .sourceLossTimeout m x => okMast m && okWindow x
  | .timeArm m r width x => okSpace m && okReq r && okWidth width && okWindow x
  | .timeSetGo m r width x => okSpace m && okReq r && okWidth width && okWindow x
  | .tpoEdge m o => okMast m && okBit o
  | .timerMatch d t _ => okDie d && okTimer t
  | .timerWrap d t _ => okDie d && okTimer t
  | .timerCapture d t => okDie d && okTimer t
  | .tcapRead d r width t => okDie d && okReq r && okWidth width && okTimer t
  | .tcountRead d r width t => okDie d && okReq r && okWidth width && okTimer t
  | .groupStart d r width value => okDie d && okReq r && okWidth width && okValue width value
  | .groupStop d r width value => okDie d && okReq r && okWidth width && okValue width value
  | .timerWake d _ => okDie d
  | .debugHalt d => okDie d
  | .derive m r width => okSpace m && okReq r && okWidth width
  | .generate m r width => okSpace m && okReq r && okWidth width
  | .importKey m r width => okSpace m && okReq r && okWidth width
  | .invalidate m r width => okSpace m && okReq r && okWidth width
  | .keyLock m r width => okSpace m && okReq r && okWidth width
  | .nodeSet m r width => okSpace m && okReq r && okWidth width
  | .nodeClear m r width => okSpace m && okReq r && okWidth width
  | .nodeRewrap m r width => okSpace m && okReq r && okWidth width
  | .persist m r width => okSpace m && okReq r && okWidth width
  | .persistComplete m _ => okMast m
  | .keyWordDirectWrite m r => okSpace m && okReq r
  | .cryptoJobGo m r width value => okSpace m && okReq r && okWidth width && okValue width value
  | .cryptoJobDone m r => okMast m && okReq r
  | .rsaLoad m r width => okSpace m && okReq r && okWidth width
  | .rsaSign m r width => okSpace m && okReq r && okWidth width
  | .rsaVerify m r width => okSpace m && okReq r && okWidth width
  | .rsaAttest m r width => okSpace m && okReq r && okWidth width
  | .rsaClear m r width => okSpace m && okReq r && okWidth width
  | .rsaDone m => okMast m
  | .drbgOutRead m r width => okSpace m && okReq r && okWidth width
  | .drbgReseed m r width value _ => okSpace m && okReq r && okWidth width && okValue width value
  | .entropyFail m _ => okMast m
  | .crystRegeneration m _ => okMast m
  | .tamperAssert m src => okMast m && okTimer src
  | .tamperRelease m src => okMast m && okTimer src
  | .letflyTrigger m src => okMast m && okTimer src
  | .tamperRecordFuse m => okMast m
  | .ownerKeyReload m => okMast m
  | .tamperAck m r width value => okSpace m && okReq r && okWidth width && okValue width value
  | .nonceDraw m r width => okSpace m && okReq r && okWidth width
  | .nonceExpiry m ctx => okMast m && okCore ctx
  | .sessionOpenOwner m r width => okSpace m && okReq r && okWidth width
  | .sessionOpenPassword m r width value => okSpace m && okReq r && okWidth width && okValue width value
  | .passwordResult m r => okMast m && okReq r
  | .setpw m r width value => okSpace m && okReq r && okWidth width && okValue width value
  | .sessionClose m r width => okSpace m && okReq r && okWidth width
  | .sessionIdleTimeout m ctx => okMast m && okCore ctx
  | .failDelayExpiry m => okMast m
  | .digestCompare j => okMast j
  | .digestWaitExpiry j => okMast j
  | .heartbeatSend m => okMast m
  | .heartbeatMiss m => okMast m
  | .livenessAnswer j k epoch _ _ hdr => okMast j && okSail k && okHalf epoch && okHdr hdr
  | .dualWindowClose k => okSail k
  | .pairSwap m r width keyByte => okSpace m && okReq r && okWidth width && okByte keyByte
  | .pairResync m r width keyByte => okSpace m && okReq r && okWidth width && okByte keyByte
  | .pairReleaseJury m r width keyByte => okSpace m && okReq r && okWidth width && okByte keyByte
  | .transferPassEnd m _ => okMast m
  | .selfFault m bit addr r => okMast m && okBit bit && okLong addr && okReq r
  | .feedSample m f v i _ => okMast m && okAerial f && okNode v && okBit i
  | .feedRestored m f => okMast m && okAerial f
  | .feedLoss m f => okMast m && okAerial f
  | .feedOvp m f => okMast m && okAerial f
  | .updateBegin m r width => okSpace m && okReq r && okWidth width
  | .updateEraseDone m => okMast m
  | .updateChunk m r width => okSpace m && okReq r && okWidth width
  | .bitmapRecordWrite m => okMast m
  | .updateVerify m r width => okSpace m && okReq r && okWidth width
  | .updateActivate m r width => okSpace m && okReq r && okWidth width
  | .updateCancel m r width => okSpace m && okReq r && okWidth width
  | .updateConfirm m r width value => okSpace m && okReq r && okWidth width && okValue width value
  | .updateReady m r width value => okSpace m && okReq r && okWidth width && okValue width value
  | .juryReadyTimeout m => okMast m
  | .trialElapsedWrite m => okMast m
  | .trialExpiry m => okMast m
  | .bootRom m => okMast m
  | .imgBegin m r width => okSpace m && okReq r && okWidth width
  | .imgChunk m r width => okSpace m && okReq r && okWidth width
  | .imgVerify m r width => okSpace m && okReq r && okWidth width
  | .waveAdd m r width => okSpace m && okReq r && okWidth width
  | .waveGo m r width => okSpace m && okReq r && okWidth width
  | .campaignPause m r width => okSpace m && okReq r && okWidth width
  | .campaignResume m r width => okSpace m && okReq r && okWidth width
  | .campaignAbort m r width => okSpace m && okReq r && okWidth width
  | .campaignReport m => okMast m
  | .roundStart m => okMast m
  | .roundClose m => okMast m
  | .offerReportTimeout m v => okMast m && okNode v
  | .refusedRetryDeadline m v => okMast m && okNode v
  | .nodeTrialDeadline m v => okMast m && okNode v
  | .waveEnd m => okMast m
  | .campaignPersist m => okMast m
  | .completeScan m v => okMast m && okNode v
  | .commitGo m r width value => okSpace m && okReq r && okWidth width && okValue width value
  | .snapGo m r width value => okSpace m && okReq r && okWidth width && okValue width value
  | .farDataRead m r width => okSpace m && okReq r && okWidth width
  | .farDataWrite m r width value => okSpace m && okReq r && okWidth width && okValue width value
  | .farTimeout m tag => okMast m && okWord tag
  | .cntClr m r page _ => okSpace m && okReq r && okPage page
  | .irqForce m r page value => okSpace m && okReq r && okPage page && okLong value
  | .pageLock m r page => okSpace m && okReq r && okPage page
  | .registerWrite m r _ => okSpace m && okReq r
  | .unmappedAccess m r addr _ => okMast m && okReq r && okLong addr
  | .vecEoi m r width value => okSpace m && okReq r && okWidth width && okValue width value
  | .sysResetSelf m r width value => okSpace m && okReq r && okWidth width && okValue width value
  | .sysResetPairPeer m r width value => okSpace m && okReq r && okWidth width && okValue width value
  | .wdtKick m r width value => okSpace m && okReq r && okWidth width && okValue width value
  | .wdtWarn m => okMast m
  | .watchdogExpiry m => okMast m
  | .tmrScrub d _ => okDie d
  | .thermConv m r width value => okSpace m && okReq r && okWidth width && okValue width value
  | .thermPeriodic m => okMast m
  | .conversionDone d kind _ => okDie d && okAerial kind
  | .ethRxFrame m p _ => okMast m && okWindow p
  | .ethLinkChange m p _ _ => okMast m && okWindow p
  | .pcieTailWrite m width ring value => okMast m && okWidth width && okRing ring && okValue width value
  | .pcieAckWrite m width ring value => okMast m && okWidth width && okRing ring && okValue width value
  | .txRingServe m _ user _ => okMast m && okByte user
  | .rxRingDeliver m r addr => okMast m && okRing r && okLong addr
  | .ringCoalesceTimeout m r => okMast m && okRing r
  | .pcieLinkDown m _ => okMast m
  | .msixUnmask m v => okMast m && okRing v
  | .mgmtRequest m _ _ _ => okMast m
  | .mgmtUartGap m => okMast m
  | .feedsGood _ _ => true
  | .referenceValid ref => okAerial ref
  | .brownOut => true
  | .resetN _ => true
  | .lowpwrRequest _ => true
  | .reefedSailResume k => okSail k
  | .checkpointPeriodic m => okMast m
  | .checkpoint m r width => okSpace m && okReq r && okWidth width
  | .checkpointDone m _ => okMast m
  | .saveCal m r width => okSpace m && okReq r && okWidth width
  | .nvRecordWriteDone m k _ => okMast m && okRecord k
  | .ringSectorErase m k => okMast m && okRecord k
  | .flashRead m r width => okSpace m && okReq r && okWidth width
  | .flashProgram m r width => okSpace m && okReq r && okWidth width
  | .flashErase m r width => okSpace m && okReq r && okWidth width
  | .flashDone m fail => okMast m && okWindow fail
  | .ssysReset k r width value => okSail k && okReq r && okWidth width && okValue width value
  | .mastBRoleTimeout => true
  | .updateVerifyDone m => okMast m
  | .imgVerifyDone m => okMast m
  | .chunkProgrammed m _ => okMast m
  | .updateConfirmed m => okMast m
  | .tapInstruction m op => okMast m && okByte op
  | .debugHaltExit d => okDie d

end Sys2Proof
end

