-- ==== Sys2Proof/Tests/Slice0.lean ====
section
/-! SUPPORT. Tests: an ill-formed command for each check of WellFormed, the spec's own examples, and for every statement concrete states and
operands that meet the hypotheses of its clauses. -/

namespace Sys2Proof.Tests

set_option Elab.async false

open Sys2Proof Sys2Proof.Machine

/-! ## States -/

/-- A state with register fields set: die, field, value. -/
def setF (s : State) (l : List (Nat × Fld × Nat)) : State := l.foldl (fun t e => t.put e.1 e.2.1 e.2.2) s

/-- Connection `c` UP. -/
def linkUp (s : State) (c : Nat) : State := s.setConn c { s.conn c with state := 2 }

/-- The package after reset. -/
def r0 : State := State.reset

/-- Mast A has the active role, alone. -/
def a0 : State := setF r0 [(0, F.PAIR_ROLE_ACTIVE, 1)]

/-- Mast A is active, mast B its jury IN_STEP, and every connection that the tests use is UP. -/
def p0 : State := [0, 1, 2, 6, 8, 9, 10].foldl linkUp (setF a0 [(0, F.PAIR_STATE_STATE, 1), (1, F.PAIR_STATE_STATE, 1)])

/-- The same, with sails 0 to 2 running under mast A. -/
def p1 : State :=
  [2, 3, 4].foldl (fun s d => setF s [(d, F.SSTAT_MASTER_VALID, 1), (d, F.SSTAT_MASTER_DIE, 0), (d, F.SSYS_STATE_STATE, 2)]) p0

/-- Mast `m` changed. -/
def onM (s : State) (m : Nat) (f : Mast → Mast) : State := s.setMast m (f (s.mast m))

/-- An item of one cell. -/
def item (c : Nat) (b : Body) : Item := ⟨[c], { Desc.zero with cell := c, node := noNode }, b, 0, .none, none, none, 0⟩

/-- Mast `m` with item `c`. -/
def withItem (s : State) (m c : Nat) (x : Item) : State := onM s m (fun M => { M with sal := M.sal.setItem c x })

/-- Mast `m` with the item of descriptor `d` waiting at its station. -/
def waiting (s : State) (m : Nat) (d : Desc) : State :=
  onM s m (fun M => { M with hal := { M.hal with entries := M.hal.entries ++ [⟨0, d, 0⟩] } })

/-- The packets of a message of TYPE `typ`, TAG `tag` and payload `bytes`, as they first arrive on direction `up` of connection `c`. -/
def pks (c : Nat) (up : Bool) (typ tag : Nat) (bytes : List Nat) : List LinkPkt :=
  ((message typ tag bytes).zipIdx).map (fun e => e.1.onLink (sendDie c up) (recvDie c up) e.2)

/-! ## Witnesses: power feeds, Saltern, Halyard -/

/-- Hypotheses of `feeds_classified`. -/
theorem wit_feeds_classified : r0.fitted 1 = true ∧ (r0.mirror 1 (.data 0 1 (3300 * 2 ^ 24 + 5 * 2 ^ 12 + 3300)) 0).isSome = true
    ∧ (r0.mirror 1 (.data 1 1 2) 0).isSome = true ∧ (p0.mirror 0 (.data 1 0 3) 0).isSome = true
    ∧ (let s := setF r0 [(0, F.FEED_STAT_V.at 4 1, 4095)]; s.lowV 0 + 50 ≤ s.get 0 (F.FEED_STAT_V.at 4 1) ∧ (s.mirror 0 (.data 1 1 0) 0).isSome = true)
    ∧ p0.mirroring = true ∧ 1 ≠ p0.active ∧ 0 = p0.active := by
  (repeat' apply And.intro) <;> decide

/-- Queue `q` of mast A with one item of one cell, 5. -/
def queued (q cls : Nat) : State :=
  onM (withItem r0 0 5 { item 5 .empty with place := .queue q }) 0 (fun M => { M with sal := M.sal.setQueue q { M.sal.queue q with cls := cls, heads := [5], cells := 1 } })

/-- Requester `r` holds the item of cell 5, and its descriptor registers name it with station `st`. -/
def holding (r st : Nat) : State :=
  let d := { Desc.zero with station := st, cell := 5 }
  ((withItem r0 0 5 { item 5 .empty with held := some r }).bput64 r 0 F.SALTERN_PUSH_HI_DESC_HI d.hi).bput64 r 0 F.HALYARD_GIVE_HI_DESC_HI d.hi

/-- A full Saltern: every cell of the brine list in use. -/
def noCells (s : State) : State := onM s 0 (fun M => { M with sal := { M.sal with fresh := 131072 } })

theorem wit_saltern_pop : (queued 0 1).Reaches 0 0x011 0x098 0 false 8 8 ∧ (queued 0 1).Reaches 0 0x011 0x098 15 false 8 8
    ∧ (((queued 0 1).popLink 0 0 0).dequeue 0 (((queued 0 1).popLink 0 0 0).ioSel 0 0)).isSome = true
    ∧ (((queued 0 1).mast 0).sal.queue ((queued 0 1).ioSel 0 0)).heads = [5] ∧ ((queued 0 1).mast 0).sal.placeOf 5 = .queue ((queued 0 1).ioSel 0 0)
    ∧ (let s := onM r0 0 (fun M => { M with sal := M.sal.setQueue 0 { M.sal.queue 0 with cls := 1 } })
       ((s.mast 0).sal.queue (s.ioSel 0 0)).cls = 1 ∧ (s.popLink 0 0 0).dequeue 0 (s.ioSel 0 0) = none)
    ∧ (let s := onM r0 0 (fun M => { M with sal := M.sal.setQueue 0 { M.sal.queue 0 with cls := 2 } })
       (s.popLink 0 0 0).dequeue 0 (s.ioSel 0 0) = none ∧ 1 < ((s.mast 0).sal.queue (s.ioSel 0 0)).cls)
    ∧ (let s := onM r0 0 (fun M => { M with sal := M.sal.setQueue 0 { M.sal.queue 0 with cls := 0 } })
       ((s.mast 0).sal.queue (s.ioSel 0 0)).cls = 0) := by (repeat' apply And.intro) <;> decide +kernel

theorem wit_saltern_push : (holding 0 9).Direct 0 0 ∧ (holding 0 9).Reaches 0 0x011 0x0B0 0 true 8 8
    ∧ (holding 0 9).holds 0 0 (Desc.ofBits ((holding 0 9).bget64 0 0 F.SALTERN_PUSH_HI_DESC_HI) 0).cell = true
    ∧ (holding 0 9).admitQ 0 ((holding 0 9).ioSel 0 0) 1 = true ∧ r0.holds 0 0 0 = false := by (repeat' apply And.intro) <;> decide

/-- The same with queue 0 full: a core's push is held, and the management port's dropped. -/
theorem wit_saltern_push_refused : (let full (r : Nat) : State := onM (holding r 9) 0 (fun M => { M with sal := M.sal.setQueue 0 { M.sal.queue 0 with cells := 131072 } })
    let s := setF (full 17) [(0, F.PAIR_STATE_STATE, 0)]
    let d (u : State) (r : Nat) : Desc := Desc.ofBits (u.bget64 r 0 F.SALTERN_PUSH_HI_DESC_HI) 0
    (full 0).holds 0 0 (d (full 0) 0).cell = true ∧ (full 0).admitQ 0 ((full 0).ioSel 0 0) 1 = false
    ∧ s.Direct 0 17 ∧ (onM s 0 (fun M => { M with keys := { M.keys with sessions := [(5, ⟨true, 3, 0⟩)] } })).Reaches 0 0x011 0x0B0 17 true 8 8
    ∧ s.holds 0 17 (d s 17).cell = true ∧ s.admitQ 0 (s.ioSel 0 17) 1 = false) := by
  (repeat' apply And.intro) <;> decide

/-- The pushes of cores 0 and 1, of cells 5 and 6 to queues 3 and 4, are held, and queue 3 is full. -/
def twoHeld : State :=
  onM (withItem (withItem r0 0 5 { item 5 .empty with held := some 0 }) 0 6 { item 6 .empty with held := some 1 }) 0 (fun M =>
    { M with sal := { M.sal.setQueue 3 { M.sal.queue 3 with cells := 131072 } with
      held := [⟨0, 3, { Desc.zero with cell := 5 }, false⟩, ⟨1, 4, { Desc.zero with cell := 6 }, false⟩] } })

theorem wit_saltern_cells : r0.Reaches 0 0x011 0x0B8 0 false 4 4 ∧ r0.admitQ 0 46 1 = true ∧ (r0.mast 0).sal.brine ≠ 0 ∧ ((noCells r0).mast 0).sal.brine = 0
    ∧ Tbl.get (fun _ => none) (r0.mast 0).sal.openItem 0 = none
    ∧ Tbl.get (fun _ => none) ((onM r0 0 (fun M => { M with sal := { M.sal with openItem := [(0, some 5)] } })).mast 0).sal.openItem 0 = some 5
    ∧ r0.Reaches 0 0x011 0x0BC 0 true 4 4 ∧ (holding 0 9).holds 0 0 (5 % 2 ^ 17) = true
    ∧ ((holding 0 9).mast 0).sal.broken (((holding 0 9).mast 0).sal.item 5).place = false ∧ r0.holds 0 0 0 = false
    ∧ r0.Reaches 0 0x011 0x080 0 true 4 4 ∧ 5 / 2 ^ 31 % 2 = 0
    ∧ ([⟨0, 46, Desc.zero, true⟩] : List HeldPush).find? (fun h => h.req == 0) = some ⟨0, 46, Desc.zero, true⟩
    ∧ (let s := onM (holding 0 9) 0 (fun M => { M with sal := { M.sal with held := [⟨0, 3, { Desc.zero with cell := 5 }, false⟩] } })
       (s.mast 0).heldEvents = [] ∧ (s.pushDone 0 0 3 { Desc.zero with cell := 5 }).isSome = true)
    ∧ ((twoHeld.mast 0).heldEvents = [] ∧ (twoHeld.mast 0).sal.held = [⟨0, 3, { Desc.zero with cell := 5 }, false⟩, ⟨1, 4, { Desc.zero with cell := 6 }, false⟩]
       ∧ twoHeld.pushDone 0 0 3 { Desc.zero with cell := 5 } = none ∧ (twoHeld.pushDone 0 1 4 { Desc.zero with cell := 6 }).isSome = true)
    ∧ (let s := onM r0 0 (fun M => { M with heldEvents := [⟨.linkInvalid, 1, []⟩] })
       (s.mast 0).sal.held = [] ∧ s.admitQ 0 128 1 = true ∧ (s.mast 0).sal.brine ≠ 0)
    ∧ (let s := setF (onM a0 0 (fun M => { M with sal := { M.sal with xoff := [(3, true)] } })) [(0, F.ETH_LINK_STATE.page 3, 2)]
       s.fitted 0 = true ∧ Tbl.get (fun _ => false) (s.mast s.active).sal.xoff 3 = true ∧ s.get 0 (F.ETH_LINK_STATE.page 3) = 2) := by
  (repeat' apply And.intro) <;> decide +kernel

/-- The descriptor that core 0 of `holding 0 st` would give. -/
def giveD (st : Nat) : Desc := Desc.ofBits ((holding 0 st).bget64 0 0 F.HALYARD_GIVE_HI_DESC_HI) 0

/-- `holding 0 9` with station 9 full. -/
def station9Full : State := waiting (setF (holding 0 9) [(0, stf F.STAB_SCFG_DEPTH 9, 1)]) 0 { Desc.zero with station := 9 }

theorem wit_halyard_give : (holding 0 9).Direct 0 0 ∧ (holding 0 9).Reaches 0 0x010 0x318 0 true 8 8
    ∧ (giveD 0xFF).station = 0xFF ∧ (giveD 9).station = 9 ∧ (holding 0 9).holds 0 0 (giveD 9).cell = true
    ∧ (holding 0 9).depthOf 0 9 ≠ 0 ∧ ((holding 0 9).mast 0).hal.countAt 9 < (holding 0 9).depthOf 0 9
    ∧ stationReserved (giveD 0x12).station = true ∧ (holding 0 0x12).holds 0 0 (giveD 0x12).cell = true
    ∧ ¬ (station9Full.mast 0).hal.countAt 9 < station9Full.depthOf 0 9 ∧ station9Full.depthOf 0 9 ≠ 0 := by
  (repeat' apply And.intro) <;> decide

/-- Core 0 holds station 64; an item waits there. -/
def takeS : State :=
  onM (setF (waiting r0 0 { Desc.zero with station := 64, flags := 2 }) [(0, stf F.STAB_SCFG_DEPTH 64, 8)]) 0
    (fun M => { M with hal := { M.hal with roles := [(0, 2 ^ 64)] } })

theorem wit_halyard_take : takeS.Reaches 0 0x010 0x300 0 false 8 8 ∧ takeS.coreGated 0 = false
    ∧ (takeS.selectCore 0 0).1.isSome = true ∧ (r0.selectCore 0 0).1 = none
    ∧ ({ r0 with reefed := true } : State).coreGated 2 = true
    ∧ (let s := takeS.setWord (key 0 (0x010080 + 8)) 1
       (((s.endService 0 0).applyRole 0 0 (s.roleReg 0 0)).selectCore 0 0).1.isSome = true) := by (repeat' apply And.intro) <;> decide +kernel

theorem wit_halyard_cores : r0.Reaches 0 0x010 0x320 0 true 4 4
    ∧ (let s := onM r0 0 (fun M => { M with hal := { M.hal with blocked := [15], service := [(0, Desc.zero)] } })
       Tbl.get (fun _ => none) (s.mast 0).hal.service 0 ≠ none ∧ Tbl.get (fun _ => none) (s.mast 0).hal.service 1 = none
       ∧ (s.mast 0).hal.blocked.contains 15 = true ∧ s.coreGated 15 = false ∧ s.Direct 0 0 ∧ s.Reaches 0 0x010 0x044 0 true 4 4
       ∧ ((setF s [(0, F.HALYARD_IRQ_RELEASE_CORES, 0x8000)]).get 0 F.HALYARD_IRQ_RELEASE_CORES).testBit 15 = true
       ∧ s.Reaches 0 0x010 (0x080 + 32 * 15 + 4 * 7) 0 true 4 4 ∧ (s.mast 0).hal.blocked.contains 0 = false)
    ∧ (let s := onM takeS 0 (fun M => { M with hal := { M.hal with blocked := [0] } })
       (s.mast 0).hal.blocked.contains 0 = true ∧ s.coreGated 0 = false ∧ (s.selectCore 0 0).1 = some ⟨0, { Desc.zero with station := 64, flags := 2 }, 0⟩
       ∧ (∀ j, j < 16 → (s.mast 0).hal.blocked.contains j = true → s.coreGated j = false → j = 0))
    ∧ ([⟨.core 3, Desc.zero⟩] : List HeldGive).find? (fun h => decide (h.giver = Giver.core 3)) = some ⟨.core 3, Desc.zero⟩
    ∧ (onM r0 0 (fun M => { M with hal := { M.hal with held := [⟨.core 3, { Desc.zero with station := 9 }⟩] } })).releasable 0 = some ⟨.core 3, { Desc.zero with station := 9 }⟩
    ∧ r0.Reaches 0 0x010 0x050 0 true 4 4 ∧ 0x11 / 2 ^ 30 % 4 = 0 := by (repeat' apply And.intro) <;> decide

/-! ### Node table -/

/-- An entry of generation 0 at a position, its count kept. -/
def withEnt (T : NodeTab) (p k n : Nat) : NodeTab :=
  { T.setEnt p ⟨k, n, 3, true, false, false, 0, false⟩ with count := T.count + 1 }

/-- The bucket position of key 5 under the reset seed. -/
def pos5 : Nat := 4 * (spotOf 0 5).b

/-- Record 7 is in use under key 5; CMD_KEY 5, CMD_NODE 7. -/
def ntS : State :=
  onM (setF r0 [(0, F.NODETAB_CMD_KEY_KEY, 5), (0, F.NODETAB_CMD_NODE_NODE, 7), (0, F.NODETAB_CMD_ARG_SHORT, 0x1234)]) 0
    (fun M => M.setNode 7 { M.node 7 with ident := { (M.node 7).ident with used := true, eui := 5 } })

/-- The same with key 5 in the table. -/
def ntIn : State := onM ntS 0 (fun M => { M with nt := withEnt M.nt pos5 5 7 })

/-- The same as `ntS` with every location of key 5 taken. -/
def ntFull (parked : Nat) : State :=
  onM ntS 0 (fun M => { M with nt := { (bucketPos (spotOf 0 5).b ++ setPos (spotOf 0 5).s1 ++ setPos (spotOf 0 5).s2).foldl (fun T p => withEnt T p (p + 1000) 9) M.nt
      with pend := List.replicate parked ⟨1, 2, 3, false⟩ } })

theorem wit_nodetab_lookup_insert : ntS.Direct 0 0 ∧ ntS.Reaches 0 0x018 0x090 0 true 4 4
    ∧ ntIn.pick 0 (ntIn.hits 0 (ntIn.cmdKey 0)) = some pos5 ∧ ntS.pick 0 (ntS.hits 0 (ntS.cmdKey 0)) = none
    ∧ (((ntS.mast 0).node (ntS.cmdNode 0)).ident.used = true ∧ ((ntS.mast 0).node (ntS.cmdNode 0)).ident.eui = ntS.cmdKey 0)
    ∧ ¬ ((r0.mast 0).node (r0.cmdNode 0)).ident.used = true
    ∧ ntIn.hits 0 (ntIn.cmdKey 0) ≠ [] ∧ ntS.hits 0 (ntS.cmdKey 0) = [] ∧ ntS.placeFor 0 (ntS.cmdKey 0) (ntS.mast 0).nt.insGen = some pos5
    ∧ (ntFull 15).hits 0 ((ntFull 15).cmdKey 0) = [] ∧ (ntFull 15).placeFor 0 ((ntFull 15).cmdKey 0) ((ntFull 15).mast 0).nt.insGen = none
    ∧ ((ntFull 15).mast 0).nt.pend.length < 16 ∧ 16 ≤ ((ntFull 16).mast 0).nt.pend.length
    ∧ (ntFull 16).placeFor 0 ((ntFull 16).cmdKey 0) ((ntFull 16).mast 0).nt.insGen = none := by (repeat' apply And.intro) <;> decide +kernel

theorem wit_nodetab_records_change : ntIn.Direct 0 0 ∧ ntIn.Reaches 0 0x018 0x090 0 true 4 4
    ∧ ntIn.pick 0 (ntIn.hits 0 (ntIn.cmdKey 0)) = some pos5 ∧ r0.pick 0 (r0.hits 0 (r0.cmdKey 0)) = none
    ∧ ntIn.cmdNode 0 < 131072 ∧ 131072 ≤ (setF r0 [(0, F.NODETAB_CMD_NODE_NODE, 131072)]).cmdNode 0
    ∧ ntIn.get 0 F.NODETAB_CMD_ARG_SHORT < 0xFFFE ∧ ((ntIn.mast 0).node (ntIn.cmdNode 0)).ident.used = true
    ∧ Tbl.get (fun _ => none) (ntIn.mast 0).nt.short (ntIn.get 0 F.NODETAB_CMD_ARG_SHORT) = none ∧ (ntIn.mast 0).nt.rehash = false := by
  (repeat' apply And.intro) <;> decide +kernel

/-- `ntIn` in a rehash to seed 9, with a second entry of key 6. -/
def ntMove : State :=
  onM (setF ntIn [(0, F.NODETAB_SEED_NEW_SEED, 9), (0, F.NODETAB_REHASH_CTL_MOVER_EN, 1)]) 0
    (fun M => { M with nt := { withEnt M.nt (4 * (spotOf 0 6).b) 6 8 with rehash := true, moverRun := true, oldLeft := 2 } })

/-- One dynamic entry, older than the limit of ten, where the ager stands. -/
def ntOld : State :=
  onM (setF ntIn [(0, F.NODETAB_AGE_CFG_AGE_EN, 1), (0, F.NODETAB_AGE_CFG_AGE_LIMIT, 10)]) 0
    (fun M => { M with nt := { M.nt with agerAt := pos5, now := 11 } })

theorem wit_nodetab_engines_advance : ntIn.Direct 0 0 ∧ ntIn.Reaches 0 0x018 0x05C 0 true 4 4
    ∧ (ntIn.mast 0).nt.rehash = false ∧ (ntIn.mast 0).nt.count ≠ 0
    ∧ (setF ntIn [(0, F.NODETAB_SEED_NEW_SEED, 9)]).get64 0 F.NODETAB_SEED_NEW_SEED ≠ ntIn.get64 0 F.NODETAB_SEED_CUR_SEED
    ∧ (ntMove.mast 0).nt.rehash = true ∧ (ntMove.mast 0).nt.moverRun = true ∧ ntMove.get 0 F.NODETAB_REHASH_CTL_MOVER_EN = 1
    ∧ (ntMove.mast 0).nt.moverAt + max 1 (ntMove.get 0 F.NODETAB_RATE_CFG_MOVER_RATE) < 66560
    ∧ ntMove.Direct 0 0 ∧ ntMove.Reaches 0 0x018 0x090 0 true 4 4 ∧ 1 < (ntMove.mast 0).nt.oldLeft
    ∧ ntMove.pick 0 (ntMove.hits 0 (ntMove.cmdKey 0)) = some pos5 ∧ ((ntMove.mast 0).nt.ent pos5).gen = (ntMove.mast 0).nt.gen
    ∧ ntMove.placeFor 0 ((ntMove.mast 0).nt.ent pos5).key (!(ntMove.mast 0).nt.gen) = some (4 * (spotOf 9 5).b) ∧ 4 * (spotOf 9 5).b ≠ pos5
    ∧ ((ntMove.mast 0).nt.ent pos5).static = false ∧ 5 ≠ ((ntMove.mast 0).nt.ent pos5).port ∧ ntMove.get 0 F.NODETAB_LEARN_CFG_PORT_LEARN ≠ 0
    ∧ ((ntMove.moveAll 0 [] ((ntMove.mast 0).nt.unitPos 0 1)).mast 0).nt.rehash = true
    ∧ (let s := onM ntMove 0 (fun M => { M with nt := { M.nt with moverAt := pos5 / 4, oldLeft := 1 } })
       ((s.moveAll 0 [] ((s.mast 0).nt.unitPos (pos5 / 4) (pos5 / 4 + 1))).mast 0).nt.rehash = false)
    ∧ (let s := onM ntMove 0 (fun M => { M with nt := { M.nt with moverAt := 66559 } })
       ((s.moveAll 0 [] ((s.mast 0).nt.unitPos 66559 66560)).mast 0).nt.rehash = true
       ∧ ((s.moveAll 0 [] ((s.mast 0).nt.unitPos 66559 66560)).mast 0).nt.moverMoved = 0)
    ∧ ntOld.get 0 F.NODETAB_AGE_CFG_AGE_EN = 1 ∧ (ntOld.mast 0).nt.pend = []
    ∧ (let T := (ntOld.mast 0).nt
       let e := T.agerAt + max 1 (ntOld.get 0 F.NODETAB_RATE_CFG_AGER_RATE)
       T.entPos T.agerAt (min e 270336) = [pos5] ∧ T.entPos 0 (e - 270336) = [] ∧ (T.ent pos5).valid = true ∧ (T.ent pos5).static = false
       ∧ (T.ent pos5).pendingMove = false
       ∧ ((max 1 (ntOld.get 0 F.NODETAB_AGE_CFG_AGE_LIMIT) : Nat) : Int) < sdiff 24 T.now (T.ent pos5).ageTs) := by
  (repeat' apply And.intro) <;> decide +kernel

/-! ### Keys -/

/-- The root is formed. -/
def rooted : State := onM (setF r0 [(0, F.DRBG_STATUS_READY, 1)]) 0 (fun M => { M with keys := { M.keys with root := some 0x1234 } })

/-- Slots 1 and 2 hold keys that may wrap and unwrap; CMD_A.PARENT names the first and NODE_KEK the second; record 7 holds a node key. -/
def slotted : State :=
  onM (setF rooted [(0, F.KEYS_CMD_A_PARENT, 1), (0, F.KEYS_NODE_KEK_SLOT, 2), (0, F.KEYS_CMD_NODE_NODE, 7)]) 0 (fun M =>
    { M.setNode 7 { M.node 7 with key := ⟨3, 0, 1, 4, true⟩ } with
      keys := (M.keys.setSlot 1 { KeySlot.empty 0 with valid := true, typ := 1, usage := 0xFF, material := 11 }).setSlot 2
        { KeySlot.empty 0 with valid := true, typ := 1, usage := 0xFF, material := 12 } })

theorem wit_keys_load_slots : rooted.Direct 0 0 ∧ rooted.Reaches 0 0x038 0x104 0 true 4 4
    ∧ (setF rooted [(0, F.KEYS_STATUS_BUSY, 1)]).bit 0 F.KEYS_STATUS_BUSY = true ∧ rooted.bit 0 F.KEYS_STATUS_BUSY = false
    ∧ (setF rooted [(0, F.KEYS_CMD_A_PARENT, 0x200), (0, F.KEYS_CMD_B_LABEL_LEN, 32)]).get 0 F.KEYS_CMD_B_LABEL_LEN ≤ 32
    ∧ (setF rooted [(0, F.KEYS_CMD_A_PARENT, 0x200), (0, F.KEYS_CMD_B_CTX_LEN, 32)]).get 0 F.KEYS_CMD_B_CTX_LEN ≤ 32
    ∧ (setF rooted [(0, F.KEYS_CMD_A_PARENT, 0x200)]).keyParent 0 = 0x200 ∧ rooted.loadCheck 0 = none ∧ (rooted.mast 0).keys.root = some 0x1234
    ∧ r0.loadCheck 0 = some .noRoot ∧ (rooted.drbgRequest 0 (keyBits (rooted.get 0 F.KEYS_CMD_B_TYPE))).isSome = true
    ∧ (onM r0 0 (fun M => { M with keys := { M.keys with root := some 1 } })).loadCheck 0 = none
    ∧ (onM r0 0 (fun M => { M with keys := { M.keys with root := some 1 } })).drbgRequest 0 128 = none
    ∧ slotted.bit 0 F.KEYS_STATUS_BUSY = false ∧ slotted.keyParent 0 < 512 ∧ slotted.loadCheck 0 = none
    ∧ slotted.useSlot 0 (slotted.keyParent 0) .unwrap = (.ok (11, 1), slotted) := by
  refine ⟨?_, ?_, ?_, ?_, ?_, ?_, ?_, ?_, ?_, ?_, ?_, ?_, ?_, ?_, ?_, ?_, rfl⟩ <;> decide +kernel

theorem wit_keys_slots_and_nodes : slotted.Direct 0 0 ∧ slotted.Reaches 0 0x038 0x104 0 true 4 4 ∧ slotted.bit 0 F.KEYS_STATUS_BUSY = false
    ∧ (slotted.mast 0).keys.root ≠ none ∧ r0.bit 0 F.KEYS_STATUS_BUSY = false ∧ (r0.mast 0).keys.root = none
    ∧ (let s := setF slotted [(0, F.KEYS_CMD_A_SLOT, 2)]
       ((s.mast 0).keys.slot (s.keySlot 0)).lock = false ∧ ((s.mast 0).keys.slot (s.keySlot 0)).gen < 0xFFFF
       ∧ ((s.mast 0).keys.slot (s.keySlot 0)).valid = true)
    ∧ (let s := onM slotted 0 (fun M => { M with keys := M.keys.setSlot 0 { KeySlot.empty 0 with valid := true, lock := true } })
       (s.mast 0).keys.root ≠ none ∧ ((s.mast 0).keys.slot (s.keySlot 0)).lock = true)
    ∧ (let a : KeySlot := { KeySlot.empty 0xFFFF with valid := true }
       let b : KeySlot := { KeySlot.empty 0 with valid := true, parent := 2 }
       let s := setF (onM slotted 0 (fun M => { M with keys := (M.keys.setSlot 2 a).setSlot 9 b })) [(0, F.KEYS_CMD_A_SLOT, 2)]
       ((s.mast 0).keys.slot (s.keySlot 0)).lock = false ∧ ((s.mast 0).keys.slot (s.keySlot 0)).gen = 0xFFFF
       ∧ ((s.mast 0).keys.slot 9).valid = true ∧ ((s.mast 0).keys.slot 9).parent = s.keySlot 0)
    ∧ slotted.keyNode 0 < 131072 ∧ slotted.keyParent 0 < 512 ∧ slotted.useSlot 0 (slotted.keyParent 0) .unwrap = (.ok (11, 1), slotted)
    ∧ slotted.useSlot 0 (slotted.get 0 F.KEYS_NODE_KEK_SLOT) .wrap = (.ok (12, 1), slotted)
    ∧ ((slotted.mast 0).node (slotted.keyNode 0)).key.valid = true
    ∧ slotted.useSlot 0 ((slotted.mast 0).node (slotted.keyNode 0)).key.kek .unwrap = (.ok (11, 1), slotted)
    ∧ ((slotted.mast 0).keys.slot ((slotted.mast 0).node (slotted.keyNode 0)).key.kek).gen = ((slotted.mast 0).node (slotted.keyNode 0)).key.kekGen := by
  (repeat' apply And.intro) <;> first | rfl | decide +kernel

/-- A key-blob record under way. -/
def persisting : State := onM rooted 0 (fun M => { M with keys := { M.keys with persisting := some ⟨1, [], [], 0⟩ } })

theorem wit_keys_persist_and_drbg : rooted.Direct 0 0 ∧ rooted.Reaches 0 0x038 0x104 0 true 4 4 ∧ rooted.bit 0 F.KEYS_STATUS_BUSY = false
    ∧ (rooted.mast 0).keys.root ≠ none ∧ (persisting.mast 0).keys.persisting = some ⟨1, [], [], 0⟩
    ∧ r0.Reaches 0 0x03B 0x400 0 false 4 4 ∧ (rooted.drbgRequest 0 32).isSome = true ∧ r0.drbgRequest 0 32 = none
    ∧ rooted.Reaches 0 0x03B 0x044 0 true 4 4 ∧ 1 % 2 = 1 := by (repeat' apply And.intro) <;> decide +kernel

theorem wit_crypto_jobs_and_rsa : r0.Direct 0 0 ∧ r0.Reaches 0 0x039 0x060 0 true 4 4 ∧ r0.bget 0 0 F.CRYPTO_JOB_STATUS_BUSY = 0
    ∧ (onM r0 0 (fun M => { M with keys := { M.keys with jobs := [(3, some ⟨0, 0, 0, 0, 0, 0, [], [], some 7, []⟩)] } })
        |>.mast 0 |>.keys.jobs |> fun T => Tbl.get (fun _ => none) T 3) = some ⟨0, 0, 0, 0, 0, 0, [], [], some 7, []⟩
    ∧ r0.Reaches 0 0x03A 0x040 0 true 4 4 ∧ r0.bit 0 F.RSA_STATUS_BUSY = false ∧ (r0.mast 0).keys.rsaKey = none ∧ (setF r0 [(0, F.RSA_E_E, 1)]).get 0 F.RSA_E_E < 3
    ∧ (setF r0 [(0, F.TAMPER_RECORDS_COUNT, 1)]).waitAck 0 = true
    ∧ (let s := onM (setF r0 [(0, F.TAMPER_RECORDS_COUNT, 1)]) 0 (fun M => { M with keys := { M.keys with sessions := [(5, ⟨true, 2, 600⟩)] } })
       s.Direct 0 17 ∧ s.Reaches 0 0x03A 0x040 17 true 4 4 ∧ s.waitAck 0 = true)
    ∧ ((onM r0 0 (fun M => { M with keys := { M.keys with rsaOp := some ⟨2, 0, [1], none⟩ } })).mast 0).keys.rsaOp = some ⟨2, 0, [1], none⟩ := by
  (repeat' apply And.intro) <;> decide +kernel

/-- Source 3 is enabled and asserts, on mast A. -/
def tampered : State :=
  onM (setF rooted [(0, F.TAMPER_SRC_EN_EN, 8)]) 0 (fun M => { M with keys := { M.keys with asserted := 8, recordDue := 1 } })

/-- One tamper record awaits the owner, whose session core 0 uses through context 4. -/
def awaitAck : State :=
  onM (setF (setF r0 [(0, F.TAMPER_RECORDS_COUNT, 1)]) []) 0 (fun M => { M with keys := { M.keys with sessions := [(5, ⟨true, 3, 600⟩)] } })

theorem wit_tamper_and_root : (setF r0 [(0, F.TAMPER_RECORDS_COUNT, 1)]).waitAck 0 = true ∧ (setF r0 [(0, F.CRYST_STATUS_RETIRED, 1)]).bit 0 F.CRYST_STATUS_RETIRED = true
    ∧ r0.waitAck 0 = false ∧ r0.bit 0 F.CRYST_STATUS_RETIRED = false ∧ (setF r0 [(0, F.TAMPER_SRC_EN_EN, 0)]).get 0 F.TAMPER_SRC_EN_EN = 0 ∧ (r0.tamperNow 0).testBit 7 = false
    ∧ (tampered.tamperNow 0).testBit 3 = true ∧ (tampered.tamperNow 0).testBit 4 = false ∧ tampered.bit 0 F.TAMPER_STATE_LETFLY = false
    ∧ tampered.redundant = true ∧ (tampered.mast 0).keys.recordDue = 0 + 1 ∧ r0.tamperNow 0 = 0
    ∧ awaitAck.Direct 0 17 ∧ awaitAck.Reaches 0 0x03D 0x044 17 true 4 4 ∧ awaitAck.privOf 0 (awaitAck.ctxOf 0 17) = 3 ∧ 0xA5 % 256 = 0xA5
    ∧ awaitAck.tamperNow 0 = 0 ∧ awaitAck.waitAck 0 = true := by (repeat' apply And.intro) <;> decide +kernel

/-! ### Sessions -/

/-- Context 6 has a nonce, and the owner key is known. -/
def nonced : State := onM rooted 0 (fun M => { M with keys := { M.keys with ownerKey := some 9, nonces := [(6, some 77)] } })

theorem wit_sessions_open : (0 : Nat) < 2 ∧ nonced.Reaches 0 0x002 0x400 0 false 4 4 ∧ (nonced.drbgRequest 0 256).isSome = true
    ∧ r0.Reaches 0 0x002 0x400 0 false 4 4 ∧ r0.drbgRequest 0 256 = none
    ∧ nonced.Direct 0 0 ∧ nonced.Reaches 0 0x002 0x0A8 0 true 4 4 ∧ nonced.get 0 F.SESSION_DELAY_LEFT = 0
    ∧ (setF nonced [(0, F.SESSION_DELAY_LEFT, 3)]).get 0 F.SESSION_DELAY_LEFT ≠ 0 ∧ r0.ownerOk 0 0 = false
    ∧ r0.Reaches 0 0x002 0x0A8 0 true 4 4 ∧ 1 ≤ 0x4000 / 2 ^ 8 % 2 ^ 7 ∧ 0x4000 / 2 ^ 8 % 2 ^ 7 ≤ 64 ∧ 64 < 0x4100 / 2 ^ 8 % 2 ^ 7 ∧ 0 / 2 ^ 8 % 2 ^ 7 = 0
    ∧ (nonced.mast 0).keys.pwTry = []
    ∧ ((onM r0 0 (fun M => { M with keys := { M.keys with pwTry := [⟨16, 2, 0, [1]⟩] } })).mast 0).keys.pwTry.find? (fun x => x.req == 16) = some ⟨16, 2, 0, [1]⟩
    ∧ (r0.mast 0).keys.pwOk ⟨16, 2, 0, [1]⟩ = false := by (repeat' apply And.intro) <;> decide +kernel

/-- A password whose record holds its own hash is right up to the record's cap. -/
theorem wit_password_right (pw : List Nat) (salt : Nat) :
    ({ KeyEng.reset with pwRecords := [(0, some ⟨salt, leNat (pbkdf2 pw (leBytes 16 salt) 10000), 2⟩)] } : KeyEng).pwOk ⟨16, 2, 0, pw⟩ = true := by
  simp [KeyEng.pwOk, List.range, List.range.loop, Tbl.get, Tbl.find?]

theorem wit_session_ends : rooted.Direct 0 0 ∧ rooted.Reaches 0 0x002 0x0A8 0 true 4 4 ∧ rooted.privOf 0 (rooted.ctxOf 0 0) < 3
    ∧ (let s := onM rooted 0 (fun M => { M with keys := { M.keys with sessions := [(5, ⟨true, 3, 600⟩)] } })
       s.Direct 0 17 ∧ s.Reaches 0 0x002 0x0A8 17 true 4 4 ∧ 3 ≤ s.privOf 0 (s.ctxOf 0 17) ∧ (s.drbgRequest 0 128).isSome = true
       ∧ (s.session 0 5).isOpen = true ∧ (s.session 0 4).isOpen = false) := by (repeat' apply And.intro) <;> decide +kernel

/-! ### Registers -/

theorem wit_register_writes : r0.fitted 0 = true ∧ r0.Direct 0 0 ∧ 0x040 % 4 = 0
    ∧ (∃ x i, rowOf 0 0x01A 0x040 = some (x, i) ∧ x.rw = 0 ∧ x.wo = 0 ∧ x.rwl = 0 ∧ x.w1c = 0 ∧ x.bank = false ∧ x.rwb ≠ 0)
    ∧ r0.pageArmed 0 0x01A = false ∧ r0.hidden 0 0x01A 0 = false ∧ r0.allowed 0 0x01A 0x040 0 true = true
    ∧ mastListed 0x002 = true ∧ r0.hidden 0 0x002 16 = false ∧ mastListed 0x03D = true ∧ r0.hidden 0 0x03D 16 = false ∧ r0.allowed 0 0x03D 0x044 16 true = false
    ∧ mastListed 0x3FF = false ∧ (3 * 2 ^ 22) / 2 ^ 22 % 4 = 3 := by
  refine ⟨?_, ?_, ?_, ?_, ?_⟩
  · decide
  · decide
  · decide
  · exact ⟨_, _, rfl, rfl, rfl, rfl, rfl, rfl, by decide⟩
  · (repeat' apply And.intro) <;> decide +kernel

/-- The host's vector 5 is pending for a ring, not masked, on the active mast. -/
def vecS : State := onM (setF a0 [(0, F.IRQ_VEC_TARGET_HOST.at 4 5, 1)]) 0 (fun M => { M with ringVecs := [5], msixMask := [] })

theorem wit_page_header_commands : r0.fitted 0 = true ∧ r0.Direct 0 0 ∧ mastListed 0x010 = true ∧ r0.hidden 0 0x010 0 = false
    ∧ r0.allowed 0 0x010 0x008 0 true = true ∧ r0.allowed 0 0x010 0x018 0 true = true ∧ r0.allowed 0 0x010 0x02C 0 true = true
    ∧ r0.hidden 0 0x003 0 = false ∧ r0.allowed 0 0x003 0x300 0 true = true ∧ r0.vecPending 0 0 = false
    ∧ vecS.vecPending 0 (5 % 64) = true ∧ vecS.active = 0 ∧ vecS.get 0 (F.IRQ_VEC_TARGET_HOST.at 4 (5 % 64)) = 1
    ∧ (vecS.mast 0).msixMask.contains (5 % 64) = false := by
  (repeat' apply And.intro) <;> decide +kernel

theorem wit_commits_start : a0.Direct 0 0 ∧ a0.Reaches 0 0x001 0x040 0 true 4 4
    ∧ ((onM a0 0 (fun M => { M with runs := [⟨1, 1, none, true, none, [], [], [], 0⟩] })).mast 0).runs.any
        (fun x => x.tick && x.snap.isNone && !(x.landed.contains 0)) = true
    ∧ (a0.mast 0).runs = [] ∧ a0.farWrites 0 = [] ∧ (a0.mast 0).prepared = [] ∧ 0 = a0.active
    ∧ (setF a0 [(0, F.COMMIT_WHEN_TICK, 1)]).bit 0 F.COMMIT_WHEN_TICK = true ∧ a0.Reaches 0 0x001 0x048 0 true 4 4 ∧ 1 % 4 = 1
    ∧ a0.bit 0 (F.HDR_CTRL_SNAP_EXCL.page 0x010) = false
    ∧ (p1.accepts 0 0 0x08 1 (.nums [1, 5, 1, 0]) (pks 0 false 0x08 1 [1])).1 = true
    ∧ ((p1.accepts 0 0 0x08 1 (.nums [1, 5, 1, 0]) (pks 0 false 0x08 1 [1])).2.sail 0).ticked = false
    ∧ ((p1.accepts 0 0 0x08 1 (.nums [1, 5, 1, 0]) (pks 0 false 0x08 1 [1])).2.sail 0).prepared.length < 4 := by
  (repeat' apply And.intro) <;> decide +kernel

/-! ### Far accesses -/

/-- Requester 0's FAR_ADDR names the fuse programming of sail 0, and its access advances. -/
def farS : State :=
  ((linkUp r0 0).bput 0 0 F.TATRUM_FAR_ADDR_DIE 2 |>.bput 0 0 F.TATRUM_FAR_ADDR_PAGE 4 |>.bput 0 0 F.TATRUM_FAR_ADDR_OFFSET 0x140
    |>.bput 0 0 F.TATRUM_FAR_ADDR_AUTO_INC 1)

/-- Far read 7 of requester 0 to sail 0 is not yet answered. -/
def farWaits (write : Bool) : State :=
  onM (linkUp r0 0) 0 (fun M => { M with far := [⟨7, 0, 0, write, false, 0x020, 0x40, 0⟩] })

theorem wit_far_access_issues : farS.Direct 0 0 ∧ farS.Reaches 0 0x008 0x048 0 false 8 8 ∧ farS.Reaches 0 0x008 0x048 0 true 4 4
    ∧ farS.farAbsent 0 0 = false ∧ (r0.bput 0 0 F.TATRUM_FAR_ADDR_DIE 1).farAbsent 0 0 = true ∧ farS.bget 0 0 F.TATRUM_FAR_ADDR_AUTO_INC = 1
    ∧ farS.farReady 0 ⟨1, 0, 0, true, false, 4, 0x140, 0⟩ = true
    ∧ (farWaits false).farReady 0 ⟨1, 0, 0, false, false, 0x020, 0x40, 0⟩ = false
    ∧ fuseAccess (farS.bget 0 0 F.TATRUM_FAR_ADDR_PAGE) (farS.bget 0 0 F.TATRUM_FAR_ADDR_OFFSET) = true ∧ farS.privOf 0 (farS.ctxOf 0 0) < 3
    ∧ fuseAccess 4 0x158 = false := by (repeat' apply And.intro) <;> decide +kernel

theorem wit_far_access_answered : (p1.arrive 0 0 0x04 (pks 0 false 0x04 3 [0x20])).1 = true ∧ sailPages.contains 0x020 = true
    ∧ (p1.accepts 0 0 0x05 3 (.nums [0x009, 0x040, 0, 5, 0]) (pks 0 false 0x05 3 [9])).1 = true
    ∧ (∃ off x i, off % 4 = 0 ∧ 0x040 ≤ off ∧ off < 0x400 ∧ rowOf (sailDie 0) 0x009 off = some (x, i) ∧ x.rwb ≠ 0 ∧ x.rw = 0 ∧ x.wo = 0 ∧ x.rwl = 0 ∧ x.w1c = 0 ∧ x.bank = false)
    ∧ (p1.accepts 0 0 0x05 3 (.nums [0x009, 0x040, 0, 5, 0]) (pks 0 false 0x05 3 [9])).2.pageArmed (sailDie 0) 0x009 = false
    ∧ r0.fitted 0 = true ∧ r0.hasSail 0 = true ∧ ((farWaits false).receive (connId 0 0) true 0x06 (pks 0 true 0x06 7 [0, 5])).1 = true
    ∧ (((farWaits false).receive (connId 0 0) true 0x06 (pks 0 true 0x06 7 [0, 5])).2.mirror 0 (.farResp 0 7 0 5 0) 0).isSome = true
    ∧ (farWaits false).farOf 0 7 = some ⟨7, 0, 0, false, false, 0x020, 0x40, 0⟩ ∧ (farWaits true).farOf 0 7 = some ⟨7, 0, 0, true, false, 0x020, 0x40, 0⟩
    ∧ ((farWaits true).mast 0).farHeld = [] := by
  refine ⟨?_, ?_, ?_, ⟨0x040, _, _, rfl, by decide, by decide, rfl, by decide, rfl, rfl, rfl, rfl, rfl⟩, ?_, ?_, ?_, ?_, ?_, ?_, ?_, ?_⟩ <;> decide +kernel

/-! ### NV store and flash -/

/-- A config record never updated. -/
def cfg0 : CfgRec := ⟨UpdRec.fresh, []⟩

theorem wit_nv_records_complete :
    ((onM r0 0 (fun M => { M with nv := { M.nv with cfgJobs := [cfg0] } })).mast 0).nv.cfgJobs = [cfg0]
    ∧ ((onM r0 0 (fun M => { M with nv := { M.nv with campJobs := [⟨[], 0, 0, 0, 0, []⟩] } })).mast 0).nv.campJobs = [⟨[], 0, 0, 0, 0, []⟩]
    ∧ (setF r0 [(0, F.NVSTORE_RING_ENTRY, 255), (0, F.NVSTORE_RING_SECTOR, 255)]).ringNext 0 % 256 ≠ 0
    ∧ ((setF r0 [(0, F.NVSTORE_RING_ENTRY, 255), (0, F.NVSTORE_RING_SECTOR, 255)]).ringNext 0 / 256 + 1) % 256 = 0
    ∧ (setF r0 [(0, F.NVSTORE_CKPT_CFG_EN, 1)]).bit 0 F.NVSTORE_CKPT_CFG_EN = true ∧ (r0.mast 0).nv.ckptJob = none
    ∧ ((onM r0 0 (fun M => { M with nv := { M.nv with ckptJob := some ⟨0, []⟩ } })).mast 0).nv.ckptJob = some ⟨0, []⟩
    ∧ r0.Direct 0 0 ∧ r0.Reaches 0 0x042 0x044 0 true 4 4 ∧ (r0.mast 0).nv.ckptStart = none
    ∧ (let s : State := onM { r0 with now := 14400000000000 - 2 } 0 (fun M => { M with nv := { M.nv with ckptStart := some 0 } })
       (s.mast 0).nv.ckptStart = some 0 ∧ s.localNs 0 < 0 + 7200000000000 ∧ ({ s with now := 14400000000000 } : State).localNs 0 = 0 + 7200000000000) := by
  (repeat' apply And.intro) <;> decide +kernel

/-- Mast A's flash operation `o` is under way. -/
def flashing (o : FlashOp) : State := onM r0 0 (fun M => { M with nv := { M.nv with flashOp := some o } })

theorem wit_flash_page_works : r0.Direct 0 0 ∧ r0.Reaches 0 0x043 0x044 0 true 4 4
    ∧ (setF r0 [(0, F.FLASH_STATUS_BUSY, 1)]).bit 0 F.FLASH_STATUS_BUSY = true ∧ r0.bit 0 F.FLASH_STATUS_BUSY = false
    ∧ (setF r0 [(0, F.FLASH_INFO_SIZE_MIB, 64), (0, F.FLASH_ADDR_ADDR, 0x03700000)]).flashCheck 0 0 3 0x03700000 = 0
    ∧ (setF r0 [(0, F.FLASH_INFO_SIZE_MIB, 64), (0, F.FLASH_ADDR_ADDR, 0x036FFFFF)]).flashCheck 0 0 3 0x036FFFFF = 1
    ∧ ((flashing ⟨1, 0x03700000, []⟩).mast 0).nv.flashOp = some ⟨1, 0x03700000, []⟩ ∧ (flashing ⟨1, 0x03700000, []⟩).mirroring = false
    ∧ ((flashing ⟨1, 0x03700000, []⟩).mirror 0 (.data 2 0x03700000 (leNat (((flashing ⟨1, 0x03700000, []⟩).mast 0).nv.bytes 0x03700000 256))) 0).isSome = true
    ∧ (List.replicate 256 0xAA).length = 256 ∧ (∀ d ∈ List.replicate 256 0xAA, d < 256)
    ∧ ((flashing ⟨3, 0x03700000, []⟩).mast 0).nv.flashOp = some ⟨3, 0x03700000, []⟩ := by (repeat' apply And.intro) <;> decide +kernel

/-! ### Power, boot and resets -/

/-- Running, mast A waiting for its boot ROM; a blank flash is without a header. -/
def booting : State := onM { r0 with phase := 2 } 0 (fun M => { M with booting := true, bootStep := 2 })

/-- Header copy A: the magic, 56 bytes of 0xFF, and the CRC-32 of the 60. -/
def headed : State :=
  onM booting 0 (fun M => { M with nv := { M.nv with flash :=
    [(0, 0x4E), (1, 0x4C), (2, 0x59), (3, 0x53), (60, 0x5e), (61, 0x43), (62, 0x99), (63, 0xbf)] } })

theorem wit_package_power_and_heat : r0.phase = 0 ∧ booting.phase ≠ 0 ∧ r0.fitted 1 = true ∧ (6 : Nat) < 8 ∧ r0.fitted 7 = true
    ∧ r0.Direct 0 0 ∧ r0.Reaches 0 0x006 0x044 0 true 4 4 ∧ (setF r0 [(0, F.THERM_CFG_PERIOD, 5)]).get 0 F.THERM_CFG_PERIOD ≠ 0
    ∧ (setF r0 [(0, F.THERM_CFG_PERIOD, 0)]).get 0 F.THERM_CFG_PERIOD = 0 ∧ r0.convs.contains (0, 0) = false
    ∧ ({ r0 with convs := [(0, 1), (2, 0)] } : State).convs.contains (0, 1) = true ∧ ({ r0 with convs := [(0, 1), (2, 0)] } : State).convs.contains (2, 0) = true
    ∧ r0.mirroring = false := by (repeat' apply And.intro) <;> decide +kernel

theorem wit_boot_and_first_role : booting.fitted 0 = true ∧ booting.phase = 2 ∧ booting.testEn = false ∧ (booting.mast 0).booting = true
    ∧ tapHolds (Tbl.get (fun _ => 0xFF) booting.tap 0) = false ∧ (booting.mast 0).nv.headerOk 0 = false ∧ (booting.mast 0).nv.headerOk 0x8000 = false
    ∧ (headed.mast 0).nv.headerOk 0 = true ∧ ((headed.mast 0).nv.cfg.getD ⟨UpdRec.fresh, []⟩).upd.mode = 0
    ∧ headed.bootable 0 0 = false ∧ headed.bootable 0 1 = false
    ∧ (let s := setF (onM booting 1 (fun M => { M with bootStep := 9 })) [(1, F.PAIR_STATE_STATE, 4)]
       s.redundant = true ∧ s.phase = 2 ∧ (s.mast 1).bootStep = 9 ∧ s.bit 1 F.PAIR_ROLE_ACTIVE = false ∧ s.bit 1 F.PAIR_STATE_PEER_PRESENT = false
       ∧ s.pairState 1 = 4)
    ∧ ((r0.setSail 5 { r0.sail 5 with gated := true }).sail 5).gated = true ∧ r0.hasSail 5 = true ∧ r0.reefed = false
    ∧ tapHolds 3 = true ∧ tapHolds 5 = false := by (repeat' apply And.intro) <;> decide +kernel

theorem wit_resets_of_one_die : r0.Direct 0 0 ∧ r0.Reaches 0 0x000 0x044 0 true 4 4 ∧ 0xE701 / 256 % 256 = 0xE7 ∧ 0xE701 % 4 = 1 ∧ 0xE702 % 4 = 2
    ∧ r0.redundant = true ∧ awaitAck.Reaches 0 0x000 0x044 17 true 4 4 ∧ 3 ≤ awaitAck.privOf 0 (awaitAck.ctxOf 0 17) ∧ awaitAck.Direct 0 17
    ∧ r0.Reaches 0 0x000 0x04C 0 true 4 4 ∧ 0x5A5A % 65536 = 0x5A5A ∧ (setF r0 [(1, F.SYS_WDT_EN, 1)]).bit 1 F.SYS_WDT_EN = true
    ∧ r0.fitted 7 = true ∧ r0.hasSail 5 = true ∧ keepWord 0x000060 = false
    ∧ tmrWord 0 0x004400 = true ∧ attrSlot 0x004400 = none ∧ genSlot 0x004400 = none ∧ tmrWord 7 0x004040 = true ∧ 2 ^ 32 % 2 ^ 32 = 0 := by (repeat' apply And.intro) <;> decide +kernel

/-! ### Timers, clocks and time domains -/

/-- The reset state of a mast and of a sail timer with something set. -/
def tS (f g : Fld) (d i v : Nat) : State := setF r0 [(d, tf f g d i, v)]

theorem wit_timers_count_and_obey : r0.hasTimer 0 31 = true ∧ r0.hasTimer 0 32 = false ∧ r0.hasTimer 7 7 = true
    ∧ r0.bit 0 (tf F.TIMERS_TTRIG_ON_MATCH F.STIMERS_TTRIG_ON_MATCH 0 31) = false
    ∧ r0.bit 7 (tf F.TIMERS_TTRIG_ON_WRAP F.STIMERS_TTRIG_ON_WRAP 7 7) = false
    ∧ (let s := setF r0 [(0, tf F.TIMERS_TCTL_CHAIN F.STIMERS_TCTL_CHAIN 0 31, 1), (0, tf F.TIMERS_TCTL_EN F.STIMERS_TCTL_EN 0 31, 1)]
       s.bit 0 (tf F.TIMERS_TCTL_CHAIN F.STIMERS_TCTL_CHAIN 0 (30 + 1)) = true ∧ s.bit 0 (tf F.TIMERS_TCTL_EN F.STIMERS_TCTL_EN 0 (30 + 1)) = true)
    ∧ capSource 0 ((tS F.TIMERS_TCTL_CAP_SRC F.STIMERS_TCTL_CAP_SRC 0 31 26).get 0 (tf F.TIMERS_TCTL_CAP_SRC F.STIMERS_TCTL_CAP_SRC 0 31)) = true
    ∧ capSource 2 ((tS F.TIMERS_TCTL_CAP_SRC F.STIMERS_TCTL_CAP_SRC 2 7 3).get 2 (tf F.TIMERS_TCTL_CAP_SRC F.STIMERS_TCTL_CAP_SRC 2 7)) = true
    ∧ capSource 2 4 = false ∧ (r0.mirror 0 (.ext 0 31 0) 0).isSome = true ∧ 0 = p0.active ∧ r0.mirroring = false
    ∧ awaitAck.waitAck 0 = true ∧ r0.waitAck 0 = false
    ∧ (({ r0 with reefed := true }.setSail 5 { r0.sail 5 with gated := true } : State).sail 5).gated = true ∧ (r0.sail 5).gated = false
    ∧ (tS F.TIMERS_TSTAT_FRESH F.STIMERS_TSTAT_FRESH 0 3 1).bit 0 (tf F.TIMERS_TSTAT_FRESH F.STIMERS_TSTAT_FRESH 0 3) = true
    ∧ r0.Reaches 0 0x032 (0x408 + 16 * 31) 0 false 4 4 ∧ r0.Reaches 0 0x032 (0x400 + 16 * 30) 0 false 4 4
    ∧ r0.fitted 7 = true ∧ r0.Direct 0 0 ∧ r0.Reaches 0 0x032 0x240 0 true 4 4 ∧ r0.Reaches 0 0x032 0x244 0 true 4 4
    ∧ (∀ i, i < 32 → r0.bit 0 (tf F.TIMERS_TCTL_CHAIN F.STIMERS_TCTL_CHAIN 0 i) = false
        ∧ r0.bit 0 (tf F.TIMERS_TTRIG_ON_MATCH F.STIMERS_TTRIG_ON_MATCH 0 i) = false
        ∧ r0.bit 0 (tf F.TIMERS_TTRIG_ON_WRAP F.STIMERS_TTRIG_ON_WRAP 0 i) = false)
    ∧ (tS F.TIMERS_TCTL_EN F.STIMERS_TCTL_EN 0 3 1).bit 0 (tf F.TIMERS_TCTL_EN F.STIMERS_TCTL_EN 0 3) = true := by
  (repeat' apply And.intro) <;> decide +kernel

/-- Both references of mast A are valid, or only those whose value is 1. -/
def refs (a b : Nat) : State := setF r0 [(0, mastRefOk 0, a), (0, mastRefOk 1, b)]

/-- The same of sail 0. -/
def sailRefs (a b : Nat) : State := setF r0 [(2, refOk 0, a), (2, refOk 1, b)]

theorem wit_clock_references : r0.fitted 0 = true ∧ (refs 1 1).get 0 F.TIME_LOCAL_STATUS_REF_SEL = 0 ∧ (refs 1 1).bit 0 (mastRefOk (1 - 0)) = true
    ∧ (refs 1 0).bit 0 (mastRefOk (1 - 0)) = false ∧ (refs 1 1).get 0 F.TIME_LOCAL_STATUS_REF_SEL ≠ 1
    ∧ (setF (refs 0 0) [(0, F.TIME_LOCAL_STATUS_HOLD, 1)]).bit 0 F.TIME_LOCAL_STATUS_HOLD = true ∧ (r0.mast 0).relockRef = none
    ∧ (refs 0 0).bit 0 (mastRefOk 0) = false ∧ (refs 0 0).bit 0 (mastRefOk 1) = false ∧ (refs 0 0).bit 0 F.TIME_LOCAL_STATUS_HOLD = false
    ∧ (refs 0 1).bit 0 (mastRefOk 1) = true ∧ ((onM r0 0 (fun M => { M with relockRef := some 1 })).mast 0).relockRef = some 1
    ∧ r0.hasSail 0 = true ∧ (sailRefs 1 0).get (sailDie 0) F.ADC_CLK_STATUS_REF_SEL = 0 ∧ (sailRefs 1 0).bit (sailDie 0) F.ADC_CLK_STATUS_HOLDOVER = false
    ∧ (sailRefs 1 0).bit (sailDie 0) (refOk (1 - 0)) = false ∧ (sailRefs 1 1).bit (sailDie 0) (refOk (1 - 0)) = true
    ∧ (setF (sailRefs 0 0) [(2, F.ADC_CLK_STATUS_HOLDOVER, 1)]).bit (sailDie 0) F.ADC_CLK_STATUS_HOLDOVER = true ∧ (r0.sail 0).relockRef = none
    ∧ ((r0.setSail 0 { r0.sail 0 with relockRef := some 1 }).sail 0).relockRef = some 1 ∧ (r0.sail 0).cutAtLoss = [] := by
  (repeat' apply And.intro) <;> decide +kernel

/-- NET follows samples written by software, in TRACK. -/
def netSw : State := setF r0 [(0, dc F.TIME_D_SRC_SRC 2, 1), (0, dl F.TIME_D_STATE_STATE 2, 2), (0, dc F.TIME_D_JUMP_NS 2, 1000)]

theorem wit_time_samples : r0.fitted 0 = true ∧ netSw.Direct 0 0 ∧ netSw.Reaches 0 0x030 (0x098 + 0x40 * (2 - 1)) 0 true 8 8
    ∧ netSw.bit 0 (dl F.TIME_D_STATE_ARMED 2) = false ∧ r0.get 0 (dc F.TIME_D_SRC_SRC 2) ≠ 1 ∧ netSw.get 0 (dc F.TIME_D_SRC_SRC 2) = 1
    ∧ netSw.get 0 (dc F.TIME_D_JUMP_NS 2) < (signed 48 1001).natAbs ∧ ¬ netSw.get 0 (dc F.TIME_D_JUMP_NS 2) < (signed 48 (2 ^ 48 - 1000)).natAbs
    ∧ netSw.get 0 (dc F.TIME_D_JUMP_NS 2) ≠ 0 ∧ (setF netSw [(0, dc F.TIME_D_JUMP_NS 2, 0)]).get 0 (dc F.TIME_D_JUMP_NS 2) = 0
    ∧ (∀ y, 1 ≤ y → y ≤ 3 → netSw.get 0 (dc F.TIME_D_SRC_SRC y) ≠ 2)
    ∧ (setF r0 [(0, F.TIME_PPS_STATUS_FRESH, 1)]).bit 0 F.TIME_PPS_STATUS_FRESH = true
    ∧ r0.get 0 F.TIME_PPS_STATUS_MISS + 1 < 3 ∧ 3 ≤ (setF r0 [(0, F.TIME_PPS_STATUS_MISS, 2)]).get 0 F.TIME_PPS_STATUS_MISS + 1
    ∧ (setF r0 [(0, dc F.TIME_D_SRC_SRC 2, 2)]).get 0 (dc F.TIME_D_SRC_SRC 2) = 2 ∧ netSw.domState 0 2 = 2 ∧ r0.domState 0 2 ≠ 2 ∧ r0.domState 0 2 ≠ 3 := by
  have h : ∀ y, 1 ≤ y → y ≤ 3 → netSw.get 0 (dc F.TIME_D_SRC_SRC y) ≠ 2 := by
    intro y h1 h2
    have : y = 1 ∨ y = 2 ∨ y = 3 := by omega
    rcases this with rfl | rfl | rfl <;> decide +kernel
  refine ⟨?_, ?_, ?_, ?_, ?_, ?_, ?_, ?_, ?_, ?_, h, ?_, ?_, ?_, ?_, ?_, ?_, ?_⟩ <;> decide +kernel

theorem wit_time_sets_and_outputs : r0.fitted 0 = true ∧ r0.Direct 0 0 ∧ r0.Reaches 0 0x030 (0x0AC + 0x40 * (1 - 1)) 0 true 4 4
    ∧ r0.Reaches 0 0x030 (0x0AC + 0x40 * (3 - 1)) 0 true 4 4 ∧ (∀ p, p < 4 → ∀ c, c < 8 → r0.egressHead 0 p c = none)
    ∧ (setF a0 [(0, tl F.TPO_STATUS_ACTIVE 7, 1)]).bit 0 (tl F.TPO_STATUS_ACTIVE 7) = true ∧ a0.active = 0 ∧ (setF r0 [(0, F.PAIR_ROLE_ACTIVE, 0), (1, F.PAIR_ROLE_ACTIVE, 1)]).active ≠ 0
    ∧ (setF a0 [(0, tc F.TPO_CTL_MODE 7, 2)]).get 0 (tc F.TPO_CTL_MODE 7) = 2 ∧ r0.get 0 (tc F.TPO_CTL_MODE 7) ≠ 2 := by
  (repeat' apply And.intro) <;> decide +kernel

/-! ### Ports and rings -/

/-- A packet to a port, and a frame that carries it. -/
def pkt : Packet := { src := ⟨0, 0⟩, dst := ⟨0, 0⟩, hopLimit := 64, icmpType := none, udpDst := none, rh := none, inner := [], data := [] }
def frame (dst src ty : Nat) : EthFrame :=
  { dst := dst, src := src, vlan := none, etherType := ty, len := 64, fcsOk := true, pkt := some pkt, ipLen := 46, data := [], stamp := none }

/-- Port 0 of mast A is UP with OWN_MAC 5 and the partner 7, station 8 open, alone. -/
def portUp : State :=
  (setF a0 [(0, eth F.ETH_LINK_STATE 0, 2), (0, eth F.ETH_CFG_MODE 0, 3), (0, stf F.STAB_SCFG_DEPTH 8, 4), (0, eth F.ETH_STATIONS_OTHER_STATION 0, 0xFF)]
    |>.put64 0 (eth F.ETH_OWN_MAC_MAC 0) 5 |>.put64 0 (eth F.ETH_PARTNER_MAC 0) (7 + 2 ^ 63 + 2 ^ 62))

/-- The same with an item of 64 bytes in class 7. -/
def portItem : Item := { item 3 (.packet pkt none) with place := .queue 7 }
def portHead : State :=
  onM portUp 0 (fun M => { M with sal := (M.sal.setQueue 7 { M.sal.queue 7 with heads := [3], cells := 1 }).setItem 3 portItem })

theorem wit_ports_and_gates : r0.hasPort 0 3 = true ∧ (∀ c, c < 8 → r0.egressHead 0 3 c = none)
    ∧ (let s := onM r0 0 (fun M => { M with gates := [(3, { Gate.reset with pending := some ⟨[⟨1, 1000⟩], 1000, 0⟩, running := some ⟨[⟨1, 1000⟩], 1000, 0⟩ })] })
       (s.eport 0 3).pending = some ⟨[⟨1, 1000⟩], 1000, 0⟩ ∧ (s.eport 0 3).shifted = false ∧ (s.eport 0 3).running = some ⟨[⟨1, 1000⟩], 1000, 0⟩ ∧ (∀ c, c < 8 → s.egressHead 0 3 c = none))
    ∧ 0 = portHead.active ∧ (portHead.eport 0 0).paused = false ∧ portHead.get 0 (eth F.ETH_LINK_STATE 0) = 2 ∧ byteTime (portHead.get 0 (eth F.ETH_CFG_MODE 0)) ≠ 0
    ∧ portHead.portGated 0 0 = false ∧ portHead.bit 0 (eth F.ETH_PARTNER_VALID 0) = true
    ∧ portHead.egressHead 0 0 7 = some (3, portItem)
    ∧ portHead.fit 0 0 7 (portHead.ethLen 0 0 portItem) = .start ∧ ptpOf (.packet pkt none) = none
    ∧ portUp.hasPort 0 0 = true
    ∧ ¬ ((frame 5 7 0x86DD).fcsOk = true ∧ 64 ≤ 63) ∧ ((frame 5 7 0x86DD).fcsOk = true ∧ 64 ≤ (frame 5 7 0x86DD).len ∧ (frame 5 7 0x86DD).len ≤ max 64 (portUp.get 0 (eth F.ETH_MAX_RX_BYTES 0)))
    ∧ portUp.ethAddr 0 0 (frame 6 7 0x86DD) = false ∧ portUp.ethAddr 0 0 (frame 5 9 0x86DD) = true ∧ portUp.partnerOf 0 0 = some 7
    ∧ (portUp.put64 0 (eth F.ETH_PARTNER_MAC 0) 0).partnerOf 0 0 = none
    ∧ portUp.ethFate 0 0 (frame 5 7 0x0800) = .noStation ∧ portUp.ethFate 0 0 (frame 5 7 0x86DD) = .station 0x08 false ∧ portUp.mirroring = false
    ∧ (onM portUp 0 (fun M => { M with sal := M.sal.setQueue 41 { M.sal.queue 41 with cells := 16384 } })).admitQ 0 41 1 = false
    ∧ (∀ b, (portUp.allocItem 0 (41 + 0) 46 b).isSome = true) ∧ Tbl.get (fun _ => []) (portUp.mast 0).sal.ethHold 0 = []
    ∧ (portUp.mast 0).hal.held = [] ∧ stationReserved 8 = false ∧ (portUp.mast 0).hal.countAt 8 < portUp.depthOf 0 8
    ∧ 1 ≠ portUp.active ∧ portUp.redundant = true ∧ ((linkUp a0 6).receive 6 (decide ((1 : Nat) = 0)) 0x0F (pks 6 (decide ((1 : Nat) = 0)) 0x0F 0 [1])).1 = true := by
  refine ⟨?_, ?_, ?_, ?_, ?_, ?_, ?_, ?_, ?_, ?_, ?_, ?_, ?_, ?_, ?_, ?_, ?_, ?_, ?_, ?_, ?_, ?_, ?_, fun _ => rfl, ?_, ?_, ?_, ?_, ?_, ?_, ?_⟩ <;> decide +kernel

theorem wit_links_and_interrupt_masks : r0.fitted 0 = true ∧ portUp.get 0 (eth F.ETH_LINK_STATE 0) = 2 ∧ portUp.get 0 (eth F.ETH_LINK_STATE 3) ≠ 2
    ∧ (∀ c, c < 8 → portUp.egressHead 0 0 c = none) ∧ portUp.bit 0 (eth F.ETH_PARTNER_LEARNED 0) = true ∧ portUp.bit 0 (eth F.ETH_PEER_STATIC 0) = false
    ∧ (portUp.session portUp.active (portUp.portCtx 0 0)).isOpen = false ∧ (r0.mast 0).msixMask.contains 63 = true
    ∧ (let s := onM vecS 0 (fun M => { M with msixMask := [5], pba := [5] })
       (s.mast 0).msixMask.contains 5 = true ∧ ((s.mast 0).msixMask.erase 5).contains 5 = false ∧ (s.mast 0).pba.contains 5 = true ∧ s.vecPending 0 5 = true)
    ∧ (r0.mast 0).pba.contains 63 = false
    ∧ (let s := setF a0 [(0, F.MGMT_CFG_UART_EN, 0), (0, F.MGMT_CFG_SPI_EN, 1)]
       s.mgmtOn 0 true = false ∧ s.mgmtOn 0 false = true ∧ s.mgmtBusy 0 = false ∧ s.mgmtBusy 1 = false ∧ s.delivered 0x3FF000 = false ∧ s.delivered 0x010000 = true
       ∧ ¬ (0x010000 / 4096 % 1024 = 0x008 ∧ 0x010000 % 4096 = 0x048) ∧ s.inputHeld = false ∧ 2047 < 2048 ∧ 2047 ≤ 2047
       ∧ ((s.bump 0 F.MGMT_REQUESTS).mirror 0 (.mgmtFrame 2047 pkt) 0).isSome = true) := by
  (repeat' apply And.intro) <;> decide +kernel

/-- Ring 63 of mast A: towards the device (`dir` false) or the host, with `n` buffers posted. -/
def ringS (dir : Bool) (n : Nat) : State :=
  onM (setF portHead [(0, F.PCIE_LINK_BME, 1)]) 0 (fun M =>
    { M with rings := [(63, { Ring.reset with cfg := { RingCfg.reset with en := true, dir := dir }, tail := n, count := 2, ack := 1 })],
             sal := M.sal.setQueue 127 { M.sal.queue 127 with heads := [3], cells := 1 } })

/-- The host has an OPERATE session. -/
def hostIn : State := onM r0 0 (fun M => { M with keys := { M.keys with sessions := [(4, ⟨true, 2, 600⟩)] } })

theorem wit_host_rings_work : hostIn.Direct 0 16 ∧ hostIn.Reaches 0 0x048 (0x1000 + 16 * 63) 16 true 4 4 ∧ hostIn.Reaches 0 0x048 (0x1008 + 16 * 63) 16 true 4 4
    ∧ 0 ≤ sdiff 32 256 (r0.ring 0 63).head ∧ sdiff 32 256 (r0.ring 0 63).head ≤ ((r0.ring 0 63).cfg.size : Int)
    ∧ ((r0.ring 0 63).cfg.size : Int) < sdiff 32 257 (r0.ring 0 63).head ∧ sdiff 32 (2 ^ 32 - 1) (r0.ring 0 63).head < 0
    ∧ ((ringS true 1).ring 0 63).count ≠ ((ringS true 1).ring 0 63).ack ∧ (r0.ring 0 63).count = (r0.ring 0 63).ack
    ∧ (ringS false 1).txTurn 0 = some 63 ∧ 0 = (ringS false 1).active ∧ (ringS false 1).mirroring = false ∧ ((ringS false 1).mast 0).hal.held = []
    ∧ (onM (ringS false 1) 0 (fun M => { M with sal := M.sal.setQueue 45 { M.sal.queue 45 with cells := 16384 } })).allocItem 0 45 2047 (.packet pkt none) = none
    ∧ ((ringS false 1).allocItem 0 45 2047 (.packet pkt none)).isSome = true ∧ ((ringS false 1).mast 0).hal.countAt 8 < (ringS false 1).depthOf 0 8
    ∧ (ringS true 1).fitted 0 = true ∧ ((ringS true 1).ring 0 63).cfg.en = true ∧ ((ringS true 1).ring 0 63).cfg.dir = true
    ∧ ((ringS true 1).ring 0 63).head ≠ ((ringS true 1).ring 0 63).tail ∧ (ringS true 1).rxQueue 0 63 = some 127
    ∧ ((ringS true 1).dequeue 0 127).isSome = true := by (repeat' apply And.intro) <;> decide +kernel

/-! ### Updates and campaigns -/

/-- Mast `m`'s update engine changed. -/
def onU (s : State) (f : Upd → Upd) : State := onM s 0 (fun M => { M with upd := f M.upd })

/-- UPDATE.CELL names an item of the given bytes. -/
def updS (phase : Nat) (b : List Nat) : State :=
  withItem (setF r0 [(0, F.UPDATE_CELL_CELL, 3), (0, F.UPDATE_STATUS_PHASE, phase)]) 0 3 (item 3 (.bytes b))

/-- A manifest of zeros but for an image length of 1 024 bytes: one chunk. -/
def man1 : List Nat := List.replicate 17 0 ++ [4] ++ List.replicate 14 0

/-- Phase RECEIVING of that manifest. -/
def rxS (b : List Nat) : State := onU (updS 2 b) (fun U => { U with urec := { U.urec with manifest := man1, rxState := 1 } })

theorem wit_update_receives : r0.fitted 0 = true ∧ r0.Direct 0 0 ∧ r0.Reaches 0 0x040 0x040 0 true 4 4 ∧ r0.bit 0 F.UPDATE_STATUS_BUSY = false
    ∧ ({ r0 with reefed := true } : State).reefed = true ∧ r0.reefed = false ∧ r0.bit 0 F.UPDATE_LOCK_LOCK = false ∧ (r0.urec 0).mode ≠ 1
    ∧ r0.updPhase 0 < 4 ∧ (updS 0 []).checkManifest 0 ((updS 0 []).updItem 0) ≠ 0
    ∧ (rxS []).updPhase 0 = 2 ∧ chunksOf (manLen ((rxS []).urec 0).manifest) = 1
    ∧ ((rxS (List.replicate 1024 1)).updItem 0).length = 1024
    ∧ allChunks (manLen ((rxS []).urec 0).manifest) 1 = true ∧ allChunks (manLen ((rxS []).urec 0).manifest) 0 = false ∧ (updS 3 []).updPhase 0 ≠ 2
    ∧ (let s := onU r0 (fun U => { U with erasing := true, prog := some (0, man1) })
       (s.mast 0).upd.erasing = true ∧ (s.mast 0).upd.prog = some (0, man1))
    ∧ (let s := onU r0 (fun U => { U with prog := some (8191, [1]), unrec := 1 })
       (s.mast 0).upd.erasing = false ∧ (s.mast 0).upd.prog = some (8191, [1]) ∧ (s.mast 0).upd.unrec ≠ 0)
    ∧ ((onM r0 0 (fun M => { M with camp := { M.camp with prog := some (1023, [1]) } })).mast 0).camp.prog = some (1023, [1])
    ∧ ((onU r0 (fun U => { U with verifying := true })).mast 0).upd.verifying = true := by
  (repeat' apply And.intro) <;> decide +kernel

/-- The owner's session on the management port; mast A is active, its image STAGED, and the pair IN_STEP with the same image. -/
def stagedS : State :=
  onM (onM (setF p0 [(0, F.UPDATE_STATUS_PHASE, 3)]) 0 (fun M => { M with
      keys := { M.keys with sessions := [(6, ⟨true, 3, 600⟩)] }, upd := { M.upd with urec := { M.upd.urec with rxState := 2 } } })) 1
    (fun M => { M with upd := { M.upd with urec := { M.upd.urec with rxState := 2 } } })

/-- A trial of mast A that runs, in a single mast or in a pair DIVERGED. -/
def trial (st : Nat) : State :=
  onU (setF stagedS [(0, F.UPDATE_STATUS_PHASE, 6), (0, F.PAIR_STATE_STATE, st), (1, F.PAIR_STATE_STATE, 3)])
    (fun U => { U with urec := { U.urec with mode := 1 } })

theorem wit_update_activates : r0.Direct 0 0 ∧ r0.Reaches 0 0x040 0x040 0 true 4 4 ∧ r0.privOf 0 (r0.ctxOf 0 0) < 3
    ∧ stagedS.Direct 0 0 ∧ stagedS.Reaches 0 0x040 0x040 0 true 4 4 ∧ stagedS.bit 0 F.UPDATE_STATUS_BUSY = false ∧ 3 ≤ stagedS.privOf 0 (stagedS.ctxOf 0 0)
    ∧ 0 = stagedS.active ∧ stagedS.actRefused 0 = 0 ∧ stagedS.updPhase 0 = 3
    ∧ (setF stagedS [(0, F.UPDATE_STATUS_PHASE, 2)]).updPhase 0 ≠ 3 ∧ (setF stagedS [(0, F.PAIR_STATE_STATE, 3)]).actRefused 0 = 12
    ∧ stagedS.updPhase 0 ≠ 4 ∧ stagedS.updPhase 0 ≠ 5 ∧ (stagedS.mast 0).upd.actPend = false
    ∧ ((onU stagedS (fun U => { U with actPend := true })).mast 0).upd.actPend = true
    ∧ stagedS.Reaches 0 0x040 0x054 0 true 4 4 ∧ 0xC3 % 256 = 0xC3 ∧ (stagedS.urec 0).mode ≠ 1
    ∧ ((trial 5).urec 0).mode = 1 ∧ (trial 5).updPhase 0 = 6 ∧ (trial 5).pairState 0 = 5 ∧ (trial 3).pairState 0 ≠ 5
    ∧ ((onU r0 (fun U => { U with urec := { U.urec with secPend := some 64 } })).urec 0).secPend = some 64
    ∧ (let s := setF stagedS [(0, F.UPDATE_STATUS_PHASE, 4)]
       (onM s 1 (fun M => { M with keys := { M.keys with sessions := [(6, ⟨true, 3, 600⟩)] } })).Reaches 1 0x040 0x05C 0 true 4 4
       ∧ s.redundant = true ∧ 1 = 1 - s.active ∧ s.active < 2 ∧ s.updPhase s.active = 4 ∧ (s.mast 1).booting = false ∧ s.updPhase 0 = 4)
    ∧ ((trial 3).mast 0).booting = false ∧ (trial 3).pairState (1 - 0) = 3 ∧ 0 = (trial 3).active
    ∧ ({ trial 3 with variant := .s2 } : State).redundant = false := by (repeat' apply And.intro) <;> decide +kernel

/-- Mast A's campaign engine changed, its phase and fragment count set. -/
def onC (phase len : Nat) (f : Camp → Camp) : State :=
  onM (setF r0 [(0, F.CAMPAIGN_STATUS_PHASE, phase), (0, F.CAMPAIGN_IMG_LEN_BYTES, len), (0, F.CAMPAIGN_ID_CAMP_ID, 9)]) 0
    (fun M => { M with camp := f M.camp })

/-- The record of the load under way, as the registers stand. -/
def sameS : State :=
  onM (onC 1 1024 id) 0 (fun M => { M with nv := { M.nv with camp := some ⟨[(key 0 F.CAMPAIGN_ID_CAMP_ID.addr, 9), (key 0 F.CAMPAIGN_IMG_LEN_BYTES.addr, 1024)], 0, 1, 0, 0, []⟩ } })

theorem wit_campaign_image_loads : r0.fitted 0 = true ∧ r0.Direct 0 0 ∧ r0.Reaches 0 0x041 0x040 0 true 4 4
    ∧ ((onC 1 1024 (fun C => { C with prog := some (0, []) })).mast 0).camp.prog.isSome = true ∧ ((onC 1 1024 (fun C => { C with verifying := true })).mast 0).camp.verifying = true
    ∧ (r0.mast 0).camp.prog = none ∧ (r0.mast 0).camp.verifying = false ∧ ((onC 3 1024 (fun C => { C with running := true })).mast 0).camp.running = true
    ∧ (onC 7 1024 id).campPhase 0 = 7 ∧ (onC 1 1024 id).campPhase 0 = 1 ∧ (onC 1 1024 id).sameLoad 0 = false ∧ sameS.sameLoad 0 = true
    ∧ chunksOf ((onC 1 1025 id).imgLen 0) = 2 ∧ chunksOf ((onC 1 1024 id).imgLen 0) = 1
    ∧ (onC 0 1024 id).campPhase 0 ≠ 1 ∧ allChunks ((onC 1 1025 id).imgLen 0) 3 = true ∧ allChunks ((onC 1 1025 id).imgLen 0) 1 = false
    ∧ (onC 2 1024 id).campPhase 0 ≠ 0 := by (repeat' apply And.intro) <;> decide +kernel

/-- Node 7 is in use, its group 0 a target; its campaign section as given. -/
def nodeC (s : State) (c : CampSec) : State :=
  onM (setF s [(0, F.CAMPAIGN_NODE_NODE, 7), (0, F.CAMPAIGN_TARGET_GROUPS, 1)]) 0
    (fun M => M.setNode 7 { M.node 7 with ident := { (M.node 7).ident with used := true, port := 2 }, camp := c })

/-- A campaign section of campaign 9. -/
def sec (nstate tries missing : Nat) : CampSec := ⟨9, nstate, 0, missing, tries, 0, 0, 0, 0⟩

/-- A wave of node 7 runs. -/
def waveS (phase : Nat) (c : CampSec) (f : Camp → Camp) : State :=
  nodeC (onC phase 512 (fun C => f { C with wave := [(7, 0)], running := true, missing := [(0, 3)] })) c

theorem wit_campaign_waves_run : r0.fitted 0 = true ∧ r0.Direct 0 0 ∧ r0.Reaches 0 0x041 0x040 0 true 4 4
    ∧ (let s := nodeC (onC 2 512 id) (sec 0 0 0)
       (s.mast 0).camp.prog = none ∧ (s.mast 0).camp.verifying = false ∧ s.campPhase 0 = 2 ∧ s.get 0 F.CAMPAIGN_NODE_NODE < 131072
       ∧ ((s.mast 0).node 7).ident.used = true ∧ s.groupIn 0 7 F.CAMPAIGN_TARGET_GROUPS = true ∧ (s.mast 0).camp.wave.any (fun e => e.1 == 7) = false
       ∧ s.inCamp 0 7 = false ∧ (s.mast 0).camp.freeSlot = some 0 ∧ s.groupIn 0 7 F.CAMPAIGN_GROUP_LOCK_GROUPS = false ∧ (s.mast 0).camp.wave = [])
    ∧ (onC 3 512 id).campPhase 0 ≠ 2 ∧ (onC 3 512 id).campPhase 0 ≠ 6
    ∧ (waveS 6 (sec 1 0 2) id).campPhase 0 = 6 ∧ ((waveS 6 (sec 1 0 2) id).mast 0).camp.wave ≠ [] ∧ ((waveS 6 (sec 1 0 2) id).campOf 0 7).nstate = 1
    ∧ ((waveS 4 (sec 2 0 2) id).mast 0).camp.running = true ∧ (waveS 4 (sec 2 0 2) id).campPhase 0 ≠ 7 ∧ (r0.mast 0).camp.running = false
    ∧ (waveS 7 (sec 2 0 2) id).campPhase 0 = 7 ∧ (r0.mast 0).camp.resume < 16
    ∧ ((waveS 4 (sec 2 0 2) id).mast 0).camp.roundOpen = false ∧ ((waveS 4 (sec 2 0 2) id).mast 0).camp.mcWork = []
    ∧ (∃ k ∈ (waveS 4 (sec 2 0 2) id).sailList, (List.range ((waveS 4 (sec 2 0 2) id).fragCount 0)).filter (fun f => ((waveS 4 (sec 2 0 2) id).union 0 k).testBit f) ≠ [])
    ∧ (∀ k ∈ (waveS 4 (sec 3 0 2) id).sailList, (List.range ((waveS 4 (sec 3 0 2) id).fragCount 0)).filter (fun f => ((waveS 4 (sec 3 0 2) id).union 0 k).testBit f) = [])
    ∧ (let s := waveS 4 (sec 2 2 0) (fun C => { C with roundOpen := true, reported := [7] })
       (s.mast 0).camp.roundOpen = true ∧ (s.campOf 0 7).nstate = 2 ∧ (s.mast 0).camp.reported.contains 7 = true
       ∧ (s.campOf 0 7).missing ≤ s.get 0 F.CAMPAIGN_ROUND_CFG_STRAGGLE_MAX ∧ 2 ≤ (s.campOf 0 7).tries) := by
  (repeat' apply And.intro) <;> decide +kernel

/-- A report of node 7 waits at the campaign's station 16. -/
def reportS (b : List Nat) : State :=
  withItem (waiting (setF (waveS 4 (sec 1 0 2) id) [(0, stf F.STAB_SCFG_ENGINE 16, 1), (0, stf F.STAB_SCFG_DEPTH 16, 8)]) 0
    { Desc.zero with station := 16, cell := 3, node := 7, flags := 4 }) 0 3 (item 3 (.bytes b))

/-- Group 1 has a key in slot 5, and the reservation holds 100 counters. -/
def groupS : State :=
  onM (setF rooted [(0, F.KEYS_GROUP_SLOT_VALID.at 4 0, 1), (0, F.KEYS_GROUP_SLOT_SLOT.at 4 0, 5), (0, F.CAMPAIGN_RADIO_KEY_IDX, 1)]) 0
    (fun M => { M with keys := M.keys.setSlot 5 { KeySlot.empty 0 with valid := true, typ := 0, usage := 0xFF, material := 11 }, mac := { M.mac with fcReserve := 100 } })

theorem wit_campaign_nodes_answer : (waveS 3 (sec 1 2 2) id).inWave 0 7 = true ∧ ((waveS 3 (sec 1 2 2) id).campOf 0 7).nstate = 1
    ∧ ((waveS 3 (sec 1 2 2) id).mast 0).camp.todo.any (fun f => f.node == 7) = false ∧ ((waveS 3 (sec 1 2 2) id).mast 0).camp.sent.any (fun f => f.node == 7) = false
    ∧ 2 ≤ ((waveS 3 (sec 1 2 2) id).campOf 0 7).tries ∧ ((waveS 3 (sec 1 1 2) id).campOf 0 7).tries < 2 ∧ (waveS 3 (sec 1 1 2) id).groupIn 0 7 F.CAMPAIGN_GROUP_LOCK_GROUPS = false
    ∧ ((waveS 3 (sec 9 0 2) id).campOf 0 7).nstate = 9 ∧ (waveS 3 { sec 9 0 2 with deadline := 2 ^ 40 - 1 } id).duePast 0 7 = true ∧ (waveS 3 (sec 6 0 2) id).inCamp 0 7 = true ∧ ((waveS 3 (sec 6 0 2) id).campOf 0 7).nstate = 6 ∧ (waveS 3 { sec 6 0 2 with deadline := 2 ^ 40 - 1 } id).duePast 0 7 = true
    ∧ (let s := setF (waveS 5 (sec 4 0 0) id) [(0, F.CAMPAIGN_CFG_AUTO_ACT, 1)]
       s.inCamp 0 7 = true ∧ (s.campOf 0 7).nstate = 4 ∧ s.bit 0 F.CAMPAIGN_CFG_AUTO_ACT = true ∧ s.groupIn 0 7 F.CAMPAIGN_LIT_GROUPS = false ∧ s.campPhase 0 ≠ 7)
    ∧ ((reportS [0x11, 9, 0, 1, 0, 0, 0, 0, 2, 0, 0]).engineTake 0 16).isSome = true
    ∧ (((reportS [0x11, 9, 0, 1, 0, 0, 0, 0, 2, 0, 0]).engineTake 0 16).map (fun x => x.1.flags / 4 % 16)) = some 1
    ∧ (let b : List Nat := [0x11, 9, 0, 1, 0, 0, 0, 0, 2, 0, 0]
       11 ≤ b.length ∧ b.getD 0 0 = 0x11 ∧ b.getD 1 0 + 256 * b.getD 2 0 = (reportS b).campId 0 ∧ (reportS b).inCamp 0 7 = true ∧ b.getD 3 0 ≤ 4
       ∧ b.getD 7 0 + 256 * b.getD 8 0 + (b.getD 9 0 + 256 * b.getD 10 0) ≤ 512 ∧ 11 + (b.getD 9 0 + 256 * b.getD 10 0) ≤ b.length)
    ∧ (let s := setF (waveS 4 (sec 2 0 2) (fun C => { C with mcWork := [(0, [.frag 1, .gap])] })) [(0, stf F.STAB_SCFG_ENGINE 16, 1)]
       Tbl.get (fun _ => []) (s.mast 0).camp.mcWork 0 = [.frag 1, .gap] ∧ s.campPhase 0 ≠ 7 ∧ s.engineOf 0 16 = true)
    ∧ groupS.groupKey 0 (groupS.get 0 F.CAMPAIGN_RADIO_KEY_IDX) .enc = (some (beBytes 16 11), groupS)
    ∧ groupS.fcNext 0 (groupS.get 0 (F.MAC_FC_GROUP.at 4 1)) = .value 1
    ∧ (let fr := groupS.sealFrame 0 (beBytes 16 11) 1 (groupS.campaignFrame 0 none (groupS.campMessage 0 1 1) groupS.free.1)
       (groupS.allocItem 0 47 fr.len (.down fr)).isSome = true) := by
  (repeat' apply And.intro) <;> first | decide +kernel | rfl

/-! ### Pairs -/

/-- `p0` with mast `m`'s pair state changed. -/
def onP (s : State) (m : Nat) (f : Pair → Pair) : State := onM s m (fun M => { M with pair := f M.pair })

/-- Pair state `st` and transfer phase `ph` on both masts. -/
def pairS (st ph : Nat) : State :=
  setF p0 [(0, F.PAIR_STATE_STATE, st), (1, F.PAIR_STATE_STATE, st), (0, F.PAIR_XFER_STATUS_PHASE, ph), (1, F.PAIR_XFER_STATUS_PHASE, ph)]

/-- The jury with a digest of the active mast: counts 0, or 1 at station 3. -/
def digestS (s : State) (c : Nat) : State := onP s 1 (fun P => { P with peerDigest := [⟨5, digestOf [], 0, [0, 0, 0, c]⟩] })

/-- A transfer whose jury holds an input of `n` bytes. -/
def heldS (n : Nat) : State := onP (pairS 2 2) 1 (fun P => { P with buffer := [⟨1, 0, .ptp (List.replicate n 0)⟩] })

theorem heldS_bytes (n : Nat) : ((heldS n).mast 1).pair.bufBytes = n + 6 := by
  have h : ((heldS n).mast 1).pair.buffer = [⟨1, 0, .ptp (List.replicate n 0)⟩] := rfl
  simp [Pair.bufBytes, h, Input.bytes, Input.content, Nat.add_comm]

/-- The same with 8 MiB. -/
def fullS : State := heldS 8388608

theorem wit_pair_buffer_full : (fullS.receive 6 false 0x0B (pks 6 false 0x0B 1 [1])).2.jury 1 = true
    ∧ (fullS.receive 6 false 0x0B (pks 6 false 0x0B 1 [1])).2.pairState 1 = 2 ∧ fullS.updPhase fullS.active ≠ 5 ∧ fullS.updPhase fullS.active ≠ 7
    ∧ 8388608 < (fullS.mast 1).pair.bufBytes + (Input.slotEnd 1).bytes := by
  refine ⟨?_, ?_, ?_, ?_, by rw [fullS, heldS_bytes]; omega⟩ <;> decide +kernel

theorem wit_pair_mirrors_and_compares : p0.active < 2 ∧ p0.redundant = true
    ∧ (p0.receive 6 (decide ((1 : Nat) = 0)) 0x0B (pks 6 false 0x0B 1 [1])).1 = true
    ∧ ((setF p0 [(1, F.PAIR_STATE_STATE, 4)]).receive 6 false 0x0B (pks 6 false 0x0B 1 [1])).2.jury 1 = false
    ∧ (p0.receive 6 false 0x0B (pks 6 false 0x0B 1 [1])).2.jury 1 = true
    ∧ p0.jury 1 = true ∧ (p0.mast 1).pair.buffer.find? (fun x => x.inseq == (p0.mast 1).pair.inseq + 1) = none
    ∧ (let s := onP p0 1 (fun P => { P with buffer := [⟨1, 0, .slotEnd 1⟩] })
       s.jury 1 = true ∧ (s.pairState 1 ≠ 2 ∨ s.xferPhase 1 = 3)
       ∧ (s.mast 1).pair.buffer.find? (fun x => x.inseq == (s.mast 1).pair.inseq + 1) = some ⟨(s.mast 1).pair.inseq + 1, 0, .slotEnd 1⟩
       ∧ (s.mast 1).pair.buffer.find? (fun x => x.inseq == (s.mast 1).pair.inseq + 2) = none)
    ∧ ownWrite 0x010 0x320 = false ∧ 0 = p0.active ∧ p0.mirroring = true
    ∧ (p0.receive 6 false 0x0C (pks 6 false 0x0C 1 [1])).1 = true ∧ (p0.receive 6 false 0x0C (pks 6 false 0x0C 1 [1])).2.pairState 1 ≠ 3
    ∧ (let s := setF (digestS p0 0) [(1, F.PAIR_CFG_DIGEST_EN, 1)]
       s.jury 1 = true ∧ s.bit 1 F.PAIR_CFG_DIGEST_EN = true ∧ s.updPhase s.active ≠ 5 ∧ s.pairState 1 ≠ 3 ∧ s.digestReached 1 ⟨5, digestOf [], 0, [0, 0, 0, 0]⟩ = true)
    ∧ (digestS p0 1).pairState 1 = 1 ∧ (digestS p0 1).digestReached 1 ⟨5, digestOf [], 0, [0, 0, 0, 1]⟩ = false
    ∧ (pairS 2 3).pairState 1 = 2 ∧ (pairS 2 3).xferPhase 1 = 3
    ∧ (setF p0 [(1, F.PAIR_STATE_PEER_FAULT, 1)]).get 1 F.PAIR_STATE_PEER_FAULT ≠ 0 ∧ (setF p0 [(1, F.PAIR_STATE_PEER_FAULT, 1)]).get 1 F.PAIR_STATE_SELF_FAULT = 0 := by
  (repeat' apply And.intro) <;> decide +kernel

theorem wit_pair_hears_its_peer : p0.redundant = true ∧ p0.fitted 1 = true ∧ (p0.receive 6 false 0x0D (pks 6 false 0x0D 1 [1])).1 = true
    ∧ (p0.receive 6 true 0x0D (pks 6 true 0x0D 1 [1])).1 = true ∧ p0.bit 0 F.PAIR_ROLE_ACTIVE = true ∧ (p0.mast 0).pair.takeover ≠ some 3
    ∧ p0.get 0 F.PAIR_ROLE_EPOCH < 65535 ∧ p0.bit 1 F.PAIR_ROLE_ACTIVE = false
    ∧ (let s := onP (setF p0 [(1, F.PAIR_CFG_AUTO_FAILOVER, 1)]) 1 (fun P => { P with misses := 2, answers := [(3, 100)] })
       (s.mast 1).pair.misses = 2 ∧ 1 ≠ s.active ∧ s.updPhase 0 ≠ 4 ∧ s.updPhase 0 ≠ 5 ∧ s.pairState 1 = 1 ∧ s.bit 1 F.PAIR_CFG_AUTO_FAILOVER = true
       ∧ (s.mast 1).pair.answers.any (fun e => decide (e.2 ≤ 100)) = true)
    ∧ (p0.mast 1).pair.misses ≠ 2 ∧ ((onP p0 0 (fun P => { P with misses := 2 })).mast 0).pair.misses = 2 ∧ 0 = p0.active ∧ p0.updPhase 0 ≠ 4
    ∧ p0.hasSail 0 = true ∧ (p0.receive (connId 1 0) true 0x06 (pks (connId 1 0) true 0x06 1 [1])).1 = true ∧ 2 ≤ ((onP p0 1 (fun P => { P with misses := 2 })).mast 1).pair.misses
    ∧ (pairS 2 1).pairState 0 = 2 ∧ ((pairS 2 1).conn 6).state = 2 ∧ (pairS 2 1).xferPhase 0 = 1 ∧ 1 ≤ min 512 ((pairS 2 1).get 0 F.PAIR_XFER_CFG_FINAL_MAX)
    ∧ min 512 ((pairS 2 1).get 0 F.PAIR_XFER_CFG_FINAL_MAX) < 513
    ∧ max 1 ((setF (pairS 2 1) [(0, F.PAIR_XFER_CFG_PASSES, 1), (0, F.PAIR_XFER_STATUS_PASS, 1)]).get 0 F.PAIR_XFER_CFG_PASSES)
        ≤ (setF (pairS 2 1) [(0, F.PAIR_XFER_CFG_PASSES, 1), (0, F.PAIR_XFER_STATUS_PASS, 1)]).get 0 F.PAIR_XFER_STATUS_PASS
    ∧ (pairS 2 1).updPhase 0 ≠ 5 ∧ (pairS 2 1).updPhase 0 ≠ 7 ∧ (pairS 2 2).xferPhase 0 = 2
    ∧ ((pairS 2 2).receive 6 false 0x0E (pks 6 false 0x0E 1 [1])).1 = true ∧ ((pairS 2 2).receive 6 false 0x0E (pks 6 false 0x0E 1 [1])).2.pairState 1 = 2 ∧ 1 ≠ (pairS 2 2).active
    ∧ ({ pairS 2 2 with shadow := some (p0.mast 0, []) } : State).shadow = some (p0.mast 0, []) := by
  (repeat' apply And.intro) <;> decide +kernel

/-- Core 0 has the owner's session on mast A. -/
def ownerOf (s : State) : State := onM s 0 (fun M => { M with keys := { M.keys with sessions := [(6, ⟨true, 3, 600⟩)] } })

theorem wit_pair_commands : p0.Direct 0 0 ∧ p0.Reaches 0 0x004 0x048 0 true 4 4 ∧ p0.privOf 0 (p0.ctxOf 0 0) < 3
    ∧ (ownerOf p0).Direct 0 0 ∧ (ownerOf p0).Reaches 0 0x004 0x048 0 true 4 4 ∧ 3 ≤ (ownerOf p0).privOf 0 ((ownerOf p0).ctxOf 0 0) ∧ 0x5A % 256 = 0x5A
    ∧ 0x5B % 256 ≠ 0x5A ∧ (ownerOf p0).swapStatus 0 = 0 ∧ 0 = (ownerOf p0).active ∧ (pairS 3 0).swapStatus 0 = 2 ∧ (ownerOf p0).resyncStatus 0 = 0
    ∧ (pairS 5 0).resyncStatus 0 = 5 ∧ (ownerOf p0).updPhase 0 ≠ 5 ∧ (ownerOf p0).updPhase 0 ≠ 7 ∧ (pairS 2 1).pairState 0 = 2 ∧ p0.pairState 0 ≠ 2 := by
  (repeat' apply And.intro) <;> decide +kernel

/-! ### Links and sails -/

/-- Connection 0 in state `st` after `n` failures or replays, with a packet outstanding on its up direction. -/
def connS (st n : Nat) : State :=
  a0.setConn 0 { Conn.reset with state := st, fails := n, up := { Dir.reset with replays := n, out := [⟨5, ⟨0x0A, 0, 1, 0, 0, []⟩⟩] } }

theorem wit_link_connections : (connS 2 7).hasConn 0 = true ∧ ((connS 2 7).conn 0).state = 2 ∧ (((connS 2 7).conn 0).dir true).waiting = []
    ∧ ((connS 2 7).conn 0).answers = [] ∧ (((connS 2 7).conn 0).dir true).out ≠ [] ∧ ¬ (((connS 2 8).conn 0).dir true).replays < 8
    ∧ (((connS 2 7).conn 0).dir true).replays < 8
    ∧ (LinkCtl.make 5 false []).crc = (LinkCtl.make 5 false []).check ∧ (LinkCtl.make 5 false []).nak = false ∧ (⟨5, false, [], 0⟩ : LinkCtl).crc ≠ (⟨5, false, [], 0⟩ : LinkCtl).check ∧ ((connS 1 2).conn 0).state = 1 ∧ ((connS 1 1).conn 0).fails < 2 ∧ 2 ≤ ((connS 1 2).conn 0).fails
    ∧ (0 : Nat) ≠ 6 ∧ (connS 1 2).active = 0 / 8 ∧ r0.hasConn 6 = true
    ∧ r0.Direct 0 0 ∧ (connS 2 0).Reaches 0 0x008 0x050 0 true 4 4 ∧ 0 = connId 0 (0x7A00 % 8) ∧ 0x7A00 / 256 % 256 = 0x7A ∧ 6 = connId 0 (0x7A06 % 8) := by
  (repeat' apply And.intro) <;> decide +kernel

/-- A frame of 40 bytes, and a launch. -/
def fr : Frame :=
  { ftype := 1, version := 2, fcsOk := true, seqNo := 1, ackReq := false, dstPan := none, dst := .none, src := .none, secLevel := 0, keyMode := 0,
    keyIndex := 0, fc := 0, tsync := none, tcIe := none, vendor := [], payload := [], len := 40, mic := 0 }
def ld : LaunchDesc := ⟨2000, 1, 915000000, 0, 0, 3, 0, 10, 1, false, false⟩

theorem wit_sails_take_commands : (p1.accepts 0 0 0x02 9 (.frame fr) (pks 0 false 0x02 9 [1])).1 = true
    ∧ (p1.accepts 0 1 0x02 9 (.frame fr) (pks 8 false 0x02 9 [1])).1 = false
    ∧ (p1.accepts 0 0 0x03 9 (.nums ld.bytes) (pks 0 false 0x03 9 ld.bytes)).1 = true ∧ (p1.arrive 0 0 0x07 (pks 0 false 0x07 9 [1])).1 = true
    ∧ (let s := p1.setSail 0 { p1.sail 0 with tx := List.replicate 16 { TxFrame.new 9 with desc := some ld } }
       16 ≤ ((s.sail 0).tx.filter (fun f => f.phase == 0 && decide (f.desc.map (fun e => e.carrier) = some ld.carrier))).length)
    ∧ ((p1.sail 0).tx.filter (fun f => f.phase == 0 && decide (f.desc.map (fun e => e.carrier) = some ld.carrier))).length < 16
    ∧ (let s := p1.setSail 0 { p1.sail 0 with ticked := true }
       s.hasSail 0 = true ∧ (s.sail 0).ticked = true ∧ (s.sail 0).nextTick = none)
    ∧ (p1.accepts 0 0 0x09 4 (.nums [0xC1, 1, 8, (⟨true, ⟨3, 127, 1, 5, -4⟩⟩ : HintEntry).word]) (pks 0 false 0x09 4 [0xC1])).1 = true
    ∧ (p1.accepts 0 0 0x09 4 (.nums [0xEE]) (pks 0 false 0x09 4 [0xEE])).1 = true
    ∧ (let a := p1.arrive 0 0 0x09 (pks 0 false 0x09 4 [0xD1])
       a.1 = true ∧ a.2.bit (sailDie 0) F.SSTAT_MASTER_VALID = true ∧ 0 ≤ a.2.get (sailDie 0) F.SSTAT_MASTER_EPOCH
       ∧ a.2.get (sailDie 0) F.SSTAT_MASTER_EPOCH < 1 ∧ ((a.2.conn (connId 0 0)).answers).length < 16)
    ∧ ((p1.setSail 0 { p1.sail 0 with window := some 5 }).sail 0).window ≠ none
    ∧ 16 ≤ (({ Conn.reset with answers := List.replicate 16 ⟨6, 0, 1, 0, 0, []⟩ } : Conn).answers).length
    ∧ (let s := p1.setConn 0 { p1.conn 0 with up := { Dir.reset with credits := [(1, 3)] } }
       (s.arrive 0 0 0x09 (pks 0 false 0x09 4 [0xD2])).1 = true
       ∧ ((s.arrive 0 0 0x09 (pks 0 false 0x09 4 [0xD2])).2.conn (connId 0 0)).up.credit (connId 0 0) 1 < 4)
    ∧ (p1.receive (connId 0 0) true 0x0A (pks 0 true 0x0A 4 [0xE0])).1 = true
    ∧ ((p1.receive (connId 0 0) true 0x0A (pks 0 true 0x0A 4 [0xE0])).2.mirror 0 (.sailIrq 0 true) 0).isSome = true
    ∧ (let s := p1.setConn 6 Conn.reset
       (s.receive (connId 0 0) true 0x0A (pks 0 true 0x0A 4 [0xE0])).1 = true
       ∧ (s.receive (connId 0 0) true 0x0A (pks 0 true 0x0A 4 [0xE0])).2.mirror 0 (.sailIrq 0 true) 0 = none) := by
  (repeat' apply And.intro) <;> decide +kernel

/-! ### Stations of the mesh -/

/-- Mast A's MAC changed. -/
def onMac (s : State) (f : Mac → Mac) : State := onM s 0 (fun M => { M with mac := f M.mac })

/-- Item 3 with body `b` waits at station `st`, run by its engine; every later station is open. -/
def engS (s : State) (st : Nat) (d : Desc) (b : Body) : State :=
  withItem (waiting (setF s ((stf F.STAB_SCFG_ENGINE st, 1) :: (List.range 17).map (fun n => (stf F.STAB_SCFG_DEPTH n, 8)) |>.map (fun e => (0, e.1, e.2)))) 0
    { d with station := st, cell := 3 }) 0 3 (item 3 b)

/-- A reception of frame `f` on sail 0. -/
def md : Meta :=
  { tsOff := 100, asnLo := 0, len := 40, pers := 0, profile := 0, fec := 0, win := 0, bin := 64, hyp := 0, aerial := 0, lane := 0, rssi := -80, snr := 40,
    corr := 50, cfo := 0, clip := false, gainStep := false, refSwitch := false, forked := false, restarted := false, errOnly := false }

/-- A copy of frame `f` on sail `k`, its group, and the state that holds the group. -/
def copy (k cell : Nat) (f : Frame) (failed : Bool) : Copy := ⟨cell, k, md, f, failed⟩
def grp (cs : List Copy) (closed decided : Bool) (ack : Option Nat) : Group :=
  { id := 0, src := .none, ctr := 0, secured := false, at_ := 0, endAt := 0, copies := cs, closed := closed, kept := if closed then some 3 else none,
    verified := none, failedAll := false, decided := decided, ackSail := ack, heard := 0, due := 5 }
def grpS (s : State) (G : Group) : State := onMac s (fun M => { M with groups := [G] })

/-- Secured frames, an ACK-less beacon, and frames with a payload. -/
def frSec : Frame := { fr with secLevel := 5, fc := 7 }
/-- The payload `l` of a frame from node address 5 to 6, expanded. -/
def expanded (l : List Nat) : Expanded := expandLowpan (a0.contexts 0) (a0.bit 0 F.COMP_CFG_CSUM_ELIDE_RX) (.ext 5) (.ext 6) l

theorem wit_uplinks_arrive : p1.hasSail 0 = true ∧ p1.fitted 0 = true ∧ 0 = p1.active
    ∧ (p1.receive (connId 0 0) true 0x01 (pks 0 true 0x01 1 [1])).1 = true
    ∧ ((p1.receive (connId 0 0) true 0x01 (pks 0 true 0x01 1 [1])).2.mirror 0 (.frameUp 0 1 1 md fr) (p1.rxStamp 0 md)).isSome = true
    ∧ (setF p1 [(0, stf F.STAB_SCFG_DEPTH 0, 8)]).RoomAt 0 0 ∧ (p1.allocItem 0 40 (fr.len + 16) (.up md 0 fr)).isSome = true
    ∧ (onM p1 0 (fun M => { M with sal := M.sal.setQueue 40 { M.sal.queue 40 with cells := 65536 } })).allocItem 0 40 (fr.len + 16) (.up md 0 fr) = none
    ∧ (p1.mast 0).sal.waitSt.contains (256 + 0) = false
    ∧ ((engS a0 0 Desc.zero (.up md 0 fr)).engineTake 0 0).map (fun x => (x.1.cell, x.2.bodyOf 0 x.1)) = some (3, .up md 0 fr)
    ∧ a0.laneInCheck 0 { fr with fcsOk := false } = some F.MAC_FCS_FAIL ∧ a0.laneInCheck 0 { fr with dst := .short 0xFFFF } = none
    ∧ (engS a0 0 Desc.zero (.up md 0 fr)).RoomAt 0 1
    ∧ ((engS a0 1 Desc.zero (.up md 0 fr)).engineTake 0 1).map (fun x => (x.1.cell, x.2.bodyOf 0 x.1)) = some (3, .up md 0 fr)
    ∧ (a0.mast 0).mac.groups = []
    ∧ (let G := grp [copy 1 9 fr false] false false none
       sdiff 40 (a0.mast 0).asn G.due < 0 ∧ G.src = fr.src ∧ ({ G with ctr := dedupCtr fr } : Group).ctr = dedupCtr fr ∧ G.secured = (fr.secLevel != 0)
       ∧ (a0.pos 0 (nearAsn (a0.mast 0).asn md.asnLo) md.tsOff - G.at_).natAbs ≤ 8000 ∧ ¬ (G.decided ∨ G.failedAll)
       ∧ ((grpS a0 G).mast 0).mac.group 0 = some G ∧ G.closed = false ∧ G.copies ≠ [])
    ∧ ((grp [copy 1 9 fr false] true true none).decided ∨ (grp [copy 1 9 fr false] true true none).failedAll)
    ∧ 0 ≤ sdiff 40 5 (grp [] true true none).due := by
  (repeat' apply And.intro) <;> first | decide +kernel | rfl

/-- A valid node-key slot: node 5's key unwraps under slot 1. -/
def keyed (s : State) : State :=
  onM s 0 (fun M => { M.setNode 5 { M.node 5 with key := ⟨3, 0, 1, 4, true⟩, ident := { (M.node 5).ident with used := true } } with
    keys := { M.keys.setSlot 1 { KeySlot.empty 0 with valid := true, typ := 1, usage := 0xFF, material := 11 } with
      root := some 1, cache := [⟨5, 4, 1, 0, 77⟩] } })

/-- An ACK planned. -/
def lauAck : Launch :=
  { handle := 4, kind := .ack, sail := 0, carrier := 0, placed := false, asn := 0, start := 800000, at_ := 800000, softNs := 0, left := false, node := 5,
    cell := 3, frame := fr, channel := 3, freq := 915000000, pers := 0, rate := 0, fec := 0, power := 0, pout := 0, prio := 1, airUs := 500,
    charged := false, bucket := 0, stage := 0, aInt := 0, tc := 0, tcClamped := false }

theorem wit_uplinks_answered :
    ((grpS a0 (grp [copy 1 9 fr true] true false none)).mast 0).mac.group 0 = some (grp [copy 1 9 fr true] true false none)
    ∧ ([copy 1 9 fr false].filter ({ grp [] true false none with secured := true } : Group).valid) = [] ∧ ([copy 1 9 fr false].filter (grp [] true false none).valid) ≠ []
    ∧ ((engS a0 2 Desc.zero (.up md 0 fr)).engineTake 0 2).map (fun x => (x.1.cell, x.2.bodyOf 0 x.1)) = some (3, .up md 0 fr)
    ∧ fr.ftype ≠ 0 ∧ (engS a0 2 Desc.zero (.up md 0 fr)).RoomAt 0 3 ∧ fr.secLevel = 0 ∧ frSec.secLevel ≠ 0 ∧ frSec.keyMode = 0
    ∧ (keyed a0).nodeKey 0 5 = (some (beBytes 16 77), keyed a0) ∧ (a0.mast 0).mac.groupOf 3 = none
    ∧ ((grpS a0 (grp [copy 0 3 frSec false, copy 1 9 frSec true] true false none)).mast 0).mac.groupOf 3
        = some (grp [copy 0 3 frSec false, copy 1 9 frSec true] true false none)
    ∧ ((engS a0 3 { Desc.zero with node := 5 } (.up md 0 frSec)).engineTake 0 3).map (fun x => (x.1.node, x.2.bodyOf 0 x.1)) = some (5, .up md 0 frSec)
    ∧ 5 ≠ noNode ∧ ¬ frSec.fc < ((a0.mast 0).node 5).link.rxFc ∧ ((a0.mast 0).node 5).link.rxFc < frSec.fc ∧ frSec.ftype ≠ 2 ∧ a0.ackIsOwed 0 fr = false
    ∧ ((engS a0 15 { Desc.zero with node := 5 } (.up md 0 fr)).engineTake 0 15).map (fun x => (x.1.node, x.2.bodyOf 0 x.1)) = some (5, .up md 0 fr)
    ∧ (engS a0 15 Desc.zero (.up md 0 fr)).RoomAt 0 4
    ∧ (let s := grpS (engS a0 15 Desc.zero (.up md 0 fr)) (grp [copy 0 3 fr false] true true (some 2))
       (s.mast 0).mac.groupOf 3 = some (grp [copy 0 3 fr false] true true (some 2)) ∧ (let ack := s.ackFrame 0 fr (s.timing 0 0 0 md).tc 0 none
          (s.allocItem 0 48 ack.len (.down ack)).isSome = true))
    ∧ ((onMac a0 (fun M => { M with ackOwed := [3], dups := [4] })).mast 0).mac.ackOwed.contains 3 = true
    ∧ a0.asksAck 0 { fr with ackReq := true, dst := .ext (a0.get64 0 F.MAC_OWN_EUI_EUI) } = true ∧ (a0.passedOf 0 3).late = false
    ∧ ([copy 0 3 frSec false, copy 1 9 frSec true].find? (fun x => some 3 == some x.cell)) = some (copy 0 3 frSec false)
    ∧ ((onMac a0 (fun M => { M with launches := [{ lauAck with stage := 1 }] })).mast 0).mac.launch 4 = some { lauAck with stage := 1 }
    ∧ ((a0.mast 0).sal.queue 130).broken = false ∧ (a0.mast 0).sal.broken ((a0.mast 0).sal.item 3).place = false := by
  (repeat' apply And.intro) <;> decide +kernel

/-- A frame sealed at a level that encrypts nothing opens under its key. -/
theorem sealed_opens (k : List Nat) (e : Nat) (f : Frame) (h : ¬ 4 < f.secLevel) : (f.sealWith k e).openWith k e = some (f.sealWith k e) := by
  unfold Frame.sealWith Frame.openWith
  simp only [h, if_false]
  exact if_pos rfl

/-- With another MIC it does not. -/
theorem changed_mic_fails (k : List Nat) (e : Nat) (f : Frame) (h : ¬ 4 < f.secLevel) :
    { f.sealWith k e with mic := (f.sealWith k e).mic + 1 }.openWith k e = none := by
  unfold Frame.sealWith Frame.openWith
  simp only [h, if_false]
  exact if_neg (Nat.ne_of_lt (Nat.lt_succ_self _))

/-- A frame that its MIC opens, and one that it does not: key 77, the node of EUI 5, counter 7. -/
def frGood : Frame := { frSec with secLevel := 2, payload := [1, 2, 3] }.sealWith (beBytes 16 77) 5

theorem wit_mic_opens : frGood.openWith (beBytes 16 77) 5 = some frGood ∧ frGood.ftype = 1
    ∧ { frGood with mic := frGood.mic + 1 }.openWith (beBytes 16 77) 5 = none :=
  ⟨sealed_opens _ _ _ (by decide), rfl, changed_mic_fails _ _ _ (by decide)⟩

/-- The admission of queue 128 fails once one event waits. -/
theorem wit_stations_upwards : (p1.receive (connId 0 0) true 0x0A (pks 0 true 0x0A 1 [1])).1 = true
    ∧ ((p1.receive (connId 0 0) true 0x0A (pks 0 true 0x0A 1 [1])).2.mirror 0 (.advice 0 (List.replicate 12 0)) 0).isSome = true
    ∧ (p1.mast 0).heldEvents = [] ∧ p1.admitQ 0 128 1 = true ∧ (p1.mast 0).sal.brine ≠ 0
    ∧ ((onM p1 0 (fun M => { M with heldEvents := [⟨.linkInvalid, 1, []⟩] })).mast 0).heldEvents ≠ []
    ∧ ((engS a0 4 Desc.zero (.up md 0 fr)).engineTake 0 4).map (fun x => (x.1.cell, x.2.bodyOf 0 x.1)) = some (3, .up md 0 fr)
    ∧ fr.payload = [] ∧ (engS a0 4 Desc.zero (.up md 0 fr)).RoomAt 0 5 ∧ expanded [0x00] = .unsupported
    ∧ expanded [0x7A, 0x73, 59] = .badCtx ∧ expanded [0x7E, 0x33, 0xF3, 0, 0, 0] = .csumFail
    ∧ (match expanded [0x7A, 0x33, 59] with | .packet q => decide (q.hopLimit = 64 ∧ q.src = ⟨0xFE80000000000000, iidOf 5⟩ ∧ q.proto = 59) | _ => false) = true
    ∧ ((engS a0 4 Desc.zero (.up md 0 fr)).resizeItem 0 3 2047).isSome = true
    ∧ ((engS a0 5 { Desc.zero with node := 5 } (.up md 0 fr)).engineTake 0 5).map (fun x => (x.2.bodyOf 0 x.1).reception) = some (some (md, 0, fr))
    ∧ (ntIn.lookupKey 0 5).1 = some pos5 ∧ ((ntIn.mast 0).nt.ent pos5).static = false ∧ ((ntIn.mast 0).node 7).ident.eui = 5
    ∧ ((setF a0 [(0, slf F.SLUICE_PBURST_EN F.SLUICE_PBURST_PEER_EN 8 40, 0)]).sluice 0 40 40 0).1 = true ∧ (a0.nodeSluice 0 5 (nearAsn (a0.mast 0).asn md.asnLo) 40).1 = true
    ∧ ((setF a0 [(0, slf F.SLUICE_PBURST_EN F.SLUICE_PBURST_PEER_EN 8 40, 1)]).sluice 0 40 40 0).1 = false
    ∧ ((engS a0 9 Desc.zero (.up md 0 fr)).engineTake 0 9).map (fun x => (x.1.down, x.2.bodyOf 0 x.1)) = some (false, .up md 0 fr)
    ∧ (a0.get 0 (F.ROUTE_UPMAP_PORT.at 4 0) < 8 ∨ 13 < a0.get 0 (F.ROUTE_UPMAP_PORT.at 4 0))
    ∧ (let s := setF a0 [(0, F.ROUTE_UPMAP_PORT.at 4 7, 12)]
       8 ≤ s.get 0 (F.ROUTE_UPMAP_PORT.at 4 7) ∧ s.get 0 (F.ROUTE_UPMAP_PORT.at 4 7) ≤ 12)
    ∧ ((engS a0 9 { Desc.zero with flags := 1 } (.packet pkt none)).engineTake 0 9).map (fun x => (x.1.down, x.2.bodyOf 0 x.1)) = some (true, .packet pkt none)
    ∧ a0.ownAddr 0 ⟨0xFE80000000000000, iidOf (a0.get64 0 F.MAC_OWN_EUI_EUI)⟩ = true
    ∧ (let s := withItem (engS a0 7 Desc.zero (.packet pkt none)) 0 3 { item 3 (.packet pkt none) with dest := some 64 }
       (s.engineTake 0 7).isSome = true ∧ ((s.mast 0).sal.item 3).dest = some 64 ∧ ((s.mast 0).sal.item 3).cells ≠ [] ∧ s.admitQ 0 64 1 = true)
    ∧ (onM a0 0 (fun M => { M with sal := M.sal.setQueue 64 { M.sal.queue 64 with cells := 16384 } })).admitQ 0 64 1 = false := by
  (repeat' apply And.intro) <;> decide +kernel

/-- An item of 60 bytes for node 5 waits at HC_COMPRESS. -/
def s11 : State := engS a0 11 { Desc.zero with node := 5, len := 60 } (.packet pkt none)

/-- The length of a PSDU, of which its sequence number and its check values are no part. -/
theorem psdu_length (f : Frame) : (psduBytes f).length = f.open_.length + f.body.length + micBytes f.secLevel + (if f.fcs4 then 4 else 2) := by
  unfold psduBytes Frame.fcsBytes
  dsimp only
  split <;> simp [leBytes, *, Nat.add_assoc]

/-- The frame of a small packet fits its cell, whatever security level and sequence number it takes. -/
theorem wit_compressed_frame_fits (q : Nat) : (s11.resizeItem 0 3 (s11.dataFrame 0 5 pkt q).len).isSome = true := by
  have h : ∀ L < 8, (s11.resizeItem 0 3 (psduBytes { (s11.dataFrame 0 5 pkt 0) with secLevel := L }).length).isSome = true := by decide +kernel
  have e : (s11.dataFrame 0 5 pkt q).len = (psduBytes { (s11.dataFrame 0 5 pkt 0) with secLevel := Config.downlinkLevel % 8 }).length := by
    show (psduBytes _).length = _
    rw [psdu_length, psdu_length]
    simp [Frame.open_, State.dataFrame, Frame.sized, Frame.body, Frame.payloadIes, Frame.headerIes, Frame.hasIes, Frame.auxBytes, leBytes]
  rw [e]
  exact h _ (Nat.mod_lt _ (by decide))

theorem wit_stations_downwards :
    (let s := engS a0 8 { Desc.zero with flags := 1 } (.packet pkt none)
     (s.engineTake 0 8).isSome = true ∧ ((s.mast 0).sal.item 3).dest = none ∧ s.RoomAt 0 9 ∧ (s.sluice 0 0 64 0).1 = true)
    ∧ ((setF a0 [(0, slf F.SLUICE_PBURST_EN F.SLUICE_PBURST_PEER_EN 8 0, 1)]).sluice 0 0 64 0).1 = false
    ∧ (let s := engS a0 10 { Desc.zero with node := 5, len := 60 } (.packet pkt none)
       (s.engineTake 0 10).isSome = true ∧ (s.resizeItem 0 3 (packetLen pkt % 2048)).isSome = true ∧ s.ownAddr 0 { pkt with src := ⟨0xFE80000000000000, iidOf (s.get64 0 F.MAC_OWN_EUI_EUI)⟩ }.src = true ∧ s.RoomAt 0 (s.nextOf 0 10) ∧ (s.mast 0).node 5 = NodeRec.zero)
    ∧ (match a0.walk 0 17 5 [5] with
       | .error .noParent => true
       | _ => false) = true
    ∧ (let s := onM a0 0 (fun M => M.setNode 5 { M.node 5 with routing := { (M.node 5).routing with rootAdj := true } })
       ((s.mast 0).node 5).routing.rootAdj = true)
    ∧ (let s := engS a0 11 { Desc.zero with node := 5, len := 60 } (.packet pkt none)
       (s.engineTake 0 11).isSome = true ∧ s.RoomAt 0 (s.nextOf 0 11))
    ∧ (let s := engS a0 12 { Desc.zero with node := 5 } (.down fr)
       (s.engineTake 0 12).isSome = true ∧ s.chainWaits 0 5 = false ∧ fr.secLevel = 0 ∧ frSec.secLevel ≠ 0 ∧ (s.nodeKey 0 5).1 = none ∧ s.RoomAt 0 (s.nextOf 0 12))
    ∧ (onMac (keyed a0) (fun M => { M with fcReserve := 100 })).fcNext 0 ((a0.mast 0).node 5).link.dnFc = .value 1
    ∧ (let s := engS a0 13 { Desc.zero with node := 5 } (.down fr)
       (s.engineTake 0 13).isSome = true ∧ 5 ≠ noNode ∧ ((s.mast 0).node 5).chain.cells + 1 ≤ max 1 (s.get 0 F.SALTERN_CHAIN_CFG_NODE_MAX)
       ∧ ((s.mast 0).sal.item 3).cells.length ≠ 0 ∧ s.admitChain 0 1 = true ∧ (s.mast 0).sal.broken (.chain 5) = false)
    ∧ max 1 ((setF a0 [(0, F.SALTERN_CHAIN_CFG_NODE_MAX, 0)]).get 0 F.SALTERN_CHAIN_CFG_NODE_MAX) < 1 + 1 := by
  (repeat' apply And.intro) <;> decide +kernel

/-- Slot 0 is granted, and node 5's head frame, 40 bytes in cell 3, has its event there on channel 3, at 915 MHz on sail 0. -/
def planS : State :=
  let s1 := onM (setF a0 [(2, F.TXP_CARRIER_CFG_EN, 15), (1026, F.TXP_CARRIER_CFG_EN, 15), (1026, F.TXP_WIN_CTL_CENTRE, 9150), (1026, F.TXP_WIN_CTL_ENABLE, 1), (0, F.MAC_BEACON_CFG_PERIOD, 0)]) 0 (fun M =>
    { M.setNode 5 { M.node 5 with ident := { (M.node 5).ident with used := true, port := 0 }, chain := ⟨[3], 1⟩,
                                  link := { (M.node 5).link with period := 10, step := 1, state := 1, syncValid := true, guard := 100 } } with
      sal := M.sal.setItem 3 { item 3 (.down fr) with place := .chain 5 },
      mac := { M.mac with grant := some 0, chans := [(3, ⟨true, 0, 0, 915000000, []⟩)], maps := [(0, ⟨1, [(0, 3)]⟩)] } })
  s1.setSail 0 { s1.sail 0 with txRun := 2 ^ 31 + 9150 }

/-- A launch planned, built or handed over. -/
def lau (kind : LaunchKind) (stage : Nat) : Launch :=
  { lauAck with kind := kind, placed := decide (kind ≠ .ack), stage := stage }

/-- An ACK of node 5 waits at MAC_LAUNCH on the state `s`. -/
def ackS (s : State) : State := engS (onMac s (fun M => { M with launches := [lau .ack 0] })) 14 { Desc.zero with node := 5 } (.down fr)

/-- An ACK of 2047 bytes, coded at rate code 1 of an FSK personality. -/
def ackLong : Launch := { lau .ack 0 with pers := 5, rate := 1, frame := { fr with len := 2047 } }

theorem wit_launches_are_planned : ((ackS planS).engineTake 0 14).map (fun x => x.1.cell) = some 3
    ∧ (((ackS planS).engineTake 0 14).map (fun x => (x.2.mast 0).mac.launches.find? (fun l => decide (l.kind = .ack) && l.cell == 3 && l.stage == 0)))
        = some (some (lau .ack 0))
    ∧ (ackS planS).launchRoom 0 0 = true
    ∧ (onMac planS (fun M => { M with launches := List.replicate 32 (lau .data 1) })).launchRoom 0 0 = false
    ∧ 262144 < planS.samplesOn 0 0 ackLong.pers ackLong.rate ackLong.fec ackLong.frame.len (planS.preamble (copyDie 0 0) ackLong.pers)
    ∧ planS.samplesOn 0 0 0 0 0 fr.len (planS.preamble (copyDie 0 0) 0) ≤ 262144
    ∧ ((setF a0 [(1026, F.TXP_CARRIER_CFG_EN, 0)]).freeCarriers 0 0 0 200000).head? = Option.none ∧ (planS.freeCarriers 0 0 800000 1000000).head? = some 0
    ∧ (match planS.planCheck 0 0 0 915000000 0 0 0 500 0 800000 with | .ok _ => true | .error _ => false) = true
    ∧ (planS.dwell 0 3 800000 500).1 = true ∧ planS.admitQ 0 130 1 = true ∧ ((ackS planS).mast 0).sal.item 3 ≠ Item.none
    ∧ (match a0.planCheck 0 0 0 915000000 0 0 0 500 0 800000 with | .ok _ => false | .error e => e == 10) = true
    ∧ (planS.mast 0).mac.grant = some 0 ∧ firstCand ((setF a0 [(0, F.MAC_BEACON_CFG_PERIOD, 0)]).cands 0 0) = Option.none
    ∧ (firstCand (planS.cands 0 0)).map (fun e => e.id) = some 5 ∧ (planS.mast 0).mac.unbuilt (planS.candSail 0 5) = 0
    ∧ (onMac planS (fun M => { M with launches := List.replicate 64 (lau .data 0) })).hasSail 0 = true
    ∧ ((onMac planS (fun M => { M with launches := List.replicate 64 (lau .data 0) })).mast 0).mac.unbuilt 0 = 64
    ∧ planS.supervised 0 5 0 = false ∧ planS.nodeHeads 0 5 = [3] ∧ ((planS.mast 0).node 5).link.state = 1
    ∧ ((planS.mast 0).node 5).link.hint = false ∧ (planS.mast 0).mac.waits = [] ∧ (planS.mast 0).mac.launches = [] ∧ planS.hasSail 0 = true
    ∧ (planS.mast 0).mac.linkOk ((planS.mast 0).node 5).link = true ∧ fr.unsealed = false
    ∧ (planS.mast 0).mac.hop ((planS.mast 0).node 5).link (((planS.mast 0).node 5).link.eventAt 0).1 = 3 ∧ ((planS.mast 0).mac.chan 3).valid = true
    ∧ planS.preshift 0 0 ((planS.mast 0).node 5).link = some 0 ∧ planS.carriers 0 0 ≠ []
    ∧ planS.planCarrier 0 0 0 (planS.pos 0 0 (400 * planS.tsTx 0 : Nat) + 400 * planS.airOn 0 0 0 0 0 40 0) = some 0
    ∧ (match planS.planCheck 0 0 0 915000000 0 0 0 (planS.airOn 0 0 0 0 0 40 0) 0 (planS.pos 0 0 (400 * planS.tsTx 0 : Nat)) with
       | .ok _ => true
       | .error _ => false) = true
    ∧ (planS.shape 0 0 0 40).1 = true ∧ ((planS.shape 0 0 0 40).2.dwell 0 3 (planS.pos 0 0 (400 * planS.tsTx 0 : Nat)) (planS.airOn 0 0 0 0 0 40 0)).1 = true
    ∧ ((onMac planS (fun M => { M with launches := [lau .data 1] })).mast 0).mac.launch 4 = some (lau .data 1)
    ∧ p1.linkTakes 0 0 = true ∧ planS.linkTakes 0 0 = false ∧ ((p1.mast 0).sal.queue 130).broken = false
    ∧ ((onMac planS (fun M => { M with hints := [(2, ⟨0, 1, 0, 5, -3⟩)] })).mast 0).mac.hints = [(2, ⟨0, 1, 0, 5, -3⟩)] := by
  (repeat' apply And.intro) <;> decide +kernel

/-- A report of handle `h`. -/
def rep (h status : Nat) : TxReport :=
  { status := status, reason := 0, flags := 0, handle := h, carrier := 0, power := 0, start := 0, asnLo := 0, air := 500 }

/-- Sail 0 reports the launch that was handed over. -/
def reported (kind : LaunchKind) : State := onMac p1 (fun M => { M with launches := [lau kind 2] })

theorem wit_launches_are_reported : ((reported .data).receive (connId 0 0) true 0x0A (pks 0 true 0x0A 1 [1])).1 = true
    ∧ (((reported .data).receive (connId 0 0) true 0x0A (pks 0 true 0x0A 1 [1])).2.mirror 0 (.txDone 0 (rep 4 0)) 0).isSome = true
    ∧ (((reported .data).receive (connId 0 0) true 0x0A (pks 0 true 0x0A 1 [1])).2.mirror 0 (.txDone 0 (rep 4 0)) 0).map
        (fun w => (w.mast 0).mac.launches.find? (fun l => l.handle == 4 && l.sail == 0 && l.stage == 2)) = some (some (lau .data 2))
    ∧ (lau .ack 2).node ≠ noNode ∧ ((p1.mast 0).node 5).link.ackReq = false ∧ (p1.mast 0).camp.sent = [] ∧ notDeferred 9 = false
    ∧ (p1.mast 0).mac.waits = [] ∧ (p1.mast 0).sal.broken (.chain 5) = false
    ∧ ((onMac p1 (fun M => { M with waits := [⟨5, 3, 1, 0, 9, true, false, false⟩] })).mast 0).mac.waits.find? (fun w => w.node == 5 && !w.judged)
        = some ⟨5, 3, 1, 0, 9, true, false, false⟩
    ∧ (setF p1 [(0, F.MAC_SUPV_CFG_SWEEP_EN, 0)]).bit 0 F.MAC_SUPV_CFG_SWEEP_EN = false ∧ (setF p1 [(0, F.MAC_SUPV_CFG_SWEEP_EN, 1)]).bit 0 F.MAC_SUPV_CFG_SWEEP_EN = true
    ∧ (let s := setF (onM p1 0 (fun M => { M with asn := 1 })) [(0, F.MAC_PEER_EN.at 16 3, 1), (0, F.MAC_PEER_PERIOD.at 16 3, 10)]
       s.bit 0 (F.MAC_PEER_EN.at 16 3) = true ∧ s.get 0 (F.MAC_PEER_PERIOD.at 16 3) ≠ 0
       ∧ ((s.mast 0).asn + 2 ^ 40 - 1) % 2 ^ 40 % s.get 0 (F.MAC_PEER_PERIOD.at 16 3) = s.get 0 (F.MAC_PEER_PHASE.at 16 3)
       ∧ (s.get 0 F.MAC_PEER_STATE_DROPPED).testBit 3 = false)
    ∧ ((onMac p1 (fun M => { M with fcPending := some 4096 })).mast 0).mac.fcPending = some 4096
    ∧ (setF a0 [(0, F.MAC_BEACON_CFG_PERIOD, 0)]).cands 0 0 = [] ∧ planS.cands 0 0 ≠ [] ∧ lau .data 0 ∈ ((onMac planS (fun M => { M with launches := [lau .data 0] })).mast 0).mac.launches
    ∧ (lau .data 0).kind ≠ .ack := by (repeat' apply And.intro) <;> decide +kernel

/-! ### Sails -/

/-- Sail 0's record changed. -/
def onSail (s : State) (f : Sail → Sail) : State := s.setSail 0 (f (s.sail 0))

/-- Window 0 of sail 0 runs on both aerials, every bin unmasked; lane 4 as given. -/
def laneS (x : Lane) : State :=
  onSail (setF r0 [(2, (F.WIN_BIN_MASK_EN.at 16 0).at 4 2, 1), (2, F.NEST_CFG_RELOOK_EN, 1), (2, F.NEST_CFG_FORK_EN, 0)])
    (fun S => { S with winRun := [(0, 2 ^ 31 + 3 * 2 ^ 16 + 9150)], lanes := Tbl.set (fun _ => Lane.idle) [] 4 x })

/-- Lane 4 in state `st` under personality `p`. -/
def ln (st p : Nat) : Lane := { Lane.idle with state := st, pers := p, bin := 64, selected := true, len := 40, entry := profReset 0, eraseEn := true }

theorem wit_lanes_acquire : r0.hasSail 0 = true ∧ ((laneS Lane.idle).sail 0).waits = [] ∧ (laneS Lane.idle).detectorUp 0 0 64 0 = true ∧ r0.detectorUp 0 0 64 0 = false
    ∧ (laneS Lane.idle).hypField 0 0 64 0 F.NEST_HYPSET_VALID ≠ 0
    ∧ (laneS Lane.idle).used 2 (F.NEST_THRESH_THRESH.at 4 ((laneS Lane.idle).hypField 0 0 64 0 F.NEST_HYPSET_PERS)) ≤ 65535
    ∧ ((laneS Lane.idle).sail 0).attached = [] ∧ (laneS Lane.idle).eligible 0 0 = true ∧ ((laneS Lane.idle).sail 0).freeLanes ≠ []
    ∧ ((laneS (ln 1 0)).sail 0).attached = [(4, ln 1 0)] ∧ (laneS (ln 1 0)).bit 2 F.NEST_CFG_RELOOK_EN = true
    ∧ (ln 1 0).metric + (laneS (ln 1 0)).get 2 F.NEST_CFG_RELOOK_MARGIN ≤ 65535 ∧ ({ laneS (ln 1 0) with now := 200000 } : State).openLane 0 (ln 1 0) = true
    ∧ (laneS (ln 1 0)).bit 2 F.NEST_CFG_FORK_EN = false
    ∧ ((onSail r0 (fun S => { S with waits := [⟨3, 127, 1, 0, 9, 0⟩] })).sail 0).waits.find? (fun r => r.win == 3 && r.bin == 127 && r.hyp == 1) = some ⟨3, 127, 1, 0, 9, 0⟩
    ∧ ((laneS { ln 1 0 with selected := false }).lane 0 4).state = 1 ∧ ((laneS { ln 1 0 with selected := false }).lane 0 4).selected = false
    ∧ ((laneS (ln 2 0)).lane 0 4).state ≠ 1 ∧ ((laneS (ln 1 0)).lane 0 4).selected = true ∧ ((laneS (ln 2 1)).lane 0 4).state = 2 ∧ isOfdm 1 = true
    ∧ isOfdm 0 = false ∧ isFsk 0 = false ∧ isFsk 5 = true
    ∧ bestHyp ((hypMetrics [65535, 0, 0, 0]).filter (fun y => (laneS Lane.idle).qualifies 0 0 64 y.1 y.2)) = some (0, 65535)
    ∧ (hypMetrics [0, 0, 0, 0]).filter (fun y => (laneS Lane.idle).qualifies 0 0 64 y.1 y.2) = []
    ∧ (ln 2 1).ncoOver 0 = false ∧ ({ ln 2 1 with offset := 6000 } : Lane).ncoOver 0 = true
    ∧ bestCand ([(-5000, 60000), (0, 65000)] : List Cand) = some (0, 65000) ∧ nearCand (-5000) 0 ([(-5000, 60000), (0, 65000)] : List Cand) = some (-5000, 60000)
    ∧ (setF r0 [(2, F.CLEURA_ACQ_CFG_HINT_EN, 0)]).bit 2 F.CLEURA_ACQ_CFG_HINT_EN = false ∧ (setF r0 [(2, F.CLEURA_ACQ_CFG_HINT_EN, 1)]).bit 2 F.CLEURA_ACQ_CFG_HINT_EN = true
    ∧ Tbl.find? (onSail r0 (fun S => { S with hints := [(64, ⟨0, 64, 0, 0, -5000⟩)] }) |>.sail 0).hints (128 * 0 + 64) = some ⟨0, 64, 0, 0, -5000⟩ := by
  (repeat' apply And.intro) <;> decide +kernel

/-- Every lane of sail 0 is attached. -/
theorem wit_lanes_acquire_full :
    (onSail (laneS Lane.idle) (fun S => { S with reefed := true, lanes := (List.range 64).map (fun l => (l, ln 1 0)) })).eligible 0 0 = false := by decide +kernel


/-- LTF samples of two impulses, `a` in the first symbol and `b` in the second. -/
def impulses (a b : Int) : List Iq := List.replicate 32 (0, 0) ++ [(a, 0)] ++ List.replicate 63 (0, 0) ++ [(b, 0)]

/-- The LTF hypothesis +50 kHz is taken of two equal symbols, and none is where the symbols differ wholly. -/
theorem wit_ltf_metrics : (laneS (ln 2 0)).get 2 F.CLEURA_ACQ_CFG_LTF_MIN ≤ 100 ∧ 100 < ltfMetric (impulses 100000 100001) 1 := by
  constructor <;> decide +kernel
theorem wit_ltf_none : bestCand ((laneS (ln 2 0)).ltfCands 0 ((impulses 100000 0).take 33)) = none := by decide +kernel

/-- Some candidate is the best as soon as there is one. -/
theorem bestCand_some (l : List Cand) (h : l ≠ []) : (bestCand l).isSome = true := by
  cases l with
  | nil => exact absurd rfl h
  | cons c cs => unfold bestCand; split <;> rfl

theorem wit_ltf_best : (bestCand ((laneS (ln 2 0)).ltfCands 0 (impulses 100000 100001))).isSome = true := by
  apply bestCand_some
  have h := wit_ltf_metrics
  apply List.ne_nil_of_mem (a := ((5000 : Int), ltfMetric (impulses 100000 100001) 1))
  unfold State.ltfCands
  rw [List.mem_filter]
  refine ⟨?_, ?_⟩
  · simp
  · have : sailDie 0 = 2 := rfl
    rw [this]
    apply decide_eq_true
    omega

/-- Tracking takes no symbol of no samples, and is lost at once with a fine NCO setting beyond its range, whatever the samples. -/
theorem wit_tracking : ((laneS (ln 3 0)).trackSymbols 0 4 [] 0 (([] : List Iq).length / symLen)).lost = false
    ∧ ∀ x, ((laneS { ln 3 0 with offset := 6000 }).trackSymbols 0 4 x 0 1).lost = true := by
  refine ⟨rfl, fun x => ?_⟩
  show Track.lost _ _ _ = true
  unfold Track.lost
  rw [Bool.or_eq_true, Bool.or_eq_true]
  refine .inl (.inr ?_)
  show decide ((52500 : Rat) < 10 * ((6000 : Int) : Rat) + ((0 : Rat) + 0)) = true
  decide +kernel

theorem wit_lanes_deliver : ((laneS (ln 3 0)).lane 0 4).state = 3 ∧ ((laneS (ln 3 0)).lane 0 4).pers = 0 ∧ (List.replicate 10 0).length = 10
    ∧ (rsDecode 2 (List.replicate 10 0) []).isSome = true ∧ (rsDecode 2 [1, 2, 3, 4, 5, 6, 7, 8, 9, 10] []) = none ∧ isOfdm 4 = true ∧ isFsk 7 = true
    ∧ ((laneS (ln 4 0)).lane 0 4).state = 4 ∧ (laneS (ln 4 0)).masterFailed 0 = false ∧ (laneS (ln 4 1)).masterFailed 0 = false
    ∧ ((laneS (ln 5 0)).lane 0 4).state = 5 ∧ (laneS (ln 5 0)).handleWaits 0 0 = false ∧ (ln 5 0).prof < 256
    ∧ (p1.setConn 0 { p1.conn 0 with up := { Dir.reset with waiting := [⟨1, 0, 3, 0, 0, []⟩] } }).handleWaits 0 0 = true
    ∧ (setF r0 [(2, F.CLEURA_ADV_CFG_MODE, 1)]).get 2 F.CLEURA_ADV_CFG_MODE = 1
    ∧ ((onSail r0 (fun S => { S with adv := [⟨0, 3, false, []⟩] })).sail 0).adv = [⟨0, 3, false, []⟩] := by
  (repeat' apply And.intro) <;> decide +kernel

/-- Frame `fr` of launch `ld` at handle 9 of sail 0, in phase `ph`. -/
def txf (ph : Nat) : TxFrame := { TxFrame.new 9 with frame := some fr, desc := some ld, phase := ph, air := 500 }
def txS (ph : Nat) : State := onSail p1 (fun S => { S with tx := [txf ph] })

theorem wit_receiver_events :
    (let s := setF r0 [(2, F.ADC_CLK_STATUS_HOLDOVER, 1), (2, F.ADC_CLK_STATUS_REF_A_OK, 0), (2, F.ADC_CLK_STATUS_REF_B_OK, 0)]
     s.bit 2 F.ADC_CLK_STATUS_HOLDOVER = true ∧ (s.sail 0).clockLost = false ∧ s.bit 2 F.ADC_CLK_STATUS_REF_A_OK = false ∧ s.bit 2 F.ADC_CLK_STATUS_REF_B_OK = false)
    ∧ (let s := setF r0 [(2, agc 1 F.ADC_AGC_CFG_AUTO, 1), (2, gainState 1, 3), (2, F.FECTL_GAIN_TAB_VALID.at 8 5, 1), (2, F.FECTL_GAIN_TAB_VALID.at 8 1, 1), (2, agc 1 F.ADC_AGC_CFG_MAX_STATE, 5)]
       s.bit 2 (agc 1 F.ADC_AGC_CFG_AUTO) = true ∧ (s.stateDown 2 1 (s.get 2 (gainState 1))).isSome = true ∧ (s.stateUp 2 1 (s.get 2 (gainState 1))).isSome = true
       ∧ s.adcOn 0 1 = true ∧ s.stepFree 0 1 = true ∧ (s.sail 0).blankFrom = none ∧ s.riseTo 0 1 = none
       ∧ (onSail s (fun S => { S with slots := [(1, List.replicate 255 (true, -400))] })).riseTo 0 1 = some 1
       ∧ (onSail s (fun S => { S with stepAt := [(1, 0)] })).stepFree 0 1 = false)
    ∧ (setF r0 [(2, gainState 1, 7)]).stateDown 2 1 7 = none
    ∧ ((txS 2).sail 0).committed ≠ [] ∧ ((txS 2).sail 0).blankFrom = none ∧ (r0.sail 0).committed = []
    ∧ ((onSail r0 (fun S => { S with blankFrom := some 5 })).sail 0).blankFrom = some 5 ∧ (r0.sail 0).onAir = []
    ∧ Tbl.find? ((onSail r0 (fun S => { S with blankAt := [(0, 5)] })).sail 0).blankAt 0 = some 5
    ∧ (∀ q ∈ ((txS 2).sail 0).waits, q.win < 4) ∧ (∀ e ∈ ((laneS (ln 1 0)).sail 0).lanes, e.2.win < 4) := by
  (repeat' apply And.intro) <;> decide +kernel

theorem wit_frames_are_sent : ((txS 0).sail 0).txOf 9 = some (txf 0) ∧ (txf 0).frame = some fr ∧ (txf 0).desc = some ld ∧ ld.carrier < 4
    ∧ ((txS 1).sail 0).tx.filterMap (fun f => match f.desc with
        | some d => if d.asnLo = 1 ∧ d.start = 2000 ∧ f.phase < 2 then some (f.handle, d) else none
        | none => none) = [(9, ld)]
    ∧ (txS 0).fifoUsed 0 0 < 262144 ∧ 262144 ≤ (onSail p1 (fun S => { S with tx := [{ txf 1 with samples := 262144 }] })).fifoUsed 0 0
    ∧ (txf 1).phase = 1 ∧ (txf 1).counted = false ∧ (((txS 1).sail 0).asn + 256 - ld.asnLo % 256) % 256 ≥ 128
    ∧ ((onSail (txS 1) (fun S => { S with asn := 2 })).sail 0).asn = 2 ∧ (2 + 256 - ld.asnLo % 256) % 256 < 128
    ∧ ((onSail (txS 2) (fun S => { S with clockLost := true })).sail 0).clockLost = true ∧ (txf 2).carrier < 4
    ∧ (txf 2).phase = 2 ∧ ((txS 2).sail 0).clockLost = false ∧ ((txS 2).sail 0).onAir = [] ∧ (txf 3).phase = 3 ∧ (txf 3).carrier < 4
    ∧ r0.bit 2 F.TXP_ONAIR_RETUNE_PEND = false ∧ (setF r0 [(2, F.TXP_ONAIR_RETUNE_PEND, 1)]).bit 2 F.TXP_ONAIR_RETUNE_PEND = true := by
  (repeat' apply And.intro) <;> decide +kernel

/-- Predistortion is due, on a frame at full power. -/
def trainS : State :=
  onSail (setF p1 [(2, F.TRIM_CFG_PD_EN, 1), (2, F.TRIM_STATE_PD_STALE, 1)]) (fun S => { S with tx := [{ txf 2 with power := 120, air := 60000 }] })

theorem wit_trim_and_fuses_work : r0.observable 0 (txf 2) = false ∧ trainS.observable 0 { txf 2 with power := 120, air := 60000 } = true
    ∧ (trainS.sail 0).txOf 9 = some { txf 2 with power := 120, air := 60000 } ∧ (trainS.sail 0).obs = none
    ∧ (setF r0 [(2, F.FECTL_OBS_CTL_MODE, 0)]).get 2 F.FECTL_OBS_CTL_MODE = 0
    ∧ ((onSail r0 (fun S => { S with obs := some 9 })).sail 0).obs ≠ none ∧ (setF r0 [(2, F.TRIM_STATE_STATE, 3)]).get 2 F.TRIM_STATE_STATE = 3
    ∧ (setF r0 [(2, F.TRIM_STATE_PD_VALID, 1), (2, F.TRIM_PD_ERR_ACR, 5)]).bit 2 F.TRIM_STATE_PD_VALID = true
    ∧ 4 < (setF r0 [(2, F.TRIM_STATE_PD_VALID, 1), (2, F.TRIM_PD_ERR_ACR, 5)]).get 2 F.TRIM_PD_ERR_ACR
    ∧ (setF r0 [(2, F.TRIM_CFG_DAC_EN, 1)]).bit 2 F.TRIM_CFG_DAC_EN = true ∧ (r0.sail 0).committed = [] ∧ r0.get 2 F.WIN_STATUS_W_BLANKED = 0
    ∧ (setF r0 [(2, F.TRIM_CFG_DAC_EN, 0)]).bit 2 F.TRIM_CFG_DAC_EN = false ∧ trainS.bit 2 F.TRIM_CFG_PD_EN = true ∧ trainS.bit 2 F.TRIM_STATE_PD_VALID = false
    ∧ (setF r0 [(2, F.TRIM_STATE_PD_STALE, 0)]).bit 2 F.TRIM_STATE_PD_STALE = false ∧ (setF r0 [(2, F.TRIM_CFG_PD_EN, 0)]).bit 2 F.TRIM_CFG_PD_EN = false
    ∧ (setF r0 [(2, F.PWR_PDET_CFG_EN, 1)]).bit 2 F.PWR_PDET_CFG_EN = true ∧ (setF r0 [(2, F.PWR_PDET_CFG_EN, 0)]).bit 2 F.PWR_PDET_CFG_EN = false
    ∧ ((txS 3).sail 0).onAir ≠ [] ∧ 0xA5 % 256 = 0xA5 ∧ (r0.sail 0).fusing = none
    ∧ (Tbl.get (fun _ => 0) (onSail r0 (fun S => { S with otp := [(3, 2 ^ 127)] }) |>.sail 0).otp 3).testBit 127 = true
    ∧ ((onSail r0 (fun S => { S with fusing := some (3, 5) })).sail 0).fusing = some (3, 5) := by (repeat' apply And.intro) <;> decide +kernel

theorem wit_ticks_are_told : r0.fitted 1 = true ∧ 1 ≠ a0.active ∧ 0 = a0.active ∧ (r0.sail 0).nextTick = none
    ∧ ((onSail r0 (fun S => { S with nextTick := some (7, 100) })).sail 0).nextTick = some (7, 100) ∧ (r0.sail 0).gated = false
    ∧ (a0.mast 0).runs = [] ∧ (a0.mast 0).pair.takeover = none ∧ (a0.mast 0).upd.actPend = false ∧ a0.updPhase 0 < 4 ∧ a0.reefWanted = a0.reefed
    ∧ a0.mirroring = false := by (repeat' apply And.intro) <;> decide +kernel

theorem wit_slot_length_selected : a0.fitted 0 = true ∧ (a0.mast 0).runs = [] ∧ (a0.mast 0).pair.takeover = none ∧ (a0.mast 0).upd.actPend = false
    ∧ a0.updPhase 0 < 4 ∧ a0.reefWanted = a0.reefed ∧ (setF a0 [(0, F.TIME_MESH_CFG_SLOT, 3)]).get 0 F.TIME_MESH_CFG_SLOT = 3
    ∧ a0.get 0 F.TIME_MESH_CFG_SLOT ≠ 3 := by (repeat' apply And.intro) <;> decide

theorem wit_regeneration_reports_margin : a0.fitted 0 = true ∧ a0.waitAck 0 = false ∧ a0.bit 0 F.CRYST_STATUS_RETIRED = false := by decide

theorem wit_step_runs_front : ({ r0 with pending := [.brownOut, .lowpwrRequest true] } : State).pending = .brownOut :: [.lowpwrRequest true] := rfl

theorem wit_step_completes_and_idles : r0.pending = [] := rfl

theorem wit_step_keeps_canonical : r0.Canonical ∧ step { r0 with pending := [.lowpwrRequest true] } = .next { r0 with lowpwr := true } :=
  ⟨⟨rfl, rfl, rfl, rfl, rfl, rfl, rfl, rfl⟩, rfl⟩

/-! ## WellFormed: an ill-formed command for each check, and the greatest operands it accepts -/

/-- A packet of one byte with SEQ `seq` on a VC. -/
def pk (seq vc : Nat) : LinkPkt := ⟨⟨8, 0, vc, 0, 0, [1]⟩, 0, 2, seq, 1, 0⟩
def h0 : List LinkPkt := [pk 0 0]

theorem wf_mast : (Instr.nowAdvance 2).wf = false ∧ (Instr.nowAdvance 1).wf = true := by decide
theorem wf_sail : (Instr.tickFreerun 6).wf = false ∧ (Instr.tickFreerun 5).wf = true := by decide
theorem wf_aerial : (Instr.gainFastStep 0 2).wf = false ∧ (Instr.gainFastStep 5 1).wf = true := by decide
theorem wf_asn : (Instr.commitPacket 2 0 0 0 (2 ^ 40) false false h0).wf = false
    ∧ (Instr.commitPacket 2 0 0 0 (2 ^ 40 - 1) false false h0).wf = true := by decide
theorem wf_bin : (Instr.detectorFire 0 0 128 0 [0]).wf = false ∧ (Instr.detectorFire 5 3 127 1 [65535]).wf = true := by decide
theorem wf_bit : (Instr.stageSoftEnd 0 8 0).wf = false ∧ (Instr.stageSoftEnd 7 7 0).wf = true := by decide
theorem wf_byte : (Instr.launchCutoff 0 256 0 []).wf = false ∧ (Instr.launchCutoff 0 255 0 []).wf = true := by decide
theorem wf_core : (Instr.linkReplayTimeout 16 false).wf = false ∧ (Instr.linkReplayTimeout 15 true).wf = true := by decide
theorem wf_die : (Instr.groupStop 8 0 4 0).wf = false ∧ (Instr.groupStop 7 18 8 0).wf = true := by decide
theorem wf_half : (Instr.takeover 0 0 65536 0 h0).wf = false ∧ (Instr.takeover 0 0 65535 1 h0).wf = true := by decide
theorem wf_hdr_seq : (Instr.adviceReceived 0 0 [] [pk 4096 0]).wf = false ∧ (Instr.adviceReceived 0 0 [] [pk 4095 3]).wf = true := by decide
theorem wf_hdr_vc : (Instr.adviceReceived 0 0 [] [pk 0 4]).wf = false := by decide
theorem wf_hdr_len : (Instr.adviceReceived 0 0 [] [{ pk 0 0 with len := 49 }]).wf = false ∧ (Instr.adviceReceived 0 0 [] [{ pk 0 0 with len := 2 }]).wf = false := by
  decide
theorem wf_lane : (Instr.acqTimeout 0 512).wf = false ∧ (Instr.acqTimeout 0 511).wf = true := by decide
theorem wf_long : (Instr.farWritePacket 0 0 0 0 0 true (2 ^ 64) h0).wf = false
    ∧ (Instr.farWritePacket 0 0 0 1023 4095 true (2 ^ 64 - 1) h0).wf = true := by decide
theorem wf_node : (Instr.ackJudgement 0 131072).wf = false ∧ (Instr.ackJudgement 0 131071).wf = true := by decide
theorem wf_off : (Instr.farReadPacket 0 0 0 0 4096 false h0).wf = false := by decide
theorem wf_page : (Instr.farReadPacket 0 0 0 1024 0 false h0).wf = false := by decide
theorem wf_record : (Instr.nvRecordWriteDone 0 8 true).wf = false ∧ (Instr.nvRecordWriteDone 0 7 true).wf = true := by decide
theorem wf_req : (Instr.nodetabLookup 0 19 4).wf = false ∧ (Instr.nodetabLookup 0 18 4).wf = true := by decide
theorem wf_ring : (Instr.ringCoalesceTimeout 0 64).wf = false ∧ (Instr.ringCoalesceTimeout 0 63).wf = true := by decide
theorem wf_space : (Instr.nodetabLookup 3 0 4).wf = false ∧ (Instr.nodetabLookup 2 0 4).wf = true := by decide
theorem wf_timer : (Instr.tamperAssert 0 32).wf = false ∧ (Instr.tamperAssert 0 31).wf = true := by decide
theorem wf_value : (Instr.tatrumRetrain 0 0 4 (2 ^ 32)).wf = false ∧ (Instr.tatrumRetrain 0 0 4 (2 ^ 32 - 1)).wf = true := by decide
theorem wf_width : (Instr.tatrumRetrain 0 0 3 0).wf = false ∧ (Instr.tatrumRetrain 0 0 8 0).wf = true := by decide
theorem wf_window : (Instr.detectorFire 0 4 0 0 []).wf = false := by decide
theorem wf_word : (Instr.frameLaunch 0 (2 ^ 32)).wf = false ∧ (Instr.frameLaunch 0 (2 ^ 32 - 1)).wf = true := by decide

/-! ## The spec's own examples -/

/-- Chapter 2, "a late dusk slot": frames A, C and B last 1 520, 2 120 and 1 620 µs. -/
theorem ex_air_times : airTime 0 (profReset 0) 0 1 48 0 = 1520 ∧ airTime 0 (profReset 0) 0 1 120 0 = 2120
    ∧ airTime 0 (profReset 0) 0 1 60 0 = 1620 := by decide +kernel

/-- Sail 0 with AUTO and two valid gain states on aerial A. -/
def gains : State :=
  setF r0 [(2, agc 0 F.ADC_AGC_CFG_AUTO, 1), (2, agc 0 F.ADC_AGC_CFG_MAX_STATE, 1), (2, F.FECTL_GAIN_TAB_VALID.at 8 0, 1), (2, F.FECTL_GAIN_TAB_VALID.at 8 1, 1)]

/-- Chapter 3, "a cabinet monitor": a GAIN_FAST_STEP moves aerial A from state 0 to state 1 and counts it. -/
theorem ex_fast_step : (gains.stateDown 2 0 0 = some 1)
    ∧ ∃ t, exec (.gainFastStep 0 0) gains = .next t ∧ t.get 2 F.ADC_GAIN_STATE_STATE_A = 1
      ∧ t.get 2 F.ADC_FAST_STEP_A = 1 := ⟨by decide +kernel, _, rfl, by decide +kernel, by decide +kernel⟩

/-- Sail 1 with window 0 at a centre in 0.1 MHz. -/
def winAt (c : Nat) : State := setF r0 [(3, F.WIN_WIN_CTL_CENTRE, c), (3, F.WIN_WIN_CTL_ENABLE, 1)]

/-- Chapters 3 and 4: 912.4 and 903.2 MHz lie in bins 61 and 49 of a window at 915.0 MHz, 920.0 MHz in bin 70, and in bin 58 of one at
925.0 MHz; the span is 863.4–965.8 MHz. -/
theorem ex_bins : (winAt 9150).locate 1 912400000 = some (0, 61) ∧ (winAt 9150).locate 1 903200000 = some (0, 49)
    ∧ (winAt 9150).locate 1 920000000 = some (0, 70) ∧ (winAt 9250).locate 1 920000000 = some (0, 58)
    ∧ (winAt 9150).locate 1 863399999 = none ∧ (winAt 9150).locate 1 965800000 = none := by decide +kernel

/-- Chapter 4: a 120-byte copy makes a message of 136 bytes in 3 packets; chapter 7: 56 bytes in 2. -/
theorem ex_packets : (message 0x01 0 (List.replicate 136 0)).length = 3 ∧ (message 0x01 0 (List.replicate 56 0)).length = 2 := by decide +kernel

/-- Chapter 5, "loading a parking sensor": the PHR word 0x00A8_0078. -/
theorem ex_phr : Phr.ofBytes [0x78, 0x00, 0xA8, 0x00] = ⟨120, 0, 1, 5, 0⟩ := by decide

/-- Chapter 5: of the five candidates only +50 kHz passes; with a coarse offset of −8.4 kHz it is the nearest to the hint of +41.3 kHz. -/
theorem ex_ltf : nearCand 4130 (-840) [(-5000, 0), (0, 0), (5000, 96)] = some (5000, 96) := by decide +kernel

/-- The recommendation of chapter 5: 16-QAM at the edges, QPSK on d = 29–35, 64-QAM elsewhere. -/
def entry40 : Nat :=
  (List.range 46).foldl (fun a d => a + (if d < 4 ∨ 42 ≤ d then 3 else if 29 ≤ d ∧ d ≤ 35 then 2 else 4) * 2 ^ (3 * d)) (2 ^ 159)

/-- Chapter 5: profile entry 40 carries 232 bits, the report takes 1 420 µs on it; profile 5 carries 84 bits and profile 0 92. -/
theorem ex_entry40 : profBits entry40 = 232 ∧ airTime 0 entry40 0 1 120 0 = 1420 ∧ profBits (profReset 5) = 84 ∧ profBits (profReset 0) = 92 := by
  decide +kernel

/-- Chapter 6, "laying out a 500-byte downlink": three codewords of 183, 183 and 182 bytes, 4 384 coded bits, 48 symbols, 5 720 µs. -/
theorem ex_downlink : codewords 500 8 = 3 ∧ segments 500 8 = [167, 167, 166] ∧ codedBits 500 8 = 4384
    ∧ dataSymbols (profReset 0) 500 8 = 48 ∧ airTime 0 (profReset 0) 0 1 500 0 = 5720 := by decide +kernel

/-- Chapter 6: the sources of stream bytes 0–3, 498–500 and 545–547. -/
theorem ex_columns : (fun l : List (Nat × Nat) => [0, 1, 2, 3, 498, 499, 500, 545, 546, 547].map (fun i => l.getD i (9, 9))) (columns [183, 183, 182])
    = [(0, 0), (1, 0), (2, 0), (0, 1), (0, 166), (1, 166), (2, 166), (2, 181), (0, 182), (1, 182)] := by decide +kernel

/-- Chapter 6: with SEED 5 the first eight scrambler bits form 0xF7, and the first byte's bits go to d = 0, 11, 22 and 33. -/
theorem ex_scrambler : bytesOfBits 1 (scramble 8 (seedState 5)) = [0xF7] ∧ (slotBits (profReset 0)).take 8 = [0, 0, 11, 11, 22, 22, 33, 33] := by
  decide +kernel

/-- Chapter 6, "a water meter in a pit": d = 31 carries bits 14 and 15 of a symbol, d = 32 bits 56 and 57. -/
theorem ex_notch : ((slotBits (profReset 0)).getD 14 99, (slotBits (profReset 0)).getD 15 99) = (31, 31)
    ∧ ((slotBits (profReset 0)).getD 56 99, (slotBits (profReset 0)).getD 57 99) = (32, 32) := by decide +kernel

/-- Chapter 7, "a water meter on 200 kHz MR-FSK": 416 symbols, 4 160 µs. -/
theorem ex_fsk : fskSymbols 0x38 40 8 = 416 ∧ airTime 6 0 0x38 0 40 8 = 4160 := by decide

/-- Chapter 8, "three carriers": beside −6.224 dBm and −2.002 dBm, +1 dBm is lowered to −1.50 dBm under a composite of +2 dBm. -/
theorem ex_composite :
    compositeFit 4 8 12 (milliwatt (-6224 * 16 * unit16 / 1000) + milliwatt (-2002 * 16 * unit16 / 1000)) = some (-6, true) := by decide +kernel

/-- The link and map of chapter 9, "a lantern report". -/
def lantern : Mac × Link :=
  let M : Mac := { (r0.mast 0).mac with maps := [(3, ⟨50, [(5, 212), (12, 219)]⟩)] }
  (M, { (NodeRec.zero).link with period := 6000, map := 3, seed := 17, step := 7 })

/-- Chapter 9: event 1 234 hops to channel-list entry 212 and event 1 235 to entry 219. -/
theorem ex_hop : lantern.1.hop lantern.2 1234 = 212 ∧ lantern.1.hop lantern.2 1235 = 219 ∧ lantern.1.linkOk lantern.2 = true := by decide +kernel

/-- Chapter 11: a 48-byte PSDU takes one cell. -/
theorem ex_cells : cellsFor 48 = 1 := by decide

/-- Chapter 13, "one cycle on the head-end link": at 1000BASE-X wire times of 8.304, 0.672, 12.304 and 12.336 µs. -/
theorem ex_wire : (fun s : State => [1018, 64, 1518, 1522].map (s.wire 0 0)) (setF r0 [(0, eth F.ETH_CFG_MODE 0, 1)])
    = [83040, 6720, 123040, 123360] := by decide +kernel

/-- The check value of CRC-32 and of CRC-32C over the digits "1" to "9", and that of CRC-64 with these settings. -/
theorem crc_values : crc32 [49, 50, 51, 52, 53, 54, 55, 56, 57] = 0xCBF43926 ∧ crc32c [49, 50, 51, 52, 53, 54, 55, 56, 57] = 0xE3069283 := by
  decide +kernel

/-! ## Reset (chapters 18 and 20) -/

/-- The queue of commands is empty, mast B waits for its role and the memory tables are empty. -/
theorem reset_plain : r0.pending = [] ∧ (r0.mast 0).nt.count = 0 ∧ (r0.mast 0).asn = 0 := by decide +kernel

/-! ## The package (chapter 21) -/

/-- R635: 49 rows, the letters I, O, Q, R, S, X and Z left out; row 35 is AU. -/
theorem ex_rows : rowLetters.length = 49 ∧ rowIndex "A" = 1 ∧ rowIndex "AU" = 35 := by decide +kernel

/-- R640–R642: six sail sites, two sets of mast signals and the shared balls. -/
theorem ex_places : (6 * sitePlaces.length, 2 * mastPlaces.length, sharedPlaces.length) = (114, 172, 13) := by decide +kernel

/-! ## The published standards (R5) -/

/-- The digest of "abc" in FIPS 180-4, and the first AES-128 block of FIPS 197, appendix C. -/
theorem ex_standards : beNat (sha256 [97, 98, 99]) = 0xba7816bf8f01cfea414140de5dae2223b00361a396177a9cb410ff61f20015ad
    ∧ aesEnc (List.range 16) ((List.range 16).map (fun i => 17 * i)) = beBytes 16 0x69c4e0d86a7b0430d8cdb78070b4c55a := by
  constructor <;> decide +kernel

end Sys2Proof.Tests
end

section
/-! SUPPORT. The slot length in force (R36) is changed by nothing but the action of a tick that takes it from SLOT: one lemma for each operation that the
other actions of a mast's tick reach, in the model's order. -/

namespace Sys2Proof.Machine

variable (s : State) (m j : Nat)

/-! ## Operations that change no mast -/

@[simp] theorem State.mast_put64 (d : Nat) (f : Fld) (v : Nat) : (s.put64 d f v).mast j = s.mast j := rfl

@[simp] theorem State.mast_setBit (d a b : Nat) : (s.setBit d a b).mast j = s.mast j := rfl

@[simp] theorem State.mast_emitAll (l : List Out) : (s.emitAll l).mast j = s.mast j := rfl

@[simp] theorem State.mast_pump (c : Nat) (up : Bool) : (s.pump c up).mast j = s.mast j := by
  unfold State.pump; dsimp only; split
  · rfl
  · simp

@[simp] theorem State.mast_sendOn (c : Nat) (up : Bool) (ps : List Pkt) : (s.sendOn c up ps).mast j = s.mast j := by
  unfold State.sendOn; dsimp only; split
  · rfl
  · simp

@[simp] theorem State.mast_sailSend (k : Nat) (ps : List Pkt) : (s.sailSend k ps).mast j = s.mast j := by
  unfold State.sailSend; dsimp only; split
  · simp
  · rfl

@[simp] theorem State.mast_sailEvent (k : Nat) (b : List Nat) : (s.sailEvent k b).mast j = s.mast j := by
  unfold State.sailEvent; dsimp only; split
  · rw [State.mast_sailSend]; rfl
  · rfl

@[simp] theorem State.mast_timingClamp : (s.timingClamp m).mast j = s.mast j := by
  unfold State.timingClamp; dsimp only; split <;> simp

@[simp] theorem State.mast_unshape (k c l : Nat) : (s.unshape m k c l).mast j = s.mast j := by
  unfold State.unshape; dsimp only; split <;> simp

@[simp] theorem State.mast_tpoNext (o : Nat) (t : Nat × Nat) : (s.tpoNext m o t).mast j = s.mast j := rfl

@[simp] theorem State.mast_tpoSkip (x o : Nat) : (s.tpoSkip m x o).mast j = s.mast j := by
  unfold State.tpoSkip; dsimp only
  split
  · rfl
  · split
    · rfl
    · split <;> simp

/-- A fold of steps that change no mast changes none. -/
theorem State.mast_foldl {β : Type} {f : State → β → State} {l : List β} (hf : ∀ t b, (f t b).mast j = t.mast j) : (l.foldl f s).mast j = s.mast j :=
  foldl_keeps (fun t => t.mast j = s.mast j) f l (fun t b h => (hf t b).trans h) rfl

/-- A step of MESH moves the time pulse outputs alone. -/
@[simp] theorem State.mast_domStepped_mesh : (s.domStepped m 1).mast j = s.mast j := by
  unfold State.domStepped; simp [State.mast_foldl]

/-! ## Updates of a mast -/

/-- A mast's new record with the slot length of its old one. -/
@[simp] theorem State.slotSel_setMast {i : Nat} {x : Mast} (h : x.slotSel = (s.mast i).slotSel) :
    ((s.setMast i x).mast j).slotSel = (s.mast j).slotSel := by
  by_cases hi : i = 0 <;> by_cases hj : j = 0 <;> simp_all [State.setMast, State.mast]

/-- A fold of steps that keep the slot length keeps it. -/
@[simp] theorem State.slotSel_foldl {β : Type} {f : State → β → State} {l : List β}
    (hf : ∀ t b, ((f t b).mast j).slotSel = (t.mast j).slotSel) : ((l.foldl f s).mast j).slotSel = (s.mast j).slotSel :=
  foldl_keeps (fun t => (t.mast j).slotSel = (s.mast j).slotSel) f l (fun t b h => (hf t b).trans h) rfl

/-- A choice of two states, where the choices are not split by hand. -/
theorem State.slotSel_ite {c : Prop} [Decidable c] (t : State) :
    ((if c then s else t).mast j).slotSel = if c then (s.mast j).slotSel else (t.mast j).slotSel := apply_ite (fun u : State => (u.mast j).slotSel) c s t

@[simp] theorem Mast.slotSel_setNode (M : Mast) (n : Nat) (r : NodeRec) : (M.setNode n r).slotSel = M.slotSel := by simp only [Mast.setNode]

@[simp] theorem State.slotSel_setSal (S : Saltern) : ((s.setSal m S).mast j).slotSel = (s.mast j).slotSel := by simp [State.setSal]

@[simp] theorem State.slotSel_setMac (M : Mac) : ((s.setMac m M).mast j).slotSel = (s.mast j).slotSel := by simp [State.setMac]

@[simp] theorem State.slotSel_setLink (n : Nat) (l : Link) : ((s.setLink m n l).mast j).slotSel = (s.mast j).slotSel := by simp [State.setLink]

@[simp] theorem State.slotSel_setCamp (c : Camp) : ((s.setCamp m c).mast j).slotSel = (s.mast j).slotSel := by simp [State.setCamp]

@[simp] theorem State.slotSel_setCampOf (v : Nat) (c : CampSec) : ((s.setCampOf m v c).mast j).slotSel = (s.mast j).slotSel := by
  simp [State.setCampOf]

/-! ## Vectors and event bits -/

@[simp] theorem State.slotSel_vecSend (v : Nat) : ((s.vecSend m v).mast j).slotSel = (s.mast j).slotSel := by
  unfold State.vecSend
  split
  · split <;> simp
  · rfl

@[simp] theorem State.slotSel_irqEdge (b : State) (d p : Nat) : ((State.irqEdge b s d p).mast j).slotSel = (s.mast j).slotSel := by
  unfold State.irqEdge; dsimp only
  split
  · split <;> simp
  · split <;> simp

@[simp] theorem State.slotSel_irq (d p b : Nat) : ((s.irq d p b).mast j).slotSel = (s.mast j).slotSel := by simp [State.irq]

/-! ## Cells, items and reports -/

@[simp] theorem State.slotSel_pauseSend (p : Nat) (on : Bool) : ((s.pauseSend m p on).mast j).slotSel = (s.mast j).slotSel := by
  unfold State.pauseSend; dsimp only; split <;> simp

@[simp] theorem State.slotSel_pauseCheck (p : Nat) : ((s.pauseCheck m p).mast j).slotSel = (s.mast j).slotSel := by
  simp [State.pauseCheck, State.slotSel_ite]

@[simp] theorem State.slotSel_pauseAll : ((s.pauseAll m).mast j).slotSel = (s.mast j).slotSel := by simp [State.pauseAll]

@[simp] theorem State.slotSel_brineCheck : ((s.brineCheck m).mast j).slotSel = (s.mast j).slotSel := by
  unfold State.brineCheck; dsimp only
  split
  · simp
  · split <;> simp

@[simp] theorem State.slotSel_placeAdd (p : Place) (n : Nat) : ((s.placeAdd m p n).mast j).slotSel = (s.mast j).slotSel := by
  cases p <;> simp [State.placeAdd]

@[simp] theorem State.slotSel_placeSub (p : Place) (n : Nat) : ((s.placeSub m p n).mast j).slotSel = (s.mast j).slotSel := by
  cases p <;> simp [State.placeSub]

@[simp] theorem State.slotSel_freeItem (c : Nat) : ((s.freeItem m c).mast j).slotSel = (s.mast j).slotSel := by
  unfold State.freeItem; dsimp only; split <;> simp

@[simp] theorem State.slotSel_enqueueAs (q c : Nat) : ((s.enqueueAs m q c).mast j).slotSel = (s.mast j).slotSel := by simp [State.enqueueAs]

@[simp] theorem State.slotSel_output (p : Nat) (b : List Nat) : ((s.output m p b).mast j).slotSel = (s.mast j).slotSel := by
  unfold State.output; dsimp only; split <;> simp

@[simp] theorem State.slotSel_event (k : EventKind) (i : Nat) (b : List Nat) : ((s.event m k i b).mast j).slotSel = (s.mast j).slotSel := by
  unfold State.event; dsimp only
  split
  · simp
  · split <;> simp

@[simp] theorem State.slotSel_chainRemove (n c : Nat) : ((s.chainRemove m n c).mast j).slotSel = (s.mast j).slotSel := by
  unfold State.chainRemove; dsimp only; split <;> simp

@[simp] theorem State.slotSel_mcRemove (k c : Nat) : ((s.mcRemove m k c).mast j).slotSel = (s.mast j).slotSel := by
  unfold State.mcRemove; dsimp only; split <;> simp

/-! ## Launches, shapers and the reference -/

@[simp] theorem State.slotSel_shapeGrant : ((s.shapeGrant m).mast j).slotSel = (s.mast j).slotSel := by
  unfold State.shapeGrant
  apply State.slotSel_foldl
  intro t i
  dsimp only; split <;> simp

@[simp] theorem State.slotSel_mastRevert : ((s.mastRevert m).mast j).slotSel = (s.mast j).slotSel := by
  unfold State.mastRevert; dsimp only
  split
  · rfl
  · split <;> simp [State.mastRefSwitch]

@[simp] theorem State.slotSel_resolve (l : Launch) (keep : Nat) : ((s.resolve m l keep).mast j).slotSel = (s.mast j).slotSel := by
  simp [State.resolve]

@[simp] theorem State.slotSel_dropQueued (l : Launch) : ((s.dropQueued m l).mast j).slotSel = (s.mast j).slotSel := by
  unfold State.dropQueued; split <;> simp [State.unqueueItem]

/-! ## Campaign frames that leave their chains -/

@[simp] theorem State.slotSel_campFrame (typ v arg : Nat) : ((s.campFrame m typ v arg).mast j).slotSel = (s.mast j).slotSel := by
  unfold State.campFrame; dsimp only; split <;> simp

@[simp] theorem State.slotSel_setMissing (v bits : Nat) : ((s.setMissing m v bits).mast j).slotSel = (s.mast j).slotSel := by
  simp [State.setMissing]

@[simp] theorem State.slotSel_campTry (v : Nat) {retry : State → State} (hr : ∀ t, ((retry t).mast j).slotSel = (t.mast j).slotSel) :
    ((s.campTry m v retry).mast j).slotSel = (s.mast j).slotSel := by
  unfold State.campTry; dsimp only; split <;> simp [hr]

@[simp] theorem State.slotSel_straggle (v : Nat) : ((s.straggle m v).mast j).slotSel = (s.mast j).slotSel := by
  unfold State.straggle; dsimp only
  split
  · rfl
  · split <;> simp

@[simp] theorem State.slotSel_campLeft (c : Nat) (a : Bool) : ((s.campLeft m c a).mast j).slotSel = (s.mast j).slotSel := by
  unfold State.campLeft; dsimp only
  split
  · rfl
  · split
    · split
      · simp
      · split <;> simp
    · split <;> simp
    · split <;> simp
    · split <;> simp
    · simp

@[simp] theorem State.slotSel_frameGone (v k c : Nat) (a : Bool) : ((s.frameGone m v k c a).mast j).slotSel = (s.mast j).slotSel := by
  unfold State.frameGone; split <;> simp

/-! ## Beacons and TX_DONE reports -/

@[simp] theorem State.slotSel_beaconMiss (k : Nat) : ((s.beaconMiss m k).mast j).slotSel = (s.mast j).slotSel := by
  unfold State.beaconMiss; dsimp only; split <;> simp

@[simp] theorem State.slotSel_txEvent (n : Nat) (r : TxReport) : ((s.txEvent m n r).mast j).slotSel = (s.mast j).slotSel := by
  simp [State.txEvent]

@[simp] theorem State.slotSel_copyCharge (l : Launch) (us : Nat) : ((s.copyCharge m l us).mast j).slotSel = (s.mast j).slotSel := by
  simp [State.copyCharge]

@[simp] theorem State.slotSel_beaconDone (l : Launch) (st : Nat) : ((s.beaconDone m l st).mast j).slotSel = (s.mast j).slotSel := by
  unfold State.beaconDone; split <;> simp

@[simp] theorem State.slotSel_ackDone (l : Launch) (st r : Nat) : ((s.ackDone m l st r).mast j).slotSel = (s.mast j).slotSel := by
  unfold State.ackDone; dsimp only
  split
  · split
    · simp
    · split <;> simp
  · split
    · simp
    · split <;> simp

@[simp] theorem State.slotSel_dataDone (l : Launch) (r : TxReport) : ((s.dataDone m l r).mast j).slotSel = (s.mast j).slotSel := by
  unfold State.dataDone; dsimp only
  split
  · simp
  · split
    · rfl
    · split
      · simp
      · split <;> simp

@[simp] theorem State.slotSel_txDone (k : Nat) (r : TxReport) : ((s.txDone m k r).mast j).slotSel = (s.mast j).slotSel := by
  unfold State.txDone; dsimp only
  split
  · rfl
  · split <;> simp [State.slotSel_ite]

/-! ## The last actions of a mast's tick -/

@[simp] theorem State.slotSel_withdrawTick : ((s.withdrawTick m).mast j).slotSel = (s.mast j).slotSel := by
  unfold State.withdrawTick; dsimp only
  split <;> simp [State.slotSel_ite]

@[simp] theorem State.slotSel_oldLaunches : ((s.oldLaunches m).mast j).slotSel = (s.mast j).slotSel := by simp [State.oldLaunches]

@[simp] theorem State.slotSel_grantSlot : ((s.grantSlot m).mast j).slotSel = (s.mast j).slotSel := by simp [State.grantSlot]

end Sys2Proof.Machine
end

section
/-! SUPPORT. The first actions of a mast's tick (R41) move the slot and the length alone: what the later actions consult stays as it was. -/

namespace Sys2Proof.Machine

/-! ## The words that a tick consults -/

/-- The words, by address, from which a tick takes the roles, the request for reefed mode, SLOT and the phase of an update. -/
def tickReads : List Nat := [F.PAIR_ROLE_ACTIVE.addr, F.SYS_MODE_REEFED.addr, F.TIME_MESH_CFG_SLOT.addr, F.UPDATE_STATUS_PHASE.addr]

/-- An address of a die's register space whose word no tick consults. -/
def TickFree (a : Nat) : Prop := a < 2 ^ 24 ∧ a ∉ tickReads

/-- The state `t` shows a tick the same pins, mode and words of the masts as `s` does. -/
structure TickAlike (s t : State) : Prop where
  variant : t.variant = s.variant
  lowpwr : t.lowpwr = s.lowpwr
  reefed : t.reefed = s.reefed
  word : ∀ d a, a ∈ tickReads → t.word (key d a) = s.word (key d a)

theorem tickReads_lt {a : Nat} (h : a ∈ tickReads) : a < 2 ^ 24 := by
  revert a; decide

theorem key_ne_of_tickFree {d e a b : Nat} (ha : a ∈ tickReads) (hb : TickFree b) : key d a ≠ key e b := by
  obtain ⟨hlt, hnot⟩ := hb
  have hne : a ≠ b := fun h => hnot (h ▸ ha)
  have := tickReads_lt ha
  unfold key; omega

/-- The live words of a time pulse output are of no concern to a tick. -/
theorem tickFree_tpo {a : Nat} (h1 : 0x31400 ≤ a) (h2 : a < 0x32000) : TickFree a := by
  refine ⟨by omega, fun h => ?_⟩
  simp [tickReads, F.PAIR_ROLE_ACTIVE, F.SYS_MODE_REEFED, F.TIME_MESH_CFG_SLOT, F.UPDATE_STATUS_PHASE] at h
  omega

section
variable {s t : State} {m : Nat}

theorem TickAlike.refl : TickAlike s s := ⟨rfl, rfl, rfl, fun _ _ _ => rfl⟩

/-- A field reads alike when its word is one that a tick consults. -/
theorem TickAlike.get (h : TickAlike s t) (d : Nat) {f : Fld} (hf : f.addr ∈ tickReads) : t.get d f = s.get d f := by
  unfold State.get; rw [h.word d _ hf]

theorem TickAlike.active (h : TickAlike s t) : t.active = s.active := by
  unfold State.active State.redundant State.bit
  rw [h.variant, h.get 0 (f := F.PAIR_ROLE_ACTIVE) (by decide), h.get 1 (f := F.PAIR_ROLE_ACTIVE) (by decide),
    h.get 0 (f := F.PAIR_ROLE_EPOCH) (by decide), h.get 1 (f := F.PAIR_ROLE_EPOCH) (by decide)]

theorem TickAlike.reefWanted (h : TickAlike s t) : t.reefWanted = s.reefWanted := by
  unfold State.reefWanted State.bit
  rw [h.lowpwr, h.active, h.get s.active (f := F.SYS_MODE_REEFED) (by decide)]

theorem TickAlike.updPhase (h : TickAlike s t) : t.updPhase m = s.updPhase m := h.get m (by decide)

/-! ## Updates that a tick does not see -/

theorem TickAlike.setMast {x : Mast} (h : TickAlike s t) : TickAlike s (t.setMast m x) := by
  unfold State.setMast
  split <;> exact ⟨h.variant, h.lowpwr, h.reefed, h.word⟩

theorem TickAlike.setWord {a : Nat} {w : Word} (h : TickAlike s t) (ha : TickFree a) : TickAlike s (t.setWord (key m a) w) :=
  ⟨h.variant, h.lowpwr, h.reefed, fun d b hb => (State.word_setWord_other t w (key_ne_of_tickFree hb ha)).trans (h.word d b hb)⟩

theorem TickAlike.put {f : Fld} {v : Nat} (h : TickAlike s t) (hf : TickFree f.addr) : TickAlike s (t.put m f v) := h.setWord hf

theorem TickAlike.count {f : Fld} {n : Nat} (h : TickAlike s t) (hf : TickFree f.addr) : TickAlike s (t.count m f n) := h.put hf

theorem TickAlike.put64 {f : Fld} {v : Nat} (h : TickAlike s t) (hf : TickFree f.addr) (hf4 : TickFree (f.addr + 4)) : TickAlike s (t.put64 m f v) :=
  (h.setWord hf).setWord hf4

theorem TickAlike.pump {c : Nat} {up : Bool} (h : TickAlike s t) : TickAlike s (t.pump c up) := by
  unfold State.pump; dsimp only
  split
  · exact h
  · exact ⟨h.variant, h.lowpwr, h.reefed, h.word⟩

theorem TickAlike.sendOn {c : Nat} {up : Bool} {ps : List Pkt} (h : TickAlike s t) : TickAlike s (t.sendOn c up ps) := by
  unfold State.sendOn; dsimp only
  split
  · exact h
  · exact TickAlike.pump ⟨h.variant, h.lowpwr, h.reefed, h.word⟩

/-! ## MESH opens its slot -/

theorem TickAlike.tpoNext {o : Nat} {x : Nat × Nat} (h : TickAlike s t) (ho : o < 8) : TickAlike s (t.tpoNext m o x) := by
  refine ((h.put64 ?_ ?_).put ?_).put ?_
  all_goals
    apply tickFree_tpo <;> simp only [tl, Fld.at, F.TPO_NEXT_HI_HI, F.TPO_NEXT_LO_NS, F.TPO_STATUS_ACTIVE] <;> omega

theorem TickAlike.tpoSkip {x o : Nat} (h : TickAlike s t) (ho : o < 8) : TickAlike s (t.tpoSkip m x o) := by
  have hskip : TickFree (F.TPO_SKIPPED.at 8 o).addr := by
    apply tickFree_tpo <;> simp only [F.TPO_SKIPPED, Fld.at] <;> omega
  have hact : TickFree (tl F.TPO_STATUS_ACTIVE o).addr := by
    apply tickFree_tpo <;> simp only [tl, F.TPO_STATUS_ACTIVE, Fld.at] <;> omega
  unfold State.tpoSkip; dsimp only
  split
  · exact h
  · split
    · exact h
    · split
      · exact (h.tpoNext ho).count hskip
      · exact (h.put hact).count hskip

theorem TickAlike.domStepped_mesh (h : TickAlike s t) : TickAlike s (t.domStepped m 1) := by
  unfold State.domStepped
  exact List.foldlRecOn _ _ h (fun u hu o ho => hu.tpoSkip (List.mem_range.mp ho))

theorem TickAlike.meshTick (h : TickAlike s t) : TickAlike s (t.meshTick m) := by
  unfold State.meshTick; dsimp only
  split
  · exact h.setMast.setMast.domStepped_mesh
  · exact h.setMast.setMast

theorem TickAlike.sendSlotEnd {n : Nat} (h : TickAlike s t) : TickAlike s (t.sendSlotEnd m n) := by
  have hseq : TickFree F.PAIR_INSEQ_SEQ.addr := by unfold TickFree; decide
  have hseq4 : TickFree (F.PAIR_INSEQ_SEQ.addr + 4) := by unfold TickFree; decide
  have hcnt : TickFree F.PAIR_MIRRORED.addr := by unfold TickFree; decide
  unfold State.sendSlotEnd; dsimp only
  split
  · exact h
  · exact ((h.setMast.put64 hseq hseq4).count hcnt).sendOn

theorem TickAlike.latchCounts (h : TickAlike s t) : TickAlike s (t.latchCounts m) := by
  unfold State.latchCounts
  split
  · exact h
  · exact h.setMast

theorem TickAlike.mastAsn (h : TickAlike s t) : TickAlike s (t.mastAsn m) := h.meshTick.setMast.sendSlotEnd.latchCounts

theorem TickAlike.takeSlotLen (h : TickAlike s t) : TickAlike s (t.takeSlotLen m) := by
  have hclamp : TickFree 0x02000C := by unfold TickFree; decide
  unfold State.takeSlotLen; dsimp only
  split
  · exact h
  · unfold State.timingClamp; dsimp only
    split
    · exact h.setMast.setWord hclamp
    · exact h.setMast

end

/-! ## What waits in a mast's record -/

/-- What the later actions of a tick consult in a mast's record: the commits under way, and a takeover and an activation that wait. -/
def Mast.agenda (M : Mast) : List CommitRun × Option Nat × Bool := (M.runs, M.pair.takeover, M.upd.actPend)

variable (s : State) (m : Nat)

@[simp] theorem State.agenda_meshTick : ((s.meshTick m).mast m).agenda = (s.mast m).agenda := by
  unfold State.meshTick; dsimp only
  split <;> simp [State.setDom, Mast.agenda]

@[simp] theorem State.agenda_sendSlotEnd (n : Nat) : ((s.sendSlotEnd m n).mast m).agenda = (s.mast m).agenda := by
  unfold State.sendSlotEnd; dsimp only
  split <;> simp [State.setPair, Mast.agenda]

@[simp] theorem State.agenda_latchCounts : ((s.latchCounts m).mast m).agenda = (s.mast m).agenda := by
  unfold State.latchCounts
  split <;> simp [State.setPair, Mast.agenda]

@[simp] theorem State.agenda_mastAsn : ((s.mastAsn m).mast m).agenda = (s.mast m).agenda := by
  unfold State.mastAsn; dsimp only
  rw [State.agenda_latchCounts, State.agenda_sendSlotEnd, State.mast_setMast_self]
  exact State.agenda_meshTick s m

@[simp] theorem State.agenda_setMac (M : Mac) : ((s.setMac m M).mast m).agenda = (s.mast m).agenda := by simp [State.setMac, Mast.agenda]

@[simp] theorem State.agenda_takeSlotLen : ((s.takeSlotLen m).mast m).agenda = (s.mast m).agenda := by
  unfold State.takeSlotLen; dsimp only
  split <;> simp [Mast.agenda]

/-! ## The slot length -/

@[simp] theorem State.slotSel_meshTick (j : Nat) : ((s.meshTick m).mast j).slotSel = (s.mast j).slotSel := by
  unfold State.meshTick; dsimp only
  split <;> simp [State.setDom]

@[simp] theorem State.slotSel_sendSlotEnd (j n : Nat) : ((s.sendSlotEnd m n).mast j).slotSel = (s.mast j).slotSel := by
  unfold State.sendSlotEnd; dsimp only
  split <;> simp [State.setPair]

@[simp] theorem State.slotSel_latchCounts (j : Nat) : ((s.latchCounts m).mast j).slotSel = (s.mast j).slotSel := by
  unfold State.latchCounts
  split <;> simp [State.setPair]

@[simp] theorem State.slotSel_mastAsn (j : Nat) : ((s.mastAsn m).mast j).slotSel = (s.mast j).slotSel := by simp [State.mastAsn]

/-- The length follows SLOT but for its reserved value (R36). -/
theorem State.slotSel_takeSlotLen :
    ((s.takeSlotLen m).mast m).slotSel = if s.get m F.TIME_MESH_CFG_SLOT = 3 then (s.mast m).slotSel else s.get m F.TIME_MESH_CFG_SLOT := by
  unfold State.takeSlotLen; dsimp only
  by_cases hres : s.get m F.TIME_MESH_CFG_SLOT = 3
  · simp [hres]
  · by_cases hsame : s.get m F.TIME_MESH_CFG_SLOT = (s.mast m).slotSel <;> simp [hres, hsame]

/-! ## Actions with nothing due -/

variable {s m}

theorem State.tickSnaps_of_no_runs (h : (s.mast m).runs = []) : s.tickSnaps m = s := by simp [State.tickSnaps, h]

theorem State.tickCommits_of_no_runs (h : (s.mast m).runs = []) : s.tickCommits m = s := by simp [State.tickCommits, h]

theorem State.updTick_of_idle (hp : (s.mast m).upd.actPend = false) (h : s.updPhase m < 4) : s.updTick m = s := by
  have h4 : s.updPhase m ≠ 4 := by omega
  have h5 : s.updPhase m ≠ 5 := by omega
  simp [State.updTick, hp, h4, h5]

theorem State.roleTick_of_no_takeover (h : (s.mast m).pair.takeover = none) : s.roleTick m = s := by
  have ht : s.takeoverAt m = s := by simp [State.takeoverAt, h]
  simp [State.roleTick, ht]

theorem State.reefTick_of_met (h : s.reefWanted = s.reefed) : s.reefTick m = s := by
  cases hr : s.reefed <;> simp [State.reefTick, h, hr]

/-! ## The tick of a mast -/

/-- The state in which a mast's tick takes the slot length. -/
def State.slotOpened (s : State) (m : Nat) : State :=
  let s1 := ((s.mastAsn m).tickSnaps m).tickCommits m
  s1.setMac m { (s1.mast m).mac with mapsOld := [] }

theorem State.mastTick_eq_slotOpened (s : State) (m : Nat) : s.mastTick m =
    ((((((((s.slotOpened m).takeSlotLen m).updTick m).roleTick m).reefTick m).mastRevert m).withdrawTick m).oldLaunches m).grantSlot m := rfl

section
variable (hruns : (s.mast m).runs = [])
include hruns

theorem State.slotOpened_of_no_runs : s.slotOpened m = (s.mastAsn m).setMac m { ((s.mastAsn m).mast m).mac with mapsOld := [] } := by
  have hasn : ((s.mastAsn m).mast m).agenda = (s.mast m).agenda := s.agenda_mastAsn m
  have hruns1 : ((s.mastAsn m).mast m).runs = [] := (congrArg Prod.fst hasn).trans hruns
  simp only [State.slotOpened, State.tickSnaps_of_no_runs hruns1, State.tickCommits_of_no_runs hruns1]

theorem tickAlike_slotOpened : TickAlike s (s.slotOpened m) := by
  rw [State.slotOpened_of_no_runs hruns]
  exact TickAlike.refl.mastAsn.setMast

theorem State.agenda_slotOpened : ((s.slotOpened m).mast m).agenda = (s.mast m).agenda := by simp [State.slotOpened_of_no_runs hruns]

theorem State.slotSel_slotOpened : ((s.slotOpened m).mast m).slotSel = (s.mast m).slotSel := by simp [State.slotOpened_of_no_runs hruns]

end

section
variable (hruns : (s.mast m).runs = []) (htake : (s.mast m).pair.takeover = none) (hact : (s.mast m).upd.actPend = false)
  (hphase : s.updPhase m < 4) (hreef : s.reefWanted = s.reefed)
include hruns htake hact hphase hreef

/-- With no commit under way, no takeover and no activation waiting, no trial reset due and reefed mode as requested, actions 4 and 6 of R41 leave the
state in which the slot length was taken. -/
theorem State.mastTick_of_nothing_due :
    s.mastTick m = (((((s.slotOpened m).takeSlotLen m).mastRevert m).withdrawTick m).oldLaunches m).grantSlot m := by
  have halike : TickAlike s ((s.slotOpened m).takeSlotLen m) := (tickAlike_slotOpened hruns).takeSlotLen
  have hagenda : (((s.slotOpened m).takeSlotLen m).mast m).agenda = (s.mast m).agenda := by simp [State.agenda_slotOpened hruns]
  simp only [Mast.agenda, Prod.mk.injEq, htake, hact] at hagenda
  obtain ⟨-, htake3, hact3⟩ := hagenda
  have hphase3 : ((s.slotOpened m).takeSlotLen m).updPhase m < 4 := by rwa [halike.updPhase]
  have hreef3 : ((s.slotOpened m).takeSlotLen m).reefWanted = ((s.slotOpened m).takeSlotLen m).reefed := by
    rw [halike.reefWanted, halike.reefed, hreef]
  rw [State.mastTick_eq_slotOpened, State.updTick_of_idle hact3 hphase3, State.roleTick_of_no_takeover htake3, State.reefTick_of_met hreef3]

theorem State.slotSel_mastTick :
    ((s.mastTick m).mast m).slotSel = if s.get m F.TIME_MESH_CFG_SLOT = 3 then (s.mast m).slotSel else s.get m F.TIME_MESH_CFG_SLOT := by
  have hslot : (s.slotOpened m).get m F.TIME_MESH_CFG_SLOT = s.get m F.TIME_MESH_CFG_SLOT := (tickAlike_slotOpened hruns).get m (by decide)
  rw [State.mastTick_of_nothing_due hruns htake hact hphase hreef]
  simp [State.slotSel_takeSlotLen, State.slotSel_slotOpened hruns, hslot]

end

end Sys2Proof.Machine

open Sys2Proof Sys2Proof.Machine

/-- Settles O55: the encoding and the reset value by evaluation, the tick by the one action of it that takes the length from SLOT. -/
theorem slotLengthSelected : Obligations.slot_length_selected := by
  unfold Obligations.slot_length_selected
  refine ⟨rfl, rfl, rfl, by decide, fun s m a hm hfit hruns htake hact hphase hreef => ⟨s.mastTick m, ?_, ?_⟩⟩
  · show execSlotTick m a s = _
    simp [execSlotTick, hfit, hm]
  · exact State.slotSel_mastTick hruns htake hact hphase hreef
end

section
/-! SUPPORT. A rebuild of the key slots (R436) and the event reports that it sends leave every word of another page alone. -/

namespace Sys2Proof.Machine

/-! ## Words by their pages -/

/-- Every die has the same map of pages. -/
@[simp] theorem keyPage_key (d a : Nat) : keyPage (key d a) = a / 4096 % 4096 := by
  unfold keyPage key; omega

theorem ne_key_of_page {k d a : Nat} (h : keyPage k ≠ a / 4096 % 4096) : k ≠ key d a := by
  rintro rfl
  exact h (keyPage_key d a)

/-- The pages in which an event report that is placed or held writes a word: the vectors, Saltern and the Ethernet ports. -/
def reportPages : List Nat := [0x003, 0x011, 0x049, 0x04A, 0x04B, 0x04C]

/-! ## Event reports -/

section
variable (s : State) (m : Nat) {k : Nat}

@[simp] theorem State.word_setSal (S : Saltern) : (s.setSal m S).word k = s.word k := by simp [State.setSal]

@[simp] theorem State.word_setKeys (K : KeyEng) : (s.setKeys m K).word k = s.word k := by simp [State.setKeys]

/-- A fold of steps that leave a word alone leaves it alone. -/
theorem State.word_foldl {β : Type} {f : State → β → State} {l : List β} (hf : ∀ t, ∀ b ∈ l, (f t b).word k = t.word k) :
    (l.foldl f s).word k = s.word k :=
  List.foldlRecOn (motive := fun t => t.word k = s.word k) l f rfl (fun t ht b hb => (hf t b hb).trans ht)

theorem State.word_ite {c : Prop} [Decidable c] (t : State) : (if c then s else t).word k = if c then s.word k else t.word k :=
  apply_ite (fun u : State => u.word k) c s t

@[simp] theorem State.word_placeAdd (p : Place) (n : Nat) : (s.placeAdd m p n).word k = s.word k := by
  cases p <;> simp [State.placeAdd]

@[simp] theorem State.word_placeSub (p : Place) (n : Nat) : (s.placeSub m p n).word k = s.word k := by
  cases p <;> simp [State.placeSub]

@[simp] theorem State.word_output (p : Nat) (b : List Nat) : (s.output m p b).word k = s.word k := by
  unfold State.output; dsimp only
  split <;> simp

variable (hk : keyPage k ∉ reportPages)
include hk

theorem State.word_pauseSend (p : Nat) (on : Bool) : (s.pauseSend m p on).word k = s.word k := by
  have hcnt : k ≠ key (s.pausePort p) (F.ETH_PAUSE_TX.page (p % 4)).addr := by
    apply ne_key_of_page
    simp only [reportPages, List.mem_cons, not_or] at hk
    simp only [F.ETH_PAUSE_TX, Fld.page]
    omega
  unfold State.pauseSend; dsimp only
  split
  · rw [State.word_emit, State.word_bump hcnt, State.word_setSal]
  · exact s.word_setSal m _

theorem State.word_pauseCheck (p : Nat) : (s.pauseCheck m p).word k = s.word k := by
  simp [State.pauseCheck, State.word_ite, State.word_pauseSend s m hk]

theorem State.word_pauseAll : (s.pauseAll m).word k = s.word k := State.word_foldl s fun t p _ => t.word_pauseCheck m hk p

variable {m} (hm : m < 2)
include hm

/-- An event bit of a mast changes its own page and MSIX_SENT alone. -/
theorem State.word_irq_of_page {p : Nat} (b : Nat) (hp : keyPage k ≠ p) (hlt : p < 4096) : (s.irq m p b).word k = s.word k := by
  have hsent : k ≠ key m F.IRQ_MSIX_SENT.addr := ne_key_of_page fun h => hk (h ▸ by decide)
  have hstatus : k ≠ key m (p * 4096 + 0x010) := ne_key_of_page (by omega)
  rw [State.word_irq hm hsent, if_neg hstatus]

theorem State.word_brineCheck : (s.brineCheck m).word k = s.word k := by
  have hsal : keyPage k ≠ 0x011 := fun h => hk (h ▸ by decide)
  unfold State.brineCheck; dsimp only
  split
  · rw [State.word_irq_of_page _ hk hm 2 hsal (by decide), State.word_setSal, State.word_pauseAll s m hk]
  · split <;> rw [State.word_setSal, State.word_pauseAll s m hk]

theorem State.word_enqueueAs (q c : Nat) : (s.enqueueAs m q c).word k = s.word k := by
  unfold State.enqueueAs; dsimp only
  rw [State.word_brineCheck _ hk hm, State.word_setSal, State.word_placeAdd, State.word_placeSub]

theorem State.word_event (e : EventKind) (i : Nat) (b : List Nat) : (s.event m e i b).word k = s.word k := by
  have hhold : k ≠ key m F.SALTERN_HOLD.addr := ne_key_of_page fun h => hk (h ▸ by decide)
  unfold State.event; dsimp only
  split
  · rw [State.word_bump hhold, State.word_setMast]
  · split
    · rw [State.word_output, State.word_enqueueAs _ hk hm, State.word_setSal]
    · rw [State.word_bump hhold, State.word_setMast]

/-! ## The rebuild -/

/-- A rebuild writes the page of the key engine and, for a slot that does not unwrap, what an event report writes. -/
theorem State.word_rebuildKeys (hkeys : keyPage k ≠ 0x038) : (s.rebuildKeys m).word k = s.word k := by
  have hkek : k ≠ key m F.KEYS_NODE_KEK_SLOT.addr := ne_key_of_page hkeys
  have hseq : k ≠ key m F.KEYS_PERSIST_SEQ_SEQ.addr := ne_key_of_page hkeys
  unfold State.rebuildKeys; dsimp only
  split
  · rw [State.word_put_other _ _ _ _ hseq, State.word_put_other _ _ _ _ hkek]
    refine (State.word_foldl _ fun t g hg => ?_).trans (State.word_foldl s fun t x _ => ?_)
    · have hgroup : k ≠ key m (F.KEYS_GROUP_SLOT_SLOT.addr + 4 * g) := by
        apply ne_key_of_page
        have := List.mem_range.mp hg
        simp only [F.KEYS_GROUP_SLOT_SLOT]
        omega
      exact State.word_setWord_other t _ hgroup
    · split
      · exact t.word_setKeys m _
      · rw [State.word_event _ hk hm, State.word_irq_of_page _ hk hm 2 hkeys (by decide)]
  · rfl

end

end Sys2Proof.Machine
end

section
/-! SUPPORT. What a regeneration reports (R416): CRYST.ERR and the bit of CRYST_MARGIN. -/

namespace Sys2Proof.Machine

/-- CRYST_MARGIN of mast `m`. -/
def State.crystMargin (s : State) (m : Nat) : Bool := (s.word (key m 0x03C010)).getLsbD 1

/-- What a regeneration writes before it settles the root: the counter, CRYST.ERR, its high-water mark, the state of the helper data, and CRYST_MARGIN
above 12 corrections. -/
def State.regenReported (s : State) (m largest ties bad : Nat) : State :=
  let s1 := (((s.bump m F.CRYST_REGENS).put m F.CRYST_ERR_MAX_BLOCK largest).put m F.CRYST_ERR_TIES ties).raise m F.CRYST_ERR_HWM_HWM largest
  let s2 := (s1.put m F.CRYST_STATUS_HELPER_BAD bad).put m F.CRYST_STATUS_T (s.tamperT m)
  if 12 < largest then s2.irq m 0x03C 1 else s2

/-- A regeneration that yields the root. -/
def State.regenRooted (s : State) (m : Nat) (K : KeyEng) : State :=
  (((s.setKeys m K).put m F.CRYST_STATUS_ROOT_VALID 1).put m F.CRYST_STATUS_FAIL 0).rebuildKeys m

/-- A regeneration that yields none. -/
def State.regenFailed (s : State) (m : Nat) (K : KeyEng) : State :=
  ((((s.setKeys m K).put m F.CRYST_STATUS_ROOT_VALID 0).put m F.CRYST_STATUS_FAIL 1).bump m F.CRYST_FAILS).irq m 0x03C 0

/-- What decoding the 16 blocks of a power-up pattern gives (R414). -/
def regenBlocks (pattern offset : Nat) : List (Option (Nat × Nat)) :=
  (List.range 16).map (fun i => bchDecode ((majority 4080 (pattern ^^^ offset)).1 / 2 ^ (255 * i) % 2 ^ 255))

/-- The largest number of corrections of a block; a block that does not decode counts none. -/
def largestCorrected (blocks : List (Option (Nat × Nat))) : Nat := (blocks.map (fun b => (b.map Prod.snd).getD 0)).foldl max 0

/-- A regeneration reports, and then the root is there or is not. -/
theorem execCrystRegeneration_cases {s : State} {m pattern : Nat} (hm : m < 2) (hfit : s.fitted m = true) (hack : s.waitAck m = false)
    (hret : s.bit m F.CRYST_STATUS_RETIRED = false) :
    ∃ ties bad K, let u := s.regenReported m (largestCorrected (regenBlocks pattern ((s.mast m).keys.helper.getD ⟨0, 0, 0, 0⟩).offset)) ties bad
      execCrystRegeneration m pattern s = .next (u.regenRooted m K) ∨ execCrystRegeneration m pattern s = .next (u.regenFailed m K) := by
  have hgo : ¬(s.fitted m = false ∨ 2 ≤ m ∨ s.waitAck m = true ∨ s.bit m F.CRYST_STATUS_RETIRED = true) := by
    simp [hfit, hack, hret, hm]
  unfold execCrystRegeneration
  rw [if_neg hgo]
  simp only [largestCorrected, regenBlocks, List.foldl_map, State.regenReported, State.regenRooted, State.regenFailed]
  split
  · exact ⟨_, _, _, .inl rfl⟩
  · exact ⟨_, _, _, .inr rfl⟩

theorem key_ne_of_addr_ne {d a b : Nat} (h : a ≠ b) : key d a ≠ key d b := fun he => h (Nat.add_left_cancel he)

section
variable (s : State) {m : Nat}

/-! ## The steps of a regeneration, as CRYST.ERR and CRYST_MARGIN see them -/

theorem State.crystErr_put {f : Fld} (v : Nat) (h : f.addr ≠ F.CRYST_ERR_MAX_BLOCK.addr) :
    (s.put m f v).get m F.CRYST_ERR_MAX_BLOCK = s.get m F.CRYST_ERR_MAX_BLOCK :=
  State.get_put_other _ _ _ _ _ _ (key_ne_of_addr_ne h.symm)

theorem State.crystErr_bump {f : Fld} (h : f.addr ≠ F.CRYST_ERR_MAX_BLOCK.addr) :
    (s.bump m f).get m F.CRYST_ERR_MAX_BLOCK = s.get m F.CRYST_ERR_MAX_BLOCK := s.crystErr_put _ h

theorem State.crystErr_raise {f : Fld} (v : Nat) (h : f.addr ≠ F.CRYST_ERR_MAX_BLOCK.addr) :
    (s.raise m f v).get m F.CRYST_ERR_MAX_BLOCK = s.get m F.CRYST_ERR_MAX_BLOCK := by
  unfold State.raise
  split
  · exact s.crystErr_put v h
  · rfl

/-- An event bit of the crystallizer leaves CRYST.ERR alone. -/
theorem State.crystErr_irq (hm : m < 2) (b : Nat) : (s.irq m 0x03C b).get m F.CRYST_ERR_MAX_BLOCK = s.get m F.CRYST_ERR_MAX_BLOCK :=
  State.get_irq hm (key_ne_of_addr_ne (by decide)) (key_ne_of_addr_ne (by decide))

theorem State.crystMargin_put {f : Fld} (v : Nat) (h : f.addr ≠ 0x03C010) : (s.put m f v).crystMargin m = s.crystMargin m := by
  unfold State.crystMargin
  rw [State.word_put_other _ _ _ _ (key_ne_of_addr_ne h.symm)]

theorem State.crystMargin_bump {f : Fld} (h : f.addr ≠ 0x03C010) : (s.bump m f).crystMargin m = s.crystMargin m := s.crystMargin_put _ h

theorem State.crystMargin_raise {f : Fld} (v : Nat) (h : f.addr ≠ 0x03C010) : (s.raise m f v).crystMargin m = s.crystMargin m := by
  unfold State.raise
  split
  · exact s.crystMargin_put v h
  · rfl

/-- Of the event bits of the crystallizer, bit 1 alone is CRYST_MARGIN. -/
theorem State.crystMargin_irq (hm : m < 2) (b : Nat) : (s.irq m 0x03C b).crystMargin m = (s.crystMargin m || decide (b = 1)) := by
  unfold State.crystMargin
  rw [State.word_irq hm (key_ne_of_addr_ne (by decide)), if_pos rfl, BitVec.getLsbD_or, BitVec.getLsbD_ofNat]
  simp [Nat.testBit_two_pow]

/-! ## The report -/

section
variable (hm : m < 2) (largest ties bad : Nat)
include hm

/-- CRYST.ERR keeps the largest number through the ties, which share its word, and through what follows. -/
theorem State.crystErr_regenReported : (s.regenReported m largest ties bad).get m F.CRYST_ERR_MAX_BLOCK = largest % 2 ^ 8 := by
  have hties (u : State) : (u.put m F.CRYST_ERR_TIES ties).get m F.CRYST_ERR_MAX_BLOCK = u.get m F.CRYST_ERR_MAX_BLOCK :=
    State.get_put_disjoint u m F.CRYST_ERR_TIES F.CRYST_ERR_MAX_BLOCK ties rfl (by decide) (by decide) (by decide)
  have hself (u : State) : (u.put m F.CRYST_ERR_MAX_BLOCK largest).get m F.CRYST_ERR_MAX_BLOCK = largest % 2 ^ 8 :=
    State.get_put_self u m F.CRYST_ERR_MAX_BLOCK largest (by decide) (by decide)
  unfold State.regenReported; dsimp only
  split
  · rw [State.crystErr_irq _ hm]
    simp (disch := decide) only [State.crystErr_put, State.crystErr_raise, hties, hself]
  · simp (disch := decide) only [State.crystErr_put, State.crystErr_raise, hties, hself]

theorem State.crystMargin_regenReported :
    (s.regenReported m largest ties bad).crystMargin m = (s.crystMargin m || decide (12 < largest)) := by
  unfold State.regenReported; dsimp only
  split <;> rename_i hover
  · rw [State.crystMargin_irq _ hm]
    simp (disch := decide) only [State.crystMargin_put, State.crystMargin_raise, State.crystMargin_bump, hover]
  · simp (disch := decide) only [State.crystMargin_put, State.crystMargin_raise, State.crystMargin_bump, hover, decide_false, Bool.or_false]

end

/-! ## What follows the report -/

section
variable (hm : m < 2) (K : KeyEng)
include hm

/-- The root and the rebuilt slots write the status word alone in the crystallizer's page. -/
theorem State.word_regenRooted {k : Nat} (hpage : keyPage k = 0x03C) (hk : k ≠ key m 0x03C400) : (s.regenRooted m K).word k = s.word k := by
  have hfree : keyPage k ∉ reportPages := by rw [hpage]; decide
  have hkeys : keyPage k ≠ 0x038 := by rw [hpage]; decide
  unfold State.regenRooted
  rw [State.word_rebuildKeys _ hfree hm hkeys, State.word_put_other _ _ _ _ hk, State.word_put_other _ _ _ _ hk, State.word_setKeys]

theorem State.crystErr_regenRooted : (s.regenRooted m K).get m F.CRYST_ERR_MAX_BLOCK = s.get m F.CRYST_ERR_MAX_BLOCK := by
  unfold State.get
  rw [State.word_regenRooted s hm K (keyPage_key _ _) (key_ne_of_addr_ne (by decide))]

theorem State.crystMargin_regenRooted : (s.regenRooted m K).crystMargin m = s.crystMargin m := by
  unfold State.crystMargin
  rw [State.word_regenRooted s hm K (keyPage_key _ _) (key_ne_of_addr_ne (by decide))]

theorem State.crystErr_regenFailed : (s.regenFailed m K).get m F.CRYST_ERR_MAX_BLOCK = s.get m F.CRYST_ERR_MAX_BLOCK := by
  unfold State.regenFailed
  rw [State.crystErr_irq _ hm, State.crystErr_bump _ (by decide), State.crystErr_put _ _ (by decide), State.crystErr_put _ _ (by decide)]
  simp [State.get]

theorem State.crystMargin_regenFailed : (s.regenFailed m K).crystMargin m = s.crystMargin m := by
  unfold State.regenFailed
  rw [State.crystMargin_irq _ hm, State.crystMargin_bump _ (by decide), State.crystMargin_put _ _ (by decide),
    State.crystMargin_put _ _ (by decide)]
  simp [State.crystMargin]

end

end

end Sys2Proof.Machine

open Sys2Proof Sys2Proof.Machine

/-- Settles O56: a regeneration reports before it settles the root, and neither outcome touches the report again. -/
theorem regenerationReportsMargin : Obligations.regeneration_reports_margin := by
  unfold Obligations.regeneration_reports_margin
  intro s m pattern hm hfit hack hret
  obtain ⟨ties, bad, K, hrooted | hfailed⟩ := execCrystRegeneration_cases (pattern := pattern) hm hfit hack hret
  · exact ⟨_, hrooted, (State.crystErr_regenRooted _ hm K).trans (s.crystErr_regenReported hm _ ties bad),
      (State.crystMargin_regenRooted _ hm K).trans (s.crystMargin_regenReported hm _ ties bad)⟩
  · exact ⟨_, hfailed, (State.crystErr_regenFailed _ hm K).trans (s.crystErr_regenReported hm _ ties bad),
      (State.crystMargin_regenFailed _ hm K).trans (s.crystMargin_regenReported hm _ ties bad)⟩
end
